-- ==== Sys2Proof/Word.lean ====
section
/-! DEFINITION. The word and byte types of the Skelzel and the plainest arithmetic on them (R2). -/

namespace Sys2Proof

/-- A 64-bit scalar (R12: s0 to s63 hold 64 bits). -/
abbrev Word := BitVec 64

/-- The unit of every memory (R2). -/
abbrev Byte := BitVec 8

/-- `bits w lo n` is the `n`-bit field of `w` whose lowest bit is `lo` (R2). -/
def bits (w lo n : Nat) : Nat := w / 2 ^ lo % 2 ^ n

end Sys2Proof
end

