-- ==== Sys2Proof/Machine/Fp.lean ====
section
/-! DEFINITION. The number formats of R152 to R154 and the one rounding machinery of R157, R158: values are decoded to an
exact sign, magnitude and power of two, every operation is computed exactly and rounded once. Operands and results are
natural numbers below 2 to the width of their format. -/

namespace Sys2Proof.Machine

/-- Bits of MST (R96) an operation raises. -/
abbrev nvFlag : Nat := 1
abbrev ofFlag : Nat := 2
abbrev ufFlag : Nat := 4
abbrev nxFlag : Nat := 8
abbrev dzFlag : Nat := 16
abbrev satFlag : Nat := 32
abbrev hsatFlag : Nat := 64
abbrev isatFlag : Nat := 128

/-- A result with the flags it raises and the cause of the NaN it generates, 0 for none (R89, R155). -/
structure FpRes where
  bits : Nat
  flags : Nat
  nanc : Nat
  deriving DecidableEq, Repr

/-- A result that raises nothing. -/
def fpQuiet (b : Nat) : FpRes := { bits := b, flags := 0, nanc := 0 }

/-- A decoded floating-point value: `fin neg m e` is (−1)^neg × m × 2^e. -/
inductive FpVal where
  | nan (signalling : Bool)
  | inf (neg : Bool)
  | fin (neg : Bool) (m : Nat) (e : Int)
  deriving DecidableEq, Repr

/-- Width in bits of each format code (R36). -/
def fmtWidth (f : Nat) : Nat :=
  match f with
  | 0 => 64
  | 1 => 32
  | 2 => 16
  | 3 => 16
  | 4 => 8
  | 5 => 8
  | 6 => 6
  | 7 => 6
  | 8 => 4
  | 9 => 32
  | 10 => 16
  | 11 => 8
  | 12 => 4
  | 13 => 2
  | 14 => 8
  | _ => 8

/-- Exponent bits of a floating format (R152). -/
def expBits (f : Nat) : Nat :=
  match f with
  | 0 => 11
  | 1 => 8
  | 2 => 8
  | 3 => 5
  | 4 => 4
  | 5 => 5
  | 6 => 3
  | 7 => 2
  | _ => 2

/-- Mantissa bits of a floating format (R152). -/
def manBits (f : Nat) : Nat :=
  match f with
  | 0 => 52
  | 1 => 23
  | 2 => 7
  | 3 => 10
  | 4 => 3
  | 5 => 2
  | 6 => 2
  | 7 => 3
  | _ => 1

/-- Bias of a floating format (R152). -/
def fmtBias (f : Nat) : Nat :=
  match f with
  | 0 => 1023
  | 1 => 127
  | 2 => 127
  | 3 => 15
  | 4 => 7
  | 5 => 15
  | 6 => 3
  | 7 => 1
  | _ => 1

/-- Formats with infinities (R152). -/
def hasInf (f : Nat) : Bool := f ≤ 3 || f == 5

/-- Formats with a NaN (R152). -/
def hasNan (f : Nat) : Bool := f ≤ 5

/-- Code of the largest finite value, sign 0 (R152). -/
def maxFinite (f : Nat) : Nat :=
  if hasInf f then (2 ^ expBits f - 1) * 2 ^ manBits f - 1
  else if f == 4 then 0x7E
  else 2 ^ (expBits f + manBits f) - 1

/-- Place of the sign bit. -/
def signPos (f : Nat) : Nat := expBits f + manBits f

/-- A magnitude code with its sign. -/
def withSign (f : Nat) (neg : Bool) (code : Nat) : Nat := if neg then code + 2 ^ signPos f else code

/-- Code of an infinity. -/
def infCode (f : Nat) (neg : Bool) : Nat := withSign f neg ((2 ^ expBits f - 1) * 2 ^ manBits f)

/-- The value a code stands for (R152). -/
def fpDecode (f x : Nat) : FpVal :=
  let mb := manBits f
  let neg := x / 2 ^ signPos f % 2 == 1
  let ef := x / 2 ^ mb % 2 ^ expBits f
  let mf := x % 2 ^ mb
  if hasInf f && ef == 2 ^ expBits f - 1 then
    if mf == 0 then .inf neg else .nan (mf < 2 ^ (mb - 1))
  else if f == 4 && ef == 15 && mf == 7 then .nan false
  else if ef == 0 then .fin neg mf (1 - (fmtBias f : Int) - mb)
  else .fin neg (2 ^ mb + mf) ((ef : Int) - fmtBias f - mb)

/-- The NaN an operation generates in a format, with its cause (R153). -/
def genNan (f c : Nat) : FpRes :=
  match f with
  | 0 => { bits := 0x7FF8000000000000 + c, flags := 0, nanc := c }
  | 1 => { bits := 0x7FC00000 + c, flags := 0, nanc := c }
  | 2 => { bits := 0x7FC0 + c, flags := 0, nanc := c }
  | 3 => { bits := 0x7E00 + c, flags := 0, nanc := c }
  | 4 => { bits := 0x7F, flags := 0, nanc := c }
  | 5 => { bits := 0x7E, flags := 0, nanc := c }
  | 15 => { bits := 0xFF, flags := 0, nanc := c }
  | _ => { bits := 0, flags := nvFlag, nanc := 6 }

/-- The generated NaN of a cause that sets NV (R155). -/
def genInvalid (f c : Nat) : FpRes :=
  let r := genNan f c
  { r with flags := r.flags ||| nvFlag }

/-- The generated NaN for a NaN operand: NV when one is signalling (R155, first row). -/
def genFromNan (f : Nat) (signalling : Bool) : FpRes :=
  if signalling then genInvalid f 1 else genNan f 1

/-- Bit length. -/
def bitLen (m : Nat) : Nat := if m = 0 then 0 else Nat.log2 m + 1

/-- `m` shifted left by an integer amount, right shifts flooring. -/
def shiftI (m : Nat) (k : Int) : Nat :=
  match k with
  | .ofNat n => m * 2 ^ n
  | .negSucc n => m / 2 ^ (n + 1)

/-- Rounds m × 2^e (plus a positive tail below one unit of m when `sticky`) to a multiple of 2^q under a mode of R157,
with the random value `u` for mode 5 (R158): the multiple, and whether it is inexact. Beyond the largest finite value it goes on
in the same steps. DESIGN CHOICE (log entry 58). -/
def roundAt (neg : Bool) (m : Nat) (e q : Int) (mode : Nat) (sticky : Bool) (u : Nat) : Nat × Bool :=
  if e ≥ q then (shiftI m (e - q), sticky)
  else
    let sh := (q - e).toNat
    let r := m / 2 ^ sh
    let rem := m % 2 ^ sh
    let half := 2 ^ (sh - 1)
    if rem = 0 && !sticky then (r, false)
    else
      let up :=
        match mode with
        | 0 => half < rem || (rem == half && (sticky || r % 2 == 1))
        | 1 => false
        | 2 => neg
        | 3 => !neg
        | 4 => half ≤ rem
        | _ => u < rem * 2 ^ 32 / 2 ^ sh
      (if up then r + 1 else r, true)

/-- A rounded magnitude: its code, whether it is inexact, whether it overflows, whether it is tiny after rounding. -/
structure Rounded where
  code : Nat
  inexact : Bool
  outside : Bool
  tiny : Bool
  deriving DecidableEq, Repr

/-- Rounds a non-zero magnitude to a floating format (R157). Tininess is judged after rounding with an unbounded
exponent, as IEEE 754-2019 defines it (log entry 10). -/
def roundMag (f : Nat) (neg : Bool) (m : Nat) (e : Int) (mode : Nat) (sticky : Bool) (u : Nat) : Rounded :=
  let mb := manBits f
  let emin : Int := 1 - (fmtBias f : Int)
  let top : Int := e + bitLen m - 1
  let q : Int := (if top < emin then emin else top) - mb
  let r := roundAt neg m e q mode sticky u
  let code := (q - (emin - mb)).toNat * 2 ^ mb + r.1
  let r2 := roundAt neg m e (top - mb) mode sticky u
  { code := code, inexact := r.2, outside := maxFinite f < code,
    tiny := top < emin && (top + (if 2 ^ (mb + 1) ≤ r2.1 then 1 else 0) < emin) }

/-- What a finite overflow gives (R157, R169): infinity or the largest finite value by the direction of the mode,
saturation, and the formats without an infinity. -/
def overflowRes (f : Nat) (neg : Bool) (mode : Nat) (sat : Bool) : FpRes :=
  let big := withSign f neg (maxFinite f)
  if sat || !hasNan f then { bits := big, flags := ofFlag ||| nxFlag ||| satFlag, nanc := 0 }
  else if mode == 1 || (mode == 2 && !neg) || (mode == 3 && neg) then
    { bits := big, flags := ofFlag ||| nxFlag, nanc := 0 }
  else if f == 4 then { bits := 0x7F, flags := ofFlag ||| nxFlag, nanc := 6 }
  else { bits := infCode f neg, flags := ofFlag ||| nxFlag, nanc := 0 }

/-- Rounds an exact magnitude once into a format, with the flags of R89 and R156. A zero magnitude keeps its sign.
DEDUCED (log entry 10). -/
def fpRound (f : Nat) (neg : Bool) (m : Nat) (e : Int) (mode : Nat) (sat sticky : Bool) (u : Nat) : FpRes :=
  if m = 0 then fpQuiet (withSign f neg 0)
  else
    let r := roundMag f neg m e mode sticky u
    if r.outside then overflowRes f neg mode sat
    else
      { bits := withSign f neg r.code,
        flags := if r.inexact then (if r.tiny then nxFlag ||| ufFlag else nxFlag) else 0, nanc := 0 }

/-- Whether a decoded value is a NaN. -/
def FpVal.isNan : FpVal → Bool
  | .nan _ => true
  | _ => false

/-- Whether a decoded value is a signalling NaN. -/
def FpVal.isSnan : FpVal → Bool
  | .nan s => s
  | _ => false

/-- Flips the sign of a decoded value. -/
def FpVal.negate : FpVal → FpVal
  | .nan s => .nan s
  | .inf n => .inf (!n)
  | .fin n m e => .fin (!n) m e

/-- Flips the sign when asked. -/
def FpVal.negateIf (b : Bool) (v : FpVal) : FpVal := if b then v.negate else v

/-- The exact product of two values that are not NaNs; `none` for 0 × ∞. -/
def exactMul : FpVal → FpVal → Option FpVal
  | .fin n1 m1 e1, .fin n2 m2 e2 => some (.fin (n1 != n2) (m1 * m2) (e1 + e2))
  | .inf n1, .inf n2 => some (.inf (n1 != n2))
  | .inf n1, .fin n2 m2 _ => if m2 = 0 then none else some (.inf (n1 != n2))
  | .fin n1 m1 _, .inf n2 => if m1 = 0 then none else some (.inf (n1 != n2))
  | .nan s, _ => some (.nan s)
  | _, .nan s => some (.nan s)

/-- The signed integer of a finite value at exponent `e0`, which is at most its own. -/
def scaled (neg : Bool) (m : Nat) (e e0 : Int) : Int :=
  let v : Int := (m * 2 ^ (e - e0).toNat : Nat)
  if neg then -v else v

/-- The exact sum of two finite values: sign, magnitude and exponent; an exact zero sum has the sign of R157. -/
def exactSum (n1 : Bool) (m1 : Nat) (e1 : Int) (n2 : Bool) (m2 : Nat) (e2 : Int) (mode : Nat) : Bool × Nat × Int :=
  let e0 := min e1 e2
  let v := scaled n1 m1 e1 e0 + scaled n2 m2 e2 e0
  if v = 0 then (if m1 = 0 && m2 = 0 && n1 == n2 then n1 else mode == 2, 0, e0)
  else (decide (v < 0), v.natAbs, e0)

/-- Rounded sum of two decoded values (R89, R155, R157). -/
def fpAddVal (f : Nat) (a b : FpVal) (mode u : Nat) : FpRes :=
  match a, b with
  | .nan s, y => genFromNan f (s || y.isSnan)
  | _, .nan s => genFromNan f s
  | .inf n1, .inf n2 => if n1 == n2 then fpQuiet (infCode f n1) else genInvalid f 3
  | .inf n, .fin _ _ _ => fpQuiet (infCode f n)
  | .fin _ _ _, .inf n => fpQuiet (infCode f n)
  | .fin n1 m1 e1, .fin n2 m2 e2 =>
    let r := exactSum n1 m1 e1 n2 m2 e2 mode
    fpRound f r.1 r.2.1 r.2.2 mode false false u

/-- FADD and FSUB in a format (R88, R161). -/
def fpAdd (f a b mode u : Nat) : FpRes := fpAddVal f (fpDecode f a) (fpDecode f b) mode u

/-- a − b, rounded once. -/
def fpSub (f a b mode u : Nat) : FpRes := fpAddVal f (fpDecode f a) (fpDecode f b).negate mode u

/-- a × b, rounded once. -/
def fpMul (f a b mode u : Nat) : FpRes :=
  let x := fpDecode f a
  let y := fpDecode f b
  if x.isNan || y.isNan then genFromNan f (x.isSnan || y.isSnan)
  else
    match exactMul x y with
    | none => genInvalid f 4
    | some (.inf n) => fpQuiet (infCode f n)
    | some (.fin n m e) => fpRound f n m e mode false false u
    | some (.nan s) => genFromNan f s

/-- Quotient bits that leave at least 40 bits below the mantissa of any format. -/
def ratioBits (n d : Nat) : Nat := 100 + bitLen d - bitLen n

/-- n ÷ d × 2^e rounded once. -/
def fpRatio (f : Nat) (neg : Bool) (n d : Nat) (e : Int) (mode u : Nat) : FpRes :=
  let k := ratioBits n d
  fpRound f neg (n * 2 ^ k / d) (e - k) mode false (n * 2 ^ k % d != 0) u

/-- a ÷ b, rounded once (R89, R161). -/
def fpDiv (f a b mode u : Nat) : FpRes :=
  match fpDecode f a, fpDecode f b with
  | .nan s, y => genFromNan f (s || y.isSnan)
  | _, .nan s => genFromNan f s
  | .inf _, .inf _ => genInvalid f 4
  | .inf n1, .fin n2 _ _ => fpQuiet (infCode f (n1 != n2))
  | .fin n1 _ _, .inf n2 => fpQuiet (withSign f (n1 != n2) 0)
  | .fin n1 m1 e1, .fin n2 m2 e2 =>
    if m2 = 0 then
      if m1 = 0 then genInvalid f 4
      else { bits := infCode f (n1 != n2), flags := dzFlag, nanc := 0 }
    else if m1 = 0 then fpQuiet (withSign f (n1 != n2) 0)
    else fpRatio f (n1 != n2) m1 m2 (e1 - e2) mode u

/-- Integer square root, from bit `k` down. -/
def isqrtFrom (n : Nat) : Nat → Nat → Nat
  | 0, r => if (r + 1) * (r + 1) ≤ n then r + 1 else r
  | k + 1, r => isqrtFrom n k (if (r + 2 ^ (k + 1)) * (r + 2 ^ (k + 1)) ≤ n then r + 2 ^ (k + 1) else r)

/-- The floor of the square root. -/
def isqrt (n : Nat) : Nat := if n = 0 then 0 else isqrtFrom n (bitLen n / 2 + 1) 0

/-- √a, rounded once; √−0 = −0 (R88, R161). -/
def fpSqrt (f a mode u : Nat) : FpRes :=
  match fpDecode f a with
  | .nan s => genFromNan f s
  | .inf false => fpQuiet (infCode f false)
  | .inf true => genInvalid f 5
  | .fin n m e =>
    if m = 0 then fpQuiet (withSign f n 0)
    else if n then genInvalid f 5
    else
      let e' : Int := if e % 2 = 0 then e - 220 else e - 221
      let m' := m * 2 ^ (e - e').toNat
      let r := isqrt m'
      fpRound f false r (e' / 2) mode false (r * r != m') u

/-- 1 ÷ √a, rounded once (R161, R162). -/
def fpRsqrt (f a mode u : Nat) : FpRes :=
  match fpDecode f a with
  | .nan s => genFromNan f s
  | .inf false => fpQuiet 0
  | .inf true => genInvalid f 5
  | .fin n m e =>
    if m = 0 then { bits := infCode f n, flags := dzFlag, nanc := 0 }
    else if n then genInvalid f 5
    else
      -- an even exponent, then √(2^(2k) ÷ m) × 2^(−k − e ÷ 2)
      let m' := if e % 2 = 0 then m else 2 * m
      let e' : Int := if e % 2 = 0 then e else e - 1
      let k := 120 + bitLen m'
      let r := isqrt (2 ^ (2 * k) / m')
      fpRound f false r (-(k : Int) - e' / 2) mode false (r * r * m' != 2 ^ (2 * k)) u

/-- 1 ÷ a, rounded once (R161, R162). -/
def fpRecip (f a mode u : Nat) : FpRes :=
  match fpDecode f a with
  | .nan s => genFromNan f s
  | .inf n => fpQuiet (withSign f n 0)
  | .fin n m e =>
    if m = 0 then { bits := infCode f n, flags := dzFlag, nanc := 0 }
    else fpRatio f n 1 m (-e) mode u

/-- n1 × (a × b) + n2 × c with one rounding (R92, R163). Cause 4 is taken for 0 × ∞ even when the addend is a NaN. -/
def fpFma (f : Nat) (negP negC : Bool) (a b c mode u : Nat) : FpRes :=
  let x := fpDecode f a
  let y := fpDecode f b
  let z := (fpDecode f c).negateIf negC
  let nanIn := x.isSnan || y.isSnan || z.isSnan
  if x.isNan || y.isNan then genFromNan f nanIn
  else
    match exactMul x y with
    | none => genInvalid f 4
    | some p => if z.isNan then genFromNan f nanIn else fpAddVal f (p.negateIf negP) z mode u

/-- Order of two values that are not NaNs: whether a < b, with −0 = +0. -/
def fpLt : FpVal → FpVal → Bool
  | .inf n1, .inf n2 => n1 && !n2
  | .inf n, .fin _ _ _ => n
  | .fin _ _ _, .inf n => !n
  | .fin n1 m1 e1, .fin n2 m2 e2 =>
    let e0 := min e1 e2
    decide (scaled n1 m1 e1 e0 < scaled n2 m2 e2 e0)
  | _, _ => false

/-- Equality of two values that are not NaNs, with −0 = +0. -/
def fpEq : FpVal → FpVal → Bool
  | .inf n1, .inf n2 => n1 == n2
  | .fin n1 m1 e1, .fin n2 m2 e2 =>
    let e0 := min e1 e2
    decide (scaled n1 m1 e1 e0 = scaled n2 m2 e2 e0)
  | _, _ => false

/-- Sign of a decoded value. -/
def FpVal.sign : FpVal → Bool
  | .nan _ => false
  | .inf n => n
  | .fin n _ _ => n

/-- minimumNumber and maximumNumber with −0 below +0 (R90): one NaN gives the other operand, two give cause 1. -/
def fpMinMax (f a b : Nat) (max : Bool) : FpRes :=
  let x := fpDecode f a
  let y := fpDecode f b
  let fl := if x.isSnan || y.isSnan then nvFlag else 0
  if x.isNan && y.isNan then { genNan f 1 with flags := fl }
  else if x.isNan then { bits := b, flags := fl, nanc := 0 }
  else if y.isNan then { bits := a, flags := fl, nanc := 0 }
  else
    let aBelow := fpLt x y || (fpEq x y && x.sign && !y.sign)
    fpQuiet (if aBelow then (if max then b else a) else if fpLt y x || (fpEq x y && y.sign && !x.sign) then
      (if max then a else b) else a)

/-- Comparison conditions of VFCMP (R164): 0 EQ, 1 NE, 2 LT, 3 LE, 4 GT, 5 GE, 6 UNORD, 7 ORD; the result and NV. -/
def fpCompare (f cond a b : Nat) : Bool × Nat :=
  let x := fpDecode f a
  let y := fpDecode f b
  let nan := x.isNan || y.isNan
  let quietOnly := cond == 0 || cond == 1 || cond == 6 || cond == 7
  let fl := if (if quietOnly then x.isSnan || y.isSnan else nan) then nvFlag else 0
  let r :=
    match cond with
    | 0 => !nan && fpEq x y
    | 1 => nan || !fpEq x y
    | 2 => !nan && fpLt x y
    | 3 => !nan && (fpLt x y || fpEq x y)
    | 4 => !nan && fpLt y x
    | 5 => !nan && (fpLt y x || fpEq x y)
    | 6 => nan
    | _ => !nan
  (r, fl)

/-- The class byte of R90. -/
def fpClass (f x : Nat) : Nat :=
  let neg := x / 2 ^ signPos f % 2
  match fpDecode f x with
  | .nan s => neg * 128 + (if s then 32 else 16)
  | .inf _ => neg * 128 + 8
  | .fin _ m _ =>
    neg * 128 + 64 +
      (if m = 0 then 1 else if x / 2 ^ manBits f % 2 ^ expBits f = 0 then 2 else 4)

/-- Whether every finite value of float format `src` is a value of float format `dst` (R169, a widening). -/
def widens (dst src : Nat) : Bool :=
  manBits src ≤ manBits dst &&
  decide ((1 : Int) - fmtBias dst - manBits dst ≤ 1 - (fmtBias src : Int) - manBits src) &&
  decide ((maxFinite src / 2 ^ manBits src : Nat) - (fmtBias src : Int) <
    (maxFinite dst / 2 ^ manBits dst : Nat) - (fmtBias dst : Int) ∨
    ((maxFinite src / 2 ^ manBits src : Nat) - (fmtBias src : Int) =
      (maxFinite dst / 2 ^ manBits dst : Nat) - (fmtBias dst : Int) ∧
     (maxFinite src % 2 ^ manBits src) * 2 ^ (manBits dst - manBits src) ≤ maxFinite dst % 2 ^ manBits dst))

/-- R169: a decoded value into a floating format. `sat` is the saturate bit, without effect on a widening.
DEDUCED (log entry 22). -/
def fpConvert (dst : Nat) (v : FpVal) (mode : Nat) (sat : Bool) (u : Nat) : FpRes :=
  match v with
  | .nan s =>
    let r := genNan dst 1
    if s then { r with flags := r.flags ||| nvFlag } else r
  | .inf n =>
    if !hasNan dst then { bits := withSign dst n (maxFinite dst), flags := satFlag, nanc := 0 }
    else if sat then { bits := withSign dst n (maxFinite dst), flags := satFlag, nanc := 0 }
    else if dst == 4 then { bits := 0x7F, flags := nvFlag, nanc := 6 }
    else fpQuiet (infCode dst n)
  | .fin n m e => fpRound dst n m e mode sat false u

/-- VCVT between floating formats (R169). -/
def fpToFp (dst src x mode : Nat) (sat : Bool) (u : Nat) : FpRes :=
  fpConvert dst (fpDecode src x) mode (sat && !widens dst src) u

/-- A finite value rounded to an integer, and whether it is inexact (R91, R170). DEDUCED (log entry 22). -/
def fpToInt (neg : Bool) (m : Nat) (e : Int) (mode u : Nat) : Int × Bool :=
  let r := roundAt neg m e 0 mode false u
  (if neg then -(r.1 : Int) else r.1, r.2)

/-- Low `w` bits of an integer in two's complement. -/
def intBits (w : Nat) (i : Int) : Nat := (i % (2 ^ w : Nat)).toNat

/-- A `w`-bit field read as a two's complement integer. -/
def signedOf (w x : Nat) : Int := if x / 2 ^ (w - 1) % 2 = 1 then (x % 2 ^ w : Nat) - (2 ^ w : Nat) else (x % 2 ^ w : Nat)

/-- Smallest value of an integer format (R154). -/
def intMin (f : Nat) : Int :=
  if f = 14 then 0 else if f = 13 then -1 else -((2 ^ (fmtWidth f - 1) : Nat) : Int)

/-- Largest value of an integer format (R154). -/
def intMax (f : Nat) : Int :=
  if f = 14 then 255 else if f = 13 then 1 else ((2 ^ (fmtWidth f - 1) - 1 : Nat) : Int)

/-- R170: a decoded value into an integer format of width `w` from `lo` to `hi`; an unsigned one (`lo` = 0) takes any
value below 0 as below its range. A NaN gives +0 with NV and NANC 6 (R153). -/
def fpToIntRes (w : Nat) (lo hi : Int) (v : FpVal) (mode : Nat) (sat : Bool) (u : Nat) : FpRes :=
  let out := if sat then satFlag else nvFlag
  match v with
  | .nan _ => { bits := 0, flags := nvFlag, nanc := 6 }
  | .inf n => { bits := intBits w (if n then lo else hi), flags := out, nanc := 0 }
  | .fin n m e =>
    let r := fpToInt n m e mode u
    if hi < r.1 then { bits := intBits w hi, flags := out, nanc := 0 }
    else if r.1 < lo || (lo = 0 && n && m != 0) then
      { bits := intBits w lo, flags := out, nanc := 0 }
    else { bits := intBits w r.1, flags := if r.2 then nxFlag else 0, nanc := 0 }

/-- An exact integer rounded into a floating format (R88, R168). -/
def intToFp (f : Nat) (i : Int) (mode u : Nat) : FpRes :=
  fpRound f (decide (i < 0)) i.natAbs 0 mode false false u

/-- The integer an element of an integer format or T2 stands for, and NV for the T2 code 0b10 (R154). -/
def intValue (f x : Nat) : Int × Nat :=
  if f = 14 then ((x % 256 : Nat), 0)
  else if f = 13 then (if x % 4 = 1 then 1 else if x % 4 = 3 then -1 else 0, if x % 4 = 2 then nvFlag else 0)
  else (signedOf (fmtWidth f) x, 0)

/-- R171: an integer into an integer format or T2; a clamp sets SAT alone. DESIGN CHOICE (log entry 58). -/
def intToInt (dst : Nat) (i : Int) (sat : Bool) : FpRes :=
  if sat || dst = 13 then
    if intMax dst < i then { bits := intBits (fmtWidth dst) (intMax dst), flags := satFlag, nanc := 0 }
    else if i < intMin dst then { bits := intBits (fmtWidth dst) (intMin dst), flags := satFlag, nanc := 0 }
    else fpQuiet (intBits (fmtWidth dst) i)
  else fpQuiet (intBits (fmtWidth dst) i)

/-- floor(log2) of a non-zero magnitude. -/
def floorLog2 (m : Nat) (e : Int) : Int := e + bitLen m - 1

/-- R172: FP32 or BF16 into UE8M0; a clamped power of two sets SAT alone. DESIGN CHOICE (log entry 58). -/
def fpToScale (v : FpVal) : FpRes :=
  match v with
  | .nan s => { bits := 0xFF, flags := if s then nvFlag else 0, nanc := 1 }
  | .inf _ => { bits := 0xFF, flags := nvFlag, nanc := 6 }
  | .fin _ m e =>
    if m = 0 then { bits := 0, flags := nxFlag, nanc := 0 }
    else
      let l := floorLog2 m e + 127
      let nx := if m = 2 ^ (bitLen m - 1) then 0 else nxFlag
      if l < 0 then { bits := 0, flags := nx ||| satFlag, nanc := 0 }
      else if 254 < l then { bits := 254, flags := nx ||| satFlag, nanc := 0 }
      else { bits := l.toNat, flags := nx, nanc := 0 }

/-- R168: UE8M0 into FP64, FP32 or BF16. -/
def scaleToFp (dst x : Nat) : FpRes :=
  if x % 256 = 255 then genInvalid dst 2 else fpRound dst false 1 ((x % 256 : Nat) - 127) 0 false false 0

/-- Sum of the series Σ y^(2k+1) ÷ (2k+1) of atanh, in units of 2^−p, from term `k` with power `t`. -/
def atanhTerms (p y2 : Nat) : Nat → Nat → Nat → Nat
  | 0, _, _ => 0
  | fuel + 1, k, t => if t = 0 then 0 else t / (2 * k + 1) + atanhTerms p y2 fuel (k + 1) (t * y2 / 2 ^ p)

/-- atanh(n ÷ d) in units of 2^−p, for n ÷ d at most 1/3, below the exact value by at most 2p units. -/
def atanhFix (p n d : Nat) : Nat :=
  let y := n * 2 ^ p / d
  atanhTerms p (y * y / 2 ^ p) p 0 y

/-- ln 2 = 2 × atanh(1/3), in units of 2^−p. -/
def ln2Fix (p : Nat) : Nat := 2 * atanhFix p 1 3

/-- Sum of the exponential series from term `k` with value `t`, in units of 2^−p. -/
def expTerms (p y : Nat) : Nat → Nat → Nat → Nat
  | 0, _, _ => 0
  | fuel + 1, k, t => if t = 0 then 0 else t + expTerms p y fuel (k + 1) (t * y / 2 ^ p / (k + 1))

/-- 2^(n ÷ 2^s) for 0 ≤ n < 2^s, in units of 2^−p. -/
def exp2Fix (p n s : Nat) : Nat :=
  let y := n * ln2Fix p / 2 ^ s
  expTerms p y p 0 (2 ^ p)

/-- log2 of m × 2^−(bitLen m − 1), which lies from 1 to below 2, in units of 2^−p. -/
def log2Fix (p m : Nat) : Nat :=
  let one := 2 ^ (bitLen m - 1)
  2 * atanhFix p (m - one) (m + one) * 2 ^ p / ln2Fix p

/-- Slack, in units of 2^−p, that encloses the truncation errors of the series at precision p. -/
def seriesErr (p : Nat) : Nat := 64 * p

/-- The correctly rounded result from enclosures at rising precision: `enc p` is a value in units of 2^−p and the
result is accepted when both ends of the enclosure round alike (R161: VFEXP2 and VFLOG2 round by RNE). -/
def roundEnclosed (f : Nat) (neg : Bool) (shift : Int) (enc : Nat → Nat) (u : Nat) : List Nat → FpRes
  | [] => fpRound f neg (enc 1600) (shift - 1600) 0 false true u
  | p :: ps =>
    let x := enc p
    let lo := fpRound f neg (x - seriesErr p) (shift - p) 0 false true u
    let hi := fpRound f neg (x + seriesErr p) (shift - p) 0 false true u
    if lo = hi then lo else roundEnclosed f neg shift enc u ps

/-- 2^a, rounded by RNE (R161, R162). -/
def fpExp2 (f a : Nat) : FpRes :=
  match fpDecode f a with
  | .nan s => genFromNan f s
  | .inf false => fpQuiet (infCode f false)
  | .inf true => fpQuiet 0
  | .fin n m e =>
    if m = 0 then fpRound f false 1 0 0 false false 0
    else if 12 ≤ e + bitLen m then
      -- |a| ≥ 2^11: beyond every format's range
      if n then fpRound f false 1 (-4000) 0 false false 0 else fpRound f false 1 4000 0 false false 0
    else
      match e with
      | .ofNat k =>
        let i : Int := (m * 2 ^ k : Nat)
        fpRound f false 1 (if n then -i else i) 0 false false 0
      | .negSucc k =>
        let s := k + 1
        let v : Int := if n then -(m : Int) else m
        let i := v / (2 ^ s : Nat)
        let frac := (v % (2 ^ s : Nat)).toNat
        if frac = 0 then fpRound f false 1 i 0 false false 0
        else roundEnclosed f false i (fun p => exp2Fix p frac s) 0 [192, 512, 1400]

/-- log2 a, rounded by RNE (R161, R162). -/
def fpLog2 (f a : Nat) : FpRes :=
  match fpDecode f a with
  | .nan s => genFromNan f s
  | .inf false => fpQuiet (infCode f false)
  | .inf true => genInvalid f 5
  | .fin n m e =>
    if m = 0 then { bits := infCode f true, flags := dzFlag, nanc := 0 }
    else if n then genInvalid f 5
    else
      let l := floorLog2 m e
      if m = 2 ^ (bitLen m - 1) then intToFp f l 0 0
      else
        -- l + fraction, negative when l < 0
        let neg := l < 0
        let enc := fun p => (l * (2 ^ p : Nat) + (log2Fix p m : Nat)).natAbs
        roundEnclosed f neg 0 enc 0 [192, 512, 1400]

end Sys2Proof.Machine
end

