-- ==== Sys2Proof/Config.lean ====
section
/-! DEFINITION. What the package fixes (R1, R12, R27, R181, R333) and the free values: opaque functions without a body,
applied to the plain counter `State.fresh` (or to the bytes they act on) wherever the spec leaves a value open. -/

namespace Sys2Proof.Config

/-- Bays of the package (R12). -/
abbrev numBays : Nat := 320

/-- Bays of a beam (R12). -/
abbrev baysPerBeam : Nat := 40

/-- Bytes of one vector register in one bay, VLENB (R12, R95). -/
abbrev vlenb : Nat := 2048

/-- Bits of one vector register in one bay. -/
abbrev vregBits : Nat := 16384

/-- Bits of the vector file of one bay: 32 registers (R106). -/
abbrev vfileBits : Nat := 524288

/-- Bits of one mask register in one bay (R109). -/
abbrev maskBits : Nat := 8192

/-- Bits of the mask file of one bay: m0 to m7. -/
abbrev mfileBits : Nat := 65536

/-- Bits of one jig slot's data, 128 KiB (R249). -/
abbrev slotBits : Nat := 1048576

/-- Bits of one jig slot's sideband, 256 × 32 bytes (R249). -/
abbrev sideBits : Nat := 65536

/-- Bits of one accumulator tile, 256 × 256 words of 32 bits (R249). -/
abbrev tileBits : Nat := 2097152

/-- Bytes of one line (R12). -/
abbrev lineBytes : Nat := 128

/-- Entries of a bay's side log (R213). -/
abbrev slogEntries : Nat := 128

/-- Units of a slack region's budget (R289). -/
abbrev slackUnits : Nat := 1048576

/-- FREE VALUE: the n-th choice the spec leaves open to the hardware (R85, R102, R104, R132, R309, R388, R390).
DESIGN CHOICE (log entry 4). -/
opaque free : Nat → Nat

/-- FREE VALUE: nanoseconds that pass before the n-th read of a clock (R95: TIME never goes backwards). -/
opaque elapsed : Nat → Nat

/-- FREE VALUE: core cycles that pass before the n-th read of CYCLE or ACYC (R95, R430). -/
opaque cycles : Nat → Nat

/-- FREE VALUE: the contents of a byte the spec calls unspecified (R415, R433), by its address and the choice number.
DESIGN CHOICE (log entry 48). -/
opaque freeByte : Nat → Nat → Byte

/-- FREE VALUE: the attestation public key that a certificate chain to the Kufold root certifies, if it does (R424).
DESIGN CHOICE (log entry 11). -/
opaque chainKey : List Byte → Option (List Byte)

/-- FREE VALUE: a wing's policy block (R421), whose contents the spec does not give. DESIGN CHOICE (log entry 11). -/
opaque policy : Nat → List Byte

/-- FREE VALUE: the attested public key of a peer package (R419). DESIGN CHOICE (log entry 11). -/
opaque peerKey : Nat → List Byte

/-- FREE VALUE: the n-th string of Heartwood's random generator, with its length in bytes (R422): data keys, ephemeral keys,
nonces and the secret numbers of signatures.
DESIGN CHOICE (log entry 11). -/
opaque random : Nat → Nat → List Byte

/-- FREE VALUE: the codes of kind and phase in section 7 of the RESYNC summary (R427), which the spec does not give.
DEDUCED (log entry 46). -/
opaque recordCode : Nat → Nat

/-- FREE VALUE: the bytes that the n-th save of a strand writes to its save area, by their offsets (R368, R369): the spec gives
the area no layout. DESIGN CHOICE (log entry 18). -/
opaque savedBytes : Nat → List (Nat × Byte)

/-- FREE VALUE: how many of the writes that a line of HBM has taken had reached the HBM itself at the n-th reset, by reset and
line (R433). DESIGN CHOICE (log entry 48). -/
opaque writtenBack : Nat → Nat → Nat

/-- FREE VALUE: the second-tier ranges the host has assigned as pooled at its n-th setting through the physical function, as
first address and length (R404), whose form the spec does not give. DESIGN CHOICE (log entry 47). -/
opaque pooledRanges : Nat → List (Nat × Nat)

/-- FREE VALUE: the demand of a bay at the n-th grant, in proportion to which its beam divides the grant (R429).
DESIGN CHOICE (log entry 8). -/
opaque demand : Nat → Nat → Nat

/-- FREE VALUE: what unspecified storage holds after the n-th reset, as bytes by address (R433).
DESIGN CHOICE (log entry 48). -/
opaque resetBytes : Nat → List (Nat × Byte)

end Sys2Proof.Config
end

