-- ==== Sys2Proof/Syntax.lean ====
section
/-! DEFINITION. The steps of the Skelzel, one constructor per row of spec/opcode_table.json and in its order.

An instruction word's constructor carries the word's fields by the table's names, from the highest field down
(`d` destination, `a`, `b`, `c` sources, `i` immediate, `m` explicit mask, `r` request type, `n` non-temporal bit,
`w` width code, `x` index or fibre operand, `s` scalar register). A row of the table without an encoding is an
event of a unit or of an outside party (a message of R294, a Foreman action, a host write): its constructor carries
what the event names as plain numbers, and the model executes it from `State.agenda`. -/

namespace Sys2Proof

/-- One step of the machine: an instruction of R43 and R44, or an event of the table. -/
inductive Instr where
  /-- ADD (R73): Writes the 64-bit wrapping sum of two scalar registers. -/
  | add (b a d : BitVec 6)
  /-- SUB (R73): Writes the 64-bit wrapping difference of two scalar registers. -/
  | sub (b a d : BitVec 6)
  /-- AND (R73): Writes the bitwise AND of two scalar registers. -/
  | and (b a d : BitVec 6)
  /-- OR (R73): Writes the bitwise OR of two scalar registers. -/
  | or (b a d : BitVec 6)
  /-- XOR (R73): Writes the bitwise XOR of two scalar registers. -/
  | xor (b a d : BitVec 6)
  /-- SLL (R73): Shifts a scalar register left by the low six bits of another. -/
  | sll (b a d : BitVec 6)
  /-- SRL (R73): Shifts a scalar register right logically. -/
  | srl (b a d : BitVec 6)
  /-- SRA (R73): Shifts a scalar register right arithmetically. -/
  | sra (b a d : BitVec 6)
  /-- SLT (R73): Writes 1 when the first operand is below the second, signed. -/
  | slt (b a d : BitVec 6)
  /-- SLTU (R73): Writes 1 when the first operand is below the second, unsigned. -/
  | sltu (b a d : BitVec 6)
  /-- MIN (R73): Writes the signed minimum of two scalar registers. -/
  | min (b a d : BitVec 6)
  /-- MAX (R73): Writes the signed maximum of two scalar registers. -/
  | max (b a d : BitVec 6)
  /-- MINU (R73): Writes the unsigned minimum of two scalar registers. -/
  | minu (b a d : BitVec 6)
  /-- MAXU (R73): Writes the unsigned maximum of two scalar registers. -/
  | maxu (b a d : BitVec 6)
  /-- MUL (R73): Writes the low 64 bits of the product. -/
  | mul (b a d : BitVec 6)
  /-- MULH (R73): Writes the high 64 bits of the signed product. -/
  | mulh (b a d : BitVec 6)
  /-- MULHU (R73): Writes the high 64 bits of the unsigned product. -/
  | mulhu (b a d : BitVec 6)
  /-- DIV (R74): Writes the signed quotient, with fixed results for zero divisors and overflow. -/
  | div (b a d : BitVec 6)
  /-- DIVU (R74): Writes the unsigned quotient, all ones for a zero divisor. -/
  | divu (b a d : BitVec 6)
  /-- REM (R74): Writes the signed remainder with the dividend's sign. -/
  | rem (b a d : BitVec 6)
  /-- REMU (R74): Writes the unsigned remainder. -/
  | remu (b a d : BitVec 6)
  /-- CLZ (R73): Counts the leading zero bits of a scalar register. -/
  | clz (a d : BitVec 6)
  /-- CTZ (R73): Counts the trailing zero bits of a scalar register. -/
  | ctz (a d : BitVec 6)
  /-- POPC (R73): Counts the one bits of a scalar register. -/
  | popc (a d : BitVec 6)
  /-- SEL (R73): Writes s[sb] to sd when s[sa] is non-zero, else leaves sd. -/
  | sel (b a d : BitVec 6)
  /-- ADDI (R76): Adds a sign-extended 13-bit immediate. -/
  | addi (i : BitVec 13) (a d : BitVec 6)
  /-- ANDI (R76): ANDs with a sign-extended immediate. -/
  | andi (i : BitVec 13) (a d : BitVec 6)
  /-- ORI (R76): ORs with a sign-extended immediate. -/
  | ori (i : BitVec 13) (a d : BitVec 6)
  /-- XORI (R76): XORs with a sign-extended immediate. -/
  | xori (i : BitVec 13) (a d : BitVec 6)
  /-- SLTI (R76): Signed compare with an immediate. -/
  | slti (i : BitVec 13) (a d : BitVec 6)
  /-- SLTIU (R76): Unsigned compare with a sign-extended immediate. -/
  | sltiu (i : BitVec 13) (a d : BitVec 6)
  /-- SLLI (R77): Shifts left by an immediate amount. -/
  | slli (n a d : BitVec 6)
  /-- SRLI (R77): Shifts right logically by an immediate amount. -/
  | srli (n a d : BitVec 6)
  /-- SRAI (R77): Shifts right arithmetically by an immediate amount. -/
  | srai (n a d : BitVec 6)
  /-- LUI (R78): Writes the immediate placed at bits 31:13, sign-extended. -/
  | lui (i : BitVec 19) (d : BitVec 6)
  /-- AUIPC (R78): Writes PC plus the immediate placed at bits 31:13. -/
  | auipc (i : BitVec 19) (d : BitVec 6)
  /-- BEQ (R79): Branches when two registers are equal. -/
  | beq (i : BitVec 13) (b a : BitVec 6)
  /-- BNE (R79): Branches when two registers differ. -/
  | bne (i : BitVec 13) (b a : BitVec 6)
  /-- BLT (R79): Branches when less, signed. -/
  | blt (i : BitVec 13) (b a : BitVec 6)
  /-- BGE (R79): Branches when greater or equal, signed. -/
  | bge (i : BitVec 13) (b a : BitVec 6)
  /-- BLTU (R79): Branches when less, unsigned. -/
  | bltu (i : BitVec 13) (b a : BitVec 6)
  /-- BGEU (R79): Branches when greater or equal, unsigned. -/
  | bgeu (i : BitVec 13) (b a : BitVec 6)
  /-- JAL (R80): Links PC+4 and jumps by a word offset. -/
  | jal (i : BitVec 19) (d : BitVec 6)
  /-- JALR (R80): Links PC+4 and jumps to a register plus immediate. -/
  | jalr (i : BitVec 13) (a d : BitVec 6)
  /-- JT (R82): Jumps through a table entry when the index is below n, else falls through. -/
  | jt (n : BitVec 7) (b a : BitVec 6)
  /-- LDB (R83): Loads a sign-extended byte. -/
  | ldb (r : BitVec 2) (i : BitVec 11) (a d : BitVec 6)
  /-- LDH (R83): Loads a sign-extended halfword. -/
  | ldh (r : BitVec 2) (i : BitVec 11) (a d : BitVec 6)
  /-- LDW (R83): Loads a sign-extended word. -/
  | ldw (r : BitVec 2) (i : BitVec 11) (a d : BitVec 6)
  /-- LDD (R83): Loads a doubleword. -/
  | ldd (r : BitVec 2) (i : BitVec 11) (a d : BitVec 6)
  /-- LDBU (R83): Loads a zero-extended byte. -/
  | ldbu (r : BitVec 2) (i : BitVec 11) (a d : BitVec 6)
  /-- LDHU (R83): Loads a zero-extended halfword. -/
  | ldhu (r : BitVec 2) (i : BitVec 11) (a d : BitVec 6)
  /-- LDWU (R83): Loads a zero-extended word. -/
  | ldwu (r : BitVec 2) (i : BitVec 11) (a d : BitVec 6)
  /-- STB (R83): Stores a byte. -/
  | stb (r : BitVec 2) (i : BitVec 11) (a b : BitVec 6)
  /-- STH (R83): Stores a halfword. -/
  | sth (r : BitVec 2) (i : BitVec 11) (a b : BitVec 6)
  /-- STW (R83): Stores a word. -/
  | stw (r : BitVec 2) (i : BitVec 11) (a b : BitVec 6)
  /-- STD (R83): Stores a doubleword. -/
  | std (r : BitVec 2) (i : BitVec 11) (a b : BitVec 6)
  /-- FADD_D (R88): FP64 addition rounded by FRM. -/
  | faddD (b a d : BitVec 6)
  /-- FSUB_D (R88): FP64 subtraction. -/
  | fsubD (b a d : BitVec 6)
  /-- FMUL_D (R88): FP64 multiplication. -/
  | fmulD (b a d : BitVec 6)
  /-- FDIV_D (R88): FP64 division. -/
  | fdivD (b a d : BitVec 6)
  /-- FSQRT_D (R88): FP64 square root. -/
  | fsqrtD (a d : BitVec 6)
  /-- FMIN_D (R90): FP64 minimumNumber. -/
  | fminD (b a d : BitVec 6)
  /-- FMAX_D (R90): FP64 maximumNumber. -/
  | fmaxD (b a d : BitVec 6)
  /-- FADD_S (R88): FP32 addition. -/
  | faddS (b a d : BitVec 6)
  /-- FSUB_S (R88): FP32 subtraction. -/
  | fsubS (b a d : BitVec 6)
  /-- FMUL_S (R88): FP32 multiplication. -/
  | fmulS (b a d : BitVec 6)
  /-- FDIV_S (R88): FP32 division. -/
  | fdivS (b a d : BitVec 6)
  /-- FSQRT_S (R88): FP32 square root. -/
  | fsqrtS (a d : BitVec 6)
  /-- FMIN_S (R90): FP32 minimumNumber. -/
  | fminS (b a d : BitVec 6)
  /-- FMAX_S (R90): FP32 maximumNumber. -/
  | fmaxS (b a d : BitVec 6)
  /-- FEQ_D (R88): FP64 equality compare to 0 or 1. -/
  | feqD (b a d : BitVec 6)
  /-- FLT_D (R88): FP64 less-than compare. -/
  | fltD (b a d : BitVec 6)
  /-- FLE_D (R88): FP64 less-or-equal compare. -/
  | fleD (b a d : BitVec 6)
  /-- FEQ_S (R88): FP32 equality compare. -/
  | feqS (b a d : BitVec 6)
  /-- FLT_S (R88): FP32 less-than compare. -/
  | fltS (b a d : BitVec 6)
  /-- FLE_S (R88): FP32 less-or-equal compare. -/
  | fleS (b a d : BitVec 6)
  /-- FCVT_D_L (R88): Converts a signed 64-bit integer to FP64. -/
  | fcvtDL (a d : BitVec 6)
  /-- FCVT_L_D (R91): Converts FP64 to a signed 64-bit integer. -/
  | fcvtLD (a d : BitVec 6)
  /-- FCVT_S_D (R91): Converts FP64 to FP32. -/
  | fcvtSD (a d : BitVec 6)
  /-- FCVT_D_S (R91): Converts FP32 to FP64 exactly. -/
  | fcvtDS (a d : BitVec 6)
  /-- FCVT_S_L (R88): Converts a signed 64-bit integer to FP32. -/
  | fcvtSL (a d : BitVec 6)
  /-- FCVT_L_S (R91): Converts FP32 to a signed 64-bit integer. -/
  | fcvtLS (a d : BitVec 6)
  /-- FCLASS (R90): Writes the FP64 and FP32 class bytes of a register. -/
  | fclass (a d : BitVec 6)
  /-- FMAD (R92): FP64 fused multiply-add with one rounding. -/
  | fmad (c b a d : BitVec 6)
  /-- FNMAD (R92): FP64 fused multiply-add with negated product. -/
  | fnmad (c b a d : BitVec 6)
  /-- FMAS (R92): FP32 fused multiply-add with one rounding. -/
  | fmas (c b a d : BitVec 6)
  /-- FNMAS (R92): FP32 fused multiply-add with negated product. -/
  | fnmas (c b a d : BitVec 6)
  /-- CXCH (R93): Reads a CSR and replaces its value with s[sa]. -/
  | cxch (c : BitVec 11) (a d : BitVec 6)
  /-- CSETB (R93): Reads a CSR and sets the bits named in s[sa]. -/
  | csetb (c : BitVec 11) (a d : BitVec 6)
  /-- CCLRB (R93): Reads a CSR and clears the bits named in s[sa]. -/
  | cclrb (c : BitVec 11) (a d : BitVec 6)
  /-- CREAD (R93): Reads a CSR into sd. -/
  | cread (c : BitVec 11) (d : BitVec 6)
  /-- ECALL (R99): Traps with cause ECALL once older entries commit. -/
  | ecall
  /-- EBREAK (R99): Traps with cause EBREAK. -/
  | ebreak
  /-- ERET (R374): Returns from a trap to XPC at the level in XSTAT. -/
  | eret
  /-- WFI (R100): Suspends issue until an event or timeout. -/
  | wfi
  /-- HALT (R101): Stops issue in every strand of the bent, which stays resident and halted. -/
  | halt
  /-- IFENCE (R102): Discards fetched state, invalidates the instruction cache and refetches. -/
  | ifence
  /-- PAUSE (R102): Stops fetch for 32 cc. -/
  | pause
  /-- SETVL (R108): Sets VT from imm13 and grants VL, applying any pending span shrink. -/
  | setvl (t : BitVec 13) (a d : BitVec 6)
  /-- SETVLR (R108): Sets VT from a register and grants VL. -/
  | setvlr (b a d : BitVec 6)
  /-- VADD (R135): Vector integer add of two vectors. -/
  | vadd (m : BitVec 3) (b a d : BitVec 5)
  /-- VSUB (R135): Vector integer subtract. -/
  | vsub (m : BitVec 3) (b a d : BitVec 5)
  /-- VRSUB (R135): Vector reverse subtract. -/
  | vrsub (m : BitVec 3) (b a d : BitVec 5)
  /-- VMUL (R135): Vector multiply, low bits. -/
  | vmul (m : BitVec 3) (b a d : BitVec 5)
  /-- VMULH (R135): Vector multiply, high bits signed. -/
  | vmulh (m : BitVec 3) (b a d : BitVec 5)
  /-- VMULHU (R135): Vector multiply, high bits unsigned. -/
  | vmulhu (m : BitVec 3) (b a d : BitVec 5)
  /-- VAND (R135): Vector bitwise AND. -/
  | vand (m : BitVec 3) (b a d : BitVec 5)
  /-- VOR (R135): Vector bitwise OR. -/
  | vor (m : BitVec 3) (b a d : BitVec 5)
  /-- VXOR (R135): Vector bitwise XOR. -/
  | vxor (m : BitVec 3) (b a d : BitVec 5)
  /-- VSLL (R135): Vector shift left. -/
  | vsll (m : BitVec 3) (b a d : BitVec 5)
  /-- VSRL (R135): Vector shift right logical. -/
  | vsrl (m : BitVec 3) (b a d : BitVec 5)
  /-- VSRA (R135): Vector shift right arithmetic. -/
  | vsra (m : BitVec 3) (b a d : BitVec 5)
  /-- VMIN (R135): Vector signed minimum. -/
  | vmin (m : BitVec 3) (b a d : BitVec 5)
  /-- VMAX (R135): Vector signed maximum. -/
  | vmax (m : BitVec 3) (b a d : BitVec 5)
  /-- VMINU (R135): Vector unsigned minimum. -/
  | vminu (m : BitVec 3) (b a d : BitVec 5)
  /-- VMAXU (R135): Vector unsigned maximum. -/
  | vmaxu (m : BitVec 3) (b a d : BitVec 5)
  /-- VSADD (R135): Vector saturating signed add. -/
  | vsadd (m : BitVec 3) (b a d : BitVec 5)
  /-- VSSUB (R135): Vector saturating signed subtract. -/
  | vssub (m : BitVec 3) (b a d : BitVec 5)
  /-- VSADDU (R135): Vector saturating unsigned add. -/
  | vsaddu (m : BitVec 3) (b a d : BitVec 5)
  /-- VSSUBU (R135): Vector saturating unsigned subtract. -/
  | vssubu (m : BitVec 3) (b a d : BitVec 5)
  /-- VMADD (R135): Vector multiply-add into vd. -/
  | vmadd (m : BitVec 3) (b a d : BitVec 5)
  /-- VABSD (R135): Vector absolute difference. -/
  | vabsd (m : BitVec 3) (b a d : BitVec 5)
  /-- VADD_VX (R135): Vector add of a scalar. -/
  | vaddVx (m : BitVec 3) (s a d : BitVec 5)
  /-- VSUB_VX (R135): Vector subtract of a scalar. -/
  | vsubVx (m : BitVec 3) (s a d : BitVec 5)
  /-- VRSUB_VX (R135): Scalar minus vector. -/
  | vrsubVx (m : BitVec 3) (s a d : BitVec 5)
  /-- VMUL_VX (R135): Vector multiply by a scalar, low bits. -/
  | vmulVx (m : BitVec 3) (s a d : BitVec 5)
  /-- VMULH_VX (R135): Vector multiply by a scalar, high signed. -/
  | vmulhVx (m : BitVec 3) (s a d : BitVec 5)
  /-- VMULHU_VX (R135): Vector multiply by a scalar, high unsigned. -/
  | vmulhuVx (m : BitVec 3) (s a d : BitVec 5)
  /-- VAND_VX (R135): Vector AND with a scalar. -/
  | vandVx (m : BitVec 3) (s a d : BitVec 5)
  /-- VOR_VX (R135): Vector OR with a scalar. -/
  | vorVx (m : BitVec 3) (s a d : BitVec 5)
  /-- VXOR_VX (R135): Vector XOR with a scalar. -/
  | vxorVx (m : BitVec 3) (s a d : BitVec 5)
  /-- VSLL_VX (R135): Vector shift left by a scalar. -/
  | vsllVx (m : BitVec 3) (s a d : BitVec 5)
  /-- VSRL_VX (R135): Vector shift right logical by a scalar. -/
  | vsrlVx (m : BitVec 3) (s a d : BitVec 5)
  /-- VSRA_VX (R135): Vector shift right arithmetic by a scalar. -/
  | vsraVx (m : BitVec 3) (s a d : BitVec 5)
  /-- VMIN_VX (R135): Signed minimum with a scalar. -/
  | vminVx (m : BitVec 3) (s a d : BitVec 5)
  /-- VMAX_VX (R135): Signed maximum with a scalar. -/
  | vmaxVx (m : BitVec 3) (s a d : BitVec 5)
  /-- VMINU_VX (R135): Unsigned minimum with a scalar. -/
  | vminuVx (m : BitVec 3) (s a d : BitVec 5)
  /-- VMAXU_VX (R135): Unsigned maximum with a scalar. -/
  | vmaxuVx (m : BitVec 3) (s a d : BitVec 5)
  /-- VSADD_VX (R135): Saturating signed add of a scalar. -/
  | vsaddVx (m : BitVec 3) (s a d : BitVec 5)
  /-- VSSUB_VX (R135): Saturating signed subtract of a scalar. -/
  | vssubVx (m : BitVec 3) (s a d : BitVec 5)
  /-- VSADDU_VX (R135): Saturating unsigned add of a scalar. -/
  | vsadduVx (m : BitVec 3) (s a d : BitVec 5)
  /-- VSSUBU_VX (R135): Saturating unsigned subtract of a scalar. -/
  | vssubuVx (m : BitVec 3) (s a d : BitVec 5)
  /-- VMADD_VX (R135): Multiply by a scalar and add into vd. -/
  | vmaddVx (m : BitVec 3) (s a d : BitVec 5)
  /-- VABSD_VX (R135): Absolute difference with a scalar. -/
  | vabsdVx (m : BitVec 3) (s a d : BitVec 5)
  /-- VADD_VI (R135): Vector add of an immediate. -/
  | vaddVi (m : BitVec 3) (i a d : BitVec 5)
  /-- VRSUB_VI (R135): Immediate minus vector. -/
  | vrsubVi (m : BitVec 3) (i a d : BitVec 5)
  /-- VAND_VI (R135): Vector AND with an immediate. -/
  | vandVi (m : BitVec 3) (i a d : BitVec 5)
  /-- VOR_VI (R135): Vector OR with an immediate. -/
  | vorVi (m : BitVec 3) (i a d : BitVec 5)
  /-- VXOR_VI (R135): Vector XOR with an immediate. -/
  | vxorVi (m : BitVec 3) (i a d : BitVec 5)
  /-- VSLL_VI (R135): Vector shift left by an immediate. -/
  | vsllVi (m : BitVec 3) (i a d : BitVec 5)
  /-- VSRL_VI (R135): Vector shift right logical by an immediate. -/
  | vsrlVi (m : BitVec 3) (i a d : BitVec 5)
  /-- VSRA_VI (R135): Vector shift right arithmetic by an immediate. -/
  | vsraVi (m : BitVec 3) (i a d : BitVec 5)
  /-- VSADD_VI (R135): Saturating signed add of an immediate. -/
  | vsaddVi (m : BitVec 3) (i a d : BitVec 5)
  /-- VSADDU_VI (R135): Saturating unsigned add of a sign-extended immediate. -/
  | vsadduVi (m : BitVec 3) (i a d : BitVec 5)
  /-- VCMP_EQ (R137): Writes mask bits for equal elements of two vectors. -/
  | vcmpEq (m : BitVec 3) (b a : BitVec 5) (d : BitVec 3)
  /-- VCMP_NE (R137): Mask of unequal elements. -/
  | vcmpNe (m : BitVec 3) (b a : BitVec 5) (d : BitVec 3)
  /-- VCMP_LT (R137): Mask of signed less-than. -/
  | vcmpLt (m : BitVec 3) (b a : BitVec 5) (d : BitVec 3)
  /-- VCMP_LTU (R137): Mask of unsigned less-than. -/
  | vcmpLtu (m : BitVec 3) (b a : BitVec 5) (d : BitVec 3)
  /-- VCMP_LE (R137): Mask of signed less-or-equal. -/
  | vcmpLe (m : BitVec 3) (b a : BitVec 5) (d : BitVec 3)
  /-- VCMP_LEU (R137): Mask of unsigned less-or-equal. -/
  | vcmpLeu (m : BitVec 3) (b a : BitVec 5) (d : BitVec 3)
  /-- VCMP_GT (R137): Mask of signed greater-than. -/
  | vcmpGt (m : BitVec 3) (b a : BitVec 5) (d : BitVec 3)
  /-- VCMP_GTU (R137): Mask of unsigned greater-than. -/
  | vcmpGtu (m : BitVec 3) (b a : BitVec 5) (d : BitVec 3)
  /-- VCMP_EQ_VX (R137): Mask of elements equal to a scalar. -/
  | vcmpEqVx (m : BitVec 3) (s a : BitVec 5) (d : BitVec 3)
  /-- VCMP_NE_VX (R137): Mask of elements unequal to a scalar. -/
  | vcmpNeVx (m : BitVec 3) (s a : BitVec 5) (d : BitVec 3)
  /-- VCMP_LT_VX (R137): Signed less-than a scalar. -/
  | vcmpLtVx (m : BitVec 3) (s a : BitVec 5) (d : BitVec 3)
  /-- VCMP_LTU_VX (R137): Unsigned less-than a scalar. -/
  | vcmpLtuVx (m : BitVec 3) (s a : BitVec 5) (d : BitVec 3)
  /-- VCMP_LE_VX (R137): Signed less-or-equal a scalar. -/
  | vcmpLeVx (m : BitVec 3) (s a : BitVec 5) (d : BitVec 3)
  /-- VCMP_LEU_VX (R137): Unsigned less-or-equal a scalar. -/
  | vcmpLeuVx (m : BitVec 3) (s a : BitVec 5) (d : BitVec 3)
  /-- VCMP_GT_VX (R137): Signed greater-than a scalar. -/
  | vcmpGtVx (m : BitVec 3) (s a : BitVec 5) (d : BitVec 3)
  /-- VCMP_GTU_VX (R137): Unsigned greater-than a scalar. -/
  | vcmpGtuVx (m : BitVec 3) (s a : BitVec 5) (d : BitVec 3)
  /-- VCMP_EQ_VI (R137): Mask of elements equal to an immediate. -/
  | vcmpEqVi (m : BitVec 3) (i a : BitVec 5) (d : BitVec 3)
  /-- VCMP_NE_VI (R137): Mask of elements unequal to an immediate. -/
  | vcmpNeVi (m : BitVec 3) (i a : BitVec 5) (d : BitVec 3)
  /-- VCMP_LT_VI (R137): Signed less-than an immediate. -/
  | vcmpLtVi (m : BitVec 3) (i a : BitVec 5) (d : BitVec 3)
  /-- VCMP_LTU_VI (R137): Unsigned less-than an immediate. -/
  | vcmpLtuVi (m : BitVec 3) (i a : BitVec 5) (d : BitVec 3)
  /-- VCMP_LE_VI (R137): Signed less-or-equal an immediate. -/
  | vcmpLeVi (m : BitVec 3) (i a : BitVec 5) (d : BitVec 3)
  /-- VCMP_LEU_VI (R137): Unsigned less-or-equal an immediate. -/
  | vcmpLeuVi (m : BitVec 3) (i a : BitVec 5) (d : BitVec 3)
  /-- VCMP_GT_VI (R137): Signed greater-than an immediate. -/
  | vcmpGtVi (m : BitVec 3) (i a : BitVec 5) (d : BitVec 3)
  /-- VCMP_GTU_VI (R137): Unsigned greater-than an immediate. -/
  | vcmpGtuVi (m : BitVec 3) (i a : BitVec 5) (d : BitVec 3)
  /-- VMV (R138): Copies active elements of a vector. -/
  | vmv (m : BitVec 3) (a d : BitVec 5)
  /-- VSPLAT (R138): Writes a scalar into every active element. -/
  | vsplat (m : BitVec 3) (s d : BitVec 5)
  /-- VEXT (R139): Reads one element of the span into a scalar register. -/
  | vext (x a d : BitVec 5)
  /-- VID (R138): Writes each element's span index. -/
  | vid (m : BitVec 3) (d : BitVec 5)
  /-- VMERGE (R138): Selects elements from two vectors by an explicit mask. -/
  | vmerge (m : BitVec 3) (b a d : BitVec 5)
  /-- VNOP (R138): Vector no-operation taking 1 ac on the INT pipe. -/
  | vnop
  /-- VSLUP (R143): Slides elements up within each block. -/
  | vslup (m : BitVec 3) (s a d : BitVec 5)
  /-- VSLDN (R143): Slides elements down within each block. -/
  | vsldn (m : BitVec 3) (s a d : BitVec 5)
  /-- VGATHR (R143): Gathers elements by block-local indices. -/
  | vgathr (m : BitVec 3) (b a d : BitVec 5)
  /-- VCOMPR (R144): Compresses active elements to the bottom of each block. -/
  | vcompr (m : BitVec 3) (a d : BitVec 5)
  /-- VREV (R143): Reverses the elements below VL in each block. -/
  | vrev (m : BitVec 3) (a d : BitVec 5)
  /-- VXCHG_X (R145): Exchanges blocks between positions b and b XOR x. -/
  | vxchgX (m : BitVec 3) (s a d : BitVec 5)
  /-- VXCHG_R (R145): Rotates blocks between positions by x. -/
  | vxchgR (m : BitVec 3) (s a d : BitVec 5)
  /-- VREDSUM (R146): Per-block integer sum reduction from a seed. -/
  | vredsum (m : BitVec 3) (b a d : BitVec 5)
  /-- VREDMAX (R146): Per-block signed maximum reduction. -/
  | vredmax (m : BitVec 3) (b a d : BitVec 5)
  /-- VREDMIN (R146): Per-block signed minimum reduction. -/
  | vredmin (m : BitVec 3) (b a d : BitVec 5)
  /-- VREDMAXU (R146): Per-block unsigned maximum reduction. -/
  | vredmaxu (m : BitVec 3) (b a d : BitVec 5)
  /-- VREDMINU (R146): Per-block unsigned minimum reduction. -/
  | vredminu (m : BitVec 3) (b a d : BitVec 5)
  /-- VREDAND (R146): Per-block bitwise AND reduction. -/
  | vredand (m : BitVec 3) (b a d : BitVec 5)
  /-- VREDOR (R146): Per-block bitwise OR reduction. -/
  | vredor (m : BitVec 3) (b a d : BitVec 5)
  /-- VREDXOR (R146): Per-block bitwise XOR reduction. -/
  | vredxor (m : BitVec 3) (b a d : BitVec 5)
  /-- VARGMAX (R147): Writes the span index of each block's largest active element. -/
  | vargmax (m : BitVec 3) (a d : BitVec 5)
  /-- VARGMIN (R147): Writes the span index of each block's smallest active element. -/
  | vargmin (m : BitVec 3) (a d : BitVec 5)
  /-- VFREDSUM (R178): Ordered floating sum per block from a seed. -/
  | vfredsum (m : BitVec 3) (b a d : BitVec 5)
  /-- VFREDTREE (R178): Fixed-tree floating sum per block. -/
  | vfredtree (m : BitVec 3) (b a d : BitVec 5)
  /-- VFREDMAX (R178): Floating maximum reduction per block. -/
  | vfredmax (m : BitVec 3) (b a d : BitVec 5)
  /-- VFARGMAX (R147): Span index of each block's largest floating element. -/
  | vfargmax (m : BitVec 3) (a d : BitVec 5)
  /-- VTOPK (R148): Writes the indices of each block's k largest integer elements. -/
  | vtopk (m : BitVec 3) (s a d : BitVec 5)
  /-- VFTOPK (R148): Writes the indices of each block's k largest floating elements. -/
  | vftopk (m : BitVec 3) (s a d : BitVec 5)
  /-- VSCAN (R150): Inclusive integer scan per block. -/
  | vscan (m : BitVec 3) (a d : BitVec 5)
  /-- VSCANC (R150): Inclusive integer scan from and into the carry cell. -/
  | vscanc (m : BitVec 3) (a d : BitVec 5)
  /-- VFSCANC (R179): Inclusive floating scan from and into the carry cell. -/
  | vfscanc (m : BitVec 3) (a d : BitVec 5)
  /-- MAND (R140): Mask AND of every bit below VL. -/
  | mand (b a d : BitVec 3)
  /-- MOR (R140): Mask OR. -/
  | mor (b a d : BitVec 3)
  /-- MXOR (R140): Mask XOR. -/
  | mxor (b a d : BitVec 3)
  /-- MANDN (R140): Mask AND NOT. -/
  | mandn (b a d : BitVec 3)
  /-- MNOT (R140): Mask NOT. -/
  | mnot (a d : BitVec 3)
  /-- MPOPC (R141): Counts active mask bits across the span into a scalar. -/
  | mpopc (a : BitVec 3) (d : BitVec 5)
  /-- MFIRST (R141): Writes the lowest active mask index across the span. -/
  | mfirst (a : BitVec 3) (d : BitVec 5)
  /-- MSET (R140): Sets every mask bit below VL. -/
  | mset (d : BitVec 3)
  /-- MCLR (R140): Clears every mask bit below VL. -/
  | mclr (d : BitVec 3)
  /-- MMV (R140): Copies a mask. -/
  | mmv (a d : BitVec 3)
  /-- VSPLIT (R122): Pushes join and else entries and narrows m0 to the then-path. -/
  | vsplit (o : BitVec 22) (c : BitVec 3)
  /-- VJOIN (R123): Pops the fragment buffer, running the else-path or restoring m0. -/
  | vjoin
  /-- VBNONE (R124): Branches when m0 AND m[mc] is empty. -/
  | vbnone (o : BitVec 22) (c : BitVec 3)
  /-- REPF (R129): Replays the next k vector words as a software-pipelined frame. -/
  | repf (f : BitVec 3) (o : BitVec 5) (g : BitVec 3) (n : BitVec 6) (k : BitVec 4)
  /-- VFADD (R161): Vector floating add. -/
  | vfadd (m : BitVec 3) (b a d : BitVec 5)
  /-- VFSUB (R161): Vector floating subtract. -/
  | vfsub (m : BitVec 3) (b a d : BitVec 5)
  /-- VFMUL (R161): Vector floating multiply. -/
  | vfmul (m : BitVec 3) (b a d : BitVec 5)
  /-- VFDIV (R161): Vector floating divide. -/
  | vfdiv (m : BitVec 3) (b a d : BitVec 5)
  /-- VFSQRT (R161): Vector floating square root. -/
  | vfsqrt (m : BitVec 3) (a d : BitVec 5)
  /-- VFMIN (R161): Vector minimumNumber. -/
  | vfmin (m : BitVec 3) (b a d : BitVec 5)
  /-- VFMAX (R161): Vector maximumNumber. -/
  | vfmax (m : BitVec 3) (b a d : BitVec 5)
  /-- VFRSQ (R162): Vector reciprocal square root. -/
  | vfrsq (m : BitVec 3) (a d : BitVec 5)
  /-- VFRCP (R162): Vector reciprocal. -/
  | vfrcp (m : BitVec 3) (a d : BitVec 5)
  /-- VFEXP2 (R162): Vector power of two rounded by RNE. -/
  | vfexp2 (m : BitVec 3) (a d : BitVec 5)
  /-- VFLOG2 (R162): Vector base-2 logarithm rounded by RNE. -/
  | vflog2 (m : BitVec 3) (a d : BitVec 5)
  /-- VFABS (R161): Clears the sign bit. -/
  | vfabs (m : BitVec 3) (a d : BitVec 5)
  /-- VFNEG (R161): Inverts the sign bit. -/
  | vfneg (m : BitVec 3) (a d : BitVec 5)
  /-- VFSGNJ (R161): Copies the sign of the second operand. -/
  | vfsgnj (m : BitVec 3) (b a d : BitVec 5)
  /-- VFCLASS (R161): Writes the class byte of each element. -/
  | vfclass (m : BitVec 3) (a d : BitVec 5)
  /-- VFADD_VX (R161): Floating add of a scalar. -/
  | vfaddVx (m : BitVec 3) (s a d : BitVec 5)
  /-- VFSUB_VX (R161): Floating subtract of a scalar. -/
  | vfsubVx (m : BitVec 3) (s a d : BitVec 5)
  /-- VFMUL_VX (R161): Floating multiply by a scalar. -/
  | vfmulVx (m : BitVec 3) (s a d : BitVec 5)
  /-- VFDIV_VX (R161): Floating divide by a scalar. -/
  | vfdivVx (m : BitVec 3) (s a d : BitVec 5)
  /-- VFMIN_VX (R161): minimumNumber with a scalar. -/
  | vfminVx (m : BitVec 3) (s a d : BitVec 5)
  /-- VFMAX_VX (R161): maximumNumber with a scalar. -/
  | vfmaxVx (m : BitVec 3) (s a d : BitVec 5)
  /-- VFSGNJ_VX (R161): Takes the sign of a scalar. -/
  | vfsgnjVx (m : BitVec 3) (s a d : BitVec 5)
  /-- VFMA (R163): Vector fused a·b+c. -/
  | vfma (m : BitVec 3) (c b a d : BitVec 5)
  /-- VFNMA (R163): Vector fused −(a·b)+c. -/
  | vfnma (m : BitVec 3) (c b a d : BitVec 5)
  /-- VFMSA (R163): Vector fused a·b−c. -/
  | vfmsa (m : BitVec 3) (c b a d : BitVec 5)
  /-- VFNMSA (R163): Vector fused −(a·b)−c. -/
  | vfnmsa (m : BitVec 3) (c b a d : BitVec 5)
  /-- VFCMP_EQ (R164): Floating equality mask of two vectors. -/
  | vfcmpEq (m : BitVec 3) (b a : BitVec 5) (d : BitVec 3)
  /-- VFCMP_NE (R164): Floating inequality mask. -/
  | vfcmpNe (m : BitVec 3) (b a : BitVec 5) (d : BitVec 3)
  /-- VFCMP_LT (R164): Floating less-than mask. -/
  | vfcmpLt (m : BitVec 3) (b a : BitVec 5) (d : BitVec 3)
  /-- VFCMP_LE (R164): Floating less-or-equal mask. -/
  | vfcmpLe (m : BitVec 3) (b a : BitVec 5) (d : BitVec 3)
  /-- VFCMP_GT (R164): Floating greater-than mask. -/
  | vfcmpGt (m : BitVec 3) (b a : BitVec 5) (d : BitVec 3)
  /-- VFCMP_GE (R164): Floating greater-or-equal mask. -/
  | vfcmpGe (m : BitVec 3) (b a : BitVec 5) (d : BitVec 3)
  /-- VFCMP_UNORD (R164): Mask of unordered pairs. -/
  | vfcmpUnord (m : BitVec 3) (b a : BitVec 5) (d : BitVec 3)
  /-- VFCMP_ORD (R164): Mask of ordered pairs. -/
  | vfcmpOrd (m : BitVec 3) (b a : BitVec 5) (d : BitVec 3)
  /-- VFCMP_EQ_VX (R164): Floating equality with a scalar. -/
  | vfcmpEqVx (m : BitVec 3) (s a : BitVec 5) (d : BitVec 3)
  /-- VFCMP_NE_VX (R164): Floating inequality with a scalar. -/
  | vfcmpNeVx (m : BitVec 3) (s a : BitVec 5) (d : BitVec 3)
  /-- VFCMP_LT_VX (R164): Floating less-than a scalar. -/
  | vfcmpLtVx (m : BitVec 3) (s a : BitVec 5) (d : BitVec 3)
  /-- VFCMP_LE_VX (R164): Floating less-or-equal a scalar. -/
  | vfcmpLeVx (m : BitVec 3) (s a : BitVec 5) (d : BitVec 3)
  /-- VFCMP_GT_VX (R164): Floating greater-than a scalar. -/
  | vfcmpGtVx (m : BitVec 3) (s a : BitVec 5) (d : BitVec 3)
  /-- VFCMP_GE_VX (R164): Floating greater-or-equal a scalar. -/
  | vfcmpGeVx (m : BitVec 3) (s a : BitVec 5) (d : BitVec 3)
  /-- VFCMP_UNORD_VX (R164): Unordered with a scalar. -/
  | vfcmpUnordVx (m : BitVec 3) (s a : BitVec 5) (d : BitVec 3)
  /-- VFCMP_ORD_VX (R164): Ordered with a scalar. -/
  | vfcmpOrdVx (m : BitVec 3) (s a : BitVec 5) (d : BitVec 3)
  /-- VCVT (R167): Converts elements between formats with the given rounding and saturation. -/
  | vcvt (t : BitVec 4) (r m : BitVec 3) (x : BitVec 1) (f : BitVec 4) (a d : BitVec 5)
  /-- VSCALE (R175): Computes UE8M0 block scales from FP32 values. -/
  | vscale (m : BitVec 3) (a d : BitVec 5)
  /-- VQNT (R176): Quantises FP32 values under block scales. -/
  | vqnt (m : BitVec 3) (b a d : BitVec 5)
  /-- VDQNT (R177): Dequantises elements to FP32 under block scales. -/
  | vdqnt (m : BitVec 3) (b a d : BitVec 5)
  /-- VLD (R197): Unit-stride vector load. -/
  | vld (n : BitVec 1) (r : BitVec 2) (w m : BitVec 3) (x : BitVec 5) (a : BitVec 6) (d : BitVec 5)
  /-- VST (R197): Unit-stride vector store. -/
  | vst (n : BitVec 1) (r : BitVec 2) (w m : BitVec 3) (x : BitVec 5) (a : BitVec 6) (d : BitVec 5)
  /-- VLDS (R197): Strided vector load. -/
  | vlds (n : BitVec 1) (r : BitVec 2) (w m : BitVec 3) (x : BitVec 5) (a : BitVec 6) (d : BitVec 5)
  /-- VSTS (R197): Strided vector store. -/
  | vsts (n : BitVec 1) (r : BitVec 2) (w m : BitVec 3) (x : BitVec 5) (a : BitVec 6) (d : BitVec 5)
  /-- VLDX (R197): Indexed vector load. -/
  | vldx (n : BitVec 1) (r : BitVec 2) (w m : BitVec 3) (x : BitVec 5) (a : BitVec 6) (d : BitVec 5)
  /-- VSTX (R197): Indexed vector store. -/
  | vstx (n : BitVec 1) (r : BitVec 2) (w m : BitVec 3) (x : BitVec 5) (a : BitVec 6) (d : BitVec 5)
  /-- VLSEG (R201): Segment load of nf fields per record. -/
  | vlseg (n : BitVec 1) (r : BitVec 2) (w m : BitVec 3) (x : BitVec 5) (a : BitVec 6) (d : BitVec 5)
  /-- VSSEG (R201): Segment store of nf fields per record. -/
  | vsseg (n : BitVec 1) (r : BitVec 2) (w m : BitVec 3) (x : BitVec 5) (a : BitVec 6) (d : BitVec 5)
  /-- LSLD (R203): Loads elements from each lane's own slice. -/
  | lsld (w m : BitVec 3) (x : BitVec 5) (a : BitVec 6) (d : BitVec 5)
  /-- LSST (R203): Stores elements to each lane's own slice. -/
  | lsst (w m : BitVec 3) (x : BitVec 5) (a : BitVec 6) (d : BitVec 5)
  /-- VSPL (R205): Spills a register group with a header. -/
  | vspl (a : BitVec 6) (d : BitVec 5)
  /-- VFIL (R206): Fills a register group from a spill record. -/
  | vfil (a : BitVec 6) (d : BitVec 5)
  /-- CWB (R207): Writes back dirty bytes of a range from every attached L1. -/
  | cwb (b a : BitVec 6)
  /-- CINV (R207): Invalidates a range, discarding dirty bytes. -/
  | cinv (b a : BitVec 6)
  /-- CFLUSH (R207): Writes back and invalidates a range. -/
  | cflush (b a : BitVec 6)
  /-- PREF (R208): Prefetches up to 64 KiB into the L1, never trapping. -/
  | pref (b a : BitVec 6)
  /-- WAYCONV (R210): Converts L1 ways into scratch. -/
  | wayconv (a : BitVec 6)
  /-- WAYREST (R211): Returns scratch ways to the cache, discarding contents. -/
  | wayrest (a : BitVec 6)
  /-- CFLUSHALL (R208): Writes back and invalidates every cache way. -/
  | cflushall
  /-- LVCINV (R212): Invalidates the fibre level cache. -/
  | lvcinv
  /-- LDTOL (R297): Loads slack-region elements within a stated tolerance, drawing holders as needed. -/
  | ldtol (m : BitVec 3) (e : BitVec 5) (a : BitVec 6) (d : BitVec 5)
  /-- QAPPEND (R362): Reserves places in a work vector by atomic add and appends active elements. -/
  | qappend (r : BitVec 2) (w m : BitVec 3) (a : BitVec 6) (d : BitVec 5)
  /-- FLDL (R230): Loads up to FCAP pairs of one level of a compressed tensor. -/
  | fldl (k : BitVec 2) (x : BitVec 6) (d : BitVec 3)
  /-- FPACK (R239): Packs non-zero active elements of block 0 into a fibre. -/
  | fpack (x : BitVec 5) (d : BitVec 3)
  /-- FST (R243): Stores a fibre record to memory. -/
  | fst (k : BitVec 2) (x : BitVec 6) (a : BitVec 3)
  /-- FISECT (R235): Intersects two sorted fibres, folding by comb. -/
  | fisect (c b a d : BitVec 3)
  /-- FUNION (R235): Unites two sorted fibres, folding by comb. -/
  | funion (c b a d : BitVec 3)
  /-- FMERGE (R235): Merges fb into the coordinates of fa. -/
  | fmerge (c b a d : BitVec 3)
  /-- FSORT (R236): Stable-sorts a fibre by coordinate and folds runs. -/
  | fsort (c a d : BitVec 3)
  /-- FCOMPACT (R236): Keeps pairs whose magnitude exceeds a threshold. -/
  | fcompact (x : BitVec 6) (a d : BitVec 3)
  /-- FEXPAND (R240): Scatters a fibre into block 0 of a vector, zeroing the rest. -/
  | fexpand (k : BitVec 2) (x : BitVec 5) (a : BitVec 3)
  /-- FGATHER (R240): Replaces fibre values with vector elements at their coordinates. -/
  | fgather (k : BitVec 2) (x : BitVec 5) (a d : BitVec 3)
  /-- FSCAT (R244): Stores fibre values to memory at their coordinates. -/
  | fscat (k : BitVec 2) (x : BitVec 6) (a : BitVec 3)
  /-- FMAPV (R240): Multiplies fibre values by vector elements at their coordinates. -/
  | fmapv (k : BitVec 2) (x : BitVec 5) (a d : BitVec 3)
  /-- FLEN (R241): Writes a fibre's length to a scalar register. -/
  | flen (x : BitVec 6) (a : BitVec 3)
  /-- FCOORD (R241): Writes fibre coordinates into block 0 of a vector. -/
  | fcoord (x : BitVec 5) (a : BitVec 3)
  /-- FVALS (R241): Writes fibre values into block 0 of a vector. -/
  | fvals (k : BitVec 2) (x : BitVec 5) (a : BitVec 3)
  /-- FSPLIT (R242): Moves pairs at or above a coordinate into fd. -/
  | fsplit (x : BitVec 6) (a d : BitVec 3)
  /-- FCLR (R242): Empties a fibre register. -/
  | fclr (d : BitVec 3)
  /-- FLDF (R243): Loads a fibre record from memory. -/
  | fldf (k : BitVec 2) (x : BitVec 6) (d : BitVec 3)
  /-- FCOMBINE (R242): Reorders runs by source tag and folds them deterministically. -/
  | fcombine (c a d : BitVec 3)
  /-- FPREF (R233): Queues a level prefetch for the stream engine. -/
  | fpref (x : BitVec 6)
  /-- FPREF_STREAM_FETCH (R233): The stream engine fetches a queued prefetch into the level cache. -/
  | fprefStreamFetch (strand : Nat)
  /-- FSEND (R245): Reserves room at a receiver strand and sends a fibre message. -/
  | fsend (x : BitVec 6) (a : BitVec 3)
  /-- FSEND_RESERVATION_GRANT (R245): The receiver grants a pending reservation and the packets are sent. -/
  | fsendReservationGrant (receiver : Nat)
  /-- FIBRE_MESSAGE_ARRIVAL (R246): A fibre message is written into a receiver's buffer and wakes WFI. -/
  | fibreMessageArrival (receiver : Nat)
  /-- FRECV (R246): Unites fa with the oldest matching buffered message, or reports empty. -/
  | frecv (k : BitVec 2) (c : BitVec 3) (x : BitVec 6) (a d : BitVec 3)
  /-- JCLM (R255): Claims a named jig slot in every attached bay. -/
  | jclm (s : BitVec 6) (j : BitVec 4)
  /-- JCLM_ANY (R255): Claims the lowest free jig slot, or returns all ones. -/
  | jclmAny (s : BitVec 6)
  /-- JREL (R256): Releases a slot once older multiplies reading it finish. -/
  | jrel (j : BitVec 4)
  /-- JLD (R258): Loads slot rows from a register group, optionally with scales. -/
  | jld (p : BitVec 1) (c : BitVec 5) (s : BitVec 6) (v : BitVec 5) (j : BitVec 4)
  /-- JFIL (R260): Fills slot rows from memory in dense mode under JSHAPE. -/
  | jfil (s : BitVec 6) (j : BitVec 4)
  /-- JFIL_GATHER (R260): Fills slot rows or columns from memory rows named by an index vector. -/
  | jfilGather (s : BitVec 6) (v : BitVec 5) (j : BitVec 4)
  /-- TMMA (R262): Checks and accepts a slot-by-slot multiply into a tile. -/
  | tmma (z : BitVec 1) (e : BitVec 2) (b a : BitVec 4) (t : BitVec 2)
  /-- TMMS (R267): Checks and accepts a 2:4 structured multiply into a tile. -/
  | tmms (z : BitVec 1) (e : BitVec 2) (n b a : BitVec 4) (t : BitVec 2)
  /-- TTRN (R268): Checks and accepts an INT8 by ternary multiply. -/
  | ttrn (z : BitVec 1) (e : BitVec 2) (b a : BitVec 4) (t : BitVec 2)
  /-- MULTIPLY_LAST_STEP (R270): A running multiply finishes its last step and frees its truss place. -/
  | multiplyLastStep (strand : Nat)
  /-- TILE_READY (R276): 24 ac after the last step the tile becomes ready and the multiply leaves the truss. -/
  | tileReady (strand : Nat)
  /-- TMOV (R272): Moves tile rows into a register group with conversion. -/
  | tmov (s : BitVec 6) (v : BitVec 5) (t : BitVec 2)
  /-- TZERO (R273): Zeroes a tile and clears its kind, flags and poison. -/
  | tzero (t : BitVec 2)
  /-- TSTAT (R274): Writes a tile's kind and sticky flags to a scalar. -/
  | tstat (t : BitVec 2) (d : BitVec 6)
  /-- TWAIT (R271): Holds the scalar unit until the truss holds no multiply. -/
  | twait
  /-- AMOADD (R280): Atomic integer add at the place of performance. -/
  | amoadd (o : BitVec 2) (w : BitVec 1) (b a d : BitVec 6)
  /-- AMOAND (R280): Atomic AND. -/
  | amoand (o : BitVec 2) (w : BitVec 1) (b a d : BitVec 6)
  /-- AMOOR (R280): Atomic OR. -/
  | amoor (o : BitVec 2) (w : BitVec 1) (b a d : BitVec 6)
  /-- AMOXOR (R280): Atomic XOR. -/
  | amoxor (o : BitVec 2) (w : BitVec 1) (b a d : BitVec 6)
  /-- AMOMIN (R280): Atomic signed minimum. -/
  | amomin (o : BitVec 2) (w : BitVec 1) (b a d : BitVec 6)
  /-- AMOMAX (R280): Atomic signed maximum. -/
  | amomax (o : BitVec 2) (w : BitVec 1) (b a d : BitVec 6)
  /-- AMOMINU (R280): Atomic unsigned minimum. -/
  | amominu (o : BitVec 2) (w : BitVec 1) (b a d : BitVec 6)
  /-- AMOMAXU (R280): Atomic unsigned maximum. -/
  | amomaxu (o : BitVec 2) (w : BitVec 1) (b a d : BitVec 6)
  /-- AMOSWAP (R280): Atomic swap. -/
  | amoswap (o : BitVec 2) (w : BitVec 1) (b a d : BitVec 6)
  /-- AMOCAS (R280): Atomic compare-and-swap against sd. -/
  | amocas (o : BitVec 2) (w : BitVec 1) (b a d : BitVec 6)
  /-- AMOFADD (R281): Atomic floating add rounded by RNE. -/
  | amofadd (o : BitVec 2) (w : BitVec 1) (b a d : BitVec 6)
  /-- VAMOADD (R285): Vector atomic add, conflicts in ascending index. -/
  | vamoadd (w r : BitVec 1) (m : BitVec 3) (i : BitVec 5) (a : BitVec 6) (d : BitVec 5)
  /-- VAMOAND (R285): Vector atomic AND. -/
  | vamoand (w r : BitVec 1) (m : BitVec 3) (i : BitVec 5) (a : BitVec 6) (d : BitVec 5)
  /-- VAMOOR (R285): Vector atomic OR. -/
  | vamoor (w r : BitVec 1) (m : BitVec 3) (i : BitVec 5) (a : BitVec 6) (d : BitVec 5)
  /-- VAMOXOR (R285): Vector atomic XOR. -/
  | vamoxor (w r : BitVec 1) (m : BitVec 3) (i : BitVec 5) (a : BitVec 6) (d : BitVec 5)
  /-- VAMOMIN (R285): Vector atomic signed minimum. -/
  | vamomin (w r : BitVec 1) (m : BitVec 3) (i : BitVec 5) (a : BitVec 6) (d : BitVec 5)
  /-- VAMOMAX (R285): Vector atomic signed maximum. -/
  | vamomax (w r : BitVec 1) (m : BitVec 3) (i : BitVec 5) (a : BitVec 6) (d : BitVec 5)
  /-- VAMOMINU (R285): Vector atomic unsigned minimum. -/
  | vamominu (w r : BitVec 1) (m : BitVec 3) (i : BitVec 5) (a : BitVec 6) (d : BitVec 5)
  /-- VAMOMAXU (R285): Vector atomic unsigned maximum. -/
  | vamomaxu (w r : BitVec 1) (m : BitVec 3) (i : BitVec 5) (a : BitVec 6) (d : BitVec 5)
  /-- VAMOSWAP (R285): Vector atomic swap. -/
  | vamoswap (w r : BitVec 1) (m : BitVec 3) (i : BitVec 5) (a : BitVec 6) (d : BitVec 5)
  /-- VAMOFADD (R285): Vector atomic floating add. -/
  | vamofadd (w r : BitVec 1) (m : BitVec 3) (i : BitVec 5) (a : BitVec 6) (d : BitVec 5)
  /-- VAMO_PREPARE (R286): A place receives a prepare message, checks its sub-operation and holds its lines. -/
  | vamoPrepare (place requester : Nat) (op : BitVec 4) (w64 : Bool) (elems : List (Nat × BitVec 64))
  /-- VAMO_PERFORM (R286): A place receives a perform or release message and performs or frees its elements. -/
  | vamoPerform (place requester : Nat) (go : Bool)
  /-- SLKADD (R292): Unit-stride addition of FP32 elements into a slack region. -/
  | slkadd (m : BitVec 3) (a : BitVec 6) (d : BitVec 5)
  /-- SLKADDX (R292): Indexed addition of FP32 elements into a slack region. -/
  | slkaddx (m : BitVec 3) (i : BitVec 5) (a : BitVec 6) (d : BitVec 5)
  /-- GROW (R294): The region home grants units from its pool to a holder. -/
  | grow (region bay ask : Nat)
  /-- GRANT (R293): A holder receives its grant and completes the waiting line step. -/
  | grant (region bay : Nat)
  /-- DRAIN (R294): A line home adds a holder's partials into the home copy and returns DACK. -/
  | drain (bay line : Nat)
  /-- DACK (R294): A holder receives the acknowledgement of a drain. -/
  | dack (bay line : Nat)
  /-- DRAW (R294): A holder drains every shim line of a region, optionally returning its share. -/
  | draw (region bay : Nat) (ret : Bool)
  /-- DRAWN (R294): The region home receives a holder's answer to a draw. -/
  | drawn (region bay : Nat)
  /-- LINEDRAW (R294): A holder drains one line at its home's request. -/
  | linedraw (bay line : Nat)
  /-- RET (R294): The region home returns a holder's units to the pool. -/
  | ret (region bay : Nat)
  /-- TOLQ (R297): The region home draws holders until undrawn shares are within epsilon. -/
  | tolq (region strand epsUnits : Nat)
  /-- TOLGO (R297): The requester reads its lines once the home releases it. -/
  | tolgo (strand : Nat)
  /-- SLKDEF (R290): Defines or deletes a slack region and writes a status. -/
  | slkdef (a d : BitVec 6)
  /-- SLKDRAW (R300): Draws every holder of a region without return. -/
  | slkdraw (a : BitVec 6)
  /-- SLKQRY (R300): Reads a holder's share and gauge. -/
  | slkqry (b a d : BitVec 6)
  /-- SLKREL (R300): Drains the strand's shim lines of a region and returns its shares. -/
  | slkrel (a : BitVec 6)
  /-- FENCE_ACQ (R322): Acquire at the named scope. -/
  | fenceAcq (s : BitVec 3)
  /-- FENCE_REL (R322): Release at the named scope. -/
  | fenceRel (s : BitVec 3)
  /-- FENCE_AR (R322): Acquire and release at the named scope. -/
  | fenceAr (s : BitVec 3)
  /-- FENCE_SC (R317): Sequentially consistent fence in one total order. -/
  | fenceSc (s : BitVec 3)
  /-- FENCE_S2V (R132): Orders older scalar accesses before younger vector accesses. -/
  | fenceS2v
  /-- FENCE_V2S (R132): Stalls until older vector entries commit before younger scalar accesses. -/
  | fenceV2s
  /-- FENCE_CODE (R322): Acquire-release then IFENCE. -/
  | fenceCode (s : BitVec 3)
  /-- FENCE_SLK (R322): Drains every shim line of the strand's holders, keeping shares. -/
  | fenceSlk (s : BitVec 3)
  /-- WAITA (R324): Sleeps while a word equals the expected value, then optionally acquires. -/
  | waita (c : BitVec 1) (s : BitVec 3) (b a d : BitVec 6)
  /-- WAITA_WAKE (R325): A write to the watched line wakes the sleeping strand to reread. -/
  | waitaWake (strand : Nat)
  /-- WAITA_HOST_POLL (R325): A watched host word is read again every 2 µs. -/
  | waitaHostPoll (strand : Nat)
  /-- WAIT_TIMEOUT (R324): The WTO timeout ends a WAITA or WFI. -/
  | waitTimeout (strand : Nat)
  /-- BARS (R327): Arrives at and waits on a bent barrier. -/
  | bars (n : BitVec 4)
  /-- BARA (R327): Releases at bent scope and arrives at a barrier phase. -/
  | bara (n : BitVec 4)
  /-- BARW (R327): Waits for the pending phase and acquires at bent scope. -/
  | barw (n : BitVec 4)
  /-- BARRIER_WAKE (R328): Waiting strands resume after a phase completes. -/
  | barrierWake (strand : Nat)
  /-- XCOPY (R341): Issues a multi-dimensional copy command. -/
  | xcopy (b a d : BitVec 6)
  /-- XGATHER (R343): Issues a row gather command. -/
  | xgather (b a d : BitVec 6)
  /-- XPOOL (R343): Issues a bag-sum pooling command. -/
  | xpool (b a d : BitVec 6)
  /-- XEXPAND (R344): Issues a decode of a compressed tensor. -/
  | xexpand (b a d : BitVec 6)
  /-- XCOLL (R347): Issues a collective among bays or packages. -/
  | xcoll (b a d : BitVec 6)
  /-- XCANCEL (R348): Cancels a command by ticket. -/
  | xcancel (a d : BitVec 6)
  /-- XQUERY (R348): Reads the state of a command by ticket. -/
  | xquery (a d : BitVec 6)
  /-- XSWAP (R400): Issues a swap-pair exchange or retire. -/
  | xswap (b a d : BitVec 6)
  /-- XMIG (R413): Issues a page migration to another package. -/
  | xmig (b a d : BitVec 6)
  /-- XSEAL (R419): Issues a sealed checkpoint or restore of a wing. -/
  | xseal (b a d : BitVec 6)
  /-- XE_QUEUE_ROOM (R333): A waiting XE places its command when the command queue has room. -/
  | xeQueueRoom (strand : Nat)
  /-- ENGINE_COMMAND_START (R336): An engine starts the next accepted command of its beam. -/
  | engineCommandStart (engine blocks : Nat)
  /-- ENGINE_COMMAND_END (R337): A command ends once, writing its completion word. -/
  | engineCommandEnd (engine : Nat)
  /-- COLLECTIVE_RING_STEP (R347): A collective member receives a chunk from its ring partner and combines it. -/
  | collectiveRingStep (ticket : Nat)
  /-- COLLECTIVE_ABORT (R347): A member receives an abort and ends with PEER. -/
  | collectiveAbort (ticket : Nat)
  /-- TICKET_EXPIRY (R348): A ticket becomes unknown 1 ms after its command ends. -/
  | ticketExpiry (ticket : Nat)
  /-- MIGRATION_FLIP (R415): After the last line and mirror, ownership passes to the destination. -/
  | migrationFlip (ticket : Nat)
  /-- OWN (R415): The destination installs its adoption entry and begins to serve. -/
  | own (name frame size : Nat)
  /-- RETARGET (R415): The origin or predecessor updates its directory or stub to the new owner. -/
  | retarget (name owner : Nat)
  /-- OWNER (R417): A package receives the new owner and updates its owner cache when idle. -/
  | owner (name owner source : Nat)
  /-- OWNER_ACK (R418): The old owner counts an acknowledgement and frees its stub when all are in. -/
  | ownerAck (name package : Nat)
  /-- STUB_TIMEOUT (R418): A stub is freed 250 ms after installation. -/
  | stubTimeout (name : Nat)
  /-- PEER_REQUEST (R416): A package serves, forwards or retries a request for a page. -/
  | peerRequest (source seq addr : Nat) (asks : Nat ⊕ List (BitVec 8) ⊕ (BitVec 4 × Bool × BitVec 64 × BitVec 64))
      (forwarded : Bool) (mark : Option Nat)
  /-- REDIRECT (R417): A requester receives a redirect and sends later requests with MARK. -/
  | redirect (name owner : Nat)
  /-- PEER_REQUEST_TIMEOUT (R411): A peer request unanswered after 20 µs counts as failed. -/
  | peerRequestTimeout (request : Nat)
  /-- PEER_RETRY_RESEND (R411): A failed peer request is resent after its backoff, or ends at the ninth failure. -/
  | peerRetryResend (request : Nat)
  /-- COUNTER_ADVANCE (R420): A holder advances a counter for a seal or refuses. -/
  | counterAdvance (index measurement : Nat)
  /-- LEASE_REQUEST (R423): A holder grants a counter lease with a signed statement. -/
  | leaseRequest (index restorer nonce : Nat)
  /-- CONSUME (R423): A holder advances the counter and ends the lease. -/
  | consume (index restorer : Nat)
  /-- LEASE_EXPIRY (R423): A lease ends after 10 s with the value unchanged. -/
  | leaseExpiry (index : Nat)
  /-- RAISE (R357): Commits a launch packet to the lowest free slot. -/
  | raise (a d : BitVec 6)
  /-- QPUSH (R358): Copies an item into a stage's input queue. -/
  | qpush (b a d : BitVec 6)
  /-- QPUSH_ROOM (R358): A waiting QPUSH completes when its queue gains room. -/
  | qpushRoom (strand : Nat)
  /-- QPUSH_CANDIDATE_MARK (R366): A QPUSH waiting over 50 µs marks its bent as a candidate. -/
  | qpushCandidateMark (strand : Nat)
  /-- QPOP (R359): Takes the oldest item of the strand's input queue. -/
  | qpop (a d : BitVec 6)
  /-- EXIT (R361): Releases slots, ways and shares and ends the strand after its release. -/
  | exit
  /-- YIELD (R361): A pre-emption point. -/
  | yield
  /-- STGDONE (R360): Releases and closes the stage's output queues. -/
  | stgdone
  /-- RAISING_END (R26): After every stage and engine command ends, the completion word is written and the slot freed. -/
  | raisingEnd (rid : Nat)
  /-- TLBINV (R392): Releases, drops covered translations, drains, writes back pins and acquires. -/
  | tlbinv (b a d : BitVec 6)
  /-- TLBINVA (R393): Releases and drops covered translations without waiting for the drain. -/
  | tlbinva (b a d : BitVec 6)
  /-- TLBSYNC (R393): Waits for the drains of earlier TLBINVA instructions. -/
  | tlbsync
  /-- CTXSAVE (R402): Pre-empts if needed and holds a bent. -/
  | ctxsave (b a d : BitVec 6)
  /-- CTXREST (R402): Clears the held mark so the bent waits for placement. -/
  | ctxrest (b a d : BitVec 6)
  /-- SLOGRP (R395): Replays side-log entries that now translate. -/
  | slogrp (d : BitVec 6)
  /-- SLOGDROP (R396): Discards side-log entries in a range. -/
  | slogdrop (b a d : BitVec 6)
  /-- PGPIN (R397): Copies a page into a pinned window and records the pin. -/
  | pgpin (a d : BitVec 6)
  /-- PGUNPIN (R398): Writes a pinned frame back and removes the pin. -/
  | pgunpin (a d : BitVec 6)
  /-- STUBQ (R403): Reads the stub table entry of a page. -/
  | stubq (a d : BitVec 6)
  /-- CONVOY_ISSUE (R113): A convoy or vector-control entry begins at the queue head when its sources are free. -/
  | convoyIssue (strand : Nat)
  /-- ELEMENT_GROUP_COMMIT (R115): An element group commits its registers, stores and flags together. -/
  | elementGroupCommit (strand : Nat)
  /-- TRAP_ENTRY (R371): A trap sets XPC, XCAUSE, XVAL and XSTAT and enters the handler. -/
  | trapEntry (strand : Nat) (cause : BitVec 8) (xval : BitVec 64)
  /-- SLOG (R373): The asynchronous side-log event is taken at the oldest uncommitted point. -/
  | slog (strand : Nat)
  /-- S2_FAULT_HEARTWOOD (R387): Heartwood resolves a second-stage fault or delivers it to the handler. -/
  | s2FaultHeartwood (strand : Nat) (resolved : Bool)
  /-- WFI_WAKE (R100): An event ends a WFI and issue resumes. -/
  | wfiWake (strand : Nat)
  /-- LAUNCH_SLOT_WRITE (R351): A host write stores bytes into a launch slot and commits when it covers bytes 248-255. -/
  | launchSlotWrite (vf slot offset : Nat) (bytes : List (BitVec 8))
  /-- PLACE_BENT (R363): The Foreman places a waiting bent when bays and a stack set are free. -/
  | placeBent (bent : Nat) (bays : List (List Nat))
  /-- BENT_FIRST_ISSUE (R355): The first instruction issues 600 ns after placement. -/
  | bentFirstIssue (bent : Nat)
  /-- CREATE_INSTANCE (R363): The Foreman creates a stage instance for a queued item. -/
  | createInstance (rid stage : Nat)
  /-- PRIORITY_AGING (R364): Each whole millisecond raises a waiting bent's effective priority. -/
  | priorityAging (bent : Nat)
  /-- STAGE_SCORING (R366): Every 2 µs the Foreman scores stages by queue occupancy. -/
  | stageScoring
  /-- PREEMPTION (R368): Issue stops at a boundary, held work finishes and state is saved. -/
  | preemption (bent : Nat)
  /-- PREEMPTION_SAVED (R368): Every strand's save completes and the bays become free. -/
  | preemptionSaved (bent : Nat)
  /-- ARBITER_GRANT (R429): Every 1 µs the current arbiter renews each beam's grant. -/
  | arbiterGrant (grants : List Nat)
  /-- BAYSPLIT_WRITE (R183): A write to BAYSPLIT changes the lane-slice split or is ignored with ERR. -/
  | baysplitWrite (bay : Nat) (value : BitVec 64)
  /-- REGISTER_WRITE (R8): A write to a device or management register without a row of its own. -/
  | registerWrite (addr : Nat) (value : BitVec 64)
  /-- HEARTWOOD_CSR_WRITE (R380): Heartwood writes a machine CSR of a bay. -/
  | heartwoodCsrWrite (bay : Nat) (csr : BitVec 12) (value : BitVec 64)
  /-- RSGO_WRITE (R426): Starts a RESYNC summary unless one is busy. -/
  | rsgoWrite
  /-- RESYNC_COMPLETE (R426): The summary is written and DONE set. -/
  | resyncComplete
  /-- HOST_POSTED_WRITE (R405): A host posted write is performed in arrival order per port. -/
  | hostPostedWrite (port addr : Nat) (bytes : List (BitVec 8))
  /-- HOST_READ (R331): A host read of device memory is served at each line's home. -/
  | hostRead (addr bytes : Nat)
  /-- FUNCTION_LEVEL_RESET (R433): Ends a virtual function's raisings and frees its slots. -/
  | functionLevelReset (vf : Nat)
  /-- PACKAGE_RESET (R433): Resets the package, keeping HBM self-refresh when frozen. -/
  | packageReset
  /-- POWER_ON_RESET (R433): Resets every state except the Heartwood counters. -/
  | powerOnReset
  /-- FRZ_N (R431): FRZ_N low for 100 ns stops every compute clock. -/
  | frzN
  /-- PLUMB_FREEZE (R431): Plumb's freeze command stops every compute clock. -/
  | plumbFreeze
  /-- PLUMB_READOUT (R432): Plumb reads state of a frozen package by scan or dump port. -/
  | plumbReadout (addr bytes : Nat)
  /-- PLUMB_BUDGET (R429): Heartwood or Plumb sets the package current budget. -/
  | plumbBudget (watts : Nat)
  /-- CORRECTABLE_ERROR (R434): A correctable error is corrected, written back and counted. -/
  | correctableError (bay : Nat)
  /-- UNCORRECTABLE_ERROR (R435): An uncorrectable word is marked poisoned and logged. -/
  | uncorrectableError (addr : Nat)
  /-- SCRUB (R434): The memory-side cache controllers scrub every line once each 24 hours. -/
  | scrub
  /-- ACCESS_PERFORMED (R304): A reply from a place of performance arrives at the issuing bay: load data is delivered, or a write, with its invalidation acknowledgements, counts as performed at a scope and its outstanding-write counter falls. -/
  | accessPerformed (strand position scope : Nat)
  /-- HOST_ATOMICOP (R404): A PCIe AtomicOp from the host (FetchAdd, Swap or CAS) arrives at a port and is performed at the line's home as device memory's completer. -/
  | hostAtomicop (op : BitVec 4) (w64 : Bool) (addr : Nat) (operand compare : BitVec 64)
  /-- POWER_LOSS (R433): The supply fails: every state is lost except the non-volatile Heartwood counters. -/
  | powerLoss
  /-- DOMAIN_FORMATION (R409): The host forms the scale-up domain and assigns the package its number and the domain size. -/
  | domainFormation (package : Nat) (members : List Nat)
  /-- COUNTER_ALLOCATION (R423): Heartwood allocates one of its counters and binds it to a measurement. -/
  | counterAllocation (index measurement : Nat)
  /-- VIRTUAL_FUNCTION_MAPPING (R408): Heartwood maps a virtual function onto 1 to 32 wings and fixes its privilege level. -/
  | virtualFunctionMapping (vf : Nat) (wings : List Nat) (runtime : Bool) (asid : BitVec 16) (ptbase : BitVec 64)
    (vmid : BitVec 10) (s2root : BitVec 64)
  deriving DecidableEq, Repr

end Sys2Proof
end

