-- ==== Sys2Proof/Machine/State.lean ====
section
/-! DEFINITION. The state of a Skelzel package as plain data: every bay, strand, bent, raising, engine command and Sill
table the spec names, the reasons a step stops, and the state after reset. -/

namespace Sys2Proof.Machine

open Sys2Proof.Config

/-- Bytes by address in canonical form: addresses strictly rise and no listed byte is zero, which is what an unlisted
address reads as (log entry 1). -/
abbrev Mem := List Host.Cell

/-- The two levels at which a strand runs (R22). -/
inductive Level where
  | user
  | runtime
  deriving DecidableEq, Repr

/-- One pair of a fibre (R219): coordinate, value field, and the source tag, a bent index. -/
structure Pair where
  coord : BitVec 32
  value : BitVec 32
  tag : BitVec 9
  deriving DecidableEq, Repr

/-- A fibre register (R219): its pairs in order, the value kind and the unsorted flag. -/
structure Fibre where
  pairs : List Pair
  kind : BitVec 2
  unsorted : Bool
  deriving DecidableEq, Repr

/-- A message in a receive buffer (R245, R246): the sender's SID and bent index, the pairs, and whether the FRECV that
FPROG names has begun to consume it. -/
structure Message where
  sender : Nat
  tag : BitVec 9
  body : Fibre
  begun : Bool
  deriving DecidableEq, Repr

/-- A jig slot of one bay (R249, R250). `poison` marks an uncorrectable word (R275). -/
structure Slot where
  claimed : Bool
  fmt : BitVec 4
  rows : Nat
  cols : Nat
  scaled : Bool
  data : BitVec slotBits
  side : BitVec sideBits
  poison : Bool
  deriving DecidableEq, Repr

/-- The kind of a tile (R266). -/
inductive TileKind where
  | none
  | float
  | int
  deriving DecidableEq, Repr

/-- An accumulator tile of one bay (R249, R266, R274, R275). Word (m, n) lies at bit 32 × (256 × m + n) of `words`. -/
structure Tile where
  words : BitVec tileBits
  kind : TileKind
  flags : BitVec 8
  nanc : Nat
  poison : Bool
  touched : Bool
  deriving DecidableEq, Repr

/-- A multiply the trusses hold (R270): the tile it writes, the slots it reads, and whether its last step is done. -/
structure Multiply where
  tile : Nat
  slots : List Nat
  done : Bool
  deriving DecidableEq, Repr

/-- What a side-log entry will do when it is replayed (R214). -/
inductive LogOp where
  /-- stored bytes, each as its offset in the line, the byte, and the bits of it that are stored (R200) -/
  | store (bytes : List (Nat × Byte × Byte))
  /-- atomic elements with ret = 0: operation, width 64, and (offset, operand) pairs -/
  | atomic (op : BitVec 4) (w64 : Bool) (elems : List (Nat × BitVec 64))
  /-- slack additions: (offset, FP32 addend) pairs -/
  | slack (elems : List (Nat × BitVec 32))
  deriving DecidableEq, Repr

/-- An entry of a bay's side log (R214). -/
structure LogEntry where
  line : Nat
  asid : BitVec 16
  vmid : BitVec 10
  level : Level
  rq : BitVec 2
  nt : Bool
  seq : Nat
  op : LogOp
  /-- a stored element of it begins in the line before, which lies in another page (R199) -/
  joins : Bool
  /-- words of it with an uncorrectable error (R434, R435) -/
  bad : List Nat := []
  deriving DecidableEq, Repr

/-- The part of a strand's context that one attached bay holds (R12, R17, R249, R380). -/
structure Block where
  /-- the bay that holds this position -/
  bay : Nat
  /-- v0 to v31 as one bit string (R106) -/
  v : BitVec vfileBits
  /-- m0 to m7 (R109) -/
  m : BitVec mfileBits
  /-- the carry cell (R150) -/
  carry : BitVec 64
  /-- the 64 lane generators (R158) -/
  gens : Vector (BitVec 32) 64
  /-- the lane slices: byte o of lane l at address 98304 × l + o (R203) -/
  slices : Mem
  /-- the jig slots (R249) -/
  slots : Vector Slot 16
  /-- the tiles (R249) -/
  tiles : Vector Tile 4
  /-- the side log, oldest first (R213) -/
  slog : List LogEntry
  /-- L1 ways converted to scratch (R210) -/
  ways : BitVec 8
  /-- scratch bytes at 0x1_0000 × way + offset (R182) -/
  scratch : Mem
  /-- outstanding writes per scope: bent, beam, device, domain, system (R318) -/
  outst : Vector Nat 5
  /-- lines in the dirty-address FIFO (R319) -/
  fifo : List Nat
  /-- the last write of each stream to a strongly ordered page, while it is counted: whether the vector stream made it, and
  the counters that count it (R307) -/
  strongOut : List (Bool × List Bool)
  /-- THE MODEL'S OWN: which entries of `State.written` this bay's strand has made since its last release at device scope or
  wider (R103) -/
  unreleased : List Nat
  /-- registers holding an uncorrectable word, as 0x100 × class + number (R435) -/
  badRegs : List Nat
  /-- MPLACE (R380) -/
  mplace : BitVec 64
  /-- MS2ROOT (R380) -/
  ms2root : BitVec 64
  /-- MS2FLT (R380) -/
  ms2flt : BitVec 64
  /-- MS2CTL (R380) -/
  ms2ctl : BitVec 64
  /-- MECC (R380): corrected events -/
  mecc : BitVec 32
  deriving DecidableEq, Repr

/-- An entry of the pending-fragment stack (R121): a join entry, or an else entry with the else-path's address. -/
structure Frag where
  isElse : Bool
  masks : List (BitVec maskBits)
  pc : BitVec 64
  deriving DecidableEq, Repr

/-- An instruction a strand waits in (R23, R100, R216, R245, R324, R327, R333, R358, R393). -/
inductive Wait where
  | none
  | wfi
  | waita
  | barrier (n : Nat)
  | queueFull (stage : Nat)
  | reservation (receiver : Nat)
  /-- an FSEND whose reservation is granted and whose packets are in flight, and one whose packets have arrived -/
  | sending (receiver : Nat)
  | sent
  | engineRoom
  | sideLog
  | tlbRoom
  | stage2 (cause : BitVec 8) (xval : BitVec 64) (acc : BitVec 2) (level : BitVec 3)
  | save (bent : Nat)
  /-- a line it needs is held by a prepared vector atomic (R286), or a region home serves another request (R294) -/
  | busyUnit
  /-- a peer or the host has not answered its request (R411) -/
  | peer
  deriving DecidableEq, Repr

/-- A queue entry in progress (R113, R115, R127): its address, its words as they were fetched, and the next group. -/
structure Inflight where
  pc : BitVec 64
  words : List (BitVec 32)
  /-- of a repeat frame: the addresses of those words -/
  addrs : List (BitVec 64) := []
  group : Nat
  /-- inside a repeat frame: the replay index and the frame position of the convoy (R130) -/
  frame : Option (Nat × Nat)
  deriving DecidableEq, Repr

/-- One FPREF request of the stream engine (R233). -/
structure Prefetch where
  descr : BitVec 64
  parent : BitVec 64
  count : Nat
  deriving DecidableEq, Repr

/-- A write of this strand that one of its own later accesses may still miss (R85, R132, R309): it is not yet performed for
the other stream, or it lies in an unordered page. The list of them is in coherence order (R311). -/
structure OldWrite where
  /-- the bytes it wrote: key in `State.mem`, and the value before it in coherence order -/
  bytes : List (Nat × Byte)
  /-- the vector stream made it -/
  vector : Bool
  /-- the other stream may still miss it -/
  cross : Bool
  /-- it lies in an unordered page: its own stream may miss it too -/
  unord : Bool
  /-- it lies in a strongly ordered page (R307) -/
  strong : Bool
  /-- no later store may be performed before it: a release has followed (R314), or an atomic has made it -/
  settled : Bool
  /-- a load of the strand has returned it (R309) -/
  seen : Bool
  /-- the convoy member in progress that made it, counted from 1, or 0 while that member runs: its own later elements
  follow it (R197) -/
  fresh : Option Nat
  deriving DecidableEq, Repr

/-- The scalar context of a strand: s0 to s63 (R12; entry 0 is never written, R75), the pc, the level, the user CSRs
of R95 and the runtime CSRs of R376 that are not read from other state. -/
structure Regs where
  s : Vector (BitVec 64) 64
  pc : BitVec 64
  level : Level
  /-- VL (R95) -/
  vl : Nat
  /-- VT (R35) -/
  vt : BitVec 13
  /-- VSTART (R118) -/
  vstart : BitVec 64
  /-- MST (R96) -/
  mst : BitVec 64
  /-- FRM (R97) -/
  frm : BitVec 64
  /-- SRSEED (R159) -/
  srseed : BitVec 64
  /-- JSHAPE (R259) -/
  jshape : BitVec 64
  /-- FPROG (R225) -/
  fprog : BitVec 64
  /-- FCAP (R223) -/
  fcap : BitVec 64
  /-- bits 31:29 of FST: MORE, EMPTY, DROP (R224); its other fields are read from the fibres -/
  fst : BitVec 3
  /-- RSTG (R131) -/
  rstg : BitVec 64
  /-- QCNT (R362) -/
  qcnt : BitVec 64
  /-- SID, BID, STG, RID, NSTR (R16) -/
  sid : BitVec 64
  bid : BitVec 64
  stg : BitVec 64
  rid : BitVec 64
  nstr : BitVec 64
  /-- WTO (R95) -/
  wto : BitVec 64
  /-- CYCLE and ACYC (R95, R430) -/
  cycle : BitVec 64
  acyc : BitVec 64
  /-- XPC, XCAUSE, XVAL, XSTAT, XVEC, XSCR (R376 to R379) -/
  xpc : BitVec 64
  xcause : BitVec 64
  xval : BitVec 64
  xstat : BitVec 64
  xvec : BitVec 64
  xscr : BitVec 64
  /-- ASID and PTBASE (R379) -/
  asid : BitVec 64
  ptbase : BitVec 64
  /-- SLOGST.EN and SLOGST.OVF (R218); COUNT is read from the logs -/
  slogEn : Bool
  slogOvf : Bool
  /-- FMODE (R320) -/
  fmode : BitVec 64
  /-- FRAGBASE (R126) -/
  fragbase : BitVec 64
  /-- WATCHA (R379) -/
  watcha : BitVec 64
  deriving DecidableEq, Repr

/-- Where an engine command stands (R348). -/
inductive CmdState where
  | queued
  | running
  | ended
  /-- ended for 1 ms and more: its ticket is unknown (R348) -/
  | expired
  deriving DecidableEq, Repr

/-- An engine command (R333 to R340). -/
structure Command where
  /-- sequence number of the ticket (R336) -/
  seq : Nat
  engine : Nat
  fn : Nat
  wing : Nat
  rid : Nat
  vf : Nat
  /-- the issuing strand, and the bent that holds it -/
  strand : Nat
  asid : BitVec 16
  ptbase : BitVec 64
  vmid : BitVec 10
  s2root : BitVec 64
  level : Level
  /-- the block as read at issue (R333), with the member list of an XCOLL or the tensor header of an XEXPAND behind it -/
  block : List Byte
  cwa : BitVec 64
  /-- physical address of the completion word, unless TLBINV removed its translation (R338), and the log2 of its page's size
  and G of the entry -/
  cwpa : Option Nat
  cwSize : Nat
  cwGlob : Bool
  state : CmdState
  status : Nat
  /-- destination bytes final so far (R337) -/
  bytes : Nat
  /-- elements, rows, bags, lines or ring steps done, in the iteration order of its function -/
  done : Nat
  /-- XEXPAND: the 32 states and the next stream word (R344) -/
  states : List Nat
  word : Nat
  /-- XCANCEL has stopped it (R348) -/
  cancel : Bool
  /-- ranges whose entries TLBINV has dropped from its engine's TLB while it ran (R338): first address and length -/
  removed : List (Nat × Nat)
  /-- XCOLL: the chunk values of its ring steps so far (R347); XEXPAND: elements not yet written; XSEAL: chunk tags -/
  acc : List Nat
  deriving DecidableEq, Repr

/-- A strand (R16, R17, R355): its registers, its attached blocks (position 0 first; SPAN is their number), its fibre
unit and its part of the bent's and the Foreman's bookkeeping. -/
structure Strand where
  /-- the bent that holds the strand, by its number in `State.bents` -/
  bent : Nat
  /-- position in the bent, which is its bent index (R219) -/
  index : Nat
  r : Regs
  blocks : List Block
  /-- the save area the runtime has reserved for it: its physical address and its bytes (R369) -/
  saveBase : Nat
  saveSize : Nat
  /-- what its last save has written there: offsets and bytes (R368, R369) -/
  saved : List (Nat × Byte)
  /-- the shrink mark: the smaller span to take (R19) -/
  shrink : Option Nat
  /-- the pending-fragment stack, newest first (R121) -/
  frags : List Frag
  /-- entries of the stack that lie in the spill area, the oldest ones (R125) -/
  spilled : Nat
  /-- f0 to f7 (R219) -/
  fibres : Vector Fibre 8
  /-- the receive buffer (R246) -/
  inbox : List Message
  /-- its FSEND in progress whose reservation is granted: the receiver, the pc of its convoy, and whether the packets have arrived
  (R245) -/
  sending : Option (Nat × Nat × Bool)
  /-- messages whose reservation is granted and which are still in flight (R245) -/
  granted : List Message
  /-- strands whose FSEND waits for a reservation here, in the order their requests came (R245) -/
  requests : List Nat
  /-- requests of the stream engine, oldest first (R233) -/
  prefetch : List Prefetch
  /-- multiplies the trusses hold, oldest first (R270) -/
  multiplies : List Multiply
  /-- pend(n) of each barrier (R327) -/
  pend : Vector (Option Nat) 16
  /-- the BARS in which the strand has already arrived (R328) -/
  barsDone : Bool
  wait : Wait
  /-- nanoseconds waited in WAITA or WFI (R100, R324) -/
  waited : Nat
  /-- an SLOG event is pending (R373) -/
  slogPending : Bool
  /-- next side-log sequence number (R214) -/
  logSeq : Nat
  /-- outstanding TLBINVA drains: ASID word, first address, length (R393) -/
  drains : List (BitVec 64 × BitVec 64 × BitVec 64)
  /-- writes that an access of the strand may still miss, in coherence order (R85, R132, R309) -/
  pending : List OldWrite
  /-- THE MODEL'S OWN: a vector access of the convoy in progress has touched a strongly ordered page (R307) -/
  strongNow : Bool
  /-- how much of `State.written` an instruction fetch cannot miss, and what of that it can: set by IFENCE (R102 to R104) -/
  fetchSince : Nat
  fetchStale : List Nat
  /-- the same as the strand's last acquire at device scope or wider left it (R103) -/
  acquiredAt : Nat
  acquiredStale : List Nat
  inflight : Option Inflight
  /-- the command an XE holds while it waits for room in its queue, and the register its ticket goes to (R333) -/
  pendingXe : Option (Nat × Command)
  exited : Bool
  deriving DecidableEq, Repr

/-- Whether a bent waits for bays, holds them, or has ended (R15, R363). -/
inductive BentState where
  | waiting
  | resident
  | ended
  deriving DecidableEq, Repr

/-- A bent (R13 to R15, R363 to R368, R402). -/
structure Bent where
  rid : Nat
  stage : Nat
  bid : Nat
  state : BentState
  /-- its strands, by their numbers in `State.strands`; none before the first placement -/
  strands : List Nat
  /-- N of its instance and its item, for a stage after the first (R354, R358) -/
  item : List (BitVec 64)
  /-- current phase of each barrier (R327) -/
  phase : Vector Nat 16
  /-- strands arrived at the current phase of each barrier, by number -/
  arrived : Vector (List Nat) 16
  /-- stack set, once it has one (R457) -/
  stack : Option Nat
  /-- first instruction may issue (R355) -/
  started : Bool
  /-- pre-emption requested (R365) -/
  preempt : Bool
  /-- a strand waited more than 50 microseconds in QPUSH (R366) -/
  candidate : Bool
  /-- the waiting bent for which it is pre-empted, by its number (R365 to R367) -/
  displacedBy : Option Nat
  /-- whole milliseconds waited (R364) -/
  waitedMs : Nat
  /-- effective priority it was placed with (R364) -/
  placedPrio : Nat
  /-- TIME when it was placed (R365) -/
  placedAt : Nat
  /-- placed in this order (R365) -/
  placedSeq : Nat
  /-- held by CTXSAVE (R402) -/
  held : Bool
  /-- halted (R101, R372) -/
  halted : Bool
  deriving DecidableEq, Repr

/-- One stage of a raising with its input queue (R353, R360). -/
structure Stage where
  entry : BitVec 64
  strands : Nat
  span : Nat
  flex : Bool
  cap : Nat
  producer : Nat
  buf : BitVec 64
  /-- items in the input queue, oldest first, each of eight 64-bit words (R358) -/
  items : List (List (BitVec 64))
  closed : Bool
  complete : Bool
  /-- bents created so far -/
  created : Nat
  /-- queue score of R366, scaled by the capacity -/
  score : Nat
  deriving DecidableEq, Repr

/-- A raising (R13, R350 to R354, R360). -/
structure Raising where
  rid : Nat
  vf : Nat
  slot : Nat
  stages : List Stage
  /-- handle of its container -/
  cont : BitVec 64
  n : Nat
  bents : Nat
  args : List (BitVec 64)
  ablk : BitVec 64
  cwa : BitVec 64
  cval : BitVec 64
  spool : BitVec 64
  spsz : BitVec 64
  prio : Nat
  wings : List Nat
  /-- the runtime or a function-level reset ended it (R352, R433) -/
  aborted : Bool
  ended : Bool
  deriving DecidableEq, Repr

/-- A launch slot that is not in its reset state (R351). -/
structure LaunchSlot where
  vf : Nat
  idx : Nat
  bytes : BitVec 2048
  state : BitVec 3
  ovr : Bool
  cwf : Bool
  lstat : BitVec 8
  rid : Nat
  deriving DecidableEq, Repr

/-- What Heartwood has fixed for a virtual function (R379, R387, R408). -/
structure Vf where
  num : Nat
  wings : List Nat
  runtime : Bool
  asid : BitVec 16
  ptbase : BitVec 64
  vmid : BitVec 10
  s2root : BitVec 64
  deriving DecidableEq, Repr

/-- A container the loader has placed (R64, R350, R352): handle, text range, wings, the stack size of each entry as its B
and M of R67, its number of stages, and its digest (R421). -/
structure Container where
  handle : BitVec 64
  textBase : BitVec 64
  textEnd : BitVec 64
  wings : List Nat
  stackSizes : List (BitVec 64 × Nat × Nat)
  stages : Nat
  digest : BitVec 384
  deriving DecidableEq, Repr

/-- A leaf found by a walk: the entry, its address, the log2 of its page size, and the page it names (R384). -/
structure Leaf where
  pte : Nat
  addr : Nat
  size : Nat
  base : Nat
  deriving DecidableEq, Repr

/-- A translation a TLB may hold (R388): page number and size by address bits, its tags, its target and attributes. -/
structure TlbEntry where
  vmid : BitVec 10
  asid : BitVec 16
  glob : Bool
  /-- log2 of the page size: 12, 16, 21 or 30 -/
  size : Nat
  page : Nat
  base : Nat
  /-- combined bits 11:0 of the leaf: ORD, HOME, D, A, G, U, X, W, R, V -/
  low : BitVec 12
  cmp : Bool
  slk : Bool
  mig : Bool
  /-- the leaf of the first stage, and of the second where there is one, as they were read (R385, R387) -/
  first : Leaf
  second : Option Leaf
  deriving DecidableEq, Repr

/-- A non-leaf entry a walker may hold (R388): the prefix of the address above the level it leads to, and the table. -/
structure WalkEntry where
  vmid : BitVec 10
  asid : BitVec 16
  stage2 : Bool
  level : Nat
  prefixBits : Nat
  table : Nat
  deriving DecidableEq, Repr

/-- A byte a bay's L1 may hold dirty under owned writes (R186, R188, R190): the bay, the byte's key, and what the byte was
before each of those writes, oldest first, each with the length of `State.written` at the write. -/
structure DirtyByte where
  bay : Nat
  key : Nat
  homes : List (Nat × Byte)
  deriving DecidableEq, Repr

/-- A line that a fibre level cache (R212, R232), or an L1 under self-invalidating reads (R189), may hold: its key (a level
cache's: its address), its 128 bytes as they were read, and, in a level cache, whether it was read as values, which have
ways of their own. -/
structure LevelLine where
  addr : Nat
  bytes : List Byte
  values : Bool := false
  deriving DecidableEq, Repr

/-- What a bay keeps whoever is resident on it (R12, R183, R388, R434). -/
structure Bay where
  /-- BAYSPLIT.K and BAYSPLIT.ERR (R183) -/
  k : Nat
  splitErr : Bool
  tlb : List TlbEntry
  level : List LevelLine
  /-- lines the L1 may hold under self-invalidating reads, as they were read (R186, R189) -/
  copies : List LevelLine
  /-- machine CSRs while no strand is resident (R380) -/
  mecc : BitVec 32
  mplace : BitVec 64
  ms2root : BitVec 64
  ms2flt : BitVec 64
  ms2ctl : BitVec 64
  deriving DecidableEq, Repr

/-- A holder's share of a slack region (R291): the bay, its share in units, and when it last used the record. -/
structure Holder where
  bay : Nat
  share : Nat
  used : Nat
  /-- units granted by a GRANT still in flight, and units asked by a GROW not yet served (R294) -/
  grantIn : Nat
  asked : Option Nat
  /-- units in a RET or DRAWN still in flight (R294) -/
  retIn : Nat
  /-- a DRAW has arrived and is not yet answered: its return flag (R294) -/
  drawn : Option Bool
  deriving DecidableEq, Repr

/-- A slack region (R289): its record at the region home. -/
structure Region where
  base : Nat
  size : Nat
  asid : BitVec 16
  vmid : BitVec 10
  budget : BitVec 32
  unit : BitVec 32
  pool : Nat
  holders : List Holder
  /-- a TOLQ, SLKDRAW, SLKREL or deletion in progress: strand and tolerance (R294) -/
  serving : Option (Nat × BitVec 32)
  deriving DecidableEq, Repr

/-- A vector-atomic sub-operation a place has accepted and not yet performed (R286): it holds the lines of its elements,
which are physical addresses with their operands. -/
structure Prepared where
  place : Nat
  requester : Nat
  op : BitVec 4
  w64 : Bool
  elems : List (Nat × BitVec 64)
  deriving DecidableEq, Repr

/-- A shim line (R291): the bay and line, partial sums (32 of 32 bits), touched elements, accumulated magnitude. -/
structure Shim where
  bay : Nat
  region : Nat
  line : Nat
  partials : BitVec 1024
  touched : BitVec 32
  mag : BitVec 32
  /-- a DRAIN is in flight, so the DACK is awaited (R294) -/
  draining : Bool
  deriving DecidableEq, Repr

/-- A pin record (R397). -/
structure Pin where
  va : Nat
  asid : BitVec 16
  vmid : BitVec 10
  backing : Nat
  window : Nat
  deriving DecidableEq, Repr

/-- A swap record (R400): frames, size in bytes, and the line pairs exchanged. -/
structure SwapRec where
  a : Nat
  b : Nat
  size : Nat
  done : List Nat
  deriving DecidableEq, Repr

/-- A migration record (R414): name, source frame, size, destination, lines copied, and the command's ticket. -/
structure MigRec where
  name : Nat
  frame : Nat
  size : Nat
  dest : Nat
  done : Nat
  ticket : Nat
  deriving DecidableEq, Repr

/-- A stub (R403, R412, R418); `born` is TIME at its installation. -/
structure Stub where
  name : Nat
  size : Nat
  target : Nat
  rt : Bool
  born : Nat
  acks : List Nat
  forwards : Nat
  deriving DecidableEq, Repr

/-- A request of a peer package that is held here (R415, R417): a read, a write, or an atomic with its operation, width,
operand and expected value (R404). -/
inductive PeerOp where
  | read (n : Nat)
  | write (bytes : List Byte)
  | atomic (op : BitVec 4) (w64 : Bool) (operand expected : BitVec 64)
  deriving DecidableEq, Repr

/-- A request to or from a peer package that is held, forwarded or outstanding (R411, R416, R417). -/
structure PeerReq where
  peer : Nat
  seq : Nat
  addr : Nat
  op : PeerOp
  mark : Option Nat
  /-- of an outstanding one: who made it, a strand `k` as 2k and an engine command of sequence number `n` as 2n + 1 -/
  who : Nat
  /-- failures so far (R411) -/
  retries : Nat
  /-- its answer has come -/
  answered : Bool
  /-- it was answered RETRY and has not gone out again (R417) -/
  refused : Bool
  /-- the owner's number that the RETRY carried, if it carried one (R416) -/
  named : Option Nat := none
  /-- it arrived here forwarded (R416) -/
  forwarded : Bool := false
  deriving DecidableEq, Repr

/-- What a package tells others of a page (R415, R417). -/
inductive NoticeKind where
  | own
  | retarget
  | owner
  | ownerAck
  deriving DecidableEq, Repr

/-- A notice this package has sent: to which package, of which page, and the owner it names (R415, R417). -/
structure Notice where
  kind : NoticeKind
  dest : Nat
  name : Nat
  owner : Nat
  deriving DecidableEq, Repr

/-- The statement that comes with a lease (R423): the holder, the counter's index, its value, the bound measurement, the
restorer, the restorer's nonce, and the holder's signature over them. -/
structure Statement where
  holder : Nat
  index : Nat
  value : Nat
  measurement : Nat
  restorer : Nat
  nonce : Nat
  sig : List Byte
  deriving DecidableEq, Repr

/-- A committed packet the Foreman has not yet checked, since a line it reads is held (R286, R420, R352). -/
structure Admission where
  rid : Nat
  vf : Nat
  slot : Nat
  bytes : List Byte
  deriving DecidableEq, Repr

/-- A raising's end whose completion word waits for a line that is held (R286, R352, R420). -/
structure Ending where
  rid : Nat
  vf : Nat
  slot : Nat
  cwa : BitVec 64
  status : Nat
  value : Nat
  deriving DecidableEq, Repr

/-- A Heartwood counter (R423): allocated, bound measurement, value, and the lease: restorer, nonce, TIME at its grant. -/
structure Counter where
  index : Nat
  measurement : Nat
  value : Nat
  lease : Option (Nat × Nat × Nat)
  deriving DecidableEq, Repr

/-- A record of the error log of the RESYNC summary (R427, section 8). -/
structure ErrRec where
  time : Nat
  kind : Nat
  bay : Nat
  cause : Nat
  rid : Nat
  xval : BitVec 64
  deriving DecidableEq, Repr

/-- What the part and its attachments are (R28, R182, R407): no reset changes it. DESIGN CHOICE (log entry 3). -/
structure Part where
  /-- fused-off bays (R28) -/
  fused : List Nat
  /-- wings whose enabled HBM is below 32 GiB, with their GiB (R182) -/
  hbm : List (Nat × Nat)
  /-- attached bytes of memory ports 0 to 7 (R182) -/
  ports : Vector Nat 8
  /-- second-tier ranges the host has configured as pooled: first address and length (R303) -/
  pooled : List (Nat × Nat)
  /-- attestation private key and certificate chain (R407, R421) -/
  key : List Byte
  chain : List Byte
  partCode : BitVec 32
  revision : BitVec 32
  portsTrained : BitVec 32
  deriving DecidableEq, Repr

/-- The machine (R9, R12). Numbers of strands, bents and regions are their places in these lists. -/
structure State where
  /-- generic memory by 57-bit physical address: HBM, second tier, windows, pinned slices, and the memory of peers and
  host that device accesses have met (R20, R181, R184) -/
  mem : Mem
  /-- poisoned 64-bit words, by physical address div 8 (R435) -/
  poison : List Nat
  bays : Vector Bay 320
  /-- what the homes record of the L1s: the holders of each line and their masks of dirty bytes (R188, R190) -/
  dirty : List DirtyByte
  /-- THE MODEL'S OWN: the writes that have changed memory, oldest first, each with the bytes before it. A fetch may return
  what a quad held since the strand's last IFENCE (R104), a read of pooled memory any value a byte has held (R331). -/
  written : List (List (Nat × Byte))
  strands : List Strand
  bents : List Bent
  raisings : List Raising
  /-- packets that wait for their checks, and ends that wait for their completion words (R352) -/
  admissions : List Admission
  endings : List Ending
  launch : List LaunchSlot
  vfs : List Vf
  containers : List Container
  /-- WVEC of each wing (R381) -/
  wvec : Vector (BitVec 64) 32
  /-- non-leaf entries of each beam's walker (R388) -/
  walkers : List (Nat × WalkEntry)
  /-- translations of each engine's TLB (R388) -/
  engineTlb : List (Nat × TlbEntry)
  commands : List Command
  /-- the wing each beam's command queue last served (R336) -/
  xeTurn : Vector Nat 8
  nextTicket : Nat
  nextRid : Nat
  regions : List Region
  shims : List Shim
  /-- accepted sub-operations of vector atomics that hold their lines (R286) -/
  prepared : List Prepared
  pins : List Pin
  swaps : List SwapRec
  migs : List MigRec
  /-- name and owner package (R412) -/
  ownerCache : List (Nat × Nat)
  /-- name and local frame (R412) -/
  adoption : List (Nat × Nat)
  /-- the predecessor an adoption entry names: tag of the page, package (R415) -/
  predecessors : List (Nat × Nat)
  /-- THE MODEL'S OWN: where another package holds a page this one has sent it: tag of the page, frame (R413, R415) -/
  sentTo : List (Nat × Nat)
  /-- the notices this package has sent, oldest first (R415, R417) -/
  notices : List Notice
  /-- the statements this package's Heartwood has sent with a lease, oldest first (R423) -/
  statements : List Statement
  stubs : List Stub
  /-- name and current owner (R412) -/
  directory : List (Nat × Nat)
  /-- peer requests held at this package (R415, R417), and its own outstanding ones (R411) -/
  heldReqs : List PeerReq
  outReqs : List PeerReq
  /-- the last forwarded request this package has served of each requester and page: requester, 4 KiB page, sequence number
  (R410, R417) -/
  served : List (Nat × Nat × Nat)
  /-- redirects received while requests to the page were outstanding: tag of the page, owner, MARK (R417) -/
  redirects : List (Nat × Nat × Nat)
  /-- the next sequence number of this package's requests for a page: tag of its name, number (R417) -/
  pageSeq : List (Nat × Nat)
  counters : List Counter
  /-- wings held by a seal (R420) -/
  sealedWings : List Nat
  /-- the wing's measurement after a restore (R424) -/
  measures : List (Nat × Nat)
  pkg : Nat
  /-- the package numbers of the domain's members, this package's among them (R184, R409) -/
  members : List Nat
  /-- RSADDR, RSLEN, RSSTAT (R426) -/
  rsaddr : BitVec 64
  rslen : BitVec 64
  rsstat : BitVec 64
  /-- TIME at the start of the summary being written (R427) -/
  rsTime : Nat
  errlog : List ErrRec
  part : Part
  /-- the power budget that Heartwood has set, the one in force, and each beam's grant, in watts (R429) -/
  heartwoodBudget : Nat
  budget : Nat
  grants : List Nat
  /-- the demand of each bay at the last grant (R429): a free value -/
  demands : List Nat
  frozen : Bool
  powered : Bool
  /-- correctable events counted for Plumb (R434) -/
  softErrors : Nat
  /-- nanoseconds since package reset (R95) -/
  time : Nat
  /-- the strand that issued last; which strand issues next is open (R23) -/
  cur : Nat
  /-- THE MODEL'S OWN: events of units and outside parties that happen before the next instruction, first one first -/
  agenda : List Instr
  /-- THE MODEL'S OWN: how many free values have been used (Config) -/
  fresh : Nat
  deriving DecidableEq, Repr

/-- Why the machine stops. All are safe: they end a run and prove nothing false. -/
inductive Fault where
  /-- `exec` of an instruction of a strand when no strand is resident at `State.cur`: the instruction has no subject
  (raised by every instruction's meaning; safe: no hardware executes an instruction without a strand, R22) -/
  | noStrand
  /-- an event names a strand, bent, raising, region, command or other part that does not exist or is not in the
  condition the event needs (raised by event meanings; safe: such an event does not happen) -/
  | noSuchPart
  /-- the package is not powered (raised by every step but POWER_ON_RESET; safe: nothing happens, R433) -/
  | unpowered
  /-- the package is frozen: nothing commits, retires or completes (R431; raised by every step that R431 stops; safe) -/
  | frozen
  deriving DecidableEq, Repr

/-- Why a step has no meaning. -/
inductive Refusal where
  /-- the instruction is not modelled (raised by Dispatch only; safe) -/
  | notModelled (mnemonic : String)
  deriving DecidableEq, Repr

/-- What a step answers. -/
abbrev Result := Host.Outcome State Fault Refusal

namespace State

/-- A bay after reset: BAYSPLIT.K 4 (R183), nothing cached, machine CSRs zero (R380). DESIGN CHOICE (log entry 2). -/
def resetBay : Bay :=
  { k := 4, splitErr := false, tlb := [], level := [], copies := [], mecc := 0, mplace := 0, ms2root := 0, ms2flt := 0,
    ms2ctl := 0 }

/-- The part as the model takes it: no bay fused off, all HBM enabled, no second tier attached.
DESIGN CHOICE (log entry 3). -/
def wholePart : Part :=
  { fused := [], hbm := [], ports := Vector.replicate 8 0, pooled := [], key := [], chain := [], partCode := 0,
    revision := 0, portsTrained := 0 }

/-- The package right after power-on reset (R433): no strand, no raising, every table empty, package 0 of a domain of
one (R409), every register at the reset value its map gives. DESIGN CHOICE where no rule gives a value (log entries 1 to 4). -/
def reset : State :=
  { mem := [], poison := [], bays := Vector.replicate 320 resetBay, dirty := [], written := [], strands := [], bents := [],
    raisings := [], admissions := [], endings := [], launch := [], vfs := [], containers := [],
    wvec := Vector.replicate 32 0, walkers := [], engineTlb := [], commands := [], xeTurn := Vector.replicate 8 0,
    nextTicket := 0, nextRid := 1, regions := [], shims := [], prepared := [], pins := [], swaps := [], migs := [],
    ownerCache := [], adoption := [], predecessors := [], sentTo := [], notices := [], statements := [], stubs := [],
    directory := [], heldReqs := [], outReqs := [], served := [], redirects := [], pageSeq := [], counters := [],
    sealedWings := [], measures := [], pkg := 0, members := [0], rsaddr := 0, rslen := 0, rsstat := 0, rsTime := 0,
    errlog := [], part := wholePart, heartwoodBudget := 3600, budget := 3600, grants := [], demands := [], frozen := false,
    powered := true, softErrors := 0, time := 0, cur := 0, agenda := [], fresh := 0 }

end State

end Sys2Proof.Machine
end

