-- ==== Sys2Proof/Machine/Ops.lean ====
section
/-! DEFINITION. The operations every meaning is built from: bit fields and byte memories, the state monad of an
instruction, the executing strand and its registers, taking a trap and returning from one (R371 to R374), and the
ways an instruction ends. -/

namespace Sys2Proof.Machine

open Sys2Proof.Config

/-! ### Bit strings and byte memories -/

/-- The `n`-bit field of a bit string that starts at bit `pos` (R106). -/
def getField {w : Nat} (x : BitVec w) (pos n : Nat) : Nat := (x.toNat >>> pos) % 2 ^ n

/-- A bit string with its `n`-bit field at bit `pos` replaced by the low bits of `v`. -/
def setField {w : Nat} (x : BitVec w) (pos n v : Nat) : BitVec w :=
  x ^^^ BitVec.ofNat w ((getField x pos n ^^^ (v % 2 ^ n)) <<< pos)

/-- One byte of a memory; an unlisted byte reads as zero (log entry 1). -/
def memRead : Mem → Nat → Byte
  | [], _ => 0
  | (k, b) :: t, a => if a < k then 0 else if a = k then b else memRead t a

/-- A memory with one byte written, in canonical form. DESIGN CHOICE (log entry 1). -/
def memWrite : Mem → Nat → Byte → Mem
  | [], a, b => if b = 0 then [] else [(a, b)]
  | (k, c) :: t, a, b =>
    if a < k then (if b = 0 then (k, c) :: t else (a, b) :: (k, c) :: t)
    else if a = k then (if b = 0 then t else (a, b) :: t)
    else (k, c) :: memWrite t a b

/-- The canonical form: addresses strictly rise from `lo`, and no listed byte is zero. -/
def memWfFrom : Nat → Mem → Bool
  | _, [] => true
  | lo, (k, b) :: t => decide (lo ≤ k) && b != 0 && memWfFrom (k + 1) t

/-- The canonical form of a memory. DESIGN CHOICE (log entry 1). -/
def memWf (m : Mem) : Bool := memWfFrom 0 m

/-- The memory with every byte from `a` up to `a + n` zero. -/
def memClear (m : Mem) (a n : Nat) : Mem := m.filter fun c => c.1 < a || a + n ≤ c.1

/-- The part of a memory from `a` up to `a + n`, its addresses counted from `a`. -/
def memPart (m : Mem) (a n : Nat) : Mem := (m.filter fun c => a ≤ c.1 && c.1 < a + n).map fun c => (c.1 - a, c.2)

/-- The bytes of a list written at successive addresses from `a`. -/
def memWriteList (m : Mem) (a : Nat) : List Byte → Mem
  | [] => m
  | b :: t => memWriteList (memWrite m a b) (a + 1) t

/-- `n` bytes from `a`. -/
def memReadList (m : Mem) (a : Nat) : Nat → List Byte
  | 0 => []
  | n + 1 => memRead m a :: memReadList m (a + 1) n

/-- Little-endian value of a byte list (R2). -/
def leValue : List Byte → Nat
  | [] => 0
  | b :: t => b.toNat + 256 * leValue t

/-- The `n` little-endian bytes of a value (R2). -/
def leBytes : Nat → Nat → List Byte
  | 0, _ => []
  | n + 1, v => BitVec.ofNat 8 v :: leBytes n (v / 256)

/-- Sign extension of a `w`-bit value to 64 bits. -/
def sext64 (w v : Nat) : Word := BitVec.signExtend 64 (BitVec.ofNat w v)

/-- Field of a byte list: `n` bytes from offset `o`, little-endian. -/
def bytesAt (bs : List Byte) (o n : Nat) : Nat := leValue ((bs.drop o).take n)

/-- Whether every byte from `o` up to `e` is zero. -/
def zeroBytes (bs : List Byte) (o e : Nat) : Bool := ((bs.drop o).take (e - o)).all (· == 0)

/-- Insertion of an element behind the smaller and equal ones. -/
def insertBy {α : Type} (le : α → α → Bool) (x : α) : List α → List α
  | [] => [x]
  | y :: t => if le y x then y :: insertBy le x t else x :: y :: t

/-- Stable insertion sort. -/
def sortBy {α : Type} (le : α → α → Bool) (l : List α) : List α :=
  l.foldl (fun acc x => insertBy le x acc) []

/-- The list without repeats, first occurrences kept. -/
def dedup {α : Type} [BEq α] (l : List α) : List α :=
  l.foldl (fun acc x => if acc.contains x then acc else acc ++ [x]) []

/-! ### The monad of an instruction -/

/-- A trap about to be taken (R371): cause of R375, XVAL, and the fault detail of XSTAT (R378). -/
structure Trap where
  cause : BitVec 8
  xval : Word
  acc : BitVec 2 := 0
  s2 : Bool := false
  level : BitVec 3 := 0
  async : Bool := false
  deriving DecidableEq, Repr

/-- How an instruction ends other than by completing. -/
inductive Stop where
  | trap (t : Trap)
  | wait (w : Wait)
  | fault (f : Fault)
  deriving DecidableEq, Repr

/-- An action on the machine: a value and a next state, or a stop and the state it leaves. -/
abbrev M := EStateM Stop State

/-- Cause codes of R375. -/
abbrev causeIllins : BitVec 8 := 0x01
abbrev causeIllop : BitVec 8 := 0x02
abbrev causeMisal : BitVec 8 := 0x03
abbrev causeFetchpf : BitVec 8 := 0x04
abbrev causeLoadpf : BitVec 8 := 0x05
abbrev causeStorepf : BitVec 8 := 0x06
abbrev causePerm : BitVec 8 := 0x07
abbrev causeCmpview : BitVec 8 := 0x08
abbrev causeOrdmix : BitVec 8 := 0x09
abbrev causeJtfault : BitVec 8 := 0x0A
abbrev causeEcall : BitVec 8 := 0x0B
abbrev causeEbreak : BitVec 8 := 0x0C
abbrev causeFiblvl : BitVec 8 := 0x0D
abbrev causeJigstate : BitVec 8 := 0x0E
abbrev causeSlkmis : BitVec 8 := 0x0F
abbrev causePriv : BitVec 8 := 0x10
abbrev causeEccuc : BitVec 8 := 0x11
abbrev causeXcmd : BitVec 8 := 0x12
abbrev causeQstate : BitVec 8 := 0x13
abbrev causeWatch : BitVec 8 := 0x14
abbrev causeRemote : BitVec 8 := 0x15

/-- Ends the instruction with a trap. -/
def raise {α : Type} (cause : BitVec 8) (xval : Word) : M α := throw (.trap { cause := cause, xval := xval })

/-- Ends the instruction with a trap of a given detail. -/
def raiseT {α : Type} (t : Trap) : M α := throw (.trap t)

/-- The instruction waits: nothing of it has taken effect and it issues again. -/
def waitFor {α : Type} (w : Wait) : M α := throw (.wait w)

/-- An event without its subject. -/
def noPart {α : Type} : M α := throw (.fault .noSuchPart)

/-- The n-th free value (Config.free); each use counts. DESIGN CHOICE (log entry 4). -/
def freeNat : M Nat := do
  let s ← get
  set { s with fresh := s.fresh + 1 }
  return Config.free s.fresh

/-- A free bit. DESIGN CHOICE (log entry 4). -/
def freeBit : M Bool := do
  let n ← freeNat
  return n % 2 == 1

/-- A free choice among `n` values. DESIGN CHOICE (log entry 4). -/
def freeBelow (n : Nat) : M Nat := do
  let k ← freeNat
  return k % n

/-! ### Strands, blocks and registers -/

/-- The strand that is executing. -/
def strandOf (s : State) : Option Strand := s.strands[s.cur]?

/-- The state with the executing strand replaced. -/
def putStrand (s : State) (st : Strand) : State := { s with strands := s.strands.set s.cur st }

/-- The executing strand. -/
def getStrand : M Strand := do
  match strandOf (← get) with
  | some st => return st
  | none => throw (.fault .noStrand)

/-- Replaces the executing strand. -/
def setStrand (st : Strand) : M Unit := modify fun s => putStrand s st

/-- Changes the executing strand. -/
def modStrand (f : Strand → Strand) : M Unit := do
  let st ← getStrand
  setStrand (f st)

/-- Changes the executing strand's registers. -/
def modRegs (f : Regs → Regs) : M Unit := modStrand fun st => { st with r := f st.r }

/-- The executing strand's registers. -/
def getRegs : M Regs := do
  let st ← getStrand
  return st.r

/-- A scalar register; s0 reads zero (R12, R75). -/
def regRead (r : Regs) (n : Nat) : Word := if n = 0 then 0 else r.s.getD n 0

/-- A scalar register written; a write to s0 is discarded (R75). -/
def regWrite (r : Regs) (n : Nat) (v : Word) : Regs := if n = 0 then r else { r with s := r.s.setIfInBounds n v }

/-- Reads s[n]. -/
def rs {w : Nat} (n : BitVec w) : M Word := do
  let r ← getRegs
  return regRead r n.toNat

/-- Writes s[n]. -/
def ws {w : Nat} (n : BitVec w) (v : Word) : M Unit := modRegs fun r => regWrite r n.toNat v

/-- SPAN (R17). -/
def spanOf (st : Strand) : Nat := st.blocks.length

/-- A block of the executing strand. -/
def getBlock (b : Nat) : M Block := do
  let st ← getStrand
  match st.blocks[b]? with
  | some bl => return bl
  | none => throw (.fault .noSuchPart)

/-- Replaces a block of the executing strand. -/
def setBlock (b : Nat) (bl : Block) : M Unit := modStrand fun st => { st with blocks := st.blocks.set b bl }

/-- Changes a block of the executing strand. -/
def modBlock (b : Nat) (f : Block → Block) : M Unit := do
  let bl ← getBlock b
  setBlock b (f bl)

/-- Changes every attached block. -/
def modBlocks (f : Block → Block) : M Unit := modStrand fun st => { st with blocks := st.blocks.map f }

/-! ### The vector type -/

/-- FMT of VT (R35). -/
def vtFmt (vt : BitVec 13) : Nat := vt.toNat % 16

/-- Grouping G of VT (R35). -/
def vtG (vt : BitVec 13) : Nat := 2 ^ (vt.toNat / 16 % 8)

/-- SBLK of VT in elements, 0 for none (R35). -/
def vtSblk (vt : BitVec 13) : Nat :=
  match vt.toNat / 128 % 4 with
  | 0 => 0
  | 1 => 16
  | 2 => 32
  | _ => 64

/-- TZ of VT (R35). -/
def vtTz (vt : BitVec 13) : Bool := vt.toNat / 512 % 2 == 1

/-- MZ of VT (R35). -/
def vtMz (vt : BitVec 13) : Bool := vt.toNat / 1024 % 2 == 1

/-- Width of VT.FMT in bits (R36). -/
def vtWidth (vt : BitVec 13) : Nat := fmtWidth (vtFmt vt)

/-- VLB of a vector type (R17). -/
def vlbOf (vt : BitVec 13) : Nat := vregBits * vtG vt / vtWidth vt

/-- Whether SETVL accepts a vector type (R35, R108). -/
def vtLegal (t : Nat) : Bool :=
  t / 2048 % 4 == 0 && t / 16 % 8 ≤ 5 && vlbOf (BitVec.ofNat 13 t) ≤ 8192

/-- VLMAX (R17). -/
def vlmaxOf (st : Strand) : Nat := spanOf st * vlbOf st.r.vt

/-! ### Fibre status -/

/-- The CSR FST as it reads (R224). -/
def fstValue (st : Strand) : Word :=
  let kinds := (List.range 8).foldl (fun a i => a + (st.fibres.toList.getD i ⟨[], 0, false⟩).kind.toNat * 4 ^ i) 0
  let uns := (List.range 8).foldl
    (fun a i => a + (if (st.fibres.toList.getD i ⟨[], 0, false⟩).unsorted then 2 ^ i else 0)) 0
  BitVec.ofNat 64 (kinds + uns * 0x10000 + st.r.fst.toNat * 0x20000000)

/-- Entries of all side logs of a strand, SLOGST.COUNT (R218). -/
def slogCount (st : Strand) : Nat := st.blocks.foldl (fun a b => a + b.slog.length) 0

/-! ### Lane generators -/

/-- The seed of generator `l` (R158). -/
def laneSeed (srseed : Word) (l : Nat) : BitVec 32 :=
  let x := BitVec.ofNat 32 srseed.toNat ^^^ BitVec.ofNat 32 ((l + 1) * 0x9E3779B9)
  if x = 0 then 0x6A09E667 else x

/-- The generators of position `b` after a write of SRSEED (R158, R159). DEDUCED (log entry 53). -/
def seedGens (srseed : Word) (b : Nat) : Vector (BitVec 32) 64 := Vector.ofFn fun i => laneSeed srseed (64 * b + i)

/-- One draw of a generator (R158). DEDUCED (log entry 53). -/
def drawNext (x : BitVec 32) : BitVec 32 :=
  let x := x ^^^ (x <<< 13)
  let x := x ^^^ (x >>> 17)
  x ^^^ (x <<< 5)

/-- Draws from lane j mod 64 of position b (R158). DEDUCED (log entry 53). -/
def drawLane (b j : Nat) : M Nat := do
  let bl ← getBlock b
  let x := drawNext (bl.gens.getD (j % 64) 0)
  setBlock b { bl with gens := bl.gens.setIfInBounds (j % 64) x }
  return x.toNat

/-- The draw of an active element when the mode is stochastic (R158). DEDUCED (log entry 53). -/
def drawFor (mode b j : Nat) : M Nat := if mode = 5 then drawLane b j else return 0

/-! ### Traps -/

/-- Adds a record to the error log, which keeps the last 1024 (R427). -/
def logError (s : State) (e : ErrRec) : State :=
  let l := s.errlog ++ [e]
  { s with errlog := l.drop (l.length - 1024) }

/-- The bay at position 0 of a strand. -/
def homeBay (st : Strand) : Nat := (st.blocks.map (·.bay)).headD 0

/-- Halts the bent of a strand (R101): issue stops on all its strands and it stays resident. DEDUCED (log entry 20). -/
def haltBent (s : State) (st : Strand) : State :=
  { s with bents := s.bents.modify st.bent fun b => { b with halted := true } }

/-- XSTAT after a trap is entered (R371, R378): PL, IN, the fault detail; MH stays. -/
def xstatEnter (old : Word) (level : Level) (t : Trap) : Word :=
  (old &&& 0x100) ||| BitVec.ofNat 64
    ((if level = .runtime then 1 else 0) + 2 + t.level.toNat * 1024 + (if t.s2 then 8192 else 0) + t.acc.toNat * 16384)

/-- XSTAT.IN (R378). -/
def xstatIn (x : Word) : Bool := x.toNat / 2 % 2 == 1

/-- The registers after trap entry (R371). -/
def trapRegs (r : Regs) (t : Trap) : Regs :=
  { r with
    xpc := r.pc
    xcause := (if t.async then 0x8000000000000000 else 0) ||| BitVec.setWidth 64 t.cause
    xval := t.xval
    xstat := xstatEnter r.xstat r.level t
    level := .runtime
    pc := r.xvec }

/-- The error-log record that a trap's cause gives, if any: 3 for ECCUC, 5 for an unreachable peer (R427, R435). -/
def trapRecord (s : State) (st : Strand) (t : Trap) : State :=
  let put := fun (k : Nat) =>
    logError s { time := s.time, kind := k, bay := homeBay st, cause := t.cause.toNat, rid := st.r.rid.toNat, xval := t.xval }
  if t.cause = causeEccuc then put 3 else if t.cause = causeRemote then put 5 else s

/-- TAKING A TRAP (R371, R372): the executing strand enters its handler; a synchronous trap with XSTAT.IN = 1, or with
no handler, is a double trap that halts the bent and is recorded. DEDUCED (log entry 20). -/
def takeTrap (s : State) (t : Trap) : State :=
  match strandOf s with
  | none => s
  | some st =>
    let s := trapRecord s st t
    if (xstatIn st.r.xstat && !t.async) || st.r.xvec = 0 then
      logError (haltBent (putStrand s { st with wait := .none, inflight := none }) st)
        { time := s.time, kind := 1, bay := homeBay st, cause := t.cause.toNat, rid := st.r.rid.toNat, xval := t.xval }
    else putStrand s { st with r := trapRegs st.r t, wait := .none, inflight := none }

/-- RETURN FROM A TRAP (R374): the level of XSTAT.PL, IN cleared, the pc at XPC. -/
def returnTrap (r : Regs) : Regs :=
  { r with
    level := if r.xstat.toNat % 2 = 1 then .runtime else .user
    xstat := r.xstat &&& ~~~(2 : Word)
    pc := r.xpc }

/-! ### How an instruction ends -/

/-- The strand whose instruction has completed: at `pc`, waiting for nothing. -/
def retired (st : Strand) (pc : Word) : Strand :=
  { st with r := { st.r with pc := pc }, wait := .none, waited := 0, inflight := none }

/-- A strand that waits in WFI goes on (R100). DEDUCED (log entry 16). -/
def endWfi (st : Strand) : Strand :=
  if st.wait = .wfi then { st with wait := .none, waited := 0, r := { st.r with pc := st.r.pc + 4 } } else st

/-- What a stop makes of the machine: a trap is taken, a wait leaves the instruction to issue again. -/
def stopped (x : Stop) (s : State) : Result :=
  match x with
  | .trap t => .next (takeTrap s t)
  | .wait w =>
    match strandOf s with
    | some st => .next (putStrand s { st with wait := w })
    | none => .fault .noStrand
  | .fault f => .fault f

/-- Runs an instruction whose body answers the next pc. -/
def runTo (body : M Word) (s : State) : Result :=
  match body s with
  | .ok pc s' =>
    match strandOf s' with
    | some st => .next (putStrand s' (retired st pc))
    | none => .fault .noStrand
  | .error x s' => stopped x s'

/-- Runs an instruction after which fetch goes on at PC + 4. -/
def runSeq (body : M Unit) (s : State) : Result :=
  runTo (do
    let r ← getRegs
    body
    return r.pc + 4) s

/-- Runs an event: it acts on the machine and has no strand of its own to advance. -/
def runEvent (body : M Unit) (s : State) : Result :=
  match body s with
  | .ok _ s' => .next s'
  | .error (.fault f) _ => .fault f
  | .error (.trap _) s' => .next s'
  | .error (.wait _) s' => .next s'

/-- The word and position XVAL holds for a trap of a single instruction or convoy member (R55). -/
def memberXval (word : Nat) (pos : Nat) : Word := BitVec.ofNat 64 (word % 2 ^ 32 + pos % 4 * 2 ^ 32)

/-- Replaces one bay. -/
def modBay (n : Nat) (f : Bay → Bay) : M Unit :=
  modify fun s => { s with bays := s.bays.setIfInBounds n (f (s.bays.getD n State.resetBay)) }

/-- The state with one bay replaced. -/
def setBay (s : State) (n : Nat) (b : Bay) : State := { s with bays := s.bays.setIfInBounds n b }

/-- MPLACE of a strand's position 0, whose fields PRIVST reads (R379, R380). -/
def placeOf (st : Strand) : Nat := (st.blocks.map fun bl : Block => bl.mplace.toNat).headD 0

/-- The virtual function of a strand (R379). -/
def vfOf (st : Strand) : Nat := placeOf st / 2 ^ 16 % 1024

/-- The wing of a strand's position 0 (R379). -/
def wingOf (st : Strand) : Nat := placeOf st / 2 ^ 8 % 32

/-- The VMID of a strand (R379). -/
def vmidOf (st : Strand) : BitVec 10 := BitVec.ofNat 10 (placeOf st / 2 ^ 32)

/-- One bay. -/
def bayOf (s : State) (n : Nat) : Bay := s.bays.getD n State.resetBay

/-- A strand leaves a bay: the bay's machine CSRs keep what they held for it (R380). -/
def leaveBay (s : State) (bl : Block) : State :=
  setBay s bl.bay { bayOf s bl.bay with
    mecc := bl.mecc, mplace := bl.mplace, ms2root := bl.ms2root, ms2flt := bl.ms2flt, ms2ctl := bl.ms2ctl }

/-- Whether an XEXPAND of strand `k` that has not ended writes a slot (kind 1) or lane slices (kind 2) that a test picks:
its kind, its slot number, its span position (R345). -/
def expandHolds (s : State) (k : Nat) (pick : Nat → Nat → Nat → Bool) : Bool :=
  s.commands.any fun c =>
    c.fn == 3 && c.strand == k && (c.state == .queued || c.state == .running) && bytesAt c.block 24 1 != 0 &&
      pick (bytesAt c.block 24 1) (bytesAt c.block 25 1) (bytesAt c.block 26 1)

/-- The instruction waits for the XEXPAND commands of its strand that a test picks (R345). DEDUCED (log entry 42). -/
def awaitExpand (pick : Nat → Nat → Nat → Bool) : M Unit := do
  let s ← get
  if expandHolds s s.cur pick then waitFor .busyUnit else return ()

/-- Runs an action as another strand and comes back. -/
def asStrand {α : Type} (k : Nat) (body : M α) : M α := do
  let s ← get
  set { s with cur := k }
  let x ← body
  modify fun t => { t with cur := s.cur }
  return x

/-- Runs an action and gives its stop as a value, keeping the state it leaves. -/
def attempt {α : Type} (body : M α) : M (Except Stop α) := fun s =>
  match body s with
  | .ok a s' => .ok (.ok a) s'
  | .error e s' => .ok (.error e) s'

end Sys2Proof.Machine
end

