-- ==== Sys2Proof/Machine/Phys.lean ====
section
/-! DEFINITION. Physical memory: which addresses are backed (R181, R182), where an address is served (R184, R398, R400,
R412), the device registers (R183, R381), poisoned words (R435), and reads and writes of bytes by physical address. -/

namespace Sys2Proof.Machine

open Sys2Proof.Config

/-- First address of the second tier (R181). -/
abbrev tierBase : Nat := 0x10000000000
/-- First address past the second tier (R181). -/
abbrev tierEnd : Nat := 0x70000000000
/-- First address of the bay SRAM windows (R181). -/
abbrev windowBase : Nat := 0x100000000000
/-- First address of the pinned parts of the chip slices (R181). -/
abbrev sliceBase : Nat := 0x110000000000
/-- First address of the device registers (R181). -/
abbrev deviceBase : Nat := 0x200000000000
/-- Offset of WVEC of wing 0 (R381). -/
abbrev wvecBase : Nat := 0x200002000000

/-- The wing of a bay (R27). -/
def wingOfBay (n : Nat) : Nat := n / 40 * 4 + n % 40 / 10

/-- GiB of HBM backed in a wing (R182). -/
def wingGiB (p : Part) (w : Nat) : Nat := ((p.hbm.find? fun x => x.1 == w).map (·.2)).getD 32

/-- The wing whose HBM half holds a local HBM address (R27, R182). -/
def wingOfHbm (a : Nat) : Nat := a / 2 ^ 37 % 8 * 4 + a / 2 ^ 36 % 2 * 2 + a / 2 ^ 35 % 2

/-- Bits 56:46 of a physical address (R184). -/
def pkgField (pa : Nat) : Nat := pa / 2 ^ 46 % 2048

/-- Whether a physical address names the package's own storage (R184). -/
def isLocal (s : State) (pa : Nat) : Bool := pkgField pa == 0 || pkgField pa == s.pkg

/-- Whether a physical address is a host address (R184). -/
def isHost (pa : Nat) : Bool := pkgField pa == 0x7FF

/-- Whether a physical address is served by a peer of the domain (R184). -/
def isPeer (s : State) (pa : Nat) : Bool := !isLocal s pa && !isHost pa && s.members.contains (pkgField pa)

/-- The local address of an address of the package's own (R184). -/
def localAddr (pa : Nat) : Nat := pa % 2 ^ 46

/-- The domain form of an address (R184). -/
def domainForm (s : State) (pa : Nat) : Nat := if pkgField pa = 0 then pa + s.pkg * 2 ^ 46 else pa

/-- Whether a table entry, whose low bits hold the log2 of its page size, covers an address (R412). -/
def tagHit (tag pa : Nat) : Bool := pa / 2 ^ (tag % 4096) == tag / 2 ^ (tag % 4096)

/-- Whether an address lies in the bay windows' scratch ways (R182): bay and way. DEDUCED (log entry 12). -/
def scratchOf (a : Nat) : Option (Nat × Nat) :=
  let o := a - windowBase
  let off := o % 0x800000
  if windowBase ≤ a && o / 0x800000 < numBays && 0x600000 ≤ off && off < 0x680000 then
    some (o / 0x800000, (off - 0x600000) / 0x10000)
  else none

/-- Whether a local address names a pinned window (R182). DEDUCED (log entry 12). -/
def inWindow (s : State) (a : Nat) : Bool :=
  let o := a - windowBase
  decide (windowBase ≤ a) && o / 0x800000 < numBays &&
    o % 0x800000 < 0x600000 - 0x80000 * (bayOf s (o / 0x800000)).k

/-- Whether a local address names HBM or second-tier storage the part has (R182). DESIGN CHOICE (log entry 3). -/
def backedDram (s : State) (a : Nat) : Bool :=
  if a < tierBase then a % 2 ^ 35 < wingGiB s.part (wingOfHbm a) * 2 ^ 30
  else a < tierEnd && (a - tierBase) / 0x8000 * 4096 < s.part.ports.getD ((a - tierBase) / 0x1000 % 8) 0

/-- Whether a local address names storage that any party may reach; scratch ways are not (R182, R210).
DEDUCED (log entry 12). -/
def backedLocal (s : State) (a : Nat) : Bool :=
  if a < tierEnd then backedDram s a
  else if a < sliceBase then inWindow s a
  else (a - sliceBase) / 0x200000 < numBays && (a - sliceBase) % 0x200000 < 0x100000

/-- Where a byte of a local frame is served (R398, R400): a pinned page's at its window, a swapped line's at the other
frame. -/
def steerFrame (s : State) (a : Nat) : Nat :=
  match s.pins.find? fun p => p.backing / 4096 == a / 4096 with
  | some p => p.window / 4096 * 4096 + a % 4096
  | none =>
    match s.swaps.find? fun r => (r.a ≤ a && a < r.a + r.size) || (r.b ≤ a && a < r.b + r.size) with
    | some r =>
      let inA := r.a ≤ a && a < r.a + r.size
      let o := if inA then a - r.a else a - r.b
      if r.done.contains (o / 128) then (if inA then r.b + o else r.a + o) else a
    | none => a

/-- The local frame that holds the byte an address names, when this package serves it (R184, R412). -/
def localFrame (s : State) (pa : Nat) : Option Nat :=
  let adopted := fun (name : Nat) =>
    (s.adoption.find? fun d => tagHit d.1 name).map fun d => d.2 + name % 2 ^ (d.1 % 4096)
  if isLocal s pa then
    let name := localAddr pa + s.pkg * 2 ^ 46
    if s.directory.any fun d => tagHit d.1 name then none else some ((adopted name).getD (localAddr pa))
  else adopted pa

/-- The name of the byte an address names (R412). -/
def nameOf (s : State) (pa : Nat) : Nat := if isLocal s pa then localAddr pa + s.pkg * 2 ^ 46 else pa

/-- Where a byte is served (R184, R398, R400, R412): the key under which `State.mem` holds it. A page that another package
owns is held in the frame this package sent it to (R413), or under a key of that owner. DESIGN CHOICE (log entry 1). -/
def steer (s : State) (pa : Nat) : Nat :=
  match localFrame s pa with
  | some a => steerFrame s a
  | none =>
    let name := nameOf s pa
    match s.sentTo.find? fun d => tagHit d.1 name with
    | some d => d.2 + name % 2 ^ (d.1 % 4096)
    | none =>
      if isLocal s pa then 2 ^ 57 * (((s.directory.find? fun d => tagHit d.1 name).map (·.2)).getD 0 + 1) + name else pa

/-- The keys of `n` bytes from a physical address. -/
def keysOf (s : State) (pa n : Nat) : List Nat := (List.range n).map fun i => steer s (pa + i)

/-- The package that serves an address of the domain: its owner (R184, R412). DEDUCED (log entry 50). -/
def servedBy (s : State) (pa : Nat) : Nat :=
  if isLocal s pa then ((s.directory.find? fun d => tagHit d.1 (localAddr pa + s.pkg * 2 ^ 46)).map (·.2)).getD s.pkg
  else if s.adoption.any fun d => tagHit d.1 pa then s.pkg
  else ((s.ownerCache.find? fun d => tagHit d.1 pa).map (·.2)).getD (pkgField pa)

/-- Whether a peer package, or the host, serves an address (R184, R293, R412). -/
def elsewhere (s : State) (pa : Nat) : Bool := isHost pa || servedBy s pa != s.pkg

/-- Whether a seal that is streaming a wing's HBM half holds an address: one that is served there, under whatever name
(R412, R420). -/
def sealHolds (s : State) (pa : Nat) : Bool :=
  s.commands.any fun c =>
    let w := bytesAt c.block 17 1
    c.fn == 66 && c.state == .running && bytesAt c.block 16 1 == 0 && s.sealedWings.contains w &&
      (let a := steer s pa; decide (a < tierBase) && wingOfHbm a == w)

/-- One byte by physical address. -/
def physByte (s : State) (pa : Nat) : Byte := memRead s.mem (steer s pa)

/-- `n` bytes by physical address. -/
def physBytes (s : State) (pa : Nat) : Nat → List Byte
  | 0 => []
  | n + 1 => physByte s pa :: physBytes s (pa + 1) n

/-- A little-endian value of `n` bytes by physical address. -/
def physLoad (s : State) (pa n : Nat) : Nat := leValue (physBytes s pa n)

/-- Whether a byte lies in a poisoned word (R435). -/
def isPoisoned (s : State) (pa : Nat) : Bool := s.poison.contains (steer s pa / 8)

/-- Whether some of `n` bytes lies in a poisoned word. -/
def anyPoison (s : State) (pa n : Nat) : Bool := !s.poison.isEmpty && (List.range n).any fun i => isPoisoned s (pa + i)

/-! ### The homes of lines (R186 to R191) -/

/-- How the home of a line meets an access (R188): a read that an L1 keeps, one that is served uncached, an owned write, a
write-through or self-invalidating write, and a write performed at the home. -/
inductive HomeKind where
  | cachedRead
  | uncachedRead
  | ownedWrite
  | throughWrite
  | homeWrite
  deriving DecidableEq, Repr

/-- The bays whose L1s hold dirty bytes of a line (R190). -/
def holdersOf (s : State) (line : Nat) : List Nat := dedup ((s.dirty.filter fun r => r.key / 128 == line).map (·.bay))

/-- Whether an access touches a byte that another holder than the accessor, the one of a record, has dirty in the record's
line (R188, R191). -/
def meetsHolder (s : State) (who : Option Nat) (keys : List Nat) (r : DirtyByte) : Bool :=
  who != some r.bay && s.dirty.any fun x => x.bay == r.bay && x.key / 128 == r.key / 128 && keys.contains x.key

/-- Whether a byte may stay dirty in its holder's L1 when an access of bay `who`, or of a party without an L1, meets its
line at the home (R186, R188, R191). A record says what may be dirty: a holder may have evicted its copy, so that its mask
has left the line. A holder whose bytes an access touches has lost them all, evicted or merged (R191), but another holder
of the line keeps its own where the one touched had evicted before; the same holds where a seventeenth L1 writes (R190).
DEDUCED (log entry 29). -/
def staysDirty (s : State) (who : Option Nat) (kind : HomeKind) (keys : List Nat) (r : DirtyByte) : Bool :=
  if !(keys.any fun k => k / 128 == r.key / 128) then true
  else
    let own := who == some r.bay
    match kind with
    | .cachedRead => !meetsHolder s who keys r
    | .uncachedRead => own || !keys.contains r.key
    | .ownedWrite => !meetsHolder s who keys r
    | .throughWrite => own && !keys.contains r.key
    | .homeWrite => false

/-- The state after the homes of some bytes have served an access (R188). The newest value of every byte stands in
`State.mem`; what changes is which bytes an L1 still holds dirty. -/
def homeAccess (s : State) (who : Option Nat) (kind : HomeKind) (keys : List Nat) : State :=
  if s.dirty.isEmpty then s else { s with dirty := s.dirty.filter (staysDirty s who kind keys) }

/-- A byte that bay `bay` writes as owner when `State.written` has the length `at_`, with its value before: its home copy
holds that value if the bay's last eviction of the line came before this write and after the one before it (R186, R191,
R207). DEDUCED (log entry 29). -/
def noteDirty (bay key at_ : Nat) (before : Byte) : List DirtyByte → List DirtyByte
  | [] => [{ bay := bay, key := key, homes := [(at_, before)] }]
  | r :: t =>
    if r.bay = bay ∧ r.key = key then { r with homes := r.homes ++ [(at_, before)] } :: t
    else r :: noteDirty bay key at_ before t

/-- The state after bytes are written in a bay's L1 under an owned write (R186, R190). DEDUCED (log entry 29). -/
def ownBytes (s : State) (bay : Nat) (keys : List Nat) : State :=
  { s with dirty := keys.foldl (fun d k => noteDirty bay k s.written.length (memRead s.mem k) d) s.dirty }

/-- What the home copy of a dirty byte holds where its holder last evicted the line before the writes from `cut` on, and
after those before; `now` where it has evicted it since. -/
def DirtyByte.homeAt (r : DirtyByte) (cut : Nat) (now : Byte) : Byte :=
  ((r.homes.find? fun x => cut ≤ x.1).map (·.2)).getD now

/-- Bytes of memory replaced, by key, and entered in the list of writes. -/
def storeKeys (s : State) (l : List (Nat × Byte)) : State :=
  let changed := (l.filter fun x => memRead s.mem x.1 != x.2).map fun x => (x.1, memRead s.mem x.1)
  { s with
    mem := l.foldl (fun m x => memWrite m x.1 x.2) s.mem
    written := if changed.isEmpty then s.written else s.written ++ [changed] }

/-- Writes bytes by physical address at their home, wherever each is served. -/
def physWrite (s : State) (pa : Nat) (bs : List Byte) : State :=
  let keys := keysOf s pa bs.length
  storeKeys (homeAccess s none .homeWrite keys) (keys.zip bs)

/-- The homes serve an uncached read of `n` bytes by a party without an L1 (R188, R191). -/
def pullBytes (s : State) (pa n : Nat) : State :=
  if s.dirty.isEmpty then s else homeAccess s none .uncachedRead (keysOf s pa n)

/-- The words whose eight bytes all lie in a written range lose their poison (R435). -/
def clearPoison (s : State) (pa n : Nat) : State :=
  if s.poison.isEmpty then s
  else
    let full := (List.range n).filter fun i => (pa + i) % 8 == 0 && i + 8 ≤ n
    { s with poison := s.poison.filter fun w => !full.any fun i => steer s (pa + i) / 8 == w }

/-- A store of bytes by physical address: poison of words written whole is cleared. -/
def physStore (s : State) (pa : Nat) (bs : List Byte) : State := clearPoison (physWrite s pa bs) pa bs.length

/-- Marks the words that hold any of `n` bytes poisoned (R435). -/
def markPoison (s : State) (pa n : Nat) : State :=
  { s with poison := dedup (s.poison ++ (List.range n).map fun i => steer s (pa + i) / 8) }

/-! ### Device registers -/

/-- The device register an aligned address names (R183, R381). -/
inductive DevReg where
  | baysplit (bay : Nat)
  | wvec (wing : Nat)
  deriving DecidableEq, Repr

/-- Which device register holds an address; every other address of the range names none (log entry 21). -/
def devRegOf (a : Nat) : Option DevReg :=
  let o := a - deviceBase
  if a < deviceBase then none
  else if o < numBays * 0x10000 && o % 0x10000 / 8 == 8 then some (.baysplit (o / 0x10000))
  else if wvecBase ≤ a && (a - wvecBase) / 8 < 32 then some (.wvec ((a - wvecBase) / 8))
  else none

/-- Whether a physical address is a device register's. DEDUCED (log entry 21). -/
def isDevice (s : State) (pa : Nat) : Bool := isLocal s pa && deviceBase ≤ localAddr pa

/-- BAYSPLIT as it reads (R183). -/
def baysplitValue (b : Bay) : Word := BitVec.ofNat 64 (b.k + if b.splitErr then 256 else 0)

/-- The value of a device register. -/
def devRead (s : State) : DevReg → Word
  | .baysplit n => baysplitValue (bayOf s n)
  | .wvec w => s.wvec.getD w 0

/-- Whether a bay is taken: a resident bent holds its bays until all its strands have exited (R13, R361). -/
def bayBusy (s : State) (n : Nat) : Bool :=
  s.bents.any fun b => b.state == .resident &&
    b.strands.any fun k => (s.strands[k]?).any fun st => st.blocks.any fun bl => bl.bay == n

/-- Bytes of a bay's window at and above which nothing may be cut off: the end of its highest pinned page (R13). -/
def pinnedEnd (s : State) (n : Nat) : Nat :=
  s.pins.foldl (fun a p =>
    let o := p.window - windowBase
    if windowBase ≤ p.window && o / 0x800000 == n && a < o % 0x800000 + 4096 then o % 0x800000 + 4096 else a) 0

/-- A write of BAYSPLIT (R13, R183): ignored with ERR set while a strand is resident, for K above 12, or when the window
would drop below its pinned pages; ERR is cleared by writing it 1. -/
def writeBaysplit (s : State) (n : Nat) (v : Word) : State :=
  let b := bayOf s n
  let k := v.toNat % 16
  let cleared := b.splitErr && !(v.toNat / 256 % 2 == 1)
  let bad := bayBusy s n || 12 < k || 0x600000 - 0x80000 * k < pinnedEnd s n
  let b' := if bad then { b with splitErr := true } else { b with k := k, splitErr := cleared }
  { s with bays := s.bays.setIfInBounds n b' }

/-- A write of a device register (R183, R381). -/
def devWrite (s : State) (r : DevReg) (v : Word) : State :=
  match r with
  | .baysplit n => writeBaysplit s n v
  | .wvec w => { s with wvec := s.wvec.setIfInBounds w (v &&& 0xFFFFFFFFFFF0) }

/-! ### Moving bytes between frames -/

/-- Every cached copy of the bytes from key `lo` is recalled and invalidated (R188, R397, R400, R414). -/
def recallLines (s : State) (lo n : Nat) : State :=
  let out := fun (a : Nat) => a + 128 ≤ lo || lo + n ≤ a
  { s with
    dirty := s.dirty.filter fun r => r.key < lo || lo + n ≤ r.key
    bays := s.bays.map fun b => { b with copies := b.copies.filter fun l => out l.addr } }

/-- A range of storage written zero, which leaves no poison in it. -/
def zeroStorage (s : State) (a n : Nat) : State :=
  let old := s.mem.filter fun c => a ≤ c.1 && c.1 < a + n
  { s with
    mem := memClear s.mem a n
    poison := s.poison.filter fun w => 8 * w < a || a + n ≤ 8 * w
    written := if old.isEmpty then s.written else s.written ++ [old] }

/-- The contents of a range become unspecified (R415): each byte is a free value. -/
def openStorage (s : State) (pa n : Nat) : State :=
  storeKeys { s with fresh := s.fresh + 1 } ((keysOf s pa n).map fun k => (k, freeByte k s.fresh))

/-- `n` bytes that key `x` held stand at key `y`, with their poison. -/
def copyKeys (s : State) (x y n : Nat) : State :=
  let mem := memWriteList (memClear s.mem y n) y (memReadList s.mem x n)
  let words := (s.poison.filter fun w => x / 8 ≤ w && w < (x + n) / 8).map fun w => w - x / 8 + y / 8
  { s with mem := mem, poison := dedup ((s.poison.filter fun w => w < y / 8 || (y + n) / 8 ≤ w) ++ words) }

/-- The records of writes follow bytes that move: the key of a byte becomes what `f` gives it, or the byte is forgotten. -/
def rekey (f : Nat → Option Nat) (s : State) : State :=
  let move := fun (l : List (Nat × Byte)) => l.filterMap fun x => (f x.1).map fun k => (k, x.2)
  { s with
    written := s.written.map move
    strands := s.strands.map fun st => { st with pending := st.pending.map fun w => { w with bytes := move w.bytes } } }

/-- `n` bytes that key `x` held move to key `y`, and the records of their writes with them. -/
def moveKeys (s : State) (x y n : Nat) : State :=
  rekey (fun k => if x ≤ k && k < x + n then some (k - x + y) else if y ≤ k && k < y + n then none else some k) (copyKeys s x y n)

/-- The bytes of a page stand where the new tables serve them (R415); the page is aligned to its size. -/
def relocate (s s' : State) (pa n : Nat) : State :=
  let x := steer s pa
  let y := steer s' pa
  if x = y then s' else moveKeys s' x y n

end Sys2Proof.Machine
end

