-- ==== Sys2Proof/Machine/Xlat.lean ====
section
/-! DEFINITION. Translation (R382 to R390): the walk of one and of two stages, the TLB and walker entries that may still
be held after a table has changed, permissions, and the A and D bits. -/

namespace Sys2Proof.Machine

open Sys2Proof.Config

/-- The kind of an access (R378: ACC). -/
inductive Acc where
  | read
  | write
  | fetch
  | atomic
  deriving DecidableEq, Repr

/-- XSTAT.ACC of an access (R378). -/
def Acc.code : Acc → BitVec 2
  | .read => 0
  | .write => 1
  | .fetch => 2
  | .atomic => 3

/-- Whether an access reads. -/
def Acc.reads : Acc → Bool
  | .read => true
  | .atomic => true
  | _ => false

/-- Whether an access writes. -/
def Acc.writes : Acc → Bool
  | .write => true
  | .atomic => true
  | _ => false

/-- Who translates: the tags, the roots, the level, and the TLB that is used (a bay's or an engine's). -/
structure XCtx where
  vmid : BitVec 10
  asid : BitVec 16
  ptbase : Nat
  s2root : Nat
  level : Level
  engine : Bool
  unit : Nat
  deriving DecidableEq, Repr

/-- The beam whose walker serves a unit (R388). -/
def XCtx.beam (c : XCtx) : Nat := if c.engine then c.unit / 4 else c.unit / baysPerBeam

/-- Why an address does not translate (R384, R385, R387). -/
structure XFail where
  /-- translation missing; else a permission is lacking -/
  missing : Bool
  level : Nat
  s2 : Bool
  ipa : Nat
  deriving DecidableEq, Repr

/-- What one entry of a table gives (R384). -/
inductive Entry where
  | table (t : Nat)
  | leaf (l : Leaf)
  | missing
  deriving DecidableEq, Repr

/-- Bit `n` of an entry. -/
def pteBit (e n : Nat) : Bool := e / 2 ^ n % 2 == 1

/-- PPN × 4096 of an entry (R383). -/
def ppnAddr (e : Nat) : Nat := e / 2 ^ 12 % 2 ^ 45 * 4096

/-- Log2 of what one entry of a level covers (R382). -/
def levelShift (level : Nat) : Nat := 39 - 9 * level

/-- Address of the entry of a table for a virtual address (R382). -/
def entryAddr (table level va : Nat) : Nat := table + 8 * (va / 2 ^ levelShift level % 512)

/-- Whether the 16 entries of a contiguous group map one 64 KiB page (R386). -/
def ctGroup (s : State) (addr : Nat) : Option Nat :=
  let line := addr / 128 * 128
  let es := (List.range 16).map fun i => physLoad s (line + 8 * i) 8
  let e0 := es.headD 0
  let strip := fun e => e / 2 ^ 57 * 2 ^ 57 + e % 4096 / 256 * 256 + e % 64
  let ok := es.zipIdx.all fun (e, i) =>
    pteBit e 0 && pteBit e 60 && strip e == strip e0 && ppnAddr e == ppnAddr e0 + 4096 * i
  if ok && ppnAddr e0 % 65536 == 0 then some (ppnAddr e0) else none

/-- One step of a walk (R384, R386). -/
def readEntry (s : State) (table level va : Nat) : Entry :=
  let addr := entryAddr table level va
  let e := physLoad s addr 8
  if !pteBit e 0 || e / 2 ^ 61 != 0 || e / 2 ^ 10 % 4 == 3 then .missing
  else if !pteBit e 1 && !pteBit e 2 && !pteBit e 3 then
    if level < 3 then .table (ppnAddr e) else .missing
  else if pteBit e 2 && !pteBit e 1 then .missing
  else if level = 0 then .missing
  else if level < 3 then
    if ppnAddr e % 2 ^ levelShift level != 0 || pteBit e 60 then .missing
    else .leaf { pte := e, addr := addr, size := levelShift level, base := ppnAddr e }
  else if pteBit e 60 then
    match ctGroup s addr with
    | some b => .leaf { pte := e, addr := addr, size := 16, base := b }
    | none => .missing
  else .leaf { pte := e, addr := addr, size := 12, base := ppnAddr e }

/-- The tables a walker may still hold for the next level beside what memory says (R388). -/
def heldTables (s : State) (c : XCtx) (stage2 : Bool) (level va : Nat) (now : Entry) : List Nat :=
  dedup ((s.walkers.filter fun (b, w) =>
    b == c.beam && w.vmid == c.vmid && (stage2 || w.asid == c.asid) && w.stage2 == stage2 && w.level == level + 1 &&
      w.prefixBits == va / 2 ^ levelShift level && (now != .table w.table)).map fun x => x.2.table)

/-- A list with one more element, of which it holds at most `cap` of those a test picks: a full one loses a free choice of
them (R388). DESIGN CHOICE (log entry 13). -/
def keepBounded {α : Type} (cap : Nat) (pick : α → Bool) (l : List α) (x : α) : M (List α) := do
  let mine := (l.zipIdx.filter fun y => pick y.1).map (·.2)
  if mine.length < cap then return l ++ [x]
  else
    let k ← freeBelow mine.length
    return l.eraseIdx (mine.getD k 0) ++ [x]

/-- The walker keeps a non-leaf entry, of 1,024 in its beam (R388). -/
def keepTable (c : XCtx) (stage2 : Bool) (level va t : Nat) : M Unit := do
  let s ← get
  let w : WalkEntry :=
    { vmid := c.vmid, asid := c.asid, stage2 := stage2, level := level + 1, prefixBits := va / 2 ^ levelShift level,
      table := t }
  if s.walkers.contains (c.beam, w) then return ()
  else
    let l ← keepBounded 1024 (fun x => x.1 == c.beam) s.walkers (c.beam, w)
    modify fun s => { s with walkers := l }

/-- A walk from one level down (R382 to R386, R388): the leaf, or the level at which translation is missing. The walker
reads entries at the home of their lines. DEDUCED (log entry 13). -/
def walkFrom (c : XCtx) (stage2 : Bool) (va : Nat) : Nat → Nat → M (Except Nat Leaf)
  | 0, _ => return .error 3
  | fuel + 1, table => do
    let level := 3 - fuel
    modify fun s => pullBytes s (entryAddr table level va / 128 * 128) 128
    let s ← get
    let now := readEntry s table level va
    let e ←
      match heldTables s c stage2 level va now with
      | [] => pure now
      | ts => do
        let k ← freeBelow (ts.length + 1)
        pure ((ts[k]?).elim now .table)
    match e with
    | .missing => return .error level
    | .leaf l => return .ok l
    | .table t =>
      keepTable c stage2 level va t
      walkFrom c stage2 va fuel t

/-- ORD of two stages combined: strongly ordered, then release-consistent, then unordered (R387). -/
def strongerOrd (a b : Nat) : Nat := if a = 1 || b = 1 then 1 else if a = 0 || b = 0 then 0 else 2

/-- The low twelve bits of the combined leaf (R387). -/
def combineLow (l1 l2 : Nat) : Nat :=
  let rwx := (l1 &&& l2) % 16 / 2 * 2
  let home := if l2 / 256 % 4 = 0 then l1 / 256 % 4 else l2 / 256 % 4
  1 + rwx + (l1 / 16 % 4) * 16 + (l1 &&& l2) / 64 % 4 * 64 + home * 256 + strongerOrd (l1 / 1024 % 4) (l2 / 1024 % 4) * 1024

/-- The walk of both stages (R384, R387): the entry a TLB would keep. DEDUCED (log entry 13). -/
def walkBoth (c : XCtx) (va : Nat) : M (Except XFail TlbEntry) := do
  match ← walkFrom c false va 4 c.ptbase with
  | .error level => return .error { missing := true, level := level, s2 := false, ipa := 0 }
  | .ok l1 =>
    let e1 : TlbEntry :=
      { vmid := c.vmid, asid := c.asid, glob := pteBit l1.pte 5, size := l1.size, page := va / 2 ^ l1.size,
        base := l1.base, low := BitVec.ofNat 12 l1.pte, cmp := pteBit l1.pte 58, slk := pteBit l1.pte 57,
        mig := pteBit l1.pte 59, first := l1, second := none }
    if c.vmid = 0 then return .ok e1
    else
      let ipa := l1.base + va % 2 ^ l1.size
      if ipa / 2 ^ 48 != 0 then
        return .error { missing := true, level := if l1.size = 30 then 1 else if l1.size = 21 then 2 else 3, s2 := false,
                        ipa := 0 }
      else
        match ← walkFrom c true ipa 4 c.s2root with
        | .error level => return .error { missing := true, level := level, s2 := true, ipa := ipa }
        | .ok l2 =>
          let size := min l1.size l2.size
          let pa := l2.base + ipa % 2 ^ l2.size
          return .ok
            { e1 with
              size := size, page := va / 2 ^ size, base := pa / 2 ^ size * 2 ^ size,
              low := BitVec.ofNat 12 (combineLow (l1.pte % 4096) (l2.pte % 4096)),
              cmp := pteBit l1.pte 58 || pteBit l2.pte 58, mig := pteBit l1.pte 59 || pteBit l2.pte 59,
              second := some l2 }

/-- The intermediate address an entry gives (R387). -/
def TlbEntry.ipa (e : TlbEntry) (va : Nat) : Nat := e.first.base + va % 2 ^ e.first.size

/-- The leaves an entry was built from. -/
def TlbEntry.leaves (e : TlbEntry) : List Leaf := e.first :: e.second.toList

/-- A leaf with A set, and D for a write (R385). -/
def Leaf.touched (write : Bool) (l : Leaf) : Leaf := { l with pte := l.pte ||| 64 ||| (if write then 128 else 0) }

/-- The entry as a TLB keeps it after an access: its leaves with A set, and D for a write. -/
def TlbEntry.touched (write : Bool) (e : TlbEntry) : TlbEntry :=
  { e with
    low := e.low ||| 64 ||| (if write then 128 else 0)
    first := e.first.touched write
    second := e.second.map (Leaf.touched write) }

/-- Whether the walker must set a bit of some leaf for an access: A, or D for a write, is clear in the entry (R385). -/
def TlbEntry.needs (write : Bool) (e : TlbEntry) : Bool := e.leaves.any fun l => !pteBit l.pte 6 || (write && !pteBit l.pte 7)

/-- The entries of the translator's TLB. -/
def tlbOf (s : State) (c : XCtx) : List TlbEntry :=
  if c.engine then (s.engineTlb.filter fun x => x.1 == c.unit).map (·.2) else (bayOf s c.unit).tlb

/-- Whether a TLB entry matches (R388). -/
def tlbHit (c : XCtx) (va : Nat) (e : TlbEntry) : Bool :=
  e.vmid == c.vmid && (e.glob || e.asid == c.asid) && va / 2 ^ e.size == e.page

/-- Whether an entry still held lets an access differ from one through the entry the tables give now: they differ in more
than A and D, or the held one has A or D set where the table's is clear, so that it is not set again (R385, R388). -/
def differsFrom (now held : TlbEntry) : Bool :=
  now.touched true != held.touched true ||
    (now.leaves.zip held.leaves).any fun (a, b) => (pteBit b.pte 6 && !pteBit a.pte 6) || (pteBit b.pte 7 && !pteBit a.pte 7)

/-- The state with the TLB of a translator replaced. -/
def setTlb (s : State) (c : XCtx) (l : List TlbEntry) : State :=
  if c.engine then
    { s with engineTlb := (s.engineTlb.filter fun x => x.1 != c.unit) ++ l.map fun e => (c.unit, e) }
  else { s with bays := s.bays.setIfInBounds c.unit { bayOf s c.unit with tlb := l } }

/-- Entries of a TLB: 256 in a bay's, 64 in an engine's (R388). -/
def tlbRoom (c : XCtx) : Nat := if c.engine then 64 else 256

/-- Keeps a translation in the TLB, in place of one that differs from it in A and D only (R388). -/
def keepXlat (c : XCtx) (e : TlbEntry) : M Unit := do
  let s ← get
  let l := tlbOf s c
  if l.contains e then return ()
  else
    let l ← keepBounded (tlbRoom c) (fun _ => true) (l.filter fun x => x.touched true != e.touched true) e
    modify fun s => setTlb s c l

/-- Whether a leaf grants an access (R385). -/
def grants (level : Level) (acc : Acc) (low : Nat) : Bool :=
  let u := pteBit low 4
  (match acc with
   | .read => pteBit low 1
   | .write => pteBit low 2
   | .atomic => pteBit low 1 && pteBit low 2
   | .fetch => pteBit low 3) &&
  (match level with
   | .user => u
   | .runtime => !(acc == .fetch && u))

/-- The walker's A and D updates for an access through an entry (R385): a bit the entry holds set is not set again.
DEDUCED (log entry 15). -/
def setAccessed (s : State) (e : TlbEntry) (write : Bool) : State :=
  e.leaves.foldl (fun s l =>
    let old := physLoad s l.addr 8
    let new := old ||| (if pteBit l.pte 6 then 0 else 64) ||| (if write && !pteBit l.pte 7 then 128 else 0)
    if new = old then s else physWrite s l.addr (leBytes 8 new)) s

/-- Whether the table entry a leaf was read from still holds V = 1 and the same PPN (R385). -/
def leafStands (s : State) (l : Leaf) : Bool := pteBit (physLoad s l.addr 8) 0 && ppnAddr (physLoad s l.addr 8) == ppnAddr l.pte

/-- A successful translation: the physical address and the page's attributes. -/
structure Xl where
  pa : Nat
  ord : Nat
  home : Nat
  cmp : Bool
  slk : Bool
  mig : Bool
  /-- log2 of the page size, and G -/
  size : Nat
  glob : Bool
  deriving DecidableEq, Repr

/-- The attributes an entry gives an address. -/
def xlOf (va : Nat) (e : TlbEntry) : Xl :=
  { pa := e.base + va % 2 ^ e.size, ord := e.low.toNat / 1024 % 4, home := e.low.toNat / 256 % 4, cmp := e.cmp,
    slk := e.slk, mig := e.mig, size := e.size, glob := e.glob }

/-- Bits 63:48 of an address equal bit 47 (R382). -/
def canonical (va : Nat) : Bool := va / 2 ^ 47 == 0 || va / 2 ^ 47 == 2 ^ 17 - 1

/-- Keeps each entry of a list by a free choice: which of the entries that could still be held are held (R388). -/
def chooseHeld : List TlbEntry → M (List TlbEntry)
  | [] => return []
  | e :: t => do
    let keep ← freeBit
    let rest ← chooseHeld t
    return if keep then e :: rest else rest

/-- The translation that governs an access: the tables' own, or one that a TLB still holds (R388, R390); which of those that
match are still held is a free choice. A lookup that matches two entries of different granules takes the smaller and sets
XSTAT.MH. A held entry whose A or D must be set gives way to a new walk when its table entry has changed (R385). -/
def lookup (c : XCtx) (va : Nat) (write : Bool) : M (Except XFail TlbEntry) := do
  let fresh ← walkBoth c va
  let s ← get
  let cands := (tlbOf s c).filter (tlbHit c va)
  let differs := match fresh with
    | .ok w => cands.any (differsFrom w)
    | .error _ => !cands.isEmpty
  if !differs then return fresh
  else
    let held ← chooseHeld cands
    modify fun s => setTlb s c ((tlbOf s c).filter fun e => !cands.contains e || held.contains e)
    match sortBy (fun a b => a.size ≤ b.size) held with
    | [] => return fresh
    | e :: rest =>
      if rest.any fun x => x.size != e.size then
        if !c.engine then modRegs fun r => { r with xstat := r.xstat ||| 0x100 }
      if e.needs write && !e.leaves.all (leafStands s) then return fresh else return .ok e

/-- Translates an address for an access (R382 to R390); device registers are strongly ordered whatever ORD holds (R181).
DEDUCED (log entries 15, 21). -/
def translate (c : XCtx) (va : Nat) (acc : Acc) : M (Except XFail Xl) := do
  if !canonical va then return .error { missing := false, level := 0, s2 := false, ipa := 0 }
  else
    let va := va % 2 ^ 48
    match ← lookup c va acc.writes with
    | .error f => return .error f
    | .ok e =>
      if !grants c.level acc e.low.toNat then
        return .error { missing := false, level := 4, s2 := c.vmid != 0 && grants c.level acc (e.first.pte % 4096), ipa := e.ipa va }
      else
        modify fun s => setAccessed s e acc.writes
        keepXlat c (e.touched acc.writes)
        let x := xlOf va e
        let s ← get
        return .ok (if isDevice s x.pa then { x with ord := 1 } else x)

/-- The translation context of the executing strand at a position (R379, R380, R387). -/
def strandCtx (st : Strand) (b : Nat) : XCtx :=
  let bl : Option Block := st.blocks[b]?
  { vmid := BitVec.ofNat 10 ((bl.elim 0 (·.mplace)).toNat / 2 ^ 32), asid := BitVec.ofNat 16 st.r.asid.toNat,
    ptbase := st.r.ptbase.toNat, s2root := (bl.elim 0 (·.ms2root)).toNat, level := st.r.level, engine := false,
    unit := bl.elim 0 (·.bay) }

end Sys2Proof.Machine
end

