-- ==== Sys2Proof/Machine/Access.lean ====
section
/-! DEFINITION. A strand's accesses to generic memory: the checks of R84 and R199 in their order, the side log (R213 to
R217), loads and stores of either stream with the freedom of R85, R132, R189 and R309, slack pages (R86, R299), and the
fetch of instruction words (R29, R54, R104). -/

namespace Sys2Proof.Machine

open Sys2Proof.Config

/-! ### Slack shims as other accesses meet them (R291, R294, R299) -/

/-- Adds a shim line's partial sums into the home copy, in ascending element index, by RNE (R294: DRAIN). -/
def drainInto (s : State) (h : Shim) : State :=
  (List.range 32).foldl (fun s e =>
    if h.touched.toNat / 2 ^ e % 2 = 1 then
      let a := h.line + 4 * e
      physStore s a (leBytes 4 (fpAdd 1 (physLoad s a 4) (getField h.partials (32 * e) 32) 0 0).bits)
    else s) s

/-- Drains every shim line that a test picks, and removes it from its holder: in rising line address, and of one line in the order
in which the state lists its holders, though their drains may reach the home in any order (R298). DEDUCED (log entry 34). -/
def drainShims (s : State) (pick : Shim → Bool) : State :=
  let hs := sortBy (fun a b => a.line ≤ b.line) (s.shims.filter pick)
  { hs.foldl drainInto s with shims := s.shims.filter fun h => !pick h }

/-- The bays a strand is attached to. -/
def attached (st : Strand) : List Nat := st.blocks.map (·.bay)

/-- Whether an access of `n` bytes in one page covers a shim's line, by whichever name either is given (R184, R278). -/
def coversLine (s : State) (pa n : Nat) (h : Shim) : Bool :=
  steer s pa / 128 * 128 ≤ steer s h.line && steer s h.line < steer s pa + n

/-- The bays' own shims of the lines a load covers are drained before it (R297 step 1, R299). -/
def drainForLoad (s : State) (st : Strand) (pa n : Nat) : State :=
  if s.shims.isEmpty then s else drainShims s fun h => (attached st).contains h.bay && coversLine s pa n h

/-- LINEDRAW of the lines a write covers, at every holder (R299). -/
def drainForStore (s : State) (pa n : Nat) : State := if s.shims.isEmpty then s else drainShims s (coversLine s pa n)

/-! ### Checks -/

/-- WATCHA (R379): the lowest byte of the watched line that an access touches, when its kind is enabled. -/
def watchHit (r : Regs) (va size : Nat) (acc : Acc) : Option Nat :=
  let x := r.watcha.toNat
  let on := (acc.reads && x % 2 == 1) || (acc.writes && x / 2 % 2 == 1) || (acc == .fetch && x / 4 % 2 == 1)
  if !on then none
  else
    let line := x / 128 % 2 ^ 41
    if va % 2 ^ 48 / 128 == line then some va
    else if (va + size - 1) % 2 ^ 48 / 128 == line then some ((va + size - 1) / 128 * 128 % 2 ^ 64)
    else none

/-- Whether a strand's virtual function is mapped onto a wing (R22, R27). -/
def servesWing (s : State) (st : Strand) (w : Nat) : Bool := s.vfs.any fun v => v.wings.contains w && v.num == vfOf st

/-- Whether an access of a strand at position `b` may reach the `n` bytes from a physical address in one page (R182, R183,
R210, R381): device registers of its wings at runtime level, a scratch way of the bay that makes the access, backed
storage, a peer of the domain, or the host. DEDUCED (log entry 21). -/
def reachable (s : State) (st : Strand) (b pa n : Nat) (acc : Acc) : Bool :=
  if isLocal s pa then
    let a := localAddr pa
    if deviceBase ≤ a then
      (acc == .read || acc == .write) && st.r.level == .runtime && (List.range n).all fun i =>
        match devRegOf (a + i) with
        | some (.wvec w) => servesWing s st w
        | some (.baysplit k) => servesWing s st (wingOfBay k)
        | none => false
    else
      match scratchOf a with
      | some (k, w) => (st.blocks[b]?).any fun bl => bl.bay == k && bl.ways.toNat / 2 ^ w % 2 == 1
      | none => backedLocal s a
  else isHost pa || isPeer s pa

/-- How many bytes of an access that starts at `va` lie in the page of its address `x`. -/
def bytesIn (va size x : Nat) : Nat := if x = va then min size (4096 - va % 4096) else size - (4096 - va % 4096)

/-- The outcome of an access's checks (R84, R199): its pages, a store that must go to the side log, or a trap. -/
inductive Chk where
  | ok (pages : List Xl)
  | log (t : Trap)
  | fail (t : Trap)
  deriving DecidableEq, Repr

/-- The pages of an access: the address of its first byte in each. -/
def pagesOf (va size : Nat) : List Nat :=
  if va % 4096 + size ≤ 4096 then [va] else [va, (va / 4096 * 4096 + 4096) % 2 ^ 64]

/-- The cause of a missing translation (R84, R282, R371). -/
def missingCause : Acc → BitVec 8
  | .read => causeLoadpf
  | .write => causeStorepf
  | .fetch => causeFetchpf
  | .atomic => causeLoadpf

/-- The trap of a failed translation (R84, R378, R385). -/
def xlatTrap (f : XFail) (va : Nat) (acc : Acc) : Trap :=
  { cause := if f.missing then missingCause acc else causePerm, xval := BitVec.ofNat 64 va, acc := acc.code, s2 := f.s2,
    level := BitVec.ofNat 3 f.level }

/-- A second-stage failure (R387): MS2FLT records it; it goes to Heartwood first unless MS2CTL.DIRECT is 1.
DEDUCED (log entry 14). -/
def stage2Fault {α : Type} (b : Nat) (f : XFail) (t : Trap) : M α := do
  modBlock b fun bl => { bl with ms2flt := BitVec.ofNat 64 (f.ipa % 2 ^ 57) }
  let bl ← getBlock b
  if bl.ms2ctl.toNat % 2 = 1 then raiseT t
  else waitFor (.stage2 t.cause t.xval t.acc t.level)

/-- The first page of a list that a test refuses, with the address of its first byte. DEDUCED (log entry 21). -/
def firstBad (xs : List (Nat × Xl)) (bad : Nat → Xl → Bool) : Option Nat := (xs.find? fun x => bad x.1 x.2).map (·.1)

/-- Translates every page of an access: the pages, or the first failure with its address and, before a missing
permission, a missing translation of any page (R84, R199 row order). -/
def translatePages (b : Nat) (acc : Acc) : List Nat → M (Except (Nat × XFail) (List (Nat × Xl)))
  | [] => return .ok []
  | va :: rest => do
    let st ← getStrand
    let x ← translate (strandCtx st b) va acc
    let tail ← translatePages b acc rest
    match x, tail with
    | .ok p, .ok ps => return .ok ((va, p) :: ps)
    | .error f, .ok _ => return .error (va, f)
    | .ok _, .error e => return .error e
    | .error f, .error (va2, f2) =>
      if f.missing then return .error (va, f) else if f2.missing then return .error (va2, f2) else return .error (va, f)

/-- Whether a prepared vector atomic, or a streaming seal, holds a line of an access: other accesses to it wait (R286,
R420). DEDUCED (log entry 35). -/
def lineHeld (s : State) (xs : List (Nat × Xl)) (size : Nat) : Bool :=
  xs.any (fun x => sealHolds s x.2.pa) || s.prepared.any fun p => p.elems.any fun e =>
    xs.any fun x =>
      steer s x.2.pa / 128 ≤ steer s e.1 / 128 && steer s e.1 / 128 ≤ steer s (x.2.pa + size - 1) / 128

/-! ### Requests to peers and to the host (R411, R417) -/

/-- What has become of a request: its access goes on, waits, or has failed nine times. -/
inductive Ask where
  | go
  | wait
  | fail
  deriving DecidableEq, Repr

/-- Whether two addresses lie in one page, as far as this package knows its pages (R412). -/
def samePage (s : State) (a b : Nat) : Bool :=
  a / 4096 == b / 4096 ||
    (s.adoption.map (·.1) ++ s.directory.map (·.1) ++ s.ownerCache.map (·.1) ++ s.redirects.map (·.1)).any fun tag =>
      tagHit tag a && tagHit tag b

/-- The tag of the page of an address, with the size this package knows it to have, else 4 KiB (R412). -/
def pageTag (s : State) (pa : Nat) : Nat :=
  ((s.adoption.map (·.1) ++ s.directory.map (·.1) ++ s.ownerCache.map (·.1) ++ s.redirects.map (·.1)).find? fun tag =>
    tagHit tag pa).getD (pa / 4096 * 4096 + 12)

/-- The next sequence number of requests for a page name, of 16 bits (R417). Where the package has learnt the page's size
since its last request, the number goes on from that request's. DESIGN CHOICE (log entry 50). -/
def nextSeq (s : State) (pa : Nat) : Nat :=
  ((s.pageSeq.reverse.find? fun x => tagHit x.1 pa || tagHit (pageTag s pa) x.1).map (·.2)).getD 0

/-- The state after a request for a page has taken its number. -/
def tookSeq (s : State) (pa : Nat) : State :=
  { s with pageSeq := s.pageSeq.filter (fun x => !(tagHit x.1 pa || tagHit (pageTag s pa) x.1)) ++
      [(pageTag s pa, (nextSeq s pa + 1) % 65536)] }

/-- The package a request goes to: a redirect names it, with the MARK the request carries (R417); the host by its own
number. -/
def requestTarget (s : State) (pa : Nat) : Nat × Option Nat :=
  if isHost pa then (0x7FF, none)
  else
    match s.redirects.find? fun x => tagHit x.1 pa with
    | some (_, owner, m) => (owner, some m)
    | none => (servedBy s pa, none)

/-- The owner cache with one page's owner, of at most 16,384 entries, the oldest evicted (R412); `tag` holds the log2 of the
page's size in its low bits. -/
def cacheOwner (s : State) (tag owner : Nat) : State :=
  let l := (s.ownerCache.filter fun d => !tagHit d.1 tag && !tagHit tag d.1) ++ [(tag, owner)]
  { s with ownerCache := l.drop (l.length - 16384) }

/-- Whether a request is outstanding: not answered, and not at its ninth failure (R411). -/
def isOpen (q : PeerReq) : Bool := !q.answered && q.retries < 9

/-- Redirects whose page has no request outstanding any more enter the owner cache (R417). -/
def settleRedirects (s : State) : State :=
  s.redirects.foldl (fun s x =>
    if s.outReqs.any fun q => isOpen q && tagHit x.1 q.addr then s
    else { cacheOwner s x.1 x.2.1 with redirects := s.redirects.filter (· != x) }) s

/-- Whether a request to the page of an address has been refused: nothing further goes out for the page (R417). -/
def pageRefused (s : State) (pa : Nat) : Bool := s.outReqs.any fun q => q.refused && isOpen q && samePage s q.addr pa

/-- A request to the party that serves an address (R411). It is answered at once or not: a free choice. One that is not
stays outstanding, and its access waits until it is answered or has failed nine times; so does an access to a page of which
a request has been refused (R417). DEDUCED (log entry 50). -/
def askFar (who pa : Nat) : M Ask := do
  let s ← get
  let mine := fun (q : PeerReq) => q.who == who && q.addr == pa
  let done := settleRedirects { s with outReqs := s.outReqs.filter fun q => !mine q }
  match s.outReqs.find? mine with
  | some q =>
    if 9 ≤ q.retries then
      set done
      return .fail
    else if q.answered then
      set done
      return .go
    else return .wait
  | none =>
    if pageRefused s pa then return .wait
    else
      let now ← freeBit
      let x := requestTarget s pa
      let q : PeerReq :=
        { peer := x.1, seq := nextSeq s pa, addr := pa, op := .read 0, mark := x.2, who := who, retries := 0,
          answered := false, refused := false }
      modify fun s => tookSeq s pa
      if now then return .go
      else
        modify fun s => { s with outReqs := s.outReqs ++ [q] }
        return .wait

/-- The requests of an access, page by page: the first address whose request has failed; the access waits for one that is
not answered. -/
def askPages (xs : List (Nat × Xl)) : M (Option Nat) := do
  let s ← get
  ask s.cur (xs.filter fun x => elsewhere s x.2.pa)
where
  /-- The requests of pages that other parties serve. -/
  ask (cur : Nat) : List (Nat × Xl) → M (Option Nat)
    | [] => return none
    | (va, x) :: t => do
      match ← askFar (2 * cur) x.pa with
      | .go => ask cur t
      | .wait => waitFor .peer
      | .fail => return some va

/-- The PERM of an address that is not canonical (R382). -/
def wildTrap (va : Nat) (acc : Acc) : Trap := xlatTrap { missing := false, level := 0, s2 := false, ipa := 0 } va acc

/-- The first address of an access's pages that is not canonical: a store that meets one is never logged (R382). -/
def wildPage (va size : Nat) : Option Nat := (pagesOf va size).find? fun a => !canonical a

/-- The rows of R84 and R199 for an access after WATCH and alignment, in their order, up to ORDMIX.
DEDUCED (log entry 14). -/
def checkRows (b va size : Nat) (acc : Acc) : M Chk := do
  match ← translatePages b acc (pagesOf va size) with
  | .error (a, f) =>
    let t := xlatTrap f a acc
    if f.s2 then stage2Fault b f t
    else if f.missing && acc != .read then
      return (wildPage va size).elim (.log t) fun w => .fail (wildTrap w acc)
    else return .fail t
  | .ok ps =>
    let st ← getStrand
    let s ← get
    match firstBad ps fun a x => !reachable s st b x.pa (bytesIn va size a) acc with
    | some a => return .fail { cause := causePerm, xval := BitVec.ofNat 64 a }
    | none =>
      match firstBad ps fun _ x => x.cmp with
      | some a => return .fail { cause := causeCmpview, xval := BitVec.ofNat 64 a }
      | none =>
        if (ps.map fun x => x.2.ord).any fun o => o != ((ps.map fun x => x.2.ord).headD o) then
          return .fail { cause := causeOrdmix, xval := BitVec.ofNat 64 va }
        else return .ok (ps.map (·.2))

/-- The pages of an access that has passed its rows: those that other parties serve are asked (R411), and a line that is
held lets it wait (R286, R420). -/
def checkServed (va size : Nat) (ps : List Xl) : M Chk := do
  let xs := (pagesOf va size).zip ps
  match ← askPages xs with
  | some a => return .fail { cause := causeRemote, xval := BitVec.ofNat 64 a }
  | none =>
    let s ← get
    if lineHeld s xs size then waitFor .busyUnit else return .ok ps

/-- The checks of an access after WATCH and alignment: the rows of R84 and R199, then the answer of the party that serves
it. DEDUCED (log entry 14). -/
def checkAccess (b va size : Nat) (acc : Acc) : M Chk := do
  match ← checkRows b va size acc with
  | .ok ps => checkServed va size ps
  | c => return c

/-- The physical address of byte `i` of an access that starts at `va`. -/
def byteAddr (pages : List Xl) (va i : Nat) : Nat :=
  match pages with
  | [] => 0
  | [p] => p.pa + i
  | p :: q :: _ => if va % 4096 + i < 4096 then p.pa + i else q.pa + (va % 4096 + i - 4096)

/-- The page of byte `i` of an access that starts at `va`. -/
def pageAt (pages : List Xl) (va i : Nat) : Option Xl :=
  match pages with
  | [] => none
  | [p] => some p
  | p :: q :: _ => if va % 4096 + i < 4096 then some p else some q

/-- The lowest byte of an access that lies in a poisoned word (R435). DEDUCED (log entry 45). -/
def poisonAt (s : State) (pages : List Xl) (va size : Nat) : Option Nat :=
  if s.poison.isEmpty then none
  else ((List.range size).find? fun i => isPoisoned s (byteAddr pages va i)).map (va + ·)

/-! ### The side log -/

/-- What the side logs hold of a byte: nothing, stored bits under a mask, or a byte of an atomic or slack operand
(R215). -/
inductive Logged where
  | no
  | byte (b mask : Byte)
  | operand
  deriving DecidableEq, Repr

/-- A byte whose masked bits are replaced. -/
def mixByte (old new mask : Byte) : Byte := (old &&& ~~~mask) ||| (new &&& mask)

/-- Width in bytes of a logged atomic. -/
def atomBytes (w64 : Bool) : Nat := if w64 then 8 else 4

/-- What one entry holds of the byte at offset `o` of its line. -/
def entryByte (e : LogEntry) (o : Nat) : Logged :=
  match e.op with
  | .store bs =>
    match bs.find? fun x => x.1 == o with
    | some x => .byte x.2.1 x.2.2
    | none => .no
  | .atomic _ w elems => if elems.any fun x => x.1 ≤ o && o < x.1 + atomBytes w then .operand else .no
  | .slack elems => if elems.any fun x => x.1 ≤ o && o < x.1 + 4 then .operand else .no

/-- A newer entry's byte over what the older ones hold. -/
def logOver (new old : Logged) : Logged :=
  match new, old with
  | .no, y => y
  | .operand, _ => .operand
  | .byte b m, .byte c k => .byte (mixByte c b m) (m ||| k)
  | .byte b m, .no => .byte b m
  | .byte b m, .operand => if m = 255 then .byte b m else .operand

/-- All side-log entries of a strand, newest first. -/
def logNewest (st : Strand) : List LogEntry :=
  (sortBy (fun a b => a.seq ≤ b.seq) (st.blocks.foldl (fun a bl => a ++ bl.slog) [])).reverse

/-- What the logs hold of the byte at a virtual address, newest entry first (R214, R215); an address that is not canonical
is never logged (R382). DEDUCED (log entry 19). -/
def loggedByte (st : Strand) (va : Nat) : Logged :=
  let line := va % 2 ^ 48 / 128
  let asid := BitVec.ofNat 16 st.r.asid.toNat
  if !canonical va then .no
  else
    ((logNewest st).filter fun e => e.line == line && e.asid == asid).foldr
      (fun e acc => logOver (entryByte e (va % 128)) acc) .no

/-- Whether an access overlaps a logged entry (R215). DEDUCED (log entry 19). -/
def overlapsLog (st : Strand) (va size : Nat) : Bool :=
  slogCount st != 0 && (List.range size).any fun i => loggedByte st ((va + i) % 2 ^ 64) != .no

/-- Puts new bytes into a byte list keyed by offset; later bits replace earlier ones (R214). DEDUCED (log entry 19). -/
def mergeBytes (old new : List (Nat × Byte × Byte)) : List (Nat × Byte × Byte) :=
  new.foldl (fun acc x =>
    if acc.any fun y => y.1 == x.1 then
      acc.map fun y => if y.1 == x.1 then (y.1, mixByte y.2.1 x.2.1 x.2.2, y.2.2 ||| x.2.2) else y
    else acc ++ [x]) old

/-- Whether stored bytes, by their offsets in a line, write word `k` of it whole. -/
def wholeWord (k : Nat) (bs : List (Nat × Byte × Byte)) : Bool :=
  (List.range 8).all fun i => bs.any fun x => x.1 == 8 * k + i && x.2.2 == 255

/-- Retires an access into the side log of position `b` (R213, R214, R217). `t` is the STOREPF it raises instead when
logging is disabled or the log is full; `joins` marks a store element that begins in the line before, in another page.
DEDUCED (log entry 19). -/
def logAccess (b line : Nat) (op : LogOp) (rq : BitVec 2) (nt joins : Bool) (t : Trap) : M Unit := do
  let st ← getStrand
  let bl ← getBlock b
  if !st.r.slogEn then raiseT t
  else
    let vmid := BitVec.ofNat 10 (bl.mplace.toNat / 2 ^ 32)
    let fresh : LogEntry :=
      { line := line, asid := BitVec.ofNat 16 st.r.asid.toNat, vmid := vmid, level := st.r.level, rq := rq, nt := nt,
        seq := st.logSeq, op := op, joins := joins }
    let newest := (logNewest st).find? fun e => e.line == line
    let merged : Option LogEntry :=
      match newest, op with
      | some e, .store new =>
        match e.op with
        | .store old => if e.asid == fresh.asid && e.level == fresh.level && bl.slog.contains e then
            some { e with op := .store (mergeBytes old new), joins := e.joins || joins, bad := e.bad.filter fun k => !wholeWord k new }
            else none
        | _ => none
      | _, _ => none
    match merged with
    | some e => modBlock b fun bl => { bl with slog := bl.slog.map fun x => if x.seq = e.seq then e else x }
    | none =>
      if bl.slog.length ≥ slogEntries then
        modRegs fun r => { r with slogOvf := true }
        raiseT t
      else
        if slogCount st = 0 then modStrand fun st => { st with slogPending := true }
        modBlock b fun bl => { bl with slog := bl.slog ++ [fresh] }
        modStrand fun st => { st with logSeq := st.logSeq + 1 }

/-- A store trap with no translation detail. -/
def storepf (va : Nat) : Trap := { cause := causeStorepf, xval := BitVec.ofNat 64 va, acc := Acc.write.code }

/-- An access that would retire into the side log traps at once when logging is disabled (R217). -/
def needLog (t : Trap) : M Unit := do
  let r ← getRegs
  if r.slogEn then return () else raiseT t

/-- Retires the bytes of a store into the side log, line by line (R213, R214). DEDUCED (log entry 19). -/
def logStore (b va : Nat) (bs : List (Byte × Byte)) (rq : BitVec 2) (nt : Bool) (t : Trap) : M Unit := do
  let n1 := min bs.length (128 - va % 128)
  let part := fun (o : Nat) (l : List (Byte × Byte)) => l.zipIdx.map fun (x, i) => (o + i, x)
  logAccess b (va % 2 ^ 48 / 128) (.store (part (va % 128) (bs.take n1))) rq nt false t
  if n1 < bs.length then
    logAccess b ((va + n1) % 2 ^ 48 / 128) (.store (part 0 (bs.drop n1))) rq nt ((va + n1) % 4096 == 0) t

/-! ### How a request type is served (R184, R186, R187) -/

/-- Whether a local frame address lies in a frame that a pin, a swap record or a migration record steers, so that no L1
allocates its lines (R398, R400, R414). -/
def frameSteered (s : State) (a : Nat) : Bool :=
  s.pins.any (fun p => p.backing / 4096 == a / 4096) ||
    s.swaps.any (fun r => (r.a ≤ a && a < r.a + r.size) || (r.b ≤ a && a < r.b + r.size)) ||
    s.migs.any fun r => r.frame ≤ a && a < r.frame + r.size

/-- The request type an access is served with (R86, R184, R187, R210, R297, R307): uncached where no L1 may hold the line or
a slack page is read or written at its home; at a peer's or the host's address only a self-invalidating read is kept. -/
def servedAs (s : State) (x : Xl) (rq : BitVec 2) : BitVec 2 :=
  match localFrame s x.pa with
  | some a =>
    if x.home != 0 || x.slk || x.mig || (rq == 2 && x.ord == 1) || frameSteered s a || (scratchOf a).isSome then 3 else rq
  | none => if rq == 2 && x.home == 0 && x.ord != 1 && !x.slk && !x.mig then 2 else 3

/-- The bay at a position of the executing strand. -/
def bayAt (st : Strand) (b : Nat) : Nat := (st.blocks[b]?).elim 0 fun bl : Block => bl.bay

/-! ### Writes the strand's own accesses may still miss (R71, R85, R132, R309, R311) -/

/-- Whether a write covers some of the keys. -/
def OldWrite.covers (w : OldWrite) (keys : List Nat) : Bool := w.bytes.any fun x => keys.contains x.1

/-- Whether two writes share a byte. -/
def OldWrite.meets (w u : OldWrite) : Bool := w.covers (u.bytes.map (·.1))

/-- Whether a read may be performed before a write that is older in program order: the other stream's, not yet ordered
(R85), though one of the scalar instructions that are held sees every older vector store (R71); or any write of its own
stream in an unordered page (R309). DEDUCED (log entry 9). -/
def mayMiss (vector held : Bool) (ord : Nat) (w : OldWrite) : Bool :=
  (w.cross && w.vector != vector && !(held && w.vector)) || (w.unord && ord == 2 && w.vector == vector)

/-- Which of the pending writes, newest first, a read of some bytes is performed before: a free choice for each that it may
miss, if it misses every later one that shares a byte with it (R311). DEDUCED (log entry 9). -/
def chooseMissed (miss : OldWrite → Bool) (keys : List Nat) : List OldWrite → List OldWrite → M (List (OldWrite × Bool))
  | [], _ => return []
  | w :: t, later => do
    if !w.covers keys then
      let rest ← chooseMissed miss keys t later
      return (w, false) :: rest
    else
      let gone ← if miss w && !later.any w.meets then freeBit else pure false
      let rest ← chooseMissed miss keys t (if gone then later else w :: later)
      return (w, gone) :: rest

/-- The value of a byte before the writes that a read misses; they stand newest first. -/
def valueBefore (key : Nat) (now : Byte) (ws : List (OldWrite × Bool)) : Byte :=
  ws.foldl (fun v x => if x.2 then ((x.1.bytes.find? fun y => y.1 == key).map (·.2)).getD v else v) now

/-- One pending write, after a read of a stream that returned it or a later strongly ordered write of its stream (R307,
R311): that stream misses it no more. -/
def OldWrite.seenBy (vector : Bool) (w : OldWrite) : OldWrite := { w with cross := w.cross && w.vector == vector, seen := true }

/-- The pending writes, oldest first, after a read: those it returned are performed for its stream. -/
def afterRead (miss : OldWrite → Bool) (vector : Bool) (keys : List Nat) (ws : List (OldWrite × Bool)) : List OldWrite :=
  (ws.foldl (fun (acc : List OldWrite × Bool) x =>
    let hit := !x.2 && x.1.covers keys && miss x.1
    let w := if hit || (acc.2 && x.1.strong && x.1.vector != vector) then x.1.seenBy vector else x.1
    (if w.cross || w.unord then w :: acc.1 else acc.1, acc.2 || (hit && x.1.strong && x.1.vector != vector))) ([], false)).1

/-- Some bytes as a read of the strand meets them behind `base`, what the memory or a copy holds (R311): an access to
these bytes is single-copy atomic. DEDUCED (log entry 9). -/
def missWrites (vector held : Bool) (ord : Nat) (keys : List Nat) (base : List Byte) : M (List Byte) := do
  let st ← getStrand
  let miss := mayMiss vector held ord
  if !(st.pending.any fun w => w.covers keys && miss w) then return base
  else
    let ws ← chooseMissed miss keys st.pending.reverse []
    setStrand { st with pending := afterRead miss vector keys ws }
    return (keys.zip base).map fun x => valueBefore x.1 x.2 ws

/-- Whether a later write of a stream may be performed before a pending one (R85, R309): scalar stores of the strand not
yet ordered for its vector stores, or any write of its own stream in an unordered page; a scalar store is held until every
older vector store has been performed (R71). DEDUCED (log entry 9). -/
def mayPass (vector : Bool) (ord : Nat) (w : OldWrite) : Bool :=
  w.fresh != some 0 && !w.settled && ((vector && w.cross && !w.vector) || (w.unord && ord == 2 && w.vector == vector))

/-- The pending writes, oldest first, cut where a new write of some bytes is performed: behind the last one that it may not
pass, and before `k` of those that it may. -/
def cutPending (pass : OldWrite → Bool) (keys : List Nat) (k : Nat) : List OldWrite → List OldWrite × List OldWrite
  | [] => ([], [])
  | w :: t =>
    if t.any (fun u => u.covers keys && !pass u) || (w.covers keys && !pass w) ||
        k < ((w :: t).filter fun u => u.covers keys).length then
      let x := cutPending pass keys k t
      (w :: x.1, x.2)
    else ([], w :: t)

/-- How many pending writes a new write of some bytes may be performed before. -/
def passable (pass : OldWrite → Bool) (keys : List Nat) (ws : List OldWrite) : Nat :=
  ((ws.reverse.filter fun w => w.covers keys).takeWhile pass).length

/-- The writes performed behind a new one keep their bytes; the first of them that wrote a byte wrote over the new one's. -/
def rebase (key : Nat) (v : Byte) : List OldWrite → List OldWrite
  | [] => []
  | w :: t =>
    if w.covers [key] then { w with bytes := w.bytes.map fun x => if x.1 = key then (x.1, v) else x } :: t
    else w :: rebase key v t

/-- The value of a byte that the first of some writes to cover it was made over. -/
def overwritten (key : Nat) (ws : List OldWrite) : Option Byte :=
  (ws.find? fun w => w.covers [key]).bind fun w => (w.bytes.find? fun x => x.1 == key).map (·.2)

/-- The value of a byte that a new write, performed before some pending ones, is made over. -/
def valueUnder (s : State) (key : Nat) (behind : List OldWrite) : Byte := (overwritten key behind).getD (memRead s.mem key)

/-- The pending writes that some access of the strand may still miss. -/
def stillMissed (ws : List OldWrite) : List OldWrite := ws.filter fun w => w.cross || w.unord

/-- Where in coherence order a new write of some bytes is performed: the pending writes before it and behind it, a free
choice among the places it may take (R85, R309, R311). DEDUCED (log entry 9). -/
def choosePlace (vector : Bool) (ord : Nat) (keys : List Nat) : M (List OldWrite × List OldWrite) := do
  let st ← getStrand
  let pass := mayPass vector ord
  let n := passable pass keys st.pending
  let k ← if n = 0 then pure 0 else freeBelow (n + 1)
  return cutPending pass keys k st.pending

/-- A write takes its place: the bytes that reach memory, and the pending list. An atomic is never passed (`settled`); one
that acquires is missed by none (`done`). -/
def putWrite (vector : Bool) (ord : Nat) (settled done : Bool) (place : List OldWrite × List OldWrite) (new : List (Nat × Byte)) :
    M (List (Nat × Byte)) := do
  let st ← getStrand
  let s ← get
  let w : OldWrite :=
    { bytes := new.map fun x => (x.1, valueUnder s x.1 place.2), vector := vector, cross := true, unord := ord == 2,
      strong := ord == 1, settled := settled, seen := false, fresh := if vector then some 0 else none }
  let behind := new.foldl (fun ws x => rebase x.1 x.2 ws) place.2
  setStrand { st with pending := place.1 ++ (if done then [] else [w]) ++ behind }
  return new.filter fun x => (overwritten x.1 place.2).isNone

/-- A write of bytes, each with the bits of it that are stored (R200), takes its place in coherence order among the strand's
pending writes: the bytes that reach memory. -/
def placeWrite (vector : Bool) (ord : Nat) (l : List (Nat × Byte × Byte)) : M (List (Nat × Byte)) := do
  let place ← choosePlace vector ord (l.map (·.1))
  let s ← get
  putWrite vector ord false false place
    (l.map fun (a, x, m) => (a, if m = 255 then x else mixByte (valueUnder s a place.2) x m))

/-! ### Performing accesses -/

/-- The bytes a self-invalidating copy of a bay holds of some keys in one line, if it holds the line (R189). -/
def copyBytes (s : State) (bay : Nat) (keys : List Nat) : Option (List Byte) :=
  let line := keys.headD 0 / 128 * 128
  ((bayOf s bay).copies.find? fun l => l.addr == line).map fun l => keys.map fun k => l.bytes.getD (k % 128) 0

/-- A bay holds a line as memory has it. -/
def refreshCopy (s : State) (bay line : Nat) : State :=
  let b := bayOf s bay
  setBay s bay { b with copies := (b.copies.filter fun l => l.addr != line) ++ [{ addr := line, bytes := memReadList s.mem line 128 }] }

/-- The bays of a strand that hold a line hold it as memory has it, and bay `bay` does when it keeps it under a
self-invalidating read (R186): a stream never goes back to an older value (R311). -/
def refreshCopies (s : State) (st : Strand) (bay : Nat) (keep : Bool) (key : Nat) : State :=
  let line := key / 128 * 128
  (attached st).foldl (fun s n =>
    if (keep && n == bay) || (bayOf s n).copies.any fun l => l.addr == line then refreshCopy s n line else s) s

/-- The strand's own writes update the copies its bays hold (R189); one performed at the home leaves its own bay none
(R186). -/
def updateCopies (s : State) (st : Strand) (l : List (Nat × Byte)) : State :=
  (attached st).foldl (fun s n =>
    let b := bayOf s n
    if b.copies.isEmpty then s
    else
      setBay s n { b with copies := b.copies.map fun c =>
        { c with bytes := l.foldl (fun bs x => if x.1 / 128 * 128 = c.addr then bs.set (x.1 % 128) x.2 else bs) c.bytes } }) s

/-- A byte of a device register (R183, R381). DEDUCED (log entry 21). -/
def deviceByte (s : State) (pa : Nat) : Byte :=
  match devRegOf (localAddr pa) with
  | some r => BitVec.ofNat 8 ((devRead s r).toNat / 256 ^ (pa % 8))
  | none => 0

/-- Whether second-tier memory the host has configured as pooled holds an address (R303). -/
def isPooled (s : State) (pa : Nat) : Bool :=
  isLocal s pa && s.part.pooled.any fun (a, n) => a ≤ localAddr pa && localAddr pa < a + n

/-- One of the values a byte has held, or its value: what a read of pooled memory under HOME 0 may return (R331).
DEDUCED (log entry 9). -/
def pastByte (s : State) (key : Nat) : M Byte := do
  let now := memRead s.mem key
  let old := (dedup ((s.written.flatMap id).filter fun x => x.1 == key)).map (·.2) |>.filter (· != now)
  if old.isEmpty then return now
  else
    let k ← freeBelow (old.length + 1)
    return old.getD k now

/-- The bytes of several keys, each one of the values it has held. -/
def pastBytes (s : State) : List Nat → M (List Byte)
  | [] => return []
  | k :: t => do
    let x ← pastByte s k
    let rest ← pastBytes s t
    return x :: rest

/-- What a read finds of some bytes in one line: a self-invalidating copy its bay still holds, if it has not been fetched
again (R189); else what the home serves (R188), of pooled memory under HOME 0 any value (R331). DEDUCED (log entry 9). -/
def findBytes (bay : Nat) (rq : BitVec 2) (x : Xl) (keys : List Nat) : M (List Byte) := do
  let st ← getStrand
  let s ← get
  let now := keys.map (memRead s.mem)
  let old := if rq == 2 then (copyBytes s bay keys).filter (· != now) else none
  let stale ← if old.isSome then freeBit else pure false
  if stale then return old.getD now
  else
    modify fun s =>
      refreshCopies (homeAccess s (some bay) (if rq == 3 then .uncachedRead else .cachedRead) keys) st bay (rq == 2) (keys.headD 0)
    if x.home == 0 && isPooled s x.pa then pastBytes s keys else return now

/-- Reads some bytes of a page as one access of a stream at position `b` (R85, R188, R311). DEDUCED (log entry 9). -/
def readKeys (b : Nat) (rq : BitVec 2) (vector : Bool) (x : Xl) (keys : List Nat) : M (List Byte) := do
  let st ← getStrand
  let s ← get
  let base ← findBytes (bayAt st b) (servedAs s x rq) x keys
  missWrites vector (rq == 3) x.ord keys base

/-- Reads one byte of a checked access. -/
def readByte (b va : Nat) (rq : BitVec 2) (vector : Bool) (pages : List Xl) (i : Nat) : M Byte := do
  let s ← get
  let pa := byteAddr pages va i
  match pageAt pages va i with
  | none => return 0
  | some x =>
    if isDevice s pa then return deviceByte s pa
    else return (← readKeys b rq vector x [steer s pa]).headD 0

/-- Reads the `n` bytes from the `i`-th of a checked access one by one. -/
def readEach (b va : Nat) (rq : BitVec 2) (vector : Bool) (pages : List Xl) : Nat → Nat → M (List Byte)
  | 0, _ => return []
  | n + 1, i => do
    let x ← readByte b va rq vector pages i
    let rest ← readEach b va rq vector pages n (i + 1)
    return x :: rest

/-- Reads the bytes of a checked access from memory: an aligned access of up to eight bytes at once, any other byte by byte
(R84, R197, R311). -/
def readMemory (b va n : Nat) (rq : BitVec 2) (vector : Bool) (pages : List Xl) : M (List Byte) := do
  let s ← get
  match pages with
  | [x] =>
    if n ≤ 8 && va % n = 0 && !isDevice s x.pa then readKeys b rq vector x (keysOf s x.pa n)
    else readEach b va rq vector pages n 0
  | _ => readEach b va rq vector pages n 0

/-- A byte as the side log and memory together hold it (R215). -/
def mixLogged (l : Logged) (x : Byte) : Byte :=
  match l with
  | .byte y k => mixByte x y k
  | _ => x

/-- Whether the newest logged store of a byte holds it in a word with an uncorrectable error (R434, R435). -/
def badLogged (st : Strand) (va : Nat) : Bool :=
  canonical va &&
    (((logNewest st).filter fun e => e.line == va % 2 ^ 48 / 128 && e.asid == BitVec.ofNat 16 st.r.asid.toNat).find? fun e =>
      entryByte e (va % 128) != .no).any fun e => e.bad.contains (va % 128 / 8)

/-- What the logs hold of the bytes of an access. -/
def loggedBytes (st : Strand) (va n : Nat) : List Logged := (List.range n).map fun i => loggedByte st ((va + i) % 2 ^ 64)

/-- Reads the bytes of a checked access, the side log's bytes first (R215), then memory. -/
def readBytes (b va n : Nat) (rq : BitVec 2) (vector : Bool) (pages : List Xl) : M (List Byte) := do
  let st ← getStrand
  if slogCount st = 0 then readMemory b va n rq vector pages
  else
    let logged := loggedBytes st va n
    if logged.contains .operand then waitFor .sideLog
    else if let some i := (List.range n).find? fun i => badLogged st ((va + i) % 2 ^ 64) then
      raise causeEccuc (BitVec.ofNat 64 ((va + i) % 2 ^ 64))
    else
      let xs ← if pages.isEmpty then pure (List.replicate n (0 : Byte)) else readMemory b va n rq vector pages
      return (logged.zip xs).map fun x => mixLogged x.1 x.2

/-- A store into device registers: each register a store touches is written once; bits that are not stored keep their value,
and W1C bits that are not written are not cleared (R8). DEDUCED (log entry 21). -/
def deviceStore (s : State) (pa : Nat) (bs : List (Byte × Byte)) : State :=
  let words := dedup ((bs.zipIdx.filter fun x => x.1.2 != 0).map fun x => (pa + x.2) / 8 * 8)
  words.foldl (fun s w =>
    match devRegOf (localAddr w) with
    | none => s
    | some r =>
      let old := (devRead s r).toNat
      let kept := match r with
        | .baysplit _ => old % 256
        | .wvec _ => old
      let v := (List.range 8).foldl (fun acc k =>
        let x := if pa ≤ w + k then bs.getD (w + k - pa) (0, 0) else (0, 0)
        acc + (mixByte (BitVec.ofNat 8 (kept / 256 ^ k)) x.1 x.2).toNat * 256 ^ k) 0
      devWrite s r (BitVec.ofNat 64 v)) s

/-! ### Outstanding writes (R304, R318, R319) -/

/-- The scopes whose counters count a write to an address, strand scope left out (R303, R318). -/
def countedAt (s : State) (pa : Nat) : List Bool :=
  let outer := isHost pa || isPooled s pa
  let peer := !isLocal s pa && !isHost pa
  [!outer && !peer, !outer && !peer, !outer && !peer, !outer, true]

/-- A write that counter `i` counts is performed at its scope, and so at every narrower scope (R304): a narrower counter
that still counts it falls too. Whether it does is a free choice where the counters do not say. DEDUCED (log entry 17). -/
def lowerInner : Nat → Vector Nat 5 → M (Vector Nat 5)
  | 0, v => return v
  | i + 1, v => do
    let v := v.setIfInBounds i (v.getD i 0 - 1)
    if i = 0 || v.getD (i - 1) 0 = 0 then return v
    else
      let also ← if v.getD i 0 < v.getD (i - 1) 0 then pure true else freeBit
      if also then lowerInner i v else return v

/-- The counters once `n` of the writes that counter `i` counts are performed at its scope, as the wider ones see it: a local
write performed at device scope is performed at domain and system scope, a peer write performed at domain scope at system
scope (R304). -/
def lowerOuter (i n : Nat) (v : Vector Nat 5) : Vector Nat 5 :=
  Vector.ofFn fun j : Fin 5 => if 2 ≤ i && decide (i < j.val) then v.getD j.val 0 - n else v.getD j.val 0

/-- A write is performed at the scope of the counter before `i`: that counter falls, and with it the narrower and wider ones
that count the write (R304, R318). DEDUCED (log entry 17). -/
def lowerCounters (i : Nat) (v : Vector Nat 5) : M (Vector Nat 5) :=
  if v.getD (i - 1) 0 = 0 then return v else lowerInner i (lowerOuter (i - 1) 1 v)

/-- A number of writes at a scope are performed. -/
def lowerTimes (scope : Nat) : Nat → Vector Nat 5 → M (Vector Nat 5)
  | 0, v => return v
  | k + 1, v => do
    let v ← lowerCounters scope v
    lowerTimes scope k v

/-- Which noted strongly ordered writes are still counted when the counters have fallen: none that a counter now at zero
counts, and else a free choice (R307, R318). DEDUCED (log entry 17). -/
def stillOut (old new : Vector Nat 5) : List (Bool × List Bool) → M (List (Bool × List Bool))
  | [] => return []
  | x :: t => do
    let rest ← stillOut old new t
    if old = new then return x :: rest
    else if (List.range 5).any fun i => x.2.getD i false && new.getD i 0 == 0 then return rest
    else
      let gone ← freeBit
      return if gone then rest else x :: rest

/-- A write stalls at issue while a counter it raises is full, until a free number of writes have been performed (R318). -/
def stallCounters (covers : List Bool) : List Nat → Vector Nat 5 → M (Vector Nat 5)
  | [], v => return v
  | i :: t, v => do
    if covers.getD i false && decide (4095 ≤ v.getD i 0) then
      let k ← freeBelow (v.getD i 0)
      let v ← lowerTimes (i + 1) (k + 1) v
      stallCounters covers t v
    else stallCounters covers t v

/-- One write is counted in the counters of every scope that covers a class it reaches (R303, R318), and entered in the
dirty-address FIFO when FMODE.FISTO is 1 (R319), once there is room. DEDUCED (log entry 17). -/
def countWrite (b : Nat) (vector strong : Bool) (pas : List Nat) : M Unit := do
  let st ← getStrand
  let s ← get
  let bl ← getBlock b
  let covers := (List.range 5).map fun i => pas.any fun pa => (countedAt s pa).getD i false
  let v ← stallCounters covers [0, 1, 2, 3, 4] bl.outst
  let need := if st.r.fmode.toNat % 2 = 1 then bl.fifo.length + pas.length - 256 else 0
  let gone ← if need = 0 then pure 0 else do pure (need + (← freeBelow (bl.fifo.length - need + 1)))
  let v ← lowerTimes 5 gone v
  let out ← stillOut bl.outst v bl.strongOut
  let fifo := bl.fifo.drop gone ++
    if st.r.fmode.toNat % 2 = 1 then pas.map fun pa => steer s pa / 128 * 128 else []
  setBlock b { bl with
    outst := Vector.ofFn fun i : Fin 5 => if covers.getD i false then v.getD i 0 + 1 else v.getD i 0
    fifo := fifo, strongOut := out ++ if strong then [(vector, covers)] else [] }

/-! ### Stores -/

/-- The writes that a step has added to `State.written` are the strand's own, from position `b`, and not yet released (R103). -/
def noteUnreleased (b before : Nat) : M Unit := do
  let s ← get
  if before < s.written.length then
    modBlock b fun bl => { bl with unreleased := bl.unreleased ++ (List.range (s.written.length - before)).map (before + ·) }

/-- Writes the bytes that have taken their place in coherence order, at the home or in the bay's L1 (R186, R188). -/
def landBytes (bay : Nat) (rq : BitVec 2) (l : List (Nat × Byte)) : M Unit := do
  let st ← getStrand
  let s ← get
  let keys := l.map (·.1)
  let s :=
    if rq == 0 then ownBytes (homeAccess s (some bay) .ownedWrite keys) bay keys
    else homeAccess s (some bay) (if rq == 3 then .homeWrite else .throughWrite) keys
  let s := updateCopies (storeKeys s l) st l
  set (if rq == 3 then
    setBay s bay { bayOf s bay with copies := (bayOf s bay).copies.filter fun c => !keys.any fun k => k / 128 * 128 == c.addr }
    else s)

/-- Writes some bytes of a page with the type they are served with, as one access of a stream at position `b`. -/
def writeServed (b : Nat) (rq : BitVec 2) (vector : Bool) (x : Xl) (l : List (Nat × Byte × Byte)) : M Unit := do
  if l.isEmpty then return ()
  else
    let st ← getStrand
    let s ← get
    let landed ← placeWrite vector x.ord l
    landBytes (bayAt st b) rq landed
    noteUnreleased b s.written.length

/-- Whether a stored byte is stored whole. -/
def wholeByte (x : Nat × Byte × Byte) : Bool := x.2.2 == 255

/-- Writes some bytes of a page as one access of a stream at position `b` (R85, R188, R311); a byte that shares bits with
untouched ones is read, modified and written at the home slice (R200). DEDUCED (log entry 9). -/
def writeKeys (b : Nat) (rq : BitVec 2) (vector : Bool) (x : Xl) (l : List (Nat × Byte × Byte)) : M Unit := do
  let s ← get
  writeServed b (servedAs s x rq) vector x (l.filter wholeByte)
  writeServed b 3 vector x (l.filter fun y => !wholeByte y)

/-- Writes bytes one access after another. -/
def writeEach (b : Nat) (rq : BitVec 2) (vector : Bool) (x : Xl) : List (Nat × Byte × Byte) → M Unit
  | [] => return ()
  | y :: t => do
    writeKeys b rq vector x [y]
    writeEach b rq vector x t

/-- The bytes a store changes, by key, each with the bits of it that are stored. -/
def storedKeys (s : State) (pa : Nat) (bs : List (Byte × Byte)) : List (Nat × Byte × Byte) :=
  (bs.zipIdx.filter fun x => x.1.2 != 0).map fun (x, i) => (steer s (pa + i), x)

/-- Writes the part of a checked store that lies in one page (R86, R183, R435): slack holders of its lines are drawn first,
and poison of whole words is cleared. An aligned store of up to eight bytes is one access, any other is atomic byte by
byte (R84, R197, R311). -/
def storePart (b pa : Nat) (rq : BitVec 2) (vector : Bool) (x : Xl) (bs : List (Byte × Byte)) : M Unit := do
  let s ← get
  if isDevice s pa then set (deviceStore s pa bs)
  else
    if x.slk then set (drainForStore s pa bs.length)
    let s ← get
    let l := storedKeys s pa bs
    if bs.length ≤ 8 && pa % bs.length = 0 then writeKeys b rq vector x l else writeEach b rq vector x l
    modify fun s => clearPoison s pa bs.length

/-- The last write of a stream to a strongly ordered page is performed, if it is still counted (R307). -/
def Block.strongDone (vector : Bool) (bl : Block) : Block :=
  (bl.strongOut.filter fun x => x.1 == vector).foldl (fun bl x => { bl with
    outst := Vector.ofFn fun i : Fin 5 => bl.outst.getD i 0 - (if x.2.getD i false then 1 else 0) })
    { bl with strongOut := bl.strongOut.filter fun x => x.1 != vector }

/-- An access to a strongly ordered page begins: the one before it of its stream is performed (R307). A vector access notes
that it touches one. -/
def noteStrong (vector : Bool) (pages : List Xl) : M Unit := do
  if pages.any (fun p => p.ord == 1) then
    modBlocks (Block.strongDone vector)
    if vector then modStrand fun st => { st with strongNow := true }

/-- Performs a checked store, and counts the write (R318). -/
def performStore (b va : Nat) (rq : BitVec 2) (vector : Bool) (pages : List Xl) (bs : List (Byte × Byte)) : M Unit := do
  noteStrong vector pages
  let n1 := 4096 - va % 4096
  match pages with
  | [] => return ()
  | [p] =>
    storePart b p.pa rq vector p bs
    countWrite b vector (p.ord == 1) [p.pa]
  | p :: q :: _ =>
    storePart b p.pa rq vector p (bs.take n1)
    storePart b q.pa rq vector q (bs.drop n1)
    countWrite b vector (p.ord == 1) [p.pa, q.pa]

/-- Performs a checked load: an uncorrectable word traps, the bays' own slack shims are drained (R199, R297, R435). -/
def loadChecked (b va n : Nat) (rq : BitVec 2) (vector : Bool) (ps : List Xl) : M (List Byte) := do
  let st ← getStrand
  let s ← get
  match poisonAt s ps va n with
  | some a => raise causeEccuc (BitVec.ofNat 64 a)
  | none =>
    if ps.any (·.slk) then
      set (ps.foldl (fun s p => drainForLoad s st p.pa n) s)
    noteStrong vector ps
    readBytes b va n rq vector ps

/-- Loads `n` bytes for a strand, after WATCH and alignment: the rows of R84 and R199 and the side log of R215. A load that
covers a logged operand and also bytes whose page lacks translation raises LOADPF. DESIGN CHOICE (log entry 19). -/
def loadBytes (b va n : Nat) (rq : BitVec 2) (vector : Bool) : M (List Byte) := do
  let st ← getStrand
  let all := slogCount st != 0 && (loggedBytes st va n).all fun
    | .no => false
    | .byte _ k => k == 255
    | .operand => true
  if all then readBytes b va n rq vector []
  else
    match ← checkAccess b va n .read with
    | .log t => raiseT t
    | .fail t => raiseT t
    | .ok ps => loadChecked b va n rq vector ps

/-- WATCH of an access (R379): it comes before every other check. -/
def checkWatch (va n : Nat) (acc : Acc) : M Unit := do
  let r ← getRegs
  match watchHit r va n acc with
  | some a => raise causeWatch (BitVec.ofNat 64 a)
  | none => return ()

/-- A load of `n` bytes with its WATCH check, as a little-endian value. -/
def loadValue (b va n : Nat) (rq : BitVec 2) (vector : Bool) : M Nat := do
  checkWatch va n .read
  return leValue (← loadBytes b va n rq vector)

/-- The pages of a store as they serve it: request packets are served as HOME 3 serves every type, but on strongly ordered
pages nothing is sent as a packet (R187, R192). -/
def packetPages (packet : Bool) (ps : List Xl) : List Xl :=
  ps.map fun x => if packet && x.ord != 1 then { x with home := 3 } else x

/-- A store of bytes after its WATCH check, each byte with the bits of it that are stored. `packet` marks an element that is
sent as a packet (R192); `mayLog` is false for the stores that are never retired into the side log (R125, R217). -/
def storeChecked (b va : Nat) (bs : List (Byte × Byte)) (rq : BitVec 2) (nt packet vector mayLog : Bool) : M Unit := do
  let st ← getStrand
  if overlapsLog st va bs.length then
    if let some w := wildPage va bs.length then raiseT (wildTrap w .write)
    (if mayLog then logStore b va bs rq nt (storepf va) else raiseT (storepf va))
  else
    match ← checkAccess b va bs.length .write with
    | .log t => if mayLog then logStore b va bs rq nt t else raiseT t
    | .fail t => raiseT t
    | .ok ps =>
      if slogCount st != 0 && ps.any (fun p => p.ord == 1) then
        (if mayLog then logStore b va bs rq nt (storepf va) else raiseT (storepf va))
      else performStore b va rq vector (packetPages packet ps) bs

/-- A store of bytes with its WATCH check. -/
def storeMasked (b va : Nat) (bs : List (Byte × Byte)) (rq : BitVec 2) (nt packet vector mayLog : Bool) : M Unit := do
  checkWatch va bs.length .write
  storeChecked b va bs rq nt packet vector mayLog

/-- A store of whole bytes. -/
def storeBytes (b va : Nat) (bs : List Byte) (rq : BitVec 2) (nt vector mayLog : Bool) : M Unit :=
  storeMasked b va (bs.map fun x => (x, 255)) rq nt false vector mayLog

/-- A store of an `n`-byte value. -/
def storeValue (b va n v : Nat) (rq : BitVec 2) (nt vector : Bool) : M Unit :=
  storeBytes b va (leBytes n v) rq nt vector true

/-- Loads a byte string line by line, without WATCH; `k` bounds the lines. -/
def loadLong (b : Nat) (vector : Bool) : Nat → Nat → Nat → M (List Byte)
  | 0, _, _ => return []
  | k + 1, va, n => do
    if n = 0 then return []
    else
      let m := min n (128 - va % 128)
      let xs ← loadBytes b (va % 2 ^ 64) m 0 vector
      let ys ← loadLong b vector k (va + m) (n - m)
      return xs ++ ys

/-- Stores a byte string line by line, without WATCH, and never into the side log; `k` bounds the lines. -/
def storeLong (b : Nat) (vector : Bool) : Nat → Nat → List Byte → M Unit
  | 0, _, _ => return ()
  | k + 1, va, bs => do
    if bs.isEmpty then return ()
    else
      let m := min bs.length (128 - va % 128)
      storeChecked b (va % 2 ^ 64) ((bs.take m).map fun x => (x, 255)) 0 false false vector false
      storeLong b vector k (va + m) (bs.drop m)

/-! ### What acquires, releases and fences do to a strand's view (R132, R189, R212, R303, R309, R314 to R317) -/

/-- Changes the strand's pending writes. -/
def modPending (f : OldWrite → OldWrite) : M Unit := modStrand fun st => { st with pending := stillMissed (st.pending.map f) }

/-- The writes one stream has made are ordered for the other stream (R132). DEDUCED (log entry 9). -/
def settleStream (vector : Bool) : M Unit := modPending fun w => if w.vector == vector then { w with cross := false } else w

/-- Whether a release at a scope covers a write to an address (R303). -/
def covered (s : State) (scope pa : Nat) : Bool :=
  if isHost pa || isPooled s pa then scope == 5
  else if isLocal s pa then 1 ≤ scope
  else 4 ≤ scope

/-- The writes that strands have made since their last releases at device scope or wider (R103). -/
def unreleased (s : State) : List Nat := s.strands.flatMap fun st => st.blocks.flatMap (·.unreleased)

/-- Every counted write that a release at a scope waits for is performed; with FMODE.FISTO at system scope, whatever the
release's scope (R304, R314, R318, R319). DEDUCED (log entry 17). -/
def writesPerformed (scope : Nat) : M Unit := do
  let r ← getRegs
  let all := r.fmode.toNat % 2 = 1 || scope == 5
  modBlocks fun bl =>
    let done := if scope = 0 then 0 else bl.outst.getD (scope - 1) 0
    { bl with
      outst := Vector.ofFn fun i : Fin 5 => if all || i.val < scope then 0 else (lowerOuter (scope - 1) done bl.outst).getD i 0
      fifo := if all then [] else bl.fifo
      strongOut := if all then [] else bl.strongOut.filter fun x => !(List.range scope).any fun i => x.2.getD i false
      unreleased := if 3 ≤ scope then [] else bl.unreleased }

/-- RELEASE (R216, R303, R314): it waits for empty side logs; no later store is performed before the writes it covers.
Later loads are not held back (R317). A release fence orders every store of an unordered page (R309).
DESIGN CHOICE (log entry 7). DEDUCED (log entry 9). -/
def releaseAs (fence : Bool) (scope : Nat) : M Unit := do
  let st ← getStrand
  if slogCount st != 0 then waitFor .sideLog
  let s ← get
  modPending fun w =>
    if (fence && w.unord) || w.bytes.all fun x => covered s scope x.1 then { w with settled := true } else w
  writesPerformed scope

/-- The release of an operation that is no fence. -/
def release (scope : Nat) : M Unit := releaseAs false scope

/-- What a sequentially consistent fence adds (R317): every earlier store is performed before any later load, on unordered
pages too (R309). DEDUCED (log entry 9). -/
def storesBeforeLoads : M Unit := modStrand fun st => { st with pending := [] }

/-- ACQUIRE at a scope (R315). What acquires is held until every older vector entry has committed, and is performed behind
the older scalar stores (R71); no later access of either stream is performed before it, so that the strand's earlier
writes are ordered for both streams; one in an unordered page that a load has returned, or that a release has followed, is
not missed again (R309, R316). At bent scope or wider the self-invalidating lines and the level cache go (R189, R212). At
device scope or wider it sees every write released before it, which is what IFENCE then makes sure of (R103).
DESIGN CHOICE (log entry 7). DEDUCED (log entry 9). -/
def acquire (scope : Nat) : M Unit := do
  modPending fun w => { w with cross := false, unord := w.unord && !w.seen && !w.settled }
  if 3 ≤ scope then
    let s ← get
    modStrand fun st => { st with acquiredAt := s.written.length, acquiredStale := unreleased s }
  if scope != 0 then
    let st ← getStrand
    modify fun s => (attached st).foldl (fun s n => setBay s n { bayOf s n with level := [], copies := [] }) s

/-! ### Fetch (R39, R102 to R104) -/

/-- One write undone in some bytes of memory, but for those of `kept`. -/
def undoBytes (keys kept : List Nat) (bytes : List Byte) (w : List (Nat × Byte)) : List Byte :=
  (keys.zip bytes).map fun (k, x) => if kept.contains k then x else ((w.find? fun y => y.1 == k).map (·.2)).getD x

/-- What a fetch of some bytes may find where it misses the last of the writes it may miss, the last two, and so on; the
writes stand newest first, each with whether it may be missed. A byte that a write not missed has written stays as that
write and the missed ones after it leave it. -/
def pastQuads (keys kept : List Nat) (now : List Byte) : List (List (Nat × Byte) × Bool) → List (List Byte)
  | [] => []
  | (w, true) :: t =>
    let x := undoBytes keys kept now w
    x :: pastQuads keys kept x t
  | (w, false) :: t => pastQuads keys (kept ++ w.map (·.1)) now t

/-- What the home copy of a quad may hold where L1s have not written their dirty bytes back: each of them last evicted its
line at some time (R103, R191). -/
def homeQuads (s : State) (keys : List Nat) (now : List Byte) : List (List Byte) :=
  let held := s.dirty.filter fun r => keys.contains r.key
  (dedup (held.map (·.bay))).foldl (fun qs n =>
    qs.flatMap fun q => (List.range (s.written.length + 1)).map fun cut =>
      (keys.zip q).map fun (k, x) => (held.find? fun r => r.bay == n && r.key == k).elim x fun r => r.homeAt cut x) [now]

/-- The writes, newest first, each with whether a fetch of the strand may miss it (R103, R104): those since the strand's last
acquire before its last IFENCE, and of the earlier ones those that had not been released by then. -/
def fetchMisses (s : State) (st : Strand) : List (List (Nat × Byte) × Bool) :=
  (s.written.zipIdx.map fun (w, i) => (w, decide (st.fetchSince ≤ i) || st.fetchStale.contains i)).reverse

/-- The contents a fetch of a quad may return (R104): what memory holds, what it held before some of the writes the strand
may miss, or its home copy's. A quad is fetched whole; where it holds one thing only nothing is chosen.
DEDUCED (log entry 9). -/
def fetchQuad (pa : Nat) : M (List Byte) := do
  let st ← getStrand
  let s ← get
  let keys := keysOf s (pa / 16 * 16) 16
  let now := keys.map (memRead s.mem)
  let others := dedup ((pastQuads keys [] now (fetchMisses s st) ++ homeQuads s keys now).filter (· != now))
  if others.isEmpty then return now
  else
    let k ← freeBelow (others.length + 1)
    return others.getD k now

/-- The word of a fetched quad at an address. -/
def quadWord (quad : List Byte) (pa : Nat) : BitVec 32 := BitVec.ofNat 32 (bytesAt quad (pa % 16) 4)

/-- The checks of a fetch, in the order WATCH, MISAL, FETCHPF, PERM, CMPVIEW, ECCUC (R29, R30, R54, R379, R385, R435): the
physical address. The XVAL of each is the fetch address. -/
def checkFetch (pc : Word) : M Nat := do
  let va := pc.toNat
  let r ← getRegs
  if (watchHit r va 4 .fetch).isSome then raise causeWatch pc
  else if va % 4 != 0 then raise causeMisal pc
  else
    match ← checkAccess 0 va 4 .fetch with
    | .log t => raiseT t
    | .fail t => raiseT (if t.cause = causeCmpview then { t with acc := Acc.fetch.code } else t)
    | .ok ps =>
      let s ← get
      if anyPoison s (byteAddr ps va 0) 4 then raise causeEccuc pc else return byteAddr ps va 0

/-- Fetches the quad of the word at an address, once its checks have passed: the physical address of the word, and the
quad. -/
def fetchAt (pc : Word) : M (Nat × List Byte) := do
  let pa ← checkFetch pc
  let quad ← fetchQuad pa
  return (pa, quad)

/-- A quad that has been fetched: its virtual quad number, its physical address, and its bytes. -/
abbrev Quad := Nat × Nat × List Byte

/-- Fetches the word at an address; a further word of the quad fetched last comes from that fetch (R39, R104), where its own
poison still counts (R435). -/
def fetchNext (last : Option Quad) (pc : Word) : M (BitVec 32 × Option Quad) := do
  match last.filter fun q => q.1 == pc.toNat / 16 with
  | some q => do
    let s ← get
    let pa := q.2.1 + pc.toNat % 16
    if anyPoison s pa 4 then raise causeEccuc pc else return (quadWord q.2.2 pa, some q)
  | none => do
    let (pa, quad) ← fetchAt pc
    return (quadWord quad pa, some (pc.toNat / 16, pa / 16 * 16, quad))

end Sys2Proof.Machine
end

