-- ==== Sys2Proof/WellFormed.lean ====
section
/-! DEFINITION. What an instruction word must satisfy beyond its opcode: the zero fields that depend on another field,
the reserved field values (R33 to R53, R168, R227), and the bounds of an event's operands. -/

namespace Sys2Proof

namespace Instr

/-- R34, R49: the offset field of VLD and VST is a bit offset 0 to 7 with the sub-byte width codes and zero otherwise. -/
def unitOffsetZero (w : BitVec 3) (x : BitVec 5) : Bool :=
  if w == 4 || w == 5 || w == 6 then x.toNat < 8 else x == 0

/-- R34, R51: zero fields whose requirement depends on another field of the word. A breach raises ILLINS. -/
def zeroFieldsOk : Instr → Bool
  | .vld _ _ w _ x _ _ => unitOffsetZero w x
  | .vst _ _ w _ x _ _ => unitOffsetZero w x
  | .jld p c _ _ _ => p == 1 || c == 0
  | _ => true

/-- The width codes of the sub-byte widths (R33), which only VLD and VST take (R49). -/
def subByteCode (w : BitVec 3) : Bool := w == 4 || w == 5 || w == 6

/-- FENCE and WAITA scopes 6 and 7 are reserved (R33). -/
def scopeReserved (s : BitVec 3) : Bool := 5 < s.toNat

/-- The formats FMT 0 to 8 of R152. -/
def isFloatFmt (f : BitVec 4) : Bool := f.toNat ≤ 8

/-- The integer formats of R154 that are not T2. -/
def isIntFmt (f : BitVec 4) : Bool := f == 9 || f == 10 || f == 11 || f == 12 || f == 14

/-- R168: the pairs that convert, by destination `t`, source `f`, saturate bit `x` and rounding code `r`. -/
def convertible (t f : BitVec 4) (x : BitVec 1) (r : BitVec 3) : Bool :=
  t != f &&
  (if isFloatFmt f then
     isFloatFmt t || isIntFmt t || (t == 15 && (f == 1 || f == 2) && r == 1)
   else if isIntFmt f then
     isFloatFmt t || isIntFmt t || (t == 13 && x == 1)
   else if f == 13 then
     isFloatFmt t || isIntFmt t
   else
     t == 0 || t == 1 || t == 2)

/-- A defined field holds a reserved value or a forbidden combination, whatever the state (R54, last row): ILLOP. -/
def reserved : Instr → Bool
  | .vmerge m _ _ _ => m == 0
  | .vcvt t r _ x f _ _ => r == 7 || !convertible t f x r
  | .vlds _ _ w _ _ _ _ => subByteCode w
  | .vsts _ _ w _ _ _ _ => subByteCode w
  | .vldx _ _ w _ _ _ _ => subByteCode w
  | .vstx _ _ w _ _ _ _ => subByteCode w
  | .vlseg _ _ w _ x _ _ => subByteCode w || 7 < x.toNat
  | .vsseg _ _ w _ x _ _ => subByteCode w || 7 < x.toNat
  | .lsld w _ _ _ _ => subByteCode w
  | .lsst w _ _ _ _ => subByteCode w
  | .qappend _ w _ _ _ => subByteCode w
  | .fldl _ x _ => 61 < x.toNat
  | .fpref x => 61 < x.toNat
  | .fisect _ b a d => d == a || d == b
  | .funion _ b a d => d == a || d == b
  | .fmerge _ b a d => d == a || d == b
  | .fsort _ a d => d == a
  | .fcompact _ a d => d == a
  | .fsplit _ a d => d == a
  | .frecv _ _ _ a d => d == a
  | .jfil s _ => 60 < s.toNat
  | .jfilGather s _ _ => 60 < s.toNat
  | .tmma _ e _ _ _ => e == 3
  | .tmms _ e _ _ _ _ => e == 3
  | .ttrn _ e _ _ _ => e != 2
  | .fenceAcq s => scopeReserved s
  | .fenceRel s => scopeReserved s
  | .fenceAr s => scopeReserved s
  | .fenceSc s => scopeReserved s
  | .fenceCode s => scopeReserved s
  | .fenceSlk s => scopeReserved s
  | .waita _ s _ _ _ => scopeReserved s
  | _ => false

/-- The operands of an event lie in the ranges of the parts they name (R9, R12, R27, R182, R336, R406, R409, R423). -/
def eventOk : Instr → Bool
  | .vamoPrepare place _ op _ _ => (place < 1024 || place == 0x7FF) && op.toNat < 11 && op != 9
  | .vamoPerform place _ _ => place < 1024 || place == 0x7FF
  | .grow _ bay _ => bay < 320
  | .grant _ bay => bay < 320
  | .drain bay _ => bay < 320
  | .dack bay _ => bay < 320
  | .draw _ bay _ => bay < 320
  | .drawn _ bay => bay < 320
  | .linedraw bay _ => bay < 320
  | .ret _ bay => bay < 320
  | .engineCommandStart e _ => e < 32
  | .engineCommandEnd e => e < 32
  | .launchSlotWrite vf slot off bytes => vf ≤ 1024 && slot < 16 && off + bytes.length ≤ 256
  | .baysplitWrite bay _ => bay < 320
  | .heartwoodCsrWrite bay _ _ => bay < 320
  | .hostPostedWrite port _ _ => port < 2
  | .correctableError bay => bay ≤ 320
  | .hostAtomicop op _ _ _ _ => op == 0 || op == 8 || op == 9
  | .domainFormation p ms => ms.contains p && ms.all (· < 1024)
  | .counterAllocation i _ => i < 4096
  | .virtualFunctionMapping vf wings _ _ _ _ _ => vf < 1024 && wings.all (· < 32) && wings != []
  | .plumbBudget w => w ≤ 3600
  | .accessPerformed _ p s => p < 8 && s < 6
  | _ => true

/-- A well-formed step: its zero fields are zero, no field holds a reserved value, an event names parts that exist. -/
def wellFormed (i : Instr) : Bool := i.zeroFieldsOk && !i.reserved && i.eventOk

end Instr

end Sys2Proof
end

