-- ==== Sys2Proof/Decode.lean ====
section
/-! DEFINITION. Decoding of instruction words (R29 to R55), total on any bytes, and the encoder written from the same
tables (R32, R43, R44). A word is read as a natural number; `fieldAt w lo` is the field whose lowest bit is `lo`. -/

namespace Sys2Proof

/-- Why a word is no instruction (R54). All but `reservedField` raise ILLINS; `reservedField` raises ILLOP. -/
inductive Reject where
  /-- fewer than four bytes were given -/
  | truncated
  /-- the word 0x0000_0000 -/
  | zeroWord
  /-- the word 0xFFFF_FFFF -/
  | onesWord
  /-- its major is unassigned in R43 -/
  | unassignedMajor
  /-- its function code is unassigned in R44 -/
  | unassignedFunction
  /-- a field required to be zero is not -/
  | mustBeZero
  /-- a defined field holds a reserved value -/
  | reservedField
  deriving DecidableEq, Repr

/-- The field of `w` that starts at bit `lo` (R32). -/
def fieldAt {n : Nat} (w lo : Nat) : BitVec n := BitVec.ofNat n (w / 2 ^ lo)

/-- Every listed field `(lo, n)` of `w` is zero (R54, fourth row). -/
def allZero (w : Nat) (zs : List (Nat × Nat)) : Bool := zs.all fun z => bits w z.1 z.2 == 0

/-- The fields of `w` that must be zero, each as its lowest bit and its length, or why `w` has none. -/
abbrev ZeroFields := Except Reject (List (Nat × Nat))

/-- Major 0x01: the zero fields of each function code (R44); every other code is unassigned. -/
def zerosSop (fn : Nat) : ZeroFields :=
  if fn ≤ 20 ∨ fn = 24 then .ok [] else
  if (21 ≤ fn ∧ fn ≤ 23) then .ok [(19, 6)] else
  .error .unassignedFunction

/-- Major 0x08: the zero fields of each function code (R44); every other code is unassigned. -/
def zerosShi (fn : Nat) : ZeroFields :=
  if fn ≤ 2 then .ok [(27, 5)] else
  .error .unassignedFunction

/-- Major 0x1F: the zero fields of each function code (R44); every other code is unassigned. -/
def zerosFop (fn : Nat) : ZeroFields :=
  if fn ≤ 3 ∨ (5 ≤ fn ∧ fn ≤ 10) ∨ (12 ≤ fn ∧ fn ≤ 19) then .ok [] else
  if fn = 4 ∨ fn = 11 ∨ (20 ≤ fn ∧ fn ≤ 26) then .ok [(19, 6)] else
  .error .unassignedFunction

/-- Major 0x20: the zero fields of each function code (R44); every other code is unassigned. -/
def zerosFmad (fn : Nat) : ZeroFields :=
  if fn ≤ 1 then .ok [] else
  .error .unassignedFunction

/-- Major 0x21: the zero fields of each function code (R44); every other code is unassigned. -/
def zerosFmas (fn : Nat) : ZeroFields :=
  if fn ≤ 1 then .ok [] else
  .error .unassignedFunction

/-- Major 0x22: the zero fields of each function code (R44); every other code is unassigned. -/
def zerosCsr (fn : Nat) : ZeroFields :=
  if fn ≤ 2 then .ok [] else
  if fn = 3 then .ok [(13, 6)] else
  .error .unassignedFunction

/-- Major 0x23: the zero fields of each function code (R44); every other code is unassigned. -/
def zerosSys (fn : Nat) : ZeroFields :=
  if fn ≤ 6 then .ok [(7, 18)] else
  .error .unassignedFunction

/-- Major 0x32: the zero fields of each function code (R44); every other code is unassigned. -/
def zerosVint (fn : Nat) : ZeroFields :=
  if fn ≤ 21 then .ok [] else
  .error .unassignedFunction

/-- Major 0x33: the zero fields of each function code (R44); every other code is unassigned. -/
def zerosVintx (fn : Nat) : ZeroFields :=
  if fn ≤ 21 then .ok [] else
  .error .unassignedFunction

/-- Major 0x34: the zero fields of each function code (R44); every other code is unassigned. -/
def zerosVinti (fn : Nat) : ZeroFields :=
  if fn = 0 ∨ fn = 2 ∨ (6 ≤ fn ∧ fn ≤ 11) ∨ fn = 16 ∨ fn = 18 then .ok [] else
  .error .unassignedFunction

/-- Major 0x35: the zero fields of each function code (R44); every other code is unassigned. -/
def zerosVcmp (fn : Nat) : ZeroFields :=
  if fn ≤ 7 ∨ (32 ≤ fn ∧ fn ≤ 39) ∨ (64 ≤ fn ∧ fn ≤ 71) then .ok [(10, 2)] else
  .error .unassignedFunction

/-- Major 0x36: the zero fields of each function code (R44); every other code is unassigned. -/
def zerosVmove (fn : Nat) : ZeroFields :=
  if fn = 0 then .ok [(17, 5)] else
  if fn = 1 then .ok [(12, 5)] else
  if fn = 2 then .ok [(22, 3)] else
  if fn = 3 then .ok [(12, 10)] else
  if fn = 4 then .ok [] else
  if fn = 5 then .ok [(7, 18)] else
  .error .unassignedFunction

/-- Major 0x37: the zero fields of each function code (R44); every other code is unassigned. -/
def zerosVperm (fn : Nat) : ZeroFields :=
  if fn ≤ 2 ∨ (5 ≤ fn ∧ fn ≤ 6) then .ok [] else
  if (3 ≤ fn ∧ fn ≤ 4) then .ok [(17, 5)] else
  .error .unassignedFunction

/-- Major 0x38: the zero fields of each function code (R44); every other code is unassigned. -/
def zerosVred (fn : Nat) : ZeroFields :=
  if fn ≤ 7 ∨ (10 ≤ fn ∧ fn ≤ 12) ∨ (14 ≤ fn ∧ fn ≤ 15) then .ok [] else
  if (8 ≤ fn ∧ fn ≤ 9) ∨ fn = 13 ∨ (16 ≤ fn ∧ fn ≤ 18) then .ok [(17, 5)] else
  .error .unassignedFunction

/-- Major 0x3A: the zero fields of each function code (R44); every other code is unassigned. -/
def zerosMask (fn : Nat) : ZeroFields :=
  if fn ≤ 3 then .ok [(10, 2), (15, 2), (20, 5)] else
  if fn = 4 ∨ fn = 9 then .ok [(10, 2), (15, 10)] else
  if (5 ≤ fn ∧ fn ≤ 6) then .ok [(15, 10)] else
  if (7 ≤ fn ∧ fn ≤ 8) then .ok [(10, 15)] else
  .error .unassignedFunction

/-- Major 0x40: the zero fields of each function code (R44); every other code is unassigned. -/
def zerosVfp (fn : Nat) : ZeroFields :=
  if fn ≤ 3 ∨ (5 ≤ fn ∧ fn ≤ 6) ∨ fn = 13 then .ok [] else
  if fn = 4 ∨ (7 ≤ fn ∧ fn ≤ 12) ∨ fn = 14 then .ok [(17, 5)] else
  .error .unassignedFunction

/-- Major 0x41: the zero fields of each function code (R44); every other code is unassigned. -/
def zerosVfpx (fn : Nat) : ZeroFields :=
  if fn ≤ 3 ∨ (5 ≤ fn ∧ fn ≤ 6) ∨ fn = 13 then .ok [] else
  .error .unassignedFunction

/-- Major 0x42: the zero fields of each function code (R44); every other code is unassigned. -/
def zerosVfma (fn : Nat) : ZeroFields :=
  if fn ≤ 3 then .ok [] else
  .error .unassignedFunction

/-- Major 0x43: the zero fields of each function code (R44); every other code is unassigned. -/
def zerosVfcmp (fn : Nat) : ZeroFields :=
  if fn ≤ 7 ∨ (32 ≤ fn ∧ fn ≤ 39) then .ok [(10, 2)] else
  .error .unassignedFunction

/-- Major 0x45: the zero fields of each function code (R44); every other code is unassigned. -/
def zerosVqnt (fn : Nat) : ZeroFields :=
  if fn = 0 then .ok [(17, 5)] else
  if (1 ≤ fn ∧ fn ≤ 2) then .ok [] else
  .error .unassignedFunction

/-- Major 0x5C: the zero fields of each function code (R44); every other code is unassigned. -/
def zerosCache (fn : Nat) : ZeroFields :=
  if fn ≤ 3 then .ok [(7, 6)] else
  if (4 ≤ fn ∧ fn ≤ 5) then .ok [(7, 6), (19, 6)] else
  if (6 ≤ fn ∧ fn ≤ 7) then .ok [(7, 18)] else
  .error .unassignedFunction

/-- Major 0x60: the zero fields of each function code (R44); every other code is unassigned. -/
def zerosFib (fn : Nat) : ZeroFields :=
  if fn = 0 ∨ fn = 17 then .ok [(10, 6), (27, 3)] else
  if fn = 1 then .ok [(10, 6), (21, 1), (27, 5)] else
  if fn = 2 ∨ fn = 10 then .ok [(7, 3), (13, 3), (27, 3)] else
  if (3 ≤ fn ∧ fn ≤ 5) then .ok [(16, 6), (30, 2)] else
  if fn = 6 ∨ fn = 18 then .ok [(13, 9), (30, 2)] else
  if fn = 7 ∨ fn = 15 then .ok [(13, 3), (27, 5)] else
  if fn = 8 ∨ fn = 14 then .ok [(7, 3), (13, 3), (21, 1), (27, 3)] else
  if fn = 9 ∨ fn = 11 then .ok [(13, 3), (21, 1), (27, 3)] else
  if fn = 12 then .ok [(7, 3), (13, 3), (27, 5)] else
  if fn = 13 then .ok [(7, 3), (13, 3), (21, 1), (27, 5)] else
  if fn = 16 then .ok [(10, 12), (27, 5)] else
  .error .unassignedFunction

/-- Major 0x61: the zero fields of each function code (R44); every other code is unassigned. -/
def zerosFpref (fn : Nat) : ZeroFields :=
  if fn = 0 then .ok [(7, 9), (27, 5)] else
  .error .unassignedFunction

/-- Major 0x62: the zero fields of each function code (R44); every other code is unassigned. -/
def zerosFmsg (fn : Nat) : ZeroFields :=
  if fn = 0 then .ok [(7, 3), (13, 3), (27, 5)] else
  if fn = 1 then .ok [(13, 3)] else
  .error .unassignedFunction

/-- Major 0x68: the zero fields of each function code (R44); every other code is unassigned. -/
def zerosJclm (fn : Nat) : ZeroFields :=
  if fn = 0 then .ok [(12, 4), (22, 10)] else
  if fn = 1 then .ok [(7, 4), (12, 4), (22, 10)] else
  .error .unassignedFunction

/-- Major 0x6B: the zero fields of each function code (R44); every other code is unassigned. -/
def zerosJfil (fn : Nat) : ZeroFields :=
  if fn = 0 then .ok [(11, 5), (22, 5), (28, 4)] else
  if fn = 1 then .ok [(22, 5), (28, 4)] else
  .error .unassignedFunction

/-- Major 0x70: the zero fields of each function code (R44); every other code is unassigned. -/
def zerosTctl (fn : Nat) : ZeroFields :=
  if fn = 0 then .ok [(7, 6), (15, 10)] else
  if fn = 1 then .ok [(15, 10)] else
  if fn = 2 then .ok [(7, 6), (15, 4), (19, 6)] else
  .error .unassignedFunction

/-- Major 0x74: the zero fields of each function code (R44); every other code is unassigned. -/
def zerosAmo (fn : Nat) : ZeroFields :=
  if fn ≤ 10 then .ok [] else
  .error .unassignedFunction

/-- Major 0x75: the zero fields of each function code (R44); every other code is unassigned. -/
def zerosVamo (fn : Nat) : ZeroFields :=
  if fn ≤ 8 ∨ fn = 10 then .ok [] else
  .error .unassignedFunction

/-- Major 0x77: the zero fields of each function code (R44); every other code is unassigned. -/
def zerosSlkadd (fn : Nat) : ZeroFields :=
  if fn = 0 then .ok [(18, 5), (30, 2)] else
  if fn = 1 then .ok [(30, 2)] else
  .error .unassignedFunction

/-- Major 0x78: the zero fields of each function code (R44); every other code is unassigned. -/
def zerosSlkctl (fn : Nat) : ZeroFields :=
  if fn = 0 then .ok [(19, 6)] else
  if fn = 1 ∨ fn = 3 then .ok [(7, 6), (19, 6)] else
  if fn = 2 then .ok [] else
  .error .unassignedFunction

/-- Major 0x7A: the zero fields of each function code (R44); every other code is unassigned. -/
def zerosFence (fn : Nat) : ZeroFields :=
  if fn ≤ 7 then .ok [(13, 19)] else
  .error .unassignedFunction

/-- Major 0x7C: the zero fields of each function code (R44); every other code is unassigned. -/
def zerosBar (fn : Nat) : ZeroFields :=
  if fn ≤ 2 then .ok [(7, 18), (31, 1)] else
  .error .unassignedFunction

/-- Major 0x7D: the zero fields of each function code (R44); every other code is unassigned. -/
def zerosXe (fn : Nat) : ZeroFields :=
  if fn ≤ 4 ∨ (64 ≤ fn ∧ fn ≤ 66) then .ok [] else
  if (5 ≤ fn ∧ fn ≤ 6) then .ok [(19, 6)] else
  .error .unassignedFunction

/-- Major 0x7E: the zero fields of each function code (R44); every other code is unassigned. -/
def zerosWork (fn : Nat) : ZeroFields :=
  if fn = 0 ∨ fn = 2 then .ok [(19, 6)] else
  if fn = 1 then .ok [] else
  if (3 ≤ fn ∧ fn ≤ 5) then .ok [(7, 18)] else
  .error .unassignedFunction

/-- Major 0x7F: the zero fields of each function code (R44); every other code is unassigned. -/
def zerosPriv (fn : Nat) : ZeroFields :=
  if fn ≤ 1 ∨ (3 ≤ fn ∧ fn ≤ 4) ∨ fn = 6 then .ok [] else
  if fn = 2 then .ok [(7, 18)] else
  if fn = 5 then .ok [(13, 12)] else
  if (7 ≤ fn ∧ fn ≤ 9) then .ok [(19, 6)] else
  .error .unassignedFunction

/-- The fields of a word that R32 to R52 require to be zero whatever the other fields hold (R43, R44). -/
def zeroFieldsOf (w : Nat) : ZeroFields :=
  match w % 128 with
  | 0x01 => zerosSop (bits w 25 7)
  | 0x02 => .ok []
  | 0x03 => .ok []
  | 0x04 => .ok []
  | 0x05 => .ok []
  | 0x06 => .ok []
  | 0x07 => .ok []
  | 0x08 => zerosShi (bits w 25 2)
  | 0x09 => .ok []
  | 0x0A => .ok []
  | 0x0B => .ok []
  | 0x0C => .ok []
  | 0x0D => .ok []
  | 0x0E => .ok []
  | 0x0F => .ok []
  | 0x10 => .ok []
  | 0x11 => .ok []
  | 0x12 => .ok []
  | 0x13 => .ok [(7, 6)]
  | 0x14 => .ok []
  | 0x15 => .ok []
  | 0x16 => .ok []
  | 0x17 => .ok []
  | 0x18 => .ok []
  | 0x19 => .ok []
  | 0x1A => .ok []
  | 0x1B => .ok []
  | 0x1C => .ok []
  | 0x1D => .ok []
  | 0x1E => .ok []
  | 0x1F => zerosFop (bits w 25 7)
  | 0x20 => zerosFmad (bits w 31 1)
  | 0x21 => zerosFmas (bits w 31 1)
  | 0x22 => zerosCsr (bits w 30 2)
  | 0x23 => zerosSys (bits w 25 7)
  | 0x30 => .ok []
  | 0x31 => .ok [(25, 7)]
  | 0x32 => zerosVint (bits w 25 7)
  | 0x33 => zerosVintx (bits w 25 7)
  | 0x34 => zerosVinti (bits w 25 7)
  | 0x35 => zerosVcmp (bits w 25 7)
  | 0x36 => zerosVmove (bits w 25 7)
  | 0x37 => zerosVperm (bits w 25 7)
  | 0x38 => zerosVred (bits w 25 7)
  | 0x3A => zerosMask (bits w 25 7)
  | 0x3B => .ok []
  | 0x3C => .ok [(7, 25)]
  | 0x3D => .ok []
  | 0x3E => .ok [(28, 4)]
  | 0x40 => zerosVfp (bits w 25 7)
  | 0x41 => zerosVfpx (bits w 25 7)
  | 0x42 => zerosVfma (bits w 30 2)
  | 0x43 => zerosVfcmp (bits w 25 7)
  | 0x44 => .ok []
  | 0x45 => zerosVqnt (bits w 25 7)
  | 0x50 => .ok []
  | 0x51 => .ok []
  | 0x52 => .ok []
  | 0x53 => .ok []
  | 0x54 => .ok []
  | 0x55 => .ok []
  | 0x56 => .ok []
  | 0x57 => .ok []
  | 0x58 => .ok [(31, 1)]
  | 0x59 => .ok [(31, 1)]
  | 0x5A => .ok [(31, 1), (18, 5), (23, 3)]
  | 0x5B => .ok [(31, 1), (18, 5), (23, 3)]
  | 0x5C => zerosCache (bits w 25 7)
  | 0x5D => .ok [(31, 1)]
  | 0x5E => .ok [(31, 1), (18, 5)]
  | 0x60 => zerosFib (bits w 22 5)
  | 0x61 => zerosFpref (bits w 22 5)
  | 0x62 => zerosFmsg (bits w 22 5)
  | 0x68 => zerosJclm (bits w 11 1)
  | 0x69 => .ok [(11, 21)]
  | 0x6A => .ok [(28, 4)]
  | 0x6B => zerosJfil (bits w 27 1)
  | 0x6C => .ok [(17, 4), (24, 8)]
  | 0x6D => .ok [(24, 8)]
  | 0x6E => .ok [(17, 4), (24, 8)]
  | 0x6F => .ok [(9, 2), (22, 10)]
  | 0x70 => zerosTctl (bits w 25 7)
  | 0x74 => zerosAmo (bits w 25 4)
  | 0x75 => zerosVamo (bits w 26 4)
  | 0x77 => zerosSlkadd (bits w 26 4)
  | 0x78 => zerosSlkctl (bits w 25 7)
  | 0x7A => zerosFence (bits w 10 3)
  | 0x7B => .ok [(29, 3)]
  | 0x7C => zerosBar (bits w 25 2)
  | 0x7D => zerosXe (bits w 25 7)
  | 0x7E => zerosWork (bits w 25 7)
  | 0x7F => zerosPriv (bits w 25 7)
  | _ => .error .unassignedMajor

/-- R34: the bit-offset field of VLD and VST must be zero but for bits 20:18 under the sub-byte width codes. -/
def unitFieldZero (w : Nat) : Bool := Instr.unitOffsetZero (fieldAt w 26) (fieldAt w 18)

/-- Zero fields whose requirement depends on another field (R34, R51). -/
def lateZeroOk (w : Nat) : Bool :=
  match w % 128 with
  | 0x50 => unitFieldZero w
  | 0x51 => unitFieldZero w
  | 0x6A => bits w 27 1 == 1 || bits w 22 5 == 0
  | _ => true

/-- FIB words whose destination may not be a source, by function (R227). -/
def fibreOverlap (w : Nat) : Bool :=
  let d := bits w 7 3
  let a := bits w 10 3
  let b := bits w 13 3
  match bits w 22 5 with
  | 0 => 61 < bits w 16 6
  | 3 => d == a || d == b
  | 4 => d == a || d == b
  | 5 => d == a || d == b
  | 6 => d == a
  | 7 => d == a
  | 15 => d == a
  | _ => false

/-- A defined field of the word holds a reserved value or a forbidden combination (R33, R46, R48 to R52, R227). -/
def wordReserved (w : Nat) : Bool :=
  match w % 128 with
  | 0x36 => bits w 25 7 == 4 && bits w 22 3 == 0
  | 0x44 => bits w 25 3 == 7 || !Instr.convertible (fieldAt w 28) (fieldAt w 17) (fieldAt w 21) (fieldAt w 25)
  | 0x52 => Instr.subByteCode (fieldAt w 26)
  | 0x53 => Instr.subByteCode (fieldAt w 26)
  | 0x54 => Instr.subByteCode (fieldAt w 26)
  | 0x55 => Instr.subByteCode (fieldAt w 26)
  | 0x56 => Instr.subByteCode (fieldAt w 26) || 7 < bits w 18 5
  | 0x57 => Instr.subByteCode (fieldAt w 26) || 7 < bits w 18 5
  | 0x58 => Instr.subByteCode (fieldAt w 26) || bits w 29 2 != 0
  | 0x59 => Instr.subByteCode (fieldAt w 26) || bits w 29 2 != 0
  | 0x5A => bits w 26 3 != 7 || bits w 29 2 != 0
  | 0x5B => bits w 26 3 != 7 || bits w 29 2 != 0
  | 0x5D => bits w 26 3 != 2 || bits w 29 2 != 0
  | 0x5E => Instr.subByteCode (fieldAt w 26)
  | 0x60 => fibreOverlap w
  | 0x61 => 61 < bits w 16 6
  | 0x62 => bits w 22 5 == 1 && bits w 7 3 == bits w 10 3
  | 0x6B => 60 < bits w 16 6
  | 0x6C => bits w 21 2 == 3
  | 0x6D => bits w 21 2 == 3
  | 0x6E => bits w 21 2 != 2
  | 0x70 => bits w 25 7 == 2 && bits w 13 2 != 0
  | 0x7A => if bits w 10 3 == 4 || bits w 10 3 == 5 then bits w 7 3 != 0 else 5 < bits w 7 3
  | 0x7B => 5 < bits w 25 3
  | _ => false

/-- Why a word is no instruction, the first failing row of R54 first; `none` for an instruction. -/
def wordReject (w : Nat) : Option Reject :=
  if w = 0 then some .zeroWord
  else if w = 0xFFFFFFFF then some .onesWord
  else
    match zeroFieldsOf w with
    | .error e => some e
    | .ok zs =>
      if !allZero w zs || !lateZeroOk w then some .mustBeZero
      else if wordReserved w then some .reservedField
      else none

/-- Major 0x01: the instruction of each function code (R44). -/
noncomputable def instrSop (w : Nat) : Option Instr :=
  match bits w 25 7 with
  | 0 => some (.add (fieldAt w 19) (fieldAt w 13) (fieldAt w 7))
  | 1 => some (.sub (fieldAt w 19) (fieldAt w 13) (fieldAt w 7))
  | 2 => some (.and (fieldAt w 19) (fieldAt w 13) (fieldAt w 7))
  | 3 => some (.or (fieldAt w 19) (fieldAt w 13) (fieldAt w 7))
  | 4 => some (.xor (fieldAt w 19) (fieldAt w 13) (fieldAt w 7))
  | 5 => some (.sll (fieldAt w 19) (fieldAt w 13) (fieldAt w 7))
  | 6 => some (.srl (fieldAt w 19) (fieldAt w 13) (fieldAt w 7))
  | 7 => some (.sra (fieldAt w 19) (fieldAt w 13) (fieldAt w 7))
  | 8 => some (.slt (fieldAt w 19) (fieldAt w 13) (fieldAt w 7))
  | 9 => some (.sltu (fieldAt w 19) (fieldAt w 13) (fieldAt w 7))
  | 10 => some (.min (fieldAt w 19) (fieldAt w 13) (fieldAt w 7))
  | 11 => some (.max (fieldAt w 19) (fieldAt w 13) (fieldAt w 7))
  | 12 => some (.minu (fieldAt w 19) (fieldAt w 13) (fieldAt w 7))
  | 13 => some (.maxu (fieldAt w 19) (fieldAt w 13) (fieldAt w 7))
  | 14 => some (.mul (fieldAt w 19) (fieldAt w 13) (fieldAt w 7))
  | 15 => some (.mulh (fieldAt w 19) (fieldAt w 13) (fieldAt w 7))
  | 16 => some (.mulhu (fieldAt w 19) (fieldAt w 13) (fieldAt w 7))
  | 17 => some (.div (fieldAt w 19) (fieldAt w 13) (fieldAt w 7))
  | 18 => some (.divu (fieldAt w 19) (fieldAt w 13) (fieldAt w 7))
  | 19 => some (.rem (fieldAt w 19) (fieldAt w 13) (fieldAt w 7))
  | 20 => some (.remu (fieldAt w 19) (fieldAt w 13) (fieldAt w 7))
  | 21 => some (.clz (fieldAt w 13) (fieldAt w 7))
  | 22 => some (.ctz (fieldAt w 13) (fieldAt w 7))
  | 23 => some (.popc (fieldAt w 13) (fieldAt w 7))
  | 24 => some (.sel (fieldAt w 19) (fieldAt w 13) (fieldAt w 7))
  | _ => none

/-- Major 0x08: the instruction of each function code (R44). -/
noncomputable def instrShi (w : Nat) : Option Instr :=
  match bits w 25 2 with
  | 0 => some (.slli (fieldAt w 19) (fieldAt w 13) (fieldAt w 7))
  | 1 => some (.srli (fieldAt w 19) (fieldAt w 13) (fieldAt w 7))
  | 2 => some (.srai (fieldAt w 19) (fieldAt w 13) (fieldAt w 7))
  | _ => none

/-- Major 0x1F: the instruction of each function code (R44). -/
noncomputable def instrFop (w : Nat) : Option Instr :=
  match bits w 25 7 with
  | 0 => some (.faddD (fieldAt w 19) (fieldAt w 13) (fieldAt w 7))
  | 1 => some (.fsubD (fieldAt w 19) (fieldAt w 13) (fieldAt w 7))
  | 2 => some (.fmulD (fieldAt w 19) (fieldAt w 13) (fieldAt w 7))
  | 3 => some (.fdivD (fieldAt w 19) (fieldAt w 13) (fieldAt w 7))
  | 4 => some (.fsqrtD (fieldAt w 13) (fieldAt w 7))
  | 5 => some (.fminD (fieldAt w 19) (fieldAt w 13) (fieldAt w 7))
  | 6 => some (.fmaxD (fieldAt w 19) (fieldAt w 13) (fieldAt w 7))
  | 7 => some (.faddS (fieldAt w 19) (fieldAt w 13) (fieldAt w 7))
  | 8 => some (.fsubS (fieldAt w 19) (fieldAt w 13) (fieldAt w 7))
  | 9 => some (.fmulS (fieldAt w 19) (fieldAt w 13) (fieldAt w 7))
  | 10 => some (.fdivS (fieldAt w 19) (fieldAt w 13) (fieldAt w 7))
  | 11 => some (.fsqrtS (fieldAt w 13) (fieldAt w 7))
  | 12 => some (.fminS (fieldAt w 19) (fieldAt w 13) (fieldAt w 7))
  | 13 => some (.fmaxS (fieldAt w 19) (fieldAt w 13) (fieldAt w 7))
  | 14 => some (.feqD (fieldAt w 19) (fieldAt w 13) (fieldAt w 7))
  | 15 => some (.fltD (fieldAt w 19) (fieldAt w 13) (fieldAt w 7))
  | 16 => some (.fleD (fieldAt w 19) (fieldAt w 13) (fieldAt w 7))
  | 17 => some (.feqS (fieldAt w 19) (fieldAt w 13) (fieldAt w 7))
  | 18 => some (.fltS (fieldAt w 19) (fieldAt w 13) (fieldAt w 7))
  | 19 => some (.fleS (fieldAt w 19) (fieldAt w 13) (fieldAt w 7))
  | 20 => some (.fcvtDL (fieldAt w 13) (fieldAt w 7))
  | 21 => some (.fcvtLD (fieldAt w 13) (fieldAt w 7))
  | 22 => some (.fcvtSD (fieldAt w 13) (fieldAt w 7))
  | 23 => some (.fcvtDS (fieldAt w 13) (fieldAt w 7))
  | 24 => some (.fcvtSL (fieldAt w 13) (fieldAt w 7))
  | 25 => some (.fcvtLS (fieldAt w 13) (fieldAt w 7))
  | 26 => some (.fclass (fieldAt w 13) (fieldAt w 7))
  | _ => none

/-- Major 0x20: the instruction of each function code (R44). -/
noncomputable def instrFmad (w : Nat) : Option Instr :=
  match bits w 31 1 with
  | 0 => some (.fmad (fieldAt w 25) (fieldAt w 19) (fieldAt w 13) (fieldAt w 7))
  | 1 => some (.fnmad (fieldAt w 25) (fieldAt w 19) (fieldAt w 13) (fieldAt w 7))
  | _ => none

/-- Major 0x21: the instruction of each function code (R44). -/
noncomputable def instrFmas (w : Nat) : Option Instr :=
  match bits w 31 1 with
  | 0 => some (.fmas (fieldAt w 25) (fieldAt w 19) (fieldAt w 13) (fieldAt w 7))
  | 1 => some (.fnmas (fieldAt w 25) (fieldAt w 19) (fieldAt w 13) (fieldAt w 7))
  | _ => none

/-- Major 0x22: the instruction of each function code (R44). -/
noncomputable def instrCsr (w : Nat) : Option Instr :=
  match bits w 30 2 with
  | 0 => some (.cxch (fieldAt w 19) (fieldAt w 13) (fieldAt w 7))
  | 1 => some (.csetb (fieldAt w 19) (fieldAt w 13) (fieldAt w 7))
  | 2 => some (.cclrb (fieldAt w 19) (fieldAt w 13) (fieldAt w 7))
  | 3 => some (.cread (fieldAt w 19) (fieldAt w 7))
  | _ => none

/-- Major 0x23: the instruction of each function code (R44). -/
noncomputable def instrSys (w : Nat) : Option Instr :=
  match bits w 25 7 with
  | 0 => some .ecall
  | 1 => some .ebreak
  | 2 => some .eret
  | 3 => some .wfi
  | 4 => some .halt
  | 5 => some .ifence
  | 6 => some .pause
  | _ => none

/-- Major 0x32: the instruction of each function code (R44). -/
noncomputable def instrVint (w : Nat) : Option Instr :=
  match bits w 25 7 with
  | 0 => some (.vadd (fieldAt w 22) (fieldAt w 17) (fieldAt w 12) (fieldAt w 7))
  | 1 => some (.vsub (fieldAt w 22) (fieldAt w 17) (fieldAt w 12) (fieldAt w 7))
  | 2 => some (.vrsub (fieldAt w 22) (fieldAt w 17) (fieldAt w 12) (fieldAt w 7))
  | 3 => some (.vmul (fieldAt w 22) (fieldAt w 17) (fieldAt w 12) (fieldAt w 7))
  | 4 => some (.vmulh (fieldAt w 22) (fieldAt w 17) (fieldAt w 12) (fieldAt w 7))
  | 5 => some (.vmulhu (fieldAt w 22) (fieldAt w 17) (fieldAt w 12) (fieldAt w 7))
  | 6 => some (.vand (fieldAt w 22) (fieldAt w 17) (fieldAt w 12) (fieldAt w 7))
  | 7 => some (.vor (fieldAt w 22) (fieldAt w 17) (fieldAt w 12) (fieldAt w 7))
  | 8 => some (.vxor (fieldAt w 22) (fieldAt w 17) (fieldAt w 12) (fieldAt w 7))
  | 9 => some (.vsll (fieldAt w 22) (fieldAt w 17) (fieldAt w 12) (fieldAt w 7))
  | 10 => some (.vsrl (fieldAt w 22) (fieldAt w 17) (fieldAt w 12) (fieldAt w 7))
  | 11 => some (.vsra (fieldAt w 22) (fieldAt w 17) (fieldAt w 12) (fieldAt w 7))
  | 12 => some (.vmin (fieldAt w 22) (fieldAt w 17) (fieldAt w 12) (fieldAt w 7))
  | 13 => some (.vmax (fieldAt w 22) (fieldAt w 17) (fieldAt w 12) (fieldAt w 7))
  | 14 => some (.vminu (fieldAt w 22) (fieldAt w 17) (fieldAt w 12) (fieldAt w 7))
  | 15 => some (.vmaxu (fieldAt w 22) (fieldAt w 17) (fieldAt w 12) (fieldAt w 7))
  | 16 => some (.vsadd (fieldAt w 22) (fieldAt w 17) (fieldAt w 12) (fieldAt w 7))
  | 17 => some (.vssub (fieldAt w 22) (fieldAt w 17) (fieldAt w 12) (fieldAt w 7))
  | 18 => some (.vsaddu (fieldAt w 22) (fieldAt w 17) (fieldAt w 12) (fieldAt w 7))
  | 19 => some (.vssubu (fieldAt w 22) (fieldAt w 17) (fieldAt w 12) (fieldAt w 7))
  | 20 => some (.vmadd (fieldAt w 22) (fieldAt w 17) (fieldAt w 12) (fieldAt w 7))
  | 21 => some (.vabsd (fieldAt w 22) (fieldAt w 17) (fieldAt w 12) (fieldAt w 7))
  | _ => none

/-- Major 0x33: the instruction of each function code (R44). -/
noncomputable def instrVintx (w : Nat) : Option Instr :=
  match bits w 25 7 with
  | 0 => some (.vaddVx (fieldAt w 22) (fieldAt w 17) (fieldAt w 12) (fieldAt w 7))
  | 1 => some (.vsubVx (fieldAt w 22) (fieldAt w 17) (fieldAt w 12) (fieldAt w 7))
  | 2 => some (.vrsubVx (fieldAt w 22) (fieldAt w 17) (fieldAt w 12) (fieldAt w 7))
  | 3 => some (.vmulVx (fieldAt w 22) (fieldAt w 17) (fieldAt w 12) (fieldAt w 7))
  | 4 => some (.vmulhVx (fieldAt w 22) (fieldAt w 17) (fieldAt w 12) (fieldAt w 7))
  | 5 => some (.vmulhuVx (fieldAt w 22) (fieldAt w 17) (fieldAt w 12) (fieldAt w 7))
  | 6 => some (.vandVx (fieldAt w 22) (fieldAt w 17) (fieldAt w 12) (fieldAt w 7))
  | 7 => some (.vorVx (fieldAt w 22) (fieldAt w 17) (fieldAt w 12) (fieldAt w 7))
  | 8 => some (.vxorVx (fieldAt w 22) (fieldAt w 17) (fieldAt w 12) (fieldAt w 7))
  | 9 => some (.vsllVx (fieldAt w 22) (fieldAt w 17) (fieldAt w 12) (fieldAt w 7))
  | 10 => some (.vsrlVx (fieldAt w 22) (fieldAt w 17) (fieldAt w 12) (fieldAt w 7))
  | 11 => some (.vsraVx (fieldAt w 22) (fieldAt w 17) (fieldAt w 12) (fieldAt w 7))
  | 12 => some (.vminVx (fieldAt w 22) (fieldAt w 17) (fieldAt w 12) (fieldAt w 7))
  | 13 => some (.vmaxVx (fieldAt w 22) (fieldAt w 17) (fieldAt w 12) (fieldAt w 7))
  | 14 => some (.vminuVx (fieldAt w 22) (fieldAt w 17) (fieldAt w 12) (fieldAt w 7))
  | 15 => some (.vmaxuVx (fieldAt w 22) (fieldAt w 17) (fieldAt w 12) (fieldAt w 7))
  | 16 => some (.vsaddVx (fieldAt w 22) (fieldAt w 17) (fieldAt w 12) (fieldAt w 7))
  | 17 => some (.vssubVx (fieldAt w 22) (fieldAt w 17) (fieldAt w 12) (fieldAt w 7))
  | 18 => some (.vsadduVx (fieldAt w 22) (fieldAt w 17) (fieldAt w 12) (fieldAt w 7))
  | 19 => some (.vssubuVx (fieldAt w 22) (fieldAt w 17) (fieldAt w 12) (fieldAt w 7))
  | 20 => some (.vmaddVx (fieldAt w 22) (fieldAt w 17) (fieldAt w 12) (fieldAt w 7))
  | 21 => some (.vabsdVx (fieldAt w 22) (fieldAt w 17) (fieldAt w 12) (fieldAt w 7))
  | _ => none

/-- Major 0x34: the instruction of each function code (R44). -/
noncomputable def instrVinti (w : Nat) : Option Instr :=
  match bits w 25 7 with
  | 0 => some (.vaddVi (fieldAt w 22) (fieldAt w 17) (fieldAt w 12) (fieldAt w 7))
  | 2 => some (.vrsubVi (fieldAt w 22) (fieldAt w 17) (fieldAt w 12) (fieldAt w 7))
  | 6 => some (.vandVi (fieldAt w 22) (fieldAt w 17) (fieldAt w 12) (fieldAt w 7))
  | 7 => some (.vorVi (fieldAt w 22) (fieldAt w 17) (fieldAt w 12) (fieldAt w 7))
  | 8 => some (.vxorVi (fieldAt w 22) (fieldAt w 17) (fieldAt w 12) (fieldAt w 7))
  | 9 => some (.vsllVi (fieldAt w 22) (fieldAt w 17) (fieldAt w 12) (fieldAt w 7))
  | 10 => some (.vsrlVi (fieldAt w 22) (fieldAt w 17) (fieldAt w 12) (fieldAt w 7))
  | 11 => some (.vsraVi (fieldAt w 22) (fieldAt w 17) (fieldAt w 12) (fieldAt w 7))
  | 16 => some (.vsaddVi (fieldAt w 22) (fieldAt w 17) (fieldAt w 12) (fieldAt w 7))
  | 18 => some (.vsadduVi (fieldAt w 22) (fieldAt w 17) (fieldAt w 12) (fieldAt w 7))
  | _ => none

/-- Major 0x35: the instruction of each function code (R44). -/
noncomputable def instrVcmp (w : Nat) : Option Instr :=
  match bits w 25 7 with
  | 0 => some (.vcmpEq (fieldAt w 22) (fieldAt w 17) (fieldAt w 12) (fieldAt w 7))
  | 1 => some (.vcmpNe (fieldAt w 22) (fieldAt w 17) (fieldAt w 12) (fieldAt w 7))
  | 2 => some (.vcmpLt (fieldAt w 22) (fieldAt w 17) (fieldAt w 12) (fieldAt w 7))
  | 3 => some (.vcmpLtu (fieldAt w 22) (fieldAt w 17) (fieldAt w 12) (fieldAt w 7))
  | 4 => some (.vcmpLe (fieldAt w 22) (fieldAt w 17) (fieldAt w 12) (fieldAt w 7))
  | 5 => some (.vcmpLeu (fieldAt w 22) (fieldAt w 17) (fieldAt w 12) (fieldAt w 7))
  | 6 => some (.vcmpGt (fieldAt w 22) (fieldAt w 17) (fieldAt w 12) (fieldAt w 7))
  | 7 => some (.vcmpGtu (fieldAt w 22) (fieldAt w 17) (fieldAt w 12) (fieldAt w 7))
  | 32 => some (.vcmpEqVx (fieldAt w 22) (fieldAt w 17) (fieldAt w 12) (fieldAt w 7))
  | 33 => some (.vcmpNeVx (fieldAt w 22) (fieldAt w 17) (fieldAt w 12) (fieldAt w 7))
  | 34 => some (.vcmpLtVx (fieldAt w 22) (fieldAt w 17) (fieldAt w 12) (fieldAt w 7))
  | 35 => some (.vcmpLtuVx (fieldAt w 22) (fieldAt w 17) (fieldAt w 12) (fieldAt w 7))
  | 36 => some (.vcmpLeVx (fieldAt w 22) (fieldAt w 17) (fieldAt w 12) (fieldAt w 7))
  | 37 => some (.vcmpLeuVx (fieldAt w 22) (fieldAt w 17) (fieldAt w 12) (fieldAt w 7))
  | 38 => some (.vcmpGtVx (fieldAt w 22) (fieldAt w 17) (fieldAt w 12) (fieldAt w 7))
  | 39 => some (.vcmpGtuVx (fieldAt w 22) (fieldAt w 17) (fieldAt w 12) (fieldAt w 7))
  | 64 => some (.vcmpEqVi (fieldAt w 22) (fieldAt w 17) (fieldAt w 12) (fieldAt w 7))
  | 65 => some (.vcmpNeVi (fieldAt w 22) (fieldAt w 17) (fieldAt w 12) (fieldAt w 7))
  | 66 => some (.vcmpLtVi (fieldAt w 22) (fieldAt w 17) (fieldAt w 12) (fieldAt w 7))
  | 67 => some (.vcmpLtuVi (fieldAt w 22) (fieldAt w 17) (fieldAt w 12) (fieldAt w 7))
  | 68 => some (.vcmpLeVi (fieldAt w 22) (fieldAt w 17) (fieldAt w 12) (fieldAt w 7))
  | 69 => some (.vcmpLeuVi (fieldAt w 22) (fieldAt w 17) (fieldAt w 12) (fieldAt w 7))
  | 70 => some (.vcmpGtVi (fieldAt w 22) (fieldAt w 17) (fieldAt w 12) (fieldAt w 7))
  | 71 => some (.vcmpGtuVi (fieldAt w 22) (fieldAt w 17) (fieldAt w 12) (fieldAt w 7))
  | _ => none

/-- Major 0x36: the instruction of each function code (R44). -/
noncomputable def instrVmove (w : Nat) : Option Instr :=
  match bits w 25 7 with
  | 0 => some (.vmv (fieldAt w 22) (fieldAt w 12) (fieldAt w 7))
  | 1 => some (.vsplat (fieldAt w 22) (fieldAt w 17) (fieldAt w 7))
  | 2 => some (.vext (fieldAt w 17) (fieldAt w 12) (fieldAt w 7))
  | 3 => some (.vid (fieldAt w 22) (fieldAt w 7))
  | 4 => some (.vmerge (fieldAt w 22) (fieldAt w 17) (fieldAt w 12) (fieldAt w 7))
  | 5 => some .vnop
  | _ => none

/-- Major 0x37: the instruction of each function code (R44). -/
noncomputable def instrVperm (w : Nat) : Option Instr :=
  match bits w 25 7 with
  | 0 => some (.vslup (fieldAt w 22) (fieldAt w 17) (fieldAt w 12) (fieldAt w 7))
  | 1 => some (.vsldn (fieldAt w 22) (fieldAt w 17) (fieldAt w 12) (fieldAt w 7))
  | 2 => some (.vgathr (fieldAt w 22) (fieldAt w 17) (fieldAt w 12) (fieldAt w 7))
  | 3 => some (.vcompr (fieldAt w 22) (fieldAt w 12) (fieldAt w 7))
  | 4 => some (.vrev (fieldAt w 22) (fieldAt w 12) (fieldAt w 7))
  | 5 => some (.vxchgX (fieldAt w 22) (fieldAt w 17) (fieldAt w 12) (fieldAt w 7))
  | 6 => some (.vxchgR (fieldAt w 22) (fieldAt w 17) (fieldAt w 12) (fieldAt w 7))
  | _ => none

/-- Major 0x38: the instruction of each function code (R44). -/
noncomputable def instrVred (w : Nat) : Option Instr :=
  match bits w 25 7 with
  | 0 => some (.vredsum (fieldAt w 22) (fieldAt w 17) (fieldAt w 12) (fieldAt w 7))
  | 1 => some (.vredmax (fieldAt w 22) (fieldAt w 17) (fieldAt w 12) (fieldAt w 7))
  | 2 => some (.vredmin (fieldAt w 22) (fieldAt w 17) (fieldAt w 12) (fieldAt w 7))
  | 3 => some (.vredmaxu (fieldAt w 22) (fieldAt w 17) (fieldAt w 12) (fieldAt w 7))
  | 4 => some (.vredminu (fieldAt w 22) (fieldAt w 17) (fieldAt w 12) (fieldAt w 7))
  | 5 => some (.vredand (fieldAt w 22) (fieldAt w 17) (fieldAt w 12) (fieldAt w 7))
  | 6 => some (.vredor (fieldAt w 22) (fieldAt w 17) (fieldAt w 12) (fieldAt w 7))
  | 7 => some (.vredxor (fieldAt w 22) (fieldAt w 17) (fieldAt w 12) (fieldAt w 7))
  | 8 => some (.vargmax (fieldAt w 22) (fieldAt w 12) (fieldAt w 7))
  | 9 => some (.vargmin (fieldAt w 22) (fieldAt w 12) (fieldAt w 7))
  | 10 => some (.vfredsum (fieldAt w 22) (fieldAt w 17) (fieldAt w 12) (fieldAt w 7))
  | 11 => some (.vfredtree (fieldAt w 22) (fieldAt w 17) (fieldAt w 12) (fieldAt w 7))
  | 12 => some (.vfredmax (fieldAt w 22) (fieldAt w 17) (fieldAt w 12) (fieldAt w 7))
  | 13 => some (.vfargmax (fieldAt w 22) (fieldAt w 12) (fieldAt w 7))
  | 14 => some (.vtopk (fieldAt w 22) (fieldAt w 17) (fieldAt w 12) (fieldAt w 7))
  | 15 => some (.vftopk (fieldAt w 22) (fieldAt w 17) (fieldAt w 12) (fieldAt w 7))
  | 16 => some (.vscan (fieldAt w 22) (fieldAt w 12) (fieldAt w 7))
  | 17 => some (.vscanc (fieldAt w 22) (fieldAt w 12) (fieldAt w 7))
  | 18 => some (.vfscanc (fieldAt w 22) (fieldAt w 12) (fieldAt w 7))
  | _ => none

/-- Major 0x3A: the instruction of each function code (R44). -/
noncomputable def instrMask (w : Nat) : Option Instr :=
  match bits w 25 7 with
  | 0 => some (.mand (fieldAt w 17) (fieldAt w 12) (fieldAt w 7))
  | 1 => some (.mor (fieldAt w 17) (fieldAt w 12) (fieldAt w 7))
  | 2 => some (.mxor (fieldAt w 17) (fieldAt w 12) (fieldAt w 7))
  | 3 => some (.mandn (fieldAt w 17) (fieldAt w 12) (fieldAt w 7))
  | 4 => some (.mnot (fieldAt w 12) (fieldAt w 7))
  | 5 => some (.mpopc (fieldAt w 12) (fieldAt w 7))
  | 6 => some (.mfirst (fieldAt w 12) (fieldAt w 7))
  | 7 => some (.mset (fieldAt w 7))
  | 8 => some (.mclr (fieldAt w 7))
  | 9 => some (.mmv (fieldAt w 12) (fieldAt w 7))
  | _ => none

/-- Major 0x40: the instruction of each function code (R44). -/
noncomputable def instrVfp (w : Nat) : Option Instr :=
  match bits w 25 7 with
  | 0 => some (.vfadd (fieldAt w 22) (fieldAt w 17) (fieldAt w 12) (fieldAt w 7))
  | 1 => some (.vfsub (fieldAt w 22) (fieldAt w 17) (fieldAt w 12) (fieldAt w 7))
  | 2 => some (.vfmul (fieldAt w 22) (fieldAt w 17) (fieldAt w 12) (fieldAt w 7))
  | 3 => some (.vfdiv (fieldAt w 22) (fieldAt w 17) (fieldAt w 12) (fieldAt w 7))
  | 4 => some (.vfsqrt (fieldAt w 22) (fieldAt w 12) (fieldAt w 7))
  | 5 => some (.vfmin (fieldAt w 22) (fieldAt w 17) (fieldAt w 12) (fieldAt w 7))
  | 6 => some (.vfmax (fieldAt w 22) (fieldAt w 17) (fieldAt w 12) (fieldAt w 7))
  | 7 => some (.vfrsq (fieldAt w 22) (fieldAt w 12) (fieldAt w 7))
  | 8 => some (.vfrcp (fieldAt w 22) (fieldAt w 12) (fieldAt w 7))
  | 9 => some (.vfexp2 (fieldAt w 22) (fieldAt w 12) (fieldAt w 7))
  | 10 => some (.vflog2 (fieldAt w 22) (fieldAt w 12) (fieldAt w 7))
  | 11 => some (.vfabs (fieldAt w 22) (fieldAt w 12) (fieldAt w 7))
  | 12 => some (.vfneg (fieldAt w 22) (fieldAt w 12) (fieldAt w 7))
  | 13 => some (.vfsgnj (fieldAt w 22) (fieldAt w 17) (fieldAt w 12) (fieldAt w 7))
  | 14 => some (.vfclass (fieldAt w 22) (fieldAt w 12) (fieldAt w 7))
  | _ => none

/-- Major 0x41: the instruction of each function code (R44). -/
noncomputable def instrVfpx (w : Nat) : Option Instr :=
  match bits w 25 7 with
  | 0 => some (.vfaddVx (fieldAt w 22) (fieldAt w 17) (fieldAt w 12) (fieldAt w 7))
  | 1 => some (.vfsubVx (fieldAt w 22) (fieldAt w 17) (fieldAt w 12) (fieldAt w 7))
  | 2 => some (.vfmulVx (fieldAt w 22) (fieldAt w 17) (fieldAt w 12) (fieldAt w 7))
  | 3 => some (.vfdivVx (fieldAt w 22) (fieldAt w 17) (fieldAt w 12) (fieldAt w 7))
  | 5 => some (.vfminVx (fieldAt w 22) (fieldAt w 17) (fieldAt w 12) (fieldAt w 7))
  | 6 => some (.vfmaxVx (fieldAt w 22) (fieldAt w 17) (fieldAt w 12) (fieldAt w 7))
  | 13 => some (.vfsgnjVx (fieldAt w 22) (fieldAt w 17) (fieldAt w 12) (fieldAt w 7))
  | _ => none

/-- Major 0x42: the instruction of each function code (R44). -/
noncomputable def instrVfma (w : Nat) : Option Instr :=
  match bits w 30 2 with
  | 0 => some (.vfma (fieldAt w 27) (fieldAt w 22) (fieldAt w 17) (fieldAt w 12) (fieldAt w 7))
  | 1 => some (.vfnma (fieldAt w 27) (fieldAt w 22) (fieldAt w 17) (fieldAt w 12) (fieldAt w 7))
  | 2 => some (.vfmsa (fieldAt w 27) (fieldAt w 22) (fieldAt w 17) (fieldAt w 12) (fieldAt w 7))
  | 3 => some (.vfnmsa (fieldAt w 27) (fieldAt w 22) (fieldAt w 17) (fieldAt w 12) (fieldAt w 7))
  | _ => none

/-- Major 0x43: the instruction of each function code (R44). -/
noncomputable def instrVfcmp (w : Nat) : Option Instr :=
  match bits w 25 7 with
  | 0 => some (.vfcmpEq (fieldAt w 22) (fieldAt w 17) (fieldAt w 12) (fieldAt w 7))
  | 1 => some (.vfcmpNe (fieldAt w 22) (fieldAt w 17) (fieldAt w 12) (fieldAt w 7))
  | 2 => some (.vfcmpLt (fieldAt w 22) (fieldAt w 17) (fieldAt w 12) (fieldAt w 7))
  | 3 => some (.vfcmpLe (fieldAt w 22) (fieldAt w 17) (fieldAt w 12) (fieldAt w 7))
  | 4 => some (.vfcmpGt (fieldAt w 22) (fieldAt w 17) (fieldAt w 12) (fieldAt w 7))
  | 5 => some (.vfcmpGe (fieldAt w 22) (fieldAt w 17) (fieldAt w 12) (fieldAt w 7))
  | 6 => some (.vfcmpUnord (fieldAt w 22) (fieldAt w 17) (fieldAt w 12) (fieldAt w 7))
  | 7 => some (.vfcmpOrd (fieldAt w 22) (fieldAt w 17) (fieldAt w 12) (fieldAt w 7))
  | 32 => some (.vfcmpEqVx (fieldAt w 22) (fieldAt w 17) (fieldAt w 12) (fieldAt w 7))
  | 33 => some (.vfcmpNeVx (fieldAt w 22) (fieldAt w 17) (fieldAt w 12) (fieldAt w 7))
  | 34 => some (.vfcmpLtVx (fieldAt w 22) (fieldAt w 17) (fieldAt w 12) (fieldAt w 7))
  | 35 => some (.vfcmpLeVx (fieldAt w 22) (fieldAt w 17) (fieldAt w 12) (fieldAt w 7))
  | 36 => some (.vfcmpGtVx (fieldAt w 22) (fieldAt w 17) (fieldAt w 12) (fieldAt w 7))
  | 37 => some (.vfcmpGeVx (fieldAt w 22) (fieldAt w 17) (fieldAt w 12) (fieldAt w 7))
  | 38 => some (.vfcmpUnordVx (fieldAt w 22) (fieldAt w 17) (fieldAt w 12) (fieldAt w 7))
  | 39 => some (.vfcmpOrdVx (fieldAt w 22) (fieldAt w 17) (fieldAt w 12) (fieldAt w 7))
  | _ => none

/-- Major 0x45: the instruction of each function code (R44). -/
noncomputable def instrVqnt (w : Nat) : Option Instr :=
  match bits w 25 7 with
  | 0 => some (.vscale (fieldAt w 22) (fieldAt w 12) (fieldAt w 7))
  | 1 => some (.vqnt (fieldAt w 22) (fieldAt w 17) (fieldAt w 12) (fieldAt w 7))
  | 2 => some (.vdqnt (fieldAt w 22) (fieldAt w 17) (fieldAt w 12) (fieldAt w 7))
  | _ => none

/-- Major 0x5C: the instruction of each function code (R44). -/
noncomputable def instrCache (w : Nat) : Option Instr :=
  match bits w 25 7 with
  | 0 => some (.cwb (fieldAt w 19) (fieldAt w 13))
  | 1 => some (.cinv (fieldAt w 19) (fieldAt w 13))
  | 2 => some (.cflush (fieldAt w 19) (fieldAt w 13))
  | 3 => some (.pref (fieldAt w 19) (fieldAt w 13))
  | 4 => some (.wayconv (fieldAt w 13))
  | 5 => some (.wayrest (fieldAt w 13))
  | 6 => some .cflushall
  | 7 => some .lvcinv
  | _ => none

/-- Major 0x60: the instruction of each function code (R44). -/
noncomputable def instrFib (w : Nat) : Option Instr :=
  match bits w 22 5 with
  | 0 => some (.fldl (fieldAt w 30) (fieldAt w 16) (fieldAt w 7))
  | 1 => some (.fpack (fieldAt w 16) (fieldAt w 7))
  | 2 => some (.fst (fieldAt w 30) (fieldAt w 16) (fieldAt w 10))
  | 3 => some (.fisect (fieldAt w 27) (fieldAt w 13) (fieldAt w 10) (fieldAt w 7))
  | 4 => some (.funion (fieldAt w 27) (fieldAt w 13) (fieldAt w 10) (fieldAt w 7))
  | 5 => some (.fmerge (fieldAt w 27) (fieldAt w 13) (fieldAt w 10) (fieldAt w 7))
  | 6 => some (.fsort (fieldAt w 27) (fieldAt w 10) (fieldAt w 7))
  | 7 => some (.fcompact (fieldAt w 16) (fieldAt w 10) (fieldAt w 7))
  | 8 => some (.fexpand (fieldAt w 30) (fieldAt w 16) (fieldAt w 10))
  | 9 => some (.fgather (fieldAt w 30) (fieldAt w 16) (fieldAt w 10) (fieldAt w 7))
  | 10 => some (.fscat (fieldAt w 30) (fieldAt w 16) (fieldAt w 10))
  | 11 => some (.fmapv (fieldAt w 30) (fieldAt w 16) (fieldAt w 10) (fieldAt w 7))
  | 12 => some (.flen (fieldAt w 16) (fieldAt w 10))
  | 13 => some (.fcoord (fieldAt w 16) (fieldAt w 10))
  | 14 => some (.fvals (fieldAt w 30) (fieldAt w 16) (fieldAt w 10))
  | 15 => some (.fsplit (fieldAt w 16) (fieldAt w 10) (fieldAt w 7))
  | 16 => some (.fclr (fieldAt w 7))
  | 17 => some (.fldf (fieldAt w 30) (fieldAt w 16) (fieldAt w 7))
  | 18 => some (.fcombine (fieldAt w 27) (fieldAt w 10) (fieldAt w 7))
  | _ => none

/-- Major 0x61: the instruction of each function code (R44). -/
noncomputable def instrFpref (w : Nat) : Option Instr :=
  match bits w 22 5 with
  | 0 => some (.fpref (fieldAt w 16))
  | _ => none

/-- Major 0x62: the instruction of each function code (R44). -/
noncomputable def instrFmsg (w : Nat) : Option Instr :=
  match bits w 22 5 with
  | 0 => some (.fsend (fieldAt w 16) (fieldAt w 10))
  | 1 => some (.frecv (fieldAt w 30) (fieldAt w 27) (fieldAt w 16) (fieldAt w 10) (fieldAt w 7))
  | _ => none

/-- Major 0x68: the instruction of each function code (R44). -/
noncomputable def instrJclm (w : Nat) : Option Instr :=
  match bits w 11 1 with
  | 0 => some (.jclm (fieldAt w 16) (fieldAt w 7))
  | 1 => some (.jclmAny (fieldAt w 16))
  | _ => none

/-- Major 0x6B: the instruction of each function code (R44). -/
noncomputable def instrJfil (w : Nat) : Option Instr :=
  match bits w 27 1 with
  | 0 => some (.jfil (fieldAt w 16) (fieldAt w 7))
  | 1 => some (.jfilGather (fieldAt w 16) (fieldAt w 11) (fieldAt w 7))
  | _ => none

/-- Major 0x70: the instruction of each function code (R44). -/
noncomputable def instrTctl (w : Nat) : Option Instr :=
  match bits w 25 7 with
  | 0 => some (.tzero (fieldAt w 13))
  | 1 => some (.tstat (fieldAt w 13) (fieldAt w 7))
  | 2 => some .twait
  | _ => none

/-- Major 0x74: the instruction of each function code (R44). -/
noncomputable def instrAmo (w : Nat) : Option Instr :=
  match bits w 25 4 with
  | 0 => some (.amoadd (fieldAt w 30) (fieldAt w 29) (fieldAt w 19) (fieldAt w 13) (fieldAt w 7))
  | 1 => some (.amoand (fieldAt w 30) (fieldAt w 29) (fieldAt w 19) (fieldAt w 13) (fieldAt w 7))
  | 2 => some (.amoor (fieldAt w 30) (fieldAt w 29) (fieldAt w 19) (fieldAt w 13) (fieldAt w 7))
  | 3 => some (.amoxor (fieldAt w 30) (fieldAt w 29) (fieldAt w 19) (fieldAt w 13) (fieldAt w 7))
  | 4 => some (.amomin (fieldAt w 30) (fieldAt w 29) (fieldAt w 19) (fieldAt w 13) (fieldAt w 7))
  | 5 => some (.amomax (fieldAt w 30) (fieldAt w 29) (fieldAt w 19) (fieldAt w 13) (fieldAt w 7))
  | 6 => some (.amominu (fieldAt w 30) (fieldAt w 29) (fieldAt w 19) (fieldAt w 13) (fieldAt w 7))
  | 7 => some (.amomaxu (fieldAt w 30) (fieldAt w 29) (fieldAt w 19) (fieldAt w 13) (fieldAt w 7))
  | 8 => some (.amoswap (fieldAt w 30) (fieldAt w 29) (fieldAt w 19) (fieldAt w 13) (fieldAt w 7))
  | 9 => some (.amocas (fieldAt w 30) (fieldAt w 29) (fieldAt w 19) (fieldAt w 13) (fieldAt w 7))
  | 10 => some (.amofadd (fieldAt w 30) (fieldAt w 29) (fieldAt w 19) (fieldAt w 13) (fieldAt w 7))
  | _ => none

/-- Major 0x75: the instruction of each function code (R44). -/
noncomputable def instrVamo (w : Nat) : Option Instr :=
  match bits w 26 4 with
  | 0 => some (.vamoadd (fieldAt w 31) (fieldAt w 30) (fieldAt w 23) (fieldAt w 18) (fieldAt w 12) (fieldAt w 7))
  | 1 => some (.vamoand (fieldAt w 31) (fieldAt w 30) (fieldAt w 23) (fieldAt w 18) (fieldAt w 12) (fieldAt w 7))
  | 2 => some (.vamoor (fieldAt w 31) (fieldAt w 30) (fieldAt w 23) (fieldAt w 18) (fieldAt w 12) (fieldAt w 7))
  | 3 => some (.vamoxor (fieldAt w 31) (fieldAt w 30) (fieldAt w 23) (fieldAt w 18) (fieldAt w 12) (fieldAt w 7))
  | 4 => some (.vamomin (fieldAt w 31) (fieldAt w 30) (fieldAt w 23) (fieldAt w 18) (fieldAt w 12) (fieldAt w 7))
  | 5 => some (.vamomax (fieldAt w 31) (fieldAt w 30) (fieldAt w 23) (fieldAt w 18) (fieldAt w 12) (fieldAt w 7))
  | 6 => some (.vamominu (fieldAt w 31) (fieldAt w 30) (fieldAt w 23) (fieldAt w 18) (fieldAt w 12) (fieldAt w 7))
  | 7 => some (.vamomaxu (fieldAt w 31) (fieldAt w 30) (fieldAt w 23) (fieldAt w 18) (fieldAt w 12) (fieldAt w 7))
  | 8 => some (.vamoswap (fieldAt w 31) (fieldAt w 30) (fieldAt w 23) (fieldAt w 18) (fieldAt w 12) (fieldAt w 7))
  | 10 => some (.vamofadd (fieldAt w 31) (fieldAt w 30) (fieldAt w 23) (fieldAt w 18) (fieldAt w 12) (fieldAt w 7))
  | _ => none

/-- Major 0x77: the instruction of each function code (R44). -/
noncomputable def instrSlkadd (w : Nat) : Option Instr :=
  match bits w 26 4 with
  | 0 => some (.slkadd (fieldAt w 23) (fieldAt w 12) (fieldAt w 7))
  | 1 => some (.slkaddx (fieldAt w 23) (fieldAt w 18) (fieldAt w 12) (fieldAt w 7))
  | _ => none

/-- Major 0x78: the instruction of each function code (R44). -/
noncomputable def instrSlkctl (w : Nat) : Option Instr :=
  match bits w 25 7 with
  | 0 => some (.slkdef (fieldAt w 13) (fieldAt w 7))
  | 1 => some (.slkdraw (fieldAt w 13))
  | 2 => some (.slkqry (fieldAt w 19) (fieldAt w 13) (fieldAt w 7))
  | 3 => some (.slkrel (fieldAt w 13))
  | _ => none

/-- Major 0x7A: the instruction of each function code (R44). -/
noncomputable def instrFence (w : Nat) : Option Instr :=
  match bits w 10 3 with
  | 0 => some (.fenceAcq (fieldAt w 7))
  | 1 => some (.fenceRel (fieldAt w 7))
  | 2 => some (.fenceAr (fieldAt w 7))
  | 3 => some (.fenceSc (fieldAt w 7))
  | 4 => some .fenceS2v
  | 5 => some .fenceV2s
  | 6 => some (.fenceCode (fieldAt w 7))
  | 7 => some (.fenceSlk (fieldAt w 7))
  | _ => none

/-- Major 0x7C: the instruction of each function code (R44). -/
noncomputable def instrBar (w : Nat) : Option Instr :=
  match bits w 25 2 with
  | 0 => some (.bars (fieldAt w 27))
  | 1 => some (.bara (fieldAt w 27))
  | 2 => some (.barw (fieldAt w 27))
  | _ => none

/-- Major 0x7D: the instruction of each function code (R44). -/
noncomputable def instrXe (w : Nat) : Option Instr :=
  match bits w 25 7 with
  | 0 => some (.xcopy (fieldAt w 19) (fieldAt w 13) (fieldAt w 7))
  | 1 => some (.xgather (fieldAt w 19) (fieldAt w 13) (fieldAt w 7))
  | 2 => some (.xpool (fieldAt w 19) (fieldAt w 13) (fieldAt w 7))
  | 3 => some (.xexpand (fieldAt w 19) (fieldAt w 13) (fieldAt w 7))
  | 4 => some (.xcoll (fieldAt w 19) (fieldAt w 13) (fieldAt w 7))
  | 5 => some (.xcancel (fieldAt w 13) (fieldAt w 7))
  | 6 => some (.xquery (fieldAt w 13) (fieldAt w 7))
  | 64 => some (.xswap (fieldAt w 19) (fieldAt w 13) (fieldAt w 7))
  | 65 => some (.xmig (fieldAt w 19) (fieldAt w 13) (fieldAt w 7))
  | 66 => some (.xseal (fieldAt w 19) (fieldAt w 13) (fieldAt w 7))
  | _ => none

/-- Major 0x7E: the instruction of each function code (R44). -/
noncomputable def instrWork (w : Nat) : Option Instr :=
  match bits w 25 7 with
  | 0 => some (.raise (fieldAt w 13) (fieldAt w 7))
  | 1 => some (.qpush (fieldAt w 19) (fieldAt w 13) (fieldAt w 7))
  | 2 => some (.qpop (fieldAt w 13) (fieldAt w 7))
  | 3 => some .exit
  | 4 => some .yield
  | 5 => some .stgdone
  | _ => none

/-- Major 0x7F: the instruction of each function code (R44). -/
noncomputable def instrPriv (w : Nat) : Option Instr :=
  match bits w 25 7 with
  | 0 => some (.tlbinv (fieldAt w 19) (fieldAt w 13) (fieldAt w 7))
  | 1 => some (.tlbinva (fieldAt w 19) (fieldAt w 13) (fieldAt w 7))
  | 2 => some .tlbsync
  | 3 => some (.ctxsave (fieldAt w 19) (fieldAt w 13) (fieldAt w 7))
  | 4 => some (.ctxrest (fieldAt w 19) (fieldAt w 13) (fieldAt w 7))
  | 5 => some (.slogrp (fieldAt w 7))
  | 6 => some (.slogdrop (fieldAt w 19) (fieldAt w 13) (fieldAt w 7))
  | 7 => some (.pgpin (fieldAt w 13) (fieldAt w 7))
  | 8 => some (.pgunpin (fieldAt w 13) (fieldAt w 7))
  | 9 => some (.stubq (fieldAt w 13) (fieldAt w 7))
  | _ => none

/-- The instruction whose major and function code a word holds, with its fields (R43, R44). -/
noncomputable def instrOf (w : Nat) : Option Instr :=
  match w % 128 with
  | 0x01 => instrSop w
  | 0x02 => some (.addi (fieldAt w 19) (fieldAt w 13) (fieldAt w 7))
  | 0x03 => some (.andi (fieldAt w 19) (fieldAt w 13) (fieldAt w 7))
  | 0x04 => some (.ori (fieldAt w 19) (fieldAt w 13) (fieldAt w 7))
  | 0x05 => some (.xori (fieldAt w 19) (fieldAt w 13) (fieldAt w 7))
  | 0x06 => some (.slti (fieldAt w 19) (fieldAt w 13) (fieldAt w 7))
  | 0x07 => some (.sltiu (fieldAt w 19) (fieldAt w 13) (fieldAt w 7))
  | 0x08 => instrShi w
  | 0x09 => some (.lui (fieldAt w 13) (fieldAt w 7))
  | 0x0A => some (.auipc (fieldAt w 13) (fieldAt w 7))
  | 0x0B => some (.beq (fieldAt w 19) (fieldAt w 13) (fieldAt w 7))
  | 0x0C => some (.bne (fieldAt w 19) (fieldAt w 13) (fieldAt w 7))
  | 0x0D => some (.blt (fieldAt w 19) (fieldAt w 13) (fieldAt w 7))
  | 0x0E => some (.bge (fieldAt w 19) (fieldAt w 13) (fieldAt w 7))
  | 0x0F => some (.bltu (fieldAt w 19) (fieldAt w 13) (fieldAt w 7))
  | 0x10 => some (.bgeu (fieldAt w 19) (fieldAt w 13) (fieldAt w 7))
  | 0x11 => some (.jal (fieldAt w 13) (fieldAt w 7))
  | 0x12 => some (.jalr (fieldAt w 19) (fieldAt w 13) (fieldAt w 7))
  | 0x13 => some (.jt (fieldAt w 25) (fieldAt w 19) (fieldAt w 13))
  | 0x14 => some (.ldb (fieldAt w 30) (fieldAt w 19) (fieldAt w 13) (fieldAt w 7))
  | 0x15 => some (.ldh (fieldAt w 30) (fieldAt w 19) (fieldAt w 13) (fieldAt w 7))
  | 0x16 => some (.ldw (fieldAt w 30) (fieldAt w 19) (fieldAt w 13) (fieldAt w 7))
  | 0x17 => some (.ldd (fieldAt w 30) (fieldAt w 19) (fieldAt w 13) (fieldAt w 7))
  | 0x18 => some (.ldbu (fieldAt w 30) (fieldAt w 19) (fieldAt w 13) (fieldAt w 7))
  | 0x19 => some (.ldhu (fieldAt w 30) (fieldAt w 19) (fieldAt w 13) (fieldAt w 7))
  | 0x1A => some (.ldwu (fieldAt w 30) (fieldAt w 19) (fieldAt w 13) (fieldAt w 7))
  | 0x1B => some (.stb (fieldAt w 30) (fieldAt w 19) (fieldAt w 13) (fieldAt w 7))
  | 0x1C => some (.sth (fieldAt w 30) (fieldAt w 19) (fieldAt w 13) (fieldAt w 7))
  | 0x1D => some (.stw (fieldAt w 30) (fieldAt w 19) (fieldAt w 13) (fieldAt w 7))
  | 0x1E => some (.std (fieldAt w 30) (fieldAt w 19) (fieldAt w 13) (fieldAt w 7))
  | 0x1F => instrFop w
  | 0x20 => instrFmad w
  | 0x21 => instrFmas w
  | 0x22 => instrCsr w
  | 0x23 => instrSys w
  | 0x30 => some (.setvl (fieldAt w 19) (fieldAt w 13) (fieldAt w 7))
  | 0x31 => some (.setvlr (fieldAt w 19) (fieldAt w 13) (fieldAt w 7))
  | 0x32 => instrVint w
  | 0x33 => instrVintx w
  | 0x34 => instrVinti w
  | 0x35 => instrVcmp w
  | 0x36 => instrVmove w
  | 0x37 => instrVperm w
  | 0x38 => instrVred w
  | 0x3A => instrMask w
  | 0x3B => some (.vsplit (fieldAt w 10) (fieldAt w 7))
  | 0x3C => some .vjoin
  | 0x3D => some (.vbnone (fieldAt w 10) (fieldAt w 7))
  | 0x3E => some (.repf (fieldAt w 25) (fieldAt w 20) (fieldAt w 17) (fieldAt w 11) (fieldAt w 7))
  | 0x40 => instrVfp w
  | 0x41 => instrVfpx w
  | 0x42 => instrVfma w
  | 0x43 => instrVfcmp w
  | 0x44 => some (.vcvt (fieldAt w 28) (fieldAt w 25) (fieldAt w 22) (fieldAt w 21) (fieldAt w 17) (fieldAt w 12) (fieldAt w 7))
  | 0x45 => instrVqnt w
  | 0x50 => some (.vld (fieldAt w 31) (fieldAt w 29) (fieldAt w 26) (fieldAt w 23) (fieldAt w 18) (fieldAt w 12) (fieldAt w 7))
  | 0x51 => some (.vst (fieldAt w 31) (fieldAt w 29) (fieldAt w 26) (fieldAt w 23) (fieldAt w 18) (fieldAt w 12) (fieldAt w 7))
  | 0x52 => some (.vlds (fieldAt w 31) (fieldAt w 29) (fieldAt w 26) (fieldAt w 23) (fieldAt w 18) (fieldAt w 12) (fieldAt w 7))
  | 0x53 => some (.vsts (fieldAt w 31) (fieldAt w 29) (fieldAt w 26) (fieldAt w 23) (fieldAt w 18) (fieldAt w 12) (fieldAt w 7))
  | 0x54 => some (.vldx (fieldAt w 31) (fieldAt w 29) (fieldAt w 26) (fieldAt w 23) (fieldAt w 18) (fieldAt w 12) (fieldAt w 7))
  | 0x55 => some (.vstx (fieldAt w 31) (fieldAt w 29) (fieldAt w 26) (fieldAt w 23) (fieldAt w 18) (fieldAt w 12) (fieldAt w 7))
  | 0x56 => some (.vlseg (fieldAt w 31) (fieldAt w 29) (fieldAt w 26) (fieldAt w 23) (fieldAt w 18) (fieldAt w 12) (fieldAt w 7))
  | 0x57 => some (.vsseg (fieldAt w 31) (fieldAt w 29) (fieldAt w 26) (fieldAt w 23) (fieldAt w 18) (fieldAt w 12) (fieldAt w 7))
  | 0x58 => some (.lsld (fieldAt w 26) (fieldAt w 23) (fieldAt w 18) (fieldAt w 12) (fieldAt w 7))
  | 0x59 => some (.lsst (fieldAt w 26) (fieldAt w 23) (fieldAt w 18) (fieldAt w 12) (fieldAt w 7))
  | 0x5A => some (.vspl (fieldAt w 12) (fieldAt w 7))
  | 0x5B => some (.vfil (fieldAt w 12) (fieldAt w 7))
  | 0x5C => instrCache w
  | 0x5D => some (.ldtol (fieldAt w 23) (fieldAt w 18) (fieldAt w 12) (fieldAt w 7))
  | 0x5E => some (.qappend (fieldAt w 29) (fieldAt w 26) (fieldAt w 23) (fieldAt w 12) (fieldAt w 7))
  | 0x60 => instrFib w
  | 0x61 => instrFpref w
  | 0x62 => instrFmsg w
  | 0x68 => instrJclm w
  | 0x69 => some (.jrel (fieldAt w 7))
  | 0x6A => some (.jld (fieldAt w 27) (fieldAt w 22) (fieldAt w 16) (fieldAt w 11) (fieldAt w 7))
  | 0x6B => instrJfil w
  | 0x6C => some (.tmma (fieldAt w 23) (fieldAt w 21) (fieldAt w 13) (fieldAt w 9) (fieldAt w 7))
  | 0x6D => some (.tmms (fieldAt w 23) (fieldAt w 21) (fieldAt w 17) (fieldAt w 13) (fieldAt w 9) (fieldAt w 7))
  | 0x6E => some (.ttrn (fieldAt w 23) (fieldAt w 21) (fieldAt w 13) (fieldAt w 9) (fieldAt w 7))
  | 0x6F => some (.tmov (fieldAt w 16) (fieldAt w 11) (fieldAt w 7))
  | 0x70 => instrTctl w
  | 0x74 => instrAmo w
  | 0x75 => instrVamo w
  | 0x77 => instrSlkadd w
  | 0x78 => instrSlkctl w
  | 0x7A => instrFence w
  | 0x7B => some (.waita (fieldAt w 28) (fieldAt w 25) (fieldAt w 19) (fieldAt w 13) (fieldAt w 7))
  | 0x7C => instrBar w
  | 0x7D => instrXe w
  | 0x7E => instrWork w
  | 0x7F => instrPriv w
  | _ => none

/-- The instruction a 32-bit word encodes, or the reason it is none (R43, R54). -/
noncomputable def decodeWord (w : Nat) : Except Reject Instr :=
  match wordReject w with
  | some e => .error e
  | none =>
    match instrOf w with
    | some i => .ok i
    | none => .error .unassignedFunction

/-- The word in four little-endian bytes (R2). -/
def wordOf (b0 b1 b2 b3 : Byte) : Nat :=
  b0.toNat + b1.toNat * 2 ^ 8 + b2.toNat * 2 ^ 16 + b3.toNat * 2 ^ 24

/-- Decodes the first four bytes given and returns the rest (R29). -/
noncomputable def decode : List Byte → Except Reject (Instr × List Byte)
  | b0 :: b1 :: b2 :: b3 :: rest =>
    match decodeWord (wordOf b0 b1 b2 b3) with
    | .ok i => .ok (i, rest)
    | .error e => .error e
  | _ => .error .truncated

/-- The four little-endian bytes of a word (R2). -/
def bytesOfWord (w : Nat) : List Byte :=
  [BitVec.ofNat 8 w, BitVec.ofNat 8 (w / 2 ^ 8), BitVec.ofNat 8 (w / 2 ^ 16), BitVec.ofNat 8 (w / 2 ^ 24)]

/-- The opcode bits of an instruction with its fields placed at their lowest bits (R32). -/
def wordWith (base : Nat) (fs : List (Nat × Nat)) : Nat := fs.foldl (fun w f => w + f.1 * 2 ^ f.2) base

/-- The word of an instruction (R32, R43, R44); an event of the table has none. -/
def encodeWord : Instr → Option Nat
  | .add b a d => some (wordWith 0x00000001 [(b.toNat, 19), (a.toNat, 13), (d.toNat, 7)])
  | .sub b a d => some (wordWith 0x02000001 [(b.toNat, 19), (a.toNat, 13), (d.toNat, 7)])
  | .and b a d => some (wordWith 0x04000001 [(b.toNat, 19), (a.toNat, 13), (d.toNat, 7)])
  | .or b a d => some (wordWith 0x06000001 [(b.toNat, 19), (a.toNat, 13), (d.toNat, 7)])
  | .xor b a d => some (wordWith 0x08000001 [(b.toNat, 19), (a.toNat, 13), (d.toNat, 7)])
  | .sll b a d => some (wordWith 0x0A000001 [(b.toNat, 19), (a.toNat, 13), (d.toNat, 7)])
  | .srl b a d => some (wordWith 0x0C000001 [(b.toNat, 19), (a.toNat, 13), (d.toNat, 7)])
  | .sra b a d => some (wordWith 0x0E000001 [(b.toNat, 19), (a.toNat, 13), (d.toNat, 7)])
  | .slt b a d => some (wordWith 0x10000001 [(b.toNat, 19), (a.toNat, 13), (d.toNat, 7)])
  | .sltu b a d => some (wordWith 0x12000001 [(b.toNat, 19), (a.toNat, 13), (d.toNat, 7)])
  | .min b a d => some (wordWith 0x14000001 [(b.toNat, 19), (a.toNat, 13), (d.toNat, 7)])
  | .max b a d => some (wordWith 0x16000001 [(b.toNat, 19), (a.toNat, 13), (d.toNat, 7)])
  | .minu b a d => some (wordWith 0x18000001 [(b.toNat, 19), (a.toNat, 13), (d.toNat, 7)])
  | .maxu b a d => some (wordWith 0x1A000001 [(b.toNat, 19), (a.toNat, 13), (d.toNat, 7)])
  | .mul b a d => some (wordWith 0x1C000001 [(b.toNat, 19), (a.toNat, 13), (d.toNat, 7)])
  | .mulh b a d => some (wordWith 0x1E000001 [(b.toNat, 19), (a.toNat, 13), (d.toNat, 7)])
  | .mulhu b a d => some (wordWith 0x20000001 [(b.toNat, 19), (a.toNat, 13), (d.toNat, 7)])
  | .div b a d => some (wordWith 0x22000001 [(b.toNat, 19), (a.toNat, 13), (d.toNat, 7)])
  | .divu b a d => some (wordWith 0x24000001 [(b.toNat, 19), (a.toNat, 13), (d.toNat, 7)])
  | .rem b a d => some (wordWith 0x26000001 [(b.toNat, 19), (a.toNat, 13), (d.toNat, 7)])
  | .remu b a d => some (wordWith 0x28000001 [(b.toNat, 19), (a.toNat, 13), (d.toNat, 7)])
  | .clz a d => some (wordWith 0x2A000001 [(a.toNat, 13), (d.toNat, 7)])
  | .ctz a d => some (wordWith 0x2C000001 [(a.toNat, 13), (d.toNat, 7)])
  | .popc a d => some (wordWith 0x2E000001 [(a.toNat, 13), (d.toNat, 7)])
  | .sel b a d => some (wordWith 0x30000001 [(b.toNat, 19), (a.toNat, 13), (d.toNat, 7)])
  | .addi i a d => some (wordWith 0x00000002 [(i.toNat, 19), (a.toNat, 13), (d.toNat, 7)])
  | .andi i a d => some (wordWith 0x00000003 [(i.toNat, 19), (a.toNat, 13), (d.toNat, 7)])
  | .ori i a d => some (wordWith 0x00000004 [(i.toNat, 19), (a.toNat, 13), (d.toNat, 7)])
  | .xori i a d => some (wordWith 0x00000005 [(i.toNat, 19), (a.toNat, 13), (d.toNat, 7)])
  | .slti i a d => some (wordWith 0x00000006 [(i.toNat, 19), (a.toNat, 13), (d.toNat, 7)])
  | .sltiu i a d => some (wordWith 0x00000007 [(i.toNat, 19), (a.toNat, 13), (d.toNat, 7)])
  | .slli n a d => some (wordWith 0x00000008 [(n.toNat, 19), (a.toNat, 13), (d.toNat, 7)])
  | .srli n a d => some (wordWith 0x02000008 [(n.toNat, 19), (a.toNat, 13), (d.toNat, 7)])
  | .srai n a d => some (wordWith 0x04000008 [(n.toNat, 19), (a.toNat, 13), (d.toNat, 7)])
  | .lui i d => some (wordWith 0x00000009 [(i.toNat, 13), (d.toNat, 7)])
  | .auipc i d => some (wordWith 0x0000000A [(i.toNat, 13), (d.toNat, 7)])
  | .beq i b a => some (wordWith 0x0000000B [(i.toNat, 19), (b.toNat, 13), (a.toNat, 7)])
  | .bne i b a => some (wordWith 0x0000000C [(i.toNat, 19), (b.toNat, 13), (a.toNat, 7)])
  | .blt i b a => some (wordWith 0x0000000D [(i.toNat, 19), (b.toNat, 13), (a.toNat, 7)])
  | .bge i b a => some (wordWith 0x0000000E [(i.toNat, 19), (b.toNat, 13), (a.toNat, 7)])
  | .bltu i b a => some (wordWith 0x0000000F [(i.toNat, 19), (b.toNat, 13), (a.toNat, 7)])
  | .bgeu i b a => some (wordWith 0x00000010 [(i.toNat, 19), (b.toNat, 13), (a.toNat, 7)])
  | .jal i d => some (wordWith 0x00000011 [(i.toNat, 13), (d.toNat, 7)])
  | .jalr i a d => some (wordWith 0x00000012 [(i.toNat, 19), (a.toNat, 13), (d.toNat, 7)])
  | .jt n b a => some (wordWith 0x00000013 [(n.toNat, 25), (b.toNat, 19), (a.toNat, 13)])
  | .ldb r i a d => some (wordWith 0x00000014 [(r.toNat, 30), (i.toNat, 19), (a.toNat, 13), (d.toNat, 7)])
  | .ldh r i a d => some (wordWith 0x00000015 [(r.toNat, 30), (i.toNat, 19), (a.toNat, 13), (d.toNat, 7)])
  | .ldw r i a d => some (wordWith 0x00000016 [(r.toNat, 30), (i.toNat, 19), (a.toNat, 13), (d.toNat, 7)])
  | .ldd r i a d => some (wordWith 0x00000017 [(r.toNat, 30), (i.toNat, 19), (a.toNat, 13), (d.toNat, 7)])
  | .ldbu r i a d => some (wordWith 0x00000018 [(r.toNat, 30), (i.toNat, 19), (a.toNat, 13), (d.toNat, 7)])
  | .ldhu r i a d => some (wordWith 0x00000019 [(r.toNat, 30), (i.toNat, 19), (a.toNat, 13), (d.toNat, 7)])
  | .ldwu r i a d => some (wordWith 0x0000001A [(r.toNat, 30), (i.toNat, 19), (a.toNat, 13), (d.toNat, 7)])
  | .stb r i a b => some (wordWith 0x0000001B [(r.toNat, 30), (i.toNat, 19), (a.toNat, 13), (b.toNat, 7)])
  | .sth r i a b => some (wordWith 0x0000001C [(r.toNat, 30), (i.toNat, 19), (a.toNat, 13), (b.toNat, 7)])
  | .stw r i a b => some (wordWith 0x0000001D [(r.toNat, 30), (i.toNat, 19), (a.toNat, 13), (b.toNat, 7)])
  | .std r i a b => some (wordWith 0x0000001E [(r.toNat, 30), (i.toNat, 19), (a.toNat, 13), (b.toNat, 7)])
  | .faddD b a d => some (wordWith 0x0000001F [(b.toNat, 19), (a.toNat, 13), (d.toNat, 7)])
  | .fsubD b a d => some (wordWith 0x0200001F [(b.toNat, 19), (a.toNat, 13), (d.toNat, 7)])
  | .fmulD b a d => some (wordWith 0x0400001F [(b.toNat, 19), (a.toNat, 13), (d.toNat, 7)])
  | .fdivD b a d => some (wordWith 0x0600001F [(b.toNat, 19), (a.toNat, 13), (d.toNat, 7)])
  | .fsqrtD a d => some (wordWith 0x0800001F [(a.toNat, 13), (d.toNat, 7)])
  | .fminD b a d => some (wordWith 0x0A00001F [(b.toNat, 19), (a.toNat, 13), (d.toNat, 7)])
  | .fmaxD b a d => some (wordWith 0x0C00001F [(b.toNat, 19), (a.toNat, 13), (d.toNat, 7)])
  | .faddS b a d => some (wordWith 0x0E00001F [(b.toNat, 19), (a.toNat, 13), (d.toNat, 7)])
  | .fsubS b a d => some (wordWith 0x1000001F [(b.toNat, 19), (a.toNat, 13), (d.toNat, 7)])
  | .fmulS b a d => some (wordWith 0x1200001F [(b.toNat, 19), (a.toNat, 13), (d.toNat, 7)])
  | .fdivS b a d => some (wordWith 0x1400001F [(b.toNat, 19), (a.toNat, 13), (d.toNat, 7)])
  | .fsqrtS a d => some (wordWith 0x1600001F [(a.toNat, 13), (d.toNat, 7)])
  | .fminS b a d => some (wordWith 0x1800001F [(b.toNat, 19), (a.toNat, 13), (d.toNat, 7)])
  | .fmaxS b a d => some (wordWith 0x1A00001F [(b.toNat, 19), (a.toNat, 13), (d.toNat, 7)])
  | .feqD b a d => some (wordWith 0x1C00001F [(b.toNat, 19), (a.toNat, 13), (d.toNat, 7)])
  | .fltD b a d => some (wordWith 0x1E00001F [(b.toNat, 19), (a.toNat, 13), (d.toNat, 7)])
  | .fleD b a d => some (wordWith 0x2000001F [(b.toNat, 19), (a.toNat, 13), (d.toNat, 7)])
  | .feqS b a d => some (wordWith 0x2200001F [(b.toNat, 19), (a.toNat, 13), (d.toNat, 7)])
  | .fltS b a d => some (wordWith 0x2400001F [(b.toNat, 19), (a.toNat, 13), (d.toNat, 7)])
  | .fleS b a d => some (wordWith 0x2600001F [(b.toNat, 19), (a.toNat, 13), (d.toNat, 7)])
  | .fcvtDL a d => some (wordWith 0x2800001F [(a.toNat, 13), (d.toNat, 7)])
  | .fcvtLD a d => some (wordWith 0x2A00001F [(a.toNat, 13), (d.toNat, 7)])
  | .fcvtSD a d => some (wordWith 0x2C00001F [(a.toNat, 13), (d.toNat, 7)])
  | .fcvtDS a d => some (wordWith 0x2E00001F [(a.toNat, 13), (d.toNat, 7)])
  | .fcvtSL a d => some (wordWith 0x3000001F [(a.toNat, 13), (d.toNat, 7)])
  | .fcvtLS a d => some (wordWith 0x3200001F [(a.toNat, 13), (d.toNat, 7)])
  | .fclass a d => some (wordWith 0x3400001F [(a.toNat, 13), (d.toNat, 7)])
  | .fmad c b a d => some (wordWith 0x00000020 [(c.toNat, 25), (b.toNat, 19), (a.toNat, 13), (d.toNat, 7)])
  | .fnmad c b a d => some (wordWith 0x80000020 [(c.toNat, 25), (b.toNat, 19), (a.toNat, 13), (d.toNat, 7)])
  | .fmas c b a d => some (wordWith 0x00000021 [(c.toNat, 25), (b.toNat, 19), (a.toNat, 13), (d.toNat, 7)])
  | .fnmas c b a d => some (wordWith 0x80000021 [(c.toNat, 25), (b.toNat, 19), (a.toNat, 13), (d.toNat, 7)])
  | .cxch c a d => some (wordWith 0x00000022 [(c.toNat, 19), (a.toNat, 13), (d.toNat, 7)])
  | .csetb c a d => some (wordWith 0x40000022 [(c.toNat, 19), (a.toNat, 13), (d.toNat, 7)])
  | .cclrb c a d => some (wordWith 0x80000022 [(c.toNat, 19), (a.toNat, 13), (d.toNat, 7)])
  | .cread c d => some (wordWith 0xC0000022 [(c.toNat, 19), (d.toNat, 7)])
  | .ecall => some (wordWith 0x00000023 [])
  | .ebreak => some (wordWith 0x02000023 [])
  | .eret => some (wordWith 0x04000023 [])
  | .wfi => some (wordWith 0x06000023 [])
  | .halt => some (wordWith 0x08000023 [])
  | .ifence => some (wordWith 0x0A000023 [])
  | .pause => some (wordWith 0x0C000023 [])
  | .setvl t a d => some (wordWith 0x00000030 [(t.toNat, 19), (a.toNat, 13), (d.toNat, 7)])
  | .setvlr b a d => some (wordWith 0x00000031 [(b.toNat, 19), (a.toNat, 13), (d.toNat, 7)])
  | .vadd m b a d => some (wordWith 0x00000032 [(m.toNat, 22), (b.toNat, 17), (a.toNat, 12), (d.toNat, 7)])
  | .vsub m b a d => some (wordWith 0x02000032 [(m.toNat, 22), (b.toNat, 17), (a.toNat, 12), (d.toNat, 7)])
  | .vrsub m b a d => some (wordWith 0x04000032 [(m.toNat, 22), (b.toNat, 17), (a.toNat, 12), (d.toNat, 7)])
  | .vmul m b a d => some (wordWith 0x06000032 [(m.toNat, 22), (b.toNat, 17), (a.toNat, 12), (d.toNat, 7)])
  | .vmulh m b a d => some (wordWith 0x08000032 [(m.toNat, 22), (b.toNat, 17), (a.toNat, 12), (d.toNat, 7)])
  | .vmulhu m b a d => some (wordWith 0x0A000032 [(m.toNat, 22), (b.toNat, 17), (a.toNat, 12), (d.toNat, 7)])
  | .vand m b a d => some (wordWith 0x0C000032 [(m.toNat, 22), (b.toNat, 17), (a.toNat, 12), (d.toNat, 7)])
  | .vor m b a d => some (wordWith 0x0E000032 [(m.toNat, 22), (b.toNat, 17), (a.toNat, 12), (d.toNat, 7)])
  | .vxor m b a d => some (wordWith 0x10000032 [(m.toNat, 22), (b.toNat, 17), (a.toNat, 12), (d.toNat, 7)])
  | .vsll m b a d => some (wordWith 0x12000032 [(m.toNat, 22), (b.toNat, 17), (a.toNat, 12), (d.toNat, 7)])
  | .vsrl m b a d => some (wordWith 0x14000032 [(m.toNat, 22), (b.toNat, 17), (a.toNat, 12), (d.toNat, 7)])
  | .vsra m b a d => some (wordWith 0x16000032 [(m.toNat, 22), (b.toNat, 17), (a.toNat, 12), (d.toNat, 7)])
  | .vmin m b a d => some (wordWith 0x18000032 [(m.toNat, 22), (b.toNat, 17), (a.toNat, 12), (d.toNat, 7)])
  | .vmax m b a d => some (wordWith 0x1A000032 [(m.toNat, 22), (b.toNat, 17), (a.toNat, 12), (d.toNat, 7)])
  | .vminu m b a d => some (wordWith 0x1C000032 [(m.toNat, 22), (b.toNat, 17), (a.toNat, 12), (d.toNat, 7)])
  | .vmaxu m b a d => some (wordWith 0x1E000032 [(m.toNat, 22), (b.toNat, 17), (a.toNat, 12), (d.toNat, 7)])
  | .vsadd m b a d => some (wordWith 0x20000032 [(m.toNat, 22), (b.toNat, 17), (a.toNat, 12), (d.toNat, 7)])
  | .vssub m b a d => some (wordWith 0x22000032 [(m.toNat, 22), (b.toNat, 17), (a.toNat, 12), (d.toNat, 7)])
  | .vsaddu m b a d => some (wordWith 0x24000032 [(m.toNat, 22), (b.toNat, 17), (a.toNat, 12), (d.toNat, 7)])
  | .vssubu m b a d => some (wordWith 0x26000032 [(m.toNat, 22), (b.toNat, 17), (a.toNat, 12), (d.toNat, 7)])
  | .vmadd m b a d => some (wordWith 0x28000032 [(m.toNat, 22), (b.toNat, 17), (a.toNat, 12), (d.toNat, 7)])
  | .vabsd m b a d => some (wordWith 0x2A000032 [(m.toNat, 22), (b.toNat, 17), (a.toNat, 12), (d.toNat, 7)])
  | .vaddVx m s a d => some (wordWith 0x00000033 [(m.toNat, 22), (s.toNat, 17), (a.toNat, 12), (d.toNat, 7)])
  | .vsubVx m s a d => some (wordWith 0x02000033 [(m.toNat, 22), (s.toNat, 17), (a.toNat, 12), (d.toNat, 7)])
  | .vrsubVx m s a d => some (wordWith 0x04000033 [(m.toNat, 22), (s.toNat, 17), (a.toNat, 12), (d.toNat, 7)])
  | .vmulVx m s a d => some (wordWith 0x06000033 [(m.toNat, 22), (s.toNat, 17), (a.toNat, 12), (d.toNat, 7)])
  | .vmulhVx m s a d => some (wordWith 0x08000033 [(m.toNat, 22), (s.toNat, 17), (a.toNat, 12), (d.toNat, 7)])
  | .vmulhuVx m s a d => some (wordWith 0x0A000033 [(m.toNat, 22), (s.toNat, 17), (a.toNat, 12), (d.toNat, 7)])
  | .vandVx m s a d => some (wordWith 0x0C000033 [(m.toNat, 22), (s.toNat, 17), (a.toNat, 12), (d.toNat, 7)])
  | .vorVx m s a d => some (wordWith 0x0E000033 [(m.toNat, 22), (s.toNat, 17), (a.toNat, 12), (d.toNat, 7)])
  | .vxorVx m s a d => some (wordWith 0x10000033 [(m.toNat, 22), (s.toNat, 17), (a.toNat, 12), (d.toNat, 7)])
  | .vsllVx m s a d => some (wordWith 0x12000033 [(m.toNat, 22), (s.toNat, 17), (a.toNat, 12), (d.toNat, 7)])
  | .vsrlVx m s a d => some (wordWith 0x14000033 [(m.toNat, 22), (s.toNat, 17), (a.toNat, 12), (d.toNat, 7)])
  | .vsraVx m s a d => some (wordWith 0x16000033 [(m.toNat, 22), (s.toNat, 17), (a.toNat, 12), (d.toNat, 7)])
  | .vminVx m s a d => some (wordWith 0x18000033 [(m.toNat, 22), (s.toNat, 17), (a.toNat, 12), (d.toNat, 7)])
  | .vmaxVx m s a d => some (wordWith 0x1A000033 [(m.toNat, 22), (s.toNat, 17), (a.toNat, 12), (d.toNat, 7)])
  | .vminuVx m s a d => some (wordWith 0x1C000033 [(m.toNat, 22), (s.toNat, 17), (a.toNat, 12), (d.toNat, 7)])
  | .vmaxuVx m s a d => some (wordWith 0x1E000033 [(m.toNat, 22), (s.toNat, 17), (a.toNat, 12), (d.toNat, 7)])
  | .vsaddVx m s a d => some (wordWith 0x20000033 [(m.toNat, 22), (s.toNat, 17), (a.toNat, 12), (d.toNat, 7)])
  | .vssubVx m s a d => some (wordWith 0x22000033 [(m.toNat, 22), (s.toNat, 17), (a.toNat, 12), (d.toNat, 7)])
  | .vsadduVx m s a d => some (wordWith 0x24000033 [(m.toNat, 22), (s.toNat, 17), (a.toNat, 12), (d.toNat, 7)])
  | .vssubuVx m s a d => some (wordWith 0x26000033 [(m.toNat, 22), (s.toNat, 17), (a.toNat, 12), (d.toNat, 7)])
  | .vmaddVx m s a d => some (wordWith 0x28000033 [(m.toNat, 22), (s.toNat, 17), (a.toNat, 12), (d.toNat, 7)])
  | .vabsdVx m s a d => some (wordWith 0x2A000033 [(m.toNat, 22), (s.toNat, 17), (a.toNat, 12), (d.toNat, 7)])
  | .vaddVi m i a d => some (wordWith 0x00000034 [(m.toNat, 22), (i.toNat, 17), (a.toNat, 12), (d.toNat, 7)])
  | .vrsubVi m i a d => some (wordWith 0x04000034 [(m.toNat, 22), (i.toNat, 17), (a.toNat, 12), (d.toNat, 7)])
  | .vandVi m i a d => some (wordWith 0x0C000034 [(m.toNat, 22), (i.toNat, 17), (a.toNat, 12), (d.toNat, 7)])
  | .vorVi m i a d => some (wordWith 0x0E000034 [(m.toNat, 22), (i.toNat, 17), (a.toNat, 12), (d.toNat, 7)])
  | .vxorVi m i a d => some (wordWith 0x10000034 [(m.toNat, 22), (i.toNat, 17), (a.toNat, 12), (d.toNat, 7)])
  | .vsllVi m i a d => some (wordWith 0x12000034 [(m.toNat, 22), (i.toNat, 17), (a.toNat, 12), (d.toNat, 7)])
  | .vsrlVi m i a d => some (wordWith 0x14000034 [(m.toNat, 22), (i.toNat, 17), (a.toNat, 12), (d.toNat, 7)])
  | .vsraVi m i a d => some (wordWith 0x16000034 [(m.toNat, 22), (i.toNat, 17), (a.toNat, 12), (d.toNat, 7)])
  | .vsaddVi m i a d => some (wordWith 0x20000034 [(m.toNat, 22), (i.toNat, 17), (a.toNat, 12), (d.toNat, 7)])
  | .vsadduVi m i a d => some (wordWith 0x24000034 [(m.toNat, 22), (i.toNat, 17), (a.toNat, 12), (d.toNat, 7)])
  | .vcmpEq m b a d => some (wordWith 0x00000035 [(m.toNat, 22), (b.toNat, 17), (a.toNat, 12), (d.toNat, 7)])
  | .vcmpNe m b a d => some (wordWith 0x02000035 [(m.toNat, 22), (b.toNat, 17), (a.toNat, 12), (d.toNat, 7)])
  | .vcmpLt m b a d => some (wordWith 0x04000035 [(m.toNat, 22), (b.toNat, 17), (a.toNat, 12), (d.toNat, 7)])
  | .vcmpLtu m b a d => some (wordWith 0x06000035 [(m.toNat, 22), (b.toNat, 17), (a.toNat, 12), (d.toNat, 7)])
  | .vcmpLe m b a d => some (wordWith 0x08000035 [(m.toNat, 22), (b.toNat, 17), (a.toNat, 12), (d.toNat, 7)])
  | .vcmpLeu m b a d => some (wordWith 0x0A000035 [(m.toNat, 22), (b.toNat, 17), (a.toNat, 12), (d.toNat, 7)])
  | .vcmpGt m b a d => some (wordWith 0x0C000035 [(m.toNat, 22), (b.toNat, 17), (a.toNat, 12), (d.toNat, 7)])
  | .vcmpGtu m b a d => some (wordWith 0x0E000035 [(m.toNat, 22), (b.toNat, 17), (a.toNat, 12), (d.toNat, 7)])
  | .vcmpEqVx m s a d => some (wordWith 0x40000035 [(m.toNat, 22), (s.toNat, 17), (a.toNat, 12), (d.toNat, 7)])
  | .vcmpNeVx m s a d => some (wordWith 0x42000035 [(m.toNat, 22), (s.toNat, 17), (a.toNat, 12), (d.toNat, 7)])
  | .vcmpLtVx m s a d => some (wordWith 0x44000035 [(m.toNat, 22), (s.toNat, 17), (a.toNat, 12), (d.toNat, 7)])
  | .vcmpLtuVx m s a d => some (wordWith 0x46000035 [(m.toNat, 22), (s.toNat, 17), (a.toNat, 12), (d.toNat, 7)])
  | .vcmpLeVx m s a d => some (wordWith 0x48000035 [(m.toNat, 22), (s.toNat, 17), (a.toNat, 12), (d.toNat, 7)])
  | .vcmpLeuVx m s a d => some (wordWith 0x4A000035 [(m.toNat, 22), (s.toNat, 17), (a.toNat, 12), (d.toNat, 7)])
  | .vcmpGtVx m s a d => some (wordWith 0x4C000035 [(m.toNat, 22), (s.toNat, 17), (a.toNat, 12), (d.toNat, 7)])
  | .vcmpGtuVx m s a d => some (wordWith 0x4E000035 [(m.toNat, 22), (s.toNat, 17), (a.toNat, 12), (d.toNat, 7)])
  | .vcmpEqVi m i a d => some (wordWith 0x80000035 [(m.toNat, 22), (i.toNat, 17), (a.toNat, 12), (d.toNat, 7)])
  | .vcmpNeVi m i a d => some (wordWith 0x82000035 [(m.toNat, 22), (i.toNat, 17), (a.toNat, 12), (d.toNat, 7)])
  | .vcmpLtVi m i a d => some (wordWith 0x84000035 [(m.toNat, 22), (i.toNat, 17), (a.toNat, 12), (d.toNat, 7)])
  | .vcmpLtuVi m i a d => some (wordWith 0x86000035 [(m.toNat, 22), (i.toNat, 17), (a.toNat, 12), (d.toNat, 7)])
  | .vcmpLeVi m i a d => some (wordWith 0x88000035 [(m.toNat, 22), (i.toNat, 17), (a.toNat, 12), (d.toNat, 7)])
  | .vcmpLeuVi m i a d => some (wordWith 0x8A000035 [(m.toNat, 22), (i.toNat, 17), (a.toNat, 12), (d.toNat, 7)])
  | .vcmpGtVi m i a d => some (wordWith 0x8C000035 [(m.toNat, 22), (i.toNat, 17), (a.toNat, 12), (d.toNat, 7)])
  | .vcmpGtuVi m i a d => some (wordWith 0x8E000035 [(m.toNat, 22), (i.toNat, 17), (a.toNat, 12), (d.toNat, 7)])
  | .vmv m a d => some (wordWith 0x00000036 [(m.toNat, 22), (a.toNat, 12), (d.toNat, 7)])
  | .vsplat m s d => some (wordWith 0x02000036 [(m.toNat, 22), (s.toNat, 17), (d.toNat, 7)])
  | .vext x a d => some (wordWith 0x04000036 [(x.toNat, 17), (a.toNat, 12), (d.toNat, 7)])
  | .vid m d => some (wordWith 0x06000036 [(m.toNat, 22), (d.toNat, 7)])
  | .vmerge m b a d => some (wordWith 0x08000036 [(m.toNat, 22), (b.toNat, 17), (a.toNat, 12), (d.toNat, 7)])
  | .vnop => some (wordWith 0x0A000036 [])
  | .vslup m s a d => some (wordWith 0x00000037 [(m.toNat, 22), (s.toNat, 17), (a.toNat, 12), (d.toNat, 7)])
  | .vsldn m s a d => some (wordWith 0x02000037 [(m.toNat, 22), (s.toNat, 17), (a.toNat, 12), (d.toNat, 7)])
  | .vgathr m b a d => some (wordWith 0x04000037 [(m.toNat, 22), (b.toNat, 17), (a.toNat, 12), (d.toNat, 7)])
  | .vcompr m a d => some (wordWith 0x06000037 [(m.toNat, 22), (a.toNat, 12), (d.toNat, 7)])
  | .vrev m a d => some (wordWith 0x08000037 [(m.toNat, 22), (a.toNat, 12), (d.toNat, 7)])
  | .vxchgX m s a d => some (wordWith 0x0A000037 [(m.toNat, 22), (s.toNat, 17), (a.toNat, 12), (d.toNat, 7)])
  | .vxchgR m s a d => some (wordWith 0x0C000037 [(m.toNat, 22), (s.toNat, 17), (a.toNat, 12), (d.toNat, 7)])
  | .vredsum m b a d => some (wordWith 0x00000038 [(m.toNat, 22), (b.toNat, 17), (a.toNat, 12), (d.toNat, 7)])
  | .vredmax m b a d => some (wordWith 0x02000038 [(m.toNat, 22), (b.toNat, 17), (a.toNat, 12), (d.toNat, 7)])
  | .vredmin m b a d => some (wordWith 0x04000038 [(m.toNat, 22), (b.toNat, 17), (a.toNat, 12), (d.toNat, 7)])
  | .vredmaxu m b a d => some (wordWith 0x06000038 [(m.toNat, 22), (b.toNat, 17), (a.toNat, 12), (d.toNat, 7)])
  | .vredminu m b a d => some (wordWith 0x08000038 [(m.toNat, 22), (b.toNat, 17), (a.toNat, 12), (d.toNat, 7)])
  | .vredand m b a d => some (wordWith 0x0A000038 [(m.toNat, 22), (b.toNat, 17), (a.toNat, 12), (d.toNat, 7)])
  | .vredor m b a d => some (wordWith 0x0C000038 [(m.toNat, 22), (b.toNat, 17), (a.toNat, 12), (d.toNat, 7)])
  | .vredxor m b a d => some (wordWith 0x0E000038 [(m.toNat, 22), (b.toNat, 17), (a.toNat, 12), (d.toNat, 7)])
  | .vargmax m a d => some (wordWith 0x10000038 [(m.toNat, 22), (a.toNat, 12), (d.toNat, 7)])
  | .vargmin m a d => some (wordWith 0x12000038 [(m.toNat, 22), (a.toNat, 12), (d.toNat, 7)])
  | .vfredsum m b a d => some (wordWith 0x14000038 [(m.toNat, 22), (b.toNat, 17), (a.toNat, 12), (d.toNat, 7)])
  | .vfredtree m b a d => some (wordWith 0x16000038 [(m.toNat, 22), (b.toNat, 17), (a.toNat, 12), (d.toNat, 7)])
  | .vfredmax m b a d => some (wordWith 0x18000038 [(m.toNat, 22), (b.toNat, 17), (a.toNat, 12), (d.toNat, 7)])
  | .vfargmax m a d => some (wordWith 0x1A000038 [(m.toNat, 22), (a.toNat, 12), (d.toNat, 7)])
  | .vtopk m s a d => some (wordWith 0x1C000038 [(m.toNat, 22), (s.toNat, 17), (a.toNat, 12), (d.toNat, 7)])
  | .vftopk m s a d => some (wordWith 0x1E000038 [(m.toNat, 22), (s.toNat, 17), (a.toNat, 12), (d.toNat, 7)])
  | .vscan m a d => some (wordWith 0x20000038 [(m.toNat, 22), (a.toNat, 12), (d.toNat, 7)])
  | .vscanc m a d => some (wordWith 0x22000038 [(m.toNat, 22), (a.toNat, 12), (d.toNat, 7)])
  | .vfscanc m a d => some (wordWith 0x24000038 [(m.toNat, 22), (a.toNat, 12), (d.toNat, 7)])
  | .mand b a d => some (wordWith 0x0000003A [(b.toNat, 17), (a.toNat, 12), (d.toNat, 7)])
  | .mor b a d => some (wordWith 0x0200003A [(b.toNat, 17), (a.toNat, 12), (d.toNat, 7)])
  | .mxor b a d => some (wordWith 0x0400003A [(b.toNat, 17), (a.toNat, 12), (d.toNat, 7)])
  | .mandn b a d => some (wordWith 0x0600003A [(b.toNat, 17), (a.toNat, 12), (d.toNat, 7)])
  | .mnot a d => some (wordWith 0x0800003A [(a.toNat, 12), (d.toNat, 7)])
  | .mpopc a d => some (wordWith 0x0A00003A [(a.toNat, 12), (d.toNat, 7)])
  | .mfirst a d => some (wordWith 0x0C00003A [(a.toNat, 12), (d.toNat, 7)])
  | .mset d => some (wordWith 0x0E00003A [(d.toNat, 7)])
  | .mclr d => some (wordWith 0x1000003A [(d.toNat, 7)])
  | .mmv a d => some (wordWith 0x1200003A [(a.toNat, 12), (d.toNat, 7)])
  | .vsplit o c => some (wordWith 0x0000003B [(o.toNat, 10), (c.toNat, 7)])
  | .vjoin => some (wordWith 0x0000003C [])
  | .vbnone o c => some (wordWith 0x0000003D [(o.toNat, 10), (c.toNat, 7)])
  | .repf f o g n k => some (wordWith 0x0000003E [(f.toNat, 25), (o.toNat, 20), (g.toNat, 17), (n.toNat, 11), (k.toNat, 7)])
  | .vfadd m b a d => some (wordWith 0x00000040 [(m.toNat, 22), (b.toNat, 17), (a.toNat, 12), (d.toNat, 7)])
  | .vfsub m b a d => some (wordWith 0x02000040 [(m.toNat, 22), (b.toNat, 17), (a.toNat, 12), (d.toNat, 7)])
  | .vfmul m b a d => some (wordWith 0x04000040 [(m.toNat, 22), (b.toNat, 17), (a.toNat, 12), (d.toNat, 7)])
  | .vfdiv m b a d => some (wordWith 0x06000040 [(m.toNat, 22), (b.toNat, 17), (a.toNat, 12), (d.toNat, 7)])
  | .vfsqrt m a d => some (wordWith 0x08000040 [(m.toNat, 22), (a.toNat, 12), (d.toNat, 7)])
  | .vfmin m b a d => some (wordWith 0x0A000040 [(m.toNat, 22), (b.toNat, 17), (a.toNat, 12), (d.toNat, 7)])
  | .vfmax m b a d => some (wordWith 0x0C000040 [(m.toNat, 22), (b.toNat, 17), (a.toNat, 12), (d.toNat, 7)])
  | .vfrsq m a d => some (wordWith 0x0E000040 [(m.toNat, 22), (a.toNat, 12), (d.toNat, 7)])
  | .vfrcp m a d => some (wordWith 0x10000040 [(m.toNat, 22), (a.toNat, 12), (d.toNat, 7)])
  | .vfexp2 m a d => some (wordWith 0x12000040 [(m.toNat, 22), (a.toNat, 12), (d.toNat, 7)])
  | .vflog2 m a d => some (wordWith 0x14000040 [(m.toNat, 22), (a.toNat, 12), (d.toNat, 7)])
  | .vfabs m a d => some (wordWith 0x16000040 [(m.toNat, 22), (a.toNat, 12), (d.toNat, 7)])
  | .vfneg m a d => some (wordWith 0x18000040 [(m.toNat, 22), (a.toNat, 12), (d.toNat, 7)])
  | .vfsgnj m b a d => some (wordWith 0x1A000040 [(m.toNat, 22), (b.toNat, 17), (a.toNat, 12), (d.toNat, 7)])
  | .vfclass m a d => some (wordWith 0x1C000040 [(m.toNat, 22), (a.toNat, 12), (d.toNat, 7)])
  | .vfaddVx m s a d => some (wordWith 0x00000041 [(m.toNat, 22), (s.toNat, 17), (a.toNat, 12), (d.toNat, 7)])
  | .vfsubVx m s a d => some (wordWith 0x02000041 [(m.toNat, 22), (s.toNat, 17), (a.toNat, 12), (d.toNat, 7)])
  | .vfmulVx m s a d => some (wordWith 0x04000041 [(m.toNat, 22), (s.toNat, 17), (a.toNat, 12), (d.toNat, 7)])
  | .vfdivVx m s a d => some (wordWith 0x06000041 [(m.toNat, 22), (s.toNat, 17), (a.toNat, 12), (d.toNat, 7)])
  | .vfminVx m s a d => some (wordWith 0x0A000041 [(m.toNat, 22), (s.toNat, 17), (a.toNat, 12), (d.toNat, 7)])
  | .vfmaxVx m s a d => some (wordWith 0x0C000041 [(m.toNat, 22), (s.toNat, 17), (a.toNat, 12), (d.toNat, 7)])
  | .vfsgnjVx m s a d => some (wordWith 0x1A000041 [(m.toNat, 22), (s.toNat, 17), (a.toNat, 12), (d.toNat, 7)])
  | .vfma m c b a d => some (wordWith 0x00000042 [(m.toNat, 27), (c.toNat, 22), (b.toNat, 17), (a.toNat, 12), (d.toNat, 7)])
  | .vfnma m c b a d => some (wordWith 0x40000042 [(m.toNat, 27), (c.toNat, 22), (b.toNat, 17), (a.toNat, 12), (d.toNat, 7)])
  | .vfmsa m c b a d => some (wordWith 0x80000042 [(m.toNat, 27), (c.toNat, 22), (b.toNat, 17), (a.toNat, 12), (d.toNat, 7)])
  | .vfnmsa m c b a d => some (wordWith 0xC0000042 [(m.toNat, 27), (c.toNat, 22), (b.toNat, 17), (a.toNat, 12), (d.toNat, 7)])
  | .vfcmpEq m b a d => some (wordWith 0x00000043 [(m.toNat, 22), (b.toNat, 17), (a.toNat, 12), (d.toNat, 7)])
  | .vfcmpNe m b a d => some (wordWith 0x02000043 [(m.toNat, 22), (b.toNat, 17), (a.toNat, 12), (d.toNat, 7)])
  | .vfcmpLt m b a d => some (wordWith 0x04000043 [(m.toNat, 22), (b.toNat, 17), (a.toNat, 12), (d.toNat, 7)])
  | .vfcmpLe m b a d => some (wordWith 0x06000043 [(m.toNat, 22), (b.toNat, 17), (a.toNat, 12), (d.toNat, 7)])
  | .vfcmpGt m b a d => some (wordWith 0x08000043 [(m.toNat, 22), (b.toNat, 17), (a.toNat, 12), (d.toNat, 7)])
  | .vfcmpGe m b a d => some (wordWith 0x0A000043 [(m.toNat, 22), (b.toNat, 17), (a.toNat, 12), (d.toNat, 7)])
  | .vfcmpUnord m b a d => some (wordWith 0x0C000043 [(m.toNat, 22), (b.toNat, 17), (a.toNat, 12), (d.toNat, 7)])
  | .vfcmpOrd m b a d => some (wordWith 0x0E000043 [(m.toNat, 22), (b.toNat, 17), (a.toNat, 12), (d.toNat, 7)])
  | .vfcmpEqVx m s a d => some (wordWith 0x40000043 [(m.toNat, 22), (s.toNat, 17), (a.toNat, 12), (d.toNat, 7)])
  | .vfcmpNeVx m s a d => some (wordWith 0x42000043 [(m.toNat, 22), (s.toNat, 17), (a.toNat, 12), (d.toNat, 7)])
  | .vfcmpLtVx m s a d => some (wordWith 0x44000043 [(m.toNat, 22), (s.toNat, 17), (a.toNat, 12), (d.toNat, 7)])
  | .vfcmpLeVx m s a d => some (wordWith 0x46000043 [(m.toNat, 22), (s.toNat, 17), (a.toNat, 12), (d.toNat, 7)])
  | .vfcmpGtVx m s a d => some (wordWith 0x48000043 [(m.toNat, 22), (s.toNat, 17), (a.toNat, 12), (d.toNat, 7)])
  | .vfcmpGeVx m s a d => some (wordWith 0x4A000043 [(m.toNat, 22), (s.toNat, 17), (a.toNat, 12), (d.toNat, 7)])
  | .vfcmpUnordVx m s a d => some (wordWith 0x4C000043 [(m.toNat, 22), (s.toNat, 17), (a.toNat, 12), (d.toNat, 7)])
  | .vfcmpOrdVx m s a d => some (wordWith 0x4E000043 [(m.toNat, 22), (s.toNat, 17), (a.toNat, 12), (d.toNat, 7)])
  | .vcvt t r m x f a d => some (wordWith 0x00000044 [(t.toNat, 28), (r.toNat, 25), (m.toNat, 22), (x.toNat, 21), (f.toNat, 17), (a.toNat, 12), (d.toNat, 7)])
  | .vscale m a d => some (wordWith 0x00000045 [(m.toNat, 22), (a.toNat, 12), (d.toNat, 7)])
  | .vqnt m b a d => some (wordWith 0x02000045 [(m.toNat, 22), (b.toNat, 17), (a.toNat, 12), (d.toNat, 7)])
  | .vdqnt m b a d => some (wordWith 0x04000045 [(m.toNat, 22), (b.toNat, 17), (a.toNat, 12), (d.toNat, 7)])
  | .vld n r w m x a d => some (wordWith 0x00000050 [(n.toNat, 31), (r.toNat, 29), (w.toNat, 26), (m.toNat, 23), (x.toNat, 18), (a.toNat, 12), (d.toNat, 7)])
  | .vst n r w m x a d => some (wordWith 0x00000051 [(n.toNat, 31), (r.toNat, 29), (w.toNat, 26), (m.toNat, 23), (x.toNat, 18), (a.toNat, 12), (d.toNat, 7)])
  | .vlds n r w m x a d => some (wordWith 0x00000052 [(n.toNat, 31), (r.toNat, 29), (w.toNat, 26), (m.toNat, 23), (x.toNat, 18), (a.toNat, 12), (d.toNat, 7)])
  | .vsts n r w m x a d => some (wordWith 0x00000053 [(n.toNat, 31), (r.toNat, 29), (w.toNat, 26), (m.toNat, 23), (x.toNat, 18), (a.toNat, 12), (d.toNat, 7)])
  | .vldx n r w m x a d => some (wordWith 0x00000054 [(n.toNat, 31), (r.toNat, 29), (w.toNat, 26), (m.toNat, 23), (x.toNat, 18), (a.toNat, 12), (d.toNat, 7)])
  | .vstx n r w m x a d => some (wordWith 0x00000055 [(n.toNat, 31), (r.toNat, 29), (w.toNat, 26), (m.toNat, 23), (x.toNat, 18), (a.toNat, 12), (d.toNat, 7)])
  | .vlseg n r w m x a d => some (wordWith 0x00000056 [(n.toNat, 31), (r.toNat, 29), (w.toNat, 26), (m.toNat, 23), (x.toNat, 18), (a.toNat, 12), (d.toNat, 7)])
  | .vsseg n r w m x a d => some (wordWith 0x00000057 [(n.toNat, 31), (r.toNat, 29), (w.toNat, 26), (m.toNat, 23), (x.toNat, 18), (a.toNat, 12), (d.toNat, 7)])
  | .lsld w m x a d => some (wordWith 0x00000058 [(w.toNat, 26), (m.toNat, 23), (x.toNat, 18), (a.toNat, 12), (d.toNat, 7)])
  | .lsst w m x a d => some (wordWith 0x00000059 [(w.toNat, 26), (m.toNat, 23), (x.toNat, 18), (a.toNat, 12), (d.toNat, 7)])
  | .vspl a d => some (wordWith 0x1C00005A [(a.toNat, 12), (d.toNat, 7)])
  | .vfil a d => some (wordWith 0x1C00005B [(a.toNat, 12), (d.toNat, 7)])
  | .cwb b a => some (wordWith 0x0000005C [(b.toNat, 19), (a.toNat, 13)])
  | .cinv b a => some (wordWith 0x0200005C [(b.toNat, 19), (a.toNat, 13)])
  | .cflush b a => some (wordWith 0x0400005C [(b.toNat, 19), (a.toNat, 13)])
  | .pref b a => some (wordWith 0x0600005C [(b.toNat, 19), (a.toNat, 13)])
  | .wayconv a => some (wordWith 0x0800005C [(a.toNat, 13)])
  | .wayrest a => some (wordWith 0x0A00005C [(a.toNat, 13)])
  | .cflushall => some (wordWith 0x0C00005C [])
  | .lvcinv => some (wordWith 0x0E00005C [])
  | .ldtol m e a d => some (wordWith 0x0800005D [(m.toNat, 23), (e.toNat, 18), (a.toNat, 12), (d.toNat, 7)])
  | .qappend r w m a d => some (wordWith 0x0000005E [(r.toNat, 29), (w.toNat, 26), (m.toNat, 23), (a.toNat, 12), (d.toNat, 7)])
  | .fldl k x d => some (wordWith 0x00000060 [(k.toNat, 30), (x.toNat, 16), (d.toNat, 7)])
  | .fpack x d => some (wordWith 0x00400060 [(x.toNat, 16), (d.toNat, 7)])
  | .fst k x a => some (wordWith 0x00800060 [(k.toNat, 30), (x.toNat, 16), (a.toNat, 10)])
  | .fisect c b a d => some (wordWith 0x00C00060 [(c.toNat, 27), (b.toNat, 13), (a.toNat, 10), (d.toNat, 7)])
  | .funion c b a d => some (wordWith 0x01000060 [(c.toNat, 27), (b.toNat, 13), (a.toNat, 10), (d.toNat, 7)])
  | .fmerge c b a d => some (wordWith 0x01400060 [(c.toNat, 27), (b.toNat, 13), (a.toNat, 10), (d.toNat, 7)])
  | .fsort c a d => some (wordWith 0x01800060 [(c.toNat, 27), (a.toNat, 10), (d.toNat, 7)])
  | .fcompact x a d => some (wordWith 0x01C00060 [(x.toNat, 16), (a.toNat, 10), (d.toNat, 7)])
  | .fexpand k x a => some (wordWith 0x02000060 [(k.toNat, 30), (x.toNat, 16), (a.toNat, 10)])
  | .fgather k x a d => some (wordWith 0x02400060 [(k.toNat, 30), (x.toNat, 16), (a.toNat, 10), (d.toNat, 7)])
  | .fscat k x a => some (wordWith 0x02800060 [(k.toNat, 30), (x.toNat, 16), (a.toNat, 10)])
  | .fmapv k x a d => some (wordWith 0x02C00060 [(k.toNat, 30), (x.toNat, 16), (a.toNat, 10), (d.toNat, 7)])
  | .flen x a => some (wordWith 0x03000060 [(x.toNat, 16), (a.toNat, 10)])
  | .fcoord x a => some (wordWith 0x03400060 [(x.toNat, 16), (a.toNat, 10)])
  | .fvals k x a => some (wordWith 0x03800060 [(k.toNat, 30), (x.toNat, 16), (a.toNat, 10)])
  | .fsplit x a d => some (wordWith 0x03C00060 [(x.toNat, 16), (a.toNat, 10), (d.toNat, 7)])
  | .fclr d => some (wordWith 0x04000060 [(d.toNat, 7)])
  | .fldf k x d => some (wordWith 0x04400060 [(k.toNat, 30), (x.toNat, 16), (d.toNat, 7)])
  | .fcombine c a d => some (wordWith 0x04800060 [(c.toNat, 27), (a.toNat, 10), (d.toNat, 7)])
  | .fpref x => some (wordWith 0x00000061 [(x.toNat, 16)])
  | .fsend x a => some (wordWith 0x00000062 [(x.toNat, 16), (a.toNat, 10)])
  | .frecv k c x a d => some (wordWith 0x00400062 [(k.toNat, 30), (c.toNat, 27), (x.toNat, 16), (a.toNat, 10), (d.toNat, 7)])
  | .jclm s j => some (wordWith 0x00000068 [(s.toNat, 16), (j.toNat, 7)])
  | .jclmAny s => some (wordWith 0x00000868 [(s.toNat, 16)])
  | .jrel j => some (wordWith 0x00000069 [(j.toNat, 7)])
  | .jld p c s v j => some (wordWith 0x0000006A [(p.toNat, 27), (c.toNat, 22), (s.toNat, 16), (v.toNat, 11), (j.toNat, 7)])
  | .jfil s j => some (wordWith 0x0000006B [(s.toNat, 16), (j.toNat, 7)])
  | .jfilGather s v j => some (wordWith 0x0800006B [(s.toNat, 16), (v.toNat, 11), (j.toNat, 7)])
  | .tmma z e b a t => some (wordWith 0x0000006C [(z.toNat, 23), (e.toNat, 21), (b.toNat, 13), (a.toNat, 9), (t.toNat, 7)])
  | .tmms z e n b a t => some (wordWith 0x0000006D [(z.toNat, 23), (e.toNat, 21), (n.toNat, 17), (b.toNat, 13), (a.toNat, 9), (t.toNat, 7)])
  | .ttrn z e b a t => some (wordWith 0x0000006E [(z.toNat, 23), (e.toNat, 21), (b.toNat, 13), (a.toNat, 9), (t.toNat, 7)])
  | .tmov s v t => some (wordWith 0x0000006F [(s.toNat, 16), (v.toNat, 11), (t.toNat, 7)])
  | .tzero t => some (wordWith 0x00000070 [(t.toNat, 13)])
  | .tstat t d => some (wordWith 0x02000070 [(t.toNat, 13), (d.toNat, 7)])
  | .twait => some (wordWith 0x04000070 [])
  | .amoadd o w b a d => some (wordWith 0x00000074 [(o.toNat, 30), (w.toNat, 29), (b.toNat, 19), (a.toNat, 13), (d.toNat, 7)])
  | .amoand o w b a d => some (wordWith 0x02000074 [(o.toNat, 30), (w.toNat, 29), (b.toNat, 19), (a.toNat, 13), (d.toNat, 7)])
  | .amoor o w b a d => some (wordWith 0x04000074 [(o.toNat, 30), (w.toNat, 29), (b.toNat, 19), (a.toNat, 13), (d.toNat, 7)])
  | .amoxor o w b a d => some (wordWith 0x06000074 [(o.toNat, 30), (w.toNat, 29), (b.toNat, 19), (a.toNat, 13), (d.toNat, 7)])
  | .amomin o w b a d => some (wordWith 0x08000074 [(o.toNat, 30), (w.toNat, 29), (b.toNat, 19), (a.toNat, 13), (d.toNat, 7)])
  | .amomax o w b a d => some (wordWith 0x0A000074 [(o.toNat, 30), (w.toNat, 29), (b.toNat, 19), (a.toNat, 13), (d.toNat, 7)])
  | .amominu o w b a d => some (wordWith 0x0C000074 [(o.toNat, 30), (w.toNat, 29), (b.toNat, 19), (a.toNat, 13), (d.toNat, 7)])
  | .amomaxu o w b a d => some (wordWith 0x0E000074 [(o.toNat, 30), (w.toNat, 29), (b.toNat, 19), (a.toNat, 13), (d.toNat, 7)])
  | .amoswap o w b a d => some (wordWith 0x10000074 [(o.toNat, 30), (w.toNat, 29), (b.toNat, 19), (a.toNat, 13), (d.toNat, 7)])
  | .amocas o w b a d => some (wordWith 0x12000074 [(o.toNat, 30), (w.toNat, 29), (b.toNat, 19), (a.toNat, 13), (d.toNat, 7)])
  | .amofadd o w b a d => some (wordWith 0x14000074 [(o.toNat, 30), (w.toNat, 29), (b.toNat, 19), (a.toNat, 13), (d.toNat, 7)])
  | .vamoadd w r m i a d => some (wordWith 0x00000075 [(w.toNat, 31), (r.toNat, 30), (m.toNat, 23), (i.toNat, 18), (a.toNat, 12), (d.toNat, 7)])
  | .vamoand w r m i a d => some (wordWith 0x04000075 [(w.toNat, 31), (r.toNat, 30), (m.toNat, 23), (i.toNat, 18), (a.toNat, 12), (d.toNat, 7)])
  | .vamoor w r m i a d => some (wordWith 0x08000075 [(w.toNat, 31), (r.toNat, 30), (m.toNat, 23), (i.toNat, 18), (a.toNat, 12), (d.toNat, 7)])
  | .vamoxor w r m i a d => some (wordWith 0x0C000075 [(w.toNat, 31), (r.toNat, 30), (m.toNat, 23), (i.toNat, 18), (a.toNat, 12), (d.toNat, 7)])
  | .vamomin w r m i a d => some (wordWith 0x10000075 [(w.toNat, 31), (r.toNat, 30), (m.toNat, 23), (i.toNat, 18), (a.toNat, 12), (d.toNat, 7)])
  | .vamomax w r m i a d => some (wordWith 0x14000075 [(w.toNat, 31), (r.toNat, 30), (m.toNat, 23), (i.toNat, 18), (a.toNat, 12), (d.toNat, 7)])
  | .vamominu w r m i a d => some (wordWith 0x18000075 [(w.toNat, 31), (r.toNat, 30), (m.toNat, 23), (i.toNat, 18), (a.toNat, 12), (d.toNat, 7)])
  | .vamomaxu w r m i a d => some (wordWith 0x1C000075 [(w.toNat, 31), (r.toNat, 30), (m.toNat, 23), (i.toNat, 18), (a.toNat, 12), (d.toNat, 7)])
  | .vamoswap w r m i a d => some (wordWith 0x20000075 [(w.toNat, 31), (r.toNat, 30), (m.toNat, 23), (i.toNat, 18), (a.toNat, 12), (d.toNat, 7)])
  | .vamofadd w r m i a d => some (wordWith 0x28000075 [(w.toNat, 31), (r.toNat, 30), (m.toNat, 23), (i.toNat, 18), (a.toNat, 12), (d.toNat, 7)])
  | .slkadd m a d => some (wordWith 0x00000077 [(m.toNat, 23), (a.toNat, 12), (d.toNat, 7)])
  | .slkaddx m i a d => some (wordWith 0x04000077 [(m.toNat, 23), (i.toNat, 18), (a.toNat, 12), (d.toNat, 7)])
  | .slkdef a d => some (wordWith 0x00000078 [(a.toNat, 13), (d.toNat, 7)])
  | .slkdraw a => some (wordWith 0x02000078 [(a.toNat, 13)])
  | .slkqry b a d => some (wordWith 0x04000078 [(b.toNat, 19), (a.toNat, 13), (d.toNat, 7)])
  | .slkrel a => some (wordWith 0x06000078 [(a.toNat, 13)])
  | .fenceAcq s => some (wordWith 0x0000007A [(s.toNat, 7)])
  | .fenceRel s => some (wordWith 0x0000047A [(s.toNat, 7)])
  | .fenceAr s => some (wordWith 0x0000087A [(s.toNat, 7)])
  | .fenceSc s => some (wordWith 0x00000C7A [(s.toNat, 7)])
  | .fenceS2v => some (wordWith 0x0000107A [])
  | .fenceV2s => some (wordWith 0x0000147A [])
  | .fenceCode s => some (wordWith 0x0000187A [(s.toNat, 7)])
  | .fenceSlk s => some (wordWith 0x00001C7A [(s.toNat, 7)])
  | .waita c s b a d => some (wordWith 0x0000007B [(c.toNat, 28), (s.toNat, 25), (b.toNat, 19), (a.toNat, 13), (d.toNat, 7)])
  | .bars n => some (wordWith 0x0000007C [(n.toNat, 27)])
  | .bara n => some (wordWith 0x0200007C [(n.toNat, 27)])
  | .barw n => some (wordWith 0x0400007C [(n.toNat, 27)])
  | .xcopy b a d => some (wordWith 0x0000007D [(b.toNat, 19), (a.toNat, 13), (d.toNat, 7)])
  | .xgather b a d => some (wordWith 0x0200007D [(b.toNat, 19), (a.toNat, 13), (d.toNat, 7)])
  | .xpool b a d => some (wordWith 0x0400007D [(b.toNat, 19), (a.toNat, 13), (d.toNat, 7)])
  | .xexpand b a d => some (wordWith 0x0600007D [(b.toNat, 19), (a.toNat, 13), (d.toNat, 7)])
  | .xcoll b a d => some (wordWith 0x0800007D [(b.toNat, 19), (a.toNat, 13), (d.toNat, 7)])
  | .xcancel a d => some (wordWith 0x0A00007D [(a.toNat, 13), (d.toNat, 7)])
  | .xquery a d => some (wordWith 0x0C00007D [(a.toNat, 13), (d.toNat, 7)])
  | .xswap b a d => some (wordWith 0x8000007D [(b.toNat, 19), (a.toNat, 13), (d.toNat, 7)])
  | .xmig b a d => some (wordWith 0x8200007D [(b.toNat, 19), (a.toNat, 13), (d.toNat, 7)])
  | .xseal b a d => some (wordWith 0x8400007D [(b.toNat, 19), (a.toNat, 13), (d.toNat, 7)])
  | .raise a d => some (wordWith 0x0000007E [(a.toNat, 13), (d.toNat, 7)])
  | .qpush b a d => some (wordWith 0x0200007E [(b.toNat, 19), (a.toNat, 13), (d.toNat, 7)])
  | .qpop a d => some (wordWith 0x0400007E [(a.toNat, 13), (d.toNat, 7)])
  | .exit => some (wordWith 0x0600007E [])
  | .yield => some (wordWith 0x0800007E [])
  | .stgdone => some (wordWith 0x0A00007E [])
  | .tlbinv b a d => some (wordWith 0x0000007F [(b.toNat, 19), (a.toNat, 13), (d.toNat, 7)])
  | .tlbinva b a d => some (wordWith 0x0200007F [(b.toNat, 19), (a.toNat, 13), (d.toNat, 7)])
  | .tlbsync => some (wordWith 0x0400007F [])
  | .ctxsave b a d => some (wordWith 0x0600007F [(b.toNat, 19), (a.toNat, 13), (d.toNat, 7)])
  | .ctxrest b a d => some (wordWith 0x0800007F [(b.toNat, 19), (a.toNat, 13), (d.toNat, 7)])
  | .slogrp d => some (wordWith 0x0A00007F [(d.toNat, 7)])
  | .slogdrop b a d => some (wordWith 0x0C00007F [(b.toNat, 19), (a.toNat, 13), (d.toNat, 7)])
  | .pgpin a d => some (wordWith 0x0E00007F [(a.toNat, 13), (d.toNat, 7)])
  | .pgunpin a d => some (wordWith 0x1000007F [(a.toNat, 13), (d.toNat, 7)])
  | .stubq a d => some (wordWith 0x1200007F [(a.toNat, 13), (d.toNat, 7)])
  | _ => none

/-- The bytes of an instruction, lowest address first; `none` for an event. -/
def encode (i : Instr) : Option (List Byte) := (encodeWord i).map bytesOfWord

/-- What the decoder reads from an instruction whose bits are `w`: `nbits` of the table, the bits above them zero. -/
noncomputable def decodeTableWord (nbits w : Nat) : Option Instr :=
  match decode (bytesOfWord (w % 2 ^ nbits)) with
  | .ok (i, _) => some i
  | .error _ => none

end Sys2Proof
end

