-- ==== Sys2Proof/Machine/Flags.lean ====
section
/-! DEFINITION. The sticky flags of MST (R89, R96, R156) and the rounding mode of FRM (R87, R97). -/

namespace Sys2Proof.Machine

/-- Raises flags in MST; a NaN cause other than 0 replaces NANC (R89, R96, R156). -/
def mstWith (mst : Word) (flags nanc : Nat) : Word :=
  let m := mst ||| BitVec.ofNat 64 flags
  if nanc = 0 then m else (m &&& ~~~(0xF0000 : Word)) ||| BitVec.ofNat 64 (nanc * 0x10000)

/-- Raises flags in the executing strand's MST. -/
def raiseFlags (flags nanc : Nat) : M Unit := modRegs fun r => { r with mst := mstWith r.mst flags nanc }

/-- Takes a floating result: its flags go to MST. -/
def takeFp (x : FpRes) : M Nat := do
  raiseFlags x.flags x.nanc
  return x.bits

/-- MODE of FRM (R97). -/
def frmMode (r : Regs) : Nat := r.frm.toNat % 8

/-- Rounding mode of scalar operations: stochastic acts as nearest even (R87). -/
def scalarMode (r : Regs) : Nat := if frmMode r = 5 then 0 else frmMode r

end Sys2Proof.Machine
end

