-- ==== Sys2Proof/Machine/Operands.lean ====
section
/-! DEFINITION. The words of instructions from their fields, as XVAL records them (R32, R55), and the vector operand
forms: elements of a register group, masks, active elements, element groups (R17, R106, R111, R166). -/

namespace Sys2Proof.Machine

open Sys2Proof.Config

/-- A word of format SR (R32). -/
def wordSR (major fn b a d : Nat) : Nat := wordWith major [(fn, 25), (b, 19), (a, 13), (d, 7)]

/-- A word of format SC (R32). -/
def wordSC (op c a d : Nat) : Nat := wordWith 0x22 [(op, 30), (c, 19), (a, 13), (d, 7)]

/-- A word of format SI (R32). -/
def wordSI (major i a d : Nat) : Nat := wordWith major [(i, 19), (a, 13), (d, 7)]

/-- A word of format VR, VX or VI (R32). -/
def wordVR (major fn m b a d : Nat) : Nat := wordWith major [(fn, 25), (m, 22), (b, 17), (a, 12), (d, 7)]

/-- A word of format V4 (R32). -/
def wordV4 (neg m c b a d : Nat) : Nat := wordWith 0x42 [(neg, 30), (m, 27), (c, 22), (b, 17), (a, 12), (d, 7)]

/-- A word of format VB (R32). -/
def wordVB (major off c : Nat) : Nat := wordWith major [(off, 10), (c, 7)]

/-- A word of format VM (R32). -/
def wordVM (major nt rq wc m x s d : Nat) : Nat :=
  wordWith major [(nt, 31), (rq, 29), (wc, 26), (m, 23), (x, 18), (s, 12), (d, 7)]

/-- A word of format VA (R32). -/
def wordVA (major w64 ret op m x s d : Nat) : Nat :=
  wordWith major [(w64, 31), (ret, 30), (op, 26), (m, 23), (x, 18), (s, 12), (d, 7)]

/-- A word of format FB (R32). -/
def wordFB (major kind comb fn x b a d : Nat) : Nat :=
  wordWith major [(kind, 30), (comb, 27), (fn, 22), (x, 16), (b, 13), (a, 10), (d, 7)]

/-- A word of format TJ (R32). -/
def wordTJ (major sp vs s v j : Nat) : Nat := wordWith major [(sp, 27), (vs, 22), (s, 16), (v, 11), (j, 7)]

/-- A word of format TT (R32). -/
def wordTT (major zf am jm jb ja t : Nat) : Nat :=
  wordWith major [(zf, 23), (am, 21), (jm, 17), (jb, 13), (ja, 9), (t, 7)]

/-- A word of format FENCE (R32). -/
def wordFence (kind scope : Nat) : Nat := wordWith 0x7A [(kind, 10), (scope, 7)]

/-- Ends a single instruction at issue: XVAL holds its word and its position in its quad (R54, R55). -/
def issueTrap {α : Type} (cause : BitVec 8) (word : Nat) : M α := do
  let r ← getRegs
  raise cause (memberXval word (r.pc.toNat / 4))

/-- A runtime-only instruction at user level (R53, R54). -/
def needRuntime (word : Nat) : M Unit := do
  let r ← getRegs
  if r.level = .user then issueTrap causePriv word else return ()

/-! ### Elements and masks -/

/-- Element `j` of width `w` of the register group at register `d` of a block (R106). -/
def elemRead (bl : Block) (w d j : Nat) : Nat := getField bl.v (d * vregBits + j * w) w

/-- Writes element `j` of width `w` of the register group at register `d` of a block (R106). -/
def elemWrite (bl : Block) (w d j v : Nat) : Block := { bl with v := setField bl.v (d * vregBits + j * w) w v }

/-- Bit `j` of mask register `m` of a block (R109). -/
def maskBit (bl : Block) (m j : Nat) : Bool := getField bl.m (m * maskBits + j) 1 == 1

/-- Writes bit `j` of mask register `m` of a block. -/
def maskWrite (bl : Block) (m j : Nat) (v : Bool) : Block :=
  { bl with m := setField bl.m (m * maskBits + j) 1 (if v then 1 else 0) }

/-- The elements of a block that lie below VL (R17, R174). -/
def belowVl (vl vlb b : Nat) : Nat := min (vl - b * vlb) vlb

/-- Whether the masks let local element `j` act: m0 and the explicit mask if one is named (R33, R111). -/
def maskOn (bl : Block) (m j : Nat) : Bool := maskBit bl 0 j && (m == 0 || maskBit bl m j)

/-- Whether local element `j` of position `b` is active (R111). -/
def isActive (vl vlb b m : Nat) (bl : Block) (j : Nat) : Bool := b * vlb + j < vl && maskOn bl m j

/-- Registers an operand of width `w'` occupies: G′ of R166. -/
def groupRegs (vlb w' : Nat) : Nat :=
  ([1, 2, 4, 8, 16, 32].find? fun g => vlb * w' ≤ g * vregBits).getD 64

/-- The local elements whose lowest bit lies in element group `e` of an operand of width `w` (R106). -/
def groupStart (w e : Nat) : Nat := (e * 2048 + w - 1) / w

/-- Bits of an element group (R106). -/
abbrev groupBits : Nat := 2048

end Sys2Proof.Machine
end

