-- ==== Sys2Proof/Machine/Csr.lean ====
section
/-! DEFINITION. CSR access (R93 to R97, R376 to R379): which numbers name a CSR, what each reads, and what a write does
to each field. -/

namespace Sys2Proof.Machine

/-- SLOGST as it reads (R218). -/
def slogstValue (st : Strand) : Word :=
  BitVec.ofNat 64 (slogCount st + (if st.r.slogOvf then 0x10000 else 0) + (if st.r.slogEn then 0x80000000 else 0))

/-- PRIVST as it reads: the fields of MPLACE (R379, R380). -/
def privstValue (st : Strand) : Word := BitVec.ofNat 64 (placeOf st) &&& 0x3FF03FF1F03

/-- The value of a CSR a strand may name, `none` where the number names none (R95, R376). -/
def csrValue (time : Nat) (st : Strand) (n : Nat) : Option Word :=
  let r := st.r
  match n with
  | 0x000 => some (BitVec.ofNat 64 r.vl)
  | 0x001 => some (r.vt.setWidth 64)
  | 0x002 => some r.vstart
  | 0x003 => some 2048
  | 0x004 => some (BitVec.ofNat 64 (spanOf st))
  | 0x006 => some ((st.blocks.map fun b : Block => b.carry).headD 0)
  | 0x007 => some r.mst
  | 0x008 => some r.frm
  | 0x009 => some r.srseed
  | 0x00A => some r.jshape
  | 0x010 => some r.fprog
  | 0x011 => some r.fcap
  | 0x012 => some (fstValue st)
  | 0x013 => some r.rstg
  | 0x018 => some r.qcnt
  | 0x020 => some r.sid
  | 0x021 => some r.bid
  | 0x022 => some r.stg
  | 0x023 => some r.rid
  | 0x024 => some r.nstr
  | 0x025 => some r.wto
  | 0x030 => some r.cycle
  | 0x031 => some r.acyc
  | 0x032 => some (BitVec.ofNat 64 time)
  | 0x100 => some r.xpc
  | 0x101 => some r.xcause
  | 0x102 => some r.xval
  | 0x103 => some r.xstat
  | 0x104 => some r.xvec
  | 0x105 => some r.xscr
  | 0x106 => some (privstValue st)
  | 0x107 => some r.asid
  | 0x108 => some r.ptbase
  | 0x109 => some (slogstValue st)
  | 0x10A => some r.fmode
  | 0x10B => some r.fragbase
  | 0x10C => some r.watcha
  | _ => none

/-- Whether a number names a CSR a strand may reach (R95, R376). -/
def csrNamed (n : Nat) : Bool :=
  n ≤ 4 || (6 ≤ n && n ≤ 0xA) || (0x10 ≤ n && n ≤ 0x13) || n == 0x18 || (0x20 ≤ n && n ≤ 0x25) || (0x30 ≤ n && n ≤ 0x32) ||
    (0x100 ≤ n && n ≤ 0x10C)

/-- The read-only CSRs (R95, R376). -/
def csrReadOnly (n : Nat) : Bool :=
  n == 0 || n == 1 || n == 3 || n == 4 || n == 0x18 || (0x20 ≤ n && n ≤ 0x24) || (0x30 ≤ n && n ≤ 0x32) || n == 0x106

/-- A write of a CSR (R93): `v` is the computed value and `w1c` the operand bits that clear W1C fields. `none` when the
write would place a reserved value in a field, or the CSR's own rule forbids it. -/
def csrStore (st : Strand) (n : Nat) (v w1c : Word) : Option Strand :=
  let r := st.r
  match n with
  | 0x002 => some { st with r := { r with vstart := v &&& 0x1FFFFFFFF8FFF } }
  | 0x006 => some { st with blocks := st.blocks.map fun b => { b with carry := v } }
  | 0x007 => if v.toNat / 0x10000 % 16 > 6 then none else some { st with r := { r with mst := v &&& 0xF00FF } }
  | 0x008 => if v.toNat % 8 > 5 then none else some { st with r := { r with frm := v &&& 7 } }
  | 0x009 =>
    let x := v &&& 0xFFFFFFFF
    some { st with r := { r with srseed := x }, blocks := st.blocks.zipIdx.map fun (b, i) => { b with gens := seedGens x i } }
  | 0x00A => some { st with r := { r with jshape := v &&& 0x3FFFFFFC00FF } }
  | 0x010 =>
    if v.toNat % 1024 > 512 || v.toNat / 1024 % 1024 > 512 then none
    else some { st with r := { r with fprog := v &&& 0x800FFFFFFFFFFFFF } }
  | 0x011 =>
    let c := v.toNat % 512
    if c < 2 || 256 < c || st.fibres.toList.any (fun f => c < f.pairs.length) then none
    else some { st with r := { r with fcap := BitVec.ofNat 64 c } }
  | 0x012 => some { st with r := { r with fst := BitVec.ofNat 3 (v.toNat / 0x20000000) } }
  | 0x013 => some { st with r := { r with rstg := v &&& 0xFFFFFFFFFFFF } }
  | 0x025 => some { st with r := { r with wto := v } }
  | 0x100 => some { st with r := { r with xpc := v } }
  | 0x101 => some { st with r := { r with xcause := v &&& 0x80000000000000FF } }
  | 0x102 => some { st with r := { r with xval := v } }
  | 0x103 =>
    if v.toNat / 1024 % 8 > 4 then none
    else some { st with r := { r with xstat := (v &&& 0xFC03) ||| (r.xstat &&& 0x100 &&& ~~~w1c) } }
  | 0x104 => some { st with r := { r with xvec := v &&& 0xFFFFFFFFFFF0 } }
  | 0x105 => some { st with r := { r with xscr := v } }
  | 0x107 => some { st with r := { r with asid := v &&& 0xFFFF } }
  | 0x108 => some { st with r := { r with ptbase := v &&& 0x1FFFFFFFFFFF000 } }
  | 0x109 =>
    some { st with r := { r with
      slogEn := v.toNat / 0x80000000 % 2 == 1, slogOvf := r.slogOvf && !(w1c.toNat / 0x10000 % 2 == 1) } }
  | 0x10A => some { st with r := { r with fmode := v &&& 1 } }
  | 0x10B => if st.spilled != 0 then none else some { st with r := { r with fragbase := v &&& 0xFFFFFFFFFF80 } }
  | 0x10C => some { st with r := { r with watcha := v &&& 0xFFFFFFFFFF87 } }
  | _ => none

/-- The checks of a CSR number (R22, R53): PRIV above the strand's level, ILLOP where it names no CSR. -/
def csrCheck (level : Level) (n : Nat) : Option (BitVec 8) :=
  if 0x200 ≤ n && n < 0x300 then some causePriv
  else if 0x100 ≤ n && n < 0x200 && level = .user then some causePriv
  else if 0x300 ≤ n then some causeIllop
  else none

/-- The value an operation gives the CSR's read-write fields (R93). -/
def csrCompute (op : Nat) (old x : Word) : Word :=
  match op with
  | 0 => x
  | 1 => old ||| x
  | _ => old &&& ~~~x

/-- Time passes before a read of a clock (R95): the free values of Config.
DESIGN CHOICE (log entry 8). DEDUCED (log entry 54). -/
def passTime (n : Nat) : M Unit := do
  if n = 0x032 then modify fun s => { s with time := s.time + Config.elapsed s.fresh, fresh := s.fresh + 1 }
  else if n = 0x030 then
    let s ← get
    modRegs fun r => { r with cycle := r.cycle + BitVec.ofNat 64 (Config.cycles s.fresh) }
    modify fun s => { s with fresh := s.fresh + 1 }
  else if n = 0x031 then
    let s ← get
    modRegs fun r => { r with acyc := r.acyc + BitVec.ofNat 64 (Config.cycles s.fresh) }
    modify fun s => { s with fresh := s.fresh + 1 }

/-- One CSR instruction (R93): op 0 replaces, 1 sets, 2 clears, 3 reads. -/
def csrOp (op : Nat) (c : BitVec 11) (a d : BitVec 6) : M Unit := do
  let word := wordSC op c.toNat a.toNat d.toNat
  let n := c.toNat
  let r ← getRegs
  match csrCheck r.level n with
  | some cause => issueTrap cause word
  | none =>
    passTime n
    -- a read of MST waits until the truss holds no multiply (R270)
    if n = 0x007 then modStrand fun st => { st with multiplies := [] }
    let st ← getStrand
    let s ← get
    match csrValue s.time st n with
    | none => issueTrap causeIllop word
    | some v =>
      let x := regRead st.r a.toNat
      let writes := op = 0 || (op != 3 && a != 0)
      if writes then
        if csrReadOnly n then issueTrap causeIllop word
        else
          match csrStore st n (csrCompute op v x) (if a = 0 then 0 else x) with
          | none => issueTrap causeIllop word
          | some st' => setStrand st'
      ws d v

/-- CXCH (R93). -/
def execCxch (c : BitVec 11) (a d : BitVec 6) (s : State) : Result := runSeq (csrOp 0 c a d) s

/-- CSETB (R93). -/
def execCsetb (c : BitVec 11) (a d : BitVec 6) (s : State) : Result := runSeq (csrOp 1 c a d) s

/-- CCLRB (R93). -/
def execCclrb (c : BitVec 11) (a d : BitVec 6) (s : State) : Result := runSeq (csrOp 2 c a d) s

/-- CREAD (R93). -/
def execCread (c : BitVec 11) (d : BitVec 6) (s : State) : Result := runSeq (csrOp 3 c 0 d) s

end Sys2Proof.Machine
end

