-- ==== Sys2Proof/Machine/Convoy.lean ====
section
/-! DEFINITION. Convoys (R38 to R41, R113 to R120): members, the checks at issue of R54, R55 and R119, the commit element
group by element group or as a whole, and what a trap or a wait leaves; the frame of every elementwise member (R111,
R112). -/

namespace Sys2Proof.Machine

open Sys2Proof.Config

/-- Pipe classes (R38). -/
inductive Pipe where
  | fp
  | int
  | mem
  | ft
  deriving DecidableEq, Repr

/-- What a member performs at once: element group `e`, which is local elements `lo` up to `hi` of every block; whether
it is the first or the last part of the convoy. A whole member gets one span over everything. -/
structure Span where
  e : Nat
  lo : Nat
  hi : Nat
  first : Bool
  last : Bool
  /-- the member's position in its quad, for XVAL (R55) -/
  pos : Nat := 0
  /-- the one bay position an elementwise member acts on, every one when there is none -/
  only : Option Nat := none
  deriving DecidableEq, Repr

/-- The span of a convoy that commits once (R116). -/
def wholeSpan : Span := { e := 0, lo := 0, hi := 65536, first := true, last := true }

/-- What is kept of a state whose instruction or element group ended early: the state before, with the free values
used, SLOGST.OVF (R217), XSTAT and MS2FLT (R387) of the state after, and its requests to other parties (R411). -/
def rollback (pre err : State) : State :=
  match strandOf pre, strandOf err with
  | some p, some e =>
    putStrand { pre with fresh := err.fresh, outReqs := err.outReqs, pageSeq := err.pageSeq }
      { p with
        r := { p.r with slogOvf := e.r.slogOvf, xstat := e.r.xstat }
        blocks := List.zipWith (fun (a b : Block) => { a with ms2flt := b.ms2flt }) p.blocks e.blocks }
  | _, _ => { pre with fresh := err.fresh }

/-- What a vector atomic has done over a range of spans (R285, R286): every element of the spans before `limit` is
performed, in ascending element index across the whole strand; `stop` is why it ended there. `write` writes the old
values of a span. -/
structure AmoDone where
  limit : Nat
  stop : Option Stop
  write : Span → Strand → Strand

/-- A member of a convoy (R38 to R41). -/
structure Member where
  pipe : Pipe
  /-- it commits only with every group of the convoy (R116) -/
  whole : Bool
  /-- a check at issue that raises ILLOP fails (R54) -/
  bad : Strand → Bool
  /-- the width in bits of its widest operand (R166) -/
  width : Regs → Nat
  run : Span → M Unit
  /-- what survives its own trap or wait, from the state before the group (or the whole convoy) and the state it left -/
  keep : State → State → State
  /-- vector registers it reads, for the readers of a VAMO's old values (R115) -/
  readsV : Regs → List Nat
  /-- the registers a VAMO returns old values to (R115) -/
  oldTo : Regs → List Nat
  /-- of a vector atomic: performs the elements of spans in ascending element index (R285) -/
  amo : Option (List Span → M AmoDone) := none

/-- A member that keeps nothing of its own at a trap and returns no old values. -/
def plainMember (pipe : Pipe) (whole : Bool) (bad : Strand → Bool) (width : Regs → Nat) (run : Span → M Unit) : Member :=
  { pipe := pipe, whole := whole, bad := bad, width := width, run := run, keep := rollback, readsV := fun _ => [],
    oldTo := fun _ => [] }

/-! ### Checks at issue -/

/-- The cause of a word that is no instruction (R54). -/
def rejectCause : Reject → BitVec 8
  | .reservedField => causeIllop
  | _ => causeIllins

/-- Members of one pipe a convoy may hold (R40). -/
def pipeLimit : Pipe → Nat
  | .fp => 2
  | _ => 1

/-- The first failing member of a convoy in word order: its position in the list and its cause (R54, R55).
DEDUCED (log entry 25). -/
def convoyFault (st : Strand) (before : List Pipe) (k : Nat) : List (Except Reject Member) → Option (Nat × BitVec 8)
  | [] => none
  | .error e :: _ => some (k, rejectCause e)
  | .ok m :: t =>
    if (before.filter (· == m.pipe)).length ≥ pipeLimit m.pipe then some (k, causeIllins)
    else if m.bad st then some (k, causeIllop)
    else convoyFault st (before ++ [m.pipe]) (k + 1) t

/-- The members of a convoy that passed its checks, with their positions in the quad; the first one stands at `pos`. -/
def okMembers (pos : Nat) (ws : List (Except Reject Member)) : List (Nat × Member) :=
  ws.zipIdx.filterMap fun
    | (.ok m, k) => some ((pos + k) % 4, m)
    | (.error _, _) => none

/-- The width that counts a convoy's element groups: its widest operand (R166), so that R41 holds across its members. -/
def convoyWidth (r : Regs) (ms : List (Nat × Member)) : Nat := ms.foldl (fun w m => max w (m.2.width r)) 1

/-- Element groups of an entry whose widest operand has `w` bits (R106, R166). DEDUCED (log entry 25). -/
def groupCount (r : Regs) (w : Nat) : Nat := 8 * groupRegs (vlbOf r.vt) w

/-- FRAME, EGRP, FPOS and RIDX of VSTART (R118). -/
def vstartFrame (v : Word) : Bool := v.toNat / 2 ^ 15 % 2 == 1
def vstartEgrp (v : Word) : Nat := v.toNat % 256
def vstartFpos (v : Word) : Nat := v.toNat / 256 % 16
def vstartRidx (v : Word) : Nat := v.toNat / 65536 % 2 ^ 33

/-- R119 for a convoy: the group it begins at, or `none` for ILLOP. DEDUCED (log entry 27). -/
def startGroup (r : Regs) (ms : List (Nat × Member)) : Option Nat :=
  if r.vstart = 0 then some 0
  else if vstartFrame r.vstart then none
  else if ms.any (·.2.whole) && vstartEgrp r.vstart != 0 then none
  else if vstartEgrp r.vstart ≥ groupCount r (convoyWidth r ms) then none
  else some (vstartEgrp r.vstart)

/-! ### Commit -/

/-- Where a convoy stops: the stop, the element group for VSTART, and the state. -/
structure ConvoyStop where
  x : Stop
  group : Nat
  s : State

/-- The span of element group `e` of `n`, of a convoy that begins at group `start`. -/
def groupSpan (w n start e : Nat) : Span :=
  { e := e, lo := groupStart w e, hi := if e + 1 = n then 65536 else groupStart w (e + 1), first := e = start,
    last := e + 1 = n }

/-- What is kept of the state before a group when a reader of a VAMO's old values traps: its atomic elements stay
performed, and no register changes (R115). -/
def keepAtomics (pre after : State) : State :=
  match strandOf pre, strandOf after with
  | some p, some a => putStrand after { p with pending := a.pending }
  | _, _ => pre

/-- Renames the marks of writes whose instruction is in progress. -/
def markFresh (f : Nat → Option Nat) (s : State) : State :=
  match strandOf s with
  | some st => putStrand s { st with pending := st.pending.map fun w => { w with fresh := w.fresh.bind f } }
  | none => s

/-- A member begins: its own earlier writes are marked as those of the member that runs (R197). -/
def enterMember (pos : Nat) : State → State := markFresh fun k => if k = pos + 1 then some 0 else some k

/-- A member has run its part: its writes carry its position. -/
def leaveMember (pos : Nat) : State → State := markFresh fun k => if k = 0 then some (pos + 1) else some k

/-- One member on one span. -/
def runMember (pos : Nat) (m : Member) (sp : Span) (s : State) : EStateM.Result Stop State Unit :=
  match m.run { sp with pos := pos } (enterMember pos s) with
  | .ok _ s' => .ok () (leaveMember pos s')
  | .error x s' => .error x (leaveMember pos s')

/-- The members, in word order, on one span (R41); at a stop nothing of the span is kept but what R115, R117 and the
member's own entry keep: atomics whose old values a trapping member reads stay performed. `amo` is the state after a VAMO
with ret = 1, and the registers of its old values. -/
def runMembers (sp : Span) (pre : State) (amo : Option (List Nat × State)) :
    List (Nat × Member) → State → Except (Stop × State) State
  | [], s => .ok s
  | (pos, m) :: t, s =>
    match runMember pos m sp s with
    | .ok _ s' =>
      let vs := (strandOf s).elim [] fun st => m.oldTo st.r
      runMembers sp pre (if vs.isEmpty then amo else some (vs, s')) t s'
    | .error x s' =>
      let base :=
        match x, amo, strandOf s with
        | .trap _, some (vs, sa), some st => if (m.readsV st.r).any fun v => vs.contains v then keepAtomics pre sa else pre
        | _, _, _ => pre
      .error (x, m.keep base s')

/-- Commits the last `k` groups before `stop`, in ascending order (R115, R117). -/
def groupLoop (ms : List (Nat × Member)) (w n start : Nat) : Nat → Nat → State → Except ConvoyStop State
  | 0, _, s => .ok s
  | k + 1, stop, s =>
    let e := stop - (k + 1)
    match runMembers (groupSpan w n start e) s none ms s with
    | .ok s' => groupLoop ms w n start k stop s'
    | .error (x, s') => .error { x := x, group := e, s := s' }

/-! ### The order of draws (R158) -/

/-- The lane generators of a state's strand, position by position. -/
def lanesOf (s : State) : List (BitVec 32) := (strandOf s).elim [] fun st => st.blocks.flatMap fun bl => bl.gens.toList

/-- The state with the lane generators of its strand set. -/
def withLanes (g : List (BitVec 32)) (s : State) : State :=
  match strandOf s with
  | some st =>
    let put := fun (x : Block × Nat) => { x.1 with gens := Vector.ofFn fun i : Fin 64 => g.getD (64 * x.2 + i.val) 0 }
    putStrand s { st with blocks := st.blocks.zipIdx.map put }
  | none => s

/-- How many draws lead from one generator state to another; the number bounds them. -/
def drawsTo : Nat → BitVec 32 → BitVec 32 → Nat
  | 0, _, _ => 0
  | n + 1, x, y => if x = y then 0 else 1 + drawsTo n (drawNext x) y

/-- A generator after some draws. -/
def drawTimes : Nat → BitVec 32 → BitVec 32
  | 0, x => x
  | n + 1, x => drawTimes n (drawNext x)

/-- The draws of each lane between two states; no part of a member draws more than 8192 times in one lane. -/
def laneDraws (s s' : State) : List Nat :=
  if lanesOf s == lanesOf s' then [] else ((lanesOf s).zip (lanesOf s')).map fun x => drawsTo 8192 x.1 x.2

/-- MST.NANC of a state's strand (R96). -/
def nancOf (s : State) : Nat := (strandOf s).elim 0 fun st => st.r.mst.toNat / 2 ^ 16 % 16

/-- The state with MST.NANC of its strand set. -/
def withNanc (c : Nat) (s : State) : State :=
  match strandOf s with
  | some st => putStrand s { st with r := { st.r with mst := (st.r.mst &&& ~~~(0xF0000 : Word)) ||| BitVec.ofNat 64 (c % 16 * 2 ^ 16) } }
  | none => s

/-- What one member did in one element group, or a whole member in all: the NaN cause it left at each bay position (a whole
member's in one), 0 for none, and the draws it took from each lane. -/
structure MemberPart where
  causes : List Nat
  draws : List Nat
  deriving DecidableEq, Repr

/-- A part of a member in pieces, which leave their NaN causes one by one: an elementwise floating member position by
position, any other as a whole. -/
def partSpans (m : Member) (sp : Span) (s : State) : List Span :=
  let n := (strandOf s).elim 1 fun st => st.blocks.length
  if m.pipe == .fp && !m.whole && decide (1 < n) then (List.range n).map fun b => { sp with only := some b } else [sp]

/-- The pieces of a part in turn, with the NaN cause of each; `none` when one stops. -/
def runPieces (pos : Nat) (m : Member) : List Span → State → Option (State × List Nat)
  | [], s => some (s, [])
  | sp :: t, s =>
    match runMember pos m sp (withNanc 0 s) with
    | .ok _ s' => (runPieces pos m t s').map fun x => (x.1, nancOf s' :: x.2)
    | .error _ _ => none

/-- One part of a member, its generators set where `lanes` says. -/
def memberPart (pos : Nat) (m : Member) (sp : Span) (lanes : Option (List (BitVec 32))) (s : State) : Option (State × MemberPart) :=
  let s := lanes.elim s fun g => withLanes g s
  (runPieces pos m (partSpans m sp s) s).map fun x => (x.1, { causes := x.2, draws := laneDraws s x.1 })

/-- One member on spans in turn, the `e`-th next; `none` when it stops. -/
def memberParts (pos : Nat) (m : Member) (lanes : Nat → Option (List (BitVec 32))) :
    Nat → List Span → State → Option (State × List MemberPart)
  | _, [], s => some (s, [])
  | e, sp :: t, s =>
    match memberPart pos m sp (lanes e) s with
    | none => none
    | some (s', x) => (memberParts pos m lanes (e + 1) t s').map fun y => (y.1, x :: y.2)

/-- What one member after another makes of a convoy (R41): the state, and the parts of each member. -/
structure InTurn where
  s : State
  parts : List (List MemberPart)

/-- The members one after another, each on its spans (R41); `none` when one of them stops. `lanes` gives the generators of
member `i` in its part `e`. -/
def inTurn (spans : Member → List Span) (lanes : Nat → Nat → Option (List (BitVec 32))) :
    Nat → List (Nat × Member) → InTurn → Option InTurn
  | _, [], x => some x
  | i, (pos, m) :: t, x =>
    match memberParts pos m (lanes i) 0 (spans m) x.s with
    | some (s', ps) => inTurn spans lanes (i + 1) t { s := s', parts := x.parts ++ [ps] }
    | none => none

/-- Where a member's draws stand among those of its convoy: behind each whole member before it that draws, whose own draws
follow those of the members before it (R158, R178). -/
def drawRanks (wholes : List Bool) (parts : List (List MemberPart)) : List Nat :=
  ((wholes.zip parts).foldl (fun (acc : List Nat × Nat) (x : Bool × List MemberPart) =>
    if x.1 && x.2.any fun p => !p.draws.isEmpty then (acc.1 ++ [acc.2 + 1], acc.2 + 2) else (acc.1 ++ [acc.2], acc.2)) ([], 0)).1

/-- The draws a lane takes before part `e` of member `i`: within an element group the members draw in word order (R158). -/
def drawsBefore (ranks : List Nat) (parts : List (List MemberPart)) (i e lane : Nat) : Nat :=
  let r := ranks.getD i 0
  (parts.zipIdx.map fun (ps, j) =>
    (ps.zipIdx.map fun (p, f) =>
      let q := ranks.getD j 0
      if q < r || (q == r && (f < e || (f == e && j < i))) then p.draws.getD lane 0 else 0).foldl (· + ·) 0).foldl (· + ·) 0

/-- The generators of part `e` of member `i`, from those at the convoy's start. -/
def lanesAt (g : List (BitVec 32)) (ranks : List Nat) (parts : List (List MemberPart)) (i e : Nat) : List (BitVec 32) :=
  g.zipIdx.map fun (x, lane) => drawTimes (drawsBefore ranks parts i e lane) x

/-- The draws of every part of every member. -/
def drawsOf (parts : List (List MemberPart)) : List (List (List Nat)) := parts.map fun ps => ps.map (·.draws)

/-- The members run again, up to `n` times, with the generators that the order of R158 gives each part by the draws of the run
before, until a run draws as the one before it did: what a part draws may rest on what the parts before it drew.
DEDUCED (log entry 25). -/
def settleDraws (spans : Member → List Span) (ms : List (Nat × Member)) (s : State) : Nat → InTurn → Option InTurn
  | 0, x => some x
  | n + 1, x =>
    let ranks := drawRanks (ms.map (·.2.whole)) x.parts
    match inTurn spans (fun i e => some (lanesAt (lanesOf s) ranks x.parts i e)) 0 ms { s := s, parts := [] } with
    | none => none
    | some y =>
      if drawsOf y.parts == drawsOf x.parts then
        some { y with s := withLanes (lanesAt (lanesOf s) (ranks ++ [ranks.foldl max 0 + 1]) x.parts ms.length 0) y.s }
      else settleDraws spans ms s n y

/-- The members of a convoy one after another (R41), where two of them draw with the generators of R158: the draws of the
parts settle one after another in its order. DEDUCED (log entry 25). -/
def inOrder (spans : Member → List Span) (ms : List (Nat × Member)) (s : State) : Option InTurn :=
  match inTurn spans (fun _ _ => none) 0 ms { s := s, parts := [] } with
  | none => none
  | some x =>
    if (x.parts.filter fun ps => ps.any fun p => !p.draws.isEmpty).length ≤ 1 then some x
    else settleDraws spans ms s (2 + (x.parts.map List.length).foldl (· + ·) 0) x

/-- The last NaN cause of a list, 0 for none; `old` where there is none. -/
def lastOf (old : Nat) (causes : List Nat) : Nat := causes.foldl (fun a c => if c = 0 then a else c) old

/-- NANC after a convoy whose groups commit in ascending order: of the last group that has one the last cause, by member and
position (R156). -/
def lastCause (old groups : Nat) (parts : List (List MemberPart)) : Nat :=
  lastOf old ((List.range groups).flatMap fun e => parts.flatMap fun ps => (ps[e]?).elim [] (·.causes))

/-- The NaN causes of a member whose groups commit at once, by position and then group (R156). -/
def byPosition (ps : List MemberPart) : List Nat :=
  (List.range (ps.foldl (fun n p => max n p.causes.length) 0)).flatMap fun b => ps.map fun p => p.causes.getD b 0

/-- The convoy's members one after another (R41), each on the spans `spans` gives it, with NANC in the order of R156; one
that a member stops goes group by group. -/
def commitSpans (spans : Member → List Span) (ms : List (Nat × Member)) (w n start stop : Nat) (s : State) :
    Except ConvoyStop State :=
  match inOrder spans ms s with
  | some x => .ok (withNanc (lastCause (nancOf s) (stop - start) x.parts) x.s)
  | none => groupLoop ms w n start (stop - start) stop s

/-- The spans of element groups `start` to `stop` − 1 of `n`. -/
def groupSpans (w n start stop : Nat) : List Span := (List.range (stop - start)).map fun i => groupSpan w n start (start + i)

/-- Element groups `start` to `stop` − 1 of `n` as one span, which a member performs position by position. -/
def joinedSpan (w n start stop : Nat) : Span :=
  { groupSpan w n start (stop - 1) with e := start, lo := groupStart w start, first := true }

/-- Whether groups of a strand of several positions have been committed whose vector accesses touched a strongly ordered page
(R307). -/
def touchedStrong (x : Except ConvoyStop State) : Bool :=
  let s := match x with
    | .ok s => s
    | .error c => c.s
  (strandOf s).any fun st => st.strongNow && decide (1 < st.blocks.length)

/-- Commits the groups from `start` up to `stop` of `n`. A convoy of several members that none stops has the effect of its
members one after another (R41), with NANC in the order of R156 and the draws in that of R158; a stop goes group by
group. On strongly ordered pages the memory member's accesses go in ascending element index across the whole span (R307),
those of the groups before the one that stops where one does (R117). DEDUCED (log entry 25). -/
def commitGroups (ms : List (Nat × Member)) (w n start stop : Nat) (s : State) : Except ConvoyStop State :=
  let byGroup :=
    if ms.length ≤ 1 || stop ≤ start then groupLoop ms w n start (stop - start) stop s
    else commitSpans (fun _ => groupSpans w n start stop) ms w n start stop s
  let ascending := fun (stop : Nat) =>
    commitSpans (fun m => if m.pipe == .mem then [joinedSpan w n start stop] else groupSpans w n start stop) ms w n start stop s
  if start + 1 < stop && ms.any (·.2.pipe == .mem) && touchedStrong byGroup then
    match byGroup with
    | .ok _ => ascending stop
    | .error c =>
      if c.group ≤ start + 1 then byGroup
      else
        match ascending c.group with
        | .ok s' => groupLoop ms w n start (stop - c.group) stop s'
        | .error c' => .error c'
  else byGroup

/-- Commits a convoy with a whole member, which commits once (R116): the whole members act on everything at once, the others
on their groups in turn. -/
def commitWhole (ms : List (Nat × Member)) (w n : Nat) (s : State) : Except ConvoyStop State :=
  let once := fun (_ : Unit) =>
    match runMembers wholeSpan s none ms s with
    | .ok s' => Except.ok s'
    | .error (x, s') => .error { x := x, group := 0, s := s' }
  if ms.length ≤ 1 then once ()
  else
    match inOrder (fun m => if m.whole then [wholeSpan] else (List.range n).map fun e => groupSpan w n 0 e) ms s with
    | some x => .ok (withNanc (lastOf (nancOf s) (x.parts.flatMap byPosition)) x.s)
    | none => once ()

/-- The strand with the vector registers, masks, carry cells, generators and MST of another state's strand. -/
def withVectors (from_ s : State) : State :=
  match strandOf from_, strandOf s with
  | some a, some b =>
    let bls := List.zipWith (fun (x y : Block) => { y with v := x.v, m := x.m, carry := x.carry, gens := x.gens }) a.blocks b.blocks
    putStrand s { b with r := { b.r with mst := a.r.mst }, blocks := bls }
  | _, _ => s

/-- A convoy with a vector atomic, over groups `start` to `stop` − 1 of `n`: the members before it give its operands; it
performs its elements across those groups in ascending element index (R285); then every group it completed commits, all
members in word order (R41, R158). -/
def amoLoop (before : List (Nat × Member)) (pos : Nat) (perform : List Span → M AmoDone) (after : List (Nat × Member))
    (w n start stop : Nat) (s : State) : Except ConvoyStop State :=
  match commitGroups before w n start stop s with
  | .error c => .error c
  | .ok s1 =>
    let spans := (groupSpans w n start stop).map fun sp => { sp with pos := pos }
    match perform spans (enterMember pos s1) with
    | .error x s2 => .error { x := x, group := start, s := rollback s s2 }
    | .ok d s2 =>
      let s2 := leaveMember pos s2
      let writer := plainMember .mem false (fun _ => false) (fun _ => 1) fun sp => modStrand (d.write sp)
      let ms := before ++ [(pos, writer)] ++ after
      match commitGroups ms w n start d.limit (withVectors s s2) with
      | .error c => .error c
      | .ok s3 =>
        match d.stop with
        | none => .ok s3
        | some x => .error { x := x, group := d.limit, s := s3 }

/-- The members before a vector atomic, it, and those after it. -/
def splitAmo : List (Nat × Member) → Option (List (Nat × Member) × Nat × (List Span → M AmoDone) × List (Nat × Member))
  | [] => none
  | x :: t =>
    match x.2.amo with
    | some f => some ([], x.1, f, t)
    | none => (splitAmo t).map fun y => (x :: y.1, y.2)

/-- Performs the members of a convoy from element group `start` up to `stop`, all groups when there is none: group by
group, or, when one of them is whole, each member all its groups with one commit at the end (R116).
DEDUCED (log entries 25, 52). -/
def performGroups (ms : List (Nat × Member)) (start : Nat) (stop : Option Nat) (s : State) : Except ConvoyStop State :=
  match strandOf s with
  | none => .error { x := .fault .noStrand, group := 0, s := s }
  | some st =>
    let w := convoyWidth st.r ms
    let n := groupCount st.r w
    if ms.any (·.2.whole) then commitWhole ms w n s
    else
      let stop := stop.getD n
      match splitAmo ms with
      | none => commitGroups ms w n start stop s
      | some (before, pos, f, after) => amoLoop before pos f after w n start stop s

/-- Where the commit of element group `g` alone ends: behind it, or behind the convoy's last group where a strand of several
positions must perform the rest in ascending element index across its whole span: a vector atomic's elements (R285), and
accesses to strongly ordered pages (R307). DEDUCED (log entry 25). -/
def commitStop (ms : List (Nat × Member)) (g : Nat) (s : State) : Option Nat :=
  let spans := (strandOf s).any fun st => decide (1 < st.blocks.length)
  if spans && (ms.any (·.2.amo.isSome) || touchedStrong (performGroups ms g (some (g + 1)) s)) then none else some (g + 1)

/-- A convoy's accesses are over: what it has stored is open to later stores of its stream like any other store (R309). -/
def closeConvoy (s : State) : State :=
  match strandOf s with
  | some st => putStrand s { st with pending := st.pending.map fun w => { w with fresh := none }, strongNow := false }
  | none => s

/-- Performs the members of a convoy from element group `start` up to `stop`, all groups when there is none.
DEDUCED (log entry 25). -/
def performConvoy (ms : List (Nat × Member)) (start : Nat) (stop : Option Nat) (s : State) : Except ConvoyStop State :=
  match performGroups ms start stop s with
  | .ok s' => .ok (closeConvoy s')
  | .error c => .error { c with s := closeConvoy c.s }

/-- The strand with a new VSTART. DEDUCED (log entry 27). -/
def setVstart (s : State) (v : Word) : State :=
  match strandOf s with
  | some st => putStrand s { st with r := { st.r with vstart := v } }
  | none => s

/-- VSTART of a convoy that stops in element group `e` outside a frame (R117). -/
def vstartOf (e : Nat) : Word := BitVec.ofNat 64 (e % 256)

/-- A convoy that has stopped: a trap records the group in VSTART; a wait leaves the convoy in progress (R117). -/
def convoyStopped (words : List (BitVec 32)) (c : ConvoyStop) : Result :=
  match c.x with
  | .trap t => .next (takeTrap (setVstart c.s (vstartOf c.group)) t)
  | .wait w =>
    match strandOf c.s with
    | some st =>
      let f : Inflight := { pc := st.r.pc, words := words, group := c.group, frame := none }
      .next (putStrand c.s { st with wait := w, inflight := some f })
    | none => .fault .noStrand
  | .fault f => .fault f

/-- A convoy that has committed: VSTART is zero and fetch goes on after its last word (R118, R119). -/
def convoyDone (n : Nat) (s : State) : Result :=
  match strandOf s with
  | some st => .next (putStrand s (retired { st with r := { st.r with vstart := 0 } } (st.r.pc + BitVec.ofNat 64 (4 * n))))
  | none => .fault .noStrand

/-- XVAL of a check at issue of the k-th word of a run at `pc` (R55). -/
def runXval (pc : Word) (words : List Nat) (k : Nat) : Word := memberXval (words.getD k 0) (pc.toNat / 4 + k)

/-- Issues the convoy whose words and members are given, at the executing strand's pc (R39 to R41, R54, R55, R113 to
R119). A convoy that waited goes on at the group it waited in; the ILLOP of a VSTART that R119 refuses names the convoy's
first word. DEDUCED (log entries 25, 27, 52). -/
def runConvoy (words : List Nat) (ws : List (Except Reject Member)) (s : State) : Result :=
  match strandOf s with
  | none => .fault .noStrand
  | some st =>
    match convoyFault st [] 0 ws with
    | some (k, cause) => .next (takeTrap s { cause := cause, xval := runXval st.r.pc words k })
    | none =>
      let ms := okMembers (st.r.pc.toNat / 4) ws
      match startGroup st.r ms with
      | none => .next (takeTrap s { cause := causeIllop, xval := runXval st.r.pc words 0 })
      | some g =>
        let start :=
          match st.inflight with
          | some f => if f.pc = st.r.pc then f.group else g
          | none => g
        match performConvoy ms start none s with
        | .ok s' => convoyDone words.length s'
        | .error c => convoyStopped (words.map (BitVec.ofNat 32)) c

/-- A convoy of one member. -/
def runSolo (word : Nat) (m : Member) (s : State) : Result := runConvoy [word] [.ok m] s

/-! ### Elementwise members -/

/-- What the elements of one position change: the block and MST. -/
structure Cell where
  bl : Block
  mst : Word
  deriving DecidableEq, Repr

/-- `f` on the numbers from `j` on, `n` of them. -/
def loopFrom {α : Type} (f : Nat → α → α) (j : Nat) : Nat → α → α
  | 0, x => x
  | n + 1, x => loopFrom f (j + 1) n (f j x)

/-- An action on every position in turn, position `b` first. -/
def overBlocks (f : Nat → Cell → Cell) (b : Nat) (mst : Word) : List Block → List Block × Word
  | [] => ([], mst)
  | bl :: t =>
    let c := f b { bl := bl, mst := mst }
    let (bs, m) := overBlocks f (b + 1) c.mst t
    (c.bl :: bs, m)

/-- The strand after an action on every position. -/
def onBlocks (f : Nat → Cell → Cell) (st : Strand) : Strand :=
  let (bs, m) := overBlocks f 0 st.r.mst st.blocks
  { st with blocks := bs, r := { st.r with mst := m } }

/-- One destination element by R111: `act` when it is active, `zero` when it is masked off with MZ = 1 or is tail with
TZ = 1. -/
def elemStep (r : Regs) (m b : Nat) (act zero : Nat → Cell → Cell) (j : Nat) (c : Cell) : Cell :=
  if b * vlbOf r.vt + j < r.vl then
    if maskOn c.bl m j then act j c else if vtMz r.vt then zero j c else c
  else if vtTz r.vt then zero j c else c

/-- The end of the elements that R111 gives an outcome in a block: all of them with TZ = 1, else those below VL. What a
destination holds behind local element VLB − 1 stays. DESIGN CHOICE (log entry 58). -/
def elemEnd (r : Regs) (b : Nat) : Nat := if vtTz r.vt then vlbOf r.vt else belowVl r.vl (vlbOf r.vt) b

/-- The elements of a span in every block, or in its only one, by R111 and R112. -/
def elementwise (m : Nat) (act zero : Nat → Regs → Nat → Cell → Cell) (sp : Span) (st : Strand) : Strand :=
  if st.r.vl = 0 then st
  else onBlocks (fun b c =>
    if sp.only.any (· != b) then c
    else loopFrom (elemStep st.r m b (act b st.r) (zero b st.r)) sp.lo (min sp.hi (elemEnd st.r b) - sp.lo) c) st

/-- An element of width `w` of group `d` written. -/
def cellWrite (w d j v : Nat) (c : Cell) : Cell := { c with bl := elemWrite c.bl w d j v }

/-- A mask bit written. -/
def cellMask (d j : Nat) (v : Bool) (c : Cell) : Cell := { c with bl := maskWrite c.bl d j v }

/-- Flags raised by an element (R156). -/
def cellFlags (flags nanc : Nat) (c : Cell) : Cell := { c with mst := mstWith c.mst flags nanc }

/-- A floating result written, with its flags. -/
def cellFp (w d j : Nat) (x : FpRes) (c : Cell) : Cell := cellFlags x.flags x.nanc (cellWrite w d j x.bits c)

/-- The draw of a local element when the mode is stochastic (R158). -/
def cellDraw (mode j : Nat) (c : Cell) : Nat × Cell :=
  if mode = 5 then
    let x := drawNext (c.bl.gens.getD (j % 64) 0)
    (x.toNat, { c with bl := { c.bl with gens := c.bl.gens.setIfInBounds (j % 64) x } })
  else (0, c)

/-- A register field is a multiple of the number of registers it names (R37, R166). -/
def aligned (g d : Nat) : Bool := d % g == 0

/-- R37 for fields of the width of VT.FMT. -/
def alignedAll (st : Strand) (ds : List Nat) : Bool := ds.all (aligned (vtG st.r.vt))

/-- The second operand of a vector instruction (R134, R161): a group, a scalar register, or a value. -/
inductive Src where
  | v (n : Nat)
  | s (n : Nat)
  | i (v : Nat)
  deriving DecidableEq, Repr

/-- The second operand of local element `j` in `w` bits (R134). -/
def srcValue (x : Src) (r : Regs) (w j : Nat) (bl : Block) : Nat :=
  match x with
  | .v n => elemRead bl w n j
  | .s n => (regRead r n).toNat % 2 ^ w
  | .i v => v % 2 ^ w

/-- Register fields of a second operand. -/
def srcFields : Src → List Nat
  | .v n => [n]
  | _ => []

end Sys2Proof.Machine
end

