-- ==== Sys2Proof/Machine/VecInt.lean ====
section
/-! DEFINITION. Vector integer arithmetic and compares (R133 to R137), moves (R138, R139) and mask instructions (R140,
R141): each instruction's member and its meaning alone in a convoy. -/

namespace Sys2Proof.Machine

open Sys2Proof.Config

/-- Widths of integer arithmetic, compares and reductions (R133). -/
def intWidth (vt : BitVec 13) : Bool := [8, 16, 32, 64].contains (vtWidth vt)

/-- An integer result and whether it was clamped. -/
structure IntRes where
  v : Nat
  sat : Bool := false
  deriving DecidableEq, Repr

/-- An exact integer clamped to an interval, in `w` bits (R135). -/
def clampInt (w : Nat) (lo hi x : Int) : IntRes :=
  if x < lo then { v := intBits w lo, sat := true }
  else if hi < x then { v := intBits w hi, sat := true }
  else { v := intBits w x }

/-- Signed clamping (R135: VSADD, VSSUB). -/
def clampSigned (w : Nat) (x : Int) : IntRes := clampInt w (-(2 ^ (w - 1) : Nat)) ((2 ^ (w - 1) : Nat) - 1) x

/-- Unsigned clamping (R135: VSADDU, VSSUBU). -/
def clampUnsigned (w : Nat) (x : Int) : IntRes := clampInt w 0 ((2 ^ w : Nat) - 1) x

/-- The functions of R135 on the operands a and b and the old destination d. -/
abbrev IntFn := Nat → Nat → Nat → Nat → IntRes

/-- VADD (R135). -/
def viAdd : IntFn := fun w a b _ => { v := (a + b) % 2 ^ w }

/-- VSUB (R135). -/
def viSub : IntFn := fun w a b _ => { v := (a + 2 ^ w - b) % 2 ^ w }

/-- VRSUB (R135). -/
def viRsub : IntFn := fun w a b _ => { v := (b + 2 ^ w - a) % 2 ^ w }

/-- VMUL (R135). -/
def viMul : IntFn := fun w a b _ => { v := a * b % 2 ^ w }

/-- VMULH (R135). -/
def viMulh : IntFn := fun w a b _ => { v := intBits w (signedOf w a * signedOf w b / (2 ^ w : Nat)) }

/-- VMULHU (R135). -/
def viMulhu : IntFn := fun w a b _ => { v := a * b / 2 ^ w % 2 ^ w }

/-- VAND (R135). -/
def viAnd : IntFn := fun _ a b _ => { v := a &&& b }

/-- VOR (R135). -/
def viOr : IntFn := fun _ a b _ => { v := a ||| b }

/-- VXOR (R135). -/
def viXor : IntFn := fun _ a b _ => { v := a ^^^ b }

/-- VSLL (R135). -/
def viSll : IntFn := fun w a b _ => { v := a * 2 ^ (b % w) % 2 ^ w }

/-- VSRL (R135). -/
def viSrl : IntFn := fun w a b _ => { v := a / 2 ^ (b % w) }

/-- VSRA (R135). -/
def viSra : IntFn := fun w a b _ => { v := intBits w (signedOf w a / (2 ^ (b % w) : Nat)) }

/-- VMIN (R135). -/
def viMin : IntFn := fun w a b _ => { v := if signedOf w b < signedOf w a then b else a }

/-- VMAX (R135). -/
def viMax : IntFn := fun w a b _ => { v := if signedOf w a < signedOf w b then b else a }

/-- VMINU (R135). -/
def viMinu : IntFn := fun _ a b _ => { v := if b < a then b else a }

/-- VMAXU (R135). -/
def viMaxu : IntFn := fun _ a b _ => { v := if a < b then b else a }

/-- VSADD (R135). -/
def viSadd : IntFn := fun w a b _ => clampSigned w (signedOf w a + signedOf w b)

/-- VSSUB (R135). -/
def viSsub : IntFn := fun w a b _ => clampSigned w (signedOf w a - signedOf w b)

/-- VSADDU (R135). -/
def viSaddu : IntFn := fun w a b _ => clampUnsigned w ((a : Int) + b)

/-- VSSUBU (R135). -/
def viSsubu : IntFn := fun w a b _ => clampUnsigned w ((a : Int) - b)

/-- VMADD (R135). -/
def viMadd : IntFn := fun w a b d => { v := (a * b + d) % 2 ^ w }

/-- VABSD (R135). -/
def viAbsd : IntFn := fun w a b _ => { v := (signedOf w a - signedOf w b).natAbs % 2 ^ w }

/-- A destination element of the width of VT.FMT written zero (R111). -/
def zeroElem (d : BitVec 5) : Nat → Regs → Nat → Cell → Cell := fun _ r j c => cellWrite (vtWidth r.vt) d.toNat j 0 c

/-- A destination mask bit written zero (R111). -/
def zeroBit (d : BitVec 3) : Nat → Regs → Nat → Cell → Cell := fun _ _ j c => cellMask d.toNat j false c

/-- One active element of integer arithmetic (R134). -/
def intElem (f : IntFn) (x : Src) (a d : BitVec 5) (_b : Nat) (r : Regs) (j : Nat) (c : Cell) : Cell :=
  let w := vtWidth r.vt
  let y := f w (elemRead c.bl w a.toNat j) (srcValue x r w j c.bl) (elemRead c.bl w d.toNat j)
  cellFlags (if y.sat then satFlag else 0) 0 (cellWrite w d.toNat j y.v c)

/-- VINT, VINTX and VINTI (R134, R135). -/
def intMember (f : IntFn) (m : BitVec 3) (x : Src) (a d : BitVec 5) : Member :=
  plainMember .int false (fun st => !intWidth st.r.vt || !alignedAll st (a.toNat :: d.toNat :: srcFields x))
    (fun r => vtWidth r.vt) (fun sp => modStrand (elementwise m.toNat (intElem f x a d) (zeroElem d) sp))

/-- An imm5 sign-extended (R47, R137). -/
def imm5 (i : BitVec 5) : Src := .i (i.signExtend 64).toNat

/-- The condition of an integer compare (R137). -/
abbrev IntCond := Nat → Nat → Nat → Bool

/-- One active element of an integer compare (R137). -/
def cmpElem (f : IntCond) (x : Src) (a : BitVec 5) (d : BitVec 3) (_b : Nat) (r : Regs) (j : Nat) (c : Cell) : Cell :=
  let w := vtWidth r.vt
  cellMask d.toNat j (f w (elemRead c.bl w a.toNat j) (srcValue x r w j c.bl)) c

/-- VCMP (R137). -/
def cmpMember (f : IntCond) (m : BitVec 3) (x : Src) (a : BitVec 5) (d : BitVec 3) : Member :=
  plainMember .int false (fun st => !intWidth st.r.vt || !alignedAll st (a.toNat :: srcFields x))
    (fun r => vtWidth r.vt) (fun sp => modStrand (elementwise m.toNat (cmpElem f x a d) (zeroBit d) sp))

/-- Condition EQ (R137). -/
def ciEq : IntCond := fun _ a b => a == b

/-- Condition NE (R137). -/
def ciNe : IntCond := fun _ a b => a != b

/-- Condition LT (R137). -/
def ciLt : IntCond := fun w a b => decide (signedOf w a < signedOf w b)

/-- Condition LTU (R137). -/
def ciLtu : IntCond := fun _ a b => decide (a < b)

/-- Condition LE (R137). -/
def ciLe : IntCond := fun w a b => decide (signedOf w a ≤ signedOf w b)

/-- Condition LEU (R137). -/
def ciLeu : IntCond := fun _ a b => decide (a ≤ b)

/-- Condition GT (R137). -/
def ciGt : IntCond := fun w a b => decide (signedOf w b < signedOf w a)

/-- Condition GTU (R137). -/
def ciGtu : IntCond := fun _ a b => decide (b < a)

/-- The member VADD on two groups (R134, R135). -/
def memberVadd (m : BitVec 3) (b a d : BitVec 5) : Member :=
  intMember viAdd m (.v b.toNat) a d

/-- VADD on two groups (R134, R135). -/
def execVadd (m : BitVec 3) (b a d : BitVec 5) (s : State) : Result :=
  runSolo (wordVR 0x32 0 m.toNat b.toNat a.toNat d.toNat) (memberVadd m b a d) s

/-- The member VSUB on two groups (R134, R135). -/
def memberVsub (m : BitVec 3) (b a d : BitVec 5) : Member :=
  intMember viSub m (.v b.toNat) a d

/-- VSUB on two groups (R134, R135). -/
def execVsub (m : BitVec 3) (b a d : BitVec 5) (s : State) : Result :=
  runSolo (wordVR 0x32 1 m.toNat b.toNat a.toNat d.toNat) (memberVsub m b a d) s

/-- The member VRSUB on two groups (R134, R135). -/
def memberVrsub (m : BitVec 3) (b a d : BitVec 5) : Member :=
  intMember viRsub m (.v b.toNat) a d

/-- VRSUB on two groups (R134, R135). -/
def execVrsub (m : BitVec 3) (b a d : BitVec 5) (s : State) : Result :=
  runSolo (wordVR 0x32 2 m.toNat b.toNat a.toNat d.toNat) (memberVrsub m b a d) s

/-- The member VMUL on two groups (R134, R135). -/
def memberVmul (m : BitVec 3) (b a d : BitVec 5) : Member :=
  intMember viMul m (.v b.toNat) a d

/-- VMUL on two groups (R134, R135). -/
def execVmul (m : BitVec 3) (b a d : BitVec 5) (s : State) : Result :=
  runSolo (wordVR 0x32 3 m.toNat b.toNat a.toNat d.toNat) (memberVmul m b a d) s

/-- The member VMULH on two groups (R134, R135). -/
def memberVmulh (m : BitVec 3) (b a d : BitVec 5) : Member :=
  intMember viMulh m (.v b.toNat) a d

/-- VMULH on two groups (R134, R135). -/
def execVmulh (m : BitVec 3) (b a d : BitVec 5) (s : State) : Result :=
  runSolo (wordVR 0x32 4 m.toNat b.toNat a.toNat d.toNat) (memberVmulh m b a d) s

/-- The member VMULHU on two groups (R134, R135). -/
def memberVmulhu (m : BitVec 3) (b a d : BitVec 5) : Member :=
  intMember viMulhu m (.v b.toNat) a d

/-- VMULHU on two groups (R134, R135). -/
def execVmulhu (m : BitVec 3) (b a d : BitVec 5) (s : State) : Result :=
  runSolo (wordVR 0x32 5 m.toNat b.toNat a.toNat d.toNat) (memberVmulhu m b a d) s

/-- The member VAND on two groups (R134, R135). -/
def memberVand (m : BitVec 3) (b a d : BitVec 5) : Member :=
  intMember viAnd m (.v b.toNat) a d

/-- VAND on two groups (R134, R135). -/
def execVand (m : BitVec 3) (b a d : BitVec 5) (s : State) : Result :=
  runSolo (wordVR 0x32 6 m.toNat b.toNat a.toNat d.toNat) (memberVand m b a d) s

/-- The member VOR on two groups (R134, R135). -/
def memberVor (m : BitVec 3) (b a d : BitVec 5) : Member :=
  intMember viOr m (.v b.toNat) a d

/-- VOR on two groups (R134, R135). -/
def execVor (m : BitVec 3) (b a d : BitVec 5) (s : State) : Result :=
  runSolo (wordVR 0x32 7 m.toNat b.toNat a.toNat d.toNat) (memberVor m b a d) s

/-- The member VXOR on two groups (R134, R135). -/
def memberVxor (m : BitVec 3) (b a d : BitVec 5) : Member :=
  intMember viXor m (.v b.toNat) a d

/-- VXOR on two groups (R134, R135). -/
def execVxor (m : BitVec 3) (b a d : BitVec 5) (s : State) : Result :=
  runSolo (wordVR 0x32 8 m.toNat b.toNat a.toNat d.toNat) (memberVxor m b a d) s

/-- The member VSLL on two groups (R134, R135). -/
def memberVsll (m : BitVec 3) (b a d : BitVec 5) : Member :=
  intMember viSll m (.v b.toNat) a d

/-- VSLL on two groups (R134, R135). -/
def execVsll (m : BitVec 3) (b a d : BitVec 5) (s : State) : Result :=
  runSolo (wordVR 0x32 9 m.toNat b.toNat a.toNat d.toNat) (memberVsll m b a d) s

/-- The member VSRL on two groups (R134, R135). -/
def memberVsrl (m : BitVec 3) (b a d : BitVec 5) : Member :=
  intMember viSrl m (.v b.toNat) a d

/-- VSRL on two groups (R134, R135). -/
def execVsrl (m : BitVec 3) (b a d : BitVec 5) (s : State) : Result :=
  runSolo (wordVR 0x32 10 m.toNat b.toNat a.toNat d.toNat) (memberVsrl m b a d) s

/-- The member VSRA on two groups (R134, R135). -/
def memberVsra (m : BitVec 3) (b a d : BitVec 5) : Member :=
  intMember viSra m (.v b.toNat) a d

/-- VSRA on two groups (R134, R135). -/
def execVsra (m : BitVec 3) (b a d : BitVec 5) (s : State) : Result :=
  runSolo (wordVR 0x32 11 m.toNat b.toNat a.toNat d.toNat) (memberVsra m b a d) s

/-- The member VMIN on two groups (R134, R135). -/
def memberVmin (m : BitVec 3) (b a d : BitVec 5) : Member :=
  intMember viMin m (.v b.toNat) a d

/-- VMIN on two groups (R134, R135). -/
def execVmin (m : BitVec 3) (b a d : BitVec 5) (s : State) : Result :=
  runSolo (wordVR 0x32 12 m.toNat b.toNat a.toNat d.toNat) (memberVmin m b a d) s

/-- The member VMAX on two groups (R134, R135). -/
def memberVmax (m : BitVec 3) (b a d : BitVec 5) : Member :=
  intMember viMax m (.v b.toNat) a d

/-- VMAX on two groups (R134, R135). -/
def execVmax (m : BitVec 3) (b a d : BitVec 5) (s : State) : Result :=
  runSolo (wordVR 0x32 13 m.toNat b.toNat a.toNat d.toNat) (memberVmax m b a d) s

/-- The member VMINU on two groups (R134, R135). -/
def memberVminu (m : BitVec 3) (b a d : BitVec 5) : Member :=
  intMember viMinu m (.v b.toNat) a d

/-- VMINU on two groups (R134, R135). -/
def execVminu (m : BitVec 3) (b a d : BitVec 5) (s : State) : Result :=
  runSolo (wordVR 0x32 14 m.toNat b.toNat a.toNat d.toNat) (memberVminu m b a d) s

/-- The member VMAXU on two groups (R134, R135). -/
def memberVmaxu (m : BitVec 3) (b a d : BitVec 5) : Member :=
  intMember viMaxu m (.v b.toNat) a d

/-- VMAXU on two groups (R134, R135). -/
def execVmaxu (m : BitVec 3) (b a d : BitVec 5) (s : State) : Result :=
  runSolo (wordVR 0x32 15 m.toNat b.toNat a.toNat d.toNat) (memberVmaxu m b a d) s

/-- The member VSADD on two groups (R134, R135). -/
def memberVsadd (m : BitVec 3) (b a d : BitVec 5) : Member :=
  intMember viSadd m (.v b.toNat) a d

/-- VSADD on two groups (R134, R135). -/
def execVsadd (m : BitVec 3) (b a d : BitVec 5) (s : State) : Result :=
  runSolo (wordVR 0x32 16 m.toNat b.toNat a.toNat d.toNat) (memberVsadd m b a d) s

/-- The member VSSUB on two groups (R134, R135). -/
def memberVssub (m : BitVec 3) (b a d : BitVec 5) : Member :=
  intMember viSsub m (.v b.toNat) a d

/-- VSSUB on two groups (R134, R135). -/
def execVssub (m : BitVec 3) (b a d : BitVec 5) (s : State) : Result :=
  runSolo (wordVR 0x32 17 m.toNat b.toNat a.toNat d.toNat) (memberVssub m b a d) s

/-- The member VSADDU on two groups (R134, R135). -/
def memberVsaddu (m : BitVec 3) (b a d : BitVec 5) : Member :=
  intMember viSaddu m (.v b.toNat) a d

/-- VSADDU on two groups (R134, R135). -/
def execVsaddu (m : BitVec 3) (b a d : BitVec 5) (s : State) : Result :=
  runSolo (wordVR 0x32 18 m.toNat b.toNat a.toNat d.toNat) (memberVsaddu m b a d) s

/-- The member VSSUBU on two groups (R134, R135). -/
def memberVssubu (m : BitVec 3) (b a d : BitVec 5) : Member :=
  intMember viSsubu m (.v b.toNat) a d

/-- VSSUBU on two groups (R134, R135). -/
def execVssubu (m : BitVec 3) (b a d : BitVec 5) (s : State) : Result :=
  runSolo (wordVR 0x32 19 m.toNat b.toNat a.toNat d.toNat) (memberVssubu m b a d) s

/-- The member VMADD on two groups (R134, R135). -/
def memberVmadd (m : BitVec 3) (b a d : BitVec 5) : Member :=
  intMember viMadd m (.v b.toNat) a d

/-- VMADD on two groups (R134, R135). -/
def execVmadd (m : BitVec 3) (b a d : BitVec 5) (s : State) : Result :=
  runSolo (wordVR 0x32 20 m.toNat b.toNat a.toNat d.toNat) (memberVmadd m b a d) s

/-- The member VABSD on two groups (R134, R135). -/
def memberVabsd (m : BitVec 3) (b a d : BitVec 5) : Member :=
  intMember viAbsd m (.v b.toNat) a d

/-- VABSD on two groups (R134, R135). -/
def execVabsd (m : BitVec 3) (b a d : BitVec 5) (s : State) : Result :=
  runSolo (wordVR 0x32 21 m.toNat b.toNat a.toNat d.toNat) (memberVabsd m b a d) s

/-- The member VADD with a scalar (R134, R135). -/
def memberVaddVx (m : BitVec 3) (s' a d : BitVec 5) : Member :=
  intMember viAdd m (.s s'.toNat) a d

/-- VADD with a scalar (R134, R135). -/
def execVaddVx (m : BitVec 3) (s' a d : BitVec 5) (s : State) : Result :=
  runSolo (wordVR 0x33 0 m.toNat s'.toNat a.toNat d.toNat) (memberVaddVx m s' a d) s

/-- The member VSUB with a scalar (R134, R135). -/
def memberVsubVx (m : BitVec 3) (s' a d : BitVec 5) : Member :=
  intMember viSub m (.s s'.toNat) a d

/-- VSUB with a scalar (R134, R135). -/
def execVsubVx (m : BitVec 3) (s' a d : BitVec 5) (s : State) : Result :=
  runSolo (wordVR 0x33 1 m.toNat s'.toNat a.toNat d.toNat) (memberVsubVx m s' a d) s

/-- The member VRSUB with a scalar (R134, R135). -/
def memberVrsubVx (m : BitVec 3) (s' a d : BitVec 5) : Member :=
  intMember viRsub m (.s s'.toNat) a d

/-- VRSUB with a scalar (R134, R135). -/
def execVrsubVx (m : BitVec 3) (s' a d : BitVec 5) (s : State) : Result :=
  runSolo (wordVR 0x33 2 m.toNat s'.toNat a.toNat d.toNat) (memberVrsubVx m s' a d) s

/-- The member VMUL with a scalar (R134, R135). -/
def memberVmulVx (m : BitVec 3) (s' a d : BitVec 5) : Member :=
  intMember viMul m (.s s'.toNat) a d

/-- VMUL with a scalar (R134, R135). -/
def execVmulVx (m : BitVec 3) (s' a d : BitVec 5) (s : State) : Result :=
  runSolo (wordVR 0x33 3 m.toNat s'.toNat a.toNat d.toNat) (memberVmulVx m s' a d) s

/-- The member VMULH with a scalar (R134, R135). -/
def memberVmulhVx (m : BitVec 3) (s' a d : BitVec 5) : Member :=
  intMember viMulh m (.s s'.toNat) a d

/-- VMULH with a scalar (R134, R135). -/
def execVmulhVx (m : BitVec 3) (s' a d : BitVec 5) (s : State) : Result :=
  runSolo (wordVR 0x33 4 m.toNat s'.toNat a.toNat d.toNat) (memberVmulhVx m s' a d) s

/-- The member VMULHU with a scalar (R134, R135). -/
def memberVmulhuVx (m : BitVec 3) (s' a d : BitVec 5) : Member :=
  intMember viMulhu m (.s s'.toNat) a d

/-- VMULHU with a scalar (R134, R135). -/
def execVmulhuVx (m : BitVec 3) (s' a d : BitVec 5) (s : State) : Result :=
  runSolo (wordVR 0x33 5 m.toNat s'.toNat a.toNat d.toNat) (memberVmulhuVx m s' a d) s

/-- The member VAND with a scalar (R134, R135). -/
def memberVandVx (m : BitVec 3) (s' a d : BitVec 5) : Member :=
  intMember viAnd m (.s s'.toNat) a d

/-- VAND with a scalar (R134, R135). -/
def execVandVx (m : BitVec 3) (s' a d : BitVec 5) (s : State) : Result :=
  runSolo (wordVR 0x33 6 m.toNat s'.toNat a.toNat d.toNat) (memberVandVx m s' a d) s

/-- The member VOR with a scalar (R134, R135). -/
def memberVorVx (m : BitVec 3) (s' a d : BitVec 5) : Member :=
  intMember viOr m (.s s'.toNat) a d

/-- VOR with a scalar (R134, R135). -/
def execVorVx (m : BitVec 3) (s' a d : BitVec 5) (s : State) : Result :=
  runSolo (wordVR 0x33 7 m.toNat s'.toNat a.toNat d.toNat) (memberVorVx m s' a d) s

/-- The member VXOR with a scalar (R134, R135). -/
def memberVxorVx (m : BitVec 3) (s' a d : BitVec 5) : Member :=
  intMember viXor m (.s s'.toNat) a d

/-- VXOR with a scalar (R134, R135). -/
def execVxorVx (m : BitVec 3) (s' a d : BitVec 5) (s : State) : Result :=
  runSolo (wordVR 0x33 8 m.toNat s'.toNat a.toNat d.toNat) (memberVxorVx m s' a d) s

/-- The member VSLL with a scalar (R134, R135). -/
def memberVsllVx (m : BitVec 3) (s' a d : BitVec 5) : Member :=
  intMember viSll m (.s s'.toNat) a d

/-- VSLL with a scalar (R134, R135). -/
def execVsllVx (m : BitVec 3) (s' a d : BitVec 5) (s : State) : Result :=
  runSolo (wordVR 0x33 9 m.toNat s'.toNat a.toNat d.toNat) (memberVsllVx m s' a d) s

/-- The member VSRL with a scalar (R134, R135). -/
def memberVsrlVx (m : BitVec 3) (s' a d : BitVec 5) : Member :=
  intMember viSrl m (.s s'.toNat) a d

/-- VSRL with a scalar (R134, R135). -/
def execVsrlVx (m : BitVec 3) (s' a d : BitVec 5) (s : State) : Result :=
  runSolo (wordVR 0x33 10 m.toNat s'.toNat a.toNat d.toNat) (memberVsrlVx m s' a d) s

/-- The member VSRA with a scalar (R134, R135). -/
def memberVsraVx (m : BitVec 3) (s' a d : BitVec 5) : Member :=
  intMember viSra m (.s s'.toNat) a d

/-- VSRA with a scalar (R134, R135). -/
def execVsraVx (m : BitVec 3) (s' a d : BitVec 5) (s : State) : Result :=
  runSolo (wordVR 0x33 11 m.toNat s'.toNat a.toNat d.toNat) (memberVsraVx m s' a d) s

/-- The member VMIN with a scalar (R134, R135). -/
def memberVminVx (m : BitVec 3) (s' a d : BitVec 5) : Member :=
  intMember viMin m (.s s'.toNat) a d

/-- VMIN with a scalar (R134, R135). -/
def execVminVx (m : BitVec 3) (s' a d : BitVec 5) (s : State) : Result :=
  runSolo (wordVR 0x33 12 m.toNat s'.toNat a.toNat d.toNat) (memberVminVx m s' a d) s

/-- The member VMAX with a scalar (R134, R135). -/
def memberVmaxVx (m : BitVec 3) (s' a d : BitVec 5) : Member :=
  intMember viMax m (.s s'.toNat) a d

/-- VMAX with a scalar (R134, R135). -/
def execVmaxVx (m : BitVec 3) (s' a d : BitVec 5) (s : State) : Result :=
  runSolo (wordVR 0x33 13 m.toNat s'.toNat a.toNat d.toNat) (memberVmaxVx m s' a d) s

/-- The member VMINU with a scalar (R134, R135). -/
def memberVminuVx (m : BitVec 3) (s' a d : BitVec 5) : Member :=
  intMember viMinu m (.s s'.toNat) a d

/-- VMINU with a scalar (R134, R135). -/
def execVminuVx (m : BitVec 3) (s' a d : BitVec 5) (s : State) : Result :=
  runSolo (wordVR 0x33 14 m.toNat s'.toNat a.toNat d.toNat) (memberVminuVx m s' a d) s

/-- The member VMAXU with a scalar (R134, R135). -/
def memberVmaxuVx (m : BitVec 3) (s' a d : BitVec 5) : Member :=
  intMember viMaxu m (.s s'.toNat) a d

/-- VMAXU with a scalar (R134, R135). -/
def execVmaxuVx (m : BitVec 3) (s' a d : BitVec 5) (s : State) : Result :=
  runSolo (wordVR 0x33 15 m.toNat s'.toNat a.toNat d.toNat) (memberVmaxuVx m s' a d) s

/-- The member VSADD with a scalar (R134, R135). -/
def memberVsaddVx (m : BitVec 3) (s' a d : BitVec 5) : Member :=
  intMember viSadd m (.s s'.toNat) a d

/-- VSADD with a scalar (R134, R135). -/
def execVsaddVx (m : BitVec 3) (s' a d : BitVec 5) (s : State) : Result :=
  runSolo (wordVR 0x33 16 m.toNat s'.toNat a.toNat d.toNat) (memberVsaddVx m s' a d) s

/-- The member VSSUB with a scalar (R134, R135). -/
def memberVssubVx (m : BitVec 3) (s' a d : BitVec 5) : Member :=
  intMember viSsub m (.s s'.toNat) a d

/-- VSSUB with a scalar (R134, R135). -/
def execVssubVx (m : BitVec 3) (s' a d : BitVec 5) (s : State) : Result :=
  runSolo (wordVR 0x33 17 m.toNat s'.toNat a.toNat d.toNat) (memberVssubVx m s' a d) s

/-- The member VSADDU with a scalar (R134, R135). -/
def memberVsadduVx (m : BitVec 3) (s' a d : BitVec 5) : Member :=
  intMember viSaddu m (.s s'.toNat) a d

/-- VSADDU with a scalar (R134, R135). -/
def execVsadduVx (m : BitVec 3) (s' a d : BitVec 5) (s : State) : Result :=
  runSolo (wordVR 0x33 18 m.toNat s'.toNat a.toNat d.toNat) (memberVsadduVx m s' a d) s

/-- The member VSSUBU with a scalar (R134, R135). -/
def memberVssubuVx (m : BitVec 3) (s' a d : BitVec 5) : Member :=
  intMember viSsubu m (.s s'.toNat) a d

/-- VSSUBU with a scalar (R134, R135). -/
def execVssubuVx (m : BitVec 3) (s' a d : BitVec 5) (s : State) : Result :=
  runSolo (wordVR 0x33 19 m.toNat s'.toNat a.toNat d.toNat) (memberVssubuVx m s' a d) s

/-- The member VMADD with a scalar (R134, R135). -/
def memberVmaddVx (m : BitVec 3) (s' a d : BitVec 5) : Member :=
  intMember viMadd m (.s s'.toNat) a d

/-- VMADD with a scalar (R134, R135). -/
def execVmaddVx (m : BitVec 3) (s' a d : BitVec 5) (s : State) : Result :=
  runSolo (wordVR 0x33 20 m.toNat s'.toNat a.toNat d.toNat) (memberVmaddVx m s' a d) s

/-- The member VABSD with a scalar (R134, R135). -/
def memberVabsdVx (m : BitVec 3) (s' a d : BitVec 5) : Member :=
  intMember viAbsd m (.s s'.toNat) a d

/-- VABSD with a scalar (R134, R135). -/
def execVabsdVx (m : BitVec 3) (s' a d : BitVec 5) (s : State) : Result :=
  runSolo (wordVR 0x33 21 m.toNat s'.toNat a.toNat d.toNat) (memberVabsdVx m s' a d) s

/-- The member VADD with an immediate (R134, R135, R47). -/
def memberVaddVi (m : BitVec 3) (i a d : BitVec 5) : Member :=
  intMember viAdd m (imm5 i) a d

/-- VADD with an immediate (R134, R135, R47). -/
def execVaddVi (m : BitVec 3) (i a d : BitVec 5) (s : State) : Result :=
  runSolo (wordVR 0x34 0 m.toNat i.toNat a.toNat d.toNat) (memberVaddVi m i a d) s

/-- The member VRSUB with an immediate (R134, R135, R47). -/
def memberVrsubVi (m : BitVec 3) (i a d : BitVec 5) : Member :=
  intMember viRsub m (imm5 i) a d

/-- VRSUB with an immediate (R134, R135, R47). -/
def execVrsubVi (m : BitVec 3) (i a d : BitVec 5) (s : State) : Result :=
  runSolo (wordVR 0x34 2 m.toNat i.toNat a.toNat d.toNat) (memberVrsubVi m i a d) s

/-- The member VAND with an immediate (R134, R135, R47). -/
def memberVandVi (m : BitVec 3) (i a d : BitVec 5) : Member :=
  intMember viAnd m (imm5 i) a d

/-- VAND with an immediate (R134, R135, R47). -/
def execVandVi (m : BitVec 3) (i a d : BitVec 5) (s : State) : Result :=
  runSolo (wordVR 0x34 6 m.toNat i.toNat a.toNat d.toNat) (memberVandVi m i a d) s

/-- The member VOR with an immediate (R134, R135, R47). -/
def memberVorVi (m : BitVec 3) (i a d : BitVec 5) : Member :=
  intMember viOr m (imm5 i) a d

/-- VOR with an immediate (R134, R135, R47). -/
def execVorVi (m : BitVec 3) (i a d : BitVec 5) (s : State) : Result :=
  runSolo (wordVR 0x34 7 m.toNat i.toNat a.toNat d.toNat) (memberVorVi m i a d) s

/-- The member VXOR with an immediate (R134, R135, R47). -/
def memberVxorVi (m : BitVec 3) (i a d : BitVec 5) : Member :=
  intMember viXor m (imm5 i) a d

/-- VXOR with an immediate (R134, R135, R47). -/
def execVxorVi (m : BitVec 3) (i a d : BitVec 5) (s : State) : Result :=
  runSolo (wordVR 0x34 8 m.toNat i.toNat a.toNat d.toNat) (memberVxorVi m i a d) s

/-- The member VSLL with an immediate (R134, R135, R47). -/
def memberVsllVi (m : BitVec 3) (i a d : BitVec 5) : Member :=
  intMember viSll m (.i i.toNat) a d

/-- VSLL with an immediate (R134, R135, R47). -/
def execVsllVi (m : BitVec 3) (i a d : BitVec 5) (s : State) : Result :=
  runSolo (wordVR 0x34 9 m.toNat i.toNat a.toNat d.toNat) (memberVsllVi m i a d) s

/-- The member VSRL with an immediate (R134, R135, R47). -/
def memberVsrlVi (m : BitVec 3) (i a d : BitVec 5) : Member :=
  intMember viSrl m (.i i.toNat) a d

/-- VSRL with an immediate (R134, R135, R47). -/
def execVsrlVi (m : BitVec 3) (i a d : BitVec 5) (s : State) : Result :=
  runSolo (wordVR 0x34 10 m.toNat i.toNat a.toNat d.toNat) (memberVsrlVi m i a d) s

/-- The member VSRA with an immediate (R134, R135, R47). -/
def memberVsraVi (m : BitVec 3) (i a d : BitVec 5) : Member :=
  intMember viSra m (.i i.toNat) a d

/-- VSRA with an immediate (R134, R135, R47). -/
def execVsraVi (m : BitVec 3) (i a d : BitVec 5) (s : State) : Result :=
  runSolo (wordVR 0x34 11 m.toNat i.toNat a.toNat d.toNat) (memberVsraVi m i a d) s

/-- The member VSADD with an immediate (R134, R135, R47). -/
def memberVsaddVi (m : BitVec 3) (i a d : BitVec 5) : Member :=
  intMember viSadd m (imm5 i) a d

/-- VSADD with an immediate (R134, R135, R47). -/
def execVsaddVi (m : BitVec 3) (i a d : BitVec 5) (s : State) : Result :=
  runSolo (wordVR 0x34 16 m.toNat i.toNat a.toNat d.toNat) (memberVsaddVi m i a d) s

/-- The member VSADDU with an immediate (R134, R135, R47). -/
def memberVsadduVi (m : BitVec 3) (i a d : BitVec 5) : Member :=
  intMember viSaddu m (imm5 i) a d

/-- VSADDU with an immediate (R134, R135, R47). -/
def execVsadduVi (m : BitVec 3) (i a d : BitVec 5) (s : State) : Result :=
  runSolo (wordVR 0x34 18 m.toNat i.toNat a.toNat d.toNat) (memberVsadduVi m i a d) s

/-- The member VCMP.EQ on two groups (R137). -/
def memberVcmpEq (m : BitVec 3) (b a : BitVec 5) (d : BitVec 3) : Member :=
  cmpMember ciEq m (.v b.toNat) a d

/-- VCMP.EQ on two groups (R137). -/
def execVcmpEq (m : BitVec 3) (b a : BitVec 5) (d : BitVec 3) (s : State) : Result :=
  runSolo (wordVR 0x35 0 m.toNat b.toNat a.toNat d.toNat) (memberVcmpEq m b a d) s

/-- The member VCMP.NE on two groups (R137). -/
def memberVcmpNe (m : BitVec 3) (b a : BitVec 5) (d : BitVec 3) : Member :=
  cmpMember ciNe m (.v b.toNat) a d

/-- VCMP.NE on two groups (R137). -/
def execVcmpNe (m : BitVec 3) (b a : BitVec 5) (d : BitVec 3) (s : State) : Result :=
  runSolo (wordVR 0x35 1 m.toNat b.toNat a.toNat d.toNat) (memberVcmpNe m b a d) s

/-- The member VCMP.LT on two groups (R137). -/
def memberVcmpLt (m : BitVec 3) (b a : BitVec 5) (d : BitVec 3) : Member :=
  cmpMember ciLt m (.v b.toNat) a d

/-- VCMP.LT on two groups (R137). -/
def execVcmpLt (m : BitVec 3) (b a : BitVec 5) (d : BitVec 3) (s : State) : Result :=
  runSolo (wordVR 0x35 2 m.toNat b.toNat a.toNat d.toNat) (memberVcmpLt m b a d) s

/-- The member VCMP.LTU on two groups (R137). -/
def memberVcmpLtu (m : BitVec 3) (b a : BitVec 5) (d : BitVec 3) : Member :=
  cmpMember ciLtu m (.v b.toNat) a d

/-- VCMP.LTU on two groups (R137). -/
def execVcmpLtu (m : BitVec 3) (b a : BitVec 5) (d : BitVec 3) (s : State) : Result :=
  runSolo (wordVR 0x35 3 m.toNat b.toNat a.toNat d.toNat) (memberVcmpLtu m b a d) s

/-- The member VCMP.LE on two groups (R137). -/
def memberVcmpLe (m : BitVec 3) (b a : BitVec 5) (d : BitVec 3) : Member :=
  cmpMember ciLe m (.v b.toNat) a d

/-- VCMP.LE on two groups (R137). -/
def execVcmpLe (m : BitVec 3) (b a : BitVec 5) (d : BitVec 3) (s : State) : Result :=
  runSolo (wordVR 0x35 4 m.toNat b.toNat a.toNat d.toNat) (memberVcmpLe m b a d) s

/-- The member VCMP.LEU on two groups (R137). -/
def memberVcmpLeu (m : BitVec 3) (b a : BitVec 5) (d : BitVec 3) : Member :=
  cmpMember ciLeu m (.v b.toNat) a d

/-- VCMP.LEU on two groups (R137). -/
def execVcmpLeu (m : BitVec 3) (b a : BitVec 5) (d : BitVec 3) (s : State) : Result :=
  runSolo (wordVR 0x35 5 m.toNat b.toNat a.toNat d.toNat) (memberVcmpLeu m b a d) s

/-- The member VCMP.GT on two groups (R137). -/
def memberVcmpGt (m : BitVec 3) (b a : BitVec 5) (d : BitVec 3) : Member :=
  cmpMember ciGt m (.v b.toNat) a d

/-- VCMP.GT on two groups (R137). -/
def execVcmpGt (m : BitVec 3) (b a : BitVec 5) (d : BitVec 3) (s : State) : Result :=
  runSolo (wordVR 0x35 6 m.toNat b.toNat a.toNat d.toNat) (memberVcmpGt m b a d) s

/-- The member VCMP.GTU on two groups (R137). -/
def memberVcmpGtu (m : BitVec 3) (b a : BitVec 5) (d : BitVec 3) : Member :=
  cmpMember ciGtu m (.v b.toNat) a d

/-- VCMP.GTU on two groups (R137). -/
def execVcmpGtu (m : BitVec 3) (b a : BitVec 5) (d : BitVec 3) (s : State) : Result :=
  runSolo (wordVR 0x35 7 m.toNat b.toNat a.toNat d.toNat) (memberVcmpGtu m b a d) s

/-- The member VCMP.EQ with a scalar (R137). -/
def memberVcmpEqVx (m : BitVec 3) (s' a : BitVec 5) (d : BitVec 3) : Member :=
  cmpMember ciEq m (.s s'.toNat) a d

/-- VCMP.EQ with a scalar (R137). -/
def execVcmpEqVx (m : BitVec 3) (s' a : BitVec 5) (d : BitVec 3) (s : State) : Result :=
  runSolo (wordVR 0x35 32 m.toNat s'.toNat a.toNat d.toNat) (memberVcmpEqVx m s' a d) s

/-- The member VCMP.NE with a scalar (R137). -/
def memberVcmpNeVx (m : BitVec 3) (s' a : BitVec 5) (d : BitVec 3) : Member :=
  cmpMember ciNe m (.s s'.toNat) a d

/-- VCMP.NE with a scalar (R137). -/
def execVcmpNeVx (m : BitVec 3) (s' a : BitVec 5) (d : BitVec 3) (s : State) : Result :=
  runSolo (wordVR 0x35 33 m.toNat s'.toNat a.toNat d.toNat) (memberVcmpNeVx m s' a d) s

/-- The member VCMP.LT with a scalar (R137). -/
def memberVcmpLtVx (m : BitVec 3) (s' a : BitVec 5) (d : BitVec 3) : Member :=
  cmpMember ciLt m (.s s'.toNat) a d

/-- VCMP.LT with a scalar (R137). -/
def execVcmpLtVx (m : BitVec 3) (s' a : BitVec 5) (d : BitVec 3) (s : State) : Result :=
  runSolo (wordVR 0x35 34 m.toNat s'.toNat a.toNat d.toNat) (memberVcmpLtVx m s' a d) s

/-- The member VCMP.LTU with a scalar (R137). -/
def memberVcmpLtuVx (m : BitVec 3) (s' a : BitVec 5) (d : BitVec 3) : Member :=
  cmpMember ciLtu m (.s s'.toNat) a d

/-- VCMP.LTU with a scalar (R137). -/
def execVcmpLtuVx (m : BitVec 3) (s' a : BitVec 5) (d : BitVec 3) (s : State) : Result :=
  runSolo (wordVR 0x35 35 m.toNat s'.toNat a.toNat d.toNat) (memberVcmpLtuVx m s' a d) s

/-- The member VCMP.LE with a scalar (R137). -/
def memberVcmpLeVx (m : BitVec 3) (s' a : BitVec 5) (d : BitVec 3) : Member :=
  cmpMember ciLe m (.s s'.toNat) a d

/-- VCMP.LE with a scalar (R137). -/
def execVcmpLeVx (m : BitVec 3) (s' a : BitVec 5) (d : BitVec 3) (s : State) : Result :=
  runSolo (wordVR 0x35 36 m.toNat s'.toNat a.toNat d.toNat) (memberVcmpLeVx m s' a d) s

/-- The member VCMP.LEU with a scalar (R137). -/
def memberVcmpLeuVx (m : BitVec 3) (s' a : BitVec 5) (d : BitVec 3) : Member :=
  cmpMember ciLeu m (.s s'.toNat) a d

/-- VCMP.LEU with a scalar (R137). -/
def execVcmpLeuVx (m : BitVec 3) (s' a : BitVec 5) (d : BitVec 3) (s : State) : Result :=
  runSolo (wordVR 0x35 37 m.toNat s'.toNat a.toNat d.toNat) (memberVcmpLeuVx m s' a d) s

/-- The member VCMP.GT with a scalar (R137). -/
def memberVcmpGtVx (m : BitVec 3) (s' a : BitVec 5) (d : BitVec 3) : Member :=
  cmpMember ciGt m (.s s'.toNat) a d

/-- VCMP.GT with a scalar (R137). -/
def execVcmpGtVx (m : BitVec 3) (s' a : BitVec 5) (d : BitVec 3) (s : State) : Result :=
  runSolo (wordVR 0x35 38 m.toNat s'.toNat a.toNat d.toNat) (memberVcmpGtVx m s' a d) s

/-- The member VCMP.GTU with a scalar (R137). -/
def memberVcmpGtuVx (m : BitVec 3) (s' a : BitVec 5) (d : BitVec 3) : Member :=
  cmpMember ciGtu m (.s s'.toNat) a d

/-- VCMP.GTU with a scalar (R137). -/
def execVcmpGtuVx (m : BitVec 3) (s' a : BitVec 5) (d : BitVec 3) (s : State) : Result :=
  runSolo (wordVR 0x35 39 m.toNat s'.toNat a.toNat d.toNat) (memberVcmpGtuVx m s' a d) s

/-- The member VCMP.EQ with an immediate (R137). -/
def memberVcmpEqVi (m : BitVec 3) (i a : BitVec 5) (d : BitVec 3) : Member :=
  cmpMember ciEq m (imm5 i) a d

/-- VCMP.EQ with an immediate (R137). -/
def execVcmpEqVi (m : BitVec 3) (i a : BitVec 5) (d : BitVec 3) (s : State) : Result :=
  runSolo (wordVR 0x35 64 m.toNat i.toNat a.toNat d.toNat) (memberVcmpEqVi m i a d) s

/-- The member VCMP.NE with an immediate (R137). -/
def memberVcmpNeVi (m : BitVec 3) (i a : BitVec 5) (d : BitVec 3) : Member :=
  cmpMember ciNe m (imm5 i) a d

/-- VCMP.NE with an immediate (R137). -/
def execVcmpNeVi (m : BitVec 3) (i a : BitVec 5) (d : BitVec 3) (s : State) : Result :=
  runSolo (wordVR 0x35 65 m.toNat i.toNat a.toNat d.toNat) (memberVcmpNeVi m i a d) s

/-- The member VCMP.LT with an immediate (R137). -/
def memberVcmpLtVi (m : BitVec 3) (i a : BitVec 5) (d : BitVec 3) : Member :=
  cmpMember ciLt m (imm5 i) a d

/-- VCMP.LT with an immediate (R137). -/
def execVcmpLtVi (m : BitVec 3) (i a : BitVec 5) (d : BitVec 3) (s : State) : Result :=
  runSolo (wordVR 0x35 66 m.toNat i.toNat a.toNat d.toNat) (memberVcmpLtVi m i a d) s

/-- The member VCMP.LTU with an immediate (R137). -/
def memberVcmpLtuVi (m : BitVec 3) (i a : BitVec 5) (d : BitVec 3) : Member :=
  cmpMember ciLtu m (imm5 i) a d

/-- VCMP.LTU with an immediate (R137). -/
def execVcmpLtuVi (m : BitVec 3) (i a : BitVec 5) (d : BitVec 3) (s : State) : Result :=
  runSolo (wordVR 0x35 67 m.toNat i.toNat a.toNat d.toNat) (memberVcmpLtuVi m i a d) s

/-- The member VCMP.LE with an immediate (R137). -/
def memberVcmpLeVi (m : BitVec 3) (i a : BitVec 5) (d : BitVec 3) : Member :=
  cmpMember ciLe m (imm5 i) a d

/-- VCMP.LE with an immediate (R137). -/
def execVcmpLeVi (m : BitVec 3) (i a : BitVec 5) (d : BitVec 3) (s : State) : Result :=
  runSolo (wordVR 0x35 68 m.toNat i.toNat a.toNat d.toNat) (memberVcmpLeVi m i a d) s

/-- The member VCMP.LEU with an immediate (R137). -/
def memberVcmpLeuVi (m : BitVec 3) (i a : BitVec 5) (d : BitVec 3) : Member :=
  cmpMember ciLeu m (imm5 i) a d

/-- VCMP.LEU with an immediate (R137). -/
def execVcmpLeuVi (m : BitVec 3) (i a : BitVec 5) (d : BitVec 3) (s : State) : Result :=
  runSolo (wordVR 0x35 69 m.toNat i.toNat a.toNat d.toNat) (memberVcmpLeuVi m i a d) s

/-- The member VCMP.GT with an immediate (R137). -/
def memberVcmpGtVi (m : BitVec 3) (i a : BitVec 5) (d : BitVec 3) : Member :=
  cmpMember ciGt m (imm5 i) a d

/-- VCMP.GT with an immediate (R137). -/
def execVcmpGtVi (m : BitVec 3) (i a : BitVec 5) (d : BitVec 3) (s : State) : Result :=
  runSolo (wordVR 0x35 70 m.toNat i.toNat a.toNat d.toNat) (memberVcmpGtVi m i a d) s

/-- The member VCMP.GTU with an immediate (R137). -/
def memberVcmpGtuVi (m : BitVec 3) (i a : BitVec 5) (d : BitVec 3) : Member :=
  cmpMember ciGtu m (imm5 i) a d

/-- VCMP.GTU with an immediate (R137). -/
def execVcmpGtuVi (m : BitVec 3) (i a : BitVec 5) (d : BitVec 3) (s : State) : Result :=
  runSolo (wordVR 0x35 71 m.toNat i.toNat a.toNat d.toNat) (memberVcmpGtuVi m i a d) s

/-- One active element of a move (R138): `f` gives the value from the registers, the block, the position and the
local element. -/
def moveElem (f : Regs → Block → Nat → Nat → Nat) (d : BitVec 5) (b : Nat) (r : Regs) (j : Nat) (c : Cell) : Cell :=
  cellWrite (vtWidth r.vt) d.toNat j (f r c.bl b j) c

/-- A move to group `d` under mask `m` (R138). -/
def moveMember (f : Regs → Block → Nat → Nat → Nat) (bad : Bool) (fields : List Nat) (m : Nat) (d : BitVec 5) : Member :=
  plainMember .int false (fun st => bad || !alignedAll st (d.toNat :: fields)) (fun r => vtWidth r.vt)
    (fun sp => modStrand (elementwise m (moveElem f d) (zeroElem d) sp))

/-- The member VMV (R138). -/
def memberVmv (m : BitVec 3) (a d : BitVec 5) : Member :=
  moveMember (fun r bl _ j => elemRead bl (vtWidth r.vt) a.toNat j) false [a.toNat] m.toNat d

/-- VMV (R138). -/
def execVmv (m : BitVec 3) (a d : BitVec 5) (s : State) : Result :=
  runSolo (wordVR 0x36 0 m.toNat 0 a.toNat d.toNat) (memberVmv m a d) s

/-- The member VSPLAT (R138). -/
def memberVsplat (m : BitVec 3) (s' d : BitVec 5) : Member :=
  moveMember (fun r _ _ _ => (regRead r s'.toNat).toNat % 2 ^ vtWidth r.vt) false [] m.toNat d

/-- VSPLAT (R138). -/
def execVsplat (m : BitVec 3) (s' d : BitVec 5) (s : State) : Result :=
  runSolo (wordVR 0x36 1 m.toNat s'.toNat 0 d.toNat) (memberVsplat m s' d) s

/-- The member VID (R138): the element's index across the span. -/
def memberVid (m : BitVec 3) (d : BitVec 5) : Member :=
  moveMember (fun r _ b j => (b * vlbOf r.vt + j) % 2 ^ vtWidth r.vt) false [] m.toNat d

/-- VID (R138): the element's index across the span. -/
def execVid (m : BitVec 3) (d : BitVec 5) (s : State) : Result :=
  runSolo (wordVR 0x36 3 m.toNat 0 0 d.toNat) (memberVid m d) s

/-- The member VMERGE (R138): the explicit mask selects and does not restrict. -/
def memberVmerge (m : BitVec 3) (b a d : BitVec 5) : Member :=
  moveMember (fun r bl _ j => elemRead bl (vtWidth r.vt) (if maskBit bl m.toNat j then b.toNat else a.toNat) j) (m == 0)
    [a.toNat, b.toNat] 0 d

/-- VMERGE (R138): the explicit mask selects and does not restrict. -/
def execVmerge (m : BitVec 3) (b a d : BitVec 5) (s : State) : Result :=
  runSolo (wordVR 0x36 4 m.toNat b.toNat a.toNat d.toNat) (memberVmerge m b a d) s

/-- The member VNOP (R138): no effect. -/
def memberVnop : Member :=
  plainMember .int false (fun _ => false) (fun r => vtWidth r.vt) (fun _ => return ())

/-- VNOP (R138): no effect. -/
def execVnop (s : State) : Result :=
  runSolo (wordVR 0x36 5 0 0 0 0) (memberVnop) s

/-- The value VEXT delivers (R139): element `x` of the span, extended by its format, or zero at and above VL. -/
def extractValue (st : Strand) (a x : Nat) : Word :=
  let vlb := vlbOf st.r.vt
  let w := vtWidth st.r.vt
  if x < st.r.vl then
    match st.blocks[x / vlb]? with
    | some bl =>
      let v := elemRead bl w a (x % vlb)
      if 9 ≤ vtFmt st.r.vt && vtFmt st.r.vt ≤ 12 then sext64 w v else BitVec.ofNat 64 v
    | none => 0
  else 0

/-- A whole member that writes a scalar register from the strand (R139, R141). -/
def scalarMember (fields : List Nat) (d : BitVec 5) (f : Strand → Word) : Member :=
  plainMember .int true (fun st => !alignedAll st fields) (fun r => vtWidth r.vt)
    (fun _ => modStrand fun st => { st with r := regWrite st.r d.toNat (f st) })

/-- The member VEXT (R139). -/
def memberVext (x a d : BitVec 5) : Member :=
  scalarMember [a.toNat] d (fun st => extractValue st a.toNat (regRead st.r x.toNat).toNat)

/-- VEXT (R139). DEDUCED (log entry 52). -/
def execVext (x a d : BitVec 5) (s : State) : Result :=
  runSolo (wordVR 0x36 2 0 x.toNat a.toNat d.toNat) (memberVext x a d) s

/-- One bit of a mask function: every bit below VL is written whatever m0 holds, and the others follow the tail row
(R140). -/
def maskStep (r : Regs) (d : BitVec 3) (f : Block → Nat → Bool) (b j : Nat) (c : Cell) : Cell :=
  if b * vlbOf r.vt + j < r.vl then cellMask d.toNat j (f c.bl j) c
  else if vtTz r.vt then cellMask d.toNat j false c else c

/-- The bits of a span in every block. -/
def maskwise (d : BitVec 3) (f : Block → Nat → Bool) (sp : Span) (st : Strand) : Strand :=
  if st.r.vl = 0 then st
  else onBlocks (fun b c => loopFrom (maskStep st.r d f b) sp.lo (min sp.hi (elemEnd st.r b) - sp.lo) c) st

/-- A mask function (R140). -/
def maskMember (d : BitVec 3) (f : Block → Nat → Bool) : Member :=
  plainMember .int false (fun _ => false) (fun r => vtWidth r.vt) (fun sp => modStrand (maskwise d f sp))

/-- The member MAND (R140). -/
def memberMand (b a d : BitVec 3) : Member :=
  maskMember d (fun bl j => maskBit bl a.toNat j && maskBit bl b.toNat j)

/-- MAND (R140). -/
def execMand (b a d : BitVec 3) (s : State) : Result :=
  runSolo (wordVR 0x3A 0 0 b.toNat a.toNat d.toNat) (memberMand b a d) s

/-- The member MOR (R140). -/
def memberMor (b a d : BitVec 3) : Member :=
  maskMember d (fun bl j => maskBit bl a.toNat j || maskBit bl b.toNat j)

/-- MOR (R140). -/
def execMor (b a d : BitVec 3) (s : State) : Result :=
  runSolo (wordVR 0x3A 1 0 b.toNat a.toNat d.toNat) (memberMor b a d) s

/-- The member MXOR (R140). -/
def memberMxor (b a d : BitVec 3) : Member :=
  maskMember d (fun bl j => maskBit bl a.toNat j != maskBit bl b.toNat j)

/-- MXOR (R140). -/
def execMxor (b a d : BitVec 3) (s : State) : Result :=
  runSolo (wordVR 0x3A 2 0 b.toNat a.toNat d.toNat) (memberMxor b a d) s

/-- The member MANDN (R140). -/
def memberMandn (b a d : BitVec 3) : Member :=
  maskMember d (fun bl j => maskBit bl a.toNat j && !maskBit bl b.toNat j)

/-- MANDN (R140). -/
def execMandn (b a d : BitVec 3) (s : State) : Result :=
  runSolo (wordVR 0x3A 3 0 b.toNat a.toNat d.toNat) (memberMandn b a d) s

/-- The member MNOT (R140). -/
def memberMnot (a d : BitVec 3) : Member :=
  maskMember d (fun bl j => !maskBit bl a.toNat j)

/-- MNOT (R140). -/
def execMnot (a d : BitVec 3) (s : State) : Result :=
  runSolo (wordVR 0x3A 4 0 0 a.toNat d.toNat) (memberMnot a d) s

/-- The member MSET (R140). -/
def memberMset (d : BitVec 3) : Member :=
  maskMember d (fun _ _ => true)

/-- MSET (R140). -/
def execMset (d : BitVec 3) (s : State) : Result :=
  runSolo (wordVR 0x3A 7 0 0 0 d.toNat) (memberMset d) s

/-- The member MCLR (R140). -/
def memberMclr (d : BitVec 3) : Member :=
  maskMember d (fun _ _ => false)

/-- MCLR (R140). -/
def execMclr (d : BitVec 3) (s : State) : Result :=
  runSolo (wordVR 0x3A 8 0 0 0 d.toNat) (memberMclr d) s

/-- The member MMV (R140). -/
def memberMmv (a d : BitVec 3) : Member :=
  maskMember d (fun bl j => maskBit bl a.toNat j)

/-- MMV (R140). -/
def execMmv (a d : BitVec 3) (s : State) : Result :=
  runSolo (wordVR 0x3A 9 0 0 a.toNat d.toNat) (memberMmv a d) s

/-- The elements of R141: below VL, with both the mask's bit and m0's set. -/
def countedElems (st : Strand) (a : Nat) : List Nat :=
  let vlb := vlbOf st.r.vt
  (st.blocks.zipIdx.map fun (bl, b) =>
    ((List.range (belowVl st.r.vl vlb b)).filter fun j => maskBit bl a j && maskBit bl 0 j).map (b * vlb + ·)).flatten

/-- The member MPOPC (R141). -/
def memberMpopc (a : BitVec 3) (d : BitVec 5) : Member :=
  scalarMember [] d (fun st => BitVec.ofNat 64 (countedElems st a.toNat).length)

/-- MPOPC (R141). -/
def execMpopc (a : BitVec 3) (d : BitVec 5) (s : State) : Result :=
  runSolo (wordVR 0x3A 5 0 0 a.toNat d.toNat) (memberMpopc a d) s

/-- The member MFIRST (R141). -/
def memberMfirst (a : BitVec 3) (d : BitVec 5) : Member :=
  scalarMember [] d (fun st =>
    match (countedElems st a.toNat).head? with
    | some i => BitVec.ofNat 64 i
    | none => 0xFFFFFFFFFFFFFFFF)

/-- MFIRST (R141). -/
def execMfirst (a : BitVec 3) (d : BitVec 5) (s : State) : Result :=
  runSolo (wordVR 0x3A 6 0 0 a.toNat d.toNat) (memberMfirst a d) s

end Sys2Proof.Machine
end

