-- ==== Sys2Proof/Machine/VecPerm.lean ====
section
/-! DEFINITION. Permutes and exchanges (R143 to R145), integer reductions (R146), selections (R147 to R149) and scans
with the carry cell (R150): each instruction's member and its meaning alone in a convoy. -/

namespace Sys2Proof.Machine

open Sys2Proof.Config

/-- The source of a permuted element: the blocks before the permute, the position and the local element; `none` leaves
the destination as it is (R143). -/
abbrev PermFn := Regs → List Block → Nat → Nat → Option Nat

/-- Element `j` of block `b` of group `a`, before the permute. -/
def blockElem (r : Regs) (bs : List Block) (a b j : Nat) : Nat :=
  match bs[b]? with
  | some bl => elemRead bl (vtWidth r.vt) a j
  | none => 0

/-- A permute: every source is read before any destination is written (R143). -/
def permuted (f : PermFn) (m d : Nat) (st : Strand) : Strand :=
  elementwise m
    (fun b r j c =>
      match f r st.blocks b j with
      | some v => cellWrite (vtWidth r.vt) d j v c
      | none => c)
    (fun _ r j c => cellWrite (vtWidth r.vt) d j 0 c) wholeSpan st

/-- VPERM (R143). -/
def permMember (f : PermFn) (fields : List Nat) (m : BitVec 3) (d : BitVec 5) : Member :=
  plainMember .mem true (fun st => !alignedAll st (d.toNat :: fields)) (fun r => vtWidth r.vt)
    (fun _ => modStrand (permuted f m.toNat d.toNat))

/-- The member VSLUP (R143). -/
def memberVslup (m : BitVec 3) (s' a d : BitVec 5) : Member :=
  permMember (fun r bs b j =>
    let x := (regRead r s'.toNat).toNat
    if x ≤ j then some (blockElem r bs a.toNat b (j - x)) else none) [a.toNat] m d

/-- VSLUP (R143). -/
def execVslup (m : BitVec 3) (s' a d : BitVec 5) (s : State) : Result :=
  runSolo (wordVR 0x37 0 m.toNat s'.toNat a.toNat d.toNat) (memberVslup m s' a d) s

/-- The member VSLDN (R143). -/
def memberVsldn (m : BitVec 3) (s' a d : BitVec 5) : Member :=
  permMember (fun r bs b j =>
    let x := (regRead r s'.toNat).toNat
    some (if j + x < vlbOf r.vt then blockElem r bs a.toNat b (j + x) else 0)) [a.toNat] m d

/-- VSLDN (R143). -/
def execVsldn (m : BitVec 3) (s' a d : BitVec 5) (s : State) : Result :=
  runSolo (wordVR 0x37 1 m.toNat s'.toNat a.toNat d.toNat) (memberVsldn m s' a d) s

/-- VGATHR (R133, R143): the index is unsigned and local to the block. -/
def gathrMember (m : BitVec 3) (b a d : BitVec 5) : Member :=
  plainMember .mem true (fun st => !intWidth st.r.vt || !alignedAll st [d.toNat, a.toNat, b.toNat]) (fun r => vtWidth r.vt)
    (fun _ => modStrand (permuted (fun r bs p j =>
      let k := blockElem r bs b.toNat p j
      some (if k < vlbOf r.vt then blockElem r bs a.toNat p k else 0)) m.toNat d.toNat))

/-- The member VGATHR (R143). -/
def memberVgathr (m : BitVec 3) (b a d : BitVec 5) : Member :=
  gathrMember m b a d

/-- VGATHR (R143). -/
def execVgathr (m : BitVec 3) (b a d : BitVec 5) (s : State) : Result :=
  runSolo (wordVR 0x37 2 m.toNat b.toNat a.toNat d.toNat) (memberVgathr m b a d) s

/-- The active local elements of a block below VL, ascending. -/
def activeElems (r : Regs) (b m : Nat) (bl : Block) : List Nat :=
  (List.range (belowVl r.vl (vlbOf r.vt) b)).filter (maskOn bl m)

/-- VCOMPR in one block (R144): the active elements first, then the tail. -/
def compressBlock (a d m : Nat) (r : Regs) (b : Nat) (c : Cell) : Cell :=
  let w := vtWidth r.vt
  let vs := (activeElems r b m c.bl).map (elemRead c.bl w a)
  let written := vs.zipIdx.foldl (fun c (v, k) => cellWrite w d k v c) c
  if vtTz r.vt then loopFrom (fun j c => cellWrite w d j 0 c) vs.length (vlbOf r.vt - vs.length) written else written

/-- A whole member that acts on each block in turn, and does nothing at VL = 0 (R112, R116). -/
def blockMember (pipe : Pipe) (bad : Strand → Bool) (f : Regs → Nat → Cell → Cell) : Member :=
  plainMember pipe true bad (fun r => vtWidth r.vt)
    (fun _ => modStrand fun st => if st.r.vl = 0 then st else onBlocks (f st.r) st)

/-- The member VCOMPR (R144). -/
def memberVcompr (m : BitVec 3) (a d : BitVec 5) : Member :=
  blockMember .mem (fun st => !alignedAll st [a.toNat, d.toNat]) (compressBlock a.toNat d.toNat m.toNat)

/-- VCOMPR (R144). -/
def execVcompr (m : BitVec 3) (a d : BitVec 5) (s : State) : Result :=
  runSolo (wordVR 0x37 3 m.toNat 0 a.toNat d.toNat) (memberVcompr m a d) s

/-- The member VREV (R143). -/
def memberVrev (m : BitVec 3) (a d : BitVec 5) : Member :=
  permMember (fun r bs b j =>
    let l := belowVl r.vl (vlbOf r.vt) b
    if j < l then some (blockElem r bs a.toNat b (l - 1 - j)) else none) [a.toNat] m d

/-- VREV (R143). -/
def execVrev (m : BitVec 3) (a d : BitVec 5) (s : State) : Result :=
  runSolo (wordVR 0x37 4 m.toNat 0 a.toNat d.toNat) (memberVrev m a d) s

/-- The member VXCHG.X (R143). -/
def memberVxchgX (m : BitVec 3) (s' a d : BitVec 5) : Member :=
  permMember (fun r bs b j => some (blockElem r bs a.toNat (b ^^^ (regRead r s'.toNat).toNat % bs.length) j)) [a.toNat] m d

/-- VXCHG.X (R143). -/
def execVxchgX (m : BitVec 3) (s' a d : BitVec 5) (s : State) : Result :=
  runSolo (wordVR 0x37 5 m.toNat s'.toNat a.toNat d.toNat) (memberVxchgX m s' a d) s

/-- The member VXCHG.R (R143). -/
def memberVxchgR (m : BitVec 3) (s' a d : BitVec 5) : Member :=
  permMember (fun r bs b j =>
    some (blockElem r bs a.toNat ((b + bs.length - (regRead r s'.toNat).toNat % bs.length) % bs.length) j)) [a.toNat] m d

/-- VXCHG.R (R143). -/
def execVxchgR (m : BitVec 3) (s' a d : BitVec 5) (s : State) : Result :=
  runSolo (wordVR 0x37 6 m.toNat s'.toNat a.toNat d.toNat) (memberVxchgR m s' a d) s

/-- An integer reduction in one block (R146): the seed, then the active elements in order, into local element 0. -/
def reduceBlock (f : IntFn) (m : Nat) (b a d : BitVec 5) (r : Regs) (p : Nat) (c : Cell) : Cell :=
  let w := vtWidth r.vt
  let v := (activeElems r p m c.bl).foldl (fun acc j => (f w acc (elemRead c.bl w a.toNat j) 0).v) (elemRead c.bl w b.toNat 0)
  cellWrite w d.toNat 0 v c

/-- VREDSUM to VREDXOR (R146). -/
def reduceMember (f : IntFn) (m : BitVec 3) (b a d : BitVec 5) : Member :=
  blockMember .int (fun st => !intWidth st.r.vt || !alignedAll st [a.toNat, b.toNat, d.toNat]) (reduceBlock f m.toNat b a d)

/-- The member VREDSUM (R146). -/
def memberVredsum (m : BitVec 3) (b a d : BitVec 5) : Member :=
  reduceMember viAdd m b a d

/-- VREDSUM (R146). -/
def execVredsum (m : BitVec 3) (b a d : BitVec 5) (s : State) : Result :=
  runSolo (wordVR 0x38 0 m.toNat b.toNat a.toNat d.toNat) (memberVredsum m b a d) s

/-- The member VREDMAX (R146). -/
def memberVredmax (m : BitVec 3) (b a d : BitVec 5) : Member :=
  reduceMember viMax m b a d

/-- VREDMAX (R146). -/
def execVredmax (m : BitVec 3) (b a d : BitVec 5) (s : State) : Result :=
  runSolo (wordVR 0x38 1 m.toNat b.toNat a.toNat d.toNat) (memberVredmax m b a d) s

/-- The member VREDMIN (R146). -/
def memberVredmin (m : BitVec 3) (b a d : BitVec 5) : Member :=
  reduceMember viMin m b a d

/-- VREDMIN (R146). -/
def execVredmin (m : BitVec 3) (b a d : BitVec 5) (s : State) : Result :=
  runSolo (wordVR 0x38 2 m.toNat b.toNat a.toNat d.toNat) (memberVredmin m b a d) s

/-- The member VREDMAXU (R146). -/
def memberVredmaxu (m : BitVec 3) (b a d : BitVec 5) : Member :=
  reduceMember viMaxu m b a d

/-- VREDMAXU (R146). -/
def execVredmaxu (m : BitVec 3) (b a d : BitVec 5) (s : State) : Result :=
  runSolo (wordVR 0x38 3 m.toNat b.toNat a.toNat d.toNat) (memberVredmaxu m b a d) s

/-- The member VREDMINU (R146). -/
def memberVredminu (m : BitVec 3) (b a d : BitVec 5) : Member :=
  reduceMember viMinu m b a d

/-- VREDMINU (R146). -/
def execVredminu (m : BitVec 3) (b a d : BitVec 5) (s : State) : Result :=
  runSolo (wordVR 0x38 4 m.toNat b.toNat a.toNat d.toNat) (memberVredminu m b a d) s

/-- The member VREDAND (R146). -/
def memberVredand (m : BitVec 3) (b a d : BitVec 5) : Member :=
  reduceMember viAnd m b a d

/-- VREDAND (R146). -/
def execVredand (m : BitVec 3) (b a d : BitVec 5) (s : State) : Result :=
  runSolo (wordVR 0x38 5 m.toNat b.toNat a.toNat d.toNat) (memberVredand m b a d) s

/-- The member VREDOR (R146). -/
def memberVredor (m : BitVec 3) (b a d : BitVec 5) : Member :=
  reduceMember viOr m b a d

/-- VREDOR (R146). -/
def execVredor (m : BitVec 3) (b a d : BitVec 5) (s : State) : Result :=
  runSolo (wordVR 0x38 6 m.toNat b.toNat a.toNat d.toNat) (memberVredor m b a d) s

/-- The member VREDXOR (R146). -/
def memberVredxor (m : BitVec 3) (b a d : BitVec 5) : Member :=
  reduceMember viXor m b a d

/-- VREDXOR (R146). -/
def execVredxor (m : BitVec 3) (b a d : BitVec 5) (s : State) : Result :=
  runSolo (wordVR 0x38 7 m.toNat b.toNat a.toNat d.toNat) (memberVredxor m b a d) s

/-- Widths of the integer selections (R133). -/
def selectWidth (vt : BitVec 13) : Bool := vtWidth vt == 32 || vtWidth vt == 64

/-- Candidate elements of a block, as local index and value. -/
abbrev Cands := List (Nat × Nat)

/-- The best of a list of candidates: the first one that no later one beats strictly (R147: ties go to the lower index). -/
def bestOf (beats : Nat → Nat → Bool) : Cands → Option (Nat × Nat)
  | [] => none
  | x :: t => some (t.foldl (fun best y => if beats y.2 best.2 then y else best) x)

/-- The active elements of a block with their values. -/
def candidates (r : Regs) (p m a : Nat) (bl : Block) : Cands :=
  (activeElems r p m bl).map fun j => (j, elemRead bl (vtWidth r.vt) a j)

/-- The index across the span, or all ones (R147). -/
def indexOrOnes (r : Regs) (p : Nat) : Option (Nat × Nat) → Nat
  | some x => (p * vlbOf r.vt + x.1) % 2 ^ vtWidth r.vt
  | none => 2 ^ vtWidth r.vt - 1

/-- VARGMAX and VARGMIN in one block (R147). -/
def argBlock (beats : Nat → Nat → Nat → Bool) (m : Nat) (a d : BitVec 5) (r : Regs) (p : Nat) (c : Cell) : Cell :=
  cellWrite (vtWidth r.vt) d.toNat 0
    (indexOrOnes r p (bestOf (beats (vtWidth r.vt)) (candidates r p m a.toNat c.bl))) c

/-- The k′ positions of VTOPK and VFTOPK (R148): indices of the candidates in order, then all ones. -/
def topBlock (k : Nat) (order : Cands → Cands) (cands : Cands) (d : BitVec 5) (r : Regs) (p : Nat) (c : Cell) : Cell :=
  let cs := order cands
  loopFrom (fun j c => cellWrite (vtWidth r.vt) d.toNat j (indexOrOnes r p cs[j]?) c) 0 (min k (vlbOf r.vt)) c

/-- Candidates by value descending under `above`, then by index (R148). -/
def orderDown (above : Nat → Nat → Bool) (cs : Cands) : Cands := sortBy (fun x y => !above y.2 x.2) cs

/-- A whole member on each block at every VL (R112, R148). -/
def topMember (bad : Strand → Bool) (f : Regs → Nat → Cell → Cell) : Member :=
  plainMember .int true bad (fun r => vtWidth r.vt) (fun _ => modStrand fun st => onBlocks (f st.r) st)

/-- The inclusive scan of one block (R150); `carried` is for VSCANC. -/
def scanBlock (carried : Bool) (m : Nat) (a d : BitVec 5) (r : Regs) (p : Nat) (c : Cell) : Cell :=
  let w := vtWidth r.vt
  let step := fun (x : Word × Cell) (j : Nat) =>
    let acc := x.1 + sext64 w (elemRead c.bl w a.toNat j)
    (acc, cellWrite w d.toNat j (acc.toNat % 2 ^ w) x.2)
  let y := (activeElems r p m c.bl).foldl step (if carried then c.bl.carry else 0, c)
  if carried then { y.2 with bl := { y.2.bl with carry := y.1 } } else y.2

/-- The elements of a scan's destination that are not active, by R111. -/
def scanRest (m : Nat) (d : BitVec 5) (st : Strand) : Strand :=
  elementwise m (fun _ _ _ c => c) (zeroElem d) wholeSpan st

/-- VSCAN and VSCANC (R150). -/
def scanMember (carried : Bool) (m : BitVec 3) (a d : BitVec 5) : Member :=
  plainMember .int true (fun st => !intWidth st.r.vt || !alignedAll st [a.toNat, d.toNat]) (fun r => vtWidth r.vt)
    (fun _ => modStrand fun st =>
      if st.r.vl = 0 then st else scanRest m.toNat d (onBlocks (scanBlock carried m.toNat a d st.r) st))

/-- The member VARGMAX (R147). -/
def memberVargmax (m : BitVec 3) (a d : BitVec 5) : Member :=
  blockMember .int (fun st => !selectWidth st.r.vt || !alignedAll st [a.toNat, d.toNat])
    (argBlock (fun w x y => decide (signedOf w y < signedOf w x)) m.toNat a d)

/-- VARGMAX (R147). -/
def execVargmax (m : BitVec 3) (a d : BitVec 5) (s : State) : Result :=
  runSolo (wordVR 0x38 8 m.toNat 0 a.toNat d.toNat) (memberVargmax m a d) s

/-- The member VARGMIN (R147). -/
def memberVargmin (m : BitVec 3) (a d : BitVec 5) : Member :=
  blockMember .int (fun st => !selectWidth st.r.vt || !alignedAll st [a.toNat, d.toNat])
    (argBlock (fun w x y => decide (signedOf w x < signedOf w y)) m.toNat a d)

/-- VARGMIN (R147). -/
def execVargmin (m : BitVec 3) (a d : BitVec 5) (s : State) : Result :=
  runSolo (wordVR 0x38 9 m.toNat 0 a.toNat d.toNat) (memberVargmin m a d) s

/-- The member VTOPK (R148). -/
def memberVtopk (m : BitVec 3) (s' a d : BitVec 5) : Member :=
  topMember (fun st => !selectWidth st.r.vt || !alignedAll st [a.toNat, d.toNat]) (fun r p c =>
    topBlock (regRead r s'.toNat).toNat (orderDown fun x y => decide (signedOf (vtWidth r.vt) y < signedOf (vtWidth r.vt) x))
      (candidates r p m.toNat a.toNat c.bl) d r p c)

/-- VTOPK (R148). -/
def execVtopk (m : BitVec 3) (s' a d : BitVec 5) (s : State) : Result :=
  runSolo (wordVR 0x38 14 m.toNat s'.toNat a.toNat d.toNat) (memberVtopk m s' a d) s

/-- The member VSCAN (R150). -/
def memberVscan (m : BitVec 3) (a d : BitVec 5) : Member :=
  scanMember false m a d

/-- VSCAN (R150). -/
def execVscan (m : BitVec 3) (a d : BitVec 5) (s : State) : Result :=
  runSolo (wordVR 0x38 16 m.toNat 0 a.toNat d.toNat) (memberVscan m a d) s

/-- The member VSCANC (R150). -/
def memberVscanc (m : BitVec 3) (a d : BitVec 5) : Member :=
  scanMember true m a d

/-- VSCANC (R150). -/
def execVscanc (m : BitVec 3) (a d : BitVec 5) (s : State) : Result :=
  runSolo (wordVR 0x38 17 m.toNat 0 a.toNat d.toNat) (memberVscanc m a d) s

end Sys2Proof.Machine
end

