-- ==== Sys2Proof/Machine/VecFp.lean ====
section
/-! DEFINITION. Vector floating point: arithmetic (R160 to R163), compares (R164), conversion (R166 to R172), block scales
and quantisation (R174 to R177), reductions and the carried scan (R178, R179), and the floating selections (R147, R148):
each instruction's member and its meaning alone in a convoy. -/

namespace Sys2Proof.Machine

open Sys2Proof.Config

/-- Formats of floating arithmetic (R160). -/
def fpFormat (vt : BitVec 13) : Bool := vtFmt vt ≤ 3

/-- An operation on two elements of a format, by a rounding mode and a random value. -/
abbrev FpFn := Nat → Nat → Nat → Nat → Nat → FpRes

/-- One active element of floating arithmetic (R161). `draws` says that the operation rounds by FRM, so that it takes a
draw when FRM is stochastic (R158). -/
def fpElem (f : FpFn) (draws : Bool) (x : Src) (a d : BitVec 5) (_b : Nat) (r : Regs) (j : Nat) (c : Cell) : Cell :=
  let fmt := vtFmt r.vt
  let w := vtWidth r.vt
  let u := cellDraw (if draws then frmMode r else 0) j c
  cellFp w d.toNat j (f fmt (elemRead c.bl w a.toNat j) (srcValue x r w j c.bl) (frmMode r) u.1) u.2

/-- VFP and VFPX (R160, R161). -/
def fpMember (f : FpFn) (draws : Bool) (m : BitVec 3) (x : Src) (a d : BitVec 5) : Member :=
  plainMember .fp false (fun st => !fpFormat st.r.vt || !alignedAll st (a.toNat :: d.toNat :: srcFields x))
    (fun r => vtWidth r.vt) (fun sp => modStrand (elementwise m.toNat (fpElem f draws x a d) (zeroElem d) sp))

/-- The sign bit of an element of a format. -/
def signBit (f x : Nat) : Nat := x / 2 ^ (fmtWidth f - 1) % 2

/-- An element with another sign bit (R161). -/
def withSignBit (f x s : Nat) : Nat := x % 2 ^ (fmtWidth f - 1) + s * 2 ^ (fmtWidth f - 1)

/-- VFADD on elements (R161, R162). -/
def vfAddFn : FpFn := fun f a b r u => fpAdd f a b r u

/-- VFSUB on elements (R161, R162). -/
def vfSubFn : FpFn := fun f a b r u => fpSub f a b r u

/-- VFMUL on elements (R161, R162). -/
def vfMulFn : FpFn := fun f a b r u => fpMul f a b r u

/-- VFDIV on elements (R161, R162). -/
def vfDivFn : FpFn := fun f a b r u => fpDiv f a b r u

/-- VFSQRT on elements (R161, R162). -/
def vfSqrtFn : FpFn := fun f a _ r u => fpSqrt f a r u

/-- VFMIN on elements (R161, R162). -/
def vfMinFn : FpFn := fun f a b _ _ => fpMinMax f a b false

/-- VFMAX on elements (R161, R162). -/
def vfMaxFn : FpFn := fun f a b _ _ => fpMinMax f a b true

/-- VFRSQ on elements (R161, R162). -/
def vfRsqFn : FpFn := fun f a _ r u => fpRsqrt f a r u

/-- VFRCP on elements (R161, R162). -/
def vfRcpFn : FpFn := fun f a _ r u => fpRecip f a r u

/-- VFEXP2 on elements (R161, R162). -/
def vfExp2Fn : FpFn := fun f a _ _ _ => fpExp2 f a

/-- VFLOG2 on elements (R161, R162). -/
def vfLog2Fn : FpFn := fun f a _ _ _ => fpLog2 f a

/-- VFABS on elements (R161, R162). -/
def vfAbsFn : FpFn := fun f a _ _ _ => fpQuiet (withSignBit f a 0)

/-- VFNEG on elements (R161, R162). -/
def vfNegFn : FpFn := fun f a _ _ _ => fpQuiet (withSignBit f a (1 - signBit f a))

/-- VFSGNJ on elements (R161, R162). -/
def vfSgnjFn : FpFn := fun f a b _ _ => fpQuiet (withSignBit f a (signBit f b))

/-- VFCLASS on elements (R161, R162). -/
def vfClassFn : FpFn := fun f a _ _ _ => fpQuiet (fpClass f a)

/-- The member VFADD on two groups (R161). -/
def memberVfadd (m : BitVec 3) (b a d : BitVec 5) : Member :=
  fpMember vfAddFn true m (.v b.toNat) a d

/-- VFADD on two groups (R161). -/
def execVfadd (m : BitVec 3) (b a d : BitVec 5) (s : State) : Result :=
  runSolo (wordVR 0x40 0 m.toNat b.toNat a.toNat d.toNat) (memberVfadd m b a d) s

/-- The member VFSUB on two groups (R161). -/
def memberVfsub (m : BitVec 3) (b a d : BitVec 5) : Member :=
  fpMember vfSubFn true m (.v b.toNat) a d

/-- VFSUB on two groups (R161). -/
def execVfsub (m : BitVec 3) (b a d : BitVec 5) (s : State) : Result :=
  runSolo (wordVR 0x40 1 m.toNat b.toNat a.toNat d.toNat) (memberVfsub m b a d) s

/-- The member VFMUL on two groups (R161). -/
def memberVfmul (m : BitVec 3) (b a d : BitVec 5) : Member :=
  fpMember vfMulFn true m (.v b.toNat) a d

/-- VFMUL on two groups (R161). -/
def execVfmul (m : BitVec 3) (b a d : BitVec 5) (s : State) : Result :=
  runSolo (wordVR 0x40 2 m.toNat b.toNat a.toNat d.toNat) (memberVfmul m b a d) s

/-- The member VFDIV on two groups (R161). -/
def memberVfdiv (m : BitVec 3) (b a d : BitVec 5) : Member :=
  fpMember vfDivFn true m (.v b.toNat) a d

/-- VFDIV on two groups (R161). -/
def execVfdiv (m : BitVec 3) (b a d : BitVec 5) (s : State) : Result :=
  runSolo (wordVR 0x40 3 m.toNat b.toNat a.toNat d.toNat) (memberVfdiv m b a d) s

/-- The member VFSQRT (R161). -/
def memberVfsqrt (m : BitVec 3) (a d : BitVec 5) : Member :=
  fpMember vfSqrtFn true m (.i 0) a d

/-- VFSQRT (R161). -/
def execVfsqrt (m : BitVec 3) (a d : BitVec 5) (s : State) : Result :=
  runSolo (wordVR 0x40 4 m.toNat 0 a.toNat d.toNat) (memberVfsqrt m a d) s

/-- The member VFMIN on two groups (R161). -/
def memberVfmin (m : BitVec 3) (b a d : BitVec 5) : Member :=
  fpMember vfMinFn false m (.v b.toNat) a d

/-- VFMIN on two groups (R161). -/
def execVfmin (m : BitVec 3) (b a d : BitVec 5) (s : State) : Result :=
  runSolo (wordVR 0x40 5 m.toNat b.toNat a.toNat d.toNat) (memberVfmin m b a d) s

/-- The member VFMAX on two groups (R161). -/
def memberVfmax (m : BitVec 3) (b a d : BitVec 5) : Member :=
  fpMember vfMaxFn false m (.v b.toNat) a d

/-- VFMAX on two groups (R161). -/
def execVfmax (m : BitVec 3) (b a d : BitVec 5) (s : State) : Result :=
  runSolo (wordVR 0x40 6 m.toNat b.toNat a.toNat d.toNat) (memberVfmax m b a d) s

/-- The member VFRSQ (R161). -/
def memberVfrsq (m : BitVec 3) (a d : BitVec 5) : Member :=
  fpMember vfRsqFn true m (.i 0) a d

/-- VFRSQ (R161). -/
def execVfrsq (m : BitVec 3) (a d : BitVec 5) (s : State) : Result :=
  runSolo (wordVR 0x40 7 m.toNat 0 a.toNat d.toNat) (memberVfrsq m a d) s

/-- The member VFRCP (R161). -/
def memberVfrcp (m : BitVec 3) (a d : BitVec 5) : Member :=
  fpMember vfRcpFn true m (.i 0) a d

/-- VFRCP (R161). -/
def execVfrcp (m : BitVec 3) (a d : BitVec 5) (s : State) : Result :=
  runSolo (wordVR 0x40 8 m.toNat 0 a.toNat d.toNat) (memberVfrcp m a d) s

/-- The member VFEXP2 (R161). -/
def memberVfexp2 (m : BitVec 3) (a d : BitVec 5) : Member :=
  fpMember vfExp2Fn false m (.i 0) a d

/-- VFEXP2 (R161). -/
def execVfexp2 (m : BitVec 3) (a d : BitVec 5) (s : State) : Result :=
  runSolo (wordVR 0x40 9 m.toNat 0 a.toNat d.toNat) (memberVfexp2 m a d) s

/-- The member VFLOG2 (R161). -/
def memberVflog2 (m : BitVec 3) (a d : BitVec 5) : Member :=
  fpMember vfLog2Fn false m (.i 0) a d

/-- VFLOG2 (R161). -/
def execVflog2 (m : BitVec 3) (a d : BitVec 5) (s : State) : Result :=
  runSolo (wordVR 0x40 10 m.toNat 0 a.toNat d.toNat) (memberVflog2 m a d) s

/-- The member VFABS (R161). -/
def memberVfabs (m : BitVec 3) (a d : BitVec 5) : Member :=
  fpMember vfAbsFn false m (.i 0) a d

/-- VFABS (R161). -/
def execVfabs (m : BitVec 3) (a d : BitVec 5) (s : State) : Result :=
  runSolo (wordVR 0x40 11 m.toNat 0 a.toNat d.toNat) (memberVfabs m a d) s

/-- The member VFNEG (R161). -/
def memberVfneg (m : BitVec 3) (a d : BitVec 5) : Member :=
  fpMember vfNegFn false m (.i 0) a d

/-- VFNEG (R161). -/
def execVfneg (m : BitVec 3) (a d : BitVec 5) (s : State) : Result :=
  runSolo (wordVR 0x40 12 m.toNat 0 a.toNat d.toNat) (memberVfneg m a d) s

/-- The member VFSGNJ on two groups (R161). -/
def memberVfsgnj (m : BitVec 3) (b a d : BitVec 5) : Member :=
  fpMember vfSgnjFn false m (.v b.toNat) a d

/-- VFSGNJ on two groups (R161). -/
def execVfsgnj (m : BitVec 3) (b a d : BitVec 5) (s : State) : Result :=
  runSolo (wordVR 0x40 13 m.toNat b.toNat a.toNat d.toNat) (memberVfsgnj m b a d) s

/-- The member VFCLASS (R161). -/
def memberVfclass (m : BitVec 3) (a d : BitVec 5) : Member :=
  fpMember vfClassFn false m (.i 0) a d

/-- VFCLASS (R161). -/
def execVfclass (m : BitVec 3) (a d : BitVec 5) (s : State) : Result :=
  runSolo (wordVR 0x40 14 m.toNat 0 a.toNat d.toNat) (memberVfclass m a d) s

/-- The member VFADD with a scalar (R161). -/
def memberVfaddVx (m : BitVec 3) (s' a d : BitVec 5) : Member :=
  fpMember vfAddFn true m (.s s'.toNat) a d

/-- VFADD with a scalar (R161). -/
def execVfaddVx (m : BitVec 3) (s' a d : BitVec 5) (s : State) : Result :=
  runSolo (wordVR 0x41 0 m.toNat s'.toNat a.toNat d.toNat) (memberVfaddVx m s' a d) s

/-- The member VFSUB with a scalar (R161). -/
def memberVfsubVx (m : BitVec 3) (s' a d : BitVec 5) : Member :=
  fpMember vfSubFn true m (.s s'.toNat) a d

/-- VFSUB with a scalar (R161). -/
def execVfsubVx (m : BitVec 3) (s' a d : BitVec 5) (s : State) : Result :=
  runSolo (wordVR 0x41 1 m.toNat s'.toNat a.toNat d.toNat) (memberVfsubVx m s' a d) s

/-- The member VFMUL with a scalar (R161). -/
def memberVfmulVx (m : BitVec 3) (s' a d : BitVec 5) : Member :=
  fpMember vfMulFn true m (.s s'.toNat) a d

/-- VFMUL with a scalar (R161). -/
def execVfmulVx (m : BitVec 3) (s' a d : BitVec 5) (s : State) : Result :=
  runSolo (wordVR 0x41 2 m.toNat s'.toNat a.toNat d.toNat) (memberVfmulVx m s' a d) s

/-- The member VFDIV with a scalar (R161). -/
def memberVfdivVx (m : BitVec 3) (s' a d : BitVec 5) : Member :=
  fpMember vfDivFn true m (.s s'.toNat) a d

/-- VFDIV with a scalar (R161). -/
def execVfdivVx (m : BitVec 3) (s' a d : BitVec 5) (s : State) : Result :=
  runSolo (wordVR 0x41 3 m.toNat s'.toNat a.toNat d.toNat) (memberVfdivVx m s' a d) s

/-- The member VFMIN with a scalar (R161). -/
def memberVfminVx (m : BitVec 3) (s' a d : BitVec 5) : Member :=
  fpMember vfMinFn false m (.s s'.toNat) a d

/-- VFMIN with a scalar (R161). -/
def execVfminVx (m : BitVec 3) (s' a d : BitVec 5) (s : State) : Result :=
  runSolo (wordVR 0x41 5 m.toNat s'.toNat a.toNat d.toNat) (memberVfminVx m s' a d) s

/-- The member VFMAX with a scalar (R161). -/
def memberVfmaxVx (m : BitVec 3) (s' a d : BitVec 5) : Member :=
  fpMember vfMaxFn false m (.s s'.toNat) a d

/-- VFMAX with a scalar (R161). -/
def execVfmaxVx (m : BitVec 3) (s' a d : BitVec 5) (s : State) : Result :=
  runSolo (wordVR 0x41 6 m.toNat s'.toNat a.toNat d.toNat) (memberVfmaxVx m s' a d) s

/-- The member VFSGNJ with a scalar (R161). -/
def memberVfsgnjVx (m : BitVec 3) (s' a d : BitVec 5) : Member :=
  fpMember vfSgnjFn false m (.s s'.toNat) a d

/-- VFSGNJ with a scalar (R161). -/
def execVfsgnjVx (m : BitVec 3) (s' a d : BitVec 5) (s : State) : Result :=
  runSolo (wordVR 0x41 13 m.toNat s'.toNat a.toNat d.toNat) (memberVfsgnjVx m s' a d) s

/-- One active element of the fused multiply-add family (R163). -/
def fmaElem (np nc : Bool) (x b a d : BitVec 5) (_p : Nat) (r : Regs) (j : Nat) (c : Cell) : Cell :=
  let w := vtWidth r.vt
  let u := cellDraw (frmMode r) j c
  cellFp w d.toNat j (fpFma (vtFmt r.vt) np nc (elemRead c.bl w a.toNat j) (elemRead c.bl w b.toNat j)
    (elemRead c.bl w x.toNat j) (frmMode r) u.1) u.2

/-- VFMA, VFNMA, VFMSA and VFNMSA (R163). -/
def fmaMember (np nc : Bool) (m : BitVec 3) (x b a d : BitVec 5) : Member :=
  plainMember .fp false (fun st => !fpFormat st.r.vt || !alignedAll st [a.toNat, b.toNat, x.toNat, d.toNat])
    (fun r => vtWidth r.vt) (fun sp => modStrand (elementwise m.toNat (fmaElem np nc x b a d) (zeroElem d) sp))

/-- The member VFMA (R163). -/
def memberVfma (m : BitVec 3) (x b a d : BitVec 5) : Member :=
  fmaMember false false m x b a d

/-- VFMA (R163). -/
def execVfma (m : BitVec 3) (x b a d : BitVec 5) (s : State) : Result :=
  runSolo (wordV4 0 m.toNat x.toNat b.toNat a.toNat d.toNat) (memberVfma m x b a d) s

/-- The member VFNMA (R163). -/
def memberVfnma (m : BitVec 3) (x b a d : BitVec 5) : Member :=
  fmaMember true false m x b a d

/-- VFNMA (R163). -/
def execVfnma (m : BitVec 3) (x b a d : BitVec 5) (s : State) : Result :=
  runSolo (wordV4 1 m.toNat x.toNat b.toNat a.toNat d.toNat) (memberVfnma m x b a d) s

/-- The member VFMSA (R163). -/
def memberVfmsa (m : BitVec 3) (x b a d : BitVec 5) : Member :=
  fmaMember false true m x b a d

/-- VFMSA (R163). -/
def execVfmsa (m : BitVec 3) (x b a d : BitVec 5) (s : State) : Result :=
  runSolo (wordV4 2 m.toNat x.toNat b.toNat a.toNat d.toNat) (memberVfmsa m x b a d) s

/-- The member VFNMSA (R163). -/
def memberVfnmsa (m : BitVec 3) (x b a d : BitVec 5) : Member :=
  fmaMember true true m x b a d

/-- VFNMSA (R163). -/
def execVfnmsa (m : BitVec 3) (x b a d : BitVec 5) (s : State) : Result :=
  runSolo (wordV4 3 m.toNat x.toNat b.toNat a.toNat d.toNat) (memberVfnmsa m x b a d) s

/-- One active element of a floating compare (R164). -/
def fcmpElem (cond : Nat) (x : Src) (a : BitVec 5) (d : BitVec 3) (_b : Nat) (r : Regs) (j : Nat) (c : Cell) : Cell :=
  let w := vtWidth r.vt
  let y := fpCompare (vtFmt r.vt) cond (elemRead c.bl w a.toNat j) (srcValue x r w j c.bl)
  cellFlags y.2 0 (cellMask d.toNat j y.1 c)

/-- VFCMP (R164). -/
def fcmpMember (cond : Nat) (m : BitVec 3) (x : Src) (a : BitVec 5) (d : BitVec 3) : Member :=
  plainMember .fp false (fun st => !fpFormat st.r.vt || !alignedAll st (a.toNat :: srcFields x))
    (fun r => vtWidth r.vt) (fun sp => modStrand (elementwise m.toNat (fcmpElem cond x a d) (zeroBit d) sp))

/-- The member VFCMP.EQ on two groups (R164). -/
def memberVfcmpEq (m : BitVec 3) (b a : BitVec 5) (d : BitVec 3) : Member :=
  fcmpMember 0 m (.v b.toNat) a d

/-- VFCMP.EQ on two groups (R164). -/
def execVfcmpEq (m : BitVec 3) (b a : BitVec 5) (d : BitVec 3) (s : State) : Result :=
  runSolo (wordVR 0x43 0 m.toNat b.toNat a.toNat d.toNat) (memberVfcmpEq m b a d) s

/-- The member VFCMP.NE on two groups (R164). -/
def memberVfcmpNe (m : BitVec 3) (b a : BitVec 5) (d : BitVec 3) : Member :=
  fcmpMember 1 m (.v b.toNat) a d

/-- VFCMP.NE on two groups (R164). -/
def execVfcmpNe (m : BitVec 3) (b a : BitVec 5) (d : BitVec 3) (s : State) : Result :=
  runSolo (wordVR 0x43 1 m.toNat b.toNat a.toNat d.toNat) (memberVfcmpNe m b a d) s

/-- The member VFCMP.LT on two groups (R164). -/
def memberVfcmpLt (m : BitVec 3) (b a : BitVec 5) (d : BitVec 3) : Member :=
  fcmpMember 2 m (.v b.toNat) a d

/-- VFCMP.LT on two groups (R164). -/
def execVfcmpLt (m : BitVec 3) (b a : BitVec 5) (d : BitVec 3) (s : State) : Result :=
  runSolo (wordVR 0x43 2 m.toNat b.toNat a.toNat d.toNat) (memberVfcmpLt m b a d) s

/-- The member VFCMP.LE on two groups (R164). -/
def memberVfcmpLe (m : BitVec 3) (b a : BitVec 5) (d : BitVec 3) : Member :=
  fcmpMember 3 m (.v b.toNat) a d

/-- VFCMP.LE on two groups (R164). -/
def execVfcmpLe (m : BitVec 3) (b a : BitVec 5) (d : BitVec 3) (s : State) : Result :=
  runSolo (wordVR 0x43 3 m.toNat b.toNat a.toNat d.toNat) (memberVfcmpLe m b a d) s

/-- The member VFCMP.GT on two groups (R164). -/
def memberVfcmpGt (m : BitVec 3) (b a : BitVec 5) (d : BitVec 3) : Member :=
  fcmpMember 4 m (.v b.toNat) a d

/-- VFCMP.GT on two groups (R164). -/
def execVfcmpGt (m : BitVec 3) (b a : BitVec 5) (d : BitVec 3) (s : State) : Result :=
  runSolo (wordVR 0x43 4 m.toNat b.toNat a.toNat d.toNat) (memberVfcmpGt m b a d) s

/-- The member VFCMP.GE on two groups (R164). -/
def memberVfcmpGe (m : BitVec 3) (b a : BitVec 5) (d : BitVec 3) : Member :=
  fcmpMember 5 m (.v b.toNat) a d

/-- VFCMP.GE on two groups (R164). -/
def execVfcmpGe (m : BitVec 3) (b a : BitVec 5) (d : BitVec 3) (s : State) : Result :=
  runSolo (wordVR 0x43 5 m.toNat b.toNat a.toNat d.toNat) (memberVfcmpGe m b a d) s

/-- The member VFCMP.UNORD on two groups (R164). -/
def memberVfcmpUnord (m : BitVec 3) (b a : BitVec 5) (d : BitVec 3) : Member :=
  fcmpMember 6 m (.v b.toNat) a d

/-- VFCMP.UNORD on two groups (R164). -/
def execVfcmpUnord (m : BitVec 3) (b a : BitVec 5) (d : BitVec 3) (s : State) : Result :=
  runSolo (wordVR 0x43 6 m.toNat b.toNat a.toNat d.toNat) (memberVfcmpUnord m b a d) s

/-- The member VFCMP.ORD on two groups (R164). -/
def memberVfcmpOrd (m : BitVec 3) (b a : BitVec 5) (d : BitVec 3) : Member :=
  fcmpMember 7 m (.v b.toNat) a d

/-- VFCMP.ORD on two groups (R164). -/
def execVfcmpOrd (m : BitVec 3) (b a : BitVec 5) (d : BitVec 3) (s : State) : Result :=
  runSolo (wordVR 0x43 7 m.toNat b.toNat a.toNat d.toNat) (memberVfcmpOrd m b a d) s

/-- The member VFCMP.EQ with a scalar (R164). -/
def memberVfcmpEqVx (m : BitVec 3) (s' a : BitVec 5) (d : BitVec 3) : Member :=
  fcmpMember 0 m (.s s'.toNat) a d

/-- VFCMP.EQ with a scalar (R164). -/
def execVfcmpEqVx (m : BitVec 3) (s' a : BitVec 5) (d : BitVec 3) (s : State) : Result :=
  runSolo (wordVR 0x43 32 m.toNat s'.toNat a.toNat d.toNat) (memberVfcmpEqVx m s' a d) s

/-- The member VFCMP.NE with a scalar (R164). -/
def memberVfcmpNeVx (m : BitVec 3) (s' a : BitVec 5) (d : BitVec 3) : Member :=
  fcmpMember 1 m (.s s'.toNat) a d

/-- VFCMP.NE with a scalar (R164). -/
def execVfcmpNeVx (m : BitVec 3) (s' a : BitVec 5) (d : BitVec 3) (s : State) : Result :=
  runSolo (wordVR 0x43 33 m.toNat s'.toNat a.toNat d.toNat) (memberVfcmpNeVx m s' a d) s

/-- The member VFCMP.LT with a scalar (R164). -/
def memberVfcmpLtVx (m : BitVec 3) (s' a : BitVec 5) (d : BitVec 3) : Member :=
  fcmpMember 2 m (.s s'.toNat) a d

/-- VFCMP.LT with a scalar (R164). -/
def execVfcmpLtVx (m : BitVec 3) (s' a : BitVec 5) (d : BitVec 3) (s : State) : Result :=
  runSolo (wordVR 0x43 34 m.toNat s'.toNat a.toNat d.toNat) (memberVfcmpLtVx m s' a d) s

/-- The member VFCMP.LE with a scalar (R164). -/
def memberVfcmpLeVx (m : BitVec 3) (s' a : BitVec 5) (d : BitVec 3) : Member :=
  fcmpMember 3 m (.s s'.toNat) a d

/-- VFCMP.LE with a scalar (R164). -/
def execVfcmpLeVx (m : BitVec 3) (s' a : BitVec 5) (d : BitVec 3) (s : State) : Result :=
  runSolo (wordVR 0x43 35 m.toNat s'.toNat a.toNat d.toNat) (memberVfcmpLeVx m s' a d) s

/-- The member VFCMP.GT with a scalar (R164). -/
def memberVfcmpGtVx (m : BitVec 3) (s' a : BitVec 5) (d : BitVec 3) : Member :=
  fcmpMember 4 m (.s s'.toNat) a d

/-- VFCMP.GT with a scalar (R164). -/
def execVfcmpGtVx (m : BitVec 3) (s' a : BitVec 5) (d : BitVec 3) (s : State) : Result :=
  runSolo (wordVR 0x43 36 m.toNat s'.toNat a.toNat d.toNat) (memberVfcmpGtVx m s' a d) s

/-- The member VFCMP.GE with a scalar (R164). -/
def memberVfcmpGeVx (m : BitVec 3) (s' a : BitVec 5) (d : BitVec 3) : Member :=
  fcmpMember 5 m (.s s'.toNat) a d

/-- VFCMP.GE with a scalar (R164). -/
def execVfcmpGeVx (m : BitVec 3) (s' a : BitVec 5) (d : BitVec 3) (s : State) : Result :=
  runSolo (wordVR 0x43 37 m.toNat s'.toNat a.toNat d.toNat) (memberVfcmpGeVx m s' a d) s

/-- The member VFCMP.UNORD with a scalar (R164). -/
def memberVfcmpUnordVx (m : BitVec 3) (s' a : BitVec 5) (d : BitVec 3) : Member :=
  fcmpMember 6 m (.s s'.toNat) a d

/-- VFCMP.UNORD with a scalar (R164). -/
def execVfcmpUnordVx (m : BitVec 3) (s' a : BitVec 5) (d : BitVec 3) (s : State) : Result :=
  runSolo (wordVR 0x43 38 m.toNat s'.toNat a.toNat d.toNat) (memberVfcmpUnordVx m s' a d) s

/-- The member VFCMP.ORD with a scalar (R164). -/
def memberVfcmpOrdVx (m : BitVec 3) (s' a : BitVec 5) (d : BitVec 3) : Member :=
  fcmpMember 7 m (.s s'.toNat) a d

/-- VFCMP.ORD with a scalar (R164). -/
def execVfcmpOrdVx (m : BitVec 3) (s' a : BitVec 5) (d : BitVec 3) (s : State) : Result :=
  runSolo (wordVR 0x43 39 m.toNat s'.toNat a.toNat d.toNat) (memberVfcmpOrdVx m s' a d) s

/-- A converted element (R168 to R172), for the pairs that convert. DEDUCED (log entry 23). -/
def cvtValue (dst src : Nat) (sat : Bool) (x mode u : Nat) : FpRes :=
  if src = 15 then scaleToFp dst x
  else if dst = 15 then fpToScale (fpDecode src x)
  else if src ≤ 8 then
    if dst ≤ 8 then fpToFp dst src x mode sat u
    else fpToIntRes (fmtWidth dst) (intMin dst) (intMax dst) (fpDecode src x) mode sat u
  else
    let i := intValue src x
    let y := if dst ≤ 8 then fpConvert dst (.fin (decide (i.1 < 0)) i.1.natAbs 0) mode sat u else intToInt dst i.1 sat
    { y with flags := y.flags ||| i.2 }

/-- The rounding mode of a VCVT rounding code (R48). -/
def cvtMode (r : Regs) (code : BitVec 3) : Nat := if code = 6 then frmMode r else code.toNat

/-- Whether R111 writes local element `j` of position `b`. -/
def writesElem (r : Regs) (m b : Nat) (bl : Block) (j : Nat) : Bool :=
  if b * vlbOf r.vt + j < r.vl then maskOn bl m j || vtMz r.vt else vtTz r.vt

/-- A field of position `b` as a strand held it before the element group: what the groups before it have committed (R5,
R115). -/
def heldElem (st : Strand) (b w a i : Nat) : Nat := (st.blocks[b]?).elim 0 fun bl => elemRead bl w a i

/-- One active element of VCVT (R167 to R172), from the strand before the element group. -/
def cvtElem (st : Strand) (t : BitVec 4) (rd : BitVec 3) (x : BitVec 1) (f : BitVec 4) (a d : BitVec 5) (b : Nat) (r : Regs)
    (j : Nat) (c : Cell) : Cell :=
  let mode := cvtMode r rd
  let u := cellDraw mode j c
  cellFp (fmtWidth t.toNat) d.toNat j
    (cvtValue t.toNat f.toNat (x == 1) (heldElem st b (fmtWidth f.toNat) a.toNat j) mode u.1) u.2

/-- R37 for an operand of another width (R166); more than 32 registers never pass. -/
def alignedAt (r : Regs) (w d : Nat) : Bool :=
  let g := groupRegs (vlbOf r.vt) w
  g ≤ 32 && aligned g d

/-- The member VCVT (R167 to R172). -/
def memberVcvt (t : BitVec 4) (r m : BitVec 3) (x : BitVec 1) (f : BitVec 4) (a d : BitVec 5) : Member :=
  plainMember .fp false
    (fun st => r == 7 || !Instr.convertible t f x r || !alignedAt st.r (fmtWidth f.toNat) a.toNat ||
      !alignedAt st.r (fmtWidth t.toNat) d.toNat)
    (fun _ => max (fmtWidth f.toNat) (fmtWidth t.toNat))
    (fun sp => modStrand fun st => elementwise m.toNat (cvtElem st t r x f a d)
      (fun _ _ j c => cellWrite (fmtWidth t.toNat) d.toNat j 0 c) sp st)

/-- VCVT (R167 to R172). -/
def execVcvt (t : BitVec 4) (r m : BitVec 3) (x : BitVec 1) (f : BitVec 4) (a d : BitVec 5) (s : State) : Result :=
  runSolo (wordWith 0x44 [(t.toNat, 28), (r.toNat, 25), (m.toNat, 22), (x.toNat, 21), (f.toNat, 17), (a.toNat, 12), (d.toNat, 7)]) (memberVcvt t r m x f a d) s

/-- VT and FP32 operand checks of the block-scale instructions (R174): FMT E4M3 to E2M1 or INT8, SBLK not 0. -/
def scaleFormat (vt : BitVec 13) : Bool := vtSblk vt != 0 && ((4 ≤ vtFmt vt && vtFmt vt ≤ 8) || vtFmt vt == 11)

/-- emax of R175. -/
def scaleEmax (f : Nat) : Nat :=
  match f with
  | 4 => 8
  | 5 => 15
  | 6 => 4
  | 11 => 6
  | _ => 2

/-- The scale of the active elements of one block (R175), as FP32 codes; a clamp sets SAT alone.
DEDUCED (log entries 24, 58). -/
def scaleOf (f : Nat) (xs : List Nat) : FpRes :=
  let vs := xs.map (fpDecode 1)
  if xs.isEmpty then fpQuiet 127
  else if vs.any FpVal.isNan then { bits := 0xFF, flags := if vs.any FpVal.isSnan then nvFlag else 0, nanc := 1 }
  else
    let amax := xs.foldl (fun a x => max a (x % 2 ^ 31)) 0
    if amax = 0x7F800000 then { bits := 0xFF, flags := nvFlag, nanc := 5 }
    else if amax = 0 then fpQuiet 0
    else
      match fpDecode 1 amax with
      | .fin _ m e =>
        let l := floorLog2 m e - scaleEmax f + 127
        if l < 0 then { bits := 0, flags := satFlag, nanc := 0 }
        else if 254 < l then { bits := 254, flags := satFlag, nanc := 0 }
        else fpQuiet l.toNat
      | _ => fpQuiet 0

/-- VSCALE for block `q` of position `p` (R174, R175), from the strand before the element group: blocks at or above the
effective length are tail. -/
def scaleStep (st : Strand) (m : BitVec 3) (a d : BitVec 5) (p : Nat) (r : Regs) (q : Nat) (c : Cell) : Cell :=
  let k := vtSblk r.vt
  let l := belowVl r.vl (vlbOf r.vt) p
  if q * k < l then
    let js := ((List.range k).map (q * k + ·)).filter fun j => j < l && maskOn c.bl m.toNat j
    cellFp 8 d.toNat q (scaleOf (vtFmt r.vt) (js.map fun j => heldElem st p 32 a.toNat j)) c
  else if vtTz r.vt then cellWrite 8 d.toNat q 0 c else c

/-- The scale bytes of a span: those of the blocks whose last element it holds, and in the last span the rest of the
register. DEDUCED (log entry 24). -/
def scaleSpan (m : BitVec 3) (a d : BitVec 5) (sp : Span) (st : Strand) : Strand :=
  if st.r.vl = 0 then st
  else
    let k := vtSblk st.r.vt
    let stop := fun (j : Nat) => min (j / k) 2048
    onBlocks (fun p c =>
      let lo := stop sp.lo
      let hi := if sp.last then (if vtTz st.r.vt then 2048 else (belowVl st.r.vl (vlbOf st.r.vt) p + k - 1) / k) else stop sp.hi
      if sp.only.any (· != p) then c else loopFrom (scaleStep st m a d p st.r) lo (hi - lo) c) st

/-- A finite value or infinity times 2^k. -/
def FpVal.scale (v : FpVal) (k : Int) : FpVal :=
  match v with
  | .fin n m e => .fin n m (e + k)
  | x => x

/-- VQNT of one FP32 element under scale byte `e` (R176); a NaN scale gives cause 2 to a NaN element too.
DEDUCED (log entries 24, 58). -/
def quantValue (f : Nat) (x e mode u : Nat) : FpRes :=
  if e = 255 then genInvalid f 2
  else
    match fpDecode 1 x with
    | .nan s => genFromNan f s
    | v =>
      let y := v.scale (127 - (e : Int))
      if f = 11 then
        let z := fpToIntRes 8 (-128) 127 y mode true u
        match y with
        | .fin _ _ _ => if z.flags &&& satFlag = 0 then z else { z with flags := z.flags ||| nxFlag }
        | _ => z
      else fpConvert f y mode true u

/-- VDQNT of one element under scale byte `e` (R177). -/
def dequantValue (f : Nat) (x e mode u : Nat) : FpRes :=
  let v := if f = 11 then FpVal.fin (decide (signedOf 8 x < 0)) (signedOf 8 x).natAbs 0 else fpDecode f x
  match v with
  | .nan s => genFromNan 1 s
  | v => if e = 255 then genInvalid 1 2 else fpConvert 1 (v.scale ((e : Int) - 127)) mode false u

/-- One active element of VQNT, from the strand before the element group. -/
def quantElem (st : Strand) (x a d : BitVec 5) (b : Nat) (r : Regs) (j : Nat) (c : Cell) : Cell :=
  let u := cellDraw (frmMode r) j c
  cellFp (vtWidth r.vt) d.toNat j
    (quantValue (vtFmt r.vt) (heldElem st b 32 a.toNat j) (heldElem st b 8 x.toNat (j / vtSblk r.vt)) (frmMode r) u.1) u.2

/-- One active element of VDQNT, from the strand before the element group. -/
def dequantElem (st : Strand) (x a d : BitVec 5) (b : Nat) (r : Regs) (j : Nat) (c : Cell) : Cell :=
  let u := cellDraw (frmMode r) j c
  cellFp 32 d.toNat j
    (dequantValue (vtFmt r.vt) (heldElem st b (vtWidth r.vt) a.toNat j) (heldElem st b 8 x.toNat (j / vtSblk r.vt))
      (frmMode r) u.1) u.2

/-- The member VSCALE (R174, R175). -/
def memberVscale (m : BitVec 3) (a d : BitVec 5) : Member :=
  plainMember .fp false (fun st => !scaleFormat st.r.vt || !alignedAt st.r 32 a.toNat) (fun _ => 32)
    (fun sp => modStrand (scaleSpan m a d sp))

/-- VSCALE (R174, R175). -/
def execVscale (m : BitVec 3) (a d : BitVec 5) (s : State) : Result :=
  runSolo (wordVR 0x45 0 m.toNat 0 a.toNat d.toNat) (memberVscale m a d) s

/-- The member VQNT (R174, R176). -/
def memberVqnt (m : BitVec 3) (b a d : BitVec 5) : Member :=
  plainMember .fp false (fun st => !scaleFormat st.r.vt || !alignedAt st.r 32 a.toNat || !alignedAll st [d.toNat])
    (fun _ => 32) (fun sp => modStrand fun st => elementwise m.toNat (quantElem st b a d) (zeroElem d) sp st)

/-- VQNT (R174, R176). -/
def execVqnt (m : BitVec 3) (b a d : BitVec 5) (s : State) : Result :=
  runSolo (wordVR 0x45 1 m.toNat b.toNat a.toNat d.toNat) (memberVqnt m b a d) s

/-- The member VDQNT (R174, R177). -/
def memberVdqnt (m : BitVec 3) (b a d : BitVec 5) : Member :=
  plainMember .fp false (fun st => !scaleFormat st.r.vt || !alignedAt st.r 32 d.toNat || !alignedAll st [a.toNat])
    (fun _ => 32) (fun sp => modStrand fun st => elementwise m.toNat (dequantElem st b a d)
      (fun _ _ j c => cellWrite 32 d.toNat j 0 c) sp st)

/-- VDQNT (R174, R177). -/
def execVdqnt (m : BitVec 3) (b a d : BitVec 5) (s : State) : Result :=
  runSolo (wordVR 0x45 2 m.toNat b.toNat a.toNat d.toNat) (memberVdqnt m b a d) s

/-- One step of a floating reduction: the new value and the cell with its flags and, when the step rounds, its draw
(R178). -/
def reduceStep (f : FpFn) (draws : Bool) (r : Regs) (j : Nat) (x y : Nat) (c : Cell) : Nat × Cell :=
  let u := cellDraw (if draws then frmMode r else 0) j c
  let z := f (vtFmt r.vt) x y (frmMode r) u.1
  (z.bits, cellFlags z.flags z.nanc u.2)

/-- VFREDSUM and VFREDMAX in one block (R178). -/
def foldBlock (f : FpFn) (draws : Bool) (m : BitVec 3) (b a d : BitVec 5) (r : Regs) (p : Nat) (c : Cell) : Cell :=
  let w := vtWidth r.vt
  let y := (activeElems r p m.toNat c.bl).foldl
    (fun (x : Nat × Cell) j => reduceStep f draws r j x.1 (elemRead c.bl w a.toNat j) x.2) (elemRead c.bl w b.toNat 0, c)
  cellWrite w d.toNat 0 y.1 y.2

/-- One stride of VFREDTREE: node `j` of the lower half with its partner (R178). -/
def treeLevel (r : Regs) : Nat → List (Option Nat) → List (Option Nat) → Cell → List (Option Nat) × Cell
  | j, some x :: xs, some y :: ys, c =>
    let z := reduceStep vfAddFn true r j x y c
    let t := treeLevel r (j + 1) xs ys z.2
    (some z.1 :: t.1, t.2)
  | j, x :: xs, y :: ys, c =>
    let t := treeLevel r (j + 1) xs ys c
    (x.or y :: t.1, t.2)
  | _, xs, _, c => (xs, c)

/-- The strides of VFREDTREE from `2^(k-1)` down to 1. -/
def treeFrom (r : Regs) : Nat → List (Option Nat) → Cell → Option Nat × Cell
  | 0, xs, c => (xs.headD none, c)
  | k + 1, xs, c =>
    let t := treeLevel r 0 (xs.take (2 ^ k)) (xs.drop (2 ^ k)) c
    treeFrom r k t.1 t.2

/-- VFREDTREE in one block (R178). -/
def treeBlock (m : BitVec 3) (b a d : BitVec 5) (r : Regs) (p : Nat) (c : Cell) : Cell :=
  let w := vtWidth r.vt
  let vlb := vlbOf r.vt
  let xs := (List.range vlb).map fun j =>
    if isActive r.vl vlb p m.toNat c.bl j then some (elemRead c.bl w a.toNat j) else none
  let seed := elemRead c.bl w b.toNat 0
  let t := treeFrom r (Nat.log2 vlb) xs c
  match t.1 with
  | none => cellWrite w d.toNat 0 seed t.2
  | some x =>
    let z := reduceStep vfAddFn true r 0 seed x t.2
    cellWrite w d.toNat 0 z.1 z.2

/-- The floating reductions (R178). -/
def fpReduceMember (f : BitVec 3 → BitVec 5 → BitVec 5 → BitVec 5 → Regs → Nat → Cell → Cell) (m : BitVec 3)
    (b a d : BitVec 5) : Member :=
  blockMember .fp (fun st => !fpFormat st.r.vt || !alignedAll st [a.toNat, b.toNat, d.toNat]) (f m b a d)

/-- VFSCANC in one block (R150, R179). DEDUCED (log entry 24). -/
def fscanBlock (m : BitVec 3) (a d : BitVec 5) (r : Regs) (p : Nat) (c : Cell) : Cell :=
  let w := vtWidth r.vt
  let step := fun (x : Nat × Cell) (j : Nat) =>
    let z := reduceStep vfAddFn true r j x.1 (elemRead c.bl w a.toNat j) x.2
    (z.1, cellWrite w d.toNat j z.1 z.2)
  let y := (activeElems r p m.toNat c.bl).foldl step (c.bl.carry.toNat % 2 ^ w, c)
  { y.2 with bl := { y.2.bl with carry := BitVec.ofNat 64 y.1 } }

/-- Whether value `y` lies below value `x` in the order of R147, where −0 lies below +0. -/
def fpAbove (f x y : Nat) : Bool :=
  let vx := fpDecode f x
  let vy := fpDecode f y
  fpLt vy vx || (fpEq vy vx && vy.sign && !vx.sign)

/-- The candidates of a floating selection (R147): NaNs are left out, and a signalling one sets NV. -/
def fpCandidates (r : Regs) (p m a : Nat) (c : Cell) : Cands × Cell :=
  let all := candidates r p m a c.bl
  (all.filter fun x => !(fpDecode (vtFmt r.vt) x.2).isNan,
    if all.any fun x => (fpDecode (vtFmt r.vt) x.2).isSnan then cellFlags nvFlag 0 c else c)

/-- Formats of the floating selections (R133). -/
def fpSelect (vt : BitVec 13) : Bool := vtFmt vt ≤ 1

/-- VFARGMAX in one block (R147). -/
def fargBlock (m : BitVec 3) (a d : BitVec 5) (r : Regs) (p : Nat) (c : Cell) : Cell :=
  let x := fpCandidates r p m.toNat a.toNat c
  cellWrite (vtWidth r.vt) d.toNat 0 (indexOrOnes r p (bestOf (fpAbove (vtFmt r.vt)) x.1)) x.2

/-- VFTOPK in one block (R148); a signalling NaN sets NV whatever k is. DESIGN CHOICE (log entry 58). -/
def ftopBlock (m : BitVec 3) (s' a d : BitVec 5) (r : Regs) (p : Nat) (c : Cell) : Cell :=
  let x := fpCandidates r p m.toNat a.toNat c
  topBlock (regRead r s'.toNat).toNat (orderDown (fpAbove (vtFmt r.vt))) x.1 d r p x.2

/-- The member VFREDSUM (R178). -/
def memberVfredsum (m : BitVec 3) (b a d : BitVec 5) : Member :=
  fpReduceMember (foldBlock vfAddFn true) m b a d

/-- VFREDSUM (R178). -/
def execVfredsum (m : BitVec 3) (b a d : BitVec 5) (s : State) : Result :=
  runSolo (wordVR 0x38 10 m.toNat b.toNat a.toNat d.toNat) (memberVfredsum m b a d) s

/-- The member VFREDTREE (R178). -/
def memberVfredtree (m : BitVec 3) (b a d : BitVec 5) : Member :=
  fpReduceMember treeBlock m b a d

/-- VFREDTREE (R178). -/
def execVfredtree (m : BitVec 3) (b a d : BitVec 5) (s : State) : Result :=
  runSolo (wordVR 0x38 11 m.toNat b.toNat a.toNat d.toNat) (memberVfredtree m b a d) s

/-- The member VFREDMAX (R178). -/
def memberVfredmax (m : BitVec 3) (b a d : BitVec 5) : Member :=
  fpReduceMember (foldBlock vfMaxFn false) m b a d

/-- VFREDMAX (R178). -/
def execVfredmax (m : BitVec 3) (b a d : BitVec 5) (s : State) : Result :=
  runSolo (wordVR 0x38 12 m.toNat b.toNat a.toNat d.toNat) (memberVfredmax m b a d) s

/-- The member VFARGMAX (R147). -/
def memberVfargmax (m : BitVec 3) (a d : BitVec 5) : Member :=
  blockMember .fp (fun st => !fpSelect st.r.vt || !alignedAll st [a.toNat, d.toNat]) (fargBlock m a d)

/-- VFARGMAX (R147). -/
def execVfargmax (m : BitVec 3) (a d : BitVec 5) (s : State) : Result :=
  runSolo (wordVR 0x38 13 m.toNat 0 a.toNat d.toNat) (memberVfargmax m a d) s

/-- The member VFTOPK (R148). -/
def memberVftopk (m : BitVec 3) (s' a d : BitVec 5) : Member :=
  { topMember (fun st => !fpSelect st.r.vt || !alignedAll st [a.toNat, d.toNat]) (ftopBlock m s' a d) with pipe := .fp }

/-- VFTOPK (R148). -/
def execVftopk (m : BitVec 3) (s' a d : BitVec 5) (s : State) : Result :=
  runSolo (wordVR 0x38 15 m.toNat s'.toNat a.toNat d.toNat) (memberVftopk m s' a d) s

/-- The member VFSCANC (R179). -/
def memberVfscanc (m : BitVec 3) (a d : BitVec 5) : Member :=
  plainMember .fp true (fun st => !fpFormat st.r.vt || !alignedAll st [a.toNat, d.toNat]) (fun r => vtWidth r.vt)
    (fun _ => modStrand fun st =>
      if st.r.vl = 0 then st else scanRest m.toNat d (onBlocks (fscanBlock m a d st.r) st))

/-- VFSCANC (R179). -/
def execVfscanc (m : BitVec 3) (a d : BitVec 5) (s : State) : Result :=
  runSolo (wordVR 0x38 18 m.toNat 0 a.toNat d.toNat) (memberVfscanc m a d) s

end Sys2Proof.Machine
end

