-- ==== Sys2Proof/Machine/VecMem.lean ====
section
/-! DEFINITION. Vector memory (R195 to R201), lane slices (R203), spill and fill (R205, R206) and CACHE (R207 to R212):
each instruction's member and its meaning alone in a convoy. -/

namespace Sys2Proof.Machine

open Sys2Proof.Config

/-! ### Widths and conversion (R195, R196) -/

/-- Memory width of a width code (R33, R195). -/
def vmWidth (vt : BitVec 13) (w : BitVec 3) : Nat :=
  match w.toNat with
  | 0 => 8
  | 1 => 16
  | 2 => 32
  | 3 => 64
  | 4 => 4
  | 5 => 6
  | 6 => 2
  | _ => vtWidth vt

/-- Whether elements of VT.FMT move to and from memory width `wm` (R196). -/
def vmPair (vt : BitVec 13) (wm : Nat) : Bool :=
  wm == vtWidth vt ||
  match vtFmt vt with
  | 9 => [8, 16, 32, 64].contains wm
  | 10 => [8, 16, 32, 64].contains wm
  | 11 => [8, 16, 32, 64].contains wm
  | 14 => [16, 32, 64].contains wm
  | 1 => wm == 16
  | 0 => wm == 32
  | _ => false

/-- The float format a memory width holds beside VT.FMT, if the move rounds or widens a float (R196). -/
def vmFloat (vt : BitVec 13) (wm : Nat) : Option Nat :=
  if vtFmt vt = 1 ∧ wm = 16 then some 2 else if vtFmt vt = 0 ∧ wm = 32 then some 1 else none

/-- A loaded element in the register format (R196). -/
def widenElem (vt : BitVec 13) (wm v : Nat) : FpRes :=
  match vmFloat vt wm with
  | some f => fpToFp (vtFmt vt) f v 0 false 0
  | none =>
    if wm = vtWidth vt then fpQuiet v
    else if vtFmt vt = 14 then fpQuiet (v % 256)
    else fpQuiet (intBits (vtWidth vt) (signedOf wm v))

/-- A stored element in memory width (R196). -/
def narrowElem (vt : BitVec 13) (wm v mode u : Nat) : FpRes :=
  match vmFloat vt wm with
  | some f => fpToFp f (vtFmt vt) v mode false u
  | none =>
    if wm = vtWidth vt || vtFmt vt = 14 then fpQuiet v
    else fpQuiet (intBits wm (signedOf (vtWidth vt) v))

/-! ### Elements that act on memory -/

/-- An action on the numbers from `j` on, `n` of them. -/
def loopM (f : Nat → M Unit) (j : Nat) : Nat → M Unit
  | 0 => return ()
  | n + 1 => do
    f j
    loopM f (j + 1) n

/-- One element by R111: `act` when it is active, `zero` for the others that R111 writes. -/
def elemM (r : Regs) (m : Nat) (act : Nat → Nat → M Unit) (zero : Block → Nat → Block) (b j : Nat) : M Unit := do
  if b * vlbOf r.vt + j < r.vl then
    let bl ← getBlock b
    if maskOn bl m j then act b j
    else if vtMz r.vt then setBlock b (zero bl j)
  else if vtTz r.vt then modBlock b fun bl => zero bl j

/-- The elements of a span of a load, position by position. -/
def loadElems (m : Nat) (act : Nat → Nat → M Unit) (zero : Block → Nat → Block) (sp : Span) : M Unit := do
  let st ← getStrand
  if st.r.vl = 0 then return ()
  else
    loopM (fun b => loopM (elemM st.r m act zero b) sp.lo (min sp.hi (elemEnd st.r b) - sp.lo)) 0 (spanOf st)

/-- The active elements of a span of a store, position by position. -/
def storeElems (m : Nat) (act : Nat → Nat → M Unit) (sp : Span) : M Unit := do
  let st ← getStrand
  let one := fun (b j : Nat) => do
    let bl ← getBlock b
    if maskOn bl m j then act b j
  loopM (fun b => loopM (one b) sp.lo (min sp.hi (belowVl st.r.vl (vlbOf st.r.vt) b) - sp.lo)) 0 (spanOf st)

/-- Loads `wm` bits from bit `bit` of the byte at `va` (R197, R200). -/
def loadBits (b va bit wm : Nat) (rq : BitVec 2) : M Nat := do
  let v ← loadValue b (va % 2 ^ 64) ((bit + wm + 7) / 8) rq true
  return v / 2 ^ bit % 2 ^ wm

/-- Stores `wm` bits from bit `bit` of the byte at `va`; `skip` names bytes, by their offset, that keep a
higher-indexed element's value (R193, R197), `full` gives bytes that the store's elements fill together (R200). -/
def storeBits (b va bit wm v : Nat) (skip : Nat → Bool) (full : Nat → Option Byte) (rq : BitVec 2) (nt packet : Bool) : M Unit :=
  let n := (bit + wm + 7) / 8
  let xs := leBytes n (v * 2 ^ bit)
  let ms := leBytes n ((2 ^ wm - 1) * 2 ^ bit)
  storeMasked b (va % 2 ^ 64)
    ((xs.zip ms).zipIdx.map fun (x, i) => if skip i then (x.1, 0) else (full i).elim x fun y => (y, 255)) rq nt packet true true

/-- The bit address of an element, from the registers, its block, its position and its local index. -/
abbrev AddrFn := Regs → Block → Nat → Nat → Nat

/-- Whether the byte at `va` is written by an active element of a higher position that an earlier group has already
stored (R197: the highest-indexed element's value stays). -/
def shadowed (m wm lo : Nat) (addr : AddrFn) (st : Strand) (b va : Nat) : Bool :=
  lo != 0 && st.blocks.zipIdx.any fun (bl, p) =>
    b < p && (List.range (min lo (belowVl st.r.vl (vlbOf st.r.vt) p))).any fun j =>
      maskOn bl m j &&
        let a := addr st.r bl p j / 8 % 2 ^ 64
        (va + 2 ^ 64 - a) % 2 ^ 64 < wm / 8

/-- One active element of a load into group `d` (R197). -/
def loadElem (addr : AddrFn) (wm : Nat) (rq : BitVec 2) (d b j : Nat) : M Unit := do
  let st ← getStrand
  let bl ← getBlock b
  let a := addr st.r bl b j
  let v ← loadBits b (a / 8) (a % 8) wm rq
  let x := widenElem st.r.vt wm v
  raiseFlags x.flags x.nanc
  modBlock b fun bl => elemWrite bl (vtWidth st.r.vt) d j x.bits

/-- The active local elements of position `b` in a span. -/
def activeIn (m : Nat) (sp : Span) (st : Strand) (bl : Block) (b : Nat) : List Nat :=
  (List.range (min sp.hi (belowVl st.r.vl (vlbOf st.r.vt) b))).filter fun k => sp.lo ≤ k && maskOn bl m k

/-- Whether an element of a strided store goes as part of a request packet (R192): its type is uncached, nt is 1, or its page
has HOME 3; strongly ordered pages use none. -/
def inPacket (s : State) (b va n : Nat) (rq : BitVec 2) (nt : Bool) : Bool :=
  match checkAccess b va n .write s with
  | .ok (.ok ps) _ => (rq == 3 || nt || ps.any (·.home == 3)) && ps.all (·.ord != 1)
  | _ => false

/-- The page an element of `n` bytes at an address lies in, if it lies in one. -/
def onePage (va n : Nat) : Option Nat := if va % 4096 + n ≤ 4096 then some (va / 4096) else none

/-- Whether a higher-indexed element of the same packet writes the byte at `va` of local element `j`: the bay sends only that
element's byte (R192, R193). A packet is a run of active elements in one page, here of one element group, which commits by
itself. DEDUCED (log entry 28). -/
def resolved (m wm : Nat) (sp : Span) (addr : AddrFn) (st : Strand) (bl : Block) (b j va : Nat) : Bool :=
  let at_ := fun (k : Nat) => addr st.r bl b k / 8 % 2 ^ 64
  let home := onePage (at_ j) (wm / 8)
  home.isSome && (((activeIn m sp st bl b).filter fun k => j < k).takeWhile fun k => onePage (at_ k) (wm / 8) == home).any
    fun k => (va + 2 ^ 64 - at_ k) % 2 ^ 64 < wm / 8

/-- The byte at address `a` where the active elements of a span that lie in it fill it together: no bit of it stays
untouched (R200). -/
def filledByte (m wm : Nat) (sp : Span) (addr : AddrFn) (d : Nat) (st : Strand) (bl : Block) (b a : Nat) : Option Byte :=
  let bit := fun (i : Nat) =>
    ((activeIn m sp st bl b).find? fun k => addr st.r bl b k ≤ 8 * a + i && 8 * a + i < addr st.r bl b k + wm).map fun k =>
      (elemRead bl (vtWidth st.r.vt) d k).testBit (8 * a + i - addr st.r bl b k)
  let bits := (List.range 8).map bit
  if bits.all (·.isSome) then some (BitVec.ofNat 8 (bits.zipIdx.foldl (fun x y => x + (if y.1 = some true then 2 ^ y.2 else 0)) 0))
  else none

/-- One active element of a store from group `d` (R197). -/
def storeElem (m : Nat) (sp : Span) (addr : AddrFn) (scatter packets : Bool) (wm : Nat) (rq : BitVec 2) (nt : Bool) (d b j : Nat) :
    M Unit := do
  let st ← getStrand
  let bl ← getBlock b
  let a := addr st.r bl b j
  let mode := if (vmFloat st.r.vt wm).isSome then frmMode st.r else 0
  let u ← drawFor mode b j
  let x := narrowElem st.r.vt wm (elemRead bl (vtWidth st.r.vt) d j) mode u
  let va := a / 8 % 2 ^ 64
  let s ← get
  let sent := packets && inPacket s b va (wm / 8) rq nt
  storeBits b va (a % 8) wm x.bits
    (fun i => (scatter && shadowed m wm sp.lo addr st b (va + i)) || (sent && resolved m wm sp addr st bl b j (va + i)))
    (fun i => if wm < 8 then filledByte m wm sp addr d st bl b (a / 8 + i) else none) rq nt (packets && nt)
  raiseFlags x.flags x.nanc

/-- Words of memory that the elements a group has stored fill together, of `n` bytes each, lose their poison (R435); what was
logged instead of being stored fills nothing. DEDUCED (log entry 45). -/
def clearFilled (b n : Nat) (vas : List Nat) : M Unit := do
  let s ← get
  if s.poison.isEmpty then return ()
  else
    let st ← getStrand
    let covered := fun (a : Nat) => vas.any fun v => (a + 2 ^ 64 - v) % 2 ^ 64 < n
    (dedup (vas.map fun v => v / 8 * 8)).forM fun w => do
      if (List.range 8).all (fun i => covered (w + i)) && !overlapsLog st w 8 then
        match ← translatePages b .write [w] with
        | .ok [(_, p)] => modify fun s => clearPoison s p.pa 8
        | _ => return ()
      else return ()

/-- The words that the active elements of a span fill, position by position. -/
def clearSpan (m wm : Nat) (sp : Span) (addr : AddrFn) : M Unit := do
  let st ← getStrand
  let vas := fun (b : Nat) => (st.blocks[b]?).elim [] fun bl => (activeIn m sp st bl b).map fun j => addr st.r bl b j / 8 % 2 ^ 64
  loopM (fun b => clearFilled b (wm / 8) (vas b)) 0 (spanOf st)

/-- A destination element written zero (R111). -/
def zeroReg (vt : BitVec 13) (d : Nat) (bl : Block) (j : Nat) : Block := elemWrite bl (vtWidth vt) d j 0

/-- The request type of a vector load: with nt = 1 each of its lines is served as uncached, by packets for VLDS (R192,
R194). -/
def loadType (n : BitVec 1) (rq : BitVec 2) : BitVec 2 := if n = 1 then 3 else rq

/-- A MEM member that loads group `d` element by element. -/
def loadMember (bad : Strand → Bool) (width : Regs → Nat) (addr : Nat → AddrFn) (n : BitVec 1) (w : BitVec 3) (rq : BitVec 2)
    (m : BitVec 3) (d : BitVec 5) : Member :=
  plainMember .mem false bad width fun sp => do
    let r ← getRegs
    let wm := vmWidth r.vt w
    loadElems m.toNat (loadElem (addr wm) wm (loadType n rq) d.toNat) (zeroReg r.vt d.toNat) sp

/-- A MEM member that stores group `d` element by element; `scatter` where elements may write the same bytes, `packets` where
they may go as packets (R192). -/
def storeMember (bad : Strand → Bool) (width : Regs → Nat) (addr : Nat → AddrFn) (scatter packets : Bool) (n : BitVec 1)
    (w : BitVec 3) (rq : BitVec 2) (m : BitVec 3) (d : BitVec 5) : Member :=
  plainMember .mem false bad width fun sp => do
    let r ← getRegs
    let wm := vmWidth r.vt w
    storeElems m.toNat (storeElem m.toNat sp (addr wm) scatter packets wm rq (n == 1) d.toNat) sp
    clearSpan m.toNat wm sp (addr wm)

/-! ### The addressing forms (R195) -/

/-- VLD, VST: element i at bit s[sa] × 8 + o + i × wm (R195, R200). -/
def unitAddr (base : Regs → Nat) (o wm : Nat) : AddrFn := fun r _ b j => base r * 8 + o + (b * vlbOf r.vt + j) * wm

/-- VLDS, VSTS: element i at s[sa] + i × s[ix], the stride signed. -/
def strideAddr (a x : Nat) (_wm : Nat) : AddrFn := fun r _ b j =>
  ((regRead r a + BitVec.ofNat 64 (b * vlbOf r.vt + j) * regRead r x).toNat) * 8

/-- Width of an index element (R198). -/
def indexWidth (vt : BitVec 13) : Nat := if vtWidth vt < 64 then 32 else 64

/-- VLDX, VSTX: element i at s[sa] + zext(vi[i]). -/
def indexAddr (a x : Nat) (_wm : Nat) : AddrFn := fun r bl _ j =>
  ((regRead r a).toNat + elemRead bl (indexWidth r.vt) x j) % 2 ^ 64 * 8

/-- Issue checks of VLD and VST: the pair of R196, a sub-byte code only with the format's width, R37. -/
def unitBad (w : BitVec 3) (x d : BitVec 5) (st : Strand) : Bool :=
  let wm := vmWidth st.r.vt w
  !vmPair st.r.vt wm || !alignedAll st [d.toNat] || !Instr.unitOffsetZero w x

/-- Issue checks of the other element forms: no width below 8 (R196). -/
def wideBad (w : BitVec 3) (d : BitVec 5) (st : Strand) : Bool :=
  let wm := vmWidth st.r.vt w
  wm < 8 || !vmPair st.r.vt wm || !alignedAll st [d.toNat]

/-- Issue checks of an index group (R198). -/
def indexBad (x : BitVec 5) (st : Strand) : Bool := !alignedAt st.r (indexWidth st.r.vt) x.toNat

/-- Whether a load's destination overlaps its index group (R197). -/
def indexOverlap (x d : BitVec 5) (st : Strand) : Bool :=
  let g := vtG st.r.vt
  let g' := groupRegs (vlbOf st.r.vt) (indexWidth st.r.vt)
  d.toNat < x.toNat + g' && x.toNat < d.toNat + g

/-- The offset of VLD and VST in bits (R34, R200). -/
def unitOffset (w : BitVec 3) (x : BitVec 5) : Nat := if Instr.subByteCode w then x.toNat % 8 else 0

/-- VLD with its base read by a given function, which a repeat frame replaces (R129). -/
def vldAt (base : Regs → Nat) (n : BitVec 1) (r : BitVec 2) (w m : BitVec 3) (x d : BitVec 5) : Member :=
  loadMember (unitBad w x d) (fun r => vtWidth r.vt) (unitAddr base (unitOffset w x)) n w r m d

/-- VST with its base read by a given function (R129). -/
def vstAt (base : Regs → Nat) (n : BitVec 1) (r : BitVec 2) (w m : BitVec 3) (x d : BitVec 5) : Member :=
  storeMember (unitBad w x d) (fun r => vtWidth r.vt) (unitAddr base (unitOffset w x)) false false n w r m d

/-- The member VLD (R194 to R200). -/
def memberVld (n : BitVec 1) (r : BitVec 2) (w m : BitVec 3) (x : BitVec 5) (a : BitVec 6) (d : BitVec 5) : Member :=
  vldAt (fun q => (regRead q a.toNat).toNat) n r w m x d

/-- VLD (R195 to R200). -/
def execVld (n : BitVec 1) (r : BitVec 2) (w m : BitVec 3) (x : BitVec 5) (a : BitVec 6) (d : BitVec 5) (s : State) : Result :=
  runSolo (wordVM 0x50 n.toNat r.toNat w.toNat m.toNat x.toNat a.toNat d.toNat) (memberVld n r w m x a d) s

/-- The member VST (R195 to R200). -/
def memberVst (n : BitVec 1) (r : BitVec 2) (w m : BitVec 3) (x : BitVec 5) (a : BitVec 6) (d : BitVec 5) : Member :=
  vstAt (fun q => (regRead q a.toNat).toNat) n r w m x d

/-- VST (R195 to R200). -/
def execVst (n : BitVec 1) (r : BitVec 2) (w m : BitVec 3) (x : BitVec 5) (a : BitVec 6) (d : BitVec 5) (s : State) : Result :=
  runSolo (wordVM 0x51 n.toNat r.toNat w.toNat m.toNat x.toNat a.toNat d.toNat) (memberVst n r w m x a d) s

/-- The member VLDS (R192 to R197). -/
def memberVlds (n : BitVec 1) (r : BitVec 2) (w m : BitVec 3) (x : BitVec 5) (a : BitVec 6) (d : BitVec 5) : Member :=
  loadMember (wideBad w d) (fun r => vtWidth r.vt) (strideAddr a.toNat x.toNat) n w r m d

/-- VLDS (R192 to R197). -/
def execVlds (n : BitVec 1) (r : BitVec 2) (w m : BitVec 3) (x : BitVec 5) (a : BitVec 6) (d : BitVec 5) (s : State) : Result :=
  runSolo (wordVM 0x52 n.toNat r.toNat w.toNat m.toNat x.toNat a.toNat d.toNat) (memberVlds n r w m x a d) s

/-- The member VSTS (R192 to R197). -/
def memberVsts (n : BitVec 1) (r : BitVec 2) (w m : BitVec 3) (x : BitVec 5) (a : BitVec 6) (d : BitVec 5) : Member :=
  storeMember (wideBad w d) (fun r => vtWidth r.vt) (strideAddr a.toNat x.toNat) true true n w r m d

/-- VSTS (R192 to R197). -/
def execVsts (n : BitVec 1) (r : BitVec 2) (w m : BitVec 3) (x : BitVec 5) (a : BitVec 6) (d : BitVec 5) (s : State) : Result :=
  runSolo (wordVM 0x53 n.toNat r.toNat w.toNat m.toNat x.toNat a.toNat d.toNat) (memberVsts n r w m x a d) s

/-- The widest operand of an indexed access (R166, R198). -/
def indexedWidth (r : Regs) : Nat := max (vtWidth r.vt) (indexWidth r.vt)

/-- The member VLDX (R195 to R198). -/
def memberVldx (n : BitVec 1) (r : BitVec 2) (w m : BitVec 3) (x : BitVec 5) (a : BitVec 6) (d : BitVec 5) : Member :=
  loadMember (fun st => wideBad w d st || indexBad x st || indexOverlap x d st) indexedWidth (indexAddr a.toNat x.toNat) n w r m d

/-- VLDX (R195 to R198). -/
def execVldx (n : BitVec 1) (r : BitVec 2) (w m : BitVec 3) (x : BitVec 5) (a : BitVec 6) (d : BitVec 5) (s : State) : Result :=
  runSolo (wordVM 0x54 n.toNat r.toNat w.toNat m.toNat x.toNat a.toNat d.toNat) (memberVldx n r w m x a d) s

/-- The member VSTX (R195 to R198). -/
def memberVstx (n : BitVec 1) (r : BitVec 2) (w m : BitVec 3) (x : BitVec 5) (a : BitVec 6) (d : BitVec 5) : Member :=
  storeMember (fun st => wideBad w d st || indexBad x st) indexedWidth (indexAddr a.toNat x.toNat) true false n w r m d

/-- VSTX (R195 to R198). -/
def execVstx (n : BitVec 1) (r : BitVec 2) (w m : BitVec 3) (x : BitVec 5) (a : BitVec 6) (d : BitVec 5) (s : State) : Result :=
  runSolo (wordVM 0x55 n.toNat r.toNat w.toNat m.toNat x.toNat a.toNat d.toNat) (memberVstx n r w m x a d) s

/-! ### Segments (R201) -/

/-- Field `f` of a record: s[sa] + (i × nf + f) × wm ÷ 8, in bits. -/
def fieldAddr (a nf f wm : Nat) : AddrFn := fun r _ b j =>
  (regRead r a).toNat * 8 + ((b * vlbOf r.vt + j) * nf + f) * wm

/-- Issue checks of VLSEG and VSSEG: nf from 1 to 8, and no group past v31 (R49, R201). -/
def segmentBad (w : BitVec 3) (x d : BitVec 5) (st : Strand) : Bool :=
  wideBad w d st || 7 < x.toNat || 32 < d.toNat + (x.toNat + 1) * vtG st.r.vt

/-- Each field of one element in turn. -/
def eachField (nf : Nat) (f : Nat → M Unit) : M Unit := loopM f 0 nf

/-- The member VLSEG (R201). -/
def memberVlseg (n : BitVec 1) (r : BitVec 2) (w m : BitVec 3) (x : BitVec 5) (a : BitVec 6) (d : BitVec 5) : Member :=
  plainMember .mem false (segmentBad w x d) (fun r => vtWidth r.vt) fun sp => do
    let q ← getRegs
    let wm := vmWidth q.vt w
    let nf := x.toNat + 1
    let g := vtG q.vt
    loadElems m.toNat
      (fun b j => eachField nf fun f => loadElem (fieldAddr a.toNat nf f wm) wm (loadType n r) (d.toNat + f * g) b j)
      (fun bl j => (List.range nf).foldl (fun bl f => zeroReg q.vt (d.toNat + f * g) bl j) bl) sp

/-- VLSEG (R201). -/
def execVlseg (n : BitVec 1) (r : BitVec 2) (w m : BitVec 3) (x : BitVec 5) (a : BitVec 6) (d : BitVec 5) (s : State) : Result :=
  runSolo (wordVM 0x56 n.toNat r.toNat w.toNat m.toNat x.toNat a.toNat d.toNat) (memberVlseg n r w m x a d) s

/-- The member VSSEG (R201). -/
def memberVsseg (n : BitVec 1) (r : BitVec 2) (w m : BitVec 3) (x : BitVec 5) (a : BitVec 6) (d : BitVec 5) : Member :=
  plainMember .mem false (segmentBad w x d) (fun r => vtWidth r.vt) fun sp => do
    let q ← getRegs
    let wm := vmWidth q.vt w
    let nf := x.toNat + 1
    storeElems m.toNat
      (fun b j => eachField nf fun f =>
        storeElem m.toNat sp (fieldAddr a.toNat nf f wm) false false wm r (n == 1) (d.toNat + f * vtG q.vt) b j) sp
    clearSpan m.toNat (nf * wm) sp (fieldAddr a.toNat nf 0 wm)

/-- VSSEG (R201). -/
def execVsseg (n : BitVec 1) (r : BitVec 2) (w m : BitVec 3) (x : BitVec 5) (a : BitVec 6) (d : BitVec 5) (s : State) : Result :=
  runSolo (wordVM 0x57 n.toNat r.toNat w.toNat m.toNat x.toNat a.toNat d.toNat) (memberVsseg n r w m x a d) s

/-! ### Lane slices (R203) -/

/-- Bytes of the longest lane slice, 8 KiB × 12 (R203). -/
abbrev sliceBytes : Nat := 98304

/-- The slice offset of a local element, checked: within the slice, then aligned (R203). -/
def sliceOffset (a x wm b j : Nat) : M Nat := do
  let st ← getStrand
  let bl ← getBlock b
  let s ← get
  let o := ((regRead st.r a).toNat + elemRead bl (indexWidth st.r.vt) x j) % 2 ^ 64
  if 8192 * (bayOf s bl.bay).k < o + wm / 8 then raise causePerm (BitVec.ofNat 64 o)
  else if o % (wm / 8) != 0 then raise causeMisal (BitVec.ofNat 64 o)
  else return o

/-- Whether a range of a block's lane slices meets a word with an uncorrectable error (R434, R435). -/
def sliceBadAt (bl : Block) (a n : Nat) : Bool :=
  bl.badRegs.any fun x => x % 0x10000 == 0x600 && decide (8 * (x / 0x10000) < a + n) && decide (a < 8 * (x / 0x10000) + 8)

/-- A block whose lane slices' bytes have been written: damaged words written whole are whole again (R435). -/
def sliceHealed (vas : List Nat) (n : Nat) (bl : Block) : Block :=
  { bl with badRegs := bl.badRegs.filter fun x =>
      x % 0x10000 != 0x600 || !(List.range 8).all fun i => vas.any fun a => a ≤ 8 * (x / 0x10000) + i && 8 * (x / 0x10000) + i < a + n }

/-- Issue checks of LSLD and LSST. DEDUCED (log entry 28). -/
def sliceBad (w : BitVec 3) (x d : BitVec 5) (st : Strand) : Bool :=
  Instr.subByteCode w || wideBad w d st || indexBad x st

/-- The member LSLD (R203). -/
def memberLsld (w m : BitVec 3) (x : BitVec 5) (a : BitVec 6) (d : BitVec 5) : Member :=
  plainMember .mem false (fun st => sliceBad w x d st || indexOverlap x d st) indexedWidth fun sp => do
    awaitExpand fun kind _ _ => kind == 2
    let q ← getRegs
    let wm := vmWidth q.vt w
    loadElems m.toNat (fun b j => do
      let o ← sliceOffset a.toNat x.toNat wm b j
      let bl ← getBlock b
      if sliceBadAt bl (sliceBytes * (j % 64) + o) (wm / 8) then raise causeEccuc (BitVec.ofNat 64 o)
      let y := widenElem q.vt wm (leValue (memReadList bl.slices (sliceBytes * (j % 64) + o) (wm / 8)))
      raiseFlags y.flags y.nanc
      setBlock b (elemWrite bl (vtWidth q.vt) d.toNat j y.bits)) (zeroReg q.vt d.toNat) sp

/-- LSLD (R203). -/
def execLsld (w m : BitVec 3) (x : BitVec 5) (a : BitVec 6) (d : BitVec 5) (s : State) : Result :=
  runSolo (wordVM 0x58 0 0 w.toNat m.toNat x.toNat a.toNat d.toNat) (memberLsld w m x a d) s

/-- The lane slices of a strand after the active elements of a span have been stored into them (R203, R435). -/
def healSlices (m a x wm : Nat) (sp : Span) (st : Strand) : Strand :=
  let place := fun (bl : Block) (j : Nat) =>
    sliceBytes * (j % 64) + ((regRead st.r a).toNat + elemRead bl (indexWidth st.r.vt) x j) % 2 ^ 64
  let one := fun (y : Block × Nat) =>
    if y.1.badRegs.isEmpty then y.1 else sliceHealed ((activeIn m sp st y.1 y.2).map (place y.1)) (wm / 8) y.1
  { st with blocks := st.blocks.zipIdx.map one }

/-- The member LSST (R203): a lane's elements rise in index, so that the highest-indexed one is written last. -/
def memberLsst (w m : BitVec 3) (x : BitVec 5) (a : BitVec 6) (d : BitVec 5) : Member :=
  plainMember .mem false (sliceBad w x d) indexedWidth fun sp => do
    awaitExpand fun kind _ _ => kind == 2
    let q ← getRegs
    let wm := vmWidth q.vt w
    storeElems m.toNat (fun b j => do
      let o ← sliceOffset a.toNat x.toNat wm b j
      let mode := if (vmFloat q.vt wm).isSome then frmMode q else 0
      let u ← drawFor mode b j
      let bl ← getBlock b
      let y := narrowElem q.vt wm (elemRead bl (vtWidth q.vt) d.toNat j) mode u
      raiseFlags y.flags y.nanc
      setBlock b { bl with slices := memWriteList bl.slices (sliceBytes * (j % 64) + o) (leBytes (wm / 8) y.bits) }) sp
    modStrand (healSlices m.toNat a.toNat x.toNat wm sp)

/-- LSST (R203). -/
def execLsst (w m : BitVec 3) (x : BitVec 5) (a : BitVec 6) (d : BitVec 5) (s : State) : Result :=
  runSolo (wordVM 0x59 0 0 w.toNat m.toNat x.toNat a.toNat d.toNat) (memberLsst w m x a d) s

/-! ### Spill and fill (R205, R206) -/

/-- The header of a spill record (R205). -/
def spillHeader (st : Strand) : List Byte :=
  leBytes 8 st.r.vl ++ leBytes 2 st.r.vt.toNat ++ leBytes 2 (spanOf st) ++ leBytes 4 0

/-- WATCH and MISAL of a 16-byte header (R205, R206, R379). -/
def checkHeader (sa : Nat) (acc : Acc) : M Unit := do
  checkWatch sa 16 acc
  if sa % 16 != 0 then raise causeMisal (BitVec.ofNat 64 sa)

/-- The member VSPL (R205): the header with the first group, then the elements below VL whatever the masks hold. -/
def memberVspl (a : BitVec 6) (d : BitVec 5) : Member :=
  plainMember .mem false (fun st => !alignedAll st [d.toNat]) (fun r => vtWidth r.vt) fun sp => do
    let st ← getStrand
    let sa := (regRead st.r a.toNat).toNat
    let w := vtWidth st.r.vt
    let vlb := vlbOf st.r.vt
    if sp.first then
      checkHeader sa .write
      storeBytes 0 sa (spillHeader st) 0 false true true
    let addr : AddrFn := fun _ _ b j => (sa + 16) * 8 + (b * vlb + j) * w
    loopM (fun b => loopM (fun j => do
      let bl ← getBlock b
      let bit := addr st.r bl b j
      let every := { bl with m := BitVec.allOnes mfileBits }
      storeBits b (bit / 8) (bit % 8) w (elemRead bl w d.toNat j) (fun _ => false)
        (fun i => if w < 8 then filledByte 0 w sp addr d.toNat st every b (bit / 8 + i) else none) 0 false false)
      sp.lo (min sp.hi (belowVl st.r.vl vlb b) - sp.lo)) 0 (spanOf st)

/-- VSPL (R205). DEDUCED (log entry 28). -/
def execVspl (a : BitVec 6) (d : BitVec 5) (s : State) : Result :=
  runSolo (wordVM 0x5A 0 0 7 0 0 a.toNat d.toNat) (memberVspl a d) s

/-- The member VFIL (R206). Its groups are those of the saved vector type; the last group of the convoy takes the rest. -/
def memberVfil (a : BitVec 6) (d : BitVec 5) : Member :=
  plainMember .mem false (fun _ => false) (fun r => vtWidth r.vt) fun sp => do
    let st ← getStrand
    let sa := (regRead st.r a.toNat).toNat
    checkHeader sa .read
    let h ← loadBytes 0 sa 16 0 true
    let vt := bytesAt h 8 2
    let t := BitVec.ofNat 13 vt
    if !zeroBytes h 12 16 || vt / 2 ^ 13 != 0 || !vtLegal vt then raise causeIllop (BitVec.ofNat 64 sa)
    else if d.toNat % vtG t != 0 then
      raise causeIllop (memberXval (wordVM 0x5B 0 0 7 0 0 a.toNat d.toNat) sp.pos)
    else
      let w := vtWidth t
      let vlb := vlbOf t
      let vl := bytesAt h 0 8
      let lo := groupStart w sp.e
      let hi := if sp.last then vlb else min vlb (groupStart w (sp.e + 1))
      loopM (fun b => do
        loopM (fun j => do
          let bit := (sa + 16) * 8 + (b * vlb + j) * w
          let v ← loadBits b (bit / 8) (bit % 8) w 0
          modBlock b fun bl => elemWrite bl w d.toNat j v) lo (min hi (belowVl vl vlb b) - lo)
        if vtTz st.r.vt then
          let from' := max lo (belowVl vl vlb b)
          loopM (fun j => modBlock b fun bl => elemWrite bl w d.toNat j 0) from' (hi - from')) 0 (spanOf st)

/-- VFIL (R206). DEDUCED (log entry 28). -/
def execVfil (a : BitVec 6) (d : BitVec 5) (s : State) : Result :=
  runSolo (wordVM 0x5B 0 0 7 0 0 a.toNat d.toNat) (memberVfil a d) s

/-! ### CACHE (R207 to R212) -/

/-- The attached bays have written a line back, or discarded it: it is dirty in none of their L1s (R190, R207). -/
def cleanLine (bays : List Nat) (line : Nat) (s : State) : State :=
  { s with dirty := s.dirty.filter fun r => r.key / 128 != line || !bays.contains r.bay }

/-- The attached bays hold a line no more. -/
def dropLine (bays : List Nat) (line : Nat) (s : State) : State :=
  bays.foldl (fun s n => setBay s n { bayOf s n with copies := (bayOf s n).copies.filter fun l => l.addr / 128 != line })
    (cleanLine bays line s)

/-- CINV of the bytes a bay may hold dirty of a line (R207): the bay last evicted the line before one of its writes, so that
all of them revert to what they were then, or it has evicted it since the last one, so that nothing is discarded. Answers
whether something is. DEDUCED (log entry 29). -/
def revertBay (line n : Nat) : M Bool := do
  let s ← get
  let own := s.dirty.filter fun r => r.key / 128 == line && r.bay == n
  let cuts := dedup (own.flatMap fun r => r.homes.map (·.1))
  if cuts.isEmpty then return false
  else
    let k ← freeBelow (cuts.length + 1)
    match cuts[k]? with
    | none => return false
    | some cut =>
      modify fun s => storeKeys s (own.map fun r => (r.key, r.homeAt cut (memRead s.mem r.key)))
      return true

/-- The same of each of several bays: whether one of them discards something. -/
def revertBays (line : Nat) : List Nat → M Bool
  | [] => return false
  | n :: t => do
    let x ← revertBay line n
    let y ← revertBays line t
    return x || y

/-- CINV of a line: the attached bays' dirty bytes are discarded; where one discards bytes of a privatised line the home
merges the other holders' (R191, R207, R209). -/
def discardLine (bays : List Nat) (line : Nat) : M Unit := do
  if ← revertBays line bays then
    modify fun s => { s with dirty := s.dirty.filter fun r => r.key / 128 != line }
  modify (dropLine bays line)

/-- The range functions of CACHE. -/
inductive CacheFn where
  | wb
  | inv
  | flush
  | pref
  deriving DecidableEq, Repr

/-- The page of a line as a range function meets it (R208): `none` where the line is skipped. -/
def cacheXlat (f : CacheFn) (va : Nat) : M (Option Xl) := do
  let st ← getStrand
  let c := strandCtx st 0
  let trap := fun (t : Trap) => if f == .pref then return none else raiseT (α := Option Xl) t
  if !canonical va then trap (xlatTrap { missing := false, level := 0, s2 := false, ipa := 0 } va .read)
  else
    match ← lookup c (va % 2 ^ 48) false with
    | .error e =>
      if f == .pref then return none
      else if e.s2 then stage2Fault 0 e (xlatTrap e va .read)
      else raiseT (xlatTrap e va .read)
    | .ok w =>
      let low := w.low.toNat
      if (st.r.level == .user && !pteBit low 4) || (f == .inv && !pteBit low 2) then
        trap (xlatTrap { missing := false, level := 4, s2 := false, ipa := 0 } va (if f == .inv then .write else .read))
      else
        let x := xlOf (va % 2 ^ 48) w
        if x.home != 0 || x.cmp then return none
        else
          modify fun s => setAccessed s w false
          keepXlat c (w.touched false)
          return some x

/-- One line of a range (R207, R208), at every attached bay. The owned read of PREF meets the home (R188). -/
def cacheLine (f : CacheFn) (va : Nat) : M Unit := do
  match ← cacheXlat f va with
  | none => return ()
  | some x =>
    let s ← get
    let st ← getStrand
    let bays := attached st
    let line := steer s x.pa / 128
    match f with
    | .wb => modify (cleanLine bays line)
    | .flush => modify (dropLine bays line)
    | .inv => discardLine bays line
    | .pref =>
      modify fun s => bays.foldl (fun s n => homeAccess s (some n)
        (if servedAs s x 0 == 3 then .uncachedRead else .cachedRead) ((List.range 128).map (line * 128 + ·))) s

/-- Lines of a range: its first line and how many (R208). -/
def rangeLines (f : CacheFn) (sa sb : Nat) : Nat × Nat :=
  let n := if f == .pref then min sb 65536 else sb
  (sa / 128, if n = 0 then 0 else (sa + n - 1) / 128 - sa / 128 + 1)

/-- A CACHE member's state after its own trap: lines already handled stay handled (R208). -/
def keepHandled (run : M Unit) (pre _err : State) : State :=
  match run pre with
  | .ok _ s => s
  | .error _ s => s

/-- A range function over its lines, after the older scalar stores (R207). -/
def cacheRange (f : CacheFn) (a b : BitVec 6) : M Unit := do
  let r ← getRegs
  settleStream false
  let (l0, n) := rangeLines f (regRead r a.toNat).toNat (regRead r b.toNat).toNat
  loopM (fun l => cacheLine f (l * 128 % 2 ^ 64)) l0 n

/-- A CACHE member: it acts once, with its convoy's first group, at every VL (R207). -/
def cacheMember (bad : Strand → Bool) (run : M Unit) : Member :=
  { plainMember .mem false bad (fun r => vtWidth r.vt) (fun sp => if sp.first then run else return ()) with
    keep := keepHandled run }

/-- The member CWB (R207, R208). -/
def memberCwb (b a : BitVec 6) : Member := cacheMember (fun _ => false) (cacheRange .wb a b)

/-- CWB (R207, R208). -/
def execCwb (b a : BitVec 6) (s : State) : Result := runSolo (wordSR 0x5C 0 b.toNat a.toNat 0) (memberCwb b a) s

/-- The member CINV (R207, R208). -/
def memberCinv (b a : BitVec 6) : Member := cacheMember (fun _ => false) (cacheRange .inv a b)

/-- CINV (R207, R208). DEDUCED (log entry 29). -/
def execCinv (b a : BitVec 6) (s : State) : Result := runSolo (wordSR 0x5C 1 b.toNat a.toNat 0) (memberCinv b a) s

/-- The member CFLUSH (R207, R208). -/
def memberCflush (b a : BitVec 6) : Member := cacheMember (fun _ => false) (cacheRange .flush a b)

/-- CFLUSH (R207, R208). -/
def execCflush (b a : BitVec 6) (s : State) : Result := runSolo (wordSR 0x5C 2 b.toNat a.toNat 0) (memberCflush b a) s

/-- The member PREF (R207, R208). -/
def memberPref (b a : BitVec 6) : Member := cacheMember (fun _ => false) (cacheRange .pref a b)

/-- PREF (R207, R208): it never traps. DEDUCED (log entry 15). -/
def execPref (b a : BitVec 6) (s : State) : Result := runSolo (wordSR 0x5C 3 b.toNat a.toNat 0) (memberPref b a) s

/-- First byte of scratch way `w` of bay `n` (R182). -/
def wayAddr (n w : Nat) : Nat := windowBase + 0x800000 * n + 0x600000 + 0x10000 * w

/-- The scratch bytes of a way become zero (R210) or are discarded (R211). -/
def clearWay (s : State) (n w : Nat) : State := zeroStorage s (wayAddr n w) 0x10000

/-- Converts or restores the named ways of one bay: those whose state differs (R210, R211). -/
def changeWays (conv : Bool) (mask : Nat) (s : State) (bl : Block) : State :=
  (List.range 8).foldl (fun s w =>
    if mask / 2 ^ w % 2 = 1 && (bl.ways.toNat / 2 ^ w % 2 == 1) != conv then clearWay s bl.bay w else s) s

/-- The way mask of WAYCONV and WAYREST is legal: ways 2 to 7 only (R210). -/
def wayMaskBad (a : BitVec 6) (st : Strand) : Bool :=
  let x := (regRead st.r a.toNat).toNat
  x % 4 != 0 || 256 ≤ x

/-- WAYCONV and WAYREST (R210, R211). -/
def waysRun (conv : Bool) (a : BitVec 6) : M Unit := do
  let st ← getStrand
  let mask := (regRead st.r a.toNat).toNat
  settleStream false
  modify fun s => st.blocks.foldl (changeWays conv mask) s
  modBlocks fun bl => { bl with ways := if conv then bl.ways ||| BitVec.ofNat 8 mask else bl.ways &&& ~~~(BitVec.ofNat 8 mask) }

/-- The member WAYCONV (R210). -/
def memberWayconv (a : BitVec 6) : Member := cacheMember (wayMaskBad a) (waysRun true a)

/-- WAYCONV (R210). -/
def execWayconv (a : BitVec 6) (s : State) : Result := runSolo (wordSR 0x5C 4 0 a.toNat 0) (memberWayconv a) s

/-- The member WAYREST (R211). -/
def memberWayrest (a : BitVec 6) : Member := cacheMember (wayMaskBad a) (waysRun false a)

/-- WAYREST (R211). -/
def execWayrest (a : BitVec 6) (s : State) : Result := runSolo (wordSR 0x5C 5 0 a.toNat 0) (memberWayrest a) s

/-- The member CFLUSHALL (R207, R208). -/
def memberCflushall : Member := cacheMember (fun _ => false) do
  let st ← getStrand
  settleStream false
  modify fun s => { s with dirty := s.dirty.filter fun r => !(attached st).contains r.bay }
  (attached st).forM fun n => modBay n fun b => { b with copies := [] }

/-- CFLUSHALL (R207, R208). -/
def execCflushall (s : State) : Result := runSolo (wordSR 0x5C 6 0 0 0) memberCflushall s

/-- The member LVCINV (R207, R212). -/
def memberLvcinv : Member := cacheMember (fun _ => false) do
  let st ← getStrand
  settleStream false
  (attached st).forM fun n => modBay n fun b => { b with level := [] }

/-- LVCINV (R207, R212). -/
def execLvcinv (s : State) : Result := runSolo (wordSR 0x5C 7 0 0 0) memberLvcinv s

end Sys2Proof.Machine
end

