-- ==== Sys2Proof/Machine/Atomic.lean ====
section
/-! DEFINITION. Atomics (R277 to R288): the one indivisible step, the checks of an atomic, scalar atomics, vector atomics
in ascending element index, and the prepare and perform messages of a two-phase group. -/

namespace Sys2Proof.Machine

open Sys2Proof.Config

/-! ### The indivisible step (R280, R281) -/

/-- The new value of an atomic on `w` bits, with the flags FADD raises: op is the code of R279; `e` is what CAS expects. -/
def atomicNew (op w old b e : Nat) : FpRes :=
  match op with
  | 0 => fpQuiet ((old + b) % 2 ^ w)
  | 1 => fpQuiet (old &&& b)
  | 2 => fpQuiet (old ||| b)
  | 3 => fpQuiet (old ^^^ b)
  | 4 => fpQuiet (if signedOf w b < signedOf w old then b else old)
  | 5 => fpQuiet (if signedOf w old < signedOf w b then b else old)
  | 6 => fpQuiet (min old b)
  | 7 => fpQuiet (max old b)
  | 8 => fpQuiet b
  | 9 => fpQuiet (if old = e then b else old)
  | _ => fpAdd (if w = 64 then 0 else 1) old b 0 0

/-- Width in bits of w64. -/
def atomicWidth (w64 : Bool) : Nat := if w64 then 64 else 32

/-- Whether an atomic makes a write (R280: a CAS that finds the values unequal makes none). -/
def atomicWrites (op old e : Nat) : Bool := op != 9 || old == e

/-- The regions of an address space that cover an address, by their place in `State.regions` (R289). -/
def regionAt (s : State) (asid : BitVec 16) (vmid : BitVec 10) (va : Nat) : Option Nat :=
  s.regions.findIdx? fun r => r.size != 0 && r.asid == asid && r.vmid == vmid && r.base ≤ va && va < r.base + r.size

/-- The region of the executing strand's space that covers an address. -/
def myRegion (va : Nat) : M (Option Nat) := do
  let st ← getStrand
  let s ← get
  return regionAt s (BitVec.ofNat 16 st.r.asid.toNat) (vmidOf st) va

/-- Whether a word of the line an atomic is performed in is poisoned (R282, R287). -/
def linePoisoned (s : State) (pages : List Xl) : Bool := pages.any fun p => anyPoison s (p.pa / 128 * 128) 128

/-- The last rows of the checks of an atomic: its place is asked where another party serves it, and its line may hold an
uncorrectable error; an AMO meets REMOTE first, a VAMO ECCUC (R282, R287). -/
def atomicServed (vector : Bool) (va n : Nat) (ps : List Xl) : M Chk := do
  let s ← get
  let eccuc : Chk := .fail { cause := causeEccuc, xval := BitVec.ofNat 64 va }
  if vector && linePoisoned s ps then return eccuc
  else
    match ← checkServed va n ps with
    | .ok ps =>
      let s ← get
      return if linePoisoned s ps then eccuc else .ok ps
    | c => return c

/-- The checks of an aligned atomic after WATCH, MISAL and the side log, in the order of R282 and R287. -/
def checkAtomic (vector : Bool) (b va n : Nat) (hostOk : Bool) : M Chk := do
  match ← translatePages b .atomic [va] with
  | .error (a, f) =>
    let t := xlatTrap f a .atomic
    if f.s2 then stage2Fault b f t
    else if f.missing then return .log t
    else return .fail t
  | .ok ps =>
    let st ← getStrand
    let s ← get
    let x := BitVec.ofNat 64 va
    let region ← myRegion va
    let pages := ps.map (·.2)
    if pages.any fun p => !reachable s st b p.pa n .atomic then return .fail { cause := causePerm, xval := x }
    else if pages.any (·.cmp) then return .fail { cause := causeCmpview, xval := x }
    else if pages.any (·.slk) && region.isNone then return .fail { cause := causeSlkmis, xval := x }
    else if pages.any fun p => isHost p.pa && !hostOk then return .fail { cause := causePerm, xval := x }
    else atomicServed vector va n pages

/-- The indivisible step at the place of performance (R277, R278, R280): the old value and the flags of FADD. Among the
strand's own pending writes it takes one place, which it reads and writes at; it never passes another atomic of the strand.
The L1 copies of its line are recalled, also where a CAS writes nothing. `done` marks one that acquires (R283).
DEDUCED (log entry 9). -/
def performAtomic (b va op : Nat) (w64 vector done : Bool) (pages : List Xl) (operand expected : Nat) : M (Nat × FpRes) := do
  let n := atomBytes w64
  if pages.any (·.slk) then modify fun s => pages.foldl (fun s p => drainForStore s p.pa n) s
  if pages.any (·.ord == 1) then modBlocks (Block.strongDone vector)
  let st ← getStrand
  let s ← get
  let ord := (pages.map (·.ord)).headD 0
  let keys := (List.range n).map fun i => steer s (byteAddr pages va i)
  let place ← choosePlace vector ord keys
  let held ← if pages.any fun p => p.home == 0 && isPooled s p.pa then pastBytes s keys
    else pure (keys.map fun k => valueUnder s k place.2)
  let old := leValue held
  let x := atomicNew op (atomicWidth w64) old operand expected
  let met := place.1.map fun w => if w.covers keys && mayPass vector ord w then w.seenBy vector else w
  setStrand { st with pending := stillMissed (met ++ place.2) }
  modify fun s => homeAccess s (some (bayAt st b)) .homeWrite keys
  if atomicWrites op old expected then
    let landed ← putWrite vector ord true done (stillMissed met, place.2) (keys.zip (leBytes n x.bits))
    landBytes (bayAt st b) 3 landed
    noteUnreleased b s.written.length
    countWrite b vector (ord == 1) [byteAddr pages va 0]
  return (old, x)

/-! ### Scalar atomics (R279 to R283) -/

/-- What AMO writes to s[sd] (R280). -/
def amoResult (op : Nat) (w64 : Bool) (old : Nat) : Word :=
  if w64 || op = 10 then BitVec.ofNat 64 old else sext64 32 old

/-- The scope of an AMO's order (R283): device for a local address, domain for a peer, system for the host. -/
def amoScope (s : State) (pages : List Xl) : Nat :=
  match pages with
  | [] => 3
  | p :: _ => if isHost p.pa then 5 else if isPeer s p.pa then 4 else 3

/-- AMO (R279 to R283): `o` bit 0 acquires, bit 1 releases. -/
def amo (op : Nat) (o : BitVec 2) (w : BitVec 1) (b a d : BitVec 6) : M Unit := do
  let st ← getStrand
  let w64 := w == 1
  let n := atomBytes w64
  let va := (regRead st.r a.toNat).toNat
  if (watchHit st.r va n .atomic).isSome then raise causeWatch (BitVec.ofNat 64 va)
  else if va % n != 0 then raise causeMisal (BitVec.ofNat 64 va)
  else if overlapsLog st va n then waitFor .sideLog
  else
    match ← checkAtomic false 0 va n (op = 0 || op = 8 || op = 9) with
    | .log t => raiseT t
    | .fail t => raiseT t
    | .ok pages =>
      if 2 ≤ o.toNat then release (amoScope (← get) pages)
      let operand := (regRead st.r b.toNat).toNat % 2 ^ atomicWidth w64
      let expected := (regRead st.r d.toNat).toNat % 2 ^ atomicWidth w64
      let (old, x) ← performAtomic 0 va op w64 false (o.toNat % 2 == 1) pages operand expected
      if op = 10 then raiseFlags x.flags x.nanc
      if o.toNat % 2 = 1 then
        let s ← get
        acquire (amoScope s pages)
      ws d (amoResult op w64 old)

/-- AMOADD (R280). -/
def execAmoadd (o : BitVec 2) (w : BitVec 1) (b a d : BitVec 6) (s : State) : Result := runSeq (amo 0 o w b a d) s

/-- AMOAND (R280). -/
def execAmoand (o : BitVec 2) (w : BitVec 1) (b a d : BitVec 6) (s : State) : Result := runSeq (amo 1 o w b a d) s

/-- AMOOR (R280). -/
def execAmoor (o : BitVec 2) (w : BitVec 1) (b a d : BitVec 6) (s : State) : Result := runSeq (amo 2 o w b a d) s

/-- AMOXOR (R280). -/
def execAmoxor (o : BitVec 2) (w : BitVec 1) (b a d : BitVec 6) (s : State) : Result := runSeq (amo 3 o w b a d) s

/-- AMOMIN (R280). -/
def execAmomin (o : BitVec 2) (w : BitVec 1) (b a d : BitVec 6) (s : State) : Result := runSeq (amo 4 o w b a d) s

/-- AMOMAX (R280). -/
def execAmomax (o : BitVec 2) (w : BitVec 1) (b a d : BitVec 6) (s : State) : Result := runSeq (amo 5 o w b a d) s

/-- AMOMINU (R280). -/
def execAmominu (o : BitVec 2) (w : BitVec 1) (b a d : BitVec 6) (s : State) : Result := runSeq (amo 6 o w b a d) s

/-- AMOMAXU (R280). -/
def execAmomaxu (o : BitVec 2) (w : BitVec 1) (b a d : BitVec 6) (s : State) : Result := runSeq (amo 7 o w b a d) s

/-- AMOSWAP (R280). -/
def execAmoswap (o : BitVec 2) (w : BitVec 1) (b a d : BitVec 6) (s : State) : Result := runSeq (amo 8 o w b a d) s

/-- AMOCAS (R280). -/
def execAmocas (o : BitVec 2) (w : BitVec 1) (b a d : BitVec 6) (s : State) : Result := runSeq (amo 9 o w b a d) s

/-- AMOFADD (R280). -/
def execAmofadd (o : BitVec 2) (w : BitVec 1) (b a d : BitVec 6) (s : State) : Result := runSeq (amo 10 o w b a d) s

/-! ### Vector atomics (R284 to R288) -/

/-- An active element of a VAMO that has passed its checks (R287): where it goes, or that it retires into the side log,
with the trap it raises when it cannot. -/
structure AmoElem where
  b : Nat
  j : Nat
  group : Nat
  va : Nat
  pages : Option (List Xl)
  full : Trap
  operand : Nat

/-- The fields of a VAMO. -/
structure VamoFields where
  op : Nat
  w64 : Bool
  ret : Bool
  m : Nat
  i : Nat
  a : Nat
  d : Nat

/-- A store trap in place of an atomic's load trap (R217). -/
def logTrap (t : Trap) : Trap := { t with cause := causeStorepf }

/-- Checks one active element (R287). -/
def vamoCheck (f : VamoFields) (group b j : Nat) : M AmoElem := do
  let st ← getStrand
  let bl ← getBlock b
  let n := atomBytes f.w64
  let w := atomicWidth f.w64
  let va := ((regRead st.r f.a).toNat + elemRead bl w f.i j) % 2 ^ 64
  let e : AmoElem :=
    { b := b, j := j, group := group, va := va, pages := none, full := storepf va, operand := elemRead bl w f.d j }
  checkWatch va n .atomic
  if va % n != 0 then raise causeMisal (BitVec.ofNat 64 va)
  else if overlapsLog st va n then
    if f.ret then waitFor .sideLog
    else
      needLog e.full
      return e
  else
    match ← checkAtomic true b va n (f.op = 0 || f.op = 8) with
    | .log t =>
      if f.ret then raiseT t
      else
        needLog (logTrap t)
        return { e with full := logTrap t }
    | .fail t => raiseT t
    | .ok ps => return { e with pages := some ps }

/-- Checks the active elements `j`, `j` + 1, … of one position. -/
def vamoCheckRun (f : VamoFields) (group b : Nat) : Nat → Nat → M (List AmoElem)
  | 0, _ => return []
  | n + 1, j => do
    let bl ← getBlock b
    let x ← if maskOn bl f.m j then (do return [← vamoCheck f group b j]) else pure []
    let rest ← vamoCheckRun f group b n (j + 1)
    return x ++ rest

/-- Checks the active elements of a span, position by position. -/
def vamoCheckSpan (f : VamoFields) (sp : Span) : Nat → Nat → M (List AmoElem)
  | 0, _ => return []
  | n + 1, b => do
    let st ← getStrand
    let x ← vamoCheckRun f sp.e b (min sp.hi (belowVl st.r.vl (vlbOf st.r.vt) b) - sp.lo) sp.lo
    let rest ← vamoCheckSpan f sp n (b + 1)
    return x ++ rest

/-- Checks spans in turn until one stops: the elements of the spans that passed, and the stop with its span. -/
def vamoCheckAll (f : VamoFields) : List Span → M (List AmoElem × Option (Nat × Stop))
  | [] => return ([], none)
  | sp :: rest => do
    let s ← get
    let st ← getStrand
    match ← attempt (vamoCheckSpan f sp (spanOf st) 0) with
    | .error x =>
      modify fun e => rollback s e
      return ([], some (sp.e, x))
    | .ok xs =>
      let (ys, z) ← vamoCheckAll f rest
      return (xs ++ ys, z)

/-- Elements in pieces of at most 32, the room of a log entry (R214); `k` bounds the pieces. -/
def piecesOf {α : Type} : Nat → List α → List (List α)
  | 0, _ => []
  | _ + 1, [] => []
  | k + 1, x :: t => (x :: t).take 32 :: piecesOf k ((x :: t).drop 32)

/-- Log entries for a list of elements that retire: one operation per line and 32 operands, in order (R214). -/
def linePieces {α : Type} (line : α → Nat) (es : List α) : List (List α) :=
  (dedup (es.map line)).flatMap fun l => piecesOf es.length (es.filter fun e => line e == l)

/-- A stop of an element group during the performance of a VAMO. -/
structure GroupStop where
  group : Nat
  x : Stop

/-- Runs an action; a stop is given with the group it belongs to. -/
def inGroup (g : Nat) (body : M Unit) : M (Option GroupStop) := do
  match ← attempt body with
  | .ok _ => return none
  | .error x => return some { group := g, x := x }

/-- Old values by position and local index. -/
abbrev OldList := List (Nat × Nat × Nat × FpRes)

/-- Performs the elements of one position that have a place, in order: their old values. -/
def vamoPlaces (f : VamoFields) : List AmoElem → M OldList
  | [] => return []
  | e :: t => do
    match e.pages with
    | none => vamoPlaces f t
    | some ps =>
      let (old, x) ← performAtomic e.b e.va f.op f.w64 true false ps e.operand 0
      let rest ← vamoPlaces f t
      return (e.b, e.j, old, x) :: rest

/-- Retires the elements of one position that have no place, until one finds no room. -/
def vamoRetire (f : VamoFields) : List (List AmoElem) → M (Option GroupStop)
  | [] => return none
  | [] :: t => vamoRetire f t
  | (e :: es) :: t => do
    let op : LogOp := .atomic (BitVec.ofNat 4 f.op) f.w64 ((e :: es).map fun x => (x.va % 128, BitVec.ofNat 64 x.operand))
    match ← inGroup e.group (logAccess e.b (e.va % 2 ^ 48 / 128) op 0 false false e.full) with
    | some x => return some x
    | none => vamoRetire f t

/-- Performs checked elements in ascending element index: position by position. -/
def vamoPositions (f : VamoFields) (es : List AmoElem) : Nat → Nat → M (OldList × Option GroupStop)
  | 0, _ => return ([], none)
  | n + 1, b => do
    let mine := es.filter fun e => e.b == b
    let xs ← vamoPlaces f mine
    match ← vamoRetire f (linePieces (fun e => e.va % 2 ^ 48 / 128) (mine.filter fun e => e.pages.isNone)) with
    | some x => return (xs, some x)
    | none =>
      let (ys, z) ← vamoPositions f es n (b + 1)
      return (xs ++ ys, z)

/-- Performs the elements of the groups below a limit; where one cannot retire, its group becomes the limit and the
performance starts again without it (R217). -/
def vamoBelow (f : VamoFields) (es : List AmoElem) (stop : Option Stop) : Nat → Nat → M (OldList × Nat × Option Stop)
  | 0, limit => return ([], limit, stop)
  | k + 1, limit => do
    let s ← get
    let st ← getStrand
    let (olds, z) ← vamoPositions f (es.filter fun e => e.group < limit) (spanOf st) 0
    match z with
    | none => return (olds, limit, stop)
    | some g =>
      modify fun e => rollback s e
      vamoBelow f (es.filter fun e => e.group < g.group) (some g.x) k g.group

/-- Writes old values and, for the elements that are not active, what R111 gives; FADD's flags come with them (R285). -/
def vamoWrite (f : VamoFields) (olds : OldList) (sp : Span) (st : Strand) : Strand :=
  let w := atomicWidth f.w64
  if f.ret then
    elementwise f.m
      (fun b _ j c =>
        match olds.find? fun x => x.1 == b && x.2.1 == j with
        | some x => cellFlags x.2.2.2.flags x.2.2.2.nanc (cellWrite w f.d j x.2.2.1 c)
        | none => c)
      (fun _ _ j c => cellWrite w f.d j 0 c) sp st
  else st

/-- The performance of a VAMO over spans (R285 to R287). -/
def vamoPerform (f : VamoFields) (spans : List Span) : M AmoDone := do
  let st ← getStrand
  let (es, bad) ← if st.r.vl = 0 then pure ([], none) else vamoCheckAll f spans
  let limit := (bad.map (·.1)).getD ((spans.getLast?.map fun sp => sp.e + 1).getD 0)
  let (olds, limit, stop) ← vamoBelow f es (bad.map (·.2)) (spans.length + 1) limit
  return { limit := limit, stop := stop, write := vamoWrite f olds }

/-- The member VAMO (R284 to R288). -/
def vamoMember (op : Nat) (w r : BitVec 1) (m : BitVec 3) (i : BitVec 5) (a : BitVec 6) (d : BitVec 5) : Member :=
  let f : VamoFields :=
    { op := op, w64 := w == 1, ret := r == 1, m := m.toNat, i := i.toNat, a := a.toNat, d := d.toNat }
  let bad := fun (st : Strand) =>
    vtWidth st.r.vt != atomicWidth f.w64 || (op == 10 && !(vtFmt st.r.vt == 0 || vtFmt st.r.vt == 1)) ||
      !alignedAll st [d.toNat] || indexBad i st
  let group := fun (q : Regs) => (List.range (vtG q.vt)).map (d.toNat + ·)
  let run := fun (sp : Span) => do
    let x ← vamoPerform f [sp]
    match x.stop with
    | some e => throw e
    | none => modStrand (x.write sp)
  { plainMember .mem false bad (fun q => vtWidth q.vt) run with
    readsV := fun q => group q ++ (List.range (vtG q.vt)).map (i.toNat + ·)
    oldTo := fun q => if r = 1 then group q else []
    amo := some (vamoPerform f) }

/-- The member VAMOADD (R285). -/
def memberVamoadd (w r : BitVec 1) (m : BitVec 3) (i : BitVec 5) (a : BitVec 6) (d : BitVec 5) : Member :=
  vamoMember 0 w r m i a d

/-- VAMOADD (R285). -/
def execVamoadd (w r : BitVec 1) (m : BitVec 3) (i : BitVec 5) (a : BitVec 6) (d : BitVec 5) (s : State) : Result :=
  runSolo (wordVA 0x75 w.toNat r.toNat 0 m.toNat i.toNat a.toNat d.toNat) (memberVamoadd w r m i a d) s

/-- The member VAMOAND (R285). -/
def memberVamoand (w r : BitVec 1) (m : BitVec 3) (i : BitVec 5) (a : BitVec 6) (d : BitVec 5) : Member :=
  vamoMember 1 w r m i a d

/-- VAMOAND (R285). -/
def execVamoand (w r : BitVec 1) (m : BitVec 3) (i : BitVec 5) (a : BitVec 6) (d : BitVec 5) (s : State) : Result :=
  runSolo (wordVA 0x75 w.toNat r.toNat 1 m.toNat i.toNat a.toNat d.toNat) (memberVamoand w r m i a d) s

/-- The member VAMOOR (R285). -/
def memberVamoor (w r : BitVec 1) (m : BitVec 3) (i : BitVec 5) (a : BitVec 6) (d : BitVec 5) : Member :=
  vamoMember 2 w r m i a d

/-- VAMOOR (R285). -/
def execVamoor (w r : BitVec 1) (m : BitVec 3) (i : BitVec 5) (a : BitVec 6) (d : BitVec 5) (s : State) : Result :=
  runSolo (wordVA 0x75 w.toNat r.toNat 2 m.toNat i.toNat a.toNat d.toNat) (memberVamoor w r m i a d) s

/-- The member VAMOXOR (R285). -/
def memberVamoxor (w r : BitVec 1) (m : BitVec 3) (i : BitVec 5) (a : BitVec 6) (d : BitVec 5) : Member :=
  vamoMember 3 w r m i a d

/-- VAMOXOR (R285). -/
def execVamoxor (w r : BitVec 1) (m : BitVec 3) (i : BitVec 5) (a : BitVec 6) (d : BitVec 5) (s : State) : Result :=
  runSolo (wordVA 0x75 w.toNat r.toNat 3 m.toNat i.toNat a.toNat d.toNat) (memberVamoxor w r m i a d) s

/-- The member VAMOMIN (R285). -/
def memberVamomin (w r : BitVec 1) (m : BitVec 3) (i : BitVec 5) (a : BitVec 6) (d : BitVec 5) : Member :=
  vamoMember 4 w r m i a d

/-- VAMOMIN (R285). -/
def execVamomin (w r : BitVec 1) (m : BitVec 3) (i : BitVec 5) (a : BitVec 6) (d : BitVec 5) (s : State) : Result :=
  runSolo (wordVA 0x75 w.toNat r.toNat 4 m.toNat i.toNat a.toNat d.toNat) (memberVamomin w r m i a d) s

/-- The member VAMOMAX (R285). -/
def memberVamomax (w r : BitVec 1) (m : BitVec 3) (i : BitVec 5) (a : BitVec 6) (d : BitVec 5) : Member :=
  vamoMember 5 w r m i a d

/-- VAMOMAX (R285). -/
def execVamomax (w r : BitVec 1) (m : BitVec 3) (i : BitVec 5) (a : BitVec 6) (d : BitVec 5) (s : State) : Result :=
  runSolo (wordVA 0x75 w.toNat r.toNat 5 m.toNat i.toNat a.toNat d.toNat) (memberVamomax w r m i a d) s

/-- The member VAMOMINU (R285). -/
def memberVamominu (w r : BitVec 1) (m : BitVec 3) (i : BitVec 5) (a : BitVec 6) (d : BitVec 5) : Member :=
  vamoMember 6 w r m i a d

/-- VAMOMINU (R285). -/
def execVamominu (w r : BitVec 1) (m : BitVec 3) (i : BitVec 5) (a : BitVec 6) (d : BitVec 5) (s : State) : Result :=
  runSolo (wordVA 0x75 w.toNat r.toNat 6 m.toNat i.toNat a.toNat d.toNat) (memberVamominu w r m i a d) s

/-- The member VAMOMAXU (R285). -/
def memberVamomaxu (w r : BitVec 1) (m : BitVec 3) (i : BitVec 5) (a : BitVec 6) (d : BitVec 5) : Member :=
  vamoMember 7 w r m i a d

/-- VAMOMAXU (R285). -/
def execVamomaxu (w r : BitVec 1) (m : BitVec 3) (i : BitVec 5) (a : BitVec 6) (d : BitVec 5) (s : State) : Result :=
  runSolo (wordVA 0x75 w.toNat r.toNat 7 m.toNat i.toNat a.toNat d.toNat) (memberVamomaxu w r m i a d) s

/-- The member VAMOSWAP (R285). -/
def memberVamoswap (w r : BitVec 1) (m : BitVec 3) (i : BitVec 5) (a : BitVec 6) (d : BitVec 5) : Member :=
  vamoMember 8 w r m i a d

/-- VAMOSWAP (R285). -/
def execVamoswap (w r : BitVec 1) (m : BitVec 3) (i : BitVec 5) (a : BitVec 6) (d : BitVec 5) (s : State) : Result :=
  runSolo (wordVA 0x75 w.toNat r.toNat 8 m.toNat i.toNat a.toNat d.toNat) (memberVamoswap w r m i a d) s

/-- The member VAMOFADD (R285). -/
def memberVamofadd (w r : BitVec 1) (m : BitVec 3) (i : BitVec 5) (a : BitVec 6) (d : BitVec 5) : Member :=
  vamoMember 10 w r m i a d

/-- VAMOFADD (R285). -/
def execVamofadd (w r : BitVec 1) (m : BitVec 3) (i : BitVec 5) (a : BitVec 6) (d : BitVec 5) (s : State) : Result :=
  runSolo (wordVA 0x75 w.toNat r.toNat 10 m.toNat i.toNat a.toNat d.toNat) (memberVamofadd w r m i a d) s

/-! ### Two-phase groups (R286) -/

/-- Whether a place accepts an element of a sub-operation: its address is there, aligned and backed, no word of it is
poisoned, and a host line is asked for no operation that PCIe does not carry (R286, R287). -/
def placeAccepts (s : State) (place : Nat) (op : BitVec 4) (w64 : Bool) (pa : Nat) : Bool :=
  let n := atomBytes w64
  pkgField (domainForm s pa) == place && pa % n == 0 && !anyPoison s pa n &&
    (if isHost pa then op == 0 || op == 8
     else if isLocal s pa then backedLocal s (localAddr pa) && (scratchOf (localAddr pa)).isNone && localAddr pa < deviceBase
     else true)

/-- VAMO_PREPARE (R286): a place receives a prepare message. One that finds a line held waits; one whose place refuses
an element holds nothing. DEDUCED (log entry 35). -/
def execVamoPrepare (place requester : Nat) (op : BitVec 4) (w64 : Bool) (elems : List (Nat × BitVec 64)) (s : State) :
    Result :=
  runEvent (do
    let s ← get
    let held := s.prepared.any fun p => p.elems.any fun e => elems.any fun x => steer s x.1 / 128 == steer s e.1 / 128
    if held then noPart
    else if elems.all fun x => placeAccepts s place op w64 x.1 then
      let p : Prepared := { place := place, requester := requester, op := op, w64 := w64, elems := elems }
      set { s with prepared := s.prepared ++ [p] }
    else return ()) s

/-- One element of a prepared sub-operation, performed where its line lives, whose L1 copies are recalled (R277, R278). -/
def performPrepared (op : Nat) (w64 : Bool) (s : State) (x : Nat × BitVec 64) : State :=
  let n := atomBytes w64
  let s := drainForStore s x.1 n
  let new := atomicNew op (atomicWidth w64) (physLoad s x.1 n) (x.2.toNat % 2 ^ atomicWidth w64) 0
  physStore s x.1 (leBytes n new.bits)

/-- VAMO_PERFORM (R286): a place receives the perform message, or the release of a group some place refused.
DEDUCED (log entry 35). -/
def execVamoPerform (place requester : Nat) (go : Bool) (s : State) : Result :=
  runEvent (do
    let s ← get
    match s.prepared.findIdx? fun p => p.place == place && p.requester == requester with
    | none => noPart
    | some k =>
      match s.prepared[k]? with
      | none => noPart
      | some p =>
        let t := if go then p.elems.foldl (performPrepared p.op.toNat p.w64) s else s
        set { t with prepared := t.prepared.eraseIdx k }) s

end Sys2Proof.Machine
end

