-- ==== Sys2Proof/Machine/Slack.lean ====
section
/-! DEFINITION. Slack regions (R289 to R301): records and shares in exact units, shim lines and gauges, additions, tolerant
loads, slack control, and the messages of R294 as steps of their own. An instruction's own messages happen within it. -/

namespace Sys2Proof.Machine

open Sys2Proof.Config

/-! ### Values (R289, R291) -/

/-- Code of +∞ in FP32; codes of non-negative values rise with their values. -/
abbrev fpInf : Nat := 0x7F800000

/-- Sum of two non-negative FP32 values, rounded up (R291). -/
def addUp (x y : Nat) : Nat := if x = fpInf || y = fpInf then fpInf else (fpAdd 1 x y 3 0).bits

/-- x − y of non-negative FP32 values with x ≥ y, rounded up. -/
def subUp (x y : Nat) : Nat := if x = fpInf then fpInf else (fpSub 1 x y 3 0).bits

/-- |v| of an FP32 addend; a NaN or an infinity counts as +∞ (R293). -/
def addendMag (v : Nat) : Nat := min (v % 2 ^ 31) fpInf

/-- A share as FP32, rounded towards zero (R291). -/
def unitsToFp (budget units : Nat) : Nat :=
  match fpDecode 1 budget with
  | .fin _ m e => (fpRound 1 false (units * m) (e - 20) 1 false false 0).bits
  | _ => 0

/-- A non-negative FP32 value as units of the budget: numerator and denominator of an exact ratio, or none for +∞. -/
def unitRatio (budget v : Nat) : Option (Nat × Nat) :=
  match fpDecode 1 v, fpDecode 1 budget with
  | .fin _ mv ev, .fin _ mb eb =>
    if eb ≤ ev then some (mv * 2 ^ (20 + (ev - eb).toNat), mb) else some (mv * 2 ^ 20, mb * 2 ^ (eb - ev).toNat)
  | _, _ => none

/-- Units rounded up; +∞ is the whole budget (R294). -/
def unitsUp (budget v : Nat) : Nat :=
  match unitRatio budget v with
  | some (n, d) => (n + d - 1) / d
  | none => slackUnits

/-- Units rounded down (R294). -/
def unitsDown (budget v : Nat) : Nat :=
  match unitRatio budget v with
  | some (n, d) => n / d
  | none => slackUnits

/-! ### Records (R289, R291, R295) -/

/-- A region's record. -/
def regionOf (s : State) (k : Nat) : Region :=
  s.regions.getD k
    { base := 0, size := 0, asid := 0, vmid := 0, budget := 0, unit := 0, pool := 0, holders := [], serving := none }

/-- The state with one region record changed. -/
def modRegion (s : State) (k : Nat) (f : Region → Region) : State := { s with regions := s.regions.modify k f }

/-- The record a bay keeps of a region. -/
def holderOf (s : State) (k bay : Nat) : Option Holder := (regionOf s k).holders.find? fun h => h.bay == bay

/-- The share of a bay in a region, in units. -/
def shareOf (s : State) (k bay : Nat) : Nat := (holderOf s k bay).elim 0 (·.share)

/-- The state with one holder's record changed. -/
def modHolder (s : State) (k bay : Nat) (f : Holder → Holder) : State :=
  modRegion s k fun r => { r with holders := r.holders.map fun h => if h.bay = bay then f h else h }

/-- The gauge of a holder: the largest magnitude of its shim lines of the region (R291). -/
def gaugeOf (s : State) (k bay : Nat) : Nat :=
  (s.shims.filter fun h => h.bay == bay && h.region == k).foldl (fun g h => max g h.mag.toNat) 0

/-- The shim line a holder keeps of a line. -/
def shimOf (s : State) (bay line : Nat) : Option Shim := s.shims.find? fun h => h.bay == bay && h.line == line

/-- A holder's shim lines of one region drained (R294). -/
def drainHolder (s : State) (k bay : Nat) : State := drainShims s fun h => h.bay == bay && h.region == k

/-- The units of a holder's record: its share and those on their way to it or from it. -/
def unitsOf (h : Holder) : Nat := h.share + h.grantIn + h.retIn

/-- DRAW with the return flag, or RET: the holder drains, its units go back to the pool and its record is freed (R294). -/
def returnShare (s : State) (k bay : Nat) : State :=
  let s := drainHolder s k bay
  let units := (holderOf s k bay).elim 0 unitsOf
  modRegion s k fun r => { r with pool := r.pool + units, holders := r.holders.filter fun h => h.bay != bay }

/-- Draws every holder of a region (R294). -/
def drawAll (s : State) (k : Nat) (ret : Bool) : State :=
  ((regionOf s k).holders.map (·.bay)).foldl (fun s n => if ret then returnShare s k n else drainHolder s k n) s

/-- The regions of which a bay keeps a record, least recently used first. -/
def recordsOf (s : State) (bay : Nat) : List (Nat × Nat) :=
  sortBy (fun a b => a.2 ≤ b.2) (s.regions.zipIdx.filterMap fun (r, k) =>
    (r.holders.find? fun h => h.bay == bay).map fun h => (k, h.used))

/-- Every region's shim lines of a bay drained and its shares returned (R295, R361, R368). -/
def giveBack (s : State) (bay : Nat) : State := (recordsOf s bay).foldl (fun s x => returnShare s x.1 bay) s

/-- A holder's record, made when there is none: a 17th frees the least recently used (R295). -/
def useRecord (s : State) (k bay : Nat) : State :=
  let recs := recordsOf s bay
  let stamp := recs.foldl (fun a x => max a (x.2 + 1)) 0
  if (holderOf s k bay).isSome then modHolder s k bay fun h => { h with used := stamp }
  else
    let s := match recs with
      | x :: _ => if 16 ≤ recs.length then returnShare s x.1 bay else s
      | [] => s
    let h : Holder := { bay := bay, share := 0, used := stamp, grantIn := 0, asked := none, retIn := 0, drawn := none }
    modRegion s k fun r => { r with holders := r.holders ++ [h] }

/-- The holder a home reclaims before it serves a 65th: the smallest share, ties to the higher bay (R295). -/
def reclaimed (hs : List Holder) : Option Nat :=
  (sortBy (fun (a b : Holder) => a.share < b.share || (a.share == b.share && b.bay ≤ a.bay)) hs).head?.map (·.bay)

/-- GROW at the region home (R294, R295): the units granted, taken from the pool; a 65th holder first has another
reclaimed. -/
def growAt (s : State) (k bay ask : Nat) : State × Nat :=
  let others := (regionOf s k).holders.filter fun h => h.bay != bay
  let s := if 64 ≤ others.length then (match reclaimed others with | some n => returnShare s k n | none => s) else s
  let grant := min ask (regionOf s k).pool
  (modRegion s k fun r => { r with pool := r.pool - grant }, grant)

/-! ### Additions (R292, R293) -/

/-- One checked element of an SLKADD: its line and offset, and the addend. -/
structure SlackElem where
  line : Nat
  off : Nat
  region : Nat
  value : Nat
  /-- the page lies in another package (R293) -/
  far : Bool

/-- An element added into the home copy by RNE. -/
def addHome (s : State) (e : SlackElem) : State :=
  let a := e.line + e.off
  physStore s a (leBytes 4 (fpAdd 1 (physLoad s a 4) e.value 0 0).bits)

/-- An element added into a shim line's partial sum by RNE. -/
def addShim (h : Shim) (e : SlackElem) : Shim :=
  let p := fpAdd 1 (getField h.partials (8 * e.off) 32) e.value 0 0
  { h with partials := setField h.partials (8 * e.off) 32 p.bits, touched := h.touched ||| BitVec.ofNat 32 (2 ^ (e.off / 4)) }

/-- a_L: the largest summed magnitude that the elements place in one element of the line (R293). -/
def lineMag (es : List SlackElem) : Nat :=
  es.foldl (fun a e =>
    max a ((es.filter fun x => x.off == e.off).foldl (fun z x => addUp z (addendMag x.value)) 0)) 0

/-- Withholds a line's additions in the holder's shim line (R293). -/
def withhold (s : State) (bay k line : Nat) (es : List SlackElem) (aL : Nat) : State :=
  let h := (shimOf s bay line).getD
    { bay := bay, region := k, line := line, partials := 0, touched := 0, mag := 0, draining := false }
  let h := es.foldl addShim h
  let h := { h with mag := BitVec.ofNat 32 (addUp h.mag.toNat aL), draining := false }
  let rest := s.shims.filter fun x => !(x.bay == bay && x.line == line)
  { s with shims := rest ++ [h] }

/-- The step of R293 for one line at one holder; `es` are its elements in ascending element index. -/
def slackLine (s : State) (bay : Nat) (es : List SlackElem) : State :=
  match es with
  | [] => s
  | e0 :: _ =>
    let es := sortBy (fun a b => a.off ≤ b.off) es
    if e0.far then es.foldl addHome s
    else
      let k := e0.region
      let s := useRecord s k bay
      let r := regionOf s k
      let aL := lineMag es
      let mL := (shimOf s bay e0.line).elim 0 fun h => h.mag.toNat
      let need := max (gaugeOf s k bay) (addUp mL aL)
      let share := fun (s : State) => unitsToFp r.budget.toNat (shareOf s k bay)
      let s :=
        if share s < need then
          let ask := max (subUp need (share s)) r.unit.toNat
          let g := growAt s k bay (unitsUp r.budget.toNat ask)
          modHolder g.1 k bay fun h => { h with share := h.share + g.2 }
        else s
      let drained := share s < need
      let s := if drained then drainHolder s k bay else s
      let need := if drained then aL else need
      if need ≤ share s then withhold s bay k e0.line es aL else es.foldl addHome s

/-- The elements of one bay, line by line in ascending line address (R293). -/
def slackLines (s : State) (bay : Nat) (es : List SlackElem) : State :=
  (sortBy (fun a b => a ≤ b) (dedup (es.map (·.line)))).foldl (fun s l => slackLine s bay (es.filter fun e => e.line == l)) s

/-- What becomes of a checked element: it is added, or it retires into the side log (R213). -/
inductive SlackCheck where
  | add (e : SlackElem)
  | log (va value : Nat) (t : Trap)

/-- Checks one active element of an SLKADD (R292): it reads and writes, for WATCH and for permission (R379, R385). -/
def slackCheck (b va value : Nat) : M SlackCheck := do
  let st ← getStrand
  checkWatch va 4 .atomic
  if va % 4 != 0 then raise causeMisal (BitVec.ofNat 64 va)
  else if overlapsLog st va 4 then
    needLog (storepf va)
    return .log va value (storepf va)
  else
    match ← checkAccess b va 4 .atomic with
    | .log t =>
      needLog (logTrap t)
      return .log va value (logTrap t)
    | .fail t => raiseT t
    | .ok ps =>
      let s ← get
      let pa := byteAddr ps va 0
      match ← myRegion va with
      | none => raise causeSlkmis (BitVec.ofNat 64 va)
      | some k =>
        if (regionOf s k).serving.isSome then waitFor .busyUnit
        else
          let name := if isLocal s pa then localAddr pa else pa
          return .add { line := name / 128 * 128, off := pa % 128, region := k, value := value, far := elsewhere s pa }

/-- Checks the active elements `j`, `j` + 1, … of one position. -/
def slackCheckRun (addr : AddrFn) (m d b : Nat) : Nat → Nat → M (List SlackCheck)
  | 0, _ => return []
  | n + 1, j => do
    let st ← getStrand
    let bl ← getBlock b
    let x ← if maskOn bl m j then (do
        return [← slackCheck b (addr st.r bl b j / 8 % 2 ^ 64) (elemRead bl 32 d j)]) else pure []
    let rest ← slackCheckRun addr m d b n (j + 1)
    return x ++ rest

/-- Checks a span, position by position: the outcomes of each position. -/
def slackCheckSpan (addr : AddrFn) (m d : Nat) (sp : Span) : Nat → Nat → M (List (Nat × List SlackCheck))
  | 0, _ => return []
  | n + 1, b => do
    let st ← getStrand
    let x ← slackCheckRun addr m d b (min sp.hi (belowVl st.r.vl (vlbOf st.r.vt) b) - sp.lo) sp.lo
    let rest ← slackCheckSpan addr m d sp n (b + 1)
    return (b, x) :: rest

/-- Retires slack additions into the log, line by line (R214). -/
def slackRetire (b : Nat) : List (List (Nat × Nat × Trap)) → M Unit
  | [] => return ()
  | [] :: t => slackRetire b t
  | (e :: es) :: t => do
    let op : LogOp := .slack ((e :: es).map fun x => (x.1 % 128, BitVec.ofNat 32 x.2.1))
    logAccess b (e.1 % 2 ^ 48 / 128) op 0 false false e.2.2
    slackRetire b t

/-- Performs the checked elements of the positions in turn (R293). -/
def slackPerform : List (Nat × List SlackCheck) → M Unit
  | [] => return ()
  | (b, xs) :: t => do
    let bl ← getBlock b
    let adds := xs.filterMap fun | .add e => some e | .log .. => none
    let logs := xs.filterMap fun | .add _ => none | .log va v tr => some (va, v, tr)
    modify fun s => slackLines s bl.bay adds
    slackRetire b (linePieces (fun (x : Nat × Nat × Trap) => x.1 % 2 ^ 48 / 128) logs)
    slackPerform t

/-- An SLKADD member: every active element of a group is checked before any is added (R117, R292, R293). -/
def slackMember (bad : Strand → Bool) (addr : AddrFn) (m : BitVec 3) (d : BitVec 5) (reads : Regs → List Nat) : Member :=
  { plainMember .mem false bad (fun _ => 32) fun sp => do
      let st ← getStrand
      if st.r.vl = 0 then return ()
      else slackPerform (← slackCheckSpan addr m.toNat d.toNat sp (spanOf st) 0)
    with readsV := reads }

/-- Issue checks of SLKADD: VT.FMT is FP32, R37. -/
def slackBad (d : BitVec 5) (st : Strand) : Bool := vtFmt st.r.vt != 1 || !alignedAll st [d.toNat]

/-- The member SLKADD (R292, R293). -/
def memberSlkadd (m : BitVec 3) (a : BitVec 6) (d : BitVec 5) : Member :=
  slackMember (slackBad d) (unitAddr (fun q => (regRead q a.toNat).toNat) 0 32) m d
    (fun r => (List.range (vtG r.vt)).map (d.toNat + ·))

/-- SLKADD (R292, R293). DEDUCED (log entry 34). -/
def execSlkadd (m : BitVec 3) (a : BitVec 6) (d : BitVec 5) (s : State) : Result :=
  runSolo (wordVA 0x77 0 0 0 m.toNat 0 a.toNat d.toNat) (memberSlkadd m a d) s

/-- The member SLKADDX (R292, R293). -/
def memberSlkaddx (m : BitVec 3) (i : BitVec 5) (a : BitVec 6) (d : BitVec 5) : Member :=
  slackMember (fun st => slackBad d st || indexBad i st) (indexAddr a.toNat i.toNat 32) m d
    (fun r => (List.range (vtG r.vt)).map (d.toNat + ·) ++ (List.range (vtG r.vt)).map (i.toNat + ·))

/-- SLKADDX (R292, R293). -/
def execSlkaddx (m : BitVec 3) (i : BitVec 5) (a : BitVec 6) (d : BitVec 5) (s : State) : Result :=
  runSolo (wordVA 0x77 0 0 1 m.toNat i.toNat a.toNat d.toNat) (memberSlkaddx m i a d) s

/-! ### Tolerant loads (R296, R297) -/

/-- Draws holders in descending order of share, ties to the lower bay, until the shares not drawn sum to `eps` units or
less: TOLQ, DRAW and DRAWN of one query (R297). -/
def drawUntil (k eps : Nat) : List Holder → State → State
  | [], s => s
  | h :: t, s =>
    if (h :: t).foldl (fun a x => a + x.share) 0 ≤ eps then s else drawUntil k eps t (drainHolder s k h.bay)

/-- Holders in the order of R297. -/
def drawOrder (hs : List Holder) : List Holder :=
  sortBy (fun a b => b.share < a.share || (a.share == b.share && a.bay ≤ b.bay)) hs

/-- Steps 1 and 2 of R297 for the line of one element: the strand's own shims of the line drain; then the region home
draws the other holders. -/
def tolerate (k eps pa : Nat) : M Unit := do
  let st ← getStrand
  let s ← get
  if (regionOf s k).serving.isSome then waitFor .busyUnit
  let mine := attached st
  set (drainShims s fun h => mine.contains h.bay && coversLine s pa 4 h)
  let r := regionOf s k
  if eps < r.budget.toNat then
    modify fun s => drawUntil k (unitsDown r.budget.toNat eps) (drawOrder ((regionOf s k).holders.filter fun h =>
      !mine.contains h.bay)) s

/-- ε of an LDTOL: −0 is +0; a NaN or a value below 0 is refused (R296). -/
def tolerance (x : Nat) : Option Nat :=
  let x := if x = 0x80000000 then 0 else x
  if x ≤ fpInf then some x else none

/-- One active element of LDTOL (R296, R297). -/
def ldtolElem (a x d b j : Nat) : M Unit := do
  let st ← getStrand
  let base := (regRead st.r a).toNat
  match tolerance ((regRead st.r x).toNat % 2 ^ 32) with
  | none => raise causeSlkmis (BitVec.ofNat 64 base)
  | some eps =>
    let va := (base + 4 * (b * vlbOf st.r.vt + j)) % 2 ^ 64
    checkWatch va 4 .read
    if va % 4 != 0 then raise causeMisal (BitVec.ofNat 64 va)
    else
      let region ← myRegion va
      match region with
      | some k =>
        if !overlapsLog st va 4 then
          match ← checkAccess b va 4 .read with
          | .ok ps => tolerate k eps (byteAddr ps va 0)
          | _ => pure ()
      | none => pure ()
      let v ← loadBytes b va 4 3 true
      if region.isNone then raise causeSlkmis (BitVec.ofNat 64 va)
      modBlock b fun bl => elemWrite bl 32 d j (leValue v)

/-- The member LDTOL (R296, R297). -/
def memberLdtol (m : BitVec 3) (x : BitVec 5) (a : BitVec 6) (d : BitVec 5) : Member :=
  plainMember .mem false (fun st => vtFmt st.r.vt != 1 || !alignedAll st [d.toNat]) (fun _ => 32)
    (loadElems m.toNat (ldtolElem a.toNat x.toNat d.toNat) fun bl j => elemWrite bl 32 d.toNat j 0)

/-- LDTOL (R296, R297). -/
def execLdtol (m : BitVec 3) (x : BitVec 5) (a : BitVec 6) (d : BitVec 5) (s : State) : Result :=
  runSolo (wordVM 0x5D 0 0 2 m.toNat x.toNat a.toNat d.toNat) (memberLdtol m x a d) s

/-! ### Slack control (R290, R300) -/

/-- The definition block of R290. -/
structure SlackDef where
  base : Nat
  size : Nat
  b : Nat
  q : Nat
  zero : Nat

/-- Fields of a definition block. -/
def slackDefOf (bs : List Byte) : SlackDef :=
  { base := bytesAt bs 0 8, size := bytesAt bs 8 8, b := bytesAt bs 16 4, q := bytesAt bs 20 4, zero := bytesAt bs 24 8 }

/-- Status 1 of R290, for a definition and for a deletion alike. -/
def badDef (x : SlackDef) : Bool :=
  x.base % 4096 != 0 || x.size % 4096 != 0 || 2 ^ 30 < x.size || x.b = 0 || fpInf ≤ x.b ||
    !(x.q ≤ x.b || x.q = 0x80000000) || x.zero != 0

/-- Whether a page suits a region (R290, status 5): mapped, SLK, HOME 0, in this package. -/
def slackPage (va : Nat) : M Bool := do
  let st ← getStrand
  match ← lookup (strandCtx st 0) (va % 2 ^ 48) false with
  | .error _ => return false
  | .ok w =>
    let s ← get
    let x := xlOf va w
    return canonical va && x.slk && x.home == 0 && !elsewhere s x.pa

/-- Whether every 4 KiB page of a range suits a region. -/
def slackPages : Nat → Nat → M Bool
  | 0, _ => return true
  | n + 1, va => do
    let ok ← slackPage va
    if ok then slackPages n (va + 4096) else return false

/-- Puts a region record in the first free place of the table. -/
def addRegion (s : State) (r : Region) : State :=
  match s.regions.findIdx? fun x => x.size == 0 with
  | some k => { s with regions := s.regions.set k r }
  | none => { s with regions := s.regions ++ [r] }

/-- SLKDEF on its block (R290): the status. -/
def defineRegion (x : SlackDef) : M Nat := do
  let st ← getStrand
  let s ← get
  let asid := BitVec.ofNat 16 st.r.asid.toNat
  let vmid := vmidOf st
  let live := s.regions.filter fun r => r.size != 0
  if badDef x then return 1
  else if x.size = 0 then
    match s.regions.findIdx? fun r => r.size != 0 && r.asid == asid && r.vmid == vmid && r.base == x.base with
    | none => return 4
    | some k =>
      if (regionOf s k).serving.isSome then waitFor .busyUnit
      else
        modify fun s => modRegion (drawAll s k true) k fun r => { r with size := 0, holders := [] }
        return 0
  else if live.any fun r => r.asid == asid && r.vmid == vmid && r.base < x.base + x.size && x.base < r.base + r.size then
    return 2
  else if 4096 ≤ live.length then return 3
  else
    let ok ← slackPages (x.size / 4096) x.base
    if !ok then return 5
    else
      let unit := if x.q = 0x80000000 then 0 else x.q
      let r : Region :=
        { base := x.base, size := x.size, asid := asid, vmid := vmid, budget := BitVec.ofNat 32 x.b,
          unit := BitVec.ofNat 32 unit, pool := slackUnits, holders := [], serving := none }
      modify fun s => addRegion s r
      return 0

/-- SLKDEF (R290). DEDUCED (log entry 34). -/
def execSlkdef (a d : BitVec 6) (s : State) : Result :=
  runSeq (do
    needRuntime (wordSR 0x78 0 0 a.toNat d.toNat)
    let va := (← rs a).toNat
    checkWatch va 32 .read
    if va % 32 != 0 then raise causeMisal (BitVec.ofNat 64 va)
    else
      let bs ← loadBytes 0 va 32 0 false
      let status ← defineRegion (slackDefOf bs)
      ws d (BitVec.ofNat 64 status)) s

/-- The region an address names, or SLKMIS (R300); a home that serves another request makes it wait (R294). -/
def namedRegion (va : Word) : M Nat := do
  match ← myRegion va.toNat with
  | none => raise causeSlkmis va
  | some k =>
    let s ← get
    if (regionOf s k).serving.isSome then waitFor .busyUnit
    else return k

/-- SLKDRAW (R300). -/
def execSlkdraw (a : BitVec 6) (s : State) : Result :=
  runSeq (do
    let k ← namedRegion (← rs a)
    modify fun s => drawAll s k false) s

/-- SLKQRY (R300). DEDUCED (log entry 34). -/
def execSlkqry (b a d : BitVec 6) (s : State) : Result :=
  runSeq (do
    let st ← getStrand
    let va := regRead st.r a.toNat
    let p := (regRead st.r b.toNat).toNat
    match ← myRegion va.toNat with
    | none => raise causeSlkmis va
    | some k =>
      match st.blocks[p]? with
      | none => issueTrap causeIllop (wordSR 0x78 2 b.toNat a.toNat d.toNat)
      | some bl =>
        let s ← get
        if (holderOf s k bl.bay).isNone then ws d 0
        else
          let share := unitsToFp (regionOf s k).budget.toNat (shareOf s k bl.bay)
          ws d (BitVec.ofNat 64 (share * 2 ^ 32 + gaugeOf s k bl.bay))) s

/-- SLKREL (R300). -/
def execSlkrel (a : BitVec 6) (s : State) : Result :=
  runSeq (do
    let k ← namedRegion (← rs a)
    let st ← getStrand
    modify fun s => (attached st).foldl (fun s n => returnShare s k n) s) s

/-! ### The messages of R294 as steps -/

/-- A change of a region that exists. -/
def onRegion (k : Nat) (f : State → Region → M Unit) : M Unit := do
  let s ← get
  match s.regions[k]? with
  | none => noPart
  | some r => if r.size = 0 then noPart else f s r

/-- A change of a holder that has a record. -/
def onHolder (k bay : Nat) (f : State → Region → Holder → M Unit) : M Unit :=
  onRegion k fun s r =>
    match r.holders.find? fun h => h.bay == bay with
    | none => noPart
    | some h => f s r h

/-- GROW (R294): units are taken from the pool and are on their way to the holder; it waits while the home serves a
query. -/
def execGrow (region bay ask : Nat) (s : State) : Result :=
  runEvent (onHolder region bay fun s r _ => do
    if r.serving.isSome then noPart
    else
      let g := growAt s region bay ask
      set (modHolder g.1 region bay fun h => { h with grantIn := h.grantIn + g.2 })) s

/-- GRANT (R293): the holder's share rises by the units granted. -/
def execGrant (region bay : Nat) (s : State) : Result :=
  runEvent (onHolder region bay fun s _ _ =>
    set (modHolder s region bay fun h => { h with share := h.share + h.grantIn, grantIn := 0 })) s

/-- DRAIN (R294): the line home adds a shim line's partials into the home copy; its DACK is on its way.
DEDUCED (log entry 34). -/
def execDrain (bay line : Nat) (s : State) : Result :=
  runEvent (do
    let s ← get
    match s.shims.find? fun h => h.bay == bay && h.line == line && !h.draining with
    | none => noPart
    | some h =>
      let t := drainInto s h
      let sent := fun (x : Shim) =>
        if x.bay = bay && x.line = line then { x with draining := true, touched := 0, partials := 0, mag := 0 } else x
      set { t with shims := t.shims.map sent }) s

/-- A holder whose last shim line of a region has been evicted sends RET with its share (R295). -/
def afterEviction (s : State) (k bay : Nat) : State :=
  if s.shims.any fun h => h.bay == bay && h.region == k then s
  else modHolder s k bay fun h => { h with retIn := h.retIn + h.share, share := 0 }

/-- DACK (R294): the line leaves the holder's shim state; DRAIN and DACK as events evict the line (R295).
DEDUCED (log entry 34). -/
def execDack (bay line : Nat) (s : State) : Result :=
  runEvent (do
    let s ← get
    match s.shims.find? fun h => h.bay == bay && h.line == line && h.draining with
    | none => noPart
    | some x =>
      let t := { s with shims := s.shims.filter fun h => !(h.bay == bay && h.line == line && h.draining) }
      set (afterEviction t x.region bay)) s

/-- DRAW (R294): the holder drains every shim line of the region and, with the return flag, gives up its share; its
answer is on its way. -/
def execDraw (region bay : Nat) (ret : Bool) (s : State) : Result :=
  runEvent (onHolder region bay fun s _ h => do
    let t := drainHolder s region bay
    set (modHolder t region bay fun x =>
      if ret then { x with drawn := some true, retIn := x.retIn + h.share, share := 0 } else { x with drawn := some false })) s

/-- The region home takes the units a holder has sent back; one that keeps nothing is registered no more. -/
def takeReturn (s : State) (k bay : Nat) (h : Holder) : State :=
  let s := modRegion (modHolder s k bay fun x => { x with retIn := 0 }) k fun r => { r with pool := r.pool + h.retIn }
  if h.share = 0 && h.grantIn = 0 && !s.shims.any (fun x => x.bay == bay && x.region == k) then
    modRegion s k fun r => { r with holders := r.holders.filter fun x => x.bay != bay }
  else s

/-- DRAWN (R294): the region home takes the returned units. What the holder has been granted since it answered the DRAW
stays with it. -/
def execDrawn (region bay : Nat) (s : State) : Result :=
  runEvent (onHolder region bay fun s _ h =>
    match h.drawn with
    | none => noPart
    | some ret =>
      let s := modHolder s region bay fun x => { x with drawn := none }
      set (if ret then takeReturn s region bay h else s)) s

/-- LINEDRAW (R294): the holder drains one line. -/
def execLinedraw (bay line : Nat) (s : State) : Result :=
  runEvent (do
    let s ← get
    if s.shims.any fun h => h.bay == bay && h.line == line then set (drainShims s fun h => h.bay == bay && h.line == line)
    else noPart) s

/-- RET (R294, R295): the units of a holder whose last shim line was evicted return to the pool; it waits while the home
serves a query. DEDUCED (log entry 34). -/
def execRet (region bay : Nat) (s : State) : Result :=
  runEvent (onHolder region bay fun s r h => do
    if r.serving.isSome || h.drawn.isSome || h.retIn = 0 then noPart else set (takeReturn s region bay h)) s

/-- TOLQ (R297): the region home begins to serve a query: it draws holders, other than the requester's own bays, until
the shares not drawn are within ε. -/
def execTolq (region strand epsUnits : Nat) (s : State) : Result :=
  runEvent (onRegion region fun s r => do
    match s.strands[strand]? with
    | none => noPart
    | some st =>
      if r.serving.isSome then noPart
      else
        let others := drawOrder (r.holders.filter fun h => !(attached st).contains h.bay)
        set (modRegion (drawUntil region epsUnits others s) region fun r =>
          { r with serving := some (strand, BitVec.ofNat 32 epsUnits) })) s

/-- TOLGO (R297): the home releases the requester, which reads its lines; a strand that waited for the home goes on. -/
def execTolgo (strand : Nat) (s : State) : Result :=
  runEvent (do
    let s ← get
    let asked := fun (r : Region) => r.serving.any fun x => x.1 == strand
    if s.regions.any asked then
      set { s with regions := s.regions.map fun r => if asked r then { r with serving := none } else r }
    else noPart) s

end Sys2Proof.Machine
end

