-- ==== Sys2Proof/Machine/VecControl.lean ====
section
/-! DEFINITION. Vector control: SETVL and SETVLR with the shrink of R19 (R108 to R110), and the active fragment with its
stack and spill area (R121 to R126). -/

namespace Sys2Proof.Machine

open Sys2Proof.Config

/-! ### SETVL (R19, R108) -/

/-- The strand after a shrink to `n` positions (R19): the blocks above are lost, and the fragment masks drop their
bits (R121). -/
def shrunk (n : Nat) (st : Strand) : Strand :=
  { st with
    blocks := st.blocks.take n
    frags := st.frags.map fun f => { f with masks := f.masks.take n }
    shrink := none }

/-- Whether the mark may be applied: the side logs of the positions it would detach are empty (R19). -/
def mayShrink (n : Nat) (st : Strand) : Bool := (st.blocks.drop n).all fun bl => bl.slog.isEmpty

/-- Blocks are detached: their scratch ways return to the cache, their contents lost (R19, R211), and their bays keep the
machine CSRs (R380). -/
def detachBays (s : State) (bls : List Block) : State := bls.foldl (fun s bl => leaveBay (changeWays false bl.ways.toNat s bl) bl) s

/-- The strand after a SETVL of a legal type (R108). -/
def granted (avl : Nat) (t : BitVec 13) (d : Nat) (st : Strand) : Strand :=
  let vl := min avl (spanOf st * vlbOf t)
  { st with r := { regWrite st.r d (BitVec.ofNat 64 vl) with vl := vl, vt := t, vstart := 0 } }

/-- SETVL and SETVLR (R108): `t` is the operand, whose bits 12:0 count. -/
def setvl (word : Nat) (t : BitVec 13) (a d : BitVec 6) : M Unit := do
  let st ← getStrand
  if !vtLegal t.toNat then issueTrap causeIllop word
  else
    let avl := (regRead st.r a.toNat).toNat
    match st.shrink with
    | some n =>
      if mayShrink n st then
        modify fun s => detachBays s (st.blocks.drop n)
        setStrand (granted avl t d.toNat (shrunk n st))
      else setStrand (granted avl t d.toNat st)
    | none => setStrand (granted avl t d.toNat st)

/-- SETVL (R35, R108). -/
def execSetvl (t : BitVec 13) (a d : BitVec 6) (s : State) : Result :=
  runSeq (setvl (wordSI 0x30 t.toNat a.toNat d.toNat) t a d) s

/-- SETVLR (R35, R108): VT is bits 12:0 of s[sb]. -/
def execSetvlr (b a d : BitVec 6) (s : State) : Result :=
  runSeq (do
    let x ← rs b
    setvl (wordSR 0x31 0 b.toNat a.toNat d.toNat) (BitVec.ofNat 13 x.toNat) a d) s

/-! ### The active fragment (R121 to R125) -/

/-- Mask register `m` of a block. -/
def maskReg (bl : Block) (m : Nat) : BitVec maskBits := BitVec.ofNat maskBits (getField bl.m (m * maskBits) maskBits)

/-- A block with mask register `m` replaced. -/
def withMask (bl : Block) (m : Nat) (x : BitVec maskBits) : Block :=
  { bl with m := setField bl.m (m * maskBits) maskBits x.toNat }

/-- Whether masks, one for each position, have no bit set below VL (R121). -/
def emptyMasks (r : Regs) (masks : List (BitVec maskBits)) : Bool :=
  masks.zipIdx.all fun (x, b) => x.toNat % 2 ^ belowVl r.vl (vlbOf r.vt) b == 0

/-- Entries the buffer at position 0 holds (R125). -/
abbrev fragEntries : Nat := 16

/-- Bytes of a spilled entry (R125). -/
abbrev fragRecord : Nat := 8320

/-- The record of a spilled entry (R125). -/
def fragBytes (span : Nat) (f : Frag) : List Byte :=
  leBytes 8 (if f.isElse then f.pc.toNat else 0) ++ [if f.isElse then 1 else 0] ++ leBytes 1 span ++ leBytes 118 0 ++
    (f.masks.map fun m => leBytes 1024 m.toNat).flatten

/-- An entry read back from its record: the masks of the attached positions (R121, R125). -/
def fragOf (span : Nat) (bs : List Byte) : Frag :=
  { isElse := bytesAt bs 8 1 == 1, pc := BitVec.ofNat 64 (bytesAt bs 0 8),
    masks := (List.range span).map fun b => BitVec.ofNat maskBits (bytesAt bs (128 + 1024 * b) 1024) }

/-- Depth of the stack: held and spilled entries (R125). -/
def fragDepth (st : Strand) : Nat := st.frags.length + st.spilled

/-- Address of spilled entry `i` (R125). -/
def fragAddr (st : Strand) (i : Nat) : Nat := (st.r.fragbase.toNat + i * fragRecord) % 2 ^ 64

/-- Pushes an entry; the oldest held entry first moves to the spill area when the buffer is full (R125). The store is
never retired into the side log (R217). DEDUCED (log entry 31). -/
def pushFrag (f : Frag) : M Unit := do
  let st ← getStrand
  if st.frags.length ≥ fragEntries then
    match st.frags.getLast? with
    | some old =>
      storeLong 0 true 66 (fragAddr st st.spilled) (fragBytes (spanOf st) old)
      modStrand fun st => { st with frags := f :: st.frags.dropLast, spilled := st.spilled + 1 }
    | none => modStrand fun st => { st with frags := [f] }
  else modStrand fun st => { st with frags := f :: st.frags }

/-- Pops an entry; the most recently spilled one returns when the pop empties the buffer (R125).
DEDUCED (log entry 31). -/
def popFrag : M Frag := do
  let st ← getStrand
  match st.frags with
  | [] => return { isElse := false, masks := [], pc := 0 }
  | f :: rest =>
    modStrand fun st => { st with frags := rest }
    if rest.isEmpty && st.spilled != 0 then
      let bs ← loadLong 0 true 66 (fragAddr st (st.spilled - 1)) (128 + 1024 * spanOf st)
      modStrand fun st => { st with frags := [fragOf (spanOf st) bs], spilled := st.spilled - 1 }
    return f

/-- m0 of every position replaced (R122, R123). -/
def setActive (masks : List (BitVec maskBits)) : M Unit :=
  modStrand fun st => { st with
    blocks := st.blocks.zipIdx.map fun (bl, b) =>
      match masks[b]? with
      | some x => withMask bl 0 x
      | none => bl }

/-- The masks of one register at every position. -/
def masksOf (st : Strand) (m : Nat) : List (BitVec maskBits) := st.blocks.map fun bl => maskReg bl m

/-- Target of a word offset from the pc (R122, R124). -/
def splitTarget (pc : Word) (o : BitVec 22) : Word := pc + o.signExtend 64 * 4

/-- A vector-control instruction clears VSTART (R119), and a trap of it leaves the strand as it was. -/
def controlled (body : M Word) : M Word := do
  let s ← get
  match ← attempt body with
  | .ok pc =>
    modRegs fun r => { r with vstart := 0 }
    return pc
  | .error x =>
    modify fun e => rollback s e
    throw x

/-- VSPLIT (R122). -/
def execVsplit (o : BitVec 22) (c : BitVec 3) (s : State) : Result :=
  runTo (controlled do
    let st ← getStrand
    let depth := fragDepth st
    if 254 < depth || (14 < depth && st.r.fragbase = 0) then issueTrap causeIllop (wordVB 0x3B o.toNat c.toNat)
    else
      let m0 := masksOf st 0
      let mc := masksOf st c.toNat
      pushFrag { isElse := false, masks := m0, pc := 0 }
      pushFrag { isElse := true, masks := List.zipWith (fun x y => x &&& ~~~y) m0 mc, pc := splitTarget st.r.pc o }
      setActive (List.zipWith (· &&& ·) m0 mc)
      return st.r.pc + 4) s

/-- VJOIN (R123). -/
def execVjoin (s : State) : Result :=
  runTo (controlled do
    let st ← getStrand
    if fragDepth st = 0 then issueTrap causeIllop (wordVB 0x3C 0 0)
    else
      let e ← popFrag
      if e.isElse && !emptyMasks st.r e.masks then
        setActive e.masks
        return e.pc
      else
        let j ← if e.isElse then popFrag else pure e
        setActive j.masks
        return st.r.pc + 4) s

/-- VBNONE (R124). -/
def execVbnone (o : BitVec 22) (c : BitVec 3) (s : State) : Result :=
  runTo (controlled do
    let st ← getStrand
    return if emptyMasks st.r (List.zipWith (· &&& ·) (masksOf st 0) (masksOf st c.toNat)) then splitTarget st.r.pc o
      else st.r.pc + 4) s

end Sys2Proof.Machine
end

