-- ==== Sys2Proof/Machine/Fibre.lean ====
section
/-! DEFINITION. Fibres (R219 to R247): combine operators, level walks through the level cache, the restartable set
operations, moves to and from vectors and memory, and messages: each instruction's member and its meaning alone. -/

namespace Sys2Proof.Machine

open Sys2Proof.Config

/-! ### Fibre state -/

/-- An empty fibre (R219, R242). -/
def emptyFibre : Fibre := { pairs := [], kind := 0, unsorted := false }

/-- A fibre register of the executing strand. -/
def getFibre (n : BitVec 3) : M Fibre := do
  let st ← getStrand
  return st.fibres.getD n.toNat emptyFibre

/-- Writes a fibre register. -/
def setFibre (n : BitVec 3) (f : Fibre) : M Unit :=
  modStrand fun st => { st with fibres := st.fibres.setIfInBounds n.toNat f }

/-- Bits 2, 1 and 0 of `Regs.fst`: MORE, EMPTY, DROP (R224). -/
def setFst (bit : Nat) (v : Bool) : M Unit :=
  modRegs fun r => { r with fst := BitVec.ofNat 3 (setField r.fst bit 1 (if v then 1 else 0)).toNat }

/-- FST.MORE. -/
def setMore (v : Bool) : M Unit := setFst 2 v

/-- FCAP.CAP (R223). -/
def capOf (r : Regs) : Nat := r.fcap.toNat % 512

/-- The bent index as a tag (R219). -/
def myTag (st : Strand) : BitVec 9 := BitVec.ofNat 9 st.index

/-- FPROG with pending progress (R225). -/
def progValue (word pa pb : Nat) : Word := BitVec.ofNat 64 (2 ^ 63 + word % 2 ^ 32 * 2 ^ 20 + pb % 1024 * 1024 + pa % 1024)

/-- FPROG.ACT. -/
def progAct (r : Regs) : Bool := r.fprog.toNat / 2 ^ 63 == 1

/-- FPROG.WORD, PA and PB. -/
def progWord (r : Regs) : Nat := r.fprog.toNat / 2 ^ 20 % 2 ^ 32
def progPa (r : Regs) : Nat := r.fprog.toNat % 1024
def progPb (r : Regs) : Nat := r.fprog.toNat / 1024 % 1024

/-- An execution-time ILLOP of a fibre or truss instruction: XVAL holds the instruction word (R228, R254). -/
def wordIllop {α : Type} (word : Nat) : M α := raise causeIllop (BitVec.ofNat 64 (word % 2 ^ 32))

/-- Some coordinate lies below the one before it (R230). -/
def unsortedPairs : List Pair → Bool
  | [] => false
  | [_] => false
  | p :: q :: t => q.coord.ult p.coord || unsortedPairs (q :: t)

/-! ### Combine operators (R221, R222) -/

/-- One step of a combine operator on value fields; FIRST, LAST and KEEP-BOTH never step. -/
def combStep (op kind : Nat) (x y : Nat) : FpRes :=
  match kind, op with
  | 0, 0 => fpAdd 1 x y 0 0
  | 0, 1 => fpMinMax 1 x y true
  | 0, 2 => fpMinMax 1 x y false
  | 0, 5 => fpMul 1 x y 0 0
  | 1, 0 => let z := fpAdd 2 (x / 65536) (y / 65536) 0 0; { z with bits := z.bits * 65536 }
  | 1, 1 => let z := fpMinMax 2 (x / 65536) (y / 65536) true; { z with bits := z.bits * 65536 }
  | 1, 2 => let z := fpMinMax 2 (x / 65536) (y / 65536) false; { z with bits := z.bits * 65536 }
  | 1, 5 => let z := fpMul 2 (x / 65536) (y / 65536) 0 0; { z with bits := z.bits * 65536 }
  | 1, 6 => fpQuiet ((x ||| y) / 65536 * 65536)
  | 2, 1 => fpQuiet (if signedOf 32 x < signedOf 32 y then y else x)
  | 2, 2 => fpQuiet (if signedOf 32 y < signedOf 32 x then y else x)
  | 3, 1 => fpQuiet (max x y)
  | 3, 2 => fpQuiet (min x y)
  | _, 0 => fpQuiet ((x + y) % 2 ^ 32)
  | _, 5 => fpQuiet (x * y % 2 ^ 32)
  | _, _ => fpQuiet (x ||| y)

/-- The flags of two results in order: the later NaN cause stands (R156). -/
def thenFlags (x y : FpRes) : FpRes :=
  { bits := y.bits, flags := x.flags ||| y.flags, nanc := if y.nanc = 0 then x.nanc else y.nanc }

/-- Folds a run of values by an operator other than KEEP-BOTH (R222). -/
def foldRun (op kind : Nat) : List Nat → FpRes
  | [] => fpQuiet 0
  | v :: vs =>
    if op = 3 then fpQuiet v
    else if op = 4 then fpQuiet ((v :: vs).getLast?.getD v)
    else vs.foldl (fun acc x => thenFlags acc (combStep op kind acc.bits x)) (fpQuiet v)

/-! ### The restartable set operations (R234 to R236) -/

/-- Where a pass stands: the output, the positions, the flags raised, and whether it stopped for capacity. -/
structure Pass where
  out : List Pair
  pa : Nat
  pb : Nat
  raised : FpRes
  stopped : Bool

/-- Appends a pair unless the output is full (R234). -/
def Pass.append (p : Pass) (cap : Nat) (x : Pair) (raised : FpRes) (pa pb : Nat) : Pass :=
  if p.out.length ≥ cap then { p with stopped := true }
  else { p with out := p.out ++ [x], pa := pa, pb := pb, raised := thenFlags p.raised raised }

/-- The three set functions (R235). -/
inductive SetFn where
  | isect
  | union
  | merge
  deriving DecidableEq, Repr

/-- Whether a coordinate produces a result (R235). -/
def SetFn.produces (f : SetFn) (inA inB : Bool) : Bool :=
  match f with
  | .isect => inA && inB
  | .union => inA || inB
  | .merge => inA

/-- Whether a coordinate is present in an input at a position: decided by the whole run (R235). -/
def present (f : List Pair) (p : Nat) (c : BitVec 32) : Bool :=
  (f[p]?.any fun x => x.coord == c) || (p != 0 && f[p - 1]?.any fun x => x.coord == c)

/-- Length of the run at coordinate `c` from a position on. -/
def runLen (f : List Pair) (p : Nat) (c : BitVec 32) : Nat := ((f.drop p).takeWhile fun x => x.coord == c).length

/-- The lower of the next coordinates of both inputs. -/
def nextCoord (fa fb : List Pair) (pa pb : Nat) : Option (BitVec 32) :=
  match fa[pa]?, fb[pb]? with
  | some x, some y => some (if x.coord.ule y.coord then x.coord else y.coord)
  | some x, none => some x.coord
  | none, some y => some y.coord
  | none, none => none

/-- One coordinate of a pass (R235). -/
def setStep (f : SetFn) (comb kind cap : Nat) (tag : BitVec 9) (fa fb : List Pair) (c : BitVec 32) (p : Pass) : Pass :=
  let la := runLen fa p.pa c
  let lb := runLen fb p.pb c
  if !f.produces (present fa p.pa c) (present fb p.pb c) then { p with pa := p.pa + la, pb := p.pb + lb }
  else if comb = 7 then
    if la != 0 then p.append cap (fa.getD p.pa ⟨0, 0, 0⟩) (fpQuiet 0) (p.pa + 1) p.pb
    else p.append cap (fb.getD p.pb ⟨0, 0, 0⟩) (fpQuiet 0) p.pa (p.pb + 1)
  else
    let vs := ((fa.drop p.pa).take la ++ (fb.drop p.pb).take lb).map fun x => x.value.toNat
    let v := foldRun comb kind vs
    p.append cap { coord := c, value := BitVec.ofNat 32 v.bits, tag := tag } v (p.pa + la) (p.pb + lb)

/-- A pass to its end or its capacity stop. -/
def setLoop (f : SetFn) (comb kind cap : Nat) (tag : BitVec 9) (fa fb : List Pair) : Nat → Pass → Pass
  | 0, p => p
  | n + 1, p =>
    if p.stopped then p
    else
      match nextCoord fa fb p.pa p.pb with
      | none => p
      | some c => setLoop f comb kind cap tag fa fb n (setStep f comb kind cap tag fa fb c p)

/-- Stable order by coordinate (R236). -/
def byCoord (ps : List Pair) : List Pair := sortBy (fun x y => x.coord.ule y.coord) ps

/-- The output of FSORT and FCOMBINE over ordered pairs: each run folded, or kept (R236, R242). -/
def foldRuns (comb kind : Nat) (tag : BitVec 9) : Nat → List Pair → List (Pair × FpRes)
  | 0, _ => []
  | _ + 1, [] => []
  | n + 1, p :: t =>
    if comb = 7 then (p, fpQuiet 0) :: foldRuns comb kind tag n t
    else
      let l := (t.takeWhile fun x => x.coord == p.coord).length
      let v := foldRun comb kind ((p :: t.take l).map fun x => x.value.toNat)
      ({ coord := p.coord, value := BitVec.ofNat 32 v.bits, tag := tag }, v) :: foldRuns comb kind tag n (t.drop l)

/-- FSORT's pass: the output pairs not yet emitted, until the capacity (R236). -/
def emitLoop (cap : Nat) : List (Pair × FpRes) → Pass → Pass
  | [], p => p
  | x :: t, p =>
    let q := p.append cap x.1 x.2 p.pa (p.pb + 1)
    if q.stopped then q else emitLoop cap t q

/-- Whether FCOMPACT keeps a value (R236): `t` is s[x] bits 31:0. DEDUCED (log entry 30). -/
def compactKeeps (kind t v : Nat) : Bool :=
  if kind = 0 then decide (0x7F800000 < v % 2 ^ 31) || fpAbs v
  else if kind = 1 then decide (0x7F80 < v / 65536 % 2 ^ 15) || fpAbs (v / 65536 * 65536)
  else if kind = 2 then decide (t < (signedOf 32 v).natAbs)
  else decide (t < v)
where
  /-- |v| > |t| as FP32 values; a NaN threshold exceeds nothing. -/
  fpAbs (v : Nat) : Bool := decide (t % 2 ^ 31 ≤ 0x7F800000) && decide (t % 2 ^ 31 < v % 2 ^ 31)

/-- FCOMPACT's pass (R236). -/
def compactLoop (cap kind t : Nat) : List Pair → Pass → Pass
  | [], p => p
  | x :: rest, p =>
    if compactKeeps kind t x.value.toNat then
      let q := p.append cap x (fpQuiet 0) (p.pa + 1) p.pb
      if q.stopped then q else compactLoop cap kind t rest q
    else compactLoop cap kind t rest { p with pa := p.pa + 1 }

/-- R228 for a restartable instruction: pending progress of another word. -/
def checkProg (word : Nat) : M Unit := do
  let r ← getRegs
  if progAct r && progWord r != word % 2 ^ 32 then wordIllop word

/-- The frame of a restartable instruction (R234): the pass it starts from, its pass, and what it leaves. -/
def restartable (word : Nat) (d : BitVec 3) (kind : BitVec 2) (unsorted : Bool) (pass : Pass → Pass) : M Unit := do
  let r ← getRegs
  let fd ← getFibre d
  let p0 : Pass :=
    if progAct r then { out := fd.pairs, pa := progPa r, pb := progPb r, raised := fpQuiet 0, stopped := false }
    else { out := [], pa := 0, pb := 0, raised := fpQuiet 0, stopped := false }
  let p := pass p0
  setFibre d { pairs := p.out, kind := kind, unsorted := unsorted }
  raiseFlags p.raised.flags p.raised.nanc
  modRegs fun r => { r with fprog := if p.stopped then progValue word p.pa p.pb else 0 }
  setMore p.stopped

/-- The kind of a result of two inputs: that of a non-empty one (R219, R234). DEDUCED (log entry 30). -/
def kindOf (fa fb : Fibre) : BitVec 2 := if fa.pairs.isEmpty && !fb.pairs.isEmpty then fb.kind else fa.kind

/-- R228: an unsorted input, or inputs of two kinds. DEDUCED (log entry 30). -/
def badInputs (fa fb : Fibre) : Bool :=
  (fa.unsorted && !fa.pairs.isEmpty) || (fb.unsorted && !fb.pairs.isEmpty) ||
    (!fa.pairs.isEmpty && !fb.pairs.isEmpty && fa.kind != fb.kind)

/-- R228: a non-empty input whose kind is not the instruction's. -/
def badKind (f : Fibre) (k : BitVec 2) : Bool := !f.pairs.isEmpty && f.kind != k

/-- FISECT, FUNION and FMERGE (R235). -/
def setRun (f : SetFn) (word : Nat) (c b a d : BitVec 3) : M Unit := do
  let st ← getStrand
  let fa ← getFibre a
  let fb ← getFibre b
  if badInputs fa fb then wordIllop word
  else
    checkProg word
    let k := kindOf fa fb
    restartable word d k false
      (setLoop f c.toNat k.toNat (capOf st.r) (myTag st) fa.pairs fb.pairs (fa.pairs.length + fb.pairs.length + 1))

/-- A whole member of the fibre unit or the truss (R116, R227). -/
def ftMember (bad : Strand → Bool) (run : Span → M Unit) : Member :=
  plainMember .ft true bad (fun r => vtWidth r.vt) run

/-- The word of FISECT. -/
abbrev wordFisect (c b a d : BitVec 3) : Nat := wordFB 0x60 0 c.toNat 3 0 b.toNat a.toNat d.toNat

/-- The member FISECT (R235). -/
def memberFisect (c b a d : BitVec 3) : Member :=
  ftMember (fun _ => d == a || d == b) fun _ => setRun .isect (wordFisect c b a d) c b a d

/-- FISECT (R235). -/
def execFisect (c b a d : BitVec 3) (s : State) : Result := runSolo (wordFisect c b a d) (memberFisect c b a d) s

/-- The word of FUNION. -/
abbrev wordFunion (c b a d : BitVec 3) : Nat := wordFB 0x60 0 c.toNat 4 0 b.toNat a.toNat d.toNat

/-- The member FUNION (R235). -/
def memberFunion (c b a d : BitVec 3) : Member :=
  ftMember (fun _ => d == a || d == b) fun _ => setRun .union (wordFunion c b a d) c b a d

/-- FUNION (R235). -/
def execFunion (c b a d : BitVec 3) (s : State) : Result := runSolo (wordFunion c b a d) (memberFunion c b a d) s

/-- The word of FMERGE. -/
abbrev wordFmerge (c b a d : BitVec 3) : Nat := wordFB 0x60 0 c.toNat 5 0 b.toNat a.toNat d.toNat

/-- The member FMERGE (R235). -/
def memberFmerge (c b a d : BitVec 3) : Member :=
  ftMember (fun _ => d == a || d == b) fun _ => setRun .merge (wordFmerge c b a d) c b a d

/-- FMERGE (R235). -/
def execFmerge (c b a d : BitVec 3) (s : State) : Result := runSolo (wordFmerge c b a d) (memberFmerge c b a d) s

/-- The word of FSORT. -/
abbrev wordFsort (c a d : BitVec 3) : Nat := wordFB 0x60 0 c.toNat 6 0 0 a.toNat d.toNat

/-- The member FSORT (R236): PB counts the output pairs emitted. -/
def memberFsort (c a d : BitVec 3) : Member :=
  ftMember (fun _ => d == a) fun _ => do
    let st ← getStrand
    let fa ← getFibre a
    checkProg (wordFsort c a d)
    let out := foldRuns c.toNat fa.kind.toNat (myTag st) fa.pairs.length (byCoord fa.pairs)
    restartable (wordFsort c a d) d fa.kind false fun p => emitLoop (capOf st.r) (out.drop p.pb) p

/-- FSORT (R236). -/
def execFsort (c a d : BitVec 3) (s : State) : Result := runSolo (wordFsort c a d) (memberFsort c a d) s

/-- The word of FCOMPACT. -/
abbrev wordFcompact (x : BitVec 6) (a d : BitVec 3) : Nat := wordFB 0x60 0 0 7 x.toNat 0 a.toNat d.toNat

/-- The member FCOMPACT (R236). -/
def memberFcompact (x : BitVec 6) (a d : BitVec 3) : Member :=
  ftMember (fun _ => d == a) fun _ => do
    let st ← getStrand
    let fa ← getFibre a
    checkProg (wordFcompact x a d)
    let t := (regRead st.r x.toNat).toNat % 2 ^ 32
    restartable (wordFcompact x a d) d fa.kind fa.unsorted fun p =>
      compactLoop (capOf st.r) fa.kind.toNat t (fa.pairs.drop p.pa) p

/-- FCOMPACT (R236). -/
def execFcompact (x : BitVec 6) (a d : BitVec 3) (s : State) : Result :=
  runSolo (wordFcompact x a d) (memberFcompact x a d) s

/-! ### Walking levels (R229 to R233) -/

/-- Lines of a level cache that one class of reads may fill: 12 of its 16 ways, or, of values, 4 (R232). -/
def levelRoom (values : Bool) : Nat := if values then 512 else 1536

/-- The tag of a line in a level cache: its physical address, by one name (R184). -/
def levelTag (s : State) (pa : Nat) : Nat := (if isLocal s pa then localAddr pa else pa) / 128 * 128

/-- The level cache of a bay keeps the line of a read: memory's bytes with the read ones (R232). It has no sets: a class of reads that
fills its share of the whole cache loses a line of a free choice, and a line read by the other class is counted with that
class from then on. DEDUCED (log entry 30). -/
def keepLevel (bay : Nat) (values : Bool) (pa : Nat) (xs : List Byte) : M Unit := do
  let s ← get
  let tag := levelTag s pa
  let line := (keysOf s (pa / 128 * 128) 128).map (memRead s.mem)
  let bytes := line.take (pa % 128) ++ xs ++ line.drop (pa % 128 + xs.length)
  let others := (bayOf s bay).level.filter fun l => l.addr != tag
  let l ← keepBounded (levelRoom values) (fun l => l.values == values) others { addr := tag, bytes := bytes, values := values }
  modify fun s => setBay s bay { bayOf s bay with level := l }

/-- The `n` bytes a level cache holds from an address, if it holds their line and a fresh read could differ from them. -/
def levelHeld (s : State) (st : Strand) (bay pa n : Nat) : Option (List Byte) :=
  match (bayOf s bay).level.find? fun l => l.addr == levelTag s pa with
  | none => none
  | some l =>
    let keys := keysOf s pa n
    let old := (l.bytes.drop (pa % 128)).take n
    if old != keys.map (memRead s.mem) || st.pending.any fun w => w.covers keys then some old else none

/-- A checked read through the level cache (R212, R231, R232): a line it still holds gives the bytes it was read with. An
aligned read lies in one line; a slack page is read at its home (R299), and a strongly ordered one is read anew each time
(R307). DEDUCED (log entry 30). -/
def levelRead (va n : Nat) (values : Bool) (x : Xl) : M (List Byte) := do
  let st ← getStrand
  let s ← get
  if x.slk || x.ord == 1 || isDevice s x.pa then loadChecked 0 va n 2 true [x]
  else
    let held := levelHeld s st (homeBay st) x.pa n
    let stale ← if held.isSome then freeBit else pure false
    if stale then return held.getD []
    else
      let xs ← loadChecked 0 va n 2 true [x]
      keepLevel (homeBay st) values x.pa xs
      return xs

/-- A read of the fibre unit (R231): WATCH, alignment, then the load rows of R199; `values` marks a read of values. -/
def levelLoad (va n : Nat) (values : Bool) : M Nat := do
  let va := va % 2 ^ 64
  checkWatch va n .read
  if va % n != 0 then raise causeMisal (BitVec.ofNat 64 va)
  else
    let st ← getStrand
    if overlapsLog st va n then return leValue (← loadBytes 0 va n 2 true)
    else
      match ← checkAccess 0 va n .read with
      | .log t => raiseT t
      | .fail t => raiseT t
      | .ok [x] => return leValue (← levelRead va n values x)
      | .ok ps => return leValue (← loadChecked 0 va n 2 true ps)

/-- A level descriptor (R229). -/
structure LevelDesc where
  kind : Nat
  posBytes : Nat
  crdBytes : Nat
  size : Nat
  pos : Nat
  crd : Nat
  val : Nat
  deriving DecidableEq, Repr

/-- The level descriptor at an address (R229, R231): a malformed one raises FIBLVL. -/
def readDesc (a : Nat) : M LevelDesc := do
  let x ← levelLoad a 32 false
  if 2 < x % 256 || x / 2 ^ 10 % 64 != 0 || x / 2 ^ 16 % 65536 != 0 then raise causeFiblvl (BitVec.ofNat 64 a)
  else
    return { kind := x % 256, posBytes := if x / 256 % 2 = 1 then 8 else 4, crdBytes := if x / 512 % 2 = 1 then 2 else 4,
             size := x / 2 ^ 32 % 2 ^ 32, pos := x / 2 ^ 64 % 2 ^ 64, crd := x / 2 ^ 128 % 2 ^ 64, val := x / 2 ^ 192 }

/-- Bounds of the entries under a parent (R230): lo and hi. -/
def levelBounds (d : LevelDesc) (p : Nat) : M (Nat × Nat) := do
  if d.kind = 0 then return (0, d.size)
  else if d.kind = 2 then return (p, p + 1)
  else
    let lo ← levelLoad (d.pos + p * d.posBytes) d.posBytes false
    let hi ← levelLoad (d.pos + (p + 1) * d.posBytes) d.posBytes false
    if hi < lo then raise causeFiblvl (BitVec.ofNat 64 ((d.pos + (p + 1) * d.posBytes) % 2 ^ 64))
    else return (lo, hi)

/-- A value of a level at a child position, as a value field (R229, R230). -/
def levelValue (d : LevelDesc) (k : BitVec 2) (e : Nat) : M Nat := do
  if k = 3 then return e % 2 ^ 32
  else if k = 1 then return (← levelLoad (d.val + 2 * e) 2 true) * 65536
  else levelLoad (d.val + 4 * e) 4 true

/-- The pairs of FLDL from entry `q` on, at most `n` (R230). -/
def levelPairs (d : LevelDesc) (k : BitVec 2) (p hi : Nat) (tag : BitVec 9) : Nat → Nat → M (List Pair)
  | 0, _ => return []
  | n + 1, q => do
    if hi ≤ q then return []
    else
      let ca := d.crd + q * d.crdBytes
      let c ← if d.kind = 0 then pure q else levelLoad ca d.crdBytes false
      if d.size ≤ c then raise causeFiblvl (BitVec.ofNat 64 (ca % 2 ^ 64))
      else
        let v ← levelValue d k (if d.kind = 0 then p * d.size + c else q)
        let rest ← levelPairs d k p hi tag n (q + 1)
        return { coord := BitVec.ofNat 32 c, value := BitVec.ofNat 32 v, tag := tag } :: rest

/-- The member FLDL (R230, R231). -/
def memberFldl (k : BitVec 2) (x : BitVec 6) (d : BitVec 3) : Member :=
  ftMember (fun _ => 61 < x.toNat) fun _ => do
    let st ← getStrand
    let reg := fun (i : Nat) => (regRead st.r (x.toNat + i)).toNat
    let ld ← readDesc (reg 0)
    let (lo, hi) ← levelBounds ld (reg 1)
    let q := lo + reg 2
    let ps ← levelPairs ld k (reg 1) hi (myTag st) (capOf st.r) q
    setFibre d { pairs := ps, kind := k, unsorted := unsortedPairs ps }
    setMore (q + ps.length < hi)

/-- FLDL (R230, R231). -/
def execFldl (k : BitVec 2) (x : BitVec 6) (d : BitVec 3) (s : State) : Result :=
  runSolo (wordFB 0x60 k.toNat 0 0 x.toNat 0 0 d.toNat) (memberFldl k x d) s

/-- The member FPREF (R233): the request joins the stream engine's four; a fifth discards the oldest. -/
def memberFpref (x : BitVec 6) : Member :=
  ftMember (fun _ => 61 < x.toNat) fun _ => modStrand fun st =>
    let q : Prefetch :=
      { descr := regRead st.r x.toNat, parent := regRead st.r (x.toNat + 1),
        count := min (regRead st.r (x.toNat + 2)).toNat 64 }
    let l := st.prefetch ++ [q]
    { st with prefetch := l.drop (l.length - 4) }

/-- FPREF (R233). DEDUCED (log entry 30). -/
def execFpref (x : BitVec 6) (s : State) : Result := runSolo (wordFB 0x61 0 0 0 x.toNat 0 0 0) (memberFpref x) s

/-- What the stream engine fetches for one parent (R233): its crd entries and its values. -/
def prefetchParent (d : LevelDesc) (p : Nat) : M Unit := do
  let (lo, hi) ← levelBounds d p
  loopM (fun q => do
    if d.kind != 0 then discard (levelLoad (d.crd + q * d.crdBytes) d.crdBytes false)
    if d.val != 0 then discard (levelLoad (d.val + 4 * (if d.kind = 0 then p * d.size + q else q)) 4 true)) lo (hi - lo)

/-- One request of the stream engine, as its strand: the descriptor, pos[p0] to pos[p0 + count], and the parents in
ascending order; a fault drops the rest silently (R233). -/
def streamFetch (q : Prefetch) : M Unit := do
  let d ← readDesc q.descr.toNat
  let p0 := q.parent.toNat
  if d.kind = 1 then loopM (fun p => discard (levelLoad (d.pos + p * d.posBytes) d.posBytes false)) p0 (q.count + 1)
  loopM (prefetchParent d) p0 q.count

/-- FPREF_STREAM_FETCH (R233): the oldest request of a strand is fetched into the level cache; lines fetched before a
fault stay. -/
def execFprefStreamFetch (strand : Nat) (s : State) : Result :=
  runEvent (do
    let s ← get
    match s.strands[strand]? with
    | none => noPart
    | some st =>
      match st.prefetch with
      | [] => noPart
      | q :: rest =>
        asStrand strand do
          modStrand fun st => { st with prefetch := rest }
          let before ← get
          let _ ← attempt (streamFetch q)
          modify fun after => { before with bays := after.bays, dirty := after.dirty, walkers := after.walkers, fresh := after.fresh }) s

/-! ### Fibres and vectors (R238 to R242) -/

/-- VT.FMT suits a kind (R238). -/
def suits (vt : BitVec 13) (k : BitVec 2) : Bool :=
  match k.toNat with
  | 0 => vtFmt vt == 1
  | 1 => vtFmt vt == 1 || vtFmt vt == 2
  | _ => vtFmt vt == 9

/-- A value field from a vector element (R238). -/
def fieldOfElem (vt : BitVec 13) (v : Nat) : Nat := if vtFmt vt = 2 then v * 65536 else v

/-- A vector element from a value field (R238). -/
def elemOfField (vt : BitVec 13) (v : Nat) : Nat := if vtFmt vt = 2 then v / 65536 else v

/-- A fibre member with a vector operand, which is a multiple of G (R227). -/
def fibreVector (bad : Strand → Bool) (reads : Bool) (x : BitVec 5) (run : Span → M Unit) : Member :=
  { ftMember (fun st => bad st || !alignedAll st [x.toNat]) run with
    readsV := fun r => if reads then (List.range (vtG r.vt)).map (x.toNat + ·) else [] }

/-- The member FPACK (R239). -/
def memberFpack (x : BitVec 5) (d : BitVec 3) : Member :=
  fibreVector (fun st => !([1, 2, 9].contains (vtFmt st.r.vt))) true x fun _ => do
    let st ← getStrand
    let bl ← getBlock 0
    let vt := st.r.vt
    let w := vtWidth vt
    let js := (List.range (belowVl st.r.vl (vlbOf vt) 0)).filter fun j =>
      let v := elemRead bl w x.toNat j
      maskBit bl 0 j && (if vtFmt vt = 9 then v else v % 2 ^ (w - 1)) != 0
    let ps := (js.take (capOf st.r)).map fun j =>
      ({ coord := BitVec.ofNat 32 j, value := BitVec.ofNat 32 (fieldOfElem vt (elemRead bl w x.toNat j)),
         tag := myTag st } : Pair)
    setFibre d { pairs := ps, kind := if vtFmt vt = 1 then 0 else if vtFmt vt = 2 then 1 else 2, unsorted := false }
    setMore (capOf st.r < js.length)

/-- FPACK (R239). -/
def execFpack (x : BitVec 5) (d : BitVec 3) (s : State) : Result :=
  runSolo (wordFB 0x60 0 0 1 x.toNat 0 0 d.toNat) (memberFpack x d) s

/-- Whether a coordinate is in reach (R240). -/
def inReach (st : Strand) (bl : Block) (c : Nat) : Bool :=
  c < belowVl st.r.vl (vlbOf st.r.vt) 0 && maskBit bl 0 c

/-- The word of FEXPAND. -/
abbrev wordFexpand (k : BitVec 2) (x : BitVec 5) (a : BitVec 3) : Nat := wordFB 0x60 k.toNat 0 8 x.toNat 0 a.toNat 0

/-- Block 0 after FEXPAND (R240). -/
def expandBlock (st : Strand) (x : Nat) (ps : List Pair) (c : Cell) : Cell :=
  let w := vtWidth st.r.vt
  let zeroed := loopFrom (elemStep st.r 0 0 (fun j c => cellWrite w x j 0 c) (fun j c => cellWrite w x j 0 c)) 0
    (elemEnd st.r 0) c
  ps.foldl (fun c p =>
    if inReach st c.bl p.coord.toNat then cellWrite w x p.coord.toNat (elemOfField st.r.vt p.value.toNat) c else c) zeroed

/-- The member FEXPAND (R240): a kind or a FMT that does not suit it raises ILLOP (R228) at VL = 0 too. DEDUCED (log entry 30). -/
def memberFexpand (k : BitVec 2) (x : BitVec 5) (a : BitVec 3) : Member :=
  fibreVector (fun _ => false) false x fun _ => do
    let st ← getStrand
    let fa ← getFibre a
    if badKind fa k || !suits st.r.vt k then wordIllop (wordFexpand k x a)
    else if st.r.vl = 0 then return ()
    else modBlock 0 fun bl => (expandBlock st x.toNat fa.pairs { bl := bl, mst := 0 }).bl

/-- FEXPAND (R240). -/
def execFexpand (k : BitVec 2) (x : BitVec 5) (a : BitVec 3) (s : State) : Result :=
  runSolo (wordFexpand k x a) (memberFexpand k x a) s

/-- The word of FGATHER. -/
abbrev wordFgather (k : BitVec 2) (x : BitVec 5) (a d : BitVec 3) : Nat :=
  wordFB 0x60 k.toNat 0 9 x.toNat 0 a.toNat d.toNat

/-- The member FGATHER (R240): fa may be of any kind. -/
def memberFgather (k : BitVec 2) (x : BitVec 5) (a d : BitVec 3) : Member :=
  fibreVector (fun _ => false) true x fun _ => do
    let st ← getStrand
    let bl ← getBlock 0
    let fa ← getFibre a
    if !suits st.r.vt k then wordIllop (wordFgather k x a d)
    else
      let w := vtWidth st.r.vt
      let ps := (fa.pairs.filter fun p => inReach st bl p.coord.toNat).map fun p =>
        { p with value := BitVec.ofNat 32 (fieldOfElem st.r.vt (elemRead bl w x.toNat p.coord.toNat)) }
      setFibre d { pairs := ps, kind := k, unsorted := fa.unsorted }

/-- FGATHER (R240). -/
def execFgather (k : BitVec 2) (x : BitVec 5) (a d : BitVec 3) (s : State) : Result :=
  runSolo (wordFgather k x a d) (memberFgather k x a d) s

/-- The word of FMAPV. -/
abbrev wordFmapv (k : BitVec 2) (x : BitVec 5) (a d : BitVec 3) : Nat :=
  wordFB 0x60 k.toNat 0 11 x.toNat 0 a.toNat d.toNat

/-- The member FMAPV (R240). -/
def memberFmapv (k : BitVec 2) (x : BitVec 5) (a d : BitVec 3) : Member :=
  fibreVector (fun _ => false) true x fun _ => do
    let st ← getStrand
    let bl ← getBlock 0
    let fa ← getFibre a
    if badKind fa k || !suits st.r.vt k then wordIllop (wordFmapv k x a d)
    else
      let w := vtWidth st.r.vt
      let xs := (fa.pairs.filter fun p => inReach st bl p.coord.toNat).map fun p =>
        (p, combStep 5 k.toNat p.value.toNat (fieldOfElem st.r.vt (elemRead bl w x.toNat p.coord.toNat)))
      setFibre d { pairs := xs.map fun y => { y.1 with value := BitVec.ofNat 32 y.2.bits }, kind := k, unsorted := fa.unsorted }
      let z := xs.foldl (fun acc y => thenFlags acc y.2) (fpQuiet 0)
      raiseFlags z.flags z.nanc

/-- FMAPV (R240). -/
def execFmapv (k : BitVec 2) (x : BitVec 5) (a d : BitVec 3) (s : State) : Result :=
  runSolo (wordFmapv k x a d) (memberFmapv k x a d) s

/-- Block 0 after values are written from element 0 on, the rest of the block being tail (R241). -/
def listBlock (r : Regs) (x : Nat) (vs : List Nat) (bl : Block) : Block :=
  let w := vtWidth r.vt
  let vlb := vlbOf r.vt
  let vs := vs.take vlb
  let bl := vs.zipIdx.foldl (fun bl (v, j) => elemWrite bl w x j v) bl
  if vtTz r.vt then loopFrom (fun j bl => elemWrite bl w x j 0) vs.length (vlb - vs.length) bl else bl

/-- The member FCOORD (R241). -/
def memberFcoord (x : BitVec 5) (a : BitVec 3) : Member :=
  fibreVector (fun st => vtWidth st.r.vt != 32) false x fun _ => do
    let r ← getRegs
    let fa ← getFibre a
    modBlock 0 (listBlock r x.toNat (fa.pairs.map fun p => p.coord.toNat))

/-- FCOORD (R241). -/
def execFcoord (x : BitVec 5) (a : BitVec 3) (s : State) : Result :=
  runSolo (wordFB 0x60 0 0 13 x.toNat 0 a.toNat 0) (memberFcoord x a) s

/-- The word of FVALS. -/
abbrev wordFvals (k : BitVec 2) (x : BitVec 5) (a : BitVec 3) : Nat := wordFB 0x60 k.toNat 0 14 x.toNat 0 a.toNat 0

/-- The member FVALS (R241). -/
def memberFvals (k : BitVec 2) (x : BitVec 5) (a : BitVec 3) : Member :=
  fibreVector (fun _ => false) false x fun _ => do
    let r ← getRegs
    let fa ← getFibre a
    if badKind fa k || !suits r.vt k then wordIllop (wordFvals k x a)
    else modBlock 0 (listBlock r x.toNat (fa.pairs.map fun p => elemOfField r.vt p.value.toNat))

/-- FVALS (R241). -/
def execFvals (k : BitVec 2) (x : BitVec 5) (a : BitVec 3) (s : State) : Result :=
  runSolo (wordFvals k x a) (memberFvals k x a) s

/-- The member FLEN (R241). -/
def memberFlen (x : BitVec 6) (a : BitVec 3) : Member :=
  ftMember (fun _ => false) fun _ => do
    let fa ← getFibre a
    ws x (BitVec.ofNat 64 fa.pairs.length)

/-- FLEN (R241). -/
def execFlen (x : BitVec 6) (a : BitVec 3) (s : State) : Result :=
  runSolo (wordFB 0x60 0 0 12 x.toNat 0 a.toNat 0) (memberFlen x a) s

/-- The member FSPLIT (R242). -/
def memberFsplit (x : BitVec 6) (a d : BitVec 3) : Member :=
  ftMember (fun _ => d == a) fun _ => do
    let t ← rs x
    let fa ← getFibre a
    let up := fun (p : Pair) => decide (t.toNat % 2 ^ 32 ≤ p.coord.toNat)
    setFibre d { fa with pairs := fa.pairs.filter up }
    setFibre a { fa with pairs := fa.pairs.filter fun p => !up p }

/-- FSPLIT (R242). -/
def execFsplit (x : BitVec 6) (a d : BitVec 3) (s : State) : Result :=
  runSolo (wordFB 0x60 0 0 15 x.toNat 0 a.toNat d.toNat) (memberFsplit x a d) s

/-- The member FCLR (R242). -/
def memberFclr (d : BitVec 3) : Member := ftMember (fun _ => false) fun _ => setFibre d emptyFibre

/-- FCLR (R242). -/
def execFclr (d : BitVec 3) (s : State) : Result := runSolo (wordFB 0x60 0 0 16 0 0 0 d.toNat) (memberFclr d) s

/-- The word of FCOMBINE. -/
abbrev wordFcombine (c a d : BitVec 3) : Nat := wordFB 0x60 0 c.toNat 18 0 0 a.toNat d.toNat

/-- Pairs ordered by coordinate and, within a run, by source tag (R242). -/
def byTag (ps : List Pair) : List Pair :=
  sortBy (fun x y => x.coord.ult y.coord || (x.coord == y.coord && x.tag.ule y.tag)) ps

/-- The member FCOMBINE (R242). -/
def memberFcombine (c a d : BitVec 3) : Member :=
  ftMember (fun _ => false) fun _ => do
    let st ← getStrand
    let fa ← getFibre a
    if fa.unsorted && !fa.pairs.isEmpty then wordIllop (wordFcombine c a d)
    else
      let out := foldRuns c.toNat fa.kind.toNat (myTag st) fa.pairs.length (byTag fa.pairs)
      setFibre d { pairs := out.map (·.1), kind := fa.kind, unsorted := false }
      let z := out.foldl (fun acc y => thenFlags acc y.2) (fpQuiet 0)
      raiseFlags z.flags z.nanc

/-- FCOMBINE (R242). -/
def execFcombine (c a d : BitVec 3) (s : State) : Result := runSolo (wordFcombine c a d) (memberFcombine c a d) s

/-! ### Fibres in memory (R243, R244) -/

/-- Bytes of a value in memory by kind (R229, R243). -/
def valueBytes (k : BitVec 2) : Nat := if k = 1 then 2 else 4

/-- The stored form of a value field. -/
def storedValue (k : BitVec 2) (v : Nat) : List Byte := if k = 1 then leBytes 2 (v / 65536) else leBytes 4 v

/-- WATCH, then alignment, then an owned vector store, of FST (R243) and of FSCAT, for whose stores R244 names no request type.
DEDUCED (log entry 30). -/
def alignedStore (va n : Nat) (bs : List Byte) : M Unit := do
  let va := va % 2 ^ 64
  checkWatch va bs.length .write
  if va % n != 0 then raise causeMisal (BitVec.ofNat 64 va)
  else storeChecked 0 va (bs.map fun x => (x, 255)) 0 false false true true

/-- WATCH, then alignment, then an owned vector load. -/
def alignedLoad (va n len : Nat) : M (List Byte) := do
  let va := va % 2 ^ 64
  checkWatch va len .read
  if va % n != 0 then raise causeMisal (BitVec.ofNat 64 va)
  else loadBytes 0 va len 0 true

/-- Stores of a list, each `n` bytes, from an address on. -/
def storeRun (va n : Nat) : List (List Byte) → M Unit
  | [] => return ()
  | x :: t => do
    alignedStore va 1 x
    storeRun (va + n) n t

/-- The word of FST. -/
abbrev wordFst (k : BitVec 2) (x : BitVec 6) (a : BitVec 3) : Nat := wordFB 0x60 k.toNat 0 2 x.toNat 0 a.toNat 0

/-- The member FST (R243). -/
def memberFst (k : BitVec 2) (x : BitVec 6) (a : BitVec 3) : Member :=
  ftMember (fun _ => false) fun _ => do
    let sa ← rs x
    let fa ← getFibre a
    if badKind fa k then wordIllop (wordFst k x a)
    else
      let n := fa.pairs.length
      alignedStore sa.toNat 16 (leBytes 4 n ++ [if fa.unsorted then 1 else 0, BitVec.ofNat 8 k.toNat] ++ leBytes 10 0)
      storeRun (sa.toNat + 16) 4 (fa.pairs.map fun p => leBytes 4 p.coord.toNat)
      storeRun (sa.toNat + 16 + 4 * n) (valueBytes k) (fa.pairs.map fun p => storedValue k p.value.toNat)

/-- FST (R243). -/
def execFst (k : BitVec 2) (x : BitVec 6) (a : BitVec 3) (s : State) : Result :=
  runSolo (wordFst k x a) (memberFst k x a) s

/-- The pairs of a record: coordinate `i` and value `i` in turn, which settles which of several faulting reads is reported; an FST
stores its header, the coordinates and then the values (R243). DEDUCED (log entry 30). -/
def recordPairs (base n : Nat) (k : BitVec 2) (tag : BitVec 9) : Nat → M (List Pair)
  | 0 => return []
  | m + 1 => do
    let i := n - (m + 1)
    let c ← alignedLoad (base + 16 + 4 * i) 1 4
    let v ← alignedLoad (base + 16 + 4 * n + valueBytes k * i) 1 (valueBytes k)
    let rest ← recordPairs base n k tag m
    let field := if k = 1 then leValue v * 65536 else leValue v
    return { coord := BitVec.ofNat 32 (leValue c), value := BitVec.ofNat 32 field, tag := tag } :: rest

/-- The member FLDF (R243). -/
def memberFldf (k : BitVec 2) (x : BitVec 6) (d : BitVec 3) : Member :=
  ftMember (fun _ => false) fun _ => do
    let st ← getStrand
    let sa ← rs x
    let h ← alignedLoad sa.toNat 16 16
    let n := bytesAt h 0 4
    if capOf st.r < n || bytesAt h 5 1 != k.toNat || 1 < bytesAt h 4 1 || !zeroBytes h 6 16 then raise causeFiblvl sa
    else
      let ps ← recordPairs sa.toNat n k (myTag st) n
      setFibre d { pairs := ps, kind := k, unsorted := bytesAt h 4 1 == 1 }

/-- FLDF (R243). -/
def execFldf (k : BitVec 2) (x : BitVec 6) (d : BitVec 3) (s : State) : Result :=
  runSolo (wordFB 0x60 k.toNat 0 17 x.toNat 0 0 d.toNat) (memberFldf k x d) s

/-- The word of FSCAT. -/
abbrev wordFscat (k : BitVec 2) (x : BitVec 6) (a : BitVec 3) : Nat := wordFB 0x60 k.toNat 0 10 x.toNat 0 a.toNat 0

/-- The stores of FSCAT in pair order (R244). -/
def scatterPairs (base : Nat) (k : BitVec 2) : List Pair → M Unit
  | [] => return ()
  | p :: t => do
    alignedStore (base + p.coord.toNat * valueBytes k) (valueBytes k) (storedValue k p.value.toNat)
    scatterPairs base k t

/-- The member FSCAT (R244). -/
def memberFscat (k : BitVec 2) (x : BitVec 6) (a : BitVec 3) : Member :=
  ftMember (fun _ => false) fun _ => do
    let sa ← rs x
    let fa ← getFibre a
    if badKind fa k then wordIllop (wordFscat k x a) else scatterPairs sa.toNat k fa.pairs

/-- FSCAT (R244). -/
def execFscat (k : BitVec 2) (x : BitVec 6) (a : BitVec 3) (s : State) : Result :=
  runSolo (wordFscat k x a) (memberFscat k x a) s

/-! ### Messages (R245, R246) -/

/-- The strand of a bent whose SID is `sid`, by its number (R245). -/
def strandOfSid (s : State) (bent sid : Nat) : Option Nat :=
  match s.bents[bent]? with
  | none => none
  | some b => b.strands.find? fun k => (s.strands[k]?).any fun st => st.r.sid.toNat % 2 ^ 32 == sid

/-- Whether a receiver has a free slot and room for `n` pairs (R245, R246). -/
def hasRoom (st : Strand) (n : Nat) : Bool :=
  let ms := st.inbox ++ st.granted
  ms.length < 16 && (ms.foldl (fun a m => a + m.body.pairs.length) 0) + n ≤ 4096

/-- A message written into a receiver's buffer; a WFI of the receiver ends (R100, R246). A receiver that has executed EXIT
has none (R245). -/
def deliver (k : Nat) (m : Message) : M Unit :=
  modify fun s => { s with strands := s.strands.modify k fun st =>
    if st.exited then st else endWfi { st with inbox := st.inbox ++ [m] } }

/-- A strand's request for a reservation is withdrawn from every receiver (R245). -/
def withdraw (k : Nat) (s : State) : State :=
  { s with strands := s.strands.map fun st =>
      if st.requests.contains k then { st with requests := st.requests.filter (· != k) } else st }

/-- A receiver grants a reservation: the message is in flight behind those granted before it, which arrive first (R246). -/
def grantSend (k : Nat) (m : Message) : M Unit :=
  modify fun s => { s with strands := s.strands.modify k fun st => { st with granted := st.granted ++ [m] } }

/-- The word of FSEND. -/
abbrev wordFsend (x : BitVec 6) (a : BitVec 3) : Nat := wordFB 0x62 0 0 0 x.toNat 0 a.toNat 0

/-- The message an FSEND sends (R245). -/
def messageOf (st : Strand) (f : Fibre) : Message :=
  { sender := st.r.sid.toNat % 2 ^ 32, tag := myTag st, body := f, begun := false }

/-- An FSEND that asks receiver `k` for its reservation, or goes on waiting for it (R245): requests are granted in the order
they came, and a message whose packets follow no other is written at once, and is taken back with the rest of the convoy if
another member of it traps; one that waits for its packets stands. DESIGN CHOICE (log entry 32). -/
def askToSend (k : Nat) (m : Message) (rcv : Strand) : M Unit := do
  let s ← get
  let first := rcv.requests.headD s.cur == s.cur
  if first && hasRoom rcv m.body.pairs.length then
    modify (withdraw s.cur)
    if rcv.granted.isEmpty then
      deliver k m
      setFst 0 false
    else
      grantSend k m
      modStrand fun st => { st with sending := some (k, st.r.pc.toNat, false) }
      waitFor (.sending k)
  else
    if !rcv.requests.contains s.cur then
      modify fun s => { s with strands := s.strands.modify k fun st => { st with requests := st.requests ++ [s.cur] } }
    waitFor (.reservation k)

/-- What a waiting FSEND leaves: the buffers as it found them, with its request or its granted message at the receiver. -/
def keepRequest (pre err : State) : State :=
  let s := rollback pre err
  let kept := fun (a b : Strand) => { a with requests := b.requests, granted := b.granted, sending := b.sending }
  { s with strands := List.zipWith kept s.strands err.strands }

/-- The member FSEND (R245): it waits for its reservation, and completes when the message stands in the buffer. Its granted
message is sent once: whatever stops its convoy behind the grant, the FSEND that is met at its pc again only completes
(log entry 32). -/
def memberFsend (x : BitVec 6) (a : BitVec 3) : Member :=
  { ftMember (fun _ => false) fun sp => do
      let st ← getStrand
      let fa ← getFibre a
      let sid := (regRead st.r x.toNat).toNat % 2 ^ 32
      let s ← get
      match st.sending.filter fun x => x.2.1 == st.r.pc.toNat with
      | some (k, _, arrived) =>
        if arrived then
          modStrand fun st => { st with sending := none }
          setFst 0 false
        else waitFor (.sending k)
      | none =>
        match strandOfSid s st.bent sid with
        | none => raise causeIllop (memberXval (wordFsend x a) sp.pos)
        | some k =>
          match s.strands[k]? with
          | none => noPart
          | some rcv =>
            if rcv.exited then
              modify (withdraw s.cur)
              setFst 0 true
            else askToSend k (messageOf st fa) rcv with
    keep := keepRequest }

/-- FSEND (R245). DESIGN CHOICE (log entry 32). -/
def execFsend (x : BitVec 6) (a : BitVec 3) (s : State) : Result := runSolo (wordFsend x a) (memberFsend x a) s

/-- The fibre a waiting FSEND sends: the one its waiting word names. -/
def pendingSend (st : Strand) : Option Fibre :=
  match st.inflight with
  | none => none
  | some f =>
    (f.words.find? fun w => w.toNat % 128 == 0x62 && w.toNat / 2 ^ 22 % 32 == 0).map fun w =>
      st.fibres.getD (w.toNat / 2 ^ 10 % 8) emptyFibre

/-- FSEND_RESERVATION_GRANT (R245): the oldest request at a receiver is granted if its message fits, and its packets
leave. -/
def execFsendReservationGrant (receiver : Nat) (s : State) : Result :=
  runEvent (do
    let s ← get
    match s.strands[receiver]? with
    | none => noPart
    | some rcv =>
      match rcv.requests with
      | [] => noPart
      | k :: rest =>
        match s.strands[k]? with
        | none => noPart
        | some st =>
          match pendingSend st with
          | none => noPart
          | some f =>
            if rcv.exited || !hasRoom rcv f.pairs.length then noPart
            else
              let sent := s.strands.modify k fun st =>
                { st with
                  wait := if st.wait = .reservation receiver then .sending receiver else st.wait
                  sending := some (receiver, st.r.pc.toNat, false) }
              set { s with strands := sent.modify receiver fun r =>
                { r with granted := r.granted ++ [messageOf st f], requests := rest } }) s

/-- FIBRE_MESSAGE_ARRIVAL (R245, R246): the last packet of the oldest granted message is written; its FSEND may
complete, and a WFI of the receiver ends. -/
def execFibreMessageArrival (receiver : Nat) (s : State) : Result :=
  runEvent (do
    let s ← get
    match s.strands[receiver]? with
    | none => noPart
    | some rcv =>
      match rcv.granted with
      | [] => noPart
      | m :: rest =>
        let arrived := fun (st : Strand) =>
          match st.sending with
          | some (k, pc, false) =>
            if st.bent = rcv.bent && k = receiver && st.r.sid.toNat % 2 ^ 32 = m.sender then
              { st with wait := if st.wait = .sending receiver then .sent else st.wait, sending := some (k, pc, true) }
            else st
          | _ => st
        set { s with strands := s.strands.map arrived }
        modify fun s => { s with strands := s.strands.modify receiver fun st => { st with granted := rest } }
        deliver receiver m) s

/-- The word of FRECV. -/
abbrev wordFrecv (k : BitVec 2) (c : BitVec 3) (x : BitVec 6) (a d : BitVec 3) : Nat :=
  wordFB 0x62 k.toNat c.toNat 1 x.toNat 0 a.toNat d.toNat

/-- Place of the message an FRECV takes (R246): the one it has begun, else the oldest that matches. -/
def chosenMessage (st : Strand) (sid : Nat) : Option Nat :=
  let begun := if progAct st.r then st.inbox.findIdx? (·.begun) else none
  match begun with
  | some i => some i
  | none => st.inbox.findIdx? fun m => sid == 0xFFFFFFFF || m.sender == sid

/-- The member FRECV (R246). -/
def memberFrecv (k : BitVec 2) (c : BitVec 3) (x : BitVec 6) (a d : BitVec 3) : Member :=
  ftMember (fun _ => d == a) fun _ => do
    let word := wordFrecv k c x a d
    let st ← getStrand
    let fa ← getFibre a
    if badInputs fa emptyFibre || badKind fa k then wordIllop word
    else
      checkProg word
      match chosenMessage st ((regRead st.r x.toNat).toNat % 2 ^ 32) with
      | none =>
        setFst 1 true
        setFibre d fa
      | some i =>
        let m := st.inbox.getD i { sender := 0, tag := 0, body := emptyFibre, begun := false }
        if badInputs fa m.body || badKind m.body k then wordIllop word
        else
          let fb := m.body.pairs.map fun p => { p with tag := m.tag }
          setFst 1 false
          restartable word d k false
            (setLoop .union c.toNat k.toNat (capOf st.r) (myTag st) fa.pairs fb (fa.pairs.length + fb.length + 1))
          modStrand fun st =>
            { st with inbox :=
              if progAct st.r then st.inbox.zipIdx.map fun (m, j) => { m with begun := j == i }
              else (st.inbox.eraseIdx i).map fun m => { m with begun := false } }

/-- FRECV (R246). DEDUCED (log entry 30). -/
def execFrecv (k : BitVec 2) (c : BitVec 3) (x : BitVec 6) (a d : BitVec 3) (s : State) : Result :=
  runSolo (wordFrecv k c x a d) (memberFrecv k c x a d) s

end Sys2Proof.Machine
end

