-- ==== Sys2Proof/Machine/Truss.lean ====
section
/-! DEFINITION. The truss (R249 to R276): claims, filling slots, multiplies and their accumulation, and reading tiles: each
instruction's member and its meaning alone. A multiply's result is computed when the truss accepts it; the list of held
multiplies says which of them are still running. -/

namespace Sys2Proof.Machine

open Sys2Proof.Config

/-! ### Slots and tiles -/

/-- A slot that is claimed and empty, or free (R251, R255). -/
def emptySlot (claimed : Bool) : Slot :=
  { claimed := claimed, fmt := 0, rows := 0, cols := 0, scaled := false, data := 0, side := 0, poison := false }

/-- A tile after placement or TZERO (R251, R273). -/
def zeroTile : Tile := { words := 0, kind := .none, flags := 0, nanc := 0, poison := false, touched := false }

/-- A slot of a block. -/
def slotOf (bl : Block) (j : Nat) : Slot := bl.slots.toList.getD j (emptySlot false)

/-- A block with one slot replaced. -/
def withSlot (bl : Block) (j : Nat) (x : Slot) : Block := { bl with slots := bl.slots.setIfInBounds j x }

/-- A tile of a block. -/
def tileOf (bl : Block) (t : Nat) : Tile := bl.tiles.toList.getD t zeroTile

/-- A block with one tile replaced. -/
def withTile (bl : Block) (t : Nat) (x : Tile) : Block := { bl with tiles := bl.tiles.setIfInBounds t x }

/-- Whether the strand has claimed a slot; every attached bay has the same claims (R249). -/
def isClaimed (st : Strand) (j : Nat) : Bool := st.blocks.any fun bl => (slotOf bl j).claimed

/-- JIGSTATE of a slot (R254). -/
def jigstate {α : Type} (j : Nat) : M α := raise causeJigstate (BitVec.ofNat 64 j)

/-- An instruction that names a slot waits while an XEXPAND fills it (R345). -/
def slotFree (j : Nat) : M Unit := awaitExpand fun kind slot _ => kind == 1 && slot == j

/-- The slot must be claimed (R254), and is waited for (R345). -/
def needClaim (j : Nat) : M Unit := do
  slotFree j
  let st ← getStrand
  if isClaimed st j then return () else jigstate j

/-- Columns a slot of a format may have; none for a format that enters no slot (R250). -/
def maxCols (f : Nat) : Nat :=
  match f with
  | 2 => 256
  | 3 => 256
  | 4 => 512
  | 5 => 512
  | 8 => 1024
  | 11 => 512
  | 12 => 1024
  | 13 => 2048
  | _ => 0

/-- Formats whose slots may be scaled (R258, R260). -/
def scalable (f : Nat) : Bool := f == 4 || f == 5 || f == 8

/-- Element (row, column) of a slot, as its code (R250). -/
def slotElem (x : Slot) (row col : Nat) : Nat :=
  getField x.data ((row * x.cols + col) * fmtWidth x.fmt.toNat) (fmtWidth x.fmt.toNat)

/-- Scale byte of a row and a block of 32 columns (R250). -/
def slotScale (x : Slot) (row q : Nat) : Nat := getField x.side ((32 * row + q) * 8) 8

/-! ### The multiplies a truss holds (R270) -/

/-- The multiplies left once every one up to the last that `p` picks has finished. -/
def dropThrough (p : Multiply → Bool) : List Multiply → List Multiply
  | [] => []
  | x :: t => if (x :: t).any p then dropThrough p t else x :: t

/-- The instruction waits until the multiplies that `p` picks have finished. -/
def awaitMultiplies (p : Multiply → Bool) : M Unit :=
  modStrand fun st => { st with multiplies := dropThrough p st.multiplies }

/-- The oldest running multiply finishes its last step. -/
def finishOldest : List Multiply → List Multiply
  | [] => []
  | x :: t => if x.done then x :: finishOldest t else { x with done := true } :: t

/-- The truss accepts a multiply: at most two run or wait, so a third waits for the oldest's last step. -/
def acceptMultiply (x : Multiply) : M Unit :=
  modStrand fun st =>
    let l := if 2 ≤ (st.multiplies.filter fun y => !y.done).length then finishOldest st.multiplies else st.multiplies
    { st with multiplies := l ++ [x] }

/-- MULTIPLY_LAST_STEP (R270): the running multiply of a strand finishes its last step and frees its place. -/
def execMultiplyLastStep (strand : Nat) (s : State) : Result :=
  runEvent (do
    let s ← get
    match s.strands[strand]? with
    | none => noPart
    | some st =>
      if st.multiplies.all (·.done) then noPart
      else set { s with strands := s.strands.set strand { st with multiplies := finishOldest st.multiplies } }) s

/-- TILE_READY (R276): the oldest multiply that has done its last step leaves the truss. -/
def execTileReady (strand : Nat) (s : State) : Result :=
  runEvent (do
    let s ← get
    match s.strands[strand]? with
    | none => noPart
    | some st =>
      match st.multiplies with
      | [] => noPart
      | x :: t => if x.done then set { s with strands := s.strands.set strand { st with multiplies := t } } else noPart) s

/-! ### Claiming and releasing (R255, R256) -/

/-- Claims a slot in every attached bay, empty, and gives its number. -/
def claimSlot (s : BitVec 6) (j : Nat) : M Unit := do
  modBlocks fun bl => withSlot bl j (emptySlot true)
  ws s (BitVec.ofNat 64 j)

/-- The member JCLM (R255). -/
def memberJclm (s : BitVec 6) (j : BitVec 4) : Member :=
  ftMember (fun _ => false) fun _ => do
    slotFree j.toNat
    let st ← getStrand
    if isClaimed st j.toNat then jigstate j.toNat else claimSlot s j.toNat

/-- JCLM (R255). -/
def execJclm (s : BitVec 6) (j : BitVec 4) (σ : State) : Result :=
  runSolo (wordTJ 0x68 0 0 s.toNat 0 j.toNat) (memberJclm s j) σ

/-- The member JCLM with ANY (R255). -/
def memberJclmAny (s : BitVec 6) : Member :=
  ftMember (fun _ => false) fun _ => do
    let st ← getStrand
    match (List.range 16).find? fun j => !isClaimed st j with
    | none => ws s 0xFFFFFFFFFFFFFFFF
    | some j => claimSlot s j

/-- JCLM with ANY (R255). -/
def execJclmAny (s : BitVec 6) (σ : State) : Result := runSolo (wordTJ 0x68 0 0 s.toNat 1 0) (memberJclmAny s) σ

/-- The member JREL (R256). -/
def memberJrel (j : BitVec 4) : Member :=
  ftMember (fun _ => false) fun _ => do
    needClaim j.toNat
    awaitMultiplies fun x => x.slots.contains j.toNat
    modBlocks fun bl => withSlot bl j.toNat (emptySlot false)

/-- JREL (R256). -/
def execJrel (j : BitVec 4) (σ : State) : Result := runSolo (wordTJ 0x69 0 0 0 0 j.toNat) (memberJrel j) σ

/-! ### Filling slots (R257 to R261) -/

/-- R257: whether rows p to p + n − 1 of the given shape may be written into a slot. DEDUCED (log entry 33). -/
def fillOk (x : Slot) (p n f c : Nat) (scaled : Bool) : Bool :=
  c ≤ maxCols f && p + n ≤ 256 &&
    (p == 0 || (x.rows != 0 && p ≤ x.rows && x.fmt.toNat == f && x.cols == c && x.scaled == scaled))

/-- R257: the slot after `n` rows from row `p` on; each row is given as its packed bits, with its sideband. -/
def fillSlot (x : Slot) (p n f c : Nat) (scaled : Bool) (rows side : Nat → Nat) : Slot :=
  if n = 0 then x
  else
    let base : Slot :=
      if p = 0 then { emptySlot x.claimed with fmt := BitVec.ofNat 4 f, cols := c, scaled := scaled } else x
    let w := c * fmtWidth f
    let y := loopFrom (fun i (y : Slot) =>
      let data := setField y.data ((p + i) * w) w (rows i)
      let side := setField y.side ((p + i) * 256) 256 (side i)
      { y with data := data, side := side }) 0 n base
    { y with rows := max y.rows (p + n) }

/-- The word of JLD. -/
abbrev wordJld (p : BitVec 1) (c : BitVec 5) (s : BitVec 6) (v : BitVec 5) (j : BitVec 4) : Nat :=
  wordTJ 0x6A p.toNat c.toNat s.toNat v.toNat j.toNat

/-- A format JLD acts on (R36, R250, R258). -/
def jldFormat (p : BitVec 1) (vt : BitVec 13) : Bool := maxCols (vtFmt vt) != 0 && (p == 0 || scalable (vtFmt vt))

/-- The member JLD (R258). -/
def memberJld (p : BitVec 1) (c : BitVec 5) (s : BitVec 6) (v : BitVec 5) (j : BitVec 4) : Member :=
  let read := fun (r : Regs) => (List.range (vtG r.vt)).map (v.toNat + ·) ++ (if p = 1 then [c.toNat] else [])
  { ftMember (fun st => !alignedAll st [v.toNat] || !jldFormat p st.r.vt) fun _ => do
      let st ← getStrand
      let r := st.r
      if r.vl = 0 then return ()
      else
        needClaim j.toNat
        let f := vtFmt r.vt
        let row := (regRead r s.toNat).toNat
        let g := vtG r.vt
        let e := vregBits / vtWidth r.vt
        let bad := (p == 1 && !(scalable f && vtSblk r.vt == 32 && r.vl % 32 == 0)) ||
          st.blocks.any fun bl => !fillOk (slotOf bl j.toNat) row g f r.vl (p == 1)
        if bad then wordIllop (wordJld p c s v j)
        else
          awaitMultiplies fun x => x.slots.contains j.toNat
          modBlocks fun bl =>
            let data := fun i => getField bl.v ((v.toNat + i) * vregBits) (r.vl * vtWidth r.vt)
            let side := fun i => if p = 1 then getField bl.v (c.toNat * vregBits + i * e / 32 * 8) (r.vl / 32 * 8) else 0
            withSlot bl j.toNat (fillSlot (slotOf bl j.toNat) row g f r.vl (p == 1) data side)
    with readsV := read }

/-- JLD (R258). -/
def execJld (p : BitVec 1) (c : BitVec 5) (s : BitVec 6) (v : BitVec 5) (j : BitVec 4) (σ : State) : Result :=
  runSolo (wordJld p c s v j) (memberJld p c s v j) σ

/-- The fields of JSHAPE (R259). -/
def jshSc (x : Word) : Bool := x.toNat / 2 ^ 45 % 2 == 1
def jshTr (x : Word) : Bool := x.toNat / 2 ^ 44 % 2 == 1
def jshFmt (x : Word) : Nat := x.toNat / 2 ^ 40 % 16
def jshRows (x : Word) : Nat := x.toNat / 2 ^ 29 % 2048
def jshCols (x : Word) : Nat := x.toNat / 2 ^ 18 % 2048
def jshRow0 (x : Word) : Nat := x.toNat % 256

/-- `n` elements of width `w` of a memory row from element `c` on, as packed bits (R260). -/
def rowBits (b va w : Nat) : Nat → Nat → M Nat
  | 0, _ => return 0
  | n + 1, c => do
    let x ← loadBits b (va + c * w / 8) (c * w % 8) w 0
    let rest ← rowBits b va w n (c + 1)
    return x + rest * 2 ^ w

/-- Bytes at successive addresses, each a vector load of its own, as packed bits. -/
def scaleBits (b : Nat) : Nat → Nat → M Nat
  | 0, _ => return 0
  | n + 1, va => do
    let x ← loadBits b va 0 8 0
    let rest ← scaleBits b n (va + 1)
    return x + rest * 256

/-- The memory rows of a bay: for each the packed elements and the packed scales; `none` names a row of zeros (R260). A row's data are
read before its scales, and both before the next row, which settles which of several faulting reads is reported (R261).
DEDUCED (log entry 33). -/
def readRows (b a0 d sc w wc : Nat) (scaled : Bool) : List (Option Nat) → M (List (Nat × Nat))
  | [] => return []
  | none :: t => do
    let rest ← readRows b a0 d sc w wc scaled t
    return (0, 0) :: rest
  | some i :: t => do
    let x ← rowBits b ((a0 + i * d) % 2 ^ 64) w wc 0
    let q ← if scaled then scaleBits b (wc / 32) (sc + i * (wc / 32)) else pure 0
    let rest ← readRows b a0 d sc w wc scaled t
    return (x, q) :: rest

/-- Column `i` of packed rows of width-`w` elements, as packed bits. -/
def columnBits (w i : Nat) : List (Nat × Nat) → Nat
  | [] => 0
  | x :: t => x.1 / 2 ^ (i * w) % 2 ^ w + columnBits w i t * 2 ^ w

/-- Fills the slot of one bay from its memory rows (R260). -/
def fillBay (j : Nat) (jsh : Word) (b : Nat) (rows : List (Nat × Nat)) : M Unit :=
  let f := jshFmt jsh
  let wc := jshCols jsh + 1
  modBlock b fun bl =>
    let x := slotOf bl j
    if rows.isEmpty then bl
    else if jshTr jsh then
      withSlot bl j (fillSlot x 0 wc f rows.length false (fun i => columnBits (fmtWidth f) i rows) (fun _ => 0))
    else
      withSlot bl j (fillSlot x (jshRow0 jsh) rows.length f wc (jshSc jsh) (fun i => (rows.getD i (0, 0)).1)
        (fun i => (rows.getD i (0, 0)).2))

/-- The checks of JFIL's write in one bay, of `n` memory rows (R257, R260). DEDUCED (log entry 33). -/
def jfilOk (jsh : Word) (x : Slot) (n : Nat) : Bool :=
  let f := jshFmt jsh
  let wc := jshCols jsh + 1
  if n = 0 then true
  else if jshTr jsh then jshRow0 jsh == 0 && fillOk x 0 wc f n false
  else fillOk x (jshRow0 jsh) n f wc (jshSc jsh)

/-- The memory rows of each position, by JFIL's mode: `idx` is the index group in gather mode (R260). -/
def jfilRows (st : Strand) (idx : Option Nat) (b : Nat) (bl : Block) : List (Option Nat) :=
  match idx with
  | none => (List.range (jshRows st.r.jshape + 1)).map some
  | some v => (List.range (belowVl st.r.vl (vlbOf st.r.vt) b)).map fun i =>
      if maskBit bl 0 i then some (elemRead bl 32 v i) else none

/-- JFIL (R260, R261): every bay's write is checked before memory is read. -/
def jfilRun (word : Nat) (s : BitVec 6) (idx : Option Nat) (j : Nat) : M Unit := do
  let st ← getStrand
  let jsh := st.r.jshape
  if idx.isSome && st.r.vl == 0 then return ()
  else
    needClaim j
    let f := jshFmt jsh
    let wc := jshCols jsh + 1
    let bad := maxCols f == 0 || (jshTr jsh && jshRow0 jsh != 0) ||
      (jshSc jsh && !(scalable f && !jshTr jsh && wc % 32 == 0)) ||
      st.blocks.zipIdx.any fun (bl, b) => !jfilOk jsh (slotOf bl j) (jfilRows st idx b bl).length
    if bad then wordIllop word
    else
      awaitMultiplies fun x => x.slots.contains j
      let reg := fun (i : Nat) => (regRead st.r (s.toNat + i)).toNat
      loopM (fun b => do
        let bl ← getBlock b
        let rows ← readRows b (reg 0 + b * reg 2) (reg 1) (reg 3) (fmtWidth f) wc (jshSc jsh) (jfilRows st idx b bl)
        fillBay j jsh b rows) 0 (spanOf st)

/-- The word of JFIL in dense mode. -/
abbrev wordJfil (s : BitVec 6) (j : BitVec 4) : Nat := wordTJ 0x6B 0 0 s.toNat 0 j.toNat

/-- The member JFIL in dense mode (R260, R261). -/
def memberJfil (s : BitVec 6) (j : BitVec 4) : Member :=
  ftMember (fun _ => 60 < s.toNat) fun _ => jfilRun (wordJfil s j) s none j.toNat

/-- JFIL in dense mode (R260, R261). DEDUCED (log entry 33). -/
def execJfil (s : BitVec 6) (j : BitVec 4) (σ : State) : Result := runSolo (wordJfil s j) (memberJfil s j) σ

/-- The word of JFIL in gather mode. -/
abbrev wordJfilGather (s : BitVec 6) (v : BitVec 5) (j : BitVec 4) : Nat := wordTJ 0x6B 1 0 s.toNat v.toNat j.toNat

/-- The member JFIL in gather mode (R260, R261). -/
def memberJfilGather (s : BitVec 6) (v : BitVec 5) (j : BitVec 4) : Member :=
  { ftMember (fun st => 60 < s.toNat || vtWidth st.r.vt != 32 || !alignedAll st [v.toNat]) fun _ =>
      jfilRun (wordJfilGather s v j) s (some v.toNat) j.toNat
    with readsV := fun r => (List.range (vtG r.vt)).map (v.toNat + ·) }

/-- JFIL in gather mode (R260, R261). -/
def execJfilGather (s : BitVec 6) (v : BitVec 5) (j : BitVec 4) (σ : State) : Result :=
  runSolo (wordJfilGather s v j) (memberJfilGather s v j) σ

/-! ### Accumulation (R264, R265) -/

/-- The three multiplies. -/
inductive MulKind where
  | tmma
  | tmms
  | ttrn
  deriving DecidableEq, Repr

/-- k steps of one array step, by the format of ja and of jb (R250, R263). -/
def kpcOf (fa fb : Nat) : Nat :=
  if fb = 13 then 8
  else match fa with
    | 2 => 1
    | 3 => 1
    | 8 => 4
    | _ => 2

/-- R263: whether a multiply accepts its operands' formats and scaling, and am. -/
def mulAccepts (k : MulKind) (am fa fb : Nat) (sa sb : Bool) : Bool :=
  let plain := !sa && !sb
  if (fa == 2 || fa == 3) && (fb == 2 || fb == 3) then k != .ttrn && am ≤ 1 && plain
  else if (fa == 4 || fa == 5) && (fb == 4 || fb == 5) then k != .ttrn && am ≤ 1 && (k == .tmma || plain)
  else if fa == 8 && fb == 8 then k == .tmma && am ≤ 1
  else if fa == 11 && fb == 11 then k != .ttrn && am == 2 && plain
  else if fa == 11 && fb == 13 then k == .ttrn && am == 2 && plain
  else false

/-- A finite sum rounded into the accumulator of am 0 or 1, which holds FP32 (R265). -/
def roundAcc (am : Nat) (neg : Bool) (m : Nat) (e : Int) : FpRes :=
  if am = 0 then fpRound 1 neg m e 0 false false 0
  else if m = 0 then fpQuiet (withSign 1 neg 0)
  else
    let r := roundMag 3 neg m e 0 false 0
    if r.outside then { bits := withSign 1 neg 0x477FE000, flags := hsatFlag, nanc := 0 }
    else
      let x := fpRound 3 neg m e 0 false false 0
      { x with bits := (fpToFp 1 3 x.bits 0 false 0).bits }

/-- The exact sum of finite values, an infinity among them, or nothing when infinities of both signs meet. -/
def sumTerms : FpVal → List FpVal → Option FpVal
  | acc, [] => some acc
  | acc, x :: t =>
    match acc, x with
    | .fin n1 m1 e1, .fin n2 m2 e2 =>
      let r := exactSum n1 m1 e1 n2 m2 e2 0
      sumTerms (.fin r.1 r.2.1 r.2.2) t
    | .inf n1, .inf n2 => if n1 = n2 then sumTerms (.inf n1) t else none
    | .inf n, _ => sumTerms (.inf n) t
    | _, .inf n => sumTerms (.inf n) t
    | y, _ => sumTerms y t

/-- A value times a power of two. -/
def FpVal.scaleBy (k : Int) : FpVal → FpVal
  | .fin n m e => .fin n m (e + k)
  | v => v

/-- One floating step (R264, R265): `acc` in FP32 bits, the operand pairs, and the scale bytes of a scaled step. -/
def floatStep (am acc : Nat) (pairs : List (FpVal × FpVal)) (scales : Option (Nat × Nat)) : FpRes :=
  let a := fpDecode 1 acc
  if a.isNan then fpQuiet acc
  else if pairs.any fun p => p.1.isNan || p.2.isNan then
    genFromNan 1 (pairs.any fun p => p.1.isSnan || p.2.isSnan)
  else if scales.any fun q => q.1 == 255 || q.2 == 255 then genInvalid 1 2
  else
    let k : Int := scales.elim 0 fun q => (q.1 + q.2 : Nat) - 254
    let prods := pairs.map fun p => exactMul p.1 p.2
    match sumTerms a ((prods.filterMap id).map (FpVal.scaleBy k)) with
    | none => genInvalid 1 3
    | some v =>
      if prods.any (·.isNone) then genInvalid 1 4
      else
        match v with
        | .fin n m e => roundAcc am n m e
        | .inf n =>
          if am = 0 then fpQuiet (infCode 1 n) else { bits := withSign 1 n 0x477FE000, flags := hsatFlag, nanc := 0 }
        | .nan _ => fpQuiet acc

/-- One integer step (R264, R265): the clamped sum, and NV for a T2 code 0b10. -/
def intStep (fa fb acc : Nat) (pairs : List (Nat × Nat)) : FpRes :=
  let sum := pairs.foldl (fun (z : Int) p => z + (intValue fa p.1).1 * (intValue fb p.2).1) (signedOf 32 acc)
  let nv := pairs.foldl (fun z p => z ||| (intValue fb p.2).2) 0
  if intMax 9 < sum then { bits := intBits 32 (intMax 9), flags := nv ||| isatFlag, nanc := 0 }
  else if sum < intMin 9 then { bits := intBits 32 (intMin 9), flags := nv ||| isatFlag, nanc := 0 }
  else { bits := intBits 32 sum, flags := nv, nanc := 0 }

/-- The slots and mode of a multiply in one bay. -/
structure MulOps where
  kind : MulKind
  am : Nat
  zf : Bool
  a : Slot
  b : Slot
  sel : Slot

/-- Whether either operand is scaled (R263). -/
def MulOps.scaled (x : MulOps) : Bool := x.a.scaled || x.b.scaled

/-- Elements of ja's row a step covers. -/
def MulOps.stepLen (x : MulOps) : Nat := if x.scaled then 32 else kpcOf x.a.fmt.toNat x.b.fmt.toNat

/-- Steps of one (m, n) (R264, R267). -/
def MulOps.steps (x : MulOps) : Nat := (x.a.cols + x.stepLen - 1) / x.stepLen

/-- The column of jb that meets column `c` of ja's row `m` (R262, R267). -/
def MulOps.bCol (x : MulOps) (m c : Nat) : Nat :=
  if x.kind = .tmms then
    let nib := slotElem x.sel m (c / 2)
    4 * (c / 2) + (if c % 2 = 0 then nib % 4 else nib / 4 % 4)
  else c

/-- The operand codes of step `k` for (m, n). -/
def MulOps.codes (x : MulOps) (m n k : Nat) : List (Nat × Nat) :=
  (List.range (min x.stepLen (x.a.cols - k * x.stepLen))).map fun i =>
    let c := k * x.stepLen + i
    (slotElem x.a m c, slotElem x.b n (x.bCol m c))

/-- The scales of step `k`; an unscaled operand reads as 127 (R263). -/
def MulOps.scales (x : MulOps) (m n k : Nat) : Option (Nat × Nat) :=
  if x.scaled then
    some (if x.a.scaled then slotScale x.a m k else 127, if x.b.scaled then slotScale x.b n k else 127)
  else none

/-- One step of one (m, n). -/
def MulOps.step (x : MulOps) (m n acc k : Nat) : FpRes :=
  let ps := x.codes m n k
  if x.am = 2 then intStep x.a.fmt.toNat x.b.fmt.toNat acc ps
  else floatStep x.am acc (ps.map fun p => (fpDecode x.a.fmt.toNat p.1, fpDecode x.b.fmt.toNat p.2)) (x.scales m n k)

/-- What the accumulation of elements leaves: the word or words, the flags, and the last NaN generated, by the order of
R265 (step, m, n) and its cause; order 0 means none. -/
structure Accum (α : Type) where
  value : α
  flags : Nat
  order : Nat
  nanc : Nat

/-- The steps of one (m, n), in ascending order (R262, R264). -/
def accElement (x : MulOps) (m n acc : Nat) : Accum Nat :=
  loopFrom (fun k (z : Accum Nat) =>
    let r := x.step m n z.value k
    let o := if r.nanc = 0 then z.order else ((k * 256 + m) * 256 + n) + 1
    { value := r.bits, flags := z.flags ||| r.flags, order := o, nanc := if r.nanc = 0 then z.nanc else r.nanc }) 0 x.steps
    { value := acc, flags := 0, order := 0, nanc := 0 }

/-- Place of word (m, n) in a tile. -/
def tileBit (m n : Nat) : Nat := 32 * (256 * m + n)

/-- One element of a tile. -/
def accTileElem (x : MulOps) (m n : Nat) (z : Accum (BitVec tileBits)) : Accum (BitVec tileBits) :=
  let r := accElement x m n (if x.zf then 0 else getField z.value (tileBit m n) 32)
  let later := r.order != 0 && z.order ≤ r.order
  let o := if later then r.order else z.order
  { value := setField z.value (tileBit m n) 32 r.value, flags := z.flags ||| r.flags, order := o,
    nanc := if later then r.nanc else z.nanc }

/-- The multiply in one bay (R262). -/
def accTile (x : MulOps) (words : BitVec tileBits) : Accum (BitVec tileBits) :=
  loopFrom (fun m z => loopFrom (fun n z => accTileElem x m n z) 0 x.b.rows z) 0 x.a.rows
    { value := words, flags := 0, order := 0, nanc := 0 }

/-! ### The multiplies (R262 to R269) -/

/-- The fields of a multiply instruction; `jm` is used by TMMS only. -/
structure MulFields where
  kind : MulKind
  am : Nat
  zf : Bool
  ja : Nat
  jb : Nat
  jm : Nat
  tile : Nat

/-- The slots a multiply names, in the order of R269. -/
def MulFields.slots (f : MulFields) : List Nat := if f.kind = .tmms then [f.ja, f.jb, f.jm] else [f.ja, f.jb]

/-- Its operands in one bay. -/
def MulFields.ops (f : MulFields) (bl : Block) : MulOps :=
  { kind := f.kind, am := f.am, zf := f.zf, a := slotOf bl f.ja, b := slotOf bl f.jb, sel := slotOf bl f.jm }

/-- R263 and R267: formats, am, scaling and shapes in one bay. -/
def MulFields.shapeOk (f : MulFields) (bl : Block) : Bool :=
  let x := f.ops bl
  let k := x.b.cols
  mulAccepts f.kind f.am x.a.fmt.toNat x.b.fmt.toNat x.a.scaled x.b.scaled &&
  (if f.kind = .tmms then
     x.sel.fmt == 12 && k % 4 == 0 && x.a.cols == k / 2 && x.sel.cols == k / 4 && x.sel.rows == x.a.rows
   else x.a.cols == k) &&
  (!x.scaled || k % 32 == 0)

/-- R266: the tile's kind suits am. -/
def MulFields.kindOk (f : MulFields) (bl : Block) : Bool :=
  match (tileOf bl f.tile).kind with
  | .none => true
  | .float => f.am != 2
  | .int => f.am == 2

/-- A multiply in one bay: its tile afterwards, and what it accumulated. -/
def MulFields.inBay (f : MulFields) (bl : Block) : Block × Accum (BitVec tileBits) :=
  let t := tileOf bl f.tile
  let z := accTile (f.ops bl) t.words
  let flags := t.flags ||| BitVec.ofNat 8 z.flags
  (withTile bl f.tile
    { words := z.value, kind := if f.am = 2 then .int else .float, flags := flags,
      nanc := if z.nanc = 0 then t.nanc else z.nanc, poison := t.poison, touched := true }, z)

/-- The cause the multiply leaves in MST: the last by step, m, n and position (R265). -/
def lastNan (zs : List (Accum (BitVec tileBits))) : Nat :=
  (zs.foldl (fun (o : Nat × Nat) z => if z.order != 0 && o.1 ≤ z.order then (z.order, z.nanc) else o) (0, 0)).2

/-- A multiply (R269, R270): checked in every attached bay, then accepted. DEDUCED (log entry 33). -/
def multiply (word : Nat) (f : MulFields) : M Unit := do
  awaitExpand fun kind slot _ => kind == 1 && f.slots.contains slot
  let st ← getStrand
  match f.slots.find? fun j => !isClaimed st j || st.blocks.any fun bl => (slotOf bl j).rows == 0 with
  | some j => jigstate j
  | none =>
    if !(st.blocks.all fun bl => f.shapeOk bl && f.kindOk bl) then wordIllop word
    else if st.blocks.any fun bl => (tileOf bl f.tile).poison then raise causeEccuc (BitVec.ofNat 64 f.tile)
    else if st.blocks.any fun bl => f.slots.any fun j => (slotOf bl j).poison then
      -- the spec names no XVAL for a poisoned operand slot: a free value
      let x ← freeNat
      raise causeEccuc (BitVec.ofNat 64 x)
    else
      let zs := st.blocks.map f.inBay
      modStrand fun st => { st with blocks := zs.map (·.1) }
      raiseFlags (zs.foldl (fun a z => a ||| z.2.flags) 0) (lastNan (zs.map (·.2)))
      acceptMultiply { tile := f.tile, slots := f.slots, done := false }

/-- The word of TMMA. -/
abbrev wordTmma (z : BitVec 1) (e : BitVec 2) (b a : BitVec 4) (t : BitVec 2) : Nat :=
  wordTT 0x6C z.toNat e.toNat 0 b.toNat a.toNat t.toNat

/-- The member TMMA (R262). -/
def memberTmma (z : BitVec 1) (e : BitVec 2) (b a : BitVec 4) (t : BitVec 2) : Member :=
  ftMember (fun _ => e == 3) fun _ =>
    multiply (wordTmma z e b a t)
      { kind := .tmma, am := e.toNat, zf := z == 1, ja := a.toNat, jb := b.toNat, jm := 0, tile := t.toNat }

/-- TMMA (R262). -/
def execTmma (z : BitVec 1) (e : BitVec 2) (b a : BitVec 4) (t : BitVec 2) (σ : State) : Result :=
  runSolo (wordTmma z e b a t) (memberTmma z e b a t) σ

/-- The word of TMMS. -/
abbrev wordTmms (z : BitVec 1) (e : BitVec 2) (n b a : BitVec 4) (t : BitVec 2) : Nat :=
  wordTT 0x6D z.toNat e.toNat n.toNat b.toNat a.toNat t.toNat

/-- The member TMMS (R267). -/
def memberTmms (z : BitVec 1) (e : BitVec 2) (n b a : BitVec 4) (t : BitVec 2) : Member :=
  ftMember (fun _ => e == 3) fun _ =>
    multiply (wordTmms z e n b a t)
      { kind := .tmms, am := e.toNat, zf := z == 1, ja := a.toNat, jb := b.toNat, jm := n.toNat, tile := t.toNat }

/-- TMMS (R267). -/
def execTmms (z : BitVec 1) (e : BitVec 2) (n b a : BitVec 4) (t : BitVec 2) (σ : State) : Result :=
  runSolo (wordTmms z e n b a t) (memberTmms z e n b a t) σ

/-- The word of TTRN. -/
abbrev wordTtrn (z : BitVec 1) (e : BitVec 2) (b a : BitVec 4) (t : BitVec 2) : Nat :=
  wordTT 0x6E z.toNat e.toNat 0 b.toNat a.toNat t.toNat

/-- The member TTRN (R268): am is 2 (R51). -/
def memberTtrn (z : BitVec 1) (e : BitVec 2) (b a : BitVec 4) (t : BitVec 2) : Member :=
  ftMember (fun _ => e != 2) fun _ =>
    multiply (wordTtrn z e b a t)
      { kind := .ttrn, am := e.toNat, zf := z == 1, ja := a.toNat, jb := b.toNat, jm := 0, tile := t.toNat }

/-- TTRN (R268). -/
def execTtrn (z : BitVec 1) (e : BitVec 2) (b a : BitVec 4) (t : BitVec 2) (σ : State) : Result :=
  runSolo (wordTtrn z e b a t) (memberTtrn z e b a t) σ

/-! ### Tiles (R272 to R274) -/

/-- Whether a tile kind converts to a format (R272). -/
def tmovOk (k : TileKind) (f : Nat) : Bool :=
  match k with
  | .none => [1, 2, 3, 4, 5, 9, 10, 11].contains f
  | .float => [1, 2, 3, 4, 5].contains f
  | .int => [9, 10, 11].contains f

/-- A tile word in a format (R272). -/
def tmovWord (f x mode u : Nat) : FpRes :=
  if f = 1 || f = 9 then fpQuiet x
  else if f ≤ 5 then fpToFp f 1 x mode false u
  else intToInt f (signedOf 32 x) true

/-- One element of TMOV: row `row` of the tile, column `c`, to local element `j`. -/
def tmovElem (r : Regs) (v t row col j : Nat) (c : Cell) : Cell :=
  let f := vtFmt r.vt
  let mode := if f = 1 || 5 < f then 0 else frmMode r
  let (u, c) := cellDraw mode j c
  cellFp (vtWidth r.vt) v j (tmovWord f (getField (tileOf c.bl t).words (tileBit row col) 32) mode u) c

/-- The word of TMOV. -/
abbrev wordTmov (s : BitVec 6) (v : BitVec 5) (t : BitVec 2) : Nat := wordTJ 0x6F 0 0 s.toNat v.toNat t.toNat

/-- The member TMOV (R272): its kind and its shape are checked at execution, and not at VL = 0 (R254, R272). -/
def memberTmov (s : BitVec 6) (v : BitVec 5) (t : BitVec 2) : Member :=
  ftMember (fun st => !alignedAll st [v.toNat]) fun _ => do
    let st ← getStrand
    let r := st.r
    if r.vl = 0 then return ()
    else
      let p := (regRead r s.toNat).toNat
      let g := vtG r.vt
      let e := vregBits / vtWidth r.vt
      if 256 < r.vl || 256 < p + g || st.blocks.any (fun bl => !tmovOk (tileOf bl t.toNat).kind (vtFmt r.vt)) then
        wordIllop (wordTmov s v t)
      else if st.blocks.any fun bl => (tileOf bl t.toNat).poison then raise causeEccuc (BitVec.ofNat 64 t.toNat)
      else
        awaitMultiplies fun x => x.tile == t.toNat
        modStrand (onBlocks fun _ c =>
          loopFrom (fun i c => loopFrom (fun k c => tmovElem r v.toNat t.toNat (p + i) k (i * e + k) c) 0 r.vl c) 0 g c)

/-- TMOV (R272). -/
def execTmov (s : BitVec 6) (v : BitVec 5) (t : BitVec 2) (σ : State) : Result :=
  runSolo (wordTmov s v t) (memberTmov s v t) σ

/-- The member TZERO (R273). -/
def memberTzero (t : BitVec 2) : Member :=
  ftMember (fun _ => false) fun _ => do
    awaitMultiplies fun x => x.tile == t.toNat
    modBlocks fun bl => withTile bl t.toNat zeroTile

/-- TZERO (R273). -/
def execTzero (t : BitVec 2) (σ : State) : Result := runSolo (wordSR 0x70 0 0 (t.toNat) 0) (memberTzero t) σ

/-- The code of a tile kind (R274). -/
def TileKind.code : TileKind → Nat
  | .none => 0
  | .float => 1
  | .int => 2

/-- The status of a tile over the attached bays (R274). -/
def tileStatus (ts : List Tile) : Word :=
  let flags := ts.foldl (fun (a : BitVec 8) t => a ||| t.flags) 0
  let nanc := ((ts.map (·.nanc)).find? (· != 0)).getD 0
  let kind := (ts.map fun t => t.kind.code).headD 0
  BitVec.ofNat 64 ((flags &&& 0xCF).toNat + nanc % 16 * 2 ^ 16 + kind * 2 ^ 32)

/-- The member TSTAT (R274, R275). -/
def memberTstat (t : BitVec 2) (d : BitVec 6) : Member :=
  ftMember (fun _ => false) fun _ => do
    let st ← getStrand
    let ts := st.blocks.map fun bl => tileOf bl t.toNat
    if ts.any (·.poison) then raise causeEccuc (BitVec.ofNat 64 t.toNat)
    else
      awaitMultiplies fun x => x.tile == t.toNat
      ws d (tileStatus ts)

/-- TSTAT (R274, R275). -/
def execTstat (t : BitVec 2) (d : BitVec 6) (σ : State) : Result :=
  runSolo (wordSR 0x70 1 0 t.toNat d.toNat) (memberTstat t d) σ

/-- The member TWAIT (R271): the truss of every attached bay holds no multiply any more. -/
def memberTwait : Member := ftMember (fun _ => false) fun _ => awaitMultiplies fun _ => true

/-- TWAIT (R271). DEDUCED (log entry 33). -/
def execTwait (σ : State) : Result := runSolo (wordSR 0x70 2 0 0 0) memberTwait σ

end Sys2Proof.Machine
end

