-- ==== Sys2Proof/Machine/EngineIo.lean ====
section
/-! DEFINITION. How an engine command reaches memory (R337 to R339): its translations, its checks and their statuses,
reads that carry poison, reads that consume it, and writes; and the loop of a command's units. -/

namespace Sys2Proof.Machine

open Sys2Proof.Config

/-- Why a unit of a command does not complete: it fails with a status (R337), or it waits for a line or a partner. -/
inductive EStop where
  | status (n : Nat)
  | held
  | stop (x : Stop)
  deriving DecidableEq, Repr

/-- An action of an engine. -/
abbrev EM := EStateM EStop State

/-- The command fails with a status (R337). -/
def failWith {α : Type} (n : Nat) : EM α := throw (.status n)

/-- The command waits. -/
def hold {α : Type} : EM α := throw .held

/-- An action of the machine, as an engine's. -/
def engLift {α : Type} (x : M α) : EM α := fun s =>
  match x s with
  | .ok a s' => .ok a s'
  | .error e s' => .error (.stop e) s'

/-- `n` bytes of a command's block from offset `o`, little-endian. -/
def fld (c : Command) (o n : Nat) : Nat := bytesAt c.block o n

/-- The scope of a command (R335). -/
def cmdScope (c : Command) : Nat := fld c 9 1 / 4 % 8

/-- The translation context of a command: its issuing strand's, on its engine's TLB (R338). -/
def cmdCtx (c : Command) : XCtx :=
  { vmid := c.vmid, asid := c.asid, ptbase := c.ptbase.toNat, s2root := c.s2root.toNat, level := c.level, engine := true,
    unit := c.engine }

/-- Whether an engine may reach a physical address (R337): no device register, no scratch way, nothing unbacked. -/
def engReach (s : State) (pa : Nat) : Bool :=
  if isLocal s pa then localAddr pa < deviceBase && (scratchOf (localAddr pa)).isNone && backedLocal s (localAddr pa)
  else isHost pa || isPeer s pa

/-- Whether a command's scope is too narrow for an address (R303, R337). -/
def scopeShort (s : State) (scope pa : Nat) : Bool :=
  if isHost pa || isPooled s pa then scope < 5 else !isLocal s pa && scope < 4

/-- Whether an access of a party outside the package is held: by a prepared vector atomic (R286), or by a seal that streams
(R420). DEDUCED (log entry 35). -/
def outsideHeld (s : State) (pa n : Nat) : Bool :=
  sealHolds s pa || sealHolds s (pa + n - 1) || s.prepared.any fun p => p.elems.any fun e =>
    steer s pa / 128 ≤ steer s e.1 / 128 && steer s e.1 / 128 ≤ steer s (pa + n - 1) / 128

/-- Whether a line of a range is held for a prepared vector atomic or a streaming seal of another command (R286, R420). -/
def engHeld (s : State) (c : Command) (pa n : Nat) : Bool :=
  (c.fn != 66 && sealHolds s pa) || s.prepared.any fun p => p.elems.any fun e =>
    steer s pa / 128 ≤ steer s e.1 / 128 && steer s e.1 / 128 ≤ steer s (pa + n - 1) / 128

/-- Whether a command is the Foreman's own access (R352), which is no engine's. -/
def isForeman (c : Command) : Bool := c.fn == 255

/-- An engine's request to a peer or the host: it holds until it is answered, and fails with REMOTE (R337, R411). The
Foreman's own is answered or fails: a free choice. DEDUCED (log entry 50). -/
def engAsk (c : Command) (pa : Nat) : EM Unit := do
  if isForeman c then
    let now ← engLift freeBit
    if now then return () else failWith 12
  else
    match ← engLift (askFar (2 * c.seq + 1) pa) with
    | .go => return ()
    | .wait => hold
    | .fail =>
      modify fun s => logError s
        { time := s.time, kind := 5, bay := 0, cause := 0, rid := c.rid, xval := BitVec.ofNat 64 pa }
      failWith 12

/-- Whether the ninth failure of a message to another package ends the command (R411): always where the domain has no such
package, else a free choice. A failure is recorded as a peer that cannot be reached (R427). DEDUCED (log entry 50). -/
def engSilent (c : Command) (p : Nat) : EM Bool := do
  let s ← get
  let silent ← if p = s.pkg then pure false else if !s.members.contains p then pure true else engLift freeBit
  if silent then
    modify fun s => logError s { time := s.time, kind := 5, bay := 0, cause := 0, rid := c.rid, xval := BitVec.ofNat 64 (p * 2 ^ 46) }
  return silent

/-- Whether the side logs of a command's issuing strand hold entries: its engine begins no read before they are empty
(R215, R329). -/
def logsHold (s : State) (c : Command) : Bool :=
  !isForeman c && (s.strands[c.strand]?).any fun st => !st.exited && slogCount st != 0

/-- One page's part of an engine access. A page whose entry TLBINV has dropped ends the command (R338). The checks stand in
the order XLATE, PERM, CMPVIEW, SCOPE, REMOTE (R337 to R339). DEDUCED (log entry 38). -/
def engPage (c : Command) (acc : Acc) (cmpOk : Bool) (va n : Nat) : EM Xl := do
  if c.removed.any fun x => x.1 ≤ va % 2 ^ 48 && va % 2 ^ 48 < x.1 + x.2 then failWith 1
  if acc.reads && logsHold (← get) c then hold
  match ← engLift (translate (cmdCtx c) va acc) with
  | .error f => failWith (if f.missing then 1 else 2)
  | .ok x =>
    let s ← get
    if !engReach s x.pa then failWith 2
    else if x.cmp && !cmpOk then failWith 3
    else if scopeShort s (cmdScope c) x.pa then failWith 27
    else
      if elsewhere s x.pa then engAsk c x.pa
      if engHeld s c x.pa n then hold else return x

/-- An access of `n` bytes cut at page borders; `k` bounds the pieces. -/
def pagePieces : Nat → Nat → Nat → List (Nat × Nat)
  | 0, _, _ => []
  | k + 1, va, n =>
    if n = 0 then []
    else
      let m := min n (4096 - va % 4096)
      (va, m) :: pagePieces k ((va + m) % 2 ^ 64) (n - m)

/-- The pieces of an access. -/
def piecesOfAccess (va n : Nat) : List (Nat × Nat) := pagePieces (n / 4096 + 2) (va % 2 ^ 64) n

/-- A byte and whether it lies in a poisoned word (R435). -/
abbrev PByte := Byte × Bool

/-- Reads pieces; each byte comes with its poison. -/
def readPieces (c : Command) (cmpOk : Bool) : List (Nat × Nat) → EM (List PByte)
  | [] => return []
  | (va, n) :: t => do
    let x ← engPage c .read cmpOk va n
    modify fun s => pullBytes s x.pa n
    let s ← get
    let vs ← if x.home == 0 && isPooled s x.pa then engLift (pastBytes s (keysOf s x.pa n)) else pure (physBytes s x.pa n)
    let bs := vs.zipIdx.map fun (v, i) => (v, isPoisoned s (x.pa + i))
    let rest ← readPieces c cmpOk t
    return bs ++ rest

/-- A read whose poison travels with the copy (R435). -/
def engRead (c : Command) (cmpOk : Bool) (va n : Nat) : EM (List PByte) := readPieces c cmpOk (piecesOfAccess va n)

/-- A read that consumes what it reads: poison ends the command with ECC (R337, R435). -/
def engUse (c : Command) (cmpOk : Bool) (va n : Nat) : EM (List Byte) := do
  let bs ← engRead c cmpOk va n
  if bs.any (·.2) then failWith 4 else return bs.map (·.1)

/-- A consumed little-endian value of `n` bytes. -/
def engValue (c : Command) (va n : Nat) : EM Nat := do
  let bs ← engUse c false va n
  return leValue bs

/-- Translates the pieces of a write. -/
def writePages (c : Command) (cmpOk : Bool) : List (Nat × Nat) → EM (List (Nat × Nat))
  | [] => return []
  | (va, n) :: t => do
    let x ← engPage c .write cmpOk va n
    let rest ← writePages c cmpOk t
    return (x.pa, n) :: rest

/-- The word that holds a byte becomes poisoned. -/
def poisonByte (s : State) (pa : Nat) : State := { s with poison := dedup (s.poison ++ [steer s pa / 8]) }

/-- Stores bytes with their poison: the covered slack lines are drawn first (R299, R339, R435). -/
def engStore (s : State) (pa : Nat) (bs : List PByte) : State :=
  let s := physStore (drainForStore s pa bs.length) pa (bs.map (·.1))
  bs.zipIdx.foldl (fun s x => if x.1.2 then poisonByte s (pa + x.2) else s) s

/-- Stores bytes piece by piece. -/
def storePieces (s : State) : List (Nat × Nat) → List PByte → State
  | [], _ => s
  | (pa, n) :: t, bs => storePieces (engStore s pa (bs.take n)) t (bs.drop n)

/-- A write: every page is checked before a byte is written. -/
def engWrite (c : Command) (cmpOk : Bool) (va : Nat) (bs : List PByte) : EM Unit := do
  let ps ← writePages c cmpOk (piecesOfAccess va bs.length)
  modify fun s => storePieces s ps bs

/-- Bytes without poison. -/
def clean (bs : List Byte) : List PByte := bs.map fun x => (x, false)

/-! ### Units -/

/-- Where a run of units leaves a command. -/
inductive Progress where
  | more
  | finished
  | failed (status : Nat)
  | waiting
  deriving DecidableEq, Repr

/-- Performs up to `n` units of a command: one that XCANCEL has stopped, or whose completion word TLBINV has removed, goes
no further (R338, R348). A unit answers the command after it, or none when nothing is left. DEDUCED (log entry 38). -/
def unitLoop (unit : Command → EM (Option Command)) : Nat → Command → State → Command × Progress × State
  | 0, c, s => (c, .more, s)
  | n + 1, c, s =>
    if c.cwpa.isNone then (c, .failed 1, s)
    else if c.status != 0 then (c, .failed c.status, s)
    else if c.cancel then (c, .failed 5, s)
    else
      match unit c s with
      | .ok none s' => (c, .finished, s')
      | .ok (some c') s' => unitLoop unit n c' s'
      | .error (.status k) s' => (c, .failed k, s')
      | .error _ s' => (c, .waiting, s')

end Sys2Proof.Machine
end

