-- ==== Sys2Proof/Machine/Engine.lean ====
section
/-! DEFINITION. The jobs of the copy engines (R341 to R347), each as a unit of its iteration order: XCOPY, XGATHER, XPOOL,
XEXPAND and XCOLL. -/

namespace Sys2Proof.Machine

open Sys2Proof.Config

/-! ### XCOPY (R341) -/

/-- Bytes of an element of an XCOPY. -/
def copySize (c : Command) : Nat := 2 ^ fld c 32 1

/-- Dimensions of an XCOPY. -/
def copyDims (c : Command) : Nat := fld c 34 1

/-- Extent of a dimension. -/
def copyExtent (c : Command) (d : Nat) : Nat := fld c (40 + 24 * d) 8

/-- Elements of an XCOPY. -/
def copyTotal (c : Command) : Nat := (List.range (copyDims c)).foldl (fun a d => a * copyExtent c d) 1

/-- Address of element `i`, the first index fastest; `o` is the offset of the strides in a dimension's fields. -/
def copyAddr (c : Command) (base o i : Nat) : Nat :=
  ((List.range (copyDims c)).foldl
    (fun (x : Nat × Nat) d =>
      (x.1 + x.2 % copyExtent c d * fld c (40 + 24 * d + o) 8, x.2 / copyExtent c d)) (base, i)).1 % 2 ^ 64

/-- One element of an XCOPY (R341). -/
def xcopyUnit (c : Command) : EM (Option Command) := do
  if copyTotal c ≤ c.done then return none
  else
    let cmpOk := fld c 33 1 == 1
    let bs ← engRead c cmpOk (copyAddr c (fld c 16 8) 8 c.done) (copySize c)
    engWrite c cmpOk (copyAddr c (fld c 24 8) 16 c.done) bs
    return some { c with done := c.done + 1, bytes := c.bytes + copySize c }

/-! ### XGATHER and XPOOL (R342, R343) -/

/-- Index `p` of the index array. -/
def engIndex (c : Command) (p : Nat) : EM Nat :=
  if fld c 69 1 = 0 then engValue c (fld c 24 8 + 4 * p) 4 else engValue c (fld c 24 8 + 8 * p) 8

/-- Address of row `k` of the table. -/
def tableRow (c : Command) (k : Nat) : Nat := fld c 16 8 + k * fld c 40 8

/-- Address of row `j` of the destination. -/
def destRow (c : Command) (j : Nat) : Nat := fld c 32 8 + j * fld c 48 8

/-- One row of an XGATHER (R343). -/
def xgatherUnit (c : Command) : EM (Option Command) := do
  if fld c 72 4 ≤ c.done then return none
  else
    let k ← engIndex c c.done
    if fld c 56 8 ≤ k then failWith 10
    else
      let w := fld c 64 4
      let bs ← engRead c false (tableRow c k) w
      engWrite c false (destRow c c.done) bs
      return some { c with done := c.done + 1, bytes := c.bytes + w }

/-- Format of an XPOOL's rows: FP32, BF16 or FP16 (R342). -/
def poolFmt (c : Command) : Nat := fld c 68 1 + 1

/-- The sum of one element over index positions `p`, `p` + 1, … (R343). -/
def poolElem (c : Command) (e : Nat) : Nat → Nat → Nat → EM Nat
  | 0, _, acc => return acc
  | n + 1, p, acc => do
    let k ← engIndex c p
    if fld c 56 8 ≤ k then failWith 10
    else
      let w := fmtWidth (poolFmt c) / 8
      let x ← engValue c (tableRow c k + e * w) w
      let y := if poolFmt c = 1 then x else (fpToFp 1 (poolFmt c) x 0 false 0).bits
      if fld c 88 8 = 0 then poolElem c e n (p + 1) (fpAdd 1 acc y 0 0).bits
      else
        let wt ← engValue c (fld c 88 8 + 4 * p) 4
        poolElem c e n (p + 1) (fpFma 1 false false wt y acc 0 0).bits

/-- The output row of a bag, element by element. -/
def poolRow (c : Command) (p0 n : Nat) : Nat → Nat → EM (List Byte)
  | 0, _ => return []
  | k + 1, e => do
    let x ← poolElem c e n p0 0
    let rest ← poolRow c p0 n k (e + 1)
    return leBytes 4 x ++ rest

/-- One bag of an XPOOL (R343). -/
def xpoolUnit (c : Command) : EM (Option Command) := do
  let nb := fld c 80 4
  if nb ≤ c.done then return none
  else
    let o := fld c 72 8
    let x ← engValue c (o + 4 * c.done) 4
    let y ← engValue c (o + 4 * (c.done + 1)) 4
    let z ← engValue c (o + 4 * nb) 4
    if y < x || z < y then failWith 11
    else
      let row ← poolRow c x (y - x) (fld c 64 4) 0
      engWrite c false (destRow c c.done) (clean row)
      return some { c with done := c.done + 1, bytes := c.bytes + 4 * fld c 64 4 }

/-! ### XEXPAND (R344, R345) -/

/-- Where the tensor header stands behind the 64 bytes of the block. -/
abbrev thBase : Nat := 64

/-- Output format, symbols, elements and stream bytes of a tensor header. -/
def thFmt (c : Command) : Nat := fld c (thBase + 4) 1
def thSyms (c : Command) : Nat := fld c (thBase + 6) 2
def thElems (c : Command) : Nat := fld c (thBase + 8) 8
def thStream (c : Command) : Nat := fld c (thBase + 16) 8
def thFreq (c : Command) (i : Nat) : Nat := fld c (thBase + 32 + 2 * i) 2
def thValue (c : Command) (i : Nat) : Nat := fld c (thBase + 32 + 2 * thSyms c + 2 * i) 2
def thInit (c : Command) (i : Nat) : Nat := fld c (thBase + 32 + 4 * thSyms c + 4 * i) 4
def thCheck (c : Command) (i : Nat) : Nat := fld c (thBase + 160 + 4 * thSyms c + 4 * i) 4

/-- Output formats of a compressed tensor (R344). -/
def expandFmt (f : Nat) : Bool := f == 2 || f == 4 || f == 5 || f == 8

/-- R345: whether a slot or slice destination is invalid for a tensor of format `f` and `n` elements, on a bay whose lane
slices hold 8 KiB × `k`. -/
def expandBad (c : Command) (f n k : Nat) : Bool :=
  match fld c 24 1 with
  | 1 =>
    let cols := fld c 28 4
    maxCols f < cols || (if cols = 0 then n != 0 else n % cols != 0 || 256 < n / cols)
  | 2 => 8192 * k < fld c 32 8 + ((n + 63) / 64 * fmtWidth f + 7) / 8
  | _ => false

/-- The block a kind 1 or kind 2 XEXPAND writes. -/
def tensorBlock (s : State) (c : Command) : Option Block :=
  match s.strands[c.strand]? with
  | some st => st.blocks[fld c 26 1]?
  | none => none

/-- Changes that block. -/
def modTensorBlock (s : State) (c : Command) (f : Block → Block) : State :=
  { s with strands := s.strands.modify c.strand fun st => { st with blocks := st.blocks.modify (fld c 26 1) f } }

/-- The slot of a kind 1 XEXPAND becomes empty (R345). -/
def expandEmpty (s : State) (c : Command) : State :=
  if c.fn = 3 && fld c 24 1 = 1 then modTensorBlock s c fun bl => withSlot bl (fld c 25 1) (emptySlot true) else s

/-- Whether the tensor header of a command breaks a rule of R344, other than its frequencies' sum. -/
def headerBad (c : Command) : Bool :=
  fld c thBase 2 != 0x5241 || fld c (thBase + 2) 2 != 1 || !expandFmt (thFmt c) || fld c (thBase + 5) 1 != 0 ||
    thStream c % 2 != 0 || fld c (thBase + 24) 8 != 0 ||
    (List.range (thSyms c)).any (fun i => thValue c i / 2 ^ fmtWidth (thFmt c) != 0) ||
    (List.range 32).any fun i => thInit c i < 2 ^ 16

/-- Reads and checks the tensor header (R344, R345). -/
def expandHeader (c : Command) : EM Command := do
  let h := fld c 16 8
  if h % 8 != 0 then failWith 6
  else
    let first ← engUse c true h 32
    let a := bytesAt first 6 2
    if a = 0 || 256 < a then failWith 6
    else
      let rest ← engUse c true (h + 32) (256 + 4 * a)
      let c : Command := { c with block := c.block.take thBase ++ first ++ rest }
      let s ← get
      let k := (tensorBlock s c).elim 0 fun bl => (bayOf s bl.bay).k
      if headerBad c || expandBad c (thFmt c) (thElems c) k then failWith 6
      else if (List.range a).foldl (fun t i => t + thFreq c i) 0 != 4096 then failWith 7
      else return { c with states := (List.range 32).map (thInit c), word := 0, acc := [] }

/-- The symbol of a slot and the sum of the frequencies below it, from symbol `i` on with sum `cum` (R344). -/
def symbolOf (c : Command) (slot : Nat) : Nat → Nat → Nat → Nat × Nat
  | 0, i, cum => (i, cum)
  | n + 1, i, cum => if slot < cum + thFreq c i then (i, cum) else symbolOf c slot n (i + 1) (cum + thFreq c i)

/-- Refills a state from the stream (R344): the state and the next stream word. A state that has just been decoded is at
least 16, so that one word is enough; `k` bounds the words. -/
def refill (c : Command) : Nat → Nat → Nat → EM (Nat × Nat)
  | 0, x, q => return (x, q)
  | k + 1, x, q => do
    if 2 ^ 16 ≤ x then return (x, q)
    else if thStream c / 2 ≤ q then failWith 8
    else
      let w ← engValue' c (fld c 16 8 + 288 + 4 * thSyms c + 2 * q)
      refill c k (x * 65536 + w) (q + 1)
where
  /-- A stream word, from CMP or ordinary pages. -/
  engValue' (c : Command) (va : Nat) : EM Nat := do
    let bs ← engUse c true va 2
    return leValue bs

/-- Bytes of the first `i` of a tensor's elements: whole bytes until the last element. -/
def expandBytes (c : Command) (i : Nat) : Nat :=
  let w := fmtWidth (thFmt c)
  if i = thElems c then (i * w + 7) / 8 else i * w / 8

/-- Writes element `i` with code `v` to its destination (R345). Elements narrower than a byte are written with the byte's
last one. -/
def expandPut (c : Command) (i v : Nat) : EM Command := do
  let w := fmtWidth (thFmt c)
  match fld c 24 1 with
  | 0 =>
    let va := fld c 32 8 + i * w / 8
    if w ≥ 8 then
      engWrite c false va (clean (leBytes (w / 8) v))
      return c
    else if i % 2 = 1 then
      engWrite c false va (clean (leBytes 1 (c.acc.headD 0 + v * 16)))
      return { c with acc := [] }
    else if i + 1 = thElems c then
      let old ← engRead c false va 1
      engWrite c false va (old.map fun x => (BitVec.ofNat 8 (x.1.toNat / 16 * 16 + v), x.2))
      return c
    else return { c with acc := [v] }
  | 1 => return { c with acc := v :: c.acc }
  | _ =>
    let bit := fld c 32 8 * 8 + i / 64 * w
    let at_ := 98304 * (i % 64) + bit / 8
    let put := fun (bl : Block) =>
      if w ≥ 8 then { bl with slices := memWriteList bl.slices at_ (leBytes (w / 8) v) }
      else
        let old := (memRead bl.slices at_).toNat
        let b := if bit % 8 = 0 then old / 16 * 16 + v else old % 16 + v * 16
        { bl with slices := memWrite bl.slices at_ (BitVec.ofNat 8 b) }
    modify fun s => modTensorBlock s c put
    return c

/-- Columns packed in a row of a slot. -/
def packRow (w : Nat) : List Nat → Nat
  | [] => 0
  | v :: t => v + packRow w t * 2 ^ w

/-- Fills the slot of a kind 1 XEXPAND whose elements are all decoded, as JLD fills it at row 0 (R257, R345). -/
def expandFill (c : Command) (s : State) : State :=
  let cols := fld c 28 4
  let vs := c.acc.reverse
  let f := thFmt c
  let row := fun i => packRow (fmtWidth f) ((vs.drop (i * cols)).take cols)
  modTensorBlock s c fun bl =>
    let x := slotOf bl (fld c 25 1)
    withSlot bl (fld c 25 1) (fillSlot x 0 (thElems c / cols) f cols false row (fun _ => 0))

/-- One element of an XEXPAND, after its header (R344). -/
def xexpandUnit (c : Command) : EM (Option Command) := do
  if c.states.isEmpty then
    let c ← expandHeader c
    return some c
  else if thElems c ≤ c.done then
    if c.status = 0 && c.states.zipIdx.any fun x => x.1 != thCheck c x.2 then failWith 9
    else
      if fld c 24 1 = 1 && thElems c != 0 then modify (expandFill c)
      return none
  else
    let k := c.done % 32
    let x := c.states.getD k 0
    let (sym, cum) := symbolOf c (x % 4096) (thSyms c - 1) 0 0
    let y := thFreq c sym * (x / 4096) + x % 4096 - cum
    let (y, q) ← refill c 2 y c.word
    let c' ← expandPut c c.done (thValue c sym)
    return some { c' with
      states := c.states.set k y, word := q, done := c.done + 1, bytes := expandBytes c (c.done + 1) }

/-! ### XCOLL (R346, R347) -/

/-- The fields of an XCOLL. -/
def collOp (c : Command) : Nat := fld c 16 1
def collFmt (c : Command) : Nat := fld c 17 1
def collLevel (c : Command) : Nat := fld c 19 1
def collMembers (c : Command) : Nat := fld c 20 4
def collTag (c : Command) : Nat := fld c 32 8
/-- Elements of a chunk. -/
def collChunk (c : Command) : Nat := fld c 40 8 / collMembers c
/-- Member `k` of the list, which stands behind the 72 bytes of the block. -/
def collMember (c : Command) (k : Nat) : Nat := fld c (72 + 4 * k) 4
/-- Bytes of an element. -/
def collSize (c : Command) : Nat := if collFmt c = 1 then 2 else 4

/-- The member's rank, which an XCOLL keeps in `word` from its issue. -/
def collRank (c : Command) : Nat := c.word

/-- comb of R347: ADD rounded by RNE to the format, or wrapping; MAX and MIN by R221. -/
def collComb (c : Command) (x y : Nat) : Nat :=
  match collFmt c with
  | 0 => (combStep (fld c 18 1) 0 x y).bits
  | 1 => (combStep (fld c 18 1) 1 (x * 65536) (y * 65536)).bits / 65536
  | _ => (combStep (fld c 18 1) 2 x y).bits

/-- Values of a byte string of elements. -/
def elemsOf (size : Nat) : Nat → List Byte → List Nat
  | 0, _ => []
  | n + 1, bs => leValue (bs.take size) :: elemsOf size n (bs.drop size)

/-- A chunk of the send buffer; an all-gather's holds one chunk only. -/
def sendChunk (c : Command) (k : Nat) : EM (List Nat) := do
  let n := collChunk c
  let bs ← engUse c false (fld c 48 8 + k * n * collSize c) (n * collSize c)
  return elemsOf (collSize c) n bs

/-- Writes a chunk to place `k` of the receive buffer. -/
def putChunk (c : Command) (k : Nat) (vs : List Nat) : EM Unit :=
  engWrite c false (fld c 56 8 + k * collChunk c * collSize c) (clean (vs.flatMap (leBytes (collSize c))))

/-- Two blocks of one collective: equal but for the buffers, VAL and FLAGS (R347). -/
def sameColl (a b : Command) : Bool :=
  a.fn == 4 && b.fn == 4 && (a.block.drop 10).take 38 == (b.block.drop 10).take 38 && a.block.drop 72 == b.block.drop 72

/-- How many earlier commands of the same member carry the tag. -/
def collRound (s : State) (c : Command) : Nat :=
  (s.commands.filter fun x => sameColl x c && collRank x == collRank c && x.seq < c.seq).length

/-- The command of a member's ring predecessor in the same round. -/
def collPartner (s : State) (c : Command) : Option Command :=
  let r := (collRank c + collMembers c - 1) % collMembers c
  (s.commands.filter fun x => sameColl x c && collRank x == r)[collRound s c]?

/-- `n` free values: a chunk that a peer package sends. -/
def freeChunk : Nat → M (List Nat)
  | 0 => return []
  | n + 1 => do
    let x ← freeNat
    let rest ← freeChunk n
    return x % 2 ^ 32 :: rest

/-- The chunk the predecessor sends after its step `t` (R347). A peer package's is a free value. -/
def partnerChunk (c : Command) (t : Nat) : EM (List Nat) := do
  let n := collChunk c
  if collLevel c = 1 then
    let vs ← engLift (freeChunk n)
    return vs.map (· % 2 ^ (8 * collSize c))
  else
    let s ← get
    match collPartner s c with
    | none => hold
    | some p =>
      if p.acc.length < n * (t + 1) then
        (if p.state = .ended && p.status != 0 then failWith 13 else hold)
      else return (p.acc.drop (n * t)).take n

/-- The command after a ring step that leaves a chunk's values. -/
def collStep (c : Command) (vs : List Nat) (bytes : Nat) : Command :=
  { c with done := c.done + 1, acc := c.acc ++ vs, bytes := c.bytes + bytes }

/-- One ring step of a member (R347): step 0 takes its own chunk; the P − 1 steps of the reduction follow, then the P − 1
steps of the gathering. -/
def xcollUnit (c : Command) : EM (Option Command) := do
  let p := collMembers c
  let r := collRank c
  let n := collChunk c * collSize c
  let t := c.done
  if t = 0 then
    if collOp c = 1 then
      let vs ← sendChunk c 0
      putChunk c r vs
      return some (collStep c vs n)
    else
      let vs ← sendChunk c ((r + p - 1) % p)
      return some (collStep c vs 0)
  else if collOp c = 1 then
    if p ≤ t then return none
    else
      let vs ← partnerChunk c (t - 1)
      putChunk c ((r + p - t) % p) vs
      return some (collStep c vs n)
  else if t < p then
    let k := (r + 2 * p - 1 - t) % p
    let vs ← partnerChunk c (t - 1)
    let xs ← sendChunk c k
    let ys := List.zipWith (collComb c) vs xs
    if t + 1 = p then
      putChunk c (if collOp c = 0 then 0 else r) ys
      return some (collStep c ys n)
    else return some (collStep c ys 0)
  else if collOp c = 0 || 2 * p - 1 ≤ t then return none
  else
    let vs ← partnerChunk c (t - 1)
    putChunk c ((r + 2 * p - 1 - t) % p) vs
    return some (collStep c vs n)

end Sys2Proof.Machine
end

