-- ==== Sys2Proof/Machine/Migrate.lean ====
section
/-! DEFINITION. XSWAP (R399 to R401) and XMIG with its flip (R413 to R415), as units of their line order. -/

namespace Sys2Proof.Machine

open Sys2Proof.Config

/-- Log2 of the size a code names (R399, R413). -/
def sizeLog (code : Nat) : Nat :=
  match code with
  | 0 => 12
  | 1 => 16
  | _ => 21

/-- Whether two ranges of bytes meet. -/
def rangesMeet (a n b m : Nat) : Bool := decide (a < b + m) && decide (b < a + n)

/-- Whether a frame holds a pin (R398). -/
def framePinned (s : State) (a n : Nat) : Bool := s.pins.any fun p => rangesMeet a n p.backing 4096 || rangesMeet a n p.window 4096

/-- Whether a frame lies in a migration record. -/
def frameMigrates (s : State) (a n : Nat) : Bool := s.migs.any fun r => rangesMeet a n r.frame r.size

/-- Records of the Sill in use, of 256 (R400, R414). DEDUCED (log entry 51). -/
def sillRecords (s : State) : Nat := s.swaps.length + s.migs.length

/-- Slack holders of the lines of a range drawn, with their shares returned (R299, R397, R414, R420). -/
def drawPage (s : State) (pick : Nat → Bool) : State :=
  (dedup ((s.shims.filter fun h : Shim => pick h.line).map fun h : Shim => h.region)).foldl (fun s k => drawAll s k true) s

/-! ### XSWAP -/

/-- The fields of an XSWAP. -/
def swapA (c : Command) : Nat := localAddr (fld c 16 8)
def swapB (c : Command) : Nat := localAddr (fld c 24 8)
def swapSize (c : Command) : Nat := 2 ^ sizeLog (fld c 32 1)

/-- Whether a record names the frames of a command (R400). -/
def swapNames (c : Command) (r : SwapRec) : Bool :=
  r.size == swapSize c && ((r.a == swapA c && r.b == swapB c) || (r.a == swapB c && r.b == swapA c))

/-- Exchanges line `i` of a record's frames, with their poison, and sets its bit (R400). -/
def swapLine (s : State) (r : SwapRec) (i : Nat) : State :=
  let a := r.a + 128 * i
  let b := r.b + 128 * i
  let drawn := drawPage s fun l => rangesMeet (steer s l) 128 a 128 || rangesMeet (steer s l) 128 b 128
  let s := recallLines (recallLines drawn a 128) b 128
  let other := fun (x : Nat) =>
    if a ≤ x && x < a + 128 then x - a + b else if b ≤ x && x < b + 128 then x - b + a else x
  let bytesA := memReadList s.mem a 128
  let bytesB := memReadList s.mem b 128
  { rekey (fun k => some (other k)) s with
    mem := memWriteList (memWriteList s.mem a bytesB) b bytesA
    poison := s.poison.map fun w => other (8 * w) / 8
    swaps := s.swaps.map fun x => if x = r then { x with done := x.done ++ [i] } else x }

/-- The checks of an exchange before its first pair (R399, R400). -/
def swapStart (c : Command) : EM Command := do
  let s ← get
  let n := swapSize c
  let pinned := framePinned s (swapA c) n || framePinned s (swapB c) n
  let meets := fun (r : SwapRec) => [swapA c, swapB c].any fun x => rangesMeet x n r.a r.size || rangesMeet x n r.b r.size
  if !(backedDram s (swapA c) && backedDram s (swapB c)) then failWith 2
  else if pinned then failWith 14
  else if frameMigrates s (swapA c) n || frameMigrates s (swapB c) n || s.swaps.any (fun r => meets r && !swapNames c r) then
    failWith 15
  else if s.swaps.any (swapNames c) then return { c with word := 1 }
  else if 256 ≤ sillRecords s then failWith 16
  else
    let r : SwapRec := { a := swapA c, b := swapB c, size := n, done := [] }
    set { s with swaps := s.swaps ++ [r] }
    return { c with word := 1 }

/-- A retire (R401). -/
def swapRetire (c : Command) : EM (Option Command) := do
  let s ← get
  match s.swaps.find? (swapNames c) with
  | none => if c.word = 1 then return none else failWith 17
  | some r =>
    if r.done.length < r.size / 128 then failWith 15
    else
      set { s with swaps := s.swaps.filter fun x => !swapNames c x }
      return some { c with word := 1 }

/-- One line pair of an XSWAP (R400). DEDUCED (log entry 39). -/
def xswapUnit (c : Command) : EM (Option Command) := do
  if fld c 33 1 = 1 then swapRetire c
  else if c.word = 0 then
    let c ← swapStart c
    return some c
  else
    let s ← get
    match s.swaps.find? (swapNames c) with
    | none => return none
    | some r =>
      match (List.range (r.size / 128)).find? fun i => !r.done.contains i with
      | none => return none
      | some i =>
        if logsHold s c || engHeld s c (r.a + 128 * i) 128 || engHeld s c (r.b + 128 * i) 128 then hold
        else
          set (swapLine s r i)
          return some { c with done := c.done + 1, bytes := 128 * (c.done + 1) }

/-! ### XMIG -/

/-- The page name of an XMIG in domain form, its tag in the tables, its size, and the destination package. -/
def migName (s : State) (c : Command) : Nat := domainForm s (fld c 16 8 % 2 ^ 57)
def migTag (s : State) (c : Command) : Nat := migName s c + sizeLog (fld c 32 1)
def migSize (c : Command) : Nat := 2 ^ sizeLog (fld c 32 1)
def migDest (c : Command) : Nat := pkgField (fld c 24 8)

/-- The local frame of a page the package owns (R412). -/
def ownedFrame (s : State) (tag : Nat) : Option Nat :=
  let name := tag / 4096 * 4096
  match s.adoption.find? fun d => d.1 == tag with
  | some d => some d.2
  | none =>
    if pkgField name == s.pkg && !s.directory.any (fun d => tagHit d.1 name) && !s.adoption.any (fun d => tagHit d.1 name) then
      some (localAddr name)
    else none

/-- The checks of an XMIG, made before the copy begins, and its record (R413, R414). What the destination and a distant
origin answer is a free choice. DEDUCED (log entry 39). -/
def migStart (c : Command) : EM Command := do
  let s ← get
  let tag := migTag s c
  let n := migSize c
  match ownedFrame s tag with
  | none => failWith 18
  | some f =>
    let origin := pkgField (migName s c)
    if !backedDram s f then failWith 2
    else if framePinned s f n then failWith 14
    else if frameMigrates s f n || s.swaps.any (fun r => rangesMeet f n r.a r.size || rangesMeet f n r.b r.size) then failWith 15
    else if 256 ≤ sillRecords s || 4096 ≤ s.stubs.length || (origin == s.pkg && 65536 ≤ s.directory.length) then failWith 16
    else if ← engSilent c (migDest c) then failWith 12
    else
      let full ← engLift freeBit
      let refused ← engLift freeBit
      if full && origin != s.pkg then failWith 16
      else if refused then failWith 19
      else
        let r : MigRec := { name := tag, frame := f, size := n, dest := fld c 24 8, done := 0, ticket := c.seq }
        modify fun s =>
          let s := drawPage s fun l => rangesMeet (steer s l) 128 f n
          { recallLines s f n with migs := s.migs ++ [r] }
        return { c with word := 1 }

/-- The notices of a flip (R415): OWN to the destination, RETARGET to the origin and to the predecessor, and OWNER to every
package of the domain. -/
def flipNotices (s : State) (tag dest : Nat) : List Notice :=
  let name := tag / 4096 * 4096
  let note := fun (k : NoticeKind) (p : Nat) => ({ kind := k, dest := p, name := tag, owner := dest } : Notice)
  let told := dedup ((if pkgField name = s.pkg then [] else [pkgField name]) ++ (s.predecessors.filter fun x => x.1 == tag).map (·.2))
  note .own dest :: told.map (note .retarget) ++ (s.members.filter (· != s.pkg)).map (note .owner)

/-- The flip (R415): the mirrored writes have reached the destination's frame, ownership passes, a stub names the destination,
the notices go out, and the requests held for the page are forwarded; one that had arrived forwarded, or that is held for a
MARK, is answered RETRY (R416). DEDUCED (log entry 39). -/
def migFlip (s : State) (c : Command) : State :=
  let tag := migTag s c
  let name := migName s c
  let dest := fld c 24 8
  let mine := fun (q : PeerReq) => tagHit tag q.addr
  let fwd := s.heldReqs.filter fun q => mine q && q.mark.isNone && !q.forwarded
  let stub : Stub :=
    { name := tag, size := migSize c, target := migDest c, rt := false, born := s.time, acks := [], forwards := fwd.length }
  let s' := { cacheOwner s tag (migDest c) with
    adoption := s.adoption.filter fun d => d.1 != tag
    predecessors := s.predecessors.filter fun d => d.1 != tag
    sentTo := (s.sentTo.filter fun d => d.1 != tag) ++ [(tag, dest)]
    notices := s.notices ++ flipNotices s tag (migDest c)
    directory := if pkgField name = s.pkg then s.directory ++ [(tag, migDest c)] else s.directory
    stubs := (s.stubs.filter fun x => x.name != tag) ++ [stub]
    migs := s.migs.filter fun r => r.ticket != c.seq
    served := s.served.filter fun x => !tagHit tag (4096 * x.2.1)
    heldReqs := s.heldReqs.filter fun q => !mine q }
  relocate s s' name (migSize c)

/-- Line `i` of a migrating page reaches the destination's frame, and with it the writes to the lines before it that have been
mirrored since (R414). -/
def migLine (s : State) (r : MigRec) (i : Nat) : State := copyKeys s r.frame r.dest (128 * (i + 1))

/-- One line of an XMIG's copy, or its flip (R414, R415). DEDUCED (log entry 39). -/
def xmigUnit (c : Command) : EM (Option Command) := do
  if c.word = 0 then
    let c ← migStart c
    return some c
  else if c.word = 2 then return none
  else
    let s ← get
    if logsHold s c then hold
    else if ← engSilent c (migDest c) then failWith 12
    else if c.done < migSize c / 128 then
      let step := fun (r : MigRec) => if r.ticket = c.seq then { r with done := c.done + 1 } else r
      modify fun s =>
        let s := ((s.migs.find? fun r => r.ticket == c.seq).elim s fun r => migLine s r c.done)
        { s with migs := s.migs.map step }
      return some { c with done := c.done + 1, bytes := c.bytes + 128 }
    else
      set (migFlip s c)
      return some { c with word := 2 }

/-- A failure or XCANCEL before the flip removes the record; the destination frame's contents are unspecified (R415).
DESIGN CHOICE (log entry 48). -/
def migAbandon (s : State) (c : Command) : State :=
  match s.migs.find? fun r => c.fn = 65 && r.ticket == c.seq with
  | none => s
  | some r => openStorage { s with migs := s.migs.filter fun x => x.ticket != c.seq } r.dest r.size

end Sys2Proof.Machine
end

