-- ==== Sys2Proof/Machine/Peer.lean ====
section
/-! DEFINITION. Requests and notices between packages (R410 to R418), at this package, as steps of their own. -/

namespace Sys2Proof.Machine

open Sys2Proof.Config

/-- Log2 of a page size in bytes (R413). -/
def pageLog (size : Nat) : Option Nat :=
  match size with
  | 4096 => some 12
  | 65536 => some 16
  | 2097152 => some 21
  | _ => none

/-- Whether this package owns the page of an address in domain form (R412). -/
def ownsPage (s : State) (name : Nat) : Bool :=
  s.adoption.any (fun d => tagHit d.1 name) || (pkgField name == s.pkg && !s.directory.any fun d => tagHit d.1 name)

/-- The stub of a page (R416). -/
def stubOf (s : State) (name : Nat) : Option Stub := s.stubs.find? fun x => tagHit x.name name

/-- Whether the flip of a page's migration has begun: requests are held (R415 step 1). -/
def flipping (s : State) (name : Nat) : Bool := s.migs.any fun r => tagHit r.name name && r.size / 128 ≤ r.done

/-- An atomic of another party, by the codes of R279, at the home of its word (R277, R278, R404). A poisoned word is answered
with poison and stays as it is (R435). -/
def serveAtomic (s : State) (pa op : Nat) (w64 : Bool) (operand expected : Nat) : State :=
  let n := atomBytes w64
  if anyPoison s pa n then s
  else
    let s := homeAccess (drainForStore s pa n) none .homeWrite (keysOf s pa n)
    let old := physLoad s pa n
    let x := operand % 2 ^ atomicWidth w64
    let e := expected % 2 ^ atomicWidth w64
    if atomicWrites op old e then physStore s pa (leBytes n (atomicNew op (atomicWidth w64) old x e).bits) else s

/-- A request served at the page's place (R188, R416). -/
def servePeer (s : State) (q : PeerReq) : State :=
  match q.op with
  | .read n => pullBytes s q.addr n
  | .write bs => physStore (drainForStore s q.addr bs.length) q.addr bs
  | .atomic op w64 x e => serveAtomic s q.addr op.toNat w64 x.toNat e.toNat

/-- Bytes of a request. -/
def PeerOp.size : PeerOp → Nat
  | .read n => n
  | .write bs => bs.length
  | .atomic _ w64 _ _ => atomBytes w64

/-- Whether a request can be served: it lies in one page, an atomic is aligned (R278), and its lines are not held (R286,
R420). -/
def servable (s : State) (q : PeerReq) : Bool :=
  let n := q.op.size
  n != 0 && q.addr % 4096 + n ≤ 4096 && !outsideHeld s q.addr n &&
    match q.op with
    | .atomic op w64 _ _ => op.toNat < 11 && q.addr % atomBytes w64 == 0
    | _ => true

/-- Whether a request must wait for the forwarded request its MARK names (R417). -/
def markWaits (s : State) (q : PeerReq) : Bool :=
  match q.mark with
  | none => false
  | some m => !s.served.any fun x => x.1 == q.peer && x.2.2 == m && samePage s (4096 * x.2.1) q.addr

/-- A forwarded request has been served: of its requester's forwarded requests to the page it is the last (R410, R417). -/
def noteServed (s : State) (source addr seq : Nat) : State :=
  { s with served := (s.served.filter fun x => !(x.1 == source && samePage s (4096 * x.2.1) addr)) ++ [(source, addr / 4096, seq)] }

/-- Serves the held requests of the pages this package owns and is not flipping that no longer wait for a MARK, in arrival
order (R415, R417). -/
def serveHeld (s : State) : State :=
  let ready := s.heldReqs.filter fun q => ownsPage s q.addr && !flipping s q.addr && !markWaits s q
  { ready.foldl servePeer s with heldReqs := s.heldReqs.filter fun q => !ready.contains q }

/-- What becomes of the records of an XMIG that fails or is cancelled: its record goes, and the requests held for its flip are
served, since the owner stays owner (R415). -/
def migRelease (s : State) (c : Command) : State := if c.fn = 65 then serveHeld (migAbandon s c) else s

/-- What a request asks: a read of a number of bytes, a write of bytes, or an atomic. -/
def peerOp : Nat ⊕ List Byte ⊕ (BitVec 4 × Bool × BitVec 64 × BitVec 64) → PeerOp
  | .inl n => .read n
  | .inr (.inl bs) => .write bs
  | .inr (.inr (op, w64, x, e)) => .atomic op w64 x e

/-- PEER_REQUEST (R404, R416, R417): the first row that applies. DEDUCED (log entry 50). -/
def execPeerRequest (source seq addr : Nat) (asks : Nat ⊕ List (BitVec 8) ⊕ (BitVec 4 × Bool × BitVec 64 × BitVec 64))
    (forwarded : Bool) (mark : Option Nat) (s : State) : Result :=
  runEvent (do
    let s ← get
    let q : PeerReq :=
      { peer := source, seq := seq, addr := addr, op := peerOp asks, mark := mark, who := 0, retries := 0,
        answered := false, refused := false, forwarded := forwarded }
    if ownsPage s addr then
      if !servable s q then noPart
      else if flipping s addr || markWaits s q then set { s with heldReqs := s.heldReqs ++ [q] }
      else
        let s := servePeer s q
        let s := if forwarded then noteServed s source addr seq else s
        set (serveHeld s)
    else if forwarded then return ()
    else
      match stubOf s addr with
      | some x =>
        let fwd := fun (y : Stub) => if y = x then { y with forwards := y.forwards + 1 } else y
        set { s with stubs := s.stubs.map fwd }
      | none => return ()) s

/-- OWN (R415 step 3): the destination installs its adoption entry, which names its predecessor, and begins to serve; which
package has sent it is a free value. A page that comes home to its own frame leaves no entry. DEDUCED (log entry 50). -/
def execOwn (name frame size : Nat) (s : State) : Result :=
  runEvent (do
    let s ← get
    match pageLog size with
    | none => noPart
    | some k =>
      let tag := name / size * size + k
      let home := pkgField name == s.pkg && localAddr name / size == frame / size
      if ownsPage s name || (!home && 4096 ≤ s.adoption.length) then noPart
      else
        let from' ← freeNat
        let s' := { s with
          directory := s.directory.filter fun d => !tagHit d.1 name
          adoption := if home then s.adoption else s.adoption ++ [(tag, frame / size * size)]
          predecessors := (s.predecessors.filter fun d => d.1 != tag) ++ (if home then [] else [(tag, from' % 1024)])
          sentTo := s.sentTo.filter fun d => !tagHit d.1 name
          served := s.served.filter fun x => !tagHit tag (4096 * x.2.1)
          fresh := s.fresh + 1 }
        set (relocate s s' (name / size * size) size)) s

/-- RETARGET (R415 step 5): the origin updates its directory and its stub, a predecessor its stub; RT is set. One that names
the origin itself tells it that the page's frame is free, and removes its entry (R418). DEDUCED (log entry 50). -/
def execRetarget (name owner : Nat) (s : State) : Result :=
  runEvent (do
    let s ← get
    let aim := fun (x : Stub) => if tagHit x.name name then { x with target := owner, rt := true } else x
    let point := fun (d : Nat × Nat) => if tagHit d.1 name then (d.1, owner) else d
    let left := s.directory.filter fun d => !(tagHit d.1 name && owner == s.pkg)
    let s' := { s with
      stubs := s.stubs.map aim, directory := left.map point, sentTo := s.sentTo.filter fun d => !tagHit d.1 name }
    match s.directory.find? fun d => tagHit d.1 name with
    | some d => set (relocate s s' (d.1 / 4096 * 4096) (2 ^ (d.1 % 4096)))
    | none => if (stubOf s name).isSome then set s' else noPart) s

/-- The tag of a page that a message names: its low twelve bits hold the log2 of the page's size, 0 for 4 KiB (R412). -/
def nameTag (name : Nat) : Nat :=
  let k := if name % 4096 = 16 || name % 4096 = 21 then name % 4096 else 12
  name / 2 ^ k * 2 ^ k + k

/-- Whether this package has requests outstanding to a page (R417). -/
def pageBusy (s : State) (name : Nat) : Bool := s.outReqs.any fun q => isOpen q && tagHit (nameTag name) q.addr

/-- OWNER (R417): a package updates its owner cache once none of its requests to the page is outstanding, and
acknowledges to `source`. -/
def execOwner (name owner source : Nat) (s : State) : Result :=
  runEvent (do
    let s ← get
    if pageBusy s name || source = s.pkg then noPart
    else
      let ack : Notice := { kind := .ownerAck, dest := source, name := nameTag name, owner := owner }
      set { cacheOwner s (nameTag name) owner with notices := s.notices ++ [ack] }) s

/-- OWNER_ACK (R418): the old owner counts an acknowledgement, and frees its stub when every other package of the domain has
sent one and no request it forwarded is unanswered; how many of those are is a free choice. DEDUCED (log entry 50). -/
def execOwnerAck (name package : Nat) (s : State) : Result :=
  runEvent (do
    let s ← get
    match stubOf s name with
    | none => noPart
    | some x =>
      let left ← if x.forwards = 0 then pure 0 else freeBelow (x.forwards + 1)
      let y := { x with acks := dedup (x.acks ++ [package]), forwards := left }
      let s ← get
      if s.members.length - 1 ≤ y.acks.length && left = 0 then set { s with stubs := s.stubs.filter fun z => z != x }
      else set { s with stubs := s.stubs.map fun z => if z = x then y else z }) s

/-- STUB_TIMEOUT (R418): a stub is freed 250 ms after its installation. -/
def execStubTimeout (name : Nat) (s : State) : Result :=
  runEvent (do
    let s ← get
    match stubOf s name with
    | none => noPart
    | some x => set { s with stubs := s.stubs.filter fun z => z != x }) s

/-- REDIRECT (R417): later requests go to the owner named; with requests outstanding elsewhere they carry MARK, the number
of the last one, and the owner cache is updated only when those have completed. DEDUCED (log entry 50). -/
def execRedirect (name owner : Nat) (s : State) : Result :=
  runEvent (do
    let s ← get
    match ((s.outReqs.filter fun q => isOpen q && tagHit (nameTag name) q.addr).map (·.seq)).getLast? with
    | some m =>
      let others := s.redirects.filter fun (x : Nat × Nat × Nat) => !tagHit x.1 name
      set { s with redirects := others ++ [(nameTag name, owner, m)] }
    | none => set (cacheOwner s (nameTag name) owner)) s

/-- An outstanding request, by its number. -/
def openRequest (s : State) (n : Nat) : Option PeerReq := (s.outReqs[n]?).filter isOpen

/-- Whether a failed request may go out again: after a RETRY only once every other request to the page has completed, failed or
been refused, and the refused ones in the order of their numbers (R417). -/
def mayResend (s : State) (n : Nat) (q : PeerReq) : Bool :=
  q.retries != 0 && (!q.refused || s.outReqs.zipIdx.all fun (x, j) =>
    j == n || !isOpen x || !samePage s x.addr q.addr || (if j < n then !x.refused && x.retries != 0 else x.refused))

/-- A package of the domain, by a free choice. -/
def freeMember : M Nat := do
  let k ← freeNat
  let s ← get
  return s.members.getD (k % s.members.length) s.pkg

/-- PEER_REQUEST_TIMEOUT (R411): a request unanswered after 20 µs, or answered RETRY, a free choice, has failed once more; the
ninth failure ends its access. A RETRY carries the owner's number or none (R416). DEDUCED (log entry 50). -/
def execPeerRequestTimeout (request : Nat) (s : State) : Result :=
  runEvent (do
    let s ← get
    match openRequest s request with
    | none => noPart
    | some q =>
      let retry ← freeBit
      let given ← if retry then freeBit else pure false
      let owner ← freeMember
      let q' := { q with retries := q.retries + 1, refused := retry, named := if given then some owner else none }
      modify fun s => { s with outReqs := s.outReqs.set request q' }) s

/-- The package to which a failed request goes next (R412, R416): the one its RETRY has named; after a RETRY without a number
the one that the origin's directory names, which is this package's own directory or another's answer; else the owner as
this package knows it. -/
def resendTo (s : State) (q : PeerReq) (answer : Nat) : Nat :=
  if !q.refused || isHost q.addr then (requestTarget s q.addr).1
  else
    match q.named with
    | some p => p
    | none =>
      if pkgField (nameOf s q.addr) = s.pkg then
        ((s.directory.find? fun d => tagHit d.1 (nameOf s q.addr)).map (·.2)).getD s.pkg
      else answer

/-- PEER_RETRY_RESEND (R411, R416, R417): a failed request goes out again after its backoff; whether it is answered is a free
choice. DEDUCED (log entry 50). -/
def execPeerRetryResend (request : Nat) (s : State) : Result :=
  runEvent (do
    let s ← get
    match openRequest s request with
    | none => noPart
    | some q =>
      if !mayResend s request q then noPart
      else
        let yes ← freeBit
        let answer ← freeMember
        modify fun s => { s with
          outReqs := s.outReqs.set request { q with peer := resendTo s q answer, answered := yes, refused := false, named := none } }) s

end Sys2Proof.Machine
end

