-- ==== Sys2Proof/Machine/Crypto.lean ====
section
/-! DEFINITION. The standard functions that R421 to R423 name: SHA-384 (FIPS 180-4), HMAC and HKDF over it (RFC 2104, RFC 5869),
AES-256-GCM (FIPS 197, SP 800-38D), and ECDH and ECDSA on P-384 (SP 800-56A, FIPS 186). The spec names them and the standards
give them; their constants are the standards'. PRESUMED (log entry 11). -/

namespace Sys2Proof.Machine

/-- The number of a big-endian byte string. -/
def beNat (bs : List Byte) : Nat := bs.foldl (fun a b => 256 * a + b.toNat) 0

/-- The `n` bytes of a number, the highest first. -/
def beString : Nat → Nat → List Byte
  | 0, _ => []
  | n + 1, v => BitVec.ofNat 8 (v >>> (8 * n)) :: beString n v

/-- The first `n` pieces of `size` entries of a list. -/
def splitEvery {α : Type} (size : Nat) : Nat → List α → List (List α)
  | 0, _ => []
  | n + 1, xs => xs.take size :: splitEvery size n (xs.drop size)

/-! ### SHA-384 -/

/-- The 80 round constants of SHA-384. -/
def shaConstants : List Nat :=
  [0x428a2f98d728ae22, 0x7137449123ef65cd, 0xb5c0fbcfec4d3b2f, 0xe9b5dba58189dbbc,
   0x3956c25bf348b538, 0x59f111f1b605d019, 0x923f82a4af194f9b, 0xab1c5ed5da6d8118,
   0xd807aa98a3030242, 0x12835b0145706fbe, 0x243185be4ee4b28c, 0x550c7dc3d5ffb4e2,
   0x72be5d74f27b896f, 0x80deb1fe3b1696b1, 0x9bdc06a725c71235, 0xc19bf174cf692694] ++
  [0xe49b69c19ef14ad2, 0xefbe4786384f25e3, 0x0fc19dc68b8cd5b5, 0x240ca1cc77ac9c65,
   0x2de92c6f592b0275, 0x4a7484aa6ea6e483, 0x5cb0a9dcbd41fbd4, 0x76f988da831153b5,
   0x983e5152ee66dfab, 0xa831c66d2db43210, 0xb00327c898fb213f, 0xbf597fc7beef0ee4,
   0xc6e00bf33da88fc2, 0xd5a79147930aa725, 0x06ca6351e003826f, 0x142929670a0e6e70] ++
  [0x27b70a8546d22ffc, 0x2e1b21385c26c926, 0x4d2c6dfc5ac42aed, 0x53380d139d95b3df,
   0x650a73548baf63de, 0x766a0abb3c77b2a8, 0x81c2c92e47edaee6, 0x92722c851482353b,
   0xa2bfe8a14cf10364, 0xa81a664bbc423001, 0xc24b8b70d0f89791, 0xc76c51a30654be30,
   0xd192e819d6ef5218, 0xd69906245565a910, 0xf40e35855771202a, 0x106aa07032bbd1b8] ++
  [0x19a4c116b8d2d0c8, 0x1e376c085141ab53, 0x2748774cdf8eeb99, 0x34b0bcb5e19b48a8,
   0x391c0cb3c5c95a63, 0x4ed8aa4ae3418acb, 0x5b9cca4f7763e373, 0x682e6ff3d6b2b8a3,
   0x748f82ee5defb2fc, 0x78a5636f43172f60, 0x84c87814a1f0ab72, 0x8cc702081a6439ec,
   0x90befffa23631e28, 0xa4506cebde82bde9, 0xbef9a3f7b2c67915, 0xc67178f2e372532b] ++
  [0xca273eceea26619c, 0xd186b8c721c0c207, 0xeada7dd6cde0eb1e, 0xf57d4f7fee6ed178,
   0x06f067aa72176fba, 0x0a637dc5a2c898a6, 0x113f9804bef90dae, 0x1b710b35131c471b,
   0x28db77f523047d84, 0x32caab7b40c72493, 0x3c9ebe0a15c9bebc, 0x431d67c49c100d4c,
   0x4cc5d4becb3e42b6, 0x597f299cfc657e2a, 0x5fcb6fab3ad6faec, 0x6c44198c4a475817]

/-- The initial hash value of SHA-384. -/
def shaStart : List Nat :=
  [0xcbbb9d5dc1059ed8, 0x629a292a367cd507, 0x9159015a3070dd17, 0x152fecd8f70e5939,
   0x67332667ffc00b31, 0x8eb44a8768581511, 0xdb0c2e0d64f98fa7, 0x47b5481dbefa4fa4]

/-- A 64-bit word rotated to the right. -/
def rotr64 (x n : Nat) : Nat := (x >>> n ||| x <<< (64 - n)) % 2 ^ 64

/-- The functions of the message schedule. -/
def shaSmall0 (x : Nat) : Nat := rotr64 x 1 ^^^ rotr64 x 8 ^^^ x >>> 7
def shaSmall1 (x : Nat) : Nat := rotr64 x 19 ^^^ rotr64 x 61 ^^^ x >>> 6

/-- The functions of a round. -/
def shaBig0 (x : Nat) : Nat := rotr64 x 28 ^^^ rotr64 x 34 ^^^ rotr64 x 39
def shaBig1 (x : Nat) : Nat := rotr64 x 14 ^^^ rotr64 x 18 ^^^ rotr64 x 41
def shaChoose (x y z : Nat) : Nat := (x &&& y) ^^^ ((2 ^ 64 - 1 - x) &&& z)
def shaMajority (x y z : Nat) : Nat := (x &&& y) ^^^ (x &&& z) ^^^ (y &&& z)

/-- The message schedule: `n` words more, the last word first. -/
def shaSchedule : Nat → List Nat → List Nat
  | 0, w => w
  | n + 1, w =>
    shaSchedule n ((shaSmall1 (w.getD 1 0) + w.getD 6 0 + shaSmall0 (w.getD 14 0) + w.getD 15 0) % 2 ^ 64 :: w)

/-- A round over the eight working variables, with the constant and the word of the schedule. -/
def shaRound (v : List Nat) (kw : Nat × Nat) : List Nat :=
  match v with
  | [a, b, c, d, e, f, g, h] =>
    let t1 := h + shaBig1 e + shaChoose e f g + kw.1 + kw.2
    let t2 := shaBig0 a + shaMajority a b c
    [(t1 + t2) % 2 ^ 64, a, b, c, (d + t1) % 2 ^ 64, e, f, g]
  | _ => v

/-- One block of 128 bytes. -/
def shaBlock (h : List Nat) (block : List Byte) : List Nat :=
  let w := (shaSchedule 64 ((splitEvery 8 16 block).map beNat).reverse).reverse
  (h.zip ((shaConstants.zip w).foldl shaRound h)).map fun x => (x.1 + x.2) % 2 ^ 64

/-- The padded message, a multiple of 128 bytes. -/
def shaPadded (m : List Byte) : List Byte :=
  m ++ [0x80] ++ List.replicate ((239 - m.length % 128) % 128) 0 ++ beString 16 (8 * m.length)

/-- SHA-384 of a byte string (R421, R422). -/
def sha384 (m : List Byte) : BitVec 384 :=
  let p := shaPadded m
  let h := (splitEvery 128 (p.length / 128) p).foldl shaBlock shaStart
  BitVec.ofNat 384 (beNat ((h.take 6).flatMap (beString 8)))

/-- The bytes of a hash. -/
def hashBytes (h : BitVec 384) : List Byte := beString 48 h.toNat

/-! ### HKDF -/

/-- Exclusive or of two byte strings. -/
def xorBytes (a b : List Byte) : List Byte := a.zipWith (· ^^^ ·) b

/-- HMAC-SHA-384. -/
def hmacSha384 (key m : List Byte) : List Byte :=
  let k := if 128 < key.length then hashBytes (sha384 key) else key
  let k := k ++ List.replicate (128 - k.length) 0
  hashBytes (sha384 (k.map (· ^^^ 0x5C) ++ hashBytes (sha384 (k.map (· ^^^ 0x36) ++ m))))

/-- HKDF-SHA-384 of IKM, salt and info, with 32 bytes of output: one block of the expansion (R422). -/
def hkdfSha384 (ikm salt info : List Byte) : List Byte :=
  (hmacSha384 (hmacSha384 salt ikm) (info ++ [0x01])).take 32

/-! ### AES-256-GCM -/

/-- Doubling in the field of AES. -/
def aesDouble (x : Nat) : Nat := if x < 128 then 2 * x else (2 * x) % 256 ^^^ 0x1B

/-- The product of `n`-bit `b` with `a` in the field of AES. -/
def aesTimes : Nat → Nat → Nat → Nat
  | 0, _, _ => 0
  | n + 1, a, b => (if b % 2 = 1 then a else 0) ^^^ aesTimes n (aesDouble a) (b / 2)

/-- The inverse in the field of AES: the power 254. -/
def aesInverse (x : Nat) : Nat :=
  let square := fun y => aesTimes 8 y y
  let step := fun y => aesTimes 8 (square y) x
  square (step (step (step (step (step (step x))))))

/-- SubBytes of one byte. -/
def aesSub (x : Nat) : Nat :=
  let y := aesInverse x
  let turn := fun n => (y <<< n ||| y >>> (8 - n)) % 256
  y ^^^ turn 1 ^^^ turn 2 ^^^ turn 3 ^^^ turn 4 ^^^ 0x63

/-- Exclusive or of two lists of bytes. -/
def xorNats (a b : List Nat) : List Nat := a.zipWith (· ^^^ ·) b

/-- The key expansion of AES-256: `n` words more after word `i` − 1, the last word first. -/
def aesExpand : Nat → Nat → Nat → List (List Nat) → List (List Nat)
  | 0, _, _, w => w
  | n + 1, i, rcon, w =>
    let last := w.headD []
    let t :=
      if i % 8 = 0 then xorNats ((last.drop 1 ++ last.take 1).map aesSub) [rcon, 0, 0, 0]
      else if i % 8 = 4 then last.map aesSub
      else last
    aesExpand n (i + 1) (if i % 8 = 0 then aesDouble rcon else rcon) (xorNats (w.getD 7 []) t :: w)

/-- The 15 round keys of a key of 32 bytes. -/
def aesKeys (key : List Byte) : List (List Nat) :=
  let w := (aesExpand 52 8 1 (splitEvery 4 8 (key.map (·.toNat))).reverse).reverse
  (splitEvery 4 15 w).map fun k => k.flatMap id

/-- ShiftRows: the state lists its columns in turn. -/
def aesShift (s : List Nat) : List Nat := (List.range 16).map fun i => s.getD ((i + 4 * (i % 4)) % 16) 0

/-- MixColumns of one column. -/
def aesMix (c : List Nat) : List Nat :=
  (List.range 4).map fun i =>
    aesDouble (c.getD i 0) ^^^ aesDouble (c.getD ((i + 1) % 4) 0) ^^^ c.getD ((i + 1) % 4) 0 ^^^ c.getD ((i + 2) % 4) 0 ^^^
      c.getD ((i + 3) % 4) 0

/-- One of the first 13 rounds. -/
def aesRound (s k : List Nat) : List Nat :=
  xorNats ((splitEvery 4 4 (aesShift (s.map aesSub))).flatMap aesMix) k

/-- The cipher over one block of 16 bytes. -/
def aesBlock (keys : List (List Nat)) (block : List Byte) : List Byte :=
  let s := xorNats (block.map (·.toNat)) (keys.headD [])
  let s := ((keys.drop 1).take 13).foldl aesRound s
  (xorNats (aesShift (s.map aesSub)) (keys.getD 14 [])).map (BitVec.ofNat 8)

/-- The product in the field of GHASH: `n` bits of `x` from bit `n` − 1 down, with `v`. -/
def ghashTimes : Nat → Nat → Nat → Nat
  | 0, _, _ => 0
  | n + 1, x, v =>
    (if x.testBit n then v else 0) ^^^ ghashTimes n x (if v % 2 = 1 then v / 2 ^^^ 0xE1 * 2 ^ 120 else v / 2)

/-- A byte string with zeros up to a multiple of 16 bytes. -/
def paddedTo16 (bs : List Byte) : List Byte := bs ++ List.replicate ((16 - bs.length % 16) % 16) 0

/-- The pieces of 16 bytes of a byte string, the last as long as it is. -/
def blocks16 (bs : List Byte) : List (List Byte) := splitEvery 16 ((bs.length + 15) / 16) bs

/-- GHASH under the hash subkey `h`. -/
def ghash (h : Nat) (bs : List Byte) : Nat :=
  (blocks16 bs).foldl (fun y b => ghashTimes 128 (y ^^^ beNat b) h) 0

/-- The counter blocks' key stream over a text, from count `n` on. -/
def gcmStream (keys : List (List Nat)) (nonce text : List Byte) : List Byte :=
  (blocks16 text).zipIdx.flatMap fun x => xorBytes x.1 (aesBlock keys (nonce ++ beString 4 (x.2 + 2)))

/-- The tag over AAD and ciphertext. -/
def gcmTag (keys : List (List Nat)) (nonce aad text : List Byte) : List Byte :=
  let h := beNat (aesBlock keys (List.replicate 16 0))
  let y := ghash h (paddedTo16 aad ++ paddedTo16 text ++ beString 8 (8 * aad.length) ++ beString 8 (8 * text.length))
  xorBytes (aesBlock keys (nonce ++ beString 4 1)) (beString 16 y)

/-- AES-256-GCM under key, nonce of 12 bytes, AAD and plaintext: the ciphertext and the tag (R422). -/
def aesGcm (key nonce aad plain : List Byte) : List Byte × List Byte :=
  let keys := aesKeys key
  let text := gcmStream keys nonce plain
  (text, gcmTag keys nonce aad text)

/-- AES-256-GCM opening under key, nonce, AAD, ciphertext and tag: the plaintext if the tag verifies (R422). -/
def aesGcmOpen (key nonce aad text tag : List Byte) : Option (List Byte) :=
  let keys := aesKeys key
  if gcmTag keys nonce aad text = tag then some (gcmStream keys nonce text) else none

/-! ### P-384 -/

/-- The field's prime. -/
abbrev p384Prime : Nat := 2 ^ 384 - 2 ^ 128 - 2 ^ 96 + 2 ^ 32 - 1

/-- The curve's coefficient b; its a is −3. -/
abbrev p384B : Nat :=
  0xb3312fa7e23ee7e4988e056be3f82d19181d9c6efe8141120314088f5013875ac656398d8a2ed19d2a85c8edd3ec2aef

/-- The order of the base point. -/
abbrev p384Order : Nat :=
  0xffffffffffffffffffffffffffffffffffffffffffffffffc7634d81f4372ddf581a0db248b0a77aecec196accc52973

/-- The base point. -/
def p384Base : Nat × Nat :=
  (0xaa87ca22be8b05378eb1c71ef320ad746e1d3b628ba79b9859f741e082542a385502f25dbf55296c3a545e3872760ab7,
   0x3617de4a96262c6f5d9e98bf9292dc29f8f41dbd289a147ce9da3113b5f0b8c00a60b1ce1d7e819d7a431d7c90ea0e5f)

/-- The power with an exponent of `n` bits, modulo `m`. -/
def powMod (m : Nat) : Nat → Nat → Nat → Nat
  | 0, _, _ => 1
  | n + 1, x, e => (if e % 2 = 1 then x else 1) * powMod m n (x * x % m) (e / 2) % m

/-- The inverse modulo a prime of 384 bits. -/
def invMod (m x : Nat) : Nat := powMod m 384 (x % m) (m - 2)

/-- The difference modulo `m`. -/
def subMod (m x y : Nat) : Nat := (x + (m - y % m)) % m

/-- The sum of two points; `none` is the point at infinity. -/
def p384Add (a b : Option (Nat × Nat)) : Option (Nat × Nat) :=
  match a, b with
  | none, b => b
  | a, none => a
  | some (x, y), some (u, v) =>
    let sub := subMod p384Prime
    if x = u && (y + v) % p384Prime = 0 then none
    else
      let l :=
        if x = u then sub (3 * x * x) 3 * invMod p384Prime (2 * y) else sub v y * invMod p384Prime (sub u x)
      let w := sub (l * l) (x + u)
      some (w, sub (l * sub x w) y)

/-- The multiple of a point by `n` bits of `k`. -/
def p384Times : Nat → Nat → Option (Nat × Nat) → Option (Nat × Nat)
  | 0, _, _ => none
  | n + 1, k, a => p384Add (if k % 2 = 1 then a else none) (p384Times n (k / 2) (p384Add a a))

/-- The private key a byte string stands for, 1 to n − 1. -/
def p384Scalar (bs : List Byte) : Nat := beNat bs % (p384Order - 1) + 1

/-- A point as R421 writes a public key: x then y, 48 bytes each. -/
def pointBytes : Option (Nat × Nat) → List Byte
  | some (x, y) => beString 48 x ++ beString 48 y
  | none => List.replicate 96 0

/-- The point of a public key. -/
def pointOf (bs : List Byte) : Nat × Nat := (beNat (bs.take 48), beNat ((bs.take 96).drop 48))

/-- Whether a point lies on the curve. -/
def onCurve (a : Nat × Nat) : Bool :=
  a.1 < p384Prime && a.2 < p384Prime &&
    subMod p384Prime (a.1 * a.1 * a.1 + p384B) (3 * a.1) == a.2 * a.2 % p384Prime

/-- The P-384 public key, x then y, of a private key (R421). -/
def publicKey (key : List Byte) : List Byte := pointBytes (p384Times 384 (p384Scalar key) (some p384Base))

/-- The x-coordinate of ECDH on P-384 of a private key and a public key (R422). -/
def ecdhP384 (key pub : List Byte) : List Byte := (pointBytes (p384Times 384 (p384Scalar key) (some (pointOf pub)))).take 48

/-- The ECDSA P-384 signature, r then s, of a message under a private key, with the signer's secret number (R421, R423). -/
def ecdsaSign (key m secret : List Byte) : List Byte :=
  let k := p384Scalar secret
  let r := beNat ((pointBytes (p384Times 384 k (some p384Base))).take 48) % p384Order
  let e := (sha384 m).toNat
  beString 48 r ++ beString 48 (invMod p384Order k * (e + r * p384Scalar key) % p384Order)

/-- Whether an ECDSA P-384 signature verifies under a public key (R424). -/
def ecdsaVerify (pub m sig : List Byte) : Bool :=
  let q := pointOf pub
  let r := beNat (sig.take 48)
  let s := beNat ((sig.take 96).drop 48)
  let w := invMod p384Order s
  let x := p384Add (p384Times 384 ((sha384 m).toNat * w % p384Order) (some p384Base))
    (p384Times 384 (r * w % p384Order) (some q))
  onCurve q && 0 < r && r < p384Order && 0 < s && s < p384Order && x.any fun a => a.1 % p384Order == r

end Sys2Proof.Machine
end

