-- ==== Sys2Proof/Machine/Seal.lean ====
section
/-! DEFINITION. XSEAL (R419 to R425): the seal and the restore of a wing as units of their steps, and Heartwood's counters
and leases, at this package as holder. -/

namespace Sys2Proof.Config

open Sys2Proof.Machine

/-- FREE VALUE: the raisings whose bents a restored image holds, with those bents and their strands. R369 gives a saved
context its sizes, and no rule gives its layout or its place in the wing (log entry 40). -/
opaque restoredWork : Nat → List (Raising × List (Bent × List Strand))

end Sys2Proof.Config

namespace Sys2Proof.Machine

open Sys2Proof.Config

/-! ### Images (R421) -/

/-- First address of a wing's HBM half (R27, R182). -/
def wingHbm (w : Nat) : Nat := w / 4 * 2 ^ 37 + w / 2 % 2 * 2 ^ 36 + w % 2 * 2 ^ 35

/-- Bytes of a chunk, and chunks of an image. -/
abbrev chunkBytes : Nat := 0x100000
abbrev chunkCount : Nat := 32768

/-- Offset of the chunks in an image. -/
abbrev chunkBase : Nat := 4096 + 524288

/-- Bytes of an image. -/
abbrev imageBytes : Nat := chunkBase + 32768 * 0x100000

/-- The `n` big-endian bytes of a value. -/
def beBytes (n v : Nat) : List Byte := (leBytes n v).reverse

/-- Zero bytes. -/
def zeros (n : Nat) : List Byte := List.replicate n 0

/-- Exactly `n` bytes: the list cut off, or zeros behind it. -/
def sized (n : Nat) (bs : List Byte) : List Byte := bs.take n ++ zeros (n - bs.length)

/-- The measurement of a wing (R421, R424). -/
def wingMeasure (s : State) (w : Nat) : List Byte :=
  match s.measures.find? fun x => x.1 == w with
  | some x => beBytes 48 x.2
  | none =>
    hashBytes (sha384 (((s.containers.filter fun k => k.wings.contains w).flatMap fun k => hashBytes k.digest) ++ policy w))

/-- A measurement as a counter's binding records it. -/
def measureNat (m : List Byte) : Nat := leValue m.reverse

/-- Header bytes 0 to 127 as they stand while the chunks are encrypted, the AAD of every chunk (R422): ROOT hashes the tags of
all the chunks, so its bytes are still zero. DEDUCED (log entry 40). -/
def sealAad (h : List Byte) : List Byte := (h.take 72) ++ zeros 48 ++ ((h.take 128).drop 120)

/-- The nonce of chunk `k` (R422). -/
def chunkNonce (k cval : Nat) : List Byte := beBytes 4 k ++ beBytes 8 cval

/-- The key that wraps DK (R422). -/
def wrapKey (z : List Byte) (h : List Byte) : List Byte :=
  hkdfSha384 z ((h.take 56).drop 8) ([0x53, 0x4B, 0x5A, 0x2D, 0x57, 0x52, 0x41, 0x50] ++ (h.take 72).drop 56)

/-- What SIG covers (R422). -/
def signedPart (h : List Byte) : List Byte := h.take 128 ++ (h.take 4000).drop 384

/-! ### The block (R419) -/

def sealRestores (c : Command) : Bool := fld c 16 1 == 1
def sealWing (c : Command) : Nat := fld c 17 1
def sealIndex (c : Command) : Nat := fld c 20 4
def sealHolder (c : Command) : Nat := fld c 24 2
def sealBuffer (c : Command) : Nat := fld c 32 8

/-- Header bytes 0 to 71 of a seal: MAGIC, VERSION, TKIND, MEAS, CHOLD, CIDX, CVAL. -/
def sealHead (s : State) (c : Command) (cval : Nat) : List Byte :=
  leBytes 4 0x4C45535A ++ leBytes 2 1 ++ leBytes 1 (fld c 26 1) ++ zeros 1 ++ wingMeasure s (sealWing c) ++
    leBytes 2 (sealHolder c) ++ zeros 2 ++ leBytes 4 (sealIndex c) ++ leBytes 8 cval

/-- Header bytes 0 to 127. -/
def sealHead128 (s : State) (c : Command) (cval : Nat) (root : List Byte) : List Byte :=
  sealHead s c cval ++ root ++ leBytes 4 chunkCount ++ zeros 4

/-! ### Counters (R423) -/

/-- A Heartwood counter of this package. -/
def counterOf (s : State) (i : Nat) : Option Counter := s.counters.find? fun k => k.index == i

/-- Changes a counter. -/
def modCounter (s : State) (i : Nat) (f : Counter → Counter) : State :=
  { s with counters := s.counters.map fun k => if k.index = i then f k else k }

/-- The holder advances a counter for a seal, or refuses (R420): the new value. -/
def advanceCounter (s : State) (i m : Nat) : Option (Nat × State) :=
  match counterOf s i with
  | none => none
  | some k =>
    if k.measurement != m || k.value + 1 ≥ 2 ^ 64 then none
    else some (k.value + 1, modCounter s i fun k => { k with value := k.value + 1 })

/-- What the holder signs (R423), its fields in the order of the rule. DEDUCED (log entry 40). -/
def statementBytes (x : Statement) : List Byte :=
  leBytes 2 x.holder ++ leBytes 4 x.index ++ leBytes 8 x.value ++ beBytes 48 x.measurement ++ leBytes 2 x.restorer ++
    leBytes 16 x.nonce

/-- The statement of a counter of this package for a restorer, signed by this package's key (R423). -/
def stateCounter (s : State) (k : Counter) (restorer nonce secret : Nat) : Statement :=
  let x : Statement :=
    { holder := s.pkg, index := k.index, value := k.value, measurement := k.measurement, restorer := restorer, nonce := nonce,
      sig := [] }
  { x with sig := ecdsaSign s.part.key (statementBytes x) (random secret 48) }

/-- Whether a statement verifies under the holder's key for a restore: signature, measurement and nonce (R424). -/
def statementGood (pub : List Byte) (x : Statement) (measurement nonce : Nat) : Bool :=
  ecdsaVerify pub (statementBytes x) x.sig && x.measurement == measurement && x.nonce == nonce

/-- The lease of a counter ends with its value unchanged (R423). -/
def endLease (s : State) (i : Nat) : State := modCounter s i fun k => { k with lease := none }

/-! ### Sealing (R420) -/

/-- Whether a bay lies in a wing. -/
def inWing (w n : Nat) : Bool := wingOfBay n == w

/-- The bents of a wing that have not ended: on its bays, or waiting to be placed there. -/
def bentsOfWing (s : State) (w : Nat) : List (Nat × Bent) :=
  (s.bents.zipIdx.map fun x => (x.2, x.1)).filter fun x =>
    x.2.state != .ended &&
      (s.raisings.any (fun r => r.rid == x.2.rid && r.wings.contains w) ||
        x.2.strands.any fun k => (s.strands[k]?).any fun st => st.blocks.any fun bl => inWing w bl.bay)

/-- The wing's bents quiesce (R420 step 1): resident ones are pre-empted first, and engine commands of the wing's strands
end; then every bent is held, and slack holders of the wing's lines are drawn with their shares returned. -/
def sealQuiesce (c : Command) : EM Command := do
  let s ← get
  let w := sealWing c
  let bs := bentsOfWing s w
  let busy := bs.filter fun x => x.2.state == .resident
  if !busy.isEmpty then
    let mark := fun (s : State) (x : Nat × Bent) =>
      { s with bents := s.bents.modify x.1 fun b => { b with preempt := true, held := true } }
    set (busy.foldl mark s)
    hold
  else if s.commands.any fun x => x.wing == w && x.seq != c.seq && (x.state == .queued || x.state == .running) then hold
  else
    let held := bs.foldl (fun s x => { s with bents := s.bents.modify x.1 fun b => { b with held := true } }) s
    let drawn := drawPage held fun l => rangesMeet (steer held l) 128 (wingHbm w) (2 ^ 35)
    let s := recallLines drawn (wingHbm w) (2 ^ 35)
    set { s with sealedWings := dedup (s.sealedWings ++ [w]) }
    return { c with word := 1 }

/-- The counter is advanced (R420 step 2), and a data key is drawn (R422): `states` keeps CVAL and DK.
DEDUCED (log entry 40). -/
def sealCount (c : Command) : EM Command := do
  let s ← get
  let m := measureNat (wingMeasure s (sealWing c))
  let n ← engLift freeNat
  let dk := leValue (sized 32 (random n 32))
  if sealHolder c = s.pkg then
    match advanceCounter s (sealIndex c) m with
    | none => failWith 23
    | some (v, _) =>
      modify fun s => (advanceCounter s (sealIndex c) m).elim s (·.2)
      return { c with word := 2, states := [v, dk] }
  else if ← engSilent c (sealHolder c) then failWith 12
  else
    let refused ← engLift freeBit
    let v ← engLift freeNat
    if refused then failWith 23
    else return { c with word := 2, states := [v % (2 ^ 64 - 1) + 1, dk] }

/-- The bytes of DK. -/
def sealDk (c : Command) : List Byte := leBytes 32 (c.states.getD 1 0)

/-- Whether a frame holds a poisoned word (R435). -/
def framePoison (s : State) (a n : Nat) : Bool := s.poison.any fun w => a ≤ 8 * w && 8 * w < a + n

/-- One chunk of the stream, read from the wing's own frames once the strand's side logs are empty (R215, R420 step 3,
R422). -/
def sealChunk (c : Command) : EM Command := do
  let s ← get
  let k := c.done
  let a := wingHbm (sealWing c) + k * chunkBytes
  if logsHold s c then hold
  else if framePoison s a chunkBytes then failWith 4
  else
    let cval := c.states.headD 0
    let (text, tag) :=
      aesGcm (sealDk c) (chunkNonce k cval) (sealAad (sealHead128 s c cval (zeros 48))) (memReadList s.mem a chunkBytes)
    engWrite c false (sealBuffer c + chunkBase + k * chunkBytes) (clean (sized chunkBytes text))
    engWrite c false (sealBuffer c + 4096 + 16 * k) (clean (sized 16 tag))
    return { c with done := k + 1, bytes := c.bytes + chunkBytes, acc := c.acc ++ [leValue (sized 16 tag)] }

/-- The target's public key (R419). -/
def sealTarget (c : Command) : EM (List Byte) := do
  let s ← get
  if fld c 26 1 = 1 then engUse c false (fld c 48 8) 96
  else if fld c 48 8 = s.pkg then return sized 96 (publicKey s.part.key)
  else if ← engSilent c (fld c 48 8) then failWith 12
  else return sized 96 (peerKey (fld c 48 8))

/-- The header is written and signed (R420 step 4, R421, R422). DEDUCED (log entry 40). -/
def sealHeader (c : Command) : EM Command := do
  let target ← sealTarget c
  let n ← engLift freeNat
  let m ← engLift freeNat
  let secret ← engLift freeNat
  let s ← get
  let eph := random n 48
  let nonce := sized 12 (random m 12)
  let root := hashBytes (sha384 (c.acc.flatMap (leBytes 16)))
  let head := sealHead128 s c (c.states.headD 0) root
  let kek := wrapKey (ecdhP384 eph target) head
  let (wkey, wtag) := aesGcm kek nonce head (sealDk c)
  let chain := s.part.chain.take 3600
  let h := head ++ sized 96 (publicKey eph) ++ target ++ nonce ++ zeros 4 ++ sized 32 wkey ++ sized 16 wtag ++
    leBytes 4 chain.length ++ zeros 4 ++ sized 3608 chain
  engWrite c false (sealBuffer c) (clean (h ++ sized 96 (ecdsaSign s.part.key (signedPart h) (random secret 48))))
  return { c with word := 3 }

/-! ### Restoring (R424) -/

/-- The fields of a restore's image header, as the engine reads them from the buffer. -/
def imageHeader (c : Command) : EM (List Byte) := engUse c false (sealBuffer c) 4096

/-- Whether an image header is malformed (R421, R424). -/
def imageBad (h : List Byte) : Bool :=
  bytesAt h 0 4 != 0x4C45535A || bytesAt h 4 2 != 1 || 1 < bytesAt h 6 1 || bytesAt h 7 1 != 0 || bytesAt h 58 2 != 0 ||
    bytesAt h 120 4 != chunkCount || bytesAt h 124 4 != 0 || bytesAt h 332 4 != 0 || 3600 < bytesAt h 384 4 ||
    bytesAt h 388 4 != 0

/-- Whether the certificate chain ends at the Kufold root and SIG verifies under the key it certifies (R424). -/
def imageSigned (h : List Byte) : Bool :=
  match chainKey ((h.drop 392).take (bytesAt h 384 4)) with
  | some key => ecdsaVerify key (signedPart h) (h.drop 4000)
  | none => false

/-- The lease and the statement with it (R423, R424): the counter's value. What a distant holder answers is a free choice.
DEDUCED (log entry 40). -/
def takeLease (c : Command) (h : List Byte) : EM Nat := do
  let n ← engLift freeNat
  let secret ← engLift freeNat
  let s ← get
  let i := bytesAt h 60 4
  let meas := measureNat ((h.take 56).drop 8)
  let nonce := leValue (sized 16 (random n 16))
  if bytesAt h 56 2 = s.pkg then
    match counterOf s i with
    | none => failWith 20
    | some k =>
      if k.lease.isSome then failWith 24
      else
        set (modCounter s i fun k => { k with lease := some (s.pkg, c.seq, s.time) })
        let x := stateCounter s k s.pkg nonce secret
        if statementGood (publicKey s.part.key) x meas nonce then return x.value else failWith 20
  else if ← engSilent c (bytesAt h 56 2) then failWith 12
  else
    let taken ← engLift freeBit
    let v ← engLift freeNat
    let m ← engLift freeNat
    let echoed ← engLift freeNat
    let sig ← engLift freeNat
    let x : Statement :=
      { holder := bytesAt h 56 2, index := i, value := v % 2 ^ 64, measurement := m, restorer := s.pkg, nonce := echoed,
        sig := random sig 96 }
    if taken then failWith 24
    else if statementGood (peerKey (bytesAt h 56 2)) x meas nonce then return x.value
    else failWith 20

/-- A restore's lease ends without CONSUME. -/
def dropLease (s : State) (c : Command) : State :=
  { s with counters := s.counters.map fun k =>
      if k.lease.any fun l => l.1 == s.pkg && l.2.1 == c.seq then { k with lease := none } else k }

/-- The checks of a restore up to CVAL (R424), in their order; `block` keeps the header behind the command's own. -/
def restoreStart (c : Command) : EM Command := do
  let s ← get
  let w := sealWing c
  let wingBusy := !(bentsOfWing s w).isEmpty || s.raisings.any fun r => !r.ended && r.wings.contains w
  if wingBusy then failWith 26
  else
    let h ← imageHeader c
    if imageBad h || !imageSigned h then failWith 20
    else if (h.take 320).drop 224 != sized 96 (publicKey s.part.key) then failWith 21
    else
      let v ← takeLease c h
      let cval := bytesAt h 64 8
      if cval < v then failWith 22
      else if v < cval then failWith 23
      else return { c with word := 1, block := c.block.take 64 ++ h }

/-- The little-endian values of a byte string of `n` elements of `size` bytes. -/
def valuesOf (size n : Nat) (bs : List Byte) : List Nat := (splitEvery size n bs).map leValue

/-- The unwrapping of DK, and ROOT over the tag table (R424): `acc` keeps the tags of the chunks, `states` CVAL, DK and the
counter's holder and index. -/
def restoreUnwrap (c : Command) : EM Command := do
  let s ← get
  let h := c.block.drop 64
  let kek := wrapKey (ecdhP384 s.part.key ((h.take 224).drop 128)) h
  match aesGcmOpen kek ((h.take 332).drop 320) (h.take 128) ((h.take 368).drop 336) ((h.take 384).drop 368) with
  | none => failWith 20
  | some dk =>
    let tags ← engUse c false (sealBuffer c + 4096) 524288
    if hashBytes (sha384 tags) != (h.take 120).drop 72 then failWith 20
    else
      return { c with
        word := 2, acc := valuesOf 16 chunkCount tags,
        states := [bytesAt h 64 8, leValue (sized 32 dk), bytesAt h 56 2, bytesAt h 60 4] }

/-- One chunk of a restore (R424), which lands in the wing's own frames: a tag that fails zeroes the wing's HBM half. -/
def restoreChunk (c : Command) : EM Command := do
  let k := c.done
  let text ← engUse c false (sealBuffer c + chunkBase + k * chunkBytes) chunkBytes
  let a := wingHbm (sealWing c)
  match aesGcmOpen (sealDk c) (chunkNonce k (c.states.headD 0)) (sealAad (c.block.drop 64)) text (leBytes 16 (c.acc.getD k 0)) with
  | none => do
    modify fun s => zeroStorage (recallLines s a (2 ^ 35)) a (2 ^ 35)
    failWith 20
  | some plain =>
    modify fun s =>
      let x := a + k * chunkBytes
      let s := recallLines s x chunkBytes
      storeKeys { s with poison := s.poison.filter fun w => 8 * w < x || x + chunkBytes ≤ 8 * w }
        (((List.range chunkBytes).map (x + ·)).zip (sized chunkBytes plain))
    return { c with done := k + 1, bytes := c.bytes + chunkBytes }

/-- CONSUME at the holder (R423): where the counter's lease is the sender's, the counter advances by 1 and the lease ends. -/
def consumeLease (s : State) (i : Nat) (own : Nat × Nat × Nat → Bool) : State :=
  modCounter s i fun k => if k.lease.any own then { k with value := (k.value + 1) % 2 ^ 64, lease := none } else k

/-- The end of a restore (R424): the wing's measurement is MEAS, and CONSUME is sent. -/
def restoreEnd (s : State) (c : Command) : State :=
  let w := sealWing c
  let meas := measureNat ((c.block.drop 72).take 48)
  let s := { s with measures := (s.measures.filter fun x => x.1 != w) ++ [(w, meas)] }
  if c.states.getD 2 0 = s.pkg then consumeLease s (c.states.getD 3 0) fun l => l.1 == s.pkg && l.2.1 == c.seq else s

/-- A saved memory as State holds one: its bytes below `size`, each once, in rising order and none zero. -/
def savedMem (size : Nat) (m : Mem) : Mem := (m.filter fun c => c.1 < size).foldl (fun m c => memWrite m c.1 c.2) []

/-- A restored block: no bay holds it until the Foreman places the bent, and nothing of it is in flight. -/
def restoredBlock (w : Nat) (bl : Block) : Block :=
  { bl with bay := 10 * w, slices := savedMem 0x600000 bl.slices, scratch := savedMem 0x80000 bl.scratch,
            outst := bl.outst.map (· % 4096), fifo := [], strongOut := [], unreleased := [], badRegs := [] }

/-- A restored strand, strand `i` of bent `k`: saved as R368 leaves it, so it waits in nothing. -/
def restoredStrand (w k i : Nat) (st : Strand) : Strand :=
  { st with bent := k, index := i, blocks := st.blocks.map (restoredBlock w), spilled := min st.spilled st.frags.length,
            granted := [], requests := [], prefetch := [], multiplies := [], wait := .none, waited := 0, drains := [],
            pending := [],
            strongNow := false, fetchSince := 0, fetchStale := [], acquiredAt := 0, acquiredStale := [], inflight := none,
            pendingXe := none,
            saved := [], sending := none, exited := st.exited || st.blocks.isEmpty }

/-- A restored bent, held as after CTXSAVE (R402, R424). DEDUCED (log entry 40). -/
def restoreBent (w rid : Nat) (s : State) (x : Bent × List Strand) : State :=
  let base := s.strands.length
  let ids := (List.range x.2.length).map (base + ·)
  let b := { x.1 with
    rid := rid, state := .waiting, strands := ids, arrived := x.1.arrived.map fun l => ids.filter fun i => l.contains (i - base),
    started := false, preempt := false, candidate := false, waitedMs := 0, held := true, halted := false }
  { s with bents := s.bents ++ [b], strands := s.strands ++ x.2.zipIdx.map fun y => restoredStrand w s.bents.length y.2 y.1 }

/-- A restored raising: it takes the next RID, stays in its wing, and holds no launch slot. DEDUCED (log entry 40). -/
def restoreRaising (w vf : Nat) (s : State) (x : Raising × List (Bent × List Strand)) : State :=
  let rid := s.nextRid
  let r := { x.1 with rid := rid, vf := vf, slot := 2 ^ 32, wings := [w], aborted := false, ended := false }
  x.2.foldl (restoreBent w rid) { s with nextRid := rid + 1, raisings := s.raisings ++ [r] }

/-- One step of an XSEAL (R420, R424). DEDUCED (log entry 40). -/
def xsealUnit (c : Command) : EM (Option Command) := do
  if c.word = 3 then return none
  else if sealRestores c then
    if c.word = 0 then
      let c ← restoreStart c
      return some c
    else if c.word = 1 then
      let c ← restoreUnwrap c
      return some c
    else if c.done < chunkCount then
      let c ← restoreChunk c
      return some c
    else
      let n ← engLift freeNat
      modify fun s => (restoredWork n).foldl (restoreRaising (sealWing c) c.vf) (restoreEnd s c)
      return some { c with word := 3 }
  else if c.word = 0 then
    let c ← sealQuiesce c
    return some c
  else if c.word = 1 then
    let c ← sealCount c
    return some c
  else if c.done < chunkCount then
    let c ← sealChunk c
    return some c
  else
    let c ← sealHeader c
    return some c

/-- A failed restore releases its lease (R424). -/
def sealAbandon (s : State) (c : Command) : State := if c.fn = 66 then dropLease s c else s

/-! ### The holder's messages (R420, R423) -/

/-- COUNTER_ADVANCE (R420): this package's holder serves a seal's request; it refuses a counter bound to another
measurement, and one that stands at 2^64 − 1. -/
def execCounterAdvance (index measurement : Nat) (s : State) : Result :=
  runEvent (do
    let s ← get
    match counterOf s index, advanceCounter s index measurement with
    | none, _ => noPart
    | some _, none => return ()
    | some _, some (_, s') => set s') s

/-- LEASE_REQUEST (R423): one lease per counter at a time, for at most 10 s, and the signed statement with it; a request for a
leased counter is refused. -/
def execLeaseRequest (index restorer nonce : Nat) (s : State) : Result :=
  runEvent (do
    let s ← get
    match counterOf s index with
    | none => noPart
    | some k =>
      if k.lease.isSome then return ()
      else
        let secret ← freeNat
        modify fun s =>
          { modCounter s index (fun k => { k with lease := some (restorer, nonce, s.time) }) with
            statements := s.statements ++ [stateCounter s k restorer nonce secret] }) s

/-- CONSUME (R423): the holder advances the counter by 1 and ends the lease. -/
def execConsume (index restorer : Nat) (s : State) : Result :=
  runEvent (do
    let s ← get
    match counterOf s index with
    | none => noPart
    | some k =>
      if k.lease.any fun l => l.1 == restorer then set (consumeLease s index fun l => l.1 == restorer) else noPart) s

/-- LEASE_EXPIRY (R423): a lease ends after 10 s with the value unchanged. -/
def execLeaseExpiry (index : Nat) (s : State) : Result :=
  runEvent (do
    let s ← get
    match counterOf s index with
    | none => noPart
    | some k => if k.lease.isSome then set (endLease s index) else noPart) s

/-- COUNTER_ALLOCATION (R423): Heartwood allocates a counter and binds it to a measurement. The spec gives a counter's
first value no number: a free value. DEDUCED (log entry 40). -/
def execCounterAllocation (index measurement : Nat) (s : State) : Result :=
  runEvent (do
    let s ← get
    if 4096 ≤ index || (counterOf s index).isSome then noPart
    else
      let v ← freeNat
      let k : Counter := { index := index, measurement := measurement, value := v % 2 ^ 64, lease := none }
      modify fun s => { s with counters := s.counters ++ [k] }) s

end Sys2Proof.Machine
end

