-- ==== Sys2Proof/Machine/Sys.lean ====
section
/-! DEFINITION. System instructions (R98 to R102, R374): ECALL, EBREAK, ERET, WFI, HALT, IFENCE, PAUSE. -/

namespace Sys2Proof.Machine

/-- ECALL (R99): its effect is the trap, with XVAL 0. -/
def execEcall (s : State) : Result := runSeq (raise causeEcall 0) s

/-- EBREAK (R99). -/
def execEbreak (s : State) : Result := runSeq (raise causeEbreak 0) s

/-- A strand that goes on elsewhere than at its granted FSEND has done with it (log entry 32). -/
def leavesSend (st : Strand) : Strand := { st with sending := st.sending.filter fun x => x.2.1 == st.r.pc.toNat }

/-- ERET (R98, R374): PRIV at user level. -/
def execEret (s : State) : Result :=
  runTo (do
    needRuntime (wordSR 0x23 2 0 0 0)
    modRegs returnTrap
    modStrand leavesSend
    let r ← getRegs
    return r.pc) s

/-- WFI (R100): issue is suspended. A WFI that is suspended ends when it is stepped again, since it may end without an
event; an event ends it through WFI_WAKE. DEDUCED (log entry 16). -/
def execWfi (s : State) : Result :=
  runSeq (do
    let st ← getStrand
    if st.wait = .wfi then return () else waitFor .wfi) s

/-- HALT (R98, R101): PRIV at user level; the bent is halted and recorded (R427, kind 2). -/
def execHalt (s : State) : Result :=
  runSeq (do
    needRuntime (wordSR 0x23 4 0 0 0)
    let st ← getStrand
    modify fun s => logError (haltBent s st)
      { time := s.time, kind := 2, bay := homeBay st, cause := 0, rid := st.r.rid.toNat, xval := 0 }) s

/-- Everything fetched for the strand is discarded (R102): a fetch finds no bytes older than those released before the strand's
last acquire at device scope or wider (R103, R104), on whatever bay the strand is resident then. -/
def dropFetched : M Unit := modStrand fun st => { st with fetchSince := st.acquiredAt, fetchStale := st.acquiredStale }

/-- IFENCE (R102). -/
def execIfence (s : State) : Result := runSeq dropFetched s

/-- PAUSE (R102): it delays fetch and has no other effect. -/
def execPause (s : State) : Result := runSeq (return ()) s

end Sys2Proof.Machine
end

