-- ==== Sys2Proof/Machine/Sync.lean ====
section
/-! DEFINITION. Fences (R132, R317, R322), WAITA (R324, R325), barriers (R326 to R328), and the events that end waits. -/

namespace Sys2Proof.Machine

open Sys2Proof.Config

/-! ### Fences -/

/-- A fence of kinds 0 to 3, 6 or 7: it is held until every older vector entry has committed, and younger vector entries
perform no access before it (R322), so that vector accesses behind it follow the scalar writes before it.
DEDUCED (log entry 9). -/
def heldFence (body : M Unit) : M Unit := do
  body
  settleStream false

/-- FENCE kind 0 (R322): an acquire at a scope. -/
def execFenceAcq (c : BitVec 3) (s : State) : Result := runSeq (heldFence (acquire c.toNat)) s

/-- FENCE kind 1 (R322): a release at a scope. -/
def execFenceRel (c : BitVec 3) (s : State) : Result := runSeq (heldFence (releaseAs true c.toNat)) s

/-- A release and an acquire as one event (R313). -/
def acquireRelease (scope : Nat) : M Unit := do
  releaseAs true scope
  acquire scope

/-- FENCE kind 2 (R322). -/
def execFenceAr (c : BitVec 3) (s : State) : Result := runSeq (heldFence (acquireRelease c.toNat)) s

/-- FENCE kind 3 (R317, R322). -/
def execFenceSc (c : BitVec 3) (s : State) : Result :=
  runSeq (heldFence (do
    acquireRelease c.toNat
    storesBeforeLoads)) s

/-- FENCE kind 4 (R132): older scalar accesses before younger vector ones. -/
def execFenceS2v (s : State) : Result := runSeq (settleStream false) s

/-- FENCE kind 5 (R132): older vector accesses before younger scalar ones. -/
def execFenceV2s (s : State) : Result := runSeq (settleStream true) s

/-- FENCE kind 6 (R322): kind 2, then IFENCE. -/
def execFenceCode (c : BitVec 3) (s : State) : Result :=
  runSeq (heldFence (do
    acquireRelease c.toNat
    dropFetched)) s

/-- FENCE kind 7 (R299, R322): every shim line of the attached bays' holders is drained; the scope selects nothing else. -/
def execFenceSlk (_c : BitVec 3) (s : State) : Result :=
  runSeq (heldFence (do
    let st ← getStrand
    modify fun s => drainShims s fun h => (attached st).contains h.bay)) s

/-! ### WAITA -/

/-- WTO in nanoseconds (R324). -/
def waitLimit (r : Regs) : Nat := r.wto.toNat * 1024

/-- WAITA (R324): `c` is the acquire flag, `sc` the scope. A strand that sleeps in it reads again when it issues again. -/
def execWaita (c : BitVec 1) (sc : BitVec 3) (b a d : BitVec 6) (s : State) : Result :=
  runSeq (do
    let st ← getStrand
    let va := (regRead st.r a.toNat).toNat
    checkWatch va 8 .read
    if va % 8 != 0 then raise causeMisal (BitVec.ofNat 64 va)
    else
      let v := BitVec.ofNat 64 (leValue (← loadBytes 0 va 8 3 false))
      if v != regRead st.r b.toNat || (st.r.wto != 0 && waitLimit st.r ≤ st.waited) then
        ws d v
        if c = 1 then acquire sc.toNat
      else waitFor .waita) s

/-- An event that concerns one strand. -/
def onStrand (k : Nat) (f : State → Strand → M Unit) : M Unit := do
  let s ← get
  match s.strands[k]? with
  | none => noPart
  | some st => if st.exited then noPart else f s st

/-- Replaces strand `k`. -/
def setStrandAt (s : State) (k : Nat) (st : Strand) : State := { s with strands := s.strands.set k st }

/-- A strand in WAITA issues its instruction again. -/
def wakeWaita (strand : Nat) : M Unit :=
  onStrand strand fun s st => if st.wait = .waita then set (setStrandAt s strand { st with wait := .none }) else noPart

/-- WAITA_WAKE (R325): a write to the watched line wakes the strand, which reads again. -/
def execWaitaWake (strand : Nat) (s : State) : Result := runEvent (wakeWaita strand) s

/-- WAITA_HOST_POLL (R325): a watched host word is read again every 2 µs. -/
def execWaitaHostPoll (strand : Nat) (s : State) : Result :=
  runEvent (do
    wakeWaita strand
    modify fun s => { s with strands := s.strands.modify strand fun st => { st with waited := st.waited + 2000 } }) s

/-- WAIT_TIMEOUT (R100, R324): the wait has lasted WTO × 1024 ns; a WAITA reads once more and completes, a WFI ends.
DESIGN CHOICE (log entry 8). -/
def execWaitTimeout (strand : Nat) (s : State) : Result :=
  runEvent (onStrand strand fun s st =>
    if st.r.wto = 0 then noPart
    else if st.wait = .waita then set (setStrandAt s strand { st with wait := .none, waited := waitLimit st.r })
    else if st.wait = .wfi then set (setStrandAt s strand (endWfi st))
    else noPart) s

/-- WFI_WAKE (R100): an event ends a WFI. DEDUCED (log entry 16). -/
def execWfiWake (strand : Nat) (s : State) : Result :=
  runEvent (onStrand strand fun s st =>
    if st.wait = .wfi then set (setStrandAt s strand (endWfi st)) else noPart) s

/-! ### Barriers -/

/-- The bent of a strand. -/
def bentOf (s : State) (st : Strand) : Option Bent := s.bents[st.bent]?

/-- Every strand of a bent has arrived at the current phase of a barrier, or has executed EXIT (R327). -/
def allArrived (s : State) (b : Bent) (n : Nat) : Bool :=
  b.strands.all fun k => (b.arrived.getD n []).contains k || (s.strands[k]?).any (·.exited)

/-- A bent whose barriers that all have reached advance to their next phases (R327). -/
def advancePhases (s : State) (b : Bent) : Bent :=
  (List.range 16).foldl (fun b n =>
    if !(b.arrived.getD n []).isEmpty && allArrived s b n then
      { b with phase := b.phase.setIfInBounds n (b.phase.getD n 0 + 1), arrived := b.arrived.setIfInBounds n [] }
    else b) b

/-- The arrival of the executing strand at barrier `n` (R327). -/
def arrive (n : Nat) : M Unit := do
  let st ← getStrand
  let s ← get
  match bentOf s st with
  | none => noPart
  | some b =>
    setStrand { st with pend := st.pend.setIfInBounds n (some (b.phase.getD n 0)) }
    let b := { b with arrived := b.arrived.setIfInBounds n (b.arrived.getD n [] ++ [s.cur]) }
    modify fun s => { s with bents := s.bents.set st.bent (advancePhases s b) }

/-- Whether the phase a strand waits for is incomplete. -/
def phaseOpen (s : State) (st : Strand) (n : Nat) : Bool :=
  match st.pend.getD n none, bentOf s st with
  | some p, some b => b.phase.getD n 0 ≤ p
  | _, _ => false

/-- The word of a BAR instruction (R326). -/
def wordBar (fn n : Nat) : Nat := wordSR 0x7C (fn + 4 * n) 0 0 0

/-- BARA (R327). -/
def bara (word n : Nat) : M Unit := do
  release 1
  let st ← getStrand
  let s ← get
  if phaseOpen s st n then issueTrap causeIllop word else arrive n

/-- BARW (R327). -/
def barw (n : Nat) : M Unit := do
  let st ← getStrand
  let s ← get
  if phaseOpen s st n then waitFor (.barrier n)
  else
    acquire 1
    modStrand fun st => { st with pend := st.pend.setIfInBounds n none, barsDone := false }

/-- BARS (R327, R328): one that has arrived performs only its BARW part when it issues again. -/
def execBars (n : BitVec 4) (s : State) : Result :=
  runSeq (do
    let st ← getStrand
    if !st.barsDone then
      bara (wordBar 0 n.toNat) n.toNat
      modStrand fun st => { st with barsDone := true }
    barw n.toNat) s

/-- BARA (R327). -/
def execBara (n : BitVec 4) (s : State) : Result := runSeq (bara (wordBar 1 n.toNat) n.toNat) s

/-- BARW (R327). -/
def execBarw (n : BitVec 4) (s : State) : Result := runSeq (barw n.toNat) s

/-- BARRIER_WAKE (R328): a strand whose phase has completed goes on. -/
def execBarrierWake (strand : Nat) (s : State) : Result :=
  runEvent (onStrand strand fun s st =>
    match st.wait with
    | .barrier n => if phaseOpen s st n then noPart else set (setStrandAt s strand { st with wait := .none })
    | _ => noPart) s

/-! ### Replies -/

/-- ACCESS_PERFORMED (R304, R318, R319): a reply arrives at an attached bay. Scope 0 stands for load data, which changes
no state here; a write that is performed at a scope leaves its counter, those of the narrower scopes, and those of the wider
scopes at which its class is then performed too; at system scope it leaves the FIFO's head. DESIGN CHOICE (log entry 7). DEDUCED (log entry 17). -/
def execAccessPerformed (strand position scope : Nat) (s : State) : Result :=
  runEvent (onStrand strand fun _ st =>
    match st.blocks[position]? with
    | none => noPart
    | some bl =>
      if scope = 0 then return ()
      else
        if bl.outst.getD (scope - 1) 0 = 0 then noPart
        else do
          let v ← lowerCounters scope bl.outst
          let out ← stillOut bl.outst v bl.strongOut
          let bl := { bl with outst := v, fifo := if scope = 5 then bl.fifo.drop 1 else bl.fifo, strongOut := out }
          modify fun s => setStrandAt s strand { st with blocks := st.blocks.set position bl }) s

end Sys2Proof.Machine
end

