-- ==== Sys2Proof/Machine/Commands.lean ====
section
/-! DEFINITION. The XE instructions (R332 to R340, R348): the checks of a command at issue in their order, its place in a
queue and its ticket; XCANCEL and XQUERY; and the starts and ends of commands as steps of their own. -/

namespace Sys2Proof.Machine

open Sys2Proof.Config

/-! ### Conditions of a block (R335) -/

/-- Bytes of a block before its length is known, and the length its layout states (R341, R342, R345, R346, R399, R413,
R419). -/
def blockMin (fn : Nat) : Nat :=
  match fn with
  | 0 => 40
  | 1 => 80
  | 2 => 96
  | 4 => 72
  | _ => 64

/-- The length of a block of a function, from its first bytes. -/
def blockLen (fn : Nat) (c : Command) : Nat := if fn = 0 then 40 + 24 * fld c 34 1 else blockMin fn

/-- Bytes from `o` up to `e` of the block are not all zero. -/
def dirtyBytes (c : Command) (o e : Nat) : Bool := !zeroBytes c.block o e

/-- The narrowest scope a block needs of its own (R335, reason 2). -/
def scopeNeed (c : Command) : Nat :=
  match c.fn with
  | 4 => if fld c 19 1 = 0 then 3 else if fld c 19 1 = 1 then 4 else 2
  | 64 => 3
  | 65 => 4
  | 66 => 4
  | _ => 2

/-- Must-be-zero bytes and bits of a block (reason 4). -/
def blockDirty (c : Command) : Bool :=
  fld c 9 1 / 32 != 0 || fld c 10 1 != 0 ||
  match c.fn with
  | 0 => dirtyBytes c 35 40
  | 1 => dirtyBytes c 68 69 || dirtyBytes c 70 72 || dirtyBytes c 76 80
  | 2 => dirtyBytes c 70 72 || dirtyBytes c 84 88
  | 3 =>
    (fld c 24 1 != 1 && (fld c 25 1 != 0 || fld c 28 4 != 0)) || (fld c 24 1 != 1 && fld c 24 1 != 2 && fld c 26 1 != 0) ||
      fld c 27 1 != 0 || dirtyBytes c 40 64
  | 4 => (fld c 16 1 == 1 && fld c 18 1 != 0) || dirtyBytes c 64 72
  | 64 => dirtyBytes c 34 64
  | 65 => dirtyBytes c 33 64
  | _ =>
    dirtyBytes c 18 20 || dirtyBytes c 27 32 || dirtyBytes c 56 64 ||
      (fld c 16 1 == 1 && (dirtyBytes c 20 27 || dirtyBytes c 48 56))

/-- Reserved values of code fields (reason 6). DEDUCED (log entry 37). -/
def blockReserved (c : Command) : Bool :=
  match c.fn with
  | 0 => 7 < fld c 32 1 || 1 < fld c 33 1
  | 1 => 1 < fld c 69 1
  | 2 => 2 < fld c 68 1 || 1 < fld c 69 1
  | 3 => 2 < fld c 24 1
  | 4 => 2 < fld c 16 1 || 2 < fld c 17 1 || 2 < fld c 18 1 || 1 < fld c 19 1
  | 64 => 2 < fld c 32 1 || 1 < fld c 33 1
  | 65 => 2 < fld c 32 1
  | _ => 1 < fld c 16 1 || 1 < fld c 26 1

/-- Whether an address names no local HBM or second tier. -/
def outsideDram (s : State) (pa : Nat) : Bool := !isLocal s pa || tierEnd ≤ localAddr pa

/-- Counts, sizes, extents and frames outside their limits (reason 7). DEDUCED (log entry 37). -/
def blockLimits (s : State) (st : Strand) (c : Command) : Bool :=
  match c.fn with
  | 0 => fld c 34 1 = 0 || 14 < fld c 34 1 || 2 ^ 48 ≤ copyTotal c * copySize c
  | 1 => fld c 64 4 = 0 || 65536 < fld c 64 4
  | 2 => fld c 64 4 = 0 || 16384 < fld c 64 4
  | 64 =>
    let n := swapSize c
    fld c 16 8 % n != 0 || fld c 24 8 % n != 0 || swapA c == swapB c || outsideDram s (fld c 16 8) ||
      outsideDram s (fld c 24 8)
  | 65 =>
    let n := migSize c
    fld c 16 8 % n != 0 || fld c 24 8 % n != 0 || migDest c == s.pkg || tierEnd ≤ localAddr (fld c 24 8) ||
      fld c 24 8 / 2 ^ 57 != 0 || fld c 16 8 / 2 ^ 57 != 0
  | 66 =>
    let w := sealWing c
    31 < w || !(s.vfs.any fun v => v.num == vfOf st && v.wings.contains w) || wingOf st == w ||
      fld c 32 8 % 4096 != 0 || fld c 40 8 < imageBytes
  | _ => false

/-- Bytes an engine may read without failing, as values; the checks at issue that need the tensor header use them, and wait
where the read is held. DEDUCED (log entry 37). -/
def peek (c : Command) (va n : Nat) : M (Option (List Byte)) := fun s =>
  match engUse c true va n s with
  | .ok bs s' => .ok (some bs) s'
  | .error .held s' => .error (.wait (if logsHold s c then .sideLog else if s'.outReqs = s.outReqs then .busyUnit else .peer)) s'
  | .error _ s' => .ok none s'

/-- R345 at issue (reason 8): the tensor header's format and element count are read as the engine would read them; where
that read fails, the command finds it when it starts. DEDUCED (log entry 37). -/
def slotInvalid (st : Strand) (c : Command) : M Bool := do
  if c.fn != 3 || fld c 24 1 = 0 || 2 < fld c 24 1 then return false
  else if spanOf st ≤ fld c 26 1 then return true
  else if fld c 24 1 = 1 && (15 < fld c 25 1 || !isClaimed st (fld c 25 1)) then return true
  else
    match ← peek c (fld c 16 8) 16 with
    | none => return false
    | some h =>
      let s ← get
      let bl ← getBlock (fld c 26 1)
      if !expandFmt (bytesAt h 4 1) then return false
      else return expandBad c (bytesAt h 4 1) (bytesAt h 8 8) (bayOf s bl.bay).k

/-- The conditions of R347 that need no member list (reason 9). -/
def collBad (c : Command) : Bool :=
  c.fn == 4 && (collMembers c < 2 || (if collLevel c = 1 then 1024 else 320) < collMembers c ||
    fld c 40 8 % collMembers c != 0 || collTag c == 0)

/-- The lowest reason that a block gives, other than a collective's membership (R335). DEDUCED (log entries 37, 51). -/
def blockReason (st : Strand) (fn : Nat) (c : Command) : M (Option Nat) := do
  let s ← get
  let scope := cmdScope c
  let bad8 ← if blockReserved c then pure false else slotInvalid st c
  let tests : List (Nat × Bool) :=
    [(1, fld c 8 1 != 1 || fld c 11 1 != fn), (2, scope < 2 || 5 < scope || scope < scopeNeed c),
     (3, fld c 12 4 != blockLen fn c), (4, blockDirty c), (5, decide (2 ^ 63 ≤ fld c 0 8)), (6, blockReserved c),
     (7, blockLimits s st c), (8, bad8), (9, collBad c)]
  return (tests.find? (·.2)).map (·.1)

/-! ### Issue (R333, R334) -/

/-- A read that sees every earlier store of both streams: what XE reads of its block (R333). -/
def seeingAll {α : Type} (read : M α) : M α := do
  settleStream true
  let st ← getStrand
  setStrand { st with pending := [] }
  let x ← read
  modStrand fun now => { now with pending := st.pending }
  return x

/-- A read of an instruction that R71 holds: it sees every older vector store. -/
def seeingVector {α : Type} (read : M α) : M α := do
  let st ← getStrand
  setStrand { st with pending := st.pending.map fun w => if w.vector then { w with cross := false } else w }
  let x ← read
  modStrand fun now => { now with pending := st.pending }
  return x

/-- The block's bytes as scalar loads of the strand, eight at a time in ascending order (R333). -/
def readWords (va : Nat) : Nat → M (List Byte)
  | 0 => return []
  | n + 1 => do
    let x ← loadValue 0 va 8 0 false
    let rest ← readWords ((va + 8) % 2 ^ 64) n
    return leBytes 8 x ++ rest

/-- The block of a command: its first bytes tell the length of an XCOPY's. -/
def readBlock (fn sa : Nat) : M (List Byte) := do
  let first ← readWords sa (blockMin fn / 8)
  if fn = 0 && bytesAt first 34 1 ≤ 14 then
    let more ← readWords ((sa + 40) % 2 ^ 64) (3 * bytesAt first 34 1)
    return first ++ more
  else return first

/-- The completion word's checks at issue, and its translation (R334, R338). -/
def wordCheck (sb : Word) : M Xl := do
  if sb.toNat % 8 != 0 then raise causeMisal sb
  else
    match ← translatePages 0 .write [sb.toNat] with
    | .error (_, f) =>
      let t := { xlatTrap f sb.toNat .write with xval := sb }
      if f.s2 then stage2Fault 0 f t else raiseT t
    | .ok ps =>
      let s ← get
      match ps with
      | [] => noPart
      | (_, x) :: _ =>
        if !engReach s x.pa then raise causePerm sb
        else if x.cmp then raise causeCmpview sb
        else return x

/-- The member list of an XCOLL, read at issue as the block is, and the member's place in it (R346, R347).
DEDUCED (log entry 37). -/
def collList (st : Strand) (sa : Word) (c : Command) : M Command := do
  let bs ← seeingAll (readList (fld c 24 8) (collMembers c))
  let c := { c with block := c.block.take 72 ++ bs }
  let s ← get
  let me := if collLevel c = 1 then s.pkg else homeBay st
  let places := (List.range (collMembers c)).filter fun k => collMember c k == me
  match places with
  | [k] => return { c with word := k }
  | _ => raise causeXcmd (sa ||| 9)
where
  /-- 32-bit numbers as scalar loads. -/
  readList (va : Nat) : Nat → M (List Byte)
    | 0 => return []
    | n + 1 => do
      if va % 4 != 0 then raise causeMisal (BitVec.ofNat 64 va)
      else
        let x ← loadValue 0 va 4 0 false
        let rest ← readList ((va + 4) % 2 ^ 64) n
        return leBytes 4 x ++ rest

/-- A beam's command queue: commands accepted and not started. -/
def queuedIn (s : State) (beam : Nat) : List Command := s.commands.filter fun c => c.state == .queued && c.engine / 4 == beam

/-- Whether a beam's queue, and the wing's share of it, have room (R333). DEDUCED (log entry 38). -/
def roomFor (s : State) (beam wing : Nat) : Bool :=
  (queuedIn s beam).length < 64 && ((queuedIn s beam).filter fun c => c.wing == wing).length < 16

/-- Commands an engine has. -/
def engineLoad (s : State) (e : Nat) : Nat :=
  (s.commands.filter fun c => c.engine == e && (c.state == .queued || c.state == .running)).length

/-- The least loaded engine of a beam, ties to the lower index (R336). DEDUCED (log entry 38). -/
def leastLoaded (s : State) (beam : Nat) : Nat :=
  ([4 * beam + 1, 4 * beam + 2, 4 * beam + 3]).foldl
    (fun e x => if engineLoad s x < engineLoad s e then x else e) (4 * beam)

/-- The ticket of a command (R336). -/
def ticketOf (c : Command) : Nat := c.seq % 2 ^ 48 + c.engine * 2 ^ 48

/-- Steps 3 and 4 of R333: the command is queued and its ticket written, or the XE waits for room with its copy of the
block. -/
def placeCommand (d : Nat) (c : Command) : M Unit := do
  let st ← getStrand
  let s ← get
  let beam := homeBay st / baysPerBeam
  if !roomFor s beam c.wing then
    modStrand fun st => { st with pendingXe := some (d, c) }
    waitFor .engineRoom
  else
    let c := { c with seq := s.nextTicket, engine := leastLoaded s beam }
    set { s with commands := s.commands ++ [c], nextTicket := s.nextTicket + 1 }
    modStrand fun st => { st with pendingXe := none, r := regWrite st.r d (BitVec.ofNat 64 (ticketOf c)) }

/-- A command of the executing strand with its block and completion word. -/
def newCommand (s : State) (st : Strand) (fn : Nat) (block : List Byte) (cwa : Word) (x : Xl) : Command :=
  let bl : Option Block := st.blocks[0]?
  { seq := 2 ^ 60 + s.cur, engine := 4 * (homeBay st / baysPerBeam), fn := fn, wing := wingOf st, rid := st.r.rid.toNat,
    vf := vfOf st, strand := s.cur,
    asid := BitVec.ofNat 16 st.r.asid.toNat, ptbase := st.r.ptbase, vmid := vmidOf st,
    s2root := bl.elim 0 (·.ms2root), level := st.r.level, block := block, cwa := cwa, cwpa := some x.pa, cwSize := x.size,
    cwGlob := x.glob,
    state := .queued, status := 0, bytes := 0, done := 0, states := [], word := 0, cancel := false, removed := [], acc := [] }

/-- A command XE (R333 to R335). DEDUCED (log entry 37). -/
def issueCommand (fn : Nat) (b a d : BitVec 6) : M Unit := do
  let st ← getStrand
  match (if st.wait = .engineRoom then st.pendingXe else none) with
  | some (_, c) => placeCommand d.toNat c
  | none =>
    let sa := regRead st.r a.toNat
    let sb := regRead st.r b.toNat
    if sa.toNat % 64 != 0 then raise causeMisal sa
    else
      let bs ← seeingAll (readBlock fn sa.toNat)
      let x ← wordCheck sb
      let s ← get
      let c := newCommand s st fn bs sb x
      match ← blockReason st fn c with
      | some n => raise causeXcmd (sa ||| BitVec.ofNat 64 n)
      | none =>
        let c ← if fn = 4 then collList st sa c else pure c
        if fld c 9 1 % 2 = 1 then release (cmdScope c)
        placeCommand d.toNat c

/-- The word of an XE. -/
abbrev wordXe (fn : Nat) (b a d : BitVec 6) : Nat := wordSR 0x7D fn b.toNat a.toNat d.toNat

/-- XCOPY (R332, R341). -/
def execXcopy (b a d : BitVec 6) (s : State) : Result := runSeq (issueCommand 0 b a d) s

/-- XGATHER (R332, R342). -/
def execXgather (b a d : BitVec 6) (s : State) : Result := runSeq (issueCommand 1 b a d) s

/-- XPOOL (R332, R342). -/
def execXpool (b a d : BitVec 6) (s : State) : Result := runSeq (issueCommand 2 b a d) s

/-- XEXPAND (R332, R345). -/
def execXexpand (b a d : BitVec 6) (s : State) : Result := runSeq (issueCommand 3 b a d) s

/-- XCOLL (R332, R346). -/
def execXcoll (b a d : BitVec 6) (s : State) : Result := runSeq (issueCommand 4 b a d) s

/-- A runtime-only command XE: PRIV at user level (R53, R332). -/
def runtimeCommand (fn : Nat) (b a d : BitVec 6) : M Unit := do
  needRuntime (wordXe fn b a d)
  issueCommand fn b a d

/-- XSWAP (R399). Its frames are not held against the wings of the strand's virtual function. DESIGN CHOICE (log entry 59). -/
def execXswap (b a d : BitVec 6) (s : State) : Result := runSeq (runtimeCommand 64 b a d) s

/-- XMIG (R413). -/
def execXmig (b a d : BitVec 6) (s : State) : Result := runSeq (runtimeCommand 65 b a d) s

/-- XSEAL (R419). -/
def execXseal (b a d : BitVec 6) (s : State) : Result := runSeq (runtimeCommand 66 b a d) s

/-- XE_QUEUE_ROOM (R333): a waiting XE places its command once the queue has room, and completes. -/
def execXeQueueRoom (strand : Nat) (s : State) : Result :=
  runEvent (onStrand strand fun s st =>
    match st.pendingXe with
    | some (d, c) =>
      if st.wait = .engineRoom && roomFor s (homeBay st / baysPerBeam) c.wing then
        asStrand strand (do
          placeCommand d c
          modStrand fun st => retired st (st.r.pc + 4))
      else noPart
    | none => noPart) s

/-! ### XCANCEL and XQUERY (R348) -/

/-- The command of a ticket that is known (R348). -/
def commandOf (s : State) (ticket : Nat) : Option Command :=
  s.commands.find? fun c => ticketOf c == ticket && c.state != .expired

/-- Whether a command has passed its last destination write. -/
def passedLast (s : State) (c : Command) : Bool :=
  match c.fn with
  | 0 => c.state == .running && copyTotal c ≤ c.done
  | 1 => c.state == .running && fld c 72 4 ≤ c.done
  | 2 => c.state == .running && fld c 80 4 ≤ c.done
  | 3 => !c.states.isEmpty && thElems c ≤ c.done
  | 4 =>
    c.done != 0 && (if collOp c = 2 then 2 * collMembers c - 1 ≤ c.done else collMembers c ≤ c.done)
  | 64 => c.word == 1 && (fld c 33 1 == 1 || (s.swaps.find? (swapNames c)).all fun r => decide (r.size / 128 ≤ r.done.length))
  | 65 => c.word == 2
  | _ => c.word == 3

/-- XCANCEL (R348): 2 for an unknown ticket or another raising's, 1 where the command has passed its last write, has
ended, has failed or writes no word, else 0 and the command stops at its next unit. -/
def execXcancel (a d : BitVec 6) (s : State) : Result :=
  runSeq (do
    let st ← getStrand
    let s ← get
    match commandOf s (regRead st.r a.toNat).toNat with
    | none => ws d 2
    | some c =>
      if c.rid != st.r.rid.toNat then ws d 2
      else if c.state == .ended || (c.status != 0 && c.status != 5) || c.cwpa.isNone || (passedLast s c && !c.cancel) then ws d 1
      else
        let stop := fun (x : Command) => if x.seq = c.seq then { x with cancel := true } else x
        set { s with commands := s.commands.map stop }
        ws d 0) s

/-- The state code of XQUERY (R348). -/
def CmdState.code : CmdState → Nat
  | .queued => 1
  | .running => 2
  | .ended => 3
  | .expired => 0

/-- XQUERY (R348). -/
def execXquery (a d : BitVec 6) (s : State) : Result :=
  runSeq (do
    let st ← getStrand
    let s ← get
    match commandOf s (regRead st.r a.toNat).toNat with
    | none => ws d 0
    | some c =>
      let status := if c.state == .ended then c.status else 0
      ws d (BitVec.ofNat 64 (c.state.code * 2 ^ 62 + status % 64 * 2 ^ 56 + c.bytes % 2 ^ 48))) s

/-! ### Starts, units and ends (R336 to R338) -/

/-- One unit of a command of any function. -/
def commandUnit (c : Command) : EM (Option Command) :=
  match c.fn with
  | 0 => xcopyUnit c
  | 1 => xgatherUnit c
  | 2 => xpoolUnit c
  | 3 => xexpandUnit c
  | 4 => xcollUnit c
  | 64 => xswapUnit c
  | 65 => xmigUnit c
  | _ => xsealUnit c

/-- The state with one command replaced. -/
def putCommand (s : State) (c : Command) : State :=
  { s with commands := s.commands.map fun x => if x.seq = c.seq then c else x }

/-- The command an engine runs. -/
def runningOn (s : State) (e : Nat) : Option Command := s.commands.find? fun c => c.engine == e && c.state == .running

/-- The command a beam starts next (R336): acceptance order within a wing, wings of the beam in turn.
DEDUCED (log entry 38). -/
def nextOfBeam (s : State) (beam : Nat) : Option Command :=
  let turn := s.xeTurn.getD beam 0
  let order := (List.range 32).map fun i => (turn + 1 + i) % 32
  (order.filterMap fun w => (queuedIn s beam).find? fun c => c.wing == w).head?

/-- The command an engine may start: its beam's next, if it was given to this engine (R336). -/
def nextQueued (s : State) (e : Nat) : Option Command := (nextOfBeam s (e / 4)).filter fun c => c.engine == e

/-- What becomes of the machine's records when a command has failed before its end. -/
def abandon (s : State) (c : Command) : State := sealAbandon (migRelease (expandEmpty s c) c) c

/-- Performs up to `n` units of a command; a failure is kept in its status until it ends. -/
def progress (n : Nat) (c : Command) (s : State) : State × Progress :=
  let (c', p, s') := unitLoop commandUnit n c s
  match p with
  | .failed k => (putCommand s' { c' with status := k }, p)
  | _ => (putCommand s' c', p)

/-- The completion word of a command that ends (R337): its value on success, else bit 63, the status and the byte count. -/
def completionOf (c : Command) (status : Nat) : Nat :=
  if status = 0 then fld c 0 8 else 2 ^ 63 + status % 128 * 2 ^ 56 + c.bytes % 2 ^ 48

/-- A command ends: its completion word is written as its last act; one whose word's translation TLBINV has removed ends with
XLATE and writes none (R337, R338). DEDUCED (log entry 38). -/
def endCommand (s : State) (c : Command) (status : Nat) : State :=
  let status := if c.cwpa.isNone then 1 else status
  let s := if status = 0 then s else abandon s c
  let s := putCommand s { c with state := .ended, status := status }
  match c.cwpa with
  | none => s
  | some pa => physStore (drainForStore s pa 8) pa (leBytes 8 (completionOf c status))

/-- ENGINE_COMMAND_START (R336): an engine starts its next command, or goes on with the one it runs, for up to `blocks`
units. -/
def execEngineCommandStart (engine blocks : Nat) (s : State) : Result :=
  runEvent (do
    let s ← get
    match runningOn s engine with
    | some c => set (progress blocks c s).1
    | none =>
      match nextQueued s engine with
      | none => noPart
      | some c =>
        let c := { c with state := .running }
        let s := { putCommand s c with xeTurn := s.xeTurn.setIfInBounds (engine / 4) c.wing }
        set (progress blocks c s).1) s

/-- More units than any command has. -/
abbrev allUnits : Nat := 2 ^ 65

/-- A running command performs its remaining units and ends; one that must wait stays. -/
def finishCommand (s : State) (c : Command) : State :=
  let (s', p) := progress allUnits c s
  match s'.commands.find? fun x => x.seq == c.seq with
  | none => s'
  | some c' =>
    match p with
    | .finished => endCommand s' c' 0
    | .failed k => endCommand s' c' k
    | _ => s'

/-- ENGINE_COMMAND_END (R337): the running command of an engine does what is left of it and ends. -/
def execEngineCommandEnd (engine : Nat) (s : State) : Result :=
  runEvent (do
    let s ← get
    match runningOn s engine with
    | none => noPart
    | some c => set (finishCommand s c)) s

/-- COLLECTIVE_RING_STEP (R347): a running member receives a chunk from its partner and combines it. -/
def execCollectiveRingStep (ticket : Nat) (s : State) : Result :=
  runEvent (do
    let s ← get
    match commandOf s ticket with
    | none => noPart
    | some c => if c.fn = 4 && c.state == .running then set (progress 1 c s).1 else noPart) s

/-- Whether a member of a command's collective has failed, so that it may receive an abort; of a collective of packages
the failing member may be a peer (R347). -/
def collAborted (s : State) (c : Command) : Bool :=
  collLevel c == 1 ||
    s.commands.any fun x => sameColl x c && x.seq != c.seq && collRound s x == collRound s c && x.status != 0

/-- COLLECTIVE_ABORT (R347): a member receives an abort and ends with PEER; one that XCANCEL has stopped ends with
CANCELLED (R348). -/
def execCollectiveAbort (ticket : Nat) (s : State) : Result :=
  runEvent (do
    let s ← get
    match commandOf s ticket with
    | none => noPart
    | some c =>
      if c.fn = 4 && (c.state == .running || c.state == .queued) && collAborted s c then
        set (endCommand s c (if c.cancel then 5 else 13))
      else noPart) s

/-- TICKET_EXPIRY (R348): a ticket becomes unknown 1 ms after its command's end. -/
def execTicketExpiry (ticket : Nat) (s : State) : Result :=
  runEvent (do
    let s ← get
    match commandOf s ticket with
    | none => noPart
    | some c => if c.state == .ended then set (putCommand s { c with state := .expired }) else noPart) s

/-- MIGRATION_FLIP (R415): once every line of a running XMIG is copied, ownership passes to the destination. -/
def execMigrationFlip (ticket : Nat) (s : State) : Result :=
  runEvent (do
    let s ← get
    match commandOf s ticket with
    | none => noPart
    | some c =>
      if c.fn = 65 && c.state == .running && c.word = 1 && migSize c / 128 ≤ c.done then set (progress 1 c s).1 else noPart) s

end Sys2Proof.Machine
end

