-- ==== Sys2Proof/Machine/Work.lean ====
section
/-! DEFINITION. Launch packets and slots (R350 to R353), strands at start (R354, R355, R457), the work instructions (R356 to
R361), the end of stages and raisings (R360, R26), and QAPPEND (R362). -/

namespace Sys2Proof.Machine

open Sys2Proof.Config

/-! ### The Foreman's own accesses -/

/-- What Heartwood has fixed for a virtual function; one it has not mapped has no wing (R408). -/
def vfRecord (s : State) (vf : Nat) : Vf :=
  (s.vfs.find? fun v => v.num == vf).getD
    { num := vf, wings := [], runtime := false, asid := 0, ptbase := 0, vmid := 0, s2root := 0 }

/-- The Foreman as a party that translates through the page tables of a raising's virtual function (R352): its accesses
are checked as an engine's at system scope, on a translator of its own. -/
def foremanAs (v : Vf) : Command :=
  { seq := 0, engine := 32, fn := 255, wing := 0, rid := 0, vf := v.num, strand := 0, asid := v.asid, ptbase := v.ptbase,
    vmid := v.vmid, s2root := v.s2root, level := if v.runtime then .runtime else .user,
    block := leBytes 9 0 ++ leBytes 1 20, cwa := 0, cwpa := none, cwSize := 12, cwGlob := false, state := .running,
    status := 0, bytes := 0, done := 0,
    states := [], word := 0, cancel := false, removed := [], acc := [] }

/-- How an access of the Foreman ends: done, failed, or to be made again since a line of it is held (R286, R420). -/
inductive Tried (α : Type) where
  | done (x : α)
  | failed
  | held

/-- Runs an engine's action. -/
def tryEngine {α : Type} (x : EM α) : M (Tried α) := fun s =>
  match x s with
  | .ok a s' => .ok (.done a) s'
  | .error .held _ => .ok .held s
  | .error _ s' => .ok .failed s'

/-- Writes a raising's completion word (R352): whether it was written, or `none` while its line is held. -/
def writeCompletion (v : Vf) (cwa : Word) (value : Nat) : M (Option Bool) := do
  if cwa.toNat % 8 != 0 then return some false
  else
    match ← tryEngine (engWrite (foremanAs v) false cwa.toNat (clean (leBytes 8 value))) with
    | .done _ => return some true
    | .failed => return some false
    | .held => return none

/-! ### Launch slots (R351) -/

/-- A launch slot in its reset state. -/
def freeSlot (vf idx : Nat) : LaunchSlot :=
  { vf := vf, idx := idx, bytes := 0, state := 0, ovr := false, cwf := false, lstat := 0, rid := 0 }

/-- A launch slot. -/
def launchOf (s : State) (vf idx : Nat) : LaunchSlot :=
  (s.launch.find? fun x => x.vf == vf && x.idx == idx).getD (freeSlot vf idx)

/-- The state with a launch slot replaced. -/
def putLaunch (s : State) (x : LaunchSlot) : State :=
  { s with launch := s.launch.filter (fun y => !(y.vf == x.vf && y.idx == x.idx)) ++ [x] }

/-- The status word of a slot (R351). -/
def launchStatus (x : LaunchSlot) : Word :=
  BitVec.ofNat 64 (x.state.toNat * 2 ^ 61 + (if x.ovr then 2 ^ 60 else 0) + (if x.cwf then 2 ^ 59 else 0) +
    x.lstat.toNat * 2 ^ 48 + (if x.state = 0 then 0 else x.rid % 2 ^ 48))

/-- The end of a raising in its slot (R351, R352): its completion word is written, or its end is recorded in the slot and
in the error log; the slot is free in the same step. While the word's line is held the slot is ending. -/
def endRaising (v : Vf) (slot rid : Nat) (cwa : Word) (status value : Nat) : M Unit := do
  match ← writeCompletion v cwa value with
  | none => modify fun s =>
      let e : Ending := { rid := rid, vf := v.num, slot := slot, cwa := cwa, status := status, value := value }
      { putLaunch s { launchOf s v.num slot with state := 3, rid := rid } with endings := s.endings ++ [e] }
  | some ok => modify fun s =>
      let x : LaunchSlot := { launchOf s v.num slot with state := 0, rid := 0, cwf := !ok, lstat := BitVec.ofNat 8 status }
      let s := putLaunch s x
      if ok then s
      else logError s { time := s.time, kind := 6, bay := 0, cause := status, rid := rid, xval := cwa }

/-- An end that has waited writes its completion word. -/
def finishEnding (e : Ending) : M Unit := do
  modify fun s => { s with endings := s.endings.filter (· != e) }
  let s ← get
  endRaising (vfRecord s e.vf) e.slot e.rid e.cwa e.status e.value

/-- Whether the completion word of a waiting end can be written now. -/
def endingReady (s : State) (e : Ending) : Bool :=
  match writeCompletion (vfRecord s e.vf) e.cwa e.value s with
  | .ok none _ => false
  | _ => true

/-- The completion value of a refusal (R352). -/
def refusalWord (status : Nat) : Nat := 2 ^ 63 + status * 2 ^ 56

/-! ### Packets (R350, R353) -/

/-- Enabled bays of a set of wings (R28). DESIGN CHOICE (log entry 3). -/
def enabledBays (s : State) (wings : List Nat) : List Nat :=
  (List.range numBays).filter fun n => wings.contains (wingOfBay n) && !s.part.fused.contains n

/-- The wings a packet allows (R350). -/
def packetWings (v : Vf) (bs : List Byte) : List Nat :=
  let m := bytesAt bs 44 4
  if m = 0 then v.wings else (List.range 32).filter fun w => m / 2 ^ w % 2 == 1

/-- A stage with an empty queue. -/
def newStage (entry strands span flags cap producer buf : Nat) : Stage :=
  { entry := BitVec.ofNat 64 entry, strands := strands, span := span, flex := flags % 2 == 1, cap := cap,
    producer := producer, buf := BitVec.ofNat 64 buf, items := [], closed := false, complete := false, created := 0,
    score := 0 }

/-- Entry `i` of a stage table (R353). -/
def stageAt (tab : List Byte) (i : Nat) : Stage :=
  let f := fun o n => bytesAt tab (32 * i + o) n
  newStage (f 0 8) (f 8 2) (f 10 1) (f 11 1) (f 12 4) (f 16 1) (f 24 8)

/-- Shape limits of a stage (R350, R353). -/
def shapeBad (x : Stage) : Bool :=
  x.entry.toNat % 16 != 0 || x.strands == 0 || 320 < x.strands || !(x.span == 1 || x.span == 2 || x.span == 4 || x.span == 8) ||
    320 < x.strands * x.span

/-- Whether entry `i` of a stage table breaks a limit of R353. -/
def stageBad (tab : List Byte) (i : Nat) : Bool :=
  let x := stageAt tab i
  shapeBad x || bytesAt tab (32 * i + 11) 1 / 2 != 0 || !zeroBytes tab (32 * i + 17) (32 * i + 24) ||
    (if i = 0 then x.cap != 0 || x.producer != 0 || x.buf != 0
     else x.cap == 0 || 65536 < x.cap || i ≤ x.producer || x.buf.toNat % 64 != 0)

/-- Whether a packet breaks a limit of R350 or has a must-be-zero field that is not zero. -/
def packetBad (bs : List Byte) : Bool :=
  let f := bytesAt bs
  let auto := f 27 1 / 2 % 2 == 1
  let tab := f 32 8 != 0
  f 16 8 ≥ 2 ^ 48 || f 27 1 / 4 != 0 || (if auto then f 28 4 != 0 else f 28 4 == 0 || 65535 < f 28 4) || f 32 8 % 32 != 0 ||
    7 < f 40 1 || f 41 1 != 0 || f 120 8 % 8 != 0 || 2 ^ 63 ≤ f 128 8 || f 136 8 % 128 != 0 || f 144 8 % 128 != 0 ||
    !zeroBytes bs 152 256 ||
    (if tab then f 0 8 != 0 || f 24 4 != 0
     else shapeBad (newStage (f 0 8) (f 24 2) (f 26 1) (f 27 1) 0 0 0))

/-- The stages of a packet: from its stage table, which has as many entries as its container has stages, or the one stage of
the packet itself; failed where the table cannot be read or breaks a limit. DEDUCED (log entry 41). -/
def packetStages (v : Vf) (k : Option Container) (bs : List Byte) : M (Tried (List Stage)) := do
  let tab := bytesAt bs 32 8
  if tab = 0 then
    return .done [newStage (bytesAt bs 0 8) (bytesAt bs 24 2) (bytesAt bs 26 1) (bytesAt bs 27 1) 0 0 0]
  else
    let n := k.elim 1 (·.stages)
    match ← tryEngine (engUse (foremanAs v) false tab (32 * n)) with
    | .held => return .held
    | .failed => return .failed
    | .done t =>
      if n = 0 || 8 < n || (List.range n).any (stageBad t) then return .failed
      else return .done ((List.range n).map (stageAt t))

/-- The bytes of one stack of a stage (R67, R457): B + M × VLENB × SPAN of its entry, rounded up to 128. An entry whose
container records no stack size has a stack of no byte. DESIGN CHOICE (log entry 55). -/
def stackBytes (k : Option Container) (x : Stage) : Nat :=
  match (k.elim [] (·.stackSizes)).find? fun e => e.1 == x.entry with
  | some e => (e.2.1 + e.2.2 * vlenb * x.span + 127) / 128 * 128
  | none => 0

/-- The bytes of a stack set (R457): those of the largest bent of any stage. -/
def setBytes (k : Option Container) (xs : List Stage) : Nat := xs.foldl (fun a x => max a (x.strands * stackBytes k x)) 0

/-- Sets a stack pool holds (R457); where a set needs no byte there is no limit. -/
def stackSets (size pool : Nat) : Nat := if size = 0 then 2 ^ 64 else pool / size

/-- The Foreman's checks of a committed packet, in their order (R352): the status of a refusal. -/
def packetStatus (s : State) (vf : Nat) (v : Vf) (k : Option Container) (stages : Option (List Stage)) (bs : List Byte) :
    Option Nat :=
  let wings := packetWings v bs
  match stages with
  | none => some 1
  | some xs =>
    if packetBad bs then some 1
    else if bytesAt bs 42 2 != vf || !wings.all v.wings.contains then some 3
    else if xs.any fun x => (enabledBays s wings).length < x.strands * x.span then some 2
    else if stackSets (setBytes k xs) (bytesAt bs 144 8) < xs.length then some 4
    else
      match k with
      | none => some 5
      | some c =>
        if !wings.all c.wings.contains || xs.any (fun x => x.entry.ult c.textBase || !x.entry.ult c.textEnd) then some 5
        else none

/-- A waiting bent that has never been placed. DESIGN CHOICE (log entry 2). -/
def newBent (rid stage bid : Nat) (item : List (BitVec 64)) : Bent :=
  { rid := rid, stage := stage, bid := bid, state := .waiting, strands := [], item := item, phase := Vector.replicate 16 0,
    arrived := Vector.replicate 16 [], stack := none, started := false, preempt := false, candidate := false,
    displacedBy := none, waitedMs := 0,
    placedPrio := 0, placedAt := 0, placedSeq := 0, held := false, halted := false }

/-- Bents of stage 0 (R350, R354). -/
def packetBents (s : State) (wings : List Nat) (x : Stage) (bs : List Byte) : Nat :=
  if bytesAt bs 27 1 / 2 % 2 = 1 then max 1 ((enabledBays s wings).length / (x.strands * x.span)) else bytesAt bs 28 4

/-- A raising is admitted: its bents of stage 0 wait (R352, R354). -/
def admitRaising (s : State) (rid vf slot : Nat) (v : Vf) (xs : List Stage) (bs : List Byte) : State :=
  let f := bytesAt bs
  let wings := packetWings v bs
  let n := packetBents s wings (xs.headD (newStage 0 1 1 0 0 0 0)) bs
  let r : Raising :=
    { rid := rid, vf := vf, slot := slot, stages := xs.modify 0 fun x => { x with created := n },
      cont := BitVec.ofNat 64 (f 8 8), n := f 16 8, bents := n,
      args := (List.range 8).map fun i => BitVec.ofNat 64 (f (48 + 8 * i) 8), ablk := BitVec.ofNat 64 (f 112 8),
      cwa := BitVec.ofNat 64 (f 120 8), cval := BitVec.ofNat 64 (f 128 8), spool := BitVec.ofNat 64 (f 136 8),
      spsz := BitVec.ofNat 64 (f 144 8), prio := f 40 1, wings := wings, aborted := false, ended := false }
  let s := { s with raisings := s.raisings ++ [r], bents := s.bents ++ (List.range n).map fun i => newBent rid 0 i [] }
  putLaunch s { launchOf s vf slot with state := 1, rid := rid }

/-- The container a packet names. -/
def packetContainer (s : State) (bs : List Byte) : Option Container :=
  s.containers.find? fun c => c.handle.toNat == bytesAt bs 8 8

/-- The Foreman checks a committed packet and admits its raising, or refuses it, which ends it at once (R352); where the line
of the stage table is held, the packet waits in its slot. DEDUCED (log entry 41). -/
def admitPacket (rid vf slot : Nat) (bs : List Byte) : M Unit := do
  let s ← get
  let v := vfRecord s vf
  let k := packetContainer s bs
  let settle := fun (stages : Option (List Stage)) => do
    let s ← get
    match packetStatus s vf v k stages bs with
    | some st => endRaising v slot rid (BitVec.ofNat 64 (bytesAt bs 120 8)) st (refusalWord st)
    | none => set (admitRaising s rid vf slot v (stages.getD []) bs)
  match ← packetStages v k bs with
  | .done stages => settle (some stages)
  | .failed => settle none
  | .held => modify fun s =>
      { putLaunch s { launchOf s vf slot with state := 1, rid := rid } with
        admissions := s.admissions ++ [{ rid := rid, vf := vf, slot := slot, bytes := bs }] }

/-- A packet that has waited is checked. -/
def finishAdmission (x : Admission) : M Unit := do
  modify fun s => { s with admissions := s.admissions.filter (· != x) }
  admitPacket x.rid x.vf x.slot x.bytes

/-- Whether the stage table of a waiting packet can be read now. -/
def admissionReady (s : State) (x : Admission) : Bool :=
  match packetStages (vfRecord s x.vf) (packetContainer s x.bytes) x.bytes s with
  | .ok .held _ => false
  | _ => true

/-- A COMMIT of a packet to a free slot (R351, R352): its RID. DEDUCED (log entry 41). -/
def commit (vf slot : Nat) (bs : List Byte) : M Nat := do
  let s ← get
  set { s with nextRid := s.nextRid + 1 }
  admitPacket s.nextRid vf slot bs
  return s.nextRid

/-- Replaces bytes of a 256-byte slot. -/
def slotBytes (old : BitVec 2048) (o : Nat) (bs : List Byte) : BitVec 2048 :=
  bs.zipIdx.foldl (fun x b => setField x (8 * (o + b.2)) 8 b.1.toNat) old

/-- LAUNCH_SLOT_WRITE (R351): a write to a slot; one that covers bytes 248 to 255 of a free slot commits it. -/
def slotWrite (vf slot offset : Nat) (bytes : List Byte) : M Unit := do
  let s ← get
  let x := launchOf s vf slot
  if 16 ≤ slot || 256 < offset + bytes.length then noPart
  else if x.state != 0 then set (putLaunch s { x with ovr := true })
  else
    let x := { x with bytes := slotBytes x.bytes offset bytes }
    set (putLaunch s x)
    if offset ≤ 248 && offset + bytes.length = 256 then
      let _ ← commit vf slot ((List.range 256).map fun i => BitVec.ofNat 8 (getField x.bytes (8 * i) 8))

/-- LAUNCH_SLOT_WRITE (R351). -/
def execLaunchSlotWrite (vf slot offset : Nat) (bytes : List (BitVec 8)) (s : State) : Result :=
  runEvent (slotWrite vf slot offset bytes) s

/-! ### Raisings and stages -/

/-- A raising by its number. -/
def raisingOf (s : State) (rid : Nat) : Option Raising := s.raisings.find? fun r => r.rid == rid

/-- Changes a raising. -/
def modRaising (s : State) (rid : Nat) (f : Raising → Raising) : State :=
  { s with raisings := s.raisings.map fun r => if r.rid = rid then f r else r }

/-- Changes a stage of a raising. -/
def modStage (s : State) (rid stage : Nat) (f : Stage → Stage) : State :=
  modRaising s rid fun r => { r with stages := r.stages.modify stage f }

/-- The queues a stage feeds close (R360). -/
def closeOutputs (stage : Nat) (xs : List Stage) : List Stage :=
  xs.zipIdx.map fun (x, i) => if i != 0 && x.producer == stage then { x with closed := true } else x

/-- Whether a bent of a stage has not ended. -/
def stageLive (s : State) (rid stage : Nat) : Bool :=
  s.bents.any fun b => b.rid == rid && b.stage == stage && b.state != .ended

/-- Stages of a raising complete in ascending order, and their output queues close (R360). -/
def settleRaising (s : State) (rid : Nat) : State :=
  modRaising s rid fun r =>
    { r with stages := (List.range r.stages.length).foldl (fun xs i =>
        match xs[i]? with
        | none => xs
        | some x =>
          if !x.complete && !stageLive s rid i && (i = 0 || (x.closed && x.items.isEmpty)) then
            closeOutputs i (xs.set i { x with complete := true })
          else xs) r.stages }

/-- A strand ends without an EXIT of its own: converted ways are cleared, shim lines drained and shares returned. -/
def killStrand (s : State) (k : Nat) : State :=
  match s.strands[k]? with
  | none => s
  | some st =>
    if st.exited then s
    else
      let clear := fun (bl : Block) => { bl with ways := 0, slog := [] }
      let s :=
        if (s.bents[st.bent]?).any (·.state == .resident) then
          st.blocks.foldl (fun s bl => leaveBay (giveBack (changeWays false bl.ways.toNat s bl) bl.bay) bl) s
        else s
      let st := { st with
        exited := true, wait := .none, inflight := none, pendingXe := none, multiplies := [], slogPending := false,
        inbox := [], granted := [], requests := [], prefetch := [],
        blocks := st.blocks.map clear }
      let free := fun (r : Region) => if (r.serving.any fun x => x.1 == k) then { r with serving := none } else r
      { s with strands := s.strands.set k st, regions := s.regions.map free }

/-- Ends every bent of a raising. -/
def killBents (s : State) (rid : Nat) : State :=
  let mine := s.bents.filter fun b => b.rid == rid
  let s := mine.foldl (fun s b => b.strands.foldl killStrand s) s
  { s with bents := s.bents.map fun b => if b.rid = rid then { b with state := .ended, stack := none } else b }

/-- A raising is ended from outside: its bents run nothing more, and it ends with status 6 once its engine commands have
(R352, R433). -/
def abortRaising (s : State) (r : Raising) : State :=
  let s := killBents s r.rid
  modRaising (putLaunch s { launchOf s r.vf r.slot with state := 3, rid := r.rid }) r.rid fun r => { r with aborted := true }

/-- RAISING_END (R26, R340, R352, R360, R428): every stage is complete and every command of its strands has ended, so the
completion word is written and the slot is free. Of a raising that has work left it is the runtime that ends it, with
status 6. DEDUCED (log entry 41). -/
def execRaisingEnd (rid : Nat) (s : State) : Result :=
  runEvent (do
    let s ← get
    match raisingOf s rid with
    | none => noPart
    | some r =>
      let busy := fun (s : State) => s.commands.any fun c => c.rid == rid && (c.state == .queued || c.state == .running)
      if r.ended then noPart
      else
        let done := !r.aborted && r.stages.all (·.complete)
        if !r.aborted && !done then set (abortRaising s r)
        let s ← get
        if busy s then (if r.aborted || done then noPart else return ())
        else
          set (modRaising s rid fun r => { r with ended := true })
          let v := vfRecord s r.vf
          if done then endRaising v r.slot rid r.cwa 0 r.cval.toNat
          else endRaising v r.slot rid r.cwa 6 (refusalWord 6)) s

/-! ### Strands at start (R354, R355, R457) -/

/-- floor(k × n ÷ p) (R354). -/
def shareStart (k n p : Nat) : Nat := k * n / p

/-- MPLACE of a strand whose position 0 lies in wing `w` (R380). -/
def placeWord (v : Vf) (w : Nat) : Word :=
  BitVec.ofNat 64 (v.vmid.toNat * 2 ^ 32 + v.num % 1024 * 2 ^ 16 + w * 2 ^ 8 + if v.runtime then 1 else 0)

/-- A block before the first instruction (R355). DESIGN CHOICE (log entry 2). -/
def newBlock (bay b : Nat) (place s2root : Word) : Block :=
  { bay := bay, v := 0, m := BitVec.ofNat mfileBits (2 ^ maskBits - 1), carry := 0, gens := seedGens 0 b, slices := [],
    slots := Vector.replicate 16 (emptySlot false), tiles := Vector.replicate 4 zeroTile, slog := [], ways := 0, scratch := [],
    outst := Vector.replicate 5 0, fifo := [], strongOut := [], unreleased := [], badRegs := [], mplace := place,
    ms2root := s2root, ms2flt := 0, ms2ctl := 0,
    mecc := 0 }

/-- What a strand starts with (R354, R355): its identity, its share of the elements, and its arguments. -/
structure Start where
  sid : Nat
  nstr : Nat
  n : Nat
  sp : Nat
  ptr : Word
  args : List Word
  deriving DecidableEq, Repr

/-- The scalar registers before the first instruction (R355). -/
def startRegs (x : Start) : Vector (BitVec 64) 64 :=
  let lo := shareStart x.sid x.n x.nstr
  let hi := shareStart (x.sid + 1) x.n x.nstr
  Vector.ofFn fun i =>
    if i.val = 2 then BitVec.ofNat 64 x.sp
    else if i.val = 4 then BitVec.ofNat 64 lo
    else if i.val = 5 then BitVec.ofNat 64 (hi - lo)
    else if i.val = 6 then BitVec.ofNat 64 x.n
    else if i.val = 7 then x.ptr
    else if 8 ≤ i.val && i.val < 16 then x.args.getD (i.val - 8) 0
    else 0

/-- The registers before the first instruction: reset values of R95 and R376 to R379. -/
def newRegs (x : Start) (entry : Word) (v : Vf) (xvec : Word) (bid stage rid : Nat) : Regs :=
  { s := startRegs x, pc := entry, level := if v.runtime then .runtime else .user, vl := 0, vt := 1, vstart := 0, mst := 0,
    frm := 0, srseed := 0, jshape := 0, fprog := 0, fcap := 256, fst := 0, rstg := 0, qcnt := 0,
    sid := BitVec.ofNat 64 x.sid, bid := BitVec.ofNat 64 bid, stg := BitVec.ofNat 64 stage, rid := BitVec.ofNat 64 rid,
    nstr := BitVec.ofNat 64 x.nstr, wto := 0, cycle := 0, acyc := 0, xpc := 0, xcause := 0, xval := 0, xstat := 0, xvec := xvec,
    xscr := 0, asid := v.asid.setWidth 64, ptbase := v.ptbase, slogEn := true, slogOvf := false, fmode := 0, fragbase := 0,
    watcha := 0 }

/-- Most bytes a save writes for one attached bay (R369). -/
abbrev saveBytesPerBay : Nat :=
  1024 + 65536 + (8192 + 16 * 1040 + 264) + (16384 + 32768 + 1024) + 16 * 139264 + 4 * 262144 + 6291456 + 6 * 65536 + 128 * 384

/-- Most bytes of a bent's own state, which the model reserves beside its first strand's (R369). -/
abbrev saveBytesOfBent : Nat := 256

/-- A strand before its first instruction (R355), at position `index` of bent `bent`: its save area is reserved from its
launch span (R369). DESIGN CHOICE (log entry 2). -/
def newStrand (bent index : Nat) (r : Regs) (blocks : List Block) : Strand :=
  { bent := bent, index := index, r := r, blocks := blocks, saveBase := 0, saved := [],
    saveSize := saveBytesPerBay * blocks.length + (if index = 0 then saveBytesOfBent else 0), shrink := none, frags := [], spilled := 0,
    fibres := Vector.replicate 8 emptyFibre, inbox := [], sending := none, granted := [], requests := [], prefetch := [],
    multiplies := [],
    pend := Vector.replicate 16 none, barsDone := false, wait := .none, waited := 0, slogPending := false, logSeq := 0,
    drains := [], pending := [], strongNow := false, fetchSince := 0, fetchStale := [], acquiredAt := 0, acquiredStale := [],
    inflight := none, pendingXe := none, exited := false }

/-- A strand at its launch: what it fetches is at least as new as the memory it is placed on (R405). -/
def launched (s : State) (st : Strand) : Strand :=
  { st with fetchSince := s.written.length, fetchStale := unreleased s, acquiredAt := s.written.length,
            acquiredStale := unreleased s }

/-! ### Instructions (R356 to R361) -/

/-- The stage of the executing strand. -/
def myStage (st : Strand) : Nat := st.r.stg.toNat

/-- RAISE (R357). -/
def execRaise (a d : BitVec 6) (s : State) : Result :=
  runSeq (do
    let st ← getStrand
    let sa := regRead st.r a.toNat
    if sa.toNat % 256 != 0 then raise causeMisal sa
    else
      let bs ← seeingVector (readWords sa.toNat 32)
      release 3
      let s ← get
      let vf := vfOf st
      match (List.range 16).find? fun i => (launchOf s vf i).state == 0 with
      | none => ws d 0x8700000000000000
      | some i =>
        modify fun s => putLaunch s { launchOf s vf i with bytes := slotBytes 0 0 bs }
        let rid ← commit vf i bs
        ws d (BitVec.ofNat 64 rid)) s

/-- QSTATE of QPUSH (R358): the raising has one stage, or s[sb] names no stage that the strand's stage feeds, or the
queue is closed. -/
def pushStage (s : State) (st : Strand) (x : Nat) : Option Stage :=
  match raisingOf s st.r.rid.toNat with
  | none => none
  | some r =>
    match r.stages[x]? with
    | none => none
    | some g => if x = 0 || g.producer != myStage st || g.closed then none else some g

/-- QPUSH (R358). DEDUCED (log entry 42). -/
def execQpush (b a d : BitVec 6) (s : State) : Result :=
  runSeq (do
    let st ← getStrand
    let sa := regRead st.r a.toNat
    let sb := regRead st.r b.toNat
    let rid := st.r.rid.toNat
    if sa.toNat % 64 != 0 then raise causeMisal sa
    else
      let s ← get
      match pushStage s st sb.toNat with
      | none => raise causeQstate sb
      | some _ =>
        let bs ← seeingVector (readWords sa.toNat 8)
        let s ← get
        match pushStage s st sb.toNat with
        | none => raise causeQstate sb
        | some g =>
          if g.cap ≤ g.items.length then waitFor (.queueFull sb.toNat)
          else
            release 3
            let item := (List.range 8).map fun i => BitVec.ofNat 64 (bytesAt bs (8 * i) 8)
            modify fun s => modStage s rid sb.toNat fun g => { g with items := g.items ++ [item] }
            ws d (BitVec.ofNat 64 (g.items.length + 1))) s

/-- QPUSH_ROOM (R358): a strand that waits on a full queue which now has room issues its QPUSH again. -/
def execQpushRoom (strand : Nat) (s : State) : Result :=
  runEvent (onStrand strand fun s st =>
    match st.wait with
    | .queueFull x =>
      match pushStage s st x with
      | some g => if g.items.length < g.cap then set (setStrandAt s strand { st with wait := .none }) else noPart
      | none => set (setStrandAt s strand { st with wait := .none })
    | _ => noPart) s

/-- QPUSH_CANDIDATE_MARK (R366): a strand has waited in QPUSH for more than 50 µs. -/
def execQpushCandidateMark (strand : Nat) (s : State) : Result :=
  runEvent (onStrand strand fun s st =>
    match st.wait with
    | .queueFull _ => set { s with bents := s.bents.modify st.bent fun b => { b with candidate := true } }
    | _ => noPart) s

/-- QPOP (R359): MISAL, then QSTATE, then the item is taken and written. -/
def execQpop (a d : BitVec 6) (s : State) : Result :=
  runSeq (do
    let st ← getStrand
    let sa := regRead st.r a.toNat
    let rid := st.r.rid.toNat
    let stage := myStage st
    if sa.toNat % 64 != 0 then raise causeMisal sa
    else if stage = 0 then raise causeQstate 0
    else
      let s ← get
      match (raisingOf s rid).bind fun r => r.stages[stage]? with
      | none => raise causeQstate 0
      | some g =>
        match g.items with
        | [] => ws d (if g.closed then 0xFFFFFFFFFFFFFFFF else 0)
        | item :: rest =>
          storeBytes 0 sa.toNat (item.flatMap fun x => leBytes 8 x.toNat) 0 false false true
          modify fun s => settleRaising (modStage s rid stage fun g => { g with items := rest }) rid
          acquire 3
          ws d 1) s

/-- The executing strand's bent after one of its strands has exited (R327, R361): its barriers advance, and it ends when
all have. -/
def strandExited (s : State) (st : Strand) : State :=
  match s.bents[st.bent]? with
  | none => s
  | some b =>
    let b := advancePhases s b
    let done := b.strands.all fun k => (s.strands[k]?).all (·.exited)
    let b := if done then { b with state := .ended, stack := none } else b
    let s := if done then (b.strands.filterMap fun k => s.strands[k]?).foldl (fun s x => x.blocks.foldl leaveBay s) s else s
    settleRaising { s with bents := s.bents.set st.bent b } b.rid

/-- EXIT (R361): it waits for empty side logs and for an XEXPAND into its slots or slices; then slots are released, ways
restored, shim lines drained and shares returned, its messages discarded (R245), and the strand ends. DEDUCED (log entry 42). -/
def execExit (s : State) : Result :=
  runSeq (do
    let st ← getStrand
    if slogCount st != 0 then waitFor .sideLog
    awaitExpand fun _ _ _ => true
    modify fun s => st.blocks.foldl (fun s bl => giveBack (changeWays false bl.ways.toNat s bl) bl.bay) s
    modBlocks fun bl => { bl with slots := Vector.replicate 16 (emptySlot false), ways := 0 }
    release 3
    modStrand fun st => { st with exited := true, multiplies := [], inbox := [], requests := [], prefetch := [] }
    let st ← getStrand
    modify fun s => strandExited s st) s

/-- STGDONE (R360). -/
def execStgdone (s : State) : Result :=
  runSeq (do
    release 3
    let st ← getStrand
    modify fun s =>
      settleRaising (modRaising s st.r.rid.toNat fun r => { r with stages := closeOutputs (myStage st) r.stages })
        st.r.rid.toNat) s

/-! ### QAPPEND (R362) -/

/-- Active elements of the span in ascending index: position and local index (R111). -/
def activeList (st : Strand) (m : Nat) : List (Nat × Nat) :=
  if st.r.vl = 0 then []
  else st.blocks.zipIdx.flatMap fun (bl, b) =>
    ((List.range (belowVl st.r.vl (vlbOf st.r.vt) b)).filter fun j => maskOn bl m j).map fun j => (b, j)

/-- The stores of an append, from place `k` on (R362). -/
def appendStores (base wm d : Nat) (rq : BitVec 2) : Nat → List (Nat × Nat) → M Unit
  | _, [] => return ()
  | k, (b, j) :: t => do
    let st ← getStrand
    let bl ← getBlock b
    let mode := if (vmFloat st.r.vt wm).isSome then frmMode st.r else 0
    let u ← drawFor mode b j
    let x := narrowElem st.r.vt wm (elemRead bl (vtWidth st.r.vt) d j) mode u
    let va := (base + k * (wm / 8)) % 2 ^ 64
    storeValue b va (wm / 8) x.bits rq false true
    raiseFlags x.flags x.nanc
    appendStores base wm d rq (k + 1) t

/-- The reservation: TAIL advanced by `n` as one AMO ADD, checked under R282, behind the release that QAPPEND is (R313);
what TAIL held (R362). -/
def reserve (va n : Nat) : M Nat := do
  let st ← getStrand
  checkWatch va 8 .atomic
  if overlapsLog st va 8 then waitFor .sideLog
  else
    match ← checkAtomic false 0 va 8 true with
    | .log t => raiseT t
    | .fail t => raiseT t
    | .ok pages =>
      release 3
      let (old, _) ← performAtomic 0 va 0 true true false pages n 0
      return old

/-- What follows the reservation: CAP and BASE are read and the elements that have a place are stored; their number
(R362). -/
def appendBody (va old wm d : Nat) (r : BitVec 2) (es : List (Nat × Nat)) : M Nat := do
  let cap ← loadValue 0 (va + 8) 8 r true
  let base ← loadValue 0 (va + 16) 8 r true
  let c := min es.length (cap - old)
  appendStores base wm d r old (es.take c)
  return c

/-- QAPPEND (R362). A wait leaves nothing of it; a load or store that traps leaves TAIL advanced and QCNT 0. -/
def appendRun (r : BitVec 2) (w m : BitVec 3) (a : BitVec 6) (d : BitVec 5) : M Unit := do
  let st ← getStrand
  let es := activeList st m.toNat
  if es.isEmpty then
    release 3
    modRegs fun q => { q with qcnt := 0 }
  else
    let va := (regRead st.r a.toNat).toNat
    let s0 ← get
    if va % 32 != 0 then
      checkWatch va 8 .atomic
      raise causeMisal (BitVec.ofNat 64 va)
    else
      let old ← reserve va es.length
      let s1 ← get
      match ← attempt (appendBody va old (vmWidth st.r.vt w) d.toNat r es) with
      | .ok c => modRegs fun q => { q with qcnt := BitVec.ofNat 64 c }
      | .error (.trap t) =>
        modify fun e => rollback s1 e
        modRegs fun q => { q with qcnt := 0 }
        raiseT t
      | .error x =>
        modify fun e => rollback s0 e
        throw x

/-- What a QAPPEND that stops keeps over the state before its convoy: what it did to memory, and QCNT. -/
def keepAppend (pre err : State) : State :=
  let s := { rollback pre err with
    mem := err.mem, poison := err.poison, shims := err.shims, bays := err.bays, dirty := err.dirty, written := err.written }
  match strandOf s, strandOf err with
  | some p, some e =>
    let counted := List.zipWith (fun (a b : Block) => { a with outst := b.outst, fifo := b.fifo }) p.blocks e.blocks
    putStrand s { p with r := { p.r with qcnt := e.r.qcnt }, pending := e.pending, blocks := counted }
  | _, _ => s

/-- The member QAPPEND (R362). -/
def memberQappend (r : BitVec 2) (w m : BitVec 3) (a : BitVec 6) (d : BitVec 5) : Member :=
  { plainMember .mem true (fun st => Instr.subByteCode w || vtWidth st.r.vt < 8 || wideBad w d st) (fun q => vtWidth q.vt)
      (fun _ => appendRun r w m a d)
    with keep := keepAppend }

/-- QAPPEND (R362). DEDUCED (log entry 36). -/
def execQappend (r : BitVec 2) (w m : BitVec 3) (a : BitVec 6) (d : BitVec 5) (s : State) : Result :=
  runSolo (wordVM 0x5E 0 r.toNat w.toNat m.toNat 0 a.toNat d.toNat) (memberQappend r w m a d) s

end Sys2Proof.Machine
end

