-- ==== Sys2Proof/Machine/Foreman.lean ====
section
/-! DEFINITION. The Foreman (R363 to R370): placement, aging, scoring, instances, requests for pre-emption, YIELD, and the
first issue of a bent. -/

namespace Sys2Proof.Machine

open Sys2Proof.Config

/-! ### Bays and priorities -/

/-- Time passes (R95). DESIGN CHOICE (log entry 8). DEDUCED (log entry 54). -/
def tick : M Unit := modify fun s => { s with time := s.time + elapsed s.fresh, fresh := s.fresh + 1 }

/-- A bent by its number. -/
def bentAt (s : State) (k : Nat) : Option Bent := s.bents[k]?

/-- The state with a bent replaced. -/
def putBent (s : State) (k : Nat) (b : Bent) : State := { s with bents := s.bents.set k b }

/-- Spans a bent's strands need, in order; none for a strand that has exited (R363). -/
def bentSpans (s : State) (b : Bent) : List Nat :=
  if b.strands.isEmpty then
    match (raisingOf s b.rid).bind fun r => r.stages[b.stage]? with
    | some x => List.replicate x.strands x.span
    | none => []
  else b.strands.map fun k => (s.strands[k]?).elim 0 fun st => if st.exited then 0 else spanOf st

/-- Bays a bent needs. -/
def bentNeed (s : State) (b : Bent) : Nat := (bentSpans s b).foldl (· + ·) 0

/-- The wings a bent may use: those its packet allows, mapped to its virtual function (R15, R350). -/
def bentWings (s : State) (b : Bent) : List Nat :=
  (raisingOf s b.rid).elim [] fun r => r.wings.filter (vfRecord s r.vf).wings.contains

/-- Bays free for a bent: enabled, in its wings, and holding no strand (R28, R363). -/
def freeBays (s : State) (b : Bent) : List Nat := (enabledBays s (bentWings s b)).filter fun n => !bayBusy s n

/-- Effective priority of a waiting bent (R364). -/
def effectivePrio (s : State) (b : Bent) : Nat := min 7 ((raisingOf s b.rid).elim 0 (·.prio) + b.waitedMs)

/-- The queue score of a bent's stage (R366). -/
def bentScore (s : State) (b : Bent) : Nat :=
  ((raisingOf s b.rid).bind fun r => r.stages[b.stage]?).elim 0 (·.score)

/-- Whether commits of a raising are accepted but not placed: its virtual function has a wing that is sealed (R420). -/
def sealKeeps (s : State) (r : Raising) : Bool := (vfRecord s r.vf).wings.any s.sealedWings.contains

/-- Whether the Foreman may place a bent: it waits, is not held, its raising lives and has not been ended (R352, R363, R402,
R433), and a bent that has not started is not kept by a seal (R420). DEDUCED (log entry 40). -/
def placeable (s : State) (b : Bent) : Bool :=
  b.state == .waiting && !b.held &&
    (raisingOf s b.rid).any fun r => !r.ended && !r.aborted && (b.started || !sealKeeps s r)

/-- Whether bent `j` comes before bent `k` for free bays (R364, R366): effective priority, score, earlier commit (RIDs rise
from commit to commit); bents of one raising stand in the order of their creation. DEDUCED (log entry 41). -/
def ranksBefore (s : State) (j k : Nat) : Bool :=
  match bentAt s j, bentAt s k with
  | some a, some b =>
    let p := effectivePrio s a
    let q := effectivePrio s b
    q < p || (p == q && (bentScore s b < bentScore s a ||
      (bentScore s a == bentScore s b && (a.rid < b.rid || (a.rid == b.rid && j < k)))))
  | _, _ => false

/-! ### Stack sets (R457) -/

/-- The container of a raising. -/
def raisingContainer (s : State) (r : Raising) : Option Container := s.containers.find? fun c => c.handle == r.cont

/-- Whether a stack set of a raising is in use. -/
def setTaken (s : State) (rid i : Nat) : Bool := s.bents.any fun b => b.rid == rid && b.stack == some i && b.state != .ended

/-- The stack set a bent placed for the first time takes: the lowest free unreserved one, else its stage's own. -/
def freeSet (s : State) (r : Raising) (stage : Nat) : Option Nat :=
  let n := r.stages.length
  let total := stackSets (setBytes (raisingContainer s r) r.stages) r.spsz.toNat
  let live := (s.bents.filter fun b => b.rid == r.rid && b.stack.isSome && b.state != .ended).length
  match (List.range (live + 1)).find? fun i => n + i < total && !setTaken s r.rid (n + i) with
  | some i => some (n + i)
  | none => if setTaken s r.rid stage then none else some stage

/-! ### Placement (R15, R355, R363, R364, R370, R380, R381) -/

/-- Whether bays given strand by strand suit a bent: their numbers are the spans, and all are free and distinct. -/
def baysFit (s : State) (b : Bent) (bays : List (List Nat)) : Bool :=
  let all := bays.flatten
  bays.map List.length == bentSpans s b && all.all (freeBays s b).contains && (dedup all).length == all.length

/-- R364: no bent that ranks before bent `k` and may use one of the bays still waits. DEDUCED (log entry 41). -/
def baysDue (s : State) (k : Nat) (bays : List Nat) : Bool :=
  !(s.bents.zipIdx.any fun (b, j) =>
    j != k && placeable s b && ranksBefore s j k && bays.any fun n => (bentWings s b).contains (wingOfBay n))

/-- What strand `i` of a bent starts with (R354, R355). -/
def startOf (r : Raising) (b : Bent) (x : Stage) (j size i : Nat) : Start :=
  let base := r.spool.toNat + j * size
  if b.stage = 0 then
    { sid := b.bid * x.strands + i, nstr := r.bents * x.strands, n := r.n, sp := base, ptr := r.ablk, args := r.args }
  else
    { sid := i, nstr := x.strands, n := (b.item.getD 0 0).toNat, sp := base, ptr := b.item.getD 1 0,
      args := (b.item.drop 2).take 6 }

/-- Whether `n` bytes from an address suit a save area in a wing's HBM half (R182, R369, R420): they lie within the half,
apart from the areas reserved, and nothing stands in them. -/
def areaFits (s : State) (w n : Nat) (taken : List (Nat × Nat)) (a : Nat) : Bool :=
  wingHbm w ≤ a && a + n ≤ wingHbm w + wingGiB s.part w * 2 ^ 30 &&
    taken.all (fun x => decide (a + n ≤ x.1) || decide (x.1 + x.2 ≤ a)) && (memPart s.mem a n).isEmpty

/-- The save areas that are reserved: those of the strands that have not exited. -/
def savesTaken (s : State) : List (Nat × Nat) := (s.strands.filter fun st => !st.exited).map fun st => (st.saveBase, st.saveSize)

/-- The first address of the `n` bytes the runtime reserves for a save in the HBM half of a wing (R369, R420): the place is
open, and the model tries one freely chosen, then the first one behind each area that is reserved.
DESIGN CHOICE (log entry 18). -/
def savePlace (s : State) (w n : Nat) (taken : List (Nat × Nat)) (k : Nat) : Nat :=
  let tries := (wingHbm w + free k % 2 ^ 35 / 128 * 128) :: wingHbm w :: taken.map fun x => (x.1 + x.2 + 127) / 128 * 128
  (tries.find? (areaFits s w n taken)).getD (wingHbm w)

/-- Save areas for new strands, one after another, each apart from those before it (R369). -/
def reserveSaves (s : State) : List (Nat × Nat) → Nat → List Strand → List Strand
  | _, _, [] => []
  | taken, k, st :: t =>
    let w := (st.blocks.map fun bl => wingOfBay bl.bay).headD 0
    let a := savePlace s w st.saveSize taken k
    { st with saveBase := a } :: reserveSaves s ((a, st.saveSize) :: taken) (k + 1) t

/-- The first placement of a bent: its strands are made (R355), and their save areas are reserved (R369). -/
def firstPlacement (s : State) (k : Nat) (b : Bent) (r : Raising) (x : Stage) (j : Nat) (bays : List (List Nat)) : State :=
  let v := vfRecord s r.vf
  let c := raisingContainer s r
  let size := setBytes c r.stages
  let one := stackBytes c x
  let make := fun (i : Nat) (ns : List Nat) =>
    let w := wingOfBay (ns.headD 0)
    let start := startOf r b x j size i
    let start := { start with sp := start.sp + (i + 1) * one }
    let regs := newRegs start x.entry v (s.wvec.getD w 0) b.bid b.stage r.rid
    launched s (newStrand k i regs (ns.zipIdx.map fun (n, p) => newBlock n p (placeWord v w) v.s2root))
  let new := reserveSaves s (savesTaken s) s.fresh (bays.zipIdx.map fun (ns, i) => make i ns)
  let ids := (List.range new.length).map (s.strands.length + ·)
  putBent { s with strands := s.strands ++ new, fresh := s.fresh + bays.length } k { b with strands := ids, stack := some j }

/-- Whether a strand's save area still holds what its last save has written there (R368, R369). -/
def saveIntact (s : State) (st : Strand) : Bool :=
  st.saved.all fun x => memRead s.mem (steer s (st.saveBase + x.1)) == x.2

/-- A strand as it is restored from its save area (R370). An area that another party has changed gives the saved registers
values of its own, free ones, since the spec gives the area no layout. DESIGN CHOICE (log entry 18). -/
def restoreSaved (s : State) (st : Strand) : Strand :=
  if saveIntact s st then { st with saved := [] }
  else
    let n := s.fresh
    { st with
      saved := []
      r := { st.r with s := Vector.ofFn fun i => if i.val = 0 then 0 else BitVec.ofNat 64 (free (n + i.val)) }
      blocks := st.blocks.zipIdx.map fun (bl, i) => { bl with
        v := BitVec.ofNat vfileBits (free (n + 64 + 3 * i)), m := BitVec.ofNat mfileBits (free (n + 65 + 3 * i))
        carry := BitVec.ofNat 64 (free (n + 66 + 3 * i)) } }

/-- A strand put on bays again: what its save area holds is restored, its blocks move, Heartwood writes their placement, XVEC is
set from WVEC of its wing, its scratch ways are restored, and it goes on at XPC (R370, R380, R381).
DEDUCED (log entry 41). -/
def resumeStrand (s : State) (v : Vf) (k : Nat) (ns : List Nat) : State :=
  match (s.strands[k]?).map (restoreSaved s) with
  | none => s
  | some st =>
    let w := wingOfBay (ns.headD 0)
    let blocks := List.zipWith (fun (bl : Block) n => { bl with bay := n, mplace := placeWord v w, ms2root := v.s2root }) st.blocks ns
    let fill := fun (s : State) (bl : Block) =>
      { s with mem := bl.scratch.foldl (fun m c => memWrite m (wayAddr bl.bay 0 + c.1) c.2) s.mem }
    let s := if st.exited then s else { blocks.foldl fill s with fresh := s.fresh + 100 }
    let blocks := blocks.map fun bl => { bl with scratch := [] }
    let r := { st.r with pc := st.r.xpc, xvec := s.wvec.getD w 0 }
    if st.exited then s else { s with strands := s.strands.set k { st with blocks := blocks, r := r } }

/-- A bay that takes a strand holds no self-invalidating copy and no level-cache line of another (R189, R232, R405).
DEDUCED (log entry 29). -/
def takeBay (s : State) (n : Nat) : State := setBay s n { bayOf s n with copies := [], level := [] }

/-- PLACE_BENT (R363, R364): a waiting bent takes free bays, and a stack set if it has none.
DESIGN CHOICE (log entries 5, 18). DEDUCED (log entry 41). -/
def execPlaceBent (bent : Nat) (bays : List (List Nat)) (s : State) : Result :=
  runEvent (do
    tick
    let s ← get
    match bentAt s bent with
    | none => noPart
    | some b =>
      match raisingOf s b.rid with
      | none => noPart
      | some r =>
        match r.stages[b.stage]? with
        | none => noPart
        | some x =>
          if !(placeable s b && baysFit s b bays && baysDue s bent bays.flatten) then noPart
          else
            let stamp := s.bents.foldl (fun a y => max a (y.placedSeq + 1)) 1
            let b := { b with
              state := .resident, started := false, preempt := false, displacedBy := none, placedPrio := effectivePrio s b,
              placedAt := s.time,
              placedSeq := stamp, waitedMs := 0 }
            let v := vfRecord s r.vf
            let s := bays.flatten.foldl takeBay s
            let running := fun (s : State) => putLaunch s { launchOf s r.vf r.slot with state := 2, rid := r.rid }
            if b.strands.isEmpty then
              match freeSet s r b.stage with
              | none => noPart
              | some j => set (running (firstPlacement s bent b r x j bays))
            else
              let s := (b.strands.zip bays).foldl (fun s y => resumeStrand s v y.1 y.2) s
              set (running (putBent s bent b))) s

/-- BENT_FIRST_ISSUE (R355): 600 ns after its placement a bent's strands may issue. DESIGN CHOICE (log entry 5). -/
def execBentFirstIssue (bent : Nat) (s : State) : Result :=
  runEvent (do
    let s ← get
    match bentAt s bent with
    | none => noPart
    | some b =>
      if b.state == .resident && !b.started then set { putBent s bent { b with started := true } with time := s.time + 600 }
      else noPart) s

/-- CREATE_INSTANCE (R363): a stage whose queue holds an item, and which has fewer waiting instances than items, gets an
instance, which takes the oldest item. DEDUCED (log entry 41). -/
def execCreateInstance (rid stage : Nat) (s : State) : Result :=
  runEvent (do
    let s ← get
    match (raisingOf s rid).bind fun r => r.stages[stage]? with
    | none => noPart
    | some x =>
      let waiting := (s.bents.filter fun b => b.rid == rid && b.stage == stage && b.state == .waiting).length
      match x.items with
      | [] => noPart
      | item :: rest =>
        if stage = 0 || x.items.length ≤ waiting || (raisingOf s rid).all (fun r => r.ended || r.aborted) then noPart
        else
          let s := modStage s rid stage fun x => { x with items := rest, created := x.created + 1 }
          set { s with bents := s.bents ++ [newBent rid stage x.created item] }) s

/-- PRIORITY_AGING (R364): a whole millisecond of waiting. -/
def execPriorityAging (bent : Nat) (s : State) : Result :=
  runEvent (do
    let s ← get
    match bentAt s bent with
    | none => noPart
    | some b => if b.state == .waiting && !b.held then set (putBent s bent { b with waitedMs := b.waitedMs + 1 }) else noPart) s

/-- occupancy ÷ capacity × (PRIO + 1), in units of 2^−34, which tell any two such ratios apart (R366). -/
def scoreOf (prio : Nat) (x : Stage) : Nat := x.items.length * (prio + 1) * 2 ^ 34 / max 1 x.cap

/-- STAGE_SCORING (R366). -/
def execStageScoring (s : State) : Result :=
  runEvent (modify fun s =>
    { s with raisings := s.raisings.map fun r =>
        { r with stages := r.stages.zipIdx.map fun (x, i) => if i = 0 then x else { x with score := scoreOf r.prio x } } }) s

/-! ### Pre-emption (R365 to R369) -/

/-- The bays a resident bent holds of the wings another bent may use. -/
def baysFor (s : State) (w b : Bent) : List Nat :=
  (b.strands.flatMap fun k => (s.strands[k]?).elim [] attached).filter fun n =>
    (bentWings s w).contains (wingOfBay n) && !s.part.fused.contains n

/-- Bays that bents being pre-empted will free for a bent. -/
def comingBays (s : State) (w : Bent) : Nat :=
  ((s.bents.filter fun b => b.state == .resident && b.preempt).map fun b => (baysFor s w b).length).foldl (· + ·) 0

/-- Bays a waiting bent still lacks, those counted that are being freed. DEDUCED (log entry 41). -/
def baysLacking (s : State) (w : Bent) : Nat := bentNeed s w - ((freeBays s w).length + comingBays s w)

/-- Whether a waiting bent `w` may displace the placed bent `b` by priority (R365); a halted bent keeps its bays (R101). -/
def displaces (s : State) (w b : Bent) : Bool :=
  b.state == .resident && !b.preempt && !b.halted && b.placedPrio < effectivePrio s w && w.rid != b.rid &&
    b.placedAt + 100000 ≤ s.time && !(baysFor s w b).isEmpty

/-- The bents, in turn, that together free so many bays; none where they do not suffice. -/
def takeVictims : Nat → List (Nat × Nat) → Option (List Nat)
  | 0, _ => some []
  | _ + 1, [] => none
  | need + 1, (k, gain) :: t => (takeVictims (need + 1 - gain) t).map (k :: ·)

/-- The bents that a waiting bent pre-empts (R365): lowest priority first, then the one placed most recently, until enough
bays would be freed; none while those already being pre-empted suffice, or when all of them would not.
DEDUCED (log entry 41). -/
def victims (s : State) (w : Bent) : List Nat :=
  let before := fun (x y : Bent × Nat) =>
    x.1.placedPrio < y.1.placedPrio || (x.1.placedPrio == y.1.placedPrio && y.1.placedSeq ≤ x.1.placedSeq)
  let cands := sortBy before (s.bents.zipIdx.filter fun x => displaces s w x.1)
  (takeVictims (baysLacking s w) (cands.map fun x => (x.2, (baysFor s w x.1).length))).getD []

/-- The waiting bent that takes the bays of resident bent `k` under R365. -/
def takenByPriority (s : State) (k : Nat) : Option Nat :=
  s.bents.findIdx? fun w => placeable s w && (victims s w).contains k

/-- The waiting instance for which R366 pre-empts candidate bent `k`: one of a stage of higher score within its raising that
has no free bays; no candidate of the raising has a lower score, and none is being pre-empted. -/
def takenAsCandidate (s : State) (k : Nat) (b : Bent) : Option Nat :=
  let rival := fun (x : Bent × Nat) =>
    x.2 != k && x.1.state == .resident && x.1.rid == b.rid && x.1.candidate && (x.1.preempt || bentScore s x.1 < bentScore s b)
  if !b.candidate || b.halted || s.bents.zipIdx.any rival then none
  else s.bents.findIdx? fun w => w.rid == b.rid && placeable s w && bentScore s b < bentScore s w && baysLacking s w != 0

/-- VSTART of a convoy in progress, inside or outside a frame (R117, R118, R130). -/
def suspendedVstart (f : Inflight) : Word :=
  match f.frame with
  | none => BitVec.ofNat 64 (f.group % 256)
  | some (i, p) => BitVec.ofNat 64 (f.group % 256 + p % 16 * 256 + 2 ^ 15 + i % 2 ^ 33 * 2 ^ 16)

/-- PREEMPTION (R365, R366, R368, R402): a request; the bent's strands stop issuing. DEDUCED (log entry 41). -/
def execPreemption (bent : Nat) (s : State) : Result :=
  runEvent (do
    tick
    let s ← get
    match bentAt s bent with
    | none => noPart
    | some b =>
      if b.state != .resident then noPart
      else if b.preempt || b.held then set (putBent s bent { b with preempt := true })
      else
        match (takenByPriority s bent).or (takenAsCandidate s bent b) with
        | some w => set (putBent s bent { b with preempt := true, displacedBy := some w })
        | none => noPart) s

/-- YIELD (R361): a pre-emption point; a bent whose bays a waiting bent could take is pre-empted after it. -/
def execYield (s : State) : Result :=
  runSeq (do
    tick
    let st ← getStrand
    let s ← get
    match bentAt s st.bent with
    | none => return ()
    | some b =>
      match takenByPriority s st.bent with
      | some w => set (putBent s st.bent { b with preempt := true, displacedBy := some w })
      | none => return ()) s

end Sys2Proof.Machine
end

