-- ==== Sys2Proof/Machine/Members.lean ====
section
/-! DEFINITION. The member a vector-class word stands for (R38, R43, R44), and what a repeat frame needs of a word (R127 to
R129). -/

namespace Sys2Proof.Machine

open Sys2Proof.Config

/-- Major 0x32: the member of each function code (R44). -/
def membersVint (w : Nat) : Option Member :=
  match bits w 25 7 with
  | 0 => some (memberVadd (fieldAt w 22) (fieldAt w 17) (fieldAt w 12) (fieldAt w 7))
  | 1 => some (memberVsub (fieldAt w 22) (fieldAt w 17) (fieldAt w 12) (fieldAt w 7))
  | 2 => some (memberVrsub (fieldAt w 22) (fieldAt w 17) (fieldAt w 12) (fieldAt w 7))
  | 3 => some (memberVmul (fieldAt w 22) (fieldAt w 17) (fieldAt w 12) (fieldAt w 7))
  | 4 => some (memberVmulh (fieldAt w 22) (fieldAt w 17) (fieldAt w 12) (fieldAt w 7))
  | 5 => some (memberVmulhu (fieldAt w 22) (fieldAt w 17) (fieldAt w 12) (fieldAt w 7))
  | 6 => some (memberVand (fieldAt w 22) (fieldAt w 17) (fieldAt w 12) (fieldAt w 7))
  | 7 => some (memberVor (fieldAt w 22) (fieldAt w 17) (fieldAt w 12) (fieldAt w 7))
  | 8 => some (memberVxor (fieldAt w 22) (fieldAt w 17) (fieldAt w 12) (fieldAt w 7))
  | 9 => some (memberVsll (fieldAt w 22) (fieldAt w 17) (fieldAt w 12) (fieldAt w 7))
  | 10 => some (memberVsrl (fieldAt w 22) (fieldAt w 17) (fieldAt w 12) (fieldAt w 7))
  | 11 => some (memberVsra (fieldAt w 22) (fieldAt w 17) (fieldAt w 12) (fieldAt w 7))
  | 12 => some (memberVmin (fieldAt w 22) (fieldAt w 17) (fieldAt w 12) (fieldAt w 7))
  | 13 => some (memberVmax (fieldAt w 22) (fieldAt w 17) (fieldAt w 12) (fieldAt w 7))
  | 14 => some (memberVminu (fieldAt w 22) (fieldAt w 17) (fieldAt w 12) (fieldAt w 7))
  | 15 => some (memberVmaxu (fieldAt w 22) (fieldAt w 17) (fieldAt w 12) (fieldAt w 7))
  | 16 => some (memberVsadd (fieldAt w 22) (fieldAt w 17) (fieldAt w 12) (fieldAt w 7))
  | 17 => some (memberVssub (fieldAt w 22) (fieldAt w 17) (fieldAt w 12) (fieldAt w 7))
  | 18 => some (memberVsaddu (fieldAt w 22) (fieldAt w 17) (fieldAt w 12) (fieldAt w 7))
  | 19 => some (memberVssubu (fieldAt w 22) (fieldAt w 17) (fieldAt w 12) (fieldAt w 7))
  | 20 => some (memberVmadd (fieldAt w 22) (fieldAt w 17) (fieldAt w 12) (fieldAt w 7))
  | 21 => some (memberVabsd (fieldAt w 22) (fieldAt w 17) (fieldAt w 12) (fieldAt w 7))
  | _ => none

/-- Major 0x33: the member of each function code (R44). -/
def membersVintx (w : Nat) : Option Member :=
  match bits w 25 7 with
  | 0 => some (memberVaddVx (fieldAt w 22) (fieldAt w 17) (fieldAt w 12) (fieldAt w 7))
  | 1 => some (memberVsubVx (fieldAt w 22) (fieldAt w 17) (fieldAt w 12) (fieldAt w 7))
  | 2 => some (memberVrsubVx (fieldAt w 22) (fieldAt w 17) (fieldAt w 12) (fieldAt w 7))
  | 3 => some (memberVmulVx (fieldAt w 22) (fieldAt w 17) (fieldAt w 12) (fieldAt w 7))
  | 4 => some (memberVmulhVx (fieldAt w 22) (fieldAt w 17) (fieldAt w 12) (fieldAt w 7))
  | 5 => some (memberVmulhuVx (fieldAt w 22) (fieldAt w 17) (fieldAt w 12) (fieldAt w 7))
  | 6 => some (memberVandVx (fieldAt w 22) (fieldAt w 17) (fieldAt w 12) (fieldAt w 7))
  | 7 => some (memberVorVx (fieldAt w 22) (fieldAt w 17) (fieldAt w 12) (fieldAt w 7))
  | 8 => some (memberVxorVx (fieldAt w 22) (fieldAt w 17) (fieldAt w 12) (fieldAt w 7))
  | 9 => some (memberVsllVx (fieldAt w 22) (fieldAt w 17) (fieldAt w 12) (fieldAt w 7))
  | 10 => some (memberVsrlVx (fieldAt w 22) (fieldAt w 17) (fieldAt w 12) (fieldAt w 7))
  | 11 => some (memberVsraVx (fieldAt w 22) (fieldAt w 17) (fieldAt w 12) (fieldAt w 7))
  | 12 => some (memberVminVx (fieldAt w 22) (fieldAt w 17) (fieldAt w 12) (fieldAt w 7))
  | 13 => some (memberVmaxVx (fieldAt w 22) (fieldAt w 17) (fieldAt w 12) (fieldAt w 7))
  | 14 => some (memberVminuVx (fieldAt w 22) (fieldAt w 17) (fieldAt w 12) (fieldAt w 7))
  | 15 => some (memberVmaxuVx (fieldAt w 22) (fieldAt w 17) (fieldAt w 12) (fieldAt w 7))
  | 16 => some (memberVsaddVx (fieldAt w 22) (fieldAt w 17) (fieldAt w 12) (fieldAt w 7))
  | 17 => some (memberVssubVx (fieldAt w 22) (fieldAt w 17) (fieldAt w 12) (fieldAt w 7))
  | 18 => some (memberVsadduVx (fieldAt w 22) (fieldAt w 17) (fieldAt w 12) (fieldAt w 7))
  | 19 => some (memberVssubuVx (fieldAt w 22) (fieldAt w 17) (fieldAt w 12) (fieldAt w 7))
  | 20 => some (memberVmaddVx (fieldAt w 22) (fieldAt w 17) (fieldAt w 12) (fieldAt w 7))
  | 21 => some (memberVabsdVx (fieldAt w 22) (fieldAt w 17) (fieldAt w 12) (fieldAt w 7))
  | _ => none

/-- Major 0x34: the member of each function code (R44). -/
def membersVinti (w : Nat) : Option Member :=
  match bits w 25 7 with
  | 0 => some (memberVaddVi (fieldAt w 22) (fieldAt w 17) (fieldAt w 12) (fieldAt w 7))
  | 2 => some (memberVrsubVi (fieldAt w 22) (fieldAt w 17) (fieldAt w 12) (fieldAt w 7))
  | 6 => some (memberVandVi (fieldAt w 22) (fieldAt w 17) (fieldAt w 12) (fieldAt w 7))
  | 7 => some (memberVorVi (fieldAt w 22) (fieldAt w 17) (fieldAt w 12) (fieldAt w 7))
  | 8 => some (memberVxorVi (fieldAt w 22) (fieldAt w 17) (fieldAt w 12) (fieldAt w 7))
  | 9 => some (memberVsllVi (fieldAt w 22) (fieldAt w 17) (fieldAt w 12) (fieldAt w 7))
  | 10 => some (memberVsrlVi (fieldAt w 22) (fieldAt w 17) (fieldAt w 12) (fieldAt w 7))
  | 11 => some (memberVsraVi (fieldAt w 22) (fieldAt w 17) (fieldAt w 12) (fieldAt w 7))
  | 16 => some (memberVsaddVi (fieldAt w 22) (fieldAt w 17) (fieldAt w 12) (fieldAt w 7))
  | 18 => some (memberVsadduVi (fieldAt w 22) (fieldAt w 17) (fieldAt w 12) (fieldAt w 7))
  | _ => none

/-- Major 0x35: the member of each function code (R44). -/
def membersVcmp (w : Nat) : Option Member :=
  match bits w 25 7 with
  | 0 => some (memberVcmpEq (fieldAt w 22) (fieldAt w 17) (fieldAt w 12) (fieldAt w 7))
  | 1 => some (memberVcmpNe (fieldAt w 22) (fieldAt w 17) (fieldAt w 12) (fieldAt w 7))
  | 2 => some (memberVcmpLt (fieldAt w 22) (fieldAt w 17) (fieldAt w 12) (fieldAt w 7))
  | 3 => some (memberVcmpLtu (fieldAt w 22) (fieldAt w 17) (fieldAt w 12) (fieldAt w 7))
  | 4 => some (memberVcmpLe (fieldAt w 22) (fieldAt w 17) (fieldAt w 12) (fieldAt w 7))
  | 5 => some (memberVcmpLeu (fieldAt w 22) (fieldAt w 17) (fieldAt w 12) (fieldAt w 7))
  | 6 => some (memberVcmpGt (fieldAt w 22) (fieldAt w 17) (fieldAt w 12) (fieldAt w 7))
  | 7 => some (memberVcmpGtu (fieldAt w 22) (fieldAt w 17) (fieldAt w 12) (fieldAt w 7))
  | 32 => some (memberVcmpEqVx (fieldAt w 22) (fieldAt w 17) (fieldAt w 12) (fieldAt w 7))
  | 33 => some (memberVcmpNeVx (fieldAt w 22) (fieldAt w 17) (fieldAt w 12) (fieldAt w 7))
  | 34 => some (memberVcmpLtVx (fieldAt w 22) (fieldAt w 17) (fieldAt w 12) (fieldAt w 7))
  | 35 => some (memberVcmpLtuVx (fieldAt w 22) (fieldAt w 17) (fieldAt w 12) (fieldAt w 7))
  | 36 => some (memberVcmpLeVx (fieldAt w 22) (fieldAt w 17) (fieldAt w 12) (fieldAt w 7))
  | 37 => some (memberVcmpLeuVx (fieldAt w 22) (fieldAt w 17) (fieldAt w 12) (fieldAt w 7))
  | 38 => some (memberVcmpGtVx (fieldAt w 22) (fieldAt w 17) (fieldAt w 12) (fieldAt w 7))
  | 39 => some (memberVcmpGtuVx (fieldAt w 22) (fieldAt w 17) (fieldAt w 12) (fieldAt w 7))
  | 64 => some (memberVcmpEqVi (fieldAt w 22) (fieldAt w 17) (fieldAt w 12) (fieldAt w 7))
  | 65 => some (memberVcmpNeVi (fieldAt w 22) (fieldAt w 17) (fieldAt w 12) (fieldAt w 7))
  | 66 => some (memberVcmpLtVi (fieldAt w 22) (fieldAt w 17) (fieldAt w 12) (fieldAt w 7))
  | 67 => some (memberVcmpLtuVi (fieldAt w 22) (fieldAt w 17) (fieldAt w 12) (fieldAt w 7))
  | 68 => some (memberVcmpLeVi (fieldAt w 22) (fieldAt w 17) (fieldAt w 12) (fieldAt w 7))
  | 69 => some (memberVcmpLeuVi (fieldAt w 22) (fieldAt w 17) (fieldAt w 12) (fieldAt w 7))
  | 70 => some (memberVcmpGtVi (fieldAt w 22) (fieldAt w 17) (fieldAt w 12) (fieldAt w 7))
  | 71 => some (memberVcmpGtuVi (fieldAt w 22) (fieldAt w 17) (fieldAt w 12) (fieldAt w 7))
  | _ => none

/-- Major 0x36: the member of each function code (R44). -/
def membersVmove (w : Nat) : Option Member :=
  match bits w 25 7 with
  | 0 => some (memberVmv (fieldAt w 22) (fieldAt w 12) (fieldAt w 7))
  | 1 => some (memberVsplat (fieldAt w 22) (fieldAt w 17) (fieldAt w 7))
  | 2 => some (memberVext (fieldAt w 17) (fieldAt w 12) (fieldAt w 7))
  | 3 => some (memberVid (fieldAt w 22) (fieldAt w 7))
  | 4 => some (memberVmerge (fieldAt w 22) (fieldAt w 17) (fieldAt w 12) (fieldAt w 7))
  | 5 => some memberVnop
  | _ => none

/-- Major 0x37: the member of each function code (R44). -/
def membersVperm (w : Nat) : Option Member :=
  match bits w 25 7 with
  | 0 => some (memberVslup (fieldAt w 22) (fieldAt w 17) (fieldAt w 12) (fieldAt w 7))
  | 1 => some (memberVsldn (fieldAt w 22) (fieldAt w 17) (fieldAt w 12) (fieldAt w 7))
  | 2 => some (memberVgathr (fieldAt w 22) (fieldAt w 17) (fieldAt w 12) (fieldAt w 7))
  | 3 => some (memberVcompr (fieldAt w 22) (fieldAt w 12) (fieldAt w 7))
  | 4 => some (memberVrev (fieldAt w 22) (fieldAt w 12) (fieldAt w 7))
  | 5 => some (memberVxchgX (fieldAt w 22) (fieldAt w 17) (fieldAt w 12) (fieldAt w 7))
  | 6 => some (memberVxchgR (fieldAt w 22) (fieldAt w 17) (fieldAt w 12) (fieldAt w 7))
  | _ => none

/-- Major 0x38: the member of each function code (R44). -/
def membersVred (w : Nat) : Option Member :=
  match bits w 25 7 with
  | 0 => some (memberVredsum (fieldAt w 22) (fieldAt w 17) (fieldAt w 12) (fieldAt w 7))
  | 1 => some (memberVredmax (fieldAt w 22) (fieldAt w 17) (fieldAt w 12) (fieldAt w 7))
  | 2 => some (memberVredmin (fieldAt w 22) (fieldAt w 17) (fieldAt w 12) (fieldAt w 7))
  | 3 => some (memberVredmaxu (fieldAt w 22) (fieldAt w 17) (fieldAt w 12) (fieldAt w 7))
  | 4 => some (memberVredminu (fieldAt w 22) (fieldAt w 17) (fieldAt w 12) (fieldAt w 7))
  | 5 => some (memberVredand (fieldAt w 22) (fieldAt w 17) (fieldAt w 12) (fieldAt w 7))
  | 6 => some (memberVredor (fieldAt w 22) (fieldAt w 17) (fieldAt w 12) (fieldAt w 7))
  | 7 => some (memberVredxor (fieldAt w 22) (fieldAt w 17) (fieldAt w 12) (fieldAt w 7))
  | 8 => some (memberVargmax (fieldAt w 22) (fieldAt w 12) (fieldAt w 7))
  | 9 => some (memberVargmin (fieldAt w 22) (fieldAt w 12) (fieldAt w 7))
  | 10 => some (memberVfredsum (fieldAt w 22) (fieldAt w 17) (fieldAt w 12) (fieldAt w 7))
  | 11 => some (memberVfredtree (fieldAt w 22) (fieldAt w 17) (fieldAt w 12) (fieldAt w 7))
  | 12 => some (memberVfredmax (fieldAt w 22) (fieldAt w 17) (fieldAt w 12) (fieldAt w 7))
  | 13 => some (memberVfargmax (fieldAt w 22) (fieldAt w 12) (fieldAt w 7))
  | 14 => some (memberVtopk (fieldAt w 22) (fieldAt w 17) (fieldAt w 12) (fieldAt w 7))
  | 15 => some (memberVftopk (fieldAt w 22) (fieldAt w 17) (fieldAt w 12) (fieldAt w 7))
  | 16 => some (memberVscan (fieldAt w 22) (fieldAt w 12) (fieldAt w 7))
  | 17 => some (memberVscanc (fieldAt w 22) (fieldAt w 12) (fieldAt w 7))
  | 18 => some (memberVfscanc (fieldAt w 22) (fieldAt w 12) (fieldAt w 7))
  | _ => none

/-- Major 0x3A: the member of each function code (R44). -/
def membersMask (w : Nat) : Option Member :=
  match bits w 25 7 with
  | 0 => some (memberMand (fieldAt w 17) (fieldAt w 12) (fieldAt w 7))
  | 1 => some (memberMor (fieldAt w 17) (fieldAt w 12) (fieldAt w 7))
  | 2 => some (memberMxor (fieldAt w 17) (fieldAt w 12) (fieldAt w 7))
  | 3 => some (memberMandn (fieldAt w 17) (fieldAt w 12) (fieldAt w 7))
  | 4 => some (memberMnot (fieldAt w 12) (fieldAt w 7))
  | 5 => some (memberMpopc (fieldAt w 12) (fieldAt w 7))
  | 6 => some (memberMfirst (fieldAt w 12) (fieldAt w 7))
  | 7 => some (memberMset (fieldAt w 7))
  | 8 => some (memberMclr (fieldAt w 7))
  | 9 => some (memberMmv (fieldAt w 12) (fieldAt w 7))
  | _ => none

/-- Major 0x40: the member of each function code (R44). -/
def membersVfp (w : Nat) : Option Member :=
  match bits w 25 7 with
  | 0 => some (memberVfadd (fieldAt w 22) (fieldAt w 17) (fieldAt w 12) (fieldAt w 7))
  | 1 => some (memberVfsub (fieldAt w 22) (fieldAt w 17) (fieldAt w 12) (fieldAt w 7))
  | 2 => some (memberVfmul (fieldAt w 22) (fieldAt w 17) (fieldAt w 12) (fieldAt w 7))
  | 3 => some (memberVfdiv (fieldAt w 22) (fieldAt w 17) (fieldAt w 12) (fieldAt w 7))
  | 4 => some (memberVfsqrt (fieldAt w 22) (fieldAt w 12) (fieldAt w 7))
  | 5 => some (memberVfmin (fieldAt w 22) (fieldAt w 17) (fieldAt w 12) (fieldAt w 7))
  | 6 => some (memberVfmax (fieldAt w 22) (fieldAt w 17) (fieldAt w 12) (fieldAt w 7))
  | 7 => some (memberVfrsq (fieldAt w 22) (fieldAt w 12) (fieldAt w 7))
  | 8 => some (memberVfrcp (fieldAt w 22) (fieldAt w 12) (fieldAt w 7))
  | 9 => some (memberVfexp2 (fieldAt w 22) (fieldAt w 12) (fieldAt w 7))
  | 10 => some (memberVflog2 (fieldAt w 22) (fieldAt w 12) (fieldAt w 7))
  | 11 => some (memberVfabs (fieldAt w 22) (fieldAt w 12) (fieldAt w 7))
  | 12 => some (memberVfneg (fieldAt w 22) (fieldAt w 12) (fieldAt w 7))
  | 13 => some (memberVfsgnj (fieldAt w 22) (fieldAt w 17) (fieldAt w 12) (fieldAt w 7))
  | 14 => some (memberVfclass (fieldAt w 22) (fieldAt w 12) (fieldAt w 7))
  | _ => none

/-- Major 0x41: the member of each function code (R44). -/
def membersVfpx (w : Nat) : Option Member :=
  match bits w 25 7 with
  | 0 => some (memberVfaddVx (fieldAt w 22) (fieldAt w 17) (fieldAt w 12) (fieldAt w 7))
  | 1 => some (memberVfsubVx (fieldAt w 22) (fieldAt w 17) (fieldAt w 12) (fieldAt w 7))
  | 2 => some (memberVfmulVx (fieldAt w 22) (fieldAt w 17) (fieldAt w 12) (fieldAt w 7))
  | 3 => some (memberVfdivVx (fieldAt w 22) (fieldAt w 17) (fieldAt w 12) (fieldAt w 7))
  | 5 => some (memberVfminVx (fieldAt w 22) (fieldAt w 17) (fieldAt w 12) (fieldAt w 7))
  | 6 => some (memberVfmaxVx (fieldAt w 22) (fieldAt w 17) (fieldAt w 12) (fieldAt w 7))
  | 13 => some (memberVfsgnjVx (fieldAt w 22) (fieldAt w 17) (fieldAt w 12) (fieldAt w 7))
  | _ => none

/-- Major 0x42: the member of each function code (R44). -/
def membersVfma (w : Nat) : Option Member :=
  match bits w 30 2 with
  | 0 => some (memberVfma (fieldAt w 27) (fieldAt w 22) (fieldAt w 17) (fieldAt w 12) (fieldAt w 7))
  | 1 => some (memberVfnma (fieldAt w 27) (fieldAt w 22) (fieldAt w 17) (fieldAt w 12) (fieldAt w 7))
  | 2 => some (memberVfmsa (fieldAt w 27) (fieldAt w 22) (fieldAt w 17) (fieldAt w 12) (fieldAt w 7))
  | 3 => some (memberVfnmsa (fieldAt w 27) (fieldAt w 22) (fieldAt w 17) (fieldAt w 12) (fieldAt w 7))
  | _ => none

/-- Major 0x43: the member of each function code (R44). -/
def membersVfcmp (w : Nat) : Option Member :=
  match bits w 25 7 with
  | 0 => some (memberVfcmpEq (fieldAt w 22) (fieldAt w 17) (fieldAt w 12) (fieldAt w 7))
  | 1 => some (memberVfcmpNe (fieldAt w 22) (fieldAt w 17) (fieldAt w 12) (fieldAt w 7))
  | 2 => some (memberVfcmpLt (fieldAt w 22) (fieldAt w 17) (fieldAt w 12) (fieldAt w 7))
  | 3 => some (memberVfcmpLe (fieldAt w 22) (fieldAt w 17) (fieldAt w 12) (fieldAt w 7))
  | 4 => some (memberVfcmpGt (fieldAt w 22) (fieldAt w 17) (fieldAt w 12) (fieldAt w 7))
  | 5 => some (memberVfcmpGe (fieldAt w 22) (fieldAt w 17) (fieldAt w 12) (fieldAt w 7))
  | 6 => some (memberVfcmpUnord (fieldAt w 22) (fieldAt w 17) (fieldAt w 12) (fieldAt w 7))
  | 7 => some (memberVfcmpOrd (fieldAt w 22) (fieldAt w 17) (fieldAt w 12) (fieldAt w 7))
  | 32 => some (memberVfcmpEqVx (fieldAt w 22) (fieldAt w 17) (fieldAt w 12) (fieldAt w 7))
  | 33 => some (memberVfcmpNeVx (fieldAt w 22) (fieldAt w 17) (fieldAt w 12) (fieldAt w 7))
  | 34 => some (memberVfcmpLtVx (fieldAt w 22) (fieldAt w 17) (fieldAt w 12) (fieldAt w 7))
  | 35 => some (memberVfcmpLeVx (fieldAt w 22) (fieldAt w 17) (fieldAt w 12) (fieldAt w 7))
  | 36 => some (memberVfcmpGtVx (fieldAt w 22) (fieldAt w 17) (fieldAt w 12) (fieldAt w 7))
  | 37 => some (memberVfcmpGeVx (fieldAt w 22) (fieldAt w 17) (fieldAt w 12) (fieldAt w 7))
  | 38 => some (memberVfcmpUnordVx (fieldAt w 22) (fieldAt w 17) (fieldAt w 12) (fieldAt w 7))
  | 39 => some (memberVfcmpOrdVx (fieldAt w 22) (fieldAt w 17) (fieldAt w 12) (fieldAt w 7))
  | _ => none

/-- Major 0x45: the member of each function code (R44). -/
def membersVqnt (w : Nat) : Option Member :=
  match bits w 25 7 with
  | 0 => some (memberVscale (fieldAt w 22) (fieldAt w 12) (fieldAt w 7))
  | 1 => some (memberVqnt (fieldAt w 22) (fieldAt w 17) (fieldAt w 12) (fieldAt w 7))
  | 2 => some (memberVdqnt (fieldAt w 22) (fieldAt w 17) (fieldAt w 12) (fieldAt w 7))
  | _ => none

/-- Major 0x5C: the member of each function code (R44). -/
def membersCache (w : Nat) : Option Member :=
  match bits w 25 7 with
  | 0 => some (memberCwb (fieldAt w 19) (fieldAt w 13))
  | 1 => some (memberCinv (fieldAt w 19) (fieldAt w 13))
  | 2 => some (memberCflush (fieldAt w 19) (fieldAt w 13))
  | 3 => some (memberPref (fieldAt w 19) (fieldAt w 13))
  | 4 => some (memberWayconv (fieldAt w 13))
  | 5 => some (memberWayrest (fieldAt w 13))
  | 6 => some memberCflushall
  | 7 => some memberLvcinv
  | _ => none

/-- Major 0x60: the member of each function code (R44). -/
def membersFib (w : Nat) : Option Member :=
  match bits w 22 5 with
  | 0 => some (memberFldl (fieldAt w 30) (fieldAt w 16) (fieldAt w 7))
  | 1 => some (memberFpack (fieldAt w 16) (fieldAt w 7))
  | 2 => some (memberFst (fieldAt w 30) (fieldAt w 16) (fieldAt w 10))
  | 3 => some (memberFisect (fieldAt w 27) (fieldAt w 13) (fieldAt w 10) (fieldAt w 7))
  | 4 => some (memberFunion (fieldAt w 27) (fieldAt w 13) (fieldAt w 10) (fieldAt w 7))
  | 5 => some (memberFmerge (fieldAt w 27) (fieldAt w 13) (fieldAt w 10) (fieldAt w 7))
  | 6 => some (memberFsort (fieldAt w 27) (fieldAt w 10) (fieldAt w 7))
  | 7 => some (memberFcompact (fieldAt w 16) (fieldAt w 10) (fieldAt w 7))
  | 8 => some (memberFexpand (fieldAt w 30) (fieldAt w 16) (fieldAt w 10))
  | 9 => some (memberFgather (fieldAt w 30) (fieldAt w 16) (fieldAt w 10) (fieldAt w 7))
  | 10 => some (memberFscat (fieldAt w 30) (fieldAt w 16) (fieldAt w 10))
  | 11 => some (memberFmapv (fieldAt w 30) (fieldAt w 16) (fieldAt w 10) (fieldAt w 7))
  | 12 => some (memberFlen (fieldAt w 16) (fieldAt w 10))
  | 13 => some (memberFcoord (fieldAt w 16) (fieldAt w 10))
  | 14 => some (memberFvals (fieldAt w 30) (fieldAt w 16) (fieldAt w 10))
  | 15 => some (memberFsplit (fieldAt w 16) (fieldAt w 10) (fieldAt w 7))
  | 16 => some (memberFclr (fieldAt w 7))
  | 17 => some (memberFldf (fieldAt w 30) (fieldAt w 16) (fieldAt w 7))
  | 18 => some (memberFcombine (fieldAt w 27) (fieldAt w 10) (fieldAt w 7))
  | _ => none

/-- Major 0x61: the member of each function code (R44). -/
def membersFpref (w : Nat) : Option Member :=
  match bits w 22 5 with
  | 0 => some (memberFpref (fieldAt w 16))
  | _ => none

/-- Major 0x62: the member of each function code (R44). -/
def membersFmsg (w : Nat) : Option Member :=
  match bits w 22 5 with
  | 0 => some (memberFsend (fieldAt w 16) (fieldAt w 10))
  | 1 => some (memberFrecv (fieldAt w 30) (fieldAt w 27) (fieldAt w 16) (fieldAt w 10) (fieldAt w 7))
  | _ => none

/-- Major 0x68: the member of each function code (R44). -/
def membersJclm (w : Nat) : Option Member :=
  match bits w 11 1 with
  | 0 => some (memberJclm (fieldAt w 16) (fieldAt w 7))
  | 1 => some (memberJclmAny (fieldAt w 16))
  | _ => none

/-- Major 0x6B: the member of each function code (R44). -/
def membersJfil (w : Nat) : Option Member :=
  match bits w 27 1 with
  | 0 => some (memberJfil (fieldAt w 16) (fieldAt w 7))
  | 1 => some (memberJfilGather (fieldAt w 16) (fieldAt w 11) (fieldAt w 7))
  | _ => none

/-- Major 0x70: the member of each function code (R44). -/
def membersTctl (w : Nat) : Option Member :=
  match bits w 25 7 with
  | 0 => some (memberTzero (fieldAt w 13))
  | 1 => some (memberTstat (fieldAt w 13) (fieldAt w 7))
  | 2 => some memberTwait
  | _ => none

/-- Major 0x75: the member of each function code (R44). -/
def membersVamo (w : Nat) : Option Member :=
  match bits w 26 4 with
  | 0 => some (memberVamoadd (fieldAt w 31) (fieldAt w 30) (fieldAt w 23) (fieldAt w 18) (fieldAt w 12) (fieldAt w 7))
  | 1 => some (memberVamoand (fieldAt w 31) (fieldAt w 30) (fieldAt w 23) (fieldAt w 18) (fieldAt w 12) (fieldAt w 7))
  | 2 => some (memberVamoor (fieldAt w 31) (fieldAt w 30) (fieldAt w 23) (fieldAt w 18) (fieldAt w 12) (fieldAt w 7))
  | 3 => some (memberVamoxor (fieldAt w 31) (fieldAt w 30) (fieldAt w 23) (fieldAt w 18) (fieldAt w 12) (fieldAt w 7))
  | 4 => some (memberVamomin (fieldAt w 31) (fieldAt w 30) (fieldAt w 23) (fieldAt w 18) (fieldAt w 12) (fieldAt w 7))
  | 5 => some (memberVamomax (fieldAt w 31) (fieldAt w 30) (fieldAt w 23) (fieldAt w 18) (fieldAt w 12) (fieldAt w 7))
  | 6 => some (memberVamominu (fieldAt w 31) (fieldAt w 30) (fieldAt w 23) (fieldAt w 18) (fieldAt w 12) (fieldAt w 7))
  | 7 => some (memberVamomaxu (fieldAt w 31) (fieldAt w 30) (fieldAt w 23) (fieldAt w 18) (fieldAt w 12) (fieldAt w 7))
  | 8 => some (memberVamoswap (fieldAt w 31) (fieldAt w 30) (fieldAt w 23) (fieldAt w 18) (fieldAt w 12) (fieldAt w 7))
  | 10 => some (memberVamofadd (fieldAt w 31) (fieldAt w 30) (fieldAt w 23) (fieldAt w 18) (fieldAt w 12) (fieldAt w 7))
  | _ => none

/-- Major 0x77: the member of each function code (R44). -/
def membersSlkadd (w : Nat) : Option Member :=
  match bits w 26 4 with
  | 0 => some (memberSlkadd (fieldAt w 23) (fieldAt w 12) (fieldAt w 7))
  | 1 => some (memberSlkaddx (fieldAt w 23) (fieldAt w 18) (fieldAt w 12) (fieldAt w 7))
  | _ => none

/-- The member of each vector-class major. -/
def membersOf (w : Nat) : Option Member :=
  match w % 128 with
  | 0x32 => membersVint w
  | 0x33 => membersVintx w
  | 0x34 => membersVinti w
  | 0x35 => membersVcmp w
  | 0x36 => membersVmove w
  | 0x37 => membersVperm w
  | 0x38 => membersVred w
  | 0x3A => membersMask w
  | 0x40 => membersVfp w
  | 0x41 => membersVfpx w
  | 0x42 => membersVfma w
  | 0x43 => membersVfcmp w
  | 0x44 => some (memberVcvt (fieldAt w 28) (fieldAt w 25) (fieldAt w 22) (fieldAt w 21) (fieldAt w 17) (fieldAt w 12) (fieldAt w 7))
  | 0x45 => membersVqnt w
  | 0x50 => some (memberVld (fieldAt w 31) (fieldAt w 29) (fieldAt w 26) (fieldAt w 23) (fieldAt w 18) (fieldAt w 12) (fieldAt w 7))
  | 0x51 => some (memberVst (fieldAt w 31) (fieldAt w 29) (fieldAt w 26) (fieldAt w 23) (fieldAt w 18) (fieldAt w 12) (fieldAt w 7))
  | 0x52 => some (memberVlds (fieldAt w 31) (fieldAt w 29) (fieldAt w 26) (fieldAt w 23) (fieldAt w 18) (fieldAt w 12) (fieldAt w 7))
  | 0x53 => some (memberVsts (fieldAt w 31) (fieldAt w 29) (fieldAt w 26) (fieldAt w 23) (fieldAt w 18) (fieldAt w 12) (fieldAt w 7))
  | 0x54 => some (memberVldx (fieldAt w 31) (fieldAt w 29) (fieldAt w 26) (fieldAt w 23) (fieldAt w 18) (fieldAt w 12) (fieldAt w 7))
  | 0x55 => some (memberVstx (fieldAt w 31) (fieldAt w 29) (fieldAt w 26) (fieldAt w 23) (fieldAt w 18) (fieldAt w 12) (fieldAt w 7))
  | 0x56 => some (memberVlseg (fieldAt w 31) (fieldAt w 29) (fieldAt w 26) (fieldAt w 23) (fieldAt w 18) (fieldAt w 12) (fieldAt w 7))
  | 0x57 => some (memberVsseg (fieldAt w 31) (fieldAt w 29) (fieldAt w 26) (fieldAt w 23) (fieldAt w 18) (fieldAt w 12) (fieldAt w 7))
  | 0x58 => some (memberLsld (fieldAt w 26) (fieldAt w 23) (fieldAt w 18) (fieldAt w 12) (fieldAt w 7))
  | 0x59 => some (memberLsst (fieldAt w 26) (fieldAt w 23) (fieldAt w 18) (fieldAt w 12) (fieldAt w 7))
  | 0x5A => some (memberVspl (fieldAt w 12) (fieldAt w 7))
  | 0x5B => some (memberVfil (fieldAt w 12) (fieldAt w 7))
  | 0x5C => membersCache w
  | 0x5D => some (memberLdtol (fieldAt w 23) (fieldAt w 18) (fieldAt w 12) (fieldAt w 7))
  | 0x5E => some (memberQappend (fieldAt w 29) (fieldAt w 26) (fieldAt w 23) (fieldAt w 12) (fieldAt w 7))
  | 0x60 => membersFib w
  | 0x61 => membersFpref w
  | 0x62 => membersFmsg w
  | 0x68 => membersJclm w
  | 0x69 => some (memberJrel (fieldAt w 7))
  | 0x6A => some (memberJld (fieldAt w 27) (fieldAt w 22) (fieldAt w 16) (fieldAt w 11) (fieldAt w 7))
  | 0x6B => membersJfil w
  | 0x6C => some (memberTmma (fieldAt w 23) (fieldAt w 21) (fieldAt w 13) (fieldAt w 9) (fieldAt w 7))
  | 0x6D => some (memberTmms (fieldAt w 23) (fieldAt w 21) (fieldAt w 17) (fieldAt w 13) (fieldAt w 9) (fieldAt w 7))
  | 0x6E => some (memberTtrn (fieldAt w 23) (fieldAt w 21) (fieldAt w 13) (fieldAt w 9) (fieldAt w 7))
  | 0x6F => some (memberTmov (fieldAt w 16) (fieldAt w 11) (fieldAt w 7))
  | 0x70 => membersTctl w
  | 0x75 => membersVamo w
  | 0x77 => membersSlkadd w
  | _ => none

/-- Whether a word's major is of the vector class (R38). -/
def vectorClass (w : Nat) : Bool :=
  let m := w % 128
  (0x32 ≤ m && m ≤ 0x38) || m == 0x3A || (0x40 ≤ m && m ≤ 0x45) || (0x50 ≤ m && m ≤ 0x5E) || (0x60 ≤ m && m ≤ 0x62) ||
    (0x68 ≤ m && m ≤ 0x70) || m == 0x75 || m == 0x77

/-- A member that fails its check at issue with ILLOP, in its pipe. -/
def spoiled (m : Member) : Member := { m with bad := fun _ => true }

/-- A member given for a word that its checks refuse: ILLINS, or, after the limits of R40, ILLOP (R54). -/
def checkedMember (w : Nat) (m : Option Member) : Except Reject Member :=
  match wordReject w, m with
  | some .reservedField, some m => .ok (spoiled m)
  | some e, _ => .error e
  | none, some m => .ok m
  | none, none => .error .unassignedMajor

/-- The member a vector-class word stands for, or why it is none. -/
def memberOfWord (w : Nat) : Except Reject Member := checkedMember w (membersOf w)

/-! ### Repeat frames -/

/-- Whether bits 11:7 of a frame word name a vector register (R32, R129). -/
def rotatesD (w : Nat) : Bool :=
  let m := w % 128
  !(m == 0x35 || m == 0x3A || m == 0x43 || (m == 0x36 && 4 < bits w 25 7))

/-- Whether bits 16:12 of a frame word name a vector register. -/
def rotatesA (w : Nat) : Bool :=
  let m := w % 128
  !(m == 0x3A || m == 0x50 || m == 0x51 || (m == 0x36 && bits w 25 7 != 0 && bits w 25 7 != 4))

/-- Whether bits 21:17 of a frame word name a vector register. -/
def rotatesB (w : Nat) : Bool :=
  let f := bits w 25 7
  match w % 128 with
  | 0x32 => true
  | 0x35 => f < 32
  | 0x36 => f == 4
  | 0x38 => f ≤ 7 || (10 ≤ f && f ≤ 12)
  | 0x40 => f ≤ 3 || f == 5 || f == 6 || f == 13
  | 0x42 => true
  | 0x43 => f < 32
  | 0x45 => f == 1 || f == 2
  | _ => false

/-- A word whose five-bit field at bit `lo` names the register `n` places on, modulo 32. -/
def rotateField (w lo n : Nat) : Nat := w - bits w lo 5 * 2 ^ lo + (bits w lo 5 + n) % 32 * 2 ^ lo

/-- A frame word with the fields that `f` selects (bit 2 vd, bit 1 va, bit 0 vb) rotated by `n` (R127, R129). -/
def rotateWord (f n w : Nat) : Nat :=
  let w := if f / 4 % 2 = 1 && rotatesD w then rotateField w 7 n else w
  let w := if f / 2 % 2 = 1 && rotatesA w then rotateField w 12 n else w
  if f % 2 = 1 && rotatesB w then rotateField w 17 n else w

/-- Whether a word may not stand in a frame (R128, rows one to four). -/
def frameBars (w : Nat) : Bool :=
  let m := w % 128
  let ld := m == 0x50 || m == 0x51
  let fpInt := (0x32 ≤ m && m ≤ 0x36) || m == 0x38 || m == 0x3A || (0x40 ≤ m && m ≤ 0x45)
  (!fpInt && !ld) || (m == 0x36 && bits w 25 7 == 2) || (m == 0x3A && (bits w 25 7 == 5 || bits w 25 7 == 6)) ||
    (ld && Instr.subByteCode (fieldAt w 26))

/-- The member of a rotated frame word; a VLD or VST takes its base from a given address (R129). -/
def frameMember (w : Nat) (base : Nat) : Except Reject Member :=
  checkedMember w (match w % 128 with
    | 0x50 => some (vldAt (fun _ => base) (fieldAt w 31) (fieldAt w 29) (fieldAt w 26) (fieldAt w 23) (fieldAt w 18) (fieldAt w 7))
    | 0x51 => some (vstAt (fun _ => base) (fieldAt w 31) (fieldAt w 29) (fieldAt w 26) (fieldAt w 23) (fieldAt w 18) (fieldAt w 7))
    | _ => membersOf w)

end Sys2Proof.Machine
end

