-- ==== Sys2Proof/Machine/Sources.lean ====
section
/-! DEFINITION. The registers a word reads and writes, word by word, and what a register with an uncorrectable word does to its
reader (R435). -/

namespace Sys2Proof.Machine

open Sys2Proof.Config

/-! ### Scalar registers -/

/-- The s registers a scalar-class or vector-control word reads (R32, R47, R52). -/
def scalarReads (w : Nat) : List Nat :=
  let a := bits w 13 6
  let b := bits w 19 6
  let d := bits w 7 6
  match w % 128 with
  | 0x01 => if bits w 25 7 = 24 then [a, b, d] else [a, b]
  | 0x0B => [a, d]
  | 0x0C => [a, d]
  | 0x0D => [a, d]
  | 0x0E => [a, d]
  | 0x0F => [a, d]
  | 0x10 => [a, d]
  | 0x13 => [a, b]
  | 0x1B => [a, d]
  | 0x1C => [a, d]
  | 0x1D => [a, d]
  | 0x1E => [a, d]
  | 0x1F => [a, b]
  | 0x20 => [a, b, bits w 25 6]
  | 0x21 => [a, b, bits w 25 6]
  | 0x31 => [a, b]
  | 0x3E => [bits w 11 6]
  | 0x74 => if bits w 25 4 = 9 then [a, b, d] else [a, b]
  | 0x78 => [a, b]
  | 0x7B => [a, b]
  | 0x7D => [a, b]
  | 0x7E => [a, b]
  | 0x7F => if bits w 25 7 ≤ 1 then [a, b, d] else [a, b]
  | m =>
    if (0x02 ≤ m && m ≤ 0x08) || m == 0x12 || (0x14 ≤ m && m ≤ 0x1A) || m == 0x22 || m == 0x30 then [a] else []

/-- The s registers a fibre word reads (R50). -/
def fibreReads (w : Nat) : List Nat :=
  let x := bits w 16 6
  match w % 128, bits w 22 5 with
  | 0x60, 0 => [x, x + 1, x + 2]
  | 0x60, 2 => [x]
  | 0x60, 7 => [x]
  | 0x60, 10 => [x]
  | 0x60, 15 => [x]
  | 0x60, 17 => [x]
  | 0x61, _ => [x, x + 1, x + 2]
  | 0x62, _ => [x]
  | _, _ => []

/-- The s registers a vector-class word reads (R32, R46, R50, R51). -/
def vectorReadsS (w : Nat) : List Nat :=
  let s := bits w 17 5
  let a := bits w 12 6
  let f := bits w 25 7
  match w % 128 with
  | 0x33 => [s]
  | 0x35 => if 32 ≤ f && f < 64 then [s] else []
  | 0x36 => if f = 1 || f = 2 then [s] else []
  | 0x37 => if f = 2 || f = 3 || f = 4 then [] else [s]
  | 0x38 => if f = 14 || f = 15 then [s] else []
  | 0x41 => [s]
  | 0x43 => if 32 ≤ f && f < 64 then [s] else []
  | 0x52 => [a, bits w 18 5]
  | 0x53 => [a, bits w 18 5]
  | 0x5C => [bits w 13 6, bits w 19 6]
  | 0x6A => [bits w 16 6]
  | 0x6B => (List.range 4).map (bits w 16 6 + ·)
  | 0x6F => [bits w 16 6]
  | 0x75 => [a]
  | 0x77 => [a]
  | m => if 0x50 ≤ m && m ≤ 0x5E then [a] else if 0x60 ≤ m && m ≤ 0x62 then fibreReads w else []

/-- Every s register a word reads. -/
def readsS (w : Nat) : List Nat := if vectorClass w then vectorReadsS w else scalarReads w

/-- The s register a word writes when it completes, s0 for none (R32). -/
def writesS (w : Nat) : Nat :=
  let d := bits w 7 6
  match w % 128 with
  | 0x36 => if bits w 25 7 = 2 then bits w 7 5 else 0
  | 0x3A => if bits w 25 7 = 5 || bits w 25 7 = 6 then bits w 7 5 else 0
  | 0x60 => if bits w 22 5 = 12 then bits w 16 6 else 0
  | 0x68 => if bits w 11 1 = 1 then bits w 16 6 else 0
  | 0x70 => if bits w 25 7 = 1 then d else 0
  | 0x7F => if bits w 25 7 ≤ 1 then 0 else d
  | m =>
    if (0x0B ≤ m && m ≤ 0x10) || m == 0x13 || (0x1B ≤ m && m ≤ 0x1E) || m == 0x23 || (0x32 ≤ m && m ≤ 0x70) || m == 0x75 ||
        m == 0x77 || m == 0x7A || m == 0x7C then 0
    else d

/-! ### Words of the vector, mask and fibre registers -/

/-- What an instruction does to a 64-bit word of a register: nothing, possibly something, or certainly, at the word's first
local element that it reaches. -/
inductive Touch where
  | no
  | may
  | at (j : Nat)
  deriving DecidableEq, Repr

/-- How an operand meets a word: by the strand, the bay position and its block, and the register's code and the word's number
(R435: 0x100 × class + register, with class 1 v, 2 m, 3 f). -/
abbrev Reach := Strand → Nat → Block → Nat → Nat → Touch

/-- Whether a code names one of the registers of the group at `v` of width `w`. -/
def namesWord (st : Strand) (v w code : Nat) : Bool := 0x100 + v ≤ code && code < 0x100 + v + min 32 (groupRegs (vlbOf st.r.vt) w)

/-- First local element of width `w` whose bits meet word `k` of a register of the group at `v`, and how many meet it. -/
def wordElems (v w code k : Nat) : Nat × Nat :=
  let lo := ((code - 0x100 - v) * vregBits + 64 * k) / w
  (lo, ((code - 0x100 - v) * vregBits + 64 * k + 63) / w + 1 - lo)

/-- The active elements of a group are read (R111). -/
def reachActive (v w m : Nat) : Reach := fun st b bl code k =>
  if !namesWord st v w code then .no
  else
    let x := wordElems v w code k
    ((List.range x.2).find? fun i => isActive st.r.vl (vlbOf st.r.vt) b m bl (x.1 + i)).elim .no fun i => .at (x.1 + i)

/-- The elements of a group below VL are read, whatever the masks hold (R205). -/
def reachBelow (v w : Nat) : Reach := fun st b _ code k =>
  let x := wordElems v w code k
  if namesWord st v w code && decide (x.1 < belowVl st.r.vl (vlbOf st.r.vt) b) then .at x.1 else .no

/-- Every element of a group is read (R143). -/
def reachAll (v w : Nat) : Reach := fun st _ _ code _ => if namesWord st v w code then .at 0 else .no

/-- Some elements of a group are read or written. -/
def reachSome (v w : Nat) : Reach := fun st _ _ code _ => if namesWord st v w code then .may else .no

/-- The scale bytes of the active elements are read (R174, R176). -/
def reachScales (v m : Nat) : Reach := fun st b bl code k =>
  if code != 0x100 + v then .no
  else
    let n := max 1 (vtSblk st.r.vt)
    ((List.range (8 * n)).find? fun i => isActive st.r.vl (vlbOf st.r.vt) b m bl (8 * k * n + i)).elim .no fun i => .at (8 * k * n + i)

/-- JLD's rows: the first VL elements of each register (R258). -/
def reachRows (v : Nat) : Reach := fun st _ _ code k =>
  if 0x100 + v ≤ code && code < 0x100 + v + vtG st.r.vt && decide (64 * k < st.r.vl * vtWidth st.r.vt) then .at 0 else .no

/-- JLD's scales: of each row, from the byte its first element has in the layout of VSCALE (R258). -/
def reachRowScales (v : Nat) : Reach := fun st _ _ code k =>
  let first := fun (r : Nat) => r * (vregBits / vtWidth st.r.vt) / 32
  if code == 0x100 + v && (List.range (vtG st.r.vt)).any fun r =>
      decide (first r < 8 * k + 8) && decide (8 * k < first r + st.r.vl / 32) then .at 0 else .no

/-- The bits of a mask register below VL are read (R111, R140). -/
def reachMask (n : Nat) : Reach := fun st b _ code k =>
  if code == 0x200 + n && decide (64 * k < belowVl st.r.vl (vlbOf st.r.vt) b) then .at (64 * k) else .no

/-- The pairs of a fibre register are read, all of them, or, of a pass that may stop early, possibly (R219, R234). -/
def reachFibre (n : Nat) (all : Bool) : Reach := fun st _ _ code k =>
  if code == 0x300 + n && decide (k < (st.fibres.getD n ⟨[], 0, false⟩).pairs.length) then (if all then .at 0 else .may) else .no

/-- The elements of a group that R111 writes: a word is written whole when all its elements are. -/
def reachWritten (v w m : Nat) : Reach := fun st b bl code k =>
  if !namesWord st v w code then .no
  else
    let x := wordElems v w code k
    let js := (List.range x.2).map (x.1 + ·)
    if js.all fun j => decide (j < vlbOf st.r.vt) && writesElem st.r m b bl j then .at x.1 else .no

/-- The bits of a mask register below VL are written, whatever the masks hold (R140). -/
def reachMaskFilled (n : Nat) : Reach := fun st b _ code k =>
  if code == 0x200 + n && decide (64 * k + 64 ≤ belowVl st.r.vl (vlbOf st.r.vt) b) then .at (64 * k) else .no

/-- The bits of a mask register that R111 writes. -/
def reachMaskWritten (n m : Nat) : Reach := fun st b bl code k =>
  if code == 0x200 + n &&
      (List.range 64).all fun i => decide (64 * k + i < belowVl st.r.vl (vlbOf st.r.vt) b) && writesElem st.r m b bl (64 * k + i) then
    .at (64 * k)
  else .no

/-- A fibre register is written: nothing of its old contents stays (R219). -/
def reachFibreWritten (n : Nat) : Reach := fun _ _ _ code _ => if code == 0x300 + n then .at 0 else .no

/-- The explicit mask field of a vector-class word: in bits 24:22, of memory words in bits 25:23, of VFMA in bits 29:27 (R33). -/
def maskField (w : Nat) : Nat :=
  let c := w % 128
  if c = 0x42 then bits w 27 3 else if 0x50 ≤ c then bits w 23 3 else bits w 22 3

/-- The fibre registers a word of major 0x60 or 0x62 reads (R235 to R246). -/
def fibreSources (w : Nat) : List Reach :=
  let a := bits w 10 3
  let b := bits w 13 3
  let whole := [reachFibre a true]
  let part := [reachFibre a false]
  if w % 128 = 0x62 then whole
  else
    match bits w 22 5 with
    | 2 => whole
    | 3 => part ++ [reachFibre b false]
    | 4 => part ++ [reachFibre b false]
    | 5 => part ++ [reachFibre b false]
    | 6 => whole
    | 7 => part
    | 8 => whole
    | 9 => whole
    | 10 => whole
    | 11 => whole
    | 13 => whole
    | 14 => whole
    | 15 => part
    | 18 => whole
    | _ => []

/-- What a vector-class word reads of the v, m and f registers (R134 to R150, R160 to R178, R196 to R206, R238 to R262, R284,
R296, R362). -/
def wordReads (r : Regs) (w : Nat) : List Reach :=
  let c := w % 128
  let f := bits w 25 7
  let m := maskField w
  let n := vtWidth r.vt
  let el := fun (v : Nat) => reachActive v n m
  let a := bits w 12 5
  let b := bits w 17 5
  let d := bits w 7 5
  let x := bits w 18 5
  let masks := [reachMask 0] ++ if m = 0 then [] else [reachMask m]
  let index := [reachActive x (indexWidth r.vt) m]
  match c with
  | 0x32 => [el a, el b] ++ (if f = 0x14 then [el d] else []) ++ masks
  | 0x33 => [el a] ++ (if f = 0x14 then [el d] else []) ++ masks
  | 0x34 => [el a] ++ masks
  | 0x35 => [el a] ++ (if f < 32 then [el b] else []) ++ masks
  | 0x36 =>
    (if f = 0 then [el a] else if f = 2 then [reachSome a n] else if f = 4 then [reachSome a n, reachSome b n] else []) ++
      if f = 2 || f = 5 then [] else masks
  | 0x37 => [reachAll a n] ++ (if f = 2 then [reachAll b n] else []) ++ masks
  | 0x38 => [el a] ++ (if f < 8 || (10 ≤ f && f ≤ 12) then [reachSome b n] else []) ++ masks
  | 0x3A => if f = 7 || f = 8 then [] else [reachMask (bits w 12 3)] ++ if f < 4 then [reachMask (bits w 17 3)] else []
  | 0x40 => [el a] ++ (if f < 4 || f = 5 || f = 6 || f = 13 then [el b] else []) ++ masks
  | 0x41 => [el a] ++ masks
  | 0x42 => [el a, el b, reachActive (bits w 22 5) n m] ++ masks
  | 0x43 => [el a] ++ (if f < 32 then [el b] else []) ++ masks
  | 0x44 => [reachActive a (fmtWidth (bits w 17 4)) m] ++ masks
  | 0x45 => [reachActive a (if f = 2 then n else 32) m] ++ (if f = 0 then [] else [reachScales b m]) ++ masks
  | 0x50 => masks
  | 0x51 => [el d] ++ masks
  | 0x52 => masks
  | 0x53 => [el d] ++ masks
  | 0x54 => index ++ masks
  | 0x55 => index ++ [el d] ++ masks
  | 0x56 => masks
  | 0x57 => ((List.range (x + 1)).map fun i => el (d + i * vtG r.vt)) ++ masks
  | 0x58 => index ++ masks
  | 0x59 => index ++ [el d] ++ masks
  | 0x5A => [reachBelow d n]
  | 0x5D => [el x] ++ masks
  | 0x5E => [el d] ++ masks
  | 0x60 =>
    let v := bits w 16 5
    fibreSources w ++
      (match bits w 22 5 with
      | 1 => [reachActive v n 0, reachMask 0]
      | 8 => [reachMask 0]
      | 9 => [reachSome v n, reachMask 0]
      | 11 => [reachSome v n, reachMask 0]
      | _ => [])
  | 0x62 => fibreSources w
  | 0x6A => [reachRows (bits w 11 5)] ++ if bits w 27 1 = 1 then [reachRowScales (bits w 22 5)] else []
  | 0x6B => if bits w 27 1 = 1 then [reachBelow (bits w 11 5) n] else []
  | 0x75 => index ++ [el d] ++ masks
  | 0x77 => (if bits w 26 1 = 1 then index else []) ++ [el d] ++ masks
  | _ => []

/-- What a vector-class word writes of them when it completes. -/
def wordWrites (r : Regs) (w : Nat) : List Reach :=
  let f := bits w 25 7
  let m := maskField w
  let n := vtWidth r.vt
  let d := bits w 7 5
  let el := reachWritten d n m
  match w % 128 with
  | 0x32 => [el]
  | 0x33 => [el]
  | 0x34 => [el]
  | 0x35 => [reachMaskWritten (bits w 7 3) m]
  | 0x36 => if f = 2 || f = 5 then [] else if f = 4 then [reachWritten d n 0] else [el]
  | 0x37 => if f = 0 || f = 3 then [reachSome d n] else [el]
  | 0x38 => if 16 ≤ f then [el] else [reachSome d n]
  | 0x3A => if f = 5 || f = 6 then [] else [reachMaskFilled (bits w 7 3)]
  | 0x40 => [el]
  | 0x41 => [el]
  | 0x42 => [el]
  | 0x43 => [reachMaskWritten (bits w 7 3) m]
  | 0x44 => [reachWritten d (fmtWidth (bits w 28 4)) m]
  | 0x45 => if f = 0 then [reachSome d 8] else if f = 1 then [el] else [reachWritten d 32 m]
  | 0x50 => [el]
  | 0x52 => [el]
  | 0x54 => [el]
  | 0x56 => (List.range (bits w 18 5 + 1)).map fun i => reachWritten (d + i * vtG r.vt) n m
  | 0x58 => [el]
  | 0x5B => [reachSome d n]
  | 0x60 =>
    let v := bits w 16 5
    let target := [reachFibreWritten (bits w 7 3)]
    (match bits w 22 5 with
    | 2 => []
    | 8 => [reachSome v n]
    | 10 => []
    | 12 => []
    | 13 => [reachSome v n]
    | 14 => [reachSome v n]
    | _ => target)
  | 0x62 => if bits w 22 5 = 1 then [reachFibreWritten (bits w 7 3)] else []
  | 0x6F => [reachSome (bits w 11 5) n]
  | 0x75 => if bits w 30 1 = 1 then [el] else []
  | _ => []

/-! ### Consumption -/

/-- A damaged word of a block: its number × 0x1_0000 + the register's code (R435). -/
abbrev codeOf (x : Nat) : Nat := x % 0x10000
abbrev wordOf (x : Nat) : Nat := x / 0x10000

/-- Whether an attached bay holds the bad copy of s register `n`. -/
def isBad (st : Strand) (n : Nat) : Bool := st.blocks.any fun bl => bl.badRegs.contains n

/-- Takes ECCUC for the first s register that some words read and that is bad (R435). DEDUCED (log entry 45). -/
def consumeScalars (words : List Nat) : M Unit := do
  let st ← getStrand
  if st.blocks.any fun bl => !bl.badRegs.isEmpty then
    match (words.flatMap readsS).find? fun n => n != 0 && isBad st n with
    | some n => raise causeEccuc (BitVec.ofNat 64 n)
    | none => return ()

/-- How some operands meet a word: certainly when one of them does. -/
def touchOf (xs : List Reach) (st : Strand) (b : Nat) (bl : Block) (x : Nat) : Touch :=
  xs.foldl (fun t f =>
    match t, f st b bl (codeOf x) (wordOf x) with
    | .no, y => y
    | .may, .at j => .at j
    | t, _ => t) .no

/-- The damaged words of a strand, by position. -/
def badWords (st : Strand) : List (Nat × Block × Nat) := st.blocks.zipIdx.flatMap fun (bl, b) => bl.badRegs.map fun x => (b, bl, x)

/-- The first damaged word that a convoy consumes from element group `start` on: the group, and the register's code. `w` is the
width that counts its groups; a member that reads what one before it has written whole reads no damage. Where the word may
or may not be among those read, that is a free choice (R435). DEDUCED (log entry 45). -/
def damage (w start : Nat) (words : List Nat) : M (Option (Nat × Nat)) := do
  let st ← getStrand
  let bad := badWords st
  if bad.isEmpty then return none
  else
    let scan := fun (acc : M (List (Nat × Nat))) (y : Nat × Nat) => do
      let found ← acc
      bad.foldl (fun (acc : M (List (Nat × Nat))) (z : Nat × Block × Nat) => do
        let found ← acc
        let healed := (words.take y.2).any fun v =>
          match touchOf (wordWrites st.r v) st z.1 z.2.1 z.2.2 with
          | .at _ => true
          | _ => false
        if healed then return found
        else
          match touchOf (wordReads st.r y.1) st z.1 z.2.1 z.2.2 with
          | .no => return found
          | .may => do
            let hit ← freeBit
            return (if hit then found ++ [(start, codeOf z.2.2)] else found)
          | .at j => return (if start ≤ j * w / groupBits then found ++ [(j * w / groupBits, codeOf z.2.2)] else found)) (pure found)
    let found ← words.zipIdx.foldl scan (pure [])
    return (found.foldl (fun (a : Option (Nat × Nat)) x => if a.any fun y => y.1 ≤ x.1 then a else some x) none)

/-- The words of the registers that a completed instruction has written whole are no longer damaged; where it may have written
one, that is a free choice (R435). DEDUCED (log entry 45). -/
def heal (words : List Nat) (before : Strand) : M Unit := do
  let bad := badWords before
  if bad.isEmpty then return ()
  else
    let step := fun (acc : M (List (Nat × Nat))) (z : Nat × Block × Nat) => do
      let gone ← acc
      if codeOf z.2.2 < 64 then return (if (words.map writesS).contains (codeOf z.2.2) then gone ++ [(z.1, z.2.2)] else gone)
      else
        match touchOf (words.flatMap (wordWrites before.r)) before z.1 z.2.1 z.2.2 with
        | .no => return gone
        | .may => do
          let hit ← freeBit
          return (if hit then gone ++ [(z.1, z.2.2)] else gone)
        | .at _ => return gone ++ [(z.1, z.2.2)]
    let gone ← bad.foldl step (pure [])
    modStrand fun st => { st with
      blocks := st.blocks.zipIdx.map fun (bl, b) => { bl with badRegs := bl.badRegs.filter fun x => !gone.contains (b, x) } }

/-- Whether a strand's instruction ended in trap entry. -/
def trappedFrom (before after : Strand) : Bool := xstatIn after.r.xstat && !xstatIn before.r.xstat

/-- A step with what its completed instruction heals (R435). -/
def healed (words : List Nat) (before : Strand) (r : Result) : Result :=
  match r with
  | .next s =>
    match strandOf s with
    | none => r
    | some st =>
      if st.wait != .none || trappedFrom before st then r
      else
        match heal words before s with
        | .ok _ s' => .next s'
        | .error _ _ => r
  | r => r

end Sys2Proof.Machine
end

