-- ==== Sys2Proof/Machine/Repf.lean ====
section
/-! DEFINITION. Repeat frames (R127 to R131): the words of a frame, the checks of R128, its convoys and replays, and where
one stops. -/

namespace Sys2Proof.Machine

open Sys2Proof.Config

/-! ### The words of a frame -/

/-- A word of a frame: its position, the word, and its address. -/
structure FrameWord where
  p : Nat
  word : Nat
  addr : Word
  deriving DecidableEq, Repr

/-- The scalar no-operation (R42). -/
abbrev nopWord : Nat := 0x00000002

/-- Fetches `k` words from `pc`, each quad once, no-operations skipped; a word that R128 bars ends it. `fuel` bounds the words
read. DEDUCED (log entry 26). -/
def fetchFrame : Nat → Nat → Nat → Word → Option Quad → M (List FrameWord)
  | 0, _, _, _, _ => return []
  | fuel + 1, k, p, pc, last =>
    if k = 0 then return []
    else do
      let (w, quad) ← fetchNext last pc
      if w.toNat = nopWord then fetchFrame fuel k p (pc + 4) quad
      else if frameBars w.toNat then raise causeIllop (BitVec.ofNat 64 (w.toNat + p * 2 ^ 32))
      else
        let rest ← fetchFrame fuel (k - 1) (p + 1) (pc + 4) quad
        return { p := p, word := w.toNat, addr := pc } :: rest

/-- The words of the frame of a REPF with `k` of them: those it has fetched when it is in progress, else fetched now (R39,
R104, R127). -/
def frameWords (k : Nat) : M (List FrameWord) := do
  let st ← getStrand
  match st.inflight.filter fun f => f.pc == st.r.pc && f.frame.isSome with
  | some f => return ((f.words.zip f.addrs).drop 1).zipIdx.map fun ((w, a), p) => { p := p, word := w.toNat, addr := a }
  | none => fetchFrame (2 ^ 62) k 0 (st.r.pc + 4) none

/-- The words of a frame cut into convoys: successive words of one quad (R39). -/
def frameConvoys : List FrameWord → List (List FrameWord)
  | [] => []
  | x :: t =>
    match frameConvoys t with
    | (y :: c) :: cs =>
      if y.addr = x.addr + 4 && y.addr.toNat / 16 == x.addr.toNat / 16 then (x :: y :: c) :: cs else [x] :: (y :: c) :: cs
    | cs => [x] :: cs

/-! ### A frame at its issue -/

/-- What a REPF knows at its issue (R129). -/
structure Frame where
  /-- the REPF word -/
  head : Nat
  words : List FrameWord
  convoys : List (List FrameWord)
  /-- address after the last word -/
  next : Word
  trip : Nat
  stages : Nat
  rot : Nat
  fields : Nat
  /-- s[sa] of each VLD and VST, by position -/
  bases : List (Nat × Nat)
  rstg : Word
  vl : Nat
  vt : BitVec 13
  deriving DecidableEq, Repr

/-- stage(p) of RSTG (R131). -/
def stageOf (rstg : Word) (p : Nat) : Nat := rstg.toNat / 2 ^ (3 * p) % 8

/-- nreplay (R129). -/
def Frame.replays (f : Frame) : Nat := if f.trip = 0 then 0 else f.trip + f.stages - 1

/-- Whether a position is selected on replay `i`. -/
def Frame.selects (f : Frame) (i : Nat) (x : FrameWord) : Bool :=
  stageOf f.rstg x.p ≤ i && i < f.trip + stageOf f.rstg x.p

/-- Bytes by which a VLD or VST has moved on at replay `i`: i × VL × width ÷ 8 (R129), with the width in memory of the access,
and whole bytes only. DESIGN CHOICE (log entry 57). -/
def Frame.advance (f : Frame) (i w : Nat) : Nat := i * f.vl * vmWidth f.vt (fieldAt w 26) / 8

/-- The member of a frame word on replay `i`. -/
def Frame.member (f : Frame) (i : Nat) (x : FrameWord) : Except Reject Member :=
  let base := ((f.bases.find? fun y => y.1 == x.p).map (·.2)).getD 0
  frameMember (rotateWord f.fields (i * f.rot) x.word) ((base + f.advance i x.word) % 2 ^ 64)

/-- The REPF word from its fields. -/
def wordRepf (f : BitVec 3) (o : BitVec 5) (g : BitVec 3) (n : BitVec 6) (k : BitVec 4) : Nat :=
  wordWith 0x3E [(f.toNat, 25), (o.toNat, 20), (g.toNat, 17), (n.toNat, 11), (k.toNat, 7)]

/-- The checks of R128 and R130 and the frame of a REPF that issues. DEDUCED (log entry 26). -/
def frameHead (f : BitVec 3) (o : BitVec 5) (g : BitVec 3) (n : BitVec 6) (k : BitVec 4) : M Frame := do
  let word := wordRepf f o g n k
  let st ← getStrand
  let pc := st.r.pc
  let ws ← frameWords (k.toNat + 1)
  let r ← getRegs
  if o.toNat % vtG r.vt != 0 then raise causeIllop (BitVec.ofNat 64 word)
  else if (List.range (k.toNat + 1)).any fun p => g.toNat + 1 ≤ stageOf r.rstg p then raise causeIllop (BitVec.ofNat 64 word)
  else if !vstartFrame r.vstart && vstartEgrp r.vstart != 0 then issueTrap causeIllop word
  else
    let base := fun (x : FrameWord) => (x.p, (regRead r (x.word / 2 ^ 12 % 64)).toNat)
    return {
      head := word, words := ws, convoys := frameConvoys ws, next := (ws.getLast?.elim pc (·.addr)) + 4,
      trip := (regRead r n.toNat).toNat % 2 ^ 32,
      stages := g.toNat + 1, rot := o.toNat, fields := f.toNat, bases := ws.map base, rstg := r.rstg, vl := r.vl, vt := r.vt }

/-! ### Replays -/

/-- The selected words of a convoy on replay `i`. -/
def Frame.chosen (f : Frame) (i : Nat) (c : List FrameWord) : List FrameWord := c.filter (f.selects i)

/-- The first position of a convoy. -/
def convoyPos (c : List FrameWord) : Nat := (c.map (·.p)).headD 0

/-- The first convoy that is selected, from position `p` of replay `i` on; `n` bounds the replays looked at. -/
def Frame.seek (f : Frame) : Nat → Nat → Nat → Option (Nat × List FrameWord)
  | 0, _, _ => none
  | n + 1, i, p =>
    match f.convoys.find? fun c => p ≤ convoyPos c && !(f.chosen i c).isEmpty with
    | some c => some (i, c)
    | none => f.seek n (i + 1) 0

/-- The first selected convoy at or after a point. -/
def Frame.first (f : Frame) (i p : Nat) : Option (Nat × List FrameWord) := f.seek (f.replays - i) i p

/-- Where a frame stops: the replay, the position and the group (R130). -/
structure FrameStop where
  x : Stop
  i : Nat
  p : Nat
  group : Nat
  s : State

/-- The members of words, with their positions in their quads. -/
def frameMembers (f : Frame) (i : Nat) (c : List FrameWord) : List (Nat × Member) :=
  c.filterMap fun x =>
    match f.member i x with
    | .ok m => some (x.addr.toNat / 4 % 4, m)
    | .error _ => none

/-- One convoy of replay `i`, from group `g` up to `stop` (all when none): its checks at issue, R119, and its groups. The
checks of R54 on frame words are made here, at each replay and on the words it selects. DESIGN CHOICE (log entry 57). -/
def framePerform (f : Frame) (i : Nat) (c : List FrameWord) (g : Nat) (stop : Option Nat) (s : State) :
    Except FrameStop State :=
  let halt := fun (x : Stop) (group : Nat) (s : State) => FrameStop.mk x i (convoyPos c) group s
  let trap := fun (cause : BitVec 8) (x : Option FrameWord) =>
    halt (.trap { cause := cause, xval := x.elim 0 fun x => memberXval x.word (x.addr.toNat / 4) }) g s
  match strandOf s with
  | none => .error (halt (.fault .noStrand) g s)
  | some st =>
    let ws := f.chosen i c
    match convoyFault st [] 0 (ws.map (f.member i)) with
    | some (k, cause) => .error (trap cause ws[k]?)
    | none =>
      let ms := frameMembers f i ws
      if g != 0 && (ms.any (·.2.whole) || groupCount st.r (convoyWidth st.r ms) ≤ g) then .error (trap causeIllop ws[0]?)
      else
        match performConvoy ms g stop s with
        | .ok s' => .ok s'
        | .error e => .error (halt e.x e.group e.s)

/-- Convoys in turn from a point on; `n` bounds them. DEDUCED (log entry 26). -/
def frameLoop (f : Frame) : Nat → Nat → Nat → Nat → State → Except FrameStop State
  | 0, _, _, _, s => .ok s
  | n + 1, i, p, g, s =>
    match f.first i p with
    | none => .ok s
    | some (j, c) =>
      let g := if j = i && convoyPos c = p then g else 0
      match framePerform f j c g none s with
      | .error e => .error e
      | .ok s' => frameLoop f n j (convoyPos c + 1) 0 s'

/-- VSTART of a frame that stops (R118, R130). -/
def frameVstart (i p g : Nat) : Word := BitVec.ofNat 64 (g % 256 + p % 16 * 256 + 2 ^ 15 + i % 2 ^ 33 * 2 ^ 16)

/-- Where a REPF begins: where it waited, or where VSTART says (R129, R130). DEDUCED (log entry 26). -/
def frameStart (st : Strand) : Nat × Nat × Nat :=
  let v := st.r.vstart
  let fresh := if vstartFrame v then (vstartRidx v, vstartFpos v, vstartEgrp v) else (0, 0, 0)
  match st.inflight with
  | some f => if f.pc = st.r.pc then f.frame.elim fresh fun x => (x.1, x.2, f.group) else fresh
  | none => fresh

/-- A frame in progress at a point: it keeps the words that were fetched (R104, R127). -/
def Frame.held (f : Frame) (pc : Word) (i p g : Nat) : Inflight :=
  { pc := pc, words := BitVec.ofNat 32 f.head :: f.words.map fun x => BitVec.ofNat 32 x.word,
    addrs := pc :: f.words.map (·.addr), group := g, frame := some (i, p) }

/-- A frame that has stopped: a trap records the point in VSTART, a wait keeps it (R130). -/
def frameStopped (f : Frame) (e : FrameStop) : Result :=
  match e.x with
  | .trap t => .next (takeTrap (setVstart e.s (frameVstart e.i e.p e.group)) t)
  | .wait w =>
    match strandOf e.s with
    | some st =>
      .next (putStrand e.s { st with wait := w, inflight := some (f.held st.r.pc e.i e.p e.group) })
    | none => .fault .noStrand
  | .fault f => .fault f

/-- A frame whose last replay has committed: VSTART is zero and fetch goes on past its last word (R127, R130). -/
def frameDone (f : Frame) (s : State) : Result :=
  match strandOf s with
  | some st => .next (putStrand s (retired { st with r := { st.r with vstart := 0 } } f.next))
  | none => .fault .noStrand

/-- REPF (R127 to R130). DEDUCED (log entry 26). -/
def execRepf (f : BitVec 3) (o : BitVec 5) (g : BitVec 3) (n : BitVec 6) (k : BitVec 4) (s : State) : Result :=
  match frameHead f o g n k s with
  | .error x s' => stopped x s'
  | .ok fr s' =>
    match strandOf s' with
    | none => .fault .noStrand
    | some st =>
      let (i, p, e) := frameStart st
      match frameLoop fr (fr.replays * (k.toNat + 1) + 1) i p e s' with
      | .ok s'' => frameDone fr s''
      | .error x => frameStopped fr x

end Sys2Proof.Machine
end

