-- ==== Sys2Proof/Machine/Issue.lean ====
section
/-! DEFINITION. The words fetched for issue and the convoys they form (R29, R38, R39, R104), and the events of a strand at
issue: a convoy begins, an element group commits, a trap is entered, SLOG is taken, Heartwood settles a second-stage
fault (R113 to R120, R371 to R373, R387). -/

namespace Sys2Proof.Machine

open Sys2Proof.Config

/-! ### Words for issue -/

/-- The words of a run after its first one: up to `n` more vector-class words of the quad, from the one fetch of it (R39,
R104). A word that is poisoned ends the run, and raises its ECCUC when it is the first word of one itself.
DESIGN CHOICE (log entry 56). -/
def fetchRest (quad : Option Quad) : Nat → Word → M (List Nat)
  | 0, _ => return []
  | n + 1, pc => do
    match ← attempt (fetchNext quad pc) with
    | .error _ => return []
    | .ok (w, _) =>
      if vectorClass w.toNat then
        let rest ← fetchRest quad n (pc + 4)
        return w.toNat :: rest
      else return []

/-- What stands at the pc: one word, or the words of a convoy. A queue entry in progress has its words already: they are not
fetched again (R39, R104). -/
def fetchIssue : M (List Nat) := do
  let st ← getStrand
  let r := st.r
  match st.inflight.filter fun f => f.pc == r.pc && !f.words.isEmpty with
  | some f => return (if f.frame.isSome then f.words.take 1 else f.words).map BitVec.toNat
  | none =>
    let (w, quad) ← fetchNext none r.pc
    if vectorClass w.toNat then
      let rest ← fetchRest quad (3 - r.pc.toNat / 4 % 4) (r.pc + 4)
      return w.toNat :: rest
    else return [w.toNat]

/-- A word that is no instruction traps (R54, R55). -/
def rejectWord (e : Reject) (w : Nat) (s : State) : Result :=
  runSeq (issueTrap (rejectCause e) w) s

/-! ### Strands that may act -/

/-- Whether a strand holds an FSEND that is not interrupted (R120, R245). DESIGN CHOICE (log entry 32). -/
def uninterrupted (st : Strand) : Bool := st.sending.any fun x => x.2.1 == st.r.pc.toNat

/-- Whether a strand has an entry of its vector queue in progress, a convoy or a repeat frame, which is one entry until its
last replay has committed (R127): a halted bent's strands stop at the boundary behind it (R101). DEDUCED (log entry 20). -/
def inConvoy (st : Strand) : Bool := st.inflight.any fun f => f.pc == st.r.pc

/-- Whether a strand may issue: its bent is resident and past its first-issue delay, neither halted nor being pre-empted,
and it has not exited (R355, R101, R368); a convoy in progress of a halted bent goes on to its boundary. An FSEND whose
reservation is granted goes on all the same (R245). DESIGN CHOICE (log entry 32). -/
def mayIssue (s : State) (st : Strand) : Bool :=
  !st.exited && (s.bents[st.bent]?).any fun b =>
    b.state == .resident && b.started && (uninterrupted st || ((!b.halted || inConvoy st) && !b.preempt))

/-- Whether a strand has asked a receiver for a reservation (R245). -/
def asksSend (s : State) : Bool := s.strands.any fun st => st.requests.contains s.cur

/-- A trap taken by a strand whose FSEND waits for its reservation withdraws the request (R245). -/
def unasked (before : State) (st : Strand) (r : Result) : Result :=
  if !asksSend before then r
  else
    match r with
    | .next s => if (strandOf s).any fun st' => trappedFrom st st' then .next (withdraw s.cur s) else r
    | r => r

/-- Runs a step of another strand. -/
def actAs (k : Nat) (f : State → Result) (s : State) : Result :=
  match f { s with cur := k } with
  | .next s' => .next { s' with cur := s.cur }
  | .fault x => .fault x
  | .refused x => .refused x

/-- Runs a step of a strand that may issue. -/
def actIssuing (k : Nat) (f : Strand → State → Result) (s : State) : Result :=
  match s.strands[k]? with
  | none => .fault .noSuchPart
  | some st => if mayIssue s st then actAs k (f st) s else .fault .noSuchPart

/-- The executing strand goes on in the middle of a convoy. -/
def holdAt (f : Inflight) (s : State) : Result :=
  match strandOf s with
  | some st => .next (putStrand s { st with wait := .none, inflight := some f })
  | none => .fault .noStrand

/-- The frame of a REPF word that issues (R127). -/
def headOfWord (w : Nat) : M Frame := frameHead (fieldAt w 25) (fieldAt w 20) (fieldAt w 17) (fieldAt w 11) (fieldAt w 7)

/-! ### Checks at issue (R54) -/

/-- Whether a word is runtime-only (R53). -/
def runtimeOnly (w : Nat) : Bool :=
  let f := bits w 25 7
  match w % 128 with
  | 0x7F => true
  | 0x7D => 64 ≤ f && f ≤ 66
  | 0x78 => f == 0
  | 0x23 => f == 2 || f == 4
  | _ => false

/-- Whether a CSR word fails the checks of its number and its access (R53, R93). -/
def csrFault (level : Level) (w : Nat) : Bool :=
  let n := bits w 19 11
  let op := bits w 30 2
  (csrCheck level n).isSome || !csrNamed n || (csrReadOnly n && (op == 0 || (op != 3 && bits w 13 6 != 0)))

/-- Whether a scalar-class or vector-control word fails a check at issue. -/
noncomputable def scalarFault (st : Strand) (w : Nat) : Bool :=
  match decodeWord w with
  | .error _ => true
  | .ok _ =>
    (st.r.level == .user && runtimeOnly w) || (w % 128 == 0x22 && csrFault st.r.level w) ||
      (w % 128 == 0x30 && !vtLegal (bits w 19 13))

/-- Whether a REPF fails its checks at issue (R128, R130). -/
def frameFault (w : Nat) (s : State) : Bool :=
  w % 128 == 0x3E &&
    (match headOfWord w s with
    | .error _ _ => true
    | .ok _ _ => false)

/-- Whether the words that stand at a strand's pc fail a check at issue, which comes before every cause at execution (R54). -/
noncomputable def issueFault (st : Strand) (words : List Nat) (s : State) : Bool :=
  match words with
  | [] => false
  | w :: _ =>
    if vectorClass w then
      let ws := words.map memberOfWord
      (convoyFault st [] 0 ws).isSome || (startGroup st.r (okMembers (st.r.pc.toNat / 4) ws)).isNone
    else scalarFault st w || frameFault w s

/-! ### Damaged registers (R435) -/

/-- The group at which a strand's convoy goes on, at its pc, or begins. -/
def convoyStart (st : Strand) (ms : List (Nat × Member)) : Nat :=
  match st.inflight with
  | some f => if f.pc = st.r.pc then f.group else (startGroup st.r ms).getD 0
  | none => (startGroup st.r ms).getD 0

/-- A convoy that consumes a damaged register of code `code` in element group `g`: the groups before it commit (R117), and
ECCUC is taken there (R435). A convoy that holds a whole member commits nothing (R116). -/
def damagedAt (words : List Nat) (g code : Nat) (s : State) : Result :=
  match strandOf s with
  | none => .fault .noStrand
  | some st =>
    let ms := okMembers (st.r.pc.toNat / 4) (words.map memberOfWord)
    let start := convoyStart st ms
    let trap := fun (s : State) (g : Nat) =>
      (.next (takeTrap (setVstart s (vstartOf g)) { cause := causeEccuc, xval := BitVec.ofNat 64 code }) : Result)
    if ms.any (·.2.whole) || g ≤ start then trap s start
    else
      match performConvoy ms start (some g) s with
      | .ok s' => trap s' g
      | .error c => convoyStopped (words.map (BitVec.ofNat 32)) c

/-- The first damaged register word that a convoy at the strand's pc consumes: its group, and the register's code. -/
def convoyDamage (words : List Nat) : M (Option (Nat × Nat)) := do
  let st ← getStrand
  let ms := okMembers (st.r.pc.toNat / 4) (words.map memberOfWord)
  damage (convoyWidth st.r ms) (convoyStart st ms) words

/-! ### CONVOY_ISSUE (R113) -/

/-- A convoy passes its checks at issue and begins; it reads its s registers (R113, R435). -/
def beginConvoy (words : List Nat) (st : Strand) (s : State) : Result :=
  let ws := words.map memberOfWord
  match convoyFault st [] 0 ws with
  | some (k, cause) => .next (takeTrap s { cause := cause, xval := runXval st.r.pc words k })
  | none =>
    match startGroup st.r (okMembers (st.r.pc.toNat / 4) ws) with
    | none => .next (takeTrap s { cause := causeIllop, xval := runXval st.r.pc words 0 })
    | some g =>
      match consumeScalars words s with
      | .error x s' => stopped x s'
      | .ok _ s' => holdAt { pc := st.r.pc, words := words.map (BitVec.ofNat 32), group := g, frame := none } s'

/-- A frame begins, or goes on, at its next selected convoy from a point on; with none left it is done. -/
def holdFrame (f : Frame) (i p g : Nat) (pc : Word) (s : State) : Result :=
  match f.first i p with
  | none => frameDone f s
  | some (j, c) => holdAt (f.held pc j (convoyPos c) (if j = i && convoyPos c = p then g else 0)) s

/-- A REPF begins. -/
def beginFrame (w : Nat) (st : Strand) (s : State) : Result :=
  match (do
    let f ← headOfWord w
    consumeScalars [w]
    return f : M Frame) s with
  | .error x s' => stopped x s'
  | .ok f s' =>
    let (i, p, g) := frameStart st
    holdFrame f i p g st.r.pc s'

/-- CONVOY_ISSUE (R113): the entry at the strand's pc begins. A vector-control entry other than REPF does all it does when
it is executed. DEDUCED (log entry 27). -/
def execConvoyIssue (strand : Nat) (s : State) : Result :=
  actIssuing strand (fun st s =>
    if st.inflight.isSome || st.wait != .none then .fault .noSuchPart
    else
      match fetchIssue s with
      | .error x s' => stopped x s'
      | .ok [] _ => .fault .noSuchPart
      | .ok (w :: ws) s' =>
        if vectorClass w then beginConvoy (w :: ws) st s'
        else
          match wordReject w, w % 128 with
          | none, 0x3E => beginFrame w st s'
          | none, 0x30 => .next s'
          | none, 0x31 => .next s'
          | none, 0x3B => .next s'
          | none, 0x3C => .next s'
          | none, 0x3D => .next s'
          | _, _ => .fault .noSuchPart) s

/-! ### ELEMENT_GROUP_COMMIT (R115, R116) -/

/-- The next group of a convoy outside a frame commits. -/
def commitGroup (f : Inflight) (st : Strand) (s : State) : Result :=
  let words := f.words.map BitVec.toNat
  let ms := okMembers (st.r.pc.toNat / 4) (words.map memberOfWord)
  match convoyDamage words s with
  | .error x s' => stopped x s'
  | .ok hit s =>
    let stop := commitStop ms f.group s
    match hit.filter fun x => ms.any (·.2.whole) || stop.all (x.1 < ·) with
    | some x => damagedAt words x.1 x.2 s
    | none =>
      match performConvoy ms f.group stop s with
      | .error c => convoyStopped f.words c
      | .ok s' =>
        if stop.isNone || ms.any (·.2.whole) || groupCount st.r (convoyWidth st.r ms) ≤ f.group + 1 then
          healed words st (convoyDone f.words.length s')
        else holdAt { f with group := f.group + 1 } s'

/-- The next group of a frame's convoy commits. -/
def commitInFrame (fr : Frame) (f : Inflight) (i p : Nat) (st : Strand) (s : State) : Result :=
  match fr.first i p with
  | none => frameDone fr s
  | some (j, c) =>
    let ms := frameMembers fr j (fr.chosen j c)
    let stop := commitStop ms f.group s
    match framePerform fr j c f.group stop s with
    | .error e => frameStopped fr e
    | .ok s' =>
      if stop.isNone || ms.any (·.2.whole) || groupCount st.r (convoyWidth st.r ms) ≤ f.group + 1 then
        holdFrame fr j (convoyPos c + 1) 0 f.pc s'
      else holdAt { f with group := f.group + 1, frame := some (j, convoyPos c) } s'

/-- ELEMENT_GROUP_COMMIT (R115): the convoy a strand has in progress commits its next group; a convoy with a whole member
commits once (R116). DEDUCED (log entry 27). -/
def execElementGroupCommit (strand : Nat) (s : State) : Result :=
  actIssuing strand (fun st s =>
    match st.inflight with
    | none => .fault .noSuchPart
    | some f =>
      if f.pc != st.r.pc then .fault .noSuchPart
      else
        match f.frame with
        | none => unasked s st (commitGroup f st s)
        | some (i, p) =>
          match headOfWord ((f.words.map BitVec.toNat).headD 0) s with
          | .error x s' => stopped x s'
          | .ok fr s' => unasked s st (commitInFrame fr f i p st s')) s

/-! ### Traps from outside (R371 to R373, R387) -/

/-- A strand whose held instruction is discarded before a trap: a WFI is over, and a convoy's point is in VSTART (R100,
R117, R373). -/
def discardHeld (st : Strand) : Strand :=
  let st := endWfi st
  let r := match st.inflight with
    | some f => if f.pc = st.r.pc then { st.r with vstart := suspendedVstart f } else st.r
    | none => st.r
  { st with r := r, inflight := none, wait := .none, pendingXe := none }

/-- The executing strand takes a trap in place of what it holds; a waiting FSEND's request is withdrawn (R245). -/
def interrupt (t : Trap) (s : State) : Result :=
  match strandOf s with
  | none => .fault .noStrand
  | some st =>
    if uninterrupted st then .fault .noSuchPart else .next (takeTrap (withdraw s.cur (putStrand s (discardHeld st))) t)

/-- TRAP_ENTRY (R371, R375): a strand enters its handler with a cause and XVAL. DEDUCED (log entry 44). -/
def execTrapEntry (strand : Nat) (cause : BitVec 8) (xval : BitVec 64) (s : State) : Result :=
  actIssuing strand (fun _ s =>
    if cause = 0 || 0x15 < cause.toNat then .fault .noSuchPart else interrupt { cause := cause, xval := xval } s) s

/-- The strand takes the pending SLOG event (R373): XVAL is SLOGST.COUNT. DEDUCED (log entry 20). -/
def takeSlog (s : State) : Result :=
  match strandOf s with
  | none => .fault .noStrand
  | some st =>
    interrupt { cause := 1, xval := BitVec.ofNat 64 (slogCount st), async := true }
      (putStrand s { st with slogPending := false })

/-- Whether a strand takes SLOG now (R373): it is pending and XSTAT.IN is 0. -/
def slogDue (st : Strand) : Bool := st.slogPending && !xstatIn st.r.xstat && !uninterrupted st

/-- SLOG (R373). -/
def execSlog (strand : Nat) (s : State) : Result :=
  actIssuing strand (fun st s => if slogDue st then takeSlog s else .fault .noSuchPart) s

/-- S2_FAULT_HEARTWOOD (R387): Heartwood resolves the fault a strand waits for, which then accesses again, or delivers it
with XSTAT.S2 = 1. DEDUCED (log entry 14). -/
def execS2FaultHeartwood (strand : Nat) (resolved : Bool) (s : State) : Result :=
  actIssuing strand (fun st s =>
    match st.wait with
    | .stage2 cause xval acc level =>
      if resolved then .next (putStrand s { st with wait := .none })
      else interrupt { cause := cause, xval := xval, acc := acc, s2 := true, level := level } s
    | _ => .fault .noSuchPart) s

end Sys2Proof.Machine
end

