-- ==== Sys2Proof/Machine/Resync.lean ====
section
/-! DEFINITION. What the host reads of the package: the register pages with their capability list (R406, R407), and the
RESYNC summary (R426 to R428). -/

namespace Sys2Proof.Machine

open Sys2Proof.Config

/-! ### The capability list (R407) -/

/-- A capability record: its header and its fields; `next` is the offset of the record after it, 0 for the last. -/
def capRecord (id next : Nat) (body : List Byte) : List Byte :=
  leBytes 2 id ++ leBytes 2 1 ++ leBytes 2 (8 + body.length) ++ leBytes 2 next ++ body

/-- The records one after another from offset `o`. -/
def capChain : Nat → List (Nat × List Byte) → List Byte
  | _, [] => []
  | _, [(id, body)] => capRecord id 0 body
  | o, (id, body) :: t => capRecord id (o + 8 + body.length) body ++ capChain (o + 8 + body.length) t

/-- The enabled-bay mask of a wing (R27, R407). -/
def wingMask (s : State) (w : Nat) : Nat :=
  (List.range 10).foldl (fun a j => if s.part.fused.contains (w / 4 * 40 + w % 4 * 10 + j) then a else a + 2 ^ j) 0

/-- IDENT. -/
def capIdent (s : State) : List Byte :=
  leBytes 4 s.part.partCode.toNat ++ leBytes 4 s.part.revision.toNat ++ leBytes 2 s.pkg ++ leBytes 2 s.members.length ++
    leBytes 2 (numBays - (dedup s.part.fused).length) ++ leBytes 2 0

/-- WINGS. -/
def capWings (s : State) (wings : List Nat) : List Byte :=
  leBytes 4 wings.length ++ leBytes 4 0 ++ wings.flatMap fun w =>
    leBytes 1 w ++ leBytes 1 0 ++ leBytes 2 (wingMask s w) ++ leBytes 2 (wingGiB s.part w) ++ leBytes 2 0

/-- MEMORY. -/
def capMemory (s : State) : List Byte :=
  let hbm := ((List.range 32).map fun w => wingGiB s.part w * 2 ^ 30).foldl (· + ·) 0
  let tier := s.part.ports.toList.foldl (· + ·) 0
  let pooled := (s.part.pooled.map (·.2)).foldl (· + ·) 0
  leBytes 8 hbm ++ leBytes 8 (tier - pooled) ++ leBytes 8 pooled ++ s.part.ports.toList.flatMap fun n => leBytes 8 n

/-- ATTEST: the public key and the number of counters (R423). -/
def capAttest (s : State) : List Byte :=
  let key := publicKey s.part.key
  (key ++ leBytes 96 0).take 96 ++ leBytes 4 4096 ++ leBytes 4 0

/-- The capability list of a function's page; `none` is the physical function, which sees every wing (R407).
DESIGN CHOICE (log entry 47). -/
def capabilities (s : State) (vf : Option Nat) : List Byte :=
  let wings := match vf with
    | none => List.range 32
    | some v => (vfRecord s v).wings
  capChain 0 ([(1, capIdent s), (2, capWings s wings), (3, leBytes 4 16 ++ leBytes 4 0x1000 ++ leBytes 4 0x2000 ++ leBytes 4 0),
    (4, capMemory s), (5, leBytes 2 s.pkg ++ leBytes 2 s.members.length ++ leBytes 4 s.part.portsTrained.toNat), (6, capAttest s)] ++
    (if vf.isNone then [(7, leBytes 4 0x8000 ++ leBytes 4 0)] else []))

/-- The management registers by offset (R426). -/
def managementWord (s : State) (o : Nat) : Word :=
  if o = 0x8000 then s.rsaddr else if o = 0x8008 then s.rslen else if o = 0x8018 then s.rsstat else 0

/-- The number under which `State.launch` holds the slots of the physical function's own page (R406); no wing is mapped to it.
DESIGN CHOICE (log entry 47). -/
abbrev physicalFunction : Nat := 1024

/-- A byte of a function's register page; `none` is the physical function (R406). -/
def pageByte (s : State) (vf : Option Nat) (o : Nat) : Byte :=
  let v := vf.getD physicalFunction
  if o < 0x1000 then (capabilities s vf).getD o 0
  else if o < 0x2000 then BitVec.ofNat 8 (getField (launchOf s v (o % 0x1000 / 256)).bytes (8 * (o % 256)) 8)
  else if o < 0x2080 then BitVec.ofNat 8 ((launchStatus (launchOf s v (o % 0x80 / 8))).toNat / 256 ^ (o % 8))
  else if vf.isNone then BitVec.ofNat 8 ((managementWord s (o / 8 * 8)).toNat / 256 ^ (o % 8))
  else 0

/-! ### Records of the summary (R427) -/

/-- A record from its fields, each a number of bytes and a value, filled with zeros to 64 bytes. -/
def summaryRecord (fs : List (Nat × Nat)) : List Byte :=
  let bs := fs.flatMap fun f => leBytes f.1 f.2
  bs ++ leBytes (64 - bs.length) 0

/-- Bents of a raising that a test picks. -/
def countBents (s : State) (rid : Nat) (pick : Bent → Bool) : Nat := (s.bents.filter fun b => b.rid == rid && pick b).length

/-- Section 1: raisings that have not ended. -/
def raisingRecord (s : State) (r : Raising) : List Byte :=
  summaryRecord [(8, r.rid), (2, r.vf), (1, r.slot), (1, (launchOf s r.vf r.slot).state.toNat), (1, r.prio), (3, 0),
    (8, r.cwa.toNat), (8, r.cval.toNat), (4, countBents s r.rid fun b => b.state == .resident),
    (4, countBents s r.rid fun b => b.state == .waiting && !b.held), (4, countBents s r.rid (·.held)),
    (4, countBents s r.rid (·.halted))]

/-- Section 2: the input queues of their stages. -/
def queueRecords (s : State) (r : Raising) : List (List Byte) :=
  (r.stages.zipIdx.drop 1).map fun (x, i) =>
    summaryRecord [(8, r.rid), (1, i), (1, if x.closed then 1 else 0), (2, 0), (4, x.items.length), (4, x.cap),
      (4, countBents s r.rid fun b => b.stage == i && b.state == .waiting)]

/-- Section 3. -/
def regionRecord (r : Region) : List Byte :=
  summaryRecord [(8, r.base), (8, r.size), (2, r.asid.toNat), (2, r.vmid.toNat), (4, 0), (4, r.budget.toNat), (4, r.pool),
    (4, r.holders.length)]

/-- Section 4: acknowledgements missing are those of the other packages. -/
def stubRecord (s : State) (x : Stub) : List Byte :=
  summaryRecord [(8, x.name / 4096 * 4096), (2, x.target), (1, if x.rt then 1 else 0), (1, 0), (4, min ((s.time - x.born) / 1000) (2 ^ 32 - 1)),
    (4, x.forwards), (4, s.members.length - 1 - x.acks.length)]

/-- Section 5. -/
def leaseRecord (s : State) (k : Counter) : List (List Byte) :=
  match k.lease with
  | none => []
  | some (who, _, born) => [summaryRecord [(2, s.pkg), (2, who), (4, k.index), (8, k.value), (4, 10000 - (s.time - born) / 1000000)]]

/-- Section 6: commands whose tickets are known. -/
def commandRecord (c : Command) : List Byte :=
  summaryRecord [(8, ticketOf c), (1, c.fn), (1, c.wing), (1, c.state.code), (1, if c.state == .ended then c.status else 0),
    (4, 0), (8, c.bytes), (8, c.cwa.toNat)]

/-- Section 7: kind and phase codes are free values (Config.recordCode). -/
def moveRecords (s : State) : List (List Byte) :=
  (s.migs.map fun r =>
    summaryRecord [(16, r.name / 4096 * 4096), (1, recordCode 0), (1, recordCode (2 + min 1 (r.done * 128 / max 1 r.size))),
      (6, 0), (4, r.done)]) ++
  s.swaps.map fun r =>
    summaryRecord [(8, r.a), (8, r.b), (1, recordCode 1), (1, recordCode (4 + min 1 (r.done.length * 128 / max 1 r.size))),
      (6, 0), (4, r.done.length)]

/-- Section 8. -/
def errorRecord (e : ErrRec) : List Byte :=
  summaryRecord [(8, e.time), (1, e.kind), (3, 0), (2, e.bay), (2, e.cause), (8, e.rid), (8, e.xval.toNat)]

/-- The sections in ascending type (R427, R428). -/
def sections (s : State) : List (List (List Byte)) :=
  let live := s.raisings.filter fun r => !r.ended
  [live.map (raisingRecord s), live.flatMap (queueRecords s), (s.regions.filter fun r => r.size != 0).map regionRecord,
   s.stubs.map (stubRecord s), s.counters.flatMap (leaseRecord s),
   (s.commands.filter fun c => c.state != .expired).map commandRecord, moveRecords s, s.errlog.map errorRecord]

/-- A section with its header, cut to `room` bytes of whole records; nothing where its header does not fit. -/
def sectionBytes (kind room : Nat) (rs : List (List Byte)) : List Byte :=
  if room < 16 then []
  else
    let n := min rs.length ((room - 16) / 64)
    leBytes 2 kind ++ leBytes 2 64 ++ leBytes 4 n ++ leBytes 4 (if n < rs.length then 1 else 0) ++ leBytes 4 0 ++
      (rs.take n).flatten

/-- Sections from type `kind` on in `room` bytes: their number and their bytes. -/
def sectionsBytes : Nat → Nat → List (List (List Byte)) → Nat × List Byte
  | _, _, [] => (0, [])
  | kind, room, rs :: t =>
    let bs := sectionBytes kind room rs
    let (n, rest) := sectionsBytes (kind + 1) (room - bs.length) t
    ((if bs.isEmpty then 0 else 1) + n, bs ++ rest)

/-- The whole length of the summary. DEDUCED (log entry 46). -/
def summaryLength (s : State) : Nat := 64 + ((sections s).map fun rs => 16 + 64 * rs.length).foldl (· + ·) 0

/-- The summary as it is written into a buffer of `len` bytes (R426, R427). DEDUCED (log entry 46). -/
def summary (s : State) (len : Nat) : List Byte :=
  let (n, body) := sectionsBytes 1 (len - 64) (sections s)
  (leBytes 4 0x53595352 ++ leBytes 2 1 ++ leBytes 2 s.pkg ++ leBytes 8 s.rsTime ++ leBytes 4 n ++
    leBytes 4 (64 + body.length) ++ leBytes 40 0 ++ body).take len

/-! ### RSGO and the end of a summary (R426) -/

/-- BUSY of RSSTAT. -/
def rsBusy (s : State) : Bool := s.rsstat.toNat / 2 ^ 63 % 2 == 1

/-- A write of RSGO (R426): ignored while BUSY is 1, else a summary starts. DONE is cleared by the host only (R8). -/
def startSummary : M Unit := do
  tick
  let s ← get
  if rsBusy s then return ()
  else set { s with rsstat := s.rsstat ||| 0x8000000000000000, rsTime := s.time }

/-- RSGO_WRITE (R426). -/
def execRsgoWrite (s : State) : Result := runEvent startSummary s

/-- Where a host address is kept in `State.mem`: its form of R181, or, above bits 45:0, a key of its own.
DESIGN CHOICE (log entry 47). -/
def hostKey (a : Nat) : Nat := if a < 2 ^ 46 then 0x7FF * 2 ^ 46 + a else 2 ^ 70 + a

/-- The state after the device has written bytes of the buffer as posted writes (R426). -/
def postSummary (s : State) (bs : List Byte) : State :=
  let a := hostKey s.rsaddr.toNat
  storeKeys s (((List.range bs.length).map (a + ·)).zip bs)

/-- RESYNC_COMPLETE (R426): the summary stands in the buffer, or a write has faulted, which is a free choice; DONE is set.
DEDUCED (log entry 46). -/
def execResyncComplete (s : State) : Result :=
  runEvent (do
    let s ← get
    if !rsBusy s then noPart
    else
      let fault ← freeBit
      let s ← get
      let len := s.rslen.toNat
      if fault || s.rsaddr.toNat % 4096 != 0 then
        let done ← freeBelow (min len (summaryLength s) + 1)
        let s ← get
        let bs := (summary s len).take done
        set { postSummary s bs with rsstat := BitVec.ofNat 64 (2 ^ 62 + 2 * 2 ^ 56 + bs.length) }
      else
        let bs := summary s len
        let short := if len < summaryLength s then 1 else 0
        set { postSummary s bs with rsstat := BitVec.ofNat 64 (2 ^ 62 + short * 2 ^ 56 + bs.length) }) s

end Sys2Proof.Machine
end

