-- ==== Sys2Proof/Machine/Manage.lean ====
section
/-! DEFINITION. Host accesses (R331, R404, R405), registers written from outside (R183, R380, R381, R406, R426), what
Heartwood and the host fix (R408, R409), power, freeze, reset and soft errors (R429 to R435). -/

namespace Sys2Proof.Machine

open Sys2Proof.Config

/-! ### Host accesses -/

/-- Whether the host reaches `n` bytes of device memory at a local physical address (R182, R404). -/
def hostReach (s : State) (pa n : Nat) : Bool :=
  n != 0 && (List.range n).all fun i =>
    let a := localAddr (pa + i)
    isLocal s (pa + i) && a < deviceBase && (scratchOf a).isNone && backedLocal s a

/-- HOST_POSTED_WRITE (R331, R405): performed at the home of its lines. -/
def execHostPostedWrite (port addr : Nat) (bytes : List (BitVec 8)) (s : State) : Result :=
  runEvent (do
    let s ← get
    if 2 ≤ port || !hostReach s addr bytes.length || outsideHeld s addr bytes.length then noPart
    else set (physStore (drainForStore s addr bytes.length) addr bytes)) s

/-- What a host read returns: the bytes, each with its poison (R331, R435). -/
def hostReadBytes (s : State) (pa n : Nat) : List (Byte × Bool) :=
  (List.range n).map fun i => (physByte s (pa + i), isPoisoned s (pa + i))

/-- The completion of a host read: the bytes, or, while the package is frozen, Unsupported Request (R331, R431). -/
def hostCompletion (s : State) (pa n : Nat) : Option (List (Byte × Bool)) :=
  if s.frozen then none else some (hostReadBytes s pa n)

/-- HOST_READ (R331): it is answered with `hostReadBytes`; its lines are served uncached (R188). -/
def execHostRead (addr bytes : Nat) (s : State) : Result :=
  runEvent (do
    let s ← get
    if !hostReach s addr bytes || outsideHeld s addr bytes then noPart else set (pullBytes s addr bytes)) s

/-- HOST_ATOMICOP (R404): FetchAdd, Swap or CAS by the codes of R279, at the line's home. -/
def execHostAtomicop (op : BitVec 4) (w64 : Bool) (addr : Nat) (operand compare : BitVec 64) (s : State) : Result :=
  runEvent (do
    let s ← get
    let n := atomBytes w64
    if !(op == 0 || op == 8 || op == 9) || addr % n != 0 || !hostReach s addr n || outsideHeld s addr n then noPart
    else set (serveAtomic s addr op.toNat w64 operand.toNat compare.toNat)) s

/-! ### Registers written from outside -/

/-- BAYSPLIT_WRITE (R13, R183). -/
def execBaysplitWrite (bay : Nat) (value : BitVec 64) (s : State) : Result :=
  runEvent (do
    let s ← get
    if numBays ≤ bay then noPart else set (writeBaysplit s bay value)) s

/-- A write of a management register (R8, R426): RSADDR, RSLEN, RSGO, and DONE of RSSTAT cleared by writing it 1. -/
def writeManagement (o : Nat) (v : Word) : M Unit := do
  let s ← get
  if o = 0x8000 then set { s with rsaddr := v }
  else if o = 0x8008 then set { s with rslen := v &&& 0xFFFFFFFF }
  else if o = 0x8010 then startSummary
  else if o = 0x8018 then set { s with rsstat := s.rsstat &&& ~~~(v &&& 0x4000000000000000) }

/-- A write of eight bytes of a function's page (R351, R406): of a launch slot, or of a status word, whose OVR is cleared by
writing it 1. -/
def writeVfPage (vf o : Nat) (v : Word) : M Unit := do
  let s ← get
  if 0x1000 ≤ o && o < 0x2000 then slotWrite vf (o % 0x1000 / 256) (o % 256) (leBytes 8 v.toNat)
  else if 0x2000 ≤ o && o < 0x2080 && v.toNat / 2 ^ 60 % 2 == 1 then
    set (putLaunch s { launchOf s vf (o % 0x80 / 8) with ovr := false })

/-- REGISTER_WRITE (R8): `addr` is a device register's physical address (R381), or an offset in the register pages laid one
after another, the physical function's first and virtual function n's at 0x1_0000 × (n + 1) (R406). Writes elsewhere in a
page are ignored. DESIGN CHOICE (log entry 47). -/
def execRegisterWrite (addr : Nat) (value : BitVec 64) (s : State) : Result :=
  runEvent (do
    let s ← get
    if addr % 8 != 0 then noPart
    else if 0x8000 ≤ addr && addr < 0x10000 then writeManagement addr value
    else if addr < 0x8000 then writeVfPage physicalFunction addr value
    else if addr < 0x10000 * 1025 then writeVfPage (addr / 0x10000 - 1) (addr % 0x10000) value
    else
      match devRegOf addr with
      | some r => set (devWrite s r value)
      | none => noPart) s

/-- MPLACE with a value written (R380): reserved bits read zero, and LEVEL keeps its value for 2 and 3. -/
def mplaceWrite (old v : Word) : Word :=
  let fields := v &&& 0x3FF03FF1F00
  if v.toNat % 4 < 2 then fields ||| (v &&& 3) else fields ||| (old &&& 3)

/-- The machine CSRs of a block with one written (R380). MS2FLT is read-only. -/
def blockCsr (bl : Block) (n : Nat) (v : Word) : Block :=
  match n with
  | 0x200 => { bl with mplace := mplaceWrite bl.mplace v }
  | 0x201 => { bl with ms2root := v &&& 0x1FFFFFFFFFFF000 }
  | 0x203 => { bl with ms2ctl := v &&& 1 }
  | 0x204 => { bl with mecc := BitVec.ofNat 32 v.toNat }
  | _ => bl

/-- The machine CSRs of a bay with one written (R380). -/
def bayCsr (b : Bay) (n : Nat) (v : Word) : Bay :=
  match n with
  | 0x200 => { b with mplace := mplaceWrite b.mplace v }
  | 0x201 => { b with ms2root := v &&& 0x1FFFFFFFFFFF000 }
  | 0x203 => { b with ms2ctl := v &&& 1 }
  | 0x204 => { b with mecc := BitVec.ofNat 32 v.toNat }
  | _ => b

/-- Whether a strand holds a bay: its bent is resident (R361). -/
def holdsBay (s : State) (st : Strand) (bay : Nat) : Bool :=
  (s.bents[st.bent]?).any (·.state == .resident) && (attached st).contains bay

/-- Whether a strand that has not exited is resident on a bay. -/
def residentOn (s : State) (st : Strand) (bay : Nat) : Bool := !st.exited && holdsBay s st bay

/-- The state with the block that a bay holds changed, or the bay's own registers where no strand holds it. -/
def changeBay (s : State) (bay : Nat) (onBlock : Block → Block) (onBay : Bay → Bay) : State :=
  if s.strands.any fun st => holdsBay s st bay then
    let put := fun (bl : Block) => if bl.bay = bay then onBlock bl else bl
    { s with strands := s.strands.map fun st => if holdsBay s st bay then { st with blocks := st.blocks.map put } else st }
  else setBay s bay (onBay (bayOf s bay))

/-- A machine CSR as Heartwood reads it (R380): of the strand the bay holds, else the bay's own; other numbers read zero. -/
def machineCsr (s : State) (bay n : Nat) : Word :=
  let bl := (s.strands.find? fun st => holdsBay s st bay).bind fun st => st.blocks.find? fun bl => bl.bay == bay
  let b := bayOf s bay
  match n with
  | 0x200 => bl.elim b.mplace (·.mplace)
  | 0x201 => bl.elim b.ms2root (·.ms2root)
  | 0x202 => bl.elim b.ms2flt (·.ms2flt)
  | 0x203 => bl.elim b.ms2ctl (·.ms2ctl)
  | 0x204 => (bl.elim b.mecc (·.mecc)).setWidth 64
  | _ => 0

/-- HEARTWOOD_CSR_WRITE (R380): the CSRs of the bay's resident strand. Numbers 0x205 to 0x2FF have no effect; what a read
returns is `machineCsr`. -/
def execHeartwoodCsrWrite (bay : Nat) (csr : BitVec 12) (value : BitVec 64) (s : State) : Result :=
  runEvent (do
    let s ← get
    let n := csr.toNat
    if numBays ≤ bay || n < 0x200 || 0x2FF < n then noPart
    else set (changeBay s bay (fun bl => blockCsr bl n value) fun b => bayCsr b n value)) s

/-! ### What Heartwood and the host fix -/

/-- Ranges that lie in the second tier (R181, R404). -/
def tierRanges (l : List (Nat × Nat)) : List (Nat × Nat) := l.filter fun x => decide (tierBase ≤ x.1) && decide (x.1 + x.2 ≤ tierEnd)

/-- VIRTUAL_FUNCTION_MAPPING (R379, R387, R404, R408): a virtual function gets 1 to 32 wings, each of which serves at most 32,
its level, and the address space its strands start in. The wings of its live raisings stay mapped to it (R15). With the
setting goes the pooled capacity the host assigns through the physical function: a free value.
DEDUCED (log entry 41). DESIGN CHOICE (log entry 47). -/
def execVirtualFunctionMapping (vf : Nat) (wings : List Nat) (runtime : Bool) (asid : BitVec 16) (ptbase : BitVec 64)
    (vmid : BitVec 10) (s2root : BitVec 64) (s : State) : Result :=
  runEvent (do
    let s ← get
    let others := s.vfs.filter fun v => v.num != vf
    let full := fun (w : Nat) => 32 ≤ (others.filter fun v => v.wings.contains w).length
    let inUse := (s.raisings.filter fun r => r.vf == vf && !r.ended).flatMap (·.wings)
    if 1024 ≤ vf || wings.isEmpty || !inUse.all wings.contains ||
        (dedup wings).length != wings.length || wings.any (fun w => 32 ≤ w || full w) then noPart
    else
      let v : Vf :=
        { num := vf, wings := wings, runtime := runtime, asid := asid, ptbase := ptbase &&& 0x1FFFFFFFFFFF000, vmid := vmid,
          s2root := s2root &&& 0x1FFFFFFFFFFF000 }
      set { s with
        vfs := others ++ [v], part := { s.part with pooled := tierRanges (pooledRanges s.fresh) }, fresh := s.fresh + 1 }) s

/-- DOMAIN_FORMATION (R409): the host gives the package its number and fixes the numbers of the domain's members, which are
its size. -/
def execDomainFormation (package : Nat) (members : List Nat) (s : State) : Result :=
  runEvent (do
    let s ← get
    if !members.contains package || (dedup members).length != members.length || members.any (1024 ≤ ·) then noPart
    else set { s with pkg := package, members := members }) s

/-! ### Power and freeze (R429 to R432) -/

/-- ARBITER_GRANT (R429, R430): the beams' grants for the next microsecond, within the budget, and the bays' demand; nothing
else depends on them. DESIGN CHOICE (log entry 8). -/
def execArbiterGrant (grants : List Nat) (s : State) : Result :=
  runEvent (do
    let s ← get
    if grants.length != 8 || s.budget < grants.foldl (· + ·) 0 then noPart
    else set { s with grants := grants, demands := (List.range numBays).map (demand s.fresh), fresh := s.fresh + 1 }) s

/-- The grant of a bay: its share of its beam's, in proportion to its demand (R429). -/
def bayGrant (s : State) (n : Nat) : Nat :=
  let beam := n / baysPerBeam
  let all := ((s.demands.drop (beam * baysPerBeam)).take baysPerBeam).foldl (· + ·) 0
  s.grants.getD beam 0 * s.demands.getD n 0 / max 1 all

/-- PLUMB_BUDGET (R429): Heartwood sets the budget, Plumb may lower it, and it is never above 3,600 W. A value above what
Heartwood has set is a new setting of Heartwood; any other lowers the budget in force. DESIGN CHOICE (log entry 8). -/
def execPlumbBudget (watts : Nat) (s : State) : Result :=
  runEvent (do
    let s ← get
    if 3600 < watts then noPart
    else set { s with heartwoodBudget := max s.heartwoodBudget watts, budget := watts }) s

/-- A freeze (R431); a second one has no effect (R432). -/
def freeze (s : State) : State := { s with frozen := true }

/-- FRZ_N (R431). -/
def execFrzN (s : State) : Result := runEvent (modify freeze) s

/-- PLUMB_FREEZE (R431). -/
def execPlumbFreeze (s : State) : Result := runEvent (modify freeze) s

/-- What Plumb reads out of a frozen package (R432): by scan the strands and the Sill's tables, by the dump port bytes of SRAM
and HBM with their poison. -/
structure Readout where
  strands : List Strand
  pins : List Pin
  swaps : List SwapRec
  migs : List MigRec
  ownerCache : List (Nat × Nat)
  adoption : List (Nat × Nat)
  directory : List (Nat × Nat)
  stubs : List Stub
  bytes : List (Byte × Bool)
  deriving DecidableEq, Repr

/-- What PLUMB_READOUT answers with for `n` bytes from a frame of the package's storage (R432). -/
def readout (s : State) (addr n : Nat) : Readout :=
  { strands := s.strands, pins := s.pins, swaps := s.swaps, migs := s.migs, ownerCache := s.ownerCache,
    adoption := s.adoption, directory := s.directory, stubs := s.stubs,
    bytes := (List.range n).map fun i => (memRead s.mem (addr + i), s.poison.contains ((addr + i) / 8)) }

/-- Whether the dump port reaches `n` bytes from an address: SRAM and HBM the part has (R432). -/
def dumpReach (s : State) (addr n : Nat) : Bool :=
  (List.range n).all fun i =>
    let a := addr + i
    (decide (a < tierBase) && backedDram s a) || (decide (windowBase ≤ a) && decide (a < deviceBase) && backedLocal s a)

/-- PLUMB_READOUT (R432): of a frozen package; it answers with `readout` and changes no state. -/
def execPlumbReadout (addr bytes : Nat) (s : State) : Result :=
  runEvent (do
    let s ← get
    if s.frozen && dumpReach s addr bytes then return () else noPart) s

/-! ### Reset (R433) -/

/-- A memory of the listed bytes that a test picks, in canonical form. -/
def memOf (pick : Nat → Bool) (l : List (Nat × Byte)) : Mem :=
  l.foldl (fun m c => if pick c.1 then memWrite m c.1 c.2 else m) []

/-- A memory with the listed bytes that a test picks. -/
def memLay (m : Mem) (pick : Nat → Bool) (l : List (Nat × Byte)) : Mem :=
  l.foldl (fun m c => if pick c.1 then memWrite m c.1 c.2 else m) m

/-- What a byte of HBM itself holds when the caches over it are lost (R433): its value before the writes that had not reached
it; how many of a line's writes had is a free value. DESIGN CHOICE (log entry 48). -/
def hbmByte (s : State) (a : Nat) : Byte :=
  let later := (s.written.filter fun l => l.any fun x => x.1 / 128 == a / 128).drop (writtenBack s.fresh (a / 128))
  (later.findSome? fun l => (l.find? fun x => x.1 == a).map (·.2)).getD (memRead s.mem a)

/-- The memory after a reset: what lies outside the package stays, and HBM where self-refresh keeps it, as it is itself; the
rest is unspecified. DESIGN CHOICE (log entry 48). -/
def resetMem (s : State) (keepHbm : Bool) : Mem :=
  let kept := fun (a : Nat) => 2 ^ 46 ≤ a || (keepHbm && a < tierBase)
  let touched := if keepHbm then (s.written.flatMap fun l => l.map (·.1)).filter fun a => a < tierBase else []
  let m := (dedup touched).foldl (fun m a => memWrite m a (hbmByte s a)) s.mem
  memLay (m.filter fun c => kept c.1) (fun a => !kept a) (resetBytes s.fresh)

/-- A counter after a reset: its value is kept, its lease is not (R433). -/
def keepCounter (k : Counter) : Counter := { k with lease := none }

/-- Every state is lost but the Heartwood counters, the part, and what lies outside the package (R433).
DESIGN CHOICE (log entry 48). -/
def resetTo (s : State) (keepHbm : Bool) : State :=
  { State.reset with
    mem := resetMem s keepHbm
    poison := s.poison.filter fun w => 2 ^ 43 ≤ w || (keepHbm && w < tierBase / 8)
    counters := s.counters.map keepCounter
    part := { s.part with pooled := [] }
    agenda := s.agenda
    fresh := s.fresh + 1 }

/-- POWER_ON_RESET (R433). DESIGN CHOICE (log entry 48). -/
def execPowerOnReset (s : State) : Result := runEvent (modify fun s => resetTo s false) s

/-- PACKAGE_RESET (R433): as power-on, except that HBM is kept when the package is frozen.
DESIGN CHOICE (log entry 48). -/
def execPackageReset (s : State) : Result :=
  runEvent (do
    let s ← get
    if s.powered then set (resetTo s s.frozen) else noPart) s

/-- POWER_LOSS (R433). DESIGN CHOICE (log entry 48). -/
def execPowerLoss (s : State) : Result := runEvent (modify fun s => { resetTo s false with powered := false }) s

/-- FUNCTION_LEVEL_RESET (R433): the function's raisings run nothing more; each ends with status 6, in RAISING_END, once its
engine commands have ended. DESIGN CHOICE (log entry 48). -/
def execFunctionLevelReset (vf : Nat) (s : State) : Result :=
  runEvent (do
    let s ← get
    if 1024 ≤ vf then noPart
    else
      set ((s.raisings.filter fun r => r.vf == vf && !r.ended).foldl abortRaising s)) s

/-! ### Soft errors (R434, R435) -/

/-- A correctable error is counted in Plumb's register, and one of a bay in its MECC (R380, R434). -/
def countCorrectable (s : State) (bay : Option Nat) : State :=
  let up := fun (n : BitVec 32) => if n = 0xFFFFFFFF then n else n + 1
  let s := bay.elim s fun n => changeBay s n (fun bl => { bl with mecc := up bl.mecc }) fun b => { b with mecc := up b.mecc }
  { s with softErrors := s.softErrors + 1 }

/-- CORRECTABLE_ERROR (R380, R434): corrected and counted. Number 320 names the parts outside the bays: HBM, the memory-side
caches, the chip slices and the links. DEDUCED (log entry 45). -/
def execCorrectableError (bay : Nat) (s : State) : Result :=
  runEvent (do
    let s ← get
    if numBays < bay then noPart
    else set (countCorrectable s (if bay = numBays then none else some bay))) s

/-- First number by which UNCORRECTABLE_ERROR names storage inside a bay: word × 2^32 + bay × 0x1_0000 + class × 0x100 +
number, with the classes of R435 (0 s, 1 v, 2 m, 3 f), 4 for jig slots and 5 for tiles (R275), 6 for the lane slices, 7 for
side-log entries, and for clean lines 8 the L1, 9 the instruction cache, 10 the level cache (R434). -/
abbrev partBase : Nat := 2 ^ 57

/-- The strand that holds a bay, by its number, and the position of the bay. -/
def holderStrand (s : State) (bay : Nat) : Option (Nat × Nat) :=
  (s.strands.zipIdx.find? fun x => residentOn s x.1 bay).bind fun x =>
    ((attached x.1).findIdx? (· == bay)).map fun b => (x.2, b)

/-- A tile holds an uncorrectable word. -/
def poisonTile (ts : Vector Tile 4) (n : Nat) : Vector Tile 4 :=
  ts.setIfInBounds n { ts.getD n zeroTile with poison := true }

/-- A block with an uncorrectable word in one of its parts; a multiply that the truss holds, and whose last step is not done,
consumes the slot's words and poisons its tile (R270, R275). DEDUCED (log entry 45). -/
def spoilPart (ms : List Multiply) (bl : Block) (cls n word : Nat) : Block :=
  match cls with
  | 4 =>
    let tiles := (ms.filter fun m => !m.done && m.slots.contains n).map (·.tile)
    { bl with
      slots := bl.slots.setIfInBounds n { bl.slots.getD n (emptySlot false) with poison := true }
      tiles := tiles.foldl poisonTile bl.tiles }
  | 5 => { bl with tiles := poisonTile bl.tiles n }
  | 7 => { bl with slog := bl.slog.zipIdx.map fun (e, i) => if i = n then { e with bad := dedup (e.bad ++ [word]) } else e }
  | _ => { bl with badRegs := dedup (bl.badRegs ++ [word * 0x10000 + cls * 0x100 + n]) }

/-- Whether a class, a number and a word name a part of a strand's bay (R13, R106, R109, R203, R213, R219, R249). -/
def partNamed (cls n word : Nat) : Bool :=
  match cls with
  | 0 => n < 64 && word == 0
  | 1 => n < 32 && word < 256
  | 2 => n < 8 && word < 128
  | 3 => n < 8
  | 4 => n < 16
  | 5 => n < 4
  | 6 => n == 0 && word < 786432
  | 7 => n < slogEntries && word < 16
  | _ => false

/-- A bay without its `i`-th clean line of a class: L1, instruction cache or level cache; the line is fetched again (R434). -/
def dropClean (b : Bay) (cls i : Nat) : Bay :=
  match cls with
  | 8 => { b with copies := b.copies.eraseIdx i }
  | 10 => { b with level := b.level.eraseIdx i }
  | _ => b

/-- UNCORRECTABLE_ERROR (R434, R435): the word at a local address is poisoned, or a part of a bay, and the event is in the error
log as kind 4 (R427); a clean cached line is dropped, which counts as a correctable error. DEDUCED (log entry 45). -/
def execUncorrectableError (addr : Nat) (s : State) : Result :=
  runEvent (do
    let s ← get
    let record := fun (bay : Nat) => ({ time := s.time, kind := 4, bay := bay, cause := 0, rid := 0, xval := BitVec.ofNat 64 addr } : ErrRec)
    if addr < partBase then
      if isLocal s addr && localAddr addr < deviceBase then set (logError (markPoison s (addr / 8 * 8) 8) (record 0))
      else noPart
    else
      let word := (addr - partBase) / 2 ^ 32
      let bay := (addr - partBase) % 2 ^ 32 / 0x10000
      let cls := addr % 0x10000 / 0x100
      let n := addr % 0x100
      if bay < numBays && 8 ≤ cls && cls ≤ 10 then
        set (countCorrectable (setBay s bay (dropClean (bayOf s bay) cls (256 * word + n))) (some bay))
      else
        match holderStrand s bay with
        | none => noPart
        | some (k, b) =>
          if !partNamed cls n word then noPart
          else
            let spoil := fun (st : Strand) =>
              { st with blocks := st.blocks.modify b fun bl => spoilPart st.multiplies bl cls n word }
            set (logError { s with strands := s.strands.modify k spoil } (record bay))) s

/-- SCRUB (R434): it corrects correctable words and changes nothing a program sees. -/
def execScrub (s : State) : Result := runEvent (return ()) s

end Sys2Proof.Machine
end

