-- ==== Sys2Proof/Machine/Preempt.lean ====
section
/-! DEFINITION. The save of a pre-empted bent (R120, R237, R245, R367 to R369): shrink marks, the convoys that stop inside,
what each bay gives up, and the save areas. -/

namespace Sys2Proof.Machine

open Sys2Proof.Config

/-- Whether what R368 waits for has finished for a strand: a granted FSEND, and XEXPANDs into its slots or slices. -/
def strandQuiet (s : State) (k : Nat) (st : Strand) : Bool :=
  !expandHolds s k (fun _ _ _ => true) && !st.sending.any fun x => x.2.1 == st.r.pc.toNat

/-! ### Shrink marks (R367) -/

/-- Bays of a bent's allowed wings that another bent takes beside it: what that one cannot find elsewhere.
DEDUCED (log entry 41). -/
def besideNeed (s : State) (b w : Bent) : Nat :=
  bentNeed s w - ((enabledBays s (bentWings s w)).filter fun n => !(bentWings s b).contains (wingOfBay n)).length

/-- The smallest number of halvings at which a bent fits beside the one that displaced it, down to spans of 1 (R367). -/
def shrinkHalvings (s : State) (b : Bent) (other : Nat) : Nat :=
  let room := (enabledBays s (bentWings s b)).length
  let halved := fun (k n : Nat) => if n = 0 then 0 else max 1 (n / 2 ^ k)
  let need := fun k => (bentSpans s b).foldl (fun a n => a + halved k n) 0
  ([0, 1, 2].find? fun k => need k + other ≤ room).getD 3

/-- A strand marked to halve its span `n` times (R19, R367). -/
def markShrink (n : Nat) (st : Strand) : Strand :=
  let span := max 1 (spanOf st / 2 ^ n)
  if span < spanOf st then { st with shrink := some span } else st

/-- The shrink marks of R367, for a bent that is displaced while one of equal or higher effective priority waits; whether
the Foreman makes them is a free choice. DEDUCED (log entry 41). -/
def shrinkMarks (k : Nat) (b : Bent) : M Unit := do
  let s ← get
  let flex := ((raisingOf s b.rid).bind fun r => r.stages[b.stage]?).any (·.flex)
  let waits := s.bents.zipIdx.any fun (w, j) => j != k && placeable s w && b.placedPrio ≤ effectivePrio s w
  match b.displacedBy.bind (bentAt s) with
  | none => return ()
  | some w =>
    if flex && waits then
      let mark ← freeBit
      if mark then
        let n := shrinkHalvings s b (besideNeed s b w)
        modify fun s => { s with strands := b.strands.foldl (fun l i => l.modify i (markShrink n)) s.strands }

/-! ### Convoys that stop inside (R120, R237, R245) -/

/-- Whether a word is a restartable fibre instruction (R234). -/
def isRestartable (w : Nat) : Bool :=
  (w % 128 == 0x60 && 3 ≤ bits w 22 5 && bits w 22 5 ≤ 7) || (w % 128 == 0x62 && bits w 22 5 == 1)

/-- Whether a word is an FSEND (R245). -/
def isFsend (w : Nat) : Bool := w % 128 == 0x62 && bits w 22 5 == 0

/-- The members of a convoy in progress. -/
def inflightMembers (f : Inflight) : List (Nat × Member) :=
  okMembers (f.pc.toNat / 4) ((f.words.map BitVec.toNat).map memberOfWord)

/-- The executing strand stands at the `n`-th word of its convoy, with nothing in progress (R237). -/
def standAt (f : Inflight) (n : Nat) (s : State) : State :=
  match strandOf s with
  | some st => putStrand s { st with inflight := none, wait := .none, r := { st.r with pc := f.pc + BitVec.ofNat 64 (4 * n), vstart := 0 } }
  | none => s

/-- The members before the `n`-th one of a convoy commit, unless one of them traps. -/
def commitBefore (f : Inflight) (n : Nat) (s : State) : Option State :=
  match performConvoy ((inflightMembers f).take n) 0 none s with
  | .ok s' => some s'
  | .error _ => none

/-- A waiting FSEND stops with no effect (R245). -/
def cutFsend (f : Inflight) (n : Nat) (s : State) : Option State := (commitBefore f n s).map (standAt f n)

/-- A restartable member stops before its next append, as at a capacity of `cap` pairs; FST.MORE and FCAP keep their values
(R237). `none` where it does not come to that append. -/
def stopAppend (m : Nat × Member) (cap : Nat) (s : State) : Option State :=
  match strandOf s with
  | none => none
  | some st =>
    match performConvoy [m] 0 none (putStrand s { st with r := { st.r with fcap := BitVec.ofNat 64 cap } }) with
    | .error _ => none
    | .ok s' =>
      match strandOf s' with
      | none => none
      | some st' =>
        if st'.r.fst.getLsbD 2 && progAct st'.r then
          let fst := BitVec.ofNat 3 (setField st'.r.fst 2 1 (st.r.fst.toNat / 4)).toNat
          some (putStrand s' { st' with r := { st'.r with fcap := st.r.fcap, fst := fst } })
        else none

/-- Pairs the output of a restartable word holds as it goes on: none as it begins (R234). -/
def pairsHeld (st : Strand) (w : Nat) : Nat :=
  if progAct st.r then (st.fibres.getD (bits w 7 3) emptyFibre).pairs.length else 0

/-- A pre-emption that finds a restartable member running: the members before it commit, and it stops at its next append,
a free choice among those it comes to (R237). DEDUCED (log entry 30). -/
def cutRestartable (f : Inflight) (n w : Nat) : M Unit := do
  let s ← get
  match commitBefore f n s, (inflightMembers f)[n]? with
  | some s1, some m =>
    let st := (strandOf s1)
    let held := st.elim 0 fun st => pairsHeld st w
    let cap := st.elim 0 fun st => capOf st.r
    if cap ≤ held then return ()
    else
      let k ← freeBelow (cap - held)
      let e ← get
      match stopAppend m (held + k) { s1 with fresh := e.fresh } with
      | some s2 => set (standAt f n s2)
      | none => return ()
  | _, _ => return ()

/-- Where the convoy of the executing strand is when a pre-emption finds it (R120): one with a whole member has not begun,
but for the two that stop inside; whether a restartable member was running is a free choice. DEDUCED (log entry 30). -/
def cutConvoy : M Unit := do
  let st ← getStrand
  match st.inflight with
  | none => return ()
  | some f =>
    if f.pc != st.r.pc || f.frame.isSome || f.group != 0 then return ()
    else
      let words := f.words.map BitVec.toNat
      match st.wait, words.findIdx? isFsend, words.findIdx? isRestartable with
      | .reservation _, some n, _ => modify fun s => (cutFsend f n s).getD s
      | .none, _, some n =>
        let running ← freeBit
        if running then cutRestartable f n (words.getD n 0)
      | _, _, _ => return ()

/-! ### The save (R368, R369) -/

/-- A strand as pre-emption leaves it (R368): a wait is left where it sleeps or its instruction is discarded, and its time
starts anew (R325); a convoy's point is in VSTART; XPC names the point of resumption; accepted multiplies are finished. The
stream engine's pending requests, of which the spec says nothing, stay with the strand and may be fetched later (R233).
DEDUCED (log entries 30, 41). -/
def suspend (st : Strand) : Strand :=
  let st := endWfi st
  let r := match st.inflight with
    | some f => if f.pc = st.r.pc then { st.r with vstart := suspendedVstart f } else st.r
    | none => st.r
  { st with r := { r with xpc := r.pc }, inflight := none, wait := .none, waited := 0, pendingXe := none, multiplies := [] }

/-- What a bay gives up when its strand is saved (R368 step 3): dirty lines are written back, caches are invalid, shim
lines drained and shares returned; converted ways are saved with the block (R369), and its machine CSRs move with it (R380). -/
def saveBay (s : State) (bl : Block) : State × Block :=
  let s := giveBack s bl.bay
  let bay := bayOf s bl.bay
  let s := { setBay s bl.bay { bay with copies := [], level := [] } with dirty := s.dirty.filter fun r => r.bay != bl.bay }
  let ways := (List.range 8).filter fun w => bl.ways.toNat / 2 ^ w % 2 == 1
  let scratch := ways.flatMap fun w => (memPart s.mem (wayAddr bl.bay w) 0x10000).map fun c => (0x10000 * w + c.1, c.2)
  (leaveBay (ways.foldl (fun s w => clearWay s bl.bay w) s) bl, { bl with scratch := scratch })

/-- Saves the blocks of a strand in turn. -/
def saveBays : State → List Block → State × List Block
  | s, [] => (s, [])
  | s, bl :: t =>
    let (s, bl) := saveBay s bl
    let (s, rest) := saveBays s t
    (s, bl :: rest)

/-- The save area of a strand is written (R368 step 4, R369): which of its bytes, and with what, the spec does not say.
DESIGN CHOICE (log entry 18). -/
def writeSaveArea (s : State) (st : Strand) : State :=
  let bytes := (savedBytes s.fresh).filter fun x => x.1 < st.saveSize
  let s := storeKeys { s with fresh := s.fresh + 1 } (bytes.map fun x => (steer s (st.saveBase + x.1), x.2))
  let now := bytes.map fun x => (x.1, memRead s.mem (steer s (st.saveBase + x.1)))
  { s with strands := s.strands.map fun y => if y.bent == st.bent && y.index == st.index then { y with saved := now } else y }

/-- A strand is saved (R368, R369); of one that has exited nothing is left. -/
def saveStrand (s : State) (k : Nat) : State :=
  match s.strands[k]? with
  | none => s
  | some st =>
    if st.exited then { s with strands := s.strands.set k { st with blocks := [] } }
    else
      let st := suspend st
      let (s, blocks) := saveBays s st.blocks
      writeSaveArea { s with strands := s.strands.set k { st with blocks := blocks } } st

/-- The save of the strands of a bent in turn; a waiting FSEND's request is withdrawn (R245). -/
def saveStrands : List Nat → M Unit
  | [] => return ()
  | k :: t => do
    let s ← get
    if (s.strands[k]?).any fun st => !st.exited then asStrand k cutConvoy
    modify fun s => saveStrand (withdraw k s) k
    saveStrands t

/-- PREEMPTION_SAVED (R368): every strand's save is complete; the bays are free and the bent waits.
DESIGN CHOICE (log entry 18). DEDUCED (log entry 41). -/
def execPreemptionSaved (bent : Nat) (s : State) : Result :=
  runEvent (do
    let s ← get
    match bentAt s bent with
    | none => noPart
    | some b =>
      if !(b.state == .resident && b.preempt && b.strands.all fun k => (s.strands[k]?).all fun st => strandQuiet s k st) then noPart
      else
        shrinkMarks bent b
        saveStrands b.strands
        modify fun s => putBent s bent { b with
          state := .waiting, preempt := false, candidate := false, displacedBy := none, halted := false, waitedMs := 0 }) s

end Sys2Proof.Machine
end

