-- ==== Sys2Proof/Machine/Priv.lean ====
section
/-! DEFINITION. The runtime instructions of major 0x7F (R391 to R398, R402, R403): invalidation, side-log service, pinned
pages, bent contexts and stubs. -/

namespace Sys2Proof.Machine

open Sys2Proof.Config

/-! ### Invalidation (R391 to R393) -/

/-- What an invalidation names: VMID, the ASID word of R391, and a range of bits 47:0. -/
structure InvRange where
  vmid : BitVec 10
  asid : Nat
  all : Bool
  glob : Bool
  lo : Nat
  len : Nat
  deriving DecidableEq, Repr

/-- The range that the operands of TLBINV name (R391). DEDUCED (log entry 43). -/
def invRange (vmid : BitVec 10) (w sa sb : Word) : InvRange :=
  { vmid := vmid, asid := w.toNat % 2 ^ 16, all := w.toNat / 2 ^ 16 % 2 == 1, glob := w.toNat / 2 ^ 17 % 2 == 1,
    lo := if sb = 0xFFFFFFFFFFFFFFFF then 0 else sa.toNat % 2 ^ 48,
    len := if sb = 0xFFFFFFFFFFFFFFFF then 2 ^ 48 else sb.toNat }

/-- Whether a range meets `n` bytes from `a`. -/
def InvRange.meets (x : InvRange) (a n : Nat) : Bool := decide (x.lo < a + n) && decide (a < x.lo + x.len)

/-- Whether an ASID is named. -/
def InvRange.names (x : InvRange) (asid : BitVec 16) : Bool := x.all || asid.toNat == x.asid

/-- Whether a TLB entry is dropped (R392 step 1). -/
def InvRange.drops (x : InvRange) (e : TlbEntry) : Bool :=
  e.vmid == x.vmid && (if e.glob then x.glob else x.names e.asid) && x.meets (e.page * 2 ^ e.size) (2 ^ e.size)

/-- Whether a walker entry is dropped: any part of the range lies under it. Second-stage entries of the VMID, which are
kept by intermediate address, all go. -/
def InvRange.dropsWalk (x : InvRange) (w : WalkEntry) : Bool :=
  w.vmid == x.vmid && x.len != 0 &&
    (w.stage2 || (x.names w.asid && x.meets (w.prefixBits * 2 ^ levelShift (w.level - 1)) (2 ^ levelShift (w.level - 1))))

/-- Whether the translation of a command's completion word, held from its issue, is dropped (R338). -/
def InvRange.dropsWord (x : InvRange) (c : Command) : Bool :=
  c.vmid == x.vmid && (if c.cwGlob then x.glob else x.names c.asid) &&
    x.meets (c.cwa.toNat % 2 ^ 48 / 2 ^ c.cwSize * 2 ^ c.cwSize) (2 ^ c.cwSize)

/-- A command whose engine has dropped some entries: it ends at the next line that needs one of them, or without the
translation of its completion word (R338). -/
def dropCommand (x : InvRange) (gone : List (Nat × TlbEntry)) (c : Command) : Command :=
  let mine := gone.filter fun e => e.1 == c.engine && e.2.vmid == c.vmid && (e.2.glob || e.2.asid == c.asid)
  let ranges := mine.map fun e => (e.2.page * 2 ^ e.2.size, 2 ^ e.2.size)
  if c.state == .queued || c.state == .running then
    { c with
      cwpa := if x.dropsWord c then none else c.cwpa
      removed := if c.state == .running then c.removed ++ ranges else c.removed }
  else c

/-- R392 step 1, and what it does to engine commands (R338), those that wait for a place in their queue among them.
DEDUCED (log entry 43). -/
def dropEntries (x : InvRange) : M Unit := do
  let s ← get
  let gone := s.engineTlb.filter fun e => x.drops e.2
  modify fun s => { s with
    bays := s.bays.map fun (b : Bay) => { b with tlb := b.tlb.filter fun e => !x.drops e }
    engineTlb := s.engineTlb.filter fun (e : Nat × TlbEntry) => !x.drops e.2
    walkers := s.walkers.filter fun (w : Nat × WalkEntry) => !x.dropsWalk w.2
    commands := s.commands.map (dropCommand x gone)
    strands := s.strands.map fun st => { st with pendingXe := st.pendingXe.map fun y => (y.1, dropCommand x [] y.2) } }

/-- R392 step 3: every pin that the range covers is written back; the pin is kept (R398). -/
def writePins (s : State) (x : InvRange) : State :=
  (s.pins.filter fun p => p.vmid == x.vmid && x.names p.asid && x.meets (p.va % 2 ^ 48) 4096).foldl
    (fun s p => copyKeys s p.window p.backing 4096) s

/-- The checks of TLBINV and TLBINVA, their release, and their range. -/
def invStart (fn : Nat) (b a d : BitVec 6) : M InvRange := do
  let word := wordSR 0x7F fn b.toNat a.toNat d.toNat
  needRuntime word
  let st ← getStrand
  let w := regRead st.r d.toNat
  if w.toNat / 2 ^ 18 != 0 then issueTrap causeIllop word
  else return invRange (vmidOf st) w (regRead st.r a.toNat) (regRead st.r b.toNat)

/-- TLBINV (R392): a release, the drop of the entries, the writing back of covered pins, an acquire, all at device scope; of
length 0 it is the release alone. -/
def execTlbinv (b a d : BitVec 6) (s : State) : Result :=
  runSeq (do
    let x ← invStart 0 b a d
    release 3
    if x.len != 0 then
      dropEntries x
      modify fun s => writePins s x
      acquire 3) s

/-- The range of an outstanding TLBINVA of a strand. -/
def drainRange (st : Strand) (x : Word × Word × Word) : InvRange := invRange (vmidOf st) x.1 x.2.1 x.2.2

/-- TLBINVA (R393): TLBINV's release and drop; its drain stays outstanding. A seventeenth waits for the oldest drain. -/
def execTlbinva (b a d : BitVec 6) (s : State) : Result :=
  runSeq (do
    let x ← invStart 1 b a d
    if x.len = 0 then release 3
    else
      let st ← getStrand
      if st.wait = .tlbRoom then
        match st.drains with
        | [] => pure ()
        | y :: rest =>
          modify fun s => writePins s (drainRange st y)
          modStrand fun st => { st with drains := rest }
      let st ← getStrand
      if 16 ≤ st.drains.length then waitFor .tlbRoom
      release 3
      dropEntries x
      modStrand fun st =>
        { st with drains := st.drains ++ [(regRead st.r d.toNat, regRead st.r a.toNat, regRead st.r b.toNat)] }) s

/-- TLBSYNC (R393): steps 2 and 3 of every outstanding TLBINVA, and an acquire. -/
def execTlbsync (s : State) : Result :=
  runSeq (do
    needRuntime (wordSR 0x7F 2 0 0 0)
    let st ← getStrand
    modify fun s => st.drains.foldl (fun s y => writePins s (drainRange st y)) s
    modStrand fun st => { st with drains := [] }
    acquire 3) s

/-! ### Side-log service (R395, R396) -/

/-- The virtual address of a logged line: bits 63:48 as bit 47. -/
def lineAddr (line : Nat) : Nat := if line * 128 / 2 ^ 47 % 2 = 1 then line * 128 + (2 ^ 64 - 2 ^ 48) else line * 128

/-- How the replay of an entry ends. -/
inductive Replay where
  | performed
  | missing
  | failed (t : Trap)
  deriving DecidableEq, Repr

/-- Stored bytes in ascending offset, in runs of successive offsets whose bytes are whole or not. -/
def storeRuns (bs : List (Nat × Byte × Byte)) : List (Nat × List (Byte × Byte)) :=
  (sortBy (fun a b => a.1 ≤ b.1) bs).foldl (fun (runs : List (Nat × List (Byte × Byte)))
      (x : Nat × Byte × Byte) =>
    match runs.reverse with
    | [] => [(x.1, [x.2])]
    | (o, l) :: before =>
      if o + l.length = x.1 && l.all (fun y => (y.2 == 255) == (x.2.2 == 255)) then before.reverse ++ [(o, l ++ [x.2])]
      else runs ++ [(x.1, [x.2])]) []

/-- WATCH of a replayed access (R199, R379, R395). -/
def replayWatch (va n : Nat) (acc : Acc) : M (Option Replay) := do
  let r ← getRegs
  return (watchHit r va n acc).map fun a => .failed { cause := causeWatch, xval := BitVec.ofNat 64 a }

/-- Whether the page before a line and the page of an address in it differ in ORD (R199). -/
def ordDiffers (b line va : Nat) : M Bool := do
  match ← translatePages b .write [va], ← translatePages b .write [(lineAddr line + 2 ^ 64 - 1) % 2 ^ 64] with
  | .ok [(_, p)], .ok [(_, q)] => return p.ord != q.ord
  | _, _ => return false

/-- Whether the strand may reach every stored byte of an entry whose lowest byte lies at `va`, once it translates (R182, R381,
R395). -/
def replayReach (b va lo : Nat) (runs : List (Nat × List (Byte × Byte))) (s : State) : Bool :=
  match translatePages b .write [va] s with
  | .ok (.ok [(_, p)]) s1 =>
    (strandOf s1).any fun st => runs.all fun x => reachable s1 st b (p.pa - lo + x.1) x.2.length .write
  | _ => true

/-- Replays stored bytes; `joins` marks an element that begins in the page before, whose ORD must be the same. -/
def replayStore (b line : Nat) (rq : BitVec 2) (joins : Bool) (bs : List (Nat × Byte × Byte)) : M Replay := do
  let runs := storeRuns bs
  let lo := (runs.map (·.1)).headD 0
  let last := runs.foldl (fun a x => max a (x.1 + x.2.length)) 1
  let va := lineAddr line + lo
  match ← replayWatch va (last - lo) .write with
  | some x => return x
  | none =>
    if !replayReach b va lo runs (← get) then return .failed { cause := causePerm, xval := BitVec.ofNat 64 va }
    else match ← checkAccess b va 1 .write with
    | .log _ => return .missing
    | .fail t => return .failed t
    | .ok ps =>
      let mixed ← if joins then ordDiffers b line va else pure false
      if mixed then return .failed { cause := causeOrdmix, xval := BitVec.ofNat 64 va }
      else
        let base := ((ps.map (·.pa)).headD 0) - lo
        let pages := fun (o : Nat) => ps.map fun p => { p with pa := base + o }
        runs.forM fun x => performStore b (lineAddr line + x.1) rq true (pages x.1) x.2
        return .performed

/-- Replays atomic elements, in their order. -/
def replayAtomics (b line : Nat) (op : BitVec 4) (w64 : Bool) : List (Nat × BitVec 64) → M Replay
  | [] => return .performed
  | (o, v) :: t => do
    let va := lineAddr line + o
    match ← replayWatch va (atomBytes w64) .atomic with
    | some x => return x
    | none =>
      match ← checkAtomic true b va (atomBytes w64) (op == 0 || op == 8) with
      | .log _ => return .missing
      | .fail x => return .failed x
      | .ok pages =>
        let _ ← performAtomic b va op.toNat w64 true false pages (v.toNat % 2 ^ atomicWidth w64) 0
        replayAtomics b line op w64 t

/-- Replays slack additions as pass-throughs: each is added into the home copy, and no holder withholds it. -/
def replaySlack (b line : Nat) : List (Nat × BitVec 32) → M Replay
  | [] => return .performed
  | (o, v) :: t => do
    let va := lineAddr line + o
    match ← replayWatch va 4 .atomic with
    | some x => return x
    | none =>
      match ← checkAccess b va 4 .atomic with
      | .log _ => return .missing
      | .fail x => return .failed x
      | .ok ps =>
        match ← myRegion va with
        | none => return .failed { cause := causeSlkmis, xval := BitVec.ofNat 64 va }
        | some k =>
          let pa := byteAddr ps va 0
          let e : SlackElem := { line := pa / 128 * 128, off := pa % 128, region := k, value := v.toNat, far := true }
          modify fun s => addHome s e
          replaySlack b line t

/-- The poison of an entry's damaged words goes with its bytes into memory (R435). -/
def spreadLogged (b : Nat) (e : LogEntry) : M Unit :=
  e.bad.forM fun k => do
    match ← translatePages b .write [lineAddr e.line + 8 * k] with
    | .ok [(_, p)] => modify fun s => markPoison s p.pa 8
    | _ => return ()

/-- What an entry replays: its stores, or its elements, which a damaged word of theirs ends with ECCUC (R282, R395, R435). -/
def replayOp (b : Nat) (e : LogEntry) : M Replay := do
  let elements := fun (x : M Replay) =>
    match e.bad with
    | [] => x
    | k :: _ => return .failed { cause := causeEccuc, xval := BitVec.ofNat 64 (lineAddr e.line + 8 * k) }
  match e.op with
  | .store bs => do
    let x ← replayStore b e.line e.rq e.joins bs
    if x == .performed then spreadLogged b { e with bad := e.bad.filter fun k => bs.any fun y => y.1 / 8 == k }
    return x
  | .atomic op w64 es => elements (replayAtomics b e.line op w64 es)
  | .slack es => elements (replaySlack b e.line es)

/-- Replays one entry under its ASID, VMID and level (R395); the strand's own come back whatever happens.
DEDUCED (log entry 43). -/
def replayEntry (b : Nat) (e : LogEntry) : M Replay := do
  let st ← getStrand
  let bl ← getBlock b
  modRegs fun r => { r with asid := e.asid.setWidth 64, level := e.level }
  modBlock b fun bl => { bl with mplace := BitVec.ofNat 64 (bl.mplace.toNat % 2 ^ 32 + e.vmid.toNat * 2 ^ 32) }
  let x ← attempt (replayOp b e)
  modify closeConvoy
  modRegs fun r => { r with asid := st.r.asid, level := st.r.level }
  modBlock b fun x => { x with mplace := bl.mplace }
  match x with
  | .ok y => return y
  | .error y => throw y

/-- Removes an entry from the logs; a pending SLOG event goes with the last one (R373). -/
def removeEntry (seq : Nat) : M Unit := do
  modBlocks fun bl => { bl with slog := bl.slog.filter fun e => e.seq != seq }
  modStrand fun st => { st with slogPending := st.slogPending && slogCount st != 0 }

/-- The oldest entry of a strand's logs, with its position. -/
def oldestEntry (st : Strand) : Option (Nat × LogEntry) :=
  let es := st.blocks.zipIdx.flatMap fun (bl, b) => bl.slog.map fun e => (b, e)
  (sortBy (fun x y => x.2.seq ≤ y.2.seq) es).head?

/-- Replays entries in sequence order until one stops the replay; `k` bounds them (R395). -/
def replayLog : Nat → M Unit
  | 0 => return ()
  | k + 1 => do
    let st ← getStrand
    match oldestEntry st with
    | none => return ()
    | some (b, e) =>
      match ← replayEntry b e with
      | .missing => return ()
      | .performed =>
        removeEntry e.seq
        replayLog k
      | .failed t =>
        removeEntry e.seq
        raiseT t

/-- SLOGRP (R395): the entries that remain. -/
def execSlogrp (d : BitVec 6) (s : State) : Result :=
  runSeq (do
    needRuntime (wordSR 0x7F 5 0 0 d.toNat)
    let st ← getStrand
    replayLog (slogCount st)
    let st ← getStrand
    ws d (BitVec.ofNat 64 (slogCount st))) s

/-- Whether a logged line holds a byte of a range (R396). -/
def lineInRange (line sa sb : Nat) : Bool :=
  sb == 2 ^ 64 - 1 || (sb != 0 && decide (lineAddr line < sa + sb) && decide (sa < lineAddr line + 128))

/-- SLOGDROP (R396): the number of entries discarded. -/
def execSlogdrop (b a d : BitVec 6) (s : State) : Result :=
  runSeq (do
    needRuntime (wordSR 0x7F 6 b.toNat a.toNat d.toNat)
    let st ← getStrand
    let drop := fun (e : LogEntry) => lineInRange e.line (regRead st.r a.toNat).toNat (regRead st.r b.toNat).toNat
    modBlocks fun bl => { bl with slog := bl.slog.filter fun e => !drop e }
    modStrand fun st => { st with slogPending := st.slogPending && slogCount st != 0 }
    let st' ← getStrand
    ws d (BitVec.ofNat 64 (slogCount st - slogCount st'))) s

/-! ### Pinned pages (R397, R398) -/

/-- A pin descriptor's frames and fields are legal (R397, status 1 otherwise). -/
def pinArgs (s : State) (bs : List Byte) : Bool :=
  let backing := bytesAt bs 16 8
  let window := bytesAt bs 24 8
  bytesAt bs 0 8 % 4096 == 0 && zeroBytes bs 10 16 && backing % 4096 == 0 && window % 4096 == 0 && backing < 2 ^ 57 &&
    window < 2 ^ 57 && isLocal s backing && isLocal s window && backedDram s (localAddr backing) &&
    localAddr backing < tierEnd && tierEnd ≤ localAddr window && backedLocal s (localAddr window)

/-- Whether either frame is pinned already, or in a swap or migration record (status 3). -/
def pinBusy (s : State) (backing window : Nat) : Bool :=
  [backing, window].any fun f => framePinned s f 4096 || frameMigrates s f 4096 ||
    s.swaps.any fun r => rangesMeet f 4096 r.a r.size || rangesMeet f 4096 r.b r.size

/-- PGPIN (R397). Its frames are not held against the wings of the strand's virtual function, and a full table of pins is found
before a busy frame. DESIGN CHOICE (log entry 59). -/
def execPgpin (a d : BitVec 6) (s : State) : Result :=
  runSeq (do
    needRuntime (wordSR 0x7F 7 0 a.toNat d.toNat)
    let st ← getStrand
    let va := (regRead st.r a.toNat).toNat
    checkWatch va 32 .read
    if va % 32 != 0 then raise causeMisal (BitVec.ofNat 64 va)
    else
      let bs ← loadBytes 0 va 32 0 false
      let s ← get
      let backing := localAddr (bytesAt bs 16 8)
      let window := localAddr (bytesAt bs 24 8)
      if !pinArgs s bs then ws d 1
      else if 4096 ≤ s.pins.length then ws d 2
      else if pinBusy s backing window then ws d 3
      else
        let p : Pin :=
          { va := bytesAt bs 0 8, asid := BitVec.ofNat 16 (bytesAt bs 8 2), vmid := vmidOf st, backing := backing,
            window := window }
        let s := drawPage (recallLines s backing 4096) fun l => rangesMeet (steer s l) 128 backing 4096
        set { moveKeys s backing window 4096 with pins := s.pins ++ [p] }
        ws d 0) s

/-- PGUNPIN (R398): the frame is written back, and the pin and its forwarding go. A frame of any wing is served.
DESIGN CHOICE (log entry 59). -/
def execPgunpin (a d : BitVec 6) (s : State) : Result :=
  runSeq (do
    needRuntime (wordSR 0x7F 8 0 a.toNat d.toNat)
    let st ← getStrand
    let s ← get
    let x := (regRead st.r a.toNat).toNat % 2 ^ 57
    match s.pins.find? fun p => isLocal s x && p.window / 4096 == localAddr x / 4096 with
    | none => ws d 4
    | some p =>
      set { moveKeys s p.window p.backing 4096 with pins := s.pins.filter fun q => q != p }
      ws d 0) s

/-! ### Bent contexts (R402) -/

/-- The bent that s[sa] and s[sb] name, if it belongs to a raising of a virtual function mapped onto the strand's wing. -/
def namedBent (s : State) (st : Strand) (rid : Nat) (sb : Word) : Option (Nat × Bent) :=
  let mine := s.raisings.any fun r =>
    r.rid == rid && s.vfs.any fun v => v.num == r.vf && v.wings.contains (wingOf st)
  if !mine then none
  else
    ((s.bents.zipIdx.map fun x => (x.2, x.1)).find? fun x =>
      x.2.rid == rid && x.2.stage == sb.toNat / 2 ^ 32 % 8 && x.2.bid == sb.toNat % 2 ^ 32)

/-- Whether a raising has ended. -/
def raisingOver (s : State) (rid : Nat) : Bool := (raisingOf s rid).any (·.ended)

/-- CTXSAVE (R402): a resident bent is pre-empted first, and the instruction waits for its save.
DEDUCED (log entry 43). -/
def execCtxsave (b a d : BitVec 6) (s : State) : Result :=
  runSeq (do
    let word := wordSR 0x7F 3 b.toNat a.toNat d.toNat
    needRuntime word
    let st ← getStrand
    let sb := regRead st.r b.toNat
    let rid := (regRead st.r a.toNat).toNat
    let s ← get
    if sb.toNat / 2 ^ 35 != 0 then issueTrap causeIllop word
    else
      match namedBent s st rid sb with
      | none => ws d 1
      | some (k, x) =>
        if k = st.bent then ws d 2
        else if raisingOver s rid then ws d 3
        else if x.state == .ended then ws d 1
        else if x.state == .resident then
          set (putBent s k { x with preempt := true, held := true })
          waitFor (.save k)
        else
          set (putBent s k { x with held := true })
          acquire 3
          ws d 0) s

/-- CTXREST (R402): the mark is cleared, and the bent's wait counts from here. A wing held by a seal may run again.
DEDUCED (log entry 43). -/
def execCtxrest (b a d : BitVec 6) (s : State) : Result :=
  runSeq (do
    let word := wordSR 0x7F 4 b.toNat a.toNat d.toNat
    needRuntime word
    let st ← getStrand
    let sb := regRead st.r b.toNat
    let rid := (regRead st.r a.toNat).toNat
    let s ← get
    if sb.toNat / 2 ^ 35 != 0 then issueTrap causeIllop word
    else
      match namedBent s st rid sb with
      | none => ws d 1
      | some (k, x) =>
        if raisingOver s rid then ws d 3
        else if x.state == .ended then ws d 1
        else if !x.held then ws d 4
        else
          let wings := bentWings s x
          let s := putBent s k { x with held := false, waitedMs := 0 }
          set { s with sealedWings := s.sealedWings.filter fun w => !wings.contains w }
          ws d 0) s

/-! ### Stubs (R403) -/

/-- What STUBQ reads of a stub. -/
def stubWord (time : Nat) (x : Stub) : Word :=
  BitVec.ofNat 64 (2 ^ 63 + (if x.rt then 2 ^ 62 else 0) + x.target % 2 ^ 11 * 2 ^ 45 + min ((time - x.born) / 1000) (2 ^ 32 - 1))

/-- STUBQ (R403). DEDUCED (log entry 43). -/
def execStubq (a d : BitVec 6) (s : State) : Result :=
  runSeq (do
    needRuntime (wordSR 0x7F 9 0 a.toNat d.toNat)
    let st ← getStrand
    tick
    let s ← get
    let page := (regRead st.r a.toNat).toNat % 2 ^ 46 / 4096 * 4096 + s.pkg * 2 ^ 46
    match s.stubs.find? fun x => tagHit x.name page with
    | none => ws d 0
    | some x => ws d (stubWord s.time x)) s

end Sys2Proof.Machine
end

