-- ==== Sys2Proof/Machine/Scalar.lean ====
section
/-! DEFINITION. The scalar register operations, immediates, branches and jumps (R73 to R82), scalar loads and stores
(R83 to R86): one definition per instruction over the shared operations. -/

namespace Sys2Proof.Machine

/-- The strand after a scalar instruction that writes `v` to s[d] and goes on at `pc`. -/
def wrote (st : Strand) (d : Nat) (v pc : Word) : Strand :=
  { st with r := { regWrite st.r d v with pc := pc }, wait := .none, waited := 0, inflight := none }

/-- A scalar instruction that only writes s[d] from the registers (R73 to R78). -/
def scalarOp (d : BitVec 6) (v : Regs → Word) (s : State) : Result :=
  match strandOf s with
  | some st => .next (putStrand s (wrote st d.toNat (v st.r) (st.r.pc + 4)))
  | none => .fault .noStrand

/-- SOP on two registers (R73). -/
def regOp (f : Word → Word → Word) (b a d : BitVec 6) (s : State) : Result :=
  scalarOp d (fun r => f (regRead r a.toNat) (regRead r b.toNat)) s

/-- SOP on one register (R73). -/
def regOp1 (f : Word → Word) (a d : BitVec 6) (s : State) : Result :=
  scalarOp d (fun r => f (regRead r a.toNat)) s

/-- The immediate forms (R76). -/
def immOp (f : Word → Word → Word) (i : BitVec 13) (a d : BitVec 6) (s : State) : Result :=
  scalarOp d (fun r => f (regRead r a.toNat) (i.signExtend 64)) s

/-- 1 for true, 0 for false. -/
def boolWord (b : Bool) : Word := if b then 1 else 0

/-- Signed less-than (R73, R79). -/
def sltWord (a b : Word) : Word := boolWord (a.slt b)

/-- Unsigned less-than (R73, R79). -/
def sltuWord (a b : Word) : Word := boolWord (a.ult b)

/-- Bits 127:64 of the signed product (R73). -/
def mulhWord (a b : Word) : Word := BitVec.ofInt 64 (a.toInt * b.toInt / 2 ^ 64)

/-- Bits 127:64 of the unsigned product (R73). -/
def mulhuWord (a b : Word) : Word := BitVec.ofNat 64 (a.toNat * b.toNat / 2 ^ 64)

/-- DIV (R73, R74): rounded towards zero; all ones for a zero divisor. −2^63 ÷ −1 wraps to −2^63. -/
def divWord (a b : Word) : Word := if b = 0 then 0xFFFFFFFFFFFFFFFF else BitVec.ofInt 64 (a.toInt.tdiv b.toInt)

/-- DIVU (R73, R74). -/
def divuWord (a b : Word) : Word := if b = 0 then 0xFFFFFFFFFFFFFFFF else BitVec.ofNat 64 (a.toNat / b.toNat)

/-- REM (R73, R74): the sign of the dividend; the dividend for a zero divisor. -/
def remWord (a b : Word) : Word := if b = 0 then a else BitVec.ofInt 64 (a.toInt.tmod b.toInt)

/-- REMU (R73, R74). -/
def remuWord (a b : Word) : Word := if b = 0 then a else BitVec.ofNat 64 (a.toNat % b.toNat)

/-- Leading zero bits; 64 for zero (R73). -/
def clzWord (a : Word) : Word := BitVec.ofNat 64 (64 - bitLen a.toNat)

/-- Trailing zero bits from bit `k` up, `n` bits left. -/
def trailFrom (a : Nat) : Nat → Nat → Nat
  | 0, k => k
  | n + 1, k => if a / 2 ^ k % 2 = 1 then k else trailFrom a n (k + 1)

/-- Trailing zero bits; 64 for zero (R73). -/
def ctzWord (a : Word) : Word := BitVec.ofNat 64 (trailFrom a.toNat 64 0)

/-- One bits of the `n` lowest bits. -/
def countBits (a : Nat) : Nat → Nat
  | 0 => 0
  | n + 1 => a / 2 ^ n % 2 + countBits a n

/-- Number of one bits (R73). -/
def popcWord (a : Word) : Word := BitVec.ofNat 64 (countBits a.toNat 64)

/-! ### SOP (R73 to R75) -/

/-- ADD (R73). -/
def execAdd (b a d : BitVec 6) (s : State) : Result := regOp (fun a b => a + b) b a d s

/-- SUB (R73). -/
def execSub (b a d : BitVec 6) (s : State) : Result := regOp (fun a b => a - b) b a d s

/-- AND (R73). -/
def execAnd (b a d : BitVec 6) (s : State) : Result := regOp (fun a b => a &&& b) b a d s

/-- OR (R73). -/
def execOr (b a d : BitVec 6) (s : State) : Result := regOp (fun a b => a ||| b) b a d s

/-- XOR (R73). -/
def execXor (b a d : BitVec 6) (s : State) : Result := regOp (fun a b => a ^^^ b) b a d s

/-- SLL (R73). -/
def execSll (b a d : BitVec 6) (s : State) : Result := regOp (fun a b => a <<< (b.toNat % 64)) b a d s

/-- SRL (R73). -/
def execSrl (b a d : BitVec 6) (s : State) : Result := regOp (fun a b => a >>> (b.toNat % 64)) b a d s

/-- SRA (R73). -/
def execSra (b a d : BitVec 6) (s : State) : Result := regOp (fun a b => a.sshiftRight (b.toNat % 64)) b a d s

/-- SLT (R73). -/
def execSlt (b a d : BitVec 6) (s : State) : Result := regOp (fun a b => sltWord a b) b a d s

/-- SLTU (R73). -/
def execSltu (b a d : BitVec 6) (s : State) : Result := regOp (fun a b => sltuWord a b) b a d s

/-- MIN (R73). -/
def execMin (b a d : BitVec 6) (s : State) : Result := regOp (fun a b => if a.slt b then a else b) b a d s

/-- MAX (R73). -/
def execMax (b a d : BitVec 6) (s : State) : Result := regOp (fun a b => if a.slt b then b else a) b a d s

/-- MINU (R73). -/
def execMinu (b a d : BitVec 6) (s : State) : Result := regOp (fun a b => if a.ult b then a else b) b a d s

/-- MAXU (R73). -/
def execMaxu (b a d : BitVec 6) (s : State) : Result := regOp (fun a b => if a.ult b then b else a) b a d s

/-- MUL (R73). -/
def execMul (b a d : BitVec 6) (s : State) : Result := regOp (fun a b => a * b) b a d s

/-- MULH (R73). -/
def execMulh (b a d : BitVec 6) (s : State) : Result := regOp (fun a b => mulhWord a b) b a d s

/-- MULHU (R73). -/
def execMulhu (b a d : BitVec 6) (s : State) : Result := regOp (fun a b => mulhuWord a b) b a d s

/-- DIV (R73, R74). -/
def execDiv (b a d : BitVec 6) (s : State) : Result := regOp (fun a b => divWord a b) b a d s

/-- DIVU (R73, R74). -/
def execDivu (b a d : BitVec 6) (s : State) : Result := regOp (fun a b => divuWord a b) b a d s

/-- REM (R73, R74). -/
def execRem (b a d : BitVec 6) (s : State) : Result := regOp (fun a b => remWord a b) b a d s

/-- REMU (R73, R74). -/
def execRemu (b a d : BitVec 6) (s : State) : Result := regOp (fun a b => remuWord a b) b a d s

/-- CLZ (R73). -/
def execClz (a d : BitVec 6) (s : State) : Result := regOp1 clzWord a d s

/-- CTZ (R73). -/
def execCtz (a d : BitVec 6) (s : State) : Result := regOp1 ctzWord a d s

/-- POPC (R73). -/
def execPopc (a d : BitVec 6) (s : State) : Result := regOp1 popcWord a d s

/-- SEL (R73): s[sb] when s[sa] is not zero, else s[sd] stays. -/
def execSel (b a d : BitVec 6) (s : State) : Result :=
  scalarOp d (fun r => if regRead r a.toNat ≠ 0 then regRead r b.toNat else regRead r d.toNat) s

/-! ### Immediate forms (R76 to R78) -/

/-- ADDI (R76). -/
def execAddi (i : BitVec 13) (a d : BitVec 6) (s : State) : Result := immOp (fun a b => a + b) i a d s

/-- ANDI (R76). -/
def execAndi (i : BitVec 13) (a d : BitVec 6) (s : State) : Result := immOp (fun a b => a &&& b) i a d s

/-- ORI (R76). -/
def execOri (i : BitVec 13) (a d : BitVec 6) (s : State) : Result := immOp (fun a b => a ||| b) i a d s

/-- XORI (R76). -/
def execXori (i : BitVec 13) (a d : BitVec 6) (s : State) : Result := immOp (fun a b => a ^^^ b) i a d s

/-- SLTI (R76). -/
def execSlti (i : BitVec 13) (a d : BitVec 6) (s : State) : Result := immOp (fun a b => sltWord a b) i a d s

/-- SLTIU (R76). -/
def execSltiu (i : BitVec 13) (a d : BitVec 6) (s : State) : Result := immOp (fun a b => sltuWord a b) i a d s

/-- SLLI (R77). -/
def execSlli (n a d : BitVec 6) (s : State) : Result := regOp1 (fun a => a <<< n.toNat) a d s

/-- SRLI (R77). -/
def execSrli (n a d : BitVec 6) (s : State) : Result := regOp1 (fun a => a >>> n.toNat) a d s

/-- SRAI (R77). -/
def execSrai (n a d : BitVec 6) (s : State) : Result := regOp1 (fun a => a.sshiftRight n.toNat) a d s

/-- The 64-bit value of an upper immediate (R78). -/
def upperImm (i : BitVec 19) : Word := ((i ++ (0 : BitVec 13)) : BitVec 32).signExtend 64

/-- LUI (R78). -/
def execLui (i : BitVec 19) (d : BitVec 6) (s : State) : Result := scalarOp d (fun _ => upperImm i) s

/-- AUIPC (R78). -/
def execAuipc (i : BitVec 19) (d : BitVec 6) (s : State) : Result := scalarOp d (fun r => r.pc + upperImm i) s

/-! ### Branches and jumps (R79, R80, R82) -/

/-- A conditional branch (R79): PC + sext(imm13) × 4 when the condition holds, else PC + 4. -/
def branchOp (cond : Word → Word → Bool) (i : BitVec 13) (b a : BitVec 6) (s : State) : Result :=
  match strandOf s with
  | some st =>
    let pc := if cond (regRead st.r a.toNat) (regRead st.r b.toNat) then st.r.pc + i.signExtend 64 * 4 else st.r.pc + 4
    .next (putStrand s (retired st pc))
  | none => .fault .noStrand

/-- BEQ (R79). -/
def execBeq (i : BitVec 13) (b a : BitVec 6) (s : State) : Result := branchOp (fun a b => a == b) i b a s

/-- BNE (R79). -/
def execBne (i : BitVec 13) (b a : BitVec 6) (s : State) : Result := branchOp (fun a b => a != b) i b a s

/-- BLT (R79). -/
def execBlt (i : BitVec 13) (b a : BitVec 6) (s : State) : Result := branchOp (fun a b => a.slt b) i b a s

/-- BGE (R79). -/
def execBge (i : BitVec 13) (b a : BitVec 6) (s : State) : Result := branchOp (fun a b => !a.slt b) i b a s

/-- BLTU (R79). -/
def execBltu (i : BitVec 13) (b a : BitVec 6) (s : State) : Result := branchOp (fun a b => a.ult b) i b a s

/-- BGEU (R79). -/
def execBgeu (i : BitVec 13) (b a : BitVec 6) (s : State) : Result := branchOp (fun a b => !a.ult b) i b a s

/-- JAL (R80). -/
def execJal (i : BitVec 19) (d : BitVec 6) (s : State) : Result :=
  match strandOf s with
  | some st => .next (putStrand s (wrote st d.toNat (st.r.pc + 4) (st.r.pc + i.signExtend 64 * 4)))
  | none => .fault .noStrand

/-- JALR (R80): the target is computed before sd is written. -/
def execJalr (i : BitVec 13) (a d : BitVec 6) (s : State) : Result :=
  match strandOf s with
  | some st =>
    .next (putStrand s (wrote st d.toNat (st.r.pc + 4) (regRead st.r a.toNat + i.signExtend 64)))
  | none => .fault .noStrand

/-- The entry read of JT (R82): WATCH, then JTFAULT for a missing translation, a permission, a misaligned address or a
compressed page; an uncorrectable error raises ECCUC, a peer that does not answer REMOTE (R411). XVAL is the entry's
address in each case. -/
def jtEntry (a : Word) : M Word := do
  let r ← getRegs
  if (watchHit r a.toNat 4 .read).isSome then raise causeWatch a
  else if a.toNat % 4 != 0 then raise causeJtfault a
  else
    match ← attempt (loadBytes 0 a.toNat 4 0 false) with
    | .ok bs => return sext64 32 (leValue bs)
    | .error (.trap t) =>
      if t.cause = causeEccuc ∨ t.cause = causeRemote then raise t.cause a
      else raiseT { t with cause := causeJtfault, xval := a, acc := if t.cause = causeCmpview then 0 else t.acc }
    | .error (.wait (.stage2 c _ acc level)) =>
      throw (.wait (.stage2 (if c = causeLoadpf ∨ c = causePerm then causeJtfault else c) a acc level))
    | .error e => throw e

/-- JT (R82): fn is n − 1. -/
def execJt (n : BitVec 7) (b a : BitVec 6) (s : State) : Result :=
  runTo (do
    let r ← getRegs
    let i := (regRead r a.toNat).toNat
    if n.toNat + 1 ≤ i then return r.pc + 4
    else
      let e ← jtEntry (regRead r b.toNat + BitVec.ofNat 64 (4 * i))
      return r.pc + e * 4) s

/-! ### Scalar loads and stores (R83 to R86) -/

/-- The effective address of a scalar access (R83). -/
def scalarAddr (r : Regs) (a : BitVec 6) (i : BitVec 11) : Word := regRead r a.toNat + i.signExtend 64

/-- The value a scalar load of `n` bytes reads (R83, R84): WATCH, MISAL, then the load rows. -/
def scalarLoad (a : Word) (n : Nat) (rq : BitVec 2) : M Nat := do
  checkWatch a.toNat n .read
  if a.toNat % n != 0 then raise causeMisal a
  else return leValue (← loadBytes 0 a.toNat n rq false)

/-- A scalar store of `n` bytes (R83, R84): WATCH, MISAL, then the store rows. -/
def scalarStore (a : Word) (n v : Nat) (rq : BitVec 2) : M Unit := do
  checkWatch a.toNat n .write
  if a.toNat % n != 0 then raise causeMisal a
  else storeValue 0 a.toNat n v rq false false

/-- A scalar load instruction (R83). -/
def loadOp (n : Nat) (ext : Nat → Word) (rq : BitVec 2) (i : BitVec 11) (a d : BitVec 6) (s : State) : Result :=
  runSeq (do
    let r ← getRegs
    let v ← scalarLoad (scalarAddr r a i) n rq
    ws d (ext v)) s

/-- A scalar store instruction (R83). -/
def storeOp (n : Nat) (rq : BitVec 2) (i : BitVec 11) (a b : BitVec 6) (s : State) : Result :=
  runSeq (do
    let r ← getRegs
    scalarStore (scalarAddr r a i) n (regRead r b.toNat).toNat rq) s

/-- LDB (R83, R84). -/
def execLdb (r : BitVec 2) (i : BitVec 11) (a d : BitVec 6) (s : State) : Result := loadOp 1 (sext64 8) r i a d s

/-- LDH (R83, R84). -/
def execLdh (r : BitVec 2) (i : BitVec 11) (a d : BitVec 6) (s : State) : Result := loadOp 2 (sext64 16) r i a d s

/-- LDW (R83, R84). -/
def execLdw (r : BitVec 2) (i : BitVec 11) (a d : BitVec 6) (s : State) : Result := loadOp 4 (sext64 32) r i a d s

/-- LDD (R83, R84). -/
def execLdd (r : BitVec 2) (i : BitVec 11) (a d : BitVec 6) (s : State) : Result := loadOp 8 (BitVec.ofNat 64) r i a d s

/-- LDBU (R83, R84). -/
def execLdbu (r : BitVec 2) (i : BitVec 11) (a d : BitVec 6) (s : State) : Result := loadOp 1 (BitVec.ofNat 64) r i a d s

/-- LDHU (R83, R84). -/
def execLdhu (r : BitVec 2) (i : BitVec 11) (a d : BitVec 6) (s : State) : Result := loadOp 2 (BitVec.ofNat 64) r i a d s

/-- LDWU (R83, R84). -/
def execLdwu (r : BitVec 2) (i : BitVec 11) (a d : BitVec 6) (s : State) : Result := loadOp 4 (BitVec.ofNat 64) r i a d s

/-- STB (R83, R84). -/
def execStb (r : BitVec 2) (i : BitVec 11) (a b : BitVec 6) (s : State) : Result := storeOp 1 r i a b s

/-- STH (R83, R84). -/
def execSth (r : BitVec 2) (i : BitVec 11) (a b : BitVec 6) (s : State) : Result := storeOp 2 r i a b s

/-- STW (R83, R84). -/
def execStw (r : BitVec 2) (i : BitVec 11) (a b : BitVec 6) (s : State) : Result := storeOp 4 r i a b s

/-- STD (R83, R84). -/
def execStd (r : BitVec 2) (i : BitVec 11) (a b : BitVec 6) (s : State) : Result := storeOp 8 r i a b s

end Sys2Proof.Machine
end

