-- ==== Sys2Proof/Machine/ScalarFp.lean ====
section
/-! DEFINITION. Scalar floating point (R87 to R92): FOP, FMAD and FMAS. -/

namespace Sys2Proof.Machine

/-- A scalar operand in a format: the low bits of the register (R87). -/
def fpOperand (f : Nat) (w : Word) : Nat := w.toNat % 2 ^ fmtWidth f

/-- A scalar floating-point instruction: the result to s[sd], the flags to MST (R87, R89). -/
def fpOp (d : BitVec 6) (f : Regs → FpRes) (s : State) : Result :=
  match strandOf s with
  | some st =>
    let x := f st.r
    let r := { st.r with mst := mstWith st.r.mst x.flags x.nanc }
    .next (putStrand s (wrote { st with r := r } d.toNat (BitVec.ofNat 64 x.bits) (st.r.pc + 4)))
  | none => .fault .noStrand

/-- A two-operand operation in a format (R88). -/
def fpOp2 (f : Nat) (op : Nat → Nat → Nat → FpRes) (b a d : BitVec 6) (s : State) : Result :=
  fpOp d (fun r => op (fpOperand f (regRead r a.toNat)) (fpOperand f (regRead r b.toNat)) (scalarMode r)) s

/-- A one-operand operation in a format (R88). -/
def fpOp1 (f : Nat) (op : Nat → Nat → FpRes) (a d : BitVec 6) (s : State) : Result :=
  fpOp d (fun r => op (fpOperand f (regRead r a.toNat)) (scalarMode r)) s

/-- A comparison as a result (R88, R90): its flag and 0 or 1. -/
def cmpRes (x : Bool × Nat) : FpRes := { bits := if x.1 then 1 else 0, flags := x.2, nanc := 0 }

/-- FCVT.L.D and FCVT.L.S (R91): NV without NX outside the range; no NaN cause is written. -/
def toLong (f x mode : Nat) : FpRes :=
  { fpToIntRes 64 (-(2 ^ 63 : Nat)) ((2 ^ 63 - 1 : Nat)) (fpDecode f x) mode false 0 with nanc := 0 }

/-- FADD.D (R88, R89). -/
def execFaddD (b a d : BitVec 6) (s : State) : Result := fpOp2 0 (fun a b m => fpAdd 0 a b m 0) b a d s

/-- FSUB.D (R88, R89). -/
def execFsubD (b a d : BitVec 6) (s : State) : Result := fpOp2 0 (fun a b m => fpSub 0 a b m 0) b a d s

/-- FMUL.D (R88, R89). -/
def execFmulD (b a d : BitVec 6) (s : State) : Result := fpOp2 0 (fun a b m => fpMul 0 a b m 0) b a d s

/-- FDIV.D (R88, R89). -/
def execFdivD (b a d : BitVec 6) (s : State) : Result := fpOp2 0 (fun a b m => fpDiv 0 a b m 0) b a d s

/-- FSQRT.D (R88, R89). -/
def execFsqrtD (a d : BitVec 6) (s : State) : Result := fpOp1 0 (fun a m => fpSqrt 0 a m 0) a d s

/-- FMIN.D (R88, R90). -/
def execFminD (b a d : BitVec 6) (s : State) : Result := fpOp2 0 (fun a b _ => fpMinMax 0 a b false) b a d s

/-- FMAX.D (R88, R90). -/
def execFmaxD (b a d : BitVec 6) (s : State) : Result := fpOp2 0 (fun a b _ => fpMinMax 0 a b true) b a d s

/-- FEQ.D (R88, R90). -/
def execFeqD (b a d : BitVec 6) (s : State) : Result := fpOp2 0 (fun a b _ => cmpRes (fpCompare 0 0 a b)) b a d s

/-- FLT.D (R88, R90). -/
def execFltD (b a d : BitVec 6) (s : State) : Result := fpOp2 0 (fun a b _ => cmpRes (fpCompare 0 2 a b)) b a d s

/-- FLE.D (R88, R90). -/
def execFleD (b a d : BitVec 6) (s : State) : Result := fpOp2 0 (fun a b _ => cmpRes (fpCompare 0 3 a b)) b a d s

/-- FCVT.D.L (R88). -/
def execFcvtDL (a d : BitVec 6) (s : State) : Result := fpOp d (fun r => intToFp 0 (regRead r a.toNat).toInt (scalarMode r) 0) s

/-- FCVT.L.D (R91). -/
def execFcvtLD (a d : BitVec 6) (s : State) : Result := fpOp1 0 (fun a m => toLong 0 a m) a d s

/-- FADD.S (R88, R89). -/
def execFaddS (b a d : BitVec 6) (s : State) : Result := fpOp2 1 (fun a b m => fpAdd 1 a b m 0) b a d s

/-- FSUB.S (R88, R89). -/
def execFsubS (b a d : BitVec 6) (s : State) : Result := fpOp2 1 (fun a b m => fpSub 1 a b m 0) b a d s

/-- FMUL.S (R88, R89). -/
def execFmulS (b a d : BitVec 6) (s : State) : Result := fpOp2 1 (fun a b m => fpMul 1 a b m 0) b a d s

/-- FDIV.S (R88, R89). -/
def execFdivS (b a d : BitVec 6) (s : State) : Result := fpOp2 1 (fun a b m => fpDiv 1 a b m 0) b a d s

/-- FSQRT.S (R88, R89). -/
def execFsqrtS (a d : BitVec 6) (s : State) : Result := fpOp1 1 (fun a m => fpSqrt 1 a m 0) a d s

/-- FMIN.S (R88, R90). -/
def execFminS (b a d : BitVec 6) (s : State) : Result := fpOp2 1 (fun a b _ => fpMinMax 1 a b false) b a d s

/-- FMAX.S (R88, R90). -/
def execFmaxS (b a d : BitVec 6) (s : State) : Result := fpOp2 1 (fun a b _ => fpMinMax 1 a b true) b a d s

/-- FEQ.S (R88, R90). -/
def execFeqS (b a d : BitVec 6) (s : State) : Result := fpOp2 1 (fun a b _ => cmpRes (fpCompare 1 0 a b)) b a d s

/-- FLT.S (R88, R90). -/
def execFltS (b a d : BitVec 6) (s : State) : Result := fpOp2 1 (fun a b _ => cmpRes (fpCompare 1 2 a b)) b a d s

/-- FLE.S (R88, R90). -/
def execFleS (b a d : BitVec 6) (s : State) : Result := fpOp2 1 (fun a b _ => cmpRes (fpCompare 1 3 a b)) b a d s

/-- FCVT.S.L (R88). -/
def execFcvtSL (a d : BitVec 6) (s : State) : Result := fpOp d (fun r => intToFp 1 (regRead r a.toNat).toInt (scalarMode r) 0) s

/-- FCVT.L.S (R91). -/
def execFcvtLS (a d : BitVec 6) (s : State) : Result := fpOp1 1 (fun a m => toLong 1 a m) a d s

/-- FCVT.S.D (R88, R91). -/
def execFcvtSD (a d : BitVec 6) (s : State) : Result := fpOp1 0 (fun a m => fpToFp 1 0 a m false 0) a d s

/-- FCVT.D.S (R88, R91). -/
def execFcvtDS (a d : BitVec 6) (s : State) : Result := fpOp1 1 (fun a m => fpToFp 0 1 a m false 0) a d s

/-- FCLASS (R90): the FP64 byte in bits 7:0, the FP32 byte in bits 15:8. -/
def execFclass (a d : BitVec 6) (s : State) : Result :=
  scalarOp d (fun r =>
    let w := regRead r a.toNat
    BitVec.ofNat 64 (fpClass 0 (fpOperand 0 w) + 256 * fpClass 1 (fpOperand 1 w))) s

/-- The fused multiply-adds (R92): one rounding of ±(a × b) + c. -/
def fmaOp (f : Nat) (np : Bool) (c b a d : BitVec 6) (s : State) : Result :=
  fpOp d (fun r => fpFma f np false (fpOperand f (regRead r a.toNat)) (fpOperand f (regRead r b.toNat))
    (fpOperand f (regRead r c.toNat)) (scalarMode r) 0) s

/-- FMAD (R92). -/
def execFmad (c b a d : BitVec 6) (s : State) : Result := fmaOp 0 false c b a d s

/-- FNMAD (R92). -/
def execFnmad (c b a d : BitVec 6) (s : State) : Result := fmaOp 0 true c b a d s

/-- FMAS (R92). -/
def execFmas (c b a d : BitVec 6) (s : State) : Result := fmaOp 1 false c b a d s

/-- FNMAS (R92). -/
def execFnmas (c b a d : BitVec 6) (s : State) : Result := fmaOp 1 true c b a d s

end Sys2Proof.Machine
end

