-- ==== Sys2Proof/Machine/Dispatch.lean ====
section
/-! DEFINITION. One arm for each instruction and event of the opcode table: its meaning. -/

namespace Sys2Proof.Machine

/-- What an instruction of the strand `State.cur`, or an event, does. DESIGN CHOICE (log entry 7). -/
def exec (i : Instr) (s : State) : Host.Outcome State Fault Refusal :=
  match i with
  | .add b a d => Sys2Proof.Machine.execAdd b a d s
  | .sub b a d => Sys2Proof.Machine.execSub b a d s
  | .and b a d => Sys2Proof.Machine.execAnd b a d s
  | .or b a d => Sys2Proof.Machine.execOr b a d s
  | .xor b a d => Sys2Proof.Machine.execXor b a d s
  | .sll b a d => Sys2Proof.Machine.execSll b a d s
  | .srl b a d => Sys2Proof.Machine.execSrl b a d s
  | .sra b a d => Sys2Proof.Machine.execSra b a d s
  | .slt b a d => Sys2Proof.Machine.execSlt b a d s
  | .sltu b a d => Sys2Proof.Machine.execSltu b a d s
  | .min b a d => Sys2Proof.Machine.execMin b a d s
  | .max b a d => Sys2Proof.Machine.execMax b a d s
  | .minu b a d => Sys2Proof.Machine.execMinu b a d s
  | .maxu b a d => Sys2Proof.Machine.execMaxu b a d s
  | .mul b a d => Sys2Proof.Machine.execMul b a d s
  | .mulh b a d => Sys2Proof.Machine.execMulh b a d s
  | .mulhu b a d => Sys2Proof.Machine.execMulhu b a d s
  | .div b a d => Sys2Proof.Machine.execDiv b a d s
  | .divu b a d => Sys2Proof.Machine.execDivu b a d s
  | .rem b a d => Sys2Proof.Machine.execRem b a d s
  | .remu b a d => Sys2Proof.Machine.execRemu b a d s
  | .clz a d => Sys2Proof.Machine.execClz a d s
  | .ctz a d => Sys2Proof.Machine.execCtz a d s
  | .popc a d => Sys2Proof.Machine.execPopc a d s
  | .sel b a d => Sys2Proof.Machine.execSel b a d s
  | .addi imm a d => Sys2Proof.Machine.execAddi imm a d s
  | .andi imm a d => Sys2Proof.Machine.execAndi imm a d s
  | .ori imm a d => Sys2Proof.Machine.execOri imm a d s
  | .xori imm a d => Sys2Proof.Machine.execXori imm a d s
  | .slti imm a d => Sys2Proof.Machine.execSlti imm a d s
  | .sltiu imm a d => Sys2Proof.Machine.execSltiu imm a d s
  | .slli n a d => Sys2Proof.Machine.execSlli n a d s
  | .srli n a d => Sys2Proof.Machine.execSrli n a d s
  | .srai n a d => Sys2Proof.Machine.execSrai n a d s
  | .lui imm d => Sys2Proof.Machine.execLui imm d s
  | .auipc imm d => Sys2Proof.Machine.execAuipc imm d s
  | .beq imm b a => Sys2Proof.Machine.execBeq imm b a s
  | .bne imm b a => Sys2Proof.Machine.execBne imm b a s
  | .blt imm b a => Sys2Proof.Machine.execBlt imm b a s
  | .bge imm b a => Sys2Proof.Machine.execBge imm b a s
  | .bltu imm b a => Sys2Proof.Machine.execBltu imm b a s
  | .bgeu imm b a => Sys2Proof.Machine.execBgeu imm b a s
  | .jal imm d => Sys2Proof.Machine.execJal imm d s
  | .jalr imm a d => Sys2Proof.Machine.execJalr imm a d s
  | .jt n b a => Sys2Proof.Machine.execJt n b a s
  | .ldb r imm a d => Sys2Proof.Machine.execLdb r imm a d s
  | .ldh r imm a d => Sys2Proof.Machine.execLdh r imm a d s
  | .ldw r imm a d => Sys2Proof.Machine.execLdw r imm a d s
  | .ldd r imm a d => Sys2Proof.Machine.execLdd r imm a d s
  | .ldbu r imm a d => Sys2Proof.Machine.execLdbu r imm a d s
  | .ldhu r imm a d => Sys2Proof.Machine.execLdhu r imm a d s
  | .ldwu r imm a d => Sys2Proof.Machine.execLdwu r imm a d s
  | .stb r imm a b => Sys2Proof.Machine.execStb r imm a b s
  | .sth r imm a b => Sys2Proof.Machine.execSth r imm a b s
  | .stw r imm a b => Sys2Proof.Machine.execStw r imm a b s
  | .std r imm a b => Sys2Proof.Machine.execStd r imm a b s
  | .faddD b a d => Sys2Proof.Machine.execFaddD b a d s
  | .fsubD b a d => Sys2Proof.Machine.execFsubD b a d s
  | .fmulD b a d => Sys2Proof.Machine.execFmulD b a d s
  | .fdivD b a d => Sys2Proof.Machine.execFdivD b a d s
  | .fsqrtD a d => Sys2Proof.Machine.execFsqrtD a d s
  | .fminD b a d => Sys2Proof.Machine.execFminD b a d s
  | .fmaxD b a d => Sys2Proof.Machine.execFmaxD b a d s
  | .faddS b a d => Sys2Proof.Machine.execFaddS b a d s
  | .fsubS b a d => Sys2Proof.Machine.execFsubS b a d s
  | .fmulS b a d => Sys2Proof.Machine.execFmulS b a d s
  | .fdivS b a d => Sys2Proof.Machine.execFdivS b a d s
  | .fsqrtS a d => Sys2Proof.Machine.execFsqrtS a d s
  | .fminS b a d => Sys2Proof.Machine.execFminS b a d s
  | .fmaxS b a d => Sys2Proof.Machine.execFmaxS b a d s
  | .feqD b a d => Sys2Proof.Machine.execFeqD b a d s
  | .fltD b a d => Sys2Proof.Machine.execFltD b a d s
  | .fleD b a d => Sys2Proof.Machine.execFleD b a d s
  | .feqS b a d => Sys2Proof.Machine.execFeqS b a d s
  | .fltS b a d => Sys2Proof.Machine.execFltS b a d s
  | .fleS b a d => Sys2Proof.Machine.execFleS b a d s
  | .fcvtDL a d => Sys2Proof.Machine.execFcvtDL a d s
  | .fcvtLD a d => Sys2Proof.Machine.execFcvtLD a d s
  | .fcvtSD a d => Sys2Proof.Machine.execFcvtSD a d s
  | .fcvtDS a d => Sys2Proof.Machine.execFcvtDS a d s
  | .fcvtSL a d => Sys2Proof.Machine.execFcvtSL a d s
  | .fcvtLS a d => Sys2Proof.Machine.execFcvtLS a d s
  | .fclass a d => Sys2Proof.Machine.execFclass a d s
  | .fmad c b a d => Sys2Proof.Machine.execFmad c b a d s
  | .fnmad c b a d => Sys2Proof.Machine.execFnmad c b a d s
  | .fmas c b a d => Sys2Proof.Machine.execFmas c b a d s
  | .fnmas c b a d => Sys2Proof.Machine.execFnmas c b a d s
  | .cxch c a d => Sys2Proof.Machine.execCxch c a d s
  | .csetb c a d => Sys2Proof.Machine.execCsetb c a d s
  | .cclrb c a d => Sys2Proof.Machine.execCclrb c a d s
  | .cread c d => Sys2Proof.Machine.execCread c d s
  | .ecall => Sys2Proof.Machine.execEcall s
  | .ebreak => Sys2Proof.Machine.execEbreak s
  | .eret => Sys2Proof.Machine.execEret s
  | .wfi => Sys2Proof.Machine.execWfi s
  | .halt => Sys2Proof.Machine.execHalt s
  | .ifence => Sys2Proof.Machine.execIfence s
  | .pause => Sys2Proof.Machine.execPause s
  | .setvl t a d => Sys2Proof.Machine.execSetvl t a d s
  | .setvlr b a d => Sys2Proof.Machine.execSetvlr b a d s
  | .vadd m b a d => Sys2Proof.Machine.execVadd m b a d s
  | .vsub m b a d => Sys2Proof.Machine.execVsub m b a d s
  | .vrsub m b a d => Sys2Proof.Machine.execVrsub m b a d s
  | .vmul m b a d => Sys2Proof.Machine.execVmul m b a d s
  | .vmulh m b a d => Sys2Proof.Machine.execVmulh m b a d s
  | .vmulhu m b a d => Sys2Proof.Machine.execVmulhu m b a d s
  | .vand m b a d => Sys2Proof.Machine.execVand m b a d s
  | .vor m b a d => Sys2Proof.Machine.execVor m b a d s
  | .vxor m b a d => Sys2Proof.Machine.execVxor m b a d s
  | .vsll m b a d => Sys2Proof.Machine.execVsll m b a d s
  | .vsrl m b a d => Sys2Proof.Machine.execVsrl m b a d s
  | .vsra m b a d => Sys2Proof.Machine.execVsra m b a d s
  | .vmin m b a d => Sys2Proof.Machine.execVmin m b a d s
  | .vmax m b a d => Sys2Proof.Machine.execVmax m b a d s
  | .vminu m b a d => Sys2Proof.Machine.execVminu m b a d s
  | .vmaxu m b a d => Sys2Proof.Machine.execVmaxu m b a d s
  | .vsadd m b a d => Sys2Proof.Machine.execVsadd m b a d s
  | .vssub m b a d => Sys2Proof.Machine.execVssub m b a d s
  | .vsaddu m b a d => Sys2Proof.Machine.execVsaddu m b a d s
  | .vssubu m b a d => Sys2Proof.Machine.execVssubu m b a d s
  | .vmadd m b a d => Sys2Proof.Machine.execVmadd m b a d s
  | .vabsd m b a d => Sys2Proof.Machine.execVabsd m b a d s
  | .vaddVx m sc a d => Sys2Proof.Machine.execVaddVx m sc a d s
  | .vsubVx m sc a d => Sys2Proof.Machine.execVsubVx m sc a d s
  | .vrsubVx m sc a d => Sys2Proof.Machine.execVrsubVx m sc a d s
  | .vmulVx m sc a d => Sys2Proof.Machine.execVmulVx m sc a d s
  | .vmulhVx m sc a d => Sys2Proof.Machine.execVmulhVx m sc a d s
  | .vmulhuVx m sc a d => Sys2Proof.Machine.execVmulhuVx m sc a d s
  | .vandVx m sc a d => Sys2Proof.Machine.execVandVx m sc a d s
  | .vorVx m sc a d => Sys2Proof.Machine.execVorVx m sc a d s
  | .vxorVx m sc a d => Sys2Proof.Machine.execVxorVx m sc a d s
  | .vsllVx m sc a d => Sys2Proof.Machine.execVsllVx m sc a d s
  | .vsrlVx m sc a d => Sys2Proof.Machine.execVsrlVx m sc a d s
  | .vsraVx m sc a d => Sys2Proof.Machine.execVsraVx m sc a d s
  | .vminVx m sc a d => Sys2Proof.Machine.execVminVx m sc a d s
  | .vmaxVx m sc a d => Sys2Proof.Machine.execVmaxVx m sc a d s
  | .vminuVx m sc a d => Sys2Proof.Machine.execVminuVx m sc a d s
  | .vmaxuVx m sc a d => Sys2Proof.Machine.execVmaxuVx m sc a d s
  | .vsaddVx m sc a d => Sys2Proof.Machine.execVsaddVx m sc a d s
  | .vssubVx m sc a d => Sys2Proof.Machine.execVssubVx m sc a d s
  | .vsadduVx m sc a d => Sys2Proof.Machine.execVsadduVx m sc a d s
  | .vssubuVx m sc a d => Sys2Proof.Machine.execVssubuVx m sc a d s
  | .vmaddVx m sc a d => Sys2Proof.Machine.execVmaddVx m sc a d s
  | .vabsdVx m sc a d => Sys2Proof.Machine.execVabsdVx m sc a d s
  | .vaddVi m imm a d => Sys2Proof.Machine.execVaddVi m imm a d s
  | .vrsubVi m imm a d => Sys2Proof.Machine.execVrsubVi m imm a d s
  | .vandVi m imm a d => Sys2Proof.Machine.execVandVi m imm a d s
  | .vorVi m imm a d => Sys2Proof.Machine.execVorVi m imm a d s
  | .vxorVi m imm a d => Sys2Proof.Machine.execVxorVi m imm a d s
  | .vsllVi m imm a d => Sys2Proof.Machine.execVsllVi m imm a d s
  | .vsrlVi m imm a d => Sys2Proof.Machine.execVsrlVi m imm a d s
  | .vsraVi m imm a d => Sys2Proof.Machine.execVsraVi m imm a d s
  | .vsaddVi m imm a d => Sys2Proof.Machine.execVsaddVi m imm a d s
  | .vsadduVi m imm a d => Sys2Proof.Machine.execVsadduVi m imm a d s
  | .vcmpEq m b a d => Sys2Proof.Machine.execVcmpEq m b a d s
  | .vcmpNe m b a d => Sys2Proof.Machine.execVcmpNe m b a d s
  | .vcmpLt m b a d => Sys2Proof.Machine.execVcmpLt m b a d s
  | .vcmpLtu m b a d => Sys2Proof.Machine.execVcmpLtu m b a d s
  | .vcmpLe m b a d => Sys2Proof.Machine.execVcmpLe m b a d s
  | .vcmpLeu m b a d => Sys2Proof.Machine.execVcmpLeu m b a d s
  | .vcmpGt m b a d => Sys2Proof.Machine.execVcmpGt m b a d s
  | .vcmpGtu m b a d => Sys2Proof.Machine.execVcmpGtu m b a d s
  | .vcmpEqVx m sc a d => Sys2Proof.Machine.execVcmpEqVx m sc a d s
  | .vcmpNeVx m sc a d => Sys2Proof.Machine.execVcmpNeVx m sc a d s
  | .vcmpLtVx m sc a d => Sys2Proof.Machine.execVcmpLtVx m sc a d s
  | .vcmpLtuVx m sc a d => Sys2Proof.Machine.execVcmpLtuVx m sc a d s
  | .vcmpLeVx m sc a d => Sys2Proof.Machine.execVcmpLeVx m sc a d s
  | .vcmpLeuVx m sc a d => Sys2Proof.Machine.execVcmpLeuVx m sc a d s
  | .vcmpGtVx m sc a d => Sys2Proof.Machine.execVcmpGtVx m sc a d s
  | .vcmpGtuVx m sc a d => Sys2Proof.Machine.execVcmpGtuVx m sc a d s
  | .vcmpEqVi m imm a d => Sys2Proof.Machine.execVcmpEqVi m imm a d s
  | .vcmpNeVi m imm a d => Sys2Proof.Machine.execVcmpNeVi m imm a d s
  | .vcmpLtVi m imm a d => Sys2Proof.Machine.execVcmpLtVi m imm a d s
  | .vcmpLtuVi m imm a d => Sys2Proof.Machine.execVcmpLtuVi m imm a d s
  | .vcmpLeVi m imm a d => Sys2Proof.Machine.execVcmpLeVi m imm a d s
  | .vcmpLeuVi m imm a d => Sys2Proof.Machine.execVcmpLeuVi m imm a d s
  | .vcmpGtVi m imm a d => Sys2Proof.Machine.execVcmpGtVi m imm a d s
  | .vcmpGtuVi m imm a d => Sys2Proof.Machine.execVcmpGtuVi m imm a d s
  | .vmv m a d => Sys2Proof.Machine.execVmv m a d s
  | .vsplat m sc d => Sys2Proof.Machine.execVsplat m sc d s
  | .vext x a d => Sys2Proof.Machine.execVext x a d s
  | .vid m d => Sys2Proof.Machine.execVid m d s
  | .vmerge m b a d => Sys2Proof.Machine.execVmerge m b a d s
  | .vnop => Sys2Proof.Machine.execVnop s
  | .vslup m sc a d => Sys2Proof.Machine.execVslup m sc a d s
  | .vsldn m sc a d => Sys2Proof.Machine.execVsldn m sc a d s
  | .vgathr m b a d => Sys2Proof.Machine.execVgathr m b a d s
  | .vcompr m a d => Sys2Proof.Machine.execVcompr m a d s
  | .vrev m a d => Sys2Proof.Machine.execVrev m a d s
  | .vxchgX m sc a d => Sys2Proof.Machine.execVxchgX m sc a d s
  | .vxchgR m sc a d => Sys2Proof.Machine.execVxchgR m sc a d s
  | .vredsum m b a d => Sys2Proof.Machine.execVredsum m b a d s
  | .vredmax m b a d => Sys2Proof.Machine.execVredmax m b a d s
  | .vredmin m b a d => Sys2Proof.Machine.execVredmin m b a d s
  | .vredmaxu m b a d => Sys2Proof.Machine.execVredmaxu m b a d s
  | .vredminu m b a d => Sys2Proof.Machine.execVredminu m b a d s
  | .vredand m b a d => Sys2Proof.Machine.execVredand m b a d s
  | .vredor m b a d => Sys2Proof.Machine.execVredor m b a d s
  | .vredxor m b a d => Sys2Proof.Machine.execVredxor m b a d s
  | .vargmax m a d => Sys2Proof.Machine.execVargmax m a d s
  | .vargmin m a d => Sys2Proof.Machine.execVargmin m a d s
  | .vfredsum m b a d => Sys2Proof.Machine.execVfredsum m b a d s
  | .vfredtree m b a d => Sys2Proof.Machine.execVfredtree m b a d s
  | .vfredmax m b a d => Sys2Proof.Machine.execVfredmax m b a d s
  | .vfargmax m a d => Sys2Proof.Machine.execVfargmax m a d s
  | .vtopk m sc a d => Sys2Proof.Machine.execVtopk m sc a d s
  | .vftopk m sc a d => Sys2Proof.Machine.execVftopk m sc a d s
  | .vscan m a d => Sys2Proof.Machine.execVscan m a d s
  | .vscanc m a d => Sys2Proof.Machine.execVscanc m a d s
  | .vfscanc m a d => Sys2Proof.Machine.execVfscanc m a d s
  | .mand b a d => Sys2Proof.Machine.execMand b a d s
  | .mor b a d => Sys2Proof.Machine.execMor b a d s
  | .mxor b a d => Sys2Proof.Machine.execMxor b a d s
  | .mandn b a d => Sys2Proof.Machine.execMandn b a d s
  | .mnot a d => Sys2Proof.Machine.execMnot a d s
  | .mpopc a d => Sys2Proof.Machine.execMpopc a d s
  | .mfirst a d => Sys2Proof.Machine.execMfirst a d s
  | .mset d => Sys2Proof.Machine.execMset d s
  | .mclr d => Sys2Proof.Machine.execMclr d s
  | .mmv a d => Sys2Proof.Machine.execMmv a d s
  | .vsplit o c => Sys2Proof.Machine.execVsplit o c s
  | .vjoin => Sys2Proof.Machine.execVjoin s
  | .vbnone o c => Sys2Proof.Machine.execVbnone o c s
  | .repf f o g n k => Sys2Proof.Machine.execRepf f o g n k s
  | .vfadd m b a d => Sys2Proof.Machine.execVfadd m b a d s
  | .vfsub m b a d => Sys2Proof.Machine.execVfsub m b a d s
  | .vfmul m b a d => Sys2Proof.Machine.execVfmul m b a d s
  | .vfdiv m b a d => Sys2Proof.Machine.execVfdiv m b a d s
  | .vfsqrt m a d => Sys2Proof.Machine.execVfsqrt m a d s
  | .vfmin m b a d => Sys2Proof.Machine.execVfmin m b a d s
  | .vfmax m b a d => Sys2Proof.Machine.execVfmax m b a d s
  | .vfrsq m a d => Sys2Proof.Machine.execVfrsq m a d s
  | .vfrcp m a d => Sys2Proof.Machine.execVfrcp m a d s
  | .vfexp2 m a d => Sys2Proof.Machine.execVfexp2 m a d s
  | .vflog2 m a d => Sys2Proof.Machine.execVflog2 m a d s
  | .vfabs m a d => Sys2Proof.Machine.execVfabs m a d s
  | .vfneg m a d => Sys2Proof.Machine.execVfneg m a d s
  | .vfsgnj m b a d => Sys2Proof.Machine.execVfsgnj m b a d s
  | .vfclass m a d => Sys2Proof.Machine.execVfclass m a d s
  | .vfaddVx m sc a d => Sys2Proof.Machine.execVfaddVx m sc a d s
  | .vfsubVx m sc a d => Sys2Proof.Machine.execVfsubVx m sc a d s
  | .vfmulVx m sc a d => Sys2Proof.Machine.execVfmulVx m sc a d s
  | .vfdivVx m sc a d => Sys2Proof.Machine.execVfdivVx m sc a d s
  | .vfminVx m sc a d => Sys2Proof.Machine.execVfminVx m sc a d s
  | .vfmaxVx m sc a d => Sys2Proof.Machine.execVfmaxVx m sc a d s
  | .vfsgnjVx m sc a d => Sys2Proof.Machine.execVfsgnjVx m sc a d s
  | .vfma m c b a d => Sys2Proof.Machine.execVfma m c b a d s
  | .vfnma m c b a d => Sys2Proof.Machine.execVfnma m c b a d s
  | .vfmsa m c b a d => Sys2Proof.Machine.execVfmsa m c b a d s
  | .vfnmsa m c b a d => Sys2Proof.Machine.execVfnmsa m c b a d s
  | .vfcmpEq m b a d => Sys2Proof.Machine.execVfcmpEq m b a d s
  | .vfcmpNe m b a d => Sys2Proof.Machine.execVfcmpNe m b a d s
  | .vfcmpLt m b a d => Sys2Proof.Machine.execVfcmpLt m b a d s
  | .vfcmpLe m b a d => Sys2Proof.Machine.execVfcmpLe m b a d s
  | .vfcmpGt m b a d => Sys2Proof.Machine.execVfcmpGt m b a d s
  | .vfcmpGe m b a d => Sys2Proof.Machine.execVfcmpGe m b a d s
  | .vfcmpUnord m b a d => Sys2Proof.Machine.execVfcmpUnord m b a d s
  | .vfcmpOrd m b a d => Sys2Proof.Machine.execVfcmpOrd m b a d s
  | .vfcmpEqVx m sc a d => Sys2Proof.Machine.execVfcmpEqVx m sc a d s
  | .vfcmpNeVx m sc a d => Sys2Proof.Machine.execVfcmpNeVx m sc a d s
  | .vfcmpLtVx m sc a d => Sys2Proof.Machine.execVfcmpLtVx m sc a d s
  | .vfcmpLeVx m sc a d => Sys2Proof.Machine.execVfcmpLeVx m sc a d s
  | .vfcmpGtVx m sc a d => Sys2Proof.Machine.execVfcmpGtVx m sc a d s
  | .vfcmpGeVx m sc a d => Sys2Proof.Machine.execVfcmpGeVx m sc a d s
  | .vfcmpUnordVx m sc a d => Sys2Proof.Machine.execVfcmpUnordVx m sc a d s
  | .vfcmpOrdVx m sc a d => Sys2Proof.Machine.execVfcmpOrdVx m sc a d s
  | .vcvt t r m x f a d => Sys2Proof.Machine.execVcvt t r m x f a d s
  | .vscale m a d => Sys2Proof.Machine.execVscale m a d s
  | .vqnt m b a d => Sys2Proof.Machine.execVqnt m b a d s
  | .vdqnt m b a d => Sys2Proof.Machine.execVdqnt m b a d s
  | .vld n r w m x a d => Sys2Proof.Machine.execVld n r w m x a d s
  | .vst n r w m x a d => Sys2Proof.Machine.execVst n r w m x a d s
  | .vlds n r w m x a d => Sys2Proof.Machine.execVlds n r w m x a d s
  | .vsts n r w m x a d => Sys2Proof.Machine.execVsts n r w m x a d s
  | .vldx n r w m x a d => Sys2Proof.Machine.execVldx n r w m x a d s
  | .vstx n r w m x a d => Sys2Proof.Machine.execVstx n r w m x a d s
  | .vlseg n r w m x a d => Sys2Proof.Machine.execVlseg n r w m x a d s
  | .vsseg n r w m x a d => Sys2Proof.Machine.execVsseg n r w m x a d s
  | .lsld w m x a d => Sys2Proof.Machine.execLsld w m x a d s
  | .lsst w m x a d => Sys2Proof.Machine.execLsst w m x a d s
  | .vspl a d => Sys2Proof.Machine.execVspl a d s
  | .vfil a d => Sys2Proof.Machine.execVfil a d s
  | .cwb b a => Sys2Proof.Machine.execCwb b a s
  | .cinv b a => Sys2Proof.Machine.execCinv b a s
  | .cflush b a => Sys2Proof.Machine.execCflush b a s
  | .pref b a => Sys2Proof.Machine.execPref b a s
  | .wayconv a => Sys2Proof.Machine.execWayconv a s
  | .wayrest a => Sys2Proof.Machine.execWayrest a s
  | .cflushall => Sys2Proof.Machine.execCflushall s
  | .lvcinv => Sys2Proof.Machine.execLvcinv s
  | .ldtol m e a d => Sys2Proof.Machine.execLdtol m e a d s
  | .qappend r w m a d => Sys2Proof.Machine.execQappend r w m a d s
  | .fldl k x d => Sys2Proof.Machine.execFldl k x d s
  | .fpack x d => Sys2Proof.Machine.execFpack x d s
  | .fst k x a => Sys2Proof.Machine.execFst k x a s
  | .fisect c b a d => Sys2Proof.Machine.execFisect c b a d s
  | .funion c b a d => Sys2Proof.Machine.execFunion c b a d s
  | .fmerge c b a d => Sys2Proof.Machine.execFmerge c b a d s
  | .fsort c a d => Sys2Proof.Machine.execFsort c a d s
  | .fcompact x a d => Sys2Proof.Machine.execFcompact x a d s
  | .fexpand k x a => Sys2Proof.Machine.execFexpand k x a s
  | .fgather k x a d => Sys2Proof.Machine.execFgather k x a d s
  | .fscat k x a => Sys2Proof.Machine.execFscat k x a s
  | .fmapv k x a d => Sys2Proof.Machine.execFmapv k x a d s
  | .flen x a => Sys2Proof.Machine.execFlen x a s
  | .fcoord x a => Sys2Proof.Machine.execFcoord x a s
  | .fvals k x a => Sys2Proof.Machine.execFvals k x a s
  | .fsplit x a d => Sys2Proof.Machine.execFsplit x a d s
  | .fclr d => Sys2Proof.Machine.execFclr d s
  | .fldf k x d => Sys2Proof.Machine.execFldf k x d s
  | .fcombine c a d => Sys2Proof.Machine.execFcombine c a d s
  | .fpref x => Sys2Proof.Machine.execFpref x s
  | .fprefStreamFetch strand => Sys2Proof.Machine.execFprefStreamFetch strand s
  | .fsend x a => Sys2Proof.Machine.execFsend x a s
  | .fsendReservationGrant receiver => Sys2Proof.Machine.execFsendReservationGrant receiver s
  | .fibreMessageArrival receiver => Sys2Proof.Machine.execFibreMessageArrival receiver s
  | .frecv k c x a d => Sys2Proof.Machine.execFrecv k c x a d s
  | .jclm sc j => Sys2Proof.Machine.execJclm sc j s
  | .jclmAny sc => Sys2Proof.Machine.execJclmAny sc s
  | .jrel j => Sys2Proof.Machine.execJrel j s
  | .jld p c sc v j => Sys2Proof.Machine.execJld p c sc v j s
  | .jfil sc j => Sys2Proof.Machine.execJfil sc j s
  | .jfilGather sc v j => Sys2Proof.Machine.execJfilGather sc v j s
  | .tmma z e b a t => Sys2Proof.Machine.execTmma z e b a t s
  | .tmms z e n b a t => Sys2Proof.Machine.execTmms z e n b a t s
  | .ttrn z e b a t => Sys2Proof.Machine.execTtrn z e b a t s
  | .multiplyLastStep strand => Sys2Proof.Machine.execMultiplyLastStep strand s
  | .tileReady strand => Sys2Proof.Machine.execTileReady strand s
  | .tmov sc v t => Sys2Proof.Machine.execTmov sc v t s
  | .tzero t => Sys2Proof.Machine.execTzero t s
  | .tstat t d => Sys2Proof.Machine.execTstat t d s
  | .twait => Sys2Proof.Machine.execTwait s
  | .amoadd o w b a d => Sys2Proof.Machine.execAmoadd o w b a d s
  | .amoand o w b a d => Sys2Proof.Machine.execAmoand o w b a d s
  | .amoor o w b a d => Sys2Proof.Machine.execAmoor o w b a d s
  | .amoxor o w b a d => Sys2Proof.Machine.execAmoxor o w b a d s
  | .amomin o w b a d => Sys2Proof.Machine.execAmomin o w b a d s
  | .amomax o w b a d => Sys2Proof.Machine.execAmomax o w b a d s
  | .amominu o w b a d => Sys2Proof.Machine.execAmominu o w b a d s
  | .amomaxu o w b a d => Sys2Proof.Machine.execAmomaxu o w b a d s
  | .amoswap o w b a d => Sys2Proof.Machine.execAmoswap o w b a d s
  | .amocas o w b a d => Sys2Proof.Machine.execAmocas o w b a d s
  | .amofadd o w b a d => Sys2Proof.Machine.execAmofadd o w b a d s
  | .vamoadd w r m imm a d => Sys2Proof.Machine.execVamoadd w r m imm a d s
  | .vamoand w r m imm a d => Sys2Proof.Machine.execVamoand w r m imm a d s
  | .vamoor w r m imm a d => Sys2Proof.Machine.execVamoor w r m imm a d s
  | .vamoxor w r m imm a d => Sys2Proof.Machine.execVamoxor w r m imm a d s
  | .vamomin w r m imm a d => Sys2Proof.Machine.execVamomin w r m imm a d s
  | .vamomax w r m imm a d => Sys2Proof.Machine.execVamomax w r m imm a d s
  | .vamominu w r m imm a d => Sys2Proof.Machine.execVamominu w r m imm a d s
  | .vamomaxu w r m imm a d => Sys2Proof.Machine.execVamomaxu w r m imm a d s
  | .vamoswap w r m imm a d => Sys2Proof.Machine.execVamoswap w r m imm a d s
  | .vamofadd w r m imm a d => Sys2Proof.Machine.execVamofadd w r m imm a d s
  | .vamoPrepare place requester op w64 elems => Sys2Proof.Machine.execVamoPrepare place requester op w64 elems s
  | .vamoPerform place requester go => Sys2Proof.Machine.execVamoPerform place requester go s
  | .slkadd m a d => Sys2Proof.Machine.execSlkadd m a d s
  | .slkaddx m imm a d => Sys2Proof.Machine.execSlkaddx m imm a d s
  | .grow region bay ask => Sys2Proof.Machine.execGrow region bay ask s
  | .grant region bay => Sys2Proof.Machine.execGrant region bay s
  | .drain bay line => Sys2Proof.Machine.execDrain bay line s
  | .dack bay line => Sys2Proof.Machine.execDack bay line s
  | .draw region bay ret => Sys2Proof.Machine.execDraw region bay ret s
  | .drawn region bay => Sys2Proof.Machine.execDrawn region bay s
  | .linedraw bay line => Sys2Proof.Machine.execLinedraw bay line s
  | .ret region bay => Sys2Proof.Machine.execRet region bay s
  | .tolq region strand epsUnits => Sys2Proof.Machine.execTolq region strand epsUnits s
  | .tolgo strand => Sys2Proof.Machine.execTolgo strand s
  | .slkdef a d => Sys2Proof.Machine.execSlkdef a d s
  | .slkdraw a => Sys2Proof.Machine.execSlkdraw a s
  | .slkqry b a d => Sys2Proof.Machine.execSlkqry b a d s
  | .slkrel a => Sys2Proof.Machine.execSlkrel a s
  | .fenceAcq sc => Sys2Proof.Machine.execFenceAcq sc s
  | .fenceRel sc => Sys2Proof.Machine.execFenceRel sc s
  | .fenceAr sc => Sys2Proof.Machine.execFenceAr sc s
  | .fenceSc sc => Sys2Proof.Machine.execFenceSc sc s
  | .fenceS2v => Sys2Proof.Machine.execFenceS2v s
  | .fenceV2s => Sys2Proof.Machine.execFenceV2s s
  | .fenceCode sc => Sys2Proof.Machine.execFenceCode sc s
  | .fenceSlk sc => Sys2Proof.Machine.execFenceSlk sc s
  | .waita c sc b a d => Sys2Proof.Machine.execWaita c sc b a d s
  | .waitaWake strand => Sys2Proof.Machine.execWaitaWake strand s
  | .waitaHostPoll strand => Sys2Proof.Machine.execWaitaHostPoll strand s
  | .waitTimeout strand => Sys2Proof.Machine.execWaitTimeout strand s
  | .bars n => Sys2Proof.Machine.execBars n s
  | .bara n => Sys2Proof.Machine.execBara n s
  | .barw n => Sys2Proof.Machine.execBarw n s
  | .barrierWake strand => Sys2Proof.Machine.execBarrierWake strand s
  | .xcopy b a d => Sys2Proof.Machine.execXcopy b a d s
  | .xgather b a d => Sys2Proof.Machine.execXgather b a d s
  | .xpool b a d => Sys2Proof.Machine.execXpool b a d s
  | .xexpand b a d => Sys2Proof.Machine.execXexpand b a d s
  | .xcoll b a d => Sys2Proof.Machine.execXcoll b a d s
  | .xcancel a d => Sys2Proof.Machine.execXcancel a d s
  | .xquery a d => Sys2Proof.Machine.execXquery a d s
  | .xswap b a d => Sys2Proof.Machine.execXswap b a d s
  | .xmig b a d => Sys2Proof.Machine.execXmig b a d s
  | .xseal b a d => Sys2Proof.Machine.execXseal b a d s
  | .xeQueueRoom strand => Sys2Proof.Machine.execXeQueueRoom strand s
  | .engineCommandStart engine blocks => Sys2Proof.Machine.execEngineCommandStart engine blocks s
  | .engineCommandEnd engine => Sys2Proof.Machine.execEngineCommandEnd engine s
  | .collectiveRingStep ticket => Sys2Proof.Machine.execCollectiveRingStep ticket s
  | .collectiveAbort ticket => Sys2Proof.Machine.execCollectiveAbort ticket s
  | .ticketExpiry ticket => Sys2Proof.Machine.execTicketExpiry ticket s
  | .migrationFlip ticket => Sys2Proof.Machine.execMigrationFlip ticket s
  | .own name frame size => Sys2Proof.Machine.execOwn name frame size s
  | .retarget name owner => Sys2Proof.Machine.execRetarget name owner s
  | .owner name owner source => Sys2Proof.Machine.execOwner name owner source s
  | .ownerAck name package => Sys2Proof.Machine.execOwnerAck name package s
  | .stubTimeout name => Sys2Proof.Machine.execStubTimeout name s
  | .peerRequest source seq addr asks forwarded mark => Sys2Proof.Machine.execPeerRequest source seq addr asks forwarded mark s
  | .redirect name owner => Sys2Proof.Machine.execRedirect name owner s
  | .peerRequestTimeout request => Sys2Proof.Machine.execPeerRequestTimeout request s
  | .peerRetryResend request => Sys2Proof.Machine.execPeerRetryResend request s
  | .counterAdvance index measurement => Sys2Proof.Machine.execCounterAdvance index measurement s
  | .leaseRequest index restorer nonce => Sys2Proof.Machine.execLeaseRequest index restorer nonce s
  | .consume index restorer => Sys2Proof.Machine.execConsume index restorer s
  | .leaseExpiry index => Sys2Proof.Machine.execLeaseExpiry index s
  | .raise a d => Sys2Proof.Machine.execRaise a d s
  | .qpush b a d => Sys2Proof.Machine.execQpush b a d s
  | .qpushRoom strand => Sys2Proof.Machine.execQpushRoom strand s
  | .qpushCandidateMark strand => Sys2Proof.Machine.execQpushCandidateMark strand s
  | .qpop a d => Sys2Proof.Machine.execQpop a d s
  | .exit => Sys2Proof.Machine.execExit s
  | .yield => Sys2Proof.Machine.execYield s
  | .stgdone => Sys2Proof.Machine.execStgdone s
  | .raisingEnd rid => Sys2Proof.Machine.execRaisingEnd rid s
  | .tlbinv b a d => Sys2Proof.Machine.execTlbinv b a d s
  | .tlbinva b a d => Sys2Proof.Machine.execTlbinva b a d s
  | .tlbsync => Sys2Proof.Machine.execTlbsync s
  | .ctxsave b a d => Sys2Proof.Machine.execCtxsave b a d s
  | .ctxrest b a d => Sys2Proof.Machine.execCtxrest b a d s
  | .slogrp d => Sys2Proof.Machine.execSlogrp d s
  | .slogdrop b a d => Sys2Proof.Machine.execSlogdrop b a d s
  | .pgpin a d => Sys2Proof.Machine.execPgpin a d s
  | .pgunpin a d => Sys2Proof.Machine.execPgunpin a d s
  | .stubq a d => Sys2Proof.Machine.execStubq a d s
  | .convoyIssue strand => Sys2Proof.Machine.execConvoyIssue strand s
  | .elementGroupCommit strand => Sys2Proof.Machine.execElementGroupCommit strand s
  | .trapEntry strand cause xval => Sys2Proof.Machine.execTrapEntry strand cause xval s
  | .slog strand => Sys2Proof.Machine.execSlog strand s
  | .s2FaultHeartwood strand resolved => Sys2Proof.Machine.execS2FaultHeartwood strand resolved s
  | .wfiWake strand => Sys2Proof.Machine.execWfiWake strand s
  | .launchSlotWrite vf slot offset bytes => Sys2Proof.Machine.execLaunchSlotWrite vf slot offset bytes s
  | .placeBent bent bays => Sys2Proof.Machine.execPlaceBent bent bays s
  | .bentFirstIssue bent => Sys2Proof.Machine.execBentFirstIssue bent s
  | .createInstance rid stage => Sys2Proof.Machine.execCreateInstance rid stage s
  | .priorityAging bent => Sys2Proof.Machine.execPriorityAging bent s
  | .stageScoring => Sys2Proof.Machine.execStageScoring s
  | .preemption bent => Sys2Proof.Machine.execPreemption bent s
  | .preemptionSaved bent => Sys2Proof.Machine.execPreemptionSaved bent s
  | .arbiterGrant grants => Sys2Proof.Machine.execArbiterGrant grants s
  | .baysplitWrite bay value => Sys2Proof.Machine.execBaysplitWrite bay value s
  | .registerWrite addr value => Sys2Proof.Machine.execRegisterWrite addr value s
  | .heartwoodCsrWrite bay csr value => Sys2Proof.Machine.execHeartwoodCsrWrite bay csr value s
  | .rsgoWrite => Sys2Proof.Machine.execRsgoWrite s
  | .resyncComplete => Sys2Proof.Machine.execResyncComplete s
  | .hostPostedWrite port addr bytes => Sys2Proof.Machine.execHostPostedWrite port addr bytes s
  | .hostRead addr bytes => Sys2Proof.Machine.execHostRead addr bytes s
  | .functionLevelReset vf => Sys2Proof.Machine.execFunctionLevelReset vf s
  | .packageReset => Sys2Proof.Machine.execPackageReset s
  | .powerOnReset => Sys2Proof.Machine.execPowerOnReset s
  | .frzN => Sys2Proof.Machine.execFrzN s
  | .plumbFreeze => Sys2Proof.Machine.execPlumbFreeze s
  | .plumbReadout addr bytes => Sys2Proof.Machine.execPlumbReadout addr bytes s
  | .plumbBudget watts => Sys2Proof.Machine.execPlumbBudget watts s
  | .correctableError bay => Sys2Proof.Machine.execCorrectableError bay s
  | .uncorrectableError addr => Sys2Proof.Machine.execUncorrectableError addr s
  | .scrub => Sys2Proof.Machine.execScrub s
  | .accessPerformed strand position scope => Sys2Proof.Machine.execAccessPerformed strand position scope s
  | .hostAtomicop op w64 addr operand compare => Sys2Proof.Machine.execHostAtomicop op w64 addr operand compare s
  | .powerLoss => Sys2Proof.Machine.execPowerLoss s
  | .domainFormation package members => Sys2Proof.Machine.execDomainFormation package members s
  | .counterAllocation index measurement => Sys2Proof.Machine.execCounterAllocation index measurement s
  | .virtualFunctionMapping vf wings runtime asid ptbase vmid s2root => Sys2Proof.Machine.execVirtualFunctionMapping vf wings runtime asid ptbase vmid s2root s

end Sys2Proof.Machine
end

