-- ==== Sys2Proof/Machine/Run.lean ====
section
/-! DEFINITION. What a step of the package does (R9, R23, R29, R431, R433): the next event of the agenda, or the turn of a
strand or of a unit that acts on its own; and the placing of one instruction for the host's question. -/

namespace Sys2Proof.Machine

open Sys2Proof.Config

/-! ### A strand's turn -/

/-- Runs the words fetched at a strand's pc: the decoded instruction, or a convoy of several (R29, R39, R54). -/
noncomputable def runWords (words : List Nat) (s : State) : Result :=
  match words with
  | [] => .fault .noStrand
  | [w] =>
    match decodeWord w with
    | .ok i => exec i s
    | .error e => rejectWord e w s
  | ws => runConvoy ws (ws.map memberOfWord) s

/-! ### Held reads -/

/-- Whether a word is a read that is held (R71) and keeps no order with the vector stream: an uncached load, or an AMO that
neither acquires nor releases (R85, R283, R312, R314). -/
def heldRead (w : Nat) : Bool :=
  let c := w % 128
  (c == 0x74 && bits w 30 2 == 0) || (0x14 ≤ c && c ≤ 0x1A && bits w 30 2 == 3)

/-- What stands at a strand's pc, with the words of the frame of a REPF. -/
def passingWords : M (List Nat × List Nat) := do
  let ws ← fetchIssue
  let w := ws.headD 0
  if w % 128 == 0x3E then
    let f ← headOfWord w
    return (ws, ws ++ f.words.map (·.word))
  else return (ws, ws)

/-- Whether an instruction may be performed before a held read of s register `d` that is older: it is of the vector stream, or only
computes and decides where to go (R71); and it names no `d`, whose readers wait for it. -/
def mayPassRead (d : Nat) (words : List Nat) : Bool :=
  let c := words.headD 0 % 128
  (d == 0 || words.all fun w => !(readsS w).contains d && writesS w != d) &&
    (vectorClass (words.headD 0) || (1 ≤ c && c ≤ 0x13) || (0x1F ≤ c && c ≤ 0x21) || (0x30 ≤ c && c ≤ 0x3E))

/-- Whether a strand's instruction has completed: it waits for nothing, has nothing in progress and has not trapped. -/
def ranOn (before after : Strand) (s : State) : Bool :=
  after.wait == .none && after.inflight.isNone && !after.exited && !trappedFrom before after &&
    !((s.bents[after.bent]?).any fun b => b.halted)

/-- Up to `n` instructions from a strand's pc on that may be performed before an older held read of s register `d`; one that does
not complete ends them, without an effect. -/
noncomputable def passRead (d : Nat) : Nat → State → State
  | 0, s => s
  | n + 1, s =>
    match strandOf s, passingWords s with
    | some st, .ok (ws, all) s1 =>
      if !mayPassRead d all || issueFault st ws s1 || st.blocks.any (fun bl => !bl.badRegs.isEmpty) then s
      else
        match runWords ws s1 with
        | .next s2 => if (strandOf s2).any fun st2 => ranOn st st2 s2 then passRead d n s2 else { s with fresh := s2.fresh }
        | _ => s
    | _, _ => s

/-- Whether something stands behind a held read that may be performed before it. -/
noncomputable def hasPassing (d : Nat) (s : State) : Bool :=
  match strandOf s, passingWords s with
  | some st, .ok (ws, all) s1 => mayPassRead d all && !issueFault st ws s1
  | _, _ => false

/-- A strand at another pc. -/
def atPc (pc : Word) (s : State) : State :=
  match strandOf s with
  | some st => putStrand s { st with r := { st.r with pc := pc } }
  | none => s

/-- A held read: it may be performed after instructions of the vector stream that are younger, and so after their stores to its
bytes (R71, R85, R132, R312): how many of those behind it are performed first is a free choice, and they are performed first
only if it completes without a trap, so that a trap leaves the strand as in program order (R71). DEDUCED (log entry 9). -/
noncomputable def runHeld (w : Nat) (s : State) : Result :=
  match strandOf s with
  | none => .fault .noStrand
  | some st =>
    let d := bits w 7 6
    if !hasPassing d (atPc (st.r.pc + 4) s) then runWords [w] s
    else
      let s1 := passRead d (Config.free s.fresh) (atPc (st.r.pc + 4) { s with fresh := s.fresh + 1 })
      match strandOf s1 with
      | none => .fault .noStrand
      | some st1 =>
        match runWords [w] (putStrand s1 { st1 with r := { st1.r with pc := st.r.pc, s := st.r.s } }) with
        | .next s2 =>
          match strandOf s2 with
          | none => .fault .noStrand
          | some st2 =>
            if ranOn st st2 s2 then
              let value := regRead st2.r d
              .next (putStrand s2 { st2 with r := regWrite { st2.r with pc := st1.r.pc, s := st1.r.s } d value })
            else runWords [w] { s with fresh := s2.fresh }
        | _ => runWords [w] { s with fresh := s1.fresh }

/-- Runs what stands at a strand's pc, a held read with what may be performed before it. -/
noncomputable def runIssued (words : List Nat) (s : State) : Result :=
  match words with
  | [w] => if heldRead w then runHeld w s else runWords [w] s
  | ws => runWords ws s

/-! ### A strand's step -/

/-- What the words at a strand's pc consume (R435): an s register raises its ECCUC at once, a word of the other registers is
found with its element group. -/
def consumed (words : List Nat) : M (Option (Nat × Nat)) := do
  consumeScalars words
  if words.any vectorClass then convoyDamage words else return none

/-- The turn of the strand `State.cur`: the pending SLOG event if it may be taken (R373), else the fetch, the checks at issue
(R54), the registers the words consume (R435), and what stands there. -/
noncomputable def runStrand (s : State) : Result :=
  match strandOf s with
  | none => .fault .noStrand
  | some st =>
    if slogDue st then takeSlog s
    else
      match (do
        let ws ← fetchIssue
        let s ← get
        let hit ← if issueFault st ws s then pure none else consumed ws
        return (ws, hit) : M (List Nat × Option (Nat × Nat))) s with
      | .error x s' => stopped x s'
      | .ok (ws, some (g, code)) s' => unasked s' st (damagedAt ws g code s')
      | .ok (ws, none) s' => unasked s' st (healed ws st (runIssued ws s'))

/-! ### Turns -/

/-- What may act next by itself. -/
inductive Turn where
  | strand (k : Nat)
  /-- the first issue of a placed bent (R355) -/
  | issue (bent : Nat)
  /-- an engine with a command -/
  | engine (e : Nat)
  /-- a raising that may end (R26, R360) -/
  | raising (rid : Nat)
  /-- a request to a peer or the host that is not answered (R411) -/
  | request (n : Nat)
  /-- a committed packet whose stage table is no longer held (R352) -/
  | admission (x : Admission)
  /-- a raising's end whose completion word is no longer held (R352) -/
  | ending (e : Ending)
  deriving DecidableEq, Repr

/-- Whether nothing of a raising is left to do (R26, R340, R360). -/
def raisingDone (s : State) (r : Raising) : Bool :=
  !r.ended && (r.aborted || r.stages.all (·.complete)) &&
    !s.commands.any fun c => c.rid == r.rid && (c.state == .queued || c.state == .running)

/-- Everything that may act next (R9, R23). DESIGN CHOICE (log entry 6). -/
def turns (s : State) : List Turn :=
  (s.strands.zipIdx.filterMap fun (st, k) => if mayIssue s st then some (Turn.strand k) else none) ++
  (s.bents.zipIdx.filterMap fun (b, k) => if b.state == .resident && !b.started then some (Turn.issue k) else none) ++
  ((List.range 32).filterMap fun e =>
    if (runningOn s e).isSome || (nextQueued s e).isSome then some (Turn.engine e) else none) ++
  (s.raisings.filterMap fun r => if raisingDone s r then some (Turn.raising r.rid) else none) ++
  ((List.range s.outReqs.length).filterMap fun n => if (openRequest s n).isSome then some (Turn.request n) else none) ++
  (s.admissions.filterMap fun x => if admissionReady s x then some (Turn.admission x) else none) ++
  s.endings.filterMap fun e => if endingReady s e then some (Turn.ending e) else none

/-- An engine's turn: it starts a command, or does one unit of the one it runs, or all that is left: a free choice.
DESIGN CHOICE (log entry 6). -/
def runEngine (e : Nat) (s : State) : Result :=
  match runningOn s e with
  | none => execEngineCommandStart e 0 s
  | some _ =>
    match freeBit s with
    | .ok true s' => execEngineCommandEnd e s'
    | .ok false s' => execEngineCommandStart e 1 s'
    | .error _ _ => .fault .noSuchPart

/-- A request's turn: it fails once more, or, once it has failed, goes out again: a free choice. DESIGN CHOICE (log entry 6). -/
def runRequest (n : Nat) (s : State) : Result :=
  match freeBit s with
  | .ok again s' =>
    if again && (openRequest s n).any (mayResend s n) then execPeerRetryResend n s' else execPeerRequestTimeout n s'
  | .error _ _ => .fault .noSuchPart

/-- One turn. -/
noncomputable def runTurn (s : State) : Turn → Result
  | .strand k => runStrand { s with cur := k }
  | .issue b => execBentFirstIssue b s
  | .engine e => runEngine e s
  | .raising rid => execRaisingEnd rid s
  | .request n => runRequest n s
  | .admission x => runEvent (finishAdmission x) s
  | .ending e => runEvent (finishEnding e) s

/-- The next turn: the only one, or a free choice among several (R23); with none, time passes.
DESIGN CHOICE (log entries 5, 6). DEDUCED (log entry 54). -/
noncomputable def runNext (s : State) : Result :=
  match turns s with
  | [] => runEvent tick s
  | [t] => runTurn s t
  | ts => runTurn { s with fresh := s.fresh + 1 } (ts.getD (Config.free s.fresh % ts.length) (.strand s.cur))

/-! ### Events -/

/-- Whether a step is an event of the opcode table, not an instruction of a strand. -/
def isEvent (i : Instr) : Bool := (encodeWord i).isNone

/-- What a frozen package does with an event (R431, R432): resets, freezes, the readout and Plumb's budget act, and configuration
requests of the host are served; its memory requests are answered Unsupported Request, and messages of other packages go
unanswered, so neither changes anything. What its own units would do does not happen. DEDUCED (log entry 49). -/
def whileFrozen (i : Instr) (s : State) : Result :=
  match i with
  | .packageReset => exec i s
  | .powerOnReset => exec i s
  | .powerLoss => exec i s
  | .frzN => exec i s
  | .plumbFreeze => exec i s
  | .plumbReadout _ _ => exec i s
  | .plumbBudget _ => exec i s
  | .functionLevelReset _ => exec i s
  | .baysplitWrite _ _ => .next s
  | .hostPostedWrite _ _ _ => .next s
  | .hostRead _ _ => .next s
  | .hostAtomicop _ _ _ _ _ => .next s
  | .launchSlotWrite _ _ _ _ => .next s
  | .registerWrite _ _ => .next s
  | .rsgoWrite => .next s
  | .peerRequest _ _ _ _ _ _ => .next s
  | .own _ _ _ => .next s
  | .owner _ _ _ => .next s
  | .ownerAck _ _ => .next s
  | .redirect _ _ => .next s
  | .retarget _ _ => .next s
  | .counterAdvance _ _ => .next s
  | .leaseRequest _ _ _ => .next s
  | .consume _ _ => .next s
  | _ => .fault .frozen

/-- An event of the agenda: one that names no part the package has does not happen. DESIGN CHOICE (log entry 6). -/
def runAgenda (i : Instr) (s : State) : Result :=
  if !isEvent i || !i.eventOk then .fault .noSuchPart
  else if !s.powered then (if i = .powerOnReset then exec i s else .fault .unpowered)
  else if s.frozen then whileFrozen i s
  else exec i s

/-- One step of the package. DESIGN CHOICE (log entry 6). DEDUCED (log entry 49). -/
noncomputable def stepOf (s : State) : Result :=
  match s.agenda with
  | i :: t => runAgenda i { s with agenda := t }
  | [] => if !s.powered then .fault .unpowered else if s.frozen then .fault .frozen else runNext s

/-! ### One instruction placed for execution -/

/-- The virtual address at which `placedState` puts its instruction: the last word of a quad, so that it is a convoy by
itself. -/
abbrev placedPc : Nat := 0x4000000C

/-- The physical address of that instruction. -/
abbrev placedAt : Nat := 0x2000C

/-- Page tables that map 4 KiB at 0x4000_0000 to frame 0x2_0000, for fetches and loads at runtime level (R383). -/
def placedTables : List (Nat × Nat) :=
  [(0x10000, 0x11001), (0x11008, 0x12001), (0x12000, 0x13001), (0x13000, 0x2004B)]

/-- A strand on bay 0 before its first instruction, at runtime level (R355). DESIGN CHOICE (log entry 5). -/
def placedStrand : Strand :=
  let v : Vf := { num := 0, wings := [0], runtime := true, asid := 0, ptbase := 0x10000, vmid := 0, s2root := 0 }
  let r := newRegs { sid := 0, nstr := 1, n := 0, sp := 0, ptr := 0, args := [] } (BitVec.ofNat 64 placedPc) v 0 0 0 0
  newStrand 0 0 r [newBlock 0 0 (placeWord v 0) 0]

/-- The bent of that strand. -/
def placedBent : Bent := { newBent 0 0 0 [] with state := .resident, strands := [0], started := true }

/-- A state in which a strand stands at a word given by its bytes, and nothing else is to act: what a launched raising of
one strand comes to. DESIGN CHOICE (log entry 5). -/
def placedState (s : State) (word : List Byte) : State :=
  let mem := placedTables.foldl (fun m e => memWriteList m e.1 (leBytes 8 e.2)) (memClear (memClear s.mem 0x10000 0x4000) 0x20000 0x1000)
  { s with
    mem := memWriteList mem placedAt word, poison := [], bays := s.bays.setIfInBounds 0 State.resetBay,
    dirty := [], written := [], outReqs := [],
    strands := [placedStrand], bents := [placedBent], raisings := [], admissions := [], endings := [], commands := [],
    walkers := [], pins := [], swaps := [],
    adoption := [], directory := [], sealedWings := [], prepared := [], cur := 0, agenda := [], frozen := false, powered := true }

end Sys2Proof.Machine
end

