-- ==== Sys2Proof/Machine/Step.lean ====
section
/-! DEFINITION. One step of the machine, and the state with one instruction placed where the step fetches it. -/

namespace Sys2Proof.Machine

/-- One step (R9, R23): see `stepOf`. -/
noncomputable def step (s : State) : Host.Outcome State Fault Refusal := Sys2Proof.Machine.stepOf s

/-- `s` with the instruction whose bits are `w` placed so that `step` fetches and runs it; every instruction is one 32-bit
word (R29), so the bits above `nbits` are zero. DESIGN CHOICE (log entry 5). -/
def State.withFetchWord (s : State) (nbits w : Nat) : State :=
  Sys2Proof.Machine.placedState s (bytesOfWord (w % 2 ^ nbits % 2 ^ 32))

end Sys2Proof.Machine
end

