-- ==== Sys2Proof/Safety.lean ====
section
/-! DEFINITION. The terms statements are made in: a strand that executes, completion, what stays, and the invariants of the
package. -/

namespace Sys2Proof.Safety

open Sys2Proof.Machine Sys2Proof.Config

/-- The strand that executes at a state (R23). -/
def Runs (s : State) (st : Strand) : Prop := strandOf s = some st

/-- An instruction or event completes with a next state. -/
def Completes (i : Instr) (s : State) : Prop := ∃ t, exec i s = .next t

/-- The memory is in its canonical form. -/
def MemOk (s : State) : Prop := memWf s.mem = true

/-- The units of every slack region are its pool's and its holders', in all 2^20 (R289, R291). -/
def SlackOk (s : State) : Prop :=
  ∀ r ∈ s.regions, (r.holders.map (·.bay)).Nodup ∧ r.pool + (r.holders.map unitsOf).sum = slackUnits

/-- No shim line withholds more than its holder's share (R291). -/
def SlackBound (s : State) : Prop :=
  ∀ h ∈ s.shims, ∀ r, s.regions[h.region]? = some r →
    ∃ x ∈ r.holders, x.bay = h.bay ∧ h.mag.toNat ≤ unitsToFp r.budget.toNat x.share

/-- The budget never exceeds 3,600 W (R429). -/
def BudgetOk (s : State) : Prop := s.budget ≤ 3600

/-! ### Memory accesses -/

/-- An access passes the checks of R84 and R199: the pages it lies in, and the state after the walk of the page tables
(R382 to R390), with the A and D bits set. -/
def Allowed (s : State) (b va n : Nat) (acc : Acc) (ps : List Xl) (s1 : State) : Prop :=
  checkAccess b va n acc s = .ok (.ok ps) s1

/-- The key of byte `i` of an access in the memory of the package. -/
def keyOf (s : State) (ps : List Xl) (va i : Nat) : Nat := steer s (byteAddr ps va i)

/-- The little-endian value of `n` bytes of memory that an access reads. -/
def valueAt (s : State) (ps : List Xl) (va n : Nat) : Nat :=
  leValue ((List.range n).map fun i => memRead s.mem (keyOf s ps va i))

/-- Memory answers an access with what it holds: nothing is logged, no write of the strand may be missed and no bay holds an
older value, no word is poisoned, no slack addition is withheld, no tier is pooled, and the address is no device register. -/
def Quiet (s : State) (st : Strand) (ps : List Xl) (va : Nat) : Prop :=
  st.blocks ≠ [] ∧ slogCount st = 0 ∧ st.pending = [] ∧ s.poison = [] ∧ s.part.pooled = [] ∧
    ((∀ p ∈ ps, p.slk = false) ∨ s.shims = []) ∧
    (∀ i, i < 128 → isDevice s (byteAddr ps va i) = false) ∧
    ∀ n, (bayOf s n).copies = [] ∧ (bayOf s n).level = []

/-- A block without its vector registers, lane generators and counters of outstanding writes. -/
def still (bl : Block) : Block :=
  { bl with v := 0, gens := Vector.replicate 64 0, outst := Vector.replicate 5 0, fifo := [], strongOut := [], unreleased := [] }

/-- `s'` differs from `s` only in what the vector accesses of the executing strand change: bytes of memory at keys of `K`,
what caches hold, dirty bytes at those keys alone, and the strand's vector registers, generators, slots, held multiplies,
write counters, flags and pending writes. -/
def Alike (K : Nat → Prop) (s s' : State) : Prop :=
  (∀ k, ¬ K k → memRead s'.mem k = memRead s.mem k) ∧
  (∀ n, { bayOf s' n with copies := [], level := [] } = { bayOf s n with copies := [], level := [] }) ∧
  (∀ r ∈ s'.dirty, r ∈ s.dirty ∨ K r.key) ∧
  s' = { s with mem := s'.mem, bays := s'.bays, dirty := s'.dirty, written := s'.written, strands := s'.strands, fresh := s'.fresh } ∧
  ∃ st st', Runs s st ∧ s'.strands = s.strands.set s.cur st' ∧
    (st'.blocks.map fun bl => { still bl with slots := Vector.replicate 16 (emptySlot false) }) =
      (st.blocks.map fun bl => { still bl with slots := Vector.replicate 16 (emptySlot false) }) ∧
    st' = { st with r := { st.r with mst := st'.r.mst }, blocks := st'.blocks, pending := st'.pending,
                    strongNow := st'.strongNow, multiplies := st'.multiplies }

/-- An access passes its checks and leaves the machine as it is, now and in every state in which the instruction may meet
it: its translation is held, its pages are marked, and no store at a key of `K` touches a page table it walks. -/
def Steady (K : Nat → Prop) (s : State) (b va n : Nat) (acc : Acc) (ps : List Xl) : Prop :=
  ∀ s', Alike K s s' → checkAccess b va n acc s' = .ok (.ok ps) s'

/-- A block without its counters of outstanding writes (R318, R319). -/
def uncounted (bl : Block) : Block := { bl with outst := Vector.replicate 5 0, fifo := [], strongOut := [], unreleased := [] }

/-- What a store of `n` bytes of `v` does to the machine: each byte stands at its key, every other byte of memory and every
register stays; caches, write counters and the strand's pending writes may change. -/
def Stored (s1 t : State) (ps : List Xl) (va n v : Nat) : Prop :=
  (∀ i, i < n → (∀ j, j < n → keyOf s1 ps va j = keyOf s1 ps va i → j = i) →
    memRead t.mem (keyOf s1 ps va i) = BitVec.ofNat 8 (v / 256 ^ i)) ∧
  (∀ k, (∀ i, i < n → k ≠ keyOf s1 ps va i) → memRead t.mem k = memRead s1.mem k) ∧
  t = { s1 with mem := t.mem, bays := t.bays, dirty := t.dirty, written := t.written, strands := t.strands, fresh := t.fresh } ∧
  ∀ k, k ≠ s1.cur → t.strands[k]? = s1.strands[k]?

/-- The executing strand after a store: at `pc`, its registers as they were. -/
def AfterStore (st1 st' : Strand) (pc : Word) : Prop :=
  st' = { retired st1 pc with blocks := st'.blocks, pending := st'.pending } ∧
    st'.blocks.map uncounted = st1.blocks.map uncounted

/-! ### Traps -/

/-- A trap is not a double trap: the strand is in no handler and has one (R372). -/
def HasHandler (st : Strand) : Prop := xstatIn st.r.xstat = false ∧ st.r.xvec ≠ 0

/-- The strand after trap entry (R371). -/
def entered (st : Strand) (t : Trap) : Strand := { st with r := trapRegs st.r t, wait := .none, inflight := none }

/-! ### Vector instructions -/

/-- The strand can issue a vector instruction from its first element group: a legal VT (R35, R109), VSTART zero (R118, R119)
and no convoy in progress, nor any mark that one leaves while it runs. -/
def VectorReady (st : Strand) : Prop :=
  vtLegal st.r.vt.toNat = true ∧ st.r.vstart = 0 ∧ st.inflight = none ∧ st.strongNow = false ∧ ∀ w ∈ st.pending, w.fresh = none

/-- The strand after a vector instruction that changes only its blocks and MST. -/
def vectorDone (st : Strand) (mst : Word) (bls : List Block) : Strand :=
  { st with r := { st.r with pc := st.r.pc + 4, vstart := 0, mst := mst }, wait := .none, waited := 0, inflight := none,
            blocks := bls }

/-- What R111 and R112 make of local element `j` of position `b`: `act` where it is active, else `zero` or `old`. -/
def outcome {α : Type} (r : Regs) (m b j : Nat) (bl : Block) (act zero old : α) : α :=
  if r.vl = 0 then old
  else if b * vlbOf r.vt + j < r.vl then (if maskOn bl m j then act else if vtMz r.vt then zero else old)
  else if vtTz r.vt then zero else old

/-- Local element `j` of position `b` is active (R111). -/
def Acts (st : Strand) (m b j : Nat) (bl : Block) : Prop :=
  st.blocks[b]? = some bl ∧ j < vlbOf st.r.vt ∧ b * vlbOf st.r.vt + j < st.r.vl ∧ maskOn bl m j = true

/-- The blocks after an instruction that writes elements of width `w` of the group of `g` registers at `d`: each element by
R111 with the value `val` gives, every other register as it was. Lane generators are spoken of by `GensKept`. -/
def ElemsWritten (st : Strand) (bls : List Block) (w d g m : Nat) (val : Nat → Block → Nat → Nat) : Prop :=
  bls.length = st.blocks.length ∧ ∀ b bl, st.blocks[b]? = some bl → ∃ bl', bls[b]? = some bl' ∧
    bl' = { bl with v := bl'.v, gens := bl'.gens } ∧
    (∀ j, j < vlbOf st.r.vt → elemRead bl' w d j = outcome st.r m b j bl (val b bl j) 0 (elemRead bl w d j)) ∧
    ∀ n, n < 32 → n < d ∨ d + g ≤ n → getField bl'.v (n * vregBits) vregBits = getField bl.v (n * vregBits) vregBits

/-- The blocks after an instruction that writes bits of mask register `d` by R111. -/
def BitsWritten (st : Strand) (bls : List Block) (d m : Nat) (val : Nat → Block → Nat → Bool) : Prop :=
  bls.length = st.blocks.length ∧ ∀ b bl, st.blocks[b]? = some bl → ∃ bl', bls[b]? = some bl' ∧
    bl' = { bl with m := bl'.m } ∧
    (∀ j, j < vlbOf st.r.vt → maskBit bl' d j = outcome st.r m b j bl (val b bl j) false (maskBit bl d j)) ∧
    (∀ j, vlbOf st.r.vt ≤ j → j < maskBits → maskBit bl' d j = maskBit bl d j) ∧
    ∀ n j, n < 8 → n ≠ d → j < maskBits → maskBit bl' n j = maskBit bl n j

/-- No lane generator drew (R158). -/
def GensKept (st : Strand) (bls : List Block) : Prop := bls.map (·.gens) = st.blocks.map (·.gens)

/-- MST after an instruction whose active elements gave the results that `P` picks: it has taken the flags and the NaN
cause of each of them, one after another (R96, R156; what taking one does is stated of its own). -/
def FlagsRaised (old new : Word) (P : FpRes → Prop) : Prop :=
  ∃ l : List FpRes, (∀ x, x ∈ l ↔ P x) ∧ new = l.foldl (fun m x => mstWith m x.flags x.nanc) old

/-- How many active local elements of a block up to `j` take draws from lane `j mod 64` (R158). -/
def drawsUpTo (st : Strand) (m b : Nat) (bl : Block) (l j : Nat) : Nat :=
  ((List.range (j + 1)).filter fun k =>
    k % 64 == l && decide (k < vlbOf st.r.vt) && decide (b * vlbOf st.r.vt + k < st.r.vl) && maskOn bl m k).length

/-- The draw that active local element `j` takes from its lane: its generator advanced once for it and once for each active
element of the lane before it (R158). -/
def drawOf (st : Strand) (m b : Nat) (bl : Block) (j : Nat) : Nat :=
  (Nat.repeat drawNext (drawsUpTo st m b bl (j % 64) j) (bl.gens.getD (j % 64) 0)).toNat

/-- Every lane generator has advanced once for each active element of its lane (R158). -/
def GensDrawn (st : Strand) (bls : List Block) (m : Nat) : Prop :=
  ∀ b bl bl', st.blocks[b]? = some bl → bls[b]? = some bl' → ∀ l, l < 64 →
    bl'.gens.getD l 0 = Nat.repeat drawNext (drawsUpTo st m b bl l (vlbOf st.r.vt)) (bl.gens.getD l 0)

/-- A value read as a `w`-bit two's complement number. -/
def signed (w x : Nat) : Int := if x % 2 ^ w < 2 ^ (w - 1) then (x % 2 ^ w : Nat) else (x % 2 ^ w : Nat) - (2 ^ w : Nat)

/-- An integer taken to `w` bits. -/
def wrap (w : Nat) (x : Int) : Nat := (x % (2 ^ w : Nat)).toNat

end Sys2Proof.Safety
end

