-- ==== Sys2Proof/Certificates/Slice0/Obligations.lean ====
section
/-! DEFINITION. The statements for the provers: one `def Obligations.<Name> : Prop` each, and before them the tables of
instruction forms they range over. A statement that gives the next state whole gives the frame too: whatever it does not
name is unchanged. -/

open Sys2Proof Sys2Proof.Config Sys2Proof.Machine Sys2Proof.Safety

namespace Sys2Proof.Forms

/-! ### Scalar forms -/

/-- SOP on two registers: what each writes to s[sd] from s[sa] and s[sb] (R73, R74). -/
def sop2 : List ((BitVec 6 → BitVec 6 → BitVec 6 → Instr) × (Word → Word → Word)) :=
  [(.add, fun a b => a + b), (.sub, fun a b => a - b), (.and, fun a b => a &&& b), (.or, fun a b => a ||| b),
   (.xor, fun a b => a ^^^ b), (.sll, fun a b => a <<< b.extractLsb' 0 6), (.srl, fun a b => a >>> b.extractLsb' 0 6),
   (.sra, fun a b => a.sshiftRight' (b.extractLsb' 0 6)), (.slt, fun a b => if a.toInt < b.toInt then 1 else 0),
   (.sltu, fun a b => if a.toNat < b.toNat then 1 else 0), (.min, fun a b => if a.toInt ≤ b.toInt then a else b),
   (.max, fun a b => if a.toInt ≤ b.toInt then b else a), (.minu, fun a b => if a.toNat ≤ b.toNat then a else b),
   (.maxu, fun a b => if a.toNat ≤ b.toNat then b else a), (.mul, fun a b => a * b),
   (.mulh, fun a b => (a.signExtend 128 * b.signExtend 128).extractLsb' 64 64),
   (.mulhu, fun a b => (a.setWidth 128 * b.setWidth 128).extractLsb' 64 64),
   (.div, fun a b => if b = 0 then BitVec.allOnes 64 else a.sdiv b),
   (.divu, fun a b => if b = 0 then BitVec.allOnes 64 else a / b),
   (.rem, fun a b => if b = 0 then a else a.srem b), (.remu, fun a b => if b = 0 then a else a % b)]

/-- SOP on one register (R73). -/
def sop1 : List ((BitVec 6 → BitVec 6 → Instr) × (Word → Word)) :=
  [(.clz, fun a => a.clz), (.ctz, fun a => a.ctz), (.popc, fun a => a.cpop)]

/-- The forms with a 13-bit immediate, by the sign-extended immediate (R76). -/
def immediate : List ((BitVec 13 → BitVec 6 → BitVec 6 → Instr) × (Word → Word → Word)) :=
  [(.addi, fun a i => a + i), (.andi, fun a i => a &&& i), (.ori, fun a i => a ||| i), (.xori, fun a i => a ^^^ i),
   (.slti, fun a i => if a.toInt < i.toInt then 1 else 0), (.sltiu, fun a i => if a.toNat < i.toNat then 1 else 0)]

/-- SHI (R77). -/
def shiftImm : List ((BitVec 6 → BitVec 6 → BitVec 6 → Instr) × (Word → BitVec 6 → Word)) :=
  [(.slli, fun a n => a <<< n), (.srli, fun a n => a >>> n), (.srai, fun a n => a.sshiftRight' n)]

/-- The conditional branches (R79). -/
def branch : List ((BitVec 13 → BitVec 6 → BitVec 6 → Instr) × (Word → Word → Prop)) :=
  [(.beq, fun a b => a = b), (.bne, fun a b => a ≠ b), (.blt, fun a b => a.toInt < b.toInt),
   (.bge, fun a b => b.toInt ≤ a.toInt), (.bltu, fun a b => a.toNat < b.toNat), (.bgeu, fun a b => b.toNat ≤ a.toNat)]

/-- The scalar loads: size in bytes and what they make of the little-endian value (R83). -/
def load : List ((BitVec 2 → BitVec 11 → BitVec 6 → BitVec 6 → Instr) × Nat × (Nat → Word)) :=
  [(.ldb, 1, fun v => (BitVec.ofNat 8 v).signExtend 64), (.ldh, 2, fun v => (BitVec.ofNat 16 v).signExtend 64),
   (.ldw, 4, fun v => (BitVec.ofNat 32 v).signExtend 64), (.ldd, 8, fun v => BitVec.ofNat 64 v),
   (.ldbu, 1, fun v => BitVec.ofNat 64 v), (.ldhu, 2, fun v => BitVec.ofNat 64 v), (.ldwu, 4, fun v => BitVec.ofNat 64 v)]

/-- The scalar stores and their sizes (R83). -/
def store : List ((BitVec 2 → BitVec 11 → BitVec 6 → BitVec 6 → Instr) × Nat) :=
  [(.stb, 1), (.sth, 2), (.stw, 4), (.std, 8)]

/-- Scalar floating point on two operands: the format and the operation on the operands and the rounding mode (R88). -/
def fop2 : List ((BitVec 6 → BitVec 6 → BitVec 6 → Instr) × Nat × (Nat → Nat → Nat → FpRes)) :=
  [(.faddD, 0, fun a b m => fpAdd 0 a b m 0), (.fsubD, 0, fun a b m => fpSub 0 a b m 0),
   (.fmulD, 0, fun a b m => fpMul 0 a b m 0), (.fdivD, 0, fun a b m => fpDiv 0 a b m 0),
   (.fminD, 0, fun a b _ => fpMinMax 0 a b false), (.fmaxD, 0, fun a b _ => fpMinMax 0 a b true),
   (.feqD, 0, fun a b _ => cmpRes (fpCompare 0 0 a b)), (.fltD, 0, fun a b _ => cmpRes (fpCompare 0 2 a b)),
   (.fleD, 0, fun a b _ => cmpRes (fpCompare 0 3 a b)),
   (.faddS, 1, fun a b m => fpAdd 1 a b m 0), (.fsubS, 1, fun a b m => fpSub 1 a b m 0),
   (.fmulS, 1, fun a b m => fpMul 1 a b m 0), (.fdivS, 1, fun a b m => fpDiv 1 a b m 0),
   (.fminS, 1, fun a b _ => fpMinMax 1 a b false), (.fmaxS, 1, fun a b _ => fpMinMax 1 a b true),
   (.feqS, 1, fun a b _ => cmpRes (fpCompare 1 0 a b)), (.fltS, 1, fun a b _ => cmpRes (fpCompare 1 2 a b)),
   (.fleS, 1, fun a b _ => cmpRes (fpCompare 1 3 a b))]

/-- Scalar floating point on one operand of a format (R88, R91). -/
def fop1 : List ((BitVec 6 → BitVec 6 → Instr) × Nat × (Nat → Nat → FpRes)) :=
  [(.fsqrtD, 0, fun a m => fpSqrt 0 a m 0), (.fsqrtS, 1, fun a m => fpSqrt 1 a m 0),
   (.fcvtLD, 0, fun a m => toLong 0 a m), (.fcvtLS, 1, fun a m => toLong 1 a m),
   (.fcvtSD, 0, fun a m => fpToFp 1 0 a m false 0), (.fcvtDS, 1, fun a m => fpToFp 0 1 a m false 0)]

/-- The number a decoded value stands for, 0 for an infinity or a NaN (R152). -/
noncomputable def valueOf : FpVal → ℝ
  | .fin n m e => (if n then -1 else 1) * (m : ℝ) * (2 : ℝ) ^ e
  | _ => 0

/-- Whether a code is a finite number of a format. -/
def FiniteCode (f x : Nat) : Prop := ∃ n m e, fpDecode f x = .fin n m e

/-- Code `x` is the number `v` rounded to a format under mode 0 to 4 of R157, against every finite number of the format. -/
def RoundsTo (f mode : Nat) (v : ℝ) (x : Nat) : Prop :=
  FiniteCode f x ∧ ∀ z, FiniteCode f z →
    let y := valueOf (fpDecode f x)
    let w := valueOf (fpDecode f z)
    match mode with
    | 0 => |y - v| ≤ |w - v| ∧ (|y - v| = |w - v| → w = y ∨ x % 2 = 0)
    | 1 => 0 ≤ y * v ∧ |y| ≤ |v| ∧ (|w| ≤ |v| → |w| ≤ |y|)
    | 2 => y ≤ v ∧ (w ≤ v → w ≤ y)
    | 3 => v ≤ y ∧ (v ≤ w → y ≤ w)
    | _ => |y - v| ≤ |w - v| ∧ (|y - v| = |w - v| → |w| ≤ |y|)

/-- An integer `r` is the number `v` rounded to an integer under mode 0 to 4 of R157. -/
def RoundsToInt (mode : Nat) (v : ℝ) (r : Int) : Prop :=
  ∀ z : Int,
    match mode with
    | 0 => |(r : ℝ) - v| ≤ |(z : ℝ) - v| ∧ (|(r : ℝ) - v| = |(z : ℝ) - v| → z = r ∨ r % 2 = 0)
    | 1 => 0 ≤ (r : ℝ) * v ∧ |(r : ℝ)| ≤ |v| ∧ (|(z : ℝ)| ≤ |v| → |z| ≤ |r|)
    | 2 => (r : ℝ) ≤ v ∧ ((z : ℝ) ≤ v → z ≤ r)
    | 3 => v ≤ r ∧ (v ≤ z → r ≤ z)
    | _ => |(r : ℝ) - v| ≤ |(z : ℝ) - v| ∧ (|(r : ℝ) - v| = |(z : ℝ) - v| → |z| ≤ |r|)

/-- A result is the number `v` rounded once: within the format's range the rounded number, with NX when it is not `v`; from
twice the largest power of two on an overflow, to the largest finite number in the directions towards zero, else to infinity
(R89, R157). -/
def Rounds (f mode : Nat) (v : ℝ) (r : FpRes) : Prop :=
  r.nanc = 0 ∧
  (|v| ≤ valueOf (fpDecode f (maxFinite f)) →
    RoundsTo f mode v r.bits ∧ (r.flags = 0 ∨ r.flags = 8 ∨ r.flags = 12) ∧ (r.flags = 0 ↔ valueOf (fpDecode f r.bits) = v)) ∧
  ((2 : ℝ) ^ (2 ^ (expBits f - 1)) ≤ |v| → r.flags = 10 ∧
    (0 < v → r.bits = if mode = 1 ∨ mode = 2 then maxFinite f else infCode f false) ∧
    (v < 0 → r.bits = (if mode = 1 ∨ mode = 3 then maxFinite f + 2 ^ (fmtWidth f - 1) else infCode f true)))

/-- The integer to floating-point conversions (R88). -/
def fromLong : List ((BitVec 6 → BitVec 6 → Instr) × Nat) := [(.fcvtDL, 0), (.fcvtSL, 1)]

/-- The fused multiply-adds: format and whether the product is negated (R92). -/
def fused : List ((BitVec 6 → BitVec 6 → BitVec 6 → BitVec 6 → Instr) × Nat × Bool) :=
  [(.fmad, 0, false), (.fnmad, 0, true), (.fmas, 1, false), (.fnmas, 1, true)]

/-- The four CSR instructions by their operation (R93); CREAD has no operand. -/
def csr (op : Nat) (c : BitVec 11) (a d : BitVec 6) : Instr :=
  match op with
  | 0 => .cxch c a d
  | 1 => .csetb c a d
  | 2 => .cclrb c a d
  | _ => .cread c d

/-- The CSRs a strand may write, at user level those below 0x100 (R95, R376). -/
def csrWritable : List Nat :=
  [0x002, 0x006, 0x007, 0x008, 0x009, 0x00A, 0x010, 0x011, 0x012, 0x013, 0x025, 0x100, 0x101, 0x102, 0x103, 0x104, 0x105,
   0x107, 0x108, 0x109, 0x10A, 0x10B, 0x10C]

/-- A value that places no reserved value in a field of a CSR, nor breaks the CSR's own rule (R93, R96, R97, R126, R223, R225,
R378). -/
def csrLegal (st : Strand) (n : Nat) (v : Word) : Prop :=
  (n = 0x007 → v.toNat / 2 ^ 16 % 16 ≤ 6) ∧ (n = 0x008 → v.toNat % 8 ≤ 5) ∧
    (n = 0x010 → v.toNat % 1024 ≤ 512 ∧ v.toNat / 1024 % 1024 ≤ 512) ∧
    (n = 0x011 → 2 ≤ v.toNat % 512 ∧ v.toNat % 512 ≤ 256 ∧ ∀ f ∈ st.fibres.toList, f.pairs.length ≤ v.toNat % 512) ∧
    (n = 0x103 → v.toNat / 2 ^ 10 % 8 ≤ 4) ∧ (n = 0x10B → st.spilled = 0)

/-- The values of the CSRs that are read-only (R16, R19, R35, R95, R362, R379). -/
def csrFixed (st : Strand) : List (Nat × Word) :=
  [(0x000, BitVec.ofNat 64 st.r.vl), (0x001, st.r.vt.setWidth 64), (0x003, 2048), (0x004, BitVec.ofNat 64 st.blocks.length),
   (0x018, st.r.qcnt), (0x020, st.r.sid), (0x021, st.r.bid), (0x022, st.r.stg), (0x023, st.r.rid), (0x024, st.r.nstr),
   (0x106, ((st.blocks.map (·.mplace)).headD 0) &&& 0x3FF03FF1F03)]

/-- The trap of an access of `n` bytes in one page that fails a row of R84 behind WATCH and MISAL: XVAL is its address; a failed
translation gives the page fault of its kind, or PERM, with the detail of R378; else PERM where nothing is to be reached, then
CMPVIEW, then REMOTE of a party that has not answered (R411). -/
def PageTrap (s : State) (st : Strand) (b va n : Nat) (acc : Acc) (c : Trap) : Prop :=
  c.xval = BitVec.ofNat 64 va ∧ c.async = false ∧
  (∀ f s2, translate (strandCtx st b) va acc s = .ok (.error f) s2 →
    c.cause = (if f.missing then (match acc with | .write => causeStorepf | .fetch => causeFetchpf | _ => causeLoadpf) else causePerm) ∧
      c.acc.toNat = (match acc with | .read => 0 | .write => 1 | .fetch => 2 | .atomic => 3) ∧ c.s2 = f.s2 ∧
      c.level = BitVec.ofNat 3 f.level) ∧
  ∀ p s2 st2, translate (strandCtx st b) va acc s = .ok (.ok p) s2 → Runs s2 st2 →
    c.acc = 0 ∧ c.s2 = false ∧ c.level = 0 ∧
      c.cause = if reachable s2 st2 b p.pa n acc then (if p.cmp then causeCmpview else causeRemote) else causePerm

/-- The strand as an access to pages begins: at a strongly ordered one the write of its stream that is still counted is performed
(R307). -/
def opened (st : Strand) (vector : Bool) (ps : List Xl) : Strand :=
  if ps.any (fun p => p.ord == 1) then { st with blocks := st.blocks.map (Block.strongDone vector) } else st

end Sys2Proof.Forms

/-! ### Encoding and the step -/

/-- Decoding the word of a well-formed instruction gives that instruction, and each word has 32 bits (R29 to R52). -/
def Obligations.DecodeOfEncode : Prop :=
  ∀ i : Instr, i.wellFormed = true → ∀ w, encodeWord i = some w →
    w < 2 ^ 32 ∧ decodeWord w = .ok i ∧ ∀ rest, decode (bytesOfWord w ++ rest) = .ok (i, rest)

/-- A word that decodes is the word of a well-formed instruction: no bit of a word goes unread (R45 to R52). -/
def Obligations.DecodedWordIsItsEncoding : Prop :=
  ∀ w, w < 2 ^ 32 → ∀ i, decodeWord w = .ok i → i.wellFormed = true ∧ encodeWord i = some w

/-- R75. -/
def Obligations.ZeroRegisterDiscardsWrites : Prop :=
  ∀ (r : Regs) (v : Word), regRead r 0 = 0 ∧ regWrite r 0 v = r ∧
    ∀ n, 0 < n → n < 64 → regRead (regWrite r n v) n = v ∧ (∀ k, k ≠ n → regRead (regWrite r n v) k = regRead r k) ∧
      regWrite r n v = { r with s := (regWrite r n v).s }

/-- R73, R74: every SOP function completes, whatever its operands, and writes its result to s[sd] and nothing else; SEL
leaves s[sd] when s[sa] is zero. -/
def Sys2Proof.Parts.SopResults : Prop :=
  ∀ s st, Runs s st → ∀ b a d : BitVec 6,
    (∀ f ∈ Forms.sop2,
      exec (f.1 b a d) s = .next (putStrand s
        (wrote st d.toNat (f.2 (regRead st.r a.toNat) (regRead st.r b.toNat)) (st.r.pc + 4)))) ∧
    (∀ f ∈ Forms.sop1,
      exec (f.1 a d) s = .next (putStrand s (wrote st d.toNat (f.2 (regRead st.r a.toNat)) (st.r.pc + 4)))) ∧
    exec (.sel b a d) s = .next (putStrand s (wrote st
      (if regRead st.r a.toNat = 0 then 0 else d.toNat) (regRead st.r b.toNat) (st.r.pc + 4)))

/-- R76 to R78. -/
def Sys2Proof.Parts.ImmediateResults : Prop :=
  ∀ s st, Runs s st → ∀ a d : BitVec 6,
    (∀ f ∈ Forms.immediate, ∀ i,
      exec (f.1 i a d) s = .next (putStrand s
        (wrote st d.toNat (f.2 (regRead st.r a.toNat) (i.signExtend 64)) (st.r.pc + 4)))) ∧
    (∀ f ∈ Forms.shiftImm, ∀ n,
      exec (f.1 n a d) s = .next (putStrand s (wrote st d.toNat (f.2 (regRead st.r a.toNat) n) (st.r.pc + 4)))) ∧
    ∀ i : BitVec 19,
      exec (.lui i d) s = .next (putStrand s
        (wrote st d.toNat (((i.setWidth 32) <<< 13).signExtend 64) (st.r.pc + 4))) ∧
      exec (.auipc i d) s = .next (putStrand s
        (wrote st d.toNat (st.r.pc + ((i.setWidth 32) <<< 13).signExtend 64) (st.r.pc + 4)))

/-- R79, R80: branches and jumps change the pc and, for JAL and JALR, s[sd]; JALR reads s[sa] before s[sd] is written. -/
def Sys2Proof.Parts.BranchesAndJumps : Prop :=
  ∀ s st, Runs s st → ∀ b a d : BitVec 6,
    (∀ f ∈ Forms.branch, ∀ i,
      (f.2 (regRead st.r a.toNat) (regRead st.r b.toNat) →
        exec (f.1 i b a) s = .next (putStrand s (retired st (st.r.pc + i.signExtend 64 * 4)))) ∧
      (¬ f.2 (regRead st.r a.toNat) (regRead st.r b.toNat) →
        exec (f.1 i b a) s = .next (putStrand s (retired st (st.r.pc + 4))))) ∧
    (∀ i, exec (.jal i d) s = .next (putStrand s
      (wrote st d.toNat (st.r.pc + 4) (st.r.pc + i.signExtend 64 * 4)))) ∧
    (∀ i, exec (.jalr i a d) s = .next (putStrand s
      (wrote st d.toNat (st.r.pc + 4) (regRead st.r a.toNat + i.signExtend 64))))

/-! ### Scalar memory accesses -/

/-- R83, R84: a scalar load whose access passes its checks writes the sign- or zero-extended little-endian value to s[sd],
and nothing else of the strand but that a strongly ordered write before it is performed (R307); with request type
self-invalidating (rq 2) its bay may keep a copy of the line (R186), and the home may have bytes of it written back (R188). -/
def Sys2Proof.Parts.ScalarLoadResults : Prop :=
  ∀ s st, Runs s st → ∀ f ∈ Forms.load, ∀ (rq : BitVec 2) (i : BitVec 11) (a d : BitVec 6),
    let va := (regRead st.r a.toNat + i.signExtend 64).toNat
    watchHit st.r va f.2.1 .read = none → va % f.2.1 = 0 → slogCount st = 0 →
    ∀ ps s1 st1, Allowed s 0 va f.2.1 .read ps s1 → Runs s1 st1 → Quiet s1 st1 ps va →
    ∃ t, exec (f.1 rq i a d) s = .next t ∧
      t = putStrand { s1 with bays := t.bays, dirty := t.dirty }
        (wrote (Forms.opened st1 false ps) d.toNat (f.2.2 (valueAt s1 ps va f.2.1)) (st.r.pc + 4)) ∧
      (rq ≠ 2 → t.bays = s1.bays)

/-- R83, R84: a scalar store whose access passes its checks stores the low bytes of s[sb], and no other byte of memory and
no register changes. -/
def Sys2Proof.Parts.ScalarStoreResults : Prop :=
  ∀ s st, Runs s st → ∀ f ∈ Forms.store, ∀ (rq : BitVec 2) (i : BitVec 11) (a b : BitVec 6),
    let va := (regRead st.r a.toNat + i.signExtend 64).toNat
    watchHit st.r va f.2 .write = none → va % f.2 = 0 → slogCount st = 0 →
    ∀ ps s1 st1, Allowed s 0 va f.2 .write ps s1 → Runs s1 st1 → Quiet s1 st1 ps va → MemOk s1 →
    ∃ t st', exec (f.1 rq i a b) s = .next t ∧ Runs t st' ∧ AfterStore st1 st' (st.r.pc + 4) ∧
      Stored s1 t ps va f.2 (regRead st.r b.toNat).toNat

/-- R84, R371, R375, R379: WATCH comes before MISAL, MISAL before the checks of the pages, and these before ECCUC; each is trapped
with the cause of its row and the address R84 and R379 name, and nothing is read or written. -/
def Obligations.ScalarAccessTraps : Prop :=
  ∀ s st, Runs s st → ∀ (rq : BitVec 2) (i : BitVec 11) (a x : BitVec 6),
    let va := regRead st.r a.toNat + i.signExtend 64
    (∀ f ∈ Forms.load,
      (∀ w, watchHit st.r va.toNat f.2.1 .read = some w →
        exec (f.1 rq i a x) s = .next (takeTrap s { cause := causeWatch, xval := BitVec.ofNat 64 w })) ∧
      (watchHit st.r va.toNat f.2.1 .read = none → va.toNat % f.2.1 ≠ 0 →
        exec (f.1 rq i a x) s = .next (takeTrap s { cause := causeMisal, xval := va })) ∧
      (watchHit st.r va.toNat f.2.1 .read = none → va.toNat % f.2.1 = 0 → slogCount st = 0 →
        ∀ c s1, (checkAccess 0 va.toNat f.2.1 .read s = .ok (.fail c) s1 ∨
            checkAccess 0 va.toNat f.2.1 .read s = .ok (.log c) s1) →
          exec (f.1 rq i a x) s = .next (takeTrap s1 c) ∧ Forms.PageTrap s st 0 va.toNat f.2.1 .read c) ∧
      (watchHit st.r va.toNat f.2.1 .read = none → va.toNat % f.2.1 = 0 → slogCount st = 0 → ∀ ps s1,
        checkAccess 0 va.toNat f.2.1 .read s = .ok (.ok ps) s1 → (poisonAt s1 ps va.toNat f.2.1).isSome = true →
          exec (f.1 rq i a x) s = .next (takeTrap s1 { cause := causeEccuc, xval := va }))) ∧
    (∀ f ∈ Forms.store,
      (∀ w, watchHit st.r va.toNat f.2 .write = some w →
        exec (f.1 rq i a x) s = .next (takeTrap s { cause := causeWatch, xval := BitVec.ofNat 64 w })) ∧
      (watchHit st.r va.toNat f.2 .write = none → va.toNat % f.2 ≠ 0 →
        exec (f.1 rq i a x) s = .next (takeTrap s { cause := causeMisal, xval := va })) ∧
      (watchHit st.r va.toNat f.2 .write = none → va.toNat % f.2 = 0 → slogCount st = 0 → ∀ c s1,
        (checkAccess 0 va.toNat f.2 .write s = .ok (.fail c) s1 →
          exec (f.1 rq i a x) s = .next (takeTrap s1 c) ∧ Forms.PageTrap s st 0 va.toNat f.2 .write c) ∧
        (checkAccess 0 va.toNat f.2 .write s = .ok (.log c) s1 → ∀ st1, Runs s1 st1 → st1.blocks ≠ [] →
          st1.r.slogEn = false → exec (f.1 rq i a x) s = .next (takeTrap s1 c) ∧
            Forms.PageTrap s st 0 va.toNat f.2 .write c)))

/-- R82: JT falls through at an index of n and more without a read; below it jumps by the table entry; an entry at a
misaligned address raises JTFAULT, and no register changes. -/
def Sys2Proof.Parts.JumpTable : Prop :=
  ∀ s st, Runs s st → ∀ (n : BitVec 7) (b a : BitVec 6),
    let i := (regRead st.r a.toNat).toNat
    let va := regRead st.r b.toNat + BitVec.ofNat 64 (4 * i)
    (n.toNat + 1 ≤ i → exec (.jt n b a) s = .next (putStrand s (retired st (st.r.pc + 4)))) ∧
    (i ≤ n.toNat → watchHit st.r va.toNat 4 .read = none → va.toNat % 4 ≠ 0 →
      exec (.jt n b a) s = .next (takeTrap s { cause := causeJtfault, xval := va })) ∧
    (i ≤ n.toNat → watchHit st.r va.toNat 4 .read = none → va.toNat % 4 = 0 → slogCount st = 0 →
      ∀ ps s1 st1, Allowed s 0 va.toNat 4 .read ps s1 → Runs s1 st1 → Quiet s1 st1 ps va.toNat →
      ∃ t, exec (.jt n b a) s = .next t ∧ t = putStrand { s1 with dirty := t.dirty }
        (retired (Forms.opened st1 false ps) (st.r.pc + (BitVec.ofNat 32 (valueAt s1 ps va.toNat 4)).signExtend 64 * 4)))

/-! ### Scalar floating point -/

/-- R87, R88, R91, R92: every scalar floating-point instruction completes; it reads the low bits of its operands in its
format, rounds by FRM with stochastic as nearest even, writes the result with zeros above to s[sd], and raises its flags
in MST, whose flags are never cleared. -/
def Sys2Proof.Parts.ScalarFloatResults : Prop :=
  ∀ s st, Runs s st → ∀ c b a d : BitVec 6,
    let mode := if st.r.frm.toNat % 8 = 5 then 0 else st.r.frm.toNat % 8
    let x := fun (f : Nat) (n : BitVec 6) => (regRead st.r n.toNat).toNat % 2 ^ fmtWidth f
    let gives := fun (i : Instr) (v : FpRes) =>
      exec i s = .next (putStrand s (wrote { st with r := { st.r with mst := mstWith st.r.mst v.flags v.nanc } }
        d.toNat (BitVec.ofNat 64 v.bits) (st.r.pc + 4)))
    (∀ f ∈ Forms.fop2, gives (f.1 b a d) (f.2.2 (x f.2.1 a) (x f.2.1 b) mode)) ∧
    (∀ f ∈ Forms.fop1, gives (f.1 a d) (f.2.2 (x f.2.1 a) mode)) ∧
    (∀ f ∈ Forms.fromLong, gives (f.1 a d) (intToFp f.2 (regRead st.r a.toNat).toInt mode 0)) ∧
    (∀ f ∈ Forms.fused, gives (f.1 c b a d) (fpFma f.2.1 f.2.2 false (x f.2.1 a) (x f.2.1 b) (x f.2.1 c) mode 0)) ∧
    gives (.fclass a d) { bits := fpClass 0 (x 0 a) + 256 * fpClass 1 (x 1 a), flags := 0, nanc := 0 }

/-- R89, R90, R91: the NaNs a scalar operation generates, in both formats: 0x7FF8_0000_0000_000c and 0x7FC0_000c with the
cause c, NV for a signalling operand and for an invalid operation; a comparison with a NaN is false. -/
def Sys2Proof.Parts.GeneratedNans : Prop :=
  ∀ f, f < 2 → ∀ a b mode : Nat,
    let q := fun (k : Nat) => if f = 0 then 0x7FF8000000000000 + k else 0x7FC00000 + k
    let nan := (fpDecode f a).isNan || (fpDecode f b).isNan
    let snan := (fpDecode f a).isSnan || (fpDecode f b).isSnan
    let one : FpRes := { bits := q 1, flags := if snan then nvFlag else 0, nanc := 1 }
    (nan = true →
      fpAdd f a b mode 0 = one ∧ fpSub f a b mode 0 = one ∧ fpMul f a b mode 0 = one ∧ fpDiv f a b mode 0 = one) ∧
    ((fpDecode f a).isNan = true →
      fpSqrt f a mode 0 = { bits := q 1, flags := if (fpDecode f a).isSnan then nvFlag else 0, nanc := 1 } ∧
      (toLong f a mode).bits = 0 ∧ (toLong f a mode).flags = nvFlag) ∧
    (nan = true → ∀ k, k = 0 ∨ k = 2 ∨ k = 3 →
      (fpCompare f k a b).1 = false ∧
      (fpCompare f k a b).2 = (if k = 0 then (if snan then nvFlag else 0) else nvFlag)) ∧
    (∀ n, fpDecode f a = .inf n → fpDecode f b = .inf (!n) →
      fpAdd f a b mode 0 = { bits := q 3, flags := nvFlag, nanc := 3 }) ∧
    (∀ n k e, fpDecode f a = .inf n → fpDecode f b = .fin k 0 e →
      fpMul f a b mode 0 = { bits := q 4, flags := nvFlag, nanc := 4 } ∧
      fpMul f b a mode 0 = { bits := q 4, flags := nvFlag, nanc := 4 }) ∧
    (∀ m e, fpDecode f a = .fin true m e → m ≠ 0 →
      fpSqrt f a mode 0 = { bits := q 5, flags := nvFlag, nanc := 5 })

/-- R88, R157, R161, R163: sums, differences, products, quotients, square roots and fused multiply-adds of finite operands, and
conversions of finite numbers and integers to a format, are the exact result rounded once, in the modes 0 to 4; an exact zero
sum of opposite operands is +0, or −0 in mode 2. -/
def Sys2Proof.Parts.RoundingResults : Prop :=
  ∀ f, f < 4 → ∀ mode, mode < 5 → ∀ a b c u : Nat, Forms.FiniteCode f a → Forms.FiniteCode f b → Forms.FiniteCode f c →
    let x := Forms.valueOf (fpDecode f a)
    let y := Forms.valueOf (fpDecode f b)
    let z := Forms.valueOf (fpDecode f c)
    let is := Forms.Rounds f mode
    is (x + y) (fpAdd f a b mode u) ∧ is (x - y) (fpSub f a b mode u) ∧ is (x * y) (fpMul f a b mode u) ∧
    (y ≠ 0 → is (x / y) (fpDiv f a b mode u)) ∧ (0 ≤ x → is (Real.sqrt x) (fpSqrt f a mode u)) ∧
    (∀ p q : Bool, is ((if p then -(x * y) else x * y) + (if q then -z else z)) (fpFma f p q a b c mode u)) ∧
    (∀ g, g < 4 → Forms.Rounds g mode x (fpToFp g f a mode false u)) ∧ (∀ i : Int, is i (intToFp f i mode u)) ∧
    (x ≠ 0 → x + y = 0 → (fpAdd f a b mode u).bits = if mode = 2 then 2 ^ (fmtWidth f - 1) else 0)

/-! ### CSRs -/

/-- R93, R95, R376: CREAD of a CSR the strand may name gives its value, the read-only ones those of the strand and its place; a read
of MST first waits until the trusses hold no multiply (R270). The clocks CYCLE, ACYC and TIME are in `ClocksRead`. -/
def Sys2Proof.Parts.CsrReads : Prop :=
  ∀ s st, Runs s st → ∀ d : BitVec 6,
    (∀ (c : BitVec 11) (v : Word), csrCheck st.r.level c.toNat = none → ¬ (c.toNat = 0x30 ∨ c.toNat = 0x31 ∨ c.toNat = 0x32) →
      csrValue s.time st c.toNat = some v → exec (.cread c d) s = .next (putStrand s
      (wrote (if c.toNat = 7 then { st with multiplies := [] } else st) d.toNat v (st.r.pc + 4)))) ∧
    ∀ f ∈ Forms.csrFixed st, (0x100 ≤ f.1 → st.r.level = .runtime) →
      exec (.cread (BitVec.ofNat 11 f.1) d) s = .next (putStrand s (wrote st d.toNat f.2 (st.r.pc + 4)))

/-- R95: a read of TIME never goes backwards, and reading a clock changes only that clock and s[sd]. -/
def Sys2Proof.Parts.ClocksRead : Prop :=
  ∀ s st, Runs s st → ∀ d : BitVec 6,
    (∃ k, exec (.cread 0x32 d) s = .next (putStrand { s with time := s.time + k, fresh := s.fresh + 1 }
      (wrote st d.toNat (BitVec.ofNat 64 (s.time + k)) (st.r.pc + 4)))) ∧
    (∃ k, exec (.cread 0x30 d) s = .next (putStrand { s with fresh := s.fresh + 1 }
      (wrote { st with r := { st.r with cycle := st.r.cycle + BitVec.ofNat 64 k } } d.toNat
        (st.r.cycle + BitVec.ofNat 64 k) (st.r.pc + 4)))) ∧
    (∃ k, exec (.cread 0x31 d) s = .next (putStrand { s with fresh := s.fresh + 1 }
      (wrote { st with r := { st.r with acyc := st.r.acyc + BitVec.ofNat 64 k } } d.toNat
        (st.r.acyc + BitVec.ofNat 64 k) (st.r.pc + 4))))

/-- R93: CXCH writes s[sa], CSETB sets and CCLRB clears the bits of s[sa], all of them return the old value in s[sd]; the
W1C bits that s[sa] names are cleared; CSETB and CCLRB with sa = s0 write nothing. -/
def Sys2Proof.Parts.CsrWrites : Prop :=
  ∀ s st, Runs s st → ∀ (op : Nat) (c : BitVec 11) (a d : BitVec 6) (v : Word), op < 3 →
    csrCheck st.r.level c.toNat = none → csrReadOnly c.toNat = false → csrValue s.time st c.toNat = some v →
    let st0 := if c.toNat = 7 then { st with multiplies := [] } else st
    let x := regRead st.r a.toNat
    let new := if op = 0 then x else if op = 1 then v ||| x else v &&& ~~~x
    (op = 0 ∨ a ≠ 0 → ∀ st', csrStore st0 c.toNat new (if a = 0 then 0 else x) = some st' →
      exec (Forms.csr op c a d) s = .next (putStrand s (wrote st' d.toNat v (st.r.pc + 4)))) ∧
    (op ≠ 0 → a = 0 →
      exec (Forms.csr op c a d) s = .next (putStrand s (wrote st0 d.toNat v (st.r.pc + 4))))

/-- R93, R95 to R97, R376 to R379: CXCH, CSETB and CCLRB complete on every CSR a strand may write, at the level that may
reach it, when the value computed places no reserved value in a field; s[sd] takes the old value and the CSR the new one. -/
def Sys2Proof.Parts.CsrWritesComplete : Prop :=
  ∀ s st, Runs s st → ∀ n ∈ Forms.csrWritable, (0x100 ≤ n → st.r.level = .runtime) → ∀ a d : BitVec 6,
    let c := BitVec.ofNat 11 n
    let st0 := if n = 7 then { st with multiplies := [] } else st
    let x := regRead st.r a.toNat
    ∃ v, csrValue s.time st n = some v ∧
      (Forms.csrLegal st n x → ∃ st', csrStore st0 n x x = some st' ∧
        exec (.cxch c a d) s = .next (putStrand s (wrote st' d.toNat v (st.r.pc + 4)))) ∧
      (a ≠ 0 → Forms.csrLegal st n (v ||| x) → ∃ st', csrStore st0 n (v ||| x) x = some st' ∧
        exec (.csetb c a d) s = .next (putStrand s (wrote st' d.toNat v (st.r.pc + 4)))) ∧
      (a ≠ 0 → Forms.csrLegal st n (v &&& ~~~x) → ∃ st', csrStore st0 n (v &&& ~~~x) x = some st' ∧
        exec (.cclrb c a d) s = .next (putStrand s (wrote st' d.toNat v (st.r.pc + 4)))) ∧
      exec (.csetb c 0 d) s = .next (putStrand s (wrote st0 d.toNat v (st.r.pc + 4))) ∧
      exec (.cclrb c 0 d) s = .next (putStrand s (wrote st0 d.toNat v (st.r.pc + 4)))

/-- R93, R95 to R97, R376 to R379: what a write of a CSR leaves in it: the writable fields take the value, the others read
zero, and a value that would place a reserved value in a field is refused. -/
def Sys2Proof.Parts.CsrFields : Prop :=
  ∀ (st : Strand) (time : Nat) (v : Word),
    (∀ f ∈ ([(0x002, 0x1FFFFFFFF8FFF), (0x00A, 0x3FFFFFFC00FF), (0x013, 0xFFFFFFFFFFFF), (0x025, 0xFFFFFFFFFFFFFFFF),
        (0x100, 0xFFFFFFFFFFFFFFFF), (0x101, 0x80000000000000FF), (0x102, 0xFFFFFFFFFFFFFFFF), (0x104, 0xFFFFFFFFFFF0),
        (0x105, 0xFFFFFFFFFFFFFFFF), (0x107, 0xFFFF), (0x108, 0x1FFFFFFFFFFF000), (0x10A, 0x1),
        (0x10C, 0xFFFFFFFFFF87)] : List (Nat × Word)),
      ∃ st', csrStore st f.1 v 0 = some st' ∧ csrValue time st' f.1 = some (v &&& f.2)) ∧
    (v.toNat / 2 ^ 16 % 16 ≤ 6 → ∃ st', csrStore st 0x007 v 0 = some st' ∧ csrValue time st' 0x007 = some (v &&& 0xF00FF)) ∧
    (6 < v.toNat / 2 ^ 16 % 16 → csrStore st 0x007 v 0 = none) ∧
    (v.toNat % 8 ≤ 5 → ∃ st', csrStore st 0x008 v 0 = some st' ∧ csrValue time st' 0x008 = some (v &&& 7)) ∧
    (5 < v.toNat % 8 → csrStore st 0x008 v 0 = none) ∧
    (∀ w, v.toNat / 2 ^ 10 % 8 ≤ 4 → ∃ st', csrStore st 0x103 v w = some st' ∧
      csrValue time st' 0x103 = some ((v &&& 0xFC03) ||| (st.r.xstat &&& 0x100 &&& ~~~w))) ∧
    (∀ w, 4 < v.toNat / 2 ^ 10 % 8 → csrStore st 0x103 v w = none) ∧
    (∃ st', csrStore st 0x009 v 0 = some st' ∧ csrValue time st' 0x009 = some (v &&& 0xFFFFFFFF) ∧
      ∀ b l, b < st.blocks.length → l < 64 → ∃ bl, st'.blocks[b]? = some bl ∧
        bl.gens[l]? = some (laneSeed (v &&& 0xFFFFFFFF) (64 * b + l))) ∧
    (st.blocks ≠ [] → ∃ st', csrStore st 0x006 v 0 = some st' ∧ csrValue time st' 0x006 = some v)

/-- R22, R53, R93: a number above the strand's level raises PRIV; a number that names no CSR, a write to a read-only CSR,
and a reserved value raise ILLOP; XVAL holds the word and its position, and nothing is written. -/
def Sys2Proof.Parts.CsrTraps : Prop :=
  ∀ s st, Runs s st → ∀ (op : Nat) (c : BitVec 11) (a d : BitVec 6), op < 4 →
    let word := 0x22 + op * 2 ^ 30 + c.toNat * 2 ^ 19 + (if op = 3 then 0 else a.toNat) * 2 ^ 13 + d.toNat * 2 ^ 7
    let trap := fun (k : BitVec 8) => takeTrap s { cause := k, xval := memberXval word (st.r.pc.toNat / 4) }
    (0x200 ≤ c.toNat ∧ c.toNat < 0x300 ∨ 0x100 ≤ c.toNat ∧ c.toNat < 0x200 ∧ st.r.level = .user →
      exec (Forms.csr op c a d) s = .next (trap causePriv)) ∧
    (0x300 ≤ c.toNat → exec (Forms.csr op c a d) s = .next (trap causeIllop)) ∧
    (csrCheck st.r.level c.toNat = none → csrValue s.time st c.toNat = none →
      exec (Forms.csr op c a d) s = .next (trap causeIllop)) ∧
    (csrCheck st.r.level c.toNat = none → csrReadOnly c.toNat = true → ¬ (c.toNat = 0x30 ∨ c.toNat = 0x31 ∨ c.toNat = 0x32) →
      op = 0 ∨ (op < 3 ∧ a ≠ 0) → exec (Forms.csr op c a d) s = .next (trap causeIllop))

/-! ### Traps and system instructions -/

/-- R371, R378: a trap with a handler saves the pc, the cause and the trap value, records the level in XSTAT.PL, sets
XSTAT.IN, raises the level and goes on at XVEC; no general register, vector register or memory changes. -/
def Sys2Proof.Parts.TrapEntrySaves : Prop :=
  ∀ s st (t : Trap), Runs s st → HasHandler st → t.cause ≠ causeEccuc → t.cause ≠ causeRemote →
    ∃ r : Regs, takeTrap s t = putStrand s { st with r := r, wait := .none, inflight := none } ∧
      r.xpc = st.r.pc ∧ r.xcause = (if t.async then 0x8000000000000000 else 0) + t.cause.setWidth 64 ∧ r.xval = t.xval ∧
      r.level = .runtime ∧ r.pc = st.r.xvec ∧
      (r.xstat.toNat % 2 = 1 ↔ st.r.level = .runtime) ∧ r.xstat.toNat / 2 % 2 = 1 ∧
      r.xstat.toNat / 2 ^ 10 % 8 = t.level.toNat ∧ (r.xstat.toNat / 2 ^ 13 % 2 = 1 ↔ t.s2 = true) ∧
      r.xstat.toNat / 2 ^ 14 % 4 = t.acc.toNat ∧ r.xstat.toNat / 2 ^ 8 % 2 = st.r.xstat.toNat / 2 ^ 8 % 2 ∧
      r = { st.r with xpc := r.xpc, xcause := r.xcause, xval := r.xval, xstat := r.xstat, level := r.level, pc := r.pc }

/-- R372, R381: a synchronous trap in a handler, or any trap without a handler, halts the bent and is recorded as a double trap
with its cause and trap value. That an asynchronous trap without a handler is one too, and that a double trap saves nothing,
is the model's reading (log entry 20). -/
def Sys2Proof.Parts.DoubleTrapHaltsTheBent : Prop :=
  ∀ s st (t : Trap), Runs s st → (xstatIn st.r.xstat = true ∧ t.async = false) ∨ st.r.xvec = 0 →
    t.cause ≠ causeEccuc → t.cause ≠ causeRemote → s.errlog.length < 1024 →
    takeTrap s t =
      { s with
        strands := s.strands.set s.cur { st with wait := .none, inflight := none }
        bents := s.bents.modify st.bent fun b => { b with halted := true }
        errlog := s.errlog ++ [{ time := s.time, kind := 1, bay := homeBay st, cause := t.cause.toNat,
                                 rid := st.r.rid.toNat, xval := t.xval }] }

/-- R99: ECALL and EBREAK trap with XVAL 0 and the pc of the instruction in XPC. -/
def Sys2Proof.Parts.CallsTrap : Prop :=
  ∀ s st, Runs s st → HasHandler st →
    exec .ecall s = .next (putStrand s (entered st { cause := 0x0B, xval := 0 })) ∧
    exec .ebreak s = .next (putStrand s (entered st { cause := 0x0C, xval := 0 })) ∧
    (entered st { cause := 0x0B, xval := 0 }).r.xpc = st.r.pc ∧ (entered st { cause := 0x0B, xval := 0 }).r.xcause = 0x0B

/-- R374: ERET at runtime level returns to XPC at the level of XSTAT.PL and clears XSTAT.IN; nothing else changes, but that a
strand that does not go back to its granted FSEND has done with it (log entry 32). -/
def Sys2Proof.Parts.ReturnFromTrap : Prop :=
  ∀ s st, Runs s st → st.r.level = .runtime →
    ∃ r : Regs, exec .eret s = .next (putStrand s (retired { st with r := r, sending := st.sending.filter fun x => x.2.1 == st.r.xpc.toNat }
        st.r.xpc)) ∧
      (r.level = .runtime ↔ st.r.xstat.toNat % 2 = 1) ∧ xstatIn r.xstat = false ∧
      (∀ k, k < 64 → k ≠ 1 → r.xstat.getLsbD k = st.r.xstat.getLsbD k) ∧
      r = { st.r with level := r.level, xstat := r.xstat, pc := r.pc }

/-- R100 to R103: WFI suspends and, stepped again, may end; HALT at runtime level halts the bent and is recorded; IFENCE
drops what has been fetched for the strand, so that a fetch misses no write released before its last acquire at device scope;
PAUSE only goes on. That a suspended WFI ends when it is stepped again is the
model's choice within R100 (log entry 16). -/
def Sys2Proof.Parts.SystemInstructions : Prop :=
  ∀ s st, Runs s st →
    (st.wait ≠ .wfi → exec .wfi s = .next (putStrand s { st with wait := .wfi })) ∧
    (st.wait = .wfi → exec .wfi s = .next (putStrand s (retired st (st.r.pc + 4)))) ∧
    (st.r.level = .runtime → ∃ e : ErrRec, e.kind = 2 ∧ e.rid = st.r.rid.toNat ∧
      exec .halt s = .next (putStrand (logError (haltBent s st) e) (retired st (st.r.pc + 4)))) ∧
    exec .ifence s = .next (putStrand s (retired { st with fetchSince := st.acquiredAt, fetchStale := st.acquiredStale }
      (st.r.pc + 4))) ∧
    exec .pause s = .next (putStrand s (retired st (st.r.pc + 4)))

namespace Sys2Proof.Forms

/-! ### Vector integer forms -/

/-- A result and whether it was clamped to the interval. -/
def clamped (w : Nat) (lo hi x : Int) : Nat × Bool :=
  if x < lo then (wrap w lo, true) else if hi < x then (wrap w hi, true) else (wrap w x, false)

/-- The functions of R135 in their forms on two groups and on a group and a scalar: the value of `w` bits from the operands
a and b and the old element d, and whether the element was clamped. -/
def vint : List ((BitVec 3 → BitVec 5 → BitVec 5 → BitVec 5 → Instr) × (BitVec 3 → BitVec 5 → BitVec 5 → BitVec 5 → Instr) ×
    (Nat → Nat → Nat → Nat → Nat × Bool)) :=
  [(.vadd, .vaddVx, fun w a b _ => (wrap w (a + b), false)),
   (.vsub, .vsubVx, fun w a b _ => (wrap w ((a : Int) - b), false)),
   (.vrsub, .vrsubVx, fun w a b _ => (wrap w ((b : Int) - a), false)),
   (.vmul, .vmulVx, fun w a b _ => (wrap w (a * b), false)),
   (.vmulh, .vmulhVx, fun w a b _ => (wrap w (signed w a * signed w b / (2 ^ w : Nat)), false)),
   (.vmulhu, .vmulhuVx, fun w a b _ => (wrap w (a * b / 2 ^ w : Nat), false)),
   (.vand, .vandVx, fun _ a b _ => (a &&& b, false)),
   (.vor, .vorVx, fun _ a b _ => (a ||| b, false)),
   (.vxor, .vxorVx, fun _ a b _ => (a ^^^ b, false)),
   (.vsll, .vsllVx, fun w a b _ => (wrap w (a * 2 ^ (b % w) : Nat), false)),
   (.vsrl, .vsrlVx, fun w a b _ => (a / 2 ^ (b % w), false)),
   (.vsra, .vsraVx, fun w a b _ => (wrap w (signed w a / (2 ^ (b % w) : Nat)), false)),
   (.vmin, .vminVx, fun w a b _ => (if signed w a ≤ signed w b then a else b, false)),
   (.vmax, .vmaxVx, fun w a b _ => (if signed w a ≤ signed w b then b else a, false)),
   (.vminu, .vminuVx, fun _ a b _ => (Nat.min a b, false)),
   (.vmaxu, .vmaxuVx, fun _ a b _ => (Nat.max a b, false)),
   (.vsadd, .vsaddVx, fun w a b _ => clamped w (-(2 ^ (w - 1) : Nat)) ((2 ^ (w - 1) : Nat) - 1) (signed w a + signed w b)),
   (.vssub, .vssubVx, fun w a b _ => clamped w (-(2 ^ (w - 1) : Nat)) ((2 ^ (w - 1) : Nat) - 1) (signed w a - signed w b)),
   (.vsaddu, .vsadduVx, fun w a b _ => clamped w 0 ((2 ^ w : Nat) - 1) ((a : Int) + b)),
   (.vssubu, .vssubuVx, fun w a b _ => clamped w 0 ((2 ^ w : Nat) - 1) ((a : Int) - b)),
   (.vmadd, .vmaddVx, fun w a b d => (wrap w (a * b + d : Nat), false)),
   (.vabsd, .vabsdVx, fun w a b _ => ((signed w a - signed w b).natAbs, false))]

/-- The forms with an immediate: its value from the five bits (R47), and the function. -/
def vintImm : List ((BitVec 3 → BitVec 5 → BitVec 5 → BitVec 5 → Instr) × (BitVec 5 → Int) ×
    (Nat → Nat → Nat → Nat → Nat × Bool)) :=
  [(.vaddVi, BitVec.toInt, fun w a b _ => (wrap w (a + b), false)),
   (.vrsubVi, BitVec.toInt, fun w a b _ => (wrap w ((b : Int) - a), false)),
   (.vandVi, BitVec.toInt, fun _ a b _ => (a &&& b, false)),
   (.vorVi, BitVec.toInt, fun _ a b _ => (a ||| b, false)),
   (.vxorVi, BitVec.toInt, fun _ a b _ => (a ^^^ b, false)),
   (.vsllVi, fun i => i.toNat, fun w a b _ => (wrap w (a * 2 ^ (b % w) : Nat), false)),
   (.vsrlVi, fun i => i.toNat, fun w a b _ => (a / 2 ^ (b % w), false)),
   (.vsraVi, fun i => i.toNat, fun w a b _ => (wrap w (signed w a / (2 ^ (b % w) : Nat)), false)),
   (.vsaddVi, BitVec.toInt,
    fun w a b _ => clamped w (-(2 ^ (w - 1) : Nat)) ((2 ^ (w - 1) : Nat) - 1) (signed w a + signed w b)),
   (.vsadduVi, BitVec.toInt, fun w a b _ => clamped w 0 ((2 ^ w : Nat) - 1) ((a : Int) + b))]

/-- The conditions of VCMP in their three forms (R137). -/
def vcmp : List ((BitVec 3 → BitVec 5 → BitVec 5 → BitVec 3 → Instr) × (BitVec 3 → BitVec 5 → BitVec 5 → BitVec 3 → Instr) ×
    (BitVec 3 → BitVec 5 → BitVec 5 → BitVec 3 → Instr) × (Nat → Nat → Nat → Bool)) :=
  [(.vcmpEq, .vcmpEqVx, .vcmpEqVi, fun _ a b => decide (a = b)),
   (.vcmpNe, .vcmpNeVx, .vcmpNeVi, fun _ a b => decide (a ≠ b)),
   (.vcmpLt, .vcmpLtVx, .vcmpLtVi, fun w a b => decide (signed w a < signed w b)),
   (.vcmpLtu, .vcmpLtuVx, .vcmpLtuVi, fun _ a b => decide (a < b)),
   (.vcmpLe, .vcmpLeVx, .vcmpLeVi, fun w a b => decide (signed w a ≤ signed w b)),
   (.vcmpLeu, .vcmpLeuVx, .vcmpLeuVi, fun _ a b => decide (a ≤ b)),
   (.vcmpGt, .vcmpGtVx, .vcmpGtVi, fun w a b => decide (signed w b < signed w a)),
   (.vcmpGtu, .vcmpGtuVx, .vcmpGtuVi, fun _ a b => decide (b < a))]

/-- The mask functions of two masks (R140). -/
def mask2 : List ((BitVec 3 → BitVec 3 → BitVec 3 → Instr) × (Bool → Bool → Bool)) :=
  [(.mand, fun a b => a && b), (.mor, fun a b => a || b), (.mxor, fun a b => a ^^ b), (.mandn, fun a b => a && !b)]

end Sys2Proof.Forms

/-! ### Vector integer -/

/-- R134, R135: every active element takes the function of its operands in `w` bits, the others follow R111, MST gains SAT
exactly when an active element was clamped, and nothing else changes. -/
def Obligations.VectorIntegerResults : Prop :=
  ∀ s st, Runs s st → VectorReady st → vtWidth st.r.vt ∈ [8, 16, 32, 64] → ∀ (m : BitVec 3) (x a d : BitVec 5),
    a.toNat % vtG st.r.vt = 0 → d.toNat % vtG st.r.vt = 0 →
    let w := vtWidth st.r.vt
    let gives := fun (i : Instr) (f : Nat → Nat → Nat → Nat → Nat × Bool) (src : Block → Nat → Nat) =>
      let val := fun (bl : Block) (j : Nat) => f w (elemRead bl w a.toNat j) (src bl j) (elemRead bl w d.toNat j)
      ∃ mst bls, exec i s = .next (putStrand s (vectorDone st mst bls)) ∧ GensKept st bls ∧
        ElemsWritten st bls w d.toNat (vtG st.r.vt) m.toNat (fun _ bl j => (val bl j).1) ∧
        ((∃ b j bl, Acts st m.toNat b j bl ∧ (val bl j).2 = true) → mst = st.r.mst ||| 0x20) ∧
        ((∀ b j bl, Acts st m.toNat b j bl → (val bl j).2 = false) → mst = st.r.mst)
    (∀ f ∈ Forms.vint,
      (x.toNat % vtG st.r.vt = 0 → gives (f.1 m x a d) f.2.2 (fun bl j => elemRead bl w x.toNat j)) ∧
      gives (f.2.1 m x a d) f.2.2 (fun _ _ => (regRead st.r x.toNat).toNat % 2 ^ w)) ∧
    ∀ f ∈ Forms.vintImm, gives (f.1 m x a d) f.2.2 (fun _ _ => wrap w (f.2.1 x))

/-- R137: every active bit of m[md] takes the condition, the others follow R111, and nothing else changes. That the bits from VLB
up stay, with TZ = 1 too, is the model's choice (log entry 58). -/
def Sys2Proof.Parts.VectorCompareResults : Prop :=
  ∀ s st, Runs s st → VectorReady st → vtWidth st.r.vt ∈ [8, 16, 32, 64] → ∀ (m d : BitVec 3) (x a : BitVec 5),
    a.toNat % vtG st.r.vt = 0 →
    let w := vtWidth st.r.vt
    let gives := fun (i : Instr) (f : Nat → Nat → Nat → Bool) (src : Block → Nat → Nat) =>
      ∃ bls, exec i s = .next (putStrand s (vectorDone st st.r.mst bls)) ∧
        BitsWritten st bls d.toNat m.toNat (fun _ bl j => f w (elemRead bl w a.toNat j) (src bl j))
    ∀ f ∈ Forms.vcmp,
      (x.toNat % vtG st.r.vt = 0 → gives (f.1 m x a d) f.2.2.2 (fun bl j => elemRead bl w x.toNat j)) ∧
      gives (f.2.1 m x a d) f.2.2.2 (fun _ _ => (regRead st.r x.toNat).toNat % 2 ^ w) ∧
      gives (f.2.2.1 m x a d) f.2.2.2 (fun _ _ => wrap w x.toInt)

/-- R138: VMV, VSPLAT, VID and VMERGE, at every width; VNOP has no effect. -/
def Sys2Proof.Parts.VectorMoveResults : Prop :=
  ∀ s st, Runs s st → VectorReady st → ∀ (m : BitVec 3) (x a d : BitVec 5),
    d.toNat % vtG st.r.vt = 0 →
    let w := vtWidth st.r.vt
    let gives := fun (i : Instr) (m : Nat) (val : Nat → Block → Nat → Nat) =>
      ∃ bls, exec i s = .next (putStrand s (vectorDone st st.r.mst bls)) ∧ GensKept st bls ∧
        ElemsWritten st bls w d.toNat (vtG st.r.vt) m val
    (a.toNat % vtG st.r.vt = 0 → gives (.vmv m a d) m.toNat (fun _ bl j => elemRead bl w a.toNat j)) ∧
    gives (.vsplat m x d) m.toNat (fun _ _ _ => (regRead st.r x.toNat).toNat % 2 ^ w) ∧
    gives (.vid m d) m.toNat (fun b _ j => (b * vlbOf st.r.vt + j) % 2 ^ w) ∧
    (m ≠ 0 → a.toNat % vtG st.r.vt = 0 → x.toNat % vtG st.r.vt = 0 →
      gives (.vmerge m x a d) 0 (fun _ bl j => elemRead bl w (if maskBit bl m.toNat j then x.toNat else a.toNat) j)) ∧
    exec .vnop s = .next (putStrand s (vectorDone st st.r.mst st.blocks))

/-- R139, R141: VEXT, MPOPC and MFIRST write a scalar register and no vector register. -/
def Sys2Proof.Parts.VectorToScalarResults : Prop :=
  ∀ s st, Runs s st → VectorReady st → ∀ (x a d : BitVec 5) (k : BitVec 3),
    let vlb := vlbOf st.r.vt
    let done := fun (v : Word) => putStrand s (wrote { st with r := { st.r with vstart := 0 } } d.toNat v (st.r.pc + 4))
    let counted := fun (b j : Nat) (bl : Block) =>
      st.blocks[b]? = some bl ∧ j < vlb ∧ b * vlb + j < st.r.vl ∧ maskBit bl k.toNat j = true ∧ maskBit bl 0 j = true
    (a.toNat % vtG st.r.vt = 0 → ∃ v, exec (.vext x a d) s = .next (done v) ∧
      (st.r.vl ≤ (regRead st.r x.toNat).toNat → v = 0) ∧
      ∀ b j bl, st.blocks[b]? = some bl → j < vlb → (regRead st.r x.toNat).toNat = b * vlb + j → b * vlb + j < st.r.vl →
        v = if vtFmt st.r.vt ∈ [9, 10, 11, 12]
            then (BitVec.ofInt 64 (signed (vtWidth st.r.vt) (elemRead bl (vtWidth st.r.vt) a.toNat j)))
            else BitVec.ofNat 64 (elemRead bl (vtWidth st.r.vt) a.toNat j)) ∧
    (∃ l : List (Nat × Nat), exec (.mpopc k d) s = .next (done (BitVec.ofNat 64 l.length)) ∧ l.Nodup ∧
      ∀ b j, (b, j) ∈ l ↔ ∃ bl, counted b j bl) ∧
    (∃ v, exec (.mfirst k d) s = .next (done v) ∧
      ((∀ b j bl, ¬ counted b j bl) → v = BitVec.allOnes 64) ∧
      ∀ b j bl, counted b j bl → (∀ b' j' bl', counted b' j' bl' → b * vlb + j ≤ b' * vlb + j') →
        v = BitVec.ofNat 64 (b * vlb + j))

/-- R140: the mask functions write every bit below VL whatever m0 holds, the bits above follow the tail row of R111. That those
from VLB up stay, with TZ = 1 too, is the model's choice (log entry 58). -/
def Sys2Proof.Parts.MaskFunctionResults : Prop :=
  ∀ s st, Runs s st → VectorReady st → ∀ b a d : BitVec 3,
    let gives := fun (i : Instr) (val : Block → Nat → Bool) =>
      ∃ bls, exec i s = .next (putStrand s (vectorDone st st.r.mst bls)) ∧ bls.length = st.blocks.length ∧
        ∀ p bl, st.blocks[p]? = some bl → ∃ bl', bls[p]? = some bl' ∧ bl' = { bl with m := bl'.m } ∧
          (∀ j, j < vlbOf st.r.vt → maskBit bl' d.toNat j =
            if st.r.vl = 0 then maskBit bl d.toNat j
            else if p * vlbOf st.r.vt + j < st.r.vl then val bl j
            else if vtTz st.r.vt then false else maskBit bl d.toNat j) ∧
          (∀ j, vlbOf st.r.vt ≤ j → j < 8192 → maskBit bl' d.toNat j = maskBit bl d.toNat j) ∧
          ∀ n j, n < 8 → n ≠ d.toNat → j < 8192 → maskBit bl' n j = maskBit bl n j
    (∀ f ∈ Forms.mask2, gives (f.1 b a d) (fun bl j => f.2 (maskBit bl a.toNat j) (maskBit bl b.toNat j))) ∧
    gives (.mnot a d) (fun bl j => !maskBit bl a.toNat j) ∧ gives (.mmv a d) (fun bl j => maskBit bl a.toNat j) ∧
    gives (.mset d) (fun _ _ => true) ∧ gives (.mclr d) (fun _ _ => false)

namespace Sys2Proof.Forms

/-- The integer reductions and their operations in `w` bits (R146). -/
def reduce : List ((BitVec 3 → BitVec 5 → BitVec 5 → BitVec 5 → Instr) × (Nat → Nat → Nat → Nat)) :=
  [(.vredsum, fun w r x => wrap w (r + x)), (.vredmax, fun w r x => if signed w r < signed w x then x else r),
   (.vredmin, fun w r x => if signed w x < signed w r then x else r), (.vredmaxu, fun _ r x => Nat.max r x),
   (.vredminu, fun _ r x => Nat.min r x), (.vredand, fun _ r x => r &&& x), (.vredor, fun _ r x => r ||| x),
   (.vredxor, fun _ r x => r ^^^ x)]

/-- Element `j` of group `a` at position `p` of a strand; none where the span has no such position. -/
def elemAt (st : Strand) (w a p j : Nat) : Nat :=
  match st.blocks[p]? with
  | some bl => elemRead bl w a j
  | none => 0

/-- The active local elements of position `b` below VL, ascending. -/
def actives (st : Strand) (m b : Nat) (bl : Block) : List Nat :=
  (List.range (vlbOf st.r.vt)).filter fun j => decide (b * vlbOf st.r.vt + j < st.r.vl) && maskOn bl m j

/-- The blocks after an instruction that writes element `j` of the group at `d` with the value `val` gives, where it
gives one, and no other bit of a vector register; `carry` says what becomes of the carry cells. -/
def Placed (st : Strand) (bls : List Block) (w d : Nat) (val : Nat → Block → Nat → Option Nat)
    (carry : Nat → Block → Word) : Prop :=
  bls.length = st.blocks.length ∧ ∀ b bl, st.blocks[b]? = some bl → ∃ bl', bls[b]? = some bl' ∧
    bl' = { bl with v := bl'.v, carry := carry b bl } ∧
    (∀ j, j < vlbOf st.r.vt → elemRead bl' w d j = (val b bl j).getD (elemRead bl w d j)) ∧
    ∀ n, n < 32 → n < d ∨ d + vtG st.r.vt ≤ n → getField bl'.v (n * vregBits) vregBits = getField bl.v (n * vregBits) vregBits

/-- All ones in `w` bits. -/
def ones (w : Nat) : Nat := 2 ^ w - 1

end Sys2Proof.Forms

/-! ### Vector configuration -/

/-- R108: SETVL and SETVLR of a legal type set VT, VL to the smaller of AVL and VLMAX, VSTART to zero and s[sd] to VL; with
a shrink mark whose positions have empty side logs and no converted way, the positions above the new span go first
(R19) and their bays keep the machine CSRs (R380); an illegal type raises ILLOP and changes nothing else. -/
def Obligations.SetvlResults : Prop :=
  ∀ s st, Runs s st → ∀ (t : BitVec 13) (b a d : BitVec 6),
    let forms := [(Instr.setvl t a d, t, 0x30 + t.toNat * 2 ^ 19 + a.toNat * 2 ^ 13 + d.toNat * 2 ^ 7),
      (Instr.setvlr b a d, BitVec.ofNat 13 (regRead st.r b.toNat).toNat,
        0x31 + b.toNat * 2 ^ 19 + a.toNat * 2 ^ 13 + d.toNat * 2 ^ 7)]
    let after := fun (q : Strand) (t : BitVec 13) =>
      let vl := min (regRead st.r a.toNat).toNat (q.blocks.length * (2048 * 8 * 2 ^ (t.toNat / 16 % 8) / fmtWidth (t.toNat % 16)))
      wrote { q with r := { st.r with vl := vl, vt := t, vstart := 0 } } d.toNat (BitVec.ofNat 64 vl) (st.r.pc + 4)
    ∀ f ∈ forms,
      (vtLegal f.2.1.toNat = true → st.shrink = none → exec f.1 s = .next (putStrand s (after st f.2.1))) ∧
      (∀ n, vtLegal f.2.1.toNat = true → st.shrink = some n →
        (∀ bl ∈ st.blocks.drop n, bl.slog = [] ∧ bl.ways = 0) →
        exec f.1 s = .next (putStrand ((st.blocks.drop n).foldl leaveBay s) (after { st with
          blocks := st.blocks.take n, frags := st.frags.map (fun e => { e with masks := e.masks.take n }),
          shrink := none } f.2.1))) ∧
      (∀ n, vtLegal f.2.1.toNat = true → st.shrink = some n → (∃ bl ∈ st.blocks.drop n, bl.slog ≠ []) →
        exec f.1 s = .next (putStrand s (after st f.2.1))) ∧
      (vtLegal f.2.1.toNat = false →
        exec f.1 s = .next (takeTrap s { cause := causeIllop, xval := memberXval f.2.2 (st.r.pc.toNat / 4) }))

/-- R122 to R124: VSPLIT pushes the join and the else entry and keeps the then mask; VJOIN takes the else path when its
mask has a bit below VL, else restores the join mask; VBNONE branches when no bit is left; each clears VSTART (R119).
The buffer is taken with room and the stack in it, so that nothing spills (R125). -/
def Obligations.ActiveFragmentControl : Prop :=
  ∀ s st, Runs s st → st.spilled = 0 → ∀ (o : BitVec 22) (c : BitVec 3),
    let m0 := masksOf st 0
    let mc := masksOf st c.toNat
    let masked := fun (ms : List (BitVec maskBits)) => st.blocks.zipIdx.map fun (bl, b) =>
      match ms[b]? with
      | some x => withMask bl 0 x
      | none => bl
    let after := fun (bls : List Block) (frags : List Frag) (pc : Word) =>
      putStrand s (retired { st with r := { st.r with vstart := 0 }, blocks := bls, frags := frags } pc)
    let joinE : Frag := { isElse := false, masks := m0, pc := 0 }
    let elseE : Frag :=
      { isElse := true, masks := List.zipWith (fun x y => x &&& ~~~y) m0 mc, pc := st.r.pc + o.signExtend 64 * 4 }
    (st.frags.length < 15 →
      exec (.vsplit o c) s = .next (after (masked (List.zipWith (· &&& ·) m0 mc)) (elseE :: joinE :: st.frags) (st.r.pc + 4))) ∧
    (st.frags = [] → exec .vjoin s = .next (takeTrap s { cause := causeIllop, xval := memberXval 0x3C (st.r.pc.toNat / 4) })) ∧
    (∀ e rest, st.frags = e :: rest → e.isElse = true → emptyMasks st.r e.masks = false →
      exec .vjoin s = .next (after (masked e.masks) rest e.pc)) ∧
    (∀ e j rest, st.frags = e :: j :: rest → e.isElse = true → emptyMasks st.r e.masks = true →
      exec .vjoin s = .next (after (masked j.masks) rest (st.r.pc + 4))) ∧
    (∀ e rest, st.frags = e :: rest → e.isElse = false →
      exec .vjoin s = .next (after (masked e.masks) rest (st.r.pc + 4))) ∧
    exec (.vbnone o c) s = .next (after st.blocks st.frags
      (if emptyMasks st.r (List.zipWith (· &&& ·) m0 mc) then st.r.pc + o.signExtend 64 * 4 else st.r.pc + 4))

/-! ### Permutes, reductions, selections, scans -/

/-- R143, R144: the permutes read every source before they write, so that vd may overlap va; active elements take the
element the table names, the others follow R111; VCOMPR packs the active elements and treats the rest as tail. -/
def Sys2Proof.Parts.PermuteResults : Prop :=
  ∀ s st, Runs s st → VectorReady st → st.blocks ≠ [] → ∀ (m : BitVec 3) (x a d : BitVec 5),
    a.toNat % vtG st.r.vt = 0 → d.toNat % vtG st.r.vt = 0 →
    let w := vtWidth st.r.vt
    let vlb := vlbOf st.r.vt
    let n := (regRead st.r x.toNat).toNat
    let span := st.blocks.length
    let gives := fun (i : Instr) (val : Nat → Block → Nat → Nat) =>
      ∃ bls, exec i s = .next (putStrand s (vectorDone st st.r.mst bls)) ∧ GensKept st bls ∧
        ElemsWritten st bls w d.toNat (vtG st.r.vt) m.toNat val
    gives (.vslup m x a d) (fun _ bl j => if n ≤ j then elemRead bl w a.toNat (j - n) else elemRead bl w d.toNat j) ∧
    gives (.vsldn m x a d) (fun _ bl j => if j + n < vlb then elemRead bl w a.toNat (j + n) else 0) ∧
    (w ∈ [8, 16, 32, 64] → x.toNat % vtG st.r.vt = 0 → gives (.vgathr m x a d) (fun _ bl j =>
      if elemRead bl w x.toNat j < vlb then elemRead bl w a.toNat (elemRead bl w x.toNat j) else 0)) ∧
    gives (.vrev m a d) (fun b bl j => elemRead bl w a.toNat (min (st.r.vl - b * vlb) vlb - 1 - j)) ∧
    gives (.vxchgX m x a d) (fun b _ j => Forms.elemAt st w a.toNat (b ^^^ (n % span)) j) ∧
    gives (.vxchgR m x a d) (fun b _ j => Forms.elemAt st w a.toNat ((b + span - n % span) % span) j) ∧
    ∃ bls, exec (.vcompr m a d) s = .next (putStrand s (vectorDone st st.r.mst bls)) ∧
      Forms.Placed st bls w d.toNat (fun b bl j =>
        let l := Forms.actives st m.toNat b bl
        if st.r.vl = 0 then none
        else if j < l.length then some (elemRead bl w a.toNat (l.getD j 0))
        else if vtTz st.r.vt then some 0 else none) (fun _ bl => bl.carry)

/-- R146: each reduction writes local element 0 of every attached block with the seed combined with the active elements in
order, and no other element; at VL = 0 nothing is written (R112). -/
def Sys2Proof.Parts.ReductionResults : Prop :=
  ∀ s st, Runs s st → VectorReady st → vtWidth st.r.vt ∈ [8, 16, 32, 64] → ∀ (m : BitVec 3) (b a d : BitVec 5),
    a.toNat % vtG st.r.vt = 0 → b.toNat % vtG st.r.vt = 0 → d.toNat % vtG st.r.vt = 0 →
    let w := vtWidth st.r.vt
    ∀ f ∈ Forms.reduce, ∃ bls, exec (f.1 m b a d) s = .next (putStrand s (vectorDone st st.r.mst bls)) ∧
      Forms.Placed st bls w d.toNat (fun p bl j =>
        if st.r.vl = 0 ∨ j ≠ 0 then none
        else some ((Forms.actives st m.toNat p bl).foldl (fun r j => f.2 w r (elemRead bl w a.toNat j))
          (elemRead bl w b.toNat 0))) (fun _ bl => bl.carry)

/-- R147, R148: VARGMAX and VARGMIN write the index across the span of the largest or smallest active element, the lower
one of equals, or all ones; VTOPK writes the indices of the active elements by value descending and then by index, and
all ones beyond them, at every VL. -/
def Sys2Proof.Parts.SelectionResults : Prop :=
  ∀ s st, Runs s st → VectorReady st → vtWidth st.r.vt ∈ [32, 64] → ∀ (m : BitVec 3) (x a d : BitVec 5),
    a.toNat % vtG st.r.vt = 0 → d.toNat % vtG st.r.vt = 0 →
    let w := vtWidth st.r.vt
    let vlb := vlbOf st.r.vt
    let val := fun (bl : Block) (j : Nat) => signed w (elemRead bl w a.toNat j)
    let best := fun (i : Instr) (above : Int → Int → Prop) =>
      ∃ (bls : List Block) (pick : Nat → Block → Nat),
        exec i s = .next (putStrand s (vectorDone st st.r.mst bls)) ∧
        Forms.Placed st bls w d.toNat (fun p bl j => if st.r.vl = 0 ∨ j ≠ 0 then none else some (pick p bl)) (fun _ bl => bl.carry) ∧
        ∀ p bl, st.blocks[p]? = some bl →
          (Forms.actives st m.toNat p bl = [] → pick p bl = Forms.ones w) ∧
          ∀ j ∈ Forms.actives st m.toNat p bl,
            (∀ k ∈ Forms.actives st m.toNat p bl, ¬ above (val bl k) (val bl j) ∧ (val bl k = val bl j → j ≤ k)) →
            pick p bl = (p * vlb + j) % 2 ^ w
    best (.vargmax m a d) (fun u v => v < u) ∧ best (.vargmin m a d) (fun u v => u < v) ∧
    ∃ (bls : List Block) (order : Nat → Block → List Nat),
      exec (.vtopk m x a d) s = .next (putStrand s (vectorDone st st.r.mst bls)) ∧
      (∀ p bl, st.blocks[p]? = some bl → (order p bl).Perm (Forms.actives st m.toNat p bl) ∧
        (order p bl).Pairwise fun j k => val bl k < val bl j ∨ val bl k = val bl j ∧ j < k) ∧
      Forms.Placed st bls w d.toNat (fun p bl j =>
        if j < min (regRead st.r x.toNat).toNat vlb then
          some (if j < (order p bl).length then (p * vlb + (order p bl).getD j 0) % 2 ^ w else Forms.ones w)
        else none) (fun _ bl => bl.carry)

/-- R150: VSCAN and VSCANC write each active element with the sum of the active elements up to it, VSCANC from the carry
cell, which takes the sum of the block; the other elements follow R111; no flag is set. -/
def Sys2Proof.Parts.ScanResults : Prop :=
  ∀ s st, Runs s st → VectorReady st → vtWidth st.r.vt ∈ [8, 16, 32, 64] → ∀ (m : BitVec 3) (a d : BitVec 5),
    a.toNat % vtG st.r.vt = 0 → d.toNat % vtG st.r.vt = 0 →
    let w := vtWidth st.r.vt
    let sum := fun (bl : Block) (l : List Nat) => (l.map fun j => signed w (elemRead bl w a.toNat j)).sum
    ∀ f ∈ [(Instr.vscan m a d, false), (Instr.vscanc m a d, true)],
      ∃ bls, exec f.1 s = .next (putStrand s (vectorDone st st.r.mst bls)) ∧
        Forms.Placed st bls w d.toNat (fun p bl j =>
          let l := Forms.actives st m.toNat p bl
          some (outcome st.r m.toNat p j bl
            (wrap w ((if f.2 then (bl.carry.toNat : Int) else 0) + sum bl (l.filter (· ≤ j)))) 0 (elemRead bl w d.toNat j)))
          (fun p bl => if f.2 = true ∧ st.r.vl ≠ 0
            then BitVec.ofInt 64 (bl.carry.toNat + sum bl (Forms.actives st m.toNat p bl)) else bl.carry)

namespace Sys2Proof.Forms

/-! ### Vector floating-point forms -/

/-- A format's code with its sign bit cleared, flipped, or taken from another code (R161). -/
def withSign (f x s : Nat) : Nat := x % 2 ^ (fmtWidth f - 1) + s * 2 ^ (fmtWidth f - 1)

/-- The functions of two operands: on two groups, on a group and a scalar, the value from the format, the operands, the
rounding mode and the draw, and whether it rounds by FRM (R161). -/
noncomputable def vfp2 : List ((BitVec 3 → BitVec 5 → BitVec 5 → BitVec 5 → Instr) × (BitVec 3 → BitVec 5 → BitVec 5 → BitVec 5 → Instr) ×
    (Nat → Nat → Nat → Nat → Nat → FpRes) × Bool) :=
  [(.vfadd, .vfaddVx, fpAdd, true), (.vfsub, .vfsubVx, fpSub, true), (.vfmul, .vfmulVx, fpMul, true),
   (.vfdiv, .vfdivVx, fpDiv, true), (.vfmin, .vfminVx, fun f a b _ _ => fpMinMax f a b false, false),
   (.vfmax, .vfmaxVx, fun f a b _ _ => fpMinMax f a b true, false),
   (.vfsgnj, .vfsgnjVx, fun f a b _ _ =>
     { bits := withSign f a (b / 2 ^ (fmtWidth f - 1) % 2), flags := 0, nanc := 0 }, false)]

/-- The functions of one operand (R161, R162). -/
noncomputable def vfp1 : List ((BitVec 3 → BitVec 5 → BitVec 5 → Instr) × (Nat → Nat → Nat → Nat → FpRes) × Bool) :=
  [(.vfsqrt, fpSqrt, true), (.vfrsq, fpRsqrt, true), (.vfrcp, fpRecip, true), (.vfexp2, fun f a _ _ => fpExp2 f a, false),
   (.vflog2, fun f a _ _ => fpLog2 f a, false),
   (.vfabs, fun f a _ _ => { bits := withSign f a 0, flags := 0, nanc := 0 }, false),
   (.vfneg, fun f a _ _ => { bits := withSign f a (1 - a / 2 ^ (fmtWidth f - 1) % 2), flags := 0, nanc := 0 }, false),
   (.vfclass, fun f a _ _ => { bits := fpClass f a, flags := 0, nanc := 0 }, false)]

/-- The fused multiply-adds: whether the product and whether the addend is negated (R163). -/
noncomputable def vfma : List ((BitVec 3 → BitVec 5 → BitVec 5 → BitVec 5 → BitVec 5 → Instr) × Bool × Bool) :=
  [(.vfma, false, false), (.vfnma, true, false), (.vfmsa, false, true), (.vfnmsa, true, true)]

/-- The floating compares by their condition code (R44, R164). -/
noncomputable def vfcmp : List ((BitVec 3 → BitVec 5 → BitVec 5 → BitVec 3 → Instr) × (BitVec 3 → BitVec 5 → BitVec 5 → BitVec 3 → Instr) × Nat) :=
  [(.vfcmpEq, .vfcmpEqVx, 0), (.vfcmpNe, .vfcmpNeVx, 1), (.vfcmpLt, .vfcmpLtVx, 2), (.vfcmpLe, .vfcmpLeVx, 3),
   (.vfcmpGt, .vfcmpGtVx, 4), (.vfcmpGe, .vfcmpGeVx, 5), (.vfcmpUnord, .vfcmpUnordVx, 6), (.vfcmpOrd, .vfcmpOrdVx, 7)]

/-- An elementwise floating instruction gives, on every active element, the value `val` names from its position, block,
element and draw; its flags go to MST; the lane generators draw exactly when it rounds stochastically. -/
def FloatWritten (s : State) (st : Strand) (i : Instr) (w d g m mode : Nat) (draws : Bool) (mst : Word) (bls : List Block)
    (val : Nat → Block → Nat → Nat → FpRes) : Prop :=
  let u := fun (b : Nat) (bl : Block) (j : Nat) => if draws = true ∧ mode = 5 then drawOf st m b bl j else 0
  exec i s = .next (putStrand s (vectorDone st mst bls)) ∧
    ElemsWritten st bls w d g m (fun b bl j => (val b bl j (u b bl j)).bits % 2 ^ w) ∧
    FlagsRaised st.r.mst mst (fun x => ∃ b j bl, Acts st m b j bl ∧ x = val b bl j (u b bl j)) ∧
    (if draws = true ∧ mode = 5 ∧ st.r.vl ≠ 0 then GensDrawn st bls m else GensKept st bls)

/-- The same for some MST and blocks. -/
def GivesFloat (s : State) (st : Strand) (i : Instr) (w d g m mode : Nat) (draws : Bool)
    (val : Nat → Block → Nat → Nat → FpRes) : Prop :=
  ∃ mst bls, FloatWritten s st i w d g m mode draws mst bls val

/-- The first local element of the element group, counted in width `w`, that holds local element `j` (R106). -/
def groupLo (w j : Nat) : Nat := groupStart w (j * w / 2048)

/-- What stands at position `b` before the element group whose first element has index `lo` in the group at `d` of width `w`: the
element groups before it have committed, so their elements are those that stand there in the end (R5, R115). -/
def committed (w d lo b : Nat) (bls : List Block) (bl : Block) : Block :=
  let m := BitVec.ofNat vfileBits ((2 ^ (lo * w) - 1) * 2 ^ (d * vregBits))
  { bl with v := (bl.v &&& ~~~m) ||| ((bls.getD b bl).v &&& m) }

/-- The results of a fold's steps, each of them the operand of the next (R146, R178). -/
def folded (op : Nat → Nat → FpRes) : Nat → List Nat → List FpRes
  | _, [] => []
  | r, x :: t => op r x :: folded op (op r x).bits t

/-- The result of one of the sums of VFREDTREE over `2^k` nodes (R178). -/
def TreeStep (add : Nat → Nat → FpRes) : Nat → (Nat → Option Nat) → FpRes → Prop
  | 0, _, _ => False
  | k + 1, x, y =>
    (∃ j a b, j < 2 ^ k ∧ x j = some a ∧ x (j + 2 ^ k) = some b ∧ y = add a b) ∨
      TreeStep add k (fun j =>
        match x j, x (j + 2 ^ k) with
        | some a, some b => some (add a b).bits
        | some a, none => some a
        | none, b => b) y

/-- The tree sum of `2^k` nodes of which some are absent: at the stride of half the nodes, node `j` takes the sum of itself
and its partner, or the present one (R178). -/
def tree (add : Nat → Nat → Nat) : Nat → (Nat → Option Nat) → Option Nat
  | 0, x => x 0
  | k + 1, x => tree add k fun j =>
    match x j, x (j + 2 ^ k) with
    | some a, some b => some (add a b)
    | some a, none => some a
    | none, b => b

end Sys2Proof.Forms

/-! ### Vector floating point -/

/-- R89, R96, R156: taking a result raises its flags and clears none, and its NaN cause, if it has one, replaces NANC. -/
def Obligations.FlagsAreSticky : Prop :=
  ∀ (mst : Word) (x : FpRes), x.flags < 256 → x.nanc < 7 →
    (∀ k, k < 16 → (mstWith mst x.flags x.nanc).getLsbD k = (mst.getLsbD k || x.flags.testBit k)) ∧
    (x.nanc = 0 → ∀ k, 16 ≤ k → (mstWith mst x.flags x.nanc).getLsbD k = mst.getLsbD k) ∧
    (x.nanc ≠ 0 → (mstWith mst x.flags x.nanc).toNat / 2 ^ 16 % 16 = x.nanc ∧
      ∀ k, 20 ≤ k → (mstWith mst x.flags x.nanc).getLsbD k = mst.getLsbD k)

/-- R158, R160 to R163: every vector floating-point function on groups, on a group and a scalar, and fused, in the four
formats, with its flags and its draws. How the finite results round is in `RoundingResults`; that VFMIN and VFMAX draw nothing
is the model's reading (log entry 24). -/
def Sys2Proof.Parts.VectorFloatResults : Prop :=
  ∀ s st, Runs s st → VectorReady st → vtFmt st.r.vt < 4 → ∀ (m : BitVec 3) (c x a d : BitVec 5),
    a.toNat % vtG st.r.vt = 0 → d.toNat % vtG st.r.vt = 0 →
    let f := vtFmt st.r.vt
    let w := vtWidth st.r.vt
    let mode := st.r.frm.toNat % 8
    let gives := fun (i : Instr) (draws : Bool) (val : Nat → Block → Nat → Nat → FpRes) =>
      Forms.GivesFloat s st i w d.toNat (vtG st.r.vt) m.toNat mode draws val
    (∀ e ∈ Forms.vfp2,
      (x.toNat % vtG st.r.vt = 0 →
        gives (e.1 m x a d) e.2.2.2 (fun _ bl j u => e.2.2.1 f (elemRead bl w a.toNat j) (elemRead bl w x.toNat j) mode u)) ∧
      gives (e.2.1 m x a d) e.2.2.2
        (fun _ bl j u => e.2.2.1 f (elemRead bl w a.toNat j) ((regRead st.r x.toNat).toNat % 2 ^ w) mode u)) ∧
    (∀ e ∈ Forms.vfp1, gives (e.1 m a d) e.2.2 (fun _ bl j u => e.2.1 f (elemRead bl w a.toNat j) mode u)) ∧
    (x.toNat % vtG st.r.vt = 0 → c.toNat % vtG st.r.vt = 0 → ∀ e ∈ Forms.vfma,
      gives (e.1 m c x a d) true (fun _ bl j u => fpFma f e.2.1 e.2.2 (elemRead bl w a.toNat j) (elemRead bl w x.toNat j)
        (elemRead bl w c.toNat j) mode u))

/-- R164: every active bit of m[md] takes the comparison, whose flags go to MST; the others follow R111. That the bits from VLB up
stay, with TZ = 1 too, is the model's choice (log entry 58). -/
def Sys2Proof.Parts.VectorFloatCompares : Prop :=
  ∀ s st, Runs s st → VectorReady st → vtFmt st.r.vt < 4 → ∀ (m d : BitVec 3) (x a : BitVec 5),
    a.toNat % vtG st.r.vt = 0 →
    let w := vtWidth st.r.vt
    let gives := fun (i : Instr) (k : Nat) (src : Block → Nat → Nat) =>
      let val := fun (bl : Block) (j : Nat) => fpCompare (vtFmt st.r.vt) k (elemRead bl w a.toNat j) (src bl j)
      ∃ mst bls, exec i s = .next (putStrand s (vectorDone st mst bls)) ∧
        BitsWritten st bls d.toNat m.toNat (fun _ bl j => (val bl j).1) ∧
        FlagsRaised st.r.mst mst (fun y => ∃ b j bl, Acts st m.toNat b j bl ∧ y = ⟨0, (val bl j).2, 0⟩)
    ∀ e ∈ Forms.vfcmp,
      (x.toNat % vtG st.r.vt = 0 → gives (e.1 m x a d) e.2.2 (fun bl j => elemRead bl w x.toNat j)) ∧
      gives (e.2.1 m x a d) e.2.2 (fun _ _ => (regRead st.r x.toNat).toNat % 2 ^ w)

/-- R166 to R172: VCVT converts every active element between the formats of its word, with the mode of its rounding code,
into a group of as many registers as the destination's width needs. An element group reads what the groups before it have
committed (R5, R115), where the destination overlaps the source. -/
def Sys2Proof.Parts.VectorConversions : Prop :=
  ∀ s st, Runs s st → VectorReady st → ∀ (t : BitVec 4) (r m : BitVec 3) (x : BitVec 1) (f : BitVec 4) (a d : BitVec 5),
    r ≠ 7 → Instr.convertible t f x r = true → alignedAt st.r (fmtWidth f.toNat) a.toNat = true →
    alignedAt st.r (fmtWidth t.toNat) d.toNat = true →
    let mode := if r = 6 then st.r.frm.toNat % 8 else r.toNat
    let wf := fmtWidth f.toNat
    let wt := fmtWidth t.toNat
    ∃ mst bls,
      let read := fun (b : Nat) (bl : Block) (j : Nat) =>
        elemRead (Forms.committed wt d.toNat (Forms.groupLo (max wf wt) j) b bls bl) wf a.toNat j
      Forms.FloatWritten s st (.vcvt t r m x f a d) wt d.toNat (groupRegs (vlbOf st.r.vt) wt) m.toNat mode true mst bls
        (fun b bl j u => cvtValue t.toNat f.toNat (x == 1) (read b bl j) mode u)

/-- R157, R168 to R171: conversions among integers are exact or clamp; a finite float becomes the integer its mode rounds it to, with
NX when that is another number, or, beyond the format as an infinity, its largest or smallest integer with SAT or NV; a NaN
becomes 0 with NV. -/
def Sys2Proof.Parts.ConversionValues : Prop :=
  ∀ x mode u : Nat,
    (∀ t ∈ [9, 10, 11, 12], ∀ f ∈ [9, 10, 11, 12], x < 2 ^ fmtWidth f →
      let v := signed (fmtWidth f) x
      let h : Int := (2 ^ (fmtWidth t - 1) : Nat)
      (-h ≤ v → v < h → ∀ sat, cvtValue t f sat x mode u = ⟨wrap (fmtWidth t) v, 0, 0⟩) ∧
      (h ≤ v → (cvtValue t f true x mode u).bits = (h - 1).toNat ∧ (cvtValue t f true x mode u).flags = 0x20) ∧
      (v < -h → (cvtValue t f true x mode u).bits = h.toNat ∧ (cvtValue t f true x mode u).flags = 0x20)) ∧
    (mode < 5 → ∀ t ∈ [9, 10, 11, 12], ∀ f ∈ [0, 1, 2, 3], ∀ sat,
      let h : Int := (2 ^ (fmtWidth t - 1) : Nat)
      let out := if sat then 0x20 else 1
      let v := cvtValue t f sat x mode u
      (∀ n m e, fpDecode f x = .fin n m e → ∃ r : Int, Forms.RoundsToInt mode (Forms.valueOf (fpDecode f x)) r ∧
        (-h ≤ r → r < h → v.bits = wrap (fmtWidth t) r ∧ (v.flags = 0 ∨ v.flags = 8) ∧
          (v.flags = 0 ↔ (r : ℝ) = Forms.valueOf (fpDecode f x))) ∧
        (h ≤ r → v.bits = (h - 1).toNat ∧ v.flags = out) ∧ (r < -h → v.bits = h.toNat ∧ v.flags = out)) ∧
      ∀ n, fpDecode f x = .inf n → v.bits = (if n then h.toNat else (h - 1).toNat) ∧ v.flags = out) ∧
    (∀ t ∈ [9, 10, 11, 12], ∀ f ∈ [0, 1, 2, 3], ∀ sat,
      ((fpDecode f x).isNan = true → (cvtValue t f sat x mode u).bits = 0 ∧ (cvtValue t f sat x mode u).flags = 1) ∧
      ∀ n m e k, fpDecode f x = .fin n m e → m * 2 ^ e.toNat = k * 2 ^ (-e).toNat → k < 2 ^ (fmtWidth t - 1) →
        cvtValue t f sat x mode u = ⟨wrap (fmtWidth t) (if n then -(k : Int) else k), 0, 0⟩)

/-- R174 to R177: VSCALE writes one scale byte for each block of elements with any below VL, the bytes above are tail; VQNT
and VDQNT move every active element between FP32 and the format of VT under its scale byte. An element group reads what the
groups before it have committed (R5, R115), where the destination overlaps an operand. -/
def Obligations.BlockScaleResults : Prop :=
  ∀ s st, Runs s st → VectorReady st → scaleFormat st.r.vt = true → ∀ (m : BitVec 3) (x a d : BitVec 5),
    let w := vtWidth st.r.vt
    let k := vtSblk st.r.vt
    let mode := st.r.frm.toNat % 8
    let g32 := groupRegs (vlbOf st.r.vt) 32
    (alignedAt st.r 32 a.toNat = true →
      ∃ (mst : Word) (bls : List Block),
        let read := fun (b : Nat) (bl : Block) (j : Nat) =>
          elemRead (Forms.committed 8 d.toNat (Forms.groupLo 32 j / k) b bls bl) 32 a.toNat j
        let val := fun (b : Nat) (bl : Block) (q : Nat) => scaleOf (vtFmt st.r.vt)
          (((Forms.actives st m.toNat b bl).filter fun j => j / k == q).map (read b bl))
        exec (.vscale m a d) s = .next (putStrand s (vectorDone st mst bls)) ∧ bls.length = st.blocks.length ∧
        FlagsRaised st.r.mst mst (fun y => st.r.vl ≠ 0 ∧ ∃ b q bl, st.blocks[b]? = some bl ∧
          q * k < min (st.r.vl - b * vlbOf st.r.vt) (vlbOf st.r.vt) ∧ y = val b bl q) ∧
        ∀ b bl, st.blocks[b]? = some bl → ∃ bl', bls[b]? = some bl' ∧ bl' = { bl with v := bl'.v } ∧
          (∀ q, q < 2048 → elemRead bl' 8 d.toNat q =
            if st.r.vl = 0 then elemRead bl 8 d.toNat q
            else if q * k < min (st.r.vl - b * vlbOf st.r.vt) (vlbOf st.r.vt) then (val b bl q).bits % 256
            else if vtTz st.r.vt then 0 else elemRead bl 8 d.toNat q) ∧
          ∀ n, n < 32 → n ≠ d.toNat → getField bl'.v (n * vregBits) vregBits = getField bl.v (n * vregBits) vregBits) ∧
    (alignedAt st.r 32 a.toNat = true → d.toNat % vtG st.r.vt = 0 →
      ∃ mst bls,
        let at' := fun (b : Nat) (bl : Block) (j : Nat) => Forms.committed w d.toNat (Forms.groupLo 32 j) b bls bl
        Forms.FloatWritten s st (.vqnt m x a d) w d.toNat (vtG st.r.vt) m.toNat mode true mst bls
          (fun b bl j u => quantValue (vtFmt st.r.vt) (elemRead (at' b bl j) 32 a.toNat j) (elemRead (at' b bl j) 8 x.toNat (j / k))
            mode u)) ∧
    (alignedAt st.r 32 d.toNat = true → a.toNat % vtG st.r.vt = 0 →
      ∃ mst bls,
        let at' := fun (b : Nat) (bl : Block) (j : Nat) => Forms.committed 32 d.toNat (Forms.groupLo 32 j) b bls bl
        Forms.FloatWritten s st (.vdqnt m x a d) 32 d.toNat g32 m.toNat mode true mst bls
          (fun b bl j u => dequantValue (vtFmt st.r.vt) (elemRead (at' b bl j) w a.toNat j)
            (elemRead (at' b bl j) 8 x.toNat (j / k)) mode u))

/-- R178, R179: VFREDSUM and VFREDMAX fold the active elements from the seed in order, VFREDTREE sums them by strides and
adds the seed last, and each writes local element 0 of every block; VFSCANC scans from the carry cell and leaves the last
sum in it; MST takes the flags and the NaN cause of every step (R156). The values are stated for the rounding modes that draw
nothing. -/
def Sys2Proof.Parts.VectorFloatReductions : Prop :=
  ∀ s st, Runs s st → VectorReady st → vtFmt st.r.vt < 4 → st.r.frm.toNat % 8 ≠ 5 → ∀ (m : BitVec 3) (b a d : BitVec 5),
    a.toNat % vtG st.r.vt = 0 → b.toNat % vtG st.r.vt = 0 → d.toNat % vtG st.r.vt = 0 →
    let f := vtFmt st.r.vt
    let w := vtWidth st.r.vt
    let add := fun (x y : Nat) => (fpAdd f x y (st.r.frm.toNat % 8) 0).bits
    let elem := fun (bl : Block) (j : Nat) => elemRead bl w a.toNat j
    let seed := fun (bl : Block) => elemRead bl w b.toNat 0
    let sumOf := fun (x y : Nat) => fpAdd f x y (st.r.frm.toNat % 8) 0
    let values := fun (p : Nat) (bl : Block) => (Forms.actives st m.toNat p bl).map (elem bl)
    let node := fun (p : Nat) (bl : Block) (j : Nat) => if j ∈ Forms.actives st m.toNat p bl then some (elem bl j) else none
    let gives := fun (i : Instr) (val : Nat → Block → Nat) (step : Nat → Block → FpRes → Prop) =>
      ∃ mst bls, exec i s = .next (putStrand s (vectorDone st mst bls)) ∧
        FlagsRaised st.r.mst mst (fun y => ∃ p bl, st.r.vl ≠ 0 ∧ st.blocks[p]? = some bl ∧ step p bl y) ∧
        Forms.Placed st bls w d.toNat
          (fun p bl j => if st.r.vl = 0 ∨ j ≠ 0 then none else some (val p bl % 2 ^ w)) (fun _ bl => bl.carry)
    let prefixSum := fun (p : Nat) (bl : Block) (j : Nat) =>
      ((Forms.actives st m.toNat p bl).filter (· ≤ j)).foldl (fun r j => add r (elem bl j)) (bl.carry.toNat % 2 ^ w)
    gives (.vfredsum m b a d) (fun p bl => (Forms.actives st m.toNat p bl).foldl (fun r j => add r (elem bl j)) (seed bl))
      (fun p bl y => y ∈ Forms.folded sumOf (seed bl) (values p bl)) ∧
    gives (.vfredmax m b a d)
      (fun p bl => (Forms.actives st m.toNat p bl).foldl (fun r j => (fpMinMax f r (elem bl j) true).bits) (seed bl))
      (fun p bl y => y ∈ Forms.folded (fun r x => fpMinMax f r x true) (seed bl) (values p bl)) ∧
    gives (.vfredtree m b a d) (fun p bl =>
      match Forms.tree add (Nat.log2 (vlbOf st.r.vt)) (node p bl) with
      | some x => add (seed bl) x
      | none => seed bl)
      (fun p bl y => Forms.TreeStep sumOf (Nat.log2 (vlbOf st.r.vt)) (node p bl) y ∨
        ∃ x, Forms.tree add (Nat.log2 (vlbOf st.r.vt)) (node p bl) = some x ∧ y = sumOf (seed bl) x) ∧
    ∃ mst bls, exec (.vfscanc m a d) s = .next (putStrand s (vectorDone st mst bls)) ∧
      FlagsRaised st.r.mst mst (fun y => ∃ p bl, st.r.vl ≠ 0 ∧ st.blocks[p]? = some bl ∧
        y ∈ Forms.folded sumOf (bl.carry.toNat % 2 ^ w) (values p bl)) ∧
      Forms.Placed st bls w d.toNat
        (fun p bl j => some (outcome st.r m.toNat p j bl (prefixSum p bl j % 2 ^ w) 0 (elemRead bl w d.toNat j)))
        (fun p bl => if st.r.vl = 0 then bl.carry else BitVec.ofNat 64 (prefixSum p bl (vlbOf st.r.vt)))

/-- R147, R148: the floating selections leave NaNs out and raise NV for a signalling one; VFARGMAX writes the index of the
largest active number, the lower one of equals, −0 below +0, or all ones; VFTOPK the indices in that order. That VFTOPK with
k = 0 raises NV for a signalling NaN is the model's choice (log entry 58). -/
def Sys2Proof.Parts.VectorFloatSelections : Prop :=
  ∀ s st, Runs s st → VectorReady st → vtFmt st.r.vt < 2 → ∀ (m : BitVec 3) (x a d : BitVec 5),
    a.toNat % vtG st.r.vt = 0 → d.toNat % vtG st.r.vt = 0 →
    let f := vtFmt st.r.vt
    let w := vtWidth st.r.vt
    let vlb := vlbOf st.r.vt
    let num := fun (p : Nat) (bl : Block) =>
      (Forms.actives st m.toNat p bl).filter fun j => !(fpDecode f (elemRead bl w a.toNat j)).isNan
    let above := fun (bl : Block) (j k : Nat) => fpAbove f (elemRead bl w a.toNat j) (elemRead bl w a.toNat k)
    let flags := fun (on : Prop) (mst : Word) =>
      ((on ∧ ∃ b j bl, Acts st m.toNat b j bl ∧ (fpDecode f (elemRead bl w a.toNat j)).isSnan = true) → mst = st.r.mst ||| 1) ∧
      (¬ (on ∧ ∃ b j bl, Acts st m.toNat b j bl ∧ (fpDecode f (elemRead bl w a.toNat j)).isSnan = true) → mst = st.r.mst)
    (∃ (mst : Word) (bls : List Block) (pick : Nat → Block → Nat),
      exec (.vfargmax m a d) s = .next (putStrand s (vectorDone st mst bls)) ∧ flags (st.r.vl ≠ 0) mst ∧
      Forms.Placed st bls w d.toNat (fun p bl j => if st.r.vl = 0 ∨ j ≠ 0 then none else some (pick p bl)) (fun _ bl => bl.carry) ∧
      ∀ p bl, st.blocks[p]? = some bl → (num p bl = [] → pick p bl = Forms.ones w) ∧
        ∀ j ∈ num p bl, (∀ k ∈ num p bl, above bl k j = false ∧ (above bl j k = false → j ≤ k)) →
          pick p bl = (p * vlb + j) % 2 ^ w) ∧
    ∃ (mst : Word) (bls : List Block) (order : Nat → Block → List Nat),
      exec (.vftopk m x a d) s = .next (putStrand s (vectorDone st mst bls)) ∧ flags True mst ∧
      (∀ p bl, st.blocks[p]? = some bl → (order p bl).Perm (num p bl) ∧
        (order p bl).Pairwise fun j k => above bl j k = true ∨ above bl k j = false ∧ j < k) ∧
      Forms.Placed st bls w d.toNat (fun p bl j =>
        if j < min (regRead st.r x.toNat).toNat vlb then
          some (if j < (order p bl).length then (p * vlb + (order p bl).getD j 0) % 2 ^ w else Forms.ones w)
        else none) (fun _ bl => bl.carry)

namespace Sys2Proof.Forms

/-! ### Vector memory forms -/

/-- An addressing form (R195, R201): the load and the store, the checks at issue, the fields of a record, and the bit
address of field `f` of local element `j` at position `b` from the memory width. -/
structure MemForm where
  load : BitVec 1 → BitVec 2 → BitVec 3 → BitVec 3 → BitVec 5 → BitVec 6 → BitVec 5 → Instr
  store : BitVec 1 → BitVec 2 → BitVec 3 → BitVec 3 → BitVec 5 → BitVec 6 → BitVec 5 → Instr
  refused : BitVec 3 → BitVec 5 → BitVec 5 → Strand → Bool
  refusedLoad : BitVec 5 → BitVec 5 → Strand → Bool
  fields : BitVec 5 → Nat
  addr : Regs → BitVec 3 → BitVec 5 → BitVec 6 → Nat → Nat → Block → Nat → Nat → Nat

/-- Unit, strided, indexed and segment accesses. -/
noncomputable def mem : List MemForm :=
  [{ load := .vld, store := .vst, refused := unitBad, refusedLoad := fun _ _ _ => false, fields := fun _ => 1,
     addr := fun r w x a wm b _ j _ => (regRead r a.toNat).toNat * 8 + unitOffset w x + (b * vlbOf r.vt + j) * wm },
   { load := .vlds, store := .vsts, refused := fun w _ d st => wideBad w d st, refusedLoad := fun _ _ _ => false,
     fields := fun _ => 1,
     addr := fun r _ x a _ b _ j _ =>
       8 * (regRead r a.toNat + BitVec.ofNat 64 (b * vlbOf r.vt + j) * regRead r x.toNat).toNat },
   { load := .vldx, store := .vstx, refused := fun w x d st => wideBad w d st || indexBad x st, refusedLoad := indexOverlap,
     fields := fun _ => 1,
     addr := fun r _ x a _ _ bl j _ =>
       8 * (((regRead r a.toNat).toNat + elemRead bl (if vtWidth r.vt < 64 then 32 else 64) x.toNat j) % 2 ^ 64) },
   { load := .vlseg, store := .vsseg, refused := segmentBad, refusedLoad := fun _ _ _ => false, fields := fun x => x.toNat + 1,
     addr := fun r _ x a wm b _ j f =>
       (regRead r a.toNat).toNat * 8 + ((b * vlbOf r.vt + j) * (x.toNat + 1) + f) * wm }]

/-- Whether field `f` of active element `j` of position `b` has bit `p` of its memory image at bit `q` of the byte at
key `k`. -/
def Writes (s : State) (pages : Nat → Nat → Nat → List Xl) (at' : Nat → Block → Nat → Nat → Nat) (wm b j f : Nat) (bl : Block)
    (p k q : Nat) : Prop :=
  p < wm ∧ k = keyOf s (pages b j f) (at' b bl j f / 8 % 2 ^ 64) ((at' b bl j f % 8 + p) / 8) ∧ q = (at' b bl j f + p) % 8

end Sys2Proof.Forms

/-! ### Vector memory -/

/-- R195 to R201: every vector load whose accesses pass their checks writes each active element, and each field of a
segment, with the widened value of its memory width at its address, whatever the order in which a position or a field
comes; the other elements follow R111; memory does not change. An access to a strongly ordered page has the last write of the
vector stream to one performed (R307). -/
def Obligations.VectorLoadResults : Prop :=
  ∀ s st, Runs s st → VectorReady st → slogCount st = 0 → st.blocks ≠ [] →
    ∀ e ∈ Forms.mem, ∀ (n : BitVec 1) (r : BitVec 2) (w m : BitVec 3) (x : BitVec 5) (a : BitVec 6) (d : BitVec 5),
    e.refused w x d st = false → e.refusedLoad x d st = false →
    let wm := vmWidth st.r.vt w
    let g := vtG st.r.vt
    let at' := fun (b : Nat) (bl : Block) (j f : Nat) => e.addr st.r w x a wm b bl j f
    let size := fun (v : Nat) => (v % 8 + wm + 7) / 8
    ∀ pages : Nat → Nat → Nat → List Xl,
    (∀ b j bl f, Acts st m.toNat b j bl → f < e.fields x →
      let va := at' b bl j f / 8 % 2 ^ 64
      watchHit st.r va (size (at' b bl j f)) .read = none ∧
        Steady (fun _ => False) s b va (size (at' b bl j f)) .read (pages b j f) ∧ Quiet s st (pages b j f) va) →
    let val := fun (b : Nat) (bl : Block) (j f : Nat) => widenElem st.r.vt wm
      (valueAt s (pages b j f) (at' b bl j f / 8 % 2 ^ 64) (size (at' b bl j f)) / 2 ^ (at' b bl j f % 8) % 2 ^ wm)
    ∃ mst bls bays dirty,
      exec (e.load n r w m x a d) s = .next (putStrand { s with bays := bays, dirty := dirty } (vectorDone st mst bls)) ∧
      (r ≠ 2 ∨ n = 1 → bays = s.bays) ∧ GensKept st bls ∧ bls.length = st.blocks.length ∧
      FlagsRaised st.r.mst mst
        (fun y => ∃ b j bl f, Acts st m.toNat b j bl ∧ f < e.fields x ∧ y = val b bl j f) ∧
      let strong := ∃ b j bl f, Acts st m.toNat b j bl ∧ f < e.fields x ∧ ∃ p ∈ pages b j f, p.ord = 1
      ∀ b bl, st.blocks[b]? = some bl → ∃ bl', bls[b]? = some bl' ∧
        (strong → bl' = { Block.strongDone true bl with v := bl'.v }) ∧ (¬ strong → bl' = { bl with v := bl'.v }) ∧
        (∀ f j, f < e.fields x → j < vlbOf st.r.vt → elemRead bl' (vtWidth st.r.vt) (d.toNat + f * g) j =
          outcome st.r m.toNat b j bl ((val b bl j f).bits % 2 ^ vtWidth st.r.vt) 0
            (elemRead bl (vtWidth st.r.vt) (d.toNat + f * g) j)) ∧
        ∀ k, k < 32 → k < d.toNat ∨ d.toNat + e.fields x * g ≤ k →
          getField bl'.v (k * vregBits) vregBits = getField bl.v (k * vregBits) vregBits

/-- R195 to R201: every vector store whose accesses pass their checks stores the narrowed elements, and the fields of a
segment, at their addresses; where several active elements write a bit through the same address it takes the
highest-indexed one's value; every other bit of memory and every register stays. -/
def Obligations.VectorStoreResults : Prop :=
  ∀ s st, Runs s st → VectorReady st → slogCount st = 0 → st.blocks ≠ [] → MemOk s →
    ∀ e ∈ Forms.mem, ∀ (n : BitVec 1) (r : BitVec 2) (w m : BitVec 3) (x : BitVec 5) (a : BitVec 6) (d : BitVec 5),
    e.refused w x d st = false →
    let wm := vmWidth st.r.vt w
    let g := vtG st.r.vt
    let at' := fun (b : Nat) (bl : Block) (j f : Nat) => e.addr st.r w x a wm b bl j f
    let size := fun (v : Nat) => (v % 8 + wm + 7) / 8
    ∀ pages : Nat → Nat → Nat → List Xl,
    let writes := fun (b j f : Nat) (bl : Block) (p k q : Nat) =>
      Acts st m.toNat b j bl ∧ f < e.fields x ∧ Forms.Writes s pages at' wm b j f bl p k q
    (∀ b j bl f, Acts st m.toNat b j bl → f < e.fields x →
      let va := at' b bl j f / 8 % 2 ^ 64
      watchHit st.r va (size (at' b bl j f)) .write = none ∧ Quiet s st (pages b j f) va ∧
        Steady (fun k => ∃ b' j' bl' f' i, Acts st m.toNat b' j' bl' ∧ f' < e.fields x ∧ i < size (at' b' bl' j' f') ∧
          k = keyOf s (pages b' j' f') (at' b' bl' j' f' / 8 % 2 ^ 64) i)
          s b va (size (at' b bl j f)) .write (pages b j f)) →
    ∃ (t : State) (st' : Strand) (u : Nat → Nat → Nat → Nat), exec (e.store n r w m x a d) s = .next t ∧ Runs t st' ∧
      t = { s with mem := t.mem, bays := t.bays, dirty := t.dirty, written := t.written, strands := t.strands, fresh := t.fresh } ∧
      (∀ k, k ≠ s.cur → t.strands[k]? = s.strands[k]?) ∧
      st' = { vectorDone st st'.r.mst st'.blocks with pending := st'.pending } ∧
      (st'.blocks.map fun bl => { still bl with v := bl.v }) = (st.blocks.map fun bl => { still bl with v := bl.v }) ∧
      (¬ (st.r.frm.toNat % 8 = 5 ∧ (vmFloat st.r.vt wm).isSome = true) → GensKept st st'.blocks) ∧
      let img := fun (b j f : Nat) (bl : Block) =>
        narrowElem st.r.vt wm (elemRead bl (vtWidth st.r.vt) (d.toNat + f * g) j) (st.r.frm.toNat % 8) (u b j f)
      FlagsRaised st.r.mst st'.r.mst
        (fun y => ∃ b j bl f, Acts st m.toNat b j bl ∧ f < e.fields x ∧ y = img b j f bl) ∧
      (∀ b j f bl p k q, writes b j f bl p k q →
        (∀ b' j' f' bl' p', writes b' j' f' bl' p' k q →
          (b', j', f', p') = (b, j, f, p) ∨
          b' * vlbOf st.r.vt + j' < b * vlbOf st.r.vt + j ∧
            (at' b' bl' j' f' / 8 % 2 ^ 64 + (at' b' bl' j' f' % 8 + p') / 8) % 2 ^ 64 =
              (at' b bl j f / 8 % 2 ^ 64 + (at' b bl j f % 8 + p) / 8) % 2 ^ 64) →
        (memRead t.mem k).getLsbD q = (img b j f bl).bits.testBit p) ∧
      ∀ k q, q < 8 → (∀ b j f bl p, ¬ writes b j f bl p k q) → (memRead t.mem k).getLsbD q = (memRead s.mem k).getLsbD q

/-- R203: LSLD and LSST reach the slice of each element's lane at s[sa] plus its index; with every active offset inside the
slice and aligned, a load widens what stands there, a store leaves the narrowed element, the highest-indexed one where
several meet, and no generic memory changes. A damaged word of a slice is whole again only when it is written whole (R435, log
entry 45). -/
def Sys2Proof.Parts.LaneSliceResults : Prop :=
  ∀ s st, Runs s st → VectorReady st → expandHolds s s.cur (fun kind _ _ => kind == 2) = false →
    ∀ (w m : BitVec 3) (x : BitVec 5) (a : BitVec 6) (d : BitVec 5), sliceBad w x d st = false →
    let wm := vmWidth st.r.vt w
    let at' := fun (bl : Block) (j : Nat) =>
      ((regRead st.r a.toNat).toNat + elemRead bl (if vtWidth st.r.vt < 64 then 32 else 64) x.toNat j) % 2 ^ 64
    (∀ b j bl, Acts st m.toNat b j bl → at' bl j + wm / 8 ≤ 8192 * (bayOf s bl.bay).k ∧ at' bl j % (wm / 8) = 0) →
    (indexOverlap x d st = false →
      (∀ b j bl, Acts st m.toNat b j bl → sliceBadAt bl (98304 * (j % 64) + at' bl j) (wm / 8) = false) →
      let val := fun (bl : Block) (j : Nat) =>
        widenElem st.r.vt wm (leValue (memReadList bl.slices (98304 * (j % 64) + at' bl j) (wm / 8)))
      ∃ mst bls, exec (.lsld w m x a d) s = .next (putStrand s (vectorDone st mst bls)) ∧ GensKept st bls ∧
        ElemsWritten st bls (vtWidth st.r.vt) d.toNat (vtG st.r.vt) m.toNat
          (fun _ bl j => (val bl j).bits % 2 ^ vtWidth st.r.vt) ∧
        FlagsRaised st.r.mst mst (fun y => ∃ b j bl, Acts st m.toNat b j bl ∧ y = val bl j)) ∧
    ((∀ bl ∈ st.blocks, memWf bl.slices = true) →
      ∃ (mst : Word) (bls : List Block) (u : Nat → Nat → Nat),
        exec (.lsst w m x a d) s = .next (putStrand s (vectorDone st mst bls)) ∧ bls.length = st.blocks.length ∧
        (¬ (st.r.frm.toNat % 8 = 5 ∧ (vmFloat st.r.vt wm).isSome = true) → GensKept st bls) ∧
        let img := fun (b j : Nat) (bl : Block) =>
          narrowElem st.r.vt wm (elemRead bl (vtWidth st.r.vt) d.toNat j) (st.r.frm.toNat % 8) (u b j)
        FlagsRaised st.r.mst mst (fun y => ∃ b j bl, Acts st m.toNat b j bl ∧ y = img b j bl) ∧
        ∀ b bl, st.blocks[b]? = some bl → ∃ bl', bls[b]? = some bl' ∧
          bl' = { bl with slices := bl'.slices, gens := bl'.gens, badRegs := bl'.badRegs } ∧
          let holds := fun (j i p : Nat) =>
            Acts st m.toNat b j bl ∧ i < wm / 8 ∧ p = 98304 * (j % 64) + at' bl j + i
          (∀ x, x ∈ bl'.badRegs → x ∈ bl.badRegs) ∧
          (∀ x ∈ bl.badRegs, x ∉ bl'.badRegs → x % 2 ^ 16 = 0x600 ∧ ∀ i, i < 8 → ∃ j i', holds j i' (8 * (x / 2 ^ 16) + i)) ∧
          (∀ j i p, holds j i p → (∀ j' i', holds j' i' p → j' ≤ j) →
            memRead bl'.slices p = BitVec.ofNat 8 ((img b j bl).bits / 256 ^ i)) ∧
          ∀ p, (∀ j i, ¬ holds j i p) → memRead bl'.slices p = memRead bl.slices p)

/-- R205: VSPL stores a header of VL, VT, the span and four zero bytes, and after it every element below VL, whatever the
masks hold; no other bit of memory and no register changes. -/
def Sys2Proof.Parts.SpillResults : Prop :=
  ∀ s st, Runs s st → VectorReady st → slogCount st = 0 → MemOk s → ∀ (a : BitVec 6) (d : BitVec 5),
    d.toNat % vtG st.r.vt = 0 → (regRead st.r a.toNat).toNat % 16 = 0 →
    let sa := (regRead st.r a.toNat).toNat
    let w := vtWidth st.r.vt
    let vlb := vlbOf st.r.vt
    let bit := fun (b j : Nat) => (sa + 16) * 8 + (b * vlb + j) * w
    let size := fun (v : Nat) => (v % 8 + w + 7) / 8
    let below := fun (b j : Nat) => b < st.blocks.length ∧ j < vlb ∧ b * vlb + j < st.r.vl
    ∀ (head : List Xl) (pages : Nat → Nat → List Xl),
    let K := fun (k : Nat) => (∃ i, i < 16 ∧ k = keyOf s head sa i) ∨
      ∃ b j i, below b j ∧ i < size (bit b j) ∧ k = keyOf s (pages b j) (bit b j / 8 % 2 ^ 64) i
    watchHit st.r sa 16 .write = none → Steady K s 0 sa 16 .write head → Quiet s st head sa →
    (∀ b j, below b j → watchHit st.r (bit b j / 8 % 2 ^ 64) (size (bit b j)) .write = none ∧
      Steady K s b (bit b j / 8 % 2 ^ 64) (size (bit b j)) .write (pages b j) ∧
      Quiet s st (pages b j) (bit b j / 8 % 2 ^ 64)) →
    let heads := fun (i k : Nat) => i < 16 ∧ k = keyOf s head sa i
    let writes := fun (b j p k q : Nat) =>
      below b j ∧ Forms.Writes s (fun b j _ => pages b j) (fun b _ j _ => bit b j) w b j 0 (newBlock 0 0 0 0) p k q
    ∃ t st', exec (.vspl a d) s = .next t ∧ Runs t st' ∧
      t = { s with mem := t.mem, bays := t.bays, dirty := t.dirty, written := t.written, strands := t.strands, fresh := t.fresh } ∧
      (∀ k, k ≠ s.cur → t.strands[k]? = s.strands[k]?) ∧
      st' = { vectorDone st st.r.mst st'.blocks with pending := st'.pending } ∧
      st'.blocks.map uncounted = st.blocks.map uncounted ∧
      (∀ i k, heads i k → (∀ i', heads i' k → i' = i) → (∀ b j p q, ¬ writes b j p k q) →
        memRead t.mem k = (leBytes 8 st.r.vl ++ leBytes 2 st.r.vt.toNat ++ leBytes 2 st.blocks.length ++ leBytes 4 0).getD i 0) ∧
      (∀ b bl j p k q, st.blocks[b]? = some bl → writes b j p k q → (∀ i, ¬ heads i k) →
        (∀ b' j' p', writes b' j' p' k q → (b', j', p') = (b, j, p)) →
        (memRead t.mem k).getLsbD q = (elemRead bl w d.toNat j).testBit p) ∧
      ∀ k q, q < 8 → (∀ i, ¬ heads i k) → (∀ b j p, ¬ writes b j p k q) →
        (memRead t.mem k).getLsbD q = (memRead s.mem k).getLsbD q

/-- R206: VFIL reads the header that VSPL wrote and fills the elements below the saved VL, by the saved type; the rest of
the group is tail; it changes no other register and no memory, but that a strongly ordered write before it is performed (R307).
A header of an illegal type, with non-zero bits above its
type, or with a non-zero byte 12 to 15, raises ILLOP with its address. -/
def Sys2Proof.Parts.FillResults : Prop :=
  ∀ s st, Runs s st → VectorReady st → slogCount st = 0 → ∀ (a : BitVec 6) (d : BitVec 5),
    let sa := (regRead st.r a.toNat).toNat
    sa % 16 = 0 → watchHit st.r sa 16 .read = none →
    ∀ head, Steady (fun _ => False) s 0 sa 16 .read head → Quiet s st head sa →
    let vl := valueAt s head sa 8
    let vt := leValue ((List.range 2).map fun i => memRead s.mem (keyOf s head sa (8 + i)))
    let t := BitVec.ofNat 13 vt
    let legal := vtLegal vt = true ∧ vt < 2 ^ 13 ∧
      ∀ i, 12 ≤ i → i < 16 → memRead s.mem (keyOf s head sa i) = 0
    let w := vtWidth t
    let vlb := vlbOf t
    let bit := fun (b j : Nat) => (sa + 16) * 8 + (b * vlb + j) * w
    let size := fun (v : Nat) => (v % 8 + w + 7) / 8
    let below := fun (b j : Nat) => b < st.blocks.length ∧ j < vlb ∧ b * vlb + j < vl
    (¬ legal → exec (.vfil a d) s = .next (takeTrap s { cause := causeIllop, xval := BitVec.ofNat 64 sa })) ∧
    (legal → d.toNat % vtG t = 0 → ∀ pages : Nat → Nat → List Xl,
      (∀ b j, below b j → watchHit st.r (bit b j / 8 % 2 ^ 64) (size (bit b j)) .read = none ∧
        Steady (fun _ => False) s b (bit b j / 8 % 2 ^ 64) (size (bit b j)) .read (pages b j) ∧
        Quiet s st (pages b j) (bit b j / 8 % 2 ^ 64)) →
      ∃ bls dirty, exec (.vfil a d) s = .next (putStrand { s with dirty := dirty } (vectorDone st st.r.mst bls)) ∧
        bls.length = st.blocks.length ∧
        let strong := (∃ p ∈ head, p.ord = 1) ∨ ∃ b j, below b j ∧ ∃ p ∈ pages b j, p.ord = 1
        ∀ b bl, st.blocks[b]? = some bl → ∃ bl', bls[b]? = some bl' ∧
          (strong → bl' = { Block.strongDone true bl with v := bl'.v }) ∧ (¬ strong → bl' = { bl with v := bl'.v }) ∧
          (∀ j, j < vlb → elemRead bl' w d.toNat j =
            if b * vlb + j < vl then
              valueAt s (pages b j) (bit b j / 8 % 2 ^ 64) (size (bit b j)) / 2 ^ (bit b j % 8) % 2 ^ w
            else if vtTz st.r.vt then 0 else elemRead bl w d.toNat j) ∧
          ∀ k, k < 32 → k < d.toNat ∨ d.toNat + vtG t ≤ k →
            getField bl'.v (k * vregBits) vregBits = getField bl.v (k * vregBits) vregBits)

/-- R207 to R212: the CACHE functions act at every VL and change no register. CWB, CFLUSH and PREF leave memory alone and
CINV gives a byte up only to a value its home copy may hold; CFLUSHALL and LVCINV empty what the attached bays hold; WAYCONV
and WAYREST of legal masks change the named ways, whose bytes become zero. -/
def Obligations.CacheResults : Prop :=
  ∀ s st, Runs s st → VectorReady st → MemOk s → ∀ (b a : BitVec 6),
    let va := (regRead st.r a.toNat).toNat
    let bays := st.blocks.map (·.bay)
    let after := fun (bls : List Block) => { vectorDone st st.r.mst bls with
      pending := (st.pending.map fun e => if e.vector = false then { e with cross := false } else e).filter
        fun e => e.cross || e.unord }
    let emptied := fun (t : State) (f : Bay → Bay) =>
      ∀ n, n < 320 → bayOf t n = if n ∈ bays then f (bayOf s n) else bayOf s n
    (∃ t, exec .cflushall s = .next (putStrand t (after st.blocks)) ∧
      t = { s with bays := t.bays, dirty := s.dirty.filter fun r => !bays.contains r.bay } ∧
      emptied t fun y => { y with copies := [] }) ∧
    (∃ t, exec .lvcinv s = .next (putStrand t (after st.blocks)) ∧ t = { s with bays := t.bays } ∧
      emptied t fun y => { y with level := [] }) ∧
    (va % 4 = 0 → va < 256 → ∀ f ∈ [(Instr.wayconv a, true), (Instr.wayrest a, false)],
      ∃ t, exec f.1 s = .next (putStrand t (after (st.blocks.map fun bl => { bl with
          ways := if f.2 then bl.ways ||| BitVec.ofNat 8 va else bl.ways &&& ~~~(BitVec.ofNat 8 va) }))) ∧
        t = { s with mem := t.mem, poison := t.poison, written := t.written } ∧
        let cut := fun (k : Nat) => ∃ bl ∈ st.blocks, ∃ w, w < 8 ∧ va / 2 ^ w % 2 = 1 ∧ bl.ways.getLsbD w ≠ f.2 ∧
          wayAddr bl.bay w ≤ k ∧ k < wayAddr bl.bay w + 0x10000
        (∀ k, cut k → memRead t.mem k = 0) ∧ ∀ k, ¬ cut k → memRead t.mem k = memRead s.mem k) ∧
    ∀ f ∈ [(CacheFn.wb, Instr.cwb b a), (.inv, .cinv b a), (.flush, .cflush b a), (.pref, .pref b a)],
      let size := (regRead st.r b.toNat).toNat
      let n := if f.1 = .pref then min size 65536 else size
      let covers := fun (l : Nat) => n ≠ 0 ∧ va / 128 ≤ l ∧ l ≤ (va + n - 1) / 128
      ∀ found : Nat → Option Xl,
      (∀ l, covers l → ∀ s', Alike (fun k => ∃ r ∈ s.dirty, r.key = k) s s' →
        cacheXlat f.1 (l * 128 % 2 ^ 64) s' = .ok (found l) s') →
      ∃ t, exec f.2 s = .next (putStrand t (after st.blocks)) ∧
        t = { s with bays := t.bays, mem := t.mem, dirty := t.dirty, written := t.written, fresh := t.fresh } ∧
        (f.1 ≠ .inv → t.mem = s.mem ∧ t.written = s.written ∧ t.fresh = s.fresh) ∧
        (∀ k, memRead t.mem k = memRead s.mem k ∨ ∃ r ∈ s.dirty, r.bay ∈ bays ∧ r.key = k ∧ ∃ c, (c, memRead t.mem k) ∈ r.homes) ∧
        (f.1 = .pref ∨ f.1 = .wb → t.bays = s.bays) ∧
        ∀ l x, covers l → found l = some x → f.1 ≠ .pref →
          (∀ r ∈ t.dirty, r.bay ∈ bays → r.key / 128 ≠ steer s x.pa / 128) ∧
          (f.1 ≠ .wb → ∀ i ∈ bays, i < 320 → ∀ c ∈ (bayOf t i).copies, c.addr / 128 ≠ steer s x.pa / 128)

/-- R129: a REPF with a zero trip count, whose frame passes its checks, performs nothing and goes on past the frame; with
one replay it performs its one convoy once; the bases and the trip count are those at its issue. A frame of one VADD without
rotation completes at every trip count: it adds once for each replay. -/
def Obligations.RepeatFrameRuns : Prop :=
  ∀ s (f : BitVec 3) (o : BitVec 5) (g : BitVec 3) (n : BitVec 6) (k : BitVec 4) st, Runs s st →
    ∀ ws s1 st1, fetchFrame (2 ^ 62) (k.toNat + 1) 0 (st.r.pc + 4) none s = .ok ws s1 → Runs s1 st1 → ws ≠ [] →
    o.toNat % vtG st1.r.vt = 0 → (∀ p, p ≤ k.toNat → st1.r.rstg.toNat / 2 ^ (3 * p) % 8 ≤ g.toNat) →
    st1.r.vstart = 0 → st1.inflight = none →
    let trip := (regRead st1.r n.toNat).toNat % 2 ^ 32
    let past := (ws.getLast?.elim st.r.pc (·.addr)) + 4
    (trip = 0 → exec (.repf f o g n k) s =
      .next (putStrand s1 (retired { st1 with r := { st1.r with vstart := 0 } } past))) ∧
    (trip = 1 → g = 0 → frameConvoys ws = [ws] →
      let member := fun (x : FrameWord) =>
        frameMember (rotateWord f.toNat 0 x.word) ((regRead st1.r (x.word / 2 ^ 12 % 64)).toNat % 2 ^ 64)
      ∀ ms : List Member, ws.map member = ms.map .ok → convoyFault st1 [] 0 (ws.map member) = none →
      ∀ t st', performConvoy ((ws.map fun x => x.addr.toNat / 4 % 4).zip ms) 0 none s1 = .ok t → Runs t st' →
        exec (.repf f o g n k) s = .next (putStrand t (retired { st' with r := { st'.r with vstart := 0 } } past))) ∧
    ∀ (m : BitVec 3) (x a d : BitVec 5) (y : FrameWord), o = 0 → g = 0 → ws = [y] → encodeWord (.vadd m x a d) = some y.word →
      VectorReady st1 → vtWidth st1.r.vt ∈ [8, 16, 32, 64] → x.toNat % vtG st1.r.vt = 0 → a.toNat % vtG st1.r.vt = 0 →
      d.toNat % vtG st1.r.vt = 0 →
      let w := vtWidth st1.r.vt
      ∃ bls : Nat → List Block, bls 0 = st1.blocks ∧
        exec (.repf f o g n k) s = .next (putStrand s1 { vectorDone st1 st1.r.mst (bls trip) with
          r := { st1.r with pc := past, vstart := 0 } }) ∧
        ∀ i, i < trip → ElemsWritten { st1 with blocks := bls i } (bls (i + 1)) w d.toNat (vtG st1.r.vt) m.toNat
          (fun _ bl j => wrap w (elemRead bl w a.toNat j + elemRead bl w x.toNat j))

namespace Sys2Proof.Forms

/-! ### Fibre forms -/

/-- A fibre register of a strand. -/
def fibreOf (st : Strand) (n : BitVec 3) : Fibre := st.fibres.getD n.toNat emptyFibre

/-- A strand after a fibre instruction that leaves the registers `r` and the fibres `fs`. -/
def fibreDone (st : Strand) (r : Regs) (fs : Vector Fibre 8) : Strand :=
  { st with r := { r with pc := st.r.pc + 4, vstart := 0 }, wait := .none, waited := 0, inflight := none, fibres := fs }

/-- The registers with MORE of FST (R224). -/
def withMore (r : Regs) (v : Bool) : Regs := { r with fst := if v then r.fst ||| 4 else r.fst &&& 3 }

/-- Pairs in ascending coordinate. -/
def Sorted (ps : List Pair) : Prop := ps.Pairwise fun x y => x.coord.toNat ≤ y.coord.toNat

/-- The pairs at a coordinate. -/
def pairsAt (ps : List Pair) (q : BitVec 32) : List Pair := ps.filter fun p => p.coord == q

/-- The results of the operator's steps over the values of a run; FIRST, LAST and KEEP-BOTH take none (R221, R222). -/
def runSteps (c kind : Nat) : List Nat → List FpRes
  | [] => []
  | v :: vs => if c = 3 ∨ c = 4 ∨ c = 7 then [] else folded (combStep c kind) v vs

/-- What a run of pairs at a coordinate becomes, each pair with the steps that made its value: itself under KEEP-BOTH, else one
pair with the folded value (R222). -/
def combined (c kind : Nat) (tag : BitVec 9) (q : BitVec 32) (ps : List Pair) : List (Pair × List FpRes) :=
  if c = 7 then ps.map fun p => (p, [])
  else
    let vs := ps.map fun p => p.value.toNat
    [({ coord := q, value := BitVec.ofNat 32 (foldRun c kind vs).bits, tag := tag }, runSteps c kind vs)]

/-- MST after results one after another: it has taken the flags of all and the last NaN cause (R96, R156). -/
def mstAfter (mst : Word) (l : List FpRes) : Word :=
  mstWith mst (l.foldl (fun a x => a ||| x.flags) 0) (((l.map (·.nanc)).filter (· != 0)).getLast?.getD 0)

/-- A list of coordinates that names those of the pairs, each once, ascending. -/
def Coords (cs : List (BitVec 32)) (ps : List Pair) : Prop :=
  (cs.Pairwise fun x y => x.toNat < y.toNat) ∧ ∀ q, q ∈ cs ↔ ∃ p ∈ ps, p.coord = q

/-- What a restartable fibre instruction leaves (R224, R225, R234): the first CAP pairs of its result in `d` and the
flags of the steps that made them in MST; MORE and the pending progress of its word exactly when there are more. -/
def Emits (s : State) (st : Strand) (i : Instr) (word : Nat) (d : BitVec 3) (kind : BitVec 2) (unsorted : Bool)
    (total : List (Pair × List FpRes)) : Prop :=
  ∃ fprog, exec i s = .next (putStrand s (fibreDone st
      { withMore st.r (decide (capOf st.r < total.length)) with
        mst := mstAfter st.r.mst ((total.take (capOf st.r)).flatMap (·.2)), fprog := fprog }
      (st.fibres.setIfInBounds d.toNat
        { pairs := (total.take (capOf st.r)).map (·.1), kind := kind, unsorted := unsorted }))) ∧
    (total.length ≤ capOf st.r → fprog = 0) ∧
    (capOf st.r < total.length → fprog.toNat / 2 ^ 63 = 1 ∧ fprog.toNat / 2 ^ 20 % 2 ^ 32 = word % 2 ^ 32)

/-- The set functions of R235: the instruction, its function code and which coordinates produce a result. -/
noncomputable def fibreSet : List ((BitVec 3 → BitVec 3 → BitVec 3 → BitVec 3 → Instr) × Nat × (Bool → Bool → Bool)) :=
  [(.fisect, 3, fun x y => x && y), (.funion, 4, fun x y => x || y), (.fmerge, 5, fun x _ => x)]

/-- A fibre read at `va` of `n` bytes passes its checks (R231), now and later in the instruction. -/
def FibreReads (s : State) (st : Strand) (pages : Nat → Nat → List Xl) (va n al : Nat) : Prop :=
  va % al = 0 ∧ watchHit st.r va n .read = none ∧ Steady (fun _ => False) s 0 va n .read (pages va n) ∧
    Quiet s st (pages va n) va

/-- The keys that a list of stores writes. -/
def storeKeys (s : State) (pages : Nat → Nat → List Xl) (l : List (Nat × List Byte)) (k : Nat) : Prop :=
  ∃ x ∈ l, ∃ i, i < x.2.length ∧ k = keyOf s (pages x.1 x.2.length) x.1 i

/-- A list of stores passes its checks. -/
def StoresPass (s : State) (st : Strand) (pages : Nat → Nat → List Xl) (l : List (Nat × List Byte)) : Prop :=
  ∀ x ∈ l, watchHit st.r x.1 x.2.length .write = none ∧
    Steady (storeKeys s pages l) s 0 x.1 x.2.length .write (pages x.1 x.2.length) ∧ Quiet s st (pages x.1 x.2.length) x.1

/-- Memory after a list of stores in order: a byte that no later one writes stands, and nothing else changes. -/
def StoresDone (s t : State) (pages : Nat → Nat → List Xl) (l : List (Nat × List Byte)) : Prop :=
  (∀ pre x post i, l = pre ++ x :: post → i < x.2.length →
    let k := keyOf s (pages x.1 x.2.length) x.1 i
    ¬ storeKeys s pages post k → (∀ j, j < x.2.length → keyOf s (pages x.1 x.2.length) x.1 j = k → j = i) →
    memRead t.mem k = x.2.getD i 0) ∧
  ∀ k, ¬ storeKeys s pages l k → memRead t.mem k = memRead s.mem k

end Sys2Proof.Forms

/-! ### Fibres -/

/-- R222, R224, R225, R234 to R236, R242: the set functions, FSORT, FCOMPACT and FCOMBINE. For each coordinate in
ascending order that produces a result, the pairs of fa at it and then those of fb, combined or kept; MST takes the flags and
the last NaN cause of the combinations. Of two empty inputs the result has fa's kind (log entry 30). -/
def Sys2Proof.Parts.FibreSetResults : Prop :=
  ∀ s st, Runs s st → VectorReady st → progAct st.r = false → ∀ (c b a d : BitVec 3) (x : BitVec 6),
    let fa := Forms.fibreOf st a
    let fb := Forms.fibreOf st b
    let tag := BitVec.ofNat 9 st.index
    (d ≠ a → d ≠ b → fa.unsorted = false → fb.unsorted = false → Forms.Sorted fa.pairs → Forms.Sorted fb.pairs →
      (fa.pairs ≠ [] → fb.pairs ≠ [] → fa.kind = fb.kind) →
      let k := if fa.pairs = [] ∧ fb.pairs ≠ [] then fb.kind else fa.kind
      ∀ f ∈ Forms.fibreSet, ∀ cs, Forms.Coords cs (fa.pairs ++ fb.pairs) →
        Forms.Emits s st (f.1 c b a d) (wordFB 0x60 0 c.toNat f.2.1 0 b.toNat a.toNat d.toNat) d k false
          (cs.flatMap fun q =>
            let va := Forms.pairsAt fa.pairs q
            let vb := Forms.pairsAt fb.pairs q
            if f.2.2 (!va.isEmpty) (!vb.isEmpty) then Forms.combined c.toNat k.toNat tag q (va ++ vb) else [])) ∧
    (d ≠ a → ∀ cs, Forms.Coords cs fa.pairs →
      Forms.Emits s st (.fsort c a d) (wordFB 0x60 0 c.toNat 6 0 0 a.toNat d.toNat) d fa.kind false
        (cs.flatMap fun q => Forms.combined c.toNat fa.kind.toNat tag q (Forms.pairsAt fa.pairs q))) ∧
    (d ≠ a → Forms.Emits s st (.fcompact x a d) (wordFB 0x60 0 0 7 x.toNat 0 a.toNat d.toNat) d fa.kind fa.unsorted
      ((fa.pairs.filter fun p =>
        compactKeeps fa.kind.toNat ((regRead st.r x.toNat).toNat % 2 ^ 32) p.value.toNat).map fun p => (p, []))) ∧
    (fa.unsorted = false ∨ fa.pairs = [] → Forms.Sorted fa.pairs → ∀ cs, Forms.Coords cs fa.pairs →
      let out := cs.flatMap fun q => Forms.combined c.toNat fa.kind.toNat tag q
        ((List.range 512).flatMap fun t => (Forms.pairsAt fa.pairs q).filter fun p => p.tag.toNat == t)
      exec (.fcombine c a d) s = .next (putStrand s (Forms.fibreDone st
        { st.r with mst := Forms.mstAfter st.r.mst (out.flatMap (·.2)) }
        (st.fibres.setIfInBounds d.toNat { pairs := out.map (·.1), kind := fa.kind, unsorted := false }))))

/-- R228: the set functions refuse an unsorted input, inputs of two kinds, and pending progress of another word; XVAL
holds the word. -/
def Sys2Proof.Parts.FibreChecks : Prop :=
  ∀ s st, Runs s st → VectorReady st → ∀ (c b a d : BitVec 3), d ≠ a → d ≠ b →
    let fa := Forms.fibreOf st a
    let fb := Forms.fibreOf st b
    ∀ f ∈ Forms.fibreSet, let word := wordFB 0x60 0 c.toNat f.2.1 0 b.toNat a.toNat d.toNat
      (fa.unsorted = true ∧ fa.pairs ≠ [] ∨ fb.unsorted = true ∧ fb.pairs ≠ [] ∨
        fa.pairs ≠ [] ∧ fb.pairs ≠ [] ∧ fa.kind ≠ fb.kind ∨ progAct st.r = true ∧ progWord st.r ≠ word % 2 ^ 32) →
      exec (f.1 c b a d) s = .next (takeTrap s { cause := causeIllop, xval := BitVec.ofNat 64 (word % 2 ^ 32) })

/-- R233, R238 to R242: moves between fibres, block 0 and scalar registers; FMAPV's products raise their flags; every other
register stays. -/
def Sys2Proof.Parts.FibreMoveResults : Prop :=
  ∀ s st, Runs s st → VectorReady st → ∀ bl, st.blocks[0]? = some bl → ∀ (k : BitVec 2) (v : BitVec 5) (x : BitVec 6) (a d : BitVec 3),
    let fa := Forms.fibreOf st a
    let w := vtWidth st.r.vt
    let l := min st.r.vl (vlbOf st.r.vt)
    let reach := fun (p : Pair) => decide (p.coord.toNat < l) && maskBit bl 0 p.coord.toNat
    let field := fun (e : Nat) => if vtFmt st.r.vt = 2 then e * 65536 else e
    let elem := fun (y : Nat) => if vtFmt st.r.vt = 2 then y / 65536 else y
    let done := fun (r : Regs) (d : BitVec 3) (f : Fibre) =>
      putStrand s (Forms.fibreDone st r (st.fibres.setIfInBounds d.toNat f))
    let fits := (k = 0 ∧ vtFmt st.r.vt = 1) ∨ (k = 1 ∧ (vtFmt st.r.vt = 1 ∨ vtFmt st.r.vt = 2)) ∨ (2 ≤ k.toNat ∧ vtFmt st.r.vt = 9)
    let sameKind := fa.pairs = [] ∨ fa.kind = k
    let block := fun (i : Instr) (val : Nat → Nat) => ∃ bl', exec i s =
        .next (putStrand s (Forms.fibreDone { st with blocks := st.blocks.set 0 bl' } st.r st.fibres)) ∧
      bl' = { bl with v := bl'.v } ∧ (∀ j, j < vlbOf st.r.vt → elemRead bl' w v.toNat j = val j) ∧
      ∀ n, n < 32 → n < v.toNat ∨ v.toNat + vtG st.r.vt ≤ n →
        getField bl'.v (n * vregBits) vregBits = getField bl.v (n * vregBits) vregBits
    let listed := fun (ys : List Nat) (j : Nat) =>
      if j < ys.length then ys.getD j 0 else if vtTz st.r.vt then 0 else elemRead bl w v.toNat j
    (v.toNat % vtG st.r.vt = 0 → vtFmt st.r.vt ∈ [1, 2, 9] →
      let js := (List.range l).filter fun j => maskBit bl 0 j &&
        (if vtFmt st.r.vt = 9 then elemRead bl w v.toNat j else elemRead bl w v.toNat j % 2 ^ (w - 1)) != 0
      exec (.fpack v d) s = .next (done (Forms.withMore st.r (decide (capOf st.r < js.length))) d
        { kind := if vtFmt st.r.vt = 1 then 0 else if vtFmt st.r.vt = 2 then 1 else 2, unsorted := false,
          pairs := (js.take (capOf st.r)).map fun j =>
            { coord := BitVec.ofNat 32 j, value := BitVec.ofNat 32 (field (elemRead bl w v.toNat j)),
              tag := BitVec.ofNat 9 st.index } })) ∧
    (v.toNat % vtG st.r.vt = 0 → fits → sameKind → block (.fexpand k v a) fun j =>
      outcome st.r 0 0 j bl (((fa.pairs.filter fun p => p.coord.toNat == j).getLast?.map fun p => elem p.value.toNat).getD 0)
        0 (elemRead bl w v.toNat j)) ∧
    (v.toNat % vtG st.r.vt = 0 → fits →
      let ps := (fa.pairs.filter reach).map fun p =>
        { p with value := BitVec.ofNat 32 (field (elemRead bl w v.toNat p.coord.toNat)) }
      exec (.fgather k v a d) s = .next (done st.r d { pairs := ps, kind := k, unsorted := fa.unsorted })) ∧
    (v.toNat % vtG st.r.vt = 0 → fits → sameKind →
      let prod := fun (p : Pair) => combStep 5 k.toNat p.value.toNat (field (elemRead bl w v.toNat p.coord.toNat))
      let ps := (fa.pairs.filter reach).map fun p => { p with value := BitVec.ofNat 32 (prod p).bits }
      exec (.fmapv k v a d) s = .next (done { st.r with mst := Forms.mstAfter st.r.mst ((fa.pairs.filter reach).map prod) } d
        { pairs := ps, kind := k, unsorted := fa.unsorted })) ∧
    (v.toNat % vtG st.r.vt = 0 → w = 32 → block (.fcoord v a) (listed (fa.pairs.map fun p => p.coord.toNat))) ∧
    (v.toNat % vtG st.r.vt = 0 → fits → sameKind →
      block (.fvals k v a) (listed (fa.pairs.map fun p => elem p.value.toNat))) ∧
    exec (.flen x a) s = .next (putStrand s (Forms.fibreDone st
      (regWrite st.r x.toNat (BitVec.ofNat 64 fa.pairs.length)) st.fibres)) ∧
    (d ≠ a → let up := fun (p : Pair) => decide ((regRead st.r x.toNat).toNat % 2 ^ 32 ≤ p.coord.toNat)
      exec (.fsplit x a d) s = .next (putStrand s (Forms.fibreDone st st.r
        ((st.fibres.setIfInBounds d.toNat { fa with pairs := fa.pairs.filter up }).setIfInBounds a.toNat
          { fa with pairs := fa.pairs.filter fun p => !up p })))) ∧
    exec (.fclr d) s = .next (done st.r d { pairs := [], kind := 0, unsorted := false }) ∧
    (x.toNat ≤ 61 →
      let q : Prefetch := { descr := regRead st.r x.toNat, parent := regRead st.r (x.toNat + 1),
                            count := min (regRead st.r (x.toNat + 2)).toNat 64 }
      let l := (st.prefetch ++ [q]).drop (st.prefetch.length + 1 - 4)
      exec (.fpref x) s = .next (putStrand s (Forms.fibreDone { st with prefetch := l } st.r st.fibres)))

/-- R229 to R231, R243, R244: FLDL reads a level, FLDF a record; FST writes a record and FSCAT a scatter, the later pair's
value standing where two meet; nothing else of memory and no other register changes. -/
def Sys2Proof.Parts.FibreMemoryResults : Prop :=
  ∀ s st, Runs s st → VectorReady st → slogCount st = 0 → MemOk s →
    ∀ (k : BitVec 2) (x : BitVec 6) (a d : BitVec 3) (pages : Nat → Nat → List Xl),
    let sa := (regRead st.r x.toNat).toNat
    let fa := Forms.fibreOf st a
    let tag := BitVec.ofNat 9 st.index
    let rd := fun (va n : Nat) => valueAt s (pages (va % 2 ^ 64) n) (va % 2 ^ 64) n
    let ok := fun (va n al : Nat) => Forms.FibreReads s st pages (va % 2 ^ 64) n al
    let vb := if k = 1 then 2 else 4
    let widen := fun (y : Nat) => if k = 1 then y * 65536 else y
    let loaded := fun (r : Result) (more : Option Bool) (f : Fibre) => ∃ bays dirty bls,
      (bls = st.blocks ∨ bls = st.blocks.map (Block.strongDone true)) ∧
      r = .next (putStrand { s with bays := bays, dirty := dirty } (Forms.fibreDone { st with blocks := bls } (more.elim st.r (Forms.withMore st.r))
        (st.fibres.setIfInBounds d.toNat f)))
    let stored := fun (r : Result) (l : List (Nat × List Byte)) => ∃ t st', r = .next t ∧ Runs t st' ∧
      Forms.StoresDone s t pages l ∧
      t = { s with mem := t.mem, bays := t.bays, dirty := t.dirty, written := t.written, strands := t.strands, fresh := t.fresh } ∧
      (∀ n, n ≠ s.cur → t.strands[n]? = s.strands[n]?) ∧ st'.blocks.map uncounted = st.blocks.map uncounted ∧
      st' = { Forms.fibreDone st st.r st.fibres with blocks := st'.blocks, pending := st'.pending }
    (let x0 := rd sa 32
     let par := (regRead st.r (x.toNat + 1)).toNat
     let size := x0 / 2 ^ 32 % 2 ^ 32
     let kind := x0 % 256
     let pb := if x0 / 256 % 2 = 1 then 8 else 4
     let cb := if x0 / 512 % 2 = 1 then 2 else 4
     let pos := x0 / 2 ^ 64 % 2 ^ 64
     let lo := if kind = 0 then 0 else if kind = 2 then par else rd (pos + par * pb) pb
     let hi := if kind = 0 then size else if kind = 2 then par + 1 else rd (pos + (par + 1) * pb) pb
     let first := lo + (regRead st.r (x.toNat + 2)).toNat
     let n := min (capOf st.r) (hi - first)
     let ca := fun (q : Nat) => x0 / 2 ^ 128 % 2 ^ 64 + q * cb
     let crd := fun (q : Nat) => if kind = 0 then q else rd (ca q) cb
     let va := fun (q : Nat) => x0 / 2 ^ 192 + vb * (if kind = 0 then par * size + q else q)
     x.toNat ≤ 61 → ok sa 32 32 → kind ≤ 2 → x0 / 2 ^ 10 % 64 = 0 → x0 / 2 ^ 16 % 65536 = 0 →
     (kind = 1 → ok (pos + par * pb) pb pb ∧ ok (pos + (par + 1) * pb) pb pb) → lo ≤ hi →
     (∀ i, i < n → (kind ≠ 0 → ok (ca (first + i)) cb cb) ∧ crd (first + i) < size ∧ (k ≠ 3 → ok (va (first + i)) vb vb)) →
     let ps := (List.range n).map fun i =>
       { coord := BitVec.ofNat 32 (crd (first + i)), tag := tag,
         value := BitVec.ofNat 32 (if k = 3 then (if kind = 0 then par * size + (first + i) else first + i)
           else widen (rd (va (first + i)) vb)) }
     loaded (exec (.fldl k x d) s) (some (decide (first + n < hi))) { pairs := ps, kind := k, unsorted := unsortedPairs ps }) ∧
    (let n := rd sa 16 % 2 ^ 32
     ok sa 16 16 → n ≤ capOf st.r → rd sa 16 / 2 ^ 40 % 256 = k.toNat → rd sa 16 / 2 ^ 32 % 256 ≤ 1 → rd sa 16 / 2 ^ 48 = 0 →
     (∀ i, i < n → ok (sa + 16 + 4 * i) 4 1 ∧ ok (sa + 16 + 4 * n + vb * i) vb 1) →
     let pair := fun (i : Nat) => Pair.mk (BitVec.ofNat 32 (rd (sa + 16 + 4 * i) 4))
       (BitVec.ofNat 32 (widen (rd (sa + 16 + 4 * n + vb * i) vb))) tag
     loaded (exec (.fldf k x d) s) none
       { pairs := (List.range n).map pair, kind := k, unsorted := decide (rd sa 16 / 2 ^ 32 % 256 = 1) }) ∧
    (fa.pairs = [] ∨ fa.kind = k → sa % 16 = 0 →
      let n := fa.pairs.length
      let val := fun (p : Pair) => if k = 1 then leBytes 2 (p.value.toNat / 65536) else leBytes 4 p.value.toNat
      let l := (sa, leBytes 4 n ++ [if fa.unsorted then 1 else 0, BitVec.ofNat 8 k.toNat] ++ leBytes 10 0) ::
        ((fa.pairs.zipIdx.map fun (p, i) => ((sa + 16 + 4 * i) % 2 ^ 64, leBytes 4 p.coord.toNat)) ++
          fa.pairs.zipIdx.map fun (p, i) => ((sa + 16 + 4 * n + vb * i) % 2 ^ 64, val p))
      Forms.StoresPass s st pages l → stored (exec (.fst k x a) s) l) ∧
    (fa.pairs = [] ∨ fa.kind = k →
      let val := fun (p : Pair) => if k = 1 then leBytes 2 (p.value.toNat / 65536) else leBytes 4 p.value.toNat
      let l := fa.pairs.map fun p => ((sa + p.coord.toNat * vb) % 2 ^ 64, val p)
      (∀ y ∈ l, y.1 % vb = 0) → Forms.StoresPass s st pages l → stored (exec (.fscat k x a) s) l)

/-- R245, R246, and R233 for the stream engine: an FSEND to a strand of its bent whose turn it is delivers, or follows the
messages granted before it, else it waits in the order of the requests; when that strand has exited it drops. Once granted it
waits for its message to stand in the buffer and then completes, sending nothing again. A grant lets the oldest request go if
it fits; an arrival puts the oldest granted message in the buffer and ends a WFI; FRECV takes the
oldest message that matches and unites it with fa, or sets EMPTY. The stream engine takes its oldest request, leaves its
descriptor in the level cache, and changes nothing else but what caches hold. That requests join the receiver in order at issue
and a granted FSEND waits and is sent once is log entry 32, FRECV's order of checks log entry 30. -/
def Sys2Proof.Parts.FibreMessages : Prop :=
  (∀ s st, Runs s st → VectorReady st → st.wait = .none → (∀ k v, st.sending ≠ some (k, st.r.pc.toNat, v)) →
    ∀ (x : BitVec 6) (a : BitVec 3),
    let fa := Forms.fibreOf st a
    let m : Message := { sender := st.r.sid.toNat % 2 ^ 32, tag := BitVec.ofNat 9 st.index, body := fa, begun := false }
    let sid := (regRead st.r x.toNat).toNat % 2 ^ 32
    (strandOfSid s st.bent sid = none → exec (.fsend x a) s =
      .next (takeTrap s { cause := causeIllop, xval := memberXval (wordFsend x a) (st.r.pc.toNat / 4) })) ∧
    ∀ n to', strandOfSid s st.bent sid = some n → s.strands[n]? = some to' →
      let held : Inflight := { pc := st.r.pc, words := [BitVec.ofNat 32 (wordFsend x a)], group := 0, frame := none }
      let asked := fun (q : Strand) => { q with requests := q.requests.filter (· != s.cur) }
      let mine := to'.requests = [] ∨ ∃ l, to'.requests = s.cur :: l
      (to'.exited = true → ∀ st1, Runs { s with strands := s.strands.map asked } st1 →
        exec (.fsend x a) s = .next (putStrand { s with strands := s.strands.map asked }
          (Forms.fibreDone st1 { st.r with fst := st.r.fst ||| 1 } st1.fibres))) ∧
      (to'.exited = false → mine → hasRoom to' fa.pairs.length = true → to'.granted = [] → ∀ st1,
        let s1 := { s with strands :=
          (s.strands.map asked).modify n fun q => endWfi { q with inbox := q.inbox ++ [m] } }
        Runs s1 st1 → exec (.fsend x a) s =
          .next (putStrand s1 (Forms.fibreDone st1 { st.r with fst := st.r.fst &&& 6 } st1.fibres))) ∧
      (to'.exited = false → mine → hasRoom to' fa.pairs.length = true → to'.granted ≠ [] → ∀ st1,
        let s1 := { s with strands := (s.strands.map asked).modify n fun q => { q with granted := q.granted ++ [m] } }
        Runs s1 st1 → exec (.fsend x a) s = .next (putStrand s1
          { st1 with wait := .sending n, inflight := some held, sending := some (n, st.r.pc.toNat, false) })) ∧
      (to'.exited = false → ¬ (mine ∧ hasRoom to' fa.pairs.length = true) → s.cur ∉ to'.requests → ∀ st1,
        let s1 := { s with strands := s.strands.modify n fun q => { q with requests := q.requests ++ [s.cur] } }
        Runs s1 st1 → exec (.fsend x a) s = .next (putStrand s1 { st1 with wait := .reservation n, inflight := some held }))) ∧
  (∀ s st w n, VectorReady st → ∀ (x : BitVec 6) (a : BitVec 3),
    let held : Inflight := { pc := st.r.pc, words := [BitVec.ofNat 32 (wordFsend x a)], group := 0, frame := none }
    Runs s { st with inflight := some held, wait := w } →
    (st.sending = some (n, st.r.pc.toNat, false) →
      exec (.fsend x a) s = .next (putStrand s { st with wait := .sending n, inflight := some held })) ∧
    (st.sending = some (n, st.r.pc.toNat, true) → exec (.fsend x a) s = .next (putStrand s
      (Forms.fibreDone { st with sending := none } { st.r with fst := st.r.fst &&& 6 } st.fibres)))) ∧
  (∀ s r rcv k rest st f, s.strands[r]? = some rcv → rcv.exited = false → rcv.requests = k :: rest →
    s.strands[k]? = some st → pendingSend st = some f → hasRoom rcv f.pairs.length = true →
    let m : Message := { sender := st.r.sid.toNat % 2 ^ 32, tag := BitVec.ofNat 9 st.index, body := f, begun := false }
    let l := (s.strands.modify k fun q => { q with wait := if q.wait = .reservation r then .sending r else q.wait,
                                                   sending := some (r, st.r.pc.toNat, false) }).modify r fun q =>
      { q with granted := q.granted ++ [m], requests := rest }
    exec (.fsendReservationGrant r) s = .next { s with strands := l }) ∧
  (∀ s r rcv m rest, s.strands[r]? = some rcv → rcv.granted = m :: rest →
    let arrived := fun (q : Strand) =>
      match q.sending with
      | some (k, pc, false) =>
        if q.bent = rcv.bent ∧ k = r ∧ q.r.sid.toNat % 2 ^ 32 = m.sender then
          { q with wait := if q.wait = .sending r then .sent else q.wait, sending := some (k, pc, true) }
        else q
      | _ => q
    let l := (s.strands.map arrived).modify r fun q => endWfi { q with granted := rest, inbox := q.inbox ++ [m] }
    exec (.fibreMessageArrival r) s = .next { s with strands := l }) ∧
  (∀ s n st q rest, s.strands[n]? = some st → st.prefetch = q :: rest →
    let l := s.strands.set n { st with prefetch := rest }
    ∃ t, exec (.fprefStreamFetch n) s = .next t ∧
      t = { s with bays := t.bays, dirty := t.dirty, walkers := t.walkers, fresh := t.fresh, strands := l } ∧
      let s0 := { s with cur := n, strands := l }
      let va := q.descr.toNat
      ∀ x : Xl, q.count = 0 → va % 32 = 0 → x.slk = false → x.ord ≠ 1 → homeBay st < 320 →
        watchHit st.r va 32 .read = none → Steady (fun _ => False) s0 0 va 32 .read [x] → Quiet s0 st [x] va →
        ∃ y ∈ (bayOf t (homeBay st)).level, y.addr = levelTag s x.pa ∧
          (y.bytes.drop (x.pa % 128)).take 32 = (List.range 32).map fun i => memRead s.mem (keyOf s [x] va i)) ∧
  (∀ s st, Runs s st → VectorReady st → progAct st.r = false → ∀ (k : BitVec 2) (c : BitVec 3) (x : BitVec 6) (a d : BitVec 3),
    d ≠ a →
    let fa := Forms.fibreOf st a
    let sid := (regRead st.r x.toNat).toNat % 2 ^ 32
    let takes := fun (m : Message) => sid = 0xFFFFFFFF ∨ m.sender = sid
    fa.unsorted = false ∨ fa.pairs = [] → fa.kind = k ∨ fa.pairs = [] →
    ((∀ m ∈ st.inbox, ¬ takes m) → exec (.frecv k c x a d) s = .next (putStrand s (Forms.fibreDone st
      { st.r with fst := st.r.fst ||| 2 } (st.fibres.setIfInBounds d.toNat fa)))) ∧
    (∀ pre m post, st.inbox = pre ++ m :: post → (∀ y ∈ pre, ¬ takes y) → takes m →
      m.body.unsorted = false → m.body.kind = k → Forms.Sorted fa.pairs → Forms.Sorted m.body.pairs →
      let fb := m.body.pairs.map fun p => { p with tag := m.tag }
      ∀ cs, Forms.Coords cs (fa.pairs ++ fb) →
      let total := cs.flatMap fun q => Forms.combined c.toNat k.toNat (BitVec.ofNat 9 st.index) q
        (Forms.pairsAt fa.pairs q ++ Forms.pairsAt fb q)
      total.length ≤ capOf st.r →
      exec (.frecv k c x a d) s = .next (putStrand s (Forms.fibreDone
        { st with inbox := (pre ++ post).map fun m => { m with begun := false } }
        { Forms.withMore st.r false with
          mst := Forms.mstAfter st.r.mst (total.flatMap (·.2)), fprog := 0, fst := st.r.fst &&& 1 }
        (st.fibres.setIfInBounds d.toNat { pairs := total.map (·.1), kind := k, unsorted := false })))))

namespace Sys2Proof.Forms

/-! ### Truss forms -/

/-- A strand after a truss instruction. -/
def trussDone (st : Strand) (r : Regs) (mult : List Multiply) (bls : List Block) : Strand :=
  { st with r := { r with pc := st.r.pc + 4, vstart := 0 }, wait := .none, waited := 0, inflight := none, blocks := bls,
            multiplies := mult }

/-- No XEXPAND of the strand is still to fill a slot (R345). -/
def slotQuiet (s : State) (j : Nat) : Prop :=
  expandHolds s s.cur (fun kind slot _ => kind == 1 && slot == j) = false

/-- What a fill of `n` rows from row `p` makes of slot `x` (R257): its shape, its new elements and scales, and the rows it
keeps. -/
def Filled (x y : Slot) (p n f c : Nat) (scaled : Bool) (elem scale : Nat → Nat → Nat) : Prop :=
  if n = 0 then y = x
  else
    y = { x with fmt := BitVec.ofNat 4 f, cols := c, scaled := scaled, rows := y.rows, data := y.data, side := y.side,
                 poison := if p = 0 then false else x.poison } ∧
    y.rows = max (if p = 0 then 0 else x.rows) (p + n) ∧
    (∀ i k, i < n → k < c → slotElem y (p + i) k = elem i k) ∧
    (∀ i q, i < n → q < c / 32 → scaled = true → slotScale y (p + i) q = scale i q) ∧
    (p ≠ 0 → ∀ r k, r < x.rows → r < p ∨ p + n ≤ r → k < c → slotElem y r k = slotElem x r k ∧
      (k < c / 32 → slotScale y r k = slotScale x r k))

/-- Every attached block changes its slot `j` alone, as `P` says. -/
def SlotsFilled (st : Strand) (bls : List Block) (j : Nat) (P : Nat → Block → Slot → Slot → Prop) : Prop :=
  bls.length = st.blocks.length ∧ ∀ b bl, st.blocks[b]? = some bl →
    ∃ y, bls[b]? = some { bl with slots := bl.slots.setIfInBounds j y } ∧ P b bl (slotOf bl j) y

/-- What the steps of one word (m, n) below a multiply's shape accumulate at position `p` (R262, R264, R267). -/
def MulWord (st : Strand) (f : MulFields) (p m n : Nat) (r : Accum Nat) : Prop :=
  ∃ bl, st.blocks[p]? = some bl ∧ m < (f.ops bl).a.rows ∧ n < (f.ops bl).b.rows ∧
    r = accElement (f.ops bl) m n (if f.zf then 0 else getField (tileOf bl f.tile).words (32 * (256 * m + n)) 32)

/-- `flags` are those of the words that `P` picks, position by position, and `nanc` is the cause of the last NaN they generated, in
the order step, m, n and then position; `none` stands where they generated none (R265). -/
def TookWords (P : Nat → Accum Nat → Prop) (flags nanc none : Nat) : Prop :=
  (∀ k, flags.testBit k = true ↔ ∃ p r, P p r ∧ r.flags.testBit k = true) ∧
  ((∀ p r, P p r → r.nanc = 0) → nanc = none) ∧
  ∀ p r, P p r → r.nanc ≠ 0 → (∀ q x, P q x → x.nanc ≠ 0 → x.order < r.order ∨ x.order = r.order ∧ q ≤ p) → nanc = r.nanc

end Sys2Proof.Forms

/-! ### Truss -/

/-- R254 to R256, R258: claims, releases and JLD. A slot already claimed, or not claimed, raises JIGSTATE; JLD fills rows
of the slot in every attached bay from successive registers, with its scales, and has no effect at VL = 0; a format that
enters no slot raises ILLOP whatever VL is. -/
def Sys2Proof.Parts.SlotClaimsAndLoads : Prop :=
  ∀ s st, Runs s st → VectorReady st → ∀ (d : BitVec 6) (j : BitVec 4) (p : BitVec 1) (c v : BitVec 5),
    let slots := fun (n : Nat) (x : Slot) => st.blocks.map fun bl => { bl with slots := bl.slots.setIfInBounds n x }
    let claimed := fun (n : Nat) => ∃ bl ∈ st.blocks, (slotOf bl n).claimed = true
    let trap := fun (i : Instr) (n : Nat) =>
      exec i s = .next (takeTrap s { cause := causeJigstate, xval := BitVec.ofNat 64 n })
    let left := dropThrough (fun x => x.slots.contains j.toNat) st.multiplies
    let n := vtG st.r.vt
    let w := vtWidth st.r.vt
    let row := (regRead st.r d.toNat).toNat
    (Forms.slotQuiet s j.toNat → ¬ claimed j.toNat → exec (.jclm d j) s = .next (putStrand s (Forms.trussDone st
      (regWrite st.r d.toNat (BitVec.ofNat 64 j.toNat)) st.multiplies (slots j.toNat (emptySlot true))))) ∧
    (Forms.slotQuiet s j.toNat → claimed j.toNat → trap (.jclm d j) j.toNat) ∧
    (∀ n, n < 16 → ¬ claimed n → (∀ k, k < n → claimed k) → exec (.jclmAny d) s = .next (putStrand s (Forms.trussDone st
      (regWrite st.r d.toNat (BitVec.ofNat 64 n)) st.multiplies (slots n (emptySlot true))))) ∧
    ((∀ n, n < 16 → claimed n) → exec (.jclmAny d) s = .next (putStrand s (Forms.trussDone st
      (regWrite st.r d.toNat (BitVec.allOnes 64)) st.multiplies st.blocks))) ∧
    (Forms.slotQuiet s j.toNat → claimed j.toNat → exec (.jrel j) s = .next (putStrand s
      (Forms.trussDone st st.r left (slots j.toNat (emptySlot false))))) ∧
    (Forms.slotQuiet s j.toNat → ¬ claimed j.toNat → trap (.jrel j) j.toNat) ∧
    (v.toNat % n = 0 → maxCols (vtFmt st.r.vt) = 0 ∨ p = 1 ∧ scalable (vtFmt st.r.vt) = false → exec (.jld p c d v j) s =
      .next (takeTrap s { cause := causeIllop, xval := memberXval (wordJld p c d v j) (st.r.pc.toNat / 4) })) ∧
    (v.toNat % n = 0 → st.r.vl = 0 → maxCols (vtFmt st.r.vt) ≠ 0 → (p = 1 → scalable (vtFmt st.r.vt) = true) →
      exec (.jld p c d v j) s = .next (putStrand s (Forms.trussDone st st.r st.multiplies st.blocks))) ∧
    (v.toNat % n = 0 → st.r.vl ≠ 0 → Forms.slotQuiet s j.toNat → claimed j.toNat →
      (p = 1 → scalable (vtFmt st.r.vt) = true ∧ vtSblk st.r.vt = 32 ∧ st.r.vl % 32 = 0) →
      (∀ bl ∈ st.blocks, fillOk (slotOf bl j.toNat) row n (vtFmt st.r.vt) st.r.vl (p == 1) = true) →
      ∃ bls, exec (.jld p c d v j) s = .next (putStrand s (Forms.trussDone st st.r left bls)) ∧
        Forms.SlotsFilled st bls j.toNat fun _ bl x y => Forms.Filled x y row n (vtFmt st.r.vt) st.r.vl (p == 1)
          (fun i k => elemRead bl w v.toNat (i * (vregBits / w) + k))
          (fun i q => elemRead bl 8 c.toNat (i * (vregBits / w) / 32 + q)))

/-- R259 to R261: JFIL fills the slot of every attached bay from memory rows, dense or gathered, plain or transposed; an
index whose m0 bit is 0 gives a row of zeros, its scale bytes too (log entry 33), and a bay with no row leaves its slot.
Memory does not change; an access to a strongly ordered page has the last write of the vector stream to one performed (R307). -/
def Sys2Proof.Parts.SlotFillsFromMemory : Prop :=
  ∀ s st, Runs s st → VectorReady st → slogCount st = 0 → ∀ (d : BitVec 6) (v : BitVec 5) (j : BitVec 4),
    d.toNat ≤ 60 → Forms.slotQuiet s j.toNat → (∃ bl ∈ st.blocks, (slotOf bl j.toNat).claimed = true) →
    let jsh := st.r.jshape
    let f := jshFmt jsh
    let w := fmtWidth f
    let wc := jshCols jsh + 1
    let reg := fun (i : Nat) => (regRead st.r (d.toNat + i)).toNat
    maxCols f ≠ 0 → (jshTr jsh = true → jshRow0 jsh = 0) →
    (jshSc jsh = true → scalable f = true ∧ jshTr jsh = false ∧ wc % 32 = 0) →
    ∀ e ∈ [(Instr.jfil d j, none), (Instr.jfilGather d v j, some v.toNat)],
    (e.2 ≠ none → vtWidth st.r.vt = 32 ∧ v.toNat % vtG st.r.vt = 0 ∧ st.r.vl ≠ 0) →
    let rows := fun (b : Nat) (bl : Block) =>
      if e.2 = none then (List.range (jshRows jsh + 1)).map some
      else (List.range (min (st.r.vl - b * vlbOf st.r.vt) (vlbOf st.r.vt))).map fun i =>
        if maskBit bl 0 i then some (elemRead bl 32 v.toNat i) else none
    (∀ b bl, st.blocks[b]? = some bl → jfilOk jsh (slotOf bl j.toNat) (rows b bl).length = true) →
    let va := fun (b i k : Nat) => ((reg 0 + b * reg 2 + i * reg 1) % 2 ^ 64 + k * w / 8) % 2 ^ 64
    let sz := fun (k : Nat) => (k * w % 8 + w + 7) / 8
    let sa := fun (i q : Nat) => (reg 3 + i * (wc / 32) + q) % 2 ^ 64
    ∀ (pages : Nat → Nat → Nat → List Xl) (sides : Nat → Nat → Nat → List Xl),
    let passes := fun (b a n : Nat) (ps : List Xl) => watchHit st.r a n .read = none ∧
      Steady (fun _ => False) s b a n .read ps ∧ Quiet s st ps a
    (∀ b bl i, st.blocks[b]? = some bl → some i ∈ rows b bl →
      (∀ k, k < wc → passes b (va b i k) (sz k) (pages b i k)) ∧
      (jshSc jsh = true → ∀ q, q < wc / 32 → passes b (sa i q) 1 (sides b i q))) →
    let elem := fun (b : Nat) (bl : Block) (x k : Nat) =>
      match (rows b bl).getD x none with
      | some i => valueAt s (pages b i k) (va b i k) (sz k) / 2 ^ (k * w % 8) % 2 ^ w
      | none => 0
    let scale := fun (b : Nat) (bl : Block) (x q : Nat) =>
      match (rows b bl).getD x none with
      | some i => valueAt s (sides b i q) (sa i q) 1
      | none => 0
    let strong := ∃ b bl i, st.blocks[b]? = some bl ∧ some i ∈ rows b bl ∧
      ((∃ k, k < wc ∧ ∃ p ∈ pages b i k, p.ord = 1) ∨ jshSc jsh = true ∧ ∃ q, q < wc / 32 ∧ ∃ p ∈ sides b i q, p.ord = 1)
    ∃ bls dirty, exec e.1 s = .next (putStrand { s with dirty := dirty } (Forms.trussDone st st.r
        (dropThrough (fun x => x.slots.contains j.toNat) st.multiplies) bls)) ∧
      ∃ read : Strand, read = { st with blocks := read.blocks } ∧
      (strong → read.blocks = st.blocks.map (Block.strongDone true)) ∧ (¬ strong → read.blocks = st.blocks) ∧
      Forms.SlotsFilled read bls j.toNat fun b bl x y =>
        let n := (rows b bl).length
        if jshTr jsh = true then (if n = 0 then y = x else Forms.Filled x y 0 wc f n false (fun k x => elem b bl x k) (fun _ _ => 0))
        else Forms.Filled x y (jshRow0 jsh) n f wc (jshSc jsh) (elem b bl) (scale b bl)

/-- R262 to R270: a multiply whose operands pass the checks accumulates every word (m, n) below its shape in every attached
bay, sets the tile's kind, its flags and the cause of its last NaN, raises the same in MST, and is held by the truss, which runs
at most two; its other words stay. An integer step adds the exact products and clamps. MULTIPLY_LAST_STEP and TILE_READY end held multiplies in order. -/
def Sys2Proof.Parts.MultiplyResults : Prop :=
  (∀ s st, Runs s st → VectorReady st → ∀ (z : BitVec 1) (e : BitVec 2) (n b a : BitVec 4) (t : BitVec 2),
    let fields := fun (k : MulKind) (jm : Nat) => MulFields.mk k e.toNat (z == 1) a.toNat b.toNat jm t.toNat
    ∀ g ∈ [(Instr.tmma z e b a t, fields .tmma 0), (.tmms z e n b a t, fields .tmms n.toNat), (.ttrn z e b a t, fields .ttrn 0)],
    e ≠ 3 → (g.2.kind = .ttrn → e = 2) →
    (∀ j ∈ g.2.slots, Forms.slotQuiet s j ∧ (∃ bl ∈ st.blocks, (slotOf bl j).claimed = true) ∧
      ∀ bl ∈ st.blocks, 0 < (slotOf bl j).rows ∧ (slotOf bl j).rows ≤ 256 ∧ (slotOf bl j).poison = false) →
    (∀ bl ∈ st.blocks, g.2.shapeOk bl = true ∧ g.2.kindOk bl = true ∧ (tileOf bl t.toNat).poison = false) →
    let running := (st.multiplies.filter fun y => !y.done).length
    let held := (if 2 ≤ running then finishOldest st.multiplies else st.multiplies) ++
      [{ tile := t.toNat, slots := g.2.slots, done := false }]
    ∃ (fl nc : Nat) (bls : List Block), Forms.TookWords (fun p r => ∃ m n, Forms.MulWord st g.2 p m n r) fl nc 0 ∧
      exec g.1 s = .next (putStrand s (Forms.trussDone st { st.r with mst := mstWith st.r.mst fl nc } held bls)) ∧
      bls.length = st.blocks.length ∧
      ∀ (p : Nat) (bl : Block), st.blocks[p]? = some bl → ∃ y : Tile, bls[p]? = some { bl with tiles := bl.tiles.setIfInBounds t.toNat y } ∧
        let x := g.2.ops bl
        let old := tileOf bl t.toNat
        y = { old with words := y.words, kind := if e = 2 then .int else .float, flags := y.flags, nanc := y.nanc,
                       touched := true } ∧
        (∃ own, y.flags = old.flags ||| BitVec.ofNat 8 own ∧
          Forms.TookWords (fun q r => q = p ∧ ∃ m n, Forms.MulWord st g.2 p m n r) own y.nanc old.nanc) ∧
        ∀ m n, m < 256 → n < 256 → getField y.words (32 * (256 * m + n)) 32 =
          if m < x.a.rows ∧ n < x.b.rows then
            (accElement x m n (if z = 1 then 0 else getField old.words (32 * (256 * m + n)) 32)).value % 2 ^ 32
          else getField old.words (32 * (256 * m + n)) 32) ∧
  (∀ acc (ps : List (Nat × Nat)), acc < 2 ^ 32 →
    let sum : Int := signed 32 acc + (ps.map fun p => signed 8 p.1 * signed 8 p.2).sum
    (-(2 ^ 31) ≤ sum → sum < 2 ^ 31 → intStep 11 11 acc ps = ⟨wrap 32 sum, 0, 0⟩) ∧
    (2 ^ 31 ≤ sum → (intStep 11 11 acc ps).bits = 0x7FFFFFFF) ∧
    (sum < -(2 ^ 31) → (intStep 11 11 acc ps).bits = 0x80000000)) ∧
  (∀ s k st pre x post, s.strands[k]? = some st → st.multiplies = pre ++ x :: post → (∀ y ∈ pre, y.done = true) → x.done = false →
    exec (.multiplyLastStep k) s = .next
      { s with strands := s.strands.set k { st with multiplies := pre ++ { x with done := true } :: post } }) ∧
  ∀ s k st x post, s.strands[k]? = some st → st.multiplies = x :: post → x.done = true →
    exec (.tileReady k) s = .next { s with strands := s.strands.set k { st with multiplies := post } }

/-- R254, R271 to R275: TMOV takes G rows of a tile from row s[sa] on, VL words each, into successive registers, and has no effect at
VL = 0; rows or columns out of range, or a kind its format does not suit, raise ILLOP with the instruction word. TZERO clears
a tile; TSTAT gathers its flags, the NaN cause of the lowest position that has one, and the kind; TWAIT waits for every
multiply; a poisoned tile raises ECCUC with its number. -/
def Sys2Proof.Parts.TileResults : Prop :=
  ∀ s st, Runs s st → VectorReady st → ∀ (x d : BitVec 6) (v : BitVec 5) (t : BitVec 2),
    let left := dropThrough (fun m => m.tile == t.toNat) st.multiplies
    let n := vtG st.r.vt
    let w := vtWidth st.r.vt
    let f := vtFmt st.r.vt
    let row := (regRead st.r x.toNat).toNat
    let tiles := st.blocks.map fun bl => tileOf bl t.toNat
    let stochastic := st.r.frm.toNat % 8 = 5 ∧ 1 < f ∧ f ≤ 5
    (v.toNat % n = 0 → st.r.vl = 0 →
      exec (.tmov x v t) s = .next (putStrand s (Forms.trussDone st st.r st.multiplies st.blocks))) ∧
    (v.toNat % n = 0 → st.r.vl ≠ 0 → (∃ y ∈ tiles, tmovOk y.kind f = false) ∨ 256 < st.r.vl ∨ 256 < row + n →
      exec (.tmov x v t) s =
        .next (takeTrap s { cause := causeIllop, xval := BitVec.ofNat 64 (wordTmov x v t % 2 ^ 32) })) ∧
    (v.toNat % n = 0 → st.r.vl ≠ 0 → st.r.vl ≤ 256 → row + n ≤ 256 → (∀ y ∈ tiles, tmovOk y.kind f = true) →
      (∃ y ∈ tiles, y.poison = true) → exec (.tmov x v t) s =
        .next (takeTrap s { cause := causeEccuc, xval := BitVec.ofNat 64 t.toNat })) ∧
    (v.toNat % n = 0 → st.r.vl ≠ 0 → st.r.vl ≤ 256 → row + n ≤ 256 → (∀ y ∈ tiles, tmovOk y.kind f = true ∧ y.poison = false) →
      ∃ (mst : Word) (bls : List Block) (u : Nat → Nat → Nat → Nat),
        exec (.tmov x v t) s = .next (putStrand s (Forms.trussDone st { st.r with mst := mst } left bls)) ∧
        bls.length = st.blocks.length ∧ (¬ stochastic → GensKept st bls) ∧
        let val := fun (b : Nat) (bl : Block) (i k : Nat) =>
          tmovWord f (getField (tileOf bl t.toNat).words (32 * (256 * (row + i) + k)) 32)
            (if f = 1 ∨ 5 < f then 0 else st.r.frm.toNat % 8) (u b i k)
        FlagsRaised st.r.mst mst (fun y => ∃ b bl i k, st.blocks[b]? = some bl ∧ i < n ∧ k < st.r.vl ∧ y = val b bl i k) ∧
        ∀ b bl, st.blocks[b]? = some bl → ∃ bl', bls[b]? = some bl' ∧ bl' = { bl with v := bl'.v, gens := bl'.gens } ∧
          (∀ i k, i < n → k < vregBits / w → elemRead bl' w v.toNat (i * (vregBits / w) + k) =
            if k < st.r.vl then (val b bl i k).bits % 2 ^ w else elemRead bl w v.toNat (i * (vregBits / w) + k)) ∧
          ∀ m, m < 32 → m < v.toNat ∨ v.toNat + n ≤ m →
            getField bl'.v (m * vregBits) vregBits = getField bl.v (m * vregBits) vregBits) ∧
    exec (.tzero t) s = .next (putStrand s (Forms.trussDone st st.r left
      (st.blocks.map fun bl => { bl with tiles := bl.tiles.setIfInBounds t.toNat zeroTile }))) ∧
    ((∀ y ∈ tiles, y.poison = false) → ∃ value : Word, exec (.tstat t d) s =
        .next (putStrand s (Forms.trussDone st (regWrite st.r d.toNat value) left st.blocks)) ∧
      (∀ k, k < 16 → value.getLsbD k = (decide (k < 4 ∨ k = 6 ∨ k = 7) && tiles.any fun y => y.flags.getLsbD k)) ∧
      ((∀ y ∈ tiles, y.nanc = 0) → value.toNat / 2 ^ 16 % 2 ^ 16 = 0) ∧
      (∀ pre y post, tiles = pre ++ y :: post → (∀ z ∈ pre, z.nanc = 0) → y.nanc ≠ 0 →
        value.toNat / 2 ^ 16 % 2 ^ 16 = y.nanc % 16) ∧
      (∀ y rest, tiles = y :: rest → value.toNat / 2 ^ 32 = match y.kind with | .none => 0 | .float => 1 | .int => 2)) ∧
    ((∃ y ∈ tiles, y.poison = true) → exec (.tstat t d) s =
      .next (takeTrap s { cause := causeEccuc, xval := BitVec.ofNat 64 t.toNat })) ∧
    exec .twait s = .next (putStrand s (Forms.trussDone st st.r [] st.blocks))

namespace Sys2Proof.Forms

/-! ### Atomic forms -/

/-- The new value of an atomic of R279 on `w` bits, with the flags FADD raises (R280, R281): `old` in memory, operand `b`,
and what CAS expects. -/
def atomicValue (op w old b e : Nat) : FpRes :=
  let int := fun (v : Nat) => ({ bits := v, flags := 0, nanc := 0 } : FpRes)
  match op with
  | 0 => int ((old + b) % 2 ^ w)
  | 1 => int (old &&& b)
  | 2 => int (old ||| b)
  | 3 => int (old ^^^ b)
  | 4 => int (if signed w b < signed w old then b else old)
  | 5 => int (if signed w old < signed w b then b else old)
  | 6 => int (if b < old then b else old)
  | 7 => int (if old < b then b else old)
  | 8 => int b
  | 9 => int (if old = e then b else old)
  | _ => if w = 64 then fpAdd 0 old b 0 0 else fpAdd 1 old b 0 0

/-- The scalar atomics with their codes (R279). -/
noncomputable def amo : List ((BitVec 2 → BitVec 1 → BitVec 6 → BitVec 6 → BitVec 6 → Instr) × Nat) :=
  [(.amoadd, 0), (.amoand, 1), (.amoor, 2), (.amoxor, 3), (.amomin, 4), (.amomax, 5), (.amominu, 6), (.amomaxu, 7),
   (.amoswap, 8), (.amocas, 9), (.amofadd, 10)]

/-- The vector atomics with their codes (R284). -/
noncomputable def vamo : List ((BitVec 1 → BitVec 1 → BitVec 3 → BitVec 5 → BitVec 6 → BitVec 5 → Instr) × Nat) :=
  [(.vamoadd, 0), (.vamoand, 1), (.vamoor, 2), (.vamoxor, 3), (.vamomin, 4), (.vamomax, 5), (.vamominu, 6),
   (.vamomaxu, 7), (.vamoswap, 8), (.vamofadd, 10)]

/-- The operations that PCIe carries (R282, R287). -/
def hostOp (vector : Bool) (op : Nat) : Bool := op == 0 || op == 8 || (op == 9 && !vector)

/-- Atomics on a memory, one after another: each has the keys of its bytes and its operand; their old values with what
they wrote, and the memory after them (R280, R285). -/
def atomicRun (op n : Nat) : List (List Nat × Nat) → Mem → List (Nat × FpRes) × Mem
  | [], m => ([], m)
  | (ks, v) :: t, m =>
    let old := leValue (ks.map (memRead m))
    let x := atomicValue op (8 * n) old v 0
    let r := atomicRun op n t ((ks.zip (leBytes n x.bits)).foldl (fun m c => memWrite m c.1 c.2) m)
    ((old, x) :: r.1, r.2)

/-- The active elements of a strand in ascending element index, with their positions and blocks (R111). -/
def active (st : Strand) (m : Nat) : List (Nat × Block × Nat) :=
  st.blocks.zipIdx.flatMap fun (bl, b) =>
    ((List.range (vlbOf st.r.vt)).filter fun j => decide (b * vlbOf st.r.vt + j < st.r.vl) && maskOn bl m j).map fun j => (b, bl, j)

/-- The trap of an aligned scalar atomic that fails a row of R282 behind WATCH and MISAL, with the machine as the checks leave it:
XVAL is the address; a failed translation gives LOADPF or PERM with the detail of R378; else the first row that applies. -/
def AtomicTrap (s s1 : State) (st : Strand) (va n : Nat) (hostOk : Bool) (c : Trap) : Prop :=
  c.xval = BitVec.ofNat 64 va ∧ c.async = false ∧
  (∀ f s2, translate (strandCtx st 0) va .atomic s = .ok (.error f) s2 →
    c.cause = (if f.missing then causeLoadpf else causePerm) ∧ c.acc = 3 ∧ c.s2 = f.s2 ∧ c.level = BitVec.ofNat 3 f.level) ∧
  ∀ p s2 st2, translate (strandCtx st 0) va .atomic s = .ok (.ok p) s2 → Runs s2 st2 →
    c.acc = 0 ∧ c.s2 = false ∧ c.level = 0 ∧
      if reachable s2 st2 0 p.pa n .atomic = false then c.cause = causePerm
      else if p.cmp = true then c.cause = causeCmpview
      else if p.slk = true ∧ regionAt s2 (BitVec.ofNat 16 st2.r.asid.toNat) (vmidOf st2) va = none then c.cause = causeSlkmis
      else if isHost p.pa = true ∧ hostOk = false then c.cause = causePerm
      else c.cause = causeRemote ∧ elsewhere s2 p.pa = true ∨
        c.cause = causeEccuc ∧ anyPoison s1 (p.pa / 128 * 128) 128 = true

end Sys2Proof.Forms

/-! ### Atomics -/

/-- R279 to R283: an AMO reads its word, writes the new value (a CAS that finds another value writes none), and returns
the old one, sign-extended for a 32-bit integer; FADD raises its flags; no other byte and no other register changes. Its
checks come in the order of R282, each with its row's cause and with XVAL the address, and nothing is read or written. -/
def Obligations.AtomicResults : Prop :=
  ∀ s st, Runs s st → ∀ f ∈ Forms.amo, ∀ (o : BitVec 2) (w : BitVec 1) (b a d : BitVec 6),
    let n := if w = 1 then 8 else 4
    let va := (regRead st.r a.toNat).toNat
    let x := fun (r : BitVec 6) => (regRead st.r r.toNat).toNat % 2 ^ (8 * n)
    let trap := fun (k : BitVec 8) => takeTrap s { cause := k, xval := regRead st.r a.toNat }
    (watchHit st.r va n .atomic ≠ none → exec (f.1 o w b a d) s = .next (trap causeWatch)) ∧
    (watchHit st.r va n .atomic = none → va % n ≠ 0 → exec (f.1 o w b a d) s = .next (trap causeMisal)) ∧
    (watchHit st.r va n .atomic = none → va % n = 0 → slogCount st = 0 →
      (∀ c s1, checkAtomic false 0 va n (Forms.hostOp false f.2) s = .ok (.fail c) s1 ∨
          checkAtomic false 0 va n (Forms.hostOp false f.2) s = .ok (.log c) s1 →
        exec (f.1 o w b a d) s = .next (takeTrap s1 c) ∧ Forms.AtomicTrap s s1 st va n (Forms.hostOp false f.2) c) ∧
      ∀ ps s1 st1, checkAtomic false 0 va n (Forms.hostOp false f.2) s = .ok (.ok ps) s1 → Runs s1 st1 → Quiet s1 st1 ps va →
        MemOk s1 →
        let old := valueAt s1 ps va n
        let y := Forms.atomicValue f.2 (8 * n) old (x b) (x d)
        let mst := if f.2 = 10 then mstWith st1.r.mst y.flags y.nanc else st1.r.mst
        let v := if w = 1 ∨ f.2 = 10 then BitVec.ofNat 64 old else (BitVec.ofNat 32 old).signExtend 64
        ∃ t st', exec (f.1 o w b a d) s = .next t ∧ Runs t st' ∧
          st' = { wrote { st1 with r := { st1.r with mst := mst } } d.toNat v (st.r.pc + 4) with
            blocks := st'.blocks, pending := st'.pending } ∧
          st'.blocks.map uncounted = st1.blocks.map uncounted ∧
          Stored s1 t ps va (if f.2 = 9 ∧ old ≠ x d then 0 else n) y.bits)

/-- R284 to R287: a VAMO performs its active elements in ascending element index across the whole strand, each on the value
the one before left; with ret = 1 each old value goes to its element, and R111 gives the others; with ret = 0 no register
changes, and FADD's flags are discarded. A place takes a group's elements together or not at all. -/
def Obligations.VectorAtomicResults : Prop :=
  (∀ s st, Runs s st → VectorReady st → slogCount st = 0 → st.blocks ≠ [] →
    ∀ f ∈ Forms.vamo, ∀ (w r : BitVec 1) (m : BitVec 3) (i : BitVec 5) (a : BitVec 6) (d : BitVec 5),
    let bits := if w = 1 then 64 else 32
    let g := vtG st.r.vt
    vtWidth st.r.vt = bits → (f.2 = 10 → vtFmt st.r.vt ≤ 1) → d.toNat % g = 0 → indexBad i st = false →
    ∀ pages : Nat → Nat → List Xl,
    let va := fun (bl : Block) (j : Nat) => ((regRead st.r a.toNat).toNat + elemRead bl bits i.toNat j) % 2 ^ 64
    let es := Forms.active st m.toNat
    let keys := fun (e : Nat × Block × Nat) =>
      (List.range (bits / 8)).map fun q => keyOf s (pages e.1 e.2.2) (va e.2.1 e.2.2) q
    (∀ e ∈ es, watchHit st.r (va e.2.1 e.2.2) (bits / 8) .atomic = none ∧ va e.2.1 e.2.2 % (bits / 8) = 0 ∧
      Quiet s st (pages e.1 e.2.2) (va e.2.1 e.2.2) ∧
      checkAtomic true e.1 (va e.2.1 e.2.2) (bits / 8) (Forms.hostOp true f.2) s = .ok (.ok (pages e.1 e.2.2)) s) →
    let run := Forms.atomicRun f.2 (bits / 8) (es.map fun e => (keys e, elemRead e.2.1 bits d.toNat e.2.2)) s.mem
    ∃ (t : State) (st' : Strand), exec (f.1 w r m i a d) s = .next t ∧ Runs t st' ∧
      t = { s with mem := run.2, bays := t.bays, dirty := t.dirty, written := t.written, strands := t.strands, fresh := t.fresh } ∧ (∀ k, k ≠ s.cur → t.strands[k]? = s.strands[k]?) ∧
      st' = { vectorDone st st'.r.mst st'.blocks with pending := st'.pending } ∧
      (st'.blocks.map fun bl => { uncounted bl with v := 0 }) = (st.blocks.map fun bl => { uncounted bl with v := 0 }) ∧
      (r = 0 → st'.blocks.map (·.v) = st.blocks.map (·.v) ∧ st'.r.mst = st.r.mst) ∧
      (r = 1 → FlagsRaised st.r.mst st'.r.mst (fun y => ∃ p ∈ run.1, y = p.2) ∧
        ∀ b bl, st.blocks[b]? = some bl → ∃ bl', st'.blocks[b]? = some bl' ∧
          (∀ j, j < vlbOf st.r.vt → elemRead bl' bits d.toNat j = outcome st.r m.toNat b j bl
            (((es.zip run.1).find? fun e => e.1.1 == b && e.1.2.2 == j).elim 0 fun e => e.2.1) 0 (elemRead bl bits d.toNat j)) ∧
          ∀ k, k < 32 → k < d.toNat ∨ d.toNat + g ≤ k →
            getField bl'.v (k * vregBits) vregBits = getField bl.v (k * vregBits) vregBits)) ∧
  (∀ (s : State) (place req : Nat) (op : BitVec 4) (w64 : Bool) (l : List (Nat × BitVec 64)),
    (∀ p ∈ s.prepared, ∀ e ∈ p.elems, ∀ x ∈ l, steer s x.1 / 128 ≠ steer s e.1 / 128) →
    let p : Prepared := { place := place, requester := req, op := op, w64 := w64, elems := l }
    ((∀ x ∈ l, placeAccepts s place op w64 x.1 = true) →
      exec (.vamoPrepare place req op w64 l) s = .next { s with prepared := s.prepared ++ [p] }) ∧
    ((∃ x ∈ l, placeAccepts s place op w64 x.1 = false) → exec (.vamoPrepare place req op w64 l) s = .next s)) ∧
  ∀ (s : State) (p : Prepared) (pre post : List Prepared), s.prepared = pre ++ p :: post →
    (∀ q ∈ pre, ¬ (q.place = p.place ∧ q.requester = p.requester)) →
    exec (.vamoPerform p.place p.requester false) s = .next { s with prepared := pre ++ post } ∧
    (s.shims = [] → s.poison = [] → p.op.toNat ≤ 10 → p.op ≠ 9 →
      let n := if p.w64 then 8 else 4
      let l := p.elems.map fun x => ((List.range n).map fun i => steer s (x.1 + i), x.2.toNat % 2 ^ (8 * n))
      ∃ t, exec (.vamoPerform p.place p.requester true) s = .next t ∧
        t = { s with mem := (Forms.atomicRun p.op.toNat n l s.mem).2, dirty := t.dirty, written := t.written,
                     prepared := pre ++ post })

namespace Sys2Proof.Forms

/-! ### Slack forms -/

/-- A key of a line that a list of line addresses or a shim line holds. -/
def slackKey (s : State) (lines : List Nat) (k : Nat) : Prop :=
  ∃ l ∈ lines ++ s.shims.map (·.line), ∃ i, i < 128 ∧ k = steer s (l + i)

/-- An access of SLKADD passes its checks whatever additions before it have done to slack records and slack lines. -/
def SlackSteady (s : State) (lines : List Nat) (b va : Nat) (ps : List Xl) : Prop :=
  ∀ s', (∀ k, ¬ slackKey s lines k → memRead s'.mem k = memRead s.mem k) → (∀ r ∈ s'.dirty, r ∈ s.dirty) →
    s' = { s with mem := s'.mem, dirty := s'.dirty, written := s'.written, poison := s'.poison, regions := s'.regions,
                  shims := s'.shims } → checkAccess b va 4 .atomic s' = .ok (.ok ps) s'

/-- A state with the memory that drains have left. -/
def drainedTo (s m : State) : State := { s with mem := m.mem, dirty := m.dirty, written := m.written, poison := m.poison }

/-- The shim lines of one bay in one region. -/
def ofHolder (k bay : Nat) (h : Shim) : Bool := h.bay == bay && h.region == k

/-- The shim lines of a region drained bay by bay. -/
def drainBays (s : State) (k : Nat) (bays : List Nat) : State := bays.foldl (fun t n => drainShims t (ofHolder k n)) s

/-- The slack instructions that add nothing and define no region, and the messages but GRANT. -/
def keepsBound (i : Instr) : Prop :=
  (∃ m x a d, i = .ldtol m x a d) ∨ (∃ a, i = .slkdraw a) ∨ (∃ a, i = .slkrel a) ∨ (∃ b a d, i = .slkqry b a d) ∨
    (∃ r b n, i = .grow r b n) ∨ (∃ b l, i = .drain b l) ∨ (∃ b l, i = .dack b l) ∨
    (∃ r b f, i = .draw r b f) ∨ (∃ r b, i = .drawn r b) ∨ (∃ b l, i = .linedraw b l) ∨ (∃ r b, i = .ret r b) ∨
    (∃ r k e, i = .tolq r k e) ∨ ∃ k, i = .tolgo k

/-- The slack instructions and messages. -/
def movesUnits (i : Instr) : Prop :=
  keepsBound i ∨ (∃ m a d, i = .slkadd m a d) ∨ (∃ m x a d, i = .slkaddx m x a d) ∨ (∃ a d, i = .slkdef a d) ∨
    ∃ r b, i = .grant r b

end Sys2Proof.Forms

/-! ### Slack regions -/

/-- R292, R293: SLKADD adds its active elements, element group by element group and position by position, in the bay's
shim lines or at home; no register and no flag changes. One element that fits its holder's share is withheld: its partial
sum takes the addend by RNE, the line's magnitude its magnitude by RUP, and memory stays. -/
def Sys2Proof.Parts.SlackAddResults : Prop :=
  (∀ s st, Runs s st → VectorReady st → slogCount st = 0 → st.blocks ≠ [] →
    ∀ (m : BitVec 3) (x : BitVec 5) (a : BitVec 6) (d : BitVec 5),
    ∀ f ∈ [(Instr.slkadd m a d, none), (Instr.slkaddx m x a d, some x.toNat)],
    vtFmt st.r.vt = 1 → d.toNat % vtG st.r.vt = 0 → (f.2 ≠ none → x.toNat % vtG st.r.vt = 0) →
    let base := (regRead st.r a.toNat).toNat
    let va := fun (b : Nat) (bl : Block) (j : Nat) => match f.2 with
      | none => (base + 4 * (b * vlbOf st.r.vt + j)) % 2 ^ 64
      | some i => (base + elemRead bl 32 i j) % 2 ^ 64
    ∀ pages : Nat → Nat → List Xl,
    let es := Forms.active st m.toNat
    let pa := fun (e : Nat × Block × Nat) => byteAddr (pages e.1 e.2.2) (va e.1 e.2.1 e.2.2) 0
    let name := fun (e : Nat × Block × Nat) => if isLocal s (pa e) then localAddr (pa e) else pa e
    ∀ region : Nat → Nat → Nat,
    (∀ e ∈ es, let v := va e.1 e.2.1 e.2.2
      watchHit st.r v 4 .atomic = none ∧ v % 4 = 0 ∧
      Forms.SlackSteady s (es.map fun e => name e / 128 * 128) e.1 v (pages e.1 e.2.2) ∧
      regionAt s (BitVec.ofNat 16 st.r.asid.toNat) (vmidOf st) v = some (region e.1 e.2.2) ∧
      (regionOf s (region e.1 e.2.2)).serving = none) →
    let elem := fun (e : Nat × Block × Nat) =>
      SlackElem.mk (name e / 128 * 128) (pa e % 128) (region e.1 e.2.2) (elemRead e.2.1 32 d.toNat e.2.2) (elsewhere s (pa e))
    let after := (List.range (8 * vtG st.r.vt)).foldl (fun t g => st.blocks.zipIdx.foldl (fun t (bl, b) =>
      slackLines t bl.bay ((es.filter fun e => e.1 == b && e.2.2 / 64 == g).map elem)) t) s
    exec f.1 s = .next (putStrand after (vectorDone st st.r.mst st.blocks))) ∧
  ∀ (s : State) (bay : Nat) (e : SlackElem) (h : Holder), e.far = false → holderOf s e.region bay = some h →
    let old := shimOf s bay e.line
    let mag := addUp (old.elim 0 fun x => x.mag.toNat) (addUp 0 (min (e.value % 2 ^ 31) 0x7F800000))
    max (gaugeOf s e.region bay) mag ≤ unitsToFp (regionOf s e.region).budget.toNat h.share →
    let t := slackLine s bay [e]
    t.mem = s.mem ∧ (∀ l, l ≠ e.line → shimOf t bay l = shimOf s bay l) ∧
    ∃ y, shimOf t bay e.line = some y ∧ y.mag = BitVec.ofNat 32 mag ∧
      (e.off % 4 = 0 → e.off < 128 → getField y.partials (8 * e.off) 32 =
        (fpAdd 1 (old.elim 0 fun x => getField x.partials (8 * e.off) 32) e.value 0 0).bits % 2 ^ 32)

/-- R289, R291, R294, R295: whatever a slack instruction or message does, the pool and the holders have 2^20 units between
them. No shim line withholds more than the share of its holder: not after a bay's additions, each line in one region, and not
after any slack instruction or message that adds nothing, defines no region and is no GRANT, which raises a share. -/
def Obligations.SlackUnitsConserved : Prop :=
  (∀ i s t, Forms.movesUnits i → exec i s = .next t → SlackOk s → SlackOk t) ∧
  (∀ i s t, Forms.keepsBound i → exec i s = .next t → SlackOk s → SlackBound s → SlackBound t) ∧
  (∀ s (es : List SlackElem) bay, SlackOk s → SlackBound s →
    (∀ e ∈ es, (∀ x ∈ es, x.line = e.line → x.region = e.region) ∧
      ∀ h ∈ s.shims, h.bay = bay → h.line = e.line → h.region = e.region) →
    SlackBound (slackLines s bay es)) ∧
  SlackOk State.reset ∧ SlackBound State.reset

/-- R296, R297: LDTOL with no addition withheld anywhere gives each active element its FP32 bits, the others by R111; a
tolerance that is no number or below 0 raises SLKMIS. The query draws holders until those that still withhold hold shares
of at most ε. -/
def Sys2Proof.Parts.TolerantLoadResults : Prop :=
  (∀ s st, Runs s st → VectorReady st → slogCount st = 0 → s.shims = [] →
    ∀ (m : BitVec 3) (x : BitVec 5) (a : BitVec 6) (d : BitVec 5), vtFmt st.r.vt = 1 → d.toNat % vtG st.r.vt = 0 →
    let base := (regRead st.r a.toNat).toNat
    let eps := (regRead st.r x.toNat).toNat % 2 ^ 32
    let es := Forms.active st m.toNat
    (0x7F800000 < eps → eps ≠ 0x80000000 → es ≠ [] → ∃ t, exec (.ldtol m x a d) s = .next (takeTrap t
      { cause := causeSlkmis, xval := BitVec.ofNat 64 base }) ∧ t.mem = s.mem) ∧
    (eps ≤ 0x7F800000 ∨ eps = 0x80000000 → ∀ pages : Nat → Nat → List Xl,
      let va := fun (b j : Nat) => (base + 4 * (b * vlbOf st.r.vt + j)) % 2 ^ 64
      (∀ e ∈ es, let v := va e.1 e.2.2
        watchHit st.r v 4 .read = none ∧ v % 4 = 0 ∧ Steady (fun _ => False) s e.1 v 4 .read (pages e.1 e.2.2) ∧
        Quiet s st (pages e.1 e.2.2) v ∧
        ∃ k, regionAt s (BitVec.ofNat 16 st.r.asid.toNat) (vmidOf st) v = some k ∧ (regionOf s k).serving = none) →
      let strong := ∃ e ∈ es, ∃ p ∈ pages e.1 e.2.2, p.ord = 1
      ∃ bls dirty, exec (.ldtol m x a d) s = .next (putStrand { s with dirty := dirty } (vectorDone st st.r.mst bls)) ∧ GensKept st bls ∧
        ∃ read : Strand, read = { st with blocks := read.blocks } ∧
        (strong → read.blocks = st.blocks.map (Block.strongDone true)) ∧ (¬ strong → read.blocks = st.blocks) ∧
        ElemsWritten read bls 32 d.toNat (vtG st.r.vt) m.toNat fun b _ j => valueAt s (pages b j) (va b j) 4)) ∧
  ∀ (s : State) (k eps : Nat) (hs : List Holder),
    let t := drawUntil k eps (drawOrder hs) s
    ((hs.filter fun h => t.shims.any fun y => y.bay == h.bay && y.region == k).map (·.share)).sum ≤ eps ∧
      (∀ y, y ∈ t.shims → y ∈ s.shims) ∧ ∀ y, y ∈ s.shims → y.region ≠ k → y ∈ t.shims

/-- R294, R298, and log entry 34: a shim line drains into the home copy of its line, each touched element by RNE and nothing else;
draining the shim lines that a test picks removes them and changes no byte outside their lines. -/
def Sys2Proof.Parts.DrainResults : Prop :=
  (∀ s h, MemOk s → (∀ i j, i < 128 → j < 128 → steer s (h.line + i) = steer s (h.line + j) → i = j) →
    let t := drainInto s h
    t = Forms.drainedTo s t ∧
    (∀ e, e < 32 → physLoad t (h.line + 4 * e) 4 =
      if h.touched.getLsbD e then
        (fpAdd 1 (physLoad s (h.line + 4 * e) 4) (getField h.partials (32 * e) 32) 0 0).bits % 2 ^ 32
      else physLoad s (h.line + 4 * e) 4) ∧
    ∀ k, (∀ i, i < 128 → k ≠ steer s (h.line + i)) → memRead t.mem k = memRead s.mem k) ∧
  ∀ s (pick : Shim → Bool), MemOk s →
    let t := drainShims s pick
    t = { Forms.drainedTo s t with shims := s.shims.filter fun h => !pick h } ∧
    (∀ k, (∀ h ∈ s.shims, pick h = true → ∀ i, i < 128 → k ≠ steer s (h.line + i)) → memRead t.mem k = memRead s.mem k) ∧
    (∀ h, s.shims.filter pick = [h] → t.mem = (drainInto s h).mem) ∧
    ∀ h x, (s.shims.filter pick = [h, x] ∨ s.shims.filter pick = [x, h]) → h.line < x.line →
      t.mem = (drainInto (drainInto s h) x).mem

/-- R290, R300: SLKDEF reads its block and answers a status, 1 for a bad block whether it defines or deletes, and a region it defines has all units in its pool; SLKDRAW
drains every holder of the region, in an order that is log entry 34; SLKREL gives back the shares of the attached bays; SLKQRY reads a share and a gauge; an
address in no region raises SLKMIS. -/
def Sys2Proof.Parts.SlackControl : Prop :=
  ∀ s st, Runs s st → ∀ b a d : BitVec 6,
    let asid := BitVec.ofNat 16 st.r.asid.toNat
    let va := regRead st.r a.toNat
    let at' := fun (x : Nat) => regionAt s asid (vmidOf st) x
    let slkmis := takeTrap s { cause := causeSlkmis, xval := va }
    (at' va.toNat = none → exec (.slkdraw a) s = .next slkmis ∧ exec (.slkrel a) s = .next slkmis ∧
      exec (.slkqry b a d) s = .next slkmis) ∧
    (∀ k r, at' va.toNat = some k → s.regions[k]? = some r → r.serving = none →
      (let held := fun (h : Shim) => h.region == k && r.holders.any fun x => x.bay == h.bay
       let m := Forms.drainBays s k (r.holders.map (·.bay))
       exec (.slkdraw a) s = .next (putStrand { Forms.drainedTo s m with shims := s.shims.filter fun h => !held h }
         (retired st (st.r.pc + 4)))) ∧
      ((r.holders.map (·.bay)).Nodup →
        let mine := fun (n : Nat) => (attached st).contains n
        let back := { r with
          pool := r.pool + ((r.holders.filter fun h => mine h.bay).map unitsOf).sum
          holders := r.holders.filter fun h => !mine h.bay }
        exec (.slkrel a) s = .next (putStrand
          { Forms.drainedTo s (Forms.drainBays s k (attached st)) with
            regions := s.regions.set k back
            shims := s.shims.filter fun h => !(mine h.bay && h.region == k) } (retired st (st.r.pc + 4))))) ∧
    (∀ k r bl, at' va.toNat = some k → s.regions[k]? = some r → st.blocks[(regRead st.r b.toNat).toNat]? = some bl →
      exec (.slkqry b a d) s = .next (putStrand s (wrote st d.toNat
        (match r.holders.find? fun h => h.bay == bl.bay with
         | none => 0
         | some h => BitVec.ofNat 64 (unitsToFp r.budget.toNat h.share * 2 ^ 32 + gaugeOf s k bl.bay)) (st.r.pc + 4)))) ∧
    (st.r.level = .runtime → watchHit st.r va.toNat 32 .read = none → va.toNat % 32 = 0 → slogCount st = 0 →
      ∀ ps s1 st1, Allowed s 0 va.toNat 32 .read ps s1 → Runs s1 st1 → Quiet s1 st1 ps va.toNat →
      let field := fun (o n : Nat) => valueAt s1 ps va.toNat 32 / 2 ^ (8 * o) % 2 ^ (8 * n)
      let lo := field 0 8
      let size := field 8 8
      let budget := field 16 4
      let unit := field 20 4
      let answers := fun (t : State) (st' : Strand) (v : Nat) => exec (.slkdef a d) s =
        .next (putStrand t (wrote st' d.toNat (BitVec.ofNat 64 v) (st.r.pc + 4)))
      let legal := lo % 4096 = 0 ∧ field 24 8 = 0 ∧ size % 4096 = 0 ∧ size ≤ 2 ^ 30 ∧ 0 < budget ∧ budget < 0x7F800000 ∧ (unit ≤ budget ∨ unit = 0x80000000)
      let mine := fun (r : Region) => r.size ≠ 0 ∧ r.asid = BitVec.ofNat 16 st1.r.asid.toNat ∧ r.vmid = vmidOf st1
      let apart := ∀ r ∈ s1.regions, ¬ (mine r ∧ r.base < lo + size ∧ lo < r.base + r.size)
      let room := (s1.regions.filter fun r => r.size != 0).length < 4096
      ∃ dirty, let u := Forms.opened st1 false ps
      let s2 := putStrand { s1 with dirty := dirty } u
      (¬ legal → answers s2 u 1) ∧
      (size = 0 → legal → (∀ r ∈ s1.regions, ¬ (mine r ∧ r.base = lo)) → answers s2 u 4) ∧
      (size ≠ 0 → legal → ¬ apart → answers s2 u 2) ∧
      (size ≠ 0 → legal → apart → ¬ room → answers s2 u 3) ∧
      (size ≠ 0 → legal → apart → room → ∀ t st', slackPages (size / 4096) lo s2 = .ok false t → Runs t st' → answers t st' 5) ∧
      (size ≠ 0 → legal → apart → room → ∀ t st', slackPages (size / 4096) lo s2 = .ok true t → Runs t st' →
        ∃ regions, answers { t with regions := regions } st' 0 ∧
          { base := lo, size := size, asid := BitVec.ofNat 16 st1.r.asid.toNat, vmid := vmidOf st1,
            budget := BitVec.ofNat 32 budget, unit := BitVec.ofNat 32 (if unit = 0x80000000 then 0 else unit),
            pool := 1048576, holders := [], serving := none } ∈ regions ∧
          ∀ r ∈ t.regions, r.size ≠ 0 → r ∈ regions) ∧
      (size = 0 → legal → ∀ (pre : List Region) (r : Region) (post : List Region), s1.regions = pre ++ r :: post → mine r →
        let k := pre.length
        r.base = lo → (∀ y ∈ pre, ¬ (mine y ∧ y.base = lo)) → r.serving = none → (r.holders.map (·.bay)).Nodup →
        let m := Forms.drainBays s2 k (r.holders.map (·.bay))
        answers { Forms.drainedTo s2 m with
                                       shims := m.shims
                                       regions := pre ++ { r with size := 0, holders := []
                                                                  pool := r.pool + (r.holders.map unitsOf).sum } :: post } u 0))

/-- R294, R297: the messages between holders and the region home, each as a step of its own; in which order the drains of one
message reach the home is log entry 34. -/
def Sys2Proof.Parts.SlackMessages : Prop :=
  ∀ (s : State) (k bay : Nat) (r : Region), s.regions[k]? = some r → r.size ≠ 0 →
    let region := fun (i : Instr) (f : Region → Region) => exec i s = .next { s with regions := s.regions.modify k f }
    let holder := fun (i : Instr) (f : Holder → Holder) =>
      region i fun r => { r with holders := r.holders.map fun h => if h.bay = bay then f h else h }
    let drained := fun (pick : Shim → Bool) => s.shims.filter fun h => !pick h
    (∀ h, r.holders.find? (fun h => h.bay == bay) = some h →
      (∀ ask, r.serving = none → (r.holders.filter fun h => h.bay != bay).length < 64 →
        region (.grow k bay ask) fun r =>
          { r with pool := r.pool - min ask r.pool
                   holders := r.holders.map fun h =>
                     if h.bay = bay then { h with grantIn := h.grantIn + min ask r.pool } else h }) ∧
      holder (.grant k bay) (fun h => { h with share := h.share + h.grantIn, grantIn := 0 }) ∧
      (∀ ret, exec (.draw k bay ret) s = .next
        { Forms.drainedTo s (drainShims s (Forms.ofHolder k bay)) with
          shims := drained (fun x => x.bay == bay && x.region == k)
          regions := s.regions.modify k fun r => { r with holders := r.holders.map fun x => if x.bay = bay then
                   (if ret then { x with drawn := some true, retIn := x.retIn + h.share, share := 0 }
                    else { x with drawn := some false }) else x } }) ∧
      (h.drawn = some false → holder (.drawn k bay) (fun h => { h with drawn := none })) ∧
      let keeps := h.share ≠ 0 ∨ h.grantIn ≠ 0 ∨ ∃ x ∈ s.shims, x.bay = bay ∧ x.region = k
      let gives := fun (i : Instr) =>
        (keeps → region i fun r => { r with
          pool := r.pool + h.retIn
          holders := r.holders.map fun x => if x.bay = bay then { x with drawn := none, retIn := 0 } else x }) ∧
        (¬ keeps → region i fun r => { r with
          pool := r.pool + h.retIn
          holders := (r.holders.map fun x => if x.bay = bay then { x with drawn := none, retIn := 0 } else x).filter
            fun x => x.bay != bay })
      (h.drawn = some true → gives (.drawn k bay)) ∧
      (r.serving = none → h.drawn = none → h.retIn ≠ 0 → (∀ x ∈ r.holders, x.bay = bay → x = h) → gives (.ret k bay))) ∧
    (∀ n st eps, s.strands[n]? = some st → r.serving = none →
      let m := drawUntil k eps (drawOrder (r.holders.filter fun h => !(attached st).contains h.bay)) s
      exec (.tolq k n eps) s = .next
      { Forms.drainedTo s m with
        shims := m.shims
        regions := s.regions.modify k fun r => { r with serving := some (n, BitVec.ofNat 32 eps) } }) ∧
    (∀ n, (r.serving.any fun x => x.1 == n) = true → exec (.tolgo n) s = .next
      { s with regions := s.regions.map fun r =>
          if r.serving.any fun x => x.1 == n then { r with serving := none } else r }) ∧
    (∀ pre h post, s.shims = pre ++ h :: post → (∀ y ∈ pre ++ post, ¬ (y.bay = h.bay ∧ y.line = h.line)) →
      (h.draining = false → exec (.drain h.bay h.line) s = .next
        { drainInto s h with shims := pre ++ { h with draining := true, touched := 0, partials := 0, mag := 0 } :: post }) ∧
      (h.draining = true → exec (.dack h.bay h.line) s = .next { s with
        shims := pre ++ post
        regions := if (pre ++ post).any fun x => x.bay == h.bay && x.region == h.region then s.regions
          else s.regions.modify h.region fun r => { r with holders := r.holders.map fun x =>
            if x.bay = h.bay then { x with retIn := x.retIn + x.share, share := 0 } else x } }) ∧
      exec (.linedraw h.bay h.line) s = .next
        { Forms.drainedTo s (drainShims s fun x => x.bay == h.bay && x.line == h.line) with shims := pre ++ post })

namespace Sys2Proof.Forms

/-- The strand with its pending writes changed, those that nothing may miss any more left out. -/
def pendings (st : Strand) (f : OldWrite → OldWrite) : Strand :=
  { st with pending := (st.pending.map f).filter fun w => w.cross || w.unord }

/-- The strand after a release at a scope (R303, R304, R314, R319): the writes its scope covers are performed, and no later
store comes before them; a release fence orders those of unordered pages too (R309). -/
def released (s : State) (st : Strand) (fence : Bool) (scope : Nat) : Strand :=
  let all := st.r.fmode.toNat % 2 = 1 ∨ scope = 5
  { pendings st fun w =>
      if (fence = true ∧ w.unord = true) ∨ ∀ x ∈ w.bytes, covered s scope x.1 = true then { w with settled := true } else w with
    blocks := st.blocks.map fun bl =>
      { bl with outst := Vector.ofFn fun i : Fin 5 => if all ∨ i.val < scope then 0
                           else if 3 ≤ scope then bl.outst.getD i 0 - bl.outst.getD (scope - 1) 0 else bl.outst.getD i 0
                fifo := if all then [] else bl.fifo
                strongOut := if all then [] else bl.strongOut.filter fun x => !(List.range scope).any fun i => x.2.getD i false
                unreleased := if 3 ≤ scope then [] else bl.unreleased } }

/-- The strand after a fence that orders one stream's writes for the other (R132). -/
def streamSettled (v : Bool) (st : Strand) : Strand :=
  pendings st fun w => if w.vector == v then { w with cross := false } else w

/-- The strand after an acquire at a scope (R103, R309, R315, R316): of its own writes it may miss none that it has seen or
released; at device scope or wider it has seen what was released before. -/
def acquiring (s : State) (st : Strand) (scope : Nat) : Strand :=
  { pendings st fun w => { w with cross := false, unord := w.unord && !w.seen && !w.settled } with
    acquiredAt := if 3 ≤ scope then s.written.length else st.acquiredAt
    acquiredStale := if 3 ≤ scope then unreleased (putStrand s st) else st.acquiredStale }

/-- What an acquire at a scope, wider than the strand's own, makes of the bays (R189, R212, R315). -/
def acquired (s : State) (st : Strand) (scope : Nat) (bays : Vector Bay 320) : Prop :=
  ∀ n, bays.getD n State.resetBay =
    if scope ≠ 0 ∧ n ∈ attached st then { bayOf s n with level := [], copies := [] } else bayOf s n

/-- The strand after it has arrived at barrier `n` of its bent (R327). -/
def arrived (s : State) (st : Strand) (b : Bent) (n : Nat) : Strand :=
  { released s st false 1 with pend := st.pend.setIfInBounds n (some (b.phase.getD n 0)) }

end Sys2Proof.Forms

/-! ### Ordering -/

/-- R132, R299, R304, R309, R314 to R319, R322: the fences; none touches memory but kind 7, which drains the shim lines of the
attached bays, and none a register; a release waits while a side log holds an entry. A reply takes a performed write out of its counter
and, at device scope or wider, out of the wider ones (R304); narrower counters count no more writes than wider ones. Which
ordering one core shows rests on log entries 7 and 9, what a release waits for on 17, the order of kind 7's drains on 34. -/
def Obligations.FenceResults : Prop :=
  (∀ s st, Runs s st → ∀ c : BitVec 3,
    let done := fun (bays : Vector Bay 320) (st' : Strand) => putStrand { s with bays := bays } (retired st' (st.r.pc + 4))
    let rel := Forms.released s st true c.toNat
    let held := Forms.streamSettled false
    (∃ bays, exec (.fenceAcq c) s = .next (done bays (held (Forms.acquiring s st c.toNat))) ∧ Forms.acquired s st c.toNat bays) ∧
    exec .fenceS2v s = .next (done s.bays (held st)) ∧
    exec .fenceV2s s = .next (done s.bays (Forms.streamSettled true st)) ∧
    (let mine := fun (h : Shim) => (attached st).contains h.bay
     exec (.fenceSlk c) s = .next (putStrand
      { Forms.drainedTo s (drainShims s mine) with shims := s.shims.filter fun h => !mine h }
      (retired (held st) (st.r.pc + 4)))) ∧
    (slogCount st ≠ 0 → ∀ i ∈ [Instr.fenceRel c, .fenceAr c, .fenceSc c, .fenceCode c],
      exec i s = .next (putStrand s { st with wait := .sideLog })) ∧
    (slogCount st = 0 →
      let seen := Forms.acquiring s rel c.toNat
      exec (.fenceRel c) s = .next (done s.bays (held rel)) ∧
      (∃ bays, exec (.fenceAr c) s = .next (done bays (held seen)) ∧ Forms.acquired s st c.toNat bays) ∧
      (∃ bays, Forms.acquired s st c.toNat bays ∧ exec (.fenceSc c) s = .next (done bays { seen with pending := [] })) ∧
      ∃ bays, Forms.acquired s st c.toNat bays ∧ exec (.fenceCode c) s = .next
        (done bays { held seen with fetchSince := seen.acquiredAt, fetchStale := seen.acquiredStale }))) ∧
  ∀ (s : State) (k b scope : Nat) (st : Strand) (bl : Block), s.strands[k]? = some st → st.exited = false →
    st.blocks[b]? = some bl →
    exec (.accessPerformed k b 0) s = .next s ∧
    (scope < 5 → bl.outst.getD scope 0 ≠ 0 →
      ∃ (v : Vector Nat 5) (fresh : Nat) (out : List (Bool × List Bool)),
        exec (.accessPerformed k b (scope + 1)) s = .next { s with
          fresh := fresh
          strands := s.strands.set k { st with blocks := st.blocks.set b { bl with
            outst := v, fifo := if scope = 4 then bl.fifo.drop 1 else bl.fifo, strongOut := out } } } ∧
        (∀ x ∈ out, x ∈ bl.strongOut ∧ ∀ i, i < 5 → x.2.getD i false = true → v.getD i 0 ≠ 0) ∧
        v.getD scope 0 = bl.outst.getD scope 0 - 1 ∧
        (∀ i, scope < i → v.getD i 0 = bl.outst.getD i 0 - if 2 ≤ scope then 1 else 0) ∧
        (∀ i, i < scope → v.getD i 0 = bl.outst.getD i 0 ∨ v.getD i 0 = bl.outst.getD i 0 - 1) ∧
        ((∀ i, i < scope → bl.outst.getD i 0 ≤ bl.outst.getD (i + 1) 0) → ∀ i, i < scope → v.getD i 0 ≤ v.getD (i + 1) 0))

/-- R324, R325, R100: WAITA returns the word it reads when that differs from s[sb] or its time is over, and sleeps
otherwise; a wake or a host poll lets it read again, and a time-out ends it or a WFI. -/
def Sys2Proof.Parts.WaitResults : Prop :=
  (∀ s st, Runs s st → ∀ (c : BitVec 1) (sc : BitVec 3) (b a d : BitVec 6),
    let va := (regRead st.r a.toNat).toNat
    watchHit st.r va 8 .read = none → va % 8 = 0 → slogCount st = 0 →
    ∀ ps s1 st1, Allowed s 0 va 8 .read ps s1 → Runs s1 st1 → Quiet s1 st1 ps va →
    let v := BitVec.ofNat 64 (valueAt s1 ps va 8)
    let late := st.r.wto ≠ 0 ∧ st.r.wto.toNat * 1024 ≤ st.waited
    ∃ dirty, let s2 := { s1 with dirty := dirty }
    let u := Forms.opened st1 false ps
    (v ≠ regRead st.r b.toNat ∨ late → exec (.waita c sc b a d) s =
      .next (putStrand s2 (wrote (if c = 1 then Forms.acquiring s2 u sc.toNat else u) d.toNat v (st.r.pc + 4)))) ∧
    (v = regRead st.r b.toNat → ¬ late → exec (.waita c sc b a d) s = .next (putStrand s2 { u with wait := .waita }))) ∧
  ∀ (s : State) (k : Nat) (st : Strand), s.strands[k]? = some st → st.exited = false →
    let put := fun (st : Strand) => Host.Outcome.next { s with strands := s.strands.set k st }
    let past := { st with wait := .none, waited := 0, r := { st.r with pc := st.r.pc + 4 } }
    (st.wait = .waita → exec (.waitaWake k) s = put { st with wait := .none } ∧
      exec (.waitaHostPoll k) s = put { st with wait := .none, waited := st.waited + 2000 } ∧
      (st.r.wto ≠ 0 → exec (.waitTimeout k) s = put { st with wait := .none, waited := st.r.wto.toNat * 1024 })) ∧
    (st.wait = .wfi → exec (.wfiWake k) s = put past ∧ (st.r.wto ≠ 0 → exec (.waitTimeout k) s = put past))

/-- R326 to R328: BARA arrives at the current phase of a barrier, BARW waits for the phase it arrived at, and BARS does
both; a phase ends when every strand of the bent has arrived or exited, and a waiting strand then goes on. -/
def Sys2Proof.Parts.BarrierResults : Prop :=
  (∀ s st b, Runs s st → slogCount st = 0 → s.bents[st.bent]? = some b → ∀ n : BitVec 4,
    let k := n.toNat
    let here := Forms.arrived s st b k
    let bent := advancePhases (putStrand s here) { b with arrived := b.arrived.setIfInBounds k (b.arrived.getD k [] ++ [s.cur]) }
    let met := { s with bents := s.bents.set st.bent bent }
    let left := fun (bays : Vector Bay 320) (t : State) (st' : Strand) =>
      putStrand { t with bays := bays } (retired { Forms.acquiring s st' 1 with pend := st'.pend.setIfInBounds k none, barsDone := false } (st.r.pc + 4))
    let illop := fun (fn : Nat) => .next (takeTrap (putStrand s (Forms.released s st false 1))
      { cause := causeIllop, xval := memberXval (0x7C + (fn + 4 * k) * 2 ^ 25) (st.r.pc.toNat / 4) })
    (phaseOpen s st k = false → exec (.bara n) s = .next (putStrand met (retired here (st.r.pc + 4)))) ∧
    (phaseOpen s st k = true → exec (.bara n) s = illop 1 ∧ (st.barsDone = false → exec (.bars n) s = illop 0)) ∧
    (phaseOpen s st k = true → exec (.barw n) s = .next (putStrand s { st with wait := .barrier k }) ∧
      (st.barsDone = true → exec (.bars n) s = .next (putStrand s { st with wait := .barrier k }))) ∧
    (phaseOpen s st k = false → ∃ bays, Forms.acquired s st 1 bays ∧ exec (.barw n) s = .next (left bays s st) ∧
      (st.barsDone = true → exec (.bars n) s = .next (left bays s st))) ∧
    (phaseOpen s st k = false → st.barsDone = false →
      (b.phase.getD k 0 < bent.phase.getD k 0 → ∃ bays, Forms.acquired s st 1 bays ∧
        exec (.bars n) s = .next (left bays met here)) ∧
      (bent.phase.getD k 0 ≤ b.phase.getD k 0 → exec (.bars n) s =
        .next (putStrand met { here with barsDone := true, wait := .barrier k })))) ∧
  (∀ (s : State) (b : Bent) (n : Nat), n < 16 →
    let t := advancePhases s b
    let here := b.arrived.getD n []
    let all := here ≠ [] ∧ ∀ k ∈ b.strands, k ∈ here ∨ ∃ st, s.strands[k]? = some st ∧ st.exited = true
    (all → t.phase.getD n 0 = b.phase.getD n 0 + 1 ∧ t.arrived.getD n [] = []) ∧
    (¬ all → t.phase.getD n 0 = b.phase.getD n 0 ∧ t.arrived.getD n [] = here)) ∧
  ∀ (s : State) (k n : Nat) (st : Strand), s.strands[k]? = some st → st.exited = false → st.wait = .barrier n →
    phaseOpen s st n = false → exec (.barrierWake k) s = .next { s with strands := s.strands.set k { st with wait := .none } }

namespace Sys2Proof.Forms

/-! ### Engine forms -/

/-- The command XEs with their functions (R332, R399, R413, R419). -/
noncomputable def xe : List ((BitVec 6 → BitVec 6 → BitVec 6 → Instr) × Nat) :=
  [(.xcopy, 0), (.xgather, 1), (.xpool, 2), (.xexpand, 3), (.xcoll, 4), (.xswap, 64), (.xmig, 65), (.xseal, 66)]

/-- The read of a block at issue, as scalar loads (R333): an XCOPY's dimensions follow its first 40 bytes. -/
def readBlock (fn : Nat) (sa : Word) : M (List Byte) := do
  let first ← readWords sa.toNat (blockMin fn / 8)
  let more ← if fn = 0 ∧ bytesAt first 34 1 ≤ 14 then readWords ((sa.toNat + 40) % 2 ^ 64) (3 * bytesAt first 34 1) else pure []
  return first ++ more

/-- The words of a block or of a member list as the reads of a quiet memory give them, `n` words of `k` bytes from `va`. -/
def wordsAt (s : State) (pages : Nat → List Xl) (va k n : Nat) : List Byte :=
  (List.range n).flatMap fun i => leBytes k (valueAt s (pages i) ((va + k * i) % 2 ^ 64) k)

/-- Each of `n` words of `k` bytes from `va` passes its checks as a scalar load, and memory answers it with what it holds. -/
def wordsPass (s : State) (st : Strand) (pages : Nat → List Xl) (va k n : Nat) : Prop :=
  ∀ i, i < n → let a := (va + k * i) % 2 ^ 64
    watchHit st.r a k .read = none ∧ Steady (fun _ => False) s 0 a k .read (pages i) ∧ Quiet s st (pages i) a

/-- What step 3 of R333 does with a command: queued with its ticket in s[d], or its XE waits for room. -/
def placed (s : State) (st : Strand) (d : Nat) (c : Command) (pc : Word) : State :=
  let q := { c with seq := s.nextTicket, engine := leastLoaded s (homeBay st / 40) }
  if roomFor s (homeBay st / 40) c.wing then
    putStrand { s with commands := s.commands ++ [q], nextTicket := s.nextTicket + 1 }
      (wrote { st with pendingXe := none } d (BitVec.ofNat 64 (q.seq % 2 ^ 48 + q.engine * 2 ^ 48)) pc)
  else putStrand s { st with pendingXe := some (d, c), wait := .engineRoom }

end Sys2Proof.Forms

/-! ### Engines -/

/-- R332 to R336: a command XE whose block, completion word and fields pass their checks releases when its flag asks for it,
and is queued with its ticket in s[sd], or waits for room; the lowest reason that applies raises XCMD and queues nothing. That an
XCOLL's member list is read at issue as scalar loads is log entry 37, that the release comes before the wait for room is 38.
The block is read behind every earlier store of both streams. XSWAP, XMIG and XSEAL are refused at user level. XCANCEL and
XQUERY answer by the command's state. -/
def Sys2Proof.Parts.EngineCommandIssue : Prop :=
  (∀ s st, Runs s st → ∀ f ∈ Forms.xe, ∀ (b a d : BitVec 6),
    let i := f.1 b a d
    let sa := regRead st.r a.toNat
    let sb := regRead st.r b.toNat
    let word := 0x7D + f.2 * 2 ^ 25 + b.toNat * 2 ^ 19 + a.toNat * 2 ^ 13 + d.toNat * 2 ^ 7
    (64 ≤ f.2 → st.r.level = .user →
      exec i s = .next (takeTrap s { cause := causePriv, xval := memberXval word (st.r.pc.toNat / 4) })) ∧
    ((64 ≤ f.2 → st.r.level = .runtime) →
    (∀ e c, st.wait = .engineRoom → st.pendingXe = some (e, c) →
      exec i s = .next (Forms.placed s st d.toNat c (st.r.pc + 4))) ∧
    (st.wait ≠ .engineRoom →
      (sa.toNat % 64 ≠ 0 → exec i s = .next (takeTrap s { cause := causeMisal, xval := sa })) ∧
      let seen := Forms.streamSettled true st
      ∀ block t1 u1, sa.toNat % 64 = 0 → Forms.readBlock f.2 sa (putStrand s { seen with pending := [] }) = .ok block t1 →
        Runs t1 u1 → let s1 := putStrand t1 { u1 with pending := seen.pending }
        ∀ x s2, wordCheck sb s1 = .ok x s2 →
        let c := newCommand s2 st f.2 block sb x
        (∀ n s3, blockReason st f.2 c s2 = .ok (some n) s3 →
          exec i s = .next (takeTrap s3 { cause := causeXcmd, xval := sa ||| BitVec.ofNat 64 n })) ∧
        ∀ s3 c' s4 st4, blockReason st f.2 c s2 = .ok none s3 →
          (f.2 ≠ 4 ∧ c' = c ∧ s4 = s3 ∨ f.2 = 4 ∧ collList st sa c s3 = .ok c' s4) → Runs s4 st4 →
          let flag := fld c' 9 1 % 2 = 1
          let scope := fld c' 9 1 / 4 % 8
          (flag → slogCount st4 ≠ 0 → exec i s = .next (putStrand s4 { st4 with wait := .sideLog })) ∧
          (¬ flag → exec i s = .next (Forms.placed s4 st4 d.toNat c' (st.r.pc + 4))) ∧
          (flag → slogCount st4 = 0 →
            let st5 := Forms.released s4 st4 false scope
            exec i s = .next (Forms.placed (putStrand s4 st5) st5 d.toNat c' (st.r.pc + 4)))))) ∧
  (∀ s k st d c, s.strands[k]? = some st → st.exited = false → st.wait = .engineRoom → st.pendingXe = some (d, c) →
    roomFor s (homeBay st / 40) c.wing = true →
    exec (.xeQueueRoom k) s = .next { Forms.placed { s with cur := k } st d c (st.r.pc + 4) with cur := s.cur }) ∧
  ∀ s st, Runs s st → ∀ a d : BitVec 6,
    let ticket := (regRead st.r a.toNat).toNat
    let answer := fun (t : State) (v : Word) => Host.Outcome.next (putStrand t (wrote st d.toNat v (st.r.pc + 4)))
    let known := fun (c : Command) => ticketOf c = ticket ∧ c.state ≠ .expired
    ((∀ c ∈ s.commands, ¬ known c) → exec (.xcancel a d) s = answer s 2 ∧ exec (.xquery a d) s = answer s 0) ∧
    ∀ pre c post, s.commands = pre ++ c :: post → known c → (∀ x ∈ pre, ¬ known x) →
      let late := c.state = .ended ∨ (c.status ≠ 0 ∧ c.status ≠ 5) ∨ c.cwpa = none ∨ (passedLast s c = true ∧ c.cancel = false)
      (c.rid ≠ st.r.rid.toNat → exec (.xcancel a d) s = answer s 2) ∧
      (c.rid = st.r.rid.toNat → late → exec (.xcancel a d) s = answer s 1) ∧
      (c.rid = st.r.rid.toNat → ¬ late → (∀ x ∈ pre ++ post, x.seq ≠ c.seq) →
        exec (.xcancel a d) s = answer { s with commands := pre ++ { c with cancel := true } :: post } 0) ∧
      exec (.xquery a d) s = answer s (BitVec.ofNat 64
        ((match c.state with | .queued => 1 | .running => 2 | _ => 3) * 2 ^ 62 +
          (if c.state = .ended then c.status else 0) % 64 * 2 ^ 56 + c.bytes % 2 ^ 48))

/-- R333 to R336, and log entries 37 and 38: on a quiet memory every command XE whose block and, for XCOLL, member list can be read, whose completion
word's page is writable by an engine, whose block gives no reason of R335 and whose member list names the issuing bay or
package once, is queued and leaves its ticket in s[sd], where its queue has room. -/
def Sys2Proof.Parts.CommandsAccepted : Prop :=
  ∀ s st, Runs s st → st.wait ≠ .engineRoom → slogCount st = 0 → st.pending = [] → st.blocks ≠ [] →
    ∀ f ∈ Forms.xe, ∀ (b a d : BitVec 6), (64 ≤ f.2 → st.r.level = .runtime) →
    let sa := regRead st.r a.toNat
    let sb := regRead st.r b.toNat
    sa.toNat % 64 = 0 → sb.toNat % 8 = 0 → ∀ (pages list : Nat → List Xl) (dims : Nat),
    (f.2 ≠ 0 → dims = 0) → (f.2 = 0 → dims = valueAt s (pages 4) ((sa.toNat + 32) % 2 ^ 64) 8 / 2 ^ 16 % 256 ∧ dims ≤ 14) →
    let n := blockMin f.2 / 8 + 3 * dims
    Forms.wordsPass s st pages sa.toNat 8 n →
    let block := Forms.wordsAt s pages sa.toNat 8 n
    ∀ x : Xl, (∀ s', Alike (fun _ => False) s s' → translatePages 0 .write [sb.toNat] s' = .ok (.ok [(sb.toNat, x)]) s') →
    engReach s x.pa = true → x.cmp = false →
    let c := newCommand s st f.2 block sb x
    (∀ s', Alike (fun _ => False) s s' → blockReason st f.2 c s' = .ok none s') →
    (f.2 = 4 → fld c 24 8 % 4 = 0 ∧ Forms.wordsPass s st list (fld c 24 8) 4 (collMembers c)) →
    ∀ c', (f.2 ≠ 4 ∧ c' = c ∨ f.2 = 4 ∧ ∃ k, k < collMembers c ∧
        c' = { c with block := block ++ Forms.wordsAt s list (fld c 24 8) 4 (collMembers c), word := k } ∧
        ∀ j, j < collMembers c → (collMember c' j = (if collLevel c = 1 then s.pkg else homeBay st) ↔ j = k)) →
    roomFor s (homeBay st / 40) c.wing = true →
    let strong := (∃ i, i < n ∧ ∃ p ∈ pages i, p.ord = 1) ∨ f.2 = 4 ∧ ∃ i, i < collMembers c ∧ ∃ p ∈ list i, p.ord = 1
    ∀ read : Strand, read = { st with blocks := read.blocks } → (strong → read.blocks = st.blocks.map (Block.strongDone false)) →
    (¬ strong → read.blocks = st.blocks) →
    let st' := if fld c' 9 1 % 2 = 1 then Forms.released s read false (fld c' 9 1 / 4 % 8) else read
    ∃ dirty, exec (f.1 b a d) s =
      .next (Forms.placed (putStrand { s with dirty := dirty } st') st' d.toNat c' (st.r.pc + 4))

/-- R336, R337, R347, R348, R415: an engine starts the next command of its queue or goes on with its own, a command ends
once, with its completion word as its last act, a collective's member takes a step or an abort, an ended ticket expires,
and an XMIG whose lines are all copied flips, or fails where its destination answers no more (log entries 38, 39, 50). -/
def Sys2Proof.Parts.EngineCommandsRun : Prop :=
  (∀ s e n c, runningOn s e = some c → exec (.engineCommandStart e n) s = .next (progress n c s).1 ∧
    exec (.engineCommandEnd e) s = .next (finishCommand s c)) ∧
  (∀ s e n c, runningOn s e = none → nextQueued s e = some c →
    exec (.engineCommandStart e n) s = .next (progress n { c with state := .running }
      { putCommand s { c with state := .running } with xeTurn := s.xeTurn.setIfInBounds (e / 4) c.wing }).1) ∧
  (∀ s t c, commandOf s t = some c →
    (c.state = .ended → exec (.ticketExpiry t) s = .next (putCommand s { c with state := .expired })) ∧
    (c.fn = 4 → c.state = .running → exec (.collectiveRingStep t) s = .next (progress 1 c s).1) ∧
    (c.fn = 4 → c.state = .running ∨ c.state = .queued → collAborted s c = true →
      exec (.collectiveAbort t) s = .next (endCommand s c (if c.cancel then 5 else 13))) ∧
    (c.fn = 65 → c.state = .running → c.word = 1 → migSize c / 128 ≤ c.done →
      exec (.migrationFlip t) s = .next (progress 1 c s).1 ∧
      (c.status = 0 → c.cancel = false → c.cwpa.isSome → migDest c ≠ s.pkg → s.members.contains (migDest c) = true →
        logsHold s c = false →
        let s1 := { s with fresh := s.fresh + 1 }
        let lost : ErrRec :=
          { time := s.time, kind := 5, bay := 0, cause := 0, rid := c.rid, xval := BitVec.ofNat 64 (migDest c * 2 ^ 46) }
        (progress 1 c s).1 = putCommand (migFlip s1 c) { c with word := 2 } ∨
          (progress 1 c s).1 = putCommand (logError s1 lost) { c with status := 12 }))) ∧
  (∀ (s : State) (c : Command) (pa status : Nat), MemOk s → s.shims = [] → s.poison = [] → c.cwpa = some pa → c.fn < 64 →
    c.fn ≠ 3 →
    let t := endCommand s c status
    let v := if status = 0 then fld c 0 8 else 2 ^ 63 + status % 128 * 2 ^ 56 + c.bytes % 2 ^ 48
    t = { s with mem := t.mem
                 dirty := t.dirty
                 written := t.written
                 commands := s.commands.map fun x => if x.seq = c.seq then { c with state := .ended, status := status } else x } ∧
    (∀ i, i < 8 → (∀ j, j < 8 → steer s (pa + j) = steer s (pa + i) → j = i) →
      memRead t.mem (steer s (pa + i)) = BitVec.ofNat 8 (v / 256 ^ i)) ∧
    ∀ k, (∀ i, i < 8 → k ≠ steer s (pa + i)) → memRead t.mem k = memRead s.mem k) ∧
  ∀ (s : State) (c : Command), c.cwpa = none →
    (endCommand s c 0).mem = s.mem ∧ ∀ unit n, unitLoop unit (n + 1) c s = (c, .failed 1, s)

/-- R336 to R338, R341 to R348, and log entry 38: a command proceeds by the units of its function, one after another, until one
finishes it, fails with its status or must wait; one that was cancelled, or whose completion word TLBINV has taken, goes no
further. What is left of a command is done before its end, which has the status its last unit gave. -/
def Sys2Proof.Parts.EngineUnits : Prop :=
  ∀ (s : State) (c : Command) (n : Nat),
    let live := c.cwpa.isSome = true ∧ c.status = 0 ∧ c.cancel = false
    let unit := match c.fn with
      | 0 => xcopyUnit c
      | 1 => xgatherUnit c
      | 2 => xpoolUnit c
      | 3 => xexpandUnit c
      | 4 => xcollUnit c
      | 64 => xswapUnit c
      | 65 => xmigUnit c
      | _ => xsealUnit c
    let failed := fun (t : State) (k : Nat) => (putCommand t { c with status := k }, Progress.failed k)
    progress 0 c s = (putCommand s c, .more) ∧
    (c.cwpa = none → progress (n + 1) c s = failed s 1) ∧
    (c.cwpa.isSome = true → c.status ≠ 0 → progress (n + 1) c s = failed s c.status) ∧
    (c.cwpa.isSome = true → c.status = 0 → c.cancel = true → progress (n + 1) c s = failed s 5) ∧
    (live → ∀ t, unit s = .ok none t → progress (n + 1) c s = (putCommand t c, .finished)) ∧
    (live → ∀ c' t, unit s = .ok (some c') t → progress (n + 1) c s = progress n c' t) ∧
    (live → ∀ k t, unit s = .error (.status k) t → progress (n + 1) c s = failed t k) ∧
    (live → ∀ x t, unit s = .error x t → (∀ k, x ≠ .status k) → progress (n + 1) c s = (putCommand t c, .waiting)) ∧
    ∀ t p x, progress (2 ^ 65) c s = (t, p) → t.commands.find? (fun y => y.seq == c.seq) = some x →
      (p = .finished → finishCommand s c = endCommand t x 0) ∧ (∀ k, p = .failed k → finishCommand s c = endCommand t x k) ∧
      (p = .waiting ∨ p = .more → finishCommand s c = t)

/-- R299, R339, R435: what an engine reads comes with its poison, and what it stores to one page leaves every byte there: a word
that a poisoned byte lands in is poisoned, one that is written whole without poison is not, and nothing else changes. -/
def Sys2Proof.Parts.EngineBytes : Prop :=
  (∀ (s s1 : State) (c : Command) (cmpOk : Bool) (va n : Nat) (x : Xl), 0 < n → va < 2 ^ 64 → va % 4096 + n ≤ 4096 →
    engPage c .read cmpOk va n s = .ok x s1 → ¬ (x.home = 0 ∧ isPooled s1 x.pa = true) →
    ∃ dirty, engRead c cmpOk va n s = .ok ((List.range n).map fun i =>
      (memRead s1.mem (steer s1 (x.pa + i)), s1.poison.contains (steer s1 (x.pa + i) / 8))) { s1 with dirty := dirty }) ∧
  (∀ (s : State) (pa : Nat) (bs : List PByte), MemOk s → s.shims = [] →
    (∀ i j, i < bs.length → j < bs.length → steer s (pa + i) = steer s (pa + j) → i = j) →
    let t := storePieces s [(pa, bs.length)] bs
    t = Forms.drainedTo s t ∧
    (∀ i x, bs[i]? = some x → memRead t.mem (steer s (pa + i)) = x.1) ∧
    (∀ k, (∀ i, i < bs.length → k ≠ steer s (pa + i)) → memRead t.mem k = memRead s.mem k) ∧
    ∀ w, w ∈ t.poison ↔ (∃ i x, bs[i]? = some x ∧ x.2 = true ∧ steer s (pa + i) / 8 = w) ∨
      w ∈ s.poison ∧ ¬ ∃ i, i + 8 ≤ bs.length ∧ (pa + i) % 8 = 0 ∧ steer s (pa + i) / 8 = w) ∧
  ∀ (s : State) (pa n : Nat) (ps : List (Nat × Nat)) (bs : List PByte),
    storePieces s ((pa, n) :: ps) bs = storePieces (storePieces s [(pa, n)] (bs.take n)) ps (bs.drop n)

/-- R336, R341 to R344: one element of an XCOPY moves its bytes from the source to the destination with their poison; one row of
an XGATHER moves the row its index names, and an index outside the table fails; an XPOOL sums a bag's elements in index
order in FP32, each product fused, and stores the bag's row; a slot of an XEXPAND's table names the one symbol whose range
holds it, and the state steps by that symbol's frequency. ENGINE_COMMAND_START performs such units one by one. -/
def Sys2Proof.Parts.EngineFunctions : Prop :=
  ∀ (s : State) (c : Command),
    let starts := fun (c' : Command) (t : State) => c.cwpa.isSome = true → c.status = 0 → c.cancel = false →
      ∀ e, runningOn s e = some c → exec (.engineCommandStart e 1) s = .next (putCommand t c')
    (c.done < copyTotal c →
      let cmpOk := fld c 33 1 == 1
      let addr := fun (base o : Nat) => copyAddr c base o c.done
      ∀ bs s1 ps s2, engRead c cmpOk (addr (fld c 16 8) 8) (copySize c) s = .ok bs s1 → bs.length = copySize c →
        writePages c cmpOk (piecesOfAccess (addr (fld c 24 8) 16) (copySize c)) s1 = .ok ps s2 →
        let c' := { c with done := c.done + 1, bytes := c.bytes + copySize c }
        xcopyUnit c s = .ok (some c') (storePieces s2 ps bs) ∧ (c.fn = 0 → starts c' (storePieces s2 ps bs))) ∧
    (copyTotal c ≤ c.done → xcopyUnit c s = .ok none s) ∧
    (∀ base o i, copyDims c = 1 → i < copyExtent c 0 → copyAddr c base o i = (base + i * fld c (40 + o) 8) % 2 ^ 64) ∧
    (c.done < fld c 72 4 → ∀ k s1, engIndex c c.done s = .ok k s1 →
      (fld c 56 8 ≤ k → xgatherUnit c s = .error (.status 10) s1) ∧
      (k < fld c 56 8 → ∀ bs s2 ps s3, engRead c false (fld c 16 8 + k * fld c 40 8) (fld c 64 4) s1 = .ok bs s2 →
        bs.length = fld c 64 4 →
        writePages c false (piecesOfAccess (fld c 32 8 + c.done * fld c 48 8) (fld c 64 4)) s2 = .ok ps s3 →
        let c' := { c with done := c.done + 1, bytes := c.bytes + fld c 64 4 }
        xgatherUnit c s = .ok (some c') (storePieces s3 ps bs) ∧ (c.fn = 1 → starts c' (storePieces s3 ps bs)))) ∧
    (fld c 72 4 ≤ c.done → xgatherUnit c s = .ok none s) ∧
    (fld c 80 4 ≤ c.done → xpoolUnit c s = .ok none s) ∧
    (c.done < fld c 80 4 → ∀ x y z, engValue c (fld c 72 8 + 4 * c.done) 4 s = .ok x s →
      engValue c (fld c 72 8 + 4 * (c.done + 1)) 4 s = .ok y s → engValue c (fld c 72 8 + 4 * fld c 80 4) 4 s = .ok z s →
      (y < x ∨ z < y → xpoolUnit c s = .error (.status 11) s) ∧
      (x ≤ y → y ≤ z → ∀ row : Nat → Nat, (∀ e, e < fld c 64 4 → poolElem c e (y - x) x 0 s = .ok (row e) s) →
        ∀ ps s2, writePages c false (piecesOfAccess (fld c 32 8 + c.done * fld c 48 8) (4 * fld c 64 4)) s = .ok ps s2 →
        let bs := (List.range (fld c 64 4)).flatMap fun e => (leBytes 4 (row e)).map fun v => (v, false)
        let c' := { c with done := c.done + 1, bytes := c.bytes + 4 * fld c 64 4 }
        xpoolUnit c s = .ok (some c') (storePieces s2 ps bs) ∧ (c.fn = 2 → starts c' (storePieces s2 ps bs)))) ∧
    (∀ (e p n : Nat) (row value weight : Nat → Nat),
      let f := fld c 68 1 + 1
      let w := fmtWidth f / 8
      let wide := fun (x : Nat) => if f = 1 then x else (fpToFp 1 f x 0 false 0).bits
      (∀ q, p ≤ q → q < p + n → engIndex c q s = .ok (row q) s ∧ row q < fld c 56 8 ∧
        engValue c (fld c 16 8 + row q * fld c 40 8 + e * w) w s = .ok (value q) s ∧
        (fld c 88 8 ≠ 0 → engValue c (fld c 88 8 + 4 * q) 4 s = .ok (weight q) s)) →
      poolElem c e n p 0 s = .ok ((List.range n).foldl (fun acc i =>
        if fld c 88 8 = 0 then (fpAdd 1 acc (wide (value (p + i))) 0 0).bits
        else (fpFma 1 false false (weight (p + i)) (wide (value (p + i))) acc 0 0).bits) 0) s) ∧
    (c.states ≠ [] → c.done < thElems c →
      let x := c.states.getD (c.done % 32) 0
      let sym := (symbolOf c (x % 4096) (thSyms c - 1) 0 0).1
      let y := thFreq c sym * (x / 4096) + x % 4096 - (symbolOf c (x % 4096) (thSyms c - 1) 0 0).2
      2 ^ 16 ≤ y → ∀ c1 s1, expandPut c c.done (thValue c sym) s = .ok c1 s1 →
        let c' := { c1 with states := c.states.set (c.done % 32) y, word := c.word, done := c.done + 1,
                            bytes := expandBytes c (c.done + 1) }
        xexpandUnit c s = .ok (some c') s1 ∧ (c.fn = 3 → starts c' s1)) ∧
    ∀ slot sym,
      let cum := fun (k : Nat) => ((List.range k).map (thFreq c)).sum
      sym < thSyms c → cum sym ≤ slot → slot < cum (sym + 1) → symbolOf c slot (thSyms c - 1) 0 0 = (sym, cum sym)

namespace Sys2Proof.Forms

/-! ### Work forms -/

/-- A state whose launch slot holds a packet (R351, R357). -/
def slotHolds (s : State) (vf i : Nat) (bs : List Byte) : State :=
  putLaunch s { launchOf s vf i with bytes := slotBytes 0 0 bs }

/-- The strand once reads of `n` words as scalar loads are done: a strongly ordered one has the last such write of the stream
performed (R307). -/
def wordsRead (st : Strand) (pages : Nat → List Xl) (n : Nat) (read : Strand) : Prop :=
  read = { st with blocks := read.blocks } ∧
  ((∃ i, i < n ∧ ∃ p ∈ pages i, p.ord = 1) → read.blocks = st.blocks.map (Block.strongDone false)) ∧
  (¬ (∃ i, i < n ∧ ∃ p ∈ pages i, p.ord = 1) → read.blocks = st.blocks)

/-- What the end of a raising leaves of its slot when its completion word was written, could not be written, or is held back by a
line that another party holds (R351, R352, and log entry 41). -/
def SlotAfter (u : State) (vf slot status : Nat) : Option Bool → Prop
  | none => (launchOf u vf slot).state = 3
  | some ok => (launchOf u vf slot).state = 0 ∧ (launchOf u vf slot).lstat = BitVec.ofNat 8 status ∧
      (launchOf u vf slot).cwf = !ok

/-- The scalar registers before the first instruction (R355, R457): the strand's share of `n` elements, their number, the pointer of
its packet or item, and the arguments; every other register is 0 but sp. -/
def StartScalars (r : Regs) (sid nstr n sp : Nat) (ptr : Word) (args : List Word) : Prop :=
  let s := fun (k : Nat) => r.s.getD k 0
  s 2 = BitVec.ofNat 64 sp ∧ s 4 = BitVec.ofNat 64 (sid * n / nstr) ∧
    s 5 = BitVec.ofNat 64 ((sid + 1) * n / nstr - sid * n / nstr) ∧ s 6 = BitVec.ofNat 64 n ∧ s 7 = ptr ∧
    (∀ y, y < 8 → s (8 + y) = args.getD y 0) ∧ s 0 = 0 ∧ s 1 = 0 ∧ s 3 = 0 ∧ ∀ y, 16 ≤ y → y < 64 → s y = 0

/-- The registers before the first instruction but the scalar ones (R95, R355, R376 to R381). -/
def StartRegs (r : Regs) (entry : Word) (v : Vf) (xvec : Word) (sid nstr bid stage rid : Nat) : Prop :=
  r = { s := r.s, pc := entry, level := if v.runtime then .runtime else .user, vl := 0, vt := 1, vstart := 0, mst := 0, frm := 0,
        srseed := 0, jshape := 0, fprog := 0, fcap := 256, fst := 0, rstg := 0, qcnt := 0, sid := BitVec.ofNat 64 sid,
        bid := BitVec.ofNat 64 bid, stg := BitVec.ofNat 64 stage, rid := BitVec.ofNat 64 rid, nstr := BitVec.ofNat 64 nstr, wto := 0,
        cycle := 0, acyc := 0, xpc := 0, xcause := 0, xval := 0, xstat := 0, xvec := xvec, xscr := 0, asid := v.asid.setWidth 64,
        ptbase := v.ptbase, slogEn := true, slogOvf := false, fmode := 0, fragbase := 0, watcha := 0 }

/-- A block before the first instruction, at position `p` on a bay: vector registers, slices, slots and tiles empty, m0 all
ones and the other masks zero, the generators seeded, MPLACE of the strand (R158, R355, R380). -/
def StartBlock (v : Vf) (wing bay p : Nat) (bl : Block) : Prop :=
  bl = { bay := bay, v := 0, m := bl.m, carry := 0, gens := seedGens 0 p, slices := [],
         slots := Vector.replicate 16 (emptySlot false), tiles := Vector.replicate 4 zeroTile, slog := [], ways := 0, scratch := [],
         outst := Vector.replicate 5 0, fifo := [], strongOut := [], unreleased := [], badRegs := [],
         mplace := BitVec.ofNat 64 (v.vmid.toNat * 2 ^ 32 + v.num % 1024 * 2 ^ 16 + wing * 2 ^ 8 + if v.runtime then 1 else 0),
         ms2root := v.s2root, ms2flt := 0, ms2ctl := 0, mecc := 0 } ∧
    (∀ k, k < maskBits → maskBit bl 0 k = true) ∧ ∀ q k, 0 < q → q < 8 → k < maskBits → maskBit bl q k = false

/-- What a strand holds besides before its first instruction: fibres empty, no fragment, message, request or held multiply. -/
def StartIdle (st : Strand) : Prop :=
  st.fibres = Vector.replicate 8 emptyFibre ∧ st.frags = [] ∧ st.spilled = 0 ∧ st.inbox = [] ∧ st.granted = [] ∧ st.requests = [] ∧
    st.sending = none ∧ st.prefetch = [] ∧ st.multiplies = [] ∧ st.pend = Vector.replicate 16 none ∧ st.wait = .none ∧
    st.inflight = none ∧ st.pendingXe = none ∧ st.pending = [] ∧ st.exited = false

/-- The stage of a raising. -/
def stageOf (s : State) (rid x : Nat) : Option Stage := (raisingOf s rid).bind fun r => r.stages[x]?

end Sys2Proof.Forms

/-! ### Raisings, queues and bents -/

/-- R350 to R352, R354, R357, R360: RAISE commits its packet to the lowest free launch slot as a host write that covers its
last eight bytes does, or answers BUSY; a commit takes the next RID, and an admitted packet's bents of stage 0 wait, as many
as it asks for, while a refused one ends at once with its status; a raising whose stages are all complete ends with CVAL in its
completion word and a free slot. The word is dropped, and CWF set, where it is misaligned or its page is refused; while a line
of it or of a stage table is held, the slot waits (log entry 41). -/
def Obligations.LaunchResults : Prop :=
  (∀ s st, Runs s st → ∀ (a d : BitVec 6),
    let sa := regRead st.r a.toNat
    (sa.toNat % 256 ≠ 0 → exec (.raise a d) s = .next (takeTrap s { cause := causeMisal, xval := sa })) ∧
    (sa.toNat % 256 = 0 → ∀ pages, Forms.wordsPass s st pages sa.toNat 8 32 → ∀ read, Forms.wordsRead st pages 32 read → ∃ dirty,
      let bs := Forms.wordsAt s pages sa.toNat 8 32
      let s1 := { s with dirty := dirty }
      let st2 := Forms.released s read false 3
      let s2 := putStrand s1 st2
      let free := fun (i : Nat) => (launchOf s (vfOf st) i).state = 0
      ((∀ i, i < 16 → ¬ free i) → exec (.raise a d) s =
        .next (putStrand s1 (wrote st2 d.toNat 0x8700000000000000 (st.r.pc + 4)))) ∧
      ∀ i, i < 16 → free i → (∀ k, k < i → ¬ free k) → ∃ t st',
        commit (vfOf st) i bs (Forms.slotHolds s2 (vfOf st) i bs) = .ok s.nextRid t ∧ Runs t st' ∧
        exec (.raise a d) s = .next (putStrand t (wrote st' d.toNat (BitVec.ofNat 64 s.nextRid) (st.r.pc + 4))))) ∧
  (∀ (s : State) (vf slot : Nat) (bs : List Byte), (∃ t, commit vf slot bs s = .ok s.nextRid t) ∧
    (bytesAt bs 32 8 = 0 →
      let v := vfRecord s vf
      let x := newStage (bytesAt bs 0 8) (bytesAt bs 24 2) (bytesAt bs 26 1) (bytesAt bs 27 1) 0 0 0
      packetStatus s vf v (packetContainer s bs) (some [x]) bs = none → bytesAt bs 27 1 / 2 % 2 = 0 →
      ∃ t r, commit vf slot bs s = .ok s.nextRid t ∧ t.raisings = s.raisings ++ [r] ∧ r.rid = s.nextRid ∧ r.n = bytesAt bs 16 8 ∧
        r.stages = [{ x with created := bytesAt bs 28 4 }] ∧
        t.bents = s.bents ++ (List.range (bytesAt bs 28 4)).map (fun i => newBent s.nextRid 0 i []) ∧
        (launchOf t vf slot).state = 1 ∧ (launchOf t vf slot).rid = s.nextRid ∧ t.strands = s.strands ∧ t.mem = s.mem ∧
        t.nextRid = s.nextRid + 1)) ∧
  (∀ (s : State) (vf slot : Nat) (bs : List Byte) (t1 : State),
    let v := vfRecord s vf
    let k := packetContainer s bs
    let s1 := { s with nextRid := s.nextRid + 1 }
    (packetStages v k bs s1 = .ok .held t1 → ∃ t, commit vf slot bs s = .ok s.nextRid t ∧ (launchOf t vf slot).state = 1 ∧
      t.raisings = s.raisings ∧ t.bents = s.bents) ∧
    ∀ stages n, (∃ xs, packetStages v k bs s1 = .ok (.done xs) t1 ∧ stages = some xs) ∨
        packetStages v k bs s1 = .ok .failed t1 ∧ stages = none →
      packetStatus t1 vf v k stages bs = some n → ∀ w u,
      writeCompletion v (BitVec.ofNat 64 (bytesAt bs 120 8)) (2 ^ 63 + n * 2 ^ 56) t1 = .ok w u →
      ∃ t, commit vf slot bs s = .ok s.nextRid t ∧ t.raisings = s.raisings ∧ t.bents = s.bents ∧ t.strands = s.strands ∧
        t.nextRid = s.nextRid + 1 ∧ t.mem = u.mem ∧ Forms.SlotAfter t vf slot n w) ∧
  (∀ (s : State) (v : Vf) (cwa : Word) (value : Nat),
    (cwa.toNat % 8 ≠ 0 → writeCompletion v cwa value s = .ok (some false) s) ∧
    (cwa.toNat % 8 = 0 →
      (∀ n t, engPage (foremanAs v) .write false cwa.toNat 8 s = .error (.status n) t →
        writeCompletion v cwa value s = .ok (some false) t) ∧
      (∀ t, engPage (foremanAs v) .write false cwa.toNat 8 s = .error .held t → writeCompletion v cwa value s = .ok none s) ∧
      ∀ x t, engPage (foremanAs v) .write false cwa.toNat 8 s = .ok x t → MemOk t → t.shims = [] →
        (∀ i j, i < 8 → j < 8 → steer t (x.pa + i) = steer t (x.pa + j) → i = j) →
        ∃ u, writeCompletion v cwa value s = .ok (some true) u ∧
          (∀ i, i < 8 → memRead u.mem (steer t (x.pa + i)) = BitVec.ofNat 8 (value / 256 ^ i)) ∧
          ∀ k, (∀ i, i < 8 → k ≠ steer t (x.pa + i)) → memRead u.mem k = memRead t.mem k)) ∧
  (∀ (s : State) (vf slot o : Nat) (bs : List Byte), slot < 16 → o + bs.length ≤ 256 →
    let x := launchOf s vf slot
    let y := { x with bytes := slotBytes x.bytes o bs }
    (x.state ≠ 0 → exec (.launchSlotWrite vf slot o bs) s = .next (putLaunch s { x with ovr := true })) ∧
    (x.state = 0 → ¬ (o ≤ 248 ∧ o + bs.length = 256) → exec (.launchSlotWrite vf slot o bs) s = .next (putLaunch s y)) ∧
    (x.state = 0 → o ≤ 248 → o + bs.length = 256 → ∃ t, exec (.launchSlotWrite vf slot o bs) s = .next t ∧
      commit vf slot ((List.range 256).map fun i => BitVec.ofNat 8 (getField y.bytes (8 * i) 8)) (putLaunch s y) =
        .ok s.nextRid t)) ∧
  ∀ (s : State) (rid : Nat) (r : Raising), raisingOf s rid = some r → r.ended = false →
    (∀ c ∈ s.commands, c.rid = rid → c.state ≠ .queued ∧ c.state ≠ .running) → r.aborted = false →
    (∀ x ∈ r.stages, x.complete = true) →
    let ended := s.raisings.map fun y => if y.rid = rid then { y with ended := true } else y
    ∃ w t u, writeCompletion (vfRecord s r.vf) r.cwa r.cval.toNat { s with raisings := ended } = .ok w t ∧
      exec (.raisingEnd rid) s = .next u ∧ u.raisings = ended ∧ u.strands = s.strands ∧ u.bents = s.bents ∧
      u.mem = t.mem ∧ Forms.SlotAfter u r.vf r.slot 0 w

/-- R358 to R360, R363, R366: QPUSH appends its item and answers the occupancy, or waits on a full queue; QPOP takes the
oldest item and stores it, or answers that the queue is empty or closed; STGDONE closes the queues its stage feeds. A
waiting QPUSH goes on when there is room and reads its item again (log entry 42), its bent may be marked a candidate, and an
instance takes the oldest item out of its queue when it is created (log entry 41). -/
def Sys2Proof.Parts.QueueResults : Prop :=
  (∀ s st, Runs s st → ∀ (b a d : BitVec 6),
    let sa := regRead st.r a.toNat
    let x := (regRead st.r b.toNat).toNat
    let rid := st.r.rid.toNat
    let mine := st.r.stg.toNat
    let misal := takeTrap s { cause := causeMisal, xval := sa }
    (sa.toNat % 64 ≠ 0 → exec (.qpush b a d) s = .next misal ∧ exec (.qpop a d) s = .next misal) ∧
    (sa.toNat % 64 = 0 → pushStage s st x = none →
      exec (.qpush b a d) s = .next (takeTrap s { cause := causeQstate, xval := regRead st.r b.toNat })) ∧
    (sa.toNat % 64 = 0 → ∀ g pages, pushStage s st x = some g → Forms.wordsPass s st pages sa.toNat 8 8 →
      ∀ read, Forms.wordsRead st pages 8 read → ∃ dirty,
      let s1 := { s with dirty := dirty }
      (g.cap ≤ g.items.length → exec (.qpush b a d) s = .next (putStrand s1 { read with wait := .queueFull x })) ∧
      (g.items.length < g.cap →
        let item := (List.range 8).map fun i => BitVec.ofNat 64 (valueAt s (pages i) ((sa.toNat + 8 * i) % 2 ^ 64) 8)
        exec (.qpush b a d) s = .next (putStrand (modStage s1 rid x fun g => { g with items := g.items ++ [item] })
          (wrote (Forms.released s read false 3) d.toNat (BitVec.ofNat 64 (g.items.length + 1)) (st.r.pc + 4))))) ∧
    (sa.toNat % 64 = 0 → mine = 0 ∨ Forms.stageOf s rid mine = none →
      exec (.qpop a d) s = .next (takeTrap s { cause := causeQstate, xval := 0 })) ∧
    (sa.toNat % 64 = 0 → mine ≠ 0 → ∀ g, Forms.stageOf s rid mine = some g →
      (g.items = [] → exec (.qpop a d) s = .next (putStrand s
        (wrote st d.toNat (if g.closed then BitVec.allOnes 64 else 0) (st.r.pc + 4)))) ∧
      ∀ item rest, g.items = item :: rest → item.length = 8 → slogCount st = 0 → watchHit st.r sa.toNat 64 .write = none →
        ∀ ps s1 st1, Allowed s 0 sa.toNat 64 .write ps s1 → Runs s1 st1 → Quiet s1 st1 ps sa.toNat → MemOk s1 →
        let raisings := (settleRaising (modStage s1 rid mine fun g => { g with items := rest }) rid).raisings
        ∃ t st', exec (.qpop a d) s = .next { t with raisings := raisings } ∧ Runs t st' ∧
          Stored s1 t ps sa.toNat 64 (leValue (item.flatMap fun x => leBytes 8 x.toNat)) ∧
          AfterStore { wrote st1 d.toNat 1 (st.r.pc + 4) with
            acquiredAt := t.written.length, acquiredStale := unreleased t } st' (st.r.pc + 4)) ∧
    (slogCount st = 0 → exec .stgdone s = .next (putStrand
      (settleRaising (modRaising s rid fun r => { r with stages := closeOutputs mine r.stages }) rid)
      (retired (Forms.released s st false 3) (st.r.pc + 4))))) ∧
  (∀ (s : State) (k x : Nat) (st : Strand), s.strands[k]? = some st → st.exited = false → st.wait = .queueFull x →
    ((∀ g, pushStage s st x = some g → g.items.length < g.cap) →
      exec (.qpushRoom k) s = .next { s with strands := s.strands.set k { st with wait := .none } }) ∧
    exec (.qpushCandidateMark k) s = .next { s with bents := s.bents.modify st.bent fun b => { b with candidate := true } }) ∧
  ∀ (s : State) (rid k : Nat) (g : Stage) (item : List (BitVec 64)) (rest : List (List (BitVec 64))), k ≠ 0 →
    Forms.stageOf s rid k = some g → g.items = item :: rest →
    (s.bents.filter fun b => b.rid == rid && b.stage == k && b.state == .waiting).length < g.items.length →
    (∃ r, raisingOf s rid = some r ∧ r.ended = false ∧ r.aborted = false) →
    ∃ raisings, exec (.createInstance rid k) s =
        .next { s with raisings := raisings, bents := s.bents ++ [newBent rid k g.created item] } ∧
      raisings = (modStage s rid k fun g => { g with items := rest, created := g.created + 1 }).raisings

/-- R362: QAPPEND reserves places for its active elements by one atomic addition to TAIL, stores those that have a place in
ascending index from the old TAIL on, and answers their number in QCNT; every other byte of memory stays. -/
def Sys2Proof.Parts.QueueAppendResults : Prop :=
  ∀ s st, Runs s st → VectorReady st → slogCount st = 0 → st.blocks ≠ [] → MemOk s →
    ∀ (r : BitVec 2) (w m : BitVec 3) (a : BitVec 6) (d : BitVec 5),
    Instr.subByteCode w = false → 8 ≤ vtWidth st.r.vt → wideBad w d st = false →
    let i := Instr.qappend r w m a d
    let es := Forms.active st m.toNat
    let va := (regRead st.r a.toNat).toNat
    let wm := vmWidth st.r.vt w
    (es = [] → let st1 := Forms.released s st false 3
      exec i s = .next (putStrand s (vectorDone { st1 with r := { st.r with qcnt := 0 } } st.r.mst st1.blocks))) ∧
    (es ≠ [] → va % 32 = 0 → watchHit st.r va 8 .atomic = none → ∀ (tp cp bp : List Xl) (pages : Nat → List Xl),
      let cap := valueAt s cp (va + 8) 8
      let base := valueAt s bp (va + 16) 8
      let old := valueAt s tp va 8
      let n := min es.length (cap - old)
      let at' := fun (k : Nat) => (base + (old + k) * (wm / 8)) % 2 ^ 64
      let key := fun (k i : Nat) => keyOf s (pages k) (at' k) i
      let img := fun (u : Nat) (e : Nat × Block × Nat) =>
        narrowElem st.r.vt wm (elemRead e.2.1 (vtWidth st.r.vt) d.toNat e.2.2)
          (if (vmFloat st.r.vt wm).isSome then st.r.frm.toNat % 8 else 0) u
      let K := fun (x : Nat) => (∃ i, i < 8 ∧ x = keyOf s tp va i) ∨ ∃ k i, k < n ∧ i < wm / 8 ∧ x = key k i
      (∀ s', Alike K s s' → checkAtomic false 0 va 8 true s' = .ok (.ok tp) s') → Quiet s st tp va → Quiet s st cp (va + 8) → Quiet s st bp (va + 16) →
      Steady K s 0 (va + 8) 8 .read cp → Steady K s 0 (va + 16) 8 .read bp →
      watchHit st.r (va + 8) 8 .read = none → watchHit st.r (va + 16) 8 .read = none →
      (∀ k e, k < n → es[k]? = some e → watchHit st.r (at' k) (wm / 8) .write = none ∧ Quiet s st (pages k) (at' k) ∧
        Steady K s e.1 (at' k) (wm / 8) .write (pages k)) →
      (∀ i j, i < 8 → j < 8 → keyOf s tp va i = keyOf s tp va j → i = j) →
      (∀ i j, i < 8 → j < 8 → keyOf s cp (va + 8) i ≠ keyOf s tp va j ∧ keyOf s bp (va + 16) i ≠ keyOf s tp va j) →
      (∀ k k' i i', k < n → k' < n → i < wm / 8 → i' < wm / 8 → key k i = key k' i' → k = k' ∧ i = i') →
      (∀ k i j, k < n → i < wm / 8 → j < 8 → key k i ≠ keyOf s tp va j) →
      ∃ (t : State) (st' : Strand) (u : Nat → Nat), exec i s = .next t ∧ Runs t st' ∧
        t = { s with mem := t.mem, bays := t.bays, dirty := t.dirty, written := t.written, strands := t.strands, fresh := t.fresh } ∧ (∀ k, k ≠ s.cur → t.strands[k]? = s.strands[k]?) ∧
        st' = { vectorDone { st with r := { st.r with qcnt := BitVec.ofNat 64 n } } st'.r.mst st'.blocks with
          pending := st'.pending } ∧
        (st'.blocks.map fun bl => { still bl with v := bl.v }) = (st.blocks.map fun bl => { still bl with v := bl.v }) ∧
        (∀ i, i < 8 → memRead t.mem (keyOf s tp va i) = BitVec.ofNat 8 ((old + es.length) / 256 ^ i)) ∧
        (∀ k i e, k < n → i < wm / 8 → es[k]? = some e →
          memRead t.mem (key k i) = BitVec.ofNat 8 ((img (u k) e).bits / 256 ^ i)) ∧
        FlagsRaised st.r.mst st'.r.mst (fun y => ∃ k e, k < n ∧ es[k]? = some e ∧ y = img (u k) e) ∧
        ∀ x, ¬ K x → memRead t.mem x = memRead s.mem x)

/-- R355, R361, R363 to R368, R457: EXIT releases what the strand holds and ends it, YIELD is a pre-emption point; a waiting
bent is placed on free bays of its spans, with every register and block of its strands as R355 and R457 set them, and may issue
600 ns later; a bent that comes back goes on at XPC with what it held, while its save area is as the save left it (log entry
18); waiting raises its priority; a requested pre-emption stops it, and once saved it waits and holds no bay. TIME passes by
free amounts, and by the 600 ns at the first issue (log entry 8). -/
def Obligations.BentResults : Prop :=
  (∀ s st, Runs s st → MemOk s → slogCount st = 0 → expandHolds s s.cur (fun _ _ _ => true) = false →
    ∃ t st', exec .exit s = .next t ∧ Runs t st' ∧ st'.exited = true ∧ st'.multiplies = [] ∧ st'.inbox = [] ∧
      st'.requests = [] ∧ st'.prefetch = [] ∧
      st'.r = { st.r with pc := st.r.pc + 4 } ∧
      (∀ bl ∈ st'.blocks, bl.ways = 0 ∧ bl.slots = Vector.replicate 16 (emptySlot false)) ∧
      (st'.blocks.map fun bl => (bl.bay, bl.v, bl.m, bl.tiles)) = (st.blocks.map fun bl => (bl.bay, bl.v, bl.m, bl.tiles)) ∧
      (∀ r ∈ t.regions, ∀ h ∈ r.holders, h.bay ∉ attached st) ∧
      (∀ k, k ≠ s.cur → t.strands[k]? = s.strands[k]?) ∧
      (let cut := fun (k : Nat) => ∃ bl ∈ st.blocks, ∃ w, w < 8 ∧ bl.ways.getLsbD w = true ∧ wayAddr bl.bay w ≤ k ∧
         k < wayAddr bl.bay w + 0x10000
       let drained := fun (k : Nat) => ∃ h ∈ s.shims, h.bay ∈ attached st ∧ ∃ i, i < 128 ∧ k = steer s (h.line + i)
       ∀ k, ¬ drained k → (cut k → memRead t.mem k = 0) ∧ (¬ cut k → memRead t.mem k = memRead s.mem k)) ∧
      ∀ b, s.bents[st.bent]? = some b → ∃ b', t.bents[st.bent]? = some b' ∧ b'.strands = b.strands ∧
        ((∀ k ∈ b.strands, k = s.cur ∨ ∃ x, s.strands[k]? = some x ∧ x.exited = true) → b'.state = .ended ∧ b'.stack = none) ∧
        ((∃ k ∈ b.strands, k ≠ s.cur ∧ ∃ x, s.strands[k]? = some x ∧ x.exited = false) →
          b'.state = b.state ∧ b'.stack = b.stack)) ∧
  (∀ s st b, Runs s st → s.bents[st.bent]? = some b →
    let s1 := { s with time := s.time + Config.elapsed s.fresh, fresh := s.fresh + 1 }
    let bents := match takenByPriority s1 st.bent with
      | some w => s.bents.set st.bent { b with preempt := true, displacedBy := some w }
      | none => s.bents
    exec .yield s = .next (putStrand { s1 with bents := bents } (retired st (st.r.pc + 4)))) ∧
  (∀ (s : State) (k : Nat) (b : Bent), s.bents[k]? = some b →
    (b.state = .resident → b.started = false → exec (.bentFirstIssue k) s =
      .next { s with bents := s.bents.set k { b with started := true }, time := s.time + 600 }) ∧
    (b.state = .waiting → b.held = false → exec (.priorityAging k) s =
      .next { s with bents := s.bents.set k { b with waitedMs := b.waitedMs + 1 } }) ∧
    (b.state = .resident → b.preempt = true ∨ b.held = true → exec (.preemption k) s =
      .next { s with bents := s.bents.set k { b with preempt := true }, time := s.time + Config.elapsed s.fresh, fresh := s.fresh + 1 }) ∧
    (b.state = .resident → b.preempt = false → b.held = false → let s1 := { s with time := s.time + Config.elapsed s.fresh, fresh := s.fresh + 1 }
      ∀ w, (takenByPriority s1 k).or (takenAsCandidate s1 k b) = some w → exec (.preemption k) s =
        .next { s1 with bents := s.bents.set k { b with preempt := true, displacedBy := some w } }) ∧
    (b.state = .resident → b.preempt = true →
      (∀ i ∈ b.strands, ∀ st, s.strands[i]? = some st → strandQuiet s i st = true) →
      ∃ t, exec (.preemptionSaved k) s = .next t ∧
        t.bents[k]? = some { b with
          state := .waiting, preempt := false, candidate := false, displacedBy := none, halted := false, waitedMs := 0 } ∧
        ∀ i ∈ b.strands, ∀ st, s.strands[i]? = some st → ∃ st', t.strands[i]? = some st' ∧
          (st.exited = true → st'.blocks = []) ∧
          (st.exited = false → st'.wait = .none ∧ st'.waited = 0 ∧ st'.inflight = none ∧ st'.pendingXe = none ∧
            st'.multiplies = [] ∧ st'.r.xpc = st'.r.pc ∧
            (st.inflight = none → st'.r.s = st.r.s ∧ st'.r.vstart = st.r.vstart ∧ st'.frags = st.frags ∧
              st'.r.pc = st.r.pc + (if st.wait = .wfi then 4 else 0) ∧
              (st'.blocks.map fun bl => (bl.v, bl.m, bl.carry, bl.tiles, bl.slots, bl.slog, bl.slices)) =
                (st.blocks.map fun bl => (bl.v, bl.m, bl.carry, bl.tiles, bl.slots, bl.slog, bl.slices))))) ∧
    (∀ r x bays, placeable s b = true → baysFit s b bays = true → baysDue s k bays.flatten = true →
      raisingOf s b.rid = some r → r.stages[b.stage]? = some x → b.strands ≠ [] → b.strands.Nodup →
      (∀ i ∈ b.strands, ∃ st, s.strands[i]? = some st) →
      (∀ i ∈ b.strands, ∀ st, s.strands[i]? = some st → saveIntact s st = true) →
      ∃ t b', exec (.placeBent k bays) s = .next t ∧ t.bents = s.bents.set k b' ∧ b'.state = .resident ∧ b'.started = false ∧
        b'.stack = b.stack ∧ b'.strands = b.strands ∧
        ((∀ i ∈ b.strands, ∀ st, s.strands[i]? = some st → ∀ bl ∈ st.blocks, bl.scratch = []) → t.mem = s.mem) ∧
        ∀ (q i : Nat) (ns : List Nat) (st : Strand), b.strands[q]? = some i → bays[q]? = some ns → s.strands[i]? = some st →
          st.exited = false → ∃ st', t.strands[i]? = some st' ∧ attached st' = ns ∧
            st' = { st with
              r := { st.r with pc := st.r.xpc, xvec := s.wvec.getD (wingOfBay (ns.headD 0)) 0 }, blocks := st'.blocks, saved := [] } ∧
            (st'.blocks.map fun bl => (bl.v, bl.m, bl.carry, bl.tiles, bl.slots, bl.slog, bl.slices)) =
              (st.blocks.map fun bl => (bl.v, bl.m, bl.carry, bl.tiles, bl.slots, bl.slog, bl.slices))) ∧
    (∀ r x j bays, placeable s b = true → baysFit s b bays = true → baysDue s k bays.flatten = true →
      raisingOf s b.rid = some r → r.stages[b.stage]? = some x → b.strands = [] → freeSet s r b.stage = some j →
      ∃ t b', exec (.placeBent k bays) s = .next t ∧ t.bents = s.bents.set k b' ∧ b'.state = .resident ∧ b'.started = false ∧
        b'.stack = some j ∧ b'.strands = (List.range bays.length).map (s.strands.length + ·) ∧
        t.strands.take s.strands.length = s.strands ∧ t.mem = s.mem ∧
        ∀ i ns, bays[i]? = some ns → ∃ st, t.strands[s.strands.length + i]? = some st ∧ attached st = ns ∧
          let v := vfRecord s r.vf
          let w := wingOfBay (ns.headD 0)
          let c := s.containers.find? fun c => c.handle == r.cont
          let sp := r.spool.toNat + j * setBytes c r.stages + (i + 1) * stackBytes c x
          let regs := fun (sid nstr n : Nat) (ptr : Word) (args : List Word) => Forms.StartScalars st.r sid nstr n sp ptr args ∧
            Forms.StartRegs st.r x.entry v (s.wvec.getD w 0) sid nstr b.bid b.stage r.rid
          (∀ p n bl, ns[p]? = some n → st.blocks[p]? = some bl → Forms.StartBlock v w n p bl) ∧ Forms.StartIdle st ∧
          (b.stage = 0 → regs (b.bid * x.strands + i) (r.bents * x.strands) r.n r.ablk r.args) ∧
          (b.stage ≠ 0 → regs i x.strands (b.item.getD 0 0).toNat (b.item.getD 1 0) ((b.item.drop 2).take 6)))) ∧
  ∀ s : State, exec .stageScoring s = .next { s with raisings := s.raisings.map fun r => { r with
    stages := r.stages.zipIdx.map fun (x, i) => if i = 0 then x else { x with score := scoreOf r.prio x } } }

namespace Sys2Proof.Forms

/-! ### Runtime forms -/

/-- The runtime-only instructions of R53 with their words. -/
noncomputable def runtimeOnly (b a d : BitVec 6) : List (Instr × Nat) :=
  let sb := b.toNat * 2 ^ 19
  let sa := a.toNat * 2 ^ 13
  let sd := d.toNat * 2 ^ 7
  [(.eret, 0x04000023), (.halt, 0x08000023), (.slkdef a d, 0x78 + sa + sd), (.tlbinv b a d, 0x7F + sb + sa + sd),
   (.tlbinva b a d, 0x200007F + sb + sa + sd), (.tlbsync, 0x400007F), (.ctxsave b a d, 0x600007F + sb + sa + sd),
   (.ctxrest b a d, 0x800007F + sb + sa + sd), (.slogrp d, 0xA00007F + sd), (.slogdrop b a d, 0xC00007F + sb + sa + sd),
   (.pgpin a d, 0xE00007F + sa + sd), (.pgunpin a d, 0x1000007F + sa + sd), (.stubq a d, 0x1200007F + sa + sd),
   (.xswap b a d, 0x8000007D + sb + sa + sd), (.xmig b a d, 0x8200007D + sb + sa + sd), (.xseal b a d, 0x8400007D + sb + sa + sd)]

end Sys2Proof.Forms

/-! ### Runtime instructions -/

/-- R53: every runtime-only instruction of a user strand raises PRIV with its word and position in XVAL, and does nothing
else. -/
def Sys2Proof.Parts.RuntimeOnlyRefused : Prop :=
  ∀ s st, Runs s st → st.r.level = .user → ∀ b a d, ∀ f ∈ Forms.runtimeOnly b a d,
    exec f.1 s = .next (takeTrap s { cause := causePriv, xval := memberXval f.2 (st.r.pc.toNat / 4) })

/-- R391 to R393: TLBINV and TLBINVA release at device scope and drop every translation of the range from every TLB; TLBINV
and TLBSYNC write covered pins back and acquire; of length 0 both are the release alone; a seventeenth outstanding TLBINVA
waits, and completes the oldest one's drain when it goes on; bits 63:18 of s[sd] are zero, or ILLOP. -/
def Sys2Proof.Parts.InvalidationResults : Prop :=
  (∀ s st, Runs s st → st.r.level = .runtime → ∀ b a d : BitVec 6,
    let w := regRead st.r d.toNat
    let x := invRange (vmidOf st) w (regRead st.r a.toNat) (regRead st.r b.toNat)
    let rel := Forms.released s st false 3
    let drain := fun (s : State) (y : Word × Word × Word) => writePins s (invRange (vmidOf st) y.1 y.2.1 y.2.2)
    let mine := (w, regRead st.r a.toNat, regRead st.r b.toNat)
    let word := fun (fn : Nat) => 0x7F + fn * 2 ^ 25 + b.toNat * 2 ^ 19 + a.toNat * 2 ^ 13 + d.toNat * 2 ^ 7
    let illop := fun (fn : Nat) =>
      Host.Outcome.next (takeTrap s { cause := causeIllop, xval := memberXval (word fn) (st.r.pc.toNat / 4) })
    (w.toNat / 2 ^ 18 ≠ 0 → exec (.tlbinv b a d) s = illop 0 ∧ exec (.tlbinva b a d) s = illop 1) ∧
    (w.toNat / 2 ^ 18 = 0 → slogCount st = 0 → x.len = 0 → ∀ i ∈ [Instr.tlbinv b a d, .tlbinva b a d],
      exec i s = .next (putStrand s (retired rel (st.r.pc + 4)))) ∧
    (w.toNat / 2 ^ 18 = 0 → slogCount st = 0 → x.len ≠ 0 →
      (∃ u st' bays, dropEntries x (putStrand s rel) = .ok () u ∧ Runs u st' ∧
        Forms.acquired (writePins u x) st' 3 bays ∧ exec (.tlbinv b a d) s =
          .next (putStrand { writePins u x with bays := bays } (retired (Forms.acquiring (writePins u x) st' 3) (st.r.pc + 4)))) ∧
      (st.wait ≠ .tlbRoom → st.drains.length < 16 → ∃ u st', dropEntries x (putStrand s rel) = .ok () u ∧ Runs u st' ∧
        exec (.tlbinva b a d) s =
          .next (putStrand u (retired { st' with drains := st.drains ++ [mine] } (st.r.pc + 4)))) ∧
      ∀ y rest, st.wait = .tlbRoom → st.drains = y :: rest → rest.length < 16 →
        let s0 := drain s y
        let st0 := { st with drains := rest }
        ∃ u st', dropEntries x (putStrand s0 (Forms.released s0 st0 false 3)) = .ok () u ∧ Runs u st' ∧
          exec (.tlbinva b a d) s = .next (putStrand u (retired { st' with drains := rest ++ [mine] } (st.r.pc + 4)))) ∧
    (w.toNat / 2 ^ 18 = 0 → x.len ≠ 0 → st.wait ≠ .tlbRoom → 16 ≤ st.drains.length →
      exec (.tlbinva b a d) s = .next (putStrand s { st with wait := .tlbRoom })) ∧
    (let u := st.drains.foldl drain s
     ∃ bays, Forms.acquired u st 3 bays ∧ exec .tlbsync s =
      .next (putStrand { u with bays := bays } (retired { Forms.acquiring u st 3 with drains := [] } (st.r.pc + 4))))) ∧
  ∀ (s : State) (x : InvRange), ∃ t, dropEntries x s = .ok () t ∧
    let hit := fun (e : TlbEntry) => e.vmid = x.vmid ∧ (if e.glob then x.glob = true else x.all = true ∨ e.asid.toNat = x.asid) ∧
      x.lo < (e.page + 1) * 2 ^ e.size ∧ e.page * 2 ^ e.size < x.lo + x.len
    (∀ n e, n < 320 → (e ∈ (bayOf t n).tlb ↔ e ∈ (bayOf s n).tlb ∧ ¬ hit e)) ∧
    (∀ e, e ∈ t.engineTlb ↔ e ∈ s.engineTlb ∧ ¬ hit e.2) ∧ t.mem = s.mem ∧
      ∀ (k : Nat) (st : Strand), s.strands[k]? = some st → ∃ xe, t.strands[k]? = some { st with pendingXe := xe }

/-- R395, R396, R402 (log entry 43): SLOGRP replays the oldest entry first until one still lacks its translation, and answers the entries
that remain; an entry with a byte that the strand may not reach is trapped with PERM; SLOGDROP discards the entries of a range and answers their number; CTXSAVE holds a bent, having it pre-empted
first, and CTXREST lets it go and, which is the model's reading, no seal holds its wings any more. -/
def Sys2Proof.Parts.ServiceResults : Prop :=
  (∀ s st, Runs s st → st.r.level = .runtime → ∀ b a d : BitVec 6,
    let sa := (regRead st.r a.toNat).toNat
    let sb := regRead st.r b.toNat
    let answer := fun (t : State) (st' : Strand) (v : Nat) =>
      Host.Outcome.next (putStrand t (wrote st' d.toNat (BitVec.ofNat 64 v) (st.r.pc + 4)))
    (∀ t st', replayLog (slogCount st) s = .ok () t → Runs t st' → exec (.slogrp d) s = answer t st' (slogCount st')) ∧
    (slogCount st = 0 → exec (.slogrp d) s = answer s st 0) ∧
    (∀ (k : Nat) (bl : Block) (e : LogEntry) (o n v : Nat), st.blocks[k]? = some bl → bl.slog = [e] → slogCount st = 1 →
      e.op = .store ((List.range n).map fun i => (o + i, BitVec.ofNat 8 (v / 256 ^ i), 255)) → e.joins = false → 0 < n →
      o + n ≤ 128 → st.r.asid = e.asid.setWidth 64 → e.level = st.r.level →
      e.bad = [] → bl.mplace = BitVec.ofNat 64 (bl.mplace.toNat % 2 ^ 32 + e.vmid.toNat * 2 ^ 32) →
      let va := lineAddr e.line + o
      watchHit st.r va n .write = none → ∀ ps s1 st1, Allowed s k va 1 .write ps s1 → Runs s1 st1 → (∀ p ∈ ps, o ≤ p.pa) →
      s1.poison = [] → s1.shims = [] → (∀ i, i < 128 → isDevice s1 (byteAddr ps va i) = false) → MemOk s1 →
      ∃ t st', exec (.slogrp d) s = .next t ∧ Runs t st' ∧ Stored s1 t ps va n v ∧
        st' = { wrote st1 d.toNat 0 (st.r.pc + 4) with blocks := st'.blocks, pending := st'.pending, slogPending := false, strongNow := false } ∧
        st'.blocks.map uncounted = st1.blocks.map fun bl => uncounted { bl with slog := [] }) ∧
    (∀ (k : Nat) (bl : Block) (e : LogEntry) (o : Nat) (bs : List (Nat × Byte × Byte)), st.blocks[k]? = some bl →
      bl.slog = [e] → slogCount st = 1 → e.op = .store bs → (∃ x ∈ bs, x.1 = o) → (∀ x ∈ bs, o ≤ x.1) →
      st.r.asid = e.asid.setWidth 64 → e.level = st.r.level →
      bl.mplace = BitVec.ofNat 64 (bl.mplace.toNat % 2 ^ 32 + e.vmid.toNat * 2 ^ 32) →
      let va := lineAddr e.line + o
      (∀ n, watchHit st.r va n .write = none) → ∀ i p s1 st1, translatePages k .write [va] s = .ok (.ok [(i, p)]) s1 → Runs s1 st1 →
      (∃ x ∈ bs, reachable s1 st1 k (p.pa - o + x.1) 1 .write = false) → isLocal s1 p.pa = true → deviceBase ≤ localAddr (p.pa - o) →
      exec (.slogrp d) s = .next (takeTrap (putStrand s
        { st with blocks := st.blocks.set k { bl with slog := [] }, slogPending := false,
                  pending := st.pending.map (fun w => { w with fresh := none }), strongNow := false })
        { cause := causePerm, xval := BitVec.ofNat 64 va })) ∧
    (let gone := fun (e : LogEntry) => sb = BitVec.allOnes 64 ∨ sb ≠ 0 ∧ lineAddr e.line < sa + sb.toNat ∧ sa < lineAddr e.line + 128
     let bls := st.blocks.map fun bl => { bl with slog := bl.slog.filter fun e => !decide (gone e) }
     let left := slogCount { st with blocks := bls }
     exec (.slogdrop b a d) s = answer s { st with blocks := bls, slogPending := st.slogPending && left != 0 }
       (slogCount st - left)) ∧
    (sb.toNat / 2 ^ 35 = 0 →
      (namedBent s st sa sb = none → exec (.ctxsave b a d) s = answer s st 1 ∧ exec (.ctxrest b a d) s = answer s st 1) ∧
      ∀ k x, namedBent s st sa sb = some (k, x) →
        let held := { s with bents := s.bents.set k { x with held := true } }
        let asked := { s with bents := s.bents.set k { x with preempt := true, held := true } }
        (k = st.bent → exec (.ctxsave b a d) s = answer s st 2) ∧
        (k ≠ st.bent → raisingOver s sa = true → exec (.ctxsave b a d) s = answer s st 3) ∧
        (k ≠ st.bent → raisingOver s sa = false →
          (x.state = .ended → exec (.ctxsave b a d) s = answer s st 1) ∧
          (x.state = .resident → exec (.ctxsave b a d) s = .next (putStrand asked { st with wait := .save k })) ∧
          (x.state = .waiting → ∃ bays, Forms.acquired held st 3 bays ∧
            exec (.ctxsave b a d) s = answer { held with bays := bays } (Forms.acquiring held st 3) 0)) ∧
        (raisingOver s sa = true → exec (.ctxrest b a d) s = answer s st 3) ∧
        (raisingOver s sa = false →
          (x.state = .ended → exec (.ctxrest b a d) s = answer s st 1) ∧
          (x.state ≠ .ended → x.held = false → exec (.ctxrest b a d) s = answer s st 4) ∧
          (x.state ≠ .ended → x.held = true →
            let free := s.sealedWings.filter fun w => !(bentWings s x).contains w
            exec (.ctxrest b a d) s =
              answer { s with bents := s.bents.set k { x with held := false, waitedMs := 0 }, sealedWings := free } st 0)))) ∧
  ∀ (n : Nat) (s : State) (st : Strand), Runs s st →
    (oldestEntry st = none → replayLog (n + 1) s = .ok () s) ∧
    ∀ b e t, oldestEntry st = some (b, e) →
      (replayEntry b e s = .ok .missing t → replayLog (n + 1) s = .ok () t) ∧
      ((∃ bl, st.blocks[b]? = some bl ∧ e ∈ bl.slog) ∧ ∀ bl ∈ st.blocks, ∀ y ∈ bl.slog, e.seq ≤ y.seq)

/-- R397, R398, R403 (log entries 54, 59): PGPIN copies the backing frame into the window frame and records the pin, or answers why not: that a full table of
pins is found before a busy frame, and that no wing is asked for, is the model's choice; PGUNPIN copies it back and removes the
pin; STUBQ reads the stub of a page, at a TIME that has gone on by a free number of cycles. -/
def Sys2Proof.Parts.PinAndStubResults : Prop :=
  ∀ s st, Runs s st → st.r.level = .runtime → ∀ a d : BitVec 6,
    let va := (regRead st.r a.toNat).toNat
    let answer := fun (t : State) (st' : Strand) (v : Word) => Host.Outcome.next (putStrand t (wrote st' d.toNat v (st.r.pc + 4)))
    let copied := fun (m m' : Mem) (x y : Nat) => (∀ i, i < 4096 → memRead m' (y + i) = memRead m (x + i)) ∧
      ∀ k, k < y ∨ y + 4096 ≤ k → memRead m' k = memRead m k
    let moved := fun (s t : State) (pins : List Pin) =>
      t = { s with mem := t.mem, bays := t.bays, poison := t.poison, dirty := t.dirty, written := t.written,
                   strands := t.strands, pins := pins } ∧ memWf t.mem = true ∧
        ∀ (k : Nat) (x : Strand), s.strands[k]? = some x → ∃ l, t.strands[k]? = some { x with pending := l }
    (watchHit st.r va 32 .read = none → va % 32 = 0 → slogCount st = 0 →
      ∀ ps s1 st1, Allowed s 0 va 32 .read ps s1 → Runs s1 st1 → Quiet s1 st1 ps va → MemOk s1 → ∃ dirty,
      let u := Forms.opened st1 false ps
      let s2 := putStrand { s1 with dirty := dirty } u
      let v := valueAt s1 ps va 32
      let field := fun (o n : Nat) => v / 2 ^ (8 * o) % 2 ^ (8 * n)
      let backing := localAddr (field 16 8)
      let window := localAddr (field 24 8)
      let bad := pinArgs s1 (leBytes 32 v) = false
      (bad → exec (.pgpin a d) s = answer s2 u 1) ∧
      (¬ bad → 4096 ≤ s1.pins.length → exec (.pgpin a d) s = answer s2 u 2) ∧
      (¬ bad → s1.pins.length < 4096 → pinBusy s1 backing window = true → exec (.pgpin a d) s = answer s2 u 3) ∧
      (¬ bad → s1.pins.length < 4096 → pinBusy s1 backing window = false → s1.shims = [] →
        let p : Pin := { va := field 0 8, asid := BitVec.ofNat 16 (field 8 2), vmid := vmidOf st, backing := backing, window := window }
        ∃ t, exec (.pgpin a d) s = answer t u 0 ∧ moved s2 t (s1.pins ++ [p]) ∧ copied s1.mem t.mem backing window)) ∧
    (let x := va % 2 ^ 57
     let hit := fun (p : Pin) => isLocal s x = true ∧ p.window / 4096 = localAddr x / 4096
     ((∀ p ∈ s.pins, ¬ hit p) → exec (.pgunpin a d) s = answer s st 4) ∧
     ∀ pre p post, s.pins = pre ++ p :: post → hit p → (∀ q ∈ pre, ¬ hit q) → MemOk s →
      ∃ t st', exec (.pgunpin a d) s = answer t st' 0 ∧ st' = { st with pending := st'.pending } ∧
        moved s t (s.pins.filter fun q => q != p) ∧ copied s.mem t.mem p.window p.backing) ∧
    let time := s.time + Config.elapsed s.fresh
    let s1 := { s with time := time, fresh := s.fresh + 1 }
    exec (.stubq a d) s =
        match s.stubs.find? fun x => tagHit x.name (va % 2 ^ 46 / 4096 * 4096 + s.pkg * 2 ^ 46) with
        | none => answer s1 st 0
        | some x => answer s1 st (BitVec.ofNat 64 (2 ^ 63 + (if x.rt then 2 ^ 62 else 0) + x.target % 2 ^ 11 * 2 ^ 45 +
            min ((time - x.born) / 1000) (2 ^ 32 - 1)))

/-- R113, R115 to R118, R371, R373, R387, R435 (log entries 20, 27, 44): the events of a strand at issue: a convoy that passes
its checks begins at its group, its next group commits and the last one ends it, a trap in a group leaves the group in VSTART;
a trap is entered, the side-log event when a strand is in no handler, and a second-stage fault once Heartwood has settled it; a
damaged register that a convoy reads raises ECCUC. That a trap entry may have any cause of R375 is the model's reading. -/
def Obligations.StrandEvents : Prop :=
  ∀ (s : State) (k : Nat) (st : Strand), s.strands[k]? = some st → mayIssue s st = true →
    let s0 := { s with cur := k }
    let back := fun (t : State) => Host.Outcome.next (σ := State) (φ := Fault) (ρ := Refusal) { t with cur := s.cur }
    let free := uninterrupted st = false
    (∀ cause xval, cause ≠ 0 → cause.toNat ≤ 0x15 → free → exec (.trapEntry k cause xval) s =
      back (takeTrap (withdraw k (putStrand s0 (discardHeld st))) { cause := cause, xval := xval })) ∧
    (st.slogPending = true → xstatIn st.r.xstat = false → free → exec (.slog k) s =
      back (takeTrap (withdraw k (putStrand s0 (discardHeld { st with slogPending := false })))
        { cause := 1, xval := BitVec.ofNat 64 (slogCount st), async := true })) ∧
    (∀ cause xval acc level, st.wait = .stage2 cause xval acc level → free →
      exec (.s2FaultHeartwood k true) s = back (putStrand s0 { st with wait := .none }) ∧
      exec (.s2FaultHeartwood k false) s = back (takeTrap (withdraw k (putStrand s0 (discardHeld st)))
        { cause := cause, xval := xval, acc := acc, s2 := true, level := level })) ∧
    (st.inflight = none → st.wait = .none → ∀ w ws s1 st1, fetchIssue s0 = .ok (w :: ws) s1 → Runs s1 st1 →
      let ms := (w :: ws).map memberOfWord
      (vectorClass w = true → convoyFault st [] 0 ms = none → ∀ g, startGroup st.r (okMembers (st.r.pc.toNat / 4) ms) = some g →
        let f : Inflight := { pc := st.r.pc, words := (w :: ws).map (BitVec.ofNat 32), group := g, frame := none }
        let bad := ((w :: ws).flatMap readsS).find? fun n => n != 0 && isBad st1 n
        (bad = none → exec (.convoyIssue k) s = back (putStrand s1 { st1 with wait := .none, inflight := some f })) ∧
        ∀ n, bad = some n →
          exec (.convoyIssue k) s = back (takeTrap s1 { cause := causeEccuc, xval := BitVec.ofNat 64 n })) ∧
      (vectorClass w = true → ∀ n cause, convoyFault st [] 0 ms = some (n, cause) → exec (.convoyIssue k) s =
        back (takeTrap s1 { cause := cause, xval := memberXval ((w :: ws).getD n 0) (st.r.pc.toNat / 4 + n) }))) ∧
    (∀ f, st.inflight = some f → f.pc = st.r.pc → f.frame = none → (∀ x ∈ s.strands, k ∉ x.requests) →
      let words := f.words.map BitVec.toNat
      ∀ g n s1, convoyDamage words s0 = .ok (some (g, n)) s1 → g ≤ f.group →
        exec (.elementGroupCommit k) s = back (takeTrap (setVstart s1 (vstartOf f.group))
          { cause := causeEccuc, xval := BitVec.ofNat 64 n })) ∧
    ∀ f, st.inflight = some f → f.pc = st.r.pc → f.frame = none → (∀ bl ∈ st.blocks, bl.badRegs = []) →
      (∀ x ∈ s.strands, k ∉ x.requests) →
      let ms := okMembers (st.r.pc.toNat / 4) ((f.words.map BitVec.toNat).map memberOfWord)
      let stop := commitStop ms f.group s0
      let last := stop = none ∨ ms.any (·.2.whole) = true ∨ groupCount st.r (convoyWidth st.r ms) ≤ f.group + 1
      (∀ t st', performConvoy ms f.group stop s0 = .ok t → Runs t st' →
        (last → exec (.elementGroupCommit k) s = back (putStrand t (retired { st' with r := { st'.r with vstart := 0 } }
          (st'.r.pc + BitVec.ofNat 64 (4 * f.words.length))))) ∧
        (¬ last → exec (.elementGroupCommit k) s =
          back (putStrand t { st' with wait := .none, inflight := some { f with group := f.group + 1 } }))) ∧
      (∀ c t, performConvoy ms f.group stop s0 = .error c → c.x = .trap t →
        exec (.elementGroupCommit k) s = back (takeTrap (setVstart c.s (BitVec.ofNat 64 (c.group % 256))) t)) ∧
      ∀ (m : BitVec 3) (x a d : BitVec 5) (y : Nat), encodeWord (.vadd m x a d) = some y → f.words = [BitVec.ofNat 32 y] →
        vtLegal st.r.vt.toNat = true → vtWidth st.r.vt ∈ [8, 16, 32, 64] →
        (∀ r ∈ [x, a, d], r.toNat % vtG st.r.vt = 0) → st.strongNow = false → (∀ w ∈ st.pending, w.fresh = none) →
        let w := vtWidth st.r.vt
        let n := groupCount st.r w
        let here := fun (j : Nat) => groupStart w f.group ≤ j ∧ (j < groupStart w (f.group + 1) ∨ f.group + 1 = n)
        f.group < n → ∃ bls,
          exec (.elementGroupCommit k) s = back (putStrand s0
            (if f.group + 1 = n then vectorDone st st.r.mst bls
             else { st with wait := .none, blocks := bls, inflight := some { f with group := f.group + 1 } })) ∧
          bls.length = st.blocks.length ∧ ∀ b bl, st.blocks[b]? = some bl → ∃ bl', bls[b]? = some bl' ∧
            bl' = { bl with v := bl'.v } ∧
            (∀ j, j < vlbOf st.r.vt → elemRead bl' w d.toNat j =
              if here j then outcome st.r m.toNat b j bl
                ((elemRead bl w a.toNat j + elemRead bl w x.toNat j) % 2 ^ w) 0 (elemRead bl w d.toNat j)
              else elemRead bl w d.toNat j) ∧
            ∀ q, q < 32 → q < d.toNat ∨ d.toNat + vtG st.r.vt ≤ q →
              getField bl'.v (q * vregBits) vregBits = getField bl.v (q * vregBits) vregBits

namespace Sys2Proof.Forms

/-- The owner cache holds a page's owner: what it held of the page is gone, and it never holds more than 16,384 entries
(R412). -/
def Cached (s t : State) (name owner : Nat) : Prop :=
  let new := (nameTag name, owner)
  let meets := fun (d : Nat × Nat) => tagHit d.1 (nameTag name) = true ∨ tagHit (nameTag name) d.1 = true
  t = { s with ownerCache := t.ownerCache } ∧ (t.ownerCache.find? fun d => tagHit d.1 name) = some new ∧
    t.ownerCache.length ≤ 16384 ∧ (∀ d ∈ t.ownerCache, d = new ∨ d ∈ s.ownerCache ∧ ¬ meets d) ∧
    (s.ownerCache.length < 16384 → ∀ d ∈ s.ownerCache, ¬ meets d → d ∈ t.ownerCache)

/-- The bytes of a page and their poison stand afterwards where the new tables serve them (R412, R435), and no other byte has
changed. -/
def Moved (s t : State) (pa n : Nat) : Prop :=
  (∀ i, i < n → steer s (pa + i) = steer s pa + i ∧ steer t (pa + i) = steer t pa + i) → n % 8 = 0 → steer s pa % 8 = 0 →
    steer t pa % 8 = 0 → MemOk s →
    (∀ i, i < n → physByte t (pa + i) = physByte s (pa + i) ∧ isPoisoned t (pa + i) = isPoisoned s (pa + i)) ∧
      ∀ x, x < steer t pa ∨ steer t pa + n ≤ x →
        memRead t.mem x = memRead s.mem x ∧ t.poison.contains (x / 8) = s.poison.contains (x / 8)

end Sys2Proof.Forms

/-! ### Peers, counters and the domain -/

/-- R412, R415 step 3 and step 5, R417, R418: at OWN a package that does not own a page becomes its owner, and its bytes are read
from the frame named, where they stand with their poison; RETARGET points the directory and the stub at the new owner, under
whose key the page's bytes then stand; OWNER enters it in the owner cache and is acknowledged to its sender; a stub lives until
every other package has acknowledged and no request it forwarded is unanswered, or to its time-out. Which package has sent a
page, and how many forwarded requests are unanswered, are free values, and the keys of a page that is elsewhere are the
model's (log entries 1, 50). -/
def Sys2Proof.Parts.OwnershipResults : Prop :=
  (∀ (s : State) (name frame size k : Nat), pageLog size = some k → ownsPage s name = false →
    (s.adoption.length < 4096 ∨ pkgField name = s.pkg ∧ localAddr name / size = frame / size) →
    let home := pkgField name = s.pkg ∧ localAddr name / size = frame / size
    let tag := name / size * size + k
    let pa := name / size * size
    ∃ t from', exec (.own name frame size) s = .next t ∧ ownsPage t name = true ∧
      t = { s with mem := t.mem, poison := t.poison, written := t.written, strands := t.strands, fresh := s.fresh + 1
                   directory := s.directory.filter fun d => !tagHit d.1 name
                   adoption := if home then s.adoption else s.adoption ++ [(tag, frame / size * size)]
                   predecessors := (s.predecessors.filter fun d => d.1 != tag) ++ if home then [] else [(tag, from')]
                   sentTo := s.sentTo.filter fun d => !tagHit d.1 name
                   served := s.served.filter fun x => !tagHit tag (4096 * x.2.1) } ∧
      (∀ (k : Nat) (x : Strand), s.strands[k]? = some x → ∃ l, t.strands[k]? = some { x with pending := l }) ∧
      Forms.Moved s t pa size ∧
      (name < 2 ^ 57 → pkgField name ≠ 0 → (∀ i, i < size → (∀ d ∈ s.adoption, tagHit d.1 (pa + i) = false) ∧
          ∀ d ∈ s.directory, tagHit d.1 (pa + i) = true → tagHit d.1 name = true) →
        ∀ i, i < size → steer t (pa + i) = steerFrame s ((if home then localAddr pa else frame / size * size) + i))) ∧
  (∀ (s : State) (name owner : Nat),
    (∃ d ∈ s.directory, tagHit d.1 name = true) ∨ (∃ x ∈ s.stubs, tagHit x.name name = true) →
    let u := { s with
      stubs := s.stubs.map fun x => if tagHit x.name name then { x with target := owner, rt := true } else x
      directory := if owner = s.pkg then s.directory.filter fun d => !tagHit d.1 name
        else s.directory.map fun d => if tagHit d.1 name then (d.1, owner) else d
      sentTo := s.sentTo.filter fun d => !tagHit d.1 name }
    ((∀ d ∈ s.directory, tagHit d.1 name = false) → exec (.retarget name owner) s = .next u) ∧
    ∀ d, (s.directory.find? fun d => tagHit d.1 name) = some d → ∃ t, exec (.retarget name owner) s = .next t ∧
      t = { u with mem := t.mem, poison := t.poison, written := t.written, strands := t.strands } ∧
      (∀ (k : Nat) (x : Strand), s.strands[k]? = some x → ∃ l, t.strands[k]? = some { x with pending := l }) ∧
      let pa := d.1 / 4096 * 4096
      let n := 2 ^ (d.1 % 4096)
      Forms.Moved s t pa n ∧
      (owner ≠ s.pkg → pkgField pa = s.pkg → pa < 2 ^ 57 → pa % n = 0 → pa / n = name / n → 2 ^ 46 % n = 0 →
        (∀ y ∈ s.directory, y ≠ d → ∀ i, i < n → tagHit y.1 (pa + i) = false) →
        (∀ y ∈ s.sentTo, tagHit y.1 name = false → ∀ i, i < n → tagHit y.1 (pa + i) = false) →
        ∀ i, i < n → steer t (pa + i) = 2 ^ 57 * (owner + 1) + (pa + i))) ∧
  (∀ (s : State) (name owner source : Nat), (∀ q ∈ s.outReqs, q.answered = false → q.retries < 9 → tagHit (nameTag name) q.addr = false) → source ≠ s.pkg →
    ∃ t, Forms.Cached s t name owner ∧ exec (.owner name owner source) s = .next { t with
      notices := s.notices ++ [{ kind := .ownerAck, dest := source, name := nameTag name, owner := owner }] }) ∧
  ∀ (s : State) (name package : Nat) (x : Stub), (s.stubs.find? fun y => tagHit y.name name) = some x → x.acks.Nodup →
    let acks := if package ∈ x.acks then x.acks else x.acks ++ [package]
    let gone := { s with stubs := s.stubs.filter fun y => y != x }
    let kept := fun (s : State) (left : Nat) =>
      { s with stubs := s.stubs.map fun y => if y = x then { x with acks := acks, forwards := left } else y }
    (x.forwards = 0 → (s.members.length ≤ acks.length + 1 → exec (.ownerAck name package) s = .next gone) ∧
      (acks.length + 1 < s.members.length → exec (.ownerAck name package) s = .next (kept s 0))) ∧
    (x.forwards ≠ 0 → ∃ left, left ≤ x.forwards ∧ exec (.ownerAck name package) s = .next
      (if s.members.length ≤ acks.length + 1 ∧ left = 0 then { gone with fresh := s.fresh + 1 }
       else kept { s with fresh := s.fresh + 1 } left)) ∧
    exec (.stubTimeout name) s = .next gone

/-- R404, R411, R416, R417: the owner of a page performs a write or an atomic and answers a read, holds the request while the
page's flip has begun or the forwarded request its MARK names is still to come, and forwards it where only a stub is left; a
redirect changes the owner cache, or with requests outstanding waits with their MARK; a failed request goes out again to the
page's owner as it is now known, after a RETRY to the owner the RETRY has named, or else the origin's directory names, in the order of the page's requests, and
its access waits until it is answered, or fails with its ninth failure. Whether and how a request is answered, and what a
directory elsewhere names, are free values (log entry 50). -/
def Sys2Proof.Parts.PeerRequests : Prop :=
  (∀ (s : State) (source seq addr : Nat) (asks : Nat ⊕ List Byte ⊕ (BitVec 4 × Bool × BitVec 64 × BitVec 64))
      (forwarded : Bool) (mark : Option Nat),
    let q : PeerReq := { peer := source, seq := seq, addr := addr, op := peerOp asks, mark := mark, who := 0, retries := 0,
                         answered := false, refused := false, forwarded := forwarded }
    let i := Instr.peerRequest source seq addr asks forwarded mark
    let held := flipping s addr = true ∨ ∃ m, mark = some m ∧ ∀ a, (source, a, m) ∈ s.served → samePage s (4096 * a) addr = false
    let done := if forwarded then
      (s.served.filter fun x => !(x.1 == source && samePage s (4096 * x.2.1) addr)) ++ [(source, addr / 4096, seq)] else s.served
    let next := fun (t : State) => exec i s = .next (serveHeld t) ∧ (s.heldReqs = [] → serveHeld t = t)
    let wrote := fun (t : State) (n v : Nat) =>
      t = { s with mem := t.mem, poison := t.poison, dirty := t.dirty, written := t.written, served := done } ∧
      (∀ k, k < n → (∀ j, j < n → steer s (addr + j) = steer s (addr + k) → j = k) →
        memRead t.mem (steer s (addr + k)) = BitVec.ofNat 8 (v / 256 ^ k)) ∧
      ∀ x, (∀ k, k < n → x ≠ steer s (addr + k)) → memRead t.mem x = memRead s.mem x
    (ownsPage s addr = true → servable s q = true → held → exec i s = .next { s with heldReqs := s.heldReqs ++ [q] }) ∧
    (ownsPage s addr = true → servable s q = true → ¬ held →
      (∀ n, asks = .inl n → ∃ dirty, next { s with dirty := dirty, served := done }) ∧
      (∀ bs, asks = .inr (.inl bs) → MemOk s → s.shims = [] → ∃ t, next t ∧ wrote t bs.length (leValue bs)) ∧
      ∀ op w64 x e, asks = .inr (.inr (op, w64, x, e)) → MemOk s → s.shims = [] → s.poison = [] →
        let n := if w64 then 8 else 4
        let old := physLoad s addr n
        let y := Forms.atomicValue op.toNat (8 * n) old (x.toNat % 2 ^ (8 * n)) (e.toNat % 2 ^ (8 * n))
        ∃ t, next t ∧ wrote t (if op = 9 ∧ old ≠ e.toNat % 2 ^ (8 * n) then 0 else n) y.bits) ∧
    (ownsPage s addr = false → forwarded = true ∨ stubOf s addr = none → exec i s = .next s) ∧
    (∀ x, ownsPage s addr = false → forwarded = false → stubOf s addr = some x → exec i s =
      .next { s with stubs := s.stubs.map fun y => if y = x then { y with forwards := y.forwards + 1 } else y })) ∧
  (∀ (s : State) (name owner : Nat),
    let hit := fun (q : PeerReq) => !q.answered && decide (q.retries < 9) && tagHit (nameTag name) q.addr
    (∀ pre q post, s.outReqs = pre ++ q :: post → hit q = true → (∀ x ∈ post, hit x = false) →
      ∃ t, exec (.redirect name owner) s = .next t ∧ t = { s with redirects := t.redirects } ∧ ∀ x, x ∈ t.redirects ↔
        x = (nameTag name, owner, q.seq) ∨ x ∈ s.redirects ∧ tagHit x.1 name = false) ∧
    ((∀ q ∈ s.outReqs, hit q = false) → ∃ t, exec (.redirect name owner) s = .next t ∧ Forms.Cached s t name owner)) ∧
  (∀ (s : State) (n : Nat) (q : PeerReq), s.outReqs[n]? = some q → q.answered = false → q.retries < 9 →
    (∃ retry named fresh, s.fresh ≤ fresh ∧ (∀ p, named = some p → retry = true ∧ (p ∈ s.members ∨ s.members = [])) ∧
      exec (.peerRequestTimeout n) s = .next { s with
        fresh := fresh, outReqs := s.outReqs.set n { q with retries := q.retries + 1, refused := retry, named := named } }) ∧
    (q.retries ≠ 0 → (q.refused = true → ∀ k x, k ≠ n → s.outReqs[k]? = some x → x.answered = false → x.retries < 9 →
        samePage s x.addr q.addr = true → if k < n then x.refused = false ∧ x.retries ≠ 0 else x.refused = true) →
      let name := nameOf s q.addr
      ∃ yes peer, exec (.peerRetryResend n) s = .next { s with
        fresh := s.fresh + 2,
        outReqs := s.outReqs.set n { q with peer := peer, answered := yes, refused := false, named := none } } ∧
        (q.refused = false ∨ isHost q.addr = true → peer = (requestTarget s q.addr).1) ∧
        (q.refused = true → isHost q.addr = false → (∀ p, q.named = some p → peer = p) ∧
          (q.named = none → pkgField name = s.pkg →
            peer = ((s.directory.find? fun d => tagHit d.1 name).map (·.2)).getD s.pkg) ∧
          (q.named = none → pkgField name ≠ s.pkg → s.members ≠ [] → peer ∈ s.members)))) ∧
  ∀ (s : State) (who pa : Nat) (q : PeerReq), (s.outReqs.find? fun q => q.who == who && q.addr == pa) = some q →
    (9 ≤ q.retries → ∃ t, askFar who pa s = .ok .fail t) ∧
    (q.retries < 9 → q.answered = true → ∃ t, askFar who pa s = .ok .go t) ∧
    (q.retries < 9 → q.answered = false → askFar who pa s = .ok .wait s)

/-- R420, R423: a counter is allocated bound to a measurement; a seal under that measurement advances it by 1, another is
refused; it has one lease at a time, for which its holder signs a statement of the counter, and which CONSUME ends with the
counter advanced by 1 and expiry with it unchanged. The bytes that are signed are the model's reading (log entry 40). -/
def Sys2Proof.Parts.CounterResults : Prop :=
  (∀ (s : State) (n m : Nat), n < 4096 → (∀ k ∈ s.counters, k.index ≠ n) → ∃ v, v < 2 ^ 64 ∧
    exec (.counterAllocation n m) s = .next { s with
      fresh := s.fresh + 1, counters := s.counters ++ [{ index := n, measurement := m, value := v, lease := none }] }) ∧
  ∀ (s : State) (a b : List Counter) (k : Counter), s.counters = a ++ k :: b → (∀ x ∈ a ++ b, x.index ≠ k.index) →
    let put := fun (k : Counter) => Host.Outcome.next { s with counters := a ++ k :: b }
    (∀ m, k.measurement = m → k.value + 1 < 2 ^ 64 →
      exec (.counterAdvance k.index m) s = put { k with value := k.value + 1 }) ∧
    (∀ m, k.measurement ≠ m ∨ k.value + 1 = 2 ^ 64 → exec (.counterAdvance k.index m) s = .next s) ∧
    (∀ who nonce, (k.lease = none → ∃ secret,
        let x : Statement := { holder := s.pkg, index := k.index, value := k.value, measurement := k.measurement, restorer := who,
                               nonce := nonce, sig := [] }
        let signed := leBytes 2 s.pkg ++ leBytes 4 k.index ++ leBytes 8 k.value ++ beBytes 48 k.measurement ++ leBytes 2 who ++
          leBytes 16 nonce
        exec (.leaseRequest k.index who nonce) s = .next { s with
          fresh := s.fresh + 1
          counters := a ++ { k with lease := some (who, nonce, s.time) } :: b
          statements := s.statements ++ [{ x with sig := ecdsaSign s.part.key signed (random secret 48) }] }) ∧
      (k.lease ≠ none → exec (.leaseRequest k.index who nonce) s = .next s)) ∧
    (∀ who nonce since, k.lease = some (who, nonce, since) → k.value < 2 ^ 64 - 1 →
      exec (.consume k.index who) s = put { k with value := k.value + 1, lease := none }) ∧
    (k.lease ≠ none → exec (.leaseExpiry k.index) s = put { k with lease := none })

/-- R379, R387, R408, R409: the host forms a domain of packages with numbers below 1024, this one's among them; Heartwood gives
a virtual function 1 to 32 wings, none of which serves more than 32, with its level and its tables. That the wings of a raising
that has not ended must be among them is the model's choice (log entry 41), and so is that the pooled capacity the host assigns
comes with the setting, as a free value (log entry 47). -/
def Sys2Proof.Parts.MappingResults : Prop :=
  (∀ (s : State) (package : Nat) (members : List Nat), package ∈ members → members.Nodup → (∀ k ∈ members, k < 1024) →
    exec (.domainFormation package members) s = .next { s with pkg := package, members := members }) ∧
  ∀ (s : State) (vf : Nat) (wings : List Nat) (runtime : Bool) (asid : BitVec 16) (ptbase : BitVec 64) (vmid : BitVec 10)
    (root : BitVec 64), vf < 1024 → wings ≠ [] → wings.Nodup →
    (∀ w ∈ wings, w < 32 ∧ ((s.vfs.filter fun v => v.num != vf).filter fun v => v.wings.contains w).length < 32) →
    (∀ r ∈ s.raisings, r.vf = vf → r.ended = false → ∀ w ∈ r.wings, w ∈ wings) →
    ∃ v, exec (.virtualFunctionMapping vf wings runtime asid ptbase vmid root) s =
        .next { s with
          vfs := (s.vfs.filter fun v => v.num != vf) ++ [v]
          part := { s.part with pooled := (Config.pooledRanges s.fresh).filter fun x => tierBase ≤ x.1 && x.1 + x.2 ≤ tierEnd }
          fresh := s.fresh + 1 } ∧
      v.num = vf ∧ v.wings = wings ∧ v.runtime = runtime ∧ v.asid = asid ∧ v.vmid = vmid ∧
      v.ptbase.toNat = ptbase.toNat / 4096 % 2 ^ 45 * 4096 ∧ v.s2root.toNat = root.toNat / 4096 % 2 ^ 45 * 4096

/-! ### The host, management, power and reset -/

/-- R182, R331, R404, R405, R435: a posted write of the host is performed at the home of its lines and nothing else changes; a
host read is answered with what memory holds and changes no byte of it; an AtomicOp reads, and writes by its operation, one
aligned word, or leaves a poisoned one as it is, which is the model's reading (log entry 45). Each may only end what an L1 holds dirty
of its lines. -/
def Sys2Proof.Parts.HostAccesses : Prop :=
  ∀ (s : State) (addr : Nat), s.shims = [] → s.prepared = [] → s.sealedWings = [] → MemOk s →
    (∀ (port : Nat) (bs : List Byte), port < 2 → hostReach s addr bs.length = true → ∃ t,
      exec (.hostPostedWrite port addr bs) s = .next t ∧
      t = { s with mem := t.mem, poison := t.poison, dirty := t.dirty, written := t.written } ∧
      (∀ w ∈ t.poison, w ∈ s.poison) ∧
      (∀ k, k < bs.length → (∀ j, j < bs.length → steer s (addr + j) = steer s (addr + k) → j = k) →
        memRead t.mem (steer s (addr + k)) = bs.getD k 0) ∧
      ∀ x, (∀ k, k < bs.length → x ≠ steer s (addr + k)) → memRead t.mem x = memRead s.mem x) ∧
    (∀ n, hostReach s addr n = true → (∃ dirty, exec (.hostRead addr n) s = .next { s with dirty := dirty } ∧
        ∀ r ∈ dirty, r ∈ s.dirty) ∧ (hostReadBytes s addr n).length = n ∧
      ∀ k, k < n → (hostReadBytes s addr n).getD k (0, false) =
        (memRead s.mem (steer s (addr + k)), decide (steer s (addr + k) / 8 ∈ s.poison))) ∧
    ∀ (w64 : Bool) (x e : BitVec 64),
      let n := if w64 then 8 else 4
      let old := leValue ((List.range n).map fun k => memRead s.mem (steer s (addr + k)))
      let cut := fun (v : Nat) => v % 2 ^ (8 * n)
      let poisoned := ∃ k, k < n ∧ steer s (addr + k) / 8 ∈ s.poison
      hostReach s addr n = true → addr % n = 0 →
      (∀ op ∈ [(0 : BitVec 4), 8, 9], poisoned → exec (.hostAtomicop op w64 addr x e) s = .next s) ∧
      (¬ poisoned → (∀ i j, i < n → j < n → steer s (addr + i) = steer s (addr + j) → i = j) →
        (old ≠ cut e.toNat → ∃ dirty, exec (.hostAtomicop 9 w64 addr x e) s = .next { s with dirty := dirty }) ∧
        ∀ p ∈ [((0 : BitVec 4), cut (old + x.toNat)), (8, cut x.toNat), (9, cut x.toNat)], (p.1 = 9 → old = cut e.toNat) →
          ∃ t, exec (.hostAtomicop p.1 w64 addr x e) s = .next t ∧
            t = { s with mem := t.mem, poison := t.poison, dirty := t.dirty, written := t.written } ∧
            (∀ k, k < n → memRead t.mem (steer s (addr + k)) = BitVec.ofNat 8 (p.2 / 256 ^ k)) ∧
            ∀ y, (∀ k, k < n → y ≠ steer s (addr + k)) → memRead t.mem y = memRead s.mem y)

/-- R8, R13, R183, R380, R381, R406, R426 (the addresses of REGISTER_WRITE, the physical function's page among them, are the
model's, log entry 47): a write of BAYSPLIT changes K, or sets ERR while a strand is resident on the bay, for
a K above 12 or when pinned pages would be cut off; the management registers, OVR of a launch status word and WVEC take
what their maps let a write change; a write of a machine CSR changes it for the bay's resident strand, or on the bay. -/
def Sys2Proof.Parts.OutsideRegisterWrites : Prop :=
  (∀ (s : State) (n : Nat) (v : Word), n < 320 →
    let b := bayOf s n
    let k := v.toNat % 16
    let bad := bayBusy s n = true ∨ 12 < k ∨ ∃ p ∈ s.pins, windowBase ≤ p.window ∧ (p.window - windowBase) / 0x800000 = n ∧
      0x600000 - 0x80000 * k < (p.window - windowBase) % 0x800000 + 4096
    let put := fun (b : Bay) => Host.Outcome.next { s with bays := s.bays.setIfInBounds n b }
    ∀ i ∈ [Instr.baysplitWrite n v, Instr.registerWrite (deviceBase + n * 0x10000 + 0x40) v],
      (bad → exec i s = put { b with splitErr := true }) ∧
      (¬ bad → exec i s = put { b with k := k, splitErr := b.splitErr && !v.getLsbD 8 })) ∧
  (∀ (s : State) (v : Word),
    exec (.registerWrite 0x8000 v) s = .next { s with rsaddr := v } ∧
    exec (.registerWrite 0x8008 v) s = .next { s with rslen := v &&& 0xFFFFFFFF } ∧
    exec (.registerWrite 0x8018 v) s = .next { s with rsstat := s.rsstat &&& ~~~(v &&& 0x4000000000000000) } ∧
    (∀ w, w < 32 → exec (.registerWrite (0x200002000000 + 8 * w) v) s =
      .next { s with wvec := s.wvec.setIfInBounds w (v &&& 0xFFFFFFFFFFF0) }) ∧
    ∀ vf i, vf ≤ 1024 → i < 16 →
      let page := if vf = 1024 then 0 else 0x10000 * (vf + 1)
      let a := page + 0x2000 + 8 * i
      (v.getLsbD 60 = true → exec (.registerWrite a v) s = .next (putLaunch s { launchOf s vf i with ovr := false })) ∧
      (v.getLsbD 60 = false → exec (.registerWrite a v) s = .next s) ∧
      ∀ o, o < 32 → exec (.registerWrite (page + 0x1000 + 256 * i + 8 * o) v) s =
        exec (.launchSlotWrite vf i (8 * o) (leBytes 8 v.toNat)) s) ∧
  ∀ (s : State) (n : Nat) (v : Word), n < 320 →
    let level := fun (old : Word) => if v.toNat % 4 < 2 then v &&& 3 else old &&& 3
    let place := fun (old : Word) => (v &&& 0x3FF03FF1F00) ||| level old
    let root := v &&& 0x1FFFFFFFFFFF000
    ((∀ st ∈ s.strands, holdsBay s st n = false) →
      let b := bayOf s n
      exec (.heartwoodCsrWrite n 0x204 v) s = .next (setBay s n { b with mecc := BitVec.ofNat 32 v.toNat }) ∧
      exec (.heartwoodCsrWrite n 0x200 v) s = .next (setBay s n { b with mplace := place b.mplace }) ∧
      exec (.heartwoodCsrWrite n 0x201 v) s = .next (setBay s n { b with ms2root := root }) ∧
      exec (.heartwoodCsrWrite n 0x203 v) s = .next (setBay s n { b with ms2ctl := v &&& 1 }) ∧
      ∀ c : BitVec 12, (c = 0x202 ∨ 0x205 ≤ c.toNat ∧ c.toNat ≤ 0x2FF) → exec (.heartwoodCsrWrite n c v) s = .next (setBay s n b)) ∧
    ((∃ st ∈ s.strands, holdsBay s st n = true) →
      let change := fun (f : Block → Block) (st : Strand) =>
        if holdsBay s st n then { st with blocks := st.blocks.map fun bl => if bl.bay = n then f bl else bl } else st
      let put := fun (f : Block → Block) => Host.Outcome.next { s with strands := s.strands.map (change f) }
      exec (.heartwoodCsrWrite n 0x200 v) s = put (fun bl => { bl with mplace := place bl.mplace }) ∧
      exec (.heartwoodCsrWrite n 0x201 v) s = put (fun bl => { bl with ms2root := root }) ∧
      exec (.heartwoodCsrWrite n 0x203 v) s = put (fun bl => { bl with ms2ctl := v &&& 1 }) ∧
      exec (.heartwoodCsrWrite n 0x204 v) s = put (fun bl => { bl with mecc := BitVec.ofNat 32 v.toNat }) ∧
      ∀ c : BitVec 12, (c = 0x202 ∨ 0x205 ≤ c.toNat ∧ c.toNat ≤ 0x2FF) → exec (.heartwoodCsrWrite n c v) s = .next s)

/-- R426 to R428 (what the summary is taken from, how a short buffer cuts it and that a misaligned RSADDR ends with ERR 2 are the
model's reading, log entry 46): a write to RSGO starts a summary unless one is being written; at its end BUSY is 0 and DONE is 1, ERR is 1
where the buffer was shorter than the summary, LEN counts the bytes written, and those stand in the buffer, header first;
or a write has faulted, with ERR 2. -/
def Obligations.SummaryResults : Prop :=
  (∀ s : State,
    let time := s.time + Config.elapsed s.fresh
    let s1 := { s with time := time, fresh := s.fresh + 1 }
    (s.rsstat.getLsbD 63 = true → exec .rsgoWrite s = .next s1) ∧
    (s.rsstat.getLsbD 63 = false → exec .rsgoWrite s =
      .next { s1 with rsstat := s.rsstat ||| 0x8000000000000000, rsTime := time }) ∧
    ∀ v, exec (.registerWrite 0x8010 v) s = exec .rsgoWrite s) ∧
  (∀ s : State, MemOk s → s.rsstat.getLsbD 63 = true → s.rsaddr.toNat < 2 ^ 46 →
    ∃ (t : State) (bs : List Byte) (err : Nat), exec .resyncComplete s = .next t ∧
      t = { s with mem := t.mem, rsstat := t.rsstat, fresh := t.fresh, written := t.written } ∧
      t.rsstat = BitVec.ofNat 64 (2 ^ 62 + err * 2 ^ 56 + bs.length) ∧
      bs.length ≤ min s.rslen.toNat (summaryLength s) ∧
      (∀ k, k < bs.length → memRead t.mem (0x7FF * 2 ^ 46 + s.rsaddr.toNat + k) = bs.getD k 0) ∧
      (∀ x, x < 0x7FF * 2 ^ 46 + s.rsaddr.toNat ∨ 0x7FF * 2 ^ 46 + s.rsaddr.toNat + bs.length ≤ x →
        memRead t.mem x = memRead s.mem x) ∧
      (∃ n, bs = (summary s s.rslen.toNat).take n) ∧
      (err = 2 ∨ bs = summary s s.rslen.toNat ∧ s.rsaddr.toNat % 4096 = 0 ∧
        (err = 0 ∧ summaryLength s ≤ s.rslen.toNat ∨ err = 1 ∧ s.rslen.toNat < summaryLength s))) ∧
  ∀ (s : State) (n : Nat), summaryLength s ≤ n →
    let bs := summary s n
    bytesAt bs 0 4 = 0x53595352 ∧ bytesAt bs 4 2 = 1 ∧ bytesAt bs 6 2 = s.pkg % 2 ^ 16 ∧ bytesAt bs 8 8 = s.rsTime % 2 ^ 64 ∧
      bytesAt bs 16 4 = 8 ∧ bytesAt bs 20 4 = bs.length % 2 ^ 32 ∧ bs.length = summaryLength s ∧ zeroBytes bs 24 64 = true ∧
      bytesAt bs 64 2 = 1 ∧ bytesAt bs 66 2 = 64 ∧ bytesAt bs 72 4 = 0 ∧
      bytesAt bs 68 4 = (s.raisings.filter fun r => !r.ended).length % 2 ^ 32

/-- R429 to R432, R434, R435: grants within the budget are split among the bays of their beams, and a budget of at most 3,600 W is
set; a freeze stops the package and alters no state, and a readout or a scrub changes nothing; a correctable event is counted,
and so is a clean line of a cache that is dropped; an uncorrectable word is poisoned, or the part of a bay that holds it, and
recorded. The demands, and that a budget above Heartwood's is a new one of Heartwood's, are the model's (log entry 8), what a
frozen package answers on log entry 49, the numbers that name the parts of a bay and what becomes of tiles on log entry 45. -/
def Sys2Proof.Parts.PowerAndErrors : Prop :=
  ∀ s : State,
    (∀ g : List Nat, g.length = 8 → g.sum ≤ s.budget → exec (.arbiterGrant g) s =
      .next { s with grants := g, demands := (List.range 320).map (Config.demand s.fresh), fresh := s.fresh + 1 }) ∧
    (∀ beam, beam < 8 → ((List.range 40).map fun i => bayGrant s (beam * 40 + i)).sum ≤ s.grants.getD beam 0) ∧
    (∀ w, w ≤ 3600 → exec (.plumbBudget w) s =
      .next { s with budget := w, heartwoodBudget := max s.heartwoodBudget w }) ∧
    exec .frzN s = .next { s with frozen := true } ∧ exec .plumbFreeze s = .next { s with frozen := true } ∧
    (s.frozen = true → ∀ a n, dumpReach s a n = true →
      exec (.plumbReadout a n) s = .next s ∧ (readout s a n).strands = s.strands ∧ (readout s a n).bytes.length = n ∧
        ∀ i, i < n → (readout s a n).bytes.getD i (0, false) =
          (memRead s.mem (a + i), decide ((a + i) / 8 ∈ s.poison))) ∧
    exec .scrub s = .next s ∧ exec (.correctableError 320) s = .next { s with softErrors := s.softErrors + 1 } ∧
    (∀ n w bay, bay < 320 → n < 256 → w < 2 ^ 32 → ∀ f ∈ [
        ((8 : Nat), fun (b : Bay) => { b with copies := b.copies.eraseIdx (256 * w + n) }),
        (9, fun b => b), (10, fun b => { b with level := b.level.eraseIdx (256 * w + n) })],
      exec (.uncorrectableError (2 ^ 57 + w * 2 ^ 32 + bay * 0x10000 + f.1 * 0x100 + n)) s =
        exec (.correctableError bay) { s with bays := s.bays.setIfInBounds bay (f.2 (bayOf s bay)) }) ∧
    (∀ n, n < 320 →
      let b := bayOf s n
      let up := fun (x : BitVec 32) => if x = 0xFFFFFFFF then x else x + 1
      let counted := { s with softErrors := s.softErrors + 1 }
      ((∀ st ∈ s.strands, holdsBay s st n = false) → exec (.correctableError n) s =
        .next { counted with bays := s.bays.setIfInBounds n { b with mecc := up b.mecc } }) ∧
      ((∃ st ∈ s.strands, holdsBay s st n = true) → exec (.correctableError n) s = .next { counted with
        strands := s.strands.map fun st => if holdsBay s st n then
          { st with blocks := st.blocks.map fun bl => if bl.bay = n then { bl with mecc := up bl.mecc } else bl } else st })) ∧
    (∀ a, a < 2 ^ 57 → isLocal s a = true → localAddr a < deviceBase → ∃ t, exec (.uncorrectableError a) s = .next t ∧
      t = { s with poison := t.poison, errlog := t.errlog } ∧
      (∀ w, w ∈ t.poison ↔ w ∈ s.poison ∨ ∃ k, k < 8 ∧ w = steer s (a / 8 * 8 + k) / 8) ∧
      ∃ e, t.errlog.getLast? = some e ∧ e.kind = 4 ∧ e.time = s.time ∧ e.xval = BitVec.ofNat 64 a) ∧
    ∀ (bay cls n w k b : Nat) (st : Strand) (bl : Block), bay < 320 → n < 256 →
      holderStrand s bay = some (k, b) → s.strands[k]? = some st → st.blocks[b]? = some bl →
      (cls = 0 ∧ n < 64 ∧ w = 0 ∨ cls = 1 ∧ n < 32 ∧ w < 256 ∨ cls = 2 ∧ n < 8 ∧ w < 128 ∨ cls = 3 ∧ n < 8 ∨ cls = 4 ∧ n < 16 ∨
        cls = 5 ∧ n < 4 ∨ cls = 6 ∧ n = 0 ∧ w < 786432 ∨ cls = 7 ∧ n < 128 ∧ w < 16) →
      ∃ t bl', exec (.uncorrectableError (2 ^ 57 + w * 2 ^ 32 + bay * 0x10000 + cls * 0x100 + n)) s = .next t ∧
        t = { s with
          strands := s.strands.set k { st with blocks := st.blocks.set b bl' }
          errlog := t.errlog } ∧
        (cls < 4 ∨ cls = 6 → bl' = { bl with badRegs := bl'.badRegs } ∧
          ∀ c, c ∈ bl'.badRegs ↔ c = w * 0x10000 + cls * 0x100 + n ∨ c ∈ bl.badRegs) ∧
        (cls = 7 → bl' = { bl with slog := bl'.slog } ∧ bl'.slog.length = bl.slog.length ∧
          ∀ (i : Nat) (e : LogEntry), bl.slog[i]? = some e → ∃ bad, bl'.slog[i]? = some { e with bad := bad } ∧
            ∀ x, x ∈ bad ↔ x ∈ e.bad ∨ i = n ∧ x = w) ∧
        (cls = 4 → bl' = { bl with slots := bl'.slots, tiles := bl'.tiles } ∧
          (∀ j, bl'.slots.getD j (emptySlot false) = if j = n then { bl.slots.getD j (emptySlot false) with poison := true }
            else bl.slots.getD j (emptySlot false)) ∧
          ∀ j, j < 4 → bl'.tiles.getD j zeroTile =
            if ∃ m ∈ st.multiplies, m.done = false ∧ m.tile = j ∧ n ∈ m.slots then { bl.tiles.getD j zeroTile with poison := true }
            else bl.tiles.getD j zeroTile) ∧
        (cls = 5 → bl' = { bl with tiles := bl.tiles.setIfInBounds n { bl.tiles.getD n zeroTile with poison := true } })

/-- R433: power-on and a package reset bring every state to reset but the Heartwood counters, whose leases end, the part, what
lies outside the package, and, in a frozen package under a package reset, HBM, as far as the caches over it had written it; a
loss of power leaves the package without power. A function-level reset ends every bent of the function, marks its raisings to
end and touches no other. That leases end, pooled capacity is dropped, how much of HBM had been written, and that a slot stays
in state 3 until its raising ends, are the model's choices (log entry 48). -/
def Obligations.ResetResults : Prop :=
  (∀ s : State,
    let same := fun (t : State) => { t with
      mem := [], poison := [], counters := [], part := State.wholePart, agenda := [], fresh := 0, powered := true } = State.reset
    let kept := fun (hbm : Bool) (t : State) =>
      t.agenda = s.agenda ∧ t.part = { s.part with pooled := [] } ∧
      t.counters = (s.counters.map fun k => { k with lease := none }) ∧
      (MemOk s → ∀ a, (2 ^ 46 ≤ a → memRead t.mem a = memRead s.mem a) ∧ (hbm = true → a < tierBase →
        memRead t.mem a = memRead s.mem a ∨ ∃ l ∈ s.written, (a, memRead t.mem a) ∈ l)) ∧
      ∀ w, w ∈ t.poison ↔ w ∈ s.poison ∧ (2 ^ 43 ≤ w ∨ hbm = true ∧ w < tierBase / 8)
    (∃ t, exec .powerOnReset s = .next t ∧ same t ∧ kept false t ∧ t.powered = true) ∧
    (s.powered = true → ∃ t, exec .packageReset s = .next t ∧ same t ∧ kept s.frozen t ∧ t.powered = true) ∧
    ∃ t, exec .powerLoss s = .next t ∧ same t ∧ kept false t ∧ t.powered = false) ∧
  ∀ (s : State) (vf : Nat), vf < 1024 →
    let mine := fun (r : Raising) => r.vf = vf ∧ r.ended = false
    ∃ t, exec (.functionLevelReset vf) s = .next t ∧
      t.raisings = (s.raisings.map fun r => if r.vf = vf && !r.ended then { r with aborted := true } else r) ∧
      t.bents = (s.bents.map fun b => if s.raisings.any (fun r => r.vf == vf && !r.ended && r.rid == b.rid)
        then { b with state := .ended, stack := none } else b) ∧
      (∀ k b, b ∈ s.bents → k ∈ b.strands → (∃ r ∈ s.raisings, mine r ∧ r.rid = b.rid) →
        ∀ st, t.strands[k]? = some st → st.exited = true) ∧
      (∀ k, (∀ b ∈ s.bents, k ∈ b.strands → ¬ ∃ r ∈ s.raisings, mine r ∧ r.rid = b.rid) → t.strands[k]? = s.strands[k]?) ∧
      (∀ r ∈ s.raisings, mine r → (launchOf t vf r.slot).state = 3) ∧
      ∀ n i, n ≠ vf → launchOf t n i = launchOf s n i

namespace Sys2Proof.Forms

/-! ### Words and page tables -/

/-- Words whose encodings the spec writes out, with the instructions they stand for. -/
noncomputable def words : List (Nat × Instr) :=
  [(0x00000002, .addi 0 0 0), (0xFFF88282, .addi 0x1FFF 4 5), (0x0098A281, .add 19 5 5), (0xC042AA17, .ldd 3 8 21 20),
   (0x06AA8013, .jt 3 21 20), (0xC0400A22, .cread 8 20), (0x00088930, .setvl 1 4 18), (0x000431B2, .vadd 0 2 3 3),
   (0x1E2E4638, .vftopk 0 23 4 12), (0x00BA805C, .cwb 23 20), (0x0084206D, .tmms 1 0 2 1 0 0), (0x00000DFA, .fenceSc 3),
   (0x0C00007C, .barw 1), (0x0C02AA7D, .xquery 21 20), (0x0600007E, .exit), (0x0CB2AA7F, .slogdrop 22 21 20)]

/-- The entry of a table of a level for an address (R382, R383). -/
def entryOf (s : State) (table level va : Nat) : Nat := physLoad s (table + 8 * (va / 2 ^ (39 - 9 * level) % 512)) 8

/-- Entries of levels 0 to `n` − 1 lead from table to table (R384). -/
def Tables (s : State) (va : Nat) (T : Nat → Nat) (n : Nat) : Prop :=
  ∀ l, l < n → let e := entryOf s (T l) l va
    e % 16 = 1 ∧ e / 2 ^ 61 = 0 ∧ e / 2 ^ 10 % 4 ≠ 3 ∧ T (l + 1) = e / 2 ^ 12 % 2 ^ 45 * 4096

/-- What a page lets an access do at a level (R385): W, R and X of its entry, U at user level, and no runtime fetch from a user
page. -/
def Permits (e : Nat) (level : Level) (acc : Acc) : Prop :=
  (acc = .read ∨ acc = .atomic → e.testBit 1 = true) ∧ (acc = .write ∨ acc = .atomic → e.testBit 2 = true) ∧
    (acc = .fetch → e.testBit 3 = true) ∧ (level = .user → e.testBit 4 = true) ∧
    (level = .runtime → acc = .fetch → e.testBit 4 = false)

end Sys2Proof.Forms

/-! ### The step, translation, reset -/

/-- Sixteen words of the spec decode to the instructions they stand for. -/
def Obligations.DecodeSamples : Prop := ∀ x ∈ Forms.words, decodeWord x.1 = .ok x.2

/-- R29, R54, R55: when a strand has the turn and the four bytes at its pc are the word of an instruction, the step executes
that instruction on the state after the fetch, which has changed at most what the walk has; a word that is none traps with
ILLINS, or with ILLOP for a reserved value, and the word in XVAL. Nothing has been written since the acquire before the
strand's last IFENCE, so that the fetch returns what memory holds (R103). What is done with a held read while something behind it
may be performed first is `runHeld` (log entry 9). -/
def Obligations.StepRunsDecoded : Prop :=
  ∀ (s : State) (k : Nat) (st : Strand), s.agenda = [] → s.powered = true → s.frozen = false → turns s = [.strand k] →
    s.strands[k]? = some st → slogDue st = false →
    let s0 := { s with cur := k }
    let va := st.r.pc.toNat
    watchHit st.r va 4 .fetch = none → va % 4 = 0 →
    ∀ ps s1, Allowed s0 0 va 4 .fetch ps s1 → strandOf s1 = some st → byteAddr ps va 0 % 16 = va % 16 → s1.poison = [] →
    (∀ bl ∈ st.blocks, bl.badRegs = []) → s1.dirty = [] → s1.written.length ≤ st.fetchSince →
    st.fetchStale = [] → (∀ x ∈ s1.strands, k ∉ x.requests) → (∀ f, st.inflight = some f → f.pc = st.r.pc → f.words = []) →
    let w := valueAt s1 ps va 4
    vectorClass w = false ∨ va % 16 = 12 →
    (heldRead w = true → step s = runHeld w s1) ∧
    (heldRead w = false ∨ hasPassing (w / 2 ^ 7 % 64) (atPc (st.r.pc + 4) s1) = false →
      (∀ i, decodeWord w = .ok i → step s = exec i s1) ∧
      ∀ e, decodeWord w = .error e → step s = .next (takeTrap s1
        { cause := if e = .reservedField then causeIllop else causeIllins, xval := memberXval w (va / 4) }))

/-- R40, R41, R54, R55, R156: a convoy of an integer and a floating-point instruction does, in either word order, what the
two do one after another, but for which of several NaN causes NANC keeps; a second member of the INT pipe makes the
convoy trap with ILLINS, that member in XVAL, and no member takes effect. -/
def Obligations.ConvoysRunInWordOrder : Prop :=
  ∀ s st, Runs s st → VectorReady st → vtFmt st.r.vt < 4 → st.r.frm.toNat % 8 ≠ 5 →
    ∀ (m n : BitVec 3) (x a d y b e : BitVec 5),
    (∀ r ∈ [x, a, d, y, b, e], r.toNat % vtG st.r.vt = 0) → ∀ f ∈ Forms.vint,
    (∀ g ∈ Forms.vfp2, ∀ p ∈ [(f.1 m x a d, g.1 n y b e), (g.1 n y b e, f.1 m x a d)], ∀ v w,
      encodeWord p.1 = some v → encodeWord p.2 = some w → ∃ t1 t2 st2 nanc,
        exec p.1 s = .next t1 ∧ exec p.2 t1 = .next t2 ∧ Runs t2 st2 ∧ nanc < 16 ∧
        runConvoy [v, w] ([v, w].map memberOfWord) s = .next (putStrand t2 { st2 with r := { st2.r with
          mst := (st2.r.mst &&& ~~~0xF0000) ||| BitVec.ofNat 64 (nanc * 2 ^ 16) } })) ∧
    ∀ g ∈ Forms.vint, ∀ v w, encodeWord (f.1 m x a d) = some v → encodeWord (g.1 n y b e) = some w →
      runConvoy [v, w] ([v, w].map memberOfWord) s =
        .next (takeTrap s { cause := causeIllins, xval := memberXval w (st.r.pc.toNat / 4 + 1) })

/-- R382 to R385: with no table cached, an address that is not canonical fails without a walk; the walk follows the entries
from PTBASE and fails at the level of an invalid entry; a leaf at level 1, 2 or 3 gives the physical address and the
attributes of its page when it grants the access, sets A, and D for a write, and fails with level 4 when it does not; that A
then stays unset is the model's reading (log entry 15). -/
def Obligations.TranslationResults : Prop :=
  ∀ (s : State) (c : XCtx) (va : Nat) (acc : Acc), va < 2 ^ 64 →
    let canon := va < 2 ^ 47 ∨ 2 ^ 64 - 2 ^ 47 ≤ va
    let fails := fun (missing : Bool) (level : Nat) (t : State) => ∃ ipa, translate c va acc s =
      .ok (.error { missing := missing, level := level, s2 := false, ipa := ipa }) t
    (¬ canon → fails false 0 s) ∧
    (canon → c.vmid = 0 → s.walkers = [] → tlbOf s c = [] → ∀ (T : Nat → Nat) (n : Nat), T 0 = c.ptbase → n ≤ 3 →
      Forms.Tables s (va % 2 ^ 48) T n →
      let e := Forms.entryOf s (T n) n (va % 2 ^ 48)
      let ppn := e / 2 ^ 12 % 2 ^ 45 * 4096
      let shape := e.testBit 0 = true ∧ e / 2 ^ 61 = 0 ∧ e / 2 ^ 10 % 4 ≠ 3 ∧ ¬ (e.testBit 2 = true ∧ e.testBit 1 = false)
      let leaf := shape ∧ e / 2 % 8 ≠ 0 ∧ n ≠ 0 ∧ (n = 3 ∨ ppn % 2 ^ (39 - 9 * n) = 0 ∧ e.testBit 60 = false)
      let further := shape ∧ e / 2 % 8 = 0 ∧ n ≠ 3
      let group := n = 3 ∧ e.testBit 60 = true
      (¬ leaf → ¬ further → ∃ t, fails true n t ∧ t = { s with walkers := t.walkers, dirty := t.dirty }) ∧
      (leaf → ¬ group → ¬ Forms.Permits e c.level acc → ∃ t, fails false 4 t ∧
        t = { s with walkers := t.walkers, dirty := t.dirty }) ∧
      (leaf → ¬ group → Forms.Permits e c.level acc →
        let pa := ppn + va % 2 ^ (39 - 9 * n)
        let at' := T n + 8 * (va % 2 ^ 48 / 2 ^ (39 - 9 * n) % 512)
        ∃ t, translate c va acc s = .ok (.ok
            { pa := pa, ord := if isDevice s pa then 1 else e / 2 ^ 10 % 4, home := e / 2 ^ 8 % 4, cmp := e.testBit 58,
              slk := e.testBit 57, mig := e.testBit 59, size := 39 - 9 * n, glob := e.testBit 5 }) t ∧
          t = { s with mem := t.mem, walkers := t.walkers, bays := t.bays, engineTlb := t.engineTlb, dirty := t.dirty,
                       written := t.written } ∧
          (MemOk s → (∀ i j, i < 8 → j < 8 → steer s (at' + i) = steer s (at' + j) → i = j) →
            physLoad t at' 8 = (e ||| 64) ||| (if acc.writes then 128 else 0)) ∧
          (MemOk s → ∀ x, (∀ i, i < 8 → x ≠ steer s (at' + i)) → memRead t.mem x = memRead s.mem x)))

/-- R9, R23, R431 to R433: the next event of the agenda happens on the state without it; without power nothing but power-on
happens, and in a frozen package nothing but resets, the function-level reset of a configuration request, a second freeze, the
readout and Plumb's budget acts: requests of the host end as Unsupported Request, peers go unanswered, and no other event
happens (log entry 49). -/
def Sys2Proof.Parts.EventsFreezeAndPower : Prop :=
  ∀ (s : State),
    (s.agenda = [] → (s.powered = false → step s = .fault .unpowered) ∧
      (s.powered = true → s.frozen = true → step s = .fault .frozen)) ∧
    ∀ i l, s.agenda = i :: l → encodeWord i = none → i.eventOk = true →
      let s1 := { s with agenda := l }
      (s.powered = true → s.frozen = false → step s = exec i s1) ∧
      (s.powered = false → step s = if i = .powerOnReset then exec i s1 else .fault .unpowered) ∧
      (s.powered = true → s.frozen = true →
        let acts := i ∈ [.packageReset, .powerOnReset, .powerLoss, .frzN, .plumbFreeze] ∨ (∃ a n, i = .plumbReadout a n) ∨
          ∃ n, i = .plumbBudget n ∨ i = .functionLevelReset n
        (acts → step s = exec i s1) ∧ (¬ acts → step s = .next s1 ∨ step s = .fault .frozen) ∧
        ∀ a n, hostCompletion s1 a n = none ∧ ∀ port bs op w64 x e seq asks forwarded mark,
          i ∈ [.hostRead a n, .hostPostedWrite port a bs, .hostAtomicop op w64 a x e, .peerRequest n seq a asks forwarded mark] →
            step s = .next s1)

/-- What reset leaves (R183, R351, R380, R381, R409, R426, R433). That the package has number 0 and that its domain names it
alone, and the canonical form of its memory, are the model's choice (log entries 1, 2). -/
def Obligations.ResetState : Prop :=
  let s := State.reset
  s.pkg = 0 ∧ s.members = [0] ∧ s.strands = [] ∧ s.raisings = [] ∧ s.commands = [] ∧ s.rsaddr = 0 ∧ s.rslen = 0 ∧ s.rsstat = 0 ∧
    s.frozen = false ∧ MemOk s ∧ (∀ w, w < 32 → s.wvec.getD w 0 = 0) ∧ (∀ vf n, (launchOf s vf n).state = 0) ∧
    ∀ n, n < 320 → (bayOf s n).k = 4 ∧ (bayOf s n).splitErr = false ∧ (bayOf s n).mecc = 0

/-- The memory of the package keeps its canonical form, sorted by address and without zero bytes, in every step from any state
that has it (the form is the model's, log entry 1): the step never writes memory but through the operations that keep it. -/
def Obligations.MemoryStaysCanonical : Prop := ∀ s t, MemOk s → step s = .next t → MemOk t

/-! ### Statements of several parts -/

/-- Every SOP, immediate, shift, LUI and AUIPC result, and nothing else changes. -/
def Obligations.ScalarArithmeticResults : Prop :=
  Parts.SopResults ∧ Parts.ImmediateResults

/-- Branches, jumps and the jump table: the next pc and the link. -/
def Obligations.ScalarControlFlowResults : Prop :=
  Parts.BranchesAndJumps ∧ Parts.JumpTable

/-- Scalar loads and stores: the register or the bytes written, and the frame. -/
def Obligations.ScalarMemoryResults : Prop :=
  Parts.ScalarLoadResults ∧ Parts.ScalarStoreResults

/-- Scalar floating-point results with their flags, how they round, and the NaNs they generate. -/
def Obligations.ScalarFloatResults : Prop :=
  Parts.ScalarFloatResults ∧ Parts.GeneratedNans ∧ Parts.RoundingResults

/-- What the CSR instructions read, the clocks included. -/
def Obligations.CsrReadResults : Prop :=
  Parts.CsrReads ∧ Parts.ClocksRead

/-- What CSR writes change, which field values they refuse, and which accesses trap. -/
def Obligations.CsrWriteResults : Prop :=
  Parts.CsrWrites ∧ Parts.CsrFields ∧ Parts.CsrTraps ∧ Parts.CsrWritesComplete

/-- What taking a trap saves and where it goes; a double trap halts the bent. -/
def Obligations.TrapEntryAndDoubleTrap : Prop :=
  Parts.TrapEntrySaves ∧ Parts.DoubleTrapHaltsTheBent

/-- ECALL, EBREAK, ERET and the other system instructions. -/
def Obligations.SystemInstructionResults : Prop :=
  Parts.CallsTrap ∧ Parts.ReturnFromTrap ∧ Parts.SystemInstructions

/-- Vector integer compares and the mask functions. -/
def Obligations.VectorComparesAndMasks : Prop :=
  Parts.VectorCompareResults ∧ Parts.MaskFunctionResults

/-- Vector moves and splats, and moves of elements and counts to scalar registers. -/
def Obligations.VectorMoveResults : Prop :=
  Parts.VectorMoveResults ∧ Parts.VectorToScalarResults

/-- Permutes, slides, exchanges and the selections by magnitude. -/
def Obligations.PermutesAndSelections : Prop :=
  Parts.PermuteResults ∧ Parts.SelectionResults

/-- Integer reductions and scans with their carry cells. -/
def Obligations.ReductionsAndScans : Prop :=
  Parts.ReductionResults ∧ Parts.ScanResults

/-- Vector floating-point results and compares with flags and draws. -/
def Obligations.VectorFloatResults : Prop :=
  Parts.VectorFloatResults ∧ Parts.VectorFloatCompares

/-- VCVT in every pair of formats, and the values of its conversions. -/
def Obligations.VectorConversions : Prop :=
  Parts.VectorConversions ∧ Parts.ConversionValues

/-- Floating-point reductions, the scan from the carry cell, VFARGMAX and VFTOPK. -/
def Obligations.VectorFloatFolds : Prop :=
  Parts.VectorFloatReductions ∧ Parts.VectorFloatSelections

/-- Lane slices, and VSPL and VFIL of vector registers. -/
def Obligations.BayMemoryResults : Prop :=
  Parts.LaneSliceResults ∧ Parts.SpillResults ∧ Parts.FillResults

/-- Fibre set operations, moves and their checks. -/
def Obligations.FibreResults : Prop :=
  Parts.FibreSetResults ∧ Parts.FibreChecks ∧ Parts.FibreMoveResults

/-- Fibre loads and stores, prefetch, FSEND and FRECV. -/
def Obligations.FibreMemoryAndMessages : Prop :=
  Parts.FibreMemoryResults ∧ Parts.FibreMessages

/-- Claiming, loading and filling jig slots. -/
def Obligations.JigSlotResults : Prop :=
  Parts.SlotClaimsAndLoads ∧ Parts.SlotFillsFromMemory

/-- Truss multiplies and the tile instructions. -/
def Obligations.TrussResults : Prop :=
  Parts.MultiplyResults ∧ Parts.TileResults

/-- SLKADD withholds or passes additions; LDTOL reads within its tolerance. -/
def Obligations.SlackAdditionsAndTolerantLoads : Prop :=
  Parts.SlackAddResults ∧ Parts.TolerantLoadResults

/-- The slack control instructions and the messages of shims and homes. -/
def Obligations.SlackControlAndMessages : Prop :=
  Parts.SlackControl ∧ Parts.SlackMessages ∧ Parts.DrainResults

/-- WAITA, its wakes and time-outs, and the barriers of a bent. -/
def Obligations.WaitsAndBarriers : Prop :=
  Parts.WaitResults ∧ Parts.BarrierResults

/-- Issuing, cancelling and querying engine commands. -/
def Obligations.EngineCommandIssue : Prop :=
  Parts.EngineCommandIssue ∧ Parts.CommandsAccepted

/-- How engine commands start, proceed and end, and what a step of XCOPY, XGATHER and XPOOL and a symbol of XEXPAND
does. -/
def Obligations.EngineCommandsRun : Prop :=
  Parts.EngineCommandsRun ∧ Parts.EngineUnits ∧ Parts.EngineBytes ∧ Parts.EngineFunctions

/-- QPUSH, QPOP, STGDONE, instances, and QAPPEND. -/
def Obligations.QueueResults : Prop :=
  Parts.QueueResults ∧ Parts.QueueAppendResults

/-- Runtime-only instructions refuse user strands; TLBINV, TLBINVA and TLBSYNC. -/
def Obligations.InvalidationResults : Prop :=
  Parts.RuntimeOnlyRefused ∧ Parts.InvalidationResults

/-- SLOGRP, SLOGDROP, CTXSAVE, CTXREST, PGPIN, PGUNPIN and STUBQ. -/
def Obligations.RuntimeServiceResults : Prop :=
  Parts.ServiceResults ∧ Parts.PinAndStubResults

/-- Ownership of pages moves, and requests of peers are served, held or forwarded. -/
def Obligations.PeerAndOwnershipResults : Prop :=
  Parts.OwnershipResults ∧ Parts.PeerRequests

/-- Heartwood counters and leases, domain formation and virtual functions. -/
def Obligations.CountersAndMapping : Prop :=
  Parts.CounterResults ∧ Parts.MappingResults

/-- Host accesses, and registers written from outside. -/
def Obligations.HostAccessesAndRegisters : Prop :=
  Parts.HostAccesses ∧ Parts.OutsideRegisterWrites

/-- Grants, freeze, power and soft errors, and which events act when. -/
def Obligations.FreezePowerAndErrors : Prop :=
  Parts.PowerAndErrors ∧ Parts.EventsFreezeAndPower
end

