-- ==== Sys2Proof/Laws/Memory.lean ====
section
/-! SUPPORT. What the byte memory does: a read after a write, and that every operation keeps the canonical form. -/

namespace Sys2Proof.Laws

open Sys2Proof.Machine

/-! ### The canonical form -/

/-- A memory that is canonical from an address is canonical from any lower one. -/
theorem memWfFrom_mono {lo lo' : Nat} (h : lo' ≤ lo) : ∀ {m : Mem}, memWfFrom lo m = true → memWfFrom lo' m = true
  | [], _ => rfl
  | (k, b) :: t, hm => by
    simp only [memWfFrom, Bool.and_eq_true, decide_eq_true_eq] at hm ⊢
    exact ⟨⟨by omega, hm.1.2⟩, hm.2⟩

/-- An address below a canonical memory reads zero. -/
theorem memRead_below {a lo : Nat} (h : a < lo) : ∀ {m : Mem}, memWfFrom lo m = true → memRead m a = 0
  | [], _ => rfl
  | (k, b) :: t, hm => by
    simp only [memWfFrom, Bool.and_eq_true, decide_eq_true_eq] at hm
    rw [memRead, if_pos (by omega)]

/-- Writing a byte keeps the canonical form from an address at or below it. -/
theorem memWrite_wfFrom {a : Nat} {b : Byte} {lo : Nat} : ∀ {m : Mem}, lo ≤ a → memWfFrom lo m = true →
    memWfFrom lo (memWrite m a b) = true
  | [], h, _ => by
    unfold memWrite
    split
    · rfl
    · rename_i hb
      simp only [memWfFrom, Bool.and_true, Bool.and_eq_true, decide_eq_true_eq]
      exact ⟨h, by simpa using hb⟩
  | (k, c) :: t, h, hm => by
    have hm' := hm
    simp only [memWfFrom, Bool.and_eq_true, decide_eq_true_eq] at hm'
    unfold memWrite
    split
    · split
      · exact hm
      · rename_i hk hb
        simp only [memWfFrom, Bool.and_eq_true, decide_eq_true_eq]
        exact ⟨⟨h, by simpa using hb⟩, ⟨by omega, hm'.1.2⟩, hm'.2⟩
    · split
      · split
        · exact memWfFrom_mono (by omega) hm'.2
        · rename_i hb
          subst_vars
          simp only [memWfFrom, Bool.and_eq_true, decide_eq_true_eq]
          exact ⟨⟨hm'.1.1, by simpa using hb⟩, hm'.2⟩
      · simp only [memWfFrom, Bool.and_eq_true, decide_eq_true_eq]
        exact ⟨hm'.1, memWrite_wfFrom (by omega) hm'.2⟩

/-- Writing a byte keeps the canonical form. -/
theorem memWrite_wf {m : Mem} (a : Nat) (b : Byte) (h : memWf m = true) : memWf (memWrite m a b) = true :=
  memWrite_wfFrom (Nat.zero_le a) h

/-- Writing a list of bytes keeps the canonical form. -/
theorem memWriteList_wf : ∀ {bs : List Byte} {m : Mem} {a : Nat}, memWf m = true → memWf (memWriteList m a bs) = true
  | [], _, _, h => h
  | b :: t, m, a, h => by
    rw [memWriteList]
    exact memWriteList_wf (memWrite_wf a b h)

/-- A part of a canonical memory is canonical. -/
theorem memFilter_wfFrom {p : Host.Cell → Bool} {lo : Nat} : ∀ {m : Mem}, memWfFrom lo m = true →
    memWfFrom lo (m.filter p) = true
  | [], _ => rfl
  | (k, b) :: t, hm => by
    have hm' := hm
    simp only [memWfFrom, Bool.and_eq_true, decide_eq_true_eq] at hm'
    rw [List.filter_cons]
    split
    · simp only [memWfFrom, Bool.and_eq_true, decide_eq_true_eq]
      exact ⟨hm'.1, memFilter_wfFrom hm'.2⟩
    · exact memWfFrom_mono (by omega) (memFilter_wfFrom hm'.2)

/-- Clearing bytes keeps the canonical form. -/
theorem memClear_wf {m : Mem} (a n : Nat) (h : memWf m = true) : memWf (memClear m a n) = true := memFilter_wfFrom h

/-- Bytes picked from a list and written one after another keep the canonical form. -/
theorem foldlWrite_wf (f : Host.Cell → Nat) (l : List Host.Cell) : ∀ {m : Mem}, memWf m = true →
    memWf (l.foldl (fun m c => memWrite m (f c) c.2) m) = true := by
  induction l with
  | nil => exact fun h => h
  | cons c t ih => exact fun h => ih (memWrite_wf _ _ h)

/-! ### Reads after writes -/

/-- A byte written is read back. -/
theorem memRead_memWrite_same (a : Nat) (b : Byte) : ∀ {lo : Nat} {m : Mem}, memWfFrom lo m = true →
    memRead (memWrite m a b) a = b
  | _, [], _ => by
    unfold memWrite
    split
    · simp_all [memRead]
    · simp [memRead]
  | lo, (k, c) :: t, hm => by
    have hm' := hm
    simp only [memWfFrom, Bool.and_eq_true, decide_eq_true_eq] at hm'
    unfold memWrite
    split
    · rename_i hk
      split
      · rename_i hb
        rw [memRead, if_pos hk, hb]
      · simp [memRead]
    · split
      · rename_i ha
        split
        · rename_i hb
          rw [memRead_below (lo := k + 1) (by omega) hm'.2, hb]
        · simp [memRead]
      · rename_i h1 h2
        rw [memRead, if_neg h1, if_neg h2]
        exact memRead_memWrite_same a b hm'.2

/-- A write leaves every other byte alone. -/
theorem memRead_memWrite_other {a x : Nat} (b : Byte) (h : x ≠ a) : ∀ {lo : Nat} {m : Mem}, memWfFrom lo m = true →
    memRead (memWrite m a b) x = memRead m x
  | _, [], _ => by
    unfold memWrite
    split
    · rfl
    · simp [memRead, h]
  | lo, (k, c) :: t, hm => by
    have hm' := hm
    simp only [memWfFrom, Bool.and_eq_true, decide_eq_true_eq] at hm'
    unfold memWrite
    split
    · rename_i hk
      split
      · rfl
      · by_cases hx : x < a
        · rw [memRead, if_pos hx, memRead, if_pos (by omega)]
        · rw [memRead, if_neg hx, if_neg h]
    · split
      · rename_i hk ha
        split
        · by_cases hx : x < k
          · rw [memRead_below (lo := k + 1) (by omega) hm'.2, memRead, if_pos hx]
          · rw [memRead, if_neg hx, if_neg (by omega)]
        · by_cases hx : x < a
          · rw [memRead, if_pos hx, memRead, if_pos (by omega)]
          · rw [memRead, if_neg hx, if_neg h, memRead, if_neg (by omega), if_neg (by omega)]
      · rename_i h1 h2
        rw [memRead, memRead]
        split
        · rfl
        · split
          · rfl
          · exact memRead_memWrite_other b h hm'.2

/-- What a written list of bytes leaves: its own bytes, and every other byte as it was. -/
theorem memRead_memWriteList : ∀ (bs : List Byte) (m : Mem) (a x : Nat), memWf m = true →
    memRead (memWriteList m a bs) x = if a ≤ x ∧ x < a + bs.length then bs.getD (x - a) 0 else memRead m x
  | [], m, a, x, _ => by
    rw [memWriteList, if_neg (by rw [List.length_nil]; omega)]
  | b :: t, m, a, x, h => by
    rw [memWriteList, memRead_memWriteList t _ _ _ (memWrite_wf a b h)]
    by_cases h1 : x = a
    · subst h1
      rw [if_neg (by omega), if_pos (by simp), memRead_memWrite_same x b h]
      simp
    · by_cases h2 : a + 1 ≤ x ∧ x < a + 1 + t.length
      · rw [if_pos h2, if_pos (by simp only [List.length_cons]; omega)]
        have : x - a = (x - (a + 1)) + 1 := by omega
        rw [this, List.getD_cons_succ]
      · rw [if_neg h2, if_neg (by simp only [List.length_cons]; omega)]
        exact memRead_memWrite_other b h1 h

/-! ### Memory by physical address -/

/-- What the homes do for an access touches the record of dirty bytes alone (R188). -/
theorem homeAccess_frame (s : State) (who : Option Nat) (kind : HomeKind) (keys : List Nat) :
    homeAccess s who kind keys = { s with dirty := (homeAccess s who kind keys).dirty } := by
  unfold homeAccess
  split <;> rfl

/-- Replacing bytes of memory touches memory and the list of writes alone. -/
theorem storeKeys_frame (s : State) (l : List (Nat × Byte)) :
    storeKeys s l = { s with mem := (storeKeys s l).mem, written := (storeKeys s l).written } := rfl

/-- Replacing bytes of memory keeps the canonical form. -/
theorem storeKeys_wf (s : State) (l : List (Nat × Byte)) (h : memWf s.mem = true) : memWf (storeKeys s l).mem = true :=
  foldlWrite_wf (fun c => c.1) l h

/-- Writing bytes by physical address touches memory, the list of writes and the record of dirty bytes alone. -/
theorem physWrite_frame (s : State) (pa : Nat) (bs : List Byte) :
    physWrite s pa bs =
      { s with mem := (physWrite s pa bs).mem, written := (physWrite s pa bs).written, dirty := (physWrite s pa bs).dirty } := by
  unfold physWrite
  simp only
  rw [homeAccess_frame]
  rfl

/-- Writing bytes by physical address keeps the canonical form. -/
theorem physWrite_wf (s : State) (pa : Nat) (bs : List Byte) (h : memWf s.mem = true) : memWf (physWrite s pa bs).mem = true := by
  unfold physWrite
  refine storeKeys_wf _ _ ?_
  rw [homeAccess_frame]
  exact h

/-- A store by physical address keeps the canonical form. -/
theorem physStore_wf (s : State) (pa : Nat) (bs : List Byte) (h : memWf s.mem = true) : memWf (physStore s pa bs).mem = true := by
  unfold physStore clearPoison
  split <;> exact physWrite_wf s pa bs h

/-- Storage written zero keeps the canonical form. -/
theorem zeroStorage_wf (s : State) (a n : Nat) (h : memWf s.mem = true) : memWf (zeroStorage s a n).mem = true :=
  memClear_wf a n h

/-- Making storage unspecified keeps the canonical form. -/
theorem openStorage_wf (s : State) (pa n : Nat) (h : memWf s.mem = true) : memWf (openStorage s pa n).mem = true :=
  storeKeys_wf _ _ h

/-- Bytes copied to another key keep the canonical form. -/
theorem copyKeys_wf (s : State) (x y n : Nat) (h : memWf s.mem = true) : memWf (copyKeys s x y n).mem = true :=
  memWriteList_wf (memClear_wf y n h)

/-- Bytes moved to another key keep the canonical form. -/
theorem moveKeys_wf (s : State) (x y n : Nat) (h : memWf s.mem = true) : memWf (moveKeys s x y n).mem = true :=
  copyKeys_wf s x y n h

/-- The movement of a frame's bytes keeps the canonical form. -/
theorem relocate_wf (s s' : State) (pa n : Nat) (h : memWf s'.mem = true) : memWf (relocate s s' pa n).mem = true := by
  unfold relocate
  simp only
  split
  · exact h
  · exact moveKeys_wf s' _ _ n h

/-- The memory after reset is in canonical form. -/
theorem reset_wf : memWf State.reset.mem = true := rfl

end Sys2Proof.Laws
end

