-- ==== Sys2Proof/Laws/State.lean ====
section
/-! SUPPORT. What each update of the state leaves: one lemma per field per update, so that no proof unfolds a record update. -/

namespace Sys2Proof.Laws

open Sys2Proof.Machine

/-! ### The executing strand replaced -/

@[simp] theorem putStrand_mem (s : State) (st : Strand) : (putStrand s st).mem = s.mem := rfl
@[simp] theorem putStrand_poison (s : State) (st : Strand) : (putStrand s st).poison = s.poison := rfl
@[simp] theorem putStrand_bays (s : State) (st : Strand) : (putStrand s st).bays = s.bays := rfl
@[simp] theorem putStrand_dirty (s : State) (st : Strand) : (putStrand s st).dirty = s.dirty := rfl
@[simp] theorem putStrand_written (s : State) (st : Strand) : (putStrand s st).written = s.written := rfl
@[simp] theorem putStrand_strands (s : State) (st : Strand) : (putStrand s st).strands = s.strands.set s.cur st := rfl
@[simp] theorem putStrand_bents (s : State) (st : Strand) : (putStrand s st).bents = s.bents := rfl
@[simp] theorem putStrand_raisings (s : State) (st : Strand) : (putStrand s st).raisings = s.raisings := rfl
@[simp] theorem putStrand_admissions (s : State) (st : Strand) : (putStrand s st).admissions = s.admissions := rfl
@[simp] theorem putStrand_endings (s : State) (st : Strand) : (putStrand s st).endings = s.endings := rfl
@[simp] theorem putStrand_launch (s : State) (st : Strand) : (putStrand s st).launch = s.launch := rfl
@[simp] theorem putStrand_vfs (s : State) (st : Strand) : (putStrand s st).vfs = s.vfs := rfl
@[simp] theorem putStrand_containers (s : State) (st : Strand) : (putStrand s st).containers = s.containers := rfl
@[simp] theorem putStrand_wvec (s : State) (st : Strand) : (putStrand s st).wvec = s.wvec := rfl
@[simp] theorem putStrand_walkers (s : State) (st : Strand) : (putStrand s st).walkers = s.walkers := rfl
@[simp] theorem putStrand_engineTlb (s : State) (st : Strand) : (putStrand s st).engineTlb = s.engineTlb := rfl
@[simp] theorem putStrand_commands (s : State) (st : Strand) : (putStrand s st).commands = s.commands := rfl
@[simp] theorem putStrand_xeTurn (s : State) (st : Strand) : (putStrand s st).xeTurn = s.xeTurn := rfl
@[simp] theorem putStrand_nextTicket (s : State) (st : Strand) : (putStrand s st).nextTicket = s.nextTicket := rfl
@[simp] theorem putStrand_nextRid (s : State) (st : Strand) : (putStrand s st).nextRid = s.nextRid := rfl
@[simp] theorem putStrand_regions (s : State) (st : Strand) : (putStrand s st).regions = s.regions := rfl
@[simp] theorem putStrand_shims (s : State) (st : Strand) : (putStrand s st).shims = s.shims := rfl
@[simp] theorem putStrand_prepared (s : State) (st : Strand) : (putStrand s st).prepared = s.prepared := rfl
@[simp] theorem putStrand_pins (s : State) (st : Strand) : (putStrand s st).pins = s.pins := rfl
@[simp] theorem putStrand_swaps (s : State) (st : Strand) : (putStrand s st).swaps = s.swaps := rfl
@[simp] theorem putStrand_migs (s : State) (st : Strand) : (putStrand s st).migs = s.migs := rfl
@[simp] theorem putStrand_ownerCache (s : State) (st : Strand) : (putStrand s st).ownerCache = s.ownerCache := rfl
@[simp] theorem putStrand_adoption (s : State) (st : Strand) : (putStrand s st).adoption = s.adoption := rfl
@[simp] theorem putStrand_predecessors (s : State) (st : Strand) : (putStrand s st).predecessors = s.predecessors := rfl
@[simp] theorem putStrand_sentTo (s : State) (st : Strand) : (putStrand s st).sentTo = s.sentTo := rfl
@[simp] theorem putStrand_notices (s : State) (st : Strand) : (putStrand s st).notices = s.notices := rfl
@[simp] theorem putStrand_statements (s : State) (st : Strand) : (putStrand s st).statements = s.statements := rfl
@[simp] theorem putStrand_stubs (s : State) (st : Strand) : (putStrand s st).stubs = s.stubs := rfl
@[simp] theorem putStrand_directory (s : State) (st : Strand) : (putStrand s st).directory = s.directory := rfl
@[simp] theorem putStrand_heldReqs (s : State) (st : Strand) : (putStrand s st).heldReqs = s.heldReqs := rfl
@[simp] theorem putStrand_outReqs (s : State) (st : Strand) : (putStrand s st).outReqs = s.outReqs := rfl
@[simp] theorem putStrand_served (s : State) (st : Strand) : (putStrand s st).served = s.served := rfl
@[simp] theorem putStrand_redirects (s : State) (st : Strand) : (putStrand s st).redirects = s.redirects := rfl
@[simp] theorem putStrand_pageSeq (s : State) (st : Strand) : (putStrand s st).pageSeq = s.pageSeq := rfl
@[simp] theorem putStrand_counters (s : State) (st : Strand) : (putStrand s st).counters = s.counters := rfl
@[simp] theorem putStrand_sealedWings (s : State) (st : Strand) : (putStrand s st).sealedWings = s.sealedWings := rfl
@[simp] theorem putStrand_measures (s : State) (st : Strand) : (putStrand s st).measures = s.measures := rfl
@[simp] theorem putStrand_pkg (s : State) (st : Strand) : (putStrand s st).pkg = s.pkg := rfl
@[simp] theorem putStrand_members (s : State) (st : Strand) : (putStrand s st).members = s.members := rfl
@[simp] theorem putStrand_rsaddr (s : State) (st : Strand) : (putStrand s st).rsaddr = s.rsaddr := rfl
@[simp] theorem putStrand_rslen (s : State) (st : Strand) : (putStrand s st).rslen = s.rslen := rfl
@[simp] theorem putStrand_rsstat (s : State) (st : Strand) : (putStrand s st).rsstat = s.rsstat := rfl
@[simp] theorem putStrand_rsTime (s : State) (st : Strand) : (putStrand s st).rsTime = s.rsTime := rfl
@[simp] theorem putStrand_errlog (s : State) (st : Strand) : (putStrand s st).errlog = s.errlog := rfl
@[simp] theorem putStrand_part (s : State) (st : Strand) : (putStrand s st).part = s.part := rfl
@[simp] theorem putStrand_heartwoodBudget (s : State) (st : Strand) : (putStrand s st).heartwoodBudget = s.heartwoodBudget := rfl
@[simp] theorem putStrand_budget (s : State) (st : Strand) : (putStrand s st).budget = s.budget := rfl
@[simp] theorem putStrand_grants (s : State) (st : Strand) : (putStrand s st).grants = s.grants := rfl
@[simp] theorem putStrand_demands (s : State) (st : Strand) : (putStrand s st).demands = s.demands := rfl
@[simp] theorem putStrand_frozen (s : State) (st : Strand) : (putStrand s st).frozen = s.frozen := rfl
@[simp] theorem putStrand_powered (s : State) (st : Strand) : (putStrand s st).powered = s.powered := rfl
@[simp] theorem putStrand_softErrors (s : State) (st : Strand) : (putStrand s st).softErrors = s.softErrors := rfl
@[simp] theorem putStrand_time (s : State) (st : Strand) : (putStrand s st).time = s.time := rfl
@[simp] theorem putStrand_cur (s : State) (st : Strand) : (putStrand s st).cur = s.cur := rfl
@[simp] theorem putStrand_agenda (s : State) (st : Strand) : (putStrand s st).agenda = s.agenda := rfl
@[simp] theorem putStrand_fresh (s : State) (st : Strand) : (putStrand s st).fresh = s.fresh := rfl

/-- The strand that executes after it was replaced is the new one. -/
theorem strandOf_putStrand {s : State} {old : Strand} (h : strandOf s = some old) (st : Strand) :
    strandOf (putStrand s st) = some st := by
  have hlt : s.cur < s.strands.length := (List.getElem?_eq_some_iff.mp h).1
  simp [strandOf, hlt]

/-- The last replacement of the executing strand stands. -/
@[simp] theorem putStrand_putStrand (s : State) (a b : Strand) : putStrand (putStrand s a) b = putStrand s b := by
  simp [putStrand]

/-- Replacing the executing strand by itself changes nothing. -/
theorem putStrand_self {s : State} {st : Strand} (h : strandOf s = some st) : putStrand s st = s := by
  unfold strandOf at h
  obtain ⟨hlt, rfl⟩ := List.getElem?_eq_some_iff.mp h
  simp [putStrand]

/-- Replacing the executing strand leaves every other one. -/
theorem putStrand_other (s : State) (st : Strand) {k : Nat} (h : k ≠ s.cur) :
    (putStrand s st).strands[k]? = s.strands[k]? := by
  simp [List.getElem?_set_ne (Ne.symm h)]

/-! ### A bay replaced -/

@[simp] theorem setBay_mem (s : State) (n : Nat) (b : Bay) : (setBay s n b).mem = s.mem := rfl
@[simp] theorem setBay_poison (s : State) (n : Nat) (b : Bay) : (setBay s n b).poison = s.poison := rfl
@[simp] theorem setBay_bays (s : State) (n : Nat) (b : Bay) : (setBay s n b).bays = s.bays.setIfInBounds n b := rfl
@[simp] theorem setBay_dirty (s : State) (n : Nat) (b : Bay) : (setBay s n b).dirty = s.dirty := rfl
@[simp] theorem setBay_written (s : State) (n : Nat) (b : Bay) : (setBay s n b).written = s.written := rfl
@[simp] theorem setBay_strands (s : State) (n : Nat) (b : Bay) : (setBay s n b).strands = s.strands := rfl
@[simp] theorem setBay_bents (s : State) (n : Nat) (b : Bay) : (setBay s n b).bents = s.bents := rfl
@[simp] theorem setBay_raisings (s : State) (n : Nat) (b : Bay) : (setBay s n b).raisings = s.raisings := rfl
@[simp] theorem setBay_admissions (s : State) (n : Nat) (b : Bay) : (setBay s n b).admissions = s.admissions := rfl
@[simp] theorem setBay_endings (s : State) (n : Nat) (b : Bay) : (setBay s n b).endings = s.endings := rfl
@[simp] theorem setBay_launch (s : State) (n : Nat) (b : Bay) : (setBay s n b).launch = s.launch := rfl
@[simp] theorem setBay_vfs (s : State) (n : Nat) (b : Bay) : (setBay s n b).vfs = s.vfs := rfl
@[simp] theorem setBay_containers (s : State) (n : Nat) (b : Bay) : (setBay s n b).containers = s.containers := rfl
@[simp] theorem setBay_wvec (s : State) (n : Nat) (b : Bay) : (setBay s n b).wvec = s.wvec := rfl
@[simp] theorem setBay_walkers (s : State) (n : Nat) (b : Bay) : (setBay s n b).walkers = s.walkers := rfl
@[simp] theorem setBay_engineTlb (s : State) (n : Nat) (b : Bay) : (setBay s n b).engineTlb = s.engineTlb := rfl
@[simp] theorem setBay_commands (s : State) (n : Nat) (b : Bay) : (setBay s n b).commands = s.commands := rfl
@[simp] theorem setBay_xeTurn (s : State) (n : Nat) (b : Bay) : (setBay s n b).xeTurn = s.xeTurn := rfl
@[simp] theorem setBay_nextTicket (s : State) (n : Nat) (b : Bay) : (setBay s n b).nextTicket = s.nextTicket := rfl
@[simp] theorem setBay_nextRid (s : State) (n : Nat) (b : Bay) : (setBay s n b).nextRid = s.nextRid := rfl
@[simp] theorem setBay_regions (s : State) (n : Nat) (b : Bay) : (setBay s n b).regions = s.regions := rfl
@[simp] theorem setBay_shims (s : State) (n : Nat) (b : Bay) : (setBay s n b).shims = s.shims := rfl
@[simp] theorem setBay_prepared (s : State) (n : Nat) (b : Bay) : (setBay s n b).prepared = s.prepared := rfl
@[simp] theorem setBay_pins (s : State) (n : Nat) (b : Bay) : (setBay s n b).pins = s.pins := rfl
@[simp] theorem setBay_swaps (s : State) (n : Nat) (b : Bay) : (setBay s n b).swaps = s.swaps := rfl
@[simp] theorem setBay_migs (s : State) (n : Nat) (b : Bay) : (setBay s n b).migs = s.migs := rfl
@[simp] theorem setBay_ownerCache (s : State) (n : Nat) (b : Bay) : (setBay s n b).ownerCache = s.ownerCache := rfl
@[simp] theorem setBay_adoption (s : State) (n : Nat) (b : Bay) : (setBay s n b).adoption = s.adoption := rfl
@[simp] theorem setBay_predecessors (s : State) (n : Nat) (b : Bay) : (setBay s n b).predecessors = s.predecessors := rfl
@[simp] theorem setBay_sentTo (s : State) (n : Nat) (b : Bay) : (setBay s n b).sentTo = s.sentTo := rfl
@[simp] theorem setBay_notices (s : State) (n : Nat) (b : Bay) : (setBay s n b).notices = s.notices := rfl
@[simp] theorem setBay_statements (s : State) (n : Nat) (b : Bay) : (setBay s n b).statements = s.statements := rfl
@[simp] theorem setBay_stubs (s : State) (n : Nat) (b : Bay) : (setBay s n b).stubs = s.stubs := rfl
@[simp] theorem setBay_directory (s : State) (n : Nat) (b : Bay) : (setBay s n b).directory = s.directory := rfl
@[simp] theorem setBay_heldReqs (s : State) (n : Nat) (b : Bay) : (setBay s n b).heldReqs = s.heldReqs := rfl
@[simp] theorem setBay_outReqs (s : State) (n : Nat) (b : Bay) : (setBay s n b).outReqs = s.outReqs := rfl
@[simp] theorem setBay_served (s : State) (n : Nat) (b : Bay) : (setBay s n b).served = s.served := rfl
@[simp] theorem setBay_redirects (s : State) (n : Nat) (b : Bay) : (setBay s n b).redirects = s.redirects := rfl
@[simp] theorem setBay_pageSeq (s : State) (n : Nat) (b : Bay) : (setBay s n b).pageSeq = s.pageSeq := rfl
@[simp] theorem setBay_counters (s : State) (n : Nat) (b : Bay) : (setBay s n b).counters = s.counters := rfl
@[simp] theorem setBay_sealedWings (s : State) (n : Nat) (b : Bay) : (setBay s n b).sealedWings = s.sealedWings := rfl
@[simp] theorem setBay_measures (s : State) (n : Nat) (b : Bay) : (setBay s n b).measures = s.measures := rfl
@[simp] theorem setBay_pkg (s : State) (n : Nat) (b : Bay) : (setBay s n b).pkg = s.pkg := rfl
@[simp] theorem setBay_members (s : State) (n : Nat) (b : Bay) : (setBay s n b).members = s.members := rfl
@[simp] theorem setBay_rsaddr (s : State) (n : Nat) (b : Bay) : (setBay s n b).rsaddr = s.rsaddr := rfl
@[simp] theorem setBay_rslen (s : State) (n : Nat) (b : Bay) : (setBay s n b).rslen = s.rslen := rfl
@[simp] theorem setBay_rsstat (s : State) (n : Nat) (b : Bay) : (setBay s n b).rsstat = s.rsstat := rfl
@[simp] theorem setBay_rsTime (s : State) (n : Nat) (b : Bay) : (setBay s n b).rsTime = s.rsTime := rfl
@[simp] theorem setBay_errlog (s : State) (n : Nat) (b : Bay) : (setBay s n b).errlog = s.errlog := rfl
@[simp] theorem setBay_part (s : State) (n : Nat) (b : Bay) : (setBay s n b).part = s.part := rfl
@[simp] theorem setBay_heartwoodBudget (s : State) (n : Nat) (b : Bay) : (setBay s n b).heartwoodBudget = s.heartwoodBudget := rfl
@[simp] theorem setBay_budget (s : State) (n : Nat) (b : Bay) : (setBay s n b).budget = s.budget := rfl
@[simp] theorem setBay_grants (s : State) (n : Nat) (b : Bay) : (setBay s n b).grants = s.grants := rfl
@[simp] theorem setBay_demands (s : State) (n : Nat) (b : Bay) : (setBay s n b).demands = s.demands := rfl
@[simp] theorem setBay_frozen (s : State) (n : Nat) (b : Bay) : (setBay s n b).frozen = s.frozen := rfl
@[simp] theorem setBay_powered (s : State) (n : Nat) (b : Bay) : (setBay s n b).powered = s.powered := rfl
@[simp] theorem setBay_softErrors (s : State) (n : Nat) (b : Bay) : (setBay s n b).softErrors = s.softErrors := rfl
@[simp] theorem setBay_time (s : State) (n : Nat) (b : Bay) : (setBay s n b).time = s.time := rfl
@[simp] theorem setBay_cur (s : State) (n : Nat) (b : Bay) : (setBay s n b).cur = s.cur := rfl
@[simp] theorem setBay_agenda (s : State) (n : Nat) (b : Bay) : (setBay s n b).agenda = s.agenda := rfl
@[simp] theorem setBay_fresh (s : State) (n : Nat) (b : Bay) : (setBay s n b).fresh = s.fresh := rfl

/-! ### A strand whose instruction has completed -/

@[simp] theorem retired_bent (st : Strand) (pc : Word) : (retired st pc).bent = st.bent := rfl
@[simp] theorem retired_index (st : Strand) (pc : Word) : (retired st pc).index = st.index := rfl
@[simp] theorem retired_r (st : Strand) (pc : Word) : (retired st pc).r = { st.r with pc := pc } := rfl
@[simp] theorem retired_blocks (st : Strand) (pc : Word) : (retired st pc).blocks = st.blocks := rfl
@[simp] theorem retired_saveBase (st : Strand) (pc : Word) : (retired st pc).saveBase = st.saveBase := rfl
@[simp] theorem retired_saveSize (st : Strand) (pc : Word) : (retired st pc).saveSize = st.saveSize := rfl
@[simp] theorem retired_saved (st : Strand) (pc : Word) : (retired st pc).saved = st.saved := rfl
@[simp] theorem retired_shrink (st : Strand) (pc : Word) : (retired st pc).shrink = st.shrink := rfl
@[simp] theorem retired_frags (st : Strand) (pc : Word) : (retired st pc).frags = st.frags := rfl
@[simp] theorem retired_spilled (st : Strand) (pc : Word) : (retired st pc).spilled = st.spilled := rfl
@[simp] theorem retired_fibres (st : Strand) (pc : Word) : (retired st pc).fibres = st.fibres := rfl
@[simp] theorem retired_inbox (st : Strand) (pc : Word) : (retired st pc).inbox = st.inbox := rfl
@[simp] theorem retired_sending (st : Strand) (pc : Word) : (retired st pc).sending = st.sending := rfl
@[simp] theorem retired_granted (st : Strand) (pc : Word) : (retired st pc).granted = st.granted := rfl
@[simp] theorem retired_requests (st : Strand) (pc : Word) : (retired st pc).requests = st.requests := rfl
@[simp] theorem retired_prefetch (st : Strand) (pc : Word) : (retired st pc).prefetch = st.prefetch := rfl
@[simp] theorem retired_multiplies (st : Strand) (pc : Word) : (retired st pc).multiplies = st.multiplies := rfl
@[simp] theorem retired_pend (st : Strand) (pc : Word) : (retired st pc).pend = st.pend := rfl
@[simp] theorem retired_barsDone (st : Strand) (pc : Word) : (retired st pc).barsDone = st.barsDone := rfl
@[simp] theorem retired_wait (st : Strand) (pc : Word) : (retired st pc).wait = .none := rfl
@[simp] theorem retired_waited (st : Strand) (pc : Word) : (retired st pc).waited = 0 := rfl
@[simp] theorem retired_slogPending (st : Strand) (pc : Word) : (retired st pc).slogPending = st.slogPending := rfl
@[simp] theorem retired_logSeq (st : Strand) (pc : Word) : (retired st pc).logSeq = st.logSeq := rfl
@[simp] theorem retired_drains (st : Strand) (pc : Word) : (retired st pc).drains = st.drains := rfl
@[simp] theorem retired_pending (st : Strand) (pc : Word) : (retired st pc).pending = st.pending := rfl
@[simp] theorem retired_strongNow (st : Strand) (pc : Word) : (retired st pc).strongNow = st.strongNow := rfl
@[simp] theorem retired_fetchSince (st : Strand) (pc : Word) : (retired st pc).fetchSince = st.fetchSince := rfl
@[simp] theorem retired_fetchStale (st : Strand) (pc : Word) : (retired st pc).fetchStale = st.fetchStale := rfl
@[simp] theorem retired_acquiredAt (st : Strand) (pc : Word) : (retired st pc).acquiredAt = st.acquiredAt := rfl
@[simp] theorem retired_acquiredStale (st : Strand) (pc : Word) : (retired st pc).acquiredStale = st.acquiredStale := rfl
@[simp] theorem retired_inflight (st : Strand) (pc : Word) : (retired st pc).inflight = none := rfl
@[simp] theorem retired_pendingXe (st : Strand) (pc : Word) : (retired st pc).pendingXe = st.pendingXe := rfl
@[simp] theorem retired_exited (st : Strand) (pc : Word) : (retired st pc).exited = st.exited := rfl

/-! ### A scalar register written -/

@[simp] theorem regWrite_pc (r : Regs) (n : Nat) (v : Word) : (regWrite r n v).pc = r.pc := by unfold regWrite; split <;> rfl
@[simp] theorem regWrite_level (r : Regs) (n : Nat) (v : Word) : (regWrite r n v).level = r.level := by unfold regWrite; split <;> rfl
@[simp] theorem regWrite_vl (r : Regs) (n : Nat) (v : Word) : (regWrite r n v).vl = r.vl := by unfold regWrite; split <;> rfl
@[simp] theorem regWrite_vt (r : Regs) (n : Nat) (v : Word) : (regWrite r n v).vt = r.vt := by unfold regWrite; split <;> rfl
@[simp] theorem regWrite_vstart (r : Regs) (n : Nat) (v : Word) : (regWrite r n v).vstart = r.vstart := by unfold regWrite; split <;> rfl
@[simp] theorem regWrite_mst (r : Regs) (n : Nat) (v : Word) : (regWrite r n v).mst = r.mst := by unfold regWrite; split <;> rfl
@[simp] theorem regWrite_frm (r : Regs) (n : Nat) (v : Word) : (regWrite r n v).frm = r.frm := by unfold regWrite; split <;> rfl
@[simp] theorem regWrite_srseed (r : Regs) (n : Nat) (v : Word) : (regWrite r n v).srseed = r.srseed := by unfold regWrite; split <;> rfl
@[simp] theorem regWrite_jshape (r : Regs) (n : Nat) (v : Word) : (regWrite r n v).jshape = r.jshape := by unfold regWrite; split <;> rfl
@[simp] theorem regWrite_fprog (r : Regs) (n : Nat) (v : Word) : (regWrite r n v).fprog = r.fprog := by unfold regWrite; split <;> rfl
@[simp] theorem regWrite_fcap (r : Regs) (n : Nat) (v : Word) : (regWrite r n v).fcap = r.fcap := by unfold regWrite; split <;> rfl
@[simp] theorem regWrite_fst (r : Regs) (n : Nat) (v : Word) : (regWrite r n v).fst = r.fst := by unfold regWrite; split <;> rfl
@[simp] theorem regWrite_rstg (r : Regs) (n : Nat) (v : Word) : (regWrite r n v).rstg = r.rstg := by unfold regWrite; split <;> rfl
@[simp] theorem regWrite_qcnt (r : Regs) (n : Nat) (v : Word) : (regWrite r n v).qcnt = r.qcnt := by unfold regWrite; split <;> rfl
@[simp] theorem regWrite_sid (r : Regs) (n : Nat) (v : Word) : (regWrite r n v).sid = r.sid := by unfold regWrite; split <;> rfl
@[simp] theorem regWrite_bid (r : Regs) (n : Nat) (v : Word) : (regWrite r n v).bid = r.bid := by unfold regWrite; split <;> rfl
@[simp] theorem regWrite_stg (r : Regs) (n : Nat) (v : Word) : (regWrite r n v).stg = r.stg := by unfold regWrite; split <;> rfl
@[simp] theorem regWrite_rid (r : Regs) (n : Nat) (v : Word) : (regWrite r n v).rid = r.rid := by unfold regWrite; split <;> rfl
@[simp] theorem regWrite_nstr (r : Regs) (n : Nat) (v : Word) : (regWrite r n v).nstr = r.nstr := by unfold regWrite; split <;> rfl
@[simp] theorem regWrite_wto (r : Regs) (n : Nat) (v : Word) : (regWrite r n v).wto = r.wto := by unfold regWrite; split <;> rfl
@[simp] theorem regWrite_cycle (r : Regs) (n : Nat) (v : Word) : (regWrite r n v).cycle = r.cycle := by unfold regWrite; split <;> rfl
@[simp] theorem regWrite_acyc (r : Regs) (n : Nat) (v : Word) : (regWrite r n v).acyc = r.acyc := by unfold regWrite; split <;> rfl
@[simp] theorem regWrite_xpc (r : Regs) (n : Nat) (v : Word) : (regWrite r n v).xpc = r.xpc := by unfold regWrite; split <;> rfl
@[simp] theorem regWrite_xcause (r : Regs) (n : Nat) (v : Word) : (regWrite r n v).xcause = r.xcause := by unfold regWrite; split <;> rfl
@[simp] theorem regWrite_xval (r : Regs) (n : Nat) (v : Word) : (regWrite r n v).xval = r.xval := by unfold regWrite; split <;> rfl
@[simp] theorem regWrite_xstat (r : Regs) (n : Nat) (v : Word) : (regWrite r n v).xstat = r.xstat := by unfold regWrite; split <;> rfl
@[simp] theorem regWrite_xvec (r : Regs) (n : Nat) (v : Word) : (regWrite r n v).xvec = r.xvec := by unfold regWrite; split <;> rfl
@[simp] theorem regWrite_xscr (r : Regs) (n : Nat) (v : Word) : (regWrite r n v).xscr = r.xscr := by unfold regWrite; split <;> rfl
@[simp] theorem regWrite_asid (r : Regs) (n : Nat) (v : Word) : (regWrite r n v).asid = r.asid := by unfold regWrite; split <;> rfl
@[simp] theorem regWrite_ptbase (r : Regs) (n : Nat) (v : Word) : (regWrite r n v).ptbase = r.ptbase := by unfold regWrite; split <;> rfl
@[simp] theorem regWrite_slogEn (r : Regs) (n : Nat) (v : Word) : (regWrite r n v).slogEn = r.slogEn := by unfold regWrite; split <;> rfl
@[simp] theorem regWrite_slogOvf (r : Regs) (n : Nat) (v : Word) : (regWrite r n v).slogOvf = r.slogOvf := by unfold regWrite; split <;> rfl
@[simp] theorem regWrite_fmode (r : Regs) (n : Nat) (v : Word) : (regWrite r n v).fmode = r.fmode := by unfold regWrite; split <;> rfl
@[simp] theorem regWrite_fragbase (r : Regs) (n : Nat) (v : Word) : (regWrite r n v).fragbase = r.fragbase := by unfold regWrite; split <;> rfl
@[simp] theorem regWrite_watcha (r : Regs) (n : Nat) (v : Word) : (regWrite r n v).watcha = r.watcha := by unfold regWrite; split <;> rfl

end Sys2Proof.Laws
end

