-- ==== Sys2Proof/Laws/Ops.lean ====
section
/-! SUPPORT. One lemma for each shared operation that says all it can do: actions in sequence, registers, the ways an
instruction ends, traps, and convoys of one member. -/

namespace Sys2Proof.Laws

open Sys2Proof.Machine

/-! ### Actions -/

variable {α β : Type}

/-- An action that answers hands its value and state to the next one. -/
theorem bind_ok {x : M α} {f : α → M β} {s t : State} {a : α} (h : x s = .ok a t) : (x >>= f) s = f a t := by
  simp [bind, EStateM.bind, h]

/-- An action that stops stops the whole. -/
theorem bind_error {x : M α} {f : α → M β} {s t : State} {e : Stop} (h : x s = .error e t) : (x >>= f) s = .error e t := by
  simp [bind, EStateM.bind, h]

/-- When a sequence answers, both its parts do. -/
theorem bind_eq_ok {x : M α} {f : α → M β} {s u : State} {b : β} :
    (x >>= f) s = .ok b u ↔ ∃ a t, x s = .ok a t ∧ f a t = .ok b u := by
  constructor
  · intro h
    cases hx : x s with
    | ok a t => exact ⟨a, t, rfl, by rwa [bind_ok hx] at h⟩
    | error e t => rw [bind_error hx] at h; cases h
  · rintro ⟨a, t, hx, hf⟩
    rw [bind_ok hx, hf]

@[simp] theorem pure_run (a : α) (s : State) : (pure a : M α) s = .ok a s := rfl
@[simp] theorem get_run (s : State) : (get : M State) s = .ok s s := rfl
@[simp] theorem set_run (s t : State) : (set t : M PUnit) s = .ok ⟨⟩ t := rfl
@[simp] theorem modify_run (f : State → State) (s : State) : (modify f : M PUnit) s = .ok ⟨⟩ (f s) := rfl
@[simp] theorem throw_run (e : Stop) (s : State) : (throw e : M α) s = .error e s := rfl
@[simp] theorem raise_run (c : BitVec 8) (x : Word) (s : State) :
    (raise c x : M α) s = .error (.trap { cause := c, xval := x }) s := rfl
@[simp] theorem waitFor_run (w : Wait) (s : State) : (waitFor w : M α) s = .error (.wait w) s := rfl

/-- The executing strand is read without a change. -/
theorem getStrand_run {s : State} {st : Strand} (h : strandOf s = some st) : getStrand s = .ok st s := by
  simp [getStrand, bind, EStateM.bind, get, getThe, MonadStateOf.get, EStateM.get, h, pure, EStateM.pure]

/-- So are its registers. -/
theorem getRegs_run {s : State} {st : Strand} (h : strandOf s = some st) : getRegs s = .ok st.r s := by
  rw [getRegs, bind_ok (getStrand_run h)]
  rfl

/-- Reading a scalar register. -/
theorem rs_run {s : State} {st : Strand} {w : Nat} (n : BitVec w) (h : strandOf s = some st) :
    rs n s = .ok (regRead st.r n.toNat) s := by
  rw [rs, bind_ok (getRegs_run h)]
  rfl

/-- Replacing the executing strand. -/
@[simp] theorem setStrand_run (st : Strand) (s : State) : setStrand st s = .ok ⟨⟩ (putStrand s st) := rfl

/-- Changing the executing strand. -/
theorem modStrand_run {s : State} {st : Strand} (f : Strand → Strand) (h : strandOf s = some st) :
    modStrand f s = .ok ⟨⟩ (putStrand s (f st)) := by
  rw [modStrand, bind_ok (getStrand_run h)]
  rfl

/-- Writing a scalar register. -/
theorem ws_run {s : State} {st : Strand} {w : Nat} (n : BitVec w) (v : Word) (h : strandOf s = some st) :
    ws n v s = .ok ⟨⟩ (putStrand s { st with r := regWrite st.r n.toNat v }) :=
  modStrand_run _ h

/-! ### Scalar registers -/

/-- s0 reads zero (R75). -/
@[simp] theorem regRead_zero (r : Regs) : regRead r 0 = 0 := rfl

/-- A write to s0 is discarded (R75). -/
@[simp] theorem regWrite_zero (r : Regs) (v : Word) : regWrite r 0 v = r := rfl

/-- A register reads what was last written to it, and every other one as before. -/
theorem regRead_regWrite (r : Regs) {n k : Nat} (v : Word) (h : n < 64) :
    regRead (regWrite r n v) k = if k = n ∧ n ≠ 0 then v else regRead r k := by
  unfold regRead regWrite
  by_cases hn : n = 0
  · simp [hn]
  · by_cases hk : k = n
    · subst hk
      simp [hn, Vector.getD, h]
    · simp only [if_neg hn, hk, false_and, if_false, Vector.getD, Vector.toArray_setIfInBounds, Array.getD_eq_getD_getElem?]
      rw [Array.getElem?_setIfInBounds_ne (Ne.symm hk)]

/-! ### How an instruction ends -/

/-- An instruction whose body answers the next pc completes there. -/
theorem runTo_ok {body : M Word} {s t : State} {st : Strand} {pc : Word} (h : body s = .ok pc t)
    (ht : strandOf t = some st) : runTo body s = .next (putStrand t (retired st pc)) := by
  simp [runTo, h, ht]

/-- An instruction whose body stops ends as the stop says. -/
theorem runTo_error {body : M Word} {s t : State} {x : Stop} (h : body s = .error x t) : runTo body s = stopped x t := by
  simp [runTo, h]

/-- An instruction whose body answers goes on at PC + 4. -/
theorem runSeq_ok {body : M Unit} {s t : State} {st st' : Strand} (hs : strandOf s = some st) (h : body s = .ok () t)
    (ht : strandOf t = some st') : runSeq body s = .next (putStrand t (retired st' (st.r.pc + 4))) := by
  refine runTo_ok ?_ ht
  rw [bind_ok (getRegs_run hs), bind_ok h]
  rfl

/-- An instruction whose body stops ends as the stop says. -/
theorem runSeq_error {body : M Unit} {s t : State} {st : Strand} {x : Stop} (hs : strandOf s = some st)
    (h : body s = .error x t) : runSeq body s = stopped x t := by
  refine runTo_error ?_
  rw [bind_ok (getRegs_run hs), bind_error h]

/-- An event that answers leaves its state. -/
theorem runEvent_ok {body : M Unit} {s t : State} (h : body s = .ok () t) : runEvent body s = .next t := by
  simp [runEvent, h]

/-- An event without its subject stops by name. -/
theorem runEvent_fault {body : M Unit} {s t : State} {f : Fault} (h : body s = .error (.fault f) t) :
    runEvent body s = .fault f := by
  simp [runEvent, h]

/-! ### Traps (R371, R372) -/

/-- A trap that is no double trap enters the handler. -/
theorem takeTrap_entered {s : State} {st : Strand} {t : Trap} (h : strandOf s = some st)
    (hin : xstatIn st.r.xstat = false ∨ t.async = true) (hv : st.r.xvec ≠ 0) :
    takeTrap s t = putStrand (trapRecord s st t) { st with r := trapRegs st.r t, wait := .none, inflight := none } := by
  have hv' : decide (st.r.xvec = 0) = false := decide_eq_false hv
  have : ((xstatIn st.r.xstat && !t.async) || decide (st.r.xvec = 0)) = false := by
    rw [hv']
    rcases hin with hin | hin <;> simp [hin]
  simp only [takeTrap, h]
  rw [if_neg (by rw [this]; decide)]

/-- A record in the error log changes the log alone. -/
theorem logError_frame (s : State) (e : ErrRec) : ∃ l, logError s e = { s with errlog := l } := ⟨_, rfl⟩

/-- Recording a trap changes the error log alone. -/
theorem trapRecord_frame (s : State) (st : Strand) (t : Trap) : ∃ l, trapRecord s st t = { s with errlog := l } := by
  unfold trapRecord
  by_cases h1 : t.cause = causeEccuc
  · simp only [if_pos h1]
    exact logError_frame _ _
  · by_cases h2 : t.cause = causeRemote
    · simp only [if_neg h1, if_pos h2]
      exact logError_frame _ _
    · simp only [if_neg h1, if_neg h2]
      exact ⟨s.errlog, rfl⟩

/-- What trap entry does to the registers (R371). -/
theorem trapRegs_spec (r : Regs) (t : Trap) :
    (trapRegs r t).xpc = r.pc ∧ (trapRegs r t).xval = t.xval ∧ (trapRegs r t).level = .runtime ∧ (trapRegs r t).pc = r.xvec ∧
      (trapRegs r t).s = r.s ∧ (trapRegs r t).mst = r.mst ∧ (trapRegs r t).xvec = r.xvec := ⟨rfl, rfl, rfl, rfl, rfl, rfl, rfl⟩

/-- Taking a trap never changes memory. -/
@[simp] theorem takeTrap_mem (s : State) (t : Trap) : (takeTrap s t).mem = s.mem := by
  unfold takeTrap
  split
  · rfl
  · rename_i st _
    obtain ⟨l, hl⟩ := trapRecord_frame s st t
    simp only [hl]
    split <;> simp [logError, haltBent]

/-! ### Convoys of one member -/

/-- A member that passes the checks at issue, on all its groups, completes at PC + 4 with VSTART zero. -/
theorem runSolo_ok {word : Nat} {m : Member} {s t : State} {st st' : Strand} (hs : strandOf s = some st) (hb : m.bad st = false)
    (hv : st.r.vstart = 0) (hi : st.inflight = none)
    (h : performConvoy [(st.r.pc.toNat / 4 % 4, m)] 0 none s = .ok t) (ht : strandOf t = some st') :
    runSolo word m s = .next (putStrand t (retired { st' with r := { st'.r with vstart := 0 } } (st'.r.pc + 4))) := by
  have hp : 1 ≤ pipeLimit m.pipe := by cases m.pipe <;> simp [pipeLimit]
  simp only [runSolo, runConvoy, hs, convoyFault, List.filter_nil, List.length_nil, hb]
  rw [if_neg (by omega)]
  simp [okMembers, startGroup, hv, hi, h, convoyDone, ht]

/-- A member whose checks fail makes its convoy trap with ILLOP and the word in XVAL (R54, R55). -/
theorem runSolo_bad {word : Nat} {m : Member} {s : State} {st : Strand} (hs : strandOf s = some st) (hb : m.bad st = true) :
    runSolo word m s = .next (takeTrap s { cause := causeIllop, xval := memberXval word (st.r.pc.toNat / 4) }) := by
  have hp : 1 ≤ pipeLimit m.pipe := by cases m.pipe <;> simp [pipeLimit]
  simp only [runSolo, runConvoy, hs, convoyFault, List.filter_nil, List.length_nil, hb]
  rw [if_neg (by omega)]
  simp [runXval]

end Sys2Proof.Laws
end

