-- ==== Sys2Proof/Laws/Access.lean ====
section
/-! SUPPORT. What the shared accesses of a strand do where no older value can meet them, and what releases, acquires and
fences do to its pending writes. -/

namespace Sys2Proof.Laws

open Sys2Proof.Machine

/-! ### Reads -/

/-- A read of a strand with no pending write misses none (R311). -/
theorem missWrites_none {s : State} {st : Strand} (hs : strandOf s = some st) (hp : st.pending = []) (vector held : Bool)
    (ord : Nat) (keys : List Nat) (base : List Byte) : missWrites vector held ord keys base s = .ok base s := by
  rw [missWrites, bind_ok (getStrand_run hs), hp]
  rfl

/-- A read that no copy and no pooled memory serves finds what memory holds; the home and the copies of the line follow
(R188, R331). -/
theorem findBytes_home {s : State} {st : Strand} (hs : strandOf s = some st) {rq : BitVec 2} (hr : rq ≠ 2) {x : Xl}
    (hp : isPooled s x.pa = false) (bay : Nat) (keys : List Nat) :
    findBytes bay rq x keys s = .ok (keys.map (memRead s.mem))
      (refreshCopies (homeAccess s (some bay) (if rq == 3 then .uncachedRead else .cachedRead) keys) st bay false (keys.headD 0)) := by
  have h2 : (rq == 2) = false := by simpa using hr
  rw [findBytes, bind_ok (getStrand_run hs), bind_ok (get_run s)]
  simp only [h2, Bool.false_eq_true, if_false, Option.isSome_none]
  rw [bind_ok (pure_run false s)]
  simp only [Bool.false_eq_true, if_false]
  rw [bind_ok (modify_run _ s)]
  simp [hp]

/-! ### Writes -/

/-- A new write of a strand with no pending write has one place to take (R311). -/
theorem choosePlace_none {s : State} {st : Strand} (hs : strandOf s = some st) (hp : st.pending = []) (vector : Bool) (ord : Nat)
    (keys : List Nat) : choosePlace vector ord keys s = .ok ([], []) s := by
  rw [choosePlace, bind_ok (getStrand_run hs), hp]
  rfl

/-! ### Ordering -/

/-- What a change of the pending writes does: those that nothing may miss any more are forgotten. -/
theorem modPending_run {s : State} {st : Strand} (f : OldWrite → OldWrite) (hs : strandOf s = some st) :
    modPending f s = .ok ⟨⟩ (putStrand s { st with pending := stillMissed (st.pending.map f) }) :=
  modStrand_run _ hs

/-- A sequentially consistent fence leaves no write that a later load may miss (R317). -/
theorem storesBeforeLoads_run {s : State} {st : Strand} (hs : strandOf s = some st) :
    storesBeforeLoads s = .ok ⟨⟩ (putStrand s { st with pending := [] }) :=
  modStrand_run _ hs

/-- The writes of one stream are missed by the other no longer (R132). -/
theorem settleStream_run {s : State} {st : Strand} (hs : strandOf s = some st) (vector : Bool) :
    settleStream vector s = .ok ⟨⟩ (putStrand s { st with
      pending := stillMissed (st.pending.map fun w => if w.vector == vector then { w with cross := false } else w) }) :=
  modPending_run _ hs

/-- A release waits while a side log of the strand holds entries, and changes nothing then (R216). -/
theorem releaseAs_waits {s : State} {st : Strand} (hs : strandOf s = some st) (hc : slogCount st ≠ 0) (fence : Bool) (scope : Nat) :
    releaseAs fence scope s = .error (.wait .sideLog) s := by
  rw [releaseAs, bind_ok (getStrand_run hs)]
  simp only [bne_iff_ne, ne_eq, hc, not_false_iff, if_true]
  exact bind_error (waitFor_run _ s)

end Sys2Proof.Laws
end

