-- ==== Sys2Proof/Laws/Keeps.lean ====
section
/-! SUPPORT. Actions that keep a property of the state, built up as actions are: what an invariant proof cites for every
meaning instead of unfolding it. -/

namespace Sys2Proof.Laws

open Sys2Proof.Machine

variable {α β : Type} {P : State → Prop}

/-- An action leaves `P` true where it was, however it ends. -/
def Keeps (P : State → Prop) (x : M α) : Prop :=
  ∀ s, P s → match x s with
    | .ok _ t => P t
    | .error _ t => P t

theorem keeps_pure (a : α) : Keeps P (pure a : M α) := fun _ h => h
theorem keeps_get : Keeps P (get : M State) := fun _ h => h
theorem keeps_throw (e : Stop) : Keeps P (throw e : M α) := fun _ h => h
theorem keeps_raise (c : BitVec 8) (x : Word) : Keeps P (raise c x : M α) := fun _ h => h
theorem keeps_waitFor (w : Wait) : Keeps P (waitFor w : M α) := fun _ h => h
theorem keeps_noPart : Keeps P (noPart : M α) := fun _ h => h

theorem keeps_modify {f : State → State} (h : ∀ s, P s → P (f s)) : Keeps P (modify f : M PUnit) := fun s hs => h s hs

/-- Sequences keep what their parts keep. -/
theorem keeps_bind {x : M α} {f : α → M β} (hx : Keeps P x) (hf : ∀ a, Keeps P (f a)) : Keeps P (x >>= f) := by
  intro s hs
  have h := hx s hs
  cases e : x s with
  | ok a t =>
    rw [e] at h
    rw [bind_ok e]
    exact hf a t h
  | error y t =>
    rw [e] at h
    rw [bind_error e]
    exact h

/-- A sequence that starts by looking at the state, which is known to have `P`, keeps it if the rest does there. -/
theorem keeps_get_bind {f : State → M β} (hf : ∀ s, P s → ∀ t, P t → match f s t with
    | .ok _ u => P u
    | .error _ u => P u) : Keeps P (get >>= f) := by
  intro s hs
  exact hf s hs s hs

theorem keeps_ite {c : Prop} [Decidable c] {x y : M α} (hx : Keeps P x) (hy : Keeps P y) : Keeps P (if c then x else y) := by
  split
  · exact hx
  · exact hy

/-- A property that does not look at strands is kept by every action on the executing strand. -/
theorem keeps_modStrand (hp : ∀ s st, P s → P (putStrand s st)) (f : Strand → Strand) : Keeps P (modStrand f) := by
  intro s hs
  cases h : strandOf s with
  | some st => rw [modStrand_run f h]; exact hp s _ hs
  | none =>
    have : modStrand f s = .error (.fault .noStrand) s := by
      simp [modStrand, getStrand, bind, EStateM.bind, get, getThe, MonadStateOf.get, EStateM.get, h, throw, throwThe,
        MonadExceptOf.throw, EStateM.throw]
    rw [this]
    exact hs

/-- Reading the executing strand keeps every property. -/
theorem keeps_getStrand : Keeps P getStrand := by
  intro s hs
  cases h : strandOf s with
  | some st => rw [getStrand_run h]; exact hs
  | none =>
    have : getStrand s = .error (.fault .noStrand) s := by
      simp [getStrand, bind, EStateM.bind, get, getThe, MonadStateOf.get, EStateM.get, h, throw, throwThe,
        MonadExceptOf.throw, EStateM.throw]
    rw [this]
    exact hs

/-- A free value is drawn without touching what does not count them. -/
theorem keeps_freeNat (hp : ∀ s : State, P s → P { s with fresh := s.fresh + 1 }) : Keeps P freeNat := fun s hs => hp s hs

/-- An event keeps what its action keeps. -/
theorem runEvent_keeps {x : M Unit} (hx : Keeps P x) {s t : State} (hs : P s) (h : runEvent x s = .next t) : P t := by
  have hk := hx s hs
  unfold runEvent at h
  cases e : x s with
  | ok a u =>
    rw [e] at hk h
    cases h
    exact hk
  | error y u =>
    rw [e] at hk h
    cases y with
    | trap z => cases h; exact hk
    | wait w => cases h; exact hk
    | fault f => cases h

/-- An instruction keeps what its body keeps, if the property looks neither at strands, nor at the error log, nor at the
bents. -/
theorem runTo_keeps {x : M Word} (hx : Keeps P x) (hp : ∀ s st, P s → P (putStrand s st)) (ht : ∀ s t, P s → P (takeTrap s t))
    {s t : State} (hs : P s) (h : runTo x s = .next t) : P t := by
  have hk := hx s hs
  unfold runTo at h
  cases e : x s with
  | ok a u =>
    rw [e] at hk h
    simp only at h hk
    split at h
    · cases h
      exact hp _ _ hk
    · cases h
  | error y u =>
    rw [e] at hk h
    simp only at h hk
    unfold stopped at h
    cases y with
    | trap z => cases h; exact ht _ _ hk
    | wait w =>
      simp only at h
      split at h
      · cases h
        exact hp _ _ hk
      · cases h
    | fault f => cases h

end Sys2Proof.Laws
end

