-- ==== Sys2Proof/Laws/Words.lean ====
section
/-! SUPPORT. Words put together from fields that do not meet: each field reads back, every other bit is the base word's. -/

namespace Sys2Proof.Laws

/-- Two bit fields, each a lowest bit and a length, do not meet. -/
def apart (x y : Nat × Nat) : Bool := (x.1 + x.2).ble y.1 || (y.1 + y.2).ble x.1

/-- The fields of a layout are zero in the base word, lie below bit 32 and do not meet. -/
def layoutOk (base : Nat) : List (Nat × Nat) → Bool
  | [] => true
  | f :: t => (f.1 + f.2).ble 32 && (base / 2 ^ f.1 % 2 ^ f.2).beq 0 && t.all (fun g => apart f g) && layoutOk base t

/-- A field meets none of a layout's. -/
def free (x : Nat × Nat) (fs : List (Nat × Nat)) : Bool := fs.all fun f => apart f x

/-- Values fit the fields of a layout. -/
def Fits : List (Nat × Nat) → List Nat → Prop
  | f :: t, v :: u => v < 2 ^ f.2 ∧ Fits t u
  | [], [] => True
  | _, _ => False

/-- A word holds values in the fields of a layout. -/
def Holds (w : Nat) : List (Nat × Nat) → List Nat → Prop
  | f :: t, v :: u => bits w f.1 f.2 = v ∧ Holds w t u
  | [], [] => True
  | _, _ => False

/-- The word of values in a layout. -/
def wordOn (base : Nat) (fs : List (Nat × Nat)) (vs : List Nat) : Nat := wordWith base (vs.zip (fs.map (·.1)))

/-- A value put into a field that is zero reads back. -/
theorem bits_put {b lo n v : Nat} (hz : b / 2 ^ lo % 2 ^ n = 0) (hv : v < 2 ^ n) : bits (b + v * 2 ^ lo) lo n = v := by
  rw [bits, Nat.add_mul_div_right _ _ (Nat.two_pow_pos lo), Nat.add_mod, hz, Nat.zero_add, Nat.mod_mod, Nat.mod_eq_of_lt hv]

/-- It leaves the bits below it. -/
theorem bits_put_below {b lo n v lo' n' : Nat} (_ : v < 2 ^ n) (h : lo' + n' ≤ lo) : bits (b + v * 2 ^ lo) lo' n' = bits b lo' n' := by
  obtain ⟨k, rfl⟩ := Nat.le.dest h
  rw [bits, bits, Nat.pow_add, Nat.pow_add, Nat.mul_assoc, Nat.mul_comm (2 ^ lo'), ← Nat.mul_assoc,
    Nat.add_mul_div_right _ _ (Nat.two_pow_pos lo'), Nat.mul_comm (2 ^ n'), ← Nat.mul_assoc, Nat.add_mul_mod_self_right]

/-- What lies above a field that is zero does not change when the field is filled. -/
theorem div_put_above {b lo n v : Nat} (hz : b / 2 ^ lo % 2 ^ n = 0) (hv : v < 2 ^ n) :
    (b + v * 2 ^ lo) / 2 ^ (lo + n) = b / 2 ^ (lo + n) := by
  rw [Nat.pow_add, ← Nat.div_div_eq_div_mul, ← Nat.div_div_eq_div_mul, Nat.add_mul_div_right _ _ (Nat.two_pow_pos lo)]
  obtain ⟨q, hq⟩ := Nat.dvd_of_mod_eq_zero hz
  rw [hq, Nat.mul_comm, Nat.add_comm, Nat.add_mul_div_right _ _ (Nat.two_pow_pos n), Nat.div_eq_of_lt hv,
    Nat.mul_div_cancel _ (Nat.two_pow_pos n), Nat.zero_add]

/-- Filling a field that is zero leaves every field that does not meet it. -/
theorem bits_put_apart {b lo n v lo' n' : Nat} (hz : b / 2 ^ lo % 2 ^ n = 0) (hv : v < 2 ^ n)
    (h : apart (lo, n) (lo', n') = true) : bits (b + v * 2 ^ lo) lo' n' = bits b lo' n' := by
  simp only [apart, Bool.or_eq_true, Nat.ble_eq] at h
  rcases h with h | h
  · obtain ⟨k, rfl⟩ := Nat.le.dest h
    rw [bits, bits, Nat.pow_add, ← Nat.div_div_eq_div_mul, ← Nat.div_div_eq_div_mul, div_put_above hz hv]
  · exact bits_put_below hv h

/-- Filling a field below bit 32 keeps the word below 2^32. -/
theorem put_lt {b lo n v : Nat} (hb : b < 2 ^ 32) (hn : lo + n ≤ 32) (hz : b / 2 ^ lo % 2 ^ n = 0) (hv : v < 2 ^ n) :
    b + v * 2 ^ lo < 2 ^ 32 := by
  obtain ⟨k, hk⟩ := Nat.le.dest hn
  have h2 : (2 : Nat) ^ 32 = 2 ^ k * 2 ^ (lo + n) := by rw [← Nat.pow_add, Nat.add_comm, hk]
  rw [h2, ← Nat.div_lt_iff_lt_mul (Nat.two_pow_pos _)] at hb ⊢
  rwa [div_put_above hz hv]

/-- Filling a field leaves a layout that does not meet it well laid out. -/
theorem layoutOk_put {b lo n v : Nat} (hz : b / 2 ^ lo % 2 ^ n = 0) (hv : v < 2 ^ n) : ∀ {fs : List (Nat × Nat)},
    fs.all (fun g => apart (lo, n) g) = true → layoutOk b fs = true → layoutOk (b + v * 2 ^ lo) fs = true
  | [], _, _ => rfl
  | f :: t, ha, h => by
    simp only [List.all_cons, Bool.and_eq_true] at ha
    simp only [layoutOk, Bool.and_eq_true, Nat.ble_eq, Nat.beq_eq] at h ⊢
    refine ⟨⟨⟨h.1.1.1, ?_⟩, h.1.2⟩, layoutOk_put hz hv ha.2 h.2⟩
    have := bits_put_apart hz hv ha.1
    simp only [bits] at this
    rw [this]
    exact h.1.1.2

/-- A word put together from a layout: below 2^32, its fields read back, and every field that meets none of them is the base
word's. -/
theorem word_layout : ∀ (fs : List (Nat × Nat)) (vs : List Nat) (base : Nat), base < 2 ^ 32 → layoutOk base fs = true →
    Fits fs vs → wordOn base fs vs < 2 ^ 32 ∧ Holds (wordOn base fs vs) fs vs ∧
      ∀ lo n, free (lo, n) fs = true → bits (wordOn base fs vs) lo n = bits base lo n
  | [], [], _, hb, _, _ => ⟨hb, trivial, fun _ _ _ => rfl⟩
  | f :: t, v :: u, base, hb, hl, hf => by
    simp only [layoutOk, Bool.and_eq_true, Nat.ble_eq, Nat.beq_eq] at hl
    have ih := word_layout t u _ (put_lt hb hl.1.1.1 hl.1.1.2 hf.1) (layoutOk_put hl.1.1.2 hf.1 hl.1.2 hl.2) hf.2
    have e : wordOn base (f :: t) (v :: u) = wordOn (base + v * 2 ^ f.1) t u := rfl
    rw [e]
    refine ⟨ih.1, ⟨?_, ih.2.1⟩, fun lo n h => ?_⟩
    · rw [ih.2.2 f.1 f.2 ?_, bits_put hl.1.1.2 hf.1]
      have h := hl.1.2
      simp only [free, List.all_eq_true, apart, Bool.or_eq_true, Nat.ble_eq] at h ⊢
      exact fun g hg => (h g hg).symm
    · simp only [free, List.all_cons, Bool.and_eq_true] at h
      rw [ih.2.2 lo n h.2, bits_put_apart hl.1.1.2 hf.1 h.1]

/-- A field of a word as a bit vector. -/
theorem fieldAt_of_bits {n : Nat} {w lo : Nat} {x : BitVec n} (h : bits w lo n = x.toNat) : (fieldAt w lo : BitVec n) = x := by
  apply BitVec.eq_of_toNat_eq
  simpa [fieldAt, bits] using h

/-- The major of a word. -/
theorem mod_of_bits {w k : Nat} (h : bits w 0 7 = k) : w % 128 = k := by
  simpa [bits] using h

/-- A word with a field other than that of zero is not zero, and so for any word. -/
theorem ne_of_bits {w k lo n x : Nat} (h : bits w lo n = k) (hx : bits x lo n ≠ k) : w ≠ x := by
  rintro rfl
  exact hx h

/-- A word that passes every check decodes to the instruction of its major and function (R54). -/
theorem decodes {w : Nat} {i : Instr} {zs : List (Nat × Nat)} (z : w ≠ 0) (o : w ≠ 0xFFFFFFFF) (hz : zeroFieldsOf w = .ok zs)
    (ha : allZero w zs = true) (hl : lateZeroOk w = true) (hr : wordReserved w = false) (hi : instrOf w = some i) :
    decodeWord w = .ok i := by
  simp [decodeWord, wordReject, z, o, hz, ha, hl, hr, hi]

end Sys2Proof.Laws
end

