-- ==== Sys2Proof/Laws/PerInstr.lean ====
section
/-! SUPPORT. The round trip of every instruction: the word of a well-formed one decodes to it, with every operand (R29 to R54). -/

namespace Sys2Proof.Laws

/-! ### What decoding reads of a word, by its major -/

theorem major_01 {w : Nat} (m : w % 128 = 1) : zeroFieldsOf w = zerosSop (bits w 25 7) ∧ lateZeroOk w = true ∧
    wordReserved w = false ∧ instrOf w = instrSop w := by
  unfold zeroFieldsOf lateZeroOk wordReserved instrOf
  rw [m]
  exact ⟨rfl, rfl, rfl, rfl⟩
theorem major_02 {w : Nat} (m : w % 128 = 2) : zeroFieldsOf w = .ok [] ∧ lateZeroOk w = true ∧
    wordReserved w = false ∧ instrOf w = some (.addi (fieldAt w 19) (fieldAt w 13) (fieldAt w 7)) := by
  unfold zeroFieldsOf lateZeroOk wordReserved instrOf
  rw [m]
  exact ⟨rfl, rfl, rfl, rfl⟩
theorem major_03 {w : Nat} (m : w % 128 = 3) : zeroFieldsOf w = .ok [] ∧ lateZeroOk w = true ∧
    wordReserved w = false ∧ instrOf w = some (.andi (fieldAt w 19) (fieldAt w 13) (fieldAt w 7)) := by
  unfold zeroFieldsOf lateZeroOk wordReserved instrOf
  rw [m]
  exact ⟨rfl, rfl, rfl, rfl⟩
theorem major_04 {w : Nat} (m : w % 128 = 4) : zeroFieldsOf w = .ok [] ∧ lateZeroOk w = true ∧
    wordReserved w = false ∧ instrOf w = some (.ori (fieldAt w 19) (fieldAt w 13) (fieldAt w 7)) := by
  unfold zeroFieldsOf lateZeroOk wordReserved instrOf
  rw [m]
  exact ⟨rfl, rfl, rfl, rfl⟩
theorem major_05 {w : Nat} (m : w % 128 = 5) : zeroFieldsOf w = .ok [] ∧ lateZeroOk w = true ∧
    wordReserved w = false ∧ instrOf w = some (.xori (fieldAt w 19) (fieldAt w 13) (fieldAt w 7)) := by
  unfold zeroFieldsOf lateZeroOk wordReserved instrOf
  rw [m]
  exact ⟨rfl, rfl, rfl, rfl⟩
theorem major_06 {w : Nat} (m : w % 128 = 6) : zeroFieldsOf w = .ok [] ∧ lateZeroOk w = true ∧
    wordReserved w = false ∧ instrOf w = some (.slti (fieldAt w 19) (fieldAt w 13) (fieldAt w 7)) := by
  unfold zeroFieldsOf lateZeroOk wordReserved instrOf
  rw [m]
  exact ⟨rfl, rfl, rfl, rfl⟩
theorem major_07 {w : Nat} (m : w % 128 = 7) : zeroFieldsOf w = .ok [] ∧ lateZeroOk w = true ∧
    wordReserved w = false ∧ instrOf w = some (.sltiu (fieldAt w 19) (fieldAt w 13) (fieldAt w 7)) := by
  unfold zeroFieldsOf lateZeroOk wordReserved instrOf
  rw [m]
  exact ⟨rfl, rfl, rfl, rfl⟩
theorem major_08 {w : Nat} (m : w % 128 = 8) : zeroFieldsOf w = zerosShi (bits w 25 2) ∧ lateZeroOk w = true ∧
    wordReserved w = false ∧ instrOf w = instrShi w := by
  unfold zeroFieldsOf lateZeroOk wordReserved instrOf
  rw [m]
  exact ⟨rfl, rfl, rfl, rfl⟩
theorem major_09 {w : Nat} (m : w % 128 = 9) : zeroFieldsOf w = .ok [] ∧ lateZeroOk w = true ∧
    wordReserved w = false ∧ instrOf w = some (.lui (fieldAt w 13) (fieldAt w 7)) := by
  unfold zeroFieldsOf lateZeroOk wordReserved instrOf
  rw [m]
  exact ⟨rfl, rfl, rfl, rfl⟩
theorem major_0A {w : Nat} (m : w % 128 = 10) : zeroFieldsOf w = .ok [] ∧ lateZeroOk w = true ∧
    wordReserved w = false ∧ instrOf w = some (.auipc (fieldAt w 13) (fieldAt w 7)) := by
  unfold zeroFieldsOf lateZeroOk wordReserved instrOf
  rw [m]
  exact ⟨rfl, rfl, rfl, rfl⟩
theorem major_0B {w : Nat} (m : w % 128 = 11) : zeroFieldsOf w = .ok [] ∧ lateZeroOk w = true ∧
    wordReserved w = false ∧ instrOf w = some (.beq (fieldAt w 19) (fieldAt w 13) (fieldAt w 7)) := by
  unfold zeroFieldsOf lateZeroOk wordReserved instrOf
  rw [m]
  exact ⟨rfl, rfl, rfl, rfl⟩
theorem major_0C {w : Nat} (m : w % 128 = 12) : zeroFieldsOf w = .ok [] ∧ lateZeroOk w = true ∧
    wordReserved w = false ∧ instrOf w = some (.bne (fieldAt w 19) (fieldAt w 13) (fieldAt w 7)) := by
  unfold zeroFieldsOf lateZeroOk wordReserved instrOf
  rw [m]
  exact ⟨rfl, rfl, rfl, rfl⟩
theorem major_0D {w : Nat} (m : w % 128 = 13) : zeroFieldsOf w = .ok [] ∧ lateZeroOk w = true ∧
    wordReserved w = false ∧ instrOf w = some (.blt (fieldAt w 19) (fieldAt w 13) (fieldAt w 7)) := by
  unfold zeroFieldsOf lateZeroOk wordReserved instrOf
  rw [m]
  exact ⟨rfl, rfl, rfl, rfl⟩
theorem major_0E {w : Nat} (m : w % 128 = 14) : zeroFieldsOf w = .ok [] ∧ lateZeroOk w = true ∧
    wordReserved w = false ∧ instrOf w = some (.bge (fieldAt w 19) (fieldAt w 13) (fieldAt w 7)) := by
  unfold zeroFieldsOf lateZeroOk wordReserved instrOf
  rw [m]
  exact ⟨rfl, rfl, rfl, rfl⟩
theorem major_0F {w : Nat} (m : w % 128 = 15) : zeroFieldsOf w = .ok [] ∧ lateZeroOk w = true ∧
    wordReserved w = false ∧ instrOf w = some (.bltu (fieldAt w 19) (fieldAt w 13) (fieldAt w 7)) := by
  unfold zeroFieldsOf lateZeroOk wordReserved instrOf
  rw [m]
  exact ⟨rfl, rfl, rfl, rfl⟩
theorem major_10 {w : Nat} (m : w % 128 = 16) : zeroFieldsOf w = .ok [] ∧ lateZeroOk w = true ∧
    wordReserved w = false ∧ instrOf w = some (.bgeu (fieldAt w 19) (fieldAt w 13) (fieldAt w 7)) := by
  unfold zeroFieldsOf lateZeroOk wordReserved instrOf
  rw [m]
  exact ⟨rfl, rfl, rfl, rfl⟩
theorem major_11 {w : Nat} (m : w % 128 = 17) : zeroFieldsOf w = .ok [] ∧ lateZeroOk w = true ∧
    wordReserved w = false ∧ instrOf w = some (.jal (fieldAt w 13) (fieldAt w 7)) := by
  unfold zeroFieldsOf lateZeroOk wordReserved instrOf
  rw [m]
  exact ⟨rfl, rfl, rfl, rfl⟩
theorem major_12 {w : Nat} (m : w % 128 = 18) : zeroFieldsOf w = .ok [] ∧ lateZeroOk w = true ∧
    wordReserved w = false ∧ instrOf w = some (.jalr (fieldAt w 19) (fieldAt w 13) (fieldAt w 7)) := by
  unfold zeroFieldsOf lateZeroOk wordReserved instrOf
  rw [m]
  exact ⟨rfl, rfl, rfl, rfl⟩
theorem major_13 {w : Nat} (m : w % 128 = 19) : zeroFieldsOf w = .ok [(7, 6)] ∧ lateZeroOk w = true ∧
    wordReserved w = false ∧ instrOf w = some (.jt (fieldAt w 25) (fieldAt w 19) (fieldAt w 13)) := by
  unfold zeroFieldsOf lateZeroOk wordReserved instrOf
  rw [m]
  exact ⟨rfl, rfl, rfl, rfl⟩
theorem major_14 {w : Nat} (m : w % 128 = 20) : zeroFieldsOf w = .ok [] ∧ lateZeroOk w = true ∧
    wordReserved w = false ∧ instrOf w = some (.ldb (fieldAt w 30) (fieldAt w 19) (fieldAt w 13) (fieldAt w 7)) := by
  unfold zeroFieldsOf lateZeroOk wordReserved instrOf
  rw [m]
  exact ⟨rfl, rfl, rfl, rfl⟩
theorem major_15 {w : Nat} (m : w % 128 = 21) : zeroFieldsOf w = .ok [] ∧ lateZeroOk w = true ∧
    wordReserved w = false ∧ instrOf w = some (.ldh (fieldAt w 30) (fieldAt w 19) (fieldAt w 13) (fieldAt w 7)) := by
  unfold zeroFieldsOf lateZeroOk wordReserved instrOf
  rw [m]
  exact ⟨rfl, rfl, rfl, rfl⟩
theorem major_16 {w : Nat} (m : w % 128 = 22) : zeroFieldsOf w = .ok [] ∧ lateZeroOk w = true ∧
    wordReserved w = false ∧ instrOf w = some (.ldw (fieldAt w 30) (fieldAt w 19) (fieldAt w 13) (fieldAt w 7)) := by
  unfold zeroFieldsOf lateZeroOk wordReserved instrOf
  rw [m]
  exact ⟨rfl, rfl, rfl, rfl⟩
theorem major_17 {w : Nat} (m : w % 128 = 23) : zeroFieldsOf w = .ok [] ∧ lateZeroOk w = true ∧
    wordReserved w = false ∧ instrOf w = some (.ldd (fieldAt w 30) (fieldAt w 19) (fieldAt w 13) (fieldAt w 7)) := by
  unfold zeroFieldsOf lateZeroOk wordReserved instrOf
  rw [m]
  exact ⟨rfl, rfl, rfl, rfl⟩
theorem major_18 {w : Nat} (m : w % 128 = 24) : zeroFieldsOf w = .ok [] ∧ lateZeroOk w = true ∧
    wordReserved w = false ∧ instrOf w = some (.ldbu (fieldAt w 30) (fieldAt w 19) (fieldAt w 13) (fieldAt w 7)) := by
  unfold zeroFieldsOf lateZeroOk wordReserved instrOf
  rw [m]
  exact ⟨rfl, rfl, rfl, rfl⟩
theorem major_19 {w : Nat} (m : w % 128 = 25) : zeroFieldsOf w = .ok [] ∧ lateZeroOk w = true ∧
    wordReserved w = false ∧ instrOf w = some (.ldhu (fieldAt w 30) (fieldAt w 19) (fieldAt w 13) (fieldAt w 7)) := by
  unfold zeroFieldsOf lateZeroOk wordReserved instrOf
  rw [m]
  exact ⟨rfl, rfl, rfl, rfl⟩
theorem major_1A {w : Nat} (m : w % 128 = 26) : zeroFieldsOf w = .ok [] ∧ lateZeroOk w = true ∧
    wordReserved w = false ∧ instrOf w = some (.ldwu (fieldAt w 30) (fieldAt w 19) (fieldAt w 13) (fieldAt w 7)) := by
  unfold zeroFieldsOf lateZeroOk wordReserved instrOf
  rw [m]
  exact ⟨rfl, rfl, rfl, rfl⟩
theorem major_1B {w : Nat} (m : w % 128 = 27) : zeroFieldsOf w = .ok [] ∧ lateZeroOk w = true ∧
    wordReserved w = false ∧ instrOf w = some (.stb (fieldAt w 30) (fieldAt w 19) (fieldAt w 13) (fieldAt w 7)) := by
  unfold zeroFieldsOf lateZeroOk wordReserved instrOf
  rw [m]
  exact ⟨rfl, rfl, rfl, rfl⟩
theorem major_1C {w : Nat} (m : w % 128 = 28) : zeroFieldsOf w = .ok [] ∧ lateZeroOk w = true ∧
    wordReserved w = false ∧ instrOf w = some (.sth (fieldAt w 30) (fieldAt w 19) (fieldAt w 13) (fieldAt w 7)) := by
  unfold zeroFieldsOf lateZeroOk wordReserved instrOf
  rw [m]
  exact ⟨rfl, rfl, rfl, rfl⟩
theorem major_1D {w : Nat} (m : w % 128 = 29) : zeroFieldsOf w = .ok [] ∧ lateZeroOk w = true ∧
    wordReserved w = false ∧ instrOf w = some (.stw (fieldAt w 30) (fieldAt w 19) (fieldAt w 13) (fieldAt w 7)) := by
  unfold zeroFieldsOf lateZeroOk wordReserved instrOf
  rw [m]
  exact ⟨rfl, rfl, rfl, rfl⟩
theorem major_1E {w : Nat} (m : w % 128 = 30) : zeroFieldsOf w = .ok [] ∧ lateZeroOk w = true ∧
    wordReserved w = false ∧ instrOf w = some (.std (fieldAt w 30) (fieldAt w 19) (fieldAt w 13) (fieldAt w 7)) := by
  unfold zeroFieldsOf lateZeroOk wordReserved instrOf
  rw [m]
  exact ⟨rfl, rfl, rfl, rfl⟩
theorem major_1F {w : Nat} (m : w % 128 = 31) : zeroFieldsOf w = zerosFop (bits w 25 7) ∧ lateZeroOk w = true ∧
    wordReserved w = false ∧ instrOf w = instrFop w := by
  unfold zeroFieldsOf lateZeroOk wordReserved instrOf
  rw [m]
  exact ⟨rfl, rfl, rfl, rfl⟩
theorem major_20 {w : Nat} (m : w % 128 = 32) : zeroFieldsOf w = zerosFmad (bits w 31 1) ∧ lateZeroOk w = true ∧
    wordReserved w = false ∧ instrOf w = instrFmad w := by
  unfold zeroFieldsOf lateZeroOk wordReserved instrOf
  rw [m]
  exact ⟨rfl, rfl, rfl, rfl⟩
theorem major_21 {w : Nat} (m : w % 128 = 33) : zeroFieldsOf w = zerosFmas (bits w 31 1) ∧ lateZeroOk w = true ∧
    wordReserved w = false ∧ instrOf w = instrFmas w := by
  unfold zeroFieldsOf lateZeroOk wordReserved instrOf
  rw [m]
  exact ⟨rfl, rfl, rfl, rfl⟩
theorem major_22 {w : Nat} (m : w % 128 = 34) : zeroFieldsOf w = zerosCsr (bits w 30 2) ∧ lateZeroOk w = true ∧
    wordReserved w = false ∧ instrOf w = instrCsr w := by
  unfold zeroFieldsOf lateZeroOk wordReserved instrOf
  rw [m]
  exact ⟨rfl, rfl, rfl, rfl⟩
theorem major_23 {w : Nat} (m : w % 128 = 35) : zeroFieldsOf w = zerosSys (bits w 25 7) ∧ lateZeroOk w = true ∧
    wordReserved w = false ∧ instrOf w = instrSys w := by
  unfold zeroFieldsOf lateZeroOk wordReserved instrOf
  rw [m]
  exact ⟨rfl, rfl, rfl, rfl⟩
theorem major_30 {w : Nat} (m : w % 128 = 48) : zeroFieldsOf w = .ok [] ∧ lateZeroOk w = true ∧
    wordReserved w = false ∧ instrOf w = some (.setvl (fieldAt w 19) (fieldAt w 13) (fieldAt w 7)) := by
  unfold zeroFieldsOf lateZeroOk wordReserved instrOf
  rw [m]
  exact ⟨rfl, rfl, rfl, rfl⟩
theorem major_31 {w : Nat} (m : w % 128 = 49) : zeroFieldsOf w = .ok [(25, 7)] ∧ lateZeroOk w = true ∧
    wordReserved w = false ∧ instrOf w = some (.setvlr (fieldAt w 19) (fieldAt w 13) (fieldAt w 7)) := by
  unfold zeroFieldsOf lateZeroOk wordReserved instrOf
  rw [m]
  exact ⟨rfl, rfl, rfl, rfl⟩
theorem major_32 {w : Nat} (m : w % 128 = 50) : zeroFieldsOf w = zerosVint (bits w 25 7) ∧ lateZeroOk w = true ∧
    wordReserved w = false ∧ instrOf w = instrVint w := by
  unfold zeroFieldsOf lateZeroOk wordReserved instrOf
  rw [m]
  exact ⟨rfl, rfl, rfl, rfl⟩
theorem major_33 {w : Nat} (m : w % 128 = 51) : zeroFieldsOf w = zerosVintx (bits w 25 7) ∧ lateZeroOk w = true ∧
    wordReserved w = false ∧ instrOf w = instrVintx w := by
  unfold zeroFieldsOf lateZeroOk wordReserved instrOf
  rw [m]
  exact ⟨rfl, rfl, rfl, rfl⟩
theorem major_34 {w : Nat} (m : w % 128 = 52) : zeroFieldsOf w = zerosVinti (bits w 25 7) ∧ lateZeroOk w = true ∧
    wordReserved w = false ∧ instrOf w = instrVinti w := by
  unfold zeroFieldsOf lateZeroOk wordReserved instrOf
  rw [m]
  exact ⟨rfl, rfl, rfl, rfl⟩
theorem major_35 {w : Nat} (m : w % 128 = 53) : zeroFieldsOf w = zerosVcmp (bits w 25 7) ∧ lateZeroOk w = true ∧
    wordReserved w = false ∧ instrOf w = instrVcmp w := by
  unfold zeroFieldsOf lateZeroOk wordReserved instrOf
  rw [m]
  exact ⟨rfl, rfl, rfl, rfl⟩
theorem major_36 {w : Nat} (m : w % 128 = 54) : zeroFieldsOf w = zerosVmove (bits w 25 7) ∧ lateZeroOk w = true ∧
    wordReserved w = (bits w 25 7 == 4 && bits w 22 3 == 0 : Bool) ∧ instrOf w = instrVmove w := by
  unfold zeroFieldsOf lateZeroOk wordReserved instrOf
  rw [m]
  exact ⟨rfl, rfl, rfl, rfl⟩
theorem major_37 {w : Nat} (m : w % 128 = 55) : zeroFieldsOf w = zerosVperm (bits w 25 7) ∧ lateZeroOk w = true ∧
    wordReserved w = false ∧ instrOf w = instrVperm w := by
  unfold zeroFieldsOf lateZeroOk wordReserved instrOf
  rw [m]
  exact ⟨rfl, rfl, rfl, rfl⟩
theorem major_38 {w : Nat} (m : w % 128 = 56) : zeroFieldsOf w = zerosVred (bits w 25 7) ∧ lateZeroOk w = true ∧
    wordReserved w = false ∧ instrOf w = instrVred w := by
  unfold zeroFieldsOf lateZeroOk wordReserved instrOf
  rw [m]
  exact ⟨rfl, rfl, rfl, rfl⟩
theorem major_3A {w : Nat} (m : w % 128 = 58) : zeroFieldsOf w = zerosMask (bits w 25 7) ∧ lateZeroOk w = true ∧
    wordReserved w = false ∧ instrOf w = instrMask w := by
  unfold zeroFieldsOf lateZeroOk wordReserved instrOf
  rw [m]
  exact ⟨rfl, rfl, rfl, rfl⟩
theorem major_3B {w : Nat} (m : w % 128 = 59) : zeroFieldsOf w = .ok [] ∧ lateZeroOk w = true ∧
    wordReserved w = false ∧ instrOf w = some (.vsplit (fieldAt w 10) (fieldAt w 7)) := by
  unfold zeroFieldsOf lateZeroOk wordReserved instrOf
  rw [m]
  exact ⟨rfl, rfl, rfl, rfl⟩
theorem major_3C {w : Nat} (m : w % 128 = 60) : zeroFieldsOf w = .ok [(7, 25)] ∧ lateZeroOk w = true ∧
    wordReserved w = false ∧ instrOf w = some .vjoin := by
  unfold zeroFieldsOf lateZeroOk wordReserved instrOf
  rw [m]
  exact ⟨rfl, rfl, rfl, rfl⟩
theorem major_3D {w : Nat} (m : w % 128 = 61) : zeroFieldsOf w = .ok [] ∧ lateZeroOk w = true ∧
    wordReserved w = false ∧ instrOf w = some (.vbnone (fieldAt w 10) (fieldAt w 7)) := by
  unfold zeroFieldsOf lateZeroOk wordReserved instrOf
  rw [m]
  exact ⟨rfl, rfl, rfl, rfl⟩
theorem major_3E {w : Nat} (m : w % 128 = 62) : zeroFieldsOf w = .ok [(28, 4)] ∧ lateZeroOk w = true ∧
    wordReserved w = false ∧ instrOf w = some (.repf (fieldAt w 25) (fieldAt w 20) (fieldAt w 17) (fieldAt w 11) (fieldAt w 7)) := by
  unfold zeroFieldsOf lateZeroOk wordReserved instrOf
  rw [m]
  exact ⟨rfl, rfl, rfl, rfl⟩
theorem major_40 {w : Nat} (m : w % 128 = 64) : zeroFieldsOf w = zerosVfp (bits w 25 7) ∧ lateZeroOk w = true ∧
    wordReserved w = false ∧ instrOf w = instrVfp w := by
  unfold zeroFieldsOf lateZeroOk wordReserved instrOf
  rw [m]
  exact ⟨rfl, rfl, rfl, rfl⟩
theorem major_41 {w : Nat} (m : w % 128 = 65) : zeroFieldsOf w = zerosVfpx (bits w 25 7) ∧ lateZeroOk w = true ∧
    wordReserved w = false ∧ instrOf w = instrVfpx w := by
  unfold zeroFieldsOf lateZeroOk wordReserved instrOf
  rw [m]
  exact ⟨rfl, rfl, rfl, rfl⟩
theorem major_42 {w : Nat} (m : w % 128 = 66) : zeroFieldsOf w = zerosVfma (bits w 30 2) ∧ lateZeroOk w = true ∧
    wordReserved w = false ∧ instrOf w = instrVfma w := by
  unfold zeroFieldsOf lateZeroOk wordReserved instrOf
  rw [m]
  exact ⟨rfl, rfl, rfl, rfl⟩
theorem major_43 {w : Nat} (m : w % 128 = 67) : zeroFieldsOf w = zerosVfcmp (bits w 25 7) ∧ lateZeroOk w = true ∧
    wordReserved w = false ∧ instrOf w = instrVfcmp w := by
  unfold zeroFieldsOf lateZeroOk wordReserved instrOf
  rw [m]
  exact ⟨rfl, rfl, rfl, rfl⟩
theorem major_44 {w : Nat} (m : w % 128 = 68) : zeroFieldsOf w = .ok [] ∧ lateZeroOk w = true ∧
    wordReserved w = (bits w 25 3 == 7 || !Instr.convertible (fieldAt w 28) (fieldAt w 17) (fieldAt w 21) (fieldAt w 25) : Bool) ∧ instrOf w = some (.vcvt (fieldAt w 28) (fieldAt w 25) (fieldAt w 22) (fieldAt w 21) (fieldAt w 17) (fieldAt w 12) (fieldAt w 7)) := by
  unfold zeroFieldsOf lateZeroOk wordReserved instrOf
  rw [m]
  exact ⟨rfl, rfl, rfl, rfl⟩
theorem major_45 {w : Nat} (m : w % 128 = 69) : zeroFieldsOf w = zerosVqnt (bits w 25 7) ∧ lateZeroOk w = true ∧
    wordReserved w = false ∧ instrOf w = instrVqnt w := by
  unfold zeroFieldsOf lateZeroOk wordReserved instrOf
  rw [m]
  exact ⟨rfl, rfl, rfl, rfl⟩
theorem major_50 {w : Nat} (m : w % 128 = 80) : zeroFieldsOf w = .ok [] ∧ lateZeroOk w = (unitFieldZero w) ∧
    wordReserved w = false ∧ instrOf w = some (.vld (fieldAt w 31) (fieldAt w 29) (fieldAt w 26) (fieldAt w 23) (fieldAt w 18) (fieldAt w 12) (fieldAt w 7)) := by
  unfold zeroFieldsOf lateZeroOk wordReserved instrOf
  rw [m]
  exact ⟨rfl, rfl, rfl, rfl⟩
theorem major_51 {w : Nat} (m : w % 128 = 81) : zeroFieldsOf w = .ok [] ∧ lateZeroOk w = (unitFieldZero w) ∧
    wordReserved w = false ∧ instrOf w = some (.vst (fieldAt w 31) (fieldAt w 29) (fieldAt w 26) (fieldAt w 23) (fieldAt w 18) (fieldAt w 12) (fieldAt w 7)) := by
  unfold zeroFieldsOf lateZeroOk wordReserved instrOf
  rw [m]
  exact ⟨rfl, rfl, rfl, rfl⟩
theorem major_52 {w : Nat} (m : w % 128 = 82) : zeroFieldsOf w = .ok [] ∧ lateZeroOk w = true ∧
    wordReserved w = (Instr.subByteCode (fieldAt w 26) : Bool) ∧ instrOf w = some (.vlds (fieldAt w 31) (fieldAt w 29) (fieldAt w 26) (fieldAt w 23) (fieldAt w 18) (fieldAt w 12) (fieldAt w 7)) := by
  unfold zeroFieldsOf lateZeroOk wordReserved instrOf
  rw [m]
  exact ⟨rfl, rfl, rfl, rfl⟩
theorem major_53 {w : Nat} (m : w % 128 = 83) : zeroFieldsOf w = .ok [] ∧ lateZeroOk w = true ∧
    wordReserved w = (Instr.subByteCode (fieldAt w 26) : Bool) ∧ instrOf w = some (.vsts (fieldAt w 31) (fieldAt w 29) (fieldAt w 26) (fieldAt w 23) (fieldAt w 18) (fieldAt w 12) (fieldAt w 7)) := by
  unfold zeroFieldsOf lateZeroOk wordReserved instrOf
  rw [m]
  exact ⟨rfl, rfl, rfl, rfl⟩
theorem major_54 {w : Nat} (m : w % 128 = 84) : zeroFieldsOf w = .ok [] ∧ lateZeroOk w = true ∧
    wordReserved w = (Instr.subByteCode (fieldAt w 26) : Bool) ∧ instrOf w = some (.vldx (fieldAt w 31) (fieldAt w 29) (fieldAt w 26) (fieldAt w 23) (fieldAt w 18) (fieldAt w 12) (fieldAt w 7)) := by
  unfold zeroFieldsOf lateZeroOk wordReserved instrOf
  rw [m]
  exact ⟨rfl, rfl, rfl, rfl⟩
theorem major_55 {w : Nat} (m : w % 128 = 85) : zeroFieldsOf w = .ok [] ∧ lateZeroOk w = true ∧
    wordReserved w = (Instr.subByteCode (fieldAt w 26) : Bool) ∧ instrOf w = some (.vstx (fieldAt w 31) (fieldAt w 29) (fieldAt w 26) (fieldAt w 23) (fieldAt w 18) (fieldAt w 12) (fieldAt w 7)) := by
  unfold zeroFieldsOf lateZeroOk wordReserved instrOf
  rw [m]
  exact ⟨rfl, rfl, rfl, rfl⟩
theorem major_56 {w : Nat} (m : w % 128 = 86) : zeroFieldsOf w = .ok [] ∧ lateZeroOk w = true ∧
    wordReserved w = (Instr.subByteCode (fieldAt w 26) || 7 < bits w 18 5 : Bool) ∧ instrOf w = some (.vlseg (fieldAt w 31) (fieldAt w 29) (fieldAt w 26) (fieldAt w 23) (fieldAt w 18) (fieldAt w 12) (fieldAt w 7)) := by
  unfold zeroFieldsOf lateZeroOk wordReserved instrOf
  rw [m]
  exact ⟨rfl, rfl, rfl, rfl⟩
theorem major_57 {w : Nat} (m : w % 128 = 87) : zeroFieldsOf w = .ok [] ∧ lateZeroOk w = true ∧
    wordReserved w = (Instr.subByteCode (fieldAt w 26) || 7 < bits w 18 5 : Bool) ∧ instrOf w = some (.vsseg (fieldAt w 31) (fieldAt w 29) (fieldAt w 26) (fieldAt w 23) (fieldAt w 18) (fieldAt w 12) (fieldAt w 7)) := by
  unfold zeroFieldsOf lateZeroOk wordReserved instrOf
  rw [m]
  exact ⟨rfl, rfl, rfl, rfl⟩
theorem major_58 {w : Nat} (m : w % 128 = 88) : zeroFieldsOf w = .ok [(31, 1)] ∧ lateZeroOk w = true ∧
    wordReserved w = (Instr.subByteCode (fieldAt w 26) || bits w 29 2 != 0 : Bool) ∧ instrOf w = some (.lsld (fieldAt w 26) (fieldAt w 23) (fieldAt w 18) (fieldAt w 12) (fieldAt w 7)) := by
  unfold zeroFieldsOf lateZeroOk wordReserved instrOf
  rw [m]
  exact ⟨rfl, rfl, rfl, rfl⟩
theorem major_59 {w : Nat} (m : w % 128 = 89) : zeroFieldsOf w = .ok [(31, 1)] ∧ lateZeroOk w = true ∧
    wordReserved w = (Instr.subByteCode (fieldAt w 26) || bits w 29 2 != 0 : Bool) ∧ instrOf w = some (.lsst (fieldAt w 26) (fieldAt w 23) (fieldAt w 18) (fieldAt w 12) (fieldAt w 7)) := by
  unfold zeroFieldsOf lateZeroOk wordReserved instrOf
  rw [m]
  exact ⟨rfl, rfl, rfl, rfl⟩
theorem major_5A {w : Nat} (m : w % 128 = 90) : zeroFieldsOf w = .ok [(31, 1), (18, 5), (23, 3)] ∧ lateZeroOk w = true ∧
    wordReserved w = (bits w 26 3 != 7 || bits w 29 2 != 0 : Bool) ∧ instrOf w = some (.vspl (fieldAt w 12) (fieldAt w 7)) := by
  unfold zeroFieldsOf lateZeroOk wordReserved instrOf
  rw [m]
  exact ⟨rfl, rfl, rfl, rfl⟩
theorem major_5B {w : Nat} (m : w % 128 = 91) : zeroFieldsOf w = .ok [(31, 1), (18, 5), (23, 3)] ∧ lateZeroOk w = true ∧
    wordReserved w = (bits w 26 3 != 7 || bits w 29 2 != 0 : Bool) ∧ instrOf w = some (.vfil (fieldAt w 12) (fieldAt w 7)) := by
  unfold zeroFieldsOf lateZeroOk wordReserved instrOf
  rw [m]
  exact ⟨rfl, rfl, rfl, rfl⟩
theorem major_5C {w : Nat} (m : w % 128 = 92) : zeroFieldsOf w = zerosCache (bits w 25 7) ∧ lateZeroOk w = true ∧
    wordReserved w = false ∧ instrOf w = instrCache w := by
  unfold zeroFieldsOf lateZeroOk wordReserved instrOf
  rw [m]
  exact ⟨rfl, rfl, rfl, rfl⟩
theorem major_5D {w : Nat} (m : w % 128 = 93) : zeroFieldsOf w = .ok [(31, 1)] ∧ lateZeroOk w = true ∧
    wordReserved w = (bits w 26 3 != 2 || bits w 29 2 != 0 : Bool) ∧ instrOf w = some (.ldtol (fieldAt w 23) (fieldAt w 18) (fieldAt w 12) (fieldAt w 7)) := by
  unfold zeroFieldsOf lateZeroOk wordReserved instrOf
  rw [m]
  exact ⟨rfl, rfl, rfl, rfl⟩
theorem major_5E {w : Nat} (m : w % 128 = 94) : zeroFieldsOf w = .ok [(31, 1), (18, 5)] ∧ lateZeroOk w = true ∧
    wordReserved w = (Instr.subByteCode (fieldAt w 26) : Bool) ∧ instrOf w = some (.qappend (fieldAt w 29) (fieldAt w 26) (fieldAt w 23) (fieldAt w 12) (fieldAt w 7)) := by
  unfold zeroFieldsOf lateZeroOk wordReserved instrOf
  rw [m]
  exact ⟨rfl, rfl, rfl, rfl⟩
theorem major_60 {w : Nat} (m : w % 128 = 96) : zeroFieldsOf w = zerosFib (bits w 22 5) ∧ lateZeroOk w = true ∧
    wordReserved w = (fibreOverlap w : Bool) ∧ instrOf w = instrFib w := by
  unfold zeroFieldsOf lateZeroOk wordReserved instrOf
  rw [m]
  exact ⟨rfl, rfl, rfl, rfl⟩
theorem major_61 {w : Nat} (m : w % 128 = 97) : zeroFieldsOf w = zerosFpref (bits w 22 5) ∧ lateZeroOk w = true ∧
    wordReserved w = (61 < bits w 16 6 : Bool) ∧ instrOf w = instrFpref w := by
  unfold zeroFieldsOf lateZeroOk wordReserved instrOf
  rw [m]
  exact ⟨rfl, rfl, rfl, rfl⟩
theorem major_62 {w : Nat} (m : w % 128 = 98) : zeroFieldsOf w = zerosFmsg (bits w 22 5) ∧ lateZeroOk w = true ∧
    wordReserved w = (bits w 22 5 == 1 && bits w 7 3 == bits w 10 3 : Bool) ∧ instrOf w = instrFmsg w := by
  unfold zeroFieldsOf lateZeroOk wordReserved instrOf
  rw [m]
  exact ⟨rfl, rfl, rfl, rfl⟩
theorem major_68 {w : Nat} (m : w % 128 = 104) : zeroFieldsOf w = zerosJclm (bits w 11 1) ∧ lateZeroOk w = true ∧
    wordReserved w = false ∧ instrOf w = instrJclm w := by
  unfold zeroFieldsOf lateZeroOk wordReserved instrOf
  rw [m]
  exact ⟨rfl, rfl, rfl, rfl⟩
theorem major_69 {w : Nat} (m : w % 128 = 105) : zeroFieldsOf w = .ok [(11, 21)] ∧ lateZeroOk w = true ∧
    wordReserved w = false ∧ instrOf w = some (.jrel (fieldAt w 7)) := by
  unfold zeroFieldsOf lateZeroOk wordReserved instrOf
  rw [m]
  exact ⟨rfl, rfl, rfl, rfl⟩
theorem major_6A {w : Nat} (m : w % 128 = 106) : zeroFieldsOf w = .ok [(28, 4)] ∧ lateZeroOk w = (bits w 27 1 == 1 || bits w 22 5 == 0) ∧
    wordReserved w = false ∧ instrOf w = some (.jld (fieldAt w 27) (fieldAt w 22) (fieldAt w 16) (fieldAt w 11) (fieldAt w 7)) := by
  unfold zeroFieldsOf lateZeroOk wordReserved instrOf
  rw [m]
  exact ⟨rfl, rfl, rfl, rfl⟩
theorem major_6B {w : Nat} (m : w % 128 = 107) : zeroFieldsOf w = zerosJfil (bits w 27 1) ∧ lateZeroOk w = true ∧
    wordReserved w = (60 < bits w 16 6 : Bool) ∧ instrOf w = instrJfil w := by
  unfold zeroFieldsOf lateZeroOk wordReserved instrOf
  rw [m]
  exact ⟨rfl, rfl, rfl, rfl⟩
theorem major_6C {w : Nat} (m : w % 128 = 108) : zeroFieldsOf w = .ok [(17, 4), (24, 8)] ∧ lateZeroOk w = true ∧
    wordReserved w = (bits w 21 2 == 3 : Bool) ∧ instrOf w = some (.tmma (fieldAt w 23) (fieldAt w 21) (fieldAt w 13) (fieldAt w 9) (fieldAt w 7)) := by
  unfold zeroFieldsOf lateZeroOk wordReserved instrOf
  rw [m]
  exact ⟨rfl, rfl, rfl, rfl⟩
theorem major_6D {w : Nat} (m : w % 128 = 109) : zeroFieldsOf w = .ok [(24, 8)] ∧ lateZeroOk w = true ∧
    wordReserved w = (bits w 21 2 == 3 : Bool) ∧ instrOf w = some (.tmms (fieldAt w 23) (fieldAt w 21) (fieldAt w 17) (fieldAt w 13) (fieldAt w 9) (fieldAt w 7)) := by
  unfold zeroFieldsOf lateZeroOk wordReserved instrOf
  rw [m]
  exact ⟨rfl, rfl, rfl, rfl⟩
theorem major_6E {w : Nat} (m : w % 128 = 110) : zeroFieldsOf w = .ok [(17, 4), (24, 8)] ∧ lateZeroOk w = true ∧
    wordReserved w = (bits w 21 2 != 2 : Bool) ∧ instrOf w = some (.ttrn (fieldAt w 23) (fieldAt w 21) (fieldAt w 13) (fieldAt w 9) (fieldAt w 7)) := by
  unfold zeroFieldsOf lateZeroOk wordReserved instrOf
  rw [m]
  exact ⟨rfl, rfl, rfl, rfl⟩
theorem major_6F {w : Nat} (m : w % 128 = 111) : zeroFieldsOf w = .ok [(9, 2), (22, 10)] ∧ lateZeroOk w = true ∧
    wordReserved w = false ∧ instrOf w = some (.tmov (fieldAt w 16) (fieldAt w 11) (fieldAt w 7)) := by
  unfold zeroFieldsOf lateZeroOk wordReserved instrOf
  rw [m]
  exact ⟨rfl, rfl, rfl, rfl⟩
theorem major_70 {w : Nat} (m : w % 128 = 112) : zeroFieldsOf w = zerosTctl (bits w 25 7) ∧ lateZeroOk w = true ∧
    wordReserved w = (bits w 25 7 == 2 && bits w 13 2 != 0 : Bool) ∧ instrOf w = instrTctl w := by
  unfold zeroFieldsOf lateZeroOk wordReserved instrOf
  rw [m]
  exact ⟨rfl, rfl, rfl, rfl⟩
theorem major_74 {w : Nat} (m : w % 128 = 116) : zeroFieldsOf w = zerosAmo (bits w 25 4) ∧ lateZeroOk w = true ∧
    wordReserved w = false ∧ instrOf w = instrAmo w := by
  unfold zeroFieldsOf lateZeroOk wordReserved instrOf
  rw [m]
  exact ⟨rfl, rfl, rfl, rfl⟩
theorem major_75 {w : Nat} (m : w % 128 = 117) : zeroFieldsOf w = zerosVamo (bits w 26 4) ∧ lateZeroOk w = true ∧
    wordReserved w = false ∧ instrOf w = instrVamo w := by
  unfold zeroFieldsOf lateZeroOk wordReserved instrOf
  rw [m]
  exact ⟨rfl, rfl, rfl, rfl⟩
theorem major_77 {w : Nat} (m : w % 128 = 119) : zeroFieldsOf w = zerosSlkadd (bits w 26 4) ∧ lateZeroOk w = true ∧
    wordReserved w = false ∧ instrOf w = instrSlkadd w := by
  unfold zeroFieldsOf lateZeroOk wordReserved instrOf
  rw [m]
  exact ⟨rfl, rfl, rfl, rfl⟩
theorem major_78 {w : Nat} (m : w % 128 = 120) : zeroFieldsOf w = zerosSlkctl (bits w 25 7) ∧ lateZeroOk w = true ∧
    wordReserved w = false ∧ instrOf w = instrSlkctl w := by
  unfold zeroFieldsOf lateZeroOk wordReserved instrOf
  rw [m]
  exact ⟨rfl, rfl, rfl, rfl⟩
theorem major_7A {w : Nat} (m : w % 128 = 122) : zeroFieldsOf w = zerosFence (bits w 10 3) ∧ lateZeroOk w = true ∧
    wordReserved w = (if bits w 10 3 == 4 || bits w 10 3 == 5 then bits w 7 3 != 0 else 5 < bits w 7 3 : Bool) ∧ instrOf w = instrFence w := by
  unfold zeroFieldsOf lateZeroOk wordReserved instrOf
  rw [m]
  exact ⟨rfl, rfl, rfl, rfl⟩
theorem major_7B {w : Nat} (m : w % 128 = 123) : zeroFieldsOf w = .ok [(29, 3)] ∧ lateZeroOk w = true ∧
    wordReserved w = (5 < bits w 25 3 : Bool) ∧ instrOf w = some (.waita (fieldAt w 28) (fieldAt w 25) (fieldAt w 19) (fieldAt w 13) (fieldAt w 7)) := by
  unfold zeroFieldsOf lateZeroOk wordReserved instrOf
  rw [m]
  exact ⟨rfl, rfl, rfl, rfl⟩
theorem major_7C {w : Nat} (m : w % 128 = 124) : zeroFieldsOf w = zerosBar (bits w 25 2) ∧ lateZeroOk w = true ∧
    wordReserved w = false ∧ instrOf w = instrBar w := by
  unfold zeroFieldsOf lateZeroOk wordReserved instrOf
  rw [m]
  exact ⟨rfl, rfl, rfl, rfl⟩
theorem major_7D {w : Nat} (m : w % 128 = 125) : zeroFieldsOf w = zerosXe (bits w 25 7) ∧ lateZeroOk w = true ∧
    wordReserved w = false ∧ instrOf w = instrXe w := by
  unfold zeroFieldsOf lateZeroOk wordReserved instrOf
  rw [m]
  exact ⟨rfl, rfl, rfl, rfl⟩
theorem major_7E {w : Nat} (m : w % 128 = 126) : zeroFieldsOf w = zerosWork (bits w 25 7) ∧ lateZeroOk w = true ∧
    wordReserved w = false ∧ instrOf w = instrWork w := by
  unfold zeroFieldsOf lateZeroOk wordReserved instrOf
  rw [m]
  exact ⟨rfl, rfl, rfl, rfl⟩
theorem major_7F {w : Nat} (m : w % 128 = 127) : zeroFieldsOf w = zerosPriv (bits w 25 7) ∧ lateZeroOk w = true ∧
    wordReserved w = false ∧ instrOf w = instrPriv w := by
  unfold zeroFieldsOf lateZeroOk wordReserved instrOf
  rw [m]
  exact ⟨rfl, rfl, rfl, rfl⟩

namespace RoundTrip

/-- The word of a well-formed instruction has 32 bits and decodes to it. -/
def Statement (i : Instr) : Prop := i.wellFormed = true → ∀ w, encodeWord i = some w → w < 2 ^ 32 ∧ decodeWord w = .ok i

/-! ### One lemma for each constructor -/

theorem add (b a d : BitVec 6) : Statement (.add b a d) := by
  intro _ wd hEnc
  have L := word_layout [(19, 6), (13, 6), (7, 6)] [b.toNat, a.toNat, d.toNat] 0x00000001 (by decide) (by decide) ⟨b.isLt, a.isLt, d.isLt, trivial⟩
  rw [show wordOn 0x00000001 [(19, 6), (13, 6), (7, 6)] [b.toNat, a.toNat, d.toNat] = wd from Option.some.inj hEnc] at L
  obtain ⟨lt, ⟨he0, he1, he2, -⟩, keep⟩ := L
  have hk := keep 0 7 (by decide)
  obtain ⟨hz, hl, hr, hi⟩ := major_01 (mod_of_bits hk)
  have hf := keep 25 7 (by decide)
  refine ⟨lt, decodes (zs := []) (ne_of_bits hk (by decide)) (ne_of_bits hk (by decide)) ?_ ?_ ?_ ?_ ?_⟩
  · rw [hz, hf]; rfl
  · exact rfl
  · exact hl
  · exact hr
  · rw [hi, instrSop, hf]
    show some _ = _
    rw [fieldAt_of_bits he0, fieldAt_of_bits he1, fieldAt_of_bits he2]

theorem sub (b a d : BitVec 6) : Statement (.sub b a d) := by
  intro _ wd hEnc
  have L := word_layout [(19, 6), (13, 6), (7, 6)] [b.toNat, a.toNat, d.toNat] 0x02000001 (by decide) (by decide) ⟨b.isLt, a.isLt, d.isLt, trivial⟩
  rw [show wordOn 0x02000001 [(19, 6), (13, 6), (7, 6)] [b.toNat, a.toNat, d.toNat] = wd from Option.some.inj hEnc] at L
  obtain ⟨lt, ⟨he0, he1, he2, -⟩, keep⟩ := L
  have hk := keep 0 7 (by decide)
  obtain ⟨hz, hl, hr, hi⟩ := major_01 (mod_of_bits hk)
  have hf := keep 25 7 (by decide)
  refine ⟨lt, decodes (zs := []) (ne_of_bits hk (by decide)) (ne_of_bits hk (by decide)) ?_ ?_ ?_ ?_ ?_⟩
  · rw [hz, hf]; rfl
  · exact rfl
  · exact hl
  · exact hr
  · rw [hi, instrSop, hf]
    show some _ = _
    rw [fieldAt_of_bits he0, fieldAt_of_bits he1, fieldAt_of_bits he2]

theorem and (b a d : BitVec 6) : Statement (.and b a d) := by
  intro _ wd hEnc
  have L := word_layout [(19, 6), (13, 6), (7, 6)] [b.toNat, a.toNat, d.toNat] 0x04000001 (by decide) (by decide) ⟨b.isLt, a.isLt, d.isLt, trivial⟩
  rw [show wordOn 0x04000001 [(19, 6), (13, 6), (7, 6)] [b.toNat, a.toNat, d.toNat] = wd from Option.some.inj hEnc] at L
  obtain ⟨lt, ⟨he0, he1, he2, -⟩, keep⟩ := L
  have hk := keep 0 7 (by decide)
  obtain ⟨hz, hl, hr, hi⟩ := major_01 (mod_of_bits hk)
  have hf := keep 25 7 (by decide)
  refine ⟨lt, decodes (zs := []) (ne_of_bits hk (by decide)) (ne_of_bits hk (by decide)) ?_ ?_ ?_ ?_ ?_⟩
  · rw [hz, hf]; rfl
  · exact rfl
  · exact hl
  · exact hr
  · rw [hi, instrSop, hf]
    show some _ = _
    rw [fieldAt_of_bits he0, fieldAt_of_bits he1, fieldAt_of_bits he2]

theorem or (b a d : BitVec 6) : Statement (.or b a d) := by
  intro _ wd hEnc
  have L := word_layout [(19, 6), (13, 6), (7, 6)] [b.toNat, a.toNat, d.toNat] 0x06000001 (by decide) (by decide) ⟨b.isLt, a.isLt, d.isLt, trivial⟩
  rw [show wordOn 0x06000001 [(19, 6), (13, 6), (7, 6)] [b.toNat, a.toNat, d.toNat] = wd from Option.some.inj hEnc] at L
  obtain ⟨lt, ⟨he0, he1, he2, -⟩, keep⟩ := L
  have hk := keep 0 7 (by decide)
  obtain ⟨hz, hl, hr, hi⟩ := major_01 (mod_of_bits hk)
  have hf := keep 25 7 (by decide)
  refine ⟨lt, decodes (zs := []) (ne_of_bits hk (by decide)) (ne_of_bits hk (by decide)) ?_ ?_ ?_ ?_ ?_⟩
  · rw [hz, hf]; rfl
  · exact rfl
  · exact hl
  · exact hr
  · rw [hi, instrSop, hf]
    show some _ = _
    rw [fieldAt_of_bits he0, fieldAt_of_bits he1, fieldAt_of_bits he2]

theorem xor (b a d : BitVec 6) : Statement (.xor b a d) := by
  intro _ wd hEnc
  have L := word_layout [(19, 6), (13, 6), (7, 6)] [b.toNat, a.toNat, d.toNat] 0x08000001 (by decide) (by decide) ⟨b.isLt, a.isLt, d.isLt, trivial⟩
  rw [show wordOn 0x08000001 [(19, 6), (13, 6), (7, 6)] [b.toNat, a.toNat, d.toNat] = wd from Option.some.inj hEnc] at L
  obtain ⟨lt, ⟨he0, he1, he2, -⟩, keep⟩ := L
  have hk := keep 0 7 (by decide)
  obtain ⟨hz, hl, hr, hi⟩ := major_01 (mod_of_bits hk)
  have hf := keep 25 7 (by decide)
  refine ⟨lt, decodes (zs := []) (ne_of_bits hk (by decide)) (ne_of_bits hk (by decide)) ?_ ?_ ?_ ?_ ?_⟩
  · rw [hz, hf]; rfl
  · exact rfl
  · exact hl
  · exact hr
  · rw [hi, instrSop, hf]
    show some _ = _
    rw [fieldAt_of_bits he0, fieldAt_of_bits he1, fieldAt_of_bits he2]

theorem sll (b a d : BitVec 6) : Statement (.sll b a d) := by
  intro _ wd hEnc
  have L := word_layout [(19, 6), (13, 6), (7, 6)] [b.toNat, a.toNat, d.toNat] 0x0A000001 (by decide) (by decide) ⟨b.isLt, a.isLt, d.isLt, trivial⟩
  rw [show wordOn 0x0A000001 [(19, 6), (13, 6), (7, 6)] [b.toNat, a.toNat, d.toNat] = wd from Option.some.inj hEnc] at L
  obtain ⟨lt, ⟨he0, he1, he2, -⟩, keep⟩ := L
  have hk := keep 0 7 (by decide)
  obtain ⟨hz, hl, hr, hi⟩ := major_01 (mod_of_bits hk)
  have hf := keep 25 7 (by decide)
  refine ⟨lt, decodes (zs := []) (ne_of_bits hk (by decide)) (ne_of_bits hk (by decide)) ?_ ?_ ?_ ?_ ?_⟩
  · rw [hz, hf]; rfl
  · exact rfl
  · exact hl
  · exact hr
  · rw [hi, instrSop, hf]
    show some _ = _
    rw [fieldAt_of_bits he0, fieldAt_of_bits he1, fieldAt_of_bits he2]

theorem srl (b a d : BitVec 6) : Statement (.srl b a d) := by
  intro _ wd hEnc
  have L := word_layout [(19, 6), (13, 6), (7, 6)] [b.toNat, a.toNat, d.toNat] 0x0C000001 (by decide) (by decide) ⟨b.isLt, a.isLt, d.isLt, trivial⟩
  rw [show wordOn 0x0C000001 [(19, 6), (13, 6), (7, 6)] [b.toNat, a.toNat, d.toNat] = wd from Option.some.inj hEnc] at L
  obtain ⟨lt, ⟨he0, he1, he2, -⟩, keep⟩ := L
  have hk := keep 0 7 (by decide)
  obtain ⟨hz, hl, hr, hi⟩ := major_01 (mod_of_bits hk)
  have hf := keep 25 7 (by decide)
  refine ⟨lt, decodes (zs := []) (ne_of_bits hk (by decide)) (ne_of_bits hk (by decide)) ?_ ?_ ?_ ?_ ?_⟩
  · rw [hz, hf]; rfl
  · exact rfl
  · exact hl
  · exact hr
  · rw [hi, instrSop, hf]
    show some _ = _
    rw [fieldAt_of_bits he0, fieldAt_of_bits he1, fieldAt_of_bits he2]

theorem sra (b a d : BitVec 6) : Statement (.sra b a d) := by
  intro _ wd hEnc
  have L := word_layout [(19, 6), (13, 6), (7, 6)] [b.toNat, a.toNat, d.toNat] 0x0E000001 (by decide) (by decide) ⟨b.isLt, a.isLt, d.isLt, trivial⟩
  rw [show wordOn 0x0E000001 [(19, 6), (13, 6), (7, 6)] [b.toNat, a.toNat, d.toNat] = wd from Option.some.inj hEnc] at L
  obtain ⟨lt, ⟨he0, he1, he2, -⟩, keep⟩ := L
  have hk := keep 0 7 (by decide)
  obtain ⟨hz, hl, hr, hi⟩ := major_01 (mod_of_bits hk)
  have hf := keep 25 7 (by decide)
  refine ⟨lt, decodes (zs := []) (ne_of_bits hk (by decide)) (ne_of_bits hk (by decide)) ?_ ?_ ?_ ?_ ?_⟩
  · rw [hz, hf]; rfl
  · exact rfl
  · exact hl
  · exact hr
  · rw [hi, instrSop, hf]
    show some _ = _
    rw [fieldAt_of_bits he0, fieldAt_of_bits he1, fieldAt_of_bits he2]

theorem slt (b a d : BitVec 6) : Statement (.slt b a d) := by
  intro _ wd hEnc
  have L := word_layout [(19, 6), (13, 6), (7, 6)] [b.toNat, a.toNat, d.toNat] 0x10000001 (by decide) (by decide) ⟨b.isLt, a.isLt, d.isLt, trivial⟩
  rw [show wordOn 0x10000001 [(19, 6), (13, 6), (7, 6)] [b.toNat, a.toNat, d.toNat] = wd from Option.some.inj hEnc] at L
  obtain ⟨lt, ⟨he0, he1, he2, -⟩, keep⟩ := L
  have hk := keep 0 7 (by decide)
  obtain ⟨hz, hl, hr, hi⟩ := major_01 (mod_of_bits hk)
  have hf := keep 25 7 (by decide)
  refine ⟨lt, decodes (zs := []) (ne_of_bits hk (by decide)) (ne_of_bits hk (by decide)) ?_ ?_ ?_ ?_ ?_⟩
  · rw [hz, hf]; rfl
  · exact rfl
  · exact hl
  · exact hr
  · rw [hi, instrSop, hf]
    show some _ = _
    rw [fieldAt_of_bits he0, fieldAt_of_bits he1, fieldAt_of_bits he2]

theorem sltu (b a d : BitVec 6) : Statement (.sltu b a d) := by
  intro _ wd hEnc
  have L := word_layout [(19, 6), (13, 6), (7, 6)] [b.toNat, a.toNat, d.toNat] 0x12000001 (by decide) (by decide) ⟨b.isLt, a.isLt, d.isLt, trivial⟩
  rw [show wordOn 0x12000001 [(19, 6), (13, 6), (7, 6)] [b.toNat, a.toNat, d.toNat] = wd from Option.some.inj hEnc] at L
  obtain ⟨lt, ⟨he0, he1, he2, -⟩, keep⟩ := L
  have hk := keep 0 7 (by decide)
  obtain ⟨hz, hl, hr, hi⟩ := major_01 (mod_of_bits hk)
  have hf := keep 25 7 (by decide)
  refine ⟨lt, decodes (zs := []) (ne_of_bits hk (by decide)) (ne_of_bits hk (by decide)) ?_ ?_ ?_ ?_ ?_⟩
  · rw [hz, hf]; rfl
  · exact rfl
  · exact hl
  · exact hr
  · rw [hi, instrSop, hf]
    show some _ = _
    rw [fieldAt_of_bits he0, fieldAt_of_bits he1, fieldAt_of_bits he2]

theorem min (b a d : BitVec 6) : Statement (.min b a d) := by
  intro _ wd hEnc
  have L := word_layout [(19, 6), (13, 6), (7, 6)] [b.toNat, a.toNat, d.toNat] 0x14000001 (by decide) (by decide) ⟨b.isLt, a.isLt, d.isLt, trivial⟩
  rw [show wordOn 0x14000001 [(19, 6), (13, 6), (7, 6)] [b.toNat, a.toNat, d.toNat] = wd from Option.some.inj hEnc] at L
  obtain ⟨lt, ⟨he0, he1, he2, -⟩, keep⟩ := L
  have hk := keep 0 7 (by decide)
  obtain ⟨hz, hl, hr, hi⟩ := major_01 (mod_of_bits hk)
  have hf := keep 25 7 (by decide)
  refine ⟨lt, decodes (zs := []) (ne_of_bits hk (by decide)) (ne_of_bits hk (by decide)) ?_ ?_ ?_ ?_ ?_⟩
  · rw [hz, hf]; rfl
  · exact rfl
  · exact hl
  · exact hr
  · rw [hi, instrSop, hf]
    show some _ = _
    rw [fieldAt_of_bits he0, fieldAt_of_bits he1, fieldAt_of_bits he2]

theorem max (b a d : BitVec 6) : Statement (.max b a d) := by
  intro _ wd hEnc
  have L := word_layout [(19, 6), (13, 6), (7, 6)] [b.toNat, a.toNat, d.toNat] 0x16000001 (by decide) (by decide) ⟨b.isLt, a.isLt, d.isLt, trivial⟩
  rw [show wordOn 0x16000001 [(19, 6), (13, 6), (7, 6)] [b.toNat, a.toNat, d.toNat] = wd from Option.some.inj hEnc] at L
  obtain ⟨lt, ⟨he0, he1, he2, -⟩, keep⟩ := L
  have hk := keep 0 7 (by decide)
  obtain ⟨hz, hl, hr, hi⟩ := major_01 (mod_of_bits hk)
  have hf := keep 25 7 (by decide)
  refine ⟨lt, decodes (zs := []) (ne_of_bits hk (by decide)) (ne_of_bits hk (by decide)) ?_ ?_ ?_ ?_ ?_⟩
  · rw [hz, hf]; rfl
  · exact rfl
  · exact hl
  · exact hr
  · rw [hi, instrSop, hf]
    show some _ = _
    rw [fieldAt_of_bits he0, fieldAt_of_bits he1, fieldAt_of_bits he2]

theorem minu (b a d : BitVec 6) : Statement (.minu b a d) := by
  intro _ wd hEnc
  have L := word_layout [(19, 6), (13, 6), (7, 6)] [b.toNat, a.toNat, d.toNat] 0x18000001 (by decide) (by decide) ⟨b.isLt, a.isLt, d.isLt, trivial⟩
  rw [show wordOn 0x18000001 [(19, 6), (13, 6), (7, 6)] [b.toNat, a.toNat, d.toNat] = wd from Option.some.inj hEnc] at L
  obtain ⟨lt, ⟨he0, he1, he2, -⟩, keep⟩ := L
  have hk := keep 0 7 (by decide)
  obtain ⟨hz, hl, hr, hi⟩ := major_01 (mod_of_bits hk)
  have hf := keep 25 7 (by decide)
  refine ⟨lt, decodes (zs := []) (ne_of_bits hk (by decide)) (ne_of_bits hk (by decide)) ?_ ?_ ?_ ?_ ?_⟩
  · rw [hz, hf]; rfl
  · exact rfl
  · exact hl
  · exact hr
  · rw [hi, instrSop, hf]
    show some _ = _
    rw [fieldAt_of_bits he0, fieldAt_of_bits he1, fieldAt_of_bits he2]

theorem maxu (b a d : BitVec 6) : Statement (.maxu b a d) := by
  intro _ wd hEnc
  have L := word_layout [(19, 6), (13, 6), (7, 6)] [b.toNat, a.toNat, d.toNat] 0x1A000001 (by decide) (by decide) ⟨b.isLt, a.isLt, d.isLt, trivial⟩
  rw [show wordOn 0x1A000001 [(19, 6), (13, 6), (7, 6)] [b.toNat, a.toNat, d.toNat] = wd from Option.some.inj hEnc] at L
  obtain ⟨lt, ⟨he0, he1, he2, -⟩, keep⟩ := L
  have hk := keep 0 7 (by decide)
  obtain ⟨hz, hl, hr, hi⟩ := major_01 (mod_of_bits hk)
  have hf := keep 25 7 (by decide)
  refine ⟨lt, decodes (zs := []) (ne_of_bits hk (by decide)) (ne_of_bits hk (by decide)) ?_ ?_ ?_ ?_ ?_⟩
  · rw [hz, hf]; rfl
  · exact rfl
  · exact hl
  · exact hr
  · rw [hi, instrSop, hf]
    show some _ = _
    rw [fieldAt_of_bits he0, fieldAt_of_bits he1, fieldAt_of_bits he2]

theorem mul (b a d : BitVec 6) : Statement (.mul b a d) := by
  intro _ wd hEnc
  have L := word_layout [(19, 6), (13, 6), (7, 6)] [b.toNat, a.toNat, d.toNat] 0x1C000001 (by decide) (by decide) ⟨b.isLt, a.isLt, d.isLt, trivial⟩
  rw [show wordOn 0x1C000001 [(19, 6), (13, 6), (7, 6)] [b.toNat, a.toNat, d.toNat] = wd from Option.some.inj hEnc] at L
  obtain ⟨lt, ⟨he0, he1, he2, -⟩, keep⟩ := L
  have hk := keep 0 7 (by decide)
  obtain ⟨hz, hl, hr, hi⟩ := major_01 (mod_of_bits hk)
  have hf := keep 25 7 (by decide)
  refine ⟨lt, decodes (zs := []) (ne_of_bits hk (by decide)) (ne_of_bits hk (by decide)) ?_ ?_ ?_ ?_ ?_⟩
  · rw [hz, hf]; rfl
  · exact rfl
  · exact hl
  · exact hr
  · rw [hi, instrSop, hf]
    show some _ = _
    rw [fieldAt_of_bits he0, fieldAt_of_bits he1, fieldAt_of_bits he2]

theorem mulh (b a d : BitVec 6) : Statement (.mulh b a d) := by
  intro _ wd hEnc
  have L := word_layout [(19, 6), (13, 6), (7, 6)] [b.toNat, a.toNat, d.toNat] 0x1E000001 (by decide) (by decide) ⟨b.isLt, a.isLt, d.isLt, trivial⟩
  rw [show wordOn 0x1E000001 [(19, 6), (13, 6), (7, 6)] [b.toNat, a.toNat, d.toNat] = wd from Option.some.inj hEnc] at L
  obtain ⟨lt, ⟨he0, he1, he2, -⟩, keep⟩ := L
  have hk := keep 0 7 (by decide)
  obtain ⟨hz, hl, hr, hi⟩ := major_01 (mod_of_bits hk)
  have hf := keep 25 7 (by decide)
  refine ⟨lt, decodes (zs := []) (ne_of_bits hk (by decide)) (ne_of_bits hk (by decide)) ?_ ?_ ?_ ?_ ?_⟩
  · rw [hz, hf]; rfl
  · exact rfl
  · exact hl
  · exact hr
  · rw [hi, instrSop, hf]
    show some _ = _
    rw [fieldAt_of_bits he0, fieldAt_of_bits he1, fieldAt_of_bits he2]

theorem mulhu (b a d : BitVec 6) : Statement (.mulhu b a d) := by
  intro _ wd hEnc
  have L := word_layout [(19, 6), (13, 6), (7, 6)] [b.toNat, a.toNat, d.toNat] 0x20000001 (by decide) (by decide) ⟨b.isLt, a.isLt, d.isLt, trivial⟩
  rw [show wordOn 0x20000001 [(19, 6), (13, 6), (7, 6)] [b.toNat, a.toNat, d.toNat] = wd from Option.some.inj hEnc] at L
  obtain ⟨lt, ⟨he0, he1, he2, -⟩, keep⟩ := L
  have hk := keep 0 7 (by decide)
  obtain ⟨hz, hl, hr, hi⟩ := major_01 (mod_of_bits hk)
  have hf := keep 25 7 (by decide)
  refine ⟨lt, decodes (zs := []) (ne_of_bits hk (by decide)) (ne_of_bits hk (by decide)) ?_ ?_ ?_ ?_ ?_⟩
  · rw [hz, hf]; rfl
  · exact rfl
  · exact hl
  · exact hr
  · rw [hi, instrSop, hf]
    show some _ = _
    rw [fieldAt_of_bits he0, fieldAt_of_bits he1, fieldAt_of_bits he2]

theorem div (b a d : BitVec 6) : Statement (.div b a d) := by
  intro _ wd hEnc
  have L := word_layout [(19, 6), (13, 6), (7, 6)] [b.toNat, a.toNat, d.toNat] 0x22000001 (by decide) (by decide) ⟨b.isLt, a.isLt, d.isLt, trivial⟩
  rw [show wordOn 0x22000001 [(19, 6), (13, 6), (7, 6)] [b.toNat, a.toNat, d.toNat] = wd from Option.some.inj hEnc] at L
  obtain ⟨lt, ⟨he0, he1, he2, -⟩, keep⟩ := L
  have hk := keep 0 7 (by decide)
  obtain ⟨hz, hl, hr, hi⟩ := major_01 (mod_of_bits hk)
  have hf := keep 25 7 (by decide)
  refine ⟨lt, decodes (zs := []) (ne_of_bits hk (by decide)) (ne_of_bits hk (by decide)) ?_ ?_ ?_ ?_ ?_⟩
  · rw [hz, hf]; rfl
  · exact rfl
  · exact hl
  · exact hr
  · rw [hi, instrSop, hf]
    show some _ = _
    rw [fieldAt_of_bits he0, fieldAt_of_bits he1, fieldAt_of_bits he2]

theorem divu (b a d : BitVec 6) : Statement (.divu b a d) := by
  intro _ wd hEnc
  have L := word_layout [(19, 6), (13, 6), (7, 6)] [b.toNat, a.toNat, d.toNat] 0x24000001 (by decide) (by decide) ⟨b.isLt, a.isLt, d.isLt, trivial⟩
  rw [show wordOn 0x24000001 [(19, 6), (13, 6), (7, 6)] [b.toNat, a.toNat, d.toNat] = wd from Option.some.inj hEnc] at L
  obtain ⟨lt, ⟨he0, he1, he2, -⟩, keep⟩ := L
  have hk := keep 0 7 (by decide)
  obtain ⟨hz, hl, hr, hi⟩ := major_01 (mod_of_bits hk)
  have hf := keep 25 7 (by decide)
  refine ⟨lt, decodes (zs := []) (ne_of_bits hk (by decide)) (ne_of_bits hk (by decide)) ?_ ?_ ?_ ?_ ?_⟩
  · rw [hz, hf]; rfl
  · exact rfl
  · exact hl
  · exact hr
  · rw [hi, instrSop, hf]
    show some _ = _
    rw [fieldAt_of_bits he0, fieldAt_of_bits he1, fieldAt_of_bits he2]

theorem rem (b a d : BitVec 6) : Statement (.rem b a d) := by
  intro _ wd hEnc
  have L := word_layout [(19, 6), (13, 6), (7, 6)] [b.toNat, a.toNat, d.toNat] 0x26000001 (by decide) (by decide) ⟨b.isLt, a.isLt, d.isLt, trivial⟩
  rw [show wordOn 0x26000001 [(19, 6), (13, 6), (7, 6)] [b.toNat, a.toNat, d.toNat] = wd from Option.some.inj hEnc] at L
  obtain ⟨lt, ⟨he0, he1, he2, -⟩, keep⟩ := L
  have hk := keep 0 7 (by decide)
  obtain ⟨hz, hl, hr, hi⟩ := major_01 (mod_of_bits hk)
  have hf := keep 25 7 (by decide)
  refine ⟨lt, decodes (zs := []) (ne_of_bits hk (by decide)) (ne_of_bits hk (by decide)) ?_ ?_ ?_ ?_ ?_⟩
  · rw [hz, hf]; rfl
  · exact rfl
  · exact hl
  · exact hr
  · rw [hi, instrSop, hf]
    show some _ = _
    rw [fieldAt_of_bits he0, fieldAt_of_bits he1, fieldAt_of_bits he2]

theorem remu (b a d : BitVec 6) : Statement (.remu b a d) := by
  intro _ wd hEnc
  have L := word_layout [(19, 6), (13, 6), (7, 6)] [b.toNat, a.toNat, d.toNat] 0x28000001 (by decide) (by decide) ⟨b.isLt, a.isLt, d.isLt, trivial⟩
  rw [show wordOn 0x28000001 [(19, 6), (13, 6), (7, 6)] [b.toNat, a.toNat, d.toNat] = wd from Option.some.inj hEnc] at L
  obtain ⟨lt, ⟨he0, he1, he2, -⟩, keep⟩ := L
  have hk := keep 0 7 (by decide)
  obtain ⟨hz, hl, hr, hi⟩ := major_01 (mod_of_bits hk)
  have hf := keep 25 7 (by decide)
  refine ⟨lt, decodes (zs := []) (ne_of_bits hk (by decide)) (ne_of_bits hk (by decide)) ?_ ?_ ?_ ?_ ?_⟩
  · rw [hz, hf]; rfl
  · exact rfl
  · exact hl
  · exact hr
  · rw [hi, instrSop, hf]
    show some _ = _
    rw [fieldAt_of_bits he0, fieldAt_of_bits he1, fieldAt_of_bits he2]

theorem clz (a d : BitVec 6) : Statement (.clz a d) := by
  intro _ wd hEnc
  have L := word_layout [(13, 6), (7, 6)] [a.toNat, d.toNat] 0x2A000001 (by decide) (by decide) ⟨a.isLt, d.isLt, trivial⟩
  rw [show wordOn 0x2A000001 [(13, 6), (7, 6)] [a.toNat, d.toNat] = wd from Option.some.inj hEnc] at L
  obtain ⟨lt, ⟨he0, he1, -⟩, keep⟩ := L
  have hk := keep 0 7 (by decide)
  obtain ⟨hz, hl, hr, hi⟩ := major_01 (mod_of_bits hk)
  have hf := keep 25 7 (by decide)
  refine ⟨lt, decodes (zs := [(19, 6)]) (ne_of_bits hk (by decide)) (ne_of_bits hk (by decide)) ?_ ?_ ?_ ?_ ?_⟩
  · rw [hz, hf]; rfl
  · simp only [allZero, List.all_cons, List.all_nil, keep 19 6 (by decide)]; rfl
  · exact hl
  · exact hr
  · rw [hi, instrSop, hf]
    show some _ = _
    rw [fieldAt_of_bits he0, fieldAt_of_bits he1]

theorem ctz (a d : BitVec 6) : Statement (.ctz a d) := by
  intro _ wd hEnc
  have L := word_layout [(13, 6), (7, 6)] [a.toNat, d.toNat] 0x2C000001 (by decide) (by decide) ⟨a.isLt, d.isLt, trivial⟩
  rw [show wordOn 0x2C000001 [(13, 6), (7, 6)] [a.toNat, d.toNat] = wd from Option.some.inj hEnc] at L
  obtain ⟨lt, ⟨he0, he1, -⟩, keep⟩ := L
  have hk := keep 0 7 (by decide)
  obtain ⟨hz, hl, hr, hi⟩ := major_01 (mod_of_bits hk)
  have hf := keep 25 7 (by decide)
  refine ⟨lt, decodes (zs := [(19, 6)]) (ne_of_bits hk (by decide)) (ne_of_bits hk (by decide)) ?_ ?_ ?_ ?_ ?_⟩
  · rw [hz, hf]; rfl
  · simp only [allZero, List.all_cons, List.all_nil, keep 19 6 (by decide)]; rfl
  · exact hl
  · exact hr
  · rw [hi, instrSop, hf]
    show some _ = _
    rw [fieldAt_of_bits he0, fieldAt_of_bits he1]

theorem popc (a d : BitVec 6) : Statement (.popc a d) := by
  intro _ wd hEnc
  have L := word_layout [(13, 6), (7, 6)] [a.toNat, d.toNat] 0x2E000001 (by decide) (by decide) ⟨a.isLt, d.isLt, trivial⟩
  rw [show wordOn 0x2E000001 [(13, 6), (7, 6)] [a.toNat, d.toNat] = wd from Option.some.inj hEnc] at L
  obtain ⟨lt, ⟨he0, he1, -⟩, keep⟩ := L
  have hk := keep 0 7 (by decide)
  obtain ⟨hz, hl, hr, hi⟩ := major_01 (mod_of_bits hk)
  have hf := keep 25 7 (by decide)
  refine ⟨lt, decodes (zs := [(19, 6)]) (ne_of_bits hk (by decide)) (ne_of_bits hk (by decide)) ?_ ?_ ?_ ?_ ?_⟩
  · rw [hz, hf]; rfl
  · simp only [allZero, List.all_cons, List.all_nil, keep 19 6 (by decide)]; rfl
  · exact hl
  · exact hr
  · rw [hi, instrSop, hf]
    show some _ = _
    rw [fieldAt_of_bits he0, fieldAt_of_bits he1]

theorem sel (b a d : BitVec 6) : Statement (.sel b a d) := by
  intro _ wd hEnc
  have L := word_layout [(19, 6), (13, 6), (7, 6)] [b.toNat, a.toNat, d.toNat] 0x30000001 (by decide) (by decide) ⟨b.isLt, a.isLt, d.isLt, trivial⟩
  rw [show wordOn 0x30000001 [(19, 6), (13, 6), (7, 6)] [b.toNat, a.toNat, d.toNat] = wd from Option.some.inj hEnc] at L
  obtain ⟨lt, ⟨he0, he1, he2, -⟩, keep⟩ := L
  have hk := keep 0 7 (by decide)
  obtain ⟨hz, hl, hr, hi⟩ := major_01 (mod_of_bits hk)
  have hf := keep 25 7 (by decide)
  refine ⟨lt, decodes (zs := []) (ne_of_bits hk (by decide)) (ne_of_bits hk (by decide)) ?_ ?_ ?_ ?_ ?_⟩
  · rw [hz, hf]; rfl
  · exact rfl
  · exact hl
  · exact hr
  · rw [hi, instrSop, hf]
    show some _ = _
    rw [fieldAt_of_bits he0, fieldAt_of_bits he1, fieldAt_of_bits he2]

theorem addi (i : BitVec 13) (a d : BitVec 6) : Statement (.addi i a d) := by
  intro _ wd hEnc
  have L := word_layout [(19, 13), (13, 6), (7, 6)] [i.toNat, a.toNat, d.toNat] 0x00000002 (by decide) (by decide) ⟨i.isLt, a.isLt, d.isLt, trivial⟩
  rw [show wordOn 0x00000002 [(19, 13), (13, 6), (7, 6)] [i.toNat, a.toNat, d.toNat] = wd from Option.some.inj hEnc] at L
  obtain ⟨lt, ⟨he0, he1, he2, -⟩, keep⟩ := L
  have hk := keep 0 7 (by decide)
  obtain ⟨hz, hl, hr, hi⟩ := major_02 (mod_of_bits hk)
  refine ⟨lt, decodes (zs := []) (ne_of_bits hk (by decide)) (ne_of_bits hk (by decide)) ?_ ?_ ?_ ?_ ?_⟩
  · exact hz
  · exact rfl
  · exact hl
  · exact hr
  · rw [hi, fieldAt_of_bits he0, fieldAt_of_bits he1, fieldAt_of_bits he2]

theorem andi (i : BitVec 13) (a d : BitVec 6) : Statement (.andi i a d) := by
  intro _ wd hEnc
  have L := word_layout [(19, 13), (13, 6), (7, 6)] [i.toNat, a.toNat, d.toNat] 0x00000003 (by decide) (by decide) ⟨i.isLt, a.isLt, d.isLt, trivial⟩
  rw [show wordOn 0x00000003 [(19, 13), (13, 6), (7, 6)] [i.toNat, a.toNat, d.toNat] = wd from Option.some.inj hEnc] at L
  obtain ⟨lt, ⟨he0, he1, he2, -⟩, keep⟩ := L
  have hk := keep 0 7 (by decide)
  obtain ⟨hz, hl, hr, hi⟩ := major_03 (mod_of_bits hk)
  refine ⟨lt, decodes (zs := []) (ne_of_bits hk (by decide)) (ne_of_bits hk (by decide)) ?_ ?_ ?_ ?_ ?_⟩
  · exact hz
  · exact rfl
  · exact hl
  · exact hr
  · rw [hi, fieldAt_of_bits he0, fieldAt_of_bits he1, fieldAt_of_bits he2]

theorem ori (i : BitVec 13) (a d : BitVec 6) : Statement (.ori i a d) := by
  intro _ wd hEnc
  have L := word_layout [(19, 13), (13, 6), (7, 6)] [i.toNat, a.toNat, d.toNat] 0x00000004 (by decide) (by decide) ⟨i.isLt, a.isLt, d.isLt, trivial⟩
  rw [show wordOn 0x00000004 [(19, 13), (13, 6), (7, 6)] [i.toNat, a.toNat, d.toNat] = wd from Option.some.inj hEnc] at L
  obtain ⟨lt, ⟨he0, he1, he2, -⟩, keep⟩ := L
  have hk := keep 0 7 (by decide)
  obtain ⟨hz, hl, hr, hi⟩ := major_04 (mod_of_bits hk)
  refine ⟨lt, decodes (zs := []) (ne_of_bits hk (by decide)) (ne_of_bits hk (by decide)) ?_ ?_ ?_ ?_ ?_⟩
  · exact hz
  · exact rfl
  · exact hl
  · exact hr
  · rw [hi, fieldAt_of_bits he0, fieldAt_of_bits he1, fieldAt_of_bits he2]

theorem xori (i : BitVec 13) (a d : BitVec 6) : Statement (.xori i a d) := by
  intro _ wd hEnc
  have L := word_layout [(19, 13), (13, 6), (7, 6)] [i.toNat, a.toNat, d.toNat] 0x00000005 (by decide) (by decide) ⟨i.isLt, a.isLt, d.isLt, trivial⟩
  rw [show wordOn 0x00000005 [(19, 13), (13, 6), (7, 6)] [i.toNat, a.toNat, d.toNat] = wd from Option.some.inj hEnc] at L
  obtain ⟨lt, ⟨he0, he1, he2, -⟩, keep⟩ := L
  have hk := keep 0 7 (by decide)
  obtain ⟨hz, hl, hr, hi⟩ := major_05 (mod_of_bits hk)
  refine ⟨lt, decodes (zs := []) (ne_of_bits hk (by decide)) (ne_of_bits hk (by decide)) ?_ ?_ ?_ ?_ ?_⟩
  · exact hz
  · exact rfl
  · exact hl
  · exact hr
  · rw [hi, fieldAt_of_bits he0, fieldAt_of_bits he1, fieldAt_of_bits he2]

theorem slti (i : BitVec 13) (a d : BitVec 6) : Statement (.slti i a d) := by
  intro _ wd hEnc
  have L := word_layout [(19, 13), (13, 6), (7, 6)] [i.toNat, a.toNat, d.toNat] 0x00000006 (by decide) (by decide) ⟨i.isLt, a.isLt, d.isLt, trivial⟩
  rw [show wordOn 0x00000006 [(19, 13), (13, 6), (7, 6)] [i.toNat, a.toNat, d.toNat] = wd from Option.some.inj hEnc] at L
  obtain ⟨lt, ⟨he0, he1, he2, -⟩, keep⟩ := L
  have hk := keep 0 7 (by decide)
  obtain ⟨hz, hl, hr, hi⟩ := major_06 (mod_of_bits hk)
  refine ⟨lt, decodes (zs := []) (ne_of_bits hk (by decide)) (ne_of_bits hk (by decide)) ?_ ?_ ?_ ?_ ?_⟩
  · exact hz
  · exact rfl
  · exact hl
  · exact hr
  · rw [hi, fieldAt_of_bits he0, fieldAt_of_bits he1, fieldAt_of_bits he2]

theorem sltiu (i : BitVec 13) (a d : BitVec 6) : Statement (.sltiu i a d) := by
  intro _ wd hEnc
  have L := word_layout [(19, 13), (13, 6), (7, 6)] [i.toNat, a.toNat, d.toNat] 0x00000007 (by decide) (by decide) ⟨i.isLt, a.isLt, d.isLt, trivial⟩
  rw [show wordOn 0x00000007 [(19, 13), (13, 6), (7, 6)] [i.toNat, a.toNat, d.toNat] = wd from Option.some.inj hEnc] at L
  obtain ⟨lt, ⟨he0, he1, he2, -⟩, keep⟩ := L
  have hk := keep 0 7 (by decide)
  obtain ⟨hz, hl, hr, hi⟩ := major_07 (mod_of_bits hk)
  refine ⟨lt, decodes (zs := []) (ne_of_bits hk (by decide)) (ne_of_bits hk (by decide)) ?_ ?_ ?_ ?_ ?_⟩
  · exact hz
  · exact rfl
  · exact hl
  · exact hr
  · rw [hi, fieldAt_of_bits he0, fieldAt_of_bits he1, fieldAt_of_bits he2]

theorem slli (n a d : BitVec 6) : Statement (.slli n a d) := by
  intro _ wd hEnc
  have L := word_layout [(19, 6), (13, 6), (7, 6)] [n.toNat, a.toNat, d.toNat] 0x00000008 (by decide) (by decide) ⟨n.isLt, a.isLt, d.isLt, trivial⟩
  rw [show wordOn 0x00000008 [(19, 6), (13, 6), (7, 6)] [n.toNat, a.toNat, d.toNat] = wd from Option.some.inj hEnc] at L
  obtain ⟨lt, ⟨he0, he1, he2, -⟩, keep⟩ := L
  have hk := keep 0 7 (by decide)
  obtain ⟨hz, hl, hr, hi⟩ := major_08 (mod_of_bits hk)
  have hf := keep 25 2 (by decide)
  refine ⟨lt, decodes (zs := [(27, 5)]) (ne_of_bits hk (by decide)) (ne_of_bits hk (by decide)) ?_ ?_ ?_ ?_ ?_⟩
  · rw [hz, hf]; rfl
  · simp only [allZero, List.all_cons, List.all_nil, keep 27 5 (by decide)]; rfl
  · exact hl
  · exact hr
  · rw [hi, instrShi, hf]
    show some _ = _
    rw [fieldAt_of_bits he0, fieldAt_of_bits he1, fieldAt_of_bits he2]

theorem srli (n a d : BitVec 6) : Statement (.srli n a d) := by
  intro _ wd hEnc
  have L := word_layout [(19, 6), (13, 6), (7, 6)] [n.toNat, a.toNat, d.toNat] 0x02000008 (by decide) (by decide) ⟨n.isLt, a.isLt, d.isLt, trivial⟩
  rw [show wordOn 0x02000008 [(19, 6), (13, 6), (7, 6)] [n.toNat, a.toNat, d.toNat] = wd from Option.some.inj hEnc] at L
  obtain ⟨lt, ⟨he0, he1, he2, -⟩, keep⟩ := L
  have hk := keep 0 7 (by decide)
  obtain ⟨hz, hl, hr, hi⟩ := major_08 (mod_of_bits hk)
  have hf := keep 25 2 (by decide)
  refine ⟨lt, decodes (zs := [(27, 5)]) (ne_of_bits hk (by decide)) (ne_of_bits hk (by decide)) ?_ ?_ ?_ ?_ ?_⟩
  · rw [hz, hf]; rfl
  · simp only [allZero, List.all_cons, List.all_nil, keep 27 5 (by decide)]; rfl
  · exact hl
  · exact hr
  · rw [hi, instrShi, hf]
    show some _ = _
    rw [fieldAt_of_bits he0, fieldAt_of_bits he1, fieldAt_of_bits he2]

theorem srai (n a d : BitVec 6) : Statement (.srai n a d) := by
  intro _ wd hEnc
  have L := word_layout [(19, 6), (13, 6), (7, 6)] [n.toNat, a.toNat, d.toNat] 0x04000008 (by decide) (by decide) ⟨n.isLt, a.isLt, d.isLt, trivial⟩
  rw [show wordOn 0x04000008 [(19, 6), (13, 6), (7, 6)] [n.toNat, a.toNat, d.toNat] = wd from Option.some.inj hEnc] at L
  obtain ⟨lt, ⟨he0, he1, he2, -⟩, keep⟩ := L
  have hk := keep 0 7 (by decide)
  obtain ⟨hz, hl, hr, hi⟩ := major_08 (mod_of_bits hk)
  have hf := keep 25 2 (by decide)
  refine ⟨lt, decodes (zs := [(27, 5)]) (ne_of_bits hk (by decide)) (ne_of_bits hk (by decide)) ?_ ?_ ?_ ?_ ?_⟩
  · rw [hz, hf]; rfl
  · simp only [allZero, List.all_cons, List.all_nil, keep 27 5 (by decide)]; rfl
  · exact hl
  · exact hr
  · rw [hi, instrShi, hf]
    show some _ = _
    rw [fieldAt_of_bits he0, fieldAt_of_bits he1, fieldAt_of_bits he2]

theorem lui (i : BitVec 19) (d : BitVec 6) : Statement (.lui i d) := by
  intro _ wd hEnc
  have L := word_layout [(13, 19), (7, 6)] [i.toNat, d.toNat] 0x00000009 (by decide) (by decide) ⟨i.isLt, d.isLt, trivial⟩
  rw [show wordOn 0x00000009 [(13, 19), (7, 6)] [i.toNat, d.toNat] = wd from Option.some.inj hEnc] at L
  obtain ⟨lt, ⟨he0, he1, -⟩, keep⟩ := L
  have hk := keep 0 7 (by decide)
  obtain ⟨hz, hl, hr, hi⟩ := major_09 (mod_of_bits hk)
  refine ⟨lt, decodes (zs := []) (ne_of_bits hk (by decide)) (ne_of_bits hk (by decide)) ?_ ?_ ?_ ?_ ?_⟩
  · exact hz
  · exact rfl
  · exact hl
  · exact hr
  · rw [hi, fieldAt_of_bits he0, fieldAt_of_bits he1]

theorem auipc (i : BitVec 19) (d : BitVec 6) : Statement (.auipc i d) := by
  intro _ wd hEnc
  have L := word_layout [(13, 19), (7, 6)] [i.toNat, d.toNat] 0x0000000A (by decide) (by decide) ⟨i.isLt, d.isLt, trivial⟩
  rw [show wordOn 0x0000000A [(13, 19), (7, 6)] [i.toNat, d.toNat] = wd from Option.some.inj hEnc] at L
  obtain ⟨lt, ⟨he0, he1, -⟩, keep⟩ := L
  have hk := keep 0 7 (by decide)
  obtain ⟨hz, hl, hr, hi⟩ := major_0A (mod_of_bits hk)
  refine ⟨lt, decodes (zs := []) (ne_of_bits hk (by decide)) (ne_of_bits hk (by decide)) ?_ ?_ ?_ ?_ ?_⟩
  · exact hz
  · exact rfl
  · exact hl
  · exact hr
  · rw [hi, fieldAt_of_bits he0, fieldAt_of_bits he1]

theorem beq (i : BitVec 13) (b a : BitVec 6) : Statement (.beq i b a) := by
  intro _ wd hEnc
  have L := word_layout [(19, 13), (13, 6), (7, 6)] [i.toNat, b.toNat, a.toNat] 0x0000000B (by decide) (by decide) ⟨i.isLt, b.isLt, a.isLt, trivial⟩
  rw [show wordOn 0x0000000B [(19, 13), (13, 6), (7, 6)] [i.toNat, b.toNat, a.toNat] = wd from Option.some.inj hEnc] at L
  obtain ⟨lt, ⟨he0, he1, he2, -⟩, keep⟩ := L
  have hk := keep 0 7 (by decide)
  obtain ⟨hz, hl, hr, hi⟩ := major_0B (mod_of_bits hk)
  refine ⟨lt, decodes (zs := []) (ne_of_bits hk (by decide)) (ne_of_bits hk (by decide)) ?_ ?_ ?_ ?_ ?_⟩
  · exact hz
  · exact rfl
  · exact hl
  · exact hr
  · rw [hi, fieldAt_of_bits he0, fieldAt_of_bits he1, fieldAt_of_bits he2]

theorem bne (i : BitVec 13) (b a : BitVec 6) : Statement (.bne i b a) := by
  intro _ wd hEnc
  have L := word_layout [(19, 13), (13, 6), (7, 6)] [i.toNat, b.toNat, a.toNat] 0x0000000C (by decide) (by decide) ⟨i.isLt, b.isLt, a.isLt, trivial⟩
  rw [show wordOn 0x0000000C [(19, 13), (13, 6), (7, 6)] [i.toNat, b.toNat, a.toNat] = wd from Option.some.inj hEnc] at L
  obtain ⟨lt, ⟨he0, he1, he2, -⟩, keep⟩ := L
  have hk := keep 0 7 (by decide)
  obtain ⟨hz, hl, hr, hi⟩ := major_0C (mod_of_bits hk)
  refine ⟨lt, decodes (zs := []) (ne_of_bits hk (by decide)) (ne_of_bits hk (by decide)) ?_ ?_ ?_ ?_ ?_⟩
  · exact hz
  · exact rfl
  · exact hl
  · exact hr
  · rw [hi, fieldAt_of_bits he0, fieldAt_of_bits he1, fieldAt_of_bits he2]

theorem blt (i : BitVec 13) (b a : BitVec 6) : Statement (.blt i b a) := by
  intro _ wd hEnc
  have L := word_layout [(19, 13), (13, 6), (7, 6)] [i.toNat, b.toNat, a.toNat] 0x0000000D (by decide) (by decide) ⟨i.isLt, b.isLt, a.isLt, trivial⟩
  rw [show wordOn 0x0000000D [(19, 13), (13, 6), (7, 6)] [i.toNat, b.toNat, a.toNat] = wd from Option.some.inj hEnc] at L
  obtain ⟨lt, ⟨he0, he1, he2, -⟩, keep⟩ := L
  have hk := keep 0 7 (by decide)
  obtain ⟨hz, hl, hr, hi⟩ := major_0D (mod_of_bits hk)
  refine ⟨lt, decodes (zs := []) (ne_of_bits hk (by decide)) (ne_of_bits hk (by decide)) ?_ ?_ ?_ ?_ ?_⟩
  · exact hz
  · exact rfl
  · exact hl
  · exact hr
  · rw [hi, fieldAt_of_bits he0, fieldAt_of_bits he1, fieldAt_of_bits he2]

theorem bge (i : BitVec 13) (b a : BitVec 6) : Statement (.bge i b a) := by
  intro _ wd hEnc
  have L := word_layout [(19, 13), (13, 6), (7, 6)] [i.toNat, b.toNat, a.toNat] 0x0000000E (by decide) (by decide) ⟨i.isLt, b.isLt, a.isLt, trivial⟩
  rw [show wordOn 0x0000000E [(19, 13), (13, 6), (7, 6)] [i.toNat, b.toNat, a.toNat] = wd from Option.some.inj hEnc] at L
  obtain ⟨lt, ⟨he0, he1, he2, -⟩, keep⟩ := L
  have hk := keep 0 7 (by decide)
  obtain ⟨hz, hl, hr, hi⟩ := major_0E (mod_of_bits hk)
  refine ⟨lt, decodes (zs := []) (ne_of_bits hk (by decide)) (ne_of_bits hk (by decide)) ?_ ?_ ?_ ?_ ?_⟩
  · exact hz
  · exact rfl
  · exact hl
  · exact hr
  · rw [hi, fieldAt_of_bits he0, fieldAt_of_bits he1, fieldAt_of_bits he2]

theorem bltu (i : BitVec 13) (b a : BitVec 6) : Statement (.bltu i b a) := by
  intro _ wd hEnc
  have L := word_layout [(19, 13), (13, 6), (7, 6)] [i.toNat, b.toNat, a.toNat] 0x0000000F (by decide) (by decide) ⟨i.isLt, b.isLt, a.isLt, trivial⟩
  rw [show wordOn 0x0000000F [(19, 13), (13, 6), (7, 6)] [i.toNat, b.toNat, a.toNat] = wd from Option.some.inj hEnc] at L
  obtain ⟨lt, ⟨he0, he1, he2, -⟩, keep⟩ := L
  have hk := keep 0 7 (by decide)
  obtain ⟨hz, hl, hr, hi⟩ := major_0F (mod_of_bits hk)
  refine ⟨lt, decodes (zs := []) (ne_of_bits hk (by decide)) (ne_of_bits hk (by decide)) ?_ ?_ ?_ ?_ ?_⟩
  · exact hz
  · exact rfl
  · exact hl
  · exact hr
  · rw [hi, fieldAt_of_bits he0, fieldAt_of_bits he1, fieldAt_of_bits he2]

theorem bgeu (i : BitVec 13) (b a : BitVec 6) : Statement (.bgeu i b a) := by
  intro _ wd hEnc
  have L := word_layout [(19, 13), (13, 6), (7, 6)] [i.toNat, b.toNat, a.toNat] 0x00000010 (by decide) (by decide) ⟨i.isLt, b.isLt, a.isLt, trivial⟩
  rw [show wordOn 0x00000010 [(19, 13), (13, 6), (7, 6)] [i.toNat, b.toNat, a.toNat] = wd from Option.some.inj hEnc] at L
  obtain ⟨lt, ⟨he0, he1, he2, -⟩, keep⟩ := L
  have hk := keep 0 7 (by decide)
  obtain ⟨hz, hl, hr, hi⟩ := major_10 (mod_of_bits hk)
  refine ⟨lt, decodes (zs := []) (ne_of_bits hk (by decide)) (ne_of_bits hk (by decide)) ?_ ?_ ?_ ?_ ?_⟩
  · exact hz
  · exact rfl
  · exact hl
  · exact hr
  · rw [hi, fieldAt_of_bits he0, fieldAt_of_bits he1, fieldAt_of_bits he2]

theorem jal (i : BitVec 19) (d : BitVec 6) : Statement (.jal i d) := by
  intro _ wd hEnc
  have L := word_layout [(13, 19), (7, 6)] [i.toNat, d.toNat] 0x00000011 (by decide) (by decide) ⟨i.isLt, d.isLt, trivial⟩
  rw [show wordOn 0x00000011 [(13, 19), (7, 6)] [i.toNat, d.toNat] = wd from Option.some.inj hEnc] at L
  obtain ⟨lt, ⟨he0, he1, -⟩, keep⟩ := L
  have hk := keep 0 7 (by decide)
  obtain ⟨hz, hl, hr, hi⟩ := major_11 (mod_of_bits hk)
  refine ⟨lt, decodes (zs := []) (ne_of_bits hk (by decide)) (ne_of_bits hk (by decide)) ?_ ?_ ?_ ?_ ?_⟩
  · exact hz
  · exact rfl
  · exact hl
  · exact hr
  · rw [hi, fieldAt_of_bits he0, fieldAt_of_bits he1]

theorem jalr (i : BitVec 13) (a d : BitVec 6) : Statement (.jalr i a d) := by
  intro _ wd hEnc
  have L := word_layout [(19, 13), (13, 6), (7, 6)] [i.toNat, a.toNat, d.toNat] 0x00000012 (by decide) (by decide) ⟨i.isLt, a.isLt, d.isLt, trivial⟩
  rw [show wordOn 0x00000012 [(19, 13), (13, 6), (7, 6)] [i.toNat, a.toNat, d.toNat] = wd from Option.some.inj hEnc] at L
  obtain ⟨lt, ⟨he0, he1, he2, -⟩, keep⟩ := L
  have hk := keep 0 7 (by decide)
  obtain ⟨hz, hl, hr, hi⟩ := major_12 (mod_of_bits hk)
  refine ⟨lt, decodes (zs := []) (ne_of_bits hk (by decide)) (ne_of_bits hk (by decide)) ?_ ?_ ?_ ?_ ?_⟩
  · exact hz
  · exact rfl
  · exact hl
  · exact hr
  · rw [hi, fieldAt_of_bits he0, fieldAt_of_bits he1, fieldAt_of_bits he2]

theorem jt (n : BitVec 7) (b a : BitVec 6) : Statement (.jt n b a) := by
  intro _ wd hEnc
  have L := word_layout [(25, 7), (19, 6), (13, 6)] [n.toNat, b.toNat, a.toNat] 0x00000013 (by decide) (by decide) ⟨n.isLt, b.isLt, a.isLt, trivial⟩
  rw [show wordOn 0x00000013 [(25, 7), (19, 6), (13, 6)] [n.toNat, b.toNat, a.toNat] = wd from Option.some.inj hEnc] at L
  obtain ⟨lt, ⟨he0, he1, he2, -⟩, keep⟩ := L
  have hk := keep 0 7 (by decide)
  obtain ⟨hz, hl, hr, hi⟩ := major_13 (mod_of_bits hk)
  refine ⟨lt, decodes (zs := [(7, 6)]) (ne_of_bits hk (by decide)) (ne_of_bits hk (by decide)) ?_ ?_ ?_ ?_ ?_⟩
  · exact hz
  · simp only [allZero, List.all_cons, List.all_nil, keep 7 6 (by decide)]; rfl
  · exact hl
  · exact hr
  · rw [hi, fieldAt_of_bits he0, fieldAt_of_bits he1, fieldAt_of_bits he2]

theorem ldb (r : BitVec 2) (i : BitVec 11) (a d : BitVec 6) : Statement (.ldb r i a d) := by
  intro _ wd hEnc
  have L := word_layout [(30, 2), (19, 11), (13, 6), (7, 6)] [r.toNat, i.toNat, a.toNat, d.toNat] 0x00000014 (by decide) (by decide) ⟨r.isLt, i.isLt, a.isLt, d.isLt, trivial⟩
  rw [show wordOn 0x00000014 [(30, 2), (19, 11), (13, 6), (7, 6)] [r.toNat, i.toNat, a.toNat, d.toNat] = wd from Option.some.inj hEnc] at L
  obtain ⟨lt, ⟨he0, he1, he2, he3, -⟩, keep⟩ := L
  have hk := keep 0 7 (by decide)
  obtain ⟨hz, hl, hr, hi⟩ := major_14 (mod_of_bits hk)
  refine ⟨lt, decodes (zs := []) (ne_of_bits hk (by decide)) (ne_of_bits hk (by decide)) ?_ ?_ ?_ ?_ ?_⟩
  · exact hz
  · exact rfl
  · exact hl
  · exact hr
  · rw [hi, fieldAt_of_bits he0, fieldAt_of_bits he1, fieldAt_of_bits he2, fieldAt_of_bits he3]

theorem ldh (r : BitVec 2) (i : BitVec 11) (a d : BitVec 6) : Statement (.ldh r i a d) := by
  intro _ wd hEnc
  have L := word_layout [(30, 2), (19, 11), (13, 6), (7, 6)] [r.toNat, i.toNat, a.toNat, d.toNat] 0x00000015 (by decide) (by decide) ⟨r.isLt, i.isLt, a.isLt, d.isLt, trivial⟩
  rw [show wordOn 0x00000015 [(30, 2), (19, 11), (13, 6), (7, 6)] [r.toNat, i.toNat, a.toNat, d.toNat] = wd from Option.some.inj hEnc] at L
  obtain ⟨lt, ⟨he0, he1, he2, he3, -⟩, keep⟩ := L
  have hk := keep 0 7 (by decide)
  obtain ⟨hz, hl, hr, hi⟩ := major_15 (mod_of_bits hk)
  refine ⟨lt, decodes (zs := []) (ne_of_bits hk (by decide)) (ne_of_bits hk (by decide)) ?_ ?_ ?_ ?_ ?_⟩
  · exact hz
  · exact rfl
  · exact hl
  · exact hr
  · rw [hi, fieldAt_of_bits he0, fieldAt_of_bits he1, fieldAt_of_bits he2, fieldAt_of_bits he3]

theorem ldw (r : BitVec 2) (i : BitVec 11) (a d : BitVec 6) : Statement (.ldw r i a d) := by
  intro _ wd hEnc
  have L := word_layout [(30, 2), (19, 11), (13, 6), (7, 6)] [r.toNat, i.toNat, a.toNat, d.toNat] 0x00000016 (by decide) (by decide) ⟨r.isLt, i.isLt, a.isLt, d.isLt, trivial⟩
  rw [show wordOn 0x00000016 [(30, 2), (19, 11), (13, 6), (7, 6)] [r.toNat, i.toNat, a.toNat, d.toNat] = wd from Option.some.inj hEnc] at L
  obtain ⟨lt, ⟨he0, he1, he2, he3, -⟩, keep⟩ := L
  have hk := keep 0 7 (by decide)
  obtain ⟨hz, hl, hr, hi⟩ := major_16 (mod_of_bits hk)
  refine ⟨lt, decodes (zs := []) (ne_of_bits hk (by decide)) (ne_of_bits hk (by decide)) ?_ ?_ ?_ ?_ ?_⟩
  · exact hz
  · exact rfl
  · exact hl
  · exact hr
  · rw [hi, fieldAt_of_bits he0, fieldAt_of_bits he1, fieldAt_of_bits he2, fieldAt_of_bits he3]

theorem ldd (r : BitVec 2) (i : BitVec 11) (a d : BitVec 6) : Statement (.ldd r i a d) := by
  intro _ wd hEnc
  have L := word_layout [(30, 2), (19, 11), (13, 6), (7, 6)] [r.toNat, i.toNat, a.toNat, d.toNat] 0x00000017 (by decide) (by decide) ⟨r.isLt, i.isLt, a.isLt, d.isLt, trivial⟩
  rw [show wordOn 0x00000017 [(30, 2), (19, 11), (13, 6), (7, 6)] [r.toNat, i.toNat, a.toNat, d.toNat] = wd from Option.some.inj hEnc] at L
  obtain ⟨lt, ⟨he0, he1, he2, he3, -⟩, keep⟩ := L
  have hk := keep 0 7 (by decide)
  obtain ⟨hz, hl, hr, hi⟩ := major_17 (mod_of_bits hk)
  refine ⟨lt, decodes (zs := []) (ne_of_bits hk (by decide)) (ne_of_bits hk (by decide)) ?_ ?_ ?_ ?_ ?_⟩
  · exact hz
  · exact rfl
  · exact hl
  · exact hr
  · rw [hi, fieldAt_of_bits he0, fieldAt_of_bits he1, fieldAt_of_bits he2, fieldAt_of_bits he3]

theorem ldbu (r : BitVec 2) (i : BitVec 11) (a d : BitVec 6) : Statement (.ldbu r i a d) := by
  intro _ wd hEnc
  have L := word_layout [(30, 2), (19, 11), (13, 6), (7, 6)] [r.toNat, i.toNat, a.toNat, d.toNat] 0x00000018 (by decide) (by decide) ⟨r.isLt, i.isLt, a.isLt, d.isLt, trivial⟩
  rw [show wordOn 0x00000018 [(30, 2), (19, 11), (13, 6), (7, 6)] [r.toNat, i.toNat, a.toNat, d.toNat] = wd from Option.some.inj hEnc] at L
  obtain ⟨lt, ⟨he0, he1, he2, he3, -⟩, keep⟩ := L
  have hk := keep 0 7 (by decide)
  obtain ⟨hz, hl, hr, hi⟩ := major_18 (mod_of_bits hk)
  refine ⟨lt, decodes (zs := []) (ne_of_bits hk (by decide)) (ne_of_bits hk (by decide)) ?_ ?_ ?_ ?_ ?_⟩
  · exact hz
  · exact rfl
  · exact hl
  · exact hr
  · rw [hi, fieldAt_of_bits he0, fieldAt_of_bits he1, fieldAt_of_bits he2, fieldAt_of_bits he3]

theorem ldhu (r : BitVec 2) (i : BitVec 11) (a d : BitVec 6) : Statement (.ldhu r i a d) := by
  intro _ wd hEnc
  have L := word_layout [(30, 2), (19, 11), (13, 6), (7, 6)] [r.toNat, i.toNat, a.toNat, d.toNat] 0x00000019 (by decide) (by decide) ⟨r.isLt, i.isLt, a.isLt, d.isLt, trivial⟩
  rw [show wordOn 0x00000019 [(30, 2), (19, 11), (13, 6), (7, 6)] [r.toNat, i.toNat, a.toNat, d.toNat] = wd from Option.some.inj hEnc] at L
  obtain ⟨lt, ⟨he0, he1, he2, he3, -⟩, keep⟩ := L
  have hk := keep 0 7 (by decide)
  obtain ⟨hz, hl, hr, hi⟩ := major_19 (mod_of_bits hk)
  refine ⟨lt, decodes (zs := []) (ne_of_bits hk (by decide)) (ne_of_bits hk (by decide)) ?_ ?_ ?_ ?_ ?_⟩
  · exact hz
  · exact rfl
  · exact hl
  · exact hr
  · rw [hi, fieldAt_of_bits he0, fieldAt_of_bits he1, fieldAt_of_bits he2, fieldAt_of_bits he3]

theorem ldwu (r : BitVec 2) (i : BitVec 11) (a d : BitVec 6) : Statement (.ldwu r i a d) := by
  intro _ wd hEnc
  have L := word_layout [(30, 2), (19, 11), (13, 6), (7, 6)] [r.toNat, i.toNat, a.toNat, d.toNat] 0x0000001A (by decide) (by decide) ⟨r.isLt, i.isLt, a.isLt, d.isLt, trivial⟩
  rw [show wordOn 0x0000001A [(30, 2), (19, 11), (13, 6), (7, 6)] [r.toNat, i.toNat, a.toNat, d.toNat] = wd from Option.some.inj hEnc] at L
  obtain ⟨lt, ⟨he0, he1, he2, he3, -⟩, keep⟩ := L
  have hk := keep 0 7 (by decide)
  obtain ⟨hz, hl, hr, hi⟩ := major_1A (mod_of_bits hk)
  refine ⟨lt, decodes (zs := []) (ne_of_bits hk (by decide)) (ne_of_bits hk (by decide)) ?_ ?_ ?_ ?_ ?_⟩
  · exact hz
  · exact rfl
  · exact hl
  · exact hr
  · rw [hi, fieldAt_of_bits he0, fieldAt_of_bits he1, fieldAt_of_bits he2, fieldAt_of_bits he3]

theorem stb (r : BitVec 2) (i : BitVec 11) (a b : BitVec 6) : Statement (.stb r i a b) := by
  intro _ wd hEnc
  have L := word_layout [(30, 2), (19, 11), (13, 6), (7, 6)] [r.toNat, i.toNat, a.toNat, b.toNat] 0x0000001B (by decide) (by decide) ⟨r.isLt, i.isLt, a.isLt, b.isLt, trivial⟩
  rw [show wordOn 0x0000001B [(30, 2), (19, 11), (13, 6), (7, 6)] [r.toNat, i.toNat, a.toNat, b.toNat] = wd from Option.some.inj hEnc] at L
  obtain ⟨lt, ⟨he0, he1, he2, he3, -⟩, keep⟩ := L
  have hk := keep 0 7 (by decide)
  obtain ⟨hz, hl, hr, hi⟩ := major_1B (mod_of_bits hk)
  refine ⟨lt, decodes (zs := []) (ne_of_bits hk (by decide)) (ne_of_bits hk (by decide)) ?_ ?_ ?_ ?_ ?_⟩
  · exact hz
  · exact rfl
  · exact hl
  · exact hr
  · rw [hi, fieldAt_of_bits he0, fieldAt_of_bits he1, fieldAt_of_bits he2, fieldAt_of_bits he3]

theorem sth (r : BitVec 2) (i : BitVec 11) (a b : BitVec 6) : Statement (.sth r i a b) := by
  intro _ wd hEnc
  have L := word_layout [(30, 2), (19, 11), (13, 6), (7, 6)] [r.toNat, i.toNat, a.toNat, b.toNat] 0x0000001C (by decide) (by decide) ⟨r.isLt, i.isLt, a.isLt, b.isLt, trivial⟩
  rw [show wordOn 0x0000001C [(30, 2), (19, 11), (13, 6), (7, 6)] [r.toNat, i.toNat, a.toNat, b.toNat] = wd from Option.some.inj hEnc] at L
  obtain ⟨lt, ⟨he0, he1, he2, he3, -⟩, keep⟩ := L
  have hk := keep 0 7 (by decide)
  obtain ⟨hz, hl, hr, hi⟩ := major_1C (mod_of_bits hk)
  refine ⟨lt, decodes (zs := []) (ne_of_bits hk (by decide)) (ne_of_bits hk (by decide)) ?_ ?_ ?_ ?_ ?_⟩
  · exact hz
  · exact rfl
  · exact hl
  · exact hr
  · rw [hi, fieldAt_of_bits he0, fieldAt_of_bits he1, fieldAt_of_bits he2, fieldAt_of_bits he3]

theorem stw (r : BitVec 2) (i : BitVec 11) (a b : BitVec 6) : Statement (.stw r i a b) := by
  intro _ wd hEnc
  have L := word_layout [(30, 2), (19, 11), (13, 6), (7, 6)] [r.toNat, i.toNat, a.toNat, b.toNat] 0x0000001D (by decide) (by decide) ⟨r.isLt, i.isLt, a.isLt, b.isLt, trivial⟩
  rw [show wordOn 0x0000001D [(30, 2), (19, 11), (13, 6), (7, 6)] [r.toNat, i.toNat, a.toNat, b.toNat] = wd from Option.some.inj hEnc] at L
  obtain ⟨lt, ⟨he0, he1, he2, he3, -⟩, keep⟩ := L
  have hk := keep 0 7 (by decide)
  obtain ⟨hz, hl, hr, hi⟩ := major_1D (mod_of_bits hk)
  refine ⟨lt, decodes (zs := []) (ne_of_bits hk (by decide)) (ne_of_bits hk (by decide)) ?_ ?_ ?_ ?_ ?_⟩
  · exact hz
  · exact rfl
  · exact hl
  · exact hr
  · rw [hi, fieldAt_of_bits he0, fieldAt_of_bits he1, fieldAt_of_bits he2, fieldAt_of_bits he3]

theorem std (r : BitVec 2) (i : BitVec 11) (a b : BitVec 6) : Statement (.std r i a b) := by
  intro _ wd hEnc
  have L := word_layout [(30, 2), (19, 11), (13, 6), (7, 6)] [r.toNat, i.toNat, a.toNat, b.toNat] 0x0000001E (by decide) (by decide) ⟨r.isLt, i.isLt, a.isLt, b.isLt, trivial⟩
  rw [show wordOn 0x0000001E [(30, 2), (19, 11), (13, 6), (7, 6)] [r.toNat, i.toNat, a.toNat, b.toNat] = wd from Option.some.inj hEnc] at L
  obtain ⟨lt, ⟨he0, he1, he2, he3, -⟩, keep⟩ := L
  have hk := keep 0 7 (by decide)
  obtain ⟨hz, hl, hr, hi⟩ := major_1E (mod_of_bits hk)
  refine ⟨lt, decodes (zs := []) (ne_of_bits hk (by decide)) (ne_of_bits hk (by decide)) ?_ ?_ ?_ ?_ ?_⟩
  · exact hz
  · exact rfl
  · exact hl
  · exact hr
  · rw [hi, fieldAt_of_bits he0, fieldAt_of_bits he1, fieldAt_of_bits he2, fieldAt_of_bits he3]

theorem faddD (b a d : BitVec 6) : Statement (.faddD b a d) := by
  intro _ wd hEnc
  have L := word_layout [(19, 6), (13, 6), (7, 6)] [b.toNat, a.toNat, d.toNat] 0x0000001F (by decide) (by decide) ⟨b.isLt, a.isLt, d.isLt, trivial⟩
  rw [show wordOn 0x0000001F [(19, 6), (13, 6), (7, 6)] [b.toNat, a.toNat, d.toNat] = wd from Option.some.inj hEnc] at L
  obtain ⟨lt, ⟨he0, he1, he2, -⟩, keep⟩ := L
  have hk := keep 0 7 (by decide)
  obtain ⟨hz, hl, hr, hi⟩ := major_1F (mod_of_bits hk)
  have hf := keep 25 7 (by decide)
  refine ⟨lt, decodes (zs := []) (ne_of_bits hk (by decide)) (ne_of_bits hk (by decide)) ?_ ?_ ?_ ?_ ?_⟩
  · rw [hz, hf]; rfl
  · exact rfl
  · exact hl
  · exact hr
  · rw [hi, instrFop, hf]
    show some _ = _
    rw [fieldAt_of_bits he0, fieldAt_of_bits he1, fieldAt_of_bits he2]

theorem fsubD (b a d : BitVec 6) : Statement (.fsubD b a d) := by
  intro _ wd hEnc
  have L := word_layout [(19, 6), (13, 6), (7, 6)] [b.toNat, a.toNat, d.toNat] 0x0200001F (by decide) (by decide) ⟨b.isLt, a.isLt, d.isLt, trivial⟩
  rw [show wordOn 0x0200001F [(19, 6), (13, 6), (7, 6)] [b.toNat, a.toNat, d.toNat] = wd from Option.some.inj hEnc] at L
  obtain ⟨lt, ⟨he0, he1, he2, -⟩, keep⟩ := L
  have hk := keep 0 7 (by decide)
  obtain ⟨hz, hl, hr, hi⟩ := major_1F (mod_of_bits hk)
  have hf := keep 25 7 (by decide)
  refine ⟨lt, decodes (zs := []) (ne_of_bits hk (by decide)) (ne_of_bits hk (by decide)) ?_ ?_ ?_ ?_ ?_⟩
  · rw [hz, hf]; rfl
  · exact rfl
  · exact hl
  · exact hr
  · rw [hi, instrFop, hf]
    show some _ = _
    rw [fieldAt_of_bits he0, fieldAt_of_bits he1, fieldAt_of_bits he2]

theorem fmulD (b a d : BitVec 6) : Statement (.fmulD b a d) := by
  intro _ wd hEnc
  have L := word_layout [(19, 6), (13, 6), (7, 6)] [b.toNat, a.toNat, d.toNat] 0x0400001F (by decide) (by decide) ⟨b.isLt, a.isLt, d.isLt, trivial⟩
  rw [show wordOn 0x0400001F [(19, 6), (13, 6), (7, 6)] [b.toNat, a.toNat, d.toNat] = wd from Option.some.inj hEnc] at L
  obtain ⟨lt, ⟨he0, he1, he2, -⟩, keep⟩ := L
  have hk := keep 0 7 (by decide)
  obtain ⟨hz, hl, hr, hi⟩ := major_1F (mod_of_bits hk)
  have hf := keep 25 7 (by decide)
  refine ⟨lt, decodes (zs := []) (ne_of_bits hk (by decide)) (ne_of_bits hk (by decide)) ?_ ?_ ?_ ?_ ?_⟩
  · rw [hz, hf]; rfl
  · exact rfl
  · exact hl
  · exact hr
  · rw [hi, instrFop, hf]
    show some _ = _
    rw [fieldAt_of_bits he0, fieldAt_of_bits he1, fieldAt_of_bits he2]

theorem fdivD (b a d : BitVec 6) : Statement (.fdivD b a d) := by
  intro _ wd hEnc
  have L := word_layout [(19, 6), (13, 6), (7, 6)] [b.toNat, a.toNat, d.toNat] 0x0600001F (by decide) (by decide) ⟨b.isLt, a.isLt, d.isLt, trivial⟩
  rw [show wordOn 0x0600001F [(19, 6), (13, 6), (7, 6)] [b.toNat, a.toNat, d.toNat] = wd from Option.some.inj hEnc] at L
  obtain ⟨lt, ⟨he0, he1, he2, -⟩, keep⟩ := L
  have hk := keep 0 7 (by decide)
  obtain ⟨hz, hl, hr, hi⟩ := major_1F (mod_of_bits hk)
  have hf := keep 25 7 (by decide)
  refine ⟨lt, decodes (zs := []) (ne_of_bits hk (by decide)) (ne_of_bits hk (by decide)) ?_ ?_ ?_ ?_ ?_⟩
  · rw [hz, hf]; rfl
  · exact rfl
  · exact hl
  · exact hr
  · rw [hi, instrFop, hf]
    show some _ = _
    rw [fieldAt_of_bits he0, fieldAt_of_bits he1, fieldAt_of_bits he2]

theorem fsqrtD (a d : BitVec 6) : Statement (.fsqrtD a d) := by
  intro _ wd hEnc
  have L := word_layout [(13, 6), (7, 6)] [a.toNat, d.toNat] 0x0800001F (by decide) (by decide) ⟨a.isLt, d.isLt, trivial⟩
  rw [show wordOn 0x0800001F [(13, 6), (7, 6)] [a.toNat, d.toNat] = wd from Option.some.inj hEnc] at L
  obtain ⟨lt, ⟨he0, he1, -⟩, keep⟩ := L
  have hk := keep 0 7 (by decide)
  obtain ⟨hz, hl, hr, hi⟩ := major_1F (mod_of_bits hk)
  have hf := keep 25 7 (by decide)
  refine ⟨lt, decodes (zs := [(19, 6)]) (ne_of_bits hk (by decide)) (ne_of_bits hk (by decide)) ?_ ?_ ?_ ?_ ?_⟩
  · rw [hz, hf]; rfl
  · simp only [allZero, List.all_cons, List.all_nil, keep 19 6 (by decide)]; rfl
  · exact hl
  · exact hr
  · rw [hi, instrFop, hf]
    show some _ = _
    rw [fieldAt_of_bits he0, fieldAt_of_bits he1]

theorem fminD (b a d : BitVec 6) : Statement (.fminD b a d) := by
  intro _ wd hEnc
  have L := word_layout [(19, 6), (13, 6), (7, 6)] [b.toNat, a.toNat, d.toNat] 0x0A00001F (by decide) (by decide) ⟨b.isLt, a.isLt, d.isLt, trivial⟩
  rw [show wordOn 0x0A00001F [(19, 6), (13, 6), (7, 6)] [b.toNat, a.toNat, d.toNat] = wd from Option.some.inj hEnc] at L
  obtain ⟨lt, ⟨he0, he1, he2, -⟩, keep⟩ := L
  have hk := keep 0 7 (by decide)
  obtain ⟨hz, hl, hr, hi⟩ := major_1F (mod_of_bits hk)
  have hf := keep 25 7 (by decide)
  refine ⟨lt, decodes (zs := []) (ne_of_bits hk (by decide)) (ne_of_bits hk (by decide)) ?_ ?_ ?_ ?_ ?_⟩
  · rw [hz, hf]; rfl
  · exact rfl
  · exact hl
  · exact hr
  · rw [hi, instrFop, hf]
    show some _ = _
    rw [fieldAt_of_bits he0, fieldAt_of_bits he1, fieldAt_of_bits he2]

theorem fmaxD (b a d : BitVec 6) : Statement (.fmaxD b a d) := by
  intro _ wd hEnc
  have L := word_layout [(19, 6), (13, 6), (7, 6)] [b.toNat, a.toNat, d.toNat] 0x0C00001F (by decide) (by decide) ⟨b.isLt, a.isLt, d.isLt, trivial⟩
  rw [show wordOn 0x0C00001F [(19, 6), (13, 6), (7, 6)] [b.toNat, a.toNat, d.toNat] = wd from Option.some.inj hEnc] at L
  obtain ⟨lt, ⟨he0, he1, he2, -⟩, keep⟩ := L
  have hk := keep 0 7 (by decide)
  obtain ⟨hz, hl, hr, hi⟩ := major_1F (mod_of_bits hk)
  have hf := keep 25 7 (by decide)
  refine ⟨lt, decodes (zs := []) (ne_of_bits hk (by decide)) (ne_of_bits hk (by decide)) ?_ ?_ ?_ ?_ ?_⟩
  · rw [hz, hf]; rfl
  · exact rfl
  · exact hl
  · exact hr
  · rw [hi, instrFop, hf]
    show some _ = _
    rw [fieldAt_of_bits he0, fieldAt_of_bits he1, fieldAt_of_bits he2]

theorem faddS (b a d : BitVec 6) : Statement (.faddS b a d) := by
  intro _ wd hEnc
  have L := word_layout [(19, 6), (13, 6), (7, 6)] [b.toNat, a.toNat, d.toNat] 0x0E00001F (by decide) (by decide) ⟨b.isLt, a.isLt, d.isLt, trivial⟩
  rw [show wordOn 0x0E00001F [(19, 6), (13, 6), (7, 6)] [b.toNat, a.toNat, d.toNat] = wd from Option.some.inj hEnc] at L
  obtain ⟨lt, ⟨he0, he1, he2, -⟩, keep⟩ := L
  have hk := keep 0 7 (by decide)
  obtain ⟨hz, hl, hr, hi⟩ := major_1F (mod_of_bits hk)
  have hf := keep 25 7 (by decide)
  refine ⟨lt, decodes (zs := []) (ne_of_bits hk (by decide)) (ne_of_bits hk (by decide)) ?_ ?_ ?_ ?_ ?_⟩
  · rw [hz, hf]; rfl
  · exact rfl
  · exact hl
  · exact hr
  · rw [hi, instrFop, hf]
    show some _ = _
    rw [fieldAt_of_bits he0, fieldAt_of_bits he1, fieldAt_of_bits he2]

theorem fsubS (b a d : BitVec 6) : Statement (.fsubS b a d) := by
  intro _ wd hEnc
  have L := word_layout [(19, 6), (13, 6), (7, 6)] [b.toNat, a.toNat, d.toNat] 0x1000001F (by decide) (by decide) ⟨b.isLt, a.isLt, d.isLt, trivial⟩
  rw [show wordOn 0x1000001F [(19, 6), (13, 6), (7, 6)] [b.toNat, a.toNat, d.toNat] = wd from Option.some.inj hEnc] at L
  obtain ⟨lt, ⟨he0, he1, he2, -⟩, keep⟩ := L
  have hk := keep 0 7 (by decide)
  obtain ⟨hz, hl, hr, hi⟩ := major_1F (mod_of_bits hk)
  have hf := keep 25 7 (by decide)
  refine ⟨lt, decodes (zs := []) (ne_of_bits hk (by decide)) (ne_of_bits hk (by decide)) ?_ ?_ ?_ ?_ ?_⟩
  · rw [hz, hf]; rfl
  · exact rfl
  · exact hl
  · exact hr
  · rw [hi, instrFop, hf]
    show some _ = _
    rw [fieldAt_of_bits he0, fieldAt_of_bits he1, fieldAt_of_bits he2]

theorem fmulS (b a d : BitVec 6) : Statement (.fmulS b a d) := by
  intro _ wd hEnc
  have L := word_layout [(19, 6), (13, 6), (7, 6)] [b.toNat, a.toNat, d.toNat] 0x1200001F (by decide) (by decide) ⟨b.isLt, a.isLt, d.isLt, trivial⟩
  rw [show wordOn 0x1200001F [(19, 6), (13, 6), (7, 6)] [b.toNat, a.toNat, d.toNat] = wd from Option.some.inj hEnc] at L
  obtain ⟨lt, ⟨he0, he1, he2, -⟩, keep⟩ := L
  have hk := keep 0 7 (by decide)
  obtain ⟨hz, hl, hr, hi⟩ := major_1F (mod_of_bits hk)
  have hf := keep 25 7 (by decide)
  refine ⟨lt, decodes (zs := []) (ne_of_bits hk (by decide)) (ne_of_bits hk (by decide)) ?_ ?_ ?_ ?_ ?_⟩
  · rw [hz, hf]; rfl
  · exact rfl
  · exact hl
  · exact hr
  · rw [hi, instrFop, hf]
    show some _ = _
    rw [fieldAt_of_bits he0, fieldAt_of_bits he1, fieldAt_of_bits he2]

theorem fdivS (b a d : BitVec 6) : Statement (.fdivS b a d) := by
  intro _ wd hEnc
  have L := word_layout [(19, 6), (13, 6), (7, 6)] [b.toNat, a.toNat, d.toNat] 0x1400001F (by decide) (by decide) ⟨b.isLt, a.isLt, d.isLt, trivial⟩
  rw [show wordOn 0x1400001F [(19, 6), (13, 6), (7, 6)] [b.toNat, a.toNat, d.toNat] = wd from Option.some.inj hEnc] at L
  obtain ⟨lt, ⟨he0, he1, he2, -⟩, keep⟩ := L
  have hk := keep 0 7 (by decide)
  obtain ⟨hz, hl, hr, hi⟩ := major_1F (mod_of_bits hk)
  have hf := keep 25 7 (by decide)
  refine ⟨lt, decodes (zs := []) (ne_of_bits hk (by decide)) (ne_of_bits hk (by decide)) ?_ ?_ ?_ ?_ ?_⟩
  · rw [hz, hf]; rfl
  · exact rfl
  · exact hl
  · exact hr
  · rw [hi, instrFop, hf]
    show some _ = _
    rw [fieldAt_of_bits he0, fieldAt_of_bits he1, fieldAt_of_bits he2]

theorem fsqrtS (a d : BitVec 6) : Statement (.fsqrtS a d) := by
  intro _ wd hEnc
  have L := word_layout [(13, 6), (7, 6)] [a.toNat, d.toNat] 0x1600001F (by decide) (by decide) ⟨a.isLt, d.isLt, trivial⟩
  rw [show wordOn 0x1600001F [(13, 6), (7, 6)] [a.toNat, d.toNat] = wd from Option.some.inj hEnc] at L
  obtain ⟨lt, ⟨he0, he1, -⟩, keep⟩ := L
  have hk := keep 0 7 (by decide)
  obtain ⟨hz, hl, hr, hi⟩ := major_1F (mod_of_bits hk)
  have hf := keep 25 7 (by decide)
  refine ⟨lt, decodes (zs := [(19, 6)]) (ne_of_bits hk (by decide)) (ne_of_bits hk (by decide)) ?_ ?_ ?_ ?_ ?_⟩
  · rw [hz, hf]; rfl
  · simp only [allZero, List.all_cons, List.all_nil, keep 19 6 (by decide)]; rfl
  · exact hl
  · exact hr
  · rw [hi, instrFop, hf]
    show some _ = _
    rw [fieldAt_of_bits he0, fieldAt_of_bits he1]

theorem fminS (b a d : BitVec 6) : Statement (.fminS b a d) := by
  intro _ wd hEnc
  have L := word_layout [(19, 6), (13, 6), (7, 6)] [b.toNat, a.toNat, d.toNat] 0x1800001F (by decide) (by decide) ⟨b.isLt, a.isLt, d.isLt, trivial⟩
  rw [show wordOn 0x1800001F [(19, 6), (13, 6), (7, 6)] [b.toNat, a.toNat, d.toNat] = wd from Option.some.inj hEnc] at L
  obtain ⟨lt, ⟨he0, he1, he2, -⟩, keep⟩ := L
  have hk := keep 0 7 (by decide)
  obtain ⟨hz, hl, hr, hi⟩ := major_1F (mod_of_bits hk)
  have hf := keep 25 7 (by decide)
  refine ⟨lt, decodes (zs := []) (ne_of_bits hk (by decide)) (ne_of_bits hk (by decide)) ?_ ?_ ?_ ?_ ?_⟩
  · rw [hz, hf]; rfl
  · exact rfl
  · exact hl
  · exact hr
  · rw [hi, instrFop, hf]
    show some _ = _
    rw [fieldAt_of_bits he0, fieldAt_of_bits he1, fieldAt_of_bits he2]

theorem fmaxS (b a d : BitVec 6) : Statement (.fmaxS b a d) := by
  intro _ wd hEnc
  have L := word_layout [(19, 6), (13, 6), (7, 6)] [b.toNat, a.toNat, d.toNat] 0x1A00001F (by decide) (by decide) ⟨b.isLt, a.isLt, d.isLt, trivial⟩
  rw [show wordOn 0x1A00001F [(19, 6), (13, 6), (7, 6)] [b.toNat, a.toNat, d.toNat] = wd from Option.some.inj hEnc] at L
  obtain ⟨lt, ⟨he0, he1, he2, -⟩, keep⟩ := L
  have hk := keep 0 7 (by decide)
  obtain ⟨hz, hl, hr, hi⟩ := major_1F (mod_of_bits hk)
  have hf := keep 25 7 (by decide)
  refine ⟨lt, decodes (zs := []) (ne_of_bits hk (by decide)) (ne_of_bits hk (by decide)) ?_ ?_ ?_ ?_ ?_⟩
  · rw [hz, hf]; rfl
  · exact rfl
  · exact hl
  · exact hr
  · rw [hi, instrFop, hf]
    show some _ = _
    rw [fieldAt_of_bits he0, fieldAt_of_bits he1, fieldAt_of_bits he2]

theorem feqD (b a d : BitVec 6) : Statement (.feqD b a d) := by
  intro _ wd hEnc
  have L := word_layout [(19, 6), (13, 6), (7, 6)] [b.toNat, a.toNat, d.toNat] 0x1C00001F (by decide) (by decide) ⟨b.isLt, a.isLt, d.isLt, trivial⟩
  rw [show wordOn 0x1C00001F [(19, 6), (13, 6), (7, 6)] [b.toNat, a.toNat, d.toNat] = wd from Option.some.inj hEnc] at L
  obtain ⟨lt, ⟨he0, he1, he2, -⟩, keep⟩ := L
  have hk := keep 0 7 (by decide)
  obtain ⟨hz, hl, hr, hi⟩ := major_1F (mod_of_bits hk)
  have hf := keep 25 7 (by decide)
  refine ⟨lt, decodes (zs := []) (ne_of_bits hk (by decide)) (ne_of_bits hk (by decide)) ?_ ?_ ?_ ?_ ?_⟩
  · rw [hz, hf]; rfl
  · exact rfl
  · exact hl
  · exact hr
  · rw [hi, instrFop, hf]
    show some _ = _
    rw [fieldAt_of_bits he0, fieldAt_of_bits he1, fieldAt_of_bits he2]

theorem fltD (b a d : BitVec 6) : Statement (.fltD b a d) := by
  intro _ wd hEnc
  have L := word_layout [(19, 6), (13, 6), (7, 6)] [b.toNat, a.toNat, d.toNat] 0x1E00001F (by decide) (by decide) ⟨b.isLt, a.isLt, d.isLt, trivial⟩
  rw [show wordOn 0x1E00001F [(19, 6), (13, 6), (7, 6)] [b.toNat, a.toNat, d.toNat] = wd from Option.some.inj hEnc] at L
  obtain ⟨lt, ⟨he0, he1, he2, -⟩, keep⟩ := L
  have hk := keep 0 7 (by decide)
  obtain ⟨hz, hl, hr, hi⟩ := major_1F (mod_of_bits hk)
  have hf := keep 25 7 (by decide)
  refine ⟨lt, decodes (zs := []) (ne_of_bits hk (by decide)) (ne_of_bits hk (by decide)) ?_ ?_ ?_ ?_ ?_⟩
  · rw [hz, hf]; rfl
  · exact rfl
  · exact hl
  · exact hr
  · rw [hi, instrFop, hf]
    show some _ = _
    rw [fieldAt_of_bits he0, fieldAt_of_bits he1, fieldAt_of_bits he2]

theorem fleD (b a d : BitVec 6) : Statement (.fleD b a d) := by
  intro _ wd hEnc
  have L := word_layout [(19, 6), (13, 6), (7, 6)] [b.toNat, a.toNat, d.toNat] 0x2000001F (by decide) (by decide) ⟨b.isLt, a.isLt, d.isLt, trivial⟩
  rw [show wordOn 0x2000001F [(19, 6), (13, 6), (7, 6)] [b.toNat, a.toNat, d.toNat] = wd from Option.some.inj hEnc] at L
  obtain ⟨lt, ⟨he0, he1, he2, -⟩, keep⟩ := L
  have hk := keep 0 7 (by decide)
  obtain ⟨hz, hl, hr, hi⟩ := major_1F (mod_of_bits hk)
  have hf := keep 25 7 (by decide)
  refine ⟨lt, decodes (zs := []) (ne_of_bits hk (by decide)) (ne_of_bits hk (by decide)) ?_ ?_ ?_ ?_ ?_⟩
  · rw [hz, hf]; rfl
  · exact rfl
  · exact hl
  · exact hr
  · rw [hi, instrFop, hf]
    show some _ = _
    rw [fieldAt_of_bits he0, fieldAt_of_bits he1, fieldAt_of_bits he2]

theorem feqS (b a d : BitVec 6) : Statement (.feqS b a d) := by
  intro _ wd hEnc
  have L := word_layout [(19, 6), (13, 6), (7, 6)] [b.toNat, a.toNat, d.toNat] 0x2200001F (by decide) (by decide) ⟨b.isLt, a.isLt, d.isLt, trivial⟩
  rw [show wordOn 0x2200001F [(19, 6), (13, 6), (7, 6)] [b.toNat, a.toNat, d.toNat] = wd from Option.some.inj hEnc] at L
  obtain ⟨lt, ⟨he0, he1, he2, -⟩, keep⟩ := L
  have hk := keep 0 7 (by decide)
  obtain ⟨hz, hl, hr, hi⟩ := major_1F (mod_of_bits hk)
  have hf := keep 25 7 (by decide)
  refine ⟨lt, decodes (zs := []) (ne_of_bits hk (by decide)) (ne_of_bits hk (by decide)) ?_ ?_ ?_ ?_ ?_⟩
  · rw [hz, hf]; rfl
  · exact rfl
  · exact hl
  · exact hr
  · rw [hi, instrFop, hf]
    show some _ = _
    rw [fieldAt_of_bits he0, fieldAt_of_bits he1, fieldAt_of_bits he2]

theorem fltS (b a d : BitVec 6) : Statement (.fltS b a d) := by
  intro _ wd hEnc
  have L := word_layout [(19, 6), (13, 6), (7, 6)] [b.toNat, a.toNat, d.toNat] 0x2400001F (by decide) (by decide) ⟨b.isLt, a.isLt, d.isLt, trivial⟩
  rw [show wordOn 0x2400001F [(19, 6), (13, 6), (7, 6)] [b.toNat, a.toNat, d.toNat] = wd from Option.some.inj hEnc] at L
  obtain ⟨lt, ⟨he0, he1, he2, -⟩, keep⟩ := L
  have hk := keep 0 7 (by decide)
  obtain ⟨hz, hl, hr, hi⟩ := major_1F (mod_of_bits hk)
  have hf := keep 25 7 (by decide)
  refine ⟨lt, decodes (zs := []) (ne_of_bits hk (by decide)) (ne_of_bits hk (by decide)) ?_ ?_ ?_ ?_ ?_⟩
  · rw [hz, hf]; rfl
  · exact rfl
  · exact hl
  · exact hr
  · rw [hi, instrFop, hf]
    show some _ = _
    rw [fieldAt_of_bits he0, fieldAt_of_bits he1, fieldAt_of_bits he2]

theorem fleS (b a d : BitVec 6) : Statement (.fleS b a d) := by
  intro _ wd hEnc
  have L := word_layout [(19, 6), (13, 6), (7, 6)] [b.toNat, a.toNat, d.toNat] 0x2600001F (by decide) (by decide) ⟨b.isLt, a.isLt, d.isLt, trivial⟩
  rw [show wordOn 0x2600001F [(19, 6), (13, 6), (7, 6)] [b.toNat, a.toNat, d.toNat] = wd from Option.some.inj hEnc] at L
  obtain ⟨lt, ⟨he0, he1, he2, -⟩, keep⟩ := L
  have hk := keep 0 7 (by decide)
  obtain ⟨hz, hl, hr, hi⟩ := major_1F (mod_of_bits hk)
  have hf := keep 25 7 (by decide)
  refine ⟨lt, decodes (zs := []) (ne_of_bits hk (by decide)) (ne_of_bits hk (by decide)) ?_ ?_ ?_ ?_ ?_⟩
  · rw [hz, hf]; rfl
  · exact rfl
  · exact hl
  · exact hr
  · rw [hi, instrFop, hf]
    show some _ = _
    rw [fieldAt_of_bits he0, fieldAt_of_bits he1, fieldAt_of_bits he2]

theorem fcvtDL (a d : BitVec 6) : Statement (.fcvtDL a d) := by
  intro _ wd hEnc
  have L := word_layout [(13, 6), (7, 6)] [a.toNat, d.toNat] 0x2800001F (by decide) (by decide) ⟨a.isLt, d.isLt, trivial⟩
  rw [show wordOn 0x2800001F [(13, 6), (7, 6)] [a.toNat, d.toNat] = wd from Option.some.inj hEnc] at L
  obtain ⟨lt, ⟨he0, he1, -⟩, keep⟩ := L
  have hk := keep 0 7 (by decide)
  obtain ⟨hz, hl, hr, hi⟩ := major_1F (mod_of_bits hk)
  have hf := keep 25 7 (by decide)
  refine ⟨lt, decodes (zs := [(19, 6)]) (ne_of_bits hk (by decide)) (ne_of_bits hk (by decide)) ?_ ?_ ?_ ?_ ?_⟩
  · rw [hz, hf]; rfl
  · simp only [allZero, List.all_cons, List.all_nil, keep 19 6 (by decide)]; rfl
  · exact hl
  · exact hr
  · rw [hi, instrFop, hf]
    show some _ = _
    rw [fieldAt_of_bits he0, fieldAt_of_bits he1]

theorem fcvtLD (a d : BitVec 6) : Statement (.fcvtLD a d) := by
  intro _ wd hEnc
  have L := word_layout [(13, 6), (7, 6)] [a.toNat, d.toNat] 0x2A00001F (by decide) (by decide) ⟨a.isLt, d.isLt, trivial⟩
  rw [show wordOn 0x2A00001F [(13, 6), (7, 6)] [a.toNat, d.toNat] = wd from Option.some.inj hEnc] at L
  obtain ⟨lt, ⟨he0, he1, -⟩, keep⟩ := L
  have hk := keep 0 7 (by decide)
  obtain ⟨hz, hl, hr, hi⟩ := major_1F (mod_of_bits hk)
  have hf := keep 25 7 (by decide)
  refine ⟨lt, decodes (zs := [(19, 6)]) (ne_of_bits hk (by decide)) (ne_of_bits hk (by decide)) ?_ ?_ ?_ ?_ ?_⟩
  · rw [hz, hf]; rfl
  · simp only [allZero, List.all_cons, List.all_nil, keep 19 6 (by decide)]; rfl
  · exact hl
  · exact hr
  · rw [hi, instrFop, hf]
    show some _ = _
    rw [fieldAt_of_bits he0, fieldAt_of_bits he1]

theorem fcvtSD (a d : BitVec 6) : Statement (.fcvtSD a d) := by
  intro _ wd hEnc
  have L := word_layout [(13, 6), (7, 6)] [a.toNat, d.toNat] 0x2C00001F (by decide) (by decide) ⟨a.isLt, d.isLt, trivial⟩
  rw [show wordOn 0x2C00001F [(13, 6), (7, 6)] [a.toNat, d.toNat] = wd from Option.some.inj hEnc] at L
  obtain ⟨lt, ⟨he0, he1, -⟩, keep⟩ := L
  have hk := keep 0 7 (by decide)
  obtain ⟨hz, hl, hr, hi⟩ := major_1F (mod_of_bits hk)
  have hf := keep 25 7 (by decide)
  refine ⟨lt, decodes (zs := [(19, 6)]) (ne_of_bits hk (by decide)) (ne_of_bits hk (by decide)) ?_ ?_ ?_ ?_ ?_⟩
  · rw [hz, hf]; rfl
  · simp only [allZero, List.all_cons, List.all_nil, keep 19 6 (by decide)]; rfl
  · exact hl
  · exact hr
  · rw [hi, instrFop, hf]
    show some _ = _
    rw [fieldAt_of_bits he0, fieldAt_of_bits he1]

theorem fcvtDS (a d : BitVec 6) : Statement (.fcvtDS a d) := by
  intro _ wd hEnc
  have L := word_layout [(13, 6), (7, 6)] [a.toNat, d.toNat] 0x2E00001F (by decide) (by decide) ⟨a.isLt, d.isLt, trivial⟩
  rw [show wordOn 0x2E00001F [(13, 6), (7, 6)] [a.toNat, d.toNat] = wd from Option.some.inj hEnc] at L
  obtain ⟨lt, ⟨he0, he1, -⟩, keep⟩ := L
  have hk := keep 0 7 (by decide)
  obtain ⟨hz, hl, hr, hi⟩ := major_1F (mod_of_bits hk)
  have hf := keep 25 7 (by decide)
  refine ⟨lt, decodes (zs := [(19, 6)]) (ne_of_bits hk (by decide)) (ne_of_bits hk (by decide)) ?_ ?_ ?_ ?_ ?_⟩
  · rw [hz, hf]; rfl
  · simp only [allZero, List.all_cons, List.all_nil, keep 19 6 (by decide)]; rfl
  · exact hl
  · exact hr
  · rw [hi, instrFop, hf]
    show some _ = _
    rw [fieldAt_of_bits he0, fieldAt_of_bits he1]

theorem fcvtSL (a d : BitVec 6) : Statement (.fcvtSL a d) := by
  intro _ wd hEnc
  have L := word_layout [(13, 6), (7, 6)] [a.toNat, d.toNat] 0x3000001F (by decide) (by decide) ⟨a.isLt, d.isLt, trivial⟩
  rw [show wordOn 0x3000001F [(13, 6), (7, 6)] [a.toNat, d.toNat] = wd from Option.some.inj hEnc] at L
  obtain ⟨lt, ⟨he0, he1, -⟩, keep⟩ := L
  have hk := keep 0 7 (by decide)
  obtain ⟨hz, hl, hr, hi⟩ := major_1F (mod_of_bits hk)
  have hf := keep 25 7 (by decide)
  refine ⟨lt, decodes (zs := [(19, 6)]) (ne_of_bits hk (by decide)) (ne_of_bits hk (by decide)) ?_ ?_ ?_ ?_ ?_⟩
  · rw [hz, hf]; rfl
  · simp only [allZero, List.all_cons, List.all_nil, keep 19 6 (by decide)]; rfl
  · exact hl
  · exact hr
  · rw [hi, instrFop, hf]
    show some _ = _
    rw [fieldAt_of_bits he0, fieldAt_of_bits he1]

theorem fcvtLS (a d : BitVec 6) : Statement (.fcvtLS a d) := by
  intro _ wd hEnc
  have L := word_layout [(13, 6), (7, 6)] [a.toNat, d.toNat] 0x3200001F (by decide) (by decide) ⟨a.isLt, d.isLt, trivial⟩
  rw [show wordOn 0x3200001F [(13, 6), (7, 6)] [a.toNat, d.toNat] = wd from Option.some.inj hEnc] at L
  obtain ⟨lt, ⟨he0, he1, -⟩, keep⟩ := L
  have hk := keep 0 7 (by decide)
  obtain ⟨hz, hl, hr, hi⟩ := major_1F (mod_of_bits hk)
  have hf := keep 25 7 (by decide)
  refine ⟨lt, decodes (zs := [(19, 6)]) (ne_of_bits hk (by decide)) (ne_of_bits hk (by decide)) ?_ ?_ ?_ ?_ ?_⟩
  · rw [hz, hf]; rfl
  · simp only [allZero, List.all_cons, List.all_nil, keep 19 6 (by decide)]; rfl
  · exact hl
  · exact hr
  · rw [hi, instrFop, hf]
    show some _ = _
    rw [fieldAt_of_bits he0, fieldAt_of_bits he1]

theorem fclass (a d : BitVec 6) : Statement (.fclass a d) := by
  intro _ wd hEnc
  have L := word_layout [(13, 6), (7, 6)] [a.toNat, d.toNat] 0x3400001F (by decide) (by decide) ⟨a.isLt, d.isLt, trivial⟩
  rw [show wordOn 0x3400001F [(13, 6), (7, 6)] [a.toNat, d.toNat] = wd from Option.some.inj hEnc] at L
  obtain ⟨lt, ⟨he0, he1, -⟩, keep⟩ := L
  have hk := keep 0 7 (by decide)
  obtain ⟨hz, hl, hr, hi⟩ := major_1F (mod_of_bits hk)
  have hf := keep 25 7 (by decide)
  refine ⟨lt, decodes (zs := [(19, 6)]) (ne_of_bits hk (by decide)) (ne_of_bits hk (by decide)) ?_ ?_ ?_ ?_ ?_⟩
  · rw [hz, hf]; rfl
  · simp only [allZero, List.all_cons, List.all_nil, keep 19 6 (by decide)]; rfl
  · exact hl
  · exact hr
  · rw [hi, instrFop, hf]
    show some _ = _
    rw [fieldAt_of_bits he0, fieldAt_of_bits he1]

theorem fmad (c b a d : BitVec 6) : Statement (.fmad c b a d) := by
  intro _ wd hEnc
  have L := word_layout [(25, 6), (19, 6), (13, 6), (7, 6)] [c.toNat, b.toNat, a.toNat, d.toNat] 0x00000020 (by decide) (by decide) ⟨c.isLt, b.isLt, a.isLt, d.isLt, trivial⟩
  rw [show wordOn 0x00000020 [(25, 6), (19, 6), (13, 6), (7, 6)] [c.toNat, b.toNat, a.toNat, d.toNat] = wd from Option.some.inj hEnc] at L
  obtain ⟨lt, ⟨he0, he1, he2, he3, -⟩, keep⟩ := L
  have hk := keep 0 7 (by decide)
  obtain ⟨hz, hl, hr, hi⟩ := major_20 (mod_of_bits hk)
  have hf := keep 31 1 (by decide)
  refine ⟨lt, decodes (zs := []) (ne_of_bits hk (by decide)) (ne_of_bits hk (by decide)) ?_ ?_ ?_ ?_ ?_⟩
  · rw [hz, hf]; rfl
  · exact rfl
  · exact hl
  · exact hr
  · rw [hi, instrFmad, hf]
    show some _ = _
    rw [fieldAt_of_bits he0, fieldAt_of_bits he1, fieldAt_of_bits he2, fieldAt_of_bits he3]

theorem fnmad (c b a d : BitVec 6) : Statement (.fnmad c b a d) := by
  intro _ wd hEnc
  have L := word_layout [(25, 6), (19, 6), (13, 6), (7, 6)] [c.toNat, b.toNat, a.toNat, d.toNat] 0x80000020 (by decide) (by decide) ⟨c.isLt, b.isLt, a.isLt, d.isLt, trivial⟩
  rw [show wordOn 0x80000020 [(25, 6), (19, 6), (13, 6), (7, 6)] [c.toNat, b.toNat, a.toNat, d.toNat] = wd from Option.some.inj hEnc] at L
  obtain ⟨lt, ⟨he0, he1, he2, he3, -⟩, keep⟩ := L
  have hk := keep 0 7 (by decide)
  obtain ⟨hz, hl, hr, hi⟩ := major_20 (mod_of_bits hk)
  have hf := keep 31 1 (by decide)
  refine ⟨lt, decodes (zs := []) (ne_of_bits hk (by decide)) (ne_of_bits hk (by decide)) ?_ ?_ ?_ ?_ ?_⟩
  · rw [hz, hf]; rfl
  · exact rfl
  · exact hl
  · exact hr
  · rw [hi, instrFmad, hf]
    show some _ = _
    rw [fieldAt_of_bits he0, fieldAt_of_bits he1, fieldAt_of_bits he2, fieldAt_of_bits he3]

theorem fmas (c b a d : BitVec 6) : Statement (.fmas c b a d) := by
  intro _ wd hEnc
  have L := word_layout [(25, 6), (19, 6), (13, 6), (7, 6)] [c.toNat, b.toNat, a.toNat, d.toNat] 0x00000021 (by decide) (by decide) ⟨c.isLt, b.isLt, a.isLt, d.isLt, trivial⟩
  rw [show wordOn 0x00000021 [(25, 6), (19, 6), (13, 6), (7, 6)] [c.toNat, b.toNat, a.toNat, d.toNat] = wd from Option.some.inj hEnc] at L
  obtain ⟨lt, ⟨he0, he1, he2, he3, -⟩, keep⟩ := L
  have hk := keep 0 7 (by decide)
  obtain ⟨hz, hl, hr, hi⟩ := major_21 (mod_of_bits hk)
  have hf := keep 31 1 (by decide)
  refine ⟨lt, decodes (zs := []) (ne_of_bits hk (by decide)) (ne_of_bits hk (by decide)) ?_ ?_ ?_ ?_ ?_⟩
  · rw [hz, hf]; rfl
  · exact rfl
  · exact hl
  · exact hr
  · rw [hi, instrFmas, hf]
    show some _ = _
    rw [fieldAt_of_bits he0, fieldAt_of_bits he1, fieldAt_of_bits he2, fieldAt_of_bits he3]

theorem fnmas (c b a d : BitVec 6) : Statement (.fnmas c b a d) := by
  intro _ wd hEnc
  have L := word_layout [(25, 6), (19, 6), (13, 6), (7, 6)] [c.toNat, b.toNat, a.toNat, d.toNat] 0x80000021 (by decide) (by decide) ⟨c.isLt, b.isLt, a.isLt, d.isLt, trivial⟩
  rw [show wordOn 0x80000021 [(25, 6), (19, 6), (13, 6), (7, 6)] [c.toNat, b.toNat, a.toNat, d.toNat] = wd from Option.some.inj hEnc] at L
  obtain ⟨lt, ⟨he0, he1, he2, he3, -⟩, keep⟩ := L
  have hk := keep 0 7 (by decide)
  obtain ⟨hz, hl, hr, hi⟩ := major_21 (mod_of_bits hk)
  have hf := keep 31 1 (by decide)
  refine ⟨lt, decodes (zs := []) (ne_of_bits hk (by decide)) (ne_of_bits hk (by decide)) ?_ ?_ ?_ ?_ ?_⟩
  · rw [hz, hf]; rfl
  · exact rfl
  · exact hl
  · exact hr
  · rw [hi, instrFmas, hf]
    show some _ = _
    rw [fieldAt_of_bits he0, fieldAt_of_bits he1, fieldAt_of_bits he2, fieldAt_of_bits he3]

theorem cxch (c : BitVec 11) (a d : BitVec 6) : Statement (.cxch c a d) := by
  intro _ wd hEnc
  have L := word_layout [(19, 11), (13, 6), (7, 6)] [c.toNat, a.toNat, d.toNat] 0x00000022 (by decide) (by decide) ⟨c.isLt, a.isLt, d.isLt, trivial⟩
  rw [show wordOn 0x00000022 [(19, 11), (13, 6), (7, 6)] [c.toNat, a.toNat, d.toNat] = wd from Option.some.inj hEnc] at L
  obtain ⟨lt, ⟨he0, he1, he2, -⟩, keep⟩ := L
  have hk := keep 0 7 (by decide)
  obtain ⟨hz, hl, hr, hi⟩ := major_22 (mod_of_bits hk)
  have hf := keep 30 2 (by decide)
  refine ⟨lt, decodes (zs := []) (ne_of_bits hk (by decide)) (ne_of_bits hk (by decide)) ?_ ?_ ?_ ?_ ?_⟩
  · rw [hz, hf]; rfl
  · exact rfl
  · exact hl
  · exact hr
  · rw [hi, instrCsr, hf]
    show some _ = _
    rw [fieldAt_of_bits he0, fieldAt_of_bits he1, fieldAt_of_bits he2]

theorem csetb (c : BitVec 11) (a d : BitVec 6) : Statement (.csetb c a d) := by
  intro _ wd hEnc
  have L := word_layout [(19, 11), (13, 6), (7, 6)] [c.toNat, a.toNat, d.toNat] 0x40000022 (by decide) (by decide) ⟨c.isLt, a.isLt, d.isLt, trivial⟩
  rw [show wordOn 0x40000022 [(19, 11), (13, 6), (7, 6)] [c.toNat, a.toNat, d.toNat] = wd from Option.some.inj hEnc] at L
  obtain ⟨lt, ⟨he0, he1, he2, -⟩, keep⟩ := L
  have hk := keep 0 7 (by decide)
  obtain ⟨hz, hl, hr, hi⟩ := major_22 (mod_of_bits hk)
  have hf := keep 30 2 (by decide)
  refine ⟨lt, decodes (zs := []) (ne_of_bits hk (by decide)) (ne_of_bits hk (by decide)) ?_ ?_ ?_ ?_ ?_⟩
  · rw [hz, hf]; rfl
  · exact rfl
  · exact hl
  · exact hr
  · rw [hi, instrCsr, hf]
    show some _ = _
    rw [fieldAt_of_bits he0, fieldAt_of_bits he1, fieldAt_of_bits he2]

theorem cclrb (c : BitVec 11) (a d : BitVec 6) : Statement (.cclrb c a d) := by
  intro _ wd hEnc
  have L := word_layout [(19, 11), (13, 6), (7, 6)] [c.toNat, a.toNat, d.toNat] 0x80000022 (by decide) (by decide) ⟨c.isLt, a.isLt, d.isLt, trivial⟩
  rw [show wordOn 0x80000022 [(19, 11), (13, 6), (7, 6)] [c.toNat, a.toNat, d.toNat] = wd from Option.some.inj hEnc] at L
  obtain ⟨lt, ⟨he0, he1, he2, -⟩, keep⟩ := L
  have hk := keep 0 7 (by decide)
  obtain ⟨hz, hl, hr, hi⟩ := major_22 (mod_of_bits hk)
  have hf := keep 30 2 (by decide)
  refine ⟨lt, decodes (zs := []) (ne_of_bits hk (by decide)) (ne_of_bits hk (by decide)) ?_ ?_ ?_ ?_ ?_⟩
  · rw [hz, hf]; rfl
  · exact rfl
  · exact hl
  · exact hr
  · rw [hi, instrCsr, hf]
    show some _ = _
    rw [fieldAt_of_bits he0, fieldAt_of_bits he1, fieldAt_of_bits he2]

theorem cread (c : BitVec 11) (d : BitVec 6) : Statement (.cread c d) := by
  intro _ wd hEnc
  have L := word_layout [(19, 11), (7, 6)] [c.toNat, d.toNat] 0xC0000022 (by decide) (by decide) ⟨c.isLt, d.isLt, trivial⟩
  rw [show wordOn 0xC0000022 [(19, 11), (7, 6)] [c.toNat, d.toNat] = wd from Option.some.inj hEnc] at L
  obtain ⟨lt, ⟨he0, he1, -⟩, keep⟩ := L
  have hk := keep 0 7 (by decide)
  obtain ⟨hz, hl, hr, hi⟩ := major_22 (mod_of_bits hk)
  have hf := keep 30 2 (by decide)
  refine ⟨lt, decodes (zs := [(13, 6)]) (ne_of_bits hk (by decide)) (ne_of_bits hk (by decide)) ?_ ?_ ?_ ?_ ?_⟩
  · rw [hz, hf]; rfl
  · simp only [allZero, List.all_cons, List.all_nil, keep 13 6 (by decide)]; rfl
  · exact hl
  · exact hr
  · rw [hi, instrCsr, hf]
    show some _ = _
    rw [fieldAt_of_bits he0, fieldAt_of_bits he1]

theorem ecall : Statement .ecall := by
  intro _ wd hEnc
  have L := word_layout [] [] 0x00000023 (by decide) rfl trivial
  rw [show wordOn 0x00000023 [] [] = wd from Option.some.inj hEnc] at L
  obtain ⟨lt, -, keep⟩ := L
  have hk := keep 0 7 (by decide)
  obtain ⟨hz, hl, hr, hi⟩ := major_23 (mod_of_bits hk)
  have hf := keep 25 7 (by decide)
  refine ⟨lt, decodes (zs := [(7, 18)]) (ne_of_bits hk (by decide)) (ne_of_bits hk (by decide)) ?_ ?_ ?_ ?_ ?_⟩
  · rw [hz, hf]; rfl
  · simp only [allZero, List.all_cons, List.all_nil, keep 7 18 (by decide)]; rfl
  · exact hl
  · exact hr
  · rw [hi, instrSys, hf]
    show some _ = _
    rfl

theorem ebreak : Statement .ebreak := by
  intro _ wd hEnc
  have L := word_layout [] [] 0x02000023 (by decide) rfl trivial
  rw [show wordOn 0x02000023 [] [] = wd from Option.some.inj hEnc] at L
  obtain ⟨lt, -, keep⟩ := L
  have hk := keep 0 7 (by decide)
  obtain ⟨hz, hl, hr, hi⟩ := major_23 (mod_of_bits hk)
  have hf := keep 25 7 (by decide)
  refine ⟨lt, decodes (zs := [(7, 18)]) (ne_of_bits hk (by decide)) (ne_of_bits hk (by decide)) ?_ ?_ ?_ ?_ ?_⟩
  · rw [hz, hf]; rfl
  · simp only [allZero, List.all_cons, List.all_nil, keep 7 18 (by decide)]; rfl
  · exact hl
  · exact hr
  · rw [hi, instrSys, hf]
    show some _ = _
    rfl

theorem eret : Statement .eret := by
  intro _ wd hEnc
  have L := word_layout [] [] 0x04000023 (by decide) rfl trivial
  rw [show wordOn 0x04000023 [] [] = wd from Option.some.inj hEnc] at L
  obtain ⟨lt, -, keep⟩ := L
  have hk := keep 0 7 (by decide)
  obtain ⟨hz, hl, hr, hi⟩ := major_23 (mod_of_bits hk)
  have hf := keep 25 7 (by decide)
  refine ⟨lt, decodes (zs := [(7, 18)]) (ne_of_bits hk (by decide)) (ne_of_bits hk (by decide)) ?_ ?_ ?_ ?_ ?_⟩
  · rw [hz, hf]; rfl
  · simp only [allZero, List.all_cons, List.all_nil, keep 7 18 (by decide)]; rfl
  · exact hl
  · exact hr
  · rw [hi, instrSys, hf]
    show some _ = _
    rfl

theorem wfi : Statement .wfi := by
  intro _ wd hEnc
  have L := word_layout [] [] 0x06000023 (by decide) rfl trivial
  rw [show wordOn 0x06000023 [] [] = wd from Option.some.inj hEnc] at L
  obtain ⟨lt, -, keep⟩ := L
  have hk := keep 0 7 (by decide)
  obtain ⟨hz, hl, hr, hi⟩ := major_23 (mod_of_bits hk)
  have hf := keep 25 7 (by decide)
  refine ⟨lt, decodes (zs := [(7, 18)]) (ne_of_bits hk (by decide)) (ne_of_bits hk (by decide)) ?_ ?_ ?_ ?_ ?_⟩
  · rw [hz, hf]; rfl
  · simp only [allZero, List.all_cons, List.all_nil, keep 7 18 (by decide)]; rfl
  · exact hl
  · exact hr
  · rw [hi, instrSys, hf]
    show some _ = _
    rfl

theorem halt : Statement .halt := by
  intro _ wd hEnc
  have L := word_layout [] [] 0x08000023 (by decide) rfl trivial
  rw [show wordOn 0x08000023 [] [] = wd from Option.some.inj hEnc] at L
  obtain ⟨lt, -, keep⟩ := L
  have hk := keep 0 7 (by decide)
  obtain ⟨hz, hl, hr, hi⟩ := major_23 (mod_of_bits hk)
  have hf := keep 25 7 (by decide)
  refine ⟨lt, decodes (zs := [(7, 18)]) (ne_of_bits hk (by decide)) (ne_of_bits hk (by decide)) ?_ ?_ ?_ ?_ ?_⟩
  · rw [hz, hf]; rfl
  · simp only [allZero, List.all_cons, List.all_nil, keep 7 18 (by decide)]; rfl
  · exact hl
  · exact hr
  · rw [hi, instrSys, hf]
    show some _ = _
    rfl

theorem ifence : Statement .ifence := by
  intro _ wd hEnc
  have L := word_layout [] [] 0x0A000023 (by decide) rfl trivial
  rw [show wordOn 0x0A000023 [] [] = wd from Option.some.inj hEnc] at L
  obtain ⟨lt, -, keep⟩ := L
  have hk := keep 0 7 (by decide)
  obtain ⟨hz, hl, hr, hi⟩ := major_23 (mod_of_bits hk)
  have hf := keep 25 7 (by decide)
  refine ⟨lt, decodes (zs := [(7, 18)]) (ne_of_bits hk (by decide)) (ne_of_bits hk (by decide)) ?_ ?_ ?_ ?_ ?_⟩
  · rw [hz, hf]; rfl
  · simp only [allZero, List.all_cons, List.all_nil, keep 7 18 (by decide)]; rfl
  · exact hl
  · exact hr
  · rw [hi, instrSys, hf]
    show some _ = _
    rfl

theorem pause : Statement .pause := by
  intro _ wd hEnc
  have L := word_layout [] [] 0x0C000023 (by decide) rfl trivial
  rw [show wordOn 0x0C000023 [] [] = wd from Option.some.inj hEnc] at L
  obtain ⟨lt, -, keep⟩ := L
  have hk := keep 0 7 (by decide)
  obtain ⟨hz, hl, hr, hi⟩ := major_23 (mod_of_bits hk)
  have hf := keep 25 7 (by decide)
  refine ⟨lt, decodes (zs := [(7, 18)]) (ne_of_bits hk (by decide)) (ne_of_bits hk (by decide)) ?_ ?_ ?_ ?_ ?_⟩
  · rw [hz, hf]; rfl
  · simp only [allZero, List.all_cons, List.all_nil, keep 7 18 (by decide)]; rfl
  · exact hl
  · exact hr
  · rw [hi, instrSys, hf]
    show some _ = _
    rfl

theorem setvl (t : BitVec 13) (a d : BitVec 6) : Statement (.setvl t a d) := by
  intro _ wd hEnc
  have L := word_layout [(19, 13), (13, 6), (7, 6)] [t.toNat, a.toNat, d.toNat] 0x00000030 (by decide) (by decide) ⟨t.isLt, a.isLt, d.isLt, trivial⟩
  rw [show wordOn 0x00000030 [(19, 13), (13, 6), (7, 6)] [t.toNat, a.toNat, d.toNat] = wd from Option.some.inj hEnc] at L
  obtain ⟨lt, ⟨he0, he1, he2, -⟩, keep⟩ := L
  have hk := keep 0 7 (by decide)
  obtain ⟨hz, hl, hr, hi⟩ := major_30 (mod_of_bits hk)
  refine ⟨lt, decodes (zs := []) (ne_of_bits hk (by decide)) (ne_of_bits hk (by decide)) ?_ ?_ ?_ ?_ ?_⟩
  · exact hz
  · exact rfl
  · exact hl
  · exact hr
  · rw [hi, fieldAt_of_bits he0, fieldAt_of_bits he1, fieldAt_of_bits he2]

theorem setvlr (b a d : BitVec 6) : Statement (.setvlr b a d) := by
  intro _ wd hEnc
  have L := word_layout [(19, 6), (13, 6), (7, 6)] [b.toNat, a.toNat, d.toNat] 0x00000031 (by decide) (by decide) ⟨b.isLt, a.isLt, d.isLt, trivial⟩
  rw [show wordOn 0x00000031 [(19, 6), (13, 6), (7, 6)] [b.toNat, a.toNat, d.toNat] = wd from Option.some.inj hEnc] at L
  obtain ⟨lt, ⟨he0, he1, he2, -⟩, keep⟩ := L
  have hk := keep 0 7 (by decide)
  obtain ⟨hz, hl, hr, hi⟩ := major_31 (mod_of_bits hk)
  refine ⟨lt, decodes (zs := [(25, 7)]) (ne_of_bits hk (by decide)) (ne_of_bits hk (by decide)) ?_ ?_ ?_ ?_ ?_⟩
  · exact hz
  · simp only [allZero, List.all_cons, List.all_nil, keep 25 7 (by decide)]; rfl
  · exact hl
  · exact hr
  · rw [hi, fieldAt_of_bits he0, fieldAt_of_bits he1, fieldAt_of_bits he2]

theorem vadd (m : BitVec 3) (b a d : BitVec 5) : Statement (.vadd m b a d) := by
  intro _ wd hEnc
  have L := word_layout [(22, 3), (17, 5), (12, 5), (7, 5)] [m.toNat, b.toNat, a.toNat, d.toNat] 0x00000032 (by decide) (by decide) ⟨m.isLt, b.isLt, a.isLt, d.isLt, trivial⟩
  rw [show wordOn 0x00000032 [(22, 3), (17, 5), (12, 5), (7, 5)] [m.toNat, b.toNat, a.toNat, d.toNat] = wd from Option.some.inj hEnc] at L
  obtain ⟨lt, ⟨he0, he1, he2, he3, -⟩, keep⟩ := L
  have hk := keep 0 7 (by decide)
  obtain ⟨hz, hl, hr, hi⟩ := major_32 (mod_of_bits hk)
  have hf := keep 25 7 (by decide)
  refine ⟨lt, decodes (zs := []) (ne_of_bits hk (by decide)) (ne_of_bits hk (by decide)) ?_ ?_ ?_ ?_ ?_⟩
  · rw [hz, hf]; rfl
  · exact rfl
  · exact hl
  · exact hr
  · rw [hi, instrVint, hf]
    show some _ = _
    rw [fieldAt_of_bits he0, fieldAt_of_bits he1, fieldAt_of_bits he2, fieldAt_of_bits he3]

theorem vsub (m : BitVec 3) (b a d : BitVec 5) : Statement (.vsub m b a d) := by
  intro _ wd hEnc
  have L := word_layout [(22, 3), (17, 5), (12, 5), (7, 5)] [m.toNat, b.toNat, a.toNat, d.toNat] 0x02000032 (by decide) (by decide) ⟨m.isLt, b.isLt, a.isLt, d.isLt, trivial⟩
  rw [show wordOn 0x02000032 [(22, 3), (17, 5), (12, 5), (7, 5)] [m.toNat, b.toNat, a.toNat, d.toNat] = wd from Option.some.inj hEnc] at L
  obtain ⟨lt, ⟨he0, he1, he2, he3, -⟩, keep⟩ := L
  have hk := keep 0 7 (by decide)
  obtain ⟨hz, hl, hr, hi⟩ := major_32 (mod_of_bits hk)
  have hf := keep 25 7 (by decide)
  refine ⟨lt, decodes (zs := []) (ne_of_bits hk (by decide)) (ne_of_bits hk (by decide)) ?_ ?_ ?_ ?_ ?_⟩
  · rw [hz, hf]; rfl
  · exact rfl
  · exact hl
  · exact hr
  · rw [hi, instrVint, hf]
    show some _ = _
    rw [fieldAt_of_bits he0, fieldAt_of_bits he1, fieldAt_of_bits he2, fieldAt_of_bits he3]

theorem vrsub (m : BitVec 3) (b a d : BitVec 5) : Statement (.vrsub m b a d) := by
  intro _ wd hEnc
  have L := word_layout [(22, 3), (17, 5), (12, 5), (7, 5)] [m.toNat, b.toNat, a.toNat, d.toNat] 0x04000032 (by decide) (by decide) ⟨m.isLt, b.isLt, a.isLt, d.isLt, trivial⟩
  rw [show wordOn 0x04000032 [(22, 3), (17, 5), (12, 5), (7, 5)] [m.toNat, b.toNat, a.toNat, d.toNat] = wd from Option.some.inj hEnc] at L
  obtain ⟨lt, ⟨he0, he1, he2, he3, -⟩, keep⟩ := L
  have hk := keep 0 7 (by decide)
  obtain ⟨hz, hl, hr, hi⟩ := major_32 (mod_of_bits hk)
  have hf := keep 25 7 (by decide)
  refine ⟨lt, decodes (zs := []) (ne_of_bits hk (by decide)) (ne_of_bits hk (by decide)) ?_ ?_ ?_ ?_ ?_⟩
  · rw [hz, hf]; rfl
  · exact rfl
  · exact hl
  · exact hr
  · rw [hi, instrVint, hf]
    show some _ = _
    rw [fieldAt_of_bits he0, fieldAt_of_bits he1, fieldAt_of_bits he2, fieldAt_of_bits he3]

theorem vmul (m : BitVec 3) (b a d : BitVec 5) : Statement (.vmul m b a d) := by
  intro _ wd hEnc
  have L := word_layout [(22, 3), (17, 5), (12, 5), (7, 5)] [m.toNat, b.toNat, a.toNat, d.toNat] 0x06000032 (by decide) (by decide) ⟨m.isLt, b.isLt, a.isLt, d.isLt, trivial⟩
  rw [show wordOn 0x06000032 [(22, 3), (17, 5), (12, 5), (7, 5)] [m.toNat, b.toNat, a.toNat, d.toNat] = wd from Option.some.inj hEnc] at L
  obtain ⟨lt, ⟨he0, he1, he2, he3, -⟩, keep⟩ := L
  have hk := keep 0 7 (by decide)
  obtain ⟨hz, hl, hr, hi⟩ := major_32 (mod_of_bits hk)
  have hf := keep 25 7 (by decide)
  refine ⟨lt, decodes (zs := []) (ne_of_bits hk (by decide)) (ne_of_bits hk (by decide)) ?_ ?_ ?_ ?_ ?_⟩
  · rw [hz, hf]; rfl
  · exact rfl
  · exact hl
  · exact hr
  · rw [hi, instrVint, hf]
    show some _ = _
    rw [fieldAt_of_bits he0, fieldAt_of_bits he1, fieldAt_of_bits he2, fieldAt_of_bits he3]

theorem vmulh (m : BitVec 3) (b a d : BitVec 5) : Statement (.vmulh m b a d) := by
  intro _ wd hEnc
  have L := word_layout [(22, 3), (17, 5), (12, 5), (7, 5)] [m.toNat, b.toNat, a.toNat, d.toNat] 0x08000032 (by decide) (by decide) ⟨m.isLt, b.isLt, a.isLt, d.isLt, trivial⟩
  rw [show wordOn 0x08000032 [(22, 3), (17, 5), (12, 5), (7, 5)] [m.toNat, b.toNat, a.toNat, d.toNat] = wd from Option.some.inj hEnc] at L
  obtain ⟨lt, ⟨he0, he1, he2, he3, -⟩, keep⟩ := L
  have hk := keep 0 7 (by decide)
  obtain ⟨hz, hl, hr, hi⟩ := major_32 (mod_of_bits hk)
  have hf := keep 25 7 (by decide)
  refine ⟨lt, decodes (zs := []) (ne_of_bits hk (by decide)) (ne_of_bits hk (by decide)) ?_ ?_ ?_ ?_ ?_⟩
  · rw [hz, hf]; rfl
  · exact rfl
  · exact hl
  · exact hr
  · rw [hi, instrVint, hf]
    show some _ = _
    rw [fieldAt_of_bits he0, fieldAt_of_bits he1, fieldAt_of_bits he2, fieldAt_of_bits he3]

theorem vmulhu (m : BitVec 3) (b a d : BitVec 5) : Statement (.vmulhu m b a d) := by
  intro _ wd hEnc
  have L := word_layout [(22, 3), (17, 5), (12, 5), (7, 5)] [m.toNat, b.toNat, a.toNat, d.toNat] 0x0A000032 (by decide) (by decide) ⟨m.isLt, b.isLt, a.isLt, d.isLt, trivial⟩
  rw [show wordOn 0x0A000032 [(22, 3), (17, 5), (12, 5), (7, 5)] [m.toNat, b.toNat, a.toNat, d.toNat] = wd from Option.some.inj hEnc] at L
  obtain ⟨lt, ⟨he0, he1, he2, he3, -⟩, keep⟩ := L
  have hk := keep 0 7 (by decide)
  obtain ⟨hz, hl, hr, hi⟩ := major_32 (mod_of_bits hk)
  have hf := keep 25 7 (by decide)
  refine ⟨lt, decodes (zs := []) (ne_of_bits hk (by decide)) (ne_of_bits hk (by decide)) ?_ ?_ ?_ ?_ ?_⟩
  · rw [hz, hf]; rfl
  · exact rfl
  · exact hl
  · exact hr
  · rw [hi, instrVint, hf]
    show some _ = _
    rw [fieldAt_of_bits he0, fieldAt_of_bits he1, fieldAt_of_bits he2, fieldAt_of_bits he3]

theorem vand (m : BitVec 3) (b a d : BitVec 5) : Statement (.vand m b a d) := by
  intro _ wd hEnc
  have L := word_layout [(22, 3), (17, 5), (12, 5), (7, 5)] [m.toNat, b.toNat, a.toNat, d.toNat] 0x0C000032 (by decide) (by decide) ⟨m.isLt, b.isLt, a.isLt, d.isLt, trivial⟩
  rw [show wordOn 0x0C000032 [(22, 3), (17, 5), (12, 5), (7, 5)] [m.toNat, b.toNat, a.toNat, d.toNat] = wd from Option.some.inj hEnc] at L
  obtain ⟨lt, ⟨he0, he1, he2, he3, -⟩, keep⟩ := L
  have hk := keep 0 7 (by decide)
  obtain ⟨hz, hl, hr, hi⟩ := major_32 (mod_of_bits hk)
  have hf := keep 25 7 (by decide)
  refine ⟨lt, decodes (zs := []) (ne_of_bits hk (by decide)) (ne_of_bits hk (by decide)) ?_ ?_ ?_ ?_ ?_⟩
  · rw [hz, hf]; rfl
  · exact rfl
  · exact hl
  · exact hr
  · rw [hi, instrVint, hf]
    show some _ = _
    rw [fieldAt_of_bits he0, fieldAt_of_bits he1, fieldAt_of_bits he2, fieldAt_of_bits he3]

theorem vor (m : BitVec 3) (b a d : BitVec 5) : Statement (.vor m b a d) := by
  intro _ wd hEnc
  have L := word_layout [(22, 3), (17, 5), (12, 5), (7, 5)] [m.toNat, b.toNat, a.toNat, d.toNat] 0x0E000032 (by decide) (by decide) ⟨m.isLt, b.isLt, a.isLt, d.isLt, trivial⟩
  rw [show wordOn 0x0E000032 [(22, 3), (17, 5), (12, 5), (7, 5)] [m.toNat, b.toNat, a.toNat, d.toNat] = wd from Option.some.inj hEnc] at L
  obtain ⟨lt, ⟨he0, he1, he2, he3, -⟩, keep⟩ := L
  have hk := keep 0 7 (by decide)
  obtain ⟨hz, hl, hr, hi⟩ := major_32 (mod_of_bits hk)
  have hf := keep 25 7 (by decide)
  refine ⟨lt, decodes (zs := []) (ne_of_bits hk (by decide)) (ne_of_bits hk (by decide)) ?_ ?_ ?_ ?_ ?_⟩
  · rw [hz, hf]; rfl
  · exact rfl
  · exact hl
  · exact hr
  · rw [hi, instrVint, hf]
    show some _ = _
    rw [fieldAt_of_bits he0, fieldAt_of_bits he1, fieldAt_of_bits he2, fieldAt_of_bits he3]

theorem vxor (m : BitVec 3) (b a d : BitVec 5) : Statement (.vxor m b a d) := by
  intro _ wd hEnc
  have L := word_layout [(22, 3), (17, 5), (12, 5), (7, 5)] [m.toNat, b.toNat, a.toNat, d.toNat] 0x10000032 (by decide) (by decide) ⟨m.isLt, b.isLt, a.isLt, d.isLt, trivial⟩
  rw [show wordOn 0x10000032 [(22, 3), (17, 5), (12, 5), (7, 5)] [m.toNat, b.toNat, a.toNat, d.toNat] = wd from Option.some.inj hEnc] at L
  obtain ⟨lt, ⟨he0, he1, he2, he3, -⟩, keep⟩ := L
  have hk := keep 0 7 (by decide)
  obtain ⟨hz, hl, hr, hi⟩ := major_32 (mod_of_bits hk)
  have hf := keep 25 7 (by decide)
  refine ⟨lt, decodes (zs := []) (ne_of_bits hk (by decide)) (ne_of_bits hk (by decide)) ?_ ?_ ?_ ?_ ?_⟩
  · rw [hz, hf]; rfl
  · exact rfl
  · exact hl
  · exact hr
  · rw [hi, instrVint, hf]
    show some _ = _
    rw [fieldAt_of_bits he0, fieldAt_of_bits he1, fieldAt_of_bits he2, fieldAt_of_bits he3]

theorem vsll (m : BitVec 3) (b a d : BitVec 5) : Statement (.vsll m b a d) := by
  intro _ wd hEnc
  have L := word_layout [(22, 3), (17, 5), (12, 5), (7, 5)] [m.toNat, b.toNat, a.toNat, d.toNat] 0x12000032 (by decide) (by decide) ⟨m.isLt, b.isLt, a.isLt, d.isLt, trivial⟩
  rw [show wordOn 0x12000032 [(22, 3), (17, 5), (12, 5), (7, 5)] [m.toNat, b.toNat, a.toNat, d.toNat] = wd from Option.some.inj hEnc] at L
  obtain ⟨lt, ⟨he0, he1, he2, he3, -⟩, keep⟩ := L
  have hk := keep 0 7 (by decide)
  obtain ⟨hz, hl, hr, hi⟩ := major_32 (mod_of_bits hk)
  have hf := keep 25 7 (by decide)
  refine ⟨lt, decodes (zs := []) (ne_of_bits hk (by decide)) (ne_of_bits hk (by decide)) ?_ ?_ ?_ ?_ ?_⟩
  · rw [hz, hf]; rfl
  · exact rfl
  · exact hl
  · exact hr
  · rw [hi, instrVint, hf]
    show some _ = _
    rw [fieldAt_of_bits he0, fieldAt_of_bits he1, fieldAt_of_bits he2, fieldAt_of_bits he3]

theorem vsrl (m : BitVec 3) (b a d : BitVec 5) : Statement (.vsrl m b a d) := by
  intro _ wd hEnc
  have L := word_layout [(22, 3), (17, 5), (12, 5), (7, 5)] [m.toNat, b.toNat, a.toNat, d.toNat] 0x14000032 (by decide) (by decide) ⟨m.isLt, b.isLt, a.isLt, d.isLt, trivial⟩
  rw [show wordOn 0x14000032 [(22, 3), (17, 5), (12, 5), (7, 5)] [m.toNat, b.toNat, a.toNat, d.toNat] = wd from Option.some.inj hEnc] at L
  obtain ⟨lt, ⟨he0, he1, he2, he3, -⟩, keep⟩ := L
  have hk := keep 0 7 (by decide)
  obtain ⟨hz, hl, hr, hi⟩ := major_32 (mod_of_bits hk)
  have hf := keep 25 7 (by decide)
  refine ⟨lt, decodes (zs := []) (ne_of_bits hk (by decide)) (ne_of_bits hk (by decide)) ?_ ?_ ?_ ?_ ?_⟩
  · rw [hz, hf]; rfl
  · exact rfl
  · exact hl
  · exact hr
  · rw [hi, instrVint, hf]
    show some _ = _
    rw [fieldAt_of_bits he0, fieldAt_of_bits he1, fieldAt_of_bits he2, fieldAt_of_bits he3]

theorem vsra (m : BitVec 3) (b a d : BitVec 5) : Statement (.vsra m b a d) := by
  intro _ wd hEnc
  have L := word_layout [(22, 3), (17, 5), (12, 5), (7, 5)] [m.toNat, b.toNat, a.toNat, d.toNat] 0x16000032 (by decide) (by decide) ⟨m.isLt, b.isLt, a.isLt, d.isLt, trivial⟩
  rw [show wordOn 0x16000032 [(22, 3), (17, 5), (12, 5), (7, 5)] [m.toNat, b.toNat, a.toNat, d.toNat] = wd from Option.some.inj hEnc] at L
  obtain ⟨lt, ⟨he0, he1, he2, he3, -⟩, keep⟩ := L
  have hk := keep 0 7 (by decide)
  obtain ⟨hz, hl, hr, hi⟩ := major_32 (mod_of_bits hk)
  have hf := keep 25 7 (by decide)
  refine ⟨lt, decodes (zs := []) (ne_of_bits hk (by decide)) (ne_of_bits hk (by decide)) ?_ ?_ ?_ ?_ ?_⟩
  · rw [hz, hf]; rfl
  · exact rfl
  · exact hl
  · exact hr
  · rw [hi, instrVint, hf]
    show some _ = _
    rw [fieldAt_of_bits he0, fieldAt_of_bits he1, fieldAt_of_bits he2, fieldAt_of_bits he3]

theorem vmin (m : BitVec 3) (b a d : BitVec 5) : Statement (.vmin m b a d) := by
  intro _ wd hEnc
  have L := word_layout [(22, 3), (17, 5), (12, 5), (7, 5)] [m.toNat, b.toNat, a.toNat, d.toNat] 0x18000032 (by decide) (by decide) ⟨m.isLt, b.isLt, a.isLt, d.isLt, trivial⟩
  rw [show wordOn 0x18000032 [(22, 3), (17, 5), (12, 5), (7, 5)] [m.toNat, b.toNat, a.toNat, d.toNat] = wd from Option.some.inj hEnc] at L
  obtain ⟨lt, ⟨he0, he1, he2, he3, -⟩, keep⟩ := L
  have hk := keep 0 7 (by decide)
  obtain ⟨hz, hl, hr, hi⟩ := major_32 (mod_of_bits hk)
  have hf := keep 25 7 (by decide)
  refine ⟨lt, decodes (zs := []) (ne_of_bits hk (by decide)) (ne_of_bits hk (by decide)) ?_ ?_ ?_ ?_ ?_⟩
  · rw [hz, hf]; rfl
  · exact rfl
  · exact hl
  · exact hr
  · rw [hi, instrVint, hf]
    show some _ = _
    rw [fieldAt_of_bits he0, fieldAt_of_bits he1, fieldAt_of_bits he2, fieldAt_of_bits he3]

theorem vmax (m : BitVec 3) (b a d : BitVec 5) : Statement (.vmax m b a d) := by
  intro _ wd hEnc
  have L := word_layout [(22, 3), (17, 5), (12, 5), (7, 5)] [m.toNat, b.toNat, a.toNat, d.toNat] 0x1A000032 (by decide) (by decide) ⟨m.isLt, b.isLt, a.isLt, d.isLt, trivial⟩
  rw [show wordOn 0x1A000032 [(22, 3), (17, 5), (12, 5), (7, 5)] [m.toNat, b.toNat, a.toNat, d.toNat] = wd from Option.some.inj hEnc] at L
  obtain ⟨lt, ⟨he0, he1, he2, he3, -⟩, keep⟩ := L
  have hk := keep 0 7 (by decide)
  obtain ⟨hz, hl, hr, hi⟩ := major_32 (mod_of_bits hk)
  have hf := keep 25 7 (by decide)
  refine ⟨lt, decodes (zs := []) (ne_of_bits hk (by decide)) (ne_of_bits hk (by decide)) ?_ ?_ ?_ ?_ ?_⟩
  · rw [hz, hf]; rfl
  · exact rfl
  · exact hl
  · exact hr
  · rw [hi, instrVint, hf]
    show some _ = _
    rw [fieldAt_of_bits he0, fieldAt_of_bits he1, fieldAt_of_bits he2, fieldAt_of_bits he3]

theorem vminu (m : BitVec 3) (b a d : BitVec 5) : Statement (.vminu m b a d) := by
  intro _ wd hEnc
  have L := word_layout [(22, 3), (17, 5), (12, 5), (7, 5)] [m.toNat, b.toNat, a.toNat, d.toNat] 0x1C000032 (by decide) (by decide) ⟨m.isLt, b.isLt, a.isLt, d.isLt, trivial⟩
  rw [show wordOn 0x1C000032 [(22, 3), (17, 5), (12, 5), (7, 5)] [m.toNat, b.toNat, a.toNat, d.toNat] = wd from Option.some.inj hEnc] at L
  obtain ⟨lt, ⟨he0, he1, he2, he3, -⟩, keep⟩ := L
  have hk := keep 0 7 (by decide)
  obtain ⟨hz, hl, hr, hi⟩ := major_32 (mod_of_bits hk)
  have hf := keep 25 7 (by decide)
  refine ⟨lt, decodes (zs := []) (ne_of_bits hk (by decide)) (ne_of_bits hk (by decide)) ?_ ?_ ?_ ?_ ?_⟩
  · rw [hz, hf]; rfl
  · exact rfl
  · exact hl
  · exact hr
  · rw [hi, instrVint, hf]
    show some _ = _
    rw [fieldAt_of_bits he0, fieldAt_of_bits he1, fieldAt_of_bits he2, fieldAt_of_bits he3]

theorem vmaxu (m : BitVec 3) (b a d : BitVec 5) : Statement (.vmaxu m b a d) := by
  intro _ wd hEnc
  have L := word_layout [(22, 3), (17, 5), (12, 5), (7, 5)] [m.toNat, b.toNat, a.toNat, d.toNat] 0x1E000032 (by decide) (by decide) ⟨m.isLt, b.isLt, a.isLt, d.isLt, trivial⟩
  rw [show wordOn 0x1E000032 [(22, 3), (17, 5), (12, 5), (7, 5)] [m.toNat, b.toNat, a.toNat, d.toNat] = wd from Option.some.inj hEnc] at L
  obtain ⟨lt, ⟨he0, he1, he2, he3, -⟩, keep⟩ := L
  have hk := keep 0 7 (by decide)
  obtain ⟨hz, hl, hr, hi⟩ := major_32 (mod_of_bits hk)
  have hf := keep 25 7 (by decide)
  refine ⟨lt, decodes (zs := []) (ne_of_bits hk (by decide)) (ne_of_bits hk (by decide)) ?_ ?_ ?_ ?_ ?_⟩
  · rw [hz, hf]; rfl
  · exact rfl
  · exact hl
  · exact hr
  · rw [hi, instrVint, hf]
    show some _ = _
    rw [fieldAt_of_bits he0, fieldAt_of_bits he1, fieldAt_of_bits he2, fieldAt_of_bits he3]

theorem vsadd (m : BitVec 3) (b a d : BitVec 5) : Statement (.vsadd m b a d) := by
  intro _ wd hEnc
  have L := word_layout [(22, 3), (17, 5), (12, 5), (7, 5)] [m.toNat, b.toNat, a.toNat, d.toNat] 0x20000032 (by decide) (by decide) ⟨m.isLt, b.isLt, a.isLt, d.isLt, trivial⟩
  rw [show wordOn 0x20000032 [(22, 3), (17, 5), (12, 5), (7, 5)] [m.toNat, b.toNat, a.toNat, d.toNat] = wd from Option.some.inj hEnc] at L
  obtain ⟨lt, ⟨he0, he1, he2, he3, -⟩, keep⟩ := L
  have hk := keep 0 7 (by decide)
  obtain ⟨hz, hl, hr, hi⟩ := major_32 (mod_of_bits hk)
  have hf := keep 25 7 (by decide)
  refine ⟨lt, decodes (zs := []) (ne_of_bits hk (by decide)) (ne_of_bits hk (by decide)) ?_ ?_ ?_ ?_ ?_⟩
  · rw [hz, hf]; rfl
  · exact rfl
  · exact hl
  · exact hr
  · rw [hi, instrVint, hf]
    show some _ = _
    rw [fieldAt_of_bits he0, fieldAt_of_bits he1, fieldAt_of_bits he2, fieldAt_of_bits he3]

theorem vssub (m : BitVec 3) (b a d : BitVec 5) : Statement (.vssub m b a d) := by
  intro _ wd hEnc
  have L := word_layout [(22, 3), (17, 5), (12, 5), (7, 5)] [m.toNat, b.toNat, a.toNat, d.toNat] 0x22000032 (by decide) (by decide) ⟨m.isLt, b.isLt, a.isLt, d.isLt, trivial⟩
  rw [show wordOn 0x22000032 [(22, 3), (17, 5), (12, 5), (7, 5)] [m.toNat, b.toNat, a.toNat, d.toNat] = wd from Option.some.inj hEnc] at L
  obtain ⟨lt, ⟨he0, he1, he2, he3, -⟩, keep⟩ := L
  have hk := keep 0 7 (by decide)
  obtain ⟨hz, hl, hr, hi⟩ := major_32 (mod_of_bits hk)
  have hf := keep 25 7 (by decide)
  refine ⟨lt, decodes (zs := []) (ne_of_bits hk (by decide)) (ne_of_bits hk (by decide)) ?_ ?_ ?_ ?_ ?_⟩
  · rw [hz, hf]; rfl
  · exact rfl
  · exact hl
  · exact hr
  · rw [hi, instrVint, hf]
    show some _ = _
    rw [fieldAt_of_bits he0, fieldAt_of_bits he1, fieldAt_of_bits he2, fieldAt_of_bits he3]

theorem vsaddu (m : BitVec 3) (b a d : BitVec 5) : Statement (.vsaddu m b a d) := by
  intro _ wd hEnc
  have L := word_layout [(22, 3), (17, 5), (12, 5), (7, 5)] [m.toNat, b.toNat, a.toNat, d.toNat] 0x24000032 (by decide) (by decide) ⟨m.isLt, b.isLt, a.isLt, d.isLt, trivial⟩
  rw [show wordOn 0x24000032 [(22, 3), (17, 5), (12, 5), (7, 5)] [m.toNat, b.toNat, a.toNat, d.toNat] = wd from Option.some.inj hEnc] at L
  obtain ⟨lt, ⟨he0, he1, he2, he3, -⟩, keep⟩ := L
  have hk := keep 0 7 (by decide)
  obtain ⟨hz, hl, hr, hi⟩ := major_32 (mod_of_bits hk)
  have hf := keep 25 7 (by decide)
  refine ⟨lt, decodes (zs := []) (ne_of_bits hk (by decide)) (ne_of_bits hk (by decide)) ?_ ?_ ?_ ?_ ?_⟩
  · rw [hz, hf]; rfl
  · exact rfl
  · exact hl
  · exact hr
  · rw [hi, instrVint, hf]
    show some _ = _
    rw [fieldAt_of_bits he0, fieldAt_of_bits he1, fieldAt_of_bits he2, fieldAt_of_bits he3]

theorem vssubu (m : BitVec 3) (b a d : BitVec 5) : Statement (.vssubu m b a d) := by
  intro _ wd hEnc
  have L := word_layout [(22, 3), (17, 5), (12, 5), (7, 5)] [m.toNat, b.toNat, a.toNat, d.toNat] 0x26000032 (by decide) (by decide) ⟨m.isLt, b.isLt, a.isLt, d.isLt, trivial⟩
  rw [show wordOn 0x26000032 [(22, 3), (17, 5), (12, 5), (7, 5)] [m.toNat, b.toNat, a.toNat, d.toNat] = wd from Option.some.inj hEnc] at L
  obtain ⟨lt, ⟨he0, he1, he2, he3, -⟩, keep⟩ := L
  have hk := keep 0 7 (by decide)
  obtain ⟨hz, hl, hr, hi⟩ := major_32 (mod_of_bits hk)
  have hf := keep 25 7 (by decide)
  refine ⟨lt, decodes (zs := []) (ne_of_bits hk (by decide)) (ne_of_bits hk (by decide)) ?_ ?_ ?_ ?_ ?_⟩
  · rw [hz, hf]; rfl
  · exact rfl
  · exact hl
  · exact hr
  · rw [hi, instrVint, hf]
    show some _ = _
    rw [fieldAt_of_bits he0, fieldAt_of_bits he1, fieldAt_of_bits he2, fieldAt_of_bits he3]

theorem vmadd (m : BitVec 3) (b a d : BitVec 5) : Statement (.vmadd m b a d) := by
  intro _ wd hEnc
  have L := word_layout [(22, 3), (17, 5), (12, 5), (7, 5)] [m.toNat, b.toNat, a.toNat, d.toNat] 0x28000032 (by decide) (by decide) ⟨m.isLt, b.isLt, a.isLt, d.isLt, trivial⟩
  rw [show wordOn 0x28000032 [(22, 3), (17, 5), (12, 5), (7, 5)] [m.toNat, b.toNat, a.toNat, d.toNat] = wd from Option.some.inj hEnc] at L
  obtain ⟨lt, ⟨he0, he1, he2, he3, -⟩, keep⟩ := L
  have hk := keep 0 7 (by decide)
  obtain ⟨hz, hl, hr, hi⟩ := major_32 (mod_of_bits hk)
  have hf := keep 25 7 (by decide)
  refine ⟨lt, decodes (zs := []) (ne_of_bits hk (by decide)) (ne_of_bits hk (by decide)) ?_ ?_ ?_ ?_ ?_⟩
  · rw [hz, hf]; rfl
  · exact rfl
  · exact hl
  · exact hr
  · rw [hi, instrVint, hf]
    show some _ = _
    rw [fieldAt_of_bits he0, fieldAt_of_bits he1, fieldAt_of_bits he2, fieldAt_of_bits he3]

theorem vabsd (m : BitVec 3) (b a d : BitVec 5) : Statement (.vabsd m b a d) := by
  intro _ wd hEnc
  have L := word_layout [(22, 3), (17, 5), (12, 5), (7, 5)] [m.toNat, b.toNat, a.toNat, d.toNat] 0x2A000032 (by decide) (by decide) ⟨m.isLt, b.isLt, a.isLt, d.isLt, trivial⟩
  rw [show wordOn 0x2A000032 [(22, 3), (17, 5), (12, 5), (7, 5)] [m.toNat, b.toNat, a.toNat, d.toNat] = wd from Option.some.inj hEnc] at L
  obtain ⟨lt, ⟨he0, he1, he2, he3, -⟩, keep⟩ := L
  have hk := keep 0 7 (by decide)
  obtain ⟨hz, hl, hr, hi⟩ := major_32 (mod_of_bits hk)
  have hf := keep 25 7 (by decide)
  refine ⟨lt, decodes (zs := []) (ne_of_bits hk (by decide)) (ne_of_bits hk (by decide)) ?_ ?_ ?_ ?_ ?_⟩
  · rw [hz, hf]; rfl
  · exact rfl
  · exact hl
  · exact hr
  · rw [hi, instrVint, hf]
    show some _ = _
    rw [fieldAt_of_bits he0, fieldAt_of_bits he1, fieldAt_of_bits he2, fieldAt_of_bits he3]

theorem vaddVx (m : BitVec 3) (s a d : BitVec 5) : Statement (.vaddVx m s a d) := by
  intro _ wd hEnc
  have L := word_layout [(22, 3), (17, 5), (12, 5), (7, 5)] [m.toNat, s.toNat, a.toNat, d.toNat] 0x00000033 (by decide) (by decide) ⟨m.isLt, s.isLt, a.isLt, d.isLt, trivial⟩
  rw [show wordOn 0x00000033 [(22, 3), (17, 5), (12, 5), (7, 5)] [m.toNat, s.toNat, a.toNat, d.toNat] = wd from Option.some.inj hEnc] at L
  obtain ⟨lt, ⟨he0, he1, he2, he3, -⟩, keep⟩ := L
  have hk := keep 0 7 (by decide)
  obtain ⟨hz, hl, hr, hi⟩ := major_33 (mod_of_bits hk)
  have hf := keep 25 7 (by decide)
  refine ⟨lt, decodes (zs := []) (ne_of_bits hk (by decide)) (ne_of_bits hk (by decide)) ?_ ?_ ?_ ?_ ?_⟩
  · rw [hz, hf]; rfl
  · exact rfl
  · exact hl
  · exact hr
  · rw [hi, instrVintx, hf]
    show some _ = _
    rw [fieldAt_of_bits he0, fieldAt_of_bits he1, fieldAt_of_bits he2, fieldAt_of_bits he3]

theorem vsubVx (m : BitVec 3) (s a d : BitVec 5) : Statement (.vsubVx m s a d) := by
  intro _ wd hEnc
  have L := word_layout [(22, 3), (17, 5), (12, 5), (7, 5)] [m.toNat, s.toNat, a.toNat, d.toNat] 0x02000033 (by decide) (by decide) ⟨m.isLt, s.isLt, a.isLt, d.isLt, trivial⟩
  rw [show wordOn 0x02000033 [(22, 3), (17, 5), (12, 5), (7, 5)] [m.toNat, s.toNat, a.toNat, d.toNat] = wd from Option.some.inj hEnc] at L
  obtain ⟨lt, ⟨he0, he1, he2, he3, -⟩, keep⟩ := L
  have hk := keep 0 7 (by decide)
  obtain ⟨hz, hl, hr, hi⟩ := major_33 (mod_of_bits hk)
  have hf := keep 25 7 (by decide)
  refine ⟨lt, decodes (zs := []) (ne_of_bits hk (by decide)) (ne_of_bits hk (by decide)) ?_ ?_ ?_ ?_ ?_⟩
  · rw [hz, hf]; rfl
  · exact rfl
  · exact hl
  · exact hr
  · rw [hi, instrVintx, hf]
    show some _ = _
    rw [fieldAt_of_bits he0, fieldAt_of_bits he1, fieldAt_of_bits he2, fieldAt_of_bits he3]

theorem vrsubVx (m : BitVec 3) (s a d : BitVec 5) : Statement (.vrsubVx m s a d) := by
  intro _ wd hEnc
  have L := word_layout [(22, 3), (17, 5), (12, 5), (7, 5)] [m.toNat, s.toNat, a.toNat, d.toNat] 0x04000033 (by decide) (by decide) ⟨m.isLt, s.isLt, a.isLt, d.isLt, trivial⟩
  rw [show wordOn 0x04000033 [(22, 3), (17, 5), (12, 5), (7, 5)] [m.toNat, s.toNat, a.toNat, d.toNat] = wd from Option.some.inj hEnc] at L
  obtain ⟨lt, ⟨he0, he1, he2, he3, -⟩, keep⟩ := L
  have hk := keep 0 7 (by decide)
  obtain ⟨hz, hl, hr, hi⟩ := major_33 (mod_of_bits hk)
  have hf := keep 25 7 (by decide)
  refine ⟨lt, decodes (zs := []) (ne_of_bits hk (by decide)) (ne_of_bits hk (by decide)) ?_ ?_ ?_ ?_ ?_⟩
  · rw [hz, hf]; rfl
  · exact rfl
  · exact hl
  · exact hr
  · rw [hi, instrVintx, hf]
    show some _ = _
    rw [fieldAt_of_bits he0, fieldAt_of_bits he1, fieldAt_of_bits he2, fieldAt_of_bits he3]

theorem vmulVx (m : BitVec 3) (s a d : BitVec 5) : Statement (.vmulVx m s a d) := by
  intro _ wd hEnc
  have L := word_layout [(22, 3), (17, 5), (12, 5), (7, 5)] [m.toNat, s.toNat, a.toNat, d.toNat] 0x06000033 (by decide) (by decide) ⟨m.isLt, s.isLt, a.isLt, d.isLt, trivial⟩
  rw [show wordOn 0x06000033 [(22, 3), (17, 5), (12, 5), (7, 5)] [m.toNat, s.toNat, a.toNat, d.toNat] = wd from Option.some.inj hEnc] at L
  obtain ⟨lt, ⟨he0, he1, he2, he3, -⟩, keep⟩ := L
  have hk := keep 0 7 (by decide)
  obtain ⟨hz, hl, hr, hi⟩ := major_33 (mod_of_bits hk)
  have hf := keep 25 7 (by decide)
  refine ⟨lt, decodes (zs := []) (ne_of_bits hk (by decide)) (ne_of_bits hk (by decide)) ?_ ?_ ?_ ?_ ?_⟩
  · rw [hz, hf]; rfl
  · exact rfl
  · exact hl
  · exact hr
  · rw [hi, instrVintx, hf]
    show some _ = _
    rw [fieldAt_of_bits he0, fieldAt_of_bits he1, fieldAt_of_bits he2, fieldAt_of_bits he3]

theorem vmulhVx (m : BitVec 3) (s a d : BitVec 5) : Statement (.vmulhVx m s a d) := by
  intro _ wd hEnc
  have L := word_layout [(22, 3), (17, 5), (12, 5), (7, 5)] [m.toNat, s.toNat, a.toNat, d.toNat] 0x08000033 (by decide) (by decide) ⟨m.isLt, s.isLt, a.isLt, d.isLt, trivial⟩
  rw [show wordOn 0x08000033 [(22, 3), (17, 5), (12, 5), (7, 5)] [m.toNat, s.toNat, a.toNat, d.toNat] = wd from Option.some.inj hEnc] at L
  obtain ⟨lt, ⟨he0, he1, he2, he3, -⟩, keep⟩ := L
  have hk := keep 0 7 (by decide)
  obtain ⟨hz, hl, hr, hi⟩ := major_33 (mod_of_bits hk)
  have hf := keep 25 7 (by decide)
  refine ⟨lt, decodes (zs := []) (ne_of_bits hk (by decide)) (ne_of_bits hk (by decide)) ?_ ?_ ?_ ?_ ?_⟩
  · rw [hz, hf]; rfl
  · exact rfl
  · exact hl
  · exact hr
  · rw [hi, instrVintx, hf]
    show some _ = _
    rw [fieldAt_of_bits he0, fieldAt_of_bits he1, fieldAt_of_bits he2, fieldAt_of_bits he3]

theorem vmulhuVx (m : BitVec 3) (s a d : BitVec 5) : Statement (.vmulhuVx m s a d) := by
  intro _ wd hEnc
  have L := word_layout [(22, 3), (17, 5), (12, 5), (7, 5)] [m.toNat, s.toNat, a.toNat, d.toNat] 0x0A000033 (by decide) (by decide) ⟨m.isLt, s.isLt, a.isLt, d.isLt, trivial⟩
  rw [show wordOn 0x0A000033 [(22, 3), (17, 5), (12, 5), (7, 5)] [m.toNat, s.toNat, a.toNat, d.toNat] = wd from Option.some.inj hEnc] at L
  obtain ⟨lt, ⟨he0, he1, he2, he3, -⟩, keep⟩ := L
  have hk := keep 0 7 (by decide)
  obtain ⟨hz, hl, hr, hi⟩ := major_33 (mod_of_bits hk)
  have hf := keep 25 7 (by decide)
  refine ⟨lt, decodes (zs := []) (ne_of_bits hk (by decide)) (ne_of_bits hk (by decide)) ?_ ?_ ?_ ?_ ?_⟩
  · rw [hz, hf]; rfl
  · exact rfl
  · exact hl
  · exact hr
  · rw [hi, instrVintx, hf]
    show some _ = _
    rw [fieldAt_of_bits he0, fieldAt_of_bits he1, fieldAt_of_bits he2, fieldAt_of_bits he3]

theorem vandVx (m : BitVec 3) (s a d : BitVec 5) : Statement (.vandVx m s a d) := by
  intro _ wd hEnc
  have L := word_layout [(22, 3), (17, 5), (12, 5), (7, 5)] [m.toNat, s.toNat, a.toNat, d.toNat] 0x0C000033 (by decide) (by decide) ⟨m.isLt, s.isLt, a.isLt, d.isLt, trivial⟩
  rw [show wordOn 0x0C000033 [(22, 3), (17, 5), (12, 5), (7, 5)] [m.toNat, s.toNat, a.toNat, d.toNat] = wd from Option.some.inj hEnc] at L
  obtain ⟨lt, ⟨he0, he1, he2, he3, -⟩, keep⟩ := L
  have hk := keep 0 7 (by decide)
  obtain ⟨hz, hl, hr, hi⟩ := major_33 (mod_of_bits hk)
  have hf := keep 25 7 (by decide)
  refine ⟨lt, decodes (zs := []) (ne_of_bits hk (by decide)) (ne_of_bits hk (by decide)) ?_ ?_ ?_ ?_ ?_⟩
  · rw [hz, hf]; rfl
  · exact rfl
  · exact hl
  · exact hr
  · rw [hi, instrVintx, hf]
    show some _ = _
    rw [fieldAt_of_bits he0, fieldAt_of_bits he1, fieldAt_of_bits he2, fieldAt_of_bits he3]

theorem vorVx (m : BitVec 3) (s a d : BitVec 5) : Statement (.vorVx m s a d) := by
  intro _ wd hEnc
  have L := word_layout [(22, 3), (17, 5), (12, 5), (7, 5)] [m.toNat, s.toNat, a.toNat, d.toNat] 0x0E000033 (by decide) (by decide) ⟨m.isLt, s.isLt, a.isLt, d.isLt, trivial⟩
  rw [show wordOn 0x0E000033 [(22, 3), (17, 5), (12, 5), (7, 5)] [m.toNat, s.toNat, a.toNat, d.toNat] = wd from Option.some.inj hEnc] at L
  obtain ⟨lt, ⟨he0, he1, he2, he3, -⟩, keep⟩ := L
  have hk := keep 0 7 (by decide)
  obtain ⟨hz, hl, hr, hi⟩ := major_33 (mod_of_bits hk)
  have hf := keep 25 7 (by decide)
  refine ⟨lt, decodes (zs := []) (ne_of_bits hk (by decide)) (ne_of_bits hk (by decide)) ?_ ?_ ?_ ?_ ?_⟩
  · rw [hz, hf]; rfl
  · exact rfl
  · exact hl
  · exact hr
  · rw [hi, instrVintx, hf]
    show some _ = _
    rw [fieldAt_of_bits he0, fieldAt_of_bits he1, fieldAt_of_bits he2, fieldAt_of_bits he3]

theorem vxorVx (m : BitVec 3) (s a d : BitVec 5) : Statement (.vxorVx m s a d) := by
  intro _ wd hEnc
  have L := word_layout [(22, 3), (17, 5), (12, 5), (7, 5)] [m.toNat, s.toNat, a.toNat, d.toNat] 0x10000033 (by decide) (by decide) ⟨m.isLt, s.isLt, a.isLt, d.isLt, trivial⟩
  rw [show wordOn 0x10000033 [(22, 3), (17, 5), (12, 5), (7, 5)] [m.toNat, s.toNat, a.toNat, d.toNat] = wd from Option.some.inj hEnc] at L
  obtain ⟨lt, ⟨he0, he1, he2, he3, -⟩, keep⟩ := L
  have hk := keep 0 7 (by decide)
  obtain ⟨hz, hl, hr, hi⟩ := major_33 (mod_of_bits hk)
  have hf := keep 25 7 (by decide)
  refine ⟨lt, decodes (zs := []) (ne_of_bits hk (by decide)) (ne_of_bits hk (by decide)) ?_ ?_ ?_ ?_ ?_⟩
  · rw [hz, hf]; rfl
  · exact rfl
  · exact hl
  · exact hr
  · rw [hi, instrVintx, hf]
    show some _ = _
    rw [fieldAt_of_bits he0, fieldAt_of_bits he1, fieldAt_of_bits he2, fieldAt_of_bits he3]

theorem vsllVx (m : BitVec 3) (s a d : BitVec 5) : Statement (.vsllVx m s a d) := by
  intro _ wd hEnc
  have L := word_layout [(22, 3), (17, 5), (12, 5), (7, 5)] [m.toNat, s.toNat, a.toNat, d.toNat] 0x12000033 (by decide) (by decide) ⟨m.isLt, s.isLt, a.isLt, d.isLt, trivial⟩
  rw [show wordOn 0x12000033 [(22, 3), (17, 5), (12, 5), (7, 5)] [m.toNat, s.toNat, a.toNat, d.toNat] = wd from Option.some.inj hEnc] at L
  obtain ⟨lt, ⟨he0, he1, he2, he3, -⟩, keep⟩ := L
  have hk := keep 0 7 (by decide)
  obtain ⟨hz, hl, hr, hi⟩ := major_33 (mod_of_bits hk)
  have hf := keep 25 7 (by decide)
  refine ⟨lt, decodes (zs := []) (ne_of_bits hk (by decide)) (ne_of_bits hk (by decide)) ?_ ?_ ?_ ?_ ?_⟩
  · rw [hz, hf]; rfl
  · exact rfl
  · exact hl
  · exact hr
  · rw [hi, instrVintx, hf]
    show some _ = _
    rw [fieldAt_of_bits he0, fieldAt_of_bits he1, fieldAt_of_bits he2, fieldAt_of_bits he3]

theorem vsrlVx (m : BitVec 3) (s a d : BitVec 5) : Statement (.vsrlVx m s a d) := by
  intro _ wd hEnc
  have L := word_layout [(22, 3), (17, 5), (12, 5), (7, 5)] [m.toNat, s.toNat, a.toNat, d.toNat] 0x14000033 (by decide) (by decide) ⟨m.isLt, s.isLt, a.isLt, d.isLt, trivial⟩
  rw [show wordOn 0x14000033 [(22, 3), (17, 5), (12, 5), (7, 5)] [m.toNat, s.toNat, a.toNat, d.toNat] = wd from Option.some.inj hEnc] at L
  obtain ⟨lt, ⟨he0, he1, he2, he3, -⟩, keep⟩ := L
  have hk := keep 0 7 (by decide)
  obtain ⟨hz, hl, hr, hi⟩ := major_33 (mod_of_bits hk)
  have hf := keep 25 7 (by decide)
  refine ⟨lt, decodes (zs := []) (ne_of_bits hk (by decide)) (ne_of_bits hk (by decide)) ?_ ?_ ?_ ?_ ?_⟩
  · rw [hz, hf]; rfl
  · exact rfl
  · exact hl
  · exact hr
  · rw [hi, instrVintx, hf]
    show some _ = _
    rw [fieldAt_of_bits he0, fieldAt_of_bits he1, fieldAt_of_bits he2, fieldAt_of_bits he3]

theorem vsraVx (m : BitVec 3) (s a d : BitVec 5) : Statement (.vsraVx m s a d) := by
  intro _ wd hEnc
  have L := word_layout [(22, 3), (17, 5), (12, 5), (7, 5)] [m.toNat, s.toNat, a.toNat, d.toNat] 0x16000033 (by decide) (by decide) ⟨m.isLt, s.isLt, a.isLt, d.isLt, trivial⟩
  rw [show wordOn 0x16000033 [(22, 3), (17, 5), (12, 5), (7, 5)] [m.toNat, s.toNat, a.toNat, d.toNat] = wd from Option.some.inj hEnc] at L
  obtain ⟨lt, ⟨he0, he1, he2, he3, -⟩, keep⟩ := L
  have hk := keep 0 7 (by decide)
  obtain ⟨hz, hl, hr, hi⟩ := major_33 (mod_of_bits hk)
  have hf := keep 25 7 (by decide)
  refine ⟨lt, decodes (zs := []) (ne_of_bits hk (by decide)) (ne_of_bits hk (by decide)) ?_ ?_ ?_ ?_ ?_⟩
  · rw [hz, hf]; rfl
  · exact rfl
  · exact hl
  · exact hr
  · rw [hi, instrVintx, hf]
    show some _ = _
    rw [fieldAt_of_bits he0, fieldAt_of_bits he1, fieldAt_of_bits he2, fieldAt_of_bits he3]

theorem vminVx (m : BitVec 3) (s a d : BitVec 5) : Statement (.vminVx m s a d) := by
  intro _ wd hEnc
  have L := word_layout [(22, 3), (17, 5), (12, 5), (7, 5)] [m.toNat, s.toNat, a.toNat, d.toNat] 0x18000033 (by decide) (by decide) ⟨m.isLt, s.isLt, a.isLt, d.isLt, trivial⟩
  rw [show wordOn 0x18000033 [(22, 3), (17, 5), (12, 5), (7, 5)] [m.toNat, s.toNat, a.toNat, d.toNat] = wd from Option.some.inj hEnc] at L
  obtain ⟨lt, ⟨he0, he1, he2, he3, -⟩, keep⟩ := L
  have hk := keep 0 7 (by decide)
  obtain ⟨hz, hl, hr, hi⟩ := major_33 (mod_of_bits hk)
  have hf := keep 25 7 (by decide)
  refine ⟨lt, decodes (zs := []) (ne_of_bits hk (by decide)) (ne_of_bits hk (by decide)) ?_ ?_ ?_ ?_ ?_⟩
  · rw [hz, hf]; rfl
  · exact rfl
  · exact hl
  · exact hr
  · rw [hi, instrVintx, hf]
    show some _ = _
    rw [fieldAt_of_bits he0, fieldAt_of_bits he1, fieldAt_of_bits he2, fieldAt_of_bits he3]

theorem vmaxVx (m : BitVec 3) (s a d : BitVec 5) : Statement (.vmaxVx m s a d) := by
  intro _ wd hEnc
  have L := word_layout [(22, 3), (17, 5), (12, 5), (7, 5)] [m.toNat, s.toNat, a.toNat, d.toNat] 0x1A000033 (by decide) (by decide) ⟨m.isLt, s.isLt, a.isLt, d.isLt, trivial⟩
  rw [show wordOn 0x1A000033 [(22, 3), (17, 5), (12, 5), (7, 5)] [m.toNat, s.toNat, a.toNat, d.toNat] = wd from Option.some.inj hEnc] at L
  obtain ⟨lt, ⟨he0, he1, he2, he3, -⟩, keep⟩ := L
  have hk := keep 0 7 (by decide)
  obtain ⟨hz, hl, hr, hi⟩ := major_33 (mod_of_bits hk)
  have hf := keep 25 7 (by decide)
  refine ⟨lt, decodes (zs := []) (ne_of_bits hk (by decide)) (ne_of_bits hk (by decide)) ?_ ?_ ?_ ?_ ?_⟩
  · rw [hz, hf]; rfl
  · exact rfl
  · exact hl
  · exact hr
  · rw [hi, instrVintx, hf]
    show some _ = _
    rw [fieldAt_of_bits he0, fieldAt_of_bits he1, fieldAt_of_bits he2, fieldAt_of_bits he3]

theorem vminuVx (m : BitVec 3) (s a d : BitVec 5) : Statement (.vminuVx m s a d) := by
  intro _ wd hEnc
  have L := word_layout [(22, 3), (17, 5), (12, 5), (7, 5)] [m.toNat, s.toNat, a.toNat, d.toNat] 0x1C000033 (by decide) (by decide) ⟨m.isLt, s.isLt, a.isLt, d.isLt, trivial⟩
  rw [show wordOn 0x1C000033 [(22, 3), (17, 5), (12, 5), (7, 5)] [m.toNat, s.toNat, a.toNat, d.toNat] = wd from Option.some.inj hEnc] at L
  obtain ⟨lt, ⟨he0, he1, he2, he3, -⟩, keep⟩ := L
  have hk := keep 0 7 (by decide)
  obtain ⟨hz, hl, hr, hi⟩ := major_33 (mod_of_bits hk)
  have hf := keep 25 7 (by decide)
  refine ⟨lt, decodes (zs := []) (ne_of_bits hk (by decide)) (ne_of_bits hk (by decide)) ?_ ?_ ?_ ?_ ?_⟩
  · rw [hz, hf]; rfl
  · exact rfl
  · exact hl
  · exact hr
  · rw [hi, instrVintx, hf]
    show some _ = _
    rw [fieldAt_of_bits he0, fieldAt_of_bits he1, fieldAt_of_bits he2, fieldAt_of_bits he3]

theorem vmaxuVx (m : BitVec 3) (s a d : BitVec 5) : Statement (.vmaxuVx m s a d) := by
  intro _ wd hEnc
  have L := word_layout [(22, 3), (17, 5), (12, 5), (7, 5)] [m.toNat, s.toNat, a.toNat, d.toNat] 0x1E000033 (by decide) (by decide) ⟨m.isLt, s.isLt, a.isLt, d.isLt, trivial⟩
  rw [show wordOn 0x1E000033 [(22, 3), (17, 5), (12, 5), (7, 5)] [m.toNat, s.toNat, a.toNat, d.toNat] = wd from Option.some.inj hEnc] at L
  obtain ⟨lt, ⟨he0, he1, he2, he3, -⟩, keep⟩ := L
  have hk := keep 0 7 (by decide)
  obtain ⟨hz, hl, hr, hi⟩ := major_33 (mod_of_bits hk)
  have hf := keep 25 7 (by decide)
  refine ⟨lt, decodes (zs := []) (ne_of_bits hk (by decide)) (ne_of_bits hk (by decide)) ?_ ?_ ?_ ?_ ?_⟩
  · rw [hz, hf]; rfl
  · exact rfl
  · exact hl
  · exact hr
  · rw [hi, instrVintx, hf]
    show some _ = _
    rw [fieldAt_of_bits he0, fieldAt_of_bits he1, fieldAt_of_bits he2, fieldAt_of_bits he3]

theorem vsaddVx (m : BitVec 3) (s a d : BitVec 5) : Statement (.vsaddVx m s a d) := by
  intro _ wd hEnc
  have L := word_layout [(22, 3), (17, 5), (12, 5), (7, 5)] [m.toNat, s.toNat, a.toNat, d.toNat] 0x20000033 (by decide) (by decide) ⟨m.isLt, s.isLt, a.isLt, d.isLt, trivial⟩
  rw [show wordOn 0x20000033 [(22, 3), (17, 5), (12, 5), (7, 5)] [m.toNat, s.toNat, a.toNat, d.toNat] = wd from Option.some.inj hEnc] at L
  obtain ⟨lt, ⟨he0, he1, he2, he3, -⟩, keep⟩ := L
  have hk := keep 0 7 (by decide)
  obtain ⟨hz, hl, hr, hi⟩ := major_33 (mod_of_bits hk)
  have hf := keep 25 7 (by decide)
  refine ⟨lt, decodes (zs := []) (ne_of_bits hk (by decide)) (ne_of_bits hk (by decide)) ?_ ?_ ?_ ?_ ?_⟩
  · rw [hz, hf]; rfl
  · exact rfl
  · exact hl
  · exact hr
  · rw [hi, instrVintx, hf]
    show some _ = _
    rw [fieldAt_of_bits he0, fieldAt_of_bits he1, fieldAt_of_bits he2, fieldAt_of_bits he3]

theorem vssubVx (m : BitVec 3) (s a d : BitVec 5) : Statement (.vssubVx m s a d) := by
  intro _ wd hEnc
  have L := word_layout [(22, 3), (17, 5), (12, 5), (7, 5)] [m.toNat, s.toNat, a.toNat, d.toNat] 0x22000033 (by decide) (by decide) ⟨m.isLt, s.isLt, a.isLt, d.isLt, trivial⟩
  rw [show wordOn 0x22000033 [(22, 3), (17, 5), (12, 5), (7, 5)] [m.toNat, s.toNat, a.toNat, d.toNat] = wd from Option.some.inj hEnc] at L
  obtain ⟨lt, ⟨he0, he1, he2, he3, -⟩, keep⟩ := L
  have hk := keep 0 7 (by decide)
  obtain ⟨hz, hl, hr, hi⟩ := major_33 (mod_of_bits hk)
  have hf := keep 25 7 (by decide)
  refine ⟨lt, decodes (zs := []) (ne_of_bits hk (by decide)) (ne_of_bits hk (by decide)) ?_ ?_ ?_ ?_ ?_⟩
  · rw [hz, hf]; rfl
  · exact rfl
  · exact hl
  · exact hr
  · rw [hi, instrVintx, hf]
    show some _ = _
    rw [fieldAt_of_bits he0, fieldAt_of_bits he1, fieldAt_of_bits he2, fieldAt_of_bits he3]

theorem vsadduVx (m : BitVec 3) (s a d : BitVec 5) : Statement (.vsadduVx m s a d) := by
  intro _ wd hEnc
  have L := word_layout [(22, 3), (17, 5), (12, 5), (7, 5)] [m.toNat, s.toNat, a.toNat, d.toNat] 0x24000033 (by decide) (by decide) ⟨m.isLt, s.isLt, a.isLt, d.isLt, trivial⟩
  rw [show wordOn 0x24000033 [(22, 3), (17, 5), (12, 5), (7, 5)] [m.toNat, s.toNat, a.toNat, d.toNat] = wd from Option.some.inj hEnc] at L
  obtain ⟨lt, ⟨he0, he1, he2, he3, -⟩, keep⟩ := L
  have hk := keep 0 7 (by decide)
  obtain ⟨hz, hl, hr, hi⟩ := major_33 (mod_of_bits hk)
  have hf := keep 25 7 (by decide)
  refine ⟨lt, decodes (zs := []) (ne_of_bits hk (by decide)) (ne_of_bits hk (by decide)) ?_ ?_ ?_ ?_ ?_⟩
  · rw [hz, hf]; rfl
  · exact rfl
  · exact hl
  · exact hr
  · rw [hi, instrVintx, hf]
    show some _ = _
    rw [fieldAt_of_bits he0, fieldAt_of_bits he1, fieldAt_of_bits he2, fieldAt_of_bits he3]

theorem vssubuVx (m : BitVec 3) (s a d : BitVec 5) : Statement (.vssubuVx m s a d) := by
  intro _ wd hEnc
  have L := word_layout [(22, 3), (17, 5), (12, 5), (7, 5)] [m.toNat, s.toNat, a.toNat, d.toNat] 0x26000033 (by decide) (by decide) ⟨m.isLt, s.isLt, a.isLt, d.isLt, trivial⟩
  rw [show wordOn 0x26000033 [(22, 3), (17, 5), (12, 5), (7, 5)] [m.toNat, s.toNat, a.toNat, d.toNat] = wd from Option.some.inj hEnc] at L
  obtain ⟨lt, ⟨he0, he1, he2, he3, -⟩, keep⟩ := L
  have hk := keep 0 7 (by decide)
  obtain ⟨hz, hl, hr, hi⟩ := major_33 (mod_of_bits hk)
  have hf := keep 25 7 (by decide)
  refine ⟨lt, decodes (zs := []) (ne_of_bits hk (by decide)) (ne_of_bits hk (by decide)) ?_ ?_ ?_ ?_ ?_⟩
  · rw [hz, hf]; rfl
  · exact rfl
  · exact hl
  · exact hr
  · rw [hi, instrVintx, hf]
    show some _ = _
    rw [fieldAt_of_bits he0, fieldAt_of_bits he1, fieldAt_of_bits he2, fieldAt_of_bits he3]

theorem vmaddVx (m : BitVec 3) (s a d : BitVec 5) : Statement (.vmaddVx m s a d) := by
  intro _ wd hEnc
  have L := word_layout [(22, 3), (17, 5), (12, 5), (7, 5)] [m.toNat, s.toNat, a.toNat, d.toNat] 0x28000033 (by decide) (by decide) ⟨m.isLt, s.isLt, a.isLt, d.isLt, trivial⟩
  rw [show wordOn 0x28000033 [(22, 3), (17, 5), (12, 5), (7, 5)] [m.toNat, s.toNat, a.toNat, d.toNat] = wd from Option.some.inj hEnc] at L
  obtain ⟨lt, ⟨he0, he1, he2, he3, -⟩, keep⟩ := L
  have hk := keep 0 7 (by decide)
  obtain ⟨hz, hl, hr, hi⟩ := major_33 (mod_of_bits hk)
  have hf := keep 25 7 (by decide)
  refine ⟨lt, decodes (zs := []) (ne_of_bits hk (by decide)) (ne_of_bits hk (by decide)) ?_ ?_ ?_ ?_ ?_⟩
  · rw [hz, hf]; rfl
  · exact rfl
  · exact hl
  · exact hr
  · rw [hi, instrVintx, hf]
    show some _ = _
    rw [fieldAt_of_bits he0, fieldAt_of_bits he1, fieldAt_of_bits he2, fieldAt_of_bits he3]

theorem vabsdVx (m : BitVec 3) (s a d : BitVec 5) : Statement (.vabsdVx m s a d) := by
  intro _ wd hEnc
  have L := word_layout [(22, 3), (17, 5), (12, 5), (7, 5)] [m.toNat, s.toNat, a.toNat, d.toNat] 0x2A000033 (by decide) (by decide) ⟨m.isLt, s.isLt, a.isLt, d.isLt, trivial⟩
  rw [show wordOn 0x2A000033 [(22, 3), (17, 5), (12, 5), (7, 5)] [m.toNat, s.toNat, a.toNat, d.toNat] = wd from Option.some.inj hEnc] at L
  obtain ⟨lt, ⟨he0, he1, he2, he3, -⟩, keep⟩ := L
  have hk := keep 0 7 (by decide)
  obtain ⟨hz, hl, hr, hi⟩ := major_33 (mod_of_bits hk)
  have hf := keep 25 7 (by decide)
  refine ⟨lt, decodes (zs := []) (ne_of_bits hk (by decide)) (ne_of_bits hk (by decide)) ?_ ?_ ?_ ?_ ?_⟩
  · rw [hz, hf]; rfl
  · exact rfl
  · exact hl
  · exact hr
  · rw [hi, instrVintx, hf]
    show some _ = _
    rw [fieldAt_of_bits he0, fieldAt_of_bits he1, fieldAt_of_bits he2, fieldAt_of_bits he3]

theorem vaddVi (m : BitVec 3) (i a d : BitVec 5) : Statement (.vaddVi m i a d) := by
  intro _ wd hEnc
  have L := word_layout [(22, 3), (17, 5), (12, 5), (7, 5)] [m.toNat, i.toNat, a.toNat, d.toNat] 0x00000034 (by decide) (by decide) ⟨m.isLt, i.isLt, a.isLt, d.isLt, trivial⟩
  rw [show wordOn 0x00000034 [(22, 3), (17, 5), (12, 5), (7, 5)] [m.toNat, i.toNat, a.toNat, d.toNat] = wd from Option.some.inj hEnc] at L
  obtain ⟨lt, ⟨he0, he1, he2, he3, -⟩, keep⟩ := L
  have hk := keep 0 7 (by decide)
  obtain ⟨hz, hl, hr, hi⟩ := major_34 (mod_of_bits hk)
  have hf := keep 25 7 (by decide)
  refine ⟨lt, decodes (zs := []) (ne_of_bits hk (by decide)) (ne_of_bits hk (by decide)) ?_ ?_ ?_ ?_ ?_⟩
  · rw [hz, hf]; rfl
  · exact rfl
  · exact hl
  · exact hr
  · rw [hi, instrVinti, hf]
    show some _ = _
    rw [fieldAt_of_bits he0, fieldAt_of_bits he1, fieldAt_of_bits he2, fieldAt_of_bits he3]

theorem vrsubVi (m : BitVec 3) (i a d : BitVec 5) : Statement (.vrsubVi m i a d) := by
  intro _ wd hEnc
  have L := word_layout [(22, 3), (17, 5), (12, 5), (7, 5)] [m.toNat, i.toNat, a.toNat, d.toNat] 0x04000034 (by decide) (by decide) ⟨m.isLt, i.isLt, a.isLt, d.isLt, trivial⟩
  rw [show wordOn 0x04000034 [(22, 3), (17, 5), (12, 5), (7, 5)] [m.toNat, i.toNat, a.toNat, d.toNat] = wd from Option.some.inj hEnc] at L
  obtain ⟨lt, ⟨he0, he1, he2, he3, -⟩, keep⟩ := L
  have hk := keep 0 7 (by decide)
  obtain ⟨hz, hl, hr, hi⟩ := major_34 (mod_of_bits hk)
  have hf := keep 25 7 (by decide)
  refine ⟨lt, decodes (zs := []) (ne_of_bits hk (by decide)) (ne_of_bits hk (by decide)) ?_ ?_ ?_ ?_ ?_⟩
  · rw [hz, hf]; rfl
  · exact rfl
  · exact hl
  · exact hr
  · rw [hi, instrVinti, hf]
    show some _ = _
    rw [fieldAt_of_bits he0, fieldAt_of_bits he1, fieldAt_of_bits he2, fieldAt_of_bits he3]

theorem vandVi (m : BitVec 3) (i a d : BitVec 5) : Statement (.vandVi m i a d) := by
  intro _ wd hEnc
  have L := word_layout [(22, 3), (17, 5), (12, 5), (7, 5)] [m.toNat, i.toNat, a.toNat, d.toNat] 0x0C000034 (by decide) (by decide) ⟨m.isLt, i.isLt, a.isLt, d.isLt, trivial⟩
  rw [show wordOn 0x0C000034 [(22, 3), (17, 5), (12, 5), (7, 5)] [m.toNat, i.toNat, a.toNat, d.toNat] = wd from Option.some.inj hEnc] at L
  obtain ⟨lt, ⟨he0, he1, he2, he3, -⟩, keep⟩ := L
  have hk := keep 0 7 (by decide)
  obtain ⟨hz, hl, hr, hi⟩ := major_34 (mod_of_bits hk)
  have hf := keep 25 7 (by decide)
  refine ⟨lt, decodes (zs := []) (ne_of_bits hk (by decide)) (ne_of_bits hk (by decide)) ?_ ?_ ?_ ?_ ?_⟩
  · rw [hz, hf]; rfl
  · exact rfl
  · exact hl
  · exact hr
  · rw [hi, instrVinti, hf]
    show some _ = _
    rw [fieldAt_of_bits he0, fieldAt_of_bits he1, fieldAt_of_bits he2, fieldAt_of_bits he3]

theorem vorVi (m : BitVec 3) (i a d : BitVec 5) : Statement (.vorVi m i a d) := by
  intro _ wd hEnc
  have L := word_layout [(22, 3), (17, 5), (12, 5), (7, 5)] [m.toNat, i.toNat, a.toNat, d.toNat] 0x0E000034 (by decide) (by decide) ⟨m.isLt, i.isLt, a.isLt, d.isLt, trivial⟩
  rw [show wordOn 0x0E000034 [(22, 3), (17, 5), (12, 5), (7, 5)] [m.toNat, i.toNat, a.toNat, d.toNat] = wd from Option.some.inj hEnc] at L
  obtain ⟨lt, ⟨he0, he1, he2, he3, -⟩, keep⟩ := L
  have hk := keep 0 7 (by decide)
  obtain ⟨hz, hl, hr, hi⟩ := major_34 (mod_of_bits hk)
  have hf := keep 25 7 (by decide)
  refine ⟨lt, decodes (zs := []) (ne_of_bits hk (by decide)) (ne_of_bits hk (by decide)) ?_ ?_ ?_ ?_ ?_⟩
  · rw [hz, hf]; rfl
  · exact rfl
  · exact hl
  · exact hr
  · rw [hi, instrVinti, hf]
    show some _ = _
    rw [fieldAt_of_bits he0, fieldAt_of_bits he1, fieldAt_of_bits he2, fieldAt_of_bits he3]

theorem vxorVi (m : BitVec 3) (i a d : BitVec 5) : Statement (.vxorVi m i a d) := by
  intro _ wd hEnc
  have L := word_layout [(22, 3), (17, 5), (12, 5), (7, 5)] [m.toNat, i.toNat, a.toNat, d.toNat] 0x10000034 (by decide) (by decide) ⟨m.isLt, i.isLt, a.isLt, d.isLt, trivial⟩
  rw [show wordOn 0x10000034 [(22, 3), (17, 5), (12, 5), (7, 5)] [m.toNat, i.toNat, a.toNat, d.toNat] = wd from Option.some.inj hEnc] at L
  obtain ⟨lt, ⟨he0, he1, he2, he3, -⟩, keep⟩ := L
  have hk := keep 0 7 (by decide)
  obtain ⟨hz, hl, hr, hi⟩ := major_34 (mod_of_bits hk)
  have hf := keep 25 7 (by decide)
  refine ⟨lt, decodes (zs := []) (ne_of_bits hk (by decide)) (ne_of_bits hk (by decide)) ?_ ?_ ?_ ?_ ?_⟩
  · rw [hz, hf]; rfl
  · exact rfl
  · exact hl
  · exact hr
  · rw [hi, instrVinti, hf]
    show some _ = _
    rw [fieldAt_of_bits he0, fieldAt_of_bits he1, fieldAt_of_bits he2, fieldAt_of_bits he3]

theorem vsllVi (m : BitVec 3) (i a d : BitVec 5) : Statement (.vsllVi m i a d) := by
  intro _ wd hEnc
  have L := word_layout [(22, 3), (17, 5), (12, 5), (7, 5)] [m.toNat, i.toNat, a.toNat, d.toNat] 0x12000034 (by decide) (by decide) ⟨m.isLt, i.isLt, a.isLt, d.isLt, trivial⟩
  rw [show wordOn 0x12000034 [(22, 3), (17, 5), (12, 5), (7, 5)] [m.toNat, i.toNat, a.toNat, d.toNat] = wd from Option.some.inj hEnc] at L
  obtain ⟨lt, ⟨he0, he1, he2, he3, -⟩, keep⟩ := L
  have hk := keep 0 7 (by decide)
  obtain ⟨hz, hl, hr, hi⟩ := major_34 (mod_of_bits hk)
  have hf := keep 25 7 (by decide)
  refine ⟨lt, decodes (zs := []) (ne_of_bits hk (by decide)) (ne_of_bits hk (by decide)) ?_ ?_ ?_ ?_ ?_⟩
  · rw [hz, hf]; rfl
  · exact rfl
  · exact hl
  · exact hr
  · rw [hi, instrVinti, hf]
    show some _ = _
    rw [fieldAt_of_bits he0, fieldAt_of_bits he1, fieldAt_of_bits he2, fieldAt_of_bits he3]

theorem vsrlVi (m : BitVec 3) (i a d : BitVec 5) : Statement (.vsrlVi m i a d) := by
  intro _ wd hEnc
  have L := word_layout [(22, 3), (17, 5), (12, 5), (7, 5)] [m.toNat, i.toNat, a.toNat, d.toNat] 0x14000034 (by decide) (by decide) ⟨m.isLt, i.isLt, a.isLt, d.isLt, trivial⟩
  rw [show wordOn 0x14000034 [(22, 3), (17, 5), (12, 5), (7, 5)] [m.toNat, i.toNat, a.toNat, d.toNat] = wd from Option.some.inj hEnc] at L
  obtain ⟨lt, ⟨he0, he1, he2, he3, -⟩, keep⟩ := L
  have hk := keep 0 7 (by decide)
  obtain ⟨hz, hl, hr, hi⟩ := major_34 (mod_of_bits hk)
  have hf := keep 25 7 (by decide)
  refine ⟨lt, decodes (zs := []) (ne_of_bits hk (by decide)) (ne_of_bits hk (by decide)) ?_ ?_ ?_ ?_ ?_⟩
  · rw [hz, hf]; rfl
  · exact rfl
  · exact hl
  · exact hr
  · rw [hi, instrVinti, hf]
    show some _ = _
    rw [fieldAt_of_bits he0, fieldAt_of_bits he1, fieldAt_of_bits he2, fieldAt_of_bits he3]

theorem vsraVi (m : BitVec 3) (i a d : BitVec 5) : Statement (.vsraVi m i a d) := by
  intro _ wd hEnc
  have L := word_layout [(22, 3), (17, 5), (12, 5), (7, 5)] [m.toNat, i.toNat, a.toNat, d.toNat] 0x16000034 (by decide) (by decide) ⟨m.isLt, i.isLt, a.isLt, d.isLt, trivial⟩
  rw [show wordOn 0x16000034 [(22, 3), (17, 5), (12, 5), (7, 5)] [m.toNat, i.toNat, a.toNat, d.toNat] = wd from Option.some.inj hEnc] at L
  obtain ⟨lt, ⟨he0, he1, he2, he3, -⟩, keep⟩ := L
  have hk := keep 0 7 (by decide)
  obtain ⟨hz, hl, hr, hi⟩ := major_34 (mod_of_bits hk)
  have hf := keep 25 7 (by decide)
  refine ⟨lt, decodes (zs := []) (ne_of_bits hk (by decide)) (ne_of_bits hk (by decide)) ?_ ?_ ?_ ?_ ?_⟩
  · rw [hz, hf]; rfl
  · exact rfl
  · exact hl
  · exact hr
  · rw [hi, instrVinti, hf]
    show some _ = _
    rw [fieldAt_of_bits he0, fieldAt_of_bits he1, fieldAt_of_bits he2, fieldAt_of_bits he3]

theorem vsaddVi (m : BitVec 3) (i a d : BitVec 5) : Statement (.vsaddVi m i a d) := by
  intro _ wd hEnc
  have L := word_layout [(22, 3), (17, 5), (12, 5), (7, 5)] [m.toNat, i.toNat, a.toNat, d.toNat] 0x20000034 (by decide) (by decide) ⟨m.isLt, i.isLt, a.isLt, d.isLt, trivial⟩
  rw [show wordOn 0x20000034 [(22, 3), (17, 5), (12, 5), (7, 5)] [m.toNat, i.toNat, a.toNat, d.toNat] = wd from Option.some.inj hEnc] at L
  obtain ⟨lt, ⟨he0, he1, he2, he3, -⟩, keep⟩ := L
  have hk := keep 0 7 (by decide)
  obtain ⟨hz, hl, hr, hi⟩ := major_34 (mod_of_bits hk)
  have hf := keep 25 7 (by decide)
  refine ⟨lt, decodes (zs := []) (ne_of_bits hk (by decide)) (ne_of_bits hk (by decide)) ?_ ?_ ?_ ?_ ?_⟩
  · rw [hz, hf]; rfl
  · exact rfl
  · exact hl
  · exact hr
  · rw [hi, instrVinti, hf]
    show some _ = _
    rw [fieldAt_of_bits he0, fieldAt_of_bits he1, fieldAt_of_bits he2, fieldAt_of_bits he3]

theorem vsadduVi (m : BitVec 3) (i a d : BitVec 5) : Statement (.vsadduVi m i a d) := by
  intro _ wd hEnc
  have L := word_layout [(22, 3), (17, 5), (12, 5), (7, 5)] [m.toNat, i.toNat, a.toNat, d.toNat] 0x24000034 (by decide) (by decide) ⟨m.isLt, i.isLt, a.isLt, d.isLt, trivial⟩
  rw [show wordOn 0x24000034 [(22, 3), (17, 5), (12, 5), (7, 5)] [m.toNat, i.toNat, a.toNat, d.toNat] = wd from Option.some.inj hEnc] at L
  obtain ⟨lt, ⟨he0, he1, he2, he3, -⟩, keep⟩ := L
  have hk := keep 0 7 (by decide)
  obtain ⟨hz, hl, hr, hi⟩ := major_34 (mod_of_bits hk)
  have hf := keep 25 7 (by decide)
  refine ⟨lt, decodes (zs := []) (ne_of_bits hk (by decide)) (ne_of_bits hk (by decide)) ?_ ?_ ?_ ?_ ?_⟩
  · rw [hz, hf]; rfl
  · exact rfl
  · exact hl
  · exact hr
  · rw [hi, instrVinti, hf]
    show some _ = _
    rw [fieldAt_of_bits he0, fieldAt_of_bits he1, fieldAt_of_bits he2, fieldAt_of_bits he3]

theorem vcmpEq (m : BitVec 3) (b a : BitVec 5) (d : BitVec 3) : Statement (.vcmpEq m b a d) := by
  intro _ wd hEnc
  have L := word_layout [(22, 3), (17, 5), (12, 5), (7, 3)] [m.toNat, b.toNat, a.toNat, d.toNat] 0x00000035 (by decide) (by decide) ⟨m.isLt, b.isLt, a.isLt, d.isLt, trivial⟩
  rw [show wordOn 0x00000035 [(22, 3), (17, 5), (12, 5), (7, 3)] [m.toNat, b.toNat, a.toNat, d.toNat] = wd from Option.some.inj hEnc] at L
  obtain ⟨lt, ⟨he0, he1, he2, he3, -⟩, keep⟩ := L
  have hk := keep 0 7 (by decide)
  obtain ⟨hz, hl, hr, hi⟩ := major_35 (mod_of_bits hk)
  have hf := keep 25 7 (by decide)
  refine ⟨lt, decodes (zs := [(10, 2)]) (ne_of_bits hk (by decide)) (ne_of_bits hk (by decide)) ?_ ?_ ?_ ?_ ?_⟩
  · rw [hz, hf]; rfl
  · simp only [allZero, List.all_cons, List.all_nil, keep 10 2 (by decide)]; rfl
  · exact hl
  · exact hr
  · rw [hi, instrVcmp, hf]
    show some _ = _
    rw [fieldAt_of_bits he0, fieldAt_of_bits he1, fieldAt_of_bits he2, fieldAt_of_bits he3]

theorem vcmpNe (m : BitVec 3) (b a : BitVec 5) (d : BitVec 3) : Statement (.vcmpNe m b a d) := by
  intro _ wd hEnc
  have L := word_layout [(22, 3), (17, 5), (12, 5), (7, 3)] [m.toNat, b.toNat, a.toNat, d.toNat] 0x02000035 (by decide) (by decide) ⟨m.isLt, b.isLt, a.isLt, d.isLt, trivial⟩
  rw [show wordOn 0x02000035 [(22, 3), (17, 5), (12, 5), (7, 3)] [m.toNat, b.toNat, a.toNat, d.toNat] = wd from Option.some.inj hEnc] at L
  obtain ⟨lt, ⟨he0, he1, he2, he3, -⟩, keep⟩ := L
  have hk := keep 0 7 (by decide)
  obtain ⟨hz, hl, hr, hi⟩ := major_35 (mod_of_bits hk)
  have hf := keep 25 7 (by decide)
  refine ⟨lt, decodes (zs := [(10, 2)]) (ne_of_bits hk (by decide)) (ne_of_bits hk (by decide)) ?_ ?_ ?_ ?_ ?_⟩
  · rw [hz, hf]; rfl
  · simp only [allZero, List.all_cons, List.all_nil, keep 10 2 (by decide)]; rfl
  · exact hl
  · exact hr
  · rw [hi, instrVcmp, hf]
    show some _ = _
    rw [fieldAt_of_bits he0, fieldAt_of_bits he1, fieldAt_of_bits he2, fieldAt_of_bits he3]

theorem vcmpLt (m : BitVec 3) (b a : BitVec 5) (d : BitVec 3) : Statement (.vcmpLt m b a d) := by
  intro _ wd hEnc
  have L := word_layout [(22, 3), (17, 5), (12, 5), (7, 3)] [m.toNat, b.toNat, a.toNat, d.toNat] 0x04000035 (by decide) (by decide) ⟨m.isLt, b.isLt, a.isLt, d.isLt, trivial⟩
  rw [show wordOn 0x04000035 [(22, 3), (17, 5), (12, 5), (7, 3)] [m.toNat, b.toNat, a.toNat, d.toNat] = wd from Option.some.inj hEnc] at L
  obtain ⟨lt, ⟨he0, he1, he2, he3, -⟩, keep⟩ := L
  have hk := keep 0 7 (by decide)
  obtain ⟨hz, hl, hr, hi⟩ := major_35 (mod_of_bits hk)
  have hf := keep 25 7 (by decide)
  refine ⟨lt, decodes (zs := [(10, 2)]) (ne_of_bits hk (by decide)) (ne_of_bits hk (by decide)) ?_ ?_ ?_ ?_ ?_⟩
  · rw [hz, hf]; rfl
  · simp only [allZero, List.all_cons, List.all_nil, keep 10 2 (by decide)]; rfl
  · exact hl
  · exact hr
  · rw [hi, instrVcmp, hf]
    show some _ = _
    rw [fieldAt_of_bits he0, fieldAt_of_bits he1, fieldAt_of_bits he2, fieldAt_of_bits he3]

theorem vcmpLtu (m : BitVec 3) (b a : BitVec 5) (d : BitVec 3) : Statement (.vcmpLtu m b a d) := by
  intro _ wd hEnc
  have L := word_layout [(22, 3), (17, 5), (12, 5), (7, 3)] [m.toNat, b.toNat, a.toNat, d.toNat] 0x06000035 (by decide) (by decide) ⟨m.isLt, b.isLt, a.isLt, d.isLt, trivial⟩
  rw [show wordOn 0x06000035 [(22, 3), (17, 5), (12, 5), (7, 3)] [m.toNat, b.toNat, a.toNat, d.toNat] = wd from Option.some.inj hEnc] at L
  obtain ⟨lt, ⟨he0, he1, he2, he3, -⟩, keep⟩ := L
  have hk := keep 0 7 (by decide)
  obtain ⟨hz, hl, hr, hi⟩ := major_35 (mod_of_bits hk)
  have hf := keep 25 7 (by decide)
  refine ⟨lt, decodes (zs := [(10, 2)]) (ne_of_bits hk (by decide)) (ne_of_bits hk (by decide)) ?_ ?_ ?_ ?_ ?_⟩
  · rw [hz, hf]; rfl
  · simp only [allZero, List.all_cons, List.all_nil, keep 10 2 (by decide)]; rfl
  · exact hl
  · exact hr
  · rw [hi, instrVcmp, hf]
    show some _ = _
    rw [fieldAt_of_bits he0, fieldAt_of_bits he1, fieldAt_of_bits he2, fieldAt_of_bits he3]

theorem vcmpLe (m : BitVec 3) (b a : BitVec 5) (d : BitVec 3) : Statement (.vcmpLe m b a d) := by
  intro _ wd hEnc
  have L := word_layout [(22, 3), (17, 5), (12, 5), (7, 3)] [m.toNat, b.toNat, a.toNat, d.toNat] 0x08000035 (by decide) (by decide) ⟨m.isLt, b.isLt, a.isLt, d.isLt, trivial⟩
  rw [show wordOn 0x08000035 [(22, 3), (17, 5), (12, 5), (7, 3)] [m.toNat, b.toNat, a.toNat, d.toNat] = wd from Option.some.inj hEnc] at L
  obtain ⟨lt, ⟨he0, he1, he2, he3, -⟩, keep⟩ := L
  have hk := keep 0 7 (by decide)
  obtain ⟨hz, hl, hr, hi⟩ := major_35 (mod_of_bits hk)
  have hf := keep 25 7 (by decide)
  refine ⟨lt, decodes (zs := [(10, 2)]) (ne_of_bits hk (by decide)) (ne_of_bits hk (by decide)) ?_ ?_ ?_ ?_ ?_⟩
  · rw [hz, hf]; rfl
  · simp only [allZero, List.all_cons, List.all_nil, keep 10 2 (by decide)]; rfl
  · exact hl
  · exact hr
  · rw [hi, instrVcmp, hf]
    show some _ = _
    rw [fieldAt_of_bits he0, fieldAt_of_bits he1, fieldAt_of_bits he2, fieldAt_of_bits he3]

theorem vcmpLeu (m : BitVec 3) (b a : BitVec 5) (d : BitVec 3) : Statement (.vcmpLeu m b a d) := by
  intro _ wd hEnc
  have L := word_layout [(22, 3), (17, 5), (12, 5), (7, 3)] [m.toNat, b.toNat, a.toNat, d.toNat] 0x0A000035 (by decide) (by decide) ⟨m.isLt, b.isLt, a.isLt, d.isLt, trivial⟩
  rw [show wordOn 0x0A000035 [(22, 3), (17, 5), (12, 5), (7, 3)] [m.toNat, b.toNat, a.toNat, d.toNat] = wd from Option.some.inj hEnc] at L
  obtain ⟨lt, ⟨he0, he1, he2, he3, -⟩, keep⟩ := L
  have hk := keep 0 7 (by decide)
  obtain ⟨hz, hl, hr, hi⟩ := major_35 (mod_of_bits hk)
  have hf := keep 25 7 (by decide)
  refine ⟨lt, decodes (zs := [(10, 2)]) (ne_of_bits hk (by decide)) (ne_of_bits hk (by decide)) ?_ ?_ ?_ ?_ ?_⟩
  · rw [hz, hf]; rfl
  · simp only [allZero, List.all_cons, List.all_nil, keep 10 2 (by decide)]; rfl
  · exact hl
  · exact hr
  · rw [hi, instrVcmp, hf]
    show some _ = _
    rw [fieldAt_of_bits he0, fieldAt_of_bits he1, fieldAt_of_bits he2, fieldAt_of_bits he3]

theorem vcmpGt (m : BitVec 3) (b a : BitVec 5) (d : BitVec 3) : Statement (.vcmpGt m b a d) := by
  intro _ wd hEnc
  have L := word_layout [(22, 3), (17, 5), (12, 5), (7, 3)] [m.toNat, b.toNat, a.toNat, d.toNat] 0x0C000035 (by decide) (by decide) ⟨m.isLt, b.isLt, a.isLt, d.isLt, trivial⟩
  rw [show wordOn 0x0C000035 [(22, 3), (17, 5), (12, 5), (7, 3)] [m.toNat, b.toNat, a.toNat, d.toNat] = wd from Option.some.inj hEnc] at L
  obtain ⟨lt, ⟨he0, he1, he2, he3, -⟩, keep⟩ := L
  have hk := keep 0 7 (by decide)
  obtain ⟨hz, hl, hr, hi⟩ := major_35 (mod_of_bits hk)
  have hf := keep 25 7 (by decide)
  refine ⟨lt, decodes (zs := [(10, 2)]) (ne_of_bits hk (by decide)) (ne_of_bits hk (by decide)) ?_ ?_ ?_ ?_ ?_⟩
  · rw [hz, hf]; rfl
  · simp only [allZero, List.all_cons, List.all_nil, keep 10 2 (by decide)]; rfl
  · exact hl
  · exact hr
  · rw [hi, instrVcmp, hf]
    show some _ = _
    rw [fieldAt_of_bits he0, fieldAt_of_bits he1, fieldAt_of_bits he2, fieldAt_of_bits he3]

theorem vcmpGtu (m : BitVec 3) (b a : BitVec 5) (d : BitVec 3) : Statement (.vcmpGtu m b a d) := by
  intro _ wd hEnc
  have L := word_layout [(22, 3), (17, 5), (12, 5), (7, 3)] [m.toNat, b.toNat, a.toNat, d.toNat] 0x0E000035 (by decide) (by decide) ⟨m.isLt, b.isLt, a.isLt, d.isLt, trivial⟩
  rw [show wordOn 0x0E000035 [(22, 3), (17, 5), (12, 5), (7, 3)] [m.toNat, b.toNat, a.toNat, d.toNat] = wd from Option.some.inj hEnc] at L
  obtain ⟨lt, ⟨he0, he1, he2, he3, -⟩, keep⟩ := L
  have hk := keep 0 7 (by decide)
  obtain ⟨hz, hl, hr, hi⟩ := major_35 (mod_of_bits hk)
  have hf := keep 25 7 (by decide)
  refine ⟨lt, decodes (zs := [(10, 2)]) (ne_of_bits hk (by decide)) (ne_of_bits hk (by decide)) ?_ ?_ ?_ ?_ ?_⟩
  · rw [hz, hf]; rfl
  · simp only [allZero, List.all_cons, List.all_nil, keep 10 2 (by decide)]; rfl
  · exact hl
  · exact hr
  · rw [hi, instrVcmp, hf]
    show some _ = _
    rw [fieldAt_of_bits he0, fieldAt_of_bits he1, fieldAt_of_bits he2, fieldAt_of_bits he3]

theorem vcmpEqVx (m : BitVec 3) (s a : BitVec 5) (d : BitVec 3) : Statement (.vcmpEqVx m s a d) := by
  intro _ wd hEnc
  have L := word_layout [(22, 3), (17, 5), (12, 5), (7, 3)] [m.toNat, s.toNat, a.toNat, d.toNat] 0x40000035 (by decide) (by decide) ⟨m.isLt, s.isLt, a.isLt, d.isLt, trivial⟩
  rw [show wordOn 0x40000035 [(22, 3), (17, 5), (12, 5), (7, 3)] [m.toNat, s.toNat, a.toNat, d.toNat] = wd from Option.some.inj hEnc] at L
  obtain ⟨lt, ⟨he0, he1, he2, he3, -⟩, keep⟩ := L
  have hk := keep 0 7 (by decide)
  obtain ⟨hz, hl, hr, hi⟩ := major_35 (mod_of_bits hk)
  have hf := keep 25 7 (by decide)
  refine ⟨lt, decodes (zs := [(10, 2)]) (ne_of_bits hk (by decide)) (ne_of_bits hk (by decide)) ?_ ?_ ?_ ?_ ?_⟩
  · rw [hz, hf]; rfl
  · simp only [allZero, List.all_cons, List.all_nil, keep 10 2 (by decide)]; rfl
  · exact hl
  · exact hr
  · rw [hi, instrVcmp, hf]
    show some _ = _
    rw [fieldAt_of_bits he0, fieldAt_of_bits he1, fieldAt_of_bits he2, fieldAt_of_bits he3]

theorem vcmpNeVx (m : BitVec 3) (s a : BitVec 5) (d : BitVec 3) : Statement (.vcmpNeVx m s a d) := by
  intro _ wd hEnc
  have L := word_layout [(22, 3), (17, 5), (12, 5), (7, 3)] [m.toNat, s.toNat, a.toNat, d.toNat] 0x42000035 (by decide) (by decide) ⟨m.isLt, s.isLt, a.isLt, d.isLt, trivial⟩
  rw [show wordOn 0x42000035 [(22, 3), (17, 5), (12, 5), (7, 3)] [m.toNat, s.toNat, a.toNat, d.toNat] = wd from Option.some.inj hEnc] at L
  obtain ⟨lt, ⟨he0, he1, he2, he3, -⟩, keep⟩ := L
  have hk := keep 0 7 (by decide)
  obtain ⟨hz, hl, hr, hi⟩ := major_35 (mod_of_bits hk)
  have hf := keep 25 7 (by decide)
  refine ⟨lt, decodes (zs := [(10, 2)]) (ne_of_bits hk (by decide)) (ne_of_bits hk (by decide)) ?_ ?_ ?_ ?_ ?_⟩
  · rw [hz, hf]; rfl
  · simp only [allZero, List.all_cons, List.all_nil, keep 10 2 (by decide)]; rfl
  · exact hl
  · exact hr
  · rw [hi, instrVcmp, hf]
    show some _ = _
    rw [fieldAt_of_bits he0, fieldAt_of_bits he1, fieldAt_of_bits he2, fieldAt_of_bits he3]

theorem vcmpLtVx (m : BitVec 3) (s a : BitVec 5) (d : BitVec 3) : Statement (.vcmpLtVx m s a d) := by
  intro _ wd hEnc
  have L := word_layout [(22, 3), (17, 5), (12, 5), (7, 3)] [m.toNat, s.toNat, a.toNat, d.toNat] 0x44000035 (by decide) (by decide) ⟨m.isLt, s.isLt, a.isLt, d.isLt, trivial⟩
  rw [show wordOn 0x44000035 [(22, 3), (17, 5), (12, 5), (7, 3)] [m.toNat, s.toNat, a.toNat, d.toNat] = wd from Option.some.inj hEnc] at L
  obtain ⟨lt, ⟨he0, he1, he2, he3, -⟩, keep⟩ := L
  have hk := keep 0 7 (by decide)
  obtain ⟨hz, hl, hr, hi⟩ := major_35 (mod_of_bits hk)
  have hf := keep 25 7 (by decide)
  refine ⟨lt, decodes (zs := [(10, 2)]) (ne_of_bits hk (by decide)) (ne_of_bits hk (by decide)) ?_ ?_ ?_ ?_ ?_⟩
  · rw [hz, hf]; rfl
  · simp only [allZero, List.all_cons, List.all_nil, keep 10 2 (by decide)]; rfl
  · exact hl
  · exact hr
  · rw [hi, instrVcmp, hf]
    show some _ = _
    rw [fieldAt_of_bits he0, fieldAt_of_bits he1, fieldAt_of_bits he2, fieldAt_of_bits he3]

theorem vcmpLtuVx (m : BitVec 3) (s a : BitVec 5) (d : BitVec 3) : Statement (.vcmpLtuVx m s a d) := by
  intro _ wd hEnc
  have L := word_layout [(22, 3), (17, 5), (12, 5), (7, 3)] [m.toNat, s.toNat, a.toNat, d.toNat] 0x46000035 (by decide) (by decide) ⟨m.isLt, s.isLt, a.isLt, d.isLt, trivial⟩
  rw [show wordOn 0x46000035 [(22, 3), (17, 5), (12, 5), (7, 3)] [m.toNat, s.toNat, a.toNat, d.toNat] = wd from Option.some.inj hEnc] at L
  obtain ⟨lt, ⟨he0, he1, he2, he3, -⟩, keep⟩ := L
  have hk := keep 0 7 (by decide)
  obtain ⟨hz, hl, hr, hi⟩ := major_35 (mod_of_bits hk)
  have hf := keep 25 7 (by decide)
  refine ⟨lt, decodes (zs := [(10, 2)]) (ne_of_bits hk (by decide)) (ne_of_bits hk (by decide)) ?_ ?_ ?_ ?_ ?_⟩
  · rw [hz, hf]; rfl
  · simp only [allZero, List.all_cons, List.all_nil, keep 10 2 (by decide)]; rfl
  · exact hl
  · exact hr
  · rw [hi, instrVcmp, hf]
    show some _ = _
    rw [fieldAt_of_bits he0, fieldAt_of_bits he1, fieldAt_of_bits he2, fieldAt_of_bits he3]

theorem vcmpLeVx (m : BitVec 3) (s a : BitVec 5) (d : BitVec 3) : Statement (.vcmpLeVx m s a d) := by
  intro _ wd hEnc
  have L := word_layout [(22, 3), (17, 5), (12, 5), (7, 3)] [m.toNat, s.toNat, a.toNat, d.toNat] 0x48000035 (by decide) (by decide) ⟨m.isLt, s.isLt, a.isLt, d.isLt, trivial⟩
  rw [show wordOn 0x48000035 [(22, 3), (17, 5), (12, 5), (7, 3)] [m.toNat, s.toNat, a.toNat, d.toNat] = wd from Option.some.inj hEnc] at L
  obtain ⟨lt, ⟨he0, he1, he2, he3, -⟩, keep⟩ := L
  have hk := keep 0 7 (by decide)
  obtain ⟨hz, hl, hr, hi⟩ := major_35 (mod_of_bits hk)
  have hf := keep 25 7 (by decide)
  refine ⟨lt, decodes (zs := [(10, 2)]) (ne_of_bits hk (by decide)) (ne_of_bits hk (by decide)) ?_ ?_ ?_ ?_ ?_⟩
  · rw [hz, hf]; rfl
  · simp only [allZero, List.all_cons, List.all_nil, keep 10 2 (by decide)]; rfl
  · exact hl
  · exact hr
  · rw [hi, instrVcmp, hf]
    show some _ = _
    rw [fieldAt_of_bits he0, fieldAt_of_bits he1, fieldAt_of_bits he2, fieldAt_of_bits he3]

theorem vcmpLeuVx (m : BitVec 3) (s a : BitVec 5) (d : BitVec 3) : Statement (.vcmpLeuVx m s a d) := by
  intro _ wd hEnc
  have L := word_layout [(22, 3), (17, 5), (12, 5), (7, 3)] [m.toNat, s.toNat, a.toNat, d.toNat] 0x4A000035 (by decide) (by decide) ⟨m.isLt, s.isLt, a.isLt, d.isLt, trivial⟩
  rw [show wordOn 0x4A000035 [(22, 3), (17, 5), (12, 5), (7, 3)] [m.toNat, s.toNat, a.toNat, d.toNat] = wd from Option.some.inj hEnc] at L
  obtain ⟨lt, ⟨he0, he1, he2, he3, -⟩, keep⟩ := L
  have hk := keep 0 7 (by decide)
  obtain ⟨hz, hl, hr, hi⟩ := major_35 (mod_of_bits hk)
  have hf := keep 25 7 (by decide)
  refine ⟨lt, decodes (zs := [(10, 2)]) (ne_of_bits hk (by decide)) (ne_of_bits hk (by decide)) ?_ ?_ ?_ ?_ ?_⟩
  · rw [hz, hf]; rfl
  · simp only [allZero, List.all_cons, List.all_nil, keep 10 2 (by decide)]; rfl
  · exact hl
  · exact hr
  · rw [hi, instrVcmp, hf]
    show some _ = _
    rw [fieldAt_of_bits he0, fieldAt_of_bits he1, fieldAt_of_bits he2, fieldAt_of_bits he3]

theorem vcmpGtVx (m : BitVec 3) (s a : BitVec 5) (d : BitVec 3) : Statement (.vcmpGtVx m s a d) := by
  intro _ wd hEnc
  have L := word_layout [(22, 3), (17, 5), (12, 5), (7, 3)] [m.toNat, s.toNat, a.toNat, d.toNat] 0x4C000035 (by decide) (by decide) ⟨m.isLt, s.isLt, a.isLt, d.isLt, trivial⟩
  rw [show wordOn 0x4C000035 [(22, 3), (17, 5), (12, 5), (7, 3)] [m.toNat, s.toNat, a.toNat, d.toNat] = wd from Option.some.inj hEnc] at L
  obtain ⟨lt, ⟨he0, he1, he2, he3, -⟩, keep⟩ := L
  have hk := keep 0 7 (by decide)
  obtain ⟨hz, hl, hr, hi⟩ := major_35 (mod_of_bits hk)
  have hf := keep 25 7 (by decide)
  refine ⟨lt, decodes (zs := [(10, 2)]) (ne_of_bits hk (by decide)) (ne_of_bits hk (by decide)) ?_ ?_ ?_ ?_ ?_⟩
  · rw [hz, hf]; rfl
  · simp only [allZero, List.all_cons, List.all_nil, keep 10 2 (by decide)]; rfl
  · exact hl
  · exact hr
  · rw [hi, instrVcmp, hf]
    show some _ = _
    rw [fieldAt_of_bits he0, fieldAt_of_bits he1, fieldAt_of_bits he2, fieldAt_of_bits he3]

theorem vcmpGtuVx (m : BitVec 3) (s a : BitVec 5) (d : BitVec 3) : Statement (.vcmpGtuVx m s a d) := by
  intro _ wd hEnc
  have L := word_layout [(22, 3), (17, 5), (12, 5), (7, 3)] [m.toNat, s.toNat, a.toNat, d.toNat] 0x4E000035 (by decide) (by decide) ⟨m.isLt, s.isLt, a.isLt, d.isLt, trivial⟩
  rw [show wordOn 0x4E000035 [(22, 3), (17, 5), (12, 5), (7, 3)] [m.toNat, s.toNat, a.toNat, d.toNat] = wd from Option.some.inj hEnc] at L
  obtain ⟨lt, ⟨he0, he1, he2, he3, -⟩, keep⟩ := L
  have hk := keep 0 7 (by decide)
  obtain ⟨hz, hl, hr, hi⟩ := major_35 (mod_of_bits hk)
  have hf := keep 25 7 (by decide)
  refine ⟨lt, decodes (zs := [(10, 2)]) (ne_of_bits hk (by decide)) (ne_of_bits hk (by decide)) ?_ ?_ ?_ ?_ ?_⟩
  · rw [hz, hf]; rfl
  · simp only [allZero, List.all_cons, List.all_nil, keep 10 2 (by decide)]; rfl
  · exact hl
  · exact hr
  · rw [hi, instrVcmp, hf]
    show some _ = _
    rw [fieldAt_of_bits he0, fieldAt_of_bits he1, fieldAt_of_bits he2, fieldAt_of_bits he3]

theorem vcmpEqVi (m : BitVec 3) (i a : BitVec 5) (d : BitVec 3) : Statement (.vcmpEqVi m i a d) := by
  intro _ wd hEnc
  have L := word_layout [(22, 3), (17, 5), (12, 5), (7, 3)] [m.toNat, i.toNat, a.toNat, d.toNat] 0x80000035 (by decide) (by decide) ⟨m.isLt, i.isLt, a.isLt, d.isLt, trivial⟩
  rw [show wordOn 0x80000035 [(22, 3), (17, 5), (12, 5), (7, 3)] [m.toNat, i.toNat, a.toNat, d.toNat] = wd from Option.some.inj hEnc] at L
  obtain ⟨lt, ⟨he0, he1, he2, he3, -⟩, keep⟩ := L
  have hk := keep 0 7 (by decide)
  obtain ⟨hz, hl, hr, hi⟩ := major_35 (mod_of_bits hk)
  have hf := keep 25 7 (by decide)
  refine ⟨lt, decodes (zs := [(10, 2)]) (ne_of_bits hk (by decide)) (ne_of_bits hk (by decide)) ?_ ?_ ?_ ?_ ?_⟩
  · rw [hz, hf]; rfl
  · simp only [allZero, List.all_cons, List.all_nil, keep 10 2 (by decide)]; rfl
  · exact hl
  · exact hr
  · rw [hi, instrVcmp, hf]
    show some _ = _
    rw [fieldAt_of_bits he0, fieldAt_of_bits he1, fieldAt_of_bits he2, fieldAt_of_bits he3]

theorem vcmpNeVi (m : BitVec 3) (i a : BitVec 5) (d : BitVec 3) : Statement (.vcmpNeVi m i a d) := by
  intro _ wd hEnc
  have L := word_layout [(22, 3), (17, 5), (12, 5), (7, 3)] [m.toNat, i.toNat, a.toNat, d.toNat] 0x82000035 (by decide) (by decide) ⟨m.isLt, i.isLt, a.isLt, d.isLt, trivial⟩
  rw [show wordOn 0x82000035 [(22, 3), (17, 5), (12, 5), (7, 3)] [m.toNat, i.toNat, a.toNat, d.toNat] = wd from Option.some.inj hEnc] at L
  obtain ⟨lt, ⟨he0, he1, he2, he3, -⟩, keep⟩ := L
  have hk := keep 0 7 (by decide)
  obtain ⟨hz, hl, hr, hi⟩ := major_35 (mod_of_bits hk)
  have hf := keep 25 7 (by decide)
  refine ⟨lt, decodes (zs := [(10, 2)]) (ne_of_bits hk (by decide)) (ne_of_bits hk (by decide)) ?_ ?_ ?_ ?_ ?_⟩
  · rw [hz, hf]; rfl
  · simp only [allZero, List.all_cons, List.all_nil, keep 10 2 (by decide)]; rfl
  · exact hl
  · exact hr
  · rw [hi, instrVcmp, hf]
    show some _ = _
    rw [fieldAt_of_bits he0, fieldAt_of_bits he1, fieldAt_of_bits he2, fieldAt_of_bits he3]

theorem vcmpLtVi (m : BitVec 3) (i a : BitVec 5) (d : BitVec 3) : Statement (.vcmpLtVi m i a d) := by
  intro _ wd hEnc
  have L := word_layout [(22, 3), (17, 5), (12, 5), (7, 3)] [m.toNat, i.toNat, a.toNat, d.toNat] 0x84000035 (by decide) (by decide) ⟨m.isLt, i.isLt, a.isLt, d.isLt, trivial⟩
  rw [show wordOn 0x84000035 [(22, 3), (17, 5), (12, 5), (7, 3)] [m.toNat, i.toNat, a.toNat, d.toNat] = wd from Option.some.inj hEnc] at L
  obtain ⟨lt, ⟨he0, he1, he2, he3, -⟩, keep⟩ := L
  have hk := keep 0 7 (by decide)
  obtain ⟨hz, hl, hr, hi⟩ := major_35 (mod_of_bits hk)
  have hf := keep 25 7 (by decide)
  refine ⟨lt, decodes (zs := [(10, 2)]) (ne_of_bits hk (by decide)) (ne_of_bits hk (by decide)) ?_ ?_ ?_ ?_ ?_⟩
  · rw [hz, hf]; rfl
  · simp only [allZero, List.all_cons, List.all_nil, keep 10 2 (by decide)]; rfl
  · exact hl
  · exact hr
  · rw [hi, instrVcmp, hf]
    show some _ = _
    rw [fieldAt_of_bits he0, fieldAt_of_bits he1, fieldAt_of_bits he2, fieldAt_of_bits he3]

theorem vcmpLtuVi (m : BitVec 3) (i a : BitVec 5) (d : BitVec 3) : Statement (.vcmpLtuVi m i a d) := by
  intro _ wd hEnc
  have L := word_layout [(22, 3), (17, 5), (12, 5), (7, 3)] [m.toNat, i.toNat, a.toNat, d.toNat] 0x86000035 (by decide) (by decide) ⟨m.isLt, i.isLt, a.isLt, d.isLt, trivial⟩
  rw [show wordOn 0x86000035 [(22, 3), (17, 5), (12, 5), (7, 3)] [m.toNat, i.toNat, a.toNat, d.toNat] = wd from Option.some.inj hEnc] at L
  obtain ⟨lt, ⟨he0, he1, he2, he3, -⟩, keep⟩ := L
  have hk := keep 0 7 (by decide)
  obtain ⟨hz, hl, hr, hi⟩ := major_35 (mod_of_bits hk)
  have hf := keep 25 7 (by decide)
  refine ⟨lt, decodes (zs := [(10, 2)]) (ne_of_bits hk (by decide)) (ne_of_bits hk (by decide)) ?_ ?_ ?_ ?_ ?_⟩
  · rw [hz, hf]; rfl
  · simp only [allZero, List.all_cons, List.all_nil, keep 10 2 (by decide)]; rfl
  · exact hl
  · exact hr
  · rw [hi, instrVcmp, hf]
    show some _ = _
    rw [fieldAt_of_bits he0, fieldAt_of_bits he1, fieldAt_of_bits he2, fieldAt_of_bits he3]

theorem vcmpLeVi (m : BitVec 3) (i a : BitVec 5) (d : BitVec 3) : Statement (.vcmpLeVi m i a d) := by
  intro _ wd hEnc
  have L := word_layout [(22, 3), (17, 5), (12, 5), (7, 3)] [m.toNat, i.toNat, a.toNat, d.toNat] 0x88000035 (by decide) (by decide) ⟨m.isLt, i.isLt, a.isLt, d.isLt, trivial⟩
  rw [show wordOn 0x88000035 [(22, 3), (17, 5), (12, 5), (7, 3)] [m.toNat, i.toNat, a.toNat, d.toNat] = wd from Option.some.inj hEnc] at L
  obtain ⟨lt, ⟨he0, he1, he2, he3, -⟩, keep⟩ := L
  have hk := keep 0 7 (by decide)
  obtain ⟨hz, hl, hr, hi⟩ := major_35 (mod_of_bits hk)
  have hf := keep 25 7 (by decide)
  refine ⟨lt, decodes (zs := [(10, 2)]) (ne_of_bits hk (by decide)) (ne_of_bits hk (by decide)) ?_ ?_ ?_ ?_ ?_⟩
  · rw [hz, hf]; rfl
  · simp only [allZero, List.all_cons, List.all_nil, keep 10 2 (by decide)]; rfl
  · exact hl
  · exact hr
  · rw [hi, instrVcmp, hf]
    show some _ = _
    rw [fieldAt_of_bits he0, fieldAt_of_bits he1, fieldAt_of_bits he2, fieldAt_of_bits he3]

theorem vcmpLeuVi (m : BitVec 3) (i a : BitVec 5) (d : BitVec 3) : Statement (.vcmpLeuVi m i a d) := by
  intro _ wd hEnc
  have L := word_layout [(22, 3), (17, 5), (12, 5), (7, 3)] [m.toNat, i.toNat, a.toNat, d.toNat] 0x8A000035 (by decide) (by decide) ⟨m.isLt, i.isLt, a.isLt, d.isLt, trivial⟩
  rw [show wordOn 0x8A000035 [(22, 3), (17, 5), (12, 5), (7, 3)] [m.toNat, i.toNat, a.toNat, d.toNat] = wd from Option.some.inj hEnc] at L
  obtain ⟨lt, ⟨he0, he1, he2, he3, -⟩, keep⟩ := L
  have hk := keep 0 7 (by decide)
  obtain ⟨hz, hl, hr, hi⟩ := major_35 (mod_of_bits hk)
  have hf := keep 25 7 (by decide)
  refine ⟨lt, decodes (zs := [(10, 2)]) (ne_of_bits hk (by decide)) (ne_of_bits hk (by decide)) ?_ ?_ ?_ ?_ ?_⟩
  · rw [hz, hf]; rfl
  · simp only [allZero, List.all_cons, List.all_nil, keep 10 2 (by decide)]; rfl
  · exact hl
  · exact hr
  · rw [hi, instrVcmp, hf]
    show some _ = _
    rw [fieldAt_of_bits he0, fieldAt_of_bits he1, fieldAt_of_bits he2, fieldAt_of_bits he3]

theorem vcmpGtVi (m : BitVec 3) (i a : BitVec 5) (d : BitVec 3) : Statement (.vcmpGtVi m i a d) := by
  intro _ wd hEnc
  have L := word_layout [(22, 3), (17, 5), (12, 5), (7, 3)] [m.toNat, i.toNat, a.toNat, d.toNat] 0x8C000035 (by decide) (by decide) ⟨m.isLt, i.isLt, a.isLt, d.isLt, trivial⟩
  rw [show wordOn 0x8C000035 [(22, 3), (17, 5), (12, 5), (7, 3)] [m.toNat, i.toNat, a.toNat, d.toNat] = wd from Option.some.inj hEnc] at L
  obtain ⟨lt, ⟨he0, he1, he2, he3, -⟩, keep⟩ := L
  have hk := keep 0 7 (by decide)
  obtain ⟨hz, hl, hr, hi⟩ := major_35 (mod_of_bits hk)
  have hf := keep 25 7 (by decide)
  refine ⟨lt, decodes (zs := [(10, 2)]) (ne_of_bits hk (by decide)) (ne_of_bits hk (by decide)) ?_ ?_ ?_ ?_ ?_⟩
  · rw [hz, hf]; rfl
  · simp only [allZero, List.all_cons, List.all_nil, keep 10 2 (by decide)]; rfl
  · exact hl
  · exact hr
  · rw [hi, instrVcmp, hf]
    show some _ = _
    rw [fieldAt_of_bits he0, fieldAt_of_bits he1, fieldAt_of_bits he2, fieldAt_of_bits he3]

theorem vcmpGtuVi (m : BitVec 3) (i a : BitVec 5) (d : BitVec 3) : Statement (.vcmpGtuVi m i a d) := by
  intro _ wd hEnc
  have L := word_layout [(22, 3), (17, 5), (12, 5), (7, 3)] [m.toNat, i.toNat, a.toNat, d.toNat] 0x8E000035 (by decide) (by decide) ⟨m.isLt, i.isLt, a.isLt, d.isLt, trivial⟩
  rw [show wordOn 0x8E000035 [(22, 3), (17, 5), (12, 5), (7, 3)] [m.toNat, i.toNat, a.toNat, d.toNat] = wd from Option.some.inj hEnc] at L
  obtain ⟨lt, ⟨he0, he1, he2, he3, -⟩, keep⟩ := L
  have hk := keep 0 7 (by decide)
  obtain ⟨hz, hl, hr, hi⟩ := major_35 (mod_of_bits hk)
  have hf := keep 25 7 (by decide)
  refine ⟨lt, decodes (zs := [(10, 2)]) (ne_of_bits hk (by decide)) (ne_of_bits hk (by decide)) ?_ ?_ ?_ ?_ ?_⟩
  · rw [hz, hf]; rfl
  · simp only [allZero, List.all_cons, List.all_nil, keep 10 2 (by decide)]; rfl
  · exact hl
  · exact hr
  · rw [hi, instrVcmp, hf]
    show some _ = _
    rw [fieldAt_of_bits he0, fieldAt_of_bits he1, fieldAt_of_bits he2, fieldAt_of_bits he3]

theorem vmv (m : BitVec 3) (a d : BitVec 5) : Statement (.vmv m a d) := by
  intro hw wd hEnc
  have L := word_layout [(22, 3), (12, 5), (7, 5)] [m.toNat, a.toNat, d.toNat] 0x00000036 (by decide) (by decide) ⟨m.isLt, a.isLt, d.isLt, trivial⟩
  rw [show wordOn 0x00000036 [(22, 3), (12, 5), (7, 5)] [m.toNat, a.toNat, d.toNat] = wd from Option.some.inj hEnc] at L
  obtain ⟨lt, ⟨he0, he1, he2, -⟩, keep⟩ := L
  have hk := keep 0 7 (by decide)
  obtain ⟨hz, hl, hr, hi⟩ := major_36 (mod_of_bits hk)
  have hf := keep 25 7 (by decide)
  refine ⟨lt, decodes (zs := [(17, 5)]) (ne_of_bits hk (by decide)) (ne_of_bits hk (by decide)) ?_ ?_ ?_ ?_ ?_⟩
  · rw [hz, hf]; rfl
  · simp only [allZero, List.all_cons, List.all_nil, keep 17 5 (by decide)]; rfl
  · exact hl
  · rw [hr]
    simp only [keep 25 7 (by decide), he0]
    simpa [bits, Instr.wellFormed, Instr.zeroFieldsOk, Instr.reserved, Instr.eventOk, Instr.scopeReserved, ← BitVec.toNat_inj] using hw
  · rw [hi, instrVmove, hf]
    show some _ = _
    rw [fieldAt_of_bits he0, fieldAt_of_bits he1, fieldAt_of_bits he2]

theorem vsplat (m : BitVec 3) (s d : BitVec 5) : Statement (.vsplat m s d) := by
  intro hw wd hEnc
  have L := word_layout [(22, 3), (17, 5), (7, 5)] [m.toNat, s.toNat, d.toNat] 0x02000036 (by decide) (by decide) ⟨m.isLt, s.isLt, d.isLt, trivial⟩
  rw [show wordOn 0x02000036 [(22, 3), (17, 5), (7, 5)] [m.toNat, s.toNat, d.toNat] = wd from Option.some.inj hEnc] at L
  obtain ⟨lt, ⟨he0, he1, he2, -⟩, keep⟩ := L
  have hk := keep 0 7 (by decide)
  obtain ⟨hz, hl, hr, hi⟩ := major_36 (mod_of_bits hk)
  have hf := keep 25 7 (by decide)
  refine ⟨lt, decodes (zs := [(12, 5)]) (ne_of_bits hk (by decide)) (ne_of_bits hk (by decide)) ?_ ?_ ?_ ?_ ?_⟩
  · rw [hz, hf]; rfl
  · simp only [allZero, List.all_cons, List.all_nil, keep 12 5 (by decide)]; rfl
  · exact hl
  · rw [hr]
    simp only [keep 25 7 (by decide), he0]
    simpa [bits, Instr.wellFormed, Instr.zeroFieldsOk, Instr.reserved, Instr.eventOk, Instr.scopeReserved, ← BitVec.toNat_inj] using hw
  · rw [hi, instrVmove, hf]
    show some _ = _
    rw [fieldAt_of_bits he0, fieldAt_of_bits he1, fieldAt_of_bits he2]

theorem vext (x a d : BitVec 5) : Statement (.vext x a d) := by
  intro hw wd hEnc
  have L := word_layout [(17, 5), (12, 5), (7, 5)] [x.toNat, a.toNat, d.toNat] 0x04000036 (by decide) (by decide) ⟨x.isLt, a.isLt, d.isLt, trivial⟩
  rw [show wordOn 0x04000036 [(17, 5), (12, 5), (7, 5)] [x.toNat, a.toNat, d.toNat] = wd from Option.some.inj hEnc] at L
  obtain ⟨lt, ⟨he0, he1, he2, -⟩, keep⟩ := L
  have hk := keep 0 7 (by decide)
  obtain ⟨hz, hl, hr, hi⟩ := major_36 (mod_of_bits hk)
  have hf := keep 25 7 (by decide)
  refine ⟨lt, decodes (zs := [(22, 3)]) (ne_of_bits hk (by decide)) (ne_of_bits hk (by decide)) ?_ ?_ ?_ ?_ ?_⟩
  · rw [hz, hf]; rfl
  · simp only [allZero, List.all_cons, List.all_nil, keep 22 3 (by decide)]; rfl
  · exact hl
  · rw [hr]
    simp only [keep 25 7 (by decide), keep 22 3 (by decide)]
    simpa [bits, Instr.wellFormed, Instr.zeroFieldsOk, Instr.reserved, Instr.eventOk, Instr.scopeReserved, ← BitVec.toNat_inj] using hw
  · rw [hi, instrVmove, hf]
    show some _ = _
    rw [fieldAt_of_bits he0, fieldAt_of_bits he1, fieldAt_of_bits he2]

theorem vid (m : BitVec 3) (d : BitVec 5) : Statement (.vid m d) := by
  intro hw wd hEnc
  have L := word_layout [(22, 3), (7, 5)] [m.toNat, d.toNat] 0x06000036 (by decide) (by decide) ⟨m.isLt, d.isLt, trivial⟩
  rw [show wordOn 0x06000036 [(22, 3), (7, 5)] [m.toNat, d.toNat] = wd from Option.some.inj hEnc] at L
  obtain ⟨lt, ⟨he0, he1, -⟩, keep⟩ := L
  have hk := keep 0 7 (by decide)
  obtain ⟨hz, hl, hr, hi⟩ := major_36 (mod_of_bits hk)
  have hf := keep 25 7 (by decide)
  refine ⟨lt, decodes (zs := [(12, 10)]) (ne_of_bits hk (by decide)) (ne_of_bits hk (by decide)) ?_ ?_ ?_ ?_ ?_⟩
  · rw [hz, hf]; rfl
  · simp only [allZero, List.all_cons, List.all_nil, keep 12 10 (by decide)]; rfl
  · exact hl
  · rw [hr]
    simp only [keep 25 7 (by decide), he0]
    simpa [bits, Instr.wellFormed, Instr.zeroFieldsOk, Instr.reserved, Instr.eventOk, Instr.scopeReserved, ← BitVec.toNat_inj] using hw
  · rw [hi, instrVmove, hf]
    show some _ = _
    rw [fieldAt_of_bits he0, fieldAt_of_bits he1]

theorem vmerge (m : BitVec 3) (b a d : BitVec 5) : Statement (.vmerge m b a d) := by
  intro hw wd hEnc
  have L := word_layout [(22, 3), (17, 5), (12, 5), (7, 5)] [m.toNat, b.toNat, a.toNat, d.toNat] 0x08000036 (by decide) (by decide) ⟨m.isLt, b.isLt, a.isLt, d.isLt, trivial⟩
  rw [show wordOn 0x08000036 [(22, 3), (17, 5), (12, 5), (7, 5)] [m.toNat, b.toNat, a.toNat, d.toNat] = wd from Option.some.inj hEnc] at L
  obtain ⟨lt, ⟨he0, he1, he2, he3, -⟩, keep⟩ := L
  have hk := keep 0 7 (by decide)
  obtain ⟨hz, hl, hr, hi⟩ := major_36 (mod_of_bits hk)
  have hf := keep 25 7 (by decide)
  refine ⟨lt, decodes (zs := []) (ne_of_bits hk (by decide)) (ne_of_bits hk (by decide)) ?_ ?_ ?_ ?_ ?_⟩
  · rw [hz, hf]; rfl
  · exact rfl
  · exact hl
  · rw [hr]
    simp only [keep 25 7 (by decide), he0]
    simpa [bits, Instr.wellFormed, Instr.zeroFieldsOk, Instr.reserved, Instr.eventOk, Instr.scopeReserved, ← BitVec.toNat_inj] using hw
  · rw [hi, instrVmove, hf]
    show some _ = _
    rw [fieldAt_of_bits he0, fieldAt_of_bits he1, fieldAt_of_bits he2, fieldAt_of_bits he3]

theorem vnop : Statement .vnop := by
  intro hw wd hEnc
  have L := word_layout [] [] 0x0A000036 (by decide) rfl trivial
  rw [show wordOn 0x0A000036 [] [] = wd from Option.some.inj hEnc] at L
  obtain ⟨lt, -, keep⟩ := L
  have hk := keep 0 7 (by decide)
  obtain ⟨hz, hl, hr, hi⟩ := major_36 (mod_of_bits hk)
  have hf := keep 25 7 (by decide)
  refine ⟨lt, decodes (zs := [(7, 18)]) (ne_of_bits hk (by decide)) (ne_of_bits hk (by decide)) ?_ ?_ ?_ ?_ ?_⟩
  · rw [hz, hf]; rfl
  · simp only [allZero, List.all_cons, List.all_nil, keep 7 18 (by decide)]; rfl
  · exact hl
  · rw [hr]
    simp only [keep 25 7 (by decide), keep 22 3 (by decide)]
    simpa [bits, Instr.wellFormed, Instr.zeroFieldsOk, Instr.reserved, Instr.eventOk, Instr.scopeReserved, ← BitVec.toNat_inj] using hw
  · rw [hi, instrVmove, hf]
    show some _ = _
    rfl

theorem vslup (m : BitVec 3) (s a d : BitVec 5) : Statement (.vslup m s a d) := by
  intro _ wd hEnc
  have L := word_layout [(22, 3), (17, 5), (12, 5), (7, 5)] [m.toNat, s.toNat, a.toNat, d.toNat] 0x00000037 (by decide) (by decide) ⟨m.isLt, s.isLt, a.isLt, d.isLt, trivial⟩
  rw [show wordOn 0x00000037 [(22, 3), (17, 5), (12, 5), (7, 5)] [m.toNat, s.toNat, a.toNat, d.toNat] = wd from Option.some.inj hEnc] at L
  obtain ⟨lt, ⟨he0, he1, he2, he3, -⟩, keep⟩ := L
  have hk := keep 0 7 (by decide)
  obtain ⟨hz, hl, hr, hi⟩ := major_37 (mod_of_bits hk)
  have hf := keep 25 7 (by decide)
  refine ⟨lt, decodes (zs := []) (ne_of_bits hk (by decide)) (ne_of_bits hk (by decide)) ?_ ?_ ?_ ?_ ?_⟩
  · rw [hz, hf]; rfl
  · exact rfl
  · exact hl
  · exact hr
  · rw [hi, instrVperm, hf]
    show some _ = _
    rw [fieldAt_of_bits he0, fieldAt_of_bits he1, fieldAt_of_bits he2, fieldAt_of_bits he3]

theorem vsldn (m : BitVec 3) (s a d : BitVec 5) : Statement (.vsldn m s a d) := by
  intro _ wd hEnc
  have L := word_layout [(22, 3), (17, 5), (12, 5), (7, 5)] [m.toNat, s.toNat, a.toNat, d.toNat] 0x02000037 (by decide) (by decide) ⟨m.isLt, s.isLt, a.isLt, d.isLt, trivial⟩
  rw [show wordOn 0x02000037 [(22, 3), (17, 5), (12, 5), (7, 5)] [m.toNat, s.toNat, a.toNat, d.toNat] = wd from Option.some.inj hEnc] at L
  obtain ⟨lt, ⟨he0, he1, he2, he3, -⟩, keep⟩ := L
  have hk := keep 0 7 (by decide)
  obtain ⟨hz, hl, hr, hi⟩ := major_37 (mod_of_bits hk)
  have hf := keep 25 7 (by decide)
  refine ⟨lt, decodes (zs := []) (ne_of_bits hk (by decide)) (ne_of_bits hk (by decide)) ?_ ?_ ?_ ?_ ?_⟩
  · rw [hz, hf]; rfl
  · exact rfl
  · exact hl
  · exact hr
  · rw [hi, instrVperm, hf]
    show some _ = _
    rw [fieldAt_of_bits he0, fieldAt_of_bits he1, fieldAt_of_bits he2, fieldAt_of_bits he3]

theorem vgathr (m : BitVec 3) (b a d : BitVec 5) : Statement (.vgathr m b a d) := by
  intro _ wd hEnc
  have L := word_layout [(22, 3), (17, 5), (12, 5), (7, 5)] [m.toNat, b.toNat, a.toNat, d.toNat] 0x04000037 (by decide) (by decide) ⟨m.isLt, b.isLt, a.isLt, d.isLt, trivial⟩
  rw [show wordOn 0x04000037 [(22, 3), (17, 5), (12, 5), (7, 5)] [m.toNat, b.toNat, a.toNat, d.toNat] = wd from Option.some.inj hEnc] at L
  obtain ⟨lt, ⟨he0, he1, he2, he3, -⟩, keep⟩ := L
  have hk := keep 0 7 (by decide)
  obtain ⟨hz, hl, hr, hi⟩ := major_37 (mod_of_bits hk)
  have hf := keep 25 7 (by decide)
  refine ⟨lt, decodes (zs := []) (ne_of_bits hk (by decide)) (ne_of_bits hk (by decide)) ?_ ?_ ?_ ?_ ?_⟩
  · rw [hz, hf]; rfl
  · exact rfl
  · exact hl
  · exact hr
  · rw [hi, instrVperm, hf]
    show some _ = _
    rw [fieldAt_of_bits he0, fieldAt_of_bits he1, fieldAt_of_bits he2, fieldAt_of_bits he3]

theorem vcompr (m : BitVec 3) (a d : BitVec 5) : Statement (.vcompr m a d) := by
  intro _ wd hEnc
  have L := word_layout [(22, 3), (12, 5), (7, 5)] [m.toNat, a.toNat, d.toNat] 0x06000037 (by decide) (by decide) ⟨m.isLt, a.isLt, d.isLt, trivial⟩
  rw [show wordOn 0x06000037 [(22, 3), (12, 5), (7, 5)] [m.toNat, a.toNat, d.toNat] = wd from Option.some.inj hEnc] at L
  obtain ⟨lt, ⟨he0, he1, he2, -⟩, keep⟩ := L
  have hk := keep 0 7 (by decide)
  obtain ⟨hz, hl, hr, hi⟩ := major_37 (mod_of_bits hk)
  have hf := keep 25 7 (by decide)
  refine ⟨lt, decodes (zs := [(17, 5)]) (ne_of_bits hk (by decide)) (ne_of_bits hk (by decide)) ?_ ?_ ?_ ?_ ?_⟩
  · rw [hz, hf]; rfl
  · simp only [allZero, List.all_cons, List.all_nil, keep 17 5 (by decide)]; rfl
  · exact hl
  · exact hr
  · rw [hi, instrVperm, hf]
    show some _ = _
    rw [fieldAt_of_bits he0, fieldAt_of_bits he1, fieldAt_of_bits he2]

theorem vrev (m : BitVec 3) (a d : BitVec 5) : Statement (.vrev m a d) := by
  intro _ wd hEnc
  have L := word_layout [(22, 3), (12, 5), (7, 5)] [m.toNat, a.toNat, d.toNat] 0x08000037 (by decide) (by decide) ⟨m.isLt, a.isLt, d.isLt, trivial⟩
  rw [show wordOn 0x08000037 [(22, 3), (12, 5), (7, 5)] [m.toNat, a.toNat, d.toNat] = wd from Option.some.inj hEnc] at L
  obtain ⟨lt, ⟨he0, he1, he2, -⟩, keep⟩ := L
  have hk := keep 0 7 (by decide)
  obtain ⟨hz, hl, hr, hi⟩ := major_37 (mod_of_bits hk)
  have hf := keep 25 7 (by decide)
  refine ⟨lt, decodes (zs := [(17, 5)]) (ne_of_bits hk (by decide)) (ne_of_bits hk (by decide)) ?_ ?_ ?_ ?_ ?_⟩
  · rw [hz, hf]; rfl
  · simp only [allZero, List.all_cons, List.all_nil, keep 17 5 (by decide)]; rfl
  · exact hl
  · exact hr
  · rw [hi, instrVperm, hf]
    show some _ = _
    rw [fieldAt_of_bits he0, fieldAt_of_bits he1, fieldAt_of_bits he2]

theorem vxchgX (m : BitVec 3) (s a d : BitVec 5) : Statement (.vxchgX m s a d) := by
  intro _ wd hEnc
  have L := word_layout [(22, 3), (17, 5), (12, 5), (7, 5)] [m.toNat, s.toNat, a.toNat, d.toNat] 0x0A000037 (by decide) (by decide) ⟨m.isLt, s.isLt, a.isLt, d.isLt, trivial⟩
  rw [show wordOn 0x0A000037 [(22, 3), (17, 5), (12, 5), (7, 5)] [m.toNat, s.toNat, a.toNat, d.toNat] = wd from Option.some.inj hEnc] at L
  obtain ⟨lt, ⟨he0, he1, he2, he3, -⟩, keep⟩ := L
  have hk := keep 0 7 (by decide)
  obtain ⟨hz, hl, hr, hi⟩ := major_37 (mod_of_bits hk)
  have hf := keep 25 7 (by decide)
  refine ⟨lt, decodes (zs := []) (ne_of_bits hk (by decide)) (ne_of_bits hk (by decide)) ?_ ?_ ?_ ?_ ?_⟩
  · rw [hz, hf]; rfl
  · exact rfl
  · exact hl
  · exact hr
  · rw [hi, instrVperm, hf]
    show some _ = _
    rw [fieldAt_of_bits he0, fieldAt_of_bits he1, fieldAt_of_bits he2, fieldAt_of_bits he3]

theorem vxchgR (m : BitVec 3) (s a d : BitVec 5) : Statement (.vxchgR m s a d) := by
  intro _ wd hEnc
  have L := word_layout [(22, 3), (17, 5), (12, 5), (7, 5)] [m.toNat, s.toNat, a.toNat, d.toNat] 0x0C000037 (by decide) (by decide) ⟨m.isLt, s.isLt, a.isLt, d.isLt, trivial⟩
  rw [show wordOn 0x0C000037 [(22, 3), (17, 5), (12, 5), (7, 5)] [m.toNat, s.toNat, a.toNat, d.toNat] = wd from Option.some.inj hEnc] at L
  obtain ⟨lt, ⟨he0, he1, he2, he3, -⟩, keep⟩ := L
  have hk := keep 0 7 (by decide)
  obtain ⟨hz, hl, hr, hi⟩ := major_37 (mod_of_bits hk)
  have hf := keep 25 7 (by decide)
  refine ⟨lt, decodes (zs := []) (ne_of_bits hk (by decide)) (ne_of_bits hk (by decide)) ?_ ?_ ?_ ?_ ?_⟩
  · rw [hz, hf]; rfl
  · exact rfl
  · exact hl
  · exact hr
  · rw [hi, instrVperm, hf]
    show some _ = _
    rw [fieldAt_of_bits he0, fieldAt_of_bits he1, fieldAt_of_bits he2, fieldAt_of_bits he3]

theorem vredsum (m : BitVec 3) (b a d : BitVec 5) : Statement (.vredsum m b a d) := by
  intro _ wd hEnc
  have L := word_layout [(22, 3), (17, 5), (12, 5), (7, 5)] [m.toNat, b.toNat, a.toNat, d.toNat] 0x00000038 (by decide) (by decide) ⟨m.isLt, b.isLt, a.isLt, d.isLt, trivial⟩
  rw [show wordOn 0x00000038 [(22, 3), (17, 5), (12, 5), (7, 5)] [m.toNat, b.toNat, a.toNat, d.toNat] = wd from Option.some.inj hEnc] at L
  obtain ⟨lt, ⟨he0, he1, he2, he3, -⟩, keep⟩ := L
  have hk := keep 0 7 (by decide)
  obtain ⟨hz, hl, hr, hi⟩ := major_38 (mod_of_bits hk)
  have hf := keep 25 7 (by decide)
  refine ⟨lt, decodes (zs := []) (ne_of_bits hk (by decide)) (ne_of_bits hk (by decide)) ?_ ?_ ?_ ?_ ?_⟩
  · rw [hz, hf]; rfl
  · exact rfl
  · exact hl
  · exact hr
  · rw [hi, instrVred, hf]
    show some _ = _
    rw [fieldAt_of_bits he0, fieldAt_of_bits he1, fieldAt_of_bits he2, fieldAt_of_bits he3]

theorem vredmax (m : BitVec 3) (b a d : BitVec 5) : Statement (.vredmax m b a d) := by
  intro _ wd hEnc
  have L := word_layout [(22, 3), (17, 5), (12, 5), (7, 5)] [m.toNat, b.toNat, a.toNat, d.toNat] 0x02000038 (by decide) (by decide) ⟨m.isLt, b.isLt, a.isLt, d.isLt, trivial⟩
  rw [show wordOn 0x02000038 [(22, 3), (17, 5), (12, 5), (7, 5)] [m.toNat, b.toNat, a.toNat, d.toNat] = wd from Option.some.inj hEnc] at L
  obtain ⟨lt, ⟨he0, he1, he2, he3, -⟩, keep⟩ := L
  have hk := keep 0 7 (by decide)
  obtain ⟨hz, hl, hr, hi⟩ := major_38 (mod_of_bits hk)
  have hf := keep 25 7 (by decide)
  refine ⟨lt, decodes (zs := []) (ne_of_bits hk (by decide)) (ne_of_bits hk (by decide)) ?_ ?_ ?_ ?_ ?_⟩
  · rw [hz, hf]; rfl
  · exact rfl
  · exact hl
  · exact hr
  · rw [hi, instrVred, hf]
    show some _ = _
    rw [fieldAt_of_bits he0, fieldAt_of_bits he1, fieldAt_of_bits he2, fieldAt_of_bits he3]

theorem vredmin (m : BitVec 3) (b a d : BitVec 5) : Statement (.vredmin m b a d) := by
  intro _ wd hEnc
  have L := word_layout [(22, 3), (17, 5), (12, 5), (7, 5)] [m.toNat, b.toNat, a.toNat, d.toNat] 0x04000038 (by decide) (by decide) ⟨m.isLt, b.isLt, a.isLt, d.isLt, trivial⟩
  rw [show wordOn 0x04000038 [(22, 3), (17, 5), (12, 5), (7, 5)] [m.toNat, b.toNat, a.toNat, d.toNat] = wd from Option.some.inj hEnc] at L
  obtain ⟨lt, ⟨he0, he1, he2, he3, -⟩, keep⟩ := L
  have hk := keep 0 7 (by decide)
  obtain ⟨hz, hl, hr, hi⟩ := major_38 (mod_of_bits hk)
  have hf := keep 25 7 (by decide)
  refine ⟨lt, decodes (zs := []) (ne_of_bits hk (by decide)) (ne_of_bits hk (by decide)) ?_ ?_ ?_ ?_ ?_⟩
  · rw [hz, hf]; rfl
  · exact rfl
  · exact hl
  · exact hr
  · rw [hi, instrVred, hf]
    show some _ = _
    rw [fieldAt_of_bits he0, fieldAt_of_bits he1, fieldAt_of_bits he2, fieldAt_of_bits he3]

theorem vredmaxu (m : BitVec 3) (b a d : BitVec 5) : Statement (.vredmaxu m b a d) := by
  intro _ wd hEnc
  have L := word_layout [(22, 3), (17, 5), (12, 5), (7, 5)] [m.toNat, b.toNat, a.toNat, d.toNat] 0x06000038 (by decide) (by decide) ⟨m.isLt, b.isLt, a.isLt, d.isLt, trivial⟩
  rw [show wordOn 0x06000038 [(22, 3), (17, 5), (12, 5), (7, 5)] [m.toNat, b.toNat, a.toNat, d.toNat] = wd from Option.some.inj hEnc] at L
  obtain ⟨lt, ⟨he0, he1, he2, he3, -⟩, keep⟩ := L
  have hk := keep 0 7 (by decide)
  obtain ⟨hz, hl, hr, hi⟩ := major_38 (mod_of_bits hk)
  have hf := keep 25 7 (by decide)
  refine ⟨lt, decodes (zs := []) (ne_of_bits hk (by decide)) (ne_of_bits hk (by decide)) ?_ ?_ ?_ ?_ ?_⟩
  · rw [hz, hf]; rfl
  · exact rfl
  · exact hl
  · exact hr
  · rw [hi, instrVred, hf]
    show some _ = _
    rw [fieldAt_of_bits he0, fieldAt_of_bits he1, fieldAt_of_bits he2, fieldAt_of_bits he3]

theorem vredminu (m : BitVec 3) (b a d : BitVec 5) : Statement (.vredminu m b a d) := by
  intro _ wd hEnc
  have L := word_layout [(22, 3), (17, 5), (12, 5), (7, 5)] [m.toNat, b.toNat, a.toNat, d.toNat] 0x08000038 (by decide) (by decide) ⟨m.isLt, b.isLt, a.isLt, d.isLt, trivial⟩
  rw [show wordOn 0x08000038 [(22, 3), (17, 5), (12, 5), (7, 5)] [m.toNat, b.toNat, a.toNat, d.toNat] = wd from Option.some.inj hEnc] at L
  obtain ⟨lt, ⟨he0, he1, he2, he3, -⟩, keep⟩ := L
  have hk := keep 0 7 (by decide)
  obtain ⟨hz, hl, hr, hi⟩ := major_38 (mod_of_bits hk)
  have hf := keep 25 7 (by decide)
  refine ⟨lt, decodes (zs := []) (ne_of_bits hk (by decide)) (ne_of_bits hk (by decide)) ?_ ?_ ?_ ?_ ?_⟩
  · rw [hz, hf]; rfl
  · exact rfl
  · exact hl
  · exact hr
  · rw [hi, instrVred, hf]
    show some _ = _
    rw [fieldAt_of_bits he0, fieldAt_of_bits he1, fieldAt_of_bits he2, fieldAt_of_bits he3]

theorem vredand (m : BitVec 3) (b a d : BitVec 5) : Statement (.vredand m b a d) := by
  intro _ wd hEnc
  have L := word_layout [(22, 3), (17, 5), (12, 5), (7, 5)] [m.toNat, b.toNat, a.toNat, d.toNat] 0x0A000038 (by decide) (by decide) ⟨m.isLt, b.isLt, a.isLt, d.isLt, trivial⟩
  rw [show wordOn 0x0A000038 [(22, 3), (17, 5), (12, 5), (7, 5)] [m.toNat, b.toNat, a.toNat, d.toNat] = wd from Option.some.inj hEnc] at L
  obtain ⟨lt, ⟨he0, he1, he2, he3, -⟩, keep⟩ := L
  have hk := keep 0 7 (by decide)
  obtain ⟨hz, hl, hr, hi⟩ := major_38 (mod_of_bits hk)
  have hf := keep 25 7 (by decide)
  refine ⟨lt, decodes (zs := []) (ne_of_bits hk (by decide)) (ne_of_bits hk (by decide)) ?_ ?_ ?_ ?_ ?_⟩
  · rw [hz, hf]; rfl
  · exact rfl
  · exact hl
  · exact hr
  · rw [hi, instrVred, hf]
    show some _ = _
    rw [fieldAt_of_bits he0, fieldAt_of_bits he1, fieldAt_of_bits he2, fieldAt_of_bits he3]

theorem vredor (m : BitVec 3) (b a d : BitVec 5) : Statement (.vredor m b a d) := by
  intro _ wd hEnc
  have L := word_layout [(22, 3), (17, 5), (12, 5), (7, 5)] [m.toNat, b.toNat, a.toNat, d.toNat] 0x0C000038 (by decide) (by decide) ⟨m.isLt, b.isLt, a.isLt, d.isLt, trivial⟩
  rw [show wordOn 0x0C000038 [(22, 3), (17, 5), (12, 5), (7, 5)] [m.toNat, b.toNat, a.toNat, d.toNat] = wd from Option.some.inj hEnc] at L
  obtain ⟨lt, ⟨he0, he1, he2, he3, -⟩, keep⟩ := L
  have hk := keep 0 7 (by decide)
  obtain ⟨hz, hl, hr, hi⟩ := major_38 (mod_of_bits hk)
  have hf := keep 25 7 (by decide)
  refine ⟨lt, decodes (zs := []) (ne_of_bits hk (by decide)) (ne_of_bits hk (by decide)) ?_ ?_ ?_ ?_ ?_⟩
  · rw [hz, hf]; rfl
  · exact rfl
  · exact hl
  · exact hr
  · rw [hi, instrVred, hf]
    show some _ = _
    rw [fieldAt_of_bits he0, fieldAt_of_bits he1, fieldAt_of_bits he2, fieldAt_of_bits he3]

theorem vredxor (m : BitVec 3) (b a d : BitVec 5) : Statement (.vredxor m b a d) := by
  intro _ wd hEnc
  have L := word_layout [(22, 3), (17, 5), (12, 5), (7, 5)] [m.toNat, b.toNat, a.toNat, d.toNat] 0x0E000038 (by decide) (by decide) ⟨m.isLt, b.isLt, a.isLt, d.isLt, trivial⟩
  rw [show wordOn 0x0E000038 [(22, 3), (17, 5), (12, 5), (7, 5)] [m.toNat, b.toNat, a.toNat, d.toNat] = wd from Option.some.inj hEnc] at L
  obtain ⟨lt, ⟨he0, he1, he2, he3, -⟩, keep⟩ := L
  have hk := keep 0 7 (by decide)
  obtain ⟨hz, hl, hr, hi⟩ := major_38 (mod_of_bits hk)
  have hf := keep 25 7 (by decide)
  refine ⟨lt, decodes (zs := []) (ne_of_bits hk (by decide)) (ne_of_bits hk (by decide)) ?_ ?_ ?_ ?_ ?_⟩
  · rw [hz, hf]; rfl
  · exact rfl
  · exact hl
  · exact hr
  · rw [hi, instrVred, hf]
    show some _ = _
    rw [fieldAt_of_bits he0, fieldAt_of_bits he1, fieldAt_of_bits he2, fieldAt_of_bits he3]

theorem vargmax (m : BitVec 3) (a d : BitVec 5) : Statement (.vargmax m a d) := by
  intro _ wd hEnc
  have L := word_layout [(22, 3), (12, 5), (7, 5)] [m.toNat, a.toNat, d.toNat] 0x10000038 (by decide) (by decide) ⟨m.isLt, a.isLt, d.isLt, trivial⟩
  rw [show wordOn 0x10000038 [(22, 3), (12, 5), (7, 5)] [m.toNat, a.toNat, d.toNat] = wd from Option.some.inj hEnc] at L
  obtain ⟨lt, ⟨he0, he1, he2, -⟩, keep⟩ := L
  have hk := keep 0 7 (by decide)
  obtain ⟨hz, hl, hr, hi⟩ := major_38 (mod_of_bits hk)
  have hf := keep 25 7 (by decide)
  refine ⟨lt, decodes (zs := [(17, 5)]) (ne_of_bits hk (by decide)) (ne_of_bits hk (by decide)) ?_ ?_ ?_ ?_ ?_⟩
  · rw [hz, hf]; rfl
  · simp only [allZero, List.all_cons, List.all_nil, keep 17 5 (by decide)]; rfl
  · exact hl
  · exact hr
  · rw [hi, instrVred, hf]
    show some _ = _
    rw [fieldAt_of_bits he0, fieldAt_of_bits he1, fieldAt_of_bits he2]

theorem vargmin (m : BitVec 3) (a d : BitVec 5) : Statement (.vargmin m a d) := by
  intro _ wd hEnc
  have L := word_layout [(22, 3), (12, 5), (7, 5)] [m.toNat, a.toNat, d.toNat] 0x12000038 (by decide) (by decide) ⟨m.isLt, a.isLt, d.isLt, trivial⟩
  rw [show wordOn 0x12000038 [(22, 3), (12, 5), (7, 5)] [m.toNat, a.toNat, d.toNat] = wd from Option.some.inj hEnc] at L
  obtain ⟨lt, ⟨he0, he1, he2, -⟩, keep⟩ := L
  have hk := keep 0 7 (by decide)
  obtain ⟨hz, hl, hr, hi⟩ := major_38 (mod_of_bits hk)
  have hf := keep 25 7 (by decide)
  refine ⟨lt, decodes (zs := [(17, 5)]) (ne_of_bits hk (by decide)) (ne_of_bits hk (by decide)) ?_ ?_ ?_ ?_ ?_⟩
  · rw [hz, hf]; rfl
  · simp only [allZero, List.all_cons, List.all_nil, keep 17 5 (by decide)]; rfl
  · exact hl
  · exact hr
  · rw [hi, instrVred, hf]
    show some _ = _
    rw [fieldAt_of_bits he0, fieldAt_of_bits he1, fieldAt_of_bits he2]

theorem vfredsum (m : BitVec 3) (b a d : BitVec 5) : Statement (.vfredsum m b a d) := by
  intro _ wd hEnc
  have L := word_layout [(22, 3), (17, 5), (12, 5), (7, 5)] [m.toNat, b.toNat, a.toNat, d.toNat] 0x14000038 (by decide) (by decide) ⟨m.isLt, b.isLt, a.isLt, d.isLt, trivial⟩
  rw [show wordOn 0x14000038 [(22, 3), (17, 5), (12, 5), (7, 5)] [m.toNat, b.toNat, a.toNat, d.toNat] = wd from Option.some.inj hEnc] at L
  obtain ⟨lt, ⟨he0, he1, he2, he3, -⟩, keep⟩ := L
  have hk := keep 0 7 (by decide)
  obtain ⟨hz, hl, hr, hi⟩ := major_38 (mod_of_bits hk)
  have hf := keep 25 7 (by decide)
  refine ⟨lt, decodes (zs := []) (ne_of_bits hk (by decide)) (ne_of_bits hk (by decide)) ?_ ?_ ?_ ?_ ?_⟩
  · rw [hz, hf]; rfl
  · exact rfl
  · exact hl
  · exact hr
  · rw [hi, instrVred, hf]
    show some _ = _
    rw [fieldAt_of_bits he0, fieldAt_of_bits he1, fieldAt_of_bits he2, fieldAt_of_bits he3]

theorem vfredtree (m : BitVec 3) (b a d : BitVec 5) : Statement (.vfredtree m b a d) := by
  intro _ wd hEnc
  have L := word_layout [(22, 3), (17, 5), (12, 5), (7, 5)] [m.toNat, b.toNat, a.toNat, d.toNat] 0x16000038 (by decide) (by decide) ⟨m.isLt, b.isLt, a.isLt, d.isLt, trivial⟩
  rw [show wordOn 0x16000038 [(22, 3), (17, 5), (12, 5), (7, 5)] [m.toNat, b.toNat, a.toNat, d.toNat] = wd from Option.some.inj hEnc] at L
  obtain ⟨lt, ⟨he0, he1, he2, he3, -⟩, keep⟩ := L
  have hk := keep 0 7 (by decide)
  obtain ⟨hz, hl, hr, hi⟩ := major_38 (mod_of_bits hk)
  have hf := keep 25 7 (by decide)
  refine ⟨lt, decodes (zs := []) (ne_of_bits hk (by decide)) (ne_of_bits hk (by decide)) ?_ ?_ ?_ ?_ ?_⟩
  · rw [hz, hf]; rfl
  · exact rfl
  · exact hl
  · exact hr
  · rw [hi, instrVred, hf]
    show some _ = _
    rw [fieldAt_of_bits he0, fieldAt_of_bits he1, fieldAt_of_bits he2, fieldAt_of_bits he3]

theorem vfredmax (m : BitVec 3) (b a d : BitVec 5) : Statement (.vfredmax m b a d) := by
  intro _ wd hEnc
  have L := word_layout [(22, 3), (17, 5), (12, 5), (7, 5)] [m.toNat, b.toNat, a.toNat, d.toNat] 0x18000038 (by decide) (by decide) ⟨m.isLt, b.isLt, a.isLt, d.isLt, trivial⟩
  rw [show wordOn 0x18000038 [(22, 3), (17, 5), (12, 5), (7, 5)] [m.toNat, b.toNat, a.toNat, d.toNat] = wd from Option.some.inj hEnc] at L
  obtain ⟨lt, ⟨he0, he1, he2, he3, -⟩, keep⟩ := L
  have hk := keep 0 7 (by decide)
  obtain ⟨hz, hl, hr, hi⟩ := major_38 (mod_of_bits hk)
  have hf := keep 25 7 (by decide)
  refine ⟨lt, decodes (zs := []) (ne_of_bits hk (by decide)) (ne_of_bits hk (by decide)) ?_ ?_ ?_ ?_ ?_⟩
  · rw [hz, hf]; rfl
  · exact rfl
  · exact hl
  · exact hr
  · rw [hi, instrVred, hf]
    show some _ = _
    rw [fieldAt_of_bits he0, fieldAt_of_bits he1, fieldAt_of_bits he2, fieldAt_of_bits he3]

theorem vfargmax (m : BitVec 3) (a d : BitVec 5) : Statement (.vfargmax m a d) := by
  intro _ wd hEnc
  have L := word_layout [(22, 3), (12, 5), (7, 5)] [m.toNat, a.toNat, d.toNat] 0x1A000038 (by decide) (by decide) ⟨m.isLt, a.isLt, d.isLt, trivial⟩
  rw [show wordOn 0x1A000038 [(22, 3), (12, 5), (7, 5)] [m.toNat, a.toNat, d.toNat] = wd from Option.some.inj hEnc] at L
  obtain ⟨lt, ⟨he0, he1, he2, -⟩, keep⟩ := L
  have hk := keep 0 7 (by decide)
  obtain ⟨hz, hl, hr, hi⟩ := major_38 (mod_of_bits hk)
  have hf := keep 25 7 (by decide)
  refine ⟨lt, decodes (zs := [(17, 5)]) (ne_of_bits hk (by decide)) (ne_of_bits hk (by decide)) ?_ ?_ ?_ ?_ ?_⟩
  · rw [hz, hf]; rfl
  · simp only [allZero, List.all_cons, List.all_nil, keep 17 5 (by decide)]; rfl
  · exact hl
  · exact hr
  · rw [hi, instrVred, hf]
    show some _ = _
    rw [fieldAt_of_bits he0, fieldAt_of_bits he1, fieldAt_of_bits he2]

theorem vtopk (m : BitVec 3) (s a d : BitVec 5) : Statement (.vtopk m s a d) := by
  intro _ wd hEnc
  have L := word_layout [(22, 3), (17, 5), (12, 5), (7, 5)] [m.toNat, s.toNat, a.toNat, d.toNat] 0x1C000038 (by decide) (by decide) ⟨m.isLt, s.isLt, a.isLt, d.isLt, trivial⟩
  rw [show wordOn 0x1C000038 [(22, 3), (17, 5), (12, 5), (7, 5)] [m.toNat, s.toNat, a.toNat, d.toNat] = wd from Option.some.inj hEnc] at L
  obtain ⟨lt, ⟨he0, he1, he2, he3, -⟩, keep⟩ := L
  have hk := keep 0 7 (by decide)
  obtain ⟨hz, hl, hr, hi⟩ := major_38 (mod_of_bits hk)
  have hf := keep 25 7 (by decide)
  refine ⟨lt, decodes (zs := []) (ne_of_bits hk (by decide)) (ne_of_bits hk (by decide)) ?_ ?_ ?_ ?_ ?_⟩
  · rw [hz, hf]; rfl
  · exact rfl
  · exact hl
  · exact hr
  · rw [hi, instrVred, hf]
    show some _ = _
    rw [fieldAt_of_bits he0, fieldAt_of_bits he1, fieldAt_of_bits he2, fieldAt_of_bits he3]

theorem vftopk (m : BitVec 3) (s a d : BitVec 5) : Statement (.vftopk m s a d) := by
  intro _ wd hEnc
  have L := word_layout [(22, 3), (17, 5), (12, 5), (7, 5)] [m.toNat, s.toNat, a.toNat, d.toNat] 0x1E000038 (by decide) (by decide) ⟨m.isLt, s.isLt, a.isLt, d.isLt, trivial⟩
  rw [show wordOn 0x1E000038 [(22, 3), (17, 5), (12, 5), (7, 5)] [m.toNat, s.toNat, a.toNat, d.toNat] = wd from Option.some.inj hEnc] at L
  obtain ⟨lt, ⟨he0, he1, he2, he3, -⟩, keep⟩ := L
  have hk := keep 0 7 (by decide)
  obtain ⟨hz, hl, hr, hi⟩ := major_38 (mod_of_bits hk)
  have hf := keep 25 7 (by decide)
  refine ⟨lt, decodes (zs := []) (ne_of_bits hk (by decide)) (ne_of_bits hk (by decide)) ?_ ?_ ?_ ?_ ?_⟩
  · rw [hz, hf]; rfl
  · exact rfl
  · exact hl
  · exact hr
  · rw [hi, instrVred, hf]
    show some _ = _
    rw [fieldAt_of_bits he0, fieldAt_of_bits he1, fieldAt_of_bits he2, fieldAt_of_bits he3]

theorem vscan (m : BitVec 3) (a d : BitVec 5) : Statement (.vscan m a d) := by
  intro _ wd hEnc
  have L := word_layout [(22, 3), (12, 5), (7, 5)] [m.toNat, a.toNat, d.toNat] 0x20000038 (by decide) (by decide) ⟨m.isLt, a.isLt, d.isLt, trivial⟩
  rw [show wordOn 0x20000038 [(22, 3), (12, 5), (7, 5)] [m.toNat, a.toNat, d.toNat] = wd from Option.some.inj hEnc] at L
  obtain ⟨lt, ⟨he0, he1, he2, -⟩, keep⟩ := L
  have hk := keep 0 7 (by decide)
  obtain ⟨hz, hl, hr, hi⟩ := major_38 (mod_of_bits hk)
  have hf := keep 25 7 (by decide)
  refine ⟨lt, decodes (zs := [(17, 5)]) (ne_of_bits hk (by decide)) (ne_of_bits hk (by decide)) ?_ ?_ ?_ ?_ ?_⟩
  · rw [hz, hf]; rfl
  · simp only [allZero, List.all_cons, List.all_nil, keep 17 5 (by decide)]; rfl
  · exact hl
  · exact hr
  · rw [hi, instrVred, hf]
    show some _ = _
    rw [fieldAt_of_bits he0, fieldAt_of_bits he1, fieldAt_of_bits he2]

theorem vscanc (m : BitVec 3) (a d : BitVec 5) : Statement (.vscanc m a d) := by
  intro _ wd hEnc
  have L := word_layout [(22, 3), (12, 5), (7, 5)] [m.toNat, a.toNat, d.toNat] 0x22000038 (by decide) (by decide) ⟨m.isLt, a.isLt, d.isLt, trivial⟩
  rw [show wordOn 0x22000038 [(22, 3), (12, 5), (7, 5)] [m.toNat, a.toNat, d.toNat] = wd from Option.some.inj hEnc] at L
  obtain ⟨lt, ⟨he0, he1, he2, -⟩, keep⟩ := L
  have hk := keep 0 7 (by decide)
  obtain ⟨hz, hl, hr, hi⟩ := major_38 (mod_of_bits hk)
  have hf := keep 25 7 (by decide)
  refine ⟨lt, decodes (zs := [(17, 5)]) (ne_of_bits hk (by decide)) (ne_of_bits hk (by decide)) ?_ ?_ ?_ ?_ ?_⟩
  · rw [hz, hf]; rfl
  · simp only [allZero, List.all_cons, List.all_nil, keep 17 5 (by decide)]; rfl
  · exact hl
  · exact hr
  · rw [hi, instrVred, hf]
    show some _ = _
    rw [fieldAt_of_bits he0, fieldAt_of_bits he1, fieldAt_of_bits he2]

theorem vfscanc (m : BitVec 3) (a d : BitVec 5) : Statement (.vfscanc m a d) := by
  intro _ wd hEnc
  have L := word_layout [(22, 3), (12, 5), (7, 5)] [m.toNat, a.toNat, d.toNat] 0x24000038 (by decide) (by decide) ⟨m.isLt, a.isLt, d.isLt, trivial⟩
  rw [show wordOn 0x24000038 [(22, 3), (12, 5), (7, 5)] [m.toNat, a.toNat, d.toNat] = wd from Option.some.inj hEnc] at L
  obtain ⟨lt, ⟨he0, he1, he2, -⟩, keep⟩ := L
  have hk := keep 0 7 (by decide)
  obtain ⟨hz, hl, hr, hi⟩ := major_38 (mod_of_bits hk)
  have hf := keep 25 7 (by decide)
  refine ⟨lt, decodes (zs := [(17, 5)]) (ne_of_bits hk (by decide)) (ne_of_bits hk (by decide)) ?_ ?_ ?_ ?_ ?_⟩
  · rw [hz, hf]; rfl
  · simp only [allZero, List.all_cons, List.all_nil, keep 17 5 (by decide)]; rfl
  · exact hl
  · exact hr
  · rw [hi, instrVred, hf]
    show some _ = _
    rw [fieldAt_of_bits he0, fieldAt_of_bits he1, fieldAt_of_bits he2]

theorem mand (b a d : BitVec 3) : Statement (.mand b a d) := by
  intro _ wd hEnc
  have L := word_layout [(17, 3), (12, 3), (7, 3)] [b.toNat, a.toNat, d.toNat] 0x0000003A (by decide) (by decide) ⟨b.isLt, a.isLt, d.isLt, trivial⟩
  rw [show wordOn 0x0000003A [(17, 3), (12, 3), (7, 3)] [b.toNat, a.toNat, d.toNat] = wd from Option.some.inj hEnc] at L
  obtain ⟨lt, ⟨he0, he1, he2, -⟩, keep⟩ := L
  have hk := keep 0 7 (by decide)
  obtain ⟨hz, hl, hr, hi⟩ := major_3A (mod_of_bits hk)
  have hf := keep 25 7 (by decide)
  refine ⟨lt, decodes (zs := [(10, 2), (15, 2), (20, 5)]) (ne_of_bits hk (by decide)) (ne_of_bits hk (by decide)) ?_ ?_ ?_ ?_ ?_⟩
  · rw [hz, hf]; rfl
  · simp only [allZero, List.all_cons, List.all_nil, keep 10 2 (by decide), keep 15 2 (by decide), keep 20 5 (by decide)]; rfl
  · exact hl
  · exact hr
  · rw [hi, instrMask, hf]
    show some _ = _
    rw [fieldAt_of_bits he0, fieldAt_of_bits he1, fieldAt_of_bits he2]

theorem mor (b a d : BitVec 3) : Statement (.mor b a d) := by
  intro _ wd hEnc
  have L := word_layout [(17, 3), (12, 3), (7, 3)] [b.toNat, a.toNat, d.toNat] 0x0200003A (by decide) (by decide) ⟨b.isLt, a.isLt, d.isLt, trivial⟩
  rw [show wordOn 0x0200003A [(17, 3), (12, 3), (7, 3)] [b.toNat, a.toNat, d.toNat] = wd from Option.some.inj hEnc] at L
  obtain ⟨lt, ⟨he0, he1, he2, -⟩, keep⟩ := L
  have hk := keep 0 7 (by decide)
  obtain ⟨hz, hl, hr, hi⟩ := major_3A (mod_of_bits hk)
  have hf := keep 25 7 (by decide)
  refine ⟨lt, decodes (zs := [(10, 2), (15, 2), (20, 5)]) (ne_of_bits hk (by decide)) (ne_of_bits hk (by decide)) ?_ ?_ ?_ ?_ ?_⟩
  · rw [hz, hf]; rfl
  · simp only [allZero, List.all_cons, List.all_nil, keep 10 2 (by decide), keep 15 2 (by decide), keep 20 5 (by decide)]; rfl
  · exact hl
  · exact hr
  · rw [hi, instrMask, hf]
    show some _ = _
    rw [fieldAt_of_bits he0, fieldAt_of_bits he1, fieldAt_of_bits he2]

theorem mxor (b a d : BitVec 3) : Statement (.mxor b a d) := by
  intro _ wd hEnc
  have L := word_layout [(17, 3), (12, 3), (7, 3)] [b.toNat, a.toNat, d.toNat] 0x0400003A (by decide) (by decide) ⟨b.isLt, a.isLt, d.isLt, trivial⟩
  rw [show wordOn 0x0400003A [(17, 3), (12, 3), (7, 3)] [b.toNat, a.toNat, d.toNat] = wd from Option.some.inj hEnc] at L
  obtain ⟨lt, ⟨he0, he1, he2, -⟩, keep⟩ := L
  have hk := keep 0 7 (by decide)
  obtain ⟨hz, hl, hr, hi⟩ := major_3A (mod_of_bits hk)
  have hf := keep 25 7 (by decide)
  refine ⟨lt, decodes (zs := [(10, 2), (15, 2), (20, 5)]) (ne_of_bits hk (by decide)) (ne_of_bits hk (by decide)) ?_ ?_ ?_ ?_ ?_⟩
  · rw [hz, hf]; rfl
  · simp only [allZero, List.all_cons, List.all_nil, keep 10 2 (by decide), keep 15 2 (by decide), keep 20 5 (by decide)]; rfl
  · exact hl
  · exact hr
  · rw [hi, instrMask, hf]
    show some _ = _
    rw [fieldAt_of_bits he0, fieldAt_of_bits he1, fieldAt_of_bits he2]

theorem mandn (b a d : BitVec 3) : Statement (.mandn b a d) := by
  intro _ wd hEnc
  have L := word_layout [(17, 3), (12, 3), (7, 3)] [b.toNat, a.toNat, d.toNat] 0x0600003A (by decide) (by decide) ⟨b.isLt, a.isLt, d.isLt, trivial⟩
  rw [show wordOn 0x0600003A [(17, 3), (12, 3), (7, 3)] [b.toNat, a.toNat, d.toNat] = wd from Option.some.inj hEnc] at L
  obtain ⟨lt, ⟨he0, he1, he2, -⟩, keep⟩ := L
  have hk := keep 0 7 (by decide)
  obtain ⟨hz, hl, hr, hi⟩ := major_3A (mod_of_bits hk)
  have hf := keep 25 7 (by decide)
  refine ⟨lt, decodes (zs := [(10, 2), (15, 2), (20, 5)]) (ne_of_bits hk (by decide)) (ne_of_bits hk (by decide)) ?_ ?_ ?_ ?_ ?_⟩
  · rw [hz, hf]; rfl
  · simp only [allZero, List.all_cons, List.all_nil, keep 10 2 (by decide), keep 15 2 (by decide), keep 20 5 (by decide)]; rfl
  · exact hl
  · exact hr
  · rw [hi, instrMask, hf]
    show some _ = _
    rw [fieldAt_of_bits he0, fieldAt_of_bits he1, fieldAt_of_bits he2]

theorem mnot (a d : BitVec 3) : Statement (.mnot a d) := by
  intro _ wd hEnc
  have L := word_layout [(12, 3), (7, 3)] [a.toNat, d.toNat] 0x0800003A (by decide) (by decide) ⟨a.isLt, d.isLt, trivial⟩
  rw [show wordOn 0x0800003A [(12, 3), (7, 3)] [a.toNat, d.toNat] = wd from Option.some.inj hEnc] at L
  obtain ⟨lt, ⟨he0, he1, -⟩, keep⟩ := L
  have hk := keep 0 7 (by decide)
  obtain ⟨hz, hl, hr, hi⟩ := major_3A (mod_of_bits hk)
  have hf := keep 25 7 (by decide)
  refine ⟨lt, decodes (zs := [(10, 2), (15, 10)]) (ne_of_bits hk (by decide)) (ne_of_bits hk (by decide)) ?_ ?_ ?_ ?_ ?_⟩
  · rw [hz, hf]; rfl
  · simp only [allZero, List.all_cons, List.all_nil, keep 10 2 (by decide), keep 15 10 (by decide)]; rfl
  · exact hl
  · exact hr
  · rw [hi, instrMask, hf]
    show some _ = _
    rw [fieldAt_of_bits he0, fieldAt_of_bits he1]

theorem mpopc (a : BitVec 3) (d : BitVec 5) : Statement (.mpopc a d) := by
  intro _ wd hEnc
  have L := word_layout [(12, 3), (7, 5)] [a.toNat, d.toNat] 0x0A00003A (by decide) (by decide) ⟨a.isLt, d.isLt, trivial⟩
  rw [show wordOn 0x0A00003A [(12, 3), (7, 5)] [a.toNat, d.toNat] = wd from Option.some.inj hEnc] at L
  obtain ⟨lt, ⟨he0, he1, -⟩, keep⟩ := L
  have hk := keep 0 7 (by decide)
  obtain ⟨hz, hl, hr, hi⟩ := major_3A (mod_of_bits hk)
  have hf := keep 25 7 (by decide)
  refine ⟨lt, decodes (zs := [(15, 10)]) (ne_of_bits hk (by decide)) (ne_of_bits hk (by decide)) ?_ ?_ ?_ ?_ ?_⟩
  · rw [hz, hf]; rfl
  · simp only [allZero, List.all_cons, List.all_nil, keep 15 10 (by decide)]; rfl
  · exact hl
  · exact hr
  · rw [hi, instrMask, hf]
    show some _ = _
    rw [fieldAt_of_bits he0, fieldAt_of_bits he1]

theorem mfirst (a : BitVec 3) (d : BitVec 5) : Statement (.mfirst a d) := by
  intro _ wd hEnc
  have L := word_layout [(12, 3), (7, 5)] [a.toNat, d.toNat] 0x0C00003A (by decide) (by decide) ⟨a.isLt, d.isLt, trivial⟩
  rw [show wordOn 0x0C00003A [(12, 3), (7, 5)] [a.toNat, d.toNat] = wd from Option.some.inj hEnc] at L
  obtain ⟨lt, ⟨he0, he1, -⟩, keep⟩ := L
  have hk := keep 0 7 (by decide)
  obtain ⟨hz, hl, hr, hi⟩ := major_3A (mod_of_bits hk)
  have hf := keep 25 7 (by decide)
  refine ⟨lt, decodes (zs := [(15, 10)]) (ne_of_bits hk (by decide)) (ne_of_bits hk (by decide)) ?_ ?_ ?_ ?_ ?_⟩
  · rw [hz, hf]; rfl
  · simp only [allZero, List.all_cons, List.all_nil, keep 15 10 (by decide)]; rfl
  · exact hl
  · exact hr
  · rw [hi, instrMask, hf]
    show some _ = _
    rw [fieldAt_of_bits he0, fieldAt_of_bits he1]

theorem mset (d : BitVec 3) : Statement (.mset d) := by
  intro _ wd hEnc
  have L := word_layout [(7, 3)] [d.toNat] 0x0E00003A (by decide) (by decide) ⟨d.isLt, trivial⟩
  rw [show wordOn 0x0E00003A [(7, 3)] [d.toNat] = wd from Option.some.inj hEnc] at L
  obtain ⟨lt, ⟨he0, -⟩, keep⟩ := L
  have hk := keep 0 7 (by decide)
  obtain ⟨hz, hl, hr, hi⟩ := major_3A (mod_of_bits hk)
  have hf := keep 25 7 (by decide)
  refine ⟨lt, decodes (zs := [(10, 15)]) (ne_of_bits hk (by decide)) (ne_of_bits hk (by decide)) ?_ ?_ ?_ ?_ ?_⟩
  · rw [hz, hf]; rfl
  · simp only [allZero, List.all_cons, List.all_nil, keep 10 15 (by decide)]; rfl
  · exact hl
  · exact hr
  · rw [hi, instrMask, hf]
    show some _ = _
    rw [fieldAt_of_bits he0]

theorem mclr (d : BitVec 3) : Statement (.mclr d) := by
  intro _ wd hEnc
  have L := word_layout [(7, 3)] [d.toNat] 0x1000003A (by decide) (by decide) ⟨d.isLt, trivial⟩
  rw [show wordOn 0x1000003A [(7, 3)] [d.toNat] = wd from Option.some.inj hEnc] at L
  obtain ⟨lt, ⟨he0, -⟩, keep⟩ := L
  have hk := keep 0 7 (by decide)
  obtain ⟨hz, hl, hr, hi⟩ := major_3A (mod_of_bits hk)
  have hf := keep 25 7 (by decide)
  refine ⟨lt, decodes (zs := [(10, 15)]) (ne_of_bits hk (by decide)) (ne_of_bits hk (by decide)) ?_ ?_ ?_ ?_ ?_⟩
  · rw [hz, hf]; rfl
  · simp only [allZero, List.all_cons, List.all_nil, keep 10 15 (by decide)]; rfl
  · exact hl
  · exact hr
  · rw [hi, instrMask, hf]
    show some _ = _
    rw [fieldAt_of_bits he0]

theorem mmv (a d : BitVec 3) : Statement (.mmv a d) := by
  intro _ wd hEnc
  have L := word_layout [(12, 3), (7, 3)] [a.toNat, d.toNat] 0x1200003A (by decide) (by decide) ⟨a.isLt, d.isLt, trivial⟩
  rw [show wordOn 0x1200003A [(12, 3), (7, 3)] [a.toNat, d.toNat] = wd from Option.some.inj hEnc] at L
  obtain ⟨lt, ⟨he0, he1, -⟩, keep⟩ := L
  have hk := keep 0 7 (by decide)
  obtain ⟨hz, hl, hr, hi⟩ := major_3A (mod_of_bits hk)
  have hf := keep 25 7 (by decide)
  refine ⟨lt, decodes (zs := [(10, 2), (15, 10)]) (ne_of_bits hk (by decide)) (ne_of_bits hk (by decide)) ?_ ?_ ?_ ?_ ?_⟩
  · rw [hz, hf]; rfl
  · simp only [allZero, List.all_cons, List.all_nil, keep 10 2 (by decide), keep 15 10 (by decide)]; rfl
  · exact hl
  · exact hr
  · rw [hi, instrMask, hf]
    show some _ = _
    rw [fieldAt_of_bits he0, fieldAt_of_bits he1]

theorem vsplit (o : BitVec 22) (c : BitVec 3) : Statement (.vsplit o c) := by
  intro _ wd hEnc
  have L := word_layout [(10, 22), (7, 3)] [o.toNat, c.toNat] 0x0000003B (by decide) (by decide) ⟨o.isLt, c.isLt, trivial⟩
  rw [show wordOn 0x0000003B [(10, 22), (7, 3)] [o.toNat, c.toNat] = wd from Option.some.inj hEnc] at L
  obtain ⟨lt, ⟨he0, he1, -⟩, keep⟩ := L
  have hk := keep 0 7 (by decide)
  obtain ⟨hz, hl, hr, hi⟩ := major_3B (mod_of_bits hk)
  refine ⟨lt, decodes (zs := []) (ne_of_bits hk (by decide)) (ne_of_bits hk (by decide)) ?_ ?_ ?_ ?_ ?_⟩
  · exact hz
  · exact rfl
  · exact hl
  · exact hr
  · rw [hi, fieldAt_of_bits he0, fieldAt_of_bits he1]

theorem vjoin : Statement .vjoin := by
  intro _ wd hEnc
  have L := word_layout [] [] 0x0000003C (by decide) rfl trivial
  rw [show wordOn 0x0000003C [] [] = wd from Option.some.inj hEnc] at L
  obtain ⟨lt, -, keep⟩ := L
  have hk := keep 0 7 (by decide)
  obtain ⟨hz, hl, hr, hi⟩ := major_3C (mod_of_bits hk)
  refine ⟨lt, decodes (zs := [(7, 25)]) (ne_of_bits hk (by decide)) (ne_of_bits hk (by decide)) ?_ ?_ ?_ ?_ ?_⟩
  · exact hz
  · simp only [allZero, List.all_cons, List.all_nil, keep 7 25 (by decide)]; rfl
  · exact hl
  · exact hr
  · rw [hi]

theorem vbnone (o : BitVec 22) (c : BitVec 3) : Statement (.vbnone o c) := by
  intro _ wd hEnc
  have L := word_layout [(10, 22), (7, 3)] [o.toNat, c.toNat] 0x0000003D (by decide) (by decide) ⟨o.isLt, c.isLt, trivial⟩
  rw [show wordOn 0x0000003D [(10, 22), (7, 3)] [o.toNat, c.toNat] = wd from Option.some.inj hEnc] at L
  obtain ⟨lt, ⟨he0, he1, -⟩, keep⟩ := L
  have hk := keep 0 7 (by decide)
  obtain ⟨hz, hl, hr, hi⟩ := major_3D (mod_of_bits hk)
  refine ⟨lt, decodes (zs := []) (ne_of_bits hk (by decide)) (ne_of_bits hk (by decide)) ?_ ?_ ?_ ?_ ?_⟩
  · exact hz
  · exact rfl
  · exact hl
  · exact hr
  · rw [hi, fieldAt_of_bits he0, fieldAt_of_bits he1]

theorem repf (f : BitVec 3) (o : BitVec 5) (g : BitVec 3) (n : BitVec 6) (k : BitVec 4) : Statement (.repf f o g n k) := by
  intro _ wd hEnc
  have L := word_layout [(25, 3), (20, 5), (17, 3), (11, 6), (7, 4)] [f.toNat, o.toNat, g.toNat, n.toNat, k.toNat] 0x0000003E (by decide) (by decide) ⟨f.isLt, o.isLt, g.isLt, n.isLt, k.isLt, trivial⟩
  rw [show wordOn 0x0000003E [(25, 3), (20, 5), (17, 3), (11, 6), (7, 4)] [f.toNat, o.toNat, g.toNat, n.toNat, k.toNat] = wd from Option.some.inj hEnc] at L
  obtain ⟨lt, ⟨he0, he1, he2, he3, he4, -⟩, keep⟩ := L
  have hk := keep 0 7 (by decide)
  obtain ⟨hz, hl, hr, hi⟩ := major_3E (mod_of_bits hk)
  refine ⟨lt, decodes (zs := [(28, 4)]) (ne_of_bits hk (by decide)) (ne_of_bits hk (by decide)) ?_ ?_ ?_ ?_ ?_⟩
  · exact hz
  · simp only [allZero, List.all_cons, List.all_nil, keep 28 4 (by decide)]; rfl
  · exact hl
  · exact hr
  · rw [hi, fieldAt_of_bits he0, fieldAt_of_bits he1, fieldAt_of_bits he2, fieldAt_of_bits he3, fieldAt_of_bits he4]

theorem vfadd (m : BitVec 3) (b a d : BitVec 5) : Statement (.vfadd m b a d) := by
  intro _ wd hEnc
  have L := word_layout [(22, 3), (17, 5), (12, 5), (7, 5)] [m.toNat, b.toNat, a.toNat, d.toNat] 0x00000040 (by decide) (by decide) ⟨m.isLt, b.isLt, a.isLt, d.isLt, trivial⟩
  rw [show wordOn 0x00000040 [(22, 3), (17, 5), (12, 5), (7, 5)] [m.toNat, b.toNat, a.toNat, d.toNat] = wd from Option.some.inj hEnc] at L
  obtain ⟨lt, ⟨he0, he1, he2, he3, -⟩, keep⟩ := L
  have hk := keep 0 7 (by decide)
  obtain ⟨hz, hl, hr, hi⟩ := major_40 (mod_of_bits hk)
  have hf := keep 25 7 (by decide)
  refine ⟨lt, decodes (zs := []) (ne_of_bits hk (by decide)) (ne_of_bits hk (by decide)) ?_ ?_ ?_ ?_ ?_⟩
  · rw [hz, hf]; rfl
  · exact rfl
  · exact hl
  · exact hr
  · rw [hi, instrVfp, hf]
    show some _ = _
    rw [fieldAt_of_bits he0, fieldAt_of_bits he1, fieldAt_of_bits he2, fieldAt_of_bits he3]

theorem vfsub (m : BitVec 3) (b a d : BitVec 5) : Statement (.vfsub m b a d) := by
  intro _ wd hEnc
  have L := word_layout [(22, 3), (17, 5), (12, 5), (7, 5)] [m.toNat, b.toNat, a.toNat, d.toNat] 0x02000040 (by decide) (by decide) ⟨m.isLt, b.isLt, a.isLt, d.isLt, trivial⟩
  rw [show wordOn 0x02000040 [(22, 3), (17, 5), (12, 5), (7, 5)] [m.toNat, b.toNat, a.toNat, d.toNat] = wd from Option.some.inj hEnc] at L
  obtain ⟨lt, ⟨he0, he1, he2, he3, -⟩, keep⟩ := L
  have hk := keep 0 7 (by decide)
  obtain ⟨hz, hl, hr, hi⟩ := major_40 (mod_of_bits hk)
  have hf := keep 25 7 (by decide)
  refine ⟨lt, decodes (zs := []) (ne_of_bits hk (by decide)) (ne_of_bits hk (by decide)) ?_ ?_ ?_ ?_ ?_⟩
  · rw [hz, hf]; rfl
  · exact rfl
  · exact hl
  · exact hr
  · rw [hi, instrVfp, hf]
    show some _ = _
    rw [fieldAt_of_bits he0, fieldAt_of_bits he1, fieldAt_of_bits he2, fieldAt_of_bits he3]

theorem vfmul (m : BitVec 3) (b a d : BitVec 5) : Statement (.vfmul m b a d) := by
  intro _ wd hEnc
  have L := word_layout [(22, 3), (17, 5), (12, 5), (7, 5)] [m.toNat, b.toNat, a.toNat, d.toNat] 0x04000040 (by decide) (by decide) ⟨m.isLt, b.isLt, a.isLt, d.isLt, trivial⟩
  rw [show wordOn 0x04000040 [(22, 3), (17, 5), (12, 5), (7, 5)] [m.toNat, b.toNat, a.toNat, d.toNat] = wd from Option.some.inj hEnc] at L
  obtain ⟨lt, ⟨he0, he1, he2, he3, -⟩, keep⟩ := L
  have hk := keep 0 7 (by decide)
  obtain ⟨hz, hl, hr, hi⟩ := major_40 (mod_of_bits hk)
  have hf := keep 25 7 (by decide)
  refine ⟨lt, decodes (zs := []) (ne_of_bits hk (by decide)) (ne_of_bits hk (by decide)) ?_ ?_ ?_ ?_ ?_⟩
  · rw [hz, hf]; rfl
  · exact rfl
  · exact hl
  · exact hr
  · rw [hi, instrVfp, hf]
    show some _ = _
    rw [fieldAt_of_bits he0, fieldAt_of_bits he1, fieldAt_of_bits he2, fieldAt_of_bits he3]

theorem vfdiv (m : BitVec 3) (b a d : BitVec 5) : Statement (.vfdiv m b a d) := by
  intro _ wd hEnc
  have L := word_layout [(22, 3), (17, 5), (12, 5), (7, 5)] [m.toNat, b.toNat, a.toNat, d.toNat] 0x06000040 (by decide) (by decide) ⟨m.isLt, b.isLt, a.isLt, d.isLt, trivial⟩
  rw [show wordOn 0x06000040 [(22, 3), (17, 5), (12, 5), (7, 5)] [m.toNat, b.toNat, a.toNat, d.toNat] = wd from Option.some.inj hEnc] at L
  obtain ⟨lt, ⟨he0, he1, he2, he3, -⟩, keep⟩ := L
  have hk := keep 0 7 (by decide)
  obtain ⟨hz, hl, hr, hi⟩ := major_40 (mod_of_bits hk)
  have hf := keep 25 7 (by decide)
  refine ⟨lt, decodes (zs := []) (ne_of_bits hk (by decide)) (ne_of_bits hk (by decide)) ?_ ?_ ?_ ?_ ?_⟩
  · rw [hz, hf]; rfl
  · exact rfl
  · exact hl
  · exact hr
  · rw [hi, instrVfp, hf]
    show some _ = _
    rw [fieldAt_of_bits he0, fieldAt_of_bits he1, fieldAt_of_bits he2, fieldAt_of_bits he3]

theorem vfsqrt (m : BitVec 3) (a d : BitVec 5) : Statement (.vfsqrt m a d) := by
  intro _ wd hEnc
  have L := word_layout [(22, 3), (12, 5), (7, 5)] [m.toNat, a.toNat, d.toNat] 0x08000040 (by decide) (by decide) ⟨m.isLt, a.isLt, d.isLt, trivial⟩
  rw [show wordOn 0x08000040 [(22, 3), (12, 5), (7, 5)] [m.toNat, a.toNat, d.toNat] = wd from Option.some.inj hEnc] at L
  obtain ⟨lt, ⟨he0, he1, he2, -⟩, keep⟩ := L
  have hk := keep 0 7 (by decide)
  obtain ⟨hz, hl, hr, hi⟩ := major_40 (mod_of_bits hk)
  have hf := keep 25 7 (by decide)
  refine ⟨lt, decodes (zs := [(17, 5)]) (ne_of_bits hk (by decide)) (ne_of_bits hk (by decide)) ?_ ?_ ?_ ?_ ?_⟩
  · rw [hz, hf]; rfl
  · simp only [allZero, List.all_cons, List.all_nil, keep 17 5 (by decide)]; rfl
  · exact hl
  · exact hr
  · rw [hi, instrVfp, hf]
    show some _ = _
    rw [fieldAt_of_bits he0, fieldAt_of_bits he1, fieldAt_of_bits he2]

theorem vfmin (m : BitVec 3) (b a d : BitVec 5) : Statement (.vfmin m b a d) := by
  intro _ wd hEnc
  have L := word_layout [(22, 3), (17, 5), (12, 5), (7, 5)] [m.toNat, b.toNat, a.toNat, d.toNat] 0x0A000040 (by decide) (by decide) ⟨m.isLt, b.isLt, a.isLt, d.isLt, trivial⟩
  rw [show wordOn 0x0A000040 [(22, 3), (17, 5), (12, 5), (7, 5)] [m.toNat, b.toNat, a.toNat, d.toNat] = wd from Option.some.inj hEnc] at L
  obtain ⟨lt, ⟨he0, he1, he2, he3, -⟩, keep⟩ := L
  have hk := keep 0 7 (by decide)
  obtain ⟨hz, hl, hr, hi⟩ := major_40 (mod_of_bits hk)
  have hf := keep 25 7 (by decide)
  refine ⟨lt, decodes (zs := []) (ne_of_bits hk (by decide)) (ne_of_bits hk (by decide)) ?_ ?_ ?_ ?_ ?_⟩
  · rw [hz, hf]; rfl
  · exact rfl
  · exact hl
  · exact hr
  · rw [hi, instrVfp, hf]
    show some _ = _
    rw [fieldAt_of_bits he0, fieldAt_of_bits he1, fieldAt_of_bits he2, fieldAt_of_bits he3]

theorem vfmax (m : BitVec 3) (b a d : BitVec 5) : Statement (.vfmax m b a d) := by
  intro _ wd hEnc
  have L := word_layout [(22, 3), (17, 5), (12, 5), (7, 5)] [m.toNat, b.toNat, a.toNat, d.toNat] 0x0C000040 (by decide) (by decide) ⟨m.isLt, b.isLt, a.isLt, d.isLt, trivial⟩
  rw [show wordOn 0x0C000040 [(22, 3), (17, 5), (12, 5), (7, 5)] [m.toNat, b.toNat, a.toNat, d.toNat] = wd from Option.some.inj hEnc] at L
  obtain ⟨lt, ⟨he0, he1, he2, he3, -⟩, keep⟩ := L
  have hk := keep 0 7 (by decide)
  obtain ⟨hz, hl, hr, hi⟩ := major_40 (mod_of_bits hk)
  have hf := keep 25 7 (by decide)
  refine ⟨lt, decodes (zs := []) (ne_of_bits hk (by decide)) (ne_of_bits hk (by decide)) ?_ ?_ ?_ ?_ ?_⟩
  · rw [hz, hf]; rfl
  · exact rfl
  · exact hl
  · exact hr
  · rw [hi, instrVfp, hf]
    show some _ = _
    rw [fieldAt_of_bits he0, fieldAt_of_bits he1, fieldAt_of_bits he2, fieldAt_of_bits he3]

theorem vfrsq (m : BitVec 3) (a d : BitVec 5) : Statement (.vfrsq m a d) := by
  intro _ wd hEnc
  have L := word_layout [(22, 3), (12, 5), (7, 5)] [m.toNat, a.toNat, d.toNat] 0x0E000040 (by decide) (by decide) ⟨m.isLt, a.isLt, d.isLt, trivial⟩
  rw [show wordOn 0x0E000040 [(22, 3), (12, 5), (7, 5)] [m.toNat, a.toNat, d.toNat] = wd from Option.some.inj hEnc] at L
  obtain ⟨lt, ⟨he0, he1, he2, -⟩, keep⟩ := L
  have hk := keep 0 7 (by decide)
  obtain ⟨hz, hl, hr, hi⟩ := major_40 (mod_of_bits hk)
  have hf := keep 25 7 (by decide)
  refine ⟨lt, decodes (zs := [(17, 5)]) (ne_of_bits hk (by decide)) (ne_of_bits hk (by decide)) ?_ ?_ ?_ ?_ ?_⟩
  · rw [hz, hf]; rfl
  · simp only [allZero, List.all_cons, List.all_nil, keep 17 5 (by decide)]; rfl
  · exact hl
  · exact hr
  · rw [hi, instrVfp, hf]
    show some _ = _
    rw [fieldAt_of_bits he0, fieldAt_of_bits he1, fieldAt_of_bits he2]

theorem vfrcp (m : BitVec 3) (a d : BitVec 5) : Statement (.vfrcp m a d) := by
  intro _ wd hEnc
  have L := word_layout [(22, 3), (12, 5), (7, 5)] [m.toNat, a.toNat, d.toNat] 0x10000040 (by decide) (by decide) ⟨m.isLt, a.isLt, d.isLt, trivial⟩
  rw [show wordOn 0x10000040 [(22, 3), (12, 5), (7, 5)] [m.toNat, a.toNat, d.toNat] = wd from Option.some.inj hEnc] at L
  obtain ⟨lt, ⟨he0, he1, he2, -⟩, keep⟩ := L
  have hk := keep 0 7 (by decide)
  obtain ⟨hz, hl, hr, hi⟩ := major_40 (mod_of_bits hk)
  have hf := keep 25 7 (by decide)
  refine ⟨lt, decodes (zs := [(17, 5)]) (ne_of_bits hk (by decide)) (ne_of_bits hk (by decide)) ?_ ?_ ?_ ?_ ?_⟩
  · rw [hz, hf]; rfl
  · simp only [allZero, List.all_cons, List.all_nil, keep 17 5 (by decide)]; rfl
  · exact hl
  · exact hr
  · rw [hi, instrVfp, hf]
    show some _ = _
    rw [fieldAt_of_bits he0, fieldAt_of_bits he1, fieldAt_of_bits he2]

theorem vfexp2 (m : BitVec 3) (a d : BitVec 5) : Statement (.vfexp2 m a d) := by
  intro _ wd hEnc
  have L := word_layout [(22, 3), (12, 5), (7, 5)] [m.toNat, a.toNat, d.toNat] 0x12000040 (by decide) (by decide) ⟨m.isLt, a.isLt, d.isLt, trivial⟩
  rw [show wordOn 0x12000040 [(22, 3), (12, 5), (7, 5)] [m.toNat, a.toNat, d.toNat] = wd from Option.some.inj hEnc] at L
  obtain ⟨lt, ⟨he0, he1, he2, -⟩, keep⟩ := L
  have hk := keep 0 7 (by decide)
  obtain ⟨hz, hl, hr, hi⟩ := major_40 (mod_of_bits hk)
  have hf := keep 25 7 (by decide)
  refine ⟨lt, decodes (zs := [(17, 5)]) (ne_of_bits hk (by decide)) (ne_of_bits hk (by decide)) ?_ ?_ ?_ ?_ ?_⟩
  · rw [hz, hf]; rfl
  · simp only [allZero, List.all_cons, List.all_nil, keep 17 5 (by decide)]; rfl
  · exact hl
  · exact hr
  · rw [hi, instrVfp, hf]
    show some _ = _
    rw [fieldAt_of_bits he0, fieldAt_of_bits he1, fieldAt_of_bits he2]

theorem vflog2 (m : BitVec 3) (a d : BitVec 5) : Statement (.vflog2 m a d) := by
  intro _ wd hEnc
  have L := word_layout [(22, 3), (12, 5), (7, 5)] [m.toNat, a.toNat, d.toNat] 0x14000040 (by decide) (by decide) ⟨m.isLt, a.isLt, d.isLt, trivial⟩
  rw [show wordOn 0x14000040 [(22, 3), (12, 5), (7, 5)] [m.toNat, a.toNat, d.toNat] = wd from Option.some.inj hEnc] at L
  obtain ⟨lt, ⟨he0, he1, he2, -⟩, keep⟩ := L
  have hk := keep 0 7 (by decide)
  obtain ⟨hz, hl, hr, hi⟩ := major_40 (mod_of_bits hk)
  have hf := keep 25 7 (by decide)
  refine ⟨lt, decodes (zs := [(17, 5)]) (ne_of_bits hk (by decide)) (ne_of_bits hk (by decide)) ?_ ?_ ?_ ?_ ?_⟩
  · rw [hz, hf]; rfl
  · simp only [allZero, List.all_cons, List.all_nil, keep 17 5 (by decide)]; rfl
  · exact hl
  · exact hr
  · rw [hi, instrVfp, hf]
    show some _ = _
    rw [fieldAt_of_bits he0, fieldAt_of_bits he1, fieldAt_of_bits he2]

theorem vfabs (m : BitVec 3) (a d : BitVec 5) : Statement (.vfabs m a d) := by
  intro _ wd hEnc
  have L := word_layout [(22, 3), (12, 5), (7, 5)] [m.toNat, a.toNat, d.toNat] 0x16000040 (by decide) (by decide) ⟨m.isLt, a.isLt, d.isLt, trivial⟩
  rw [show wordOn 0x16000040 [(22, 3), (12, 5), (7, 5)] [m.toNat, a.toNat, d.toNat] = wd from Option.some.inj hEnc] at L
  obtain ⟨lt, ⟨he0, he1, he2, -⟩, keep⟩ := L
  have hk := keep 0 7 (by decide)
  obtain ⟨hz, hl, hr, hi⟩ := major_40 (mod_of_bits hk)
  have hf := keep 25 7 (by decide)
  refine ⟨lt, decodes (zs := [(17, 5)]) (ne_of_bits hk (by decide)) (ne_of_bits hk (by decide)) ?_ ?_ ?_ ?_ ?_⟩
  · rw [hz, hf]; rfl
  · simp only [allZero, List.all_cons, List.all_nil, keep 17 5 (by decide)]; rfl
  · exact hl
  · exact hr
  · rw [hi, instrVfp, hf]
    show some _ = _
    rw [fieldAt_of_bits he0, fieldAt_of_bits he1, fieldAt_of_bits he2]

theorem vfneg (m : BitVec 3) (a d : BitVec 5) : Statement (.vfneg m a d) := by
  intro _ wd hEnc
  have L := word_layout [(22, 3), (12, 5), (7, 5)] [m.toNat, a.toNat, d.toNat] 0x18000040 (by decide) (by decide) ⟨m.isLt, a.isLt, d.isLt, trivial⟩
  rw [show wordOn 0x18000040 [(22, 3), (12, 5), (7, 5)] [m.toNat, a.toNat, d.toNat] = wd from Option.some.inj hEnc] at L
  obtain ⟨lt, ⟨he0, he1, he2, -⟩, keep⟩ := L
  have hk := keep 0 7 (by decide)
  obtain ⟨hz, hl, hr, hi⟩ := major_40 (mod_of_bits hk)
  have hf := keep 25 7 (by decide)
  refine ⟨lt, decodes (zs := [(17, 5)]) (ne_of_bits hk (by decide)) (ne_of_bits hk (by decide)) ?_ ?_ ?_ ?_ ?_⟩
  · rw [hz, hf]; rfl
  · simp only [allZero, List.all_cons, List.all_nil, keep 17 5 (by decide)]; rfl
  · exact hl
  · exact hr
  · rw [hi, instrVfp, hf]
    show some _ = _
    rw [fieldAt_of_bits he0, fieldAt_of_bits he1, fieldAt_of_bits he2]

theorem vfsgnj (m : BitVec 3) (b a d : BitVec 5) : Statement (.vfsgnj m b a d) := by
  intro _ wd hEnc
  have L := word_layout [(22, 3), (17, 5), (12, 5), (7, 5)] [m.toNat, b.toNat, a.toNat, d.toNat] 0x1A000040 (by decide) (by decide) ⟨m.isLt, b.isLt, a.isLt, d.isLt, trivial⟩
  rw [show wordOn 0x1A000040 [(22, 3), (17, 5), (12, 5), (7, 5)] [m.toNat, b.toNat, a.toNat, d.toNat] = wd from Option.some.inj hEnc] at L
  obtain ⟨lt, ⟨he0, he1, he2, he3, -⟩, keep⟩ := L
  have hk := keep 0 7 (by decide)
  obtain ⟨hz, hl, hr, hi⟩ := major_40 (mod_of_bits hk)
  have hf := keep 25 7 (by decide)
  refine ⟨lt, decodes (zs := []) (ne_of_bits hk (by decide)) (ne_of_bits hk (by decide)) ?_ ?_ ?_ ?_ ?_⟩
  · rw [hz, hf]; rfl
  · exact rfl
  · exact hl
  · exact hr
  · rw [hi, instrVfp, hf]
    show some _ = _
    rw [fieldAt_of_bits he0, fieldAt_of_bits he1, fieldAt_of_bits he2, fieldAt_of_bits he3]

theorem vfclass (m : BitVec 3) (a d : BitVec 5) : Statement (.vfclass m a d) := by
  intro _ wd hEnc
  have L := word_layout [(22, 3), (12, 5), (7, 5)] [m.toNat, a.toNat, d.toNat] 0x1C000040 (by decide) (by decide) ⟨m.isLt, a.isLt, d.isLt, trivial⟩
  rw [show wordOn 0x1C000040 [(22, 3), (12, 5), (7, 5)] [m.toNat, a.toNat, d.toNat] = wd from Option.some.inj hEnc] at L
  obtain ⟨lt, ⟨he0, he1, he2, -⟩, keep⟩ := L
  have hk := keep 0 7 (by decide)
  obtain ⟨hz, hl, hr, hi⟩ := major_40 (mod_of_bits hk)
  have hf := keep 25 7 (by decide)
  refine ⟨lt, decodes (zs := [(17, 5)]) (ne_of_bits hk (by decide)) (ne_of_bits hk (by decide)) ?_ ?_ ?_ ?_ ?_⟩
  · rw [hz, hf]; rfl
  · simp only [allZero, List.all_cons, List.all_nil, keep 17 5 (by decide)]; rfl
  · exact hl
  · exact hr
  · rw [hi, instrVfp, hf]
    show some _ = _
    rw [fieldAt_of_bits he0, fieldAt_of_bits he1, fieldAt_of_bits he2]

theorem vfaddVx (m : BitVec 3) (s a d : BitVec 5) : Statement (.vfaddVx m s a d) := by
  intro _ wd hEnc
  have L := word_layout [(22, 3), (17, 5), (12, 5), (7, 5)] [m.toNat, s.toNat, a.toNat, d.toNat] 0x00000041 (by decide) (by decide) ⟨m.isLt, s.isLt, a.isLt, d.isLt, trivial⟩
  rw [show wordOn 0x00000041 [(22, 3), (17, 5), (12, 5), (7, 5)] [m.toNat, s.toNat, a.toNat, d.toNat] = wd from Option.some.inj hEnc] at L
  obtain ⟨lt, ⟨he0, he1, he2, he3, -⟩, keep⟩ := L
  have hk := keep 0 7 (by decide)
  obtain ⟨hz, hl, hr, hi⟩ := major_41 (mod_of_bits hk)
  have hf := keep 25 7 (by decide)
  refine ⟨lt, decodes (zs := []) (ne_of_bits hk (by decide)) (ne_of_bits hk (by decide)) ?_ ?_ ?_ ?_ ?_⟩
  · rw [hz, hf]; rfl
  · exact rfl
  · exact hl
  · exact hr
  · rw [hi, instrVfpx, hf]
    show some _ = _
    rw [fieldAt_of_bits he0, fieldAt_of_bits he1, fieldAt_of_bits he2, fieldAt_of_bits he3]

theorem vfsubVx (m : BitVec 3) (s a d : BitVec 5) : Statement (.vfsubVx m s a d) := by
  intro _ wd hEnc
  have L := word_layout [(22, 3), (17, 5), (12, 5), (7, 5)] [m.toNat, s.toNat, a.toNat, d.toNat] 0x02000041 (by decide) (by decide) ⟨m.isLt, s.isLt, a.isLt, d.isLt, trivial⟩
  rw [show wordOn 0x02000041 [(22, 3), (17, 5), (12, 5), (7, 5)] [m.toNat, s.toNat, a.toNat, d.toNat] = wd from Option.some.inj hEnc] at L
  obtain ⟨lt, ⟨he0, he1, he2, he3, -⟩, keep⟩ := L
  have hk := keep 0 7 (by decide)
  obtain ⟨hz, hl, hr, hi⟩ := major_41 (mod_of_bits hk)
  have hf := keep 25 7 (by decide)
  refine ⟨lt, decodes (zs := []) (ne_of_bits hk (by decide)) (ne_of_bits hk (by decide)) ?_ ?_ ?_ ?_ ?_⟩
  · rw [hz, hf]; rfl
  · exact rfl
  · exact hl
  · exact hr
  · rw [hi, instrVfpx, hf]
    show some _ = _
    rw [fieldAt_of_bits he0, fieldAt_of_bits he1, fieldAt_of_bits he2, fieldAt_of_bits he3]

theorem vfmulVx (m : BitVec 3) (s a d : BitVec 5) : Statement (.vfmulVx m s a d) := by
  intro _ wd hEnc
  have L := word_layout [(22, 3), (17, 5), (12, 5), (7, 5)] [m.toNat, s.toNat, a.toNat, d.toNat] 0x04000041 (by decide) (by decide) ⟨m.isLt, s.isLt, a.isLt, d.isLt, trivial⟩
  rw [show wordOn 0x04000041 [(22, 3), (17, 5), (12, 5), (7, 5)] [m.toNat, s.toNat, a.toNat, d.toNat] = wd from Option.some.inj hEnc] at L
  obtain ⟨lt, ⟨he0, he1, he2, he3, -⟩, keep⟩ := L
  have hk := keep 0 7 (by decide)
  obtain ⟨hz, hl, hr, hi⟩ := major_41 (mod_of_bits hk)
  have hf := keep 25 7 (by decide)
  refine ⟨lt, decodes (zs := []) (ne_of_bits hk (by decide)) (ne_of_bits hk (by decide)) ?_ ?_ ?_ ?_ ?_⟩
  · rw [hz, hf]; rfl
  · exact rfl
  · exact hl
  · exact hr
  · rw [hi, instrVfpx, hf]
    show some _ = _
    rw [fieldAt_of_bits he0, fieldAt_of_bits he1, fieldAt_of_bits he2, fieldAt_of_bits he3]

theorem vfdivVx (m : BitVec 3) (s a d : BitVec 5) : Statement (.vfdivVx m s a d) := by
  intro _ wd hEnc
  have L := word_layout [(22, 3), (17, 5), (12, 5), (7, 5)] [m.toNat, s.toNat, a.toNat, d.toNat] 0x06000041 (by decide) (by decide) ⟨m.isLt, s.isLt, a.isLt, d.isLt, trivial⟩
  rw [show wordOn 0x06000041 [(22, 3), (17, 5), (12, 5), (7, 5)] [m.toNat, s.toNat, a.toNat, d.toNat] = wd from Option.some.inj hEnc] at L
  obtain ⟨lt, ⟨he0, he1, he2, he3, -⟩, keep⟩ := L
  have hk := keep 0 7 (by decide)
  obtain ⟨hz, hl, hr, hi⟩ := major_41 (mod_of_bits hk)
  have hf := keep 25 7 (by decide)
  refine ⟨lt, decodes (zs := []) (ne_of_bits hk (by decide)) (ne_of_bits hk (by decide)) ?_ ?_ ?_ ?_ ?_⟩
  · rw [hz, hf]; rfl
  · exact rfl
  · exact hl
  · exact hr
  · rw [hi, instrVfpx, hf]
    show some _ = _
    rw [fieldAt_of_bits he0, fieldAt_of_bits he1, fieldAt_of_bits he2, fieldAt_of_bits he3]

theorem vfminVx (m : BitVec 3) (s a d : BitVec 5) : Statement (.vfminVx m s a d) := by
  intro _ wd hEnc
  have L := word_layout [(22, 3), (17, 5), (12, 5), (7, 5)] [m.toNat, s.toNat, a.toNat, d.toNat] 0x0A000041 (by decide) (by decide) ⟨m.isLt, s.isLt, a.isLt, d.isLt, trivial⟩
  rw [show wordOn 0x0A000041 [(22, 3), (17, 5), (12, 5), (7, 5)] [m.toNat, s.toNat, a.toNat, d.toNat] = wd from Option.some.inj hEnc] at L
  obtain ⟨lt, ⟨he0, he1, he2, he3, -⟩, keep⟩ := L
  have hk := keep 0 7 (by decide)
  obtain ⟨hz, hl, hr, hi⟩ := major_41 (mod_of_bits hk)
  have hf := keep 25 7 (by decide)
  refine ⟨lt, decodes (zs := []) (ne_of_bits hk (by decide)) (ne_of_bits hk (by decide)) ?_ ?_ ?_ ?_ ?_⟩
  · rw [hz, hf]; rfl
  · exact rfl
  · exact hl
  · exact hr
  · rw [hi, instrVfpx, hf]
    show some _ = _
    rw [fieldAt_of_bits he0, fieldAt_of_bits he1, fieldAt_of_bits he2, fieldAt_of_bits he3]

theorem vfmaxVx (m : BitVec 3) (s a d : BitVec 5) : Statement (.vfmaxVx m s a d) := by
  intro _ wd hEnc
  have L := word_layout [(22, 3), (17, 5), (12, 5), (7, 5)] [m.toNat, s.toNat, a.toNat, d.toNat] 0x0C000041 (by decide) (by decide) ⟨m.isLt, s.isLt, a.isLt, d.isLt, trivial⟩
  rw [show wordOn 0x0C000041 [(22, 3), (17, 5), (12, 5), (7, 5)] [m.toNat, s.toNat, a.toNat, d.toNat] = wd from Option.some.inj hEnc] at L
  obtain ⟨lt, ⟨he0, he1, he2, he3, -⟩, keep⟩ := L
  have hk := keep 0 7 (by decide)
  obtain ⟨hz, hl, hr, hi⟩ := major_41 (mod_of_bits hk)
  have hf := keep 25 7 (by decide)
  refine ⟨lt, decodes (zs := []) (ne_of_bits hk (by decide)) (ne_of_bits hk (by decide)) ?_ ?_ ?_ ?_ ?_⟩
  · rw [hz, hf]; rfl
  · exact rfl
  · exact hl
  · exact hr
  · rw [hi, instrVfpx, hf]
    show some _ = _
    rw [fieldAt_of_bits he0, fieldAt_of_bits he1, fieldAt_of_bits he2, fieldAt_of_bits he3]

theorem vfsgnjVx (m : BitVec 3) (s a d : BitVec 5) : Statement (.vfsgnjVx m s a d) := by
  intro _ wd hEnc
  have L := word_layout [(22, 3), (17, 5), (12, 5), (7, 5)] [m.toNat, s.toNat, a.toNat, d.toNat] 0x1A000041 (by decide) (by decide) ⟨m.isLt, s.isLt, a.isLt, d.isLt, trivial⟩
  rw [show wordOn 0x1A000041 [(22, 3), (17, 5), (12, 5), (7, 5)] [m.toNat, s.toNat, a.toNat, d.toNat] = wd from Option.some.inj hEnc] at L
  obtain ⟨lt, ⟨he0, he1, he2, he3, -⟩, keep⟩ := L
  have hk := keep 0 7 (by decide)
  obtain ⟨hz, hl, hr, hi⟩ := major_41 (mod_of_bits hk)
  have hf := keep 25 7 (by decide)
  refine ⟨lt, decodes (zs := []) (ne_of_bits hk (by decide)) (ne_of_bits hk (by decide)) ?_ ?_ ?_ ?_ ?_⟩
  · rw [hz, hf]; rfl
  · exact rfl
  · exact hl
  · exact hr
  · rw [hi, instrVfpx, hf]
    show some _ = _
    rw [fieldAt_of_bits he0, fieldAt_of_bits he1, fieldAt_of_bits he2, fieldAt_of_bits he3]

theorem vfma (m : BitVec 3) (c b a d : BitVec 5) : Statement (.vfma m c b a d) := by
  intro _ wd hEnc
  have L := word_layout [(27, 3), (22, 5), (17, 5), (12, 5), (7, 5)] [m.toNat, c.toNat, b.toNat, a.toNat, d.toNat] 0x00000042 (by decide) (by decide) ⟨m.isLt, c.isLt, b.isLt, a.isLt, d.isLt, trivial⟩
  rw [show wordOn 0x00000042 [(27, 3), (22, 5), (17, 5), (12, 5), (7, 5)] [m.toNat, c.toNat, b.toNat, a.toNat, d.toNat] = wd from Option.some.inj hEnc] at L
  obtain ⟨lt, ⟨he0, he1, he2, he3, he4, -⟩, keep⟩ := L
  have hk := keep 0 7 (by decide)
  obtain ⟨hz, hl, hr, hi⟩ := major_42 (mod_of_bits hk)
  have hf := keep 30 2 (by decide)
  refine ⟨lt, decodes (zs := []) (ne_of_bits hk (by decide)) (ne_of_bits hk (by decide)) ?_ ?_ ?_ ?_ ?_⟩
  · rw [hz, hf]; rfl
  · exact rfl
  · exact hl
  · exact hr
  · rw [hi, instrVfma, hf]
    show some _ = _
    rw [fieldAt_of_bits he0, fieldAt_of_bits he1, fieldAt_of_bits he2, fieldAt_of_bits he3, fieldAt_of_bits he4]

theorem vfnma (m : BitVec 3) (c b a d : BitVec 5) : Statement (.vfnma m c b a d) := by
  intro _ wd hEnc
  have L := word_layout [(27, 3), (22, 5), (17, 5), (12, 5), (7, 5)] [m.toNat, c.toNat, b.toNat, a.toNat, d.toNat] 0x40000042 (by decide) (by decide) ⟨m.isLt, c.isLt, b.isLt, a.isLt, d.isLt, trivial⟩
  rw [show wordOn 0x40000042 [(27, 3), (22, 5), (17, 5), (12, 5), (7, 5)] [m.toNat, c.toNat, b.toNat, a.toNat, d.toNat] = wd from Option.some.inj hEnc] at L
  obtain ⟨lt, ⟨he0, he1, he2, he3, he4, -⟩, keep⟩ := L
  have hk := keep 0 7 (by decide)
  obtain ⟨hz, hl, hr, hi⟩ := major_42 (mod_of_bits hk)
  have hf := keep 30 2 (by decide)
  refine ⟨lt, decodes (zs := []) (ne_of_bits hk (by decide)) (ne_of_bits hk (by decide)) ?_ ?_ ?_ ?_ ?_⟩
  · rw [hz, hf]; rfl
  · exact rfl
  · exact hl
  · exact hr
  · rw [hi, instrVfma, hf]
    show some _ = _
    rw [fieldAt_of_bits he0, fieldAt_of_bits he1, fieldAt_of_bits he2, fieldAt_of_bits he3, fieldAt_of_bits he4]

theorem vfmsa (m : BitVec 3) (c b a d : BitVec 5) : Statement (.vfmsa m c b a d) := by
  intro _ wd hEnc
  have L := word_layout [(27, 3), (22, 5), (17, 5), (12, 5), (7, 5)] [m.toNat, c.toNat, b.toNat, a.toNat, d.toNat] 0x80000042 (by decide) (by decide) ⟨m.isLt, c.isLt, b.isLt, a.isLt, d.isLt, trivial⟩
  rw [show wordOn 0x80000042 [(27, 3), (22, 5), (17, 5), (12, 5), (7, 5)] [m.toNat, c.toNat, b.toNat, a.toNat, d.toNat] = wd from Option.some.inj hEnc] at L
  obtain ⟨lt, ⟨he0, he1, he2, he3, he4, -⟩, keep⟩ := L
  have hk := keep 0 7 (by decide)
  obtain ⟨hz, hl, hr, hi⟩ := major_42 (mod_of_bits hk)
  have hf := keep 30 2 (by decide)
  refine ⟨lt, decodes (zs := []) (ne_of_bits hk (by decide)) (ne_of_bits hk (by decide)) ?_ ?_ ?_ ?_ ?_⟩
  · rw [hz, hf]; rfl
  · exact rfl
  · exact hl
  · exact hr
  · rw [hi, instrVfma, hf]
    show some _ = _
    rw [fieldAt_of_bits he0, fieldAt_of_bits he1, fieldAt_of_bits he2, fieldAt_of_bits he3, fieldAt_of_bits he4]

theorem vfnmsa (m : BitVec 3) (c b a d : BitVec 5) : Statement (.vfnmsa m c b a d) := by
  intro _ wd hEnc
  have L := word_layout [(27, 3), (22, 5), (17, 5), (12, 5), (7, 5)] [m.toNat, c.toNat, b.toNat, a.toNat, d.toNat] 0xC0000042 (by decide) (by decide) ⟨m.isLt, c.isLt, b.isLt, a.isLt, d.isLt, trivial⟩
  rw [show wordOn 0xC0000042 [(27, 3), (22, 5), (17, 5), (12, 5), (7, 5)] [m.toNat, c.toNat, b.toNat, a.toNat, d.toNat] = wd from Option.some.inj hEnc] at L
  obtain ⟨lt, ⟨he0, he1, he2, he3, he4, -⟩, keep⟩ := L
  have hk := keep 0 7 (by decide)
  obtain ⟨hz, hl, hr, hi⟩ := major_42 (mod_of_bits hk)
  have hf := keep 30 2 (by decide)
  refine ⟨lt, decodes (zs := []) (ne_of_bits hk (by decide)) (ne_of_bits hk (by decide)) ?_ ?_ ?_ ?_ ?_⟩
  · rw [hz, hf]; rfl
  · exact rfl
  · exact hl
  · exact hr
  · rw [hi, instrVfma, hf]
    show some _ = _
    rw [fieldAt_of_bits he0, fieldAt_of_bits he1, fieldAt_of_bits he2, fieldAt_of_bits he3, fieldAt_of_bits he4]

theorem vfcmpEq (m : BitVec 3) (b a : BitVec 5) (d : BitVec 3) : Statement (.vfcmpEq m b a d) := by
  intro _ wd hEnc
  have L := word_layout [(22, 3), (17, 5), (12, 5), (7, 3)] [m.toNat, b.toNat, a.toNat, d.toNat] 0x00000043 (by decide) (by decide) ⟨m.isLt, b.isLt, a.isLt, d.isLt, trivial⟩
  rw [show wordOn 0x00000043 [(22, 3), (17, 5), (12, 5), (7, 3)] [m.toNat, b.toNat, a.toNat, d.toNat] = wd from Option.some.inj hEnc] at L
  obtain ⟨lt, ⟨he0, he1, he2, he3, -⟩, keep⟩ := L
  have hk := keep 0 7 (by decide)
  obtain ⟨hz, hl, hr, hi⟩ := major_43 (mod_of_bits hk)
  have hf := keep 25 7 (by decide)
  refine ⟨lt, decodes (zs := [(10, 2)]) (ne_of_bits hk (by decide)) (ne_of_bits hk (by decide)) ?_ ?_ ?_ ?_ ?_⟩
  · rw [hz, hf]; rfl
  · simp only [allZero, List.all_cons, List.all_nil, keep 10 2 (by decide)]; rfl
  · exact hl
  · exact hr
  · rw [hi, instrVfcmp, hf]
    show some _ = _
    rw [fieldAt_of_bits he0, fieldAt_of_bits he1, fieldAt_of_bits he2, fieldAt_of_bits he3]

theorem vfcmpNe (m : BitVec 3) (b a : BitVec 5) (d : BitVec 3) : Statement (.vfcmpNe m b a d) := by
  intro _ wd hEnc
  have L := word_layout [(22, 3), (17, 5), (12, 5), (7, 3)] [m.toNat, b.toNat, a.toNat, d.toNat] 0x02000043 (by decide) (by decide) ⟨m.isLt, b.isLt, a.isLt, d.isLt, trivial⟩
  rw [show wordOn 0x02000043 [(22, 3), (17, 5), (12, 5), (7, 3)] [m.toNat, b.toNat, a.toNat, d.toNat] = wd from Option.some.inj hEnc] at L
  obtain ⟨lt, ⟨he0, he1, he2, he3, -⟩, keep⟩ := L
  have hk := keep 0 7 (by decide)
  obtain ⟨hz, hl, hr, hi⟩ := major_43 (mod_of_bits hk)
  have hf := keep 25 7 (by decide)
  refine ⟨lt, decodes (zs := [(10, 2)]) (ne_of_bits hk (by decide)) (ne_of_bits hk (by decide)) ?_ ?_ ?_ ?_ ?_⟩
  · rw [hz, hf]; rfl
  · simp only [allZero, List.all_cons, List.all_nil, keep 10 2 (by decide)]; rfl
  · exact hl
  · exact hr
  · rw [hi, instrVfcmp, hf]
    show some _ = _
    rw [fieldAt_of_bits he0, fieldAt_of_bits he1, fieldAt_of_bits he2, fieldAt_of_bits he3]

theorem vfcmpLt (m : BitVec 3) (b a : BitVec 5) (d : BitVec 3) : Statement (.vfcmpLt m b a d) := by
  intro _ wd hEnc
  have L := word_layout [(22, 3), (17, 5), (12, 5), (7, 3)] [m.toNat, b.toNat, a.toNat, d.toNat] 0x04000043 (by decide) (by decide) ⟨m.isLt, b.isLt, a.isLt, d.isLt, trivial⟩
  rw [show wordOn 0x04000043 [(22, 3), (17, 5), (12, 5), (7, 3)] [m.toNat, b.toNat, a.toNat, d.toNat] = wd from Option.some.inj hEnc] at L
  obtain ⟨lt, ⟨he0, he1, he2, he3, -⟩, keep⟩ := L
  have hk := keep 0 7 (by decide)
  obtain ⟨hz, hl, hr, hi⟩ := major_43 (mod_of_bits hk)
  have hf := keep 25 7 (by decide)
  refine ⟨lt, decodes (zs := [(10, 2)]) (ne_of_bits hk (by decide)) (ne_of_bits hk (by decide)) ?_ ?_ ?_ ?_ ?_⟩
  · rw [hz, hf]; rfl
  · simp only [allZero, List.all_cons, List.all_nil, keep 10 2 (by decide)]; rfl
  · exact hl
  · exact hr
  · rw [hi, instrVfcmp, hf]
    show some _ = _
    rw [fieldAt_of_bits he0, fieldAt_of_bits he1, fieldAt_of_bits he2, fieldAt_of_bits he3]

theorem vfcmpLe (m : BitVec 3) (b a : BitVec 5) (d : BitVec 3) : Statement (.vfcmpLe m b a d) := by
  intro _ wd hEnc
  have L := word_layout [(22, 3), (17, 5), (12, 5), (7, 3)] [m.toNat, b.toNat, a.toNat, d.toNat] 0x06000043 (by decide) (by decide) ⟨m.isLt, b.isLt, a.isLt, d.isLt, trivial⟩
  rw [show wordOn 0x06000043 [(22, 3), (17, 5), (12, 5), (7, 3)] [m.toNat, b.toNat, a.toNat, d.toNat] = wd from Option.some.inj hEnc] at L
  obtain ⟨lt, ⟨he0, he1, he2, he3, -⟩, keep⟩ := L
  have hk := keep 0 7 (by decide)
  obtain ⟨hz, hl, hr, hi⟩ := major_43 (mod_of_bits hk)
  have hf := keep 25 7 (by decide)
  refine ⟨lt, decodes (zs := [(10, 2)]) (ne_of_bits hk (by decide)) (ne_of_bits hk (by decide)) ?_ ?_ ?_ ?_ ?_⟩
  · rw [hz, hf]; rfl
  · simp only [allZero, List.all_cons, List.all_nil, keep 10 2 (by decide)]; rfl
  · exact hl
  · exact hr
  · rw [hi, instrVfcmp, hf]
    show some _ = _
    rw [fieldAt_of_bits he0, fieldAt_of_bits he1, fieldAt_of_bits he2, fieldAt_of_bits he3]

theorem vfcmpGt (m : BitVec 3) (b a : BitVec 5) (d : BitVec 3) : Statement (.vfcmpGt m b a d) := by
  intro _ wd hEnc
  have L := word_layout [(22, 3), (17, 5), (12, 5), (7, 3)] [m.toNat, b.toNat, a.toNat, d.toNat] 0x08000043 (by decide) (by decide) ⟨m.isLt, b.isLt, a.isLt, d.isLt, trivial⟩
  rw [show wordOn 0x08000043 [(22, 3), (17, 5), (12, 5), (7, 3)] [m.toNat, b.toNat, a.toNat, d.toNat] = wd from Option.some.inj hEnc] at L
  obtain ⟨lt, ⟨he0, he1, he2, he3, -⟩, keep⟩ := L
  have hk := keep 0 7 (by decide)
  obtain ⟨hz, hl, hr, hi⟩ := major_43 (mod_of_bits hk)
  have hf := keep 25 7 (by decide)
  refine ⟨lt, decodes (zs := [(10, 2)]) (ne_of_bits hk (by decide)) (ne_of_bits hk (by decide)) ?_ ?_ ?_ ?_ ?_⟩
  · rw [hz, hf]; rfl
  · simp only [allZero, List.all_cons, List.all_nil, keep 10 2 (by decide)]; rfl
  · exact hl
  · exact hr
  · rw [hi, instrVfcmp, hf]
    show some _ = _
    rw [fieldAt_of_bits he0, fieldAt_of_bits he1, fieldAt_of_bits he2, fieldAt_of_bits he3]

theorem vfcmpGe (m : BitVec 3) (b a : BitVec 5) (d : BitVec 3) : Statement (.vfcmpGe m b a d) := by
  intro _ wd hEnc
  have L := word_layout [(22, 3), (17, 5), (12, 5), (7, 3)] [m.toNat, b.toNat, a.toNat, d.toNat] 0x0A000043 (by decide) (by decide) ⟨m.isLt, b.isLt, a.isLt, d.isLt, trivial⟩
  rw [show wordOn 0x0A000043 [(22, 3), (17, 5), (12, 5), (7, 3)] [m.toNat, b.toNat, a.toNat, d.toNat] = wd from Option.some.inj hEnc] at L
  obtain ⟨lt, ⟨he0, he1, he2, he3, -⟩, keep⟩ := L
  have hk := keep 0 7 (by decide)
  obtain ⟨hz, hl, hr, hi⟩ := major_43 (mod_of_bits hk)
  have hf := keep 25 7 (by decide)
  refine ⟨lt, decodes (zs := [(10, 2)]) (ne_of_bits hk (by decide)) (ne_of_bits hk (by decide)) ?_ ?_ ?_ ?_ ?_⟩
  · rw [hz, hf]; rfl
  · simp only [allZero, List.all_cons, List.all_nil, keep 10 2 (by decide)]; rfl
  · exact hl
  · exact hr
  · rw [hi, instrVfcmp, hf]
    show some _ = _
    rw [fieldAt_of_bits he0, fieldAt_of_bits he1, fieldAt_of_bits he2, fieldAt_of_bits he3]

theorem vfcmpUnord (m : BitVec 3) (b a : BitVec 5) (d : BitVec 3) : Statement (.vfcmpUnord m b a d) := by
  intro _ wd hEnc
  have L := word_layout [(22, 3), (17, 5), (12, 5), (7, 3)] [m.toNat, b.toNat, a.toNat, d.toNat] 0x0C000043 (by decide) (by decide) ⟨m.isLt, b.isLt, a.isLt, d.isLt, trivial⟩
  rw [show wordOn 0x0C000043 [(22, 3), (17, 5), (12, 5), (7, 3)] [m.toNat, b.toNat, a.toNat, d.toNat] = wd from Option.some.inj hEnc] at L
  obtain ⟨lt, ⟨he0, he1, he2, he3, -⟩, keep⟩ := L
  have hk := keep 0 7 (by decide)
  obtain ⟨hz, hl, hr, hi⟩ := major_43 (mod_of_bits hk)
  have hf := keep 25 7 (by decide)
  refine ⟨lt, decodes (zs := [(10, 2)]) (ne_of_bits hk (by decide)) (ne_of_bits hk (by decide)) ?_ ?_ ?_ ?_ ?_⟩
  · rw [hz, hf]; rfl
  · simp only [allZero, List.all_cons, List.all_nil, keep 10 2 (by decide)]; rfl
  · exact hl
  · exact hr
  · rw [hi, instrVfcmp, hf]
    show some _ = _
    rw [fieldAt_of_bits he0, fieldAt_of_bits he1, fieldAt_of_bits he2, fieldAt_of_bits he3]

theorem vfcmpOrd (m : BitVec 3) (b a : BitVec 5) (d : BitVec 3) : Statement (.vfcmpOrd m b a d) := by
  intro _ wd hEnc
  have L := word_layout [(22, 3), (17, 5), (12, 5), (7, 3)] [m.toNat, b.toNat, a.toNat, d.toNat] 0x0E000043 (by decide) (by decide) ⟨m.isLt, b.isLt, a.isLt, d.isLt, trivial⟩
  rw [show wordOn 0x0E000043 [(22, 3), (17, 5), (12, 5), (7, 3)] [m.toNat, b.toNat, a.toNat, d.toNat] = wd from Option.some.inj hEnc] at L
  obtain ⟨lt, ⟨he0, he1, he2, he3, -⟩, keep⟩ := L
  have hk := keep 0 7 (by decide)
  obtain ⟨hz, hl, hr, hi⟩ := major_43 (mod_of_bits hk)
  have hf := keep 25 7 (by decide)
  refine ⟨lt, decodes (zs := [(10, 2)]) (ne_of_bits hk (by decide)) (ne_of_bits hk (by decide)) ?_ ?_ ?_ ?_ ?_⟩
  · rw [hz, hf]; rfl
  · simp only [allZero, List.all_cons, List.all_nil, keep 10 2 (by decide)]; rfl
  · exact hl
  · exact hr
  · rw [hi, instrVfcmp, hf]
    show some _ = _
    rw [fieldAt_of_bits he0, fieldAt_of_bits he1, fieldAt_of_bits he2, fieldAt_of_bits he3]

theorem vfcmpEqVx (m : BitVec 3) (s a : BitVec 5) (d : BitVec 3) : Statement (.vfcmpEqVx m s a d) := by
  intro _ wd hEnc
  have L := word_layout [(22, 3), (17, 5), (12, 5), (7, 3)] [m.toNat, s.toNat, a.toNat, d.toNat] 0x40000043 (by decide) (by decide) ⟨m.isLt, s.isLt, a.isLt, d.isLt, trivial⟩
  rw [show wordOn 0x40000043 [(22, 3), (17, 5), (12, 5), (7, 3)] [m.toNat, s.toNat, a.toNat, d.toNat] = wd from Option.some.inj hEnc] at L
  obtain ⟨lt, ⟨he0, he1, he2, he3, -⟩, keep⟩ := L
  have hk := keep 0 7 (by decide)
  obtain ⟨hz, hl, hr, hi⟩ := major_43 (mod_of_bits hk)
  have hf := keep 25 7 (by decide)
  refine ⟨lt, decodes (zs := [(10, 2)]) (ne_of_bits hk (by decide)) (ne_of_bits hk (by decide)) ?_ ?_ ?_ ?_ ?_⟩
  · rw [hz, hf]; rfl
  · simp only [allZero, List.all_cons, List.all_nil, keep 10 2 (by decide)]; rfl
  · exact hl
  · exact hr
  · rw [hi, instrVfcmp, hf]
    show some _ = _
    rw [fieldAt_of_bits he0, fieldAt_of_bits he1, fieldAt_of_bits he2, fieldAt_of_bits he3]

theorem vfcmpNeVx (m : BitVec 3) (s a : BitVec 5) (d : BitVec 3) : Statement (.vfcmpNeVx m s a d) := by
  intro _ wd hEnc
  have L := word_layout [(22, 3), (17, 5), (12, 5), (7, 3)] [m.toNat, s.toNat, a.toNat, d.toNat] 0x42000043 (by decide) (by decide) ⟨m.isLt, s.isLt, a.isLt, d.isLt, trivial⟩
  rw [show wordOn 0x42000043 [(22, 3), (17, 5), (12, 5), (7, 3)] [m.toNat, s.toNat, a.toNat, d.toNat] = wd from Option.some.inj hEnc] at L
  obtain ⟨lt, ⟨he0, he1, he2, he3, -⟩, keep⟩ := L
  have hk := keep 0 7 (by decide)
  obtain ⟨hz, hl, hr, hi⟩ := major_43 (mod_of_bits hk)
  have hf := keep 25 7 (by decide)
  refine ⟨lt, decodes (zs := [(10, 2)]) (ne_of_bits hk (by decide)) (ne_of_bits hk (by decide)) ?_ ?_ ?_ ?_ ?_⟩
  · rw [hz, hf]; rfl
  · simp only [allZero, List.all_cons, List.all_nil, keep 10 2 (by decide)]; rfl
  · exact hl
  · exact hr
  · rw [hi, instrVfcmp, hf]
    show some _ = _
    rw [fieldAt_of_bits he0, fieldAt_of_bits he1, fieldAt_of_bits he2, fieldAt_of_bits he3]

theorem vfcmpLtVx (m : BitVec 3) (s a : BitVec 5) (d : BitVec 3) : Statement (.vfcmpLtVx m s a d) := by
  intro _ wd hEnc
  have L := word_layout [(22, 3), (17, 5), (12, 5), (7, 3)] [m.toNat, s.toNat, a.toNat, d.toNat] 0x44000043 (by decide) (by decide) ⟨m.isLt, s.isLt, a.isLt, d.isLt, trivial⟩
  rw [show wordOn 0x44000043 [(22, 3), (17, 5), (12, 5), (7, 3)] [m.toNat, s.toNat, a.toNat, d.toNat] = wd from Option.some.inj hEnc] at L
  obtain ⟨lt, ⟨he0, he1, he2, he3, -⟩, keep⟩ := L
  have hk := keep 0 7 (by decide)
  obtain ⟨hz, hl, hr, hi⟩ := major_43 (mod_of_bits hk)
  have hf := keep 25 7 (by decide)
  refine ⟨lt, decodes (zs := [(10, 2)]) (ne_of_bits hk (by decide)) (ne_of_bits hk (by decide)) ?_ ?_ ?_ ?_ ?_⟩
  · rw [hz, hf]; rfl
  · simp only [allZero, List.all_cons, List.all_nil, keep 10 2 (by decide)]; rfl
  · exact hl
  · exact hr
  · rw [hi, instrVfcmp, hf]
    show some _ = _
    rw [fieldAt_of_bits he0, fieldAt_of_bits he1, fieldAt_of_bits he2, fieldAt_of_bits he3]

theorem vfcmpLeVx (m : BitVec 3) (s a : BitVec 5) (d : BitVec 3) : Statement (.vfcmpLeVx m s a d) := by
  intro _ wd hEnc
  have L := word_layout [(22, 3), (17, 5), (12, 5), (7, 3)] [m.toNat, s.toNat, a.toNat, d.toNat] 0x46000043 (by decide) (by decide) ⟨m.isLt, s.isLt, a.isLt, d.isLt, trivial⟩
  rw [show wordOn 0x46000043 [(22, 3), (17, 5), (12, 5), (7, 3)] [m.toNat, s.toNat, a.toNat, d.toNat] = wd from Option.some.inj hEnc] at L
  obtain ⟨lt, ⟨he0, he1, he2, he3, -⟩, keep⟩ := L
  have hk := keep 0 7 (by decide)
  obtain ⟨hz, hl, hr, hi⟩ := major_43 (mod_of_bits hk)
  have hf := keep 25 7 (by decide)
  refine ⟨lt, decodes (zs := [(10, 2)]) (ne_of_bits hk (by decide)) (ne_of_bits hk (by decide)) ?_ ?_ ?_ ?_ ?_⟩
  · rw [hz, hf]; rfl
  · simp only [allZero, List.all_cons, List.all_nil, keep 10 2 (by decide)]; rfl
  · exact hl
  · exact hr
  · rw [hi, instrVfcmp, hf]
    show some _ = _
    rw [fieldAt_of_bits he0, fieldAt_of_bits he1, fieldAt_of_bits he2, fieldAt_of_bits he3]

theorem vfcmpGtVx (m : BitVec 3) (s a : BitVec 5) (d : BitVec 3) : Statement (.vfcmpGtVx m s a d) := by
  intro _ wd hEnc
  have L := word_layout [(22, 3), (17, 5), (12, 5), (7, 3)] [m.toNat, s.toNat, a.toNat, d.toNat] 0x48000043 (by decide) (by decide) ⟨m.isLt, s.isLt, a.isLt, d.isLt, trivial⟩
  rw [show wordOn 0x48000043 [(22, 3), (17, 5), (12, 5), (7, 3)] [m.toNat, s.toNat, a.toNat, d.toNat] = wd from Option.some.inj hEnc] at L
  obtain ⟨lt, ⟨he0, he1, he2, he3, -⟩, keep⟩ := L
  have hk := keep 0 7 (by decide)
  obtain ⟨hz, hl, hr, hi⟩ := major_43 (mod_of_bits hk)
  have hf := keep 25 7 (by decide)
  refine ⟨lt, decodes (zs := [(10, 2)]) (ne_of_bits hk (by decide)) (ne_of_bits hk (by decide)) ?_ ?_ ?_ ?_ ?_⟩
  · rw [hz, hf]; rfl
  · simp only [allZero, List.all_cons, List.all_nil, keep 10 2 (by decide)]; rfl
  · exact hl
  · exact hr
  · rw [hi, instrVfcmp, hf]
    show some _ = _
    rw [fieldAt_of_bits he0, fieldAt_of_bits he1, fieldAt_of_bits he2, fieldAt_of_bits he3]

theorem vfcmpGeVx (m : BitVec 3) (s a : BitVec 5) (d : BitVec 3) : Statement (.vfcmpGeVx m s a d) := by
  intro _ wd hEnc
  have L := word_layout [(22, 3), (17, 5), (12, 5), (7, 3)] [m.toNat, s.toNat, a.toNat, d.toNat] 0x4A000043 (by decide) (by decide) ⟨m.isLt, s.isLt, a.isLt, d.isLt, trivial⟩
  rw [show wordOn 0x4A000043 [(22, 3), (17, 5), (12, 5), (7, 3)] [m.toNat, s.toNat, a.toNat, d.toNat] = wd from Option.some.inj hEnc] at L
  obtain ⟨lt, ⟨he0, he1, he2, he3, -⟩, keep⟩ := L
  have hk := keep 0 7 (by decide)
  obtain ⟨hz, hl, hr, hi⟩ := major_43 (mod_of_bits hk)
  have hf := keep 25 7 (by decide)
  refine ⟨lt, decodes (zs := [(10, 2)]) (ne_of_bits hk (by decide)) (ne_of_bits hk (by decide)) ?_ ?_ ?_ ?_ ?_⟩
  · rw [hz, hf]; rfl
  · simp only [allZero, List.all_cons, List.all_nil, keep 10 2 (by decide)]; rfl
  · exact hl
  · exact hr
  · rw [hi, instrVfcmp, hf]
    show some _ = _
    rw [fieldAt_of_bits he0, fieldAt_of_bits he1, fieldAt_of_bits he2, fieldAt_of_bits he3]

theorem vfcmpUnordVx (m : BitVec 3) (s a : BitVec 5) (d : BitVec 3) : Statement (.vfcmpUnordVx m s a d) := by
  intro _ wd hEnc
  have L := word_layout [(22, 3), (17, 5), (12, 5), (7, 3)] [m.toNat, s.toNat, a.toNat, d.toNat] 0x4C000043 (by decide) (by decide) ⟨m.isLt, s.isLt, a.isLt, d.isLt, trivial⟩
  rw [show wordOn 0x4C000043 [(22, 3), (17, 5), (12, 5), (7, 3)] [m.toNat, s.toNat, a.toNat, d.toNat] = wd from Option.some.inj hEnc] at L
  obtain ⟨lt, ⟨he0, he1, he2, he3, -⟩, keep⟩ := L
  have hk := keep 0 7 (by decide)
  obtain ⟨hz, hl, hr, hi⟩ := major_43 (mod_of_bits hk)
  have hf := keep 25 7 (by decide)
  refine ⟨lt, decodes (zs := [(10, 2)]) (ne_of_bits hk (by decide)) (ne_of_bits hk (by decide)) ?_ ?_ ?_ ?_ ?_⟩
  · rw [hz, hf]; rfl
  · simp only [allZero, List.all_cons, List.all_nil, keep 10 2 (by decide)]; rfl
  · exact hl
  · exact hr
  · rw [hi, instrVfcmp, hf]
    show some _ = _
    rw [fieldAt_of_bits he0, fieldAt_of_bits he1, fieldAt_of_bits he2, fieldAt_of_bits he3]

theorem vfcmpOrdVx (m : BitVec 3) (s a : BitVec 5) (d : BitVec 3) : Statement (.vfcmpOrdVx m s a d) := by
  intro _ wd hEnc
  have L := word_layout [(22, 3), (17, 5), (12, 5), (7, 3)] [m.toNat, s.toNat, a.toNat, d.toNat] 0x4E000043 (by decide) (by decide) ⟨m.isLt, s.isLt, a.isLt, d.isLt, trivial⟩
  rw [show wordOn 0x4E000043 [(22, 3), (17, 5), (12, 5), (7, 3)] [m.toNat, s.toNat, a.toNat, d.toNat] = wd from Option.some.inj hEnc] at L
  obtain ⟨lt, ⟨he0, he1, he2, he3, -⟩, keep⟩ := L
  have hk := keep 0 7 (by decide)
  obtain ⟨hz, hl, hr, hi⟩ := major_43 (mod_of_bits hk)
  have hf := keep 25 7 (by decide)
  refine ⟨lt, decodes (zs := [(10, 2)]) (ne_of_bits hk (by decide)) (ne_of_bits hk (by decide)) ?_ ?_ ?_ ?_ ?_⟩
  · rw [hz, hf]; rfl
  · simp only [allZero, List.all_cons, List.all_nil, keep 10 2 (by decide)]; rfl
  · exact hl
  · exact hr
  · rw [hi, instrVfcmp, hf]
    show some _ = _
    rw [fieldAt_of_bits he0, fieldAt_of_bits he1, fieldAt_of_bits he2, fieldAt_of_bits he3]

theorem vcvt (t : BitVec 4) (r m : BitVec 3) (x : BitVec 1) (f : BitVec 4) (a d : BitVec 5) : Statement (.vcvt t r m x f a d) := by
  intro hw wd hEnc
  have L := word_layout [(28, 4), (25, 3), (22, 3), (21, 1), (17, 4), (12, 5), (7, 5)] [t.toNat, r.toNat, m.toNat, x.toNat, f.toNat, a.toNat, d.toNat] 0x00000044 (by decide) (by decide) ⟨t.isLt, r.isLt, m.isLt, x.isLt, f.isLt, a.isLt, d.isLt, trivial⟩
  rw [show wordOn 0x00000044 [(28, 4), (25, 3), (22, 3), (21, 1), (17, 4), (12, 5), (7, 5)] [t.toNat, r.toNat, m.toNat, x.toNat, f.toNat, a.toNat, d.toNat] = wd from Option.some.inj hEnc] at L
  obtain ⟨lt, ⟨he0, he1, he2, he3, he4, he5, he6, -⟩, keep⟩ := L
  have hk := keep 0 7 (by decide)
  obtain ⟨hz, hl, hr, hi⟩ := major_44 (mod_of_bits hk)
  refine ⟨lt, decodes (zs := []) (ne_of_bits hk (by decide)) (ne_of_bits hk (by decide)) ?_ ?_ ?_ ?_ ?_⟩
  · exact hz
  · exact rfl
  · exact hl
  · rw [hr]
    simp only [he1, fieldAt_of_bits he0, fieldAt_of_bits he4, fieldAt_of_bits he3, fieldAt_of_bits he1]
    simpa [bits, Instr.wellFormed, Instr.zeroFieldsOk, Instr.reserved, Instr.eventOk, Instr.scopeReserved, ← BitVec.toNat_inj] using hw
  · rw [hi, fieldAt_of_bits he0, fieldAt_of_bits he1, fieldAt_of_bits he2, fieldAt_of_bits he3, fieldAt_of_bits he4, fieldAt_of_bits he5, fieldAt_of_bits he6]

theorem vscale (m : BitVec 3) (a d : BitVec 5) : Statement (.vscale m a d) := by
  intro _ wd hEnc
  have L := word_layout [(22, 3), (12, 5), (7, 5)] [m.toNat, a.toNat, d.toNat] 0x00000045 (by decide) (by decide) ⟨m.isLt, a.isLt, d.isLt, trivial⟩
  rw [show wordOn 0x00000045 [(22, 3), (12, 5), (7, 5)] [m.toNat, a.toNat, d.toNat] = wd from Option.some.inj hEnc] at L
  obtain ⟨lt, ⟨he0, he1, he2, -⟩, keep⟩ := L
  have hk := keep 0 7 (by decide)
  obtain ⟨hz, hl, hr, hi⟩ := major_45 (mod_of_bits hk)
  have hf := keep 25 7 (by decide)
  refine ⟨lt, decodes (zs := [(17, 5)]) (ne_of_bits hk (by decide)) (ne_of_bits hk (by decide)) ?_ ?_ ?_ ?_ ?_⟩
  · rw [hz, hf]; rfl
  · simp only [allZero, List.all_cons, List.all_nil, keep 17 5 (by decide)]; rfl
  · exact hl
  · exact hr
  · rw [hi, instrVqnt, hf]
    show some _ = _
    rw [fieldAt_of_bits he0, fieldAt_of_bits he1, fieldAt_of_bits he2]

theorem vqnt (m : BitVec 3) (b a d : BitVec 5) : Statement (.vqnt m b a d) := by
  intro _ wd hEnc
  have L := word_layout [(22, 3), (17, 5), (12, 5), (7, 5)] [m.toNat, b.toNat, a.toNat, d.toNat] 0x02000045 (by decide) (by decide) ⟨m.isLt, b.isLt, a.isLt, d.isLt, trivial⟩
  rw [show wordOn 0x02000045 [(22, 3), (17, 5), (12, 5), (7, 5)] [m.toNat, b.toNat, a.toNat, d.toNat] = wd from Option.some.inj hEnc] at L
  obtain ⟨lt, ⟨he0, he1, he2, he3, -⟩, keep⟩ := L
  have hk := keep 0 7 (by decide)
  obtain ⟨hz, hl, hr, hi⟩ := major_45 (mod_of_bits hk)
  have hf := keep 25 7 (by decide)
  refine ⟨lt, decodes (zs := []) (ne_of_bits hk (by decide)) (ne_of_bits hk (by decide)) ?_ ?_ ?_ ?_ ?_⟩
  · rw [hz, hf]; rfl
  · exact rfl
  · exact hl
  · exact hr
  · rw [hi, instrVqnt, hf]
    show some _ = _
    rw [fieldAt_of_bits he0, fieldAt_of_bits he1, fieldAt_of_bits he2, fieldAt_of_bits he3]

theorem vdqnt (m : BitVec 3) (b a d : BitVec 5) : Statement (.vdqnt m b a d) := by
  intro _ wd hEnc
  have L := word_layout [(22, 3), (17, 5), (12, 5), (7, 5)] [m.toNat, b.toNat, a.toNat, d.toNat] 0x04000045 (by decide) (by decide) ⟨m.isLt, b.isLt, a.isLt, d.isLt, trivial⟩
  rw [show wordOn 0x04000045 [(22, 3), (17, 5), (12, 5), (7, 5)] [m.toNat, b.toNat, a.toNat, d.toNat] = wd from Option.some.inj hEnc] at L
  obtain ⟨lt, ⟨he0, he1, he2, he3, -⟩, keep⟩ := L
  have hk := keep 0 7 (by decide)
  obtain ⟨hz, hl, hr, hi⟩ := major_45 (mod_of_bits hk)
  have hf := keep 25 7 (by decide)
  refine ⟨lt, decodes (zs := []) (ne_of_bits hk (by decide)) (ne_of_bits hk (by decide)) ?_ ?_ ?_ ?_ ?_⟩
  · rw [hz, hf]; rfl
  · exact rfl
  · exact hl
  · exact hr
  · rw [hi, instrVqnt, hf]
    show some _ = _
    rw [fieldAt_of_bits he0, fieldAt_of_bits he1, fieldAt_of_bits he2, fieldAt_of_bits he3]

theorem vld (n : BitVec 1) (r : BitVec 2) (w m : BitVec 3) (x : BitVec 5) (a : BitVec 6) (d : BitVec 5) : Statement (.vld n r w m x a d) := by
  intro hw wd hEnc
  have L := word_layout [(31, 1), (29, 2), (26, 3), (23, 3), (18, 5), (12, 6), (7, 5)] [n.toNat, r.toNat, w.toNat, m.toNat, x.toNat, a.toNat, d.toNat] 0x00000050 (by decide) (by decide) ⟨n.isLt, r.isLt, w.isLt, m.isLt, x.isLt, a.isLt, d.isLt, trivial⟩
  rw [show wordOn 0x00000050 [(31, 1), (29, 2), (26, 3), (23, 3), (18, 5), (12, 6), (7, 5)] [n.toNat, r.toNat, w.toNat, m.toNat, x.toNat, a.toNat, d.toNat] = wd from Option.some.inj hEnc] at L
  obtain ⟨lt, ⟨he0, he1, he2, he3, he4, he5, he6, -⟩, keep⟩ := L
  have hk := keep 0 7 (by decide)
  obtain ⟨hz, hl, hr, hi⟩ := major_50 (mod_of_bits hk)
  refine ⟨lt, decodes (zs := []) (ne_of_bits hk (by decide)) (ne_of_bits hk (by decide)) ?_ ?_ ?_ ?_ ?_⟩
  · exact hz
  · exact rfl
  · rw [hl, unitFieldZero, fieldAt_of_bits he2, fieldAt_of_bits he4]
    simpa [Instr.wellFormed, Instr.zeroFieldsOk, Instr.reserved, Instr.eventOk] using hw
  · exact hr
  · rw [hi, fieldAt_of_bits he0, fieldAt_of_bits he1, fieldAt_of_bits he2, fieldAt_of_bits he3, fieldAt_of_bits he4, fieldAt_of_bits he5, fieldAt_of_bits he6]

theorem vst (n : BitVec 1) (r : BitVec 2) (w m : BitVec 3) (x : BitVec 5) (a : BitVec 6) (d : BitVec 5) : Statement (.vst n r w m x a d) := by
  intro hw wd hEnc
  have L := word_layout [(31, 1), (29, 2), (26, 3), (23, 3), (18, 5), (12, 6), (7, 5)] [n.toNat, r.toNat, w.toNat, m.toNat, x.toNat, a.toNat, d.toNat] 0x00000051 (by decide) (by decide) ⟨n.isLt, r.isLt, w.isLt, m.isLt, x.isLt, a.isLt, d.isLt, trivial⟩
  rw [show wordOn 0x00000051 [(31, 1), (29, 2), (26, 3), (23, 3), (18, 5), (12, 6), (7, 5)] [n.toNat, r.toNat, w.toNat, m.toNat, x.toNat, a.toNat, d.toNat] = wd from Option.some.inj hEnc] at L
  obtain ⟨lt, ⟨he0, he1, he2, he3, he4, he5, he6, -⟩, keep⟩ := L
  have hk := keep 0 7 (by decide)
  obtain ⟨hz, hl, hr, hi⟩ := major_51 (mod_of_bits hk)
  refine ⟨lt, decodes (zs := []) (ne_of_bits hk (by decide)) (ne_of_bits hk (by decide)) ?_ ?_ ?_ ?_ ?_⟩
  · exact hz
  · exact rfl
  · rw [hl, unitFieldZero, fieldAt_of_bits he2, fieldAt_of_bits he4]
    simpa [Instr.wellFormed, Instr.zeroFieldsOk, Instr.reserved, Instr.eventOk] using hw
  · exact hr
  · rw [hi, fieldAt_of_bits he0, fieldAt_of_bits he1, fieldAt_of_bits he2, fieldAt_of_bits he3, fieldAt_of_bits he4, fieldAt_of_bits he5, fieldAt_of_bits he6]

theorem vlds (n : BitVec 1) (r : BitVec 2) (w m : BitVec 3) (x : BitVec 5) (a : BitVec 6) (d : BitVec 5) : Statement (.vlds n r w m x a d) := by
  intro hw wd hEnc
  have L := word_layout [(31, 1), (29, 2), (26, 3), (23, 3), (18, 5), (12, 6), (7, 5)] [n.toNat, r.toNat, w.toNat, m.toNat, x.toNat, a.toNat, d.toNat] 0x00000052 (by decide) (by decide) ⟨n.isLt, r.isLt, w.isLt, m.isLt, x.isLt, a.isLt, d.isLt, trivial⟩
  rw [show wordOn 0x00000052 [(31, 1), (29, 2), (26, 3), (23, 3), (18, 5), (12, 6), (7, 5)] [n.toNat, r.toNat, w.toNat, m.toNat, x.toNat, a.toNat, d.toNat] = wd from Option.some.inj hEnc] at L
  obtain ⟨lt, ⟨he0, he1, he2, he3, he4, he5, he6, -⟩, keep⟩ := L
  have hk := keep 0 7 (by decide)
  obtain ⟨hz, hl, hr, hi⟩ := major_52 (mod_of_bits hk)
  refine ⟨lt, decodes (zs := []) (ne_of_bits hk (by decide)) (ne_of_bits hk (by decide)) ?_ ?_ ?_ ?_ ?_⟩
  · exact hz
  · exact rfl
  · exact hl
  · rw [hr]
    simp only [fieldAt_of_bits he2]
    simpa [bits, Instr.wellFormed, Instr.zeroFieldsOk, Instr.reserved, Instr.eventOk, Instr.scopeReserved, ← BitVec.toNat_inj] using hw
  · rw [hi, fieldAt_of_bits he0, fieldAt_of_bits he1, fieldAt_of_bits he2, fieldAt_of_bits he3, fieldAt_of_bits he4, fieldAt_of_bits he5, fieldAt_of_bits he6]

theorem vsts (n : BitVec 1) (r : BitVec 2) (w m : BitVec 3) (x : BitVec 5) (a : BitVec 6) (d : BitVec 5) : Statement (.vsts n r w m x a d) := by
  intro hw wd hEnc
  have L := word_layout [(31, 1), (29, 2), (26, 3), (23, 3), (18, 5), (12, 6), (7, 5)] [n.toNat, r.toNat, w.toNat, m.toNat, x.toNat, a.toNat, d.toNat] 0x00000053 (by decide) (by decide) ⟨n.isLt, r.isLt, w.isLt, m.isLt, x.isLt, a.isLt, d.isLt, trivial⟩
  rw [show wordOn 0x00000053 [(31, 1), (29, 2), (26, 3), (23, 3), (18, 5), (12, 6), (7, 5)] [n.toNat, r.toNat, w.toNat, m.toNat, x.toNat, a.toNat, d.toNat] = wd from Option.some.inj hEnc] at L
  obtain ⟨lt, ⟨he0, he1, he2, he3, he4, he5, he6, -⟩, keep⟩ := L
  have hk := keep 0 7 (by decide)
  obtain ⟨hz, hl, hr, hi⟩ := major_53 (mod_of_bits hk)
  refine ⟨lt, decodes (zs := []) (ne_of_bits hk (by decide)) (ne_of_bits hk (by decide)) ?_ ?_ ?_ ?_ ?_⟩
  · exact hz
  · exact rfl
  · exact hl
  · rw [hr]
    simp only [fieldAt_of_bits he2]
    simpa [bits, Instr.wellFormed, Instr.zeroFieldsOk, Instr.reserved, Instr.eventOk, Instr.scopeReserved, ← BitVec.toNat_inj] using hw
  · rw [hi, fieldAt_of_bits he0, fieldAt_of_bits he1, fieldAt_of_bits he2, fieldAt_of_bits he3, fieldAt_of_bits he4, fieldAt_of_bits he5, fieldAt_of_bits he6]

theorem vldx (n : BitVec 1) (r : BitVec 2) (w m : BitVec 3) (x : BitVec 5) (a : BitVec 6) (d : BitVec 5) : Statement (.vldx n r w m x a d) := by
  intro hw wd hEnc
  have L := word_layout [(31, 1), (29, 2), (26, 3), (23, 3), (18, 5), (12, 6), (7, 5)] [n.toNat, r.toNat, w.toNat, m.toNat, x.toNat, a.toNat, d.toNat] 0x00000054 (by decide) (by decide) ⟨n.isLt, r.isLt, w.isLt, m.isLt, x.isLt, a.isLt, d.isLt, trivial⟩
  rw [show wordOn 0x00000054 [(31, 1), (29, 2), (26, 3), (23, 3), (18, 5), (12, 6), (7, 5)] [n.toNat, r.toNat, w.toNat, m.toNat, x.toNat, a.toNat, d.toNat] = wd from Option.some.inj hEnc] at L
  obtain ⟨lt, ⟨he0, he1, he2, he3, he4, he5, he6, -⟩, keep⟩ := L
  have hk := keep 0 7 (by decide)
  obtain ⟨hz, hl, hr, hi⟩ := major_54 (mod_of_bits hk)
  refine ⟨lt, decodes (zs := []) (ne_of_bits hk (by decide)) (ne_of_bits hk (by decide)) ?_ ?_ ?_ ?_ ?_⟩
  · exact hz
  · exact rfl
  · exact hl
  · rw [hr]
    simp only [fieldAt_of_bits he2]
    simpa [bits, Instr.wellFormed, Instr.zeroFieldsOk, Instr.reserved, Instr.eventOk, Instr.scopeReserved, ← BitVec.toNat_inj] using hw
  · rw [hi, fieldAt_of_bits he0, fieldAt_of_bits he1, fieldAt_of_bits he2, fieldAt_of_bits he3, fieldAt_of_bits he4, fieldAt_of_bits he5, fieldAt_of_bits he6]

theorem vstx (n : BitVec 1) (r : BitVec 2) (w m : BitVec 3) (x : BitVec 5) (a : BitVec 6) (d : BitVec 5) : Statement (.vstx n r w m x a d) := by
  intro hw wd hEnc
  have L := word_layout [(31, 1), (29, 2), (26, 3), (23, 3), (18, 5), (12, 6), (7, 5)] [n.toNat, r.toNat, w.toNat, m.toNat, x.toNat, a.toNat, d.toNat] 0x00000055 (by decide) (by decide) ⟨n.isLt, r.isLt, w.isLt, m.isLt, x.isLt, a.isLt, d.isLt, trivial⟩
  rw [show wordOn 0x00000055 [(31, 1), (29, 2), (26, 3), (23, 3), (18, 5), (12, 6), (7, 5)] [n.toNat, r.toNat, w.toNat, m.toNat, x.toNat, a.toNat, d.toNat] = wd from Option.some.inj hEnc] at L
  obtain ⟨lt, ⟨he0, he1, he2, he3, he4, he5, he6, -⟩, keep⟩ := L
  have hk := keep 0 7 (by decide)
  obtain ⟨hz, hl, hr, hi⟩ := major_55 (mod_of_bits hk)
  refine ⟨lt, decodes (zs := []) (ne_of_bits hk (by decide)) (ne_of_bits hk (by decide)) ?_ ?_ ?_ ?_ ?_⟩
  · exact hz
  · exact rfl
  · exact hl
  · rw [hr]
    simp only [fieldAt_of_bits he2]
    simpa [bits, Instr.wellFormed, Instr.zeroFieldsOk, Instr.reserved, Instr.eventOk, Instr.scopeReserved, ← BitVec.toNat_inj] using hw
  · rw [hi, fieldAt_of_bits he0, fieldAt_of_bits he1, fieldAt_of_bits he2, fieldAt_of_bits he3, fieldAt_of_bits he4, fieldAt_of_bits he5, fieldAt_of_bits he6]

theorem vlseg (n : BitVec 1) (r : BitVec 2) (w m : BitVec 3) (x : BitVec 5) (a : BitVec 6) (d : BitVec 5) : Statement (.vlseg n r w m x a d) := by
  intro hw wd hEnc
  have L := word_layout [(31, 1), (29, 2), (26, 3), (23, 3), (18, 5), (12, 6), (7, 5)] [n.toNat, r.toNat, w.toNat, m.toNat, x.toNat, a.toNat, d.toNat] 0x00000056 (by decide) (by decide) ⟨n.isLt, r.isLt, w.isLt, m.isLt, x.isLt, a.isLt, d.isLt, trivial⟩
  rw [show wordOn 0x00000056 [(31, 1), (29, 2), (26, 3), (23, 3), (18, 5), (12, 6), (7, 5)] [n.toNat, r.toNat, w.toNat, m.toNat, x.toNat, a.toNat, d.toNat] = wd from Option.some.inj hEnc] at L
  obtain ⟨lt, ⟨he0, he1, he2, he3, he4, he5, he6, -⟩, keep⟩ := L
  have hk := keep 0 7 (by decide)
  obtain ⟨hz, hl, hr, hi⟩ := major_56 (mod_of_bits hk)
  refine ⟨lt, decodes (zs := []) (ne_of_bits hk (by decide)) (ne_of_bits hk (by decide)) ?_ ?_ ?_ ?_ ?_⟩
  · exact hz
  · exact rfl
  · exact hl
  · rw [hr]
    simp only [he4, fieldAt_of_bits he2]
    simpa [bits, Instr.wellFormed, Instr.zeroFieldsOk, Instr.reserved, Instr.eventOk, Instr.scopeReserved, ← BitVec.toNat_inj] using hw
  · rw [hi, fieldAt_of_bits he0, fieldAt_of_bits he1, fieldAt_of_bits he2, fieldAt_of_bits he3, fieldAt_of_bits he4, fieldAt_of_bits he5, fieldAt_of_bits he6]

theorem vsseg (n : BitVec 1) (r : BitVec 2) (w m : BitVec 3) (x : BitVec 5) (a : BitVec 6) (d : BitVec 5) : Statement (.vsseg n r w m x a d) := by
  intro hw wd hEnc
  have L := word_layout [(31, 1), (29, 2), (26, 3), (23, 3), (18, 5), (12, 6), (7, 5)] [n.toNat, r.toNat, w.toNat, m.toNat, x.toNat, a.toNat, d.toNat] 0x00000057 (by decide) (by decide) ⟨n.isLt, r.isLt, w.isLt, m.isLt, x.isLt, a.isLt, d.isLt, trivial⟩
  rw [show wordOn 0x00000057 [(31, 1), (29, 2), (26, 3), (23, 3), (18, 5), (12, 6), (7, 5)] [n.toNat, r.toNat, w.toNat, m.toNat, x.toNat, a.toNat, d.toNat] = wd from Option.some.inj hEnc] at L
  obtain ⟨lt, ⟨he0, he1, he2, he3, he4, he5, he6, -⟩, keep⟩ := L
  have hk := keep 0 7 (by decide)
  obtain ⟨hz, hl, hr, hi⟩ := major_57 (mod_of_bits hk)
  refine ⟨lt, decodes (zs := []) (ne_of_bits hk (by decide)) (ne_of_bits hk (by decide)) ?_ ?_ ?_ ?_ ?_⟩
  · exact hz
  · exact rfl
  · exact hl
  · rw [hr]
    simp only [he4, fieldAt_of_bits he2]
    simpa [bits, Instr.wellFormed, Instr.zeroFieldsOk, Instr.reserved, Instr.eventOk, Instr.scopeReserved, ← BitVec.toNat_inj] using hw
  · rw [hi, fieldAt_of_bits he0, fieldAt_of_bits he1, fieldAt_of_bits he2, fieldAt_of_bits he3, fieldAt_of_bits he4, fieldAt_of_bits he5, fieldAt_of_bits he6]

theorem lsld (w m : BitVec 3) (x : BitVec 5) (a : BitVec 6) (d : BitVec 5) : Statement (.lsld w m x a d) := by
  intro hw wd hEnc
  have L := word_layout [(26, 3), (23, 3), (18, 5), (12, 6), (7, 5)] [w.toNat, m.toNat, x.toNat, a.toNat, d.toNat] 0x00000058 (by decide) (by decide) ⟨w.isLt, m.isLt, x.isLt, a.isLt, d.isLt, trivial⟩
  rw [show wordOn 0x00000058 [(26, 3), (23, 3), (18, 5), (12, 6), (7, 5)] [w.toNat, m.toNat, x.toNat, a.toNat, d.toNat] = wd from Option.some.inj hEnc] at L
  obtain ⟨lt, ⟨he0, he1, he2, he3, he4, -⟩, keep⟩ := L
  have hk := keep 0 7 (by decide)
  obtain ⟨hz, hl, hr, hi⟩ := major_58 (mod_of_bits hk)
  refine ⟨lt, decodes (zs := [(31, 1)]) (ne_of_bits hk (by decide)) (ne_of_bits hk (by decide)) ?_ ?_ ?_ ?_ ?_⟩
  · exact hz
  · simp only [allZero, List.all_cons, List.all_nil, keep 31 1 (by decide)]; rfl
  · exact hl
  · rw [hr]
    simp only [keep 29 2 (by decide), fieldAt_of_bits he0]
    simpa [bits, Instr.wellFormed, Instr.zeroFieldsOk, Instr.reserved, Instr.eventOk, Instr.scopeReserved, ← BitVec.toNat_inj] using hw
  · rw [hi, fieldAt_of_bits he0, fieldAt_of_bits he1, fieldAt_of_bits he2, fieldAt_of_bits he3, fieldAt_of_bits he4]

theorem lsst (w m : BitVec 3) (x : BitVec 5) (a : BitVec 6) (d : BitVec 5) : Statement (.lsst w m x a d) := by
  intro hw wd hEnc
  have L := word_layout [(26, 3), (23, 3), (18, 5), (12, 6), (7, 5)] [w.toNat, m.toNat, x.toNat, a.toNat, d.toNat] 0x00000059 (by decide) (by decide) ⟨w.isLt, m.isLt, x.isLt, a.isLt, d.isLt, trivial⟩
  rw [show wordOn 0x00000059 [(26, 3), (23, 3), (18, 5), (12, 6), (7, 5)] [w.toNat, m.toNat, x.toNat, a.toNat, d.toNat] = wd from Option.some.inj hEnc] at L
  obtain ⟨lt, ⟨he0, he1, he2, he3, he4, -⟩, keep⟩ := L
  have hk := keep 0 7 (by decide)
  obtain ⟨hz, hl, hr, hi⟩ := major_59 (mod_of_bits hk)
  refine ⟨lt, decodes (zs := [(31, 1)]) (ne_of_bits hk (by decide)) (ne_of_bits hk (by decide)) ?_ ?_ ?_ ?_ ?_⟩
  · exact hz
  · simp only [allZero, List.all_cons, List.all_nil, keep 31 1 (by decide)]; rfl
  · exact hl
  · rw [hr]
    simp only [keep 29 2 (by decide), fieldAt_of_bits he0]
    simpa [bits, Instr.wellFormed, Instr.zeroFieldsOk, Instr.reserved, Instr.eventOk, Instr.scopeReserved, ← BitVec.toNat_inj] using hw
  · rw [hi, fieldAt_of_bits he0, fieldAt_of_bits he1, fieldAt_of_bits he2, fieldAt_of_bits he3, fieldAt_of_bits he4]

theorem vspl (a : BitVec 6) (d : BitVec 5) : Statement (.vspl a d) := by
  intro hw wd hEnc
  have L := word_layout [(12, 6), (7, 5)] [a.toNat, d.toNat] 0x1C00005A (by decide) (by decide) ⟨a.isLt, d.isLt, trivial⟩
  rw [show wordOn 0x1C00005A [(12, 6), (7, 5)] [a.toNat, d.toNat] = wd from Option.some.inj hEnc] at L
  obtain ⟨lt, ⟨he0, he1, -⟩, keep⟩ := L
  have hk := keep 0 7 (by decide)
  obtain ⟨hz, hl, hr, hi⟩ := major_5A (mod_of_bits hk)
  refine ⟨lt, decodes (zs := [(31, 1), (18, 5), (23, 3)]) (ne_of_bits hk (by decide)) (ne_of_bits hk (by decide)) ?_ ?_ ?_ ?_ ?_⟩
  · exact hz
  · simp only [allZero, List.all_cons, List.all_nil, keep 31 1 (by decide), keep 18 5 (by decide), keep 23 3 (by decide)]; rfl
  · exact hl
  · rw [hr]
    simp only [keep 26 3 (by decide), keep 29 2 (by decide)]
    simpa [bits, Instr.wellFormed, Instr.zeroFieldsOk, Instr.reserved, Instr.eventOk, Instr.scopeReserved, ← BitVec.toNat_inj] using hw
  · rw [hi, fieldAt_of_bits he0, fieldAt_of_bits he1]

theorem vfil (a : BitVec 6) (d : BitVec 5) : Statement (.vfil a d) := by
  intro hw wd hEnc
  have L := word_layout [(12, 6), (7, 5)] [a.toNat, d.toNat] 0x1C00005B (by decide) (by decide) ⟨a.isLt, d.isLt, trivial⟩
  rw [show wordOn 0x1C00005B [(12, 6), (7, 5)] [a.toNat, d.toNat] = wd from Option.some.inj hEnc] at L
  obtain ⟨lt, ⟨he0, he1, -⟩, keep⟩ := L
  have hk := keep 0 7 (by decide)
  obtain ⟨hz, hl, hr, hi⟩ := major_5B (mod_of_bits hk)
  refine ⟨lt, decodes (zs := [(31, 1), (18, 5), (23, 3)]) (ne_of_bits hk (by decide)) (ne_of_bits hk (by decide)) ?_ ?_ ?_ ?_ ?_⟩
  · exact hz
  · simp only [allZero, List.all_cons, List.all_nil, keep 31 1 (by decide), keep 18 5 (by decide), keep 23 3 (by decide)]; rfl
  · exact hl
  · rw [hr]
    simp only [keep 26 3 (by decide), keep 29 2 (by decide)]
    simpa [bits, Instr.wellFormed, Instr.zeroFieldsOk, Instr.reserved, Instr.eventOk, Instr.scopeReserved, ← BitVec.toNat_inj] using hw
  · rw [hi, fieldAt_of_bits he0, fieldAt_of_bits he1]

theorem cwb (b a : BitVec 6) : Statement (.cwb b a) := by
  intro _ wd hEnc
  have L := word_layout [(19, 6), (13, 6)] [b.toNat, a.toNat] 0x0000005C (by decide) (by decide) ⟨b.isLt, a.isLt, trivial⟩
  rw [show wordOn 0x0000005C [(19, 6), (13, 6)] [b.toNat, a.toNat] = wd from Option.some.inj hEnc] at L
  obtain ⟨lt, ⟨he0, he1, -⟩, keep⟩ := L
  have hk := keep 0 7 (by decide)
  obtain ⟨hz, hl, hr, hi⟩ := major_5C (mod_of_bits hk)
  have hf := keep 25 7 (by decide)
  refine ⟨lt, decodes (zs := [(7, 6)]) (ne_of_bits hk (by decide)) (ne_of_bits hk (by decide)) ?_ ?_ ?_ ?_ ?_⟩
  · rw [hz, hf]; rfl
  · simp only [allZero, List.all_cons, List.all_nil, keep 7 6 (by decide)]; rfl
  · exact hl
  · exact hr
  · rw [hi, instrCache, hf]
    show some _ = _
    rw [fieldAt_of_bits he0, fieldAt_of_bits he1]

theorem cinv (b a : BitVec 6) : Statement (.cinv b a) := by
  intro _ wd hEnc
  have L := word_layout [(19, 6), (13, 6)] [b.toNat, a.toNat] 0x0200005C (by decide) (by decide) ⟨b.isLt, a.isLt, trivial⟩
  rw [show wordOn 0x0200005C [(19, 6), (13, 6)] [b.toNat, a.toNat] = wd from Option.some.inj hEnc] at L
  obtain ⟨lt, ⟨he0, he1, -⟩, keep⟩ := L
  have hk := keep 0 7 (by decide)
  obtain ⟨hz, hl, hr, hi⟩ := major_5C (mod_of_bits hk)
  have hf := keep 25 7 (by decide)
  refine ⟨lt, decodes (zs := [(7, 6)]) (ne_of_bits hk (by decide)) (ne_of_bits hk (by decide)) ?_ ?_ ?_ ?_ ?_⟩
  · rw [hz, hf]; rfl
  · simp only [allZero, List.all_cons, List.all_nil, keep 7 6 (by decide)]; rfl
  · exact hl
  · exact hr
  · rw [hi, instrCache, hf]
    show some _ = _
    rw [fieldAt_of_bits he0, fieldAt_of_bits he1]

theorem cflush (b a : BitVec 6) : Statement (.cflush b a) := by
  intro _ wd hEnc
  have L := word_layout [(19, 6), (13, 6)] [b.toNat, a.toNat] 0x0400005C (by decide) (by decide) ⟨b.isLt, a.isLt, trivial⟩
  rw [show wordOn 0x0400005C [(19, 6), (13, 6)] [b.toNat, a.toNat] = wd from Option.some.inj hEnc] at L
  obtain ⟨lt, ⟨he0, he1, -⟩, keep⟩ := L
  have hk := keep 0 7 (by decide)
  obtain ⟨hz, hl, hr, hi⟩ := major_5C (mod_of_bits hk)
  have hf := keep 25 7 (by decide)
  refine ⟨lt, decodes (zs := [(7, 6)]) (ne_of_bits hk (by decide)) (ne_of_bits hk (by decide)) ?_ ?_ ?_ ?_ ?_⟩
  · rw [hz, hf]; rfl
  · simp only [allZero, List.all_cons, List.all_nil, keep 7 6 (by decide)]; rfl
  · exact hl
  · exact hr
  · rw [hi, instrCache, hf]
    show some _ = _
    rw [fieldAt_of_bits he0, fieldAt_of_bits he1]

theorem pref (b a : BitVec 6) : Statement (.pref b a) := by
  intro _ wd hEnc
  have L := word_layout [(19, 6), (13, 6)] [b.toNat, a.toNat] 0x0600005C (by decide) (by decide) ⟨b.isLt, a.isLt, trivial⟩
  rw [show wordOn 0x0600005C [(19, 6), (13, 6)] [b.toNat, a.toNat] = wd from Option.some.inj hEnc] at L
  obtain ⟨lt, ⟨he0, he1, -⟩, keep⟩ := L
  have hk := keep 0 7 (by decide)
  obtain ⟨hz, hl, hr, hi⟩ := major_5C (mod_of_bits hk)
  have hf := keep 25 7 (by decide)
  refine ⟨lt, decodes (zs := [(7, 6)]) (ne_of_bits hk (by decide)) (ne_of_bits hk (by decide)) ?_ ?_ ?_ ?_ ?_⟩
  · rw [hz, hf]; rfl
  · simp only [allZero, List.all_cons, List.all_nil, keep 7 6 (by decide)]; rfl
  · exact hl
  · exact hr
  · rw [hi, instrCache, hf]
    show some _ = _
    rw [fieldAt_of_bits he0, fieldAt_of_bits he1]

theorem wayconv (a : BitVec 6) : Statement (.wayconv a) := by
  intro _ wd hEnc
  have L := word_layout [(13, 6)] [a.toNat] 0x0800005C (by decide) (by decide) ⟨a.isLt, trivial⟩
  rw [show wordOn 0x0800005C [(13, 6)] [a.toNat] = wd from Option.some.inj hEnc] at L
  obtain ⟨lt, ⟨he0, -⟩, keep⟩ := L
  have hk := keep 0 7 (by decide)
  obtain ⟨hz, hl, hr, hi⟩ := major_5C (mod_of_bits hk)
  have hf := keep 25 7 (by decide)
  refine ⟨lt, decodes (zs := [(7, 6), (19, 6)]) (ne_of_bits hk (by decide)) (ne_of_bits hk (by decide)) ?_ ?_ ?_ ?_ ?_⟩
  · rw [hz, hf]; rfl
  · simp only [allZero, List.all_cons, List.all_nil, keep 7 6 (by decide), keep 19 6 (by decide)]; rfl
  · exact hl
  · exact hr
  · rw [hi, instrCache, hf]
    show some _ = _
    rw [fieldAt_of_bits he0]

theorem wayrest (a : BitVec 6) : Statement (.wayrest a) := by
  intro _ wd hEnc
  have L := word_layout [(13, 6)] [a.toNat] 0x0A00005C (by decide) (by decide) ⟨a.isLt, trivial⟩
  rw [show wordOn 0x0A00005C [(13, 6)] [a.toNat] = wd from Option.some.inj hEnc] at L
  obtain ⟨lt, ⟨he0, -⟩, keep⟩ := L
  have hk := keep 0 7 (by decide)
  obtain ⟨hz, hl, hr, hi⟩ := major_5C (mod_of_bits hk)
  have hf := keep 25 7 (by decide)
  refine ⟨lt, decodes (zs := [(7, 6), (19, 6)]) (ne_of_bits hk (by decide)) (ne_of_bits hk (by decide)) ?_ ?_ ?_ ?_ ?_⟩
  · rw [hz, hf]; rfl
  · simp only [allZero, List.all_cons, List.all_nil, keep 7 6 (by decide), keep 19 6 (by decide)]; rfl
  · exact hl
  · exact hr
  · rw [hi, instrCache, hf]
    show some _ = _
    rw [fieldAt_of_bits he0]

theorem cflushall : Statement .cflushall := by
  intro _ wd hEnc
  have L := word_layout [] [] 0x0C00005C (by decide) rfl trivial
  rw [show wordOn 0x0C00005C [] [] = wd from Option.some.inj hEnc] at L
  obtain ⟨lt, -, keep⟩ := L
  have hk := keep 0 7 (by decide)
  obtain ⟨hz, hl, hr, hi⟩ := major_5C (mod_of_bits hk)
  have hf := keep 25 7 (by decide)
  refine ⟨lt, decodes (zs := [(7, 18)]) (ne_of_bits hk (by decide)) (ne_of_bits hk (by decide)) ?_ ?_ ?_ ?_ ?_⟩
  · rw [hz, hf]; rfl
  · simp only [allZero, List.all_cons, List.all_nil, keep 7 18 (by decide)]; rfl
  · exact hl
  · exact hr
  · rw [hi, instrCache, hf]
    show some _ = _
    rfl

theorem lvcinv : Statement .lvcinv := by
  intro _ wd hEnc
  have L := word_layout [] [] 0x0E00005C (by decide) rfl trivial
  rw [show wordOn 0x0E00005C [] [] = wd from Option.some.inj hEnc] at L
  obtain ⟨lt, -, keep⟩ := L
  have hk := keep 0 7 (by decide)
  obtain ⟨hz, hl, hr, hi⟩ := major_5C (mod_of_bits hk)
  have hf := keep 25 7 (by decide)
  refine ⟨lt, decodes (zs := [(7, 18)]) (ne_of_bits hk (by decide)) (ne_of_bits hk (by decide)) ?_ ?_ ?_ ?_ ?_⟩
  · rw [hz, hf]; rfl
  · simp only [allZero, List.all_cons, List.all_nil, keep 7 18 (by decide)]; rfl
  · exact hl
  · exact hr
  · rw [hi, instrCache, hf]
    show some _ = _
    rfl

theorem ldtol (m : BitVec 3) (e : BitVec 5) (a : BitVec 6) (d : BitVec 5) : Statement (.ldtol m e a d) := by
  intro hw wd hEnc
  have L := word_layout [(23, 3), (18, 5), (12, 6), (7, 5)] [m.toNat, e.toNat, a.toNat, d.toNat] 0x0800005D (by decide) (by decide) ⟨m.isLt, e.isLt, a.isLt, d.isLt, trivial⟩
  rw [show wordOn 0x0800005D [(23, 3), (18, 5), (12, 6), (7, 5)] [m.toNat, e.toNat, a.toNat, d.toNat] = wd from Option.some.inj hEnc] at L
  obtain ⟨lt, ⟨he0, he1, he2, he3, -⟩, keep⟩ := L
  have hk := keep 0 7 (by decide)
  obtain ⟨hz, hl, hr, hi⟩ := major_5D (mod_of_bits hk)
  refine ⟨lt, decodes (zs := [(31, 1)]) (ne_of_bits hk (by decide)) (ne_of_bits hk (by decide)) ?_ ?_ ?_ ?_ ?_⟩
  · exact hz
  · simp only [allZero, List.all_cons, List.all_nil, keep 31 1 (by decide)]; rfl
  · exact hl
  · rw [hr]
    simp only [keep 26 3 (by decide), keep 29 2 (by decide)]
    simpa [bits, Instr.wellFormed, Instr.zeroFieldsOk, Instr.reserved, Instr.eventOk, Instr.scopeReserved, ← BitVec.toNat_inj] using hw
  · rw [hi, fieldAt_of_bits he0, fieldAt_of_bits he1, fieldAt_of_bits he2, fieldAt_of_bits he3]

theorem qappend (r : BitVec 2) (w m : BitVec 3) (a : BitVec 6) (d : BitVec 5) : Statement (.qappend r w m a d) := by
  intro hw wd hEnc
  have L := word_layout [(29, 2), (26, 3), (23, 3), (12, 6), (7, 5)] [r.toNat, w.toNat, m.toNat, a.toNat, d.toNat] 0x0000005E (by decide) (by decide) ⟨r.isLt, w.isLt, m.isLt, a.isLt, d.isLt, trivial⟩
  rw [show wordOn 0x0000005E [(29, 2), (26, 3), (23, 3), (12, 6), (7, 5)] [r.toNat, w.toNat, m.toNat, a.toNat, d.toNat] = wd from Option.some.inj hEnc] at L
  obtain ⟨lt, ⟨he0, he1, he2, he3, he4, -⟩, keep⟩ := L
  have hk := keep 0 7 (by decide)
  obtain ⟨hz, hl, hr, hi⟩ := major_5E (mod_of_bits hk)
  refine ⟨lt, decodes (zs := [(31, 1), (18, 5)]) (ne_of_bits hk (by decide)) (ne_of_bits hk (by decide)) ?_ ?_ ?_ ?_ ?_⟩
  · exact hz
  · simp only [allZero, List.all_cons, List.all_nil, keep 31 1 (by decide), keep 18 5 (by decide)]; rfl
  · exact hl
  · rw [hr]
    simp only [fieldAt_of_bits he1]
    simpa [bits, Instr.wellFormed, Instr.zeroFieldsOk, Instr.reserved, Instr.eventOk, Instr.scopeReserved, ← BitVec.toNat_inj] using hw
  · rw [hi, fieldAt_of_bits he0, fieldAt_of_bits he1, fieldAt_of_bits he2, fieldAt_of_bits he3, fieldAt_of_bits he4]

theorem fldl (k : BitVec 2) (x : BitVec 6) (d : BitVec 3) : Statement (.fldl k x d) := by
  intro hw wd hEnc
  have L := word_layout [(30, 2), (16, 6), (7, 3)] [k.toNat, x.toNat, d.toNat] 0x00000060 (by decide) (by decide) ⟨k.isLt, x.isLt, d.isLt, trivial⟩
  rw [show wordOn 0x00000060 [(30, 2), (16, 6), (7, 3)] [k.toNat, x.toNat, d.toNat] = wd from Option.some.inj hEnc] at L
  obtain ⟨lt, ⟨he0, he1, he2, -⟩, keep⟩ := L
  have hk := keep 0 7 (by decide)
  obtain ⟨hz, hl, hr, hi⟩ := major_60 (mod_of_bits hk)
  have hf := keep 22 5 (by decide)
  refine ⟨lt, decodes (zs := [(10, 6), (27, 3)]) (ne_of_bits hk (by decide)) (ne_of_bits hk (by decide)) ?_ ?_ ?_ ?_ ?_⟩
  · rw [hz, hf]; rfl
  · simp only [allZero, List.all_cons, List.all_nil, keep 10 6 (by decide), keep 27 3 (by decide)]; rfl
  · exact hl
  · rw [hr]
    simp only [fibreOverlap, he2, keep 10 3 (by decide), keep 13 3 (by decide), keep 22 5 (by decide), he1]
    simpa [bits, Instr.wellFormed, Instr.zeroFieldsOk, Instr.reserved, Instr.eventOk, Instr.scopeReserved, ← BitVec.toNat_inj] using hw
  · rw [hi, instrFib, hf]
    show some _ = _
    rw [fieldAt_of_bits he0, fieldAt_of_bits he1, fieldAt_of_bits he2]

theorem fpack (x : BitVec 5) (d : BitVec 3) : Statement (.fpack x d) := by
  intro hw wd hEnc
  have L := word_layout [(16, 5), (7, 3)] [x.toNat, d.toNat] 0x00400060 (by decide) (by decide) ⟨x.isLt, d.isLt, trivial⟩
  rw [show wordOn 0x00400060 [(16, 5), (7, 3)] [x.toNat, d.toNat] = wd from Option.some.inj hEnc] at L
  obtain ⟨lt, ⟨he0, he1, -⟩, keep⟩ := L
  have hk := keep 0 7 (by decide)
  obtain ⟨hz, hl, hr, hi⟩ := major_60 (mod_of_bits hk)
  have hf := keep 22 5 (by decide)
  refine ⟨lt, decodes (zs := [(10, 6), (21, 1), (27, 5)]) (ne_of_bits hk (by decide)) (ne_of_bits hk (by decide)) ?_ ?_ ?_ ?_ ?_⟩
  · rw [hz, hf]; rfl
  · simp only [allZero, List.all_cons, List.all_nil, keep 10 6 (by decide), keep 21 1 (by decide), keep 27 5 (by decide)]; rfl
  · exact hl
  · rw [hr]
    simp only [fibreOverlap, he1, keep 10 3 (by decide), keep 13 3 (by decide), keep 22 5 (by decide)]
    simpa [bits, Instr.wellFormed, Instr.zeroFieldsOk, Instr.reserved, Instr.eventOk, Instr.scopeReserved, ← BitVec.toNat_inj] using hw
  · rw [hi, instrFib, hf]
    show some _ = _
    rw [fieldAt_of_bits he0, fieldAt_of_bits he1]

theorem fst (k : BitVec 2) (x : BitVec 6) (a : BitVec 3) : Statement (.fst k x a) := by
  intro hw wd hEnc
  have L := word_layout [(30, 2), (16, 6), (10, 3)] [k.toNat, x.toNat, a.toNat] 0x00800060 (by decide) (by decide) ⟨k.isLt, x.isLt, a.isLt, trivial⟩
  rw [show wordOn 0x00800060 [(30, 2), (16, 6), (10, 3)] [k.toNat, x.toNat, a.toNat] = wd from Option.some.inj hEnc] at L
  obtain ⟨lt, ⟨he0, he1, he2, -⟩, keep⟩ := L
  have hk := keep 0 7 (by decide)
  obtain ⟨hz, hl, hr, hi⟩ := major_60 (mod_of_bits hk)
  have hf := keep 22 5 (by decide)
  refine ⟨lt, decodes (zs := [(7, 3), (13, 3), (27, 3)]) (ne_of_bits hk (by decide)) (ne_of_bits hk (by decide)) ?_ ?_ ?_ ?_ ?_⟩
  · rw [hz, hf]; rfl
  · simp only [allZero, List.all_cons, List.all_nil, keep 7 3 (by decide), keep 13 3 (by decide), keep 27 3 (by decide)]; rfl
  · exact hl
  · rw [hr]
    simp only [fibreOverlap, keep 7 3 (by decide), he2, keep 13 3 (by decide), keep 22 5 (by decide), he1]
    simpa [bits, Instr.wellFormed, Instr.zeroFieldsOk, Instr.reserved, Instr.eventOk, Instr.scopeReserved, ← BitVec.toNat_inj] using hw
  · rw [hi, instrFib, hf]
    show some _ = _
    rw [fieldAt_of_bits he0, fieldAt_of_bits he1, fieldAt_of_bits he2]

theorem fisect (c b a d : BitVec 3) : Statement (.fisect c b a d) := by
  intro hw wd hEnc
  have L := word_layout [(27, 3), (13, 3), (10, 3), (7, 3)] [c.toNat, b.toNat, a.toNat, d.toNat] 0x00C00060 (by decide) (by decide) ⟨c.isLt, b.isLt, a.isLt, d.isLt, trivial⟩
  rw [show wordOn 0x00C00060 [(27, 3), (13, 3), (10, 3), (7, 3)] [c.toNat, b.toNat, a.toNat, d.toNat] = wd from Option.some.inj hEnc] at L
  obtain ⟨lt, ⟨he0, he1, he2, he3, -⟩, keep⟩ := L
  have hk := keep 0 7 (by decide)
  obtain ⟨hz, hl, hr, hi⟩ := major_60 (mod_of_bits hk)
  have hf := keep 22 5 (by decide)
  refine ⟨lt, decodes (zs := [(16, 6), (30, 2)]) (ne_of_bits hk (by decide)) (ne_of_bits hk (by decide)) ?_ ?_ ?_ ?_ ?_⟩
  · rw [hz, hf]; rfl
  · simp only [allZero, List.all_cons, List.all_nil, keep 16 6 (by decide), keep 30 2 (by decide)]; rfl
  · exact hl
  · rw [hr]
    simp only [fibreOverlap, he3, he2, he1, keep 22 5 (by decide), keep 16 6 (by decide)]
    simpa [bits, Instr.wellFormed, Instr.zeroFieldsOk, Instr.reserved, Instr.eventOk, Instr.scopeReserved, ← BitVec.toNat_inj] using hw
  · rw [hi, instrFib, hf]
    show some _ = _
    rw [fieldAt_of_bits he0, fieldAt_of_bits he1, fieldAt_of_bits he2, fieldAt_of_bits he3]

theorem funion (c b a d : BitVec 3) : Statement (.funion c b a d) := by
  intro hw wd hEnc
  have L := word_layout [(27, 3), (13, 3), (10, 3), (7, 3)] [c.toNat, b.toNat, a.toNat, d.toNat] 0x01000060 (by decide) (by decide) ⟨c.isLt, b.isLt, a.isLt, d.isLt, trivial⟩
  rw [show wordOn 0x01000060 [(27, 3), (13, 3), (10, 3), (7, 3)] [c.toNat, b.toNat, a.toNat, d.toNat] = wd from Option.some.inj hEnc] at L
  obtain ⟨lt, ⟨he0, he1, he2, he3, -⟩, keep⟩ := L
  have hk := keep 0 7 (by decide)
  obtain ⟨hz, hl, hr, hi⟩ := major_60 (mod_of_bits hk)
  have hf := keep 22 5 (by decide)
  refine ⟨lt, decodes (zs := [(16, 6), (30, 2)]) (ne_of_bits hk (by decide)) (ne_of_bits hk (by decide)) ?_ ?_ ?_ ?_ ?_⟩
  · rw [hz, hf]; rfl
  · simp only [allZero, List.all_cons, List.all_nil, keep 16 6 (by decide), keep 30 2 (by decide)]; rfl
  · exact hl
  · rw [hr]
    simp only [fibreOverlap, he3, he2, he1, keep 22 5 (by decide), keep 16 6 (by decide)]
    simpa [bits, Instr.wellFormed, Instr.zeroFieldsOk, Instr.reserved, Instr.eventOk, Instr.scopeReserved, ← BitVec.toNat_inj] using hw
  · rw [hi, instrFib, hf]
    show some _ = _
    rw [fieldAt_of_bits he0, fieldAt_of_bits he1, fieldAt_of_bits he2, fieldAt_of_bits he3]

theorem fmerge (c b a d : BitVec 3) : Statement (.fmerge c b a d) := by
  intro hw wd hEnc
  have L := word_layout [(27, 3), (13, 3), (10, 3), (7, 3)] [c.toNat, b.toNat, a.toNat, d.toNat] 0x01400060 (by decide) (by decide) ⟨c.isLt, b.isLt, a.isLt, d.isLt, trivial⟩
  rw [show wordOn 0x01400060 [(27, 3), (13, 3), (10, 3), (7, 3)] [c.toNat, b.toNat, a.toNat, d.toNat] = wd from Option.some.inj hEnc] at L
  obtain ⟨lt, ⟨he0, he1, he2, he3, -⟩, keep⟩ := L
  have hk := keep 0 7 (by decide)
  obtain ⟨hz, hl, hr, hi⟩ := major_60 (mod_of_bits hk)
  have hf := keep 22 5 (by decide)
  refine ⟨lt, decodes (zs := [(16, 6), (30, 2)]) (ne_of_bits hk (by decide)) (ne_of_bits hk (by decide)) ?_ ?_ ?_ ?_ ?_⟩
  · rw [hz, hf]; rfl
  · simp only [allZero, List.all_cons, List.all_nil, keep 16 6 (by decide), keep 30 2 (by decide)]; rfl
  · exact hl
  · rw [hr]
    simp only [fibreOverlap, he3, he2, he1, keep 22 5 (by decide), keep 16 6 (by decide)]
    simpa [bits, Instr.wellFormed, Instr.zeroFieldsOk, Instr.reserved, Instr.eventOk, Instr.scopeReserved, ← BitVec.toNat_inj] using hw
  · rw [hi, instrFib, hf]
    show some _ = _
    rw [fieldAt_of_bits he0, fieldAt_of_bits he1, fieldAt_of_bits he2, fieldAt_of_bits he3]

theorem fsort (c a d : BitVec 3) : Statement (.fsort c a d) := by
  intro hw wd hEnc
  have L := word_layout [(27, 3), (10, 3), (7, 3)] [c.toNat, a.toNat, d.toNat] 0x01800060 (by decide) (by decide) ⟨c.isLt, a.isLt, d.isLt, trivial⟩
  rw [show wordOn 0x01800060 [(27, 3), (10, 3), (7, 3)] [c.toNat, a.toNat, d.toNat] = wd from Option.some.inj hEnc] at L
  obtain ⟨lt, ⟨he0, he1, he2, -⟩, keep⟩ := L
  have hk := keep 0 7 (by decide)
  obtain ⟨hz, hl, hr, hi⟩ := major_60 (mod_of_bits hk)
  have hf := keep 22 5 (by decide)
  refine ⟨lt, decodes (zs := [(13, 9), (30, 2)]) (ne_of_bits hk (by decide)) (ne_of_bits hk (by decide)) ?_ ?_ ?_ ?_ ?_⟩
  · rw [hz, hf]; rfl
  · simp only [allZero, List.all_cons, List.all_nil, keep 13 9 (by decide), keep 30 2 (by decide)]; rfl
  · exact hl
  · rw [hr]
    simp only [fibreOverlap, he2, he1, keep 13 3 (by decide), keep 22 5 (by decide), keep 16 6 (by decide)]
    simpa [bits, Instr.wellFormed, Instr.zeroFieldsOk, Instr.reserved, Instr.eventOk, Instr.scopeReserved, ← BitVec.toNat_inj] using hw
  · rw [hi, instrFib, hf]
    show some _ = _
    rw [fieldAt_of_bits he0, fieldAt_of_bits he1, fieldAt_of_bits he2]

theorem fcompact (x : BitVec 6) (a d : BitVec 3) : Statement (.fcompact x a d) := by
  intro hw wd hEnc
  have L := word_layout [(16, 6), (10, 3), (7, 3)] [x.toNat, a.toNat, d.toNat] 0x01C00060 (by decide) (by decide) ⟨x.isLt, a.isLt, d.isLt, trivial⟩
  rw [show wordOn 0x01C00060 [(16, 6), (10, 3), (7, 3)] [x.toNat, a.toNat, d.toNat] = wd from Option.some.inj hEnc] at L
  obtain ⟨lt, ⟨he0, he1, he2, -⟩, keep⟩ := L
  have hk := keep 0 7 (by decide)
  obtain ⟨hz, hl, hr, hi⟩ := major_60 (mod_of_bits hk)
  have hf := keep 22 5 (by decide)
  refine ⟨lt, decodes (zs := [(13, 3), (27, 5)]) (ne_of_bits hk (by decide)) (ne_of_bits hk (by decide)) ?_ ?_ ?_ ?_ ?_⟩
  · rw [hz, hf]; rfl
  · simp only [allZero, List.all_cons, List.all_nil, keep 13 3 (by decide), keep 27 5 (by decide)]; rfl
  · exact hl
  · rw [hr]
    simp only [fibreOverlap, he2, he1, keep 13 3 (by decide), keep 22 5 (by decide), he0]
    simpa [bits, Instr.wellFormed, Instr.zeroFieldsOk, Instr.reserved, Instr.eventOk, Instr.scopeReserved, ← BitVec.toNat_inj] using hw
  · rw [hi, instrFib, hf]
    show some _ = _
    rw [fieldAt_of_bits he0, fieldAt_of_bits he1, fieldAt_of_bits he2]

theorem fexpand (k : BitVec 2) (x : BitVec 5) (a : BitVec 3) : Statement (.fexpand k x a) := by
  intro hw wd hEnc
  have L := word_layout [(30, 2), (16, 5), (10, 3)] [k.toNat, x.toNat, a.toNat] 0x02000060 (by decide) (by decide) ⟨k.isLt, x.isLt, a.isLt, trivial⟩
  rw [show wordOn 0x02000060 [(30, 2), (16, 5), (10, 3)] [k.toNat, x.toNat, a.toNat] = wd from Option.some.inj hEnc] at L
  obtain ⟨lt, ⟨he0, he1, he2, -⟩, keep⟩ := L
  have hk := keep 0 7 (by decide)
  obtain ⟨hz, hl, hr, hi⟩ := major_60 (mod_of_bits hk)
  have hf := keep 22 5 (by decide)
  refine ⟨lt, decodes (zs := [(7, 3), (13, 3), (21, 1), (27, 3)]) (ne_of_bits hk (by decide)) (ne_of_bits hk (by decide)) ?_ ?_ ?_ ?_ ?_⟩
  · rw [hz, hf]; rfl
  · simp only [allZero, List.all_cons, List.all_nil, keep 7 3 (by decide), keep 13 3 (by decide), keep 21 1 (by decide), keep 27 3 (by decide)]; rfl
  · exact hl
  · rw [hr]
    simp only [fibreOverlap, keep 7 3 (by decide), he2, keep 13 3 (by decide), keep 22 5 (by decide)]
    simpa [bits, Instr.wellFormed, Instr.zeroFieldsOk, Instr.reserved, Instr.eventOk, Instr.scopeReserved, ← BitVec.toNat_inj] using hw
  · rw [hi, instrFib, hf]
    show some _ = _
    rw [fieldAt_of_bits he0, fieldAt_of_bits he1, fieldAt_of_bits he2]

theorem fgather (k : BitVec 2) (x : BitVec 5) (a d : BitVec 3) : Statement (.fgather k x a d) := by
  intro hw wd hEnc
  have L := word_layout [(30, 2), (16, 5), (10, 3), (7, 3)] [k.toNat, x.toNat, a.toNat, d.toNat] 0x02400060 (by decide) (by decide) ⟨k.isLt, x.isLt, a.isLt, d.isLt, trivial⟩
  rw [show wordOn 0x02400060 [(30, 2), (16, 5), (10, 3), (7, 3)] [k.toNat, x.toNat, a.toNat, d.toNat] = wd from Option.some.inj hEnc] at L
  obtain ⟨lt, ⟨he0, he1, he2, he3, -⟩, keep⟩ := L
  have hk := keep 0 7 (by decide)
  obtain ⟨hz, hl, hr, hi⟩ := major_60 (mod_of_bits hk)
  have hf := keep 22 5 (by decide)
  refine ⟨lt, decodes (zs := [(13, 3), (21, 1), (27, 3)]) (ne_of_bits hk (by decide)) (ne_of_bits hk (by decide)) ?_ ?_ ?_ ?_ ?_⟩
  · rw [hz, hf]; rfl
  · simp only [allZero, List.all_cons, List.all_nil, keep 13 3 (by decide), keep 21 1 (by decide), keep 27 3 (by decide)]; rfl
  · exact hl
  · rw [hr]
    simp only [fibreOverlap, he3, he2, keep 13 3 (by decide), keep 22 5 (by decide)]
    simpa [bits, Instr.wellFormed, Instr.zeroFieldsOk, Instr.reserved, Instr.eventOk, Instr.scopeReserved, ← BitVec.toNat_inj] using hw
  · rw [hi, instrFib, hf]
    show some _ = _
    rw [fieldAt_of_bits he0, fieldAt_of_bits he1, fieldAt_of_bits he2, fieldAt_of_bits he3]

theorem fscat (k : BitVec 2) (x : BitVec 6) (a : BitVec 3) : Statement (.fscat k x a) := by
  intro hw wd hEnc
  have L := word_layout [(30, 2), (16, 6), (10, 3)] [k.toNat, x.toNat, a.toNat] 0x02800060 (by decide) (by decide) ⟨k.isLt, x.isLt, a.isLt, trivial⟩
  rw [show wordOn 0x02800060 [(30, 2), (16, 6), (10, 3)] [k.toNat, x.toNat, a.toNat] = wd from Option.some.inj hEnc] at L
  obtain ⟨lt, ⟨he0, he1, he2, -⟩, keep⟩ := L
  have hk := keep 0 7 (by decide)
  obtain ⟨hz, hl, hr, hi⟩ := major_60 (mod_of_bits hk)
  have hf := keep 22 5 (by decide)
  refine ⟨lt, decodes (zs := [(7, 3), (13, 3), (27, 3)]) (ne_of_bits hk (by decide)) (ne_of_bits hk (by decide)) ?_ ?_ ?_ ?_ ?_⟩
  · rw [hz, hf]; rfl
  · simp only [allZero, List.all_cons, List.all_nil, keep 7 3 (by decide), keep 13 3 (by decide), keep 27 3 (by decide)]; rfl
  · exact hl
  · rw [hr]
    simp only [fibreOverlap, keep 7 3 (by decide), he2, keep 13 3 (by decide), keep 22 5 (by decide), he1]
    simpa [bits, Instr.wellFormed, Instr.zeroFieldsOk, Instr.reserved, Instr.eventOk, Instr.scopeReserved, ← BitVec.toNat_inj] using hw
  · rw [hi, instrFib, hf]
    show some _ = _
    rw [fieldAt_of_bits he0, fieldAt_of_bits he1, fieldAt_of_bits he2]

theorem fmapv (k : BitVec 2) (x : BitVec 5) (a d : BitVec 3) : Statement (.fmapv k x a d) := by
  intro hw wd hEnc
  have L := word_layout [(30, 2), (16, 5), (10, 3), (7, 3)] [k.toNat, x.toNat, a.toNat, d.toNat] 0x02C00060 (by decide) (by decide) ⟨k.isLt, x.isLt, a.isLt, d.isLt, trivial⟩
  rw [show wordOn 0x02C00060 [(30, 2), (16, 5), (10, 3), (7, 3)] [k.toNat, x.toNat, a.toNat, d.toNat] = wd from Option.some.inj hEnc] at L
  obtain ⟨lt, ⟨he0, he1, he2, he3, -⟩, keep⟩ := L
  have hk := keep 0 7 (by decide)
  obtain ⟨hz, hl, hr, hi⟩ := major_60 (mod_of_bits hk)
  have hf := keep 22 5 (by decide)
  refine ⟨lt, decodes (zs := [(13, 3), (21, 1), (27, 3)]) (ne_of_bits hk (by decide)) (ne_of_bits hk (by decide)) ?_ ?_ ?_ ?_ ?_⟩
  · rw [hz, hf]; rfl
  · simp only [allZero, List.all_cons, List.all_nil, keep 13 3 (by decide), keep 21 1 (by decide), keep 27 3 (by decide)]; rfl
  · exact hl
  · rw [hr]
    simp only [fibreOverlap, he3, he2, keep 13 3 (by decide), keep 22 5 (by decide)]
    simpa [bits, Instr.wellFormed, Instr.zeroFieldsOk, Instr.reserved, Instr.eventOk, Instr.scopeReserved, ← BitVec.toNat_inj] using hw
  · rw [hi, instrFib, hf]
    show some _ = _
    rw [fieldAt_of_bits he0, fieldAt_of_bits he1, fieldAt_of_bits he2, fieldAt_of_bits he3]

theorem flen (x : BitVec 6) (a : BitVec 3) : Statement (.flen x a) := by
  intro hw wd hEnc
  have L := word_layout [(16, 6), (10, 3)] [x.toNat, a.toNat] 0x03000060 (by decide) (by decide) ⟨x.isLt, a.isLt, trivial⟩
  rw [show wordOn 0x03000060 [(16, 6), (10, 3)] [x.toNat, a.toNat] = wd from Option.some.inj hEnc] at L
  obtain ⟨lt, ⟨he0, he1, -⟩, keep⟩ := L
  have hk := keep 0 7 (by decide)
  obtain ⟨hz, hl, hr, hi⟩ := major_60 (mod_of_bits hk)
  have hf := keep 22 5 (by decide)
  refine ⟨lt, decodes (zs := [(7, 3), (13, 3), (27, 5)]) (ne_of_bits hk (by decide)) (ne_of_bits hk (by decide)) ?_ ?_ ?_ ?_ ?_⟩
  · rw [hz, hf]; rfl
  · simp only [allZero, List.all_cons, List.all_nil, keep 7 3 (by decide), keep 13 3 (by decide), keep 27 5 (by decide)]; rfl
  · exact hl
  · rw [hr]
    simp only [fibreOverlap, keep 7 3 (by decide), he1, keep 13 3 (by decide), keep 22 5 (by decide), he0]
    simpa [bits, Instr.wellFormed, Instr.zeroFieldsOk, Instr.reserved, Instr.eventOk, Instr.scopeReserved, ← BitVec.toNat_inj] using hw
  · rw [hi, instrFib, hf]
    show some _ = _
    rw [fieldAt_of_bits he0, fieldAt_of_bits he1]

theorem fcoord (x : BitVec 5) (a : BitVec 3) : Statement (.fcoord x a) := by
  intro hw wd hEnc
  have L := word_layout [(16, 5), (10, 3)] [x.toNat, a.toNat] 0x03400060 (by decide) (by decide) ⟨x.isLt, a.isLt, trivial⟩
  rw [show wordOn 0x03400060 [(16, 5), (10, 3)] [x.toNat, a.toNat] = wd from Option.some.inj hEnc] at L
  obtain ⟨lt, ⟨he0, he1, -⟩, keep⟩ := L
  have hk := keep 0 7 (by decide)
  obtain ⟨hz, hl, hr, hi⟩ := major_60 (mod_of_bits hk)
  have hf := keep 22 5 (by decide)
  refine ⟨lt, decodes (zs := [(7, 3), (13, 3), (21, 1), (27, 5)]) (ne_of_bits hk (by decide)) (ne_of_bits hk (by decide)) ?_ ?_ ?_ ?_ ?_⟩
  · rw [hz, hf]; rfl
  · simp only [allZero, List.all_cons, List.all_nil, keep 7 3 (by decide), keep 13 3 (by decide), keep 21 1 (by decide), keep 27 5 (by decide)]; rfl
  · exact hl
  · rw [hr]
    simp only [fibreOverlap, keep 7 3 (by decide), he1, keep 13 3 (by decide), keep 22 5 (by decide)]
    simpa [bits, Instr.wellFormed, Instr.zeroFieldsOk, Instr.reserved, Instr.eventOk, Instr.scopeReserved, ← BitVec.toNat_inj] using hw
  · rw [hi, instrFib, hf]
    show some _ = _
    rw [fieldAt_of_bits he0, fieldAt_of_bits he1]

theorem fvals (k : BitVec 2) (x : BitVec 5) (a : BitVec 3) : Statement (.fvals k x a) := by
  intro hw wd hEnc
  have L := word_layout [(30, 2), (16, 5), (10, 3)] [k.toNat, x.toNat, a.toNat] 0x03800060 (by decide) (by decide) ⟨k.isLt, x.isLt, a.isLt, trivial⟩
  rw [show wordOn 0x03800060 [(30, 2), (16, 5), (10, 3)] [k.toNat, x.toNat, a.toNat] = wd from Option.some.inj hEnc] at L
  obtain ⟨lt, ⟨he0, he1, he2, -⟩, keep⟩ := L
  have hk := keep 0 7 (by decide)
  obtain ⟨hz, hl, hr, hi⟩ := major_60 (mod_of_bits hk)
  have hf := keep 22 5 (by decide)
  refine ⟨lt, decodes (zs := [(7, 3), (13, 3), (21, 1), (27, 3)]) (ne_of_bits hk (by decide)) (ne_of_bits hk (by decide)) ?_ ?_ ?_ ?_ ?_⟩
  · rw [hz, hf]; rfl
  · simp only [allZero, List.all_cons, List.all_nil, keep 7 3 (by decide), keep 13 3 (by decide), keep 21 1 (by decide), keep 27 3 (by decide)]; rfl
  · exact hl
  · rw [hr]
    simp only [fibreOverlap, keep 7 3 (by decide), he2, keep 13 3 (by decide), keep 22 5 (by decide)]
    simpa [bits, Instr.wellFormed, Instr.zeroFieldsOk, Instr.reserved, Instr.eventOk, Instr.scopeReserved, ← BitVec.toNat_inj] using hw
  · rw [hi, instrFib, hf]
    show some _ = _
    rw [fieldAt_of_bits he0, fieldAt_of_bits he1, fieldAt_of_bits he2]

theorem fsplit (x : BitVec 6) (a d : BitVec 3) : Statement (.fsplit x a d) := by
  intro hw wd hEnc
  have L := word_layout [(16, 6), (10, 3), (7, 3)] [x.toNat, a.toNat, d.toNat] 0x03C00060 (by decide) (by decide) ⟨x.isLt, a.isLt, d.isLt, trivial⟩
  rw [show wordOn 0x03C00060 [(16, 6), (10, 3), (7, 3)] [x.toNat, a.toNat, d.toNat] = wd from Option.some.inj hEnc] at L
  obtain ⟨lt, ⟨he0, he1, he2, -⟩, keep⟩ := L
  have hk := keep 0 7 (by decide)
  obtain ⟨hz, hl, hr, hi⟩ := major_60 (mod_of_bits hk)
  have hf := keep 22 5 (by decide)
  refine ⟨lt, decodes (zs := [(13, 3), (27, 5)]) (ne_of_bits hk (by decide)) (ne_of_bits hk (by decide)) ?_ ?_ ?_ ?_ ?_⟩
  · rw [hz, hf]; rfl
  · simp only [allZero, List.all_cons, List.all_nil, keep 13 3 (by decide), keep 27 5 (by decide)]; rfl
  · exact hl
  · rw [hr]
    simp only [fibreOverlap, he2, he1, keep 13 3 (by decide), keep 22 5 (by decide), he0]
    simpa [bits, Instr.wellFormed, Instr.zeroFieldsOk, Instr.reserved, Instr.eventOk, Instr.scopeReserved, ← BitVec.toNat_inj] using hw
  · rw [hi, instrFib, hf]
    show some _ = _
    rw [fieldAt_of_bits he0, fieldAt_of_bits he1, fieldAt_of_bits he2]

theorem fclr (d : BitVec 3) : Statement (.fclr d) := by
  intro hw wd hEnc
  have L := word_layout [(7, 3)] [d.toNat] 0x04000060 (by decide) (by decide) ⟨d.isLt, trivial⟩
  rw [show wordOn 0x04000060 [(7, 3)] [d.toNat] = wd from Option.some.inj hEnc] at L
  obtain ⟨lt, ⟨he0, -⟩, keep⟩ := L
  have hk := keep 0 7 (by decide)
  obtain ⟨hz, hl, hr, hi⟩ := major_60 (mod_of_bits hk)
  have hf := keep 22 5 (by decide)
  refine ⟨lt, decodes (zs := [(10, 12), (27, 5)]) (ne_of_bits hk (by decide)) (ne_of_bits hk (by decide)) ?_ ?_ ?_ ?_ ?_⟩
  · rw [hz, hf]; rfl
  · simp only [allZero, List.all_cons, List.all_nil, keep 10 12 (by decide), keep 27 5 (by decide)]; rfl
  · exact hl
  · rw [hr]
    simp only [fibreOverlap, he0, keep 10 3 (by decide), keep 13 3 (by decide), keep 22 5 (by decide), keep 16 6 (by decide)]
    simpa [bits, Instr.wellFormed, Instr.zeroFieldsOk, Instr.reserved, Instr.eventOk, Instr.scopeReserved, ← BitVec.toNat_inj] using hw
  · rw [hi, instrFib, hf]
    show some _ = _
    rw [fieldAt_of_bits he0]

theorem fldf (k : BitVec 2) (x : BitVec 6) (d : BitVec 3) : Statement (.fldf k x d) := by
  intro hw wd hEnc
  have L := word_layout [(30, 2), (16, 6), (7, 3)] [k.toNat, x.toNat, d.toNat] 0x04400060 (by decide) (by decide) ⟨k.isLt, x.isLt, d.isLt, trivial⟩
  rw [show wordOn 0x04400060 [(30, 2), (16, 6), (7, 3)] [k.toNat, x.toNat, d.toNat] = wd from Option.some.inj hEnc] at L
  obtain ⟨lt, ⟨he0, he1, he2, -⟩, keep⟩ := L
  have hk := keep 0 7 (by decide)
  obtain ⟨hz, hl, hr, hi⟩ := major_60 (mod_of_bits hk)
  have hf := keep 22 5 (by decide)
  refine ⟨lt, decodes (zs := [(10, 6), (27, 3)]) (ne_of_bits hk (by decide)) (ne_of_bits hk (by decide)) ?_ ?_ ?_ ?_ ?_⟩
  · rw [hz, hf]; rfl
  · simp only [allZero, List.all_cons, List.all_nil, keep 10 6 (by decide), keep 27 3 (by decide)]; rfl
  · exact hl
  · rw [hr]
    simp only [fibreOverlap, he2, keep 10 3 (by decide), keep 13 3 (by decide), keep 22 5 (by decide), he1]
    simpa [bits, Instr.wellFormed, Instr.zeroFieldsOk, Instr.reserved, Instr.eventOk, Instr.scopeReserved, ← BitVec.toNat_inj] using hw
  · rw [hi, instrFib, hf]
    show some _ = _
    rw [fieldAt_of_bits he0, fieldAt_of_bits he1, fieldAt_of_bits he2]

theorem fcombine (c a d : BitVec 3) : Statement (.fcombine c a d) := by
  intro hw wd hEnc
  have L := word_layout [(27, 3), (10, 3), (7, 3)] [c.toNat, a.toNat, d.toNat] 0x04800060 (by decide) (by decide) ⟨c.isLt, a.isLt, d.isLt, trivial⟩
  rw [show wordOn 0x04800060 [(27, 3), (10, 3), (7, 3)] [c.toNat, a.toNat, d.toNat] = wd from Option.some.inj hEnc] at L
  obtain ⟨lt, ⟨he0, he1, he2, -⟩, keep⟩ := L
  have hk := keep 0 7 (by decide)
  obtain ⟨hz, hl, hr, hi⟩ := major_60 (mod_of_bits hk)
  have hf := keep 22 5 (by decide)
  refine ⟨lt, decodes (zs := [(13, 9), (30, 2)]) (ne_of_bits hk (by decide)) (ne_of_bits hk (by decide)) ?_ ?_ ?_ ?_ ?_⟩
  · rw [hz, hf]; rfl
  · simp only [allZero, List.all_cons, List.all_nil, keep 13 9 (by decide), keep 30 2 (by decide)]; rfl
  · exact hl
  · rw [hr]
    simp only [fibreOverlap, he2, he1, keep 13 3 (by decide), keep 22 5 (by decide), keep 16 6 (by decide)]
    simpa [bits, Instr.wellFormed, Instr.zeroFieldsOk, Instr.reserved, Instr.eventOk, Instr.scopeReserved, ← BitVec.toNat_inj] using hw
  · rw [hi, instrFib, hf]
    show some _ = _
    rw [fieldAt_of_bits he0, fieldAt_of_bits he1, fieldAt_of_bits he2]

theorem fpref (x : BitVec 6) : Statement (.fpref x) := by
  intro hw wd hEnc
  have L := word_layout [(16, 6)] [x.toNat] 0x00000061 (by decide) (by decide) ⟨x.isLt, trivial⟩
  rw [show wordOn 0x00000061 [(16, 6)] [x.toNat] = wd from Option.some.inj hEnc] at L
  obtain ⟨lt, ⟨he0, -⟩, keep⟩ := L
  have hk := keep 0 7 (by decide)
  obtain ⟨hz, hl, hr, hi⟩ := major_61 (mod_of_bits hk)
  have hf := keep 22 5 (by decide)
  refine ⟨lt, decodes (zs := [(7, 9), (27, 5)]) (ne_of_bits hk (by decide)) (ne_of_bits hk (by decide)) ?_ ?_ ?_ ?_ ?_⟩
  · rw [hz, hf]; rfl
  · simp only [allZero, List.all_cons, List.all_nil, keep 7 9 (by decide), keep 27 5 (by decide)]; rfl
  · exact hl
  · rw [hr]
    simp only [he0]
    simpa [bits, Instr.wellFormed, Instr.zeroFieldsOk, Instr.reserved, Instr.eventOk, Instr.scopeReserved, ← BitVec.toNat_inj] using hw
  · rw [hi, instrFpref, hf]
    show some _ = _
    rw [fieldAt_of_bits he0]

theorem fprefStreamFetch (strand : Nat) : Statement (.fprefStreamFetch strand) := fun _ _ h => nomatch h

theorem fsend (x : BitVec 6) (a : BitVec 3) : Statement (.fsend x a) := by
  intro hw wd hEnc
  have L := word_layout [(16, 6), (10, 3)] [x.toNat, a.toNat] 0x00000062 (by decide) (by decide) ⟨x.isLt, a.isLt, trivial⟩
  rw [show wordOn 0x00000062 [(16, 6), (10, 3)] [x.toNat, a.toNat] = wd from Option.some.inj hEnc] at L
  obtain ⟨lt, ⟨he0, he1, -⟩, keep⟩ := L
  have hk := keep 0 7 (by decide)
  obtain ⟨hz, hl, hr, hi⟩ := major_62 (mod_of_bits hk)
  have hf := keep 22 5 (by decide)
  refine ⟨lt, decodes (zs := [(7, 3), (13, 3), (27, 5)]) (ne_of_bits hk (by decide)) (ne_of_bits hk (by decide)) ?_ ?_ ?_ ?_ ?_⟩
  · rw [hz, hf]; rfl
  · simp only [allZero, List.all_cons, List.all_nil, keep 7 3 (by decide), keep 13 3 (by decide), keep 27 5 (by decide)]; rfl
  · exact hl
  · rw [hr]
    simp only [keep 22 5 (by decide), keep 7 3 (by decide), he1]
    simpa [bits, Instr.wellFormed, Instr.zeroFieldsOk, Instr.reserved, Instr.eventOk, Instr.scopeReserved, ← BitVec.toNat_inj] using hw
  · rw [hi, instrFmsg, hf]
    show some _ = _
    rw [fieldAt_of_bits he0, fieldAt_of_bits he1]

theorem fsendReservationGrant (receiver : Nat) : Statement (.fsendReservationGrant receiver) := fun _ _ h => nomatch h

theorem fibreMessageArrival (receiver : Nat) : Statement (.fibreMessageArrival receiver) := fun _ _ h => nomatch h

theorem frecv (k : BitVec 2) (c : BitVec 3) (x : BitVec 6) (a d : BitVec 3) : Statement (.frecv k c x a d) := by
  intro hw wd hEnc
  have L := word_layout [(30, 2), (27, 3), (16, 6), (10, 3), (7, 3)] [k.toNat, c.toNat, x.toNat, a.toNat, d.toNat] 0x00400062 (by decide) (by decide) ⟨k.isLt, c.isLt, x.isLt, a.isLt, d.isLt, trivial⟩
  rw [show wordOn 0x00400062 [(30, 2), (27, 3), (16, 6), (10, 3), (7, 3)] [k.toNat, c.toNat, x.toNat, a.toNat, d.toNat] = wd from Option.some.inj hEnc] at L
  obtain ⟨lt, ⟨he0, he1, he2, he3, he4, -⟩, keep⟩ := L
  have hk := keep 0 7 (by decide)
  obtain ⟨hz, hl, hr, hi⟩ := major_62 (mod_of_bits hk)
  have hf := keep 22 5 (by decide)
  refine ⟨lt, decodes (zs := [(13, 3)]) (ne_of_bits hk (by decide)) (ne_of_bits hk (by decide)) ?_ ?_ ?_ ?_ ?_⟩
  · rw [hz, hf]; rfl
  · simp only [allZero, List.all_cons, List.all_nil, keep 13 3 (by decide)]; rfl
  · exact hl
  · rw [hr]
    simp only [keep 22 5 (by decide), he4, he3]
    simpa [bits, Instr.wellFormed, Instr.zeroFieldsOk, Instr.reserved, Instr.eventOk, Instr.scopeReserved, ← BitVec.toNat_inj] using hw
  · rw [hi, instrFmsg, hf]
    show some _ = _
    rw [fieldAt_of_bits he0, fieldAt_of_bits he1, fieldAt_of_bits he2, fieldAt_of_bits he3, fieldAt_of_bits he4]

theorem jclm (s : BitVec 6) (j : BitVec 4) : Statement (.jclm s j) := by
  intro _ wd hEnc
  have L := word_layout [(16, 6), (7, 4)] [s.toNat, j.toNat] 0x00000068 (by decide) (by decide) ⟨s.isLt, j.isLt, trivial⟩
  rw [show wordOn 0x00000068 [(16, 6), (7, 4)] [s.toNat, j.toNat] = wd from Option.some.inj hEnc] at L
  obtain ⟨lt, ⟨he0, he1, -⟩, keep⟩ := L
  have hk := keep 0 7 (by decide)
  obtain ⟨hz, hl, hr, hi⟩ := major_68 (mod_of_bits hk)
  have hf := keep 11 1 (by decide)
  refine ⟨lt, decodes (zs := [(12, 4), (22, 10)]) (ne_of_bits hk (by decide)) (ne_of_bits hk (by decide)) ?_ ?_ ?_ ?_ ?_⟩
  · rw [hz, hf]; rfl
  · simp only [allZero, List.all_cons, List.all_nil, keep 12 4 (by decide), keep 22 10 (by decide)]; rfl
  · exact hl
  · exact hr
  · rw [hi, instrJclm, hf]
    show some _ = _
    rw [fieldAt_of_bits he0, fieldAt_of_bits he1]

theorem jclmAny (s : BitVec 6) : Statement (.jclmAny s) := by
  intro _ wd hEnc
  have L := word_layout [(16, 6)] [s.toNat] 0x00000868 (by decide) (by decide) ⟨s.isLt, trivial⟩
  rw [show wordOn 0x00000868 [(16, 6)] [s.toNat] = wd from Option.some.inj hEnc] at L
  obtain ⟨lt, ⟨he0, -⟩, keep⟩ := L
  have hk := keep 0 7 (by decide)
  obtain ⟨hz, hl, hr, hi⟩ := major_68 (mod_of_bits hk)
  have hf := keep 11 1 (by decide)
  refine ⟨lt, decodes (zs := [(7, 4), (12, 4), (22, 10)]) (ne_of_bits hk (by decide)) (ne_of_bits hk (by decide)) ?_ ?_ ?_ ?_ ?_⟩
  · rw [hz, hf]; rfl
  · simp only [allZero, List.all_cons, List.all_nil, keep 7 4 (by decide), keep 12 4 (by decide), keep 22 10 (by decide)]; rfl
  · exact hl
  · exact hr
  · rw [hi, instrJclm, hf]
    show some _ = _
    rw [fieldAt_of_bits he0]

theorem jrel (j : BitVec 4) : Statement (.jrel j) := by
  intro _ wd hEnc
  have L := word_layout [(7, 4)] [j.toNat] 0x00000069 (by decide) (by decide) ⟨j.isLt, trivial⟩
  rw [show wordOn 0x00000069 [(7, 4)] [j.toNat] = wd from Option.some.inj hEnc] at L
  obtain ⟨lt, ⟨he0, -⟩, keep⟩ := L
  have hk := keep 0 7 (by decide)
  obtain ⟨hz, hl, hr, hi⟩ := major_69 (mod_of_bits hk)
  refine ⟨lt, decodes (zs := [(11, 21)]) (ne_of_bits hk (by decide)) (ne_of_bits hk (by decide)) ?_ ?_ ?_ ?_ ?_⟩
  · exact hz
  · simp only [allZero, List.all_cons, List.all_nil, keep 11 21 (by decide)]; rfl
  · exact hl
  · exact hr
  · rw [hi, fieldAt_of_bits he0]

theorem jld (p : BitVec 1) (c : BitVec 5) (s : BitVec 6) (v : BitVec 5) (j : BitVec 4) : Statement (.jld p c s v j) := by
  intro hw wd hEnc
  have L := word_layout [(27, 1), (22, 5), (16, 6), (11, 5), (7, 4)] [p.toNat, c.toNat, s.toNat, v.toNat, j.toNat] 0x0000006A (by decide) (by decide) ⟨p.isLt, c.isLt, s.isLt, v.isLt, j.isLt, trivial⟩
  rw [show wordOn 0x0000006A [(27, 1), (22, 5), (16, 6), (11, 5), (7, 4)] [p.toNat, c.toNat, s.toNat, v.toNat, j.toNat] = wd from Option.some.inj hEnc] at L
  obtain ⟨lt, ⟨he0, he1, he2, he3, he4, -⟩, keep⟩ := L
  have hk := keep 0 7 (by decide)
  obtain ⟨hz, hl, hr, hi⟩ := major_6A (mod_of_bits hk)
  refine ⟨lt, decodes (zs := [(28, 4)]) (ne_of_bits hk (by decide)) (ne_of_bits hk (by decide)) ?_ ?_ ?_ ?_ ?_⟩
  · exact hz
  · simp only [allZero, List.all_cons, List.all_nil, keep 28 4 (by decide)]; rfl
  · rw [hl, he0, he1]
    simpa [Instr.wellFormed, Instr.zeroFieldsOk, Instr.reserved, Instr.eventOk, ← BitVec.toNat_inj] using hw
  · exact hr
  · rw [hi, fieldAt_of_bits he0, fieldAt_of_bits he1, fieldAt_of_bits he2, fieldAt_of_bits he3, fieldAt_of_bits he4]

theorem jfil (s : BitVec 6) (j : BitVec 4) : Statement (.jfil s j) := by
  intro hw wd hEnc
  have L := word_layout [(16, 6), (7, 4)] [s.toNat, j.toNat] 0x0000006B (by decide) (by decide) ⟨s.isLt, j.isLt, trivial⟩
  rw [show wordOn 0x0000006B [(16, 6), (7, 4)] [s.toNat, j.toNat] = wd from Option.some.inj hEnc] at L
  obtain ⟨lt, ⟨he0, he1, -⟩, keep⟩ := L
  have hk := keep 0 7 (by decide)
  obtain ⟨hz, hl, hr, hi⟩ := major_6B (mod_of_bits hk)
  have hf := keep 27 1 (by decide)
  refine ⟨lt, decodes (zs := [(11, 5), (22, 5), (28, 4)]) (ne_of_bits hk (by decide)) (ne_of_bits hk (by decide)) ?_ ?_ ?_ ?_ ?_⟩
  · rw [hz, hf]; rfl
  · simp only [allZero, List.all_cons, List.all_nil, keep 11 5 (by decide), keep 22 5 (by decide), keep 28 4 (by decide)]; rfl
  · exact hl
  · rw [hr]
    simp only [he0]
    simpa [bits, Instr.wellFormed, Instr.zeroFieldsOk, Instr.reserved, Instr.eventOk, Instr.scopeReserved, ← BitVec.toNat_inj] using hw
  · rw [hi, instrJfil, hf]
    show some _ = _
    rw [fieldAt_of_bits he0, fieldAt_of_bits he1]

theorem jfilGather (s : BitVec 6) (v : BitVec 5) (j : BitVec 4) : Statement (.jfilGather s v j) := by
  intro hw wd hEnc
  have L := word_layout [(16, 6), (11, 5), (7, 4)] [s.toNat, v.toNat, j.toNat] 0x0800006B (by decide) (by decide) ⟨s.isLt, v.isLt, j.isLt, trivial⟩
  rw [show wordOn 0x0800006B [(16, 6), (11, 5), (7, 4)] [s.toNat, v.toNat, j.toNat] = wd from Option.some.inj hEnc] at L
  obtain ⟨lt, ⟨he0, he1, he2, -⟩, keep⟩ := L
  have hk := keep 0 7 (by decide)
  obtain ⟨hz, hl, hr, hi⟩ := major_6B (mod_of_bits hk)
  have hf := keep 27 1 (by decide)
  refine ⟨lt, decodes (zs := [(22, 5), (28, 4)]) (ne_of_bits hk (by decide)) (ne_of_bits hk (by decide)) ?_ ?_ ?_ ?_ ?_⟩
  · rw [hz, hf]; rfl
  · simp only [allZero, List.all_cons, List.all_nil, keep 22 5 (by decide), keep 28 4 (by decide)]; rfl
  · exact hl
  · rw [hr]
    simp only [he0]
    simpa [bits, Instr.wellFormed, Instr.zeroFieldsOk, Instr.reserved, Instr.eventOk, Instr.scopeReserved, ← BitVec.toNat_inj] using hw
  · rw [hi, instrJfil, hf]
    show some _ = _
    rw [fieldAt_of_bits he0, fieldAt_of_bits he1, fieldAt_of_bits he2]

theorem tmma (z : BitVec 1) (e : BitVec 2) (b a : BitVec 4) (t : BitVec 2) : Statement (.tmma z e b a t) := by
  intro hw wd hEnc
  have L := word_layout [(23, 1), (21, 2), (13, 4), (9, 4), (7, 2)] [z.toNat, e.toNat, b.toNat, a.toNat, t.toNat] 0x0000006C (by decide) (by decide) ⟨z.isLt, e.isLt, b.isLt, a.isLt, t.isLt, trivial⟩
  rw [show wordOn 0x0000006C [(23, 1), (21, 2), (13, 4), (9, 4), (7, 2)] [z.toNat, e.toNat, b.toNat, a.toNat, t.toNat] = wd from Option.some.inj hEnc] at L
  obtain ⟨lt, ⟨he0, he1, he2, he3, he4, -⟩, keep⟩ := L
  have hk := keep 0 7 (by decide)
  obtain ⟨hz, hl, hr, hi⟩ := major_6C (mod_of_bits hk)
  refine ⟨lt, decodes (zs := [(17, 4), (24, 8)]) (ne_of_bits hk (by decide)) (ne_of_bits hk (by decide)) ?_ ?_ ?_ ?_ ?_⟩
  · exact hz
  · simp only [allZero, List.all_cons, List.all_nil, keep 17 4 (by decide), keep 24 8 (by decide)]; rfl
  · exact hl
  · rw [hr]
    simp only [he1]
    simpa [bits, Instr.wellFormed, Instr.zeroFieldsOk, Instr.reserved, Instr.eventOk, Instr.scopeReserved, ← BitVec.toNat_inj] using hw
  · rw [hi, fieldAt_of_bits he0, fieldAt_of_bits he1, fieldAt_of_bits he2, fieldAt_of_bits he3, fieldAt_of_bits he4]

theorem tmms (z : BitVec 1) (e : BitVec 2) (n b a : BitVec 4) (t : BitVec 2) : Statement (.tmms z e n b a t) := by
  intro hw wd hEnc
  have L := word_layout [(23, 1), (21, 2), (17, 4), (13, 4), (9, 4), (7, 2)] [z.toNat, e.toNat, n.toNat, b.toNat, a.toNat, t.toNat] 0x0000006D (by decide) (by decide) ⟨z.isLt, e.isLt, n.isLt, b.isLt, a.isLt, t.isLt, trivial⟩
  rw [show wordOn 0x0000006D [(23, 1), (21, 2), (17, 4), (13, 4), (9, 4), (7, 2)] [z.toNat, e.toNat, n.toNat, b.toNat, a.toNat, t.toNat] = wd from Option.some.inj hEnc] at L
  obtain ⟨lt, ⟨he0, he1, he2, he3, he4, he5, -⟩, keep⟩ := L
  have hk := keep 0 7 (by decide)
  obtain ⟨hz, hl, hr, hi⟩ := major_6D (mod_of_bits hk)
  refine ⟨lt, decodes (zs := [(24, 8)]) (ne_of_bits hk (by decide)) (ne_of_bits hk (by decide)) ?_ ?_ ?_ ?_ ?_⟩
  · exact hz
  · simp only [allZero, List.all_cons, List.all_nil, keep 24 8 (by decide)]; rfl
  · exact hl
  · rw [hr]
    simp only [he1]
    simpa [bits, Instr.wellFormed, Instr.zeroFieldsOk, Instr.reserved, Instr.eventOk, Instr.scopeReserved, ← BitVec.toNat_inj] using hw
  · rw [hi, fieldAt_of_bits he0, fieldAt_of_bits he1, fieldAt_of_bits he2, fieldAt_of_bits he3, fieldAt_of_bits he4, fieldAt_of_bits he5]

theorem ttrn (z : BitVec 1) (e : BitVec 2) (b a : BitVec 4) (t : BitVec 2) : Statement (.ttrn z e b a t) := by
  intro hw wd hEnc
  have L := word_layout [(23, 1), (21, 2), (13, 4), (9, 4), (7, 2)] [z.toNat, e.toNat, b.toNat, a.toNat, t.toNat] 0x0000006E (by decide) (by decide) ⟨z.isLt, e.isLt, b.isLt, a.isLt, t.isLt, trivial⟩
  rw [show wordOn 0x0000006E [(23, 1), (21, 2), (13, 4), (9, 4), (7, 2)] [z.toNat, e.toNat, b.toNat, a.toNat, t.toNat] = wd from Option.some.inj hEnc] at L
  obtain ⟨lt, ⟨he0, he1, he2, he3, he4, -⟩, keep⟩ := L
  have hk := keep 0 7 (by decide)
  obtain ⟨hz, hl, hr, hi⟩ := major_6E (mod_of_bits hk)
  refine ⟨lt, decodes (zs := [(17, 4), (24, 8)]) (ne_of_bits hk (by decide)) (ne_of_bits hk (by decide)) ?_ ?_ ?_ ?_ ?_⟩
  · exact hz
  · simp only [allZero, List.all_cons, List.all_nil, keep 17 4 (by decide), keep 24 8 (by decide)]; rfl
  · exact hl
  · rw [hr]
    simp only [he1]
    simpa [bits, Instr.wellFormed, Instr.zeroFieldsOk, Instr.reserved, Instr.eventOk, Instr.scopeReserved, ← BitVec.toNat_inj] using hw
  · rw [hi, fieldAt_of_bits he0, fieldAt_of_bits he1, fieldAt_of_bits he2, fieldAt_of_bits he3, fieldAt_of_bits he4]

theorem multiplyLastStep (strand : Nat) : Statement (.multiplyLastStep strand) := fun _ _ h => nomatch h

theorem tileReady (strand : Nat) : Statement (.tileReady strand) := fun _ _ h => nomatch h

theorem tmov (s : BitVec 6) (v : BitVec 5) (t : BitVec 2) : Statement (.tmov s v t) := by
  intro _ wd hEnc
  have L := word_layout [(16, 6), (11, 5), (7, 2)] [s.toNat, v.toNat, t.toNat] 0x0000006F (by decide) (by decide) ⟨s.isLt, v.isLt, t.isLt, trivial⟩
  rw [show wordOn 0x0000006F [(16, 6), (11, 5), (7, 2)] [s.toNat, v.toNat, t.toNat] = wd from Option.some.inj hEnc] at L
  obtain ⟨lt, ⟨he0, he1, he2, -⟩, keep⟩ := L
  have hk := keep 0 7 (by decide)
  obtain ⟨hz, hl, hr, hi⟩ := major_6F (mod_of_bits hk)
  refine ⟨lt, decodes (zs := [(9, 2), (22, 10)]) (ne_of_bits hk (by decide)) (ne_of_bits hk (by decide)) ?_ ?_ ?_ ?_ ?_⟩
  · exact hz
  · simp only [allZero, List.all_cons, List.all_nil, keep 9 2 (by decide), keep 22 10 (by decide)]; rfl
  · exact hl
  · exact hr
  · rw [hi, fieldAt_of_bits he0, fieldAt_of_bits he1, fieldAt_of_bits he2]

theorem tzero (t : BitVec 2) : Statement (.tzero t) := by
  intro hw wd hEnc
  have L := word_layout [(13, 2)] [t.toNat] 0x00000070 (by decide) (by decide) ⟨t.isLt, trivial⟩
  rw [show wordOn 0x00000070 [(13, 2)] [t.toNat] = wd from Option.some.inj hEnc] at L
  obtain ⟨lt, ⟨he0, -⟩, keep⟩ := L
  have hk := keep 0 7 (by decide)
  obtain ⟨hz, hl, hr, hi⟩ := major_70 (mod_of_bits hk)
  have hf := keep 25 7 (by decide)
  refine ⟨lt, decodes (zs := [(7, 6), (15, 10)]) (ne_of_bits hk (by decide)) (ne_of_bits hk (by decide)) ?_ ?_ ?_ ?_ ?_⟩
  · rw [hz, hf]; rfl
  · simp only [allZero, List.all_cons, List.all_nil, keep 7 6 (by decide), keep 15 10 (by decide)]; rfl
  · exact hl
  · rw [hr]
    simp only [keep 25 7 (by decide), he0]
    simpa [bits, Instr.wellFormed, Instr.zeroFieldsOk, Instr.reserved, Instr.eventOk, Instr.scopeReserved, ← BitVec.toNat_inj] using hw
  · rw [hi, instrTctl, hf]
    show some _ = _
    rw [fieldAt_of_bits he0]

theorem tstat (t : BitVec 2) (d : BitVec 6) : Statement (.tstat t d) := by
  intro hw wd hEnc
  have L := word_layout [(13, 2), (7, 6)] [t.toNat, d.toNat] 0x02000070 (by decide) (by decide) ⟨t.isLt, d.isLt, trivial⟩
  rw [show wordOn 0x02000070 [(13, 2), (7, 6)] [t.toNat, d.toNat] = wd from Option.some.inj hEnc] at L
  obtain ⟨lt, ⟨he0, he1, -⟩, keep⟩ := L
  have hk := keep 0 7 (by decide)
  obtain ⟨hz, hl, hr, hi⟩ := major_70 (mod_of_bits hk)
  have hf := keep 25 7 (by decide)
  refine ⟨lt, decodes (zs := [(15, 10)]) (ne_of_bits hk (by decide)) (ne_of_bits hk (by decide)) ?_ ?_ ?_ ?_ ?_⟩
  · rw [hz, hf]; rfl
  · simp only [allZero, List.all_cons, List.all_nil, keep 15 10 (by decide)]; rfl
  · exact hl
  · rw [hr]
    simp only [keep 25 7 (by decide), he0]
    simpa [bits, Instr.wellFormed, Instr.zeroFieldsOk, Instr.reserved, Instr.eventOk, Instr.scopeReserved, ← BitVec.toNat_inj] using hw
  · rw [hi, instrTctl, hf]
    show some _ = _
    rw [fieldAt_of_bits he0, fieldAt_of_bits he1]

theorem twait : Statement .twait := by
  intro hw wd hEnc
  have L := word_layout [] [] 0x04000070 (by decide) rfl trivial
  rw [show wordOn 0x04000070 [] [] = wd from Option.some.inj hEnc] at L
  obtain ⟨lt, -, keep⟩ := L
  have hk := keep 0 7 (by decide)
  obtain ⟨hz, hl, hr, hi⟩ := major_70 (mod_of_bits hk)
  have hf := keep 25 7 (by decide)
  refine ⟨lt, decodes (zs := [(7, 6), (15, 4), (19, 6)]) (ne_of_bits hk (by decide)) (ne_of_bits hk (by decide)) ?_ ?_ ?_ ?_ ?_⟩
  · rw [hz, hf]; rfl
  · simp only [allZero, List.all_cons, List.all_nil, keep 7 6 (by decide), keep 15 4 (by decide), keep 19 6 (by decide)]; rfl
  · exact hl
  · rw [hr]
    simp only [keep 25 7 (by decide), keep 13 2 (by decide)]
    simpa [bits, Instr.wellFormed, Instr.zeroFieldsOk, Instr.reserved, Instr.eventOk, Instr.scopeReserved, ← BitVec.toNat_inj] using hw
  · rw [hi, instrTctl, hf]
    show some _ = _
    rfl

theorem amoadd (o : BitVec 2) (w : BitVec 1) (b a d : BitVec 6) : Statement (.amoadd o w b a d) := by
  intro _ wd hEnc
  have L := word_layout [(30, 2), (29, 1), (19, 6), (13, 6), (7, 6)] [o.toNat, w.toNat, b.toNat, a.toNat, d.toNat] 0x00000074 (by decide) (by decide) ⟨o.isLt, w.isLt, b.isLt, a.isLt, d.isLt, trivial⟩
  rw [show wordOn 0x00000074 [(30, 2), (29, 1), (19, 6), (13, 6), (7, 6)] [o.toNat, w.toNat, b.toNat, a.toNat, d.toNat] = wd from Option.some.inj hEnc] at L
  obtain ⟨lt, ⟨he0, he1, he2, he3, he4, -⟩, keep⟩ := L
  have hk := keep 0 7 (by decide)
  obtain ⟨hz, hl, hr, hi⟩ := major_74 (mod_of_bits hk)
  have hf := keep 25 4 (by decide)
  refine ⟨lt, decodes (zs := []) (ne_of_bits hk (by decide)) (ne_of_bits hk (by decide)) ?_ ?_ ?_ ?_ ?_⟩
  · rw [hz, hf]; rfl
  · exact rfl
  · exact hl
  · exact hr
  · rw [hi, instrAmo, hf]
    show some _ = _
    rw [fieldAt_of_bits he0, fieldAt_of_bits he1, fieldAt_of_bits he2, fieldAt_of_bits he3, fieldAt_of_bits he4]

theorem amoand (o : BitVec 2) (w : BitVec 1) (b a d : BitVec 6) : Statement (.amoand o w b a d) := by
  intro _ wd hEnc
  have L := word_layout [(30, 2), (29, 1), (19, 6), (13, 6), (7, 6)] [o.toNat, w.toNat, b.toNat, a.toNat, d.toNat] 0x02000074 (by decide) (by decide) ⟨o.isLt, w.isLt, b.isLt, a.isLt, d.isLt, trivial⟩
  rw [show wordOn 0x02000074 [(30, 2), (29, 1), (19, 6), (13, 6), (7, 6)] [o.toNat, w.toNat, b.toNat, a.toNat, d.toNat] = wd from Option.some.inj hEnc] at L
  obtain ⟨lt, ⟨he0, he1, he2, he3, he4, -⟩, keep⟩ := L
  have hk := keep 0 7 (by decide)
  obtain ⟨hz, hl, hr, hi⟩ := major_74 (mod_of_bits hk)
  have hf := keep 25 4 (by decide)
  refine ⟨lt, decodes (zs := []) (ne_of_bits hk (by decide)) (ne_of_bits hk (by decide)) ?_ ?_ ?_ ?_ ?_⟩
  · rw [hz, hf]; rfl
  · exact rfl
  · exact hl
  · exact hr
  · rw [hi, instrAmo, hf]
    show some _ = _
    rw [fieldAt_of_bits he0, fieldAt_of_bits he1, fieldAt_of_bits he2, fieldAt_of_bits he3, fieldAt_of_bits he4]

theorem amoor (o : BitVec 2) (w : BitVec 1) (b a d : BitVec 6) : Statement (.amoor o w b a d) := by
  intro _ wd hEnc
  have L := word_layout [(30, 2), (29, 1), (19, 6), (13, 6), (7, 6)] [o.toNat, w.toNat, b.toNat, a.toNat, d.toNat] 0x04000074 (by decide) (by decide) ⟨o.isLt, w.isLt, b.isLt, a.isLt, d.isLt, trivial⟩
  rw [show wordOn 0x04000074 [(30, 2), (29, 1), (19, 6), (13, 6), (7, 6)] [o.toNat, w.toNat, b.toNat, a.toNat, d.toNat] = wd from Option.some.inj hEnc] at L
  obtain ⟨lt, ⟨he0, he1, he2, he3, he4, -⟩, keep⟩ := L
  have hk := keep 0 7 (by decide)
  obtain ⟨hz, hl, hr, hi⟩ := major_74 (mod_of_bits hk)
  have hf := keep 25 4 (by decide)
  refine ⟨lt, decodes (zs := []) (ne_of_bits hk (by decide)) (ne_of_bits hk (by decide)) ?_ ?_ ?_ ?_ ?_⟩
  · rw [hz, hf]; rfl
  · exact rfl
  · exact hl
  · exact hr
  · rw [hi, instrAmo, hf]
    show some _ = _
    rw [fieldAt_of_bits he0, fieldAt_of_bits he1, fieldAt_of_bits he2, fieldAt_of_bits he3, fieldAt_of_bits he4]

theorem amoxor (o : BitVec 2) (w : BitVec 1) (b a d : BitVec 6) : Statement (.amoxor o w b a d) := by
  intro _ wd hEnc
  have L := word_layout [(30, 2), (29, 1), (19, 6), (13, 6), (7, 6)] [o.toNat, w.toNat, b.toNat, a.toNat, d.toNat] 0x06000074 (by decide) (by decide) ⟨o.isLt, w.isLt, b.isLt, a.isLt, d.isLt, trivial⟩
  rw [show wordOn 0x06000074 [(30, 2), (29, 1), (19, 6), (13, 6), (7, 6)] [o.toNat, w.toNat, b.toNat, a.toNat, d.toNat] = wd from Option.some.inj hEnc] at L
  obtain ⟨lt, ⟨he0, he1, he2, he3, he4, -⟩, keep⟩ := L
  have hk := keep 0 7 (by decide)
  obtain ⟨hz, hl, hr, hi⟩ := major_74 (mod_of_bits hk)
  have hf := keep 25 4 (by decide)
  refine ⟨lt, decodes (zs := []) (ne_of_bits hk (by decide)) (ne_of_bits hk (by decide)) ?_ ?_ ?_ ?_ ?_⟩
  · rw [hz, hf]; rfl
  · exact rfl
  · exact hl
  · exact hr
  · rw [hi, instrAmo, hf]
    show some _ = _
    rw [fieldAt_of_bits he0, fieldAt_of_bits he1, fieldAt_of_bits he2, fieldAt_of_bits he3, fieldAt_of_bits he4]

theorem amomin (o : BitVec 2) (w : BitVec 1) (b a d : BitVec 6) : Statement (.amomin o w b a d) := by
  intro _ wd hEnc
  have L := word_layout [(30, 2), (29, 1), (19, 6), (13, 6), (7, 6)] [o.toNat, w.toNat, b.toNat, a.toNat, d.toNat] 0x08000074 (by decide) (by decide) ⟨o.isLt, w.isLt, b.isLt, a.isLt, d.isLt, trivial⟩
  rw [show wordOn 0x08000074 [(30, 2), (29, 1), (19, 6), (13, 6), (7, 6)] [o.toNat, w.toNat, b.toNat, a.toNat, d.toNat] = wd from Option.some.inj hEnc] at L
  obtain ⟨lt, ⟨he0, he1, he2, he3, he4, -⟩, keep⟩ := L
  have hk := keep 0 7 (by decide)
  obtain ⟨hz, hl, hr, hi⟩ := major_74 (mod_of_bits hk)
  have hf := keep 25 4 (by decide)
  refine ⟨lt, decodes (zs := []) (ne_of_bits hk (by decide)) (ne_of_bits hk (by decide)) ?_ ?_ ?_ ?_ ?_⟩
  · rw [hz, hf]; rfl
  · exact rfl
  · exact hl
  · exact hr
  · rw [hi, instrAmo, hf]
    show some _ = _
    rw [fieldAt_of_bits he0, fieldAt_of_bits he1, fieldAt_of_bits he2, fieldAt_of_bits he3, fieldAt_of_bits he4]

theorem amomax (o : BitVec 2) (w : BitVec 1) (b a d : BitVec 6) : Statement (.amomax o w b a d) := by
  intro _ wd hEnc
  have L := word_layout [(30, 2), (29, 1), (19, 6), (13, 6), (7, 6)] [o.toNat, w.toNat, b.toNat, a.toNat, d.toNat] 0x0A000074 (by decide) (by decide) ⟨o.isLt, w.isLt, b.isLt, a.isLt, d.isLt, trivial⟩
  rw [show wordOn 0x0A000074 [(30, 2), (29, 1), (19, 6), (13, 6), (7, 6)] [o.toNat, w.toNat, b.toNat, a.toNat, d.toNat] = wd from Option.some.inj hEnc] at L
  obtain ⟨lt, ⟨he0, he1, he2, he3, he4, -⟩, keep⟩ := L
  have hk := keep 0 7 (by decide)
  obtain ⟨hz, hl, hr, hi⟩ := major_74 (mod_of_bits hk)
  have hf := keep 25 4 (by decide)
  refine ⟨lt, decodes (zs := []) (ne_of_bits hk (by decide)) (ne_of_bits hk (by decide)) ?_ ?_ ?_ ?_ ?_⟩
  · rw [hz, hf]; rfl
  · exact rfl
  · exact hl
  · exact hr
  · rw [hi, instrAmo, hf]
    show some _ = _
    rw [fieldAt_of_bits he0, fieldAt_of_bits he1, fieldAt_of_bits he2, fieldAt_of_bits he3, fieldAt_of_bits he4]

theorem amominu (o : BitVec 2) (w : BitVec 1) (b a d : BitVec 6) : Statement (.amominu o w b a d) := by
  intro _ wd hEnc
  have L := word_layout [(30, 2), (29, 1), (19, 6), (13, 6), (7, 6)] [o.toNat, w.toNat, b.toNat, a.toNat, d.toNat] 0x0C000074 (by decide) (by decide) ⟨o.isLt, w.isLt, b.isLt, a.isLt, d.isLt, trivial⟩
  rw [show wordOn 0x0C000074 [(30, 2), (29, 1), (19, 6), (13, 6), (7, 6)] [o.toNat, w.toNat, b.toNat, a.toNat, d.toNat] = wd from Option.some.inj hEnc] at L
  obtain ⟨lt, ⟨he0, he1, he2, he3, he4, -⟩, keep⟩ := L
  have hk := keep 0 7 (by decide)
  obtain ⟨hz, hl, hr, hi⟩ := major_74 (mod_of_bits hk)
  have hf := keep 25 4 (by decide)
  refine ⟨lt, decodes (zs := []) (ne_of_bits hk (by decide)) (ne_of_bits hk (by decide)) ?_ ?_ ?_ ?_ ?_⟩
  · rw [hz, hf]; rfl
  · exact rfl
  · exact hl
  · exact hr
  · rw [hi, instrAmo, hf]
    show some _ = _
    rw [fieldAt_of_bits he0, fieldAt_of_bits he1, fieldAt_of_bits he2, fieldAt_of_bits he3, fieldAt_of_bits he4]

theorem amomaxu (o : BitVec 2) (w : BitVec 1) (b a d : BitVec 6) : Statement (.amomaxu o w b a d) := by
  intro _ wd hEnc
  have L := word_layout [(30, 2), (29, 1), (19, 6), (13, 6), (7, 6)] [o.toNat, w.toNat, b.toNat, a.toNat, d.toNat] 0x0E000074 (by decide) (by decide) ⟨o.isLt, w.isLt, b.isLt, a.isLt, d.isLt, trivial⟩
  rw [show wordOn 0x0E000074 [(30, 2), (29, 1), (19, 6), (13, 6), (7, 6)] [o.toNat, w.toNat, b.toNat, a.toNat, d.toNat] = wd from Option.some.inj hEnc] at L
  obtain ⟨lt, ⟨he0, he1, he2, he3, he4, -⟩, keep⟩ := L
  have hk := keep 0 7 (by decide)
  obtain ⟨hz, hl, hr, hi⟩ := major_74 (mod_of_bits hk)
  have hf := keep 25 4 (by decide)
  refine ⟨lt, decodes (zs := []) (ne_of_bits hk (by decide)) (ne_of_bits hk (by decide)) ?_ ?_ ?_ ?_ ?_⟩
  · rw [hz, hf]; rfl
  · exact rfl
  · exact hl
  · exact hr
  · rw [hi, instrAmo, hf]
    show some _ = _
    rw [fieldAt_of_bits he0, fieldAt_of_bits he1, fieldAt_of_bits he2, fieldAt_of_bits he3, fieldAt_of_bits he4]

theorem amoswap (o : BitVec 2) (w : BitVec 1) (b a d : BitVec 6) : Statement (.amoswap o w b a d) := by
  intro _ wd hEnc
  have L := word_layout [(30, 2), (29, 1), (19, 6), (13, 6), (7, 6)] [o.toNat, w.toNat, b.toNat, a.toNat, d.toNat] 0x10000074 (by decide) (by decide) ⟨o.isLt, w.isLt, b.isLt, a.isLt, d.isLt, trivial⟩
  rw [show wordOn 0x10000074 [(30, 2), (29, 1), (19, 6), (13, 6), (7, 6)] [o.toNat, w.toNat, b.toNat, a.toNat, d.toNat] = wd from Option.some.inj hEnc] at L
  obtain ⟨lt, ⟨he0, he1, he2, he3, he4, -⟩, keep⟩ := L
  have hk := keep 0 7 (by decide)
  obtain ⟨hz, hl, hr, hi⟩ := major_74 (mod_of_bits hk)
  have hf := keep 25 4 (by decide)
  refine ⟨lt, decodes (zs := []) (ne_of_bits hk (by decide)) (ne_of_bits hk (by decide)) ?_ ?_ ?_ ?_ ?_⟩
  · rw [hz, hf]; rfl
  · exact rfl
  · exact hl
  · exact hr
  · rw [hi, instrAmo, hf]
    show some _ = _
    rw [fieldAt_of_bits he0, fieldAt_of_bits he1, fieldAt_of_bits he2, fieldAt_of_bits he3, fieldAt_of_bits he4]

theorem amocas (o : BitVec 2) (w : BitVec 1) (b a d : BitVec 6) : Statement (.amocas o w b a d) := by
  intro _ wd hEnc
  have L := word_layout [(30, 2), (29, 1), (19, 6), (13, 6), (7, 6)] [o.toNat, w.toNat, b.toNat, a.toNat, d.toNat] 0x12000074 (by decide) (by decide) ⟨o.isLt, w.isLt, b.isLt, a.isLt, d.isLt, trivial⟩
  rw [show wordOn 0x12000074 [(30, 2), (29, 1), (19, 6), (13, 6), (7, 6)] [o.toNat, w.toNat, b.toNat, a.toNat, d.toNat] = wd from Option.some.inj hEnc] at L
  obtain ⟨lt, ⟨he0, he1, he2, he3, he4, -⟩, keep⟩ := L
  have hk := keep 0 7 (by decide)
  obtain ⟨hz, hl, hr, hi⟩ := major_74 (mod_of_bits hk)
  have hf := keep 25 4 (by decide)
  refine ⟨lt, decodes (zs := []) (ne_of_bits hk (by decide)) (ne_of_bits hk (by decide)) ?_ ?_ ?_ ?_ ?_⟩
  · rw [hz, hf]; rfl
  · exact rfl
  · exact hl
  · exact hr
  · rw [hi, instrAmo, hf]
    show some _ = _
    rw [fieldAt_of_bits he0, fieldAt_of_bits he1, fieldAt_of_bits he2, fieldAt_of_bits he3, fieldAt_of_bits he4]

theorem amofadd (o : BitVec 2) (w : BitVec 1) (b a d : BitVec 6) : Statement (.amofadd o w b a d) := by
  intro _ wd hEnc
  have L := word_layout [(30, 2), (29, 1), (19, 6), (13, 6), (7, 6)] [o.toNat, w.toNat, b.toNat, a.toNat, d.toNat] 0x14000074 (by decide) (by decide) ⟨o.isLt, w.isLt, b.isLt, a.isLt, d.isLt, trivial⟩
  rw [show wordOn 0x14000074 [(30, 2), (29, 1), (19, 6), (13, 6), (7, 6)] [o.toNat, w.toNat, b.toNat, a.toNat, d.toNat] = wd from Option.some.inj hEnc] at L
  obtain ⟨lt, ⟨he0, he1, he2, he3, he4, -⟩, keep⟩ := L
  have hk := keep 0 7 (by decide)
  obtain ⟨hz, hl, hr, hi⟩ := major_74 (mod_of_bits hk)
  have hf := keep 25 4 (by decide)
  refine ⟨lt, decodes (zs := []) (ne_of_bits hk (by decide)) (ne_of_bits hk (by decide)) ?_ ?_ ?_ ?_ ?_⟩
  · rw [hz, hf]; rfl
  · exact rfl
  · exact hl
  · exact hr
  · rw [hi, instrAmo, hf]
    show some _ = _
    rw [fieldAt_of_bits he0, fieldAt_of_bits he1, fieldAt_of_bits he2, fieldAt_of_bits he3, fieldAt_of_bits he4]

theorem vamoadd (w r : BitVec 1) (m : BitVec 3) (i : BitVec 5) (a : BitVec 6) (d : BitVec 5) : Statement (.vamoadd w r m i a d) := by
  intro _ wd hEnc
  have L := word_layout [(31, 1), (30, 1), (23, 3), (18, 5), (12, 6), (7, 5)] [w.toNat, r.toNat, m.toNat, i.toNat, a.toNat, d.toNat] 0x00000075 (by decide) (by decide) ⟨w.isLt, r.isLt, m.isLt, i.isLt, a.isLt, d.isLt, trivial⟩
  rw [show wordOn 0x00000075 [(31, 1), (30, 1), (23, 3), (18, 5), (12, 6), (7, 5)] [w.toNat, r.toNat, m.toNat, i.toNat, a.toNat, d.toNat] = wd from Option.some.inj hEnc] at L
  obtain ⟨lt, ⟨he0, he1, he2, he3, he4, he5, -⟩, keep⟩ := L
  have hk := keep 0 7 (by decide)
  obtain ⟨hz, hl, hr, hi⟩ := major_75 (mod_of_bits hk)
  have hf := keep 26 4 (by decide)
  refine ⟨lt, decodes (zs := []) (ne_of_bits hk (by decide)) (ne_of_bits hk (by decide)) ?_ ?_ ?_ ?_ ?_⟩
  · rw [hz, hf]; rfl
  · exact rfl
  · exact hl
  · exact hr
  · rw [hi, instrVamo, hf]
    show some _ = _
    rw [fieldAt_of_bits he0, fieldAt_of_bits he1, fieldAt_of_bits he2, fieldAt_of_bits he3, fieldAt_of_bits he4, fieldAt_of_bits he5]

theorem vamoand (w r : BitVec 1) (m : BitVec 3) (i : BitVec 5) (a : BitVec 6) (d : BitVec 5) : Statement (.vamoand w r m i a d) := by
  intro _ wd hEnc
  have L := word_layout [(31, 1), (30, 1), (23, 3), (18, 5), (12, 6), (7, 5)] [w.toNat, r.toNat, m.toNat, i.toNat, a.toNat, d.toNat] 0x04000075 (by decide) (by decide) ⟨w.isLt, r.isLt, m.isLt, i.isLt, a.isLt, d.isLt, trivial⟩
  rw [show wordOn 0x04000075 [(31, 1), (30, 1), (23, 3), (18, 5), (12, 6), (7, 5)] [w.toNat, r.toNat, m.toNat, i.toNat, a.toNat, d.toNat] = wd from Option.some.inj hEnc] at L
  obtain ⟨lt, ⟨he0, he1, he2, he3, he4, he5, -⟩, keep⟩ := L
  have hk := keep 0 7 (by decide)
  obtain ⟨hz, hl, hr, hi⟩ := major_75 (mod_of_bits hk)
  have hf := keep 26 4 (by decide)
  refine ⟨lt, decodes (zs := []) (ne_of_bits hk (by decide)) (ne_of_bits hk (by decide)) ?_ ?_ ?_ ?_ ?_⟩
  · rw [hz, hf]; rfl
  · exact rfl
  · exact hl
  · exact hr
  · rw [hi, instrVamo, hf]
    show some _ = _
    rw [fieldAt_of_bits he0, fieldAt_of_bits he1, fieldAt_of_bits he2, fieldAt_of_bits he3, fieldAt_of_bits he4, fieldAt_of_bits he5]

theorem vamoor (w r : BitVec 1) (m : BitVec 3) (i : BitVec 5) (a : BitVec 6) (d : BitVec 5) : Statement (.vamoor w r m i a d) := by
  intro _ wd hEnc
  have L := word_layout [(31, 1), (30, 1), (23, 3), (18, 5), (12, 6), (7, 5)] [w.toNat, r.toNat, m.toNat, i.toNat, a.toNat, d.toNat] 0x08000075 (by decide) (by decide) ⟨w.isLt, r.isLt, m.isLt, i.isLt, a.isLt, d.isLt, trivial⟩
  rw [show wordOn 0x08000075 [(31, 1), (30, 1), (23, 3), (18, 5), (12, 6), (7, 5)] [w.toNat, r.toNat, m.toNat, i.toNat, a.toNat, d.toNat] = wd from Option.some.inj hEnc] at L
  obtain ⟨lt, ⟨he0, he1, he2, he3, he4, he5, -⟩, keep⟩ := L
  have hk := keep 0 7 (by decide)
  obtain ⟨hz, hl, hr, hi⟩ := major_75 (mod_of_bits hk)
  have hf := keep 26 4 (by decide)
  refine ⟨lt, decodes (zs := []) (ne_of_bits hk (by decide)) (ne_of_bits hk (by decide)) ?_ ?_ ?_ ?_ ?_⟩
  · rw [hz, hf]; rfl
  · exact rfl
  · exact hl
  · exact hr
  · rw [hi, instrVamo, hf]
    show some _ = _
    rw [fieldAt_of_bits he0, fieldAt_of_bits he1, fieldAt_of_bits he2, fieldAt_of_bits he3, fieldAt_of_bits he4, fieldAt_of_bits he5]

theorem vamoxor (w r : BitVec 1) (m : BitVec 3) (i : BitVec 5) (a : BitVec 6) (d : BitVec 5) : Statement (.vamoxor w r m i a d) := by
  intro _ wd hEnc
  have L := word_layout [(31, 1), (30, 1), (23, 3), (18, 5), (12, 6), (7, 5)] [w.toNat, r.toNat, m.toNat, i.toNat, a.toNat, d.toNat] 0x0C000075 (by decide) (by decide) ⟨w.isLt, r.isLt, m.isLt, i.isLt, a.isLt, d.isLt, trivial⟩
  rw [show wordOn 0x0C000075 [(31, 1), (30, 1), (23, 3), (18, 5), (12, 6), (7, 5)] [w.toNat, r.toNat, m.toNat, i.toNat, a.toNat, d.toNat] = wd from Option.some.inj hEnc] at L
  obtain ⟨lt, ⟨he0, he1, he2, he3, he4, he5, -⟩, keep⟩ := L
  have hk := keep 0 7 (by decide)
  obtain ⟨hz, hl, hr, hi⟩ := major_75 (mod_of_bits hk)
  have hf := keep 26 4 (by decide)
  refine ⟨lt, decodes (zs := []) (ne_of_bits hk (by decide)) (ne_of_bits hk (by decide)) ?_ ?_ ?_ ?_ ?_⟩
  · rw [hz, hf]; rfl
  · exact rfl
  · exact hl
  · exact hr
  · rw [hi, instrVamo, hf]
    show some _ = _
    rw [fieldAt_of_bits he0, fieldAt_of_bits he1, fieldAt_of_bits he2, fieldAt_of_bits he3, fieldAt_of_bits he4, fieldAt_of_bits he5]

theorem vamomin (w r : BitVec 1) (m : BitVec 3) (i : BitVec 5) (a : BitVec 6) (d : BitVec 5) : Statement (.vamomin w r m i a d) := by
  intro _ wd hEnc
  have L := word_layout [(31, 1), (30, 1), (23, 3), (18, 5), (12, 6), (7, 5)] [w.toNat, r.toNat, m.toNat, i.toNat, a.toNat, d.toNat] 0x10000075 (by decide) (by decide) ⟨w.isLt, r.isLt, m.isLt, i.isLt, a.isLt, d.isLt, trivial⟩
  rw [show wordOn 0x10000075 [(31, 1), (30, 1), (23, 3), (18, 5), (12, 6), (7, 5)] [w.toNat, r.toNat, m.toNat, i.toNat, a.toNat, d.toNat] = wd from Option.some.inj hEnc] at L
  obtain ⟨lt, ⟨he0, he1, he2, he3, he4, he5, -⟩, keep⟩ := L
  have hk := keep 0 7 (by decide)
  obtain ⟨hz, hl, hr, hi⟩ := major_75 (mod_of_bits hk)
  have hf := keep 26 4 (by decide)
  refine ⟨lt, decodes (zs := []) (ne_of_bits hk (by decide)) (ne_of_bits hk (by decide)) ?_ ?_ ?_ ?_ ?_⟩
  · rw [hz, hf]; rfl
  · exact rfl
  · exact hl
  · exact hr
  · rw [hi, instrVamo, hf]
    show some _ = _
    rw [fieldAt_of_bits he0, fieldAt_of_bits he1, fieldAt_of_bits he2, fieldAt_of_bits he3, fieldAt_of_bits he4, fieldAt_of_bits he5]

theorem vamomax (w r : BitVec 1) (m : BitVec 3) (i : BitVec 5) (a : BitVec 6) (d : BitVec 5) : Statement (.vamomax w r m i a d) := by
  intro _ wd hEnc
  have L := word_layout [(31, 1), (30, 1), (23, 3), (18, 5), (12, 6), (7, 5)] [w.toNat, r.toNat, m.toNat, i.toNat, a.toNat, d.toNat] 0x14000075 (by decide) (by decide) ⟨w.isLt, r.isLt, m.isLt, i.isLt, a.isLt, d.isLt, trivial⟩
  rw [show wordOn 0x14000075 [(31, 1), (30, 1), (23, 3), (18, 5), (12, 6), (7, 5)] [w.toNat, r.toNat, m.toNat, i.toNat, a.toNat, d.toNat] = wd from Option.some.inj hEnc] at L
  obtain ⟨lt, ⟨he0, he1, he2, he3, he4, he5, -⟩, keep⟩ := L
  have hk := keep 0 7 (by decide)
  obtain ⟨hz, hl, hr, hi⟩ := major_75 (mod_of_bits hk)
  have hf := keep 26 4 (by decide)
  refine ⟨lt, decodes (zs := []) (ne_of_bits hk (by decide)) (ne_of_bits hk (by decide)) ?_ ?_ ?_ ?_ ?_⟩
  · rw [hz, hf]; rfl
  · exact rfl
  · exact hl
  · exact hr
  · rw [hi, instrVamo, hf]
    show some _ = _
    rw [fieldAt_of_bits he0, fieldAt_of_bits he1, fieldAt_of_bits he2, fieldAt_of_bits he3, fieldAt_of_bits he4, fieldAt_of_bits he5]

theorem vamominu (w r : BitVec 1) (m : BitVec 3) (i : BitVec 5) (a : BitVec 6) (d : BitVec 5) : Statement (.vamominu w r m i a d) := by
  intro _ wd hEnc
  have L := word_layout [(31, 1), (30, 1), (23, 3), (18, 5), (12, 6), (7, 5)] [w.toNat, r.toNat, m.toNat, i.toNat, a.toNat, d.toNat] 0x18000075 (by decide) (by decide) ⟨w.isLt, r.isLt, m.isLt, i.isLt, a.isLt, d.isLt, trivial⟩
  rw [show wordOn 0x18000075 [(31, 1), (30, 1), (23, 3), (18, 5), (12, 6), (7, 5)] [w.toNat, r.toNat, m.toNat, i.toNat, a.toNat, d.toNat] = wd from Option.some.inj hEnc] at L
  obtain ⟨lt, ⟨he0, he1, he2, he3, he4, he5, -⟩, keep⟩ := L
  have hk := keep 0 7 (by decide)
  obtain ⟨hz, hl, hr, hi⟩ := major_75 (mod_of_bits hk)
  have hf := keep 26 4 (by decide)
  refine ⟨lt, decodes (zs := []) (ne_of_bits hk (by decide)) (ne_of_bits hk (by decide)) ?_ ?_ ?_ ?_ ?_⟩
  · rw [hz, hf]; rfl
  · exact rfl
  · exact hl
  · exact hr
  · rw [hi, instrVamo, hf]
    show some _ = _
    rw [fieldAt_of_bits he0, fieldAt_of_bits he1, fieldAt_of_bits he2, fieldAt_of_bits he3, fieldAt_of_bits he4, fieldAt_of_bits he5]

theorem vamomaxu (w r : BitVec 1) (m : BitVec 3) (i : BitVec 5) (a : BitVec 6) (d : BitVec 5) : Statement (.vamomaxu w r m i a d) := by
  intro _ wd hEnc
  have L := word_layout [(31, 1), (30, 1), (23, 3), (18, 5), (12, 6), (7, 5)] [w.toNat, r.toNat, m.toNat, i.toNat, a.toNat, d.toNat] 0x1C000075 (by decide) (by decide) ⟨w.isLt, r.isLt, m.isLt, i.isLt, a.isLt, d.isLt, trivial⟩
  rw [show wordOn 0x1C000075 [(31, 1), (30, 1), (23, 3), (18, 5), (12, 6), (7, 5)] [w.toNat, r.toNat, m.toNat, i.toNat, a.toNat, d.toNat] = wd from Option.some.inj hEnc] at L
  obtain ⟨lt, ⟨he0, he1, he2, he3, he4, he5, -⟩, keep⟩ := L
  have hk := keep 0 7 (by decide)
  obtain ⟨hz, hl, hr, hi⟩ := major_75 (mod_of_bits hk)
  have hf := keep 26 4 (by decide)
  refine ⟨lt, decodes (zs := []) (ne_of_bits hk (by decide)) (ne_of_bits hk (by decide)) ?_ ?_ ?_ ?_ ?_⟩
  · rw [hz, hf]; rfl
  · exact rfl
  · exact hl
  · exact hr
  · rw [hi, instrVamo, hf]
    show some _ = _
    rw [fieldAt_of_bits he0, fieldAt_of_bits he1, fieldAt_of_bits he2, fieldAt_of_bits he3, fieldAt_of_bits he4, fieldAt_of_bits he5]

theorem vamoswap (w r : BitVec 1) (m : BitVec 3) (i : BitVec 5) (a : BitVec 6) (d : BitVec 5) : Statement (.vamoswap w r m i a d) := by
  intro _ wd hEnc
  have L := word_layout [(31, 1), (30, 1), (23, 3), (18, 5), (12, 6), (7, 5)] [w.toNat, r.toNat, m.toNat, i.toNat, a.toNat, d.toNat] 0x20000075 (by decide) (by decide) ⟨w.isLt, r.isLt, m.isLt, i.isLt, a.isLt, d.isLt, trivial⟩
  rw [show wordOn 0x20000075 [(31, 1), (30, 1), (23, 3), (18, 5), (12, 6), (7, 5)] [w.toNat, r.toNat, m.toNat, i.toNat, a.toNat, d.toNat] = wd from Option.some.inj hEnc] at L
  obtain ⟨lt, ⟨he0, he1, he2, he3, he4, he5, -⟩, keep⟩ := L
  have hk := keep 0 7 (by decide)
  obtain ⟨hz, hl, hr, hi⟩ := major_75 (mod_of_bits hk)
  have hf := keep 26 4 (by decide)
  refine ⟨lt, decodes (zs := []) (ne_of_bits hk (by decide)) (ne_of_bits hk (by decide)) ?_ ?_ ?_ ?_ ?_⟩
  · rw [hz, hf]; rfl
  · exact rfl
  · exact hl
  · exact hr
  · rw [hi, instrVamo, hf]
    show some _ = _
    rw [fieldAt_of_bits he0, fieldAt_of_bits he1, fieldAt_of_bits he2, fieldAt_of_bits he3, fieldAt_of_bits he4, fieldAt_of_bits he5]

theorem vamofadd (w r : BitVec 1) (m : BitVec 3) (i : BitVec 5) (a : BitVec 6) (d : BitVec 5) : Statement (.vamofadd w r m i a d) := by
  intro _ wd hEnc
  have L := word_layout [(31, 1), (30, 1), (23, 3), (18, 5), (12, 6), (7, 5)] [w.toNat, r.toNat, m.toNat, i.toNat, a.toNat, d.toNat] 0x28000075 (by decide) (by decide) ⟨w.isLt, r.isLt, m.isLt, i.isLt, a.isLt, d.isLt, trivial⟩
  rw [show wordOn 0x28000075 [(31, 1), (30, 1), (23, 3), (18, 5), (12, 6), (7, 5)] [w.toNat, r.toNat, m.toNat, i.toNat, a.toNat, d.toNat] = wd from Option.some.inj hEnc] at L
  obtain ⟨lt, ⟨he0, he1, he2, he3, he4, he5, -⟩, keep⟩ := L
  have hk := keep 0 7 (by decide)
  obtain ⟨hz, hl, hr, hi⟩ := major_75 (mod_of_bits hk)
  have hf := keep 26 4 (by decide)
  refine ⟨lt, decodes (zs := []) (ne_of_bits hk (by decide)) (ne_of_bits hk (by decide)) ?_ ?_ ?_ ?_ ?_⟩
  · rw [hz, hf]; rfl
  · exact rfl
  · exact hl
  · exact hr
  · rw [hi, instrVamo, hf]
    show some _ = _
    rw [fieldAt_of_bits he0, fieldAt_of_bits he1, fieldAt_of_bits he2, fieldAt_of_bits he3, fieldAt_of_bits he4, fieldAt_of_bits he5]

theorem vamoPrepare (place requester : Nat) (op : BitVec 4) (w64 : Bool) (elems : List (Nat × BitVec 64)) : Statement (.vamoPrepare place requester op w64 elems) := fun _ _ h => nomatch h

theorem vamoPerform (place requester : Nat) (go : Bool) : Statement (.vamoPerform place requester go) := fun _ _ h => nomatch h

theorem slkadd (m : BitVec 3) (a : BitVec 6) (d : BitVec 5) : Statement (.slkadd m a d) := by
  intro _ wd hEnc
  have L := word_layout [(23, 3), (12, 6), (7, 5)] [m.toNat, a.toNat, d.toNat] 0x00000077 (by decide) (by decide) ⟨m.isLt, a.isLt, d.isLt, trivial⟩
  rw [show wordOn 0x00000077 [(23, 3), (12, 6), (7, 5)] [m.toNat, a.toNat, d.toNat] = wd from Option.some.inj hEnc] at L
  obtain ⟨lt, ⟨he0, he1, he2, -⟩, keep⟩ := L
  have hk := keep 0 7 (by decide)
  obtain ⟨hz, hl, hr, hi⟩ := major_77 (mod_of_bits hk)
  have hf := keep 26 4 (by decide)
  refine ⟨lt, decodes (zs := [(18, 5), (30, 2)]) (ne_of_bits hk (by decide)) (ne_of_bits hk (by decide)) ?_ ?_ ?_ ?_ ?_⟩
  · rw [hz, hf]; rfl
  · simp only [allZero, List.all_cons, List.all_nil, keep 18 5 (by decide), keep 30 2 (by decide)]; rfl
  · exact hl
  · exact hr
  · rw [hi, instrSlkadd, hf]
    show some _ = _
    rw [fieldAt_of_bits he0, fieldAt_of_bits he1, fieldAt_of_bits he2]

theorem slkaddx (m : BitVec 3) (i : BitVec 5) (a : BitVec 6) (d : BitVec 5) : Statement (.slkaddx m i a d) := by
  intro _ wd hEnc
  have L := word_layout [(23, 3), (18, 5), (12, 6), (7, 5)] [m.toNat, i.toNat, a.toNat, d.toNat] 0x04000077 (by decide) (by decide) ⟨m.isLt, i.isLt, a.isLt, d.isLt, trivial⟩
  rw [show wordOn 0x04000077 [(23, 3), (18, 5), (12, 6), (7, 5)] [m.toNat, i.toNat, a.toNat, d.toNat] = wd from Option.some.inj hEnc] at L
  obtain ⟨lt, ⟨he0, he1, he2, he3, -⟩, keep⟩ := L
  have hk := keep 0 7 (by decide)
  obtain ⟨hz, hl, hr, hi⟩ := major_77 (mod_of_bits hk)
  have hf := keep 26 4 (by decide)
  refine ⟨lt, decodes (zs := [(30, 2)]) (ne_of_bits hk (by decide)) (ne_of_bits hk (by decide)) ?_ ?_ ?_ ?_ ?_⟩
  · rw [hz, hf]; rfl
  · simp only [allZero, List.all_cons, List.all_nil, keep 30 2 (by decide)]; rfl
  · exact hl
  · exact hr
  · rw [hi, instrSlkadd, hf]
    show some _ = _
    rw [fieldAt_of_bits he0, fieldAt_of_bits he1, fieldAt_of_bits he2, fieldAt_of_bits he3]

theorem grow (region bay ask : Nat) : Statement (.grow region bay ask) := fun _ _ h => nomatch h

theorem grant (region bay : Nat) : Statement (.grant region bay) := fun _ _ h => nomatch h

theorem drain (bay line : Nat) : Statement (.drain bay line) := fun _ _ h => nomatch h

theorem dack (bay line : Nat) : Statement (.dack bay line) := fun _ _ h => nomatch h

theorem draw (region bay : Nat) (ret : Bool) : Statement (.draw region bay ret) := fun _ _ h => nomatch h

theorem drawn (region bay : Nat) : Statement (.drawn region bay) := fun _ _ h => nomatch h

theorem linedraw (bay line : Nat) : Statement (.linedraw bay line) := fun _ _ h => nomatch h

theorem ret (region bay : Nat) : Statement (.ret region bay) := fun _ _ h => nomatch h

theorem tolq (region strand epsUnits : Nat) : Statement (.tolq region strand epsUnits) := fun _ _ h => nomatch h

theorem tolgo (strand : Nat) : Statement (.tolgo strand) := fun _ _ h => nomatch h

theorem slkdef (a d : BitVec 6) : Statement (.slkdef a d) := by
  intro _ wd hEnc
  have L := word_layout [(13, 6), (7, 6)] [a.toNat, d.toNat] 0x00000078 (by decide) (by decide) ⟨a.isLt, d.isLt, trivial⟩
  rw [show wordOn 0x00000078 [(13, 6), (7, 6)] [a.toNat, d.toNat] = wd from Option.some.inj hEnc] at L
  obtain ⟨lt, ⟨he0, he1, -⟩, keep⟩ := L
  have hk := keep 0 7 (by decide)
  obtain ⟨hz, hl, hr, hi⟩ := major_78 (mod_of_bits hk)
  have hf := keep 25 7 (by decide)
  refine ⟨lt, decodes (zs := [(19, 6)]) (ne_of_bits hk (by decide)) (ne_of_bits hk (by decide)) ?_ ?_ ?_ ?_ ?_⟩
  · rw [hz, hf]; rfl
  · simp only [allZero, List.all_cons, List.all_nil, keep 19 6 (by decide)]; rfl
  · exact hl
  · exact hr
  · rw [hi, instrSlkctl, hf]
    show some _ = _
    rw [fieldAt_of_bits he0, fieldAt_of_bits he1]

theorem slkdraw (a : BitVec 6) : Statement (.slkdraw a) := by
  intro _ wd hEnc
  have L := word_layout [(13, 6)] [a.toNat] 0x02000078 (by decide) (by decide) ⟨a.isLt, trivial⟩
  rw [show wordOn 0x02000078 [(13, 6)] [a.toNat] = wd from Option.some.inj hEnc] at L
  obtain ⟨lt, ⟨he0, -⟩, keep⟩ := L
  have hk := keep 0 7 (by decide)
  obtain ⟨hz, hl, hr, hi⟩ := major_78 (mod_of_bits hk)
  have hf := keep 25 7 (by decide)
  refine ⟨lt, decodes (zs := [(7, 6), (19, 6)]) (ne_of_bits hk (by decide)) (ne_of_bits hk (by decide)) ?_ ?_ ?_ ?_ ?_⟩
  · rw [hz, hf]; rfl
  · simp only [allZero, List.all_cons, List.all_nil, keep 7 6 (by decide), keep 19 6 (by decide)]; rfl
  · exact hl
  · exact hr
  · rw [hi, instrSlkctl, hf]
    show some _ = _
    rw [fieldAt_of_bits he0]

theorem slkqry (b a d : BitVec 6) : Statement (.slkqry b a d) := by
  intro _ wd hEnc
  have L := word_layout [(19, 6), (13, 6), (7, 6)] [b.toNat, a.toNat, d.toNat] 0x04000078 (by decide) (by decide) ⟨b.isLt, a.isLt, d.isLt, trivial⟩
  rw [show wordOn 0x04000078 [(19, 6), (13, 6), (7, 6)] [b.toNat, a.toNat, d.toNat] = wd from Option.some.inj hEnc] at L
  obtain ⟨lt, ⟨he0, he1, he2, -⟩, keep⟩ := L
  have hk := keep 0 7 (by decide)
  obtain ⟨hz, hl, hr, hi⟩ := major_78 (mod_of_bits hk)
  have hf := keep 25 7 (by decide)
  refine ⟨lt, decodes (zs := []) (ne_of_bits hk (by decide)) (ne_of_bits hk (by decide)) ?_ ?_ ?_ ?_ ?_⟩
  · rw [hz, hf]; rfl
  · exact rfl
  · exact hl
  · exact hr
  · rw [hi, instrSlkctl, hf]
    show some _ = _
    rw [fieldAt_of_bits he0, fieldAt_of_bits he1, fieldAt_of_bits he2]

theorem slkrel (a : BitVec 6) : Statement (.slkrel a) := by
  intro _ wd hEnc
  have L := word_layout [(13, 6)] [a.toNat] 0x06000078 (by decide) (by decide) ⟨a.isLt, trivial⟩
  rw [show wordOn 0x06000078 [(13, 6)] [a.toNat] = wd from Option.some.inj hEnc] at L
  obtain ⟨lt, ⟨he0, -⟩, keep⟩ := L
  have hk := keep 0 7 (by decide)
  obtain ⟨hz, hl, hr, hi⟩ := major_78 (mod_of_bits hk)
  have hf := keep 25 7 (by decide)
  refine ⟨lt, decodes (zs := [(7, 6), (19, 6)]) (ne_of_bits hk (by decide)) (ne_of_bits hk (by decide)) ?_ ?_ ?_ ?_ ?_⟩
  · rw [hz, hf]; rfl
  · simp only [allZero, List.all_cons, List.all_nil, keep 7 6 (by decide), keep 19 6 (by decide)]; rfl
  · exact hl
  · exact hr
  · rw [hi, instrSlkctl, hf]
    show some _ = _
    rw [fieldAt_of_bits he0]

theorem fenceAcq (s : BitVec 3) : Statement (.fenceAcq s) := by
  intro hw wd hEnc
  have L := word_layout [(7, 3)] [s.toNat] 0x0000007A (by decide) (by decide) ⟨s.isLt, trivial⟩
  rw [show wordOn 0x0000007A [(7, 3)] [s.toNat] = wd from Option.some.inj hEnc] at L
  obtain ⟨lt, ⟨he0, -⟩, keep⟩ := L
  have hk := keep 0 7 (by decide)
  obtain ⟨hz, hl, hr, hi⟩ := major_7A (mod_of_bits hk)
  have hf := keep 10 3 (by decide)
  refine ⟨lt, decodes (zs := [(13, 19)]) (ne_of_bits hk (by decide)) (ne_of_bits hk (by decide)) ?_ ?_ ?_ ?_ ?_⟩
  · rw [hz, hf]; rfl
  · simp only [allZero, List.all_cons, List.all_nil, keep 13 19 (by decide)]; rfl
  · exact hl
  · rw [hr]
    simp only [keep 10 3 (by decide), he0]
    simpa [bits, Instr.wellFormed, Instr.zeroFieldsOk, Instr.reserved, Instr.eventOk, Instr.scopeReserved, ← BitVec.toNat_inj] using hw
  · rw [hi, instrFence, hf]
    show some _ = _
    rw [fieldAt_of_bits he0]

theorem fenceRel (s : BitVec 3) : Statement (.fenceRel s) := by
  intro hw wd hEnc
  have L := word_layout [(7, 3)] [s.toNat] 0x0000047A (by decide) (by decide) ⟨s.isLt, trivial⟩
  rw [show wordOn 0x0000047A [(7, 3)] [s.toNat] = wd from Option.some.inj hEnc] at L
  obtain ⟨lt, ⟨he0, -⟩, keep⟩ := L
  have hk := keep 0 7 (by decide)
  obtain ⟨hz, hl, hr, hi⟩ := major_7A (mod_of_bits hk)
  have hf := keep 10 3 (by decide)
  refine ⟨lt, decodes (zs := [(13, 19)]) (ne_of_bits hk (by decide)) (ne_of_bits hk (by decide)) ?_ ?_ ?_ ?_ ?_⟩
  · rw [hz, hf]; rfl
  · simp only [allZero, List.all_cons, List.all_nil, keep 13 19 (by decide)]; rfl
  · exact hl
  · rw [hr]
    simp only [keep 10 3 (by decide), he0]
    simpa [bits, Instr.wellFormed, Instr.zeroFieldsOk, Instr.reserved, Instr.eventOk, Instr.scopeReserved, ← BitVec.toNat_inj] using hw
  · rw [hi, instrFence, hf]
    show some _ = _
    rw [fieldAt_of_bits he0]

theorem fenceAr (s : BitVec 3) : Statement (.fenceAr s) := by
  intro hw wd hEnc
  have L := word_layout [(7, 3)] [s.toNat] 0x0000087A (by decide) (by decide) ⟨s.isLt, trivial⟩
  rw [show wordOn 0x0000087A [(7, 3)] [s.toNat] = wd from Option.some.inj hEnc] at L
  obtain ⟨lt, ⟨he0, -⟩, keep⟩ := L
  have hk := keep 0 7 (by decide)
  obtain ⟨hz, hl, hr, hi⟩ := major_7A (mod_of_bits hk)
  have hf := keep 10 3 (by decide)
  refine ⟨lt, decodes (zs := [(13, 19)]) (ne_of_bits hk (by decide)) (ne_of_bits hk (by decide)) ?_ ?_ ?_ ?_ ?_⟩
  · rw [hz, hf]; rfl
  · simp only [allZero, List.all_cons, List.all_nil, keep 13 19 (by decide)]; rfl
  · exact hl
  · rw [hr]
    simp only [keep 10 3 (by decide), he0]
    simpa [bits, Instr.wellFormed, Instr.zeroFieldsOk, Instr.reserved, Instr.eventOk, Instr.scopeReserved, ← BitVec.toNat_inj] using hw
  · rw [hi, instrFence, hf]
    show some _ = _
    rw [fieldAt_of_bits he0]

theorem fenceSc (s : BitVec 3) : Statement (.fenceSc s) := by
  intro hw wd hEnc
  have L := word_layout [(7, 3)] [s.toNat] 0x00000C7A (by decide) (by decide) ⟨s.isLt, trivial⟩
  rw [show wordOn 0x00000C7A [(7, 3)] [s.toNat] = wd from Option.some.inj hEnc] at L
  obtain ⟨lt, ⟨he0, -⟩, keep⟩ := L
  have hk := keep 0 7 (by decide)
  obtain ⟨hz, hl, hr, hi⟩ := major_7A (mod_of_bits hk)
  have hf := keep 10 3 (by decide)
  refine ⟨lt, decodes (zs := [(13, 19)]) (ne_of_bits hk (by decide)) (ne_of_bits hk (by decide)) ?_ ?_ ?_ ?_ ?_⟩
  · rw [hz, hf]; rfl
  · simp only [allZero, List.all_cons, List.all_nil, keep 13 19 (by decide)]; rfl
  · exact hl
  · rw [hr]
    simp only [keep 10 3 (by decide), he0]
    simpa [bits, Instr.wellFormed, Instr.zeroFieldsOk, Instr.reserved, Instr.eventOk, Instr.scopeReserved, ← BitVec.toNat_inj] using hw
  · rw [hi, instrFence, hf]
    show some _ = _
    rw [fieldAt_of_bits he0]

theorem fenceS2v : Statement .fenceS2v := by
  intro hw wd hEnc
  have L := word_layout [] [] 0x0000107A (by decide) rfl trivial
  rw [show wordOn 0x0000107A [] [] = wd from Option.some.inj hEnc] at L
  obtain ⟨lt, -, keep⟩ := L
  have hk := keep 0 7 (by decide)
  obtain ⟨hz, hl, hr, hi⟩ := major_7A (mod_of_bits hk)
  have hf := keep 10 3 (by decide)
  refine ⟨lt, decodes (zs := [(13, 19)]) (ne_of_bits hk (by decide)) (ne_of_bits hk (by decide)) ?_ ?_ ?_ ?_ ?_⟩
  · rw [hz, hf]; rfl
  · simp only [allZero, List.all_cons, List.all_nil, keep 13 19 (by decide)]; rfl
  · exact hl
  · rw [hr]
    simp only [keep 10 3 (by decide), keep 7 3 (by decide)]
    simpa [bits, Instr.wellFormed, Instr.zeroFieldsOk, Instr.reserved, Instr.eventOk, Instr.scopeReserved, ← BitVec.toNat_inj] using hw
  · rw [hi, instrFence, hf]
    show some _ = _
    rfl

theorem fenceV2s : Statement .fenceV2s := by
  intro hw wd hEnc
  have L := word_layout [] [] 0x0000147A (by decide) rfl trivial
  rw [show wordOn 0x0000147A [] [] = wd from Option.some.inj hEnc] at L
  obtain ⟨lt, -, keep⟩ := L
  have hk := keep 0 7 (by decide)
  obtain ⟨hz, hl, hr, hi⟩ := major_7A (mod_of_bits hk)
  have hf := keep 10 3 (by decide)
  refine ⟨lt, decodes (zs := [(13, 19)]) (ne_of_bits hk (by decide)) (ne_of_bits hk (by decide)) ?_ ?_ ?_ ?_ ?_⟩
  · rw [hz, hf]; rfl
  · simp only [allZero, List.all_cons, List.all_nil, keep 13 19 (by decide)]; rfl
  · exact hl
  · rw [hr]
    simp only [keep 10 3 (by decide), keep 7 3 (by decide)]
    simpa [bits, Instr.wellFormed, Instr.zeroFieldsOk, Instr.reserved, Instr.eventOk, Instr.scopeReserved, ← BitVec.toNat_inj] using hw
  · rw [hi, instrFence, hf]
    show some _ = _
    rfl

theorem fenceCode (s : BitVec 3) : Statement (.fenceCode s) := by
  intro hw wd hEnc
  have L := word_layout [(7, 3)] [s.toNat] 0x0000187A (by decide) (by decide) ⟨s.isLt, trivial⟩
  rw [show wordOn 0x0000187A [(7, 3)] [s.toNat] = wd from Option.some.inj hEnc] at L
  obtain ⟨lt, ⟨he0, -⟩, keep⟩ := L
  have hk := keep 0 7 (by decide)
  obtain ⟨hz, hl, hr, hi⟩ := major_7A (mod_of_bits hk)
  have hf := keep 10 3 (by decide)
  refine ⟨lt, decodes (zs := [(13, 19)]) (ne_of_bits hk (by decide)) (ne_of_bits hk (by decide)) ?_ ?_ ?_ ?_ ?_⟩
  · rw [hz, hf]; rfl
  · simp only [allZero, List.all_cons, List.all_nil, keep 13 19 (by decide)]; rfl
  · exact hl
  · rw [hr]
    simp only [keep 10 3 (by decide), he0]
    simpa [bits, Instr.wellFormed, Instr.zeroFieldsOk, Instr.reserved, Instr.eventOk, Instr.scopeReserved, ← BitVec.toNat_inj] using hw
  · rw [hi, instrFence, hf]
    show some _ = _
    rw [fieldAt_of_bits he0]

theorem fenceSlk (s : BitVec 3) : Statement (.fenceSlk s) := by
  intro hw wd hEnc
  have L := word_layout [(7, 3)] [s.toNat] 0x00001C7A (by decide) (by decide) ⟨s.isLt, trivial⟩
  rw [show wordOn 0x00001C7A [(7, 3)] [s.toNat] = wd from Option.some.inj hEnc] at L
  obtain ⟨lt, ⟨he0, -⟩, keep⟩ := L
  have hk := keep 0 7 (by decide)
  obtain ⟨hz, hl, hr, hi⟩ := major_7A (mod_of_bits hk)
  have hf := keep 10 3 (by decide)
  refine ⟨lt, decodes (zs := [(13, 19)]) (ne_of_bits hk (by decide)) (ne_of_bits hk (by decide)) ?_ ?_ ?_ ?_ ?_⟩
  · rw [hz, hf]; rfl
  · simp only [allZero, List.all_cons, List.all_nil, keep 13 19 (by decide)]; rfl
  · exact hl
  · rw [hr]
    simp only [keep 10 3 (by decide), he0]
    simpa [bits, Instr.wellFormed, Instr.zeroFieldsOk, Instr.reserved, Instr.eventOk, Instr.scopeReserved, ← BitVec.toNat_inj] using hw
  · rw [hi, instrFence, hf]
    show some _ = _
    rw [fieldAt_of_bits he0]

theorem waita (c : BitVec 1) (s : BitVec 3) (b a d : BitVec 6) : Statement (.waita c s b a d) := by
  intro hw wd hEnc
  have L := word_layout [(28, 1), (25, 3), (19, 6), (13, 6), (7, 6)] [c.toNat, s.toNat, b.toNat, a.toNat, d.toNat] 0x0000007B (by decide) (by decide) ⟨c.isLt, s.isLt, b.isLt, a.isLt, d.isLt, trivial⟩
  rw [show wordOn 0x0000007B [(28, 1), (25, 3), (19, 6), (13, 6), (7, 6)] [c.toNat, s.toNat, b.toNat, a.toNat, d.toNat] = wd from Option.some.inj hEnc] at L
  obtain ⟨lt, ⟨he0, he1, he2, he3, he4, -⟩, keep⟩ := L
  have hk := keep 0 7 (by decide)
  obtain ⟨hz, hl, hr, hi⟩ := major_7B (mod_of_bits hk)
  refine ⟨lt, decodes (zs := [(29, 3)]) (ne_of_bits hk (by decide)) (ne_of_bits hk (by decide)) ?_ ?_ ?_ ?_ ?_⟩
  · exact hz
  · simp only [allZero, List.all_cons, List.all_nil, keep 29 3 (by decide)]; rfl
  · exact hl
  · rw [hr]
    simp only [he1]
    simpa [bits, Instr.wellFormed, Instr.zeroFieldsOk, Instr.reserved, Instr.eventOk, Instr.scopeReserved, ← BitVec.toNat_inj] using hw
  · rw [hi, fieldAt_of_bits he0, fieldAt_of_bits he1, fieldAt_of_bits he2, fieldAt_of_bits he3, fieldAt_of_bits he4]

theorem waitaWake (strand : Nat) : Statement (.waitaWake strand) := fun _ _ h => nomatch h

theorem waitaHostPoll (strand : Nat) : Statement (.waitaHostPoll strand) := fun _ _ h => nomatch h

theorem waitTimeout (strand : Nat) : Statement (.waitTimeout strand) := fun _ _ h => nomatch h

theorem bars (n : BitVec 4) : Statement (.bars n) := by
  intro _ wd hEnc
  have L := word_layout [(27, 4)] [n.toNat] 0x0000007C (by decide) (by decide) ⟨n.isLt, trivial⟩
  rw [show wordOn 0x0000007C [(27, 4)] [n.toNat] = wd from Option.some.inj hEnc] at L
  obtain ⟨lt, ⟨he0, -⟩, keep⟩ := L
  have hk := keep 0 7 (by decide)
  obtain ⟨hz, hl, hr, hi⟩ := major_7C (mod_of_bits hk)
  have hf := keep 25 2 (by decide)
  refine ⟨lt, decodes (zs := [(7, 18), (31, 1)]) (ne_of_bits hk (by decide)) (ne_of_bits hk (by decide)) ?_ ?_ ?_ ?_ ?_⟩
  · rw [hz, hf]; rfl
  · simp only [allZero, List.all_cons, List.all_nil, keep 7 18 (by decide), keep 31 1 (by decide)]; rfl
  · exact hl
  · exact hr
  · rw [hi, instrBar, hf]
    show some _ = _
    rw [fieldAt_of_bits he0]

theorem bara (n : BitVec 4) : Statement (.bara n) := by
  intro _ wd hEnc
  have L := word_layout [(27, 4)] [n.toNat] 0x0200007C (by decide) (by decide) ⟨n.isLt, trivial⟩
  rw [show wordOn 0x0200007C [(27, 4)] [n.toNat] = wd from Option.some.inj hEnc] at L
  obtain ⟨lt, ⟨he0, -⟩, keep⟩ := L
  have hk := keep 0 7 (by decide)
  obtain ⟨hz, hl, hr, hi⟩ := major_7C (mod_of_bits hk)
  have hf := keep 25 2 (by decide)
  refine ⟨lt, decodes (zs := [(7, 18), (31, 1)]) (ne_of_bits hk (by decide)) (ne_of_bits hk (by decide)) ?_ ?_ ?_ ?_ ?_⟩
  · rw [hz, hf]; rfl
  · simp only [allZero, List.all_cons, List.all_nil, keep 7 18 (by decide), keep 31 1 (by decide)]; rfl
  · exact hl
  · exact hr
  · rw [hi, instrBar, hf]
    show some _ = _
    rw [fieldAt_of_bits he0]

theorem barw (n : BitVec 4) : Statement (.barw n) := by
  intro _ wd hEnc
  have L := word_layout [(27, 4)] [n.toNat] 0x0400007C (by decide) (by decide) ⟨n.isLt, trivial⟩
  rw [show wordOn 0x0400007C [(27, 4)] [n.toNat] = wd from Option.some.inj hEnc] at L
  obtain ⟨lt, ⟨he0, -⟩, keep⟩ := L
  have hk := keep 0 7 (by decide)
  obtain ⟨hz, hl, hr, hi⟩ := major_7C (mod_of_bits hk)
  have hf := keep 25 2 (by decide)
  refine ⟨lt, decodes (zs := [(7, 18), (31, 1)]) (ne_of_bits hk (by decide)) (ne_of_bits hk (by decide)) ?_ ?_ ?_ ?_ ?_⟩
  · rw [hz, hf]; rfl
  · simp only [allZero, List.all_cons, List.all_nil, keep 7 18 (by decide), keep 31 1 (by decide)]; rfl
  · exact hl
  · exact hr
  · rw [hi, instrBar, hf]
    show some _ = _
    rw [fieldAt_of_bits he0]

theorem barrierWake (strand : Nat) : Statement (.barrierWake strand) := fun _ _ h => nomatch h

theorem xcopy (b a d : BitVec 6) : Statement (.xcopy b a d) := by
  intro _ wd hEnc
  have L := word_layout [(19, 6), (13, 6), (7, 6)] [b.toNat, a.toNat, d.toNat] 0x0000007D (by decide) (by decide) ⟨b.isLt, a.isLt, d.isLt, trivial⟩
  rw [show wordOn 0x0000007D [(19, 6), (13, 6), (7, 6)] [b.toNat, a.toNat, d.toNat] = wd from Option.some.inj hEnc] at L
  obtain ⟨lt, ⟨he0, he1, he2, -⟩, keep⟩ := L
  have hk := keep 0 7 (by decide)
  obtain ⟨hz, hl, hr, hi⟩ := major_7D (mod_of_bits hk)
  have hf := keep 25 7 (by decide)
  refine ⟨lt, decodes (zs := []) (ne_of_bits hk (by decide)) (ne_of_bits hk (by decide)) ?_ ?_ ?_ ?_ ?_⟩
  · rw [hz, hf]; rfl
  · exact rfl
  · exact hl
  · exact hr
  · rw [hi, instrXe, hf]
    show some _ = _
    rw [fieldAt_of_bits he0, fieldAt_of_bits he1, fieldAt_of_bits he2]

theorem xgather (b a d : BitVec 6) : Statement (.xgather b a d) := by
  intro _ wd hEnc
  have L := word_layout [(19, 6), (13, 6), (7, 6)] [b.toNat, a.toNat, d.toNat] 0x0200007D (by decide) (by decide) ⟨b.isLt, a.isLt, d.isLt, trivial⟩
  rw [show wordOn 0x0200007D [(19, 6), (13, 6), (7, 6)] [b.toNat, a.toNat, d.toNat] = wd from Option.some.inj hEnc] at L
  obtain ⟨lt, ⟨he0, he1, he2, -⟩, keep⟩ := L
  have hk := keep 0 7 (by decide)
  obtain ⟨hz, hl, hr, hi⟩ := major_7D (mod_of_bits hk)
  have hf := keep 25 7 (by decide)
  refine ⟨lt, decodes (zs := []) (ne_of_bits hk (by decide)) (ne_of_bits hk (by decide)) ?_ ?_ ?_ ?_ ?_⟩
  · rw [hz, hf]; rfl
  · exact rfl
  · exact hl
  · exact hr
  · rw [hi, instrXe, hf]
    show some _ = _
    rw [fieldAt_of_bits he0, fieldAt_of_bits he1, fieldAt_of_bits he2]

theorem xpool (b a d : BitVec 6) : Statement (.xpool b a d) := by
  intro _ wd hEnc
  have L := word_layout [(19, 6), (13, 6), (7, 6)] [b.toNat, a.toNat, d.toNat] 0x0400007D (by decide) (by decide) ⟨b.isLt, a.isLt, d.isLt, trivial⟩
  rw [show wordOn 0x0400007D [(19, 6), (13, 6), (7, 6)] [b.toNat, a.toNat, d.toNat] = wd from Option.some.inj hEnc] at L
  obtain ⟨lt, ⟨he0, he1, he2, -⟩, keep⟩ := L
  have hk := keep 0 7 (by decide)
  obtain ⟨hz, hl, hr, hi⟩ := major_7D (mod_of_bits hk)
  have hf := keep 25 7 (by decide)
  refine ⟨lt, decodes (zs := []) (ne_of_bits hk (by decide)) (ne_of_bits hk (by decide)) ?_ ?_ ?_ ?_ ?_⟩
  · rw [hz, hf]; rfl
  · exact rfl
  · exact hl
  · exact hr
  · rw [hi, instrXe, hf]
    show some _ = _
    rw [fieldAt_of_bits he0, fieldAt_of_bits he1, fieldAt_of_bits he2]

theorem xexpand (b a d : BitVec 6) : Statement (.xexpand b a d) := by
  intro _ wd hEnc
  have L := word_layout [(19, 6), (13, 6), (7, 6)] [b.toNat, a.toNat, d.toNat] 0x0600007D (by decide) (by decide) ⟨b.isLt, a.isLt, d.isLt, trivial⟩
  rw [show wordOn 0x0600007D [(19, 6), (13, 6), (7, 6)] [b.toNat, a.toNat, d.toNat] = wd from Option.some.inj hEnc] at L
  obtain ⟨lt, ⟨he0, he1, he2, -⟩, keep⟩ := L
  have hk := keep 0 7 (by decide)
  obtain ⟨hz, hl, hr, hi⟩ := major_7D (mod_of_bits hk)
  have hf := keep 25 7 (by decide)
  refine ⟨lt, decodes (zs := []) (ne_of_bits hk (by decide)) (ne_of_bits hk (by decide)) ?_ ?_ ?_ ?_ ?_⟩
  · rw [hz, hf]; rfl
  · exact rfl
  · exact hl
  · exact hr
  · rw [hi, instrXe, hf]
    show some _ = _
    rw [fieldAt_of_bits he0, fieldAt_of_bits he1, fieldAt_of_bits he2]

theorem xcoll (b a d : BitVec 6) : Statement (.xcoll b a d) := by
  intro _ wd hEnc
  have L := word_layout [(19, 6), (13, 6), (7, 6)] [b.toNat, a.toNat, d.toNat] 0x0800007D (by decide) (by decide) ⟨b.isLt, a.isLt, d.isLt, trivial⟩
  rw [show wordOn 0x0800007D [(19, 6), (13, 6), (7, 6)] [b.toNat, a.toNat, d.toNat] = wd from Option.some.inj hEnc] at L
  obtain ⟨lt, ⟨he0, he1, he2, -⟩, keep⟩ := L
  have hk := keep 0 7 (by decide)
  obtain ⟨hz, hl, hr, hi⟩ := major_7D (mod_of_bits hk)
  have hf := keep 25 7 (by decide)
  refine ⟨lt, decodes (zs := []) (ne_of_bits hk (by decide)) (ne_of_bits hk (by decide)) ?_ ?_ ?_ ?_ ?_⟩
  · rw [hz, hf]; rfl
  · exact rfl
  · exact hl
  · exact hr
  · rw [hi, instrXe, hf]
    show some _ = _
    rw [fieldAt_of_bits he0, fieldAt_of_bits he1, fieldAt_of_bits he2]

theorem xcancel (a d : BitVec 6) : Statement (.xcancel a d) := by
  intro _ wd hEnc
  have L := word_layout [(13, 6), (7, 6)] [a.toNat, d.toNat] 0x0A00007D (by decide) (by decide) ⟨a.isLt, d.isLt, trivial⟩
  rw [show wordOn 0x0A00007D [(13, 6), (7, 6)] [a.toNat, d.toNat] = wd from Option.some.inj hEnc] at L
  obtain ⟨lt, ⟨he0, he1, -⟩, keep⟩ := L
  have hk := keep 0 7 (by decide)
  obtain ⟨hz, hl, hr, hi⟩ := major_7D (mod_of_bits hk)
  have hf := keep 25 7 (by decide)
  refine ⟨lt, decodes (zs := [(19, 6)]) (ne_of_bits hk (by decide)) (ne_of_bits hk (by decide)) ?_ ?_ ?_ ?_ ?_⟩
  · rw [hz, hf]; rfl
  · simp only [allZero, List.all_cons, List.all_nil, keep 19 6 (by decide)]; rfl
  · exact hl
  · exact hr
  · rw [hi, instrXe, hf]
    show some _ = _
    rw [fieldAt_of_bits he0, fieldAt_of_bits he1]

theorem xquery (a d : BitVec 6) : Statement (.xquery a d) := by
  intro _ wd hEnc
  have L := word_layout [(13, 6), (7, 6)] [a.toNat, d.toNat] 0x0C00007D (by decide) (by decide) ⟨a.isLt, d.isLt, trivial⟩
  rw [show wordOn 0x0C00007D [(13, 6), (7, 6)] [a.toNat, d.toNat] = wd from Option.some.inj hEnc] at L
  obtain ⟨lt, ⟨he0, he1, -⟩, keep⟩ := L
  have hk := keep 0 7 (by decide)
  obtain ⟨hz, hl, hr, hi⟩ := major_7D (mod_of_bits hk)
  have hf := keep 25 7 (by decide)
  refine ⟨lt, decodes (zs := [(19, 6)]) (ne_of_bits hk (by decide)) (ne_of_bits hk (by decide)) ?_ ?_ ?_ ?_ ?_⟩
  · rw [hz, hf]; rfl
  · simp only [allZero, List.all_cons, List.all_nil, keep 19 6 (by decide)]; rfl
  · exact hl
  · exact hr
  · rw [hi, instrXe, hf]
    show some _ = _
    rw [fieldAt_of_bits he0, fieldAt_of_bits he1]

theorem xswap (b a d : BitVec 6) : Statement (.xswap b a d) := by
  intro _ wd hEnc
  have L := word_layout [(19, 6), (13, 6), (7, 6)] [b.toNat, a.toNat, d.toNat] 0x8000007D (by decide) (by decide) ⟨b.isLt, a.isLt, d.isLt, trivial⟩
  rw [show wordOn 0x8000007D [(19, 6), (13, 6), (7, 6)] [b.toNat, a.toNat, d.toNat] = wd from Option.some.inj hEnc] at L
  obtain ⟨lt, ⟨he0, he1, he2, -⟩, keep⟩ := L
  have hk := keep 0 7 (by decide)
  obtain ⟨hz, hl, hr, hi⟩ := major_7D (mod_of_bits hk)
  have hf := keep 25 7 (by decide)
  refine ⟨lt, decodes (zs := []) (ne_of_bits hk (by decide)) (ne_of_bits hk (by decide)) ?_ ?_ ?_ ?_ ?_⟩
  · rw [hz, hf]; rfl
  · exact rfl
  · exact hl
  · exact hr
  · rw [hi, instrXe, hf]
    show some _ = _
    rw [fieldAt_of_bits he0, fieldAt_of_bits he1, fieldAt_of_bits he2]

theorem xmig (b a d : BitVec 6) : Statement (.xmig b a d) := by
  intro _ wd hEnc
  have L := word_layout [(19, 6), (13, 6), (7, 6)] [b.toNat, a.toNat, d.toNat] 0x8200007D (by decide) (by decide) ⟨b.isLt, a.isLt, d.isLt, trivial⟩
  rw [show wordOn 0x8200007D [(19, 6), (13, 6), (7, 6)] [b.toNat, a.toNat, d.toNat] = wd from Option.some.inj hEnc] at L
  obtain ⟨lt, ⟨he0, he1, he2, -⟩, keep⟩ := L
  have hk := keep 0 7 (by decide)
  obtain ⟨hz, hl, hr, hi⟩ := major_7D (mod_of_bits hk)
  have hf := keep 25 7 (by decide)
  refine ⟨lt, decodes (zs := []) (ne_of_bits hk (by decide)) (ne_of_bits hk (by decide)) ?_ ?_ ?_ ?_ ?_⟩
  · rw [hz, hf]; rfl
  · exact rfl
  · exact hl
  · exact hr
  · rw [hi, instrXe, hf]
    show some _ = _
    rw [fieldAt_of_bits he0, fieldAt_of_bits he1, fieldAt_of_bits he2]

theorem xseal (b a d : BitVec 6) : Statement (.xseal b a d) := by
  intro _ wd hEnc
  have L := word_layout [(19, 6), (13, 6), (7, 6)] [b.toNat, a.toNat, d.toNat] 0x8400007D (by decide) (by decide) ⟨b.isLt, a.isLt, d.isLt, trivial⟩
  rw [show wordOn 0x8400007D [(19, 6), (13, 6), (7, 6)] [b.toNat, a.toNat, d.toNat] = wd from Option.some.inj hEnc] at L
  obtain ⟨lt, ⟨he0, he1, he2, -⟩, keep⟩ := L
  have hk := keep 0 7 (by decide)
  obtain ⟨hz, hl, hr, hi⟩ := major_7D (mod_of_bits hk)
  have hf := keep 25 7 (by decide)
  refine ⟨lt, decodes (zs := []) (ne_of_bits hk (by decide)) (ne_of_bits hk (by decide)) ?_ ?_ ?_ ?_ ?_⟩
  · rw [hz, hf]; rfl
  · exact rfl
  · exact hl
  · exact hr
  · rw [hi, instrXe, hf]
    show some _ = _
    rw [fieldAt_of_bits he0, fieldAt_of_bits he1, fieldAt_of_bits he2]

theorem xeQueueRoom (strand : Nat) : Statement (.xeQueueRoom strand) := fun _ _ h => nomatch h

theorem engineCommandStart (engine blocks : Nat) : Statement (.engineCommandStart engine blocks) := fun _ _ h => nomatch h

theorem engineCommandEnd (engine : Nat) : Statement (.engineCommandEnd engine) := fun _ _ h => nomatch h

theorem collectiveRingStep (ticket : Nat) : Statement (.collectiveRingStep ticket) := fun _ _ h => nomatch h

theorem collectiveAbort (ticket : Nat) : Statement (.collectiveAbort ticket) := fun _ _ h => nomatch h

theorem ticketExpiry (ticket : Nat) : Statement (.ticketExpiry ticket) := fun _ _ h => nomatch h

theorem migrationFlip (ticket : Nat) : Statement (.migrationFlip ticket) := fun _ _ h => nomatch h

theorem own (name frame size : Nat) : Statement (.own name frame size) := fun _ _ h => nomatch h

theorem retarget (name owner : Nat) : Statement (.retarget name owner) := fun _ _ h => nomatch h

theorem owner (name owner source : Nat) : Statement (.owner name owner source) := fun _ _ h => nomatch h

theorem ownerAck (name package : Nat) : Statement (.ownerAck name package) := fun _ _ h => nomatch h

theorem stubTimeout (name : Nat) : Statement (.stubTimeout name) := fun _ _ h => nomatch h

theorem peerRequest (source seq addr : Nat) (asks : Nat ⊕ List (BitVec 8) ⊕ (BitVec 4 × Bool × BitVec 64 × BitVec 64)) (forwarded : Bool) (mark : Option Nat) : Statement (.peerRequest source seq addr asks forwarded mark) := fun _ _ h => nomatch h

theorem redirect (name owner : Nat) : Statement (.redirect name owner) := fun _ _ h => nomatch h

theorem peerRequestTimeout (request : Nat) : Statement (.peerRequestTimeout request) := fun _ _ h => nomatch h

theorem peerRetryResend (request : Nat) : Statement (.peerRetryResend request) := fun _ _ h => nomatch h

theorem counterAdvance (index measurement : Nat) : Statement (.counterAdvance index measurement) := fun _ _ h => nomatch h

theorem leaseRequest (index restorer nonce : Nat) : Statement (.leaseRequest index restorer nonce) := fun _ _ h => nomatch h

theorem consume (index restorer : Nat) : Statement (.consume index restorer) := fun _ _ h => nomatch h

theorem leaseExpiry (index : Nat) : Statement (.leaseExpiry index) := fun _ _ h => nomatch h

theorem raise (a d : BitVec 6) : Statement (.raise a d) := by
  intro _ wd hEnc
  have L := word_layout [(13, 6), (7, 6)] [a.toNat, d.toNat] 0x0000007E (by decide) (by decide) ⟨a.isLt, d.isLt, trivial⟩
  rw [show wordOn 0x0000007E [(13, 6), (7, 6)] [a.toNat, d.toNat] = wd from Option.some.inj hEnc] at L
  obtain ⟨lt, ⟨he0, he1, -⟩, keep⟩ := L
  have hk := keep 0 7 (by decide)
  obtain ⟨hz, hl, hr, hi⟩ := major_7E (mod_of_bits hk)
  have hf := keep 25 7 (by decide)
  refine ⟨lt, decodes (zs := [(19, 6)]) (ne_of_bits hk (by decide)) (ne_of_bits hk (by decide)) ?_ ?_ ?_ ?_ ?_⟩
  · rw [hz, hf]; rfl
  · simp only [allZero, List.all_cons, List.all_nil, keep 19 6 (by decide)]; rfl
  · exact hl
  · exact hr
  · rw [hi, instrWork, hf]
    show some _ = _
    rw [fieldAt_of_bits he0, fieldAt_of_bits he1]

theorem qpush (b a d : BitVec 6) : Statement (.qpush b a d) := by
  intro _ wd hEnc
  have L := word_layout [(19, 6), (13, 6), (7, 6)] [b.toNat, a.toNat, d.toNat] 0x0200007E (by decide) (by decide) ⟨b.isLt, a.isLt, d.isLt, trivial⟩
  rw [show wordOn 0x0200007E [(19, 6), (13, 6), (7, 6)] [b.toNat, a.toNat, d.toNat] = wd from Option.some.inj hEnc] at L
  obtain ⟨lt, ⟨he0, he1, he2, -⟩, keep⟩ := L
  have hk := keep 0 7 (by decide)
  obtain ⟨hz, hl, hr, hi⟩ := major_7E (mod_of_bits hk)
  have hf := keep 25 7 (by decide)
  refine ⟨lt, decodes (zs := []) (ne_of_bits hk (by decide)) (ne_of_bits hk (by decide)) ?_ ?_ ?_ ?_ ?_⟩
  · rw [hz, hf]; rfl
  · exact rfl
  · exact hl
  · exact hr
  · rw [hi, instrWork, hf]
    show some _ = _
    rw [fieldAt_of_bits he0, fieldAt_of_bits he1, fieldAt_of_bits he2]

theorem qpushRoom (strand : Nat) : Statement (.qpushRoom strand) := fun _ _ h => nomatch h

theorem qpushCandidateMark (strand : Nat) : Statement (.qpushCandidateMark strand) := fun _ _ h => nomatch h

theorem qpop (a d : BitVec 6) : Statement (.qpop a d) := by
  intro _ wd hEnc
  have L := word_layout [(13, 6), (7, 6)] [a.toNat, d.toNat] 0x0400007E (by decide) (by decide) ⟨a.isLt, d.isLt, trivial⟩
  rw [show wordOn 0x0400007E [(13, 6), (7, 6)] [a.toNat, d.toNat] = wd from Option.some.inj hEnc] at L
  obtain ⟨lt, ⟨he0, he1, -⟩, keep⟩ := L
  have hk := keep 0 7 (by decide)
  obtain ⟨hz, hl, hr, hi⟩ := major_7E (mod_of_bits hk)
  have hf := keep 25 7 (by decide)
  refine ⟨lt, decodes (zs := [(19, 6)]) (ne_of_bits hk (by decide)) (ne_of_bits hk (by decide)) ?_ ?_ ?_ ?_ ?_⟩
  · rw [hz, hf]; rfl
  · simp only [allZero, List.all_cons, List.all_nil, keep 19 6 (by decide)]; rfl
  · exact hl
  · exact hr
  · rw [hi, instrWork, hf]
    show some _ = _
    rw [fieldAt_of_bits he0, fieldAt_of_bits he1]

theorem exit : Statement .exit := by
  intro _ wd hEnc
  have L := word_layout [] [] 0x0600007E (by decide) rfl trivial
  rw [show wordOn 0x0600007E [] [] = wd from Option.some.inj hEnc] at L
  obtain ⟨lt, -, keep⟩ := L
  have hk := keep 0 7 (by decide)
  obtain ⟨hz, hl, hr, hi⟩ := major_7E (mod_of_bits hk)
  have hf := keep 25 7 (by decide)
  refine ⟨lt, decodes (zs := [(7, 18)]) (ne_of_bits hk (by decide)) (ne_of_bits hk (by decide)) ?_ ?_ ?_ ?_ ?_⟩
  · rw [hz, hf]; rfl
  · simp only [allZero, List.all_cons, List.all_nil, keep 7 18 (by decide)]; rfl
  · exact hl
  · exact hr
  · rw [hi, instrWork, hf]
    show some _ = _
    rfl

theorem yield : Statement .yield := by
  intro _ wd hEnc
  have L := word_layout [] [] 0x0800007E (by decide) rfl trivial
  rw [show wordOn 0x0800007E [] [] = wd from Option.some.inj hEnc] at L
  obtain ⟨lt, -, keep⟩ := L
  have hk := keep 0 7 (by decide)
  obtain ⟨hz, hl, hr, hi⟩ := major_7E (mod_of_bits hk)
  have hf := keep 25 7 (by decide)
  refine ⟨lt, decodes (zs := [(7, 18)]) (ne_of_bits hk (by decide)) (ne_of_bits hk (by decide)) ?_ ?_ ?_ ?_ ?_⟩
  · rw [hz, hf]; rfl
  · simp only [allZero, List.all_cons, List.all_nil, keep 7 18 (by decide)]; rfl
  · exact hl
  · exact hr
  · rw [hi, instrWork, hf]
    show some _ = _
    rfl

theorem stgdone : Statement .stgdone := by
  intro _ wd hEnc
  have L := word_layout [] [] 0x0A00007E (by decide) rfl trivial
  rw [show wordOn 0x0A00007E [] [] = wd from Option.some.inj hEnc] at L
  obtain ⟨lt, -, keep⟩ := L
  have hk := keep 0 7 (by decide)
  obtain ⟨hz, hl, hr, hi⟩ := major_7E (mod_of_bits hk)
  have hf := keep 25 7 (by decide)
  refine ⟨lt, decodes (zs := [(7, 18)]) (ne_of_bits hk (by decide)) (ne_of_bits hk (by decide)) ?_ ?_ ?_ ?_ ?_⟩
  · rw [hz, hf]; rfl
  · simp only [allZero, List.all_cons, List.all_nil, keep 7 18 (by decide)]; rfl
  · exact hl
  · exact hr
  · rw [hi, instrWork, hf]
    show some _ = _
    rfl

theorem raisingEnd (rid : Nat) : Statement (.raisingEnd rid) := fun _ _ h => nomatch h

theorem tlbinv (b a d : BitVec 6) : Statement (.tlbinv b a d) := by
  intro _ wd hEnc
  have L := word_layout [(19, 6), (13, 6), (7, 6)] [b.toNat, a.toNat, d.toNat] 0x0000007F (by decide) (by decide) ⟨b.isLt, a.isLt, d.isLt, trivial⟩
  rw [show wordOn 0x0000007F [(19, 6), (13, 6), (7, 6)] [b.toNat, a.toNat, d.toNat] = wd from Option.some.inj hEnc] at L
  obtain ⟨lt, ⟨he0, he1, he2, -⟩, keep⟩ := L
  have hk := keep 0 7 (by decide)
  obtain ⟨hz, hl, hr, hi⟩ := major_7F (mod_of_bits hk)
  have hf := keep 25 7 (by decide)
  refine ⟨lt, decodes (zs := []) (ne_of_bits hk (by decide)) (ne_of_bits hf (by decide)) ?_ ?_ ?_ ?_ ?_⟩
  · rw [hz, hf]; rfl
  · exact rfl
  · exact hl
  · exact hr
  · rw [hi, instrPriv, hf]
    show some _ = _
    rw [fieldAt_of_bits he0, fieldAt_of_bits he1, fieldAt_of_bits he2]

theorem tlbinva (b a d : BitVec 6) : Statement (.tlbinva b a d) := by
  intro _ wd hEnc
  have L := word_layout [(19, 6), (13, 6), (7, 6)] [b.toNat, a.toNat, d.toNat] 0x0200007F (by decide) (by decide) ⟨b.isLt, a.isLt, d.isLt, trivial⟩
  rw [show wordOn 0x0200007F [(19, 6), (13, 6), (7, 6)] [b.toNat, a.toNat, d.toNat] = wd from Option.some.inj hEnc] at L
  obtain ⟨lt, ⟨he0, he1, he2, -⟩, keep⟩ := L
  have hk := keep 0 7 (by decide)
  obtain ⟨hz, hl, hr, hi⟩ := major_7F (mod_of_bits hk)
  have hf := keep 25 7 (by decide)
  refine ⟨lt, decodes (zs := []) (ne_of_bits hk (by decide)) (ne_of_bits hf (by decide)) ?_ ?_ ?_ ?_ ?_⟩
  · rw [hz, hf]; rfl
  · exact rfl
  · exact hl
  · exact hr
  · rw [hi, instrPriv, hf]
    show some _ = _
    rw [fieldAt_of_bits he0, fieldAt_of_bits he1, fieldAt_of_bits he2]

theorem tlbsync : Statement .tlbsync := by
  intro _ wd hEnc
  have L := word_layout [] [] 0x0400007F (by decide) rfl trivial
  rw [show wordOn 0x0400007F [] [] = wd from Option.some.inj hEnc] at L
  obtain ⟨lt, -, keep⟩ := L
  have hk := keep 0 7 (by decide)
  obtain ⟨hz, hl, hr, hi⟩ := major_7F (mod_of_bits hk)
  have hf := keep 25 7 (by decide)
  refine ⟨lt, decodes (zs := [(7, 18)]) (ne_of_bits hk (by decide)) (ne_of_bits hf (by decide)) ?_ ?_ ?_ ?_ ?_⟩
  · rw [hz, hf]; rfl
  · simp only [allZero, List.all_cons, List.all_nil, keep 7 18 (by decide)]; rfl
  · exact hl
  · exact hr
  · rw [hi, instrPriv, hf]
    show some _ = _
    rfl

theorem ctxsave (b a d : BitVec 6) : Statement (.ctxsave b a d) := by
  intro _ wd hEnc
  have L := word_layout [(19, 6), (13, 6), (7, 6)] [b.toNat, a.toNat, d.toNat] 0x0600007F (by decide) (by decide) ⟨b.isLt, a.isLt, d.isLt, trivial⟩
  rw [show wordOn 0x0600007F [(19, 6), (13, 6), (7, 6)] [b.toNat, a.toNat, d.toNat] = wd from Option.some.inj hEnc] at L
  obtain ⟨lt, ⟨he0, he1, he2, -⟩, keep⟩ := L
  have hk := keep 0 7 (by decide)
  obtain ⟨hz, hl, hr, hi⟩ := major_7F (mod_of_bits hk)
  have hf := keep 25 7 (by decide)
  refine ⟨lt, decodes (zs := []) (ne_of_bits hk (by decide)) (ne_of_bits hf (by decide)) ?_ ?_ ?_ ?_ ?_⟩
  · rw [hz, hf]; rfl
  · exact rfl
  · exact hl
  · exact hr
  · rw [hi, instrPriv, hf]
    show some _ = _
    rw [fieldAt_of_bits he0, fieldAt_of_bits he1, fieldAt_of_bits he2]

theorem ctxrest (b a d : BitVec 6) : Statement (.ctxrest b a d) := by
  intro _ wd hEnc
  have L := word_layout [(19, 6), (13, 6), (7, 6)] [b.toNat, a.toNat, d.toNat] 0x0800007F (by decide) (by decide) ⟨b.isLt, a.isLt, d.isLt, trivial⟩
  rw [show wordOn 0x0800007F [(19, 6), (13, 6), (7, 6)] [b.toNat, a.toNat, d.toNat] = wd from Option.some.inj hEnc] at L
  obtain ⟨lt, ⟨he0, he1, he2, -⟩, keep⟩ := L
  have hk := keep 0 7 (by decide)
  obtain ⟨hz, hl, hr, hi⟩ := major_7F (mod_of_bits hk)
  have hf := keep 25 7 (by decide)
  refine ⟨lt, decodes (zs := []) (ne_of_bits hk (by decide)) (ne_of_bits hf (by decide)) ?_ ?_ ?_ ?_ ?_⟩
  · rw [hz, hf]; rfl
  · exact rfl
  · exact hl
  · exact hr
  · rw [hi, instrPriv, hf]
    show some _ = _
    rw [fieldAt_of_bits he0, fieldAt_of_bits he1, fieldAt_of_bits he2]

theorem slogrp (d : BitVec 6) : Statement (.slogrp d) := by
  intro _ wd hEnc
  have L := word_layout [(7, 6)] [d.toNat] 0x0A00007F (by decide) (by decide) ⟨d.isLt, trivial⟩
  rw [show wordOn 0x0A00007F [(7, 6)] [d.toNat] = wd from Option.some.inj hEnc] at L
  obtain ⟨lt, ⟨he0, -⟩, keep⟩ := L
  have hk := keep 0 7 (by decide)
  obtain ⟨hz, hl, hr, hi⟩ := major_7F (mod_of_bits hk)
  have hf := keep 25 7 (by decide)
  refine ⟨lt, decodes (zs := [(13, 12)]) (ne_of_bits hk (by decide)) (ne_of_bits hf (by decide)) ?_ ?_ ?_ ?_ ?_⟩
  · rw [hz, hf]; rfl
  · simp only [allZero, List.all_cons, List.all_nil, keep 13 12 (by decide)]; rfl
  · exact hl
  · exact hr
  · rw [hi, instrPriv, hf]
    show some _ = _
    rw [fieldAt_of_bits he0]

theorem slogdrop (b a d : BitVec 6) : Statement (.slogdrop b a d) := by
  intro _ wd hEnc
  have L := word_layout [(19, 6), (13, 6), (7, 6)] [b.toNat, a.toNat, d.toNat] 0x0C00007F (by decide) (by decide) ⟨b.isLt, a.isLt, d.isLt, trivial⟩
  rw [show wordOn 0x0C00007F [(19, 6), (13, 6), (7, 6)] [b.toNat, a.toNat, d.toNat] = wd from Option.some.inj hEnc] at L
  obtain ⟨lt, ⟨he0, he1, he2, -⟩, keep⟩ := L
  have hk := keep 0 7 (by decide)
  obtain ⟨hz, hl, hr, hi⟩ := major_7F (mod_of_bits hk)
  have hf := keep 25 7 (by decide)
  refine ⟨lt, decodes (zs := []) (ne_of_bits hk (by decide)) (ne_of_bits hf (by decide)) ?_ ?_ ?_ ?_ ?_⟩
  · rw [hz, hf]; rfl
  · exact rfl
  · exact hl
  · exact hr
  · rw [hi, instrPriv, hf]
    show some _ = _
    rw [fieldAt_of_bits he0, fieldAt_of_bits he1, fieldAt_of_bits he2]

theorem pgpin (a d : BitVec 6) : Statement (.pgpin a d) := by
  intro _ wd hEnc
  have L := word_layout [(13, 6), (7, 6)] [a.toNat, d.toNat] 0x0E00007F (by decide) (by decide) ⟨a.isLt, d.isLt, trivial⟩
  rw [show wordOn 0x0E00007F [(13, 6), (7, 6)] [a.toNat, d.toNat] = wd from Option.some.inj hEnc] at L
  obtain ⟨lt, ⟨he0, he1, -⟩, keep⟩ := L
  have hk := keep 0 7 (by decide)
  obtain ⟨hz, hl, hr, hi⟩ := major_7F (mod_of_bits hk)
  have hf := keep 25 7 (by decide)
  refine ⟨lt, decodes (zs := [(19, 6)]) (ne_of_bits hk (by decide)) (ne_of_bits hf (by decide)) ?_ ?_ ?_ ?_ ?_⟩
  · rw [hz, hf]; rfl
  · simp only [allZero, List.all_cons, List.all_nil, keep 19 6 (by decide)]; rfl
  · exact hl
  · exact hr
  · rw [hi, instrPriv, hf]
    show some _ = _
    rw [fieldAt_of_bits he0, fieldAt_of_bits he1]

theorem pgunpin (a d : BitVec 6) : Statement (.pgunpin a d) := by
  intro _ wd hEnc
  have L := word_layout [(13, 6), (7, 6)] [a.toNat, d.toNat] 0x1000007F (by decide) (by decide) ⟨a.isLt, d.isLt, trivial⟩
  rw [show wordOn 0x1000007F [(13, 6), (7, 6)] [a.toNat, d.toNat] = wd from Option.some.inj hEnc] at L
  obtain ⟨lt, ⟨he0, he1, -⟩, keep⟩ := L
  have hk := keep 0 7 (by decide)
  obtain ⟨hz, hl, hr, hi⟩ := major_7F (mod_of_bits hk)
  have hf := keep 25 7 (by decide)
  refine ⟨lt, decodes (zs := [(19, 6)]) (ne_of_bits hk (by decide)) (ne_of_bits hf (by decide)) ?_ ?_ ?_ ?_ ?_⟩
  · rw [hz, hf]; rfl
  · simp only [allZero, List.all_cons, List.all_nil, keep 19 6 (by decide)]; rfl
  · exact hl
  · exact hr
  · rw [hi, instrPriv, hf]
    show some _ = _
    rw [fieldAt_of_bits he0, fieldAt_of_bits he1]

theorem stubq (a d : BitVec 6) : Statement (.stubq a d) := by
  intro _ wd hEnc
  have L := word_layout [(13, 6), (7, 6)] [a.toNat, d.toNat] 0x1200007F (by decide) (by decide) ⟨a.isLt, d.isLt, trivial⟩
  rw [show wordOn 0x1200007F [(13, 6), (7, 6)] [a.toNat, d.toNat] = wd from Option.some.inj hEnc] at L
  obtain ⟨lt, ⟨he0, he1, -⟩, keep⟩ := L
  have hk := keep 0 7 (by decide)
  obtain ⟨hz, hl, hr, hi⟩ := major_7F (mod_of_bits hk)
  have hf := keep 25 7 (by decide)
  refine ⟨lt, decodes (zs := [(19, 6)]) (ne_of_bits hk (by decide)) (ne_of_bits hf (by decide)) ?_ ?_ ?_ ?_ ?_⟩
  · rw [hz, hf]; rfl
  · simp only [allZero, List.all_cons, List.all_nil, keep 19 6 (by decide)]; rfl
  · exact hl
  · exact hr
  · rw [hi, instrPriv, hf]
    show some _ = _
    rw [fieldAt_of_bits he0, fieldAt_of_bits he1]

theorem convoyIssue (strand : Nat) : Statement (.convoyIssue strand) := fun _ _ h => nomatch h

theorem elementGroupCommit (strand : Nat) : Statement (.elementGroupCommit strand) := fun _ _ h => nomatch h

theorem trapEntry (strand : Nat) (cause : BitVec 8) (xval : BitVec 64) : Statement (.trapEntry strand cause xval) := fun _ _ h => nomatch h

theorem slog (strand : Nat) : Statement (.slog strand) := fun _ _ h => nomatch h

theorem s2FaultHeartwood (strand : Nat) (resolved : Bool) : Statement (.s2FaultHeartwood strand resolved) := fun _ _ h => nomatch h

theorem wfiWake (strand : Nat) : Statement (.wfiWake strand) := fun _ _ h => nomatch h

theorem launchSlotWrite (vf slot offset : Nat) (bytes : List (BitVec 8)) : Statement (.launchSlotWrite vf slot offset bytes) := fun _ _ h => nomatch h

theorem placeBent (bent : Nat) (bays : List (List Nat)) : Statement (.placeBent bent bays) := fun _ _ h => nomatch h

theorem bentFirstIssue (bent : Nat) : Statement (.bentFirstIssue bent) := fun _ _ h => nomatch h

theorem createInstance (rid stage : Nat) : Statement (.createInstance rid stage) := fun _ _ h => nomatch h

theorem priorityAging (bent : Nat) : Statement (.priorityAging bent) := fun _ _ h => nomatch h

theorem stageScoring : Statement .stageScoring := fun _ _ h => nomatch h

theorem preemption (bent : Nat) : Statement (.preemption bent) := fun _ _ h => nomatch h

theorem preemptionSaved (bent : Nat) : Statement (.preemptionSaved bent) := fun _ _ h => nomatch h

theorem arbiterGrant (grants : List Nat) : Statement (.arbiterGrant grants) := fun _ _ h => nomatch h

theorem baysplitWrite (bay : Nat) (value : BitVec 64) : Statement (.baysplitWrite bay value) := fun _ _ h => nomatch h

theorem registerWrite (addr : Nat) (value : BitVec 64) : Statement (.registerWrite addr value) := fun _ _ h => nomatch h

theorem heartwoodCsrWrite (bay : Nat) (csr : BitVec 12) (value : BitVec 64) : Statement (.heartwoodCsrWrite bay csr value) := fun _ _ h => nomatch h

theorem rsgoWrite : Statement .rsgoWrite := fun _ _ h => nomatch h

theorem resyncComplete : Statement .resyncComplete := fun _ _ h => nomatch h

theorem hostPostedWrite (port addr : Nat) (bytes : List (BitVec 8)) : Statement (.hostPostedWrite port addr bytes) := fun _ _ h => nomatch h

theorem hostRead (addr bytes : Nat) : Statement (.hostRead addr bytes) := fun _ _ h => nomatch h

theorem functionLevelReset (vf : Nat) : Statement (.functionLevelReset vf) := fun _ _ h => nomatch h

theorem packageReset : Statement .packageReset := fun _ _ h => nomatch h

theorem powerOnReset : Statement .powerOnReset := fun _ _ h => nomatch h

theorem frzN : Statement .frzN := fun _ _ h => nomatch h

theorem plumbFreeze : Statement .plumbFreeze := fun _ _ h => nomatch h

theorem plumbReadout (addr bytes : Nat) : Statement (.plumbReadout addr bytes) := fun _ _ h => nomatch h

theorem plumbBudget (watts : Nat) : Statement (.plumbBudget watts) := fun _ _ h => nomatch h

theorem correctableError (bay : Nat) : Statement (.correctableError bay) := fun _ _ h => nomatch h

theorem uncorrectableError (addr : Nat) : Statement (.uncorrectableError addr) := fun _ _ h => nomatch h

theorem scrub : Statement .scrub := fun _ _ h => nomatch h

theorem accessPerformed (strand position scope : Nat) : Statement (.accessPerformed strand position scope) := fun _ _ h => nomatch h

theorem hostAtomicop (op : BitVec 4) (w64 : Bool) (addr : Nat) (operand compare : BitVec 64) : Statement (.hostAtomicop op w64 addr operand compare) := fun _ _ h => nomatch h

theorem powerLoss : Statement .powerLoss := fun _ _ h => nomatch h

theorem domainFormation (package : Nat) (members : List Nat) : Statement (.domainFormation package members) := fun _ _ h => nomatch h

theorem counterAllocation (index measurement : Nat) : Statement (.counterAllocation index measurement) := fun _ _ h => nomatch h

theorem virtualFunctionMapping (vf : Nat) (wings : List Nat) (runtime : Bool) (asid : BitVec 16) (ptbase : BitVec 64) (vmid : BitVec 10) (s2root : BitVec 64) : Statement (.virtualFunctionMapping vf wings runtime asid ptbase vmid s2root) := fun _ _ h => nomatch h

end RoundTrip

end Sys2Proof.Laws
end

