-- ==== Sys2Proof/Tests/Slice0.lean ====
section
/-! SUPPORT. The author's own tests: words of the spec, ill-formed terms, single steps, and for every statement with
hypotheses a state and operands that meet them. -/

set_option maxRecDepth 20000

open Sys2Proof Sys2Proof.Config Sys2Proof.Machine Sys2Proof.Safety Sys2Proof.Laws

namespace Sys2Proof.Tests

/-! ### A small machine

One strand at user level on bay 0, with a handler. Its tables map the page at 0x4000_0000 to frame 0x2_0000 for every
access, A and D set, and the next one to frame 0x2_1000 as a slack page; the bay's TLB and the beam's walker hold what the
first walk gives. A slack region covers the first page. -/

/-- The leaf that maps the page. -/
def leaf0 : Leaf := { pte := 0x200DF, addr := 0x13000, size := 12, base := 0x20000 }

/-- The page as the TLB holds it. -/
def page : TlbEntry :=
  { vmid := 0, asid := 0, glob := false, size := 12, page := 0x40000, base := 0x20000, low := 0xDF, cmp := false,
    slk := false, mig := false, first := leaf0, second := none }

/-- Bay 0 with the page in its TLB. -/
def bay0 : Bay := { State.resetBay with tlb := [page] }

/-- The walker's entries of that walk. -/
def walked : List (Nat × WalkEntry) :=
  [(0, { vmid := 0, asid := 0, stage2 := false, level := 1, prefixBits := 0, table := 0x11000 }),
   (0, { vmid := 0, asid := 0, stage2 := false, level := 2, prefixBits := 1, table := 0x12000 }),
   (0, { vmid := 0, asid := 0, stage2 := false, level := 3, prefixBits := 0x200, table := 0x13000 })]

/-- The page tables, and in the page the words of a VADD and an ADDI, a spill header, one that is illegal, a fibre level descriptor with its arrays, a
fibre record, blocks of SLKDEF, two
blocks of XCOPY, the three words of a queue of
capacity 3, and a block of PGPIN. -/
def tables : Mem := [(0x10000, 0x01), (0x10001, 0x10), (0x10002, 0x01), (0x11008, 0x01), (0x11009, 0x20), (0x1100A, 0x01),
  (0x12000, 0x01), (0x12001, 0x30), (0x12002, 0x01), (0x13000, 0xDF), (0x13002, 0x02), (0x13008, 0xDF), (0x13009, 0x10), (0x1300A, 0x02), (0x1300F, 0x02),
  (0x20004, 0xB2), (0x20005, 0x31), (0x20006, 0x04), (0x20008, 0x81), (0x20009, 0xA2), (0x2000A, 0x98), (0x20200, 0x02), (0x20208, 0x01), (0x2020A, 0x01),
  (0x20300, 0x02), (0x20308, 0x01), (0x2030A, 0x01), (0x2030C, 0x01),
  (0x20400, 0x01), (0x20404, 0x0A), (0x20408, 0x40), (0x20409, 0x04), (0x2040B, 0x40), (0x20410, 0x50), (0x20411, 0x04),
  (0x20413, 0x40), (0x20418, 0x60), (0x20419, 0x04), (0x2041B, 0x40), (0x20444, 0x02), (0x20450, 0x03), (0x20454, 0x09),
  (0x20462, 0x80), (0x20463, 0x3F),
  (0x20480, 0x01), (0x20484, 0x01), (0x20490, 0x07), (0x20496, 0x80), (0x20497, 0x3F),
  (0x20520, 0x01), (0x20543, 0x40), (0x20549, 0x10), (0x20552, 0x80), (0x20553, 0x3F),
  (0x20561, 0x10), (0x20563, 0x40), (0x20569, 0x10), (0x20572, 0x80), (0x20573, 0x3F),
  (0x20583, 0x50), (0x20589, 0x10), (0x20592, 0x80), (0x20593, 0x3F), (0x205A3, 0x40),
  (0x20608, 0x01), (0x20609, 0x0D), (0x2060C, 0x40), (0x20611, 0x01), (0x20613, 0x40), (0x20618, 0x80), (0x20619, 0x01), (0x2061B, 0x40), (0x20620, 0x02), (0x20622, 0x01), (0x20628, 0x04), (0x20630, 0x04), (0x20638, 0x04),
  (0x20688, 0x01), (0x20689, 0x0C), (0x2068C, 0x40), (0x20691, 0x01), (0x20693, 0x40), (0x20698, 0x80), (0x20699, 0x01), (0x2069B, 0x40), (0x206A0, 0x02), (0x206A2, 0x01), (0x206A8, 0x04), (0x206B0, 0x04), (0x206B8, 0x04),
  (0x20748, 0x03), (0x20751, 0x08), (0x20753, 0x40), (0x207FD, 0x10)]

/-- The strand: s4, s8 to s10, s13 and s14 hold addresses in the page, s5 is 3, s6 is 1, VL is 4 and VT the FP32 type of one register. -/
def strand0 : Strand :=
  let v : Vf := { num := 0, wings := [0], runtime := false, asid := 0, ptbase := 0x10000, vmid := 0, s2root := 0 }
  let r := newRegs { sid := 0, nstr := 1, n := 0, sp := 0, ptr := 0, args := [] } 0x40000000 v 0x40000800 0 0 0
  let vals : List (Nat × Word) := [(4, 0x40000100), (5, 3), (6, 1), (8, 0x40000200), (9, 0x40000300), (10, 0x40000400), (13, 0x40000480), (14, 0x40000740)]
  let s := vals.foldl (fun v x => v.setIfInBounds x.1 x.2) r.s
  newStrand 0 0 { r with s := s, vl := 4 } [newBlock 0 0 (placeWord v 0) 0]

/-- A slack region over the page, of budget 1.0 and nothing granted. -/
def region0 : Region :=
  { base := 0x40000000, size := 0x1000, asid := 0, vmid := 0, budget := 0x3F800000, unit := 0, pool := 1048576, holders := [],
    serving := none }

/-- The machine with that strand changed by `f`. -/
def with0 (f : Strand → Strand) : State :=
  { State.reset with
    mem := tables, bays := State.reset.bays.setIfInBounds 0 bay0, walkers := walked, strands := [f strand0], bents := [placedBent],
    regions := [region0] }

/-- The machine. -/
abbrev m0 : State := with0 id

theorem ready {st : Strand} (h1 : vtLegal st.r.vt.toNat = true) (h2 : st.r.vstart = 0) (h3 : st.inflight = none)
    (h4 : st.strongNow = false) (h5 : st.pending = []) : VectorReady st :=
  ⟨h1, h2, h3, h4, by rw [h5]; exact fun _ h => nomatch h⟩

theorem runs0 (f : Strand → Strand) : Runs (with0 f) (f strand0) := rfl

theorem bay_with0 (f : Strand → Strand) (n : Nat) : bayOf (with0 f) n = if n = 0 then bay0 else State.resetBay := by
  unfold bayOf with0 State.reset
  by_cases h : n = 0
  · subst h; rfl
  · rw [if_neg h]
    simp only [Vector.getD, Vector.toArray_setIfInBounds, Array.getD_eq_getD_getElem?]
    rw [Array.getElem?_setIfInBounds_ne (Ne.symm h)]
    by_cases hn : n < 320
    · simp [hn]
    · simp [hn]

/-- What the page's translation gives for an offset. -/
def at0 (o : Nat) : Xl := { pa := 0x20000 + o, ord := 0, home := 0, cmp := false, slk := false, mig := false, size := 12, glob := false }

theorem no_device {s : State} {a : Nat} (h : a < 0x200000000000) : isDevice s a = false := by
  have : ¬ deviceBase ≤ localAddr a := by
    have : localAddr a ≤ a := Nat.mod_le _ _
    show ¬ 0x200000000000 ≤ localAddr a
    omega
  simp [isDevice, this]

theorem quiet0 (f : Strand → Strand) (st : Strand) (o : Nat) (h : o < 0x1000) (hb : st.blocks ≠ []) (hs : slogCount st = 0)
    (ho : st.pending = []) : Quiet (with0 f) st [at0 o] (0x40000000 + o) := by
  refine ⟨hb, hs, ho, rfl, rfl, .inr rfl, fun i hi => no_device ?_, fun n => ?_⟩
  · show 0x20000 + o + i < 0x200000000000
    omega
  · rw [bay_with0]
    split <;> exact ⟨rfl, rfl⟩

/-- The context the strand translates in. -/
def ctx0 (l : Level) : XCtx := { vmid := 0, asid := 0, ptbase := 0x10000, s2root := 0, level := l, engine := false, unit := 0 }

/-- A byte of the tables, in a state with the machine's memory map. -/
theorem steer_near {s : State} (h : s.pkg = 0 ∧ s.directory = [] ∧ s.adoption = [] ∧ s.pins = [] ∧ s.swaps = []) {a : Nat}
    (ha : a < 2 ^ 46) : steer s a = a := by
  obtain ⟨h1, h2, h3, h4, h5⟩ := h
  have f : pkgField a = 0 := by simp only [pkgField]; omega
  have l : localAddr a = a := by simp only [localAddr]; omega
  simp [steer, localFrame, isLocal, f, l, h1, h2, h3, steerFrame, h4, h5]

/-- What a state like the machine has of it. -/
structure Like (l : Level) (s : State) (st : Strand) : Prop where
  runs : strandOf s = some st
  ctx : strandCtx st 0 = ctx0 l
  tlb : (bayOf s 0).tlb = [page]
  walk : s.walkers = walked
  load : ∀ a ∈ [0x10000, 0x11008, 0x12000, 0x13000], physLoad s a 8 = physLoad m0 a 8
  map : s.pkg = 0 ∧ s.directory = [] ∧ s.adoption = [] ∧ s.pins = [] ∧ s.swaps = []
  near : s.sealedWings = [] ∧ s.prepared = [] ∧ s.part = State.wholePart
  dirty : ∀ r ∈ s.dirty, 0x20000 ≤ r.key

theorem entries : physLoad m0 0x10000 8 = 0x11001 ∧ physLoad m0 0x11008 8 = 0x12001 ∧ physLoad m0 0x12000 8 = 0x13001 ∧
    physLoad m0 0x13000 8 = 0x200DF := by decide

/-- A read of a table pulls nothing. -/
theorem Like.pull {l : Level} {s : State} {st : Strand} (h : Like l s st) {a : Nat} (ha : a + 128 ≤ 0x20000) (hl : a % 128 = 0) :
    pullBytes s a 128 = s := by
  have k : ∀ i, i < 128 → steer s (a + i) = a + i := fun i hi => steer_near h.map (by omega)
  have f : ∀ r ∈ s.dirty, staysDirty s none .uncachedRead (keysOf s a 128) r = true := by
    intro r hr
    have := h.dirty r hr
    have n : (keysOf s a 128).any (fun k => k / 128 == r.key / 128) = false := by
      rw [List.any_eq_false]
      intro x hx
      obtain ⟨i, hi, rfl⟩ := List.mem_map.mp hx
      rw [List.mem_range] at hi
      rw [k i hi]
      simp only [beq_iff_eq]
      omega
    simp [staysDirty, n]
  unfold pullBytes homeAccess
  split
  · rfl
  · rw [List.filter_eq_self.mpr f]

/-- A walk goes on at the table an entry names, when the walker holds that table. -/
theorem walk_on {s : State} {c : XCtx} {b : Bool} {va fuel table t : Nat}
    (hp : pullBytes s (entryAddr table (3 - fuel) va / 128 * 128) 128 = s)
    (hr : readEntry s table (3 - fuel) va = .table t)
    (hh : heldTables s c b (3 - fuel) va (.table t) = []) (hk : keepTable c b (3 - fuel) va t s = .ok () s) :
    walkFrom c b va (fuel + 1) table s = walkFrom c b va fuel t s := by
  conv => lhs; unfold walkFrom
  simp only [bind, EStateM.bind, get, getThe, MonadStateOf.get, EStateM.get, hr, hh, pure, EStateM.pure, modify, modifyGet,
    MonadStateOf.modifyGet, EStateM.modifyGet, hp, hk]

/-- The walker holds every table of the walk. -/
theorem Like.keep {l : Level} {s : State} {st : Strand} (h : Like l s st) {c : XCtx} {n va t : Nat}
    (hw : (c.beam, ({ vmid := c.vmid, asid := c.asid, stage2 := false, level := n + 1, prefixBits := va / 2 ^ levelShift n, table := t } : WalkEntry)) ∈ walked) :
    keepTable c false n va t s = .ok () s := by
  unfold keepTable
  rw [bind_ok (get_run s)]
  simp only [h.walk, List.contains_iff_mem.mpr hw]
  rfl

/-- A walk ends at a leaf. -/
theorem walk_leaf {s : State} {c : XCtx} {b : Bool} {va fuel table : Nat} {l : Leaf}
    (hp : pullBytes s (entryAddr table (3 - fuel) va / 128 * 128) 128 = s)
    (hr : readEntry s table (3 - fuel) va = .leaf l) (hh : heldTables s c b (3 - fuel) va (.leaf l) = []) :
    walkFrom c b va (fuel + 1) table s = .ok (.ok l) s := by
  unfold walkFrom
  simp only [bind, EStateM.bind, get, getThe, MonadStateOf.get, EStateM.get, hr, hh, pure, EStateM.pure, modify, modifyGet,
    MonadStateOf.modifyGet, EStateM.modifyGet, hp]

theorem Like.lookup {l : Level} {s : State} {st : Strand} (h : Like l s st) {o : Nat} (ho : o < 0x1000) (write : Bool) :
    lookup (ctx0 l) (0x40000000 + o) write s = .ok (.ok page) s := by
  obtain ⟨l0, l1, l2, l3⟩ := entries
  have p0 : (0x40000000 + o) / 2 ^ 39 = 0 := by omega
  have p1 : (0x40000000 + o) / 2 ^ 30 = 1 := by omega
  have p2 : (0x40000000 + o) / 2 ^ 21 = 0x200 := by omega
  have p3 : (0x40000000 + o) / 2 ^ 12 = 0x40000 := by omega
  have r0 : readEntry s 0x10000 0 (0x40000000 + o) = .table 0x11000 := by
    simp only [readEntry, entryAddr, levelShift, p0, h.load 0x10000 (by simp), l0]; rfl
  have r1 : readEntry s 0x11000 1 (0x40000000 + o) = .table 0x12000 := by
    simp only [readEntry, entryAddr, levelShift, p1, h.load 0x11008 (by simp), l1]; rfl
  have r2 : readEntry s 0x12000 2 (0x40000000 + o) = .table 0x13000 := by
    simp only [readEntry, entryAddr, levelShift, p2, h.load 0x12000 (by simp), l2]; rfl
  have r3 : readEntry s 0x13000 3 (0x40000000 + o) = .leaf leaf0 := by
    simp only [readEntry, entryAddr, levelShift, p3, h.load 0x13000 (by simp), l3]; rfl
  have u : ∀ {t n : Nat}, t ≤ 0x13000 → pullBytes s (entryAddr t n (0x40000000 + o) / 128 * 128) 128 = s := by
    intro t n ht
    exact h.pull (by simp only [entryAddr]; omega) (by omega)
  have w : walkFrom (ctx0 l) false (0x40000000 + o) 4 0x10000 s = .ok (.ok leaf0) s := by
    rw [walk_on (fuel := 3) (u (by omega)) r0 (by simp only [heldTables, levelShift, p0, h.walk]; cases l <;> rfl) (h.keep (by simp only [levelShift, p0, walked]; cases l <;> simp [ctx0, XCtx.beam])),
      walk_on (fuel := 2) (u (by omega)) r1 (by simp only [heldTables, levelShift, p1, h.walk]; cases l <;> rfl) (h.keep (by simp only [levelShift, p1, walked]; cases l <;> simp [ctx0, XCtx.beam])),
      walk_on (fuel := 1) (u (by omega)) r2 (by simp only [heldTables, levelShift, p2, h.walk]; cases l <;> rfl) (h.keep (by simp only [levelShift, p2, walked]; cases l <;> simp [ctx0, XCtx.beam]))]
    exact walk_leaf (fuel := 0) (u (by omega)) r3 (by simp only [heldTables, levelShift, p3, h.walk]; cases l <;> rfl)
  have b : walkBoth (ctx0 l) (0x40000000 + o) s = .ok (.ok page) s := by
    unfold walkBoth
    rw [show (ctx0 l).ptbase = 0x10000 from rfl, bind_ok w]
    simp only [leaf0, p3]
    rfl
  have hit : tlbHit (ctx0 l) (0x40000000 + o) page = true := by
    simp only [tlbHit, show page.size = 12 from rfl, p3]; cases l <;> rfl
  have same : differsFrom page page = false := by decide
  unfold Sys2Proof.Machine.lookup
  rw [bind_ok b, bind_ok (get_run s)]
  have t : (tlbOf s (ctx0 l)).filter (tlbHit (ctx0 l) (0x40000000 + o)) = [page] := by
    simp only [tlbOf, show (ctx0 l).engine = false from rfl, show (ctx0 l).unit = 0 from rfl, h.tlb]
    simp [hit]
  simp only [t, List.any_cons, List.any_nil, same]
  rfl

theorem Like.translate {l : Level} {s : State} {st : Strand} (h : Like l s st) {o : Nat} (ho : o < 0x1000) (acc : Acc)
    (ha : l = .user ∨ acc ≠ .fetch) :
    translate (ctx0 l) (0x40000000 + o) acc s = .ok (.ok (at0 o)) s := by
  obtain ⟨l0, l1, l2, l3⟩ := entries
  have c : canonical (0x40000000 + o) = true := by
    simp only [canonical, show (0x40000000 + o) / 2 ^ 47 = 0 by omega]; rfl
  have m : (0x40000000 + o) % 2 ^ 48 = 0x40000000 + o := by omega
  have g : grants (ctx0 l).level acc page.low.toNat = true := by
    rcases ha with rfl | ha
    · cases acc <;> rfl
    · cases l <;> cases acc <;> first | rfl | exact absurd rfl ha
  have k : keepXlat (ctx0 l) (page.touched acc.writes) s = .ok () s := by
    have m : [page].contains (page.touched acc.writes) = true := by cases acc <;> decide
    unfold keepXlat
    rw [bind_ok (get_run s)]
    simp only [tlbOf, show (ctx0 l).engine = false from rfl, show (ctx0 l).unit = 0 from rfl, h.tlb, Bool.false_eq_true,
      if_false]
    rw [if_pos m]
    rfl
  have a : setAccessed s page acc.writes = s := by
    simp only [setAccessed, TlbEntry.leaves, page, leaf0, Option.toList, List.foldl_cons, List.foldl_nil, h.load 0x13000 (by simp), l3]
    cases acc <;> rfl
  have x : xlOf (0x40000000 + o) page = at0 o := by
    have : (0x40000000 + o) % 2 ^ 12 = o := by omega
    simp only [xlOf, show page.size = 12 from rfl, this]; rfl
  unfold Sys2Proof.Machine.translate
  simp only [c, m]
  rw [if_neg (by decide), bind_ok (h.lookup ho _)]
  simp only [g]
  rw [if_neg (by decide)]
  simp only [k, a, x, bind, EStateM.bind, modify, modifyGet, MonadStateOf.modifyGet, EStateM.modifyGet, get, getThe,
    MonadStateOf.get, EStateM.get, no_device (s := s) (a := (at0 o).pa) (by show 0x20000 + o < _; omega)]
  rfl

theorem reach0 {s : State} (h : s.part = State.wholePart) (st : Strand) {a : Nat} (ha : 0x20000 ≤ a ∧ a < 0x21000) (n : Nat)
    (acc : Acc) : reachable s st 0 a n acc = true := by
  have f : pkgField a = 0 := by simp only [pkgField]; omega
  have l : localAddr a = a := by simp only [localAddr]; omega
  have w : wingOfHbm a = 0 := by simp only [wingOfHbm]; omega
  have c : scratchOf a = none := by
    have : decide (windowBase ≤ a) = false := decide_eq_false (by show ¬ 0x100000000000 ≤ a; omega)
    simp [scratchOf, this]
  have b : backedLocal s a = true := by
    have g : wingGiB s.part 0 = 32 := by rw [h]; rfl
    rw [backedLocal, if_pos (by show a < 0x70000000000; omega), backedDram, if_pos (by show a < 0x10000000000; omega), w, g]
    exact decide_eq_true (by omega)
  simp only [reachable, isLocal, f, l, c, b]
  rw [if_pos (by simp), if_neg (by show ¬ 0x200000000000 ≤ a; omega)]

theorem Like.check {l : Level} {s : State} {st : Strand} (h : Like l s st) {o n : Nat} (ho : o + n ≤ 0x1000) (hn : o < 0x1000) (acc : Acc)
    (ha : l = .user ∨ acc ≠ .fetch) :
    checkAccess 0 (0x40000000 + o) n acc s = .ok (.ok [at0 o]) s := by
  have p : pagesOf (0x40000000 + o) n = [0x40000000 + o] := by
    rw [pagesOf, if_pos (by omega)]
  have t : translatePages 0 acc [0x40000000 + o] s = .ok (.ok [(0x40000000 + o, at0 o)]) s := by
    unfold translatePages
    rw [bind_ok (getStrand_run h.runs), h.ctx, bind_ok (h.translate hn acc ha)]
    rfl
  have r : reachable s st 0 (at0 o).pa (bytesIn (0x40000000 + o) n (0x40000000 + o)) acc = true :=
    reach0 h.near.2.2 st (by show _ ≤ 0x20000 + o ∧ 0x20000 + o < _; omega) _ _
  have d : elsewhere s (at0 o).pa = false := by
    have f : pkgField (0x20000 + o) = 0 := by simp only [pkgField]; omega
    simp [elsewhere, isHost, servedBy, isLocal, at0, f, h.map.1, h.map.2.1]
  have e : askPages [(0x40000000 + o, at0 o)] s = .ok none s := by
    unfold askPages
    rw [bind_ok (get_run s)]
    simp only [List.filter_cons, d, List.filter_nil]
    rfl
  have q : lineHeld s [(0x40000000 + o, at0 o)] n = false := by
    simp [lineHeld, sealHolds, h.near.1, h.near.2.1]
  have r' : firstBad [(0x40000000 + o, at0 o)] (fun a x => !reachable s st 0 x.pa (bytesIn (0x40000000 + o) n a) acc) = none := by
    simp [firstBad, r]
  have rows : checkRows 0 (0x40000000 + o) n acc s = .ok (.ok [at0 o]) s := by
    unfold checkRows
    rw [p, bind_ok t]
    simp only [bind_ok (getStrand_run h.runs), bind_ok (get_run s), r']
    simp only [firstBad, List.find?_cons, List.find?_nil, show (at0 o).cmp = false from rfl,
      Option.map_none, List.map_cons, List.map_nil, List.headD_cons, List.any_cons, List.any_nil, bne_self_eq_false, Bool.or_false]
    rfl
  unfold checkAccess
  rw [bind_ok rows]
  simp only [checkServed, p, List.zip_cons_cons, List.zip_nil_right]
  rw [bind_ok e]
  simp only [bind_ok (get_run s), q]
  rfl

/-- The context of a strand that keeps its registers but MST, and the bays of its positions. -/
theorem ctx_kept {st st' : Strand}
    (hb : (st'.blocks.map fun bl => { still bl with slots := Vector.replicate 16 (emptySlot false) }) =
      (st.blocks.map fun bl => { still bl with slots := Vector.replicate 16 (emptySlot false) }))
    (hr : st'.r = { st.r with mst := st'.r.mst }) (b : Nat) : strandCtx st' b = strandCtx st b := by
  have e := congrArg (fun l => l[b]?) hb
  simp only [List.getElem?_map] at e
  unfold strandCtx
  rw [hr]
  cases h : st.blocks[b]? with
  | none =>
    cases h' : st'.blocks[b]? with
    | none => rfl
    | some y => rw [h, h'] at e; cases e
  | some x =>
    cases h' : st'.blocks[b]? with
    | none => rw [h, h'] at e; cases e
    | some y =>
      rw [h, h'] at e
      have e := Option.some.inj e
      have e1 := congrArg Block.bay e
      have e2 := congrArg Block.mplace e
      have e3 := congrArg Block.ms2root e
      simp only [still] at e1 e2 e3
      simp only [Option.elim, e1, e2, e3]

theorem physLoad_near {s t : State} (hs : ∀ a, a < 0x20000 → steer s a = a ∧ steer t a = a)
    (hm : ∀ a, a < 0x20000 → memRead s.mem a = memRead t.mem a) {a : Nat} (ha : a + 8 ≤ 0x20000) :
    physLoad s a 8 = physLoad t a 8 := by
  have : ∀ n a, a + n ≤ 0x20000 → physBytes s a n = physBytes t a n := by
    intro n
    induction n with
    | zero => intro a _; rfl
    | succ n ih =>
      intro a ha
      simp only [physBytes, physByte, (hs a (by omega)).1, (hs a (by omega)).2, hm a (by omega), ih (a + 1) (by omega)]
  rw [physLoad, physLoad, this 8 a ha]

/-- A state that the accesses of an instruction have changed is like the one they began in. -/
theorem Like.alike {l : Level} {s0 : State} {st0 : Strand} (h0 : Like l s0 st0) {K : Nat → Prop} (hK : ∀ k, K k → 0x20000 ≤ k)
    {s : State} (h : Alike K s0 s) : ∃ st, Like l s st := by
  obtain ⟨hm, hb, hd, hs, st1, st, hr, hset, hbl, hst⟩ := h
  cases hr.symm.trans h0.runs
  have hcur : s.cur = s0.cur := by rw [hs]
  have hlt : s0.cur < s0.strands.length := (List.getElem?_eq_some_iff.mp hr).1
  refine ⟨st, ⟨?_, ?_, ?_, ?_, ?_, ?_, ?_, ?_⟩⟩
  · rw [strandOf, hset, hcur, List.getElem?_set_self hlt]
  · rw [ctx_kept hbl (by rw [hst]) 0, h0.ctx]
  · have := congrArg Bay.tlb (hb 0)
    simpa [h0.tlb] using this
  · rw [hs]; exact h0.walk
  · intro a ha
    rw [← h0.load a ha]
    refine physLoad_near (fun a ha => ⟨steer_near ?_ (by omega), steer_near h0.map (by omega)⟩) (fun a ha => ?_) ?_
    · rw [hs]; exact h0.map
    · exact hm a fun k => absurd (hK a k) (by omega)
    · simp only [List.mem_cons, List.not_mem_nil, or_false] at ha
      omega
  · rw [hs]; exact h0.map
  · rw [hs]; exact h0.near
  · intro r hr
    rcases hd r hr with h | h
    · exact h0.dirty r h
    · exact hK _ h

/-- Every access to the page is steady under stores that leave the tables alone. -/
theorem Like.steady {l : Level} {s : State} {st : Strand} (h : Like l s st) {K : Nat → Prop} (hK : ∀ k, K k → 0x20000 ≤ k)
    {o n : Nat} (ho : o + n ≤ 0x1000) (hn : o < 0x1000) (acc : Acc)
    (ha : l = .user ∨ acc ≠ .fetch := by first | exact .inl rfl | exact .inr (by decide)) :
    Steady K s 0 (0x40000000 + o) n acc [at0 o] := fun _ x =>
  let ⟨_, l⟩ := h.alike hK x
  l.check ho hn acc ha

theorem like0 {l : Level} (f : Strand → Strand) (hc : strandCtx (f strand0) 0 = ctx0 l) : Like l (with0 f) (f strand0) :=
  ⟨runs0 f, hc, by rw [bay_with0]; rfl, rfl, fun _ _ => rfl, ⟨rfl, rfl, rfl, rfl, rfl⟩, ⟨rfl, rfl, rfl⟩, fun _ h => nomatch h⟩

theorem like_alike {l : Level} {f : Strand → Strand} (hc : strandCtx (f strand0) 0 = ctx0 l) {K : Nat → Prop} (hK : ∀ k, K k → 0x20000 ≤ k)
    {s : State} (h : Alike K (with0 f) s) : ∃ st, Like l s st := (like0 f hc).alike hK h

/-- Every access to the page of the small machine is steady under stores that leave its tables alone. -/
theorem steady0 {l : Level} {f : Strand → Strand} (hc : strandCtx (f strand0) 0 = ctx0 l) {K : Nat → Prop} (hK : ∀ k, K k → 0x20000 ≤ k)
    {o n : Nat} (ho : o + n ≤ 0x1000) (hn : o < 0x1000) (acc : Acc)
    (ha : l = .user ∨ acc ≠ .fetch := by first | exact .inl rfl | exact .inr (by decide)) :
    Steady K (with0 f) 0 (0x40000000 + o) n acc [at0 o] := (like0 f hc).steady hK ho hn acc ha

/-- It is allowed, too, and changes nothing. -/
theorem allowed0 {l : Level} {f : Strand → Strand} (hc : strandCtx (f strand0) 0 = ctx0 l) {o n : Nat} (ho : o + n ≤ 0x1000) (hn : o < 0x1000)
    (acc : Acc)
    (ha : l = .user ∨ acc ≠ .fetch := by first | exact .inl rfl | exact .inr (by decide)) :
    Allowed (with0 f) 0 (0x40000000 + o) n acc [at0 o] (with0 f) := by
  refine steady0 hc (K := fun _ => False) (fun _ h => h.elim) ho hn acc ha _ ⟨fun _ _ => rfl, fun _ => rfl, fun _ h => .inl h, rfl, _, _, runs0 f, ?_, rfl, rfl⟩
  rfl

/-- Where a byte of such an access lies. -/
theorem key0 (f : Strand → Strand) {o i : Nat} (h : o + i < 0x1000) : keyOf (with0 f) [at0 o] (0x40000000 + o) i = 0x20000 + o + i :=
  steer_near (by exact ⟨rfl, rfl, rfl, rfl, rfl⟩) (by show 0x20000 + o + i < _; omega)

/-! ### Witnesses: encoding and the scalar statements -/

theorem witness_DecodeOfEncode : (Instr.jld 0 0 21 8 2).wellFormed = true ∧ encodeWord (.jld 0 0 21 8 2) = some 0x0015416A := ⟨rfl, rfl⟩

theorem witness_DecodedWordIsItsEncoding : 0xFFF88282 < 2 ^ 32 ∧ decodeWord 0xFFF88282 = .ok (.addi 0x1FFF 4 5) := ⟨by decide, rfl⟩

/-- The strand that runs, at user level, with a handler, ready for vector instructions. -/
theorem witness_runs : Runs m0 strand0 ∧ HasHandler strand0 ∧ VectorReady strand0 ∧ slogCount strand0 = 0 ∧ MemOk m0 ∧
    strand0.blocks ≠ [] ∧ strand0.wait = .none ∧ strand0.r.level = .user :=
  ⟨rfl, ⟨rfl, by decide⟩, ready rfl rfl rfl rfl rfl, rfl, rfl, by decide, rfl, rfl⟩

/-- The same strand at runtime level, in a handler, and without a handler. -/
def atRuntime (st : Strand) : Strand := { st with r := { st.r with level := .runtime } }
def inHandler (st : Strand) : Strand := { st with r := { st.r with xstat := 2 } }
def noHandler (st : Strand) : Strand := { st with r := { st.r with xvec := 0 } }

theorem witness_ScalarArithmeticResults : Runs m0 strand0 ∧ regRead strand0.r 5 = 3 := ⟨rfl, rfl⟩

/-- A branch that is taken and one that is not; a jump table's index at and below its bound, and a misaligned entry. -/
theorem witness_ScalarControlFlowResults : Runs m0 strand0 ∧ regRead strand0.r 5 ≠ regRead strand0.r 0 ∧
    (2 : BitVec 7).toNat + 1 ≤ (regRead strand0.r 5).toNat ∧ (regRead strand0.r 5).toNat ≤ (3 : BitVec 7).toNat ∧
    (let va := regRead strand0.r 5 + 4 * regRead strand0.r 0
     watchHit strand0.r va.toNat 4 .read = none ∧ va.toNat % 4 ≠ 0) ∧
    (let va := regRead strand0.r 4 + BitVec.ofNat 64 (4 * (regRead strand0.r 5).toNat)
     watchHit strand0.r va.toNat 4 .read = none ∧ va.toNat % 4 = 0 ∧
       Allowed m0 0 va.toNat 4 .read [at0 0x10C] m0 ∧ Quiet m0 strand0 [at0 0x10C] va.toNat) :=
  ⟨rfl, by decide, by decide, by decide, by decide, rfl, rfl, allowed0 (o := 0x10C) rfl (by decide) (by decide) _,
    quiet0 _ _ 0x10C (by decide) (by decide) rfl rfl⟩

/-- A doubleword at the last place of the page that holds one. -/
theorem witness_ScalarMemoryResults :
    let va := (regRead strand0.r 4 + (0x3F8 : BitVec 11).signExtend 64).toNat
    Runs m0 strand0 ∧ (∀ acc, acc ≠ .fetch → watchHit strand0.r va 8 acc = none) ∧ va % 8 = 0 ∧ slogCount strand0 = 0 ∧ MemOk m0 ∧
      ∀ acc, Allowed m0 0 va 8 acc [at0 0x4F8] m0 ∧ Quiet m0 strand0 [at0 0x4F8] va :=
  ⟨rfl, by intro acc; cases acc <;> decide, rfl, rfl, rfl, fun acc => ⟨allowed0 (o := 0x4F8) rfl (by decide) (by decide) _,
    quiet0 _ _ 0x4F8 (by decide) (by decide) rfl rfl⟩⟩

/-- WATCH on the line, a misaligned address, a refused page, and a missing one with the side log off. -/
theorem witness_ScalarAccessTraps :
    (let st : Strand := { strand0 with r := { strand0.r with watcha := 0x40000103 } }
     Runs (with0 fun _ => st) st ∧ watchHit st.r 0x40000100 4 .read = some 0x40000100 ∧
       watchHit st.r 0x400000FE 4 .write = some 0x40000100) ∧
    (watchHit strand0.r 0x40000103 4 .read = none ∧ 0x40000103 % 4 ≠ 0) ∧
    (∃ c s, checkAccess 0 0x800000000000 4 .read m0 = .ok (.fail c) s) ∧
    ∃ c s, checkAccess 0 0x40002000 4 .write (with0 fun st => { st with r := { st.r with slogEn := false } }) = .ok (.log c) s ∧
      ∃ st, Runs s st ∧ st.blocks ≠ [] ∧ st.r.slogEn = false :=
  ⟨⟨rfl, rfl, rfl⟩, ⟨rfl, by decide⟩, ⟨_, _, rfl⟩, _, _, rfl, _, rfl, by decide, rfl⟩

/-- NaNs, signalling ones, infinities of both signs, zeros and negative numbers of both formats. -/
theorem witness_ScalarFloatResults :
    (fpDecode 0 0x7FF8000000000000).isNan = true ∧ (fpDecode 1 0x7F800001).isSnan = true ∧
    fpDecode 1 0x7F800000 = .inf false ∧ fpDecode 1 0xFF800000 = .inf true ∧ (∃ n e, fpDecode 1 0 = .fin n 0 e) ∧
    ∃ m e, fpDecode 0 0xBFF0000000000000 = .fin true m e ∧ m ≠ 0 :=
  ⟨rfl, rfl, rfl, rfl, ⟨_, _, rfl⟩, _, _, rfl, by decide⟩

/-- A CSR that reads, MST among them. -/
theorem witness_CsrReadResults : (∃ v, csrValue m0.time strand0 7 = some v) ∧ csrCheck .user 7 = none ∧
    csrCheck .user 0x13 = none ∧ csrValue m0.time strand0 0x13 ≠ none := ⟨⟨_, rfl⟩, rfl, rfl, by decide⟩

/-- A CSR that is written; values with a reserved field, and the largest that are not; the numbers that trap. -/
theorem witness_CsrWriteResults : csrCheck .user 8 = none ∧ csrReadOnly 8 = false ∧ csrValue m0.time strand0 8 ≠ none ∧
    (∃ st, csrStore strand0 8 5 5 = some st) ∧ (0x60000 : Word).toNat / 2 ^ 16 % 16 = 6 ∧ (0x70000 : Word).toNat / 2 ^ 16 % 16 = 7 ∧
    csrCheck .user 0x50 = none ∧ csrValue m0.time strand0 0x50 = none ∧ csrReadOnly 0x20 = true ∧ csrCheck .user 0x20 = none ∧
    csrValue m0.time strand0 0x20 ≠ none :=
  ⟨rfl, rfl, by decide, ⟨_, rfl⟩, rfl, rfl, rfl, rfl, rfl, rfl, by decide⟩

/-- Every CSR a user strand may write, with a legal value; at runtime level one above 0x100. -/
theorem witness_CsrWritesComplete : Runs m0 strand0 ∧ (∀ n ∈ Forms.csrWritable, n < 0x100 → csrCheck .user n = none) ∧
    Forms.csrLegal strand0 0x011 0x100 ∧ Forms.csrLegal strand0 0x007 0x60000 ∧ Forms.csrLegal strand0 0x10B 0 ∧
    Runs (with0 atRuntime) (atRuntime strand0) ∧ (0x10C ∈ Forms.csrWritable) :=
  ⟨rfl, by decide, ⟨by decide, by decide, by decide, fun _ => ⟨by decide, by decide, by decide⟩, by decide, by decide⟩,
    ⟨by decide, by decide, by decide, by decide, by decide, by decide⟩,
    ⟨by decide, by decide, by decide, by decide, by decide, fun _ => rfl⟩, rfl, by decide⟩

theorem witness_TrapEntryAndDoubleTrap : HasHandler strand0 ∧ causeIllop ≠ causeEccuc ∧ causeIllop ≠ causeRemote ∧
    xstatIn (inHandler strand0).r.xstat = true ∧ (noHandler strand0).r.xvec = 0 ∧ m0.errlog.length < 1024 :=
  ⟨⟨rfl, by decide⟩, by decide, by decide, rfl, rfl, by decide⟩

theorem witness_SystemInstructionResults : Runs (with0 atRuntime) (atRuntime strand0) ∧ (atRuntime strand0).r.level = .runtime ∧
    strand0.wait ≠ .wfi ∧ ({ strand0 with wait := .wfi } : Strand).wait = .wfi := ⟨rfl, rfl, by decide, rfl⟩

/-! ### Witnesses: vector statements -/

/-- The strand with another vector type. -/
def withVt (t : BitVec 13) (st : Strand) : Strand := { st with r := { st.r with vt := t } }

/-- A strand ready for vector instructions of elements of a width and a format, whose groups the numbers fit. -/
def VectorCase (f : Strand → Strand) (w fmt : Nat) : Prop :=
  Runs (with0 f) (f strand0) ∧ VectorReady (f strand0) ∧ vtWidth (f strand0).r.vt = w ∧ vtFmt (f strand0).r.vt = fmt ∧
    (f strand0).blocks ≠ [] ∧ 28 % vtG (f strand0).r.vt = 0

/-- Each width the integer functions take: INT8, INT16 and INT32, and 64 bits in groups of four registers. -/
theorem witness_vector_widths : VectorCase (withVt 0x0B) 8 11 ∧ VectorCase (withVt 0x0A) 16 10 ∧ VectorCase (withVt 0x09) 32 9 ∧
    VectorCase (withVt 0x20) 64 0 :=
  ⟨⟨rfl, ready rfl rfl rfl rfl rfl, rfl, rfl, by decide, rfl⟩, ⟨rfl, ready rfl rfl rfl rfl rfl, rfl, rfl, by decide, rfl⟩,
    ⟨rfl, ready rfl rfl rfl rfl rfl, rfl, rfl, by decide, rfl⟩, ⟨rfl, ready rfl rfl rfl rfl rfl, rfl, rfl, by decide, rfl⟩⟩

theorem witness_VectorIntegerResults : VectorCase (withVt 0x09) 32 9 ∧ (32 ∈ [8, 16, 32, 64]) := ⟨witness_vector_widths.2.2.1, by decide⟩
theorem witness_VectorComparesAndMasks : VectorCase (withVt 0x0B) 8 11 ∧ (8 ∈ [8, 16, 32, 64]) := ⟨witness_vector_widths.1, by decide⟩
theorem witness_VectorMoveResults : VectorCase (withVt 0x20) 64 0 ∧ (3 : BitVec 3) ≠ 0 ∧
    (regRead strand0.r 5).toNat = 0 * vlbOf strand0.r.vt + 3 ∧ 0 * vlbOf strand0.r.vt + 3 < strand0.r.vl ∧
    strand0.r.vl ≤ (regRead strand0.r 4).toNat := ⟨witness_vector_widths.2.2.2, by decide, by decide, by decide, by decide⟩
theorem witness_PermutesAndSelections : VectorCase (withVt 0x09) 32 9 ∧ (32 ∈ [32, 64]) := ⟨witness_vector_widths.2.2.1, by decide⟩
theorem witness_ReductionsAndScans : VectorCase (withVt 0x0A) 16 10 ∧ (16 ∈ [8, 16, 32, 64]) := ⟨witness_vector_widths.2.1, by decide⟩

/-- A shrink that finds the upper positions' side logs empty, and one that does not; a legal type and an illegal one. -/
def twoBlocks (st : Strand) : Strand := { st with blocks := st.blocks ++ [newBlock 1 1 0 0], shrink := some 1 }
def oneLogged (st : Strand) : Strand :=
  let e : LogEntry := { line := 0, asid := 0, vmid := 0, level := .user, rq := 0, nt := false, seq := 0, joins := false, op := .store [] }
  { st with blocks := st.blocks ++ [{ newBlock 1 1 0 0 with slog := [e] }], shrink := some 1 }

theorem witness_SetvlResults : vtLegal (0x41 : BitVec 13).toNat = true ∧ vtLegal (0x51 : BitVec 13).toNat = false ∧ strand0.shrink = none ∧
    Runs (with0 twoBlocks) (twoBlocks strand0) ∧ (∀ bl ∈ (twoBlocks strand0).blocks.drop 1, bl.slog = [] ∧ bl.ways = 0) ∧
    Runs (with0 oneLogged) (oneLogged strand0) ∧ ∃ bl ∈ (oneLogged strand0).blocks.drop 1, bl.slog ≠ [] := by
  refine ⟨rfl, rfl, rfl, rfl, ?_, rfl, _, List.mem_singleton.mpr rfl, by simp⟩
  intro bl h
  cases List.mem_singleton.mp h
  exact ⟨rfl, rfl⟩

/-- Fragment stacks: empty, a join entry, an else entry with a bit below VL, and one without above its join entry. -/
def frag (isElse : Bool) (m : BitVec maskBits) : Frag := { isElse := isElse, masks := [m], pc := 0x40000040 }
theorem witness_ActiveFragment : strand0.spilled = 0 ∧ strand0.frags = [] ∧ strand0.frags.length < 15 ∧
    emptyMasks strand0.r (frag true (BitVec.ofNat _ 1)).masks = false ∧ emptyMasks strand0.r (frag true (BitVec.ofNat _ 0)).masks = true ∧
    (frag true (BitVec.ofNat _ 0)).isElse = true ∧ (frag false (BitVec.ofNat _ 1)).isElse = false ∧
    (let st : Strand := { strand0 with frags := [frag true (BitVec.ofNat _ 0), frag false (BitVec.ofNat _ 1)] }
     Runs (with0 fun _ => st) st ∧ st.spilled = 0) := ⟨rfl, rfl, by decide, rfl, rfl, rfl, rfl, rfl, rfl⟩

theorem witness_FlagsAreSticky : (⟨0, 0x21, 0⟩ : FpRes).flags < 256 ∧ (0 : Nat) < 7 ∧ (6 : Nat) < 7 := by decide

/-- The four formats of vector arithmetic. -/
theorem witness_VectorFloatResults : VectorCase (withVt 0) 64 0 ∧ VectorCase id 32 1 ∧ VectorCase (withVt 2) 16 2 ∧
    VectorCase (withVt 3) 16 3 :=
  ⟨⟨rfl, ready rfl rfl rfl rfl rfl, rfl, rfl, by decide, rfl⟩, ⟨rfl, ready rfl rfl rfl rfl rfl, rfl, rfl, by decide, rfl⟩,
    ⟨rfl, ready rfl rfl rfl rfl rfl, rfl, rfl, by decide, rfl⟩, ⟨rfl, ready rfl rfl rfl rfl rfl, rfl, rfl, by decide, rfl⟩⟩

/-- FP32 to BF16 by FRM, into a group that is not the source's. -/
theorem witness_VectorConversions : VectorCase id 32 1 ∧ Instr.convertible 2 1 0 6 = true ∧
    alignedAt strand0.r (fmtWidth 1) 4 = true ∧ alignedAt strand0.r (fmtWidth 2) 8 = true :=
  ⟨witness_VectorFloatResults.2.1, rfl, rfl, rfl⟩

/-- Integers in, just above and just below the narrower format; a NaN, and a number with its integer. -/
theorem witness_ConversionValues : 127 < 2 ^ fmtWidth 9 ∧ signed (fmtWidth 9) 127 < (2 ^ (fmtWidth 11 - 1) : Nat) ∧
    ((2 ^ (fmtWidth 11 - 1) : Nat) : Int) ≤ signed (fmtWidth 9) 128 ∧ signed (fmtWidth 9) 0xFFFFFF7F < -((2 ^ (fmtWidth 11 - 1) : Nat) : Int) ∧
    (fpDecode 1 0x7FC00000).isNan = true ∧
    ∃ n m e, fpDecode 1 0x40000000 = .fin n m e ∧ m * 2 ^ e.toNat = 2 * 2 ^ (-e).toNat ∧ 2 < 2 ^ (fmtWidth 11 - 1) :=
  ⟨by decide, by decide, by decide, by decide, rfl, _, _, _, rfl, by decide, by decide⟩

/-- E4M3 under scale blocks of 32. -/
theorem witness_BlockScaleResults : VectorCase (withVt 0x104) 8 4 ∧ scaleFormat 0x104 = true ∧
    alignedAt (withVt 0x104 strand0).r 32 4 = true :=
  ⟨⟨rfl, ready rfl rfl rfl rfl rfl, rfl, rfl, by decide, rfl⟩, rfl, rfl⟩

theorem witness_VectorFloatReductions : VectorCase (withVt 2) 16 2 ∧ strand0.r.frm.toNat % 8 ≠ 5 :=
  ⟨witness_VectorFloatResults.2.2.1, by decide⟩
theorem witness_VectorFloatSelections : VectorCase id 32 1 ∧ (1 < 2) := ⟨witness_VectorFloatResults.2.1, by decide⟩

/-! ### Witnesses: vector memory -/

/-- The pages of accesses at offsets of the page. -/
def pagesAt (off : Nat → Nat → Nat) : Nat → Nat → Nat → List Xl := fun _ j f => [at0 (off j f)]

/-- The accesses of four elements of one block at offsets of the page pass their checks. -/
theorem elements0 {F : Nat} {m : Nat} (addr : Nat → Block → Nat → Nat → Nat) (off : Nat → Nat → Nat) {K : Nat → Prop}
    (hK : ∀ k, K k → 0x20000 ≤ k) (acc : Acc) (hw : ∀ a, watchHit strand0.r a 4 acc = none)
    (ha : ∀ bl j f, strand0.blocks[0]? = some bl → j < 4 → f < F → addr 0 bl j f = 8 * (0x40000000 + off j f) ∧ off j f + 4 ≤ 0x1000) :
    ∀ b j bl f, Acts strand0 m b j bl → f < F →
      let va := addr b bl j f / 8 % 2 ^ 64
      let n := (addr b bl j f % 8 + 32 + 7) / 8
      watchHit strand0.r va n acc = none ∧ Steady K m0 b va n acc (pagesAt off b j f) ∧ Quiet m0 strand0 (pagesAt off b j f) va := by
  intro b j bl f ⟨hb, hj, hv, _⟩ hf
  have b0 : b = 0 := by
    cases b with
    | zero => rfl
    | succ n => cases hb
  subst b0
  have j4 : j < 4 := by
    have : strand0.r.vl = 4 := rfl
    omega
  obtain ⟨e, h⟩ := ha bl j f hb j4 hf
  have e1 : addr 0 bl j f / 8 % 2 ^ 64 = 0x40000000 + off j f := by omega
  have e2 : (addr 0 bl j f % 8 + 32 + 7) / 8 = 4 := by omega
  simp only [e1, e2]
  exact ⟨hw _, steady0 (f := id) rfl hK h (by omega) acc, quiet0 id _ _ (by omega) (by decide) rfl rfl⟩

theorem no_watch (acc : Acc) (a n : Nat) : watchHit strand0.r a n acc = none := by
  cases acc <;> rfl

/-- Unit, strided (s5 bytes apart), indexed (all indices zero) and two-field segment accesses of v8, with the operand x of
each and the offsets its elements have. -/
noncomputable def memCases : List (Forms.MemForm × BitVec 5 × (Nat → Nat → Nat)) :=
  Forms.mem.zip [(0, fun j _ => 0x100 + 4 * j), (5, fun j _ => 0x100 + 3 * j), (5, fun _ _ => 0x100), (1, fun j f => 0x100 + 8 * j + 4 * f)]

theorem elem_zero (w d j : Nat) : elemRead (newBlock 0 0 0 0) w d j = 0 := by
  simp [elemRead, getField, newBlock]

theorem memCases_fit : ∀ e ∈ memCases, e.1.refused 2 e.2.1 8 strand0 = false ∧ e.1.refusedLoad e.2.1 8 strand0 = false ∧
    ∀ bl j f, strand0.blocks[0]? = some bl → j < 4 → f < e.1.fields e.2.1 →
      e.1.addr strand0.r 2 e.2.1 4 32 0 bl j f = 8 * (0x40000000 + e.2.2 j f) ∧ e.2.2 j f + 4 ≤ 0x1000 := by
  have fits : ∀ (e : Forms.MemForm) (x : BitVec 5) (off : Nat → Nat → Nat),
      (∀ j < 4, ∀ f < e.fields x, e.addr strand0.r 2 x 4 32 0 (newBlock 0 0 0 0) j f = 8 * (0x40000000 + off j f) ∧ off j f + 4 ≤ 0x1000) →
      ∀ bl j f, strand0.blocks[0]? = some bl → j < 4 → f < e.fields x →
        e.addr strand0.r 2 x 4 32 0 bl j f = 8 * (0x40000000 + off j f) ∧ off j f + 4 ≤ 0x1000 := by
    intro e x off h bl j f hb hj hf
    cases (show some (newBlock 0 0 0 0) = some bl from hb)
    exact h j hj f hf
  intro e he
  simp only [memCases, Forms.mem, List.zip_cons_cons, List.zip_nil_right, List.mem_cons, List.not_mem_nil, or_false] at he
  rcases he with rfl | rfl | rfl | rfl
  · exact ⟨rfl, rfl, fits _ _ _ (by decide)⟩
  · exact ⟨rfl, rfl, fits _ _ _ (by decide)⟩
  · refine ⟨rfl, rfl, fits _ _ _ fun j _ f _ => ?_⟩
    show 8 * (((regRead strand0.r 4).toNat + elemRead (newBlock 0 0 0 0) 32 5 j) % 2 ^ 64) = _ ∧ _
    rw [elem_zero]
    exact ⟨rfl, show 0x100 + 4 ≤ 0x1000 by decide⟩
  · exact ⟨rfl, rfl, fits _ _ _ (by decide)⟩

theorem witness_VectorLoadResults : slogCount strand0 = 0 ∧ ∀ e ∈ memCases,
    e.1.refused 2 e.2.1 8 strand0 = false ∧ e.1.refusedLoad e.2.1 8 strand0 = false ∧
    ∀ b j bl f, Acts strand0 0 b j bl → f < e.1.fields e.2.1 →
      let at' := e.1.addr strand0.r 2 e.2.1 4 32
      watchHit strand0.r (at' b bl j f / 8 % 2 ^ 64) ((at' b bl j f % 8 + 32 + 7) / 8) .read = none ∧
        Steady (fun _ => False) m0 b (at' b bl j f / 8 % 2 ^ 64) ((at' b bl j f % 8 + 32 + 7) / 8) .read (pagesAt e.2.2 b j f) ∧
        Quiet m0 strand0 (pagesAt e.2.2 b j f) (at' b bl j f / 8 % 2 ^ 64) :=
  ⟨rfl, fun e he => ⟨(memCases_fit e he).1, (memCases_fit e he).2.1,
    elements0 _ _ (fun _ h => h.elim) _ (fun a => no_watch _ a 4) (memCases_fit e he).2.2⟩⟩

theorem witness_VectorStoreResults : slogCount strand0 = 0 ∧ MemOk m0 ∧ ∀ e ∈ memCases, e.1.refused 2 e.2.1 8 strand0 = false ∧
    let at' := e.1.addr strand0.r 2 e.2.1 4 32
    let size := fun (v : Nat) => (v % 8 + 32 + 7) / 8
    ∀ b j bl f, Acts strand0 0 b j bl → f < e.1.fields e.2.1 →
      let va := at' b bl j f / 8 % 2 ^ 64
      watchHit strand0.r va (size (at' b bl j f)) .write = none ∧
        Steady (fun k => ∃ b' j' bl' f' i, Acts strand0 0 b' j' bl' ∧ f' < e.1.fields e.2.1 ∧ i < size (at' b' bl' j' f') ∧
            k = keyOf m0 (pagesAt e.2.2 b' j' f') (at' b' bl' j' f' / 8 % 2 ^ 64) i)
          m0 b va (size (at' b bl j f)) .write (pagesAt e.2.2 b j f) ∧ Quiet m0 strand0 (pagesAt e.2.2 b j f) va := by
  refine ⟨rfl, rfl, fun e he => ⟨(memCases_fit e he).1, elements0 _ _ ?_ _ (fun a => no_watch _ a 4) (memCases_fit e he).2.2⟩⟩
  rintro k ⟨b, j, bl, f, i, ⟨hb, hj, hv, _⟩, hf, hi, rfl⟩
  have b0 : b = 0 := by
    cases b with
    | zero => rfl
    | succ n => cases hb
  subst b0
  have j4 : j < 4 := by
    have : strand0.r.vl = 4 := rfl
    omega
  obtain ⟨h1, h2⟩ := (memCases_fit e he).2.2 bl j f hb j4 hf
  have e1 : e.1.addr strand0.r 2 e.2.1 4 32 0 bl j f / 8 % 2 ^ 64 = 0x40000000 + e.2.2 j f := by omega
  have e2 : i < 4 := by
    have hi : i < (e.1.addr strand0.r 2 e.2.1 4 32 0 bl j f % 8 + 32 + 7) / 8 := hi
    omega
  rw [e1, pagesAt, key0 id (by omega)]
  omega

/-- All indices zero: every access at s[5] rounded down to a word of the lane's slice. -/
theorem witness_LaneSliceResults : VectorReady strand0 ∧ expandHolds m0 m0.cur (fun kind _ _ => kind == 2) = false ∧
    sliceBad 2 5 8 strand0 = false ∧ indexOverlap 5 8 strand0 = false ∧ (∀ bl ∈ strand0.blocks, memWf bl.slices = true) ∧
    ∀ b j bl, Acts strand0 0 b j bl →
      ((regRead strand0.r 0).toNat + elemRead bl 32 5 j) % 2 ^ 64 + 32 / 8 ≤ 8192 * (bayOf m0 bl.bay).k ∧
        ((regRead strand0.r 0).toNat + elemRead bl 32 5 j) % 2 ^ 64 % (32 / 8) = 0 := by
  refine ⟨ready rfl rfl rfl rfl rfl, rfl, rfl, rfl, ?_, ?_⟩
  · intro bl h
    cases List.mem_singleton.mp h
    rfl
  · intro b j bl ⟨hb, hj, _⟩
    cases b with
    | succ n => cases hb
    | zero =>
      cases (show some (newBlock 0 0 0 0) = some bl from hb)
      rw [elem_zero]
      decide

theorem below4 {b j : Nat} (h : b < strand0.blocks.length ∧ j < vlbOf strand0.r.vt ∧ b * vlbOf strand0.r.vt + j < strand0.r.vl) :
    b = 0 ∧ j < 4 := by
  obtain ⟨h1, _, h2⟩ := h
  have e1 : strand0.blocks.length = 1 := rfl
  have e2 : strand0.r.vl = 4 := rfl
  constructor
  · omega
  · omega

/-- A spill of v8 to s[4] = 0x4000_0100: the header and four words after it. -/
theorem witness_SpillResults :
    let bit := fun (b j : Nat) => (0x40000100 + 16) * 8 + (b * vlbOf strand0.r.vt + j) * 32
    let size := fun (v : Nat) => (v % 8 + 32 + 7) / 8
    let below := fun (b j : Nat) => b < strand0.blocks.length ∧ j < vlbOf strand0.r.vt ∧ b * vlbOf strand0.r.vt + j < strand0.r.vl
    let pages := fun (_ j : Nat) => [at0 (0x110 + 4 * j)]
    let K := fun (k : Nat) => (∃ i, i < 16 ∧ k = keyOf m0 [at0 0x100] 0x40000100 i) ∨
      ∃ b j i, below b j ∧ i < size (bit b j) ∧ k = keyOf m0 (pages b j) (bit b j / 8 % 2 ^ 64) i
    (regRead strand0.r 4).toNat = 0x40000100 ∧ watchHit strand0.r 0x40000100 16 .write = none ∧
      Steady K m0 0 0x40000100 16 .write [at0 0x100] ∧ Quiet m0 strand0 [at0 0x100] 0x40000100 ∧
      ∀ b j, below b j → watchHit strand0.r (bit b j / 8 % 2 ^ 64) (size (bit b j)) .write = none ∧
        Steady K m0 b (bit b j / 8 % 2 ^ 64) (size (bit b j)) .write (pages b j) ∧
        Quiet m0 strand0 (pages b j) (bit b j / 8 % 2 ^ 64) := by
  intro bit size below pages K
  have e : ∀ j, j < 4 → bit 0 j / 8 % 2 ^ 64 = 0x40000000 + (0x110 + 4 * j) ∧ size (bit 0 j) = 4 := by
    intro j h
    simp only [bit, size]
    omega
  have hK : ∀ k, K k → 0x20000 ≤ k := by
    rintro k (⟨i, hi, rfl⟩ | ⟨b, j, i, hb, hi, rfl⟩)
    · rw [key0 id (o := 0x100) (by omega)]
      omega
    · obtain ⟨rfl, hj⟩ := below4 hb
      rw [(e j hj).2] at hi
      rw [(e j hj).1, key0 id (o := 0x110 + 4 * j) (by omega)]
      omega
  refine ⟨rfl, rfl, steady0 (o := 0x100) rfl hK (by decide) (by decide) _, quiet0 id _ 0x100 (by decide) (by decide) rfl rfl, ?_⟩
  intro b j hb
  obtain ⟨rfl, hj⟩ := below4 hb
  rw [(e j hj).1, (e j hj).2]
  exact ⟨no_watch _ _ _, steady0 rfl hK (by omega) (by omega) _, quiet0 id _ _ (by omega) (by decide) rfl rfl⟩

/-- The header at s[8] = 0x4000_0200 is legal, of two elements of FP32; the one at s[9] has a non-zero byte 12. -/
theorem witness_FillResults :
    (regRead strand0.r 8).toNat = 0x40000200 ∧ (regRead strand0.r 9).toNat = 0x40000300 ∧
    (∀ o ∈ [0x200, 0x300], watchHit strand0.r (0x40000000 + o) 16 .read = none ∧
      Steady (fun _ => False) m0 0 (0x40000000 + o) 16 .read [at0 o] ∧ Quiet m0 strand0 [at0 o] (0x40000000 + o)) ∧
    valueAt m0 [at0 0x200] 0x40000200 8 = 2 ∧
    leValue ((List.range 2).map fun i => memRead m0.mem (keyOf m0 [at0 0x200] 0x40000200 (8 + i))) = 1 ∧ vtLegal 1 = true ∧
    (∀ i, 12 ≤ i → i < 16 → memRead m0.mem (keyOf m0 [at0 0x200] 0x40000200 i) = 0) ∧
    memRead m0.mem (keyOf m0 [at0 0x300] 0x40000300 12) ≠ 0 ∧
    ∀ b j, b < strand0.blocks.length ∧ j < vlbOf 1 ∧ b * vlbOf 1 + j < 2 →
      let v := (0x40000200 + 16) * 8 + (b * vlbOf 1 + j) * 32
      watchHit strand0.r (v / 8 % 2 ^ 64) ((v % 8 + 32 + 7) / 8) .read = none ∧
        Steady (fun _ => False) m0 b (v / 8 % 2 ^ 64) ((v % 8 + 32 + 7) / 8) .read [at0 (0x210 + 4 * j)] ∧
        Quiet m0 strand0 [at0 (0x210 + 4 * j)] (v / 8 % 2 ^ 64) := by
  refine ⟨rfl, rfl, ?_, by decide, by decide, rfl, ?_, by decide, ?_⟩
  · intro o ho
    have : o < 0x400 := by
      simp only [List.mem_cons, List.not_mem_nil, or_false] at ho
      omega
    exact ⟨no_watch _ _ _, steady0 (f := id) rfl (fun _ h => h.elim) (by omega) (by omega) _, quiet0 id _ _ (by omega) (by decide) rfl rfl⟩
  · intro i h1 h2
    have h : ∀ i < 16, 12 ≤ i → memRead m0.mem (keyOf m0 [at0 0x200] 0x40000200 i) = 0 := by decide
    exact h i h2 h1
  · intro b j ⟨h1, _, h2⟩ v
    have e1 : strand0.blocks.length = 1 := rfl
    have b0 : b = 0 := by omega
    subst b0
    have e2 : v / 8 % 2 ^ 64 = 0x40000000 + (0x210 + 4 * j) ∧ (v % 8 + 32 + 7) / 8 = 4 := by
      simp only [v]
      omega
    rw [e2.1, e2.2]
    exact ⟨no_watch _ _ _, steady0 (f := id) rfl (fun _ h => h.elim) (by omega) (by omega) _, quiet0 id _ _ (by omega) (by decide) rfl rfl⟩

/-- One line of the page; a legal way mask of WAYCONV in s6; and how a range function meets the line in every like state. -/
theorem witness_CacheResults : (regRead strand0.r 4).toNat = 0x40000100 ∧ (regRead strand0.r 5).toNat = 3 ∧
    (regRead strand0.r 0).toNat % 4 = 0 ∧ (0xFC : Nat) % 4 = 0 ∧ (0xFC : Nat) < 256 ∧
    ∀ f s, Alike (fun k => ∃ r ∈ m0.dirty, r.key = k) m0 s →
      cacheXlat f (0x40000100 / 128 * 128 % 2 ^ 64) s = .ok (some (at0 0x100)) s := by
  refine ⟨rfl, rfl, rfl, rfl, by decide, ?_⟩
  intro f s h
  obtain ⟨st, l⟩ := like_alike (l := .user) (f := id) rfl (fun k ⟨r, hr, _⟩ => nomatch hr) h
  have lv : st.r.level = .user := congrArg XCtx.level l.ctx
  have k : keepXlat (ctx0 .user) (page.touched false) s = .ok () s := by
    unfold keepXlat
    rw [bind_ok (get_run s)]
    simp only [tlbOf, show (ctx0 .user).engine = false from rfl, show (ctx0 .user).unit = 0 from rfl, l.tlb, Bool.false_eq_true,
      if_false]
    rw [if_pos (by decide)]
    rfl
  have a : setAccessed s page false = s := by
    simp only [setAccessed, TlbEntry.leaves, page, leaf0, Option.toList, List.foldl_cons, List.foldl_nil, l.load 0x13000 (by simp),
      entries.2.2.2]
    rfl
  have low : page.low.toNat = 0xDF := rfl
  have x : xlOf 0x40000100 page = at0 0x100 := rfl
  have hl : lookup (ctx0 .user) 0x40000100 false s = _ := l.lookup (o := 0x100) (by decide) false
  unfold cacheXlat
  rw [bind_ok (getStrand_run l.runs), l.ctx, show 0x40000100 / 128 * 128 % 2 ^ 64 = 0x40000100 from rfl]
  simp only [show canonical 0x40000100 = true from rfl, Bool.not_true, Bool.false_eq_true, if_false, show 0x40000100 % 2 ^ 48 = 0x40000100 from rfl]
  rw [bind_ok hl]
  simp only [low, lv]
  cases f <;>
  · simp only [show pteBit 0xDF 4 = true from rfl, show pteBit 0xDF 2 = true from rfl, x]
    simp [bind, EStateM.bind, modify, modifyGet, MonadStateOf.modifyGet, EStateM.modifyGet, k, a, pure, EStateM.pure, at0]

/-- A frame of one VADD after the REPF, with a trip count of zero (s0) and of one (s6). -/
theorem witness_RepeatFrameRuns : ∃ ws s1 st1, fetchFrame (2 ^ 62) 1 0 (strand0.r.pc + 4) none m0 = .ok ws s1 ∧ Runs s1 st1 ∧
    ws = [{ p := 0, word := 0x000431B2, addr := 0x40000004 }] ∧
    0 % vtG st1.r.vt = 0 ∧ st1.r.rstg.toNat / 2 ^ (3 * 0) % 8 ≤ 0 ∧ st1.r.vstart = 0 ∧ st1.inflight = none ∧
    (regRead st1.r 0).toNat % 2 ^ 32 = 0 ∧ (regRead st1.r 6).toNat % 2 ^ 32 = 1 ∧ frameConvoys ws = [ws] ∧
    encodeWord (.vadd 0 2 3 3) = some 0x000431B2 ∧ VectorReady st1 ∧ vtWidth st1.r.vt = 32 ∧ vtG st1.r.vt = 1 :=
  ⟨_, _, _, rfl, rfl, rfl, rfl, by decide, rfl, rfl, rfl, rfl, rfl, rfl, ready rfl rfl rfl rfl rfl, rfl, rfl⟩

theorem witness_RepeatFrameRuns_once :
    let ws : List FrameWord := [{ p := 0, word := 0x000431B2, addr := 0x40000004 }]
    let member := fun (x : FrameWord) =>
        frameMember (rotateWord 0 0 x.word) ((regRead strand0.r (x.word / 2 ^ 12 % 64)).toNat % 2 ^ 64)
    ∃ ms : List Member, ws.map member = ms.map .ok ∧ convoyFault strand0 [] 0 (ws.map member) = none ∧
      ∃ t st, performConvoy ((ws.map fun x => x.addr.toNat / 4 % 4).zip ms) 0 none m0 = .ok t ∧ Runs t st := by
  refine ⟨[_], rfl, rfl, ?_⟩
  have h : (match performConvoy [(1, memberVadd 0 2 3 3)] 0 none m0 with
      | .ok t => (strandOf t).isSome
      | .error _ => false) = true := by decide +kernel
  change ∃ t st, performConvoy [(1, memberVadd 0 2 3 3)] 0 none m0 = .ok t ∧ Runs t st
  revert h
  cases performConvoy [(1, memberVadd 0 2 3 3)] 0 none m0 with
  | ok t => exact fun h => ⟨t, _, rfl, (Option.some_get h).symm⟩
  | error c => exact fun h => nomatch h

/-! ### Witnesses: fibres -/

/-- f1 and f2 sorted in FP32, f3 unsorted, f4 of kind 1. -/
def withFibres (st : Strand) : Strand :=
  let p := fun (q : BitVec 32) => Pair.mk q 0x3F800000 0
  { st with fibres := (((st.fibres.setIfInBounds 1 ⟨[p 3, p 9], 0, false⟩).setIfInBounds 2 ⟨[p 9], 0, false⟩).setIfInBounds 3
      ⟨[p 9, p 3], 0, true⟩).setIfInBounds 4 ⟨[p 3], 1, false⟩ }
abbrev stF : Strand := withFibres strand0

theorem witness_FibreSetResults : Runs (with0 withFibres) stF ∧ VectorReady stF ∧ progAct stF.r = false ∧ (5 : BitVec 3) ≠ 1 ∧
    (5 : BitVec 3) ≠ 2 ∧ (Forms.fibreOf stF 1).unsorted = false ∧ (Forms.fibreOf stF 2).unsorted = false ∧
    Forms.Sorted (Forms.fibreOf stF 1).pairs ∧ Forms.Sorted (Forms.fibreOf stF 2).pairs ∧
    (Forms.fibreOf stF 1).kind = (Forms.fibreOf stF 2).kind ∧
    Forms.Coords [3, 9] ((Forms.fibreOf stF 1).pairs ++ (Forms.fibreOf stF 2).pairs) ∧ Forms.Coords [3, 9] (Forms.fibreOf stF 3).pairs := by
  have coords : ∀ ps : List Pair, ps.map (·.coord) = [3, 9, 9] ∨ ps.map (·.coord) = [9, 3] → Forms.Coords [3, 9] ps := by
    intro ps h
    refine ⟨by decide, fun q => ?_⟩
    rw [← List.mem_map (f := fun p : Pair => p.coord)]
    rcases h with h | h
    · rw [h]; simp
    · rw [h]; simp [or_comm]
  refine ⟨rfl, ready rfl rfl rfl rfl rfl, rfl, by decide, by decide, rfl, rfl, ?_, ?_, rfl, coords _ (.inl rfl), coords _ (.inr rfl)⟩
  · show List.Pairwise _ [_, _]
    simp
  · show List.Pairwise _ [_]
    simp

/-- Each of the three ways a set function is refused: an unsorted input, two kinds, another word's progress. -/
theorem witness_FibreChecks : ((Forms.fibreOf stF 3).unsorted = true ∧ (Forms.fibreOf stF 3).pairs ≠ []) ∧
    (Forms.fibreOf stF 1).kind ≠ (Forms.fibreOf stF 4).kind ∧ (Forms.fibreOf stF 1).pairs ≠ [] ∧ (Forms.fibreOf stF 4).pairs ≠ [] ∧
    progAct { strand0.r with fprog := 0x8000000000000000 } = true ∧ progWord { strand0.r with fprog := 0x8000000000000000 } ≠ 0x60 :=
  ⟨⟨rfl, by decide⟩, by decide, by decide, by decide, rfl, by decide⟩

/-- The three pairs of a kind and a format; inputs empty and of the kind; a register number at the bound of FPREF. -/
theorem witness_FibreMoveResults : strand0.blocks[0]? = some (newBlock 0 0 0 0) ∧ vtFmt strand0.r.vt = 1 ∧ vtFmt (withVt 2 strand0).r.vt = 2 ∧
    vtFmt (withVt 9 strand0).r.vt = 9 ∧ vtWidth strand0.r.vt = 32 ∧ (8 : BitVec 5).toNat % vtG strand0.r.vt = 0 ∧
    (Forms.fibreOf stF 5).pairs = [] ∧ (Forms.fibreOf stF 1).kind = 0 ∧ (61 : BitVec 6).toNat ≤ 61 :=
  ⟨rfl, rfl, rfl, rfl, rfl, rfl, rfl, rfl, by decide⟩

/-- The pages of accesses to the page. -/
def pg (va _n : Nat) : List Xl := [at0 (va - 0x40000000)]

theorem fibre_reads {va n al : Nat} (h : 0x40000000 ≤ va ∧ va + n ≤ 0x40001000 ∧ va < 0x40001000 ∧ va % al = 0) :
    Forms.FibreReads (with0 withFibres) stF pg va n al := by
  obtain ⟨o, rfl⟩ : ∃ o, va = 0x40000000 + o := ⟨va - 0x40000000, by omega⟩
  have e : pg (0x40000000 + o) n = [at0 o] := by simp only [pg, Nat.add_sub_cancel_left]
  refine ⟨h.2.2.2, no_watch _ _ _, ?_, ?_⟩
  · rw [e]
    exact steady0 (f := withFibres) rfl (fun _ h => h.elim) (by omega) (by omega) _
  · rw [e]
    exact quiet0 _ _ _ (by omega) (by decide) rfl rfl

theorem stores_pass {l : List (Nat × List Byte)} (h : ∀ x ∈ l, 0x40000000 ≤ x.1 ∧ x.1 + x.2.length ≤ 0x40001000 ∧ x.1 < 0x40001000) :
    Forms.StoresPass (with0 withFibres) stF pg l := by
  have hK : ∀ k, Forms.storeKeys (with0 withFibres) pg l k → 0x20000 ≤ k := by
    rintro k ⟨x, hx, i, hi, rfl⟩
    have := h x hx
    obtain ⟨o, e⟩ : ∃ o, x.1 = 0x40000000 + o := ⟨x.1 - 0x40000000, by omega⟩
    rw [e, pg, Nat.add_sub_cancel_left, key0 _ (by omega)]
    omega
  intro x hx
  have := h x hx
  obtain ⟨o, e⟩ : ∃ o, x.1 = 0x40000000 + o := ⟨x.1 - 0x40000000, by omega⟩
  rw [e, pg, Nat.add_sub_cancel_left]
  exact ⟨no_watch _ _ _, steady0 (f := withFibres) rfl hK (by omega) (by omega) _, quiet0 _ _ _ (by omega) (by decide) rfl rfl⟩

/-- A compressed level at s[10] with positions 0 and 2 and the coordinates 3 and 9 below its size 10; an unsorted record of
one FP32 pair at s[13]; a record of f1 and a scatter of it at s[4]. -/
theorem witness_FibreMemoryResults :
    let rd := fun (va n : Nat) => valueAt (with0 withFibres) (pg va n) va n
    let ok := Forms.FibreReads (with0 withFibres) stF pg
    (let x0 := rd 0x40000400 32
     (regRead stF.r 10).toNat = 0x40000400 ∧ (regRead stF.r 11).toNat = 0 ∧ (regRead stF.r 12).toNat = 0 ∧ ok 0x40000400 32 32 ∧
     x0 % 256 = 1 ∧ x0 / 2 ^ 10 % 64 = 0 ∧ x0 / 2 ^ 16 % 65536 = 0 ∧ x0 / 2 ^ 32 % 2 ^ 32 = 10 ∧ x0 / 256 % 4 = 0 ∧
     x0 / 2 ^ 64 % 2 ^ 64 = 0x40000440 ∧ x0 / 2 ^ 128 % 2 ^ 64 = 0x40000450 ∧ x0 / 2 ^ 192 = 0x40000460 ∧
     ok 0x40000440 4 4 ∧ ok 0x40000444 4 4 ∧ rd 0x40000440 4 = 0 ∧ rd 0x40000444 4 = 2 ∧ capOf stF.r = 256 ∧
     (∀ i, i < 2 → ok (0x40000450 + 4 * i) 4 4 ∧ ok (0x40000460 + 4 * i) 4 4) ∧ rd 0x40000450 4 = 3 ∧ rd 0x40000454 4 = 9) ∧
    (let h := rd 0x40000480 16
     (regRead stF.r 13).toNat = 0x40000480 ∧ ok 0x40000480 16 16 ∧ h % 2 ^ 32 = 1 ∧ h / 2 ^ 40 % 256 = 0 ∧ h / 2 ^ 32 % 256 = 1 ∧
     h / 2 ^ 48 = 0 ∧ ok 0x40000490 4 1 ∧ ok 0x40000494 4 1) ∧
    ((Forms.fibreOf stF 1).kind = 0 ∧ (regRead stF.r 4).toNat = 0x40000100 ∧
     Forms.StoresPass (with0 withFibres) stF pg
       [(0x40000100, leBytes 4 2 ++ [0, 0] ++ leBytes 10 0), (0x40000110, leBytes 4 3), (0x40000114, leBytes 4 9),
        (0x40000118, leBytes 4 0x3F800000), (0x4000011C, leBytes 4 0x3F800000)] ∧
     Forms.StoresPass (with0 withFibres) stF pg [(0x4000010C, leBytes 4 0x3F800000), (0x40000124, leBytes 4 0x3F800000)]) := by
  refine ⟨⟨rfl, rfl, rfl, fibre_reads (by decide), by decide, by decide, by decide, by decide, by decide, by decide, by decide,
      by decide, fibre_reads (by decide), fibre_reads (by decide), by decide, by decide, rfl, ?_, by decide, by decide⟩,
    ⟨rfl, fibre_reads (by decide), by decide, by decide, by decide, by decide, fibre_reads (by decide), fibre_reads (by decide)⟩,
    rfl, rfl, stores_pass (by decide), stores_pass (by decide)⟩
  intro i hi
  exact ⟨fibre_reads (by omega), fibre_reads (by omega)⟩

/-- A message from the strand with SID 0. -/
def mail (n : Nat) : Message := { sender := 0, tag := 0, body := ⟨[⟨7, 0x3F800000, 0⟩], 0, false⟩, begun := n == 1 }

/-- A bent of two strands, the second changed by `g`. -/
def pair0 (f g : Strand → Strand) : State :=
  { with0 f with
    strands := [f strand0, g { strand0 with index := 1, r := { strand0.r with sid := 1 } }]
    bents := [{ placedBent with strands := [0, 1] }] }

/-- FSEND to no strand, to one with room, to one that has exited, to one with a granted message, and to one whose buffer is
full; a waiting FSEND of f1 and its receiver; a granted message; a request of the stream engine for a descriptor alone; a
buffer with and without a matching message. -/
theorem witness_FibreMessages :
    strandOfSid (pair0 id id) 0 7 = none ∧ strandOfSid (pair0 id id) 0 1 = some 1 ∧ strand0.requests = [] ∧ strand0.granted = [] ∧
    hasRoom strand0 2 = true ∧ ({ strand0 with exited := true } : Strand).exited = true ∧
    ({ strand0 with granted := [mail 0] } : Strand).granted ≠ [] ∧ hasRoom { strand0 with granted := [mail 0] } 2 = true ∧
    hasRoom { strand0 with inbox := List.replicate 16 (mail 0) } 2 = false ∧
    (let held : Inflight := { pc := 0x40000000, words := [BitVec.ofNat 32 (wordFsend 5 1)], group := 0, frame := none }
     let snd := fun (st : Strand) => { withFibres st with wait := .reservation 1, inflight := some held }
     let rcv := fun (st : Strand) => { st with requests := [0] }
     (pair0 snd rcv).strands[0]? = some (snd strand0) ∧ (snd strand0).wait = .reservation 1 ∧
       pendingSend (snd strand0) = some (Forms.fibreOf stF 1) ∧ (rcv strand0).requests = 0 :: [] ∧ hasRoom (rcv strand0) 2 = true) ∧
    (let rcv := fun (st : Strand) => { st with granted := [mail 0] }
     (pair0 id rcv).strands[1]? ≠ none ∧ (rcv strand0).granted = mail 0 :: []) ∧
    (let q : Prefetch := { descr := 0x40000400, parent := 0, count := 0 }
     let ask := fun (st : Strand) => { st with prefetch := [q] }
     (with0 ask).strands[0]? = some (ask strand0) ∧ (ask strand0).prefetch = q :: [] ∧
       ({ with0 ask with cur := 0, strands := (with0 ask).strands.set 0 { ask strand0 with prefetch := [] } } : State) = m0 ∧
       homeBay (ask strand0) < 320 ∧ watchHit strand0.r 0x40000400 32 .read = none ∧
       Steady (fun _ => False) m0 0 0x40000400 32 .read [at0 0x400] ∧ Quiet m0 (ask strand0) [at0 0x400] 0x40000400) ∧
    (let st : Strand := { stF with inbox := [mail 0] }
     progAct st.r = false ∧ st.inbox = [] ++ mail 0 :: [] ∧ (mail 0).body.unsorted = false ∧ (mail 0).body.kind = 0 ∧
       Forms.Sorted (mail 0).body.pairs ∧ (∀ m ∈ st.inbox, ¬ (3 = 0xFFFFFFFF ∨ m.sender = 3))) := by
  refine ⟨rfl, rfl, rfl, rfl, by decide, rfl, by decide, by decide, by decide, ⟨rfl, rfl, rfl, rfl, by decide⟩, ⟨by decide, rfl⟩,
    ⟨rfl, rfl, rfl, by decide, no_watch _ _ _, steady0 (f := id) (o := 0x400) rfl (fun _ h => h.elim) (by decide) (by decide) _,
      quiet0 id _ 0x400 (by decide) (by decide) rfl rfl⟩, rfl, rfl, rfl, rfl, ?_, ?_⟩
  · show List.Pairwise _ [_]
    simp
  · intro m h
    cases List.mem_singleton.mp h
    decide

/-! ### Witnesses: truss -/

/-- A claimed slot of a format and a shape. -/
def shaped (fmt : BitVec 4) (rows cols : Nat) : Slot := { emptySlot true with fmt := fmt, rows := rows, cols := cols }

/-- Slots 0 to 5 hold operands of a dense, a sparse and a ternary multiply; slots 6 to 15 are free. -/
def withSlots (st : Strand) : Strand :=
  let l := [shaped 2 4 4, shaped 2 4 4, shaped 2 4 2, shaped 12 4 1, shaped 11 4 4, shaped 13 4 4]
  { st with blocks := st.blocks.map fun bl => { bl with slots := l.zipIdx.foldl (fun v x => v.setIfInBounds x.2 x.1) bl.slots } }
abbrev stS : Strand := withSlots strand0

/-- A strand of one block. -/
theorem one_block {P : Block → Prop} (st : Strand) (bl : Block) (h : st.blocks = [bl]) (hp : P bl) : ∀ y ∈ st.blocks, P y := by
  intro y hy
  rw [h] at hy
  cases List.mem_singleton.mp hy
  exact hp

theorem witness_SlotClaimsAndLoads : Runs (with0 withSlots) stS ∧ VectorReady stS ∧ (∀ j, j < 16 → Forms.slotQuiet (with0 withSlots) j) ∧
    (∀ n, n < 6 → ∃ bl ∈ stS.blocks, (slotOf bl n).claimed = true) ∧ (∀ bl ∈ stS.blocks, (slotOf bl 6).claimed = false) ∧
    (let all : Block := { newBlock 0 0 0 0 with slots := Vector.replicate 16 (emptySlot true) }
     ∀ n, n < 16 → (slotOf all n).claimed = true) ∧
    (let q := withVt 2 stS
     VectorReady q ∧ q.r.vl ≠ 0 ∧ ∀ bl ∈ q.blocks, fillOk (slotOf bl 0) 0 (vtG q.r.vt) (vtFmt q.r.vt) q.r.vl false = true) ∧
    (let q : Strand := { stS with r := { strand0.r with vt := 0x104, vl := 32 } }
     VectorReady q ∧ scalable (vtFmt q.r.vt) = true ∧ vtSblk q.r.vt = 32 ∧ q.r.vl % 32 = 0 ∧
       ∀ bl ∈ q.blocks, fillOk (slotOf bl 0) 0 (vtG q.r.vt) (vtFmt q.r.vt) q.r.vl true = true) ∧
    ({ strand0 with r := { strand0.r with vl := 0 } } : Strand).r.vl = 0 := by
  refine ⟨rfl, ready rfl rfl rfl rfl rfl, fun _ _ => rfl, ?_, one_block _ _ rfl rfl, by decide,
    ⟨ready rfl rfl rfl rfl rfl, by decide, one_block _ _ rfl rfl⟩, ⟨ready rfl rfl rfl rfl rfl, rfl, rfl, rfl, one_block _ _ rfl rfl⟩, rfl⟩
  have h : ∀ n < 6, (slotOf (stS.blocks.headD (newBlock 0 0 0 0)) n).claimed = true := by decide
  exact fun n hn => ⟨_, List.mem_singleton.mpr rfl, h n hn⟩

/-- Two rows of four FP16 elements, dense and by the index group v8, whose indices are all zero. -/
def withShape (st : Strand) : Strand :=
  { withSlots st with r := { st.r with jshape := BitVec.ofNat 64 (2 * 2 ^ 40 + 1 * 2 ^ 29 + 3 * 2 ^ 18) } }
theorem witness_SlotFillsFromMemory :
    let st := withShape strand0
    let jsh := st.r.jshape
    Runs (with0 withShape) st ∧ jshFmt jsh = 2 ∧ jshCols jsh + 1 = 4 ∧ jshRows jsh + 1 = 2 ∧ maxCols 2 ≠ 0 ∧ jshTr jsh = false ∧
      jshSc jsh = false ∧ vtWidth st.r.vt = 32 ∧ st.r.vl ≠ 0 ∧ (regRead st.r 4).toNat = 0x40000100 ∧ (regRead st.r 5).toNat = 3 ∧
      (∀ bl ∈ st.blocks, jfilOk jsh (slotOf bl 0) 2 = true ∧ jfilOk jsh (slotOf bl 0) 4 = true) ∧
      ∀ i k, i < 2 → k < 4 →
        let va := ((0x40000100 + 0 * 1 + i * 3) % 2 ^ 64 + k * 16 / 8) % 2 ^ 64
        watchHit st.r va 2 .read = none ∧ Steady (fun _ => False) (with0 withShape) 0 va 2 .read [at0 (0x100 + i * 3 + k * 2)] ∧
          Quiet (with0 withShape) st [at0 (0x100 + i * 3 + k * 2)] va := by
  refine ⟨rfl, rfl, rfl, rfl, by decide, rfl, rfl, rfl, by decide, rfl, rfl, one_block _ _ rfl ⟨rfl, rfl⟩, ?_⟩
  intro i k hi hk va
  have e : va = 0x40000000 + (0x100 + i * 3 + k * 2) := by
    simp only [va]
    omega
  rw [e]
  exact ⟨no_watch _ _ _, steady0 (f := withShape) rfl (fun _ h => h.elim) (by omega) (by omega) _,
    quiet0 _ _ _ (by omega) (by decide) rfl rfl⟩

/-- The operands of a dense, a sparse and a ternary multiply; sums inside, above and below 32 bits; multiplies held. -/
theorem witness_MultiplyResults :
    (∀ g ∈ [MulFields.mk .tmma 0 false 0 1 0 0, MulFields.mk .tmms 0 false 2 1 3 0, MulFields.mk .ttrn 2 false 4 5 0 0],
      (∀ j ∈ g.slots, Forms.slotQuiet (with0 withSlots) j ∧ ∀ bl ∈ stS.blocks, (slotOf bl j).claimed = true ∧ 0 < (slotOf bl j).rows ∧
        (slotOf bl j).rows ≤ 256 ∧ (slotOf bl j).poison = false) ∧
      ∀ bl ∈ stS.blocks, g.shapeOk bl = true ∧ g.kindOk bl = true ∧ (tileOf bl 0).poison = false) ∧
    (signed 32 0x7FFFFFFF + (([(1, 1)] : List (Nat × Nat)).map fun p => signed 8 p.1 * signed 8 p.2).sum = 2 ^ 31) ∧
    (signed 32 0x80000000 + (([(1, 0xFF)] : List (Nat × Nat)).map fun p => signed 8 p.1 * signed 8 p.2).sum = -(2 ^ 31) - 1) ∧
    (let x : Multiply := { tile := 0, slots := [0, 1], done := true }
     let y : Multiply := { tile := 0, slots := [0, 1], done := false }
     ({ strand0 with multiplies := [x, y] } : Strand).multiplies = [x] ++ y :: [] ∧ x.done = true ∧ y.done = false) := by
  have h : ∀ g ∈ [MulFields.mk .tmma 0 false 0 1 0 0, MulFields.mk .tmms 0 false 2 1 3 0, MulFields.mk .ttrn 2 false 4 5 0 0],
      let bl := stS.blocks.headD (newBlock 0 0 0 0)
      (∀ j ∈ g.slots, (slotOf bl j).claimed = true ∧ 0 < (slotOf bl j).rows ∧ (slotOf bl j).rows ≤ 256 ∧ (slotOf bl j).poison = false) ∧
        g.shapeOk bl = true ∧ g.kindOk bl = true ∧ (tileOf bl 0).poison = false := by decide
  exact ⟨fun g hg => ⟨fun j hj => ⟨rfl, one_block _ _ rfl ((h g hg).1 j hj)⟩, one_block _ _ rfl (h g hg).2⟩, by decide, by decide, rfl,
    rfl, rfl⟩

/-- The last row of a tile that is neither poisoned nor of a kind yet, and a poisoned tile. -/
theorem witness_TileResults : (8 : BitVec 5).toNat % vtG strand0.r.vt = 0 ∧ strand0.r.vl ≠ 0 ∧ strand0.r.vl ≤ 256 ∧ 255 + vtG strand0.r.vt ≤ 256 ∧
    (∀ bl ∈ strand0.blocks, tmovOk (tileOf bl 0).kind (vtFmt strand0.r.vt) = true ∧ (tileOf bl 0).poison = false) ∧
    (let bl : Block := { newBlock 0 0 0 0 with tiles := Vector.replicate 4 { zeroTile with poison := true } }
     (tileOf bl 3).poison = true) :=
  ⟨rfl, by decide, by decide, by decide, one_block _ _ rfl ⟨rfl, rfl⟩, rfl⟩

/-! ### Witnesses: atomics -/

/-- An atomic on the page passes its checks. -/
theorem Like.atomic {s : State} {st : Strand} (h : Like .user s st) (hp : s.poison = []) {o n : Nat} (ho : o < 0x1000) (hn : o + n ≤ 0x1000) (vector host : Bool) :
    checkAtomic vector 0 (0x40000000 + o) n host s = .ok (.ok [at0 o]) s := by
  have t : translatePages 0 .atomic [0x40000000 + o] s = .ok (.ok [(0x40000000 + o, at0 o)]) s := by
    unfold translatePages
    rw [bind_ok (getStrand_run h.runs), h.ctx, bind_ok (h.translate ho .atomic (.inl rfl))]
    rfl
  have m : myRegion (0x40000000 + o) s =
      .ok (regionAt s (BitVec.ofNat 16 st.r.asid.toNat) (vmidOf st) (0x40000000 + o)) s := by
    unfold myRegion
    rw [bind_ok (getStrand_run h.runs)]
    rfl
  have r : reachable s st 0 (at0 o).pa n .atomic = true :=
    reach0 h.near.2.2 _ (by show _ ≤ 0x20000 + o ∧ 0x20000 + o < _; omega) _ _
  have p : pkgField (at0 o).pa = 0 := by show (0x20000 + o) / 2 ^ 46 % 2048 = 0; omega
  have i : isHost (at0 o).pa = false := by simp [isHost, p]
  have e : askPages [(0x40000000 + o, at0 o)] s = .ok none s := by
    have d : elsewhere s (at0 o).pa = false := by
      simp [elsewhere, i, servedBy, isLocal, p, h.map.1, h.map.2.1]
    unfold askPages
    rw [bind_ok (get_run _)]
    simp only [List.filter_cons, d, List.filter_nil]
    rfl
  have q : lineHeld s [(0x40000000 + o, at0 o)] n = false := by
    simp [lineHeld, sealHolds, h.near.1, h.near.2.1]
  have w : linePoisoned s [at0 o] = false := by simp [linePoisoned, anyPoison, isPoisoned, hp]
  have p' : pagesOf (0x40000000 + o) n = [0x40000000 + o] := by
    rw [pagesOf, if_pos (by omega)]
  have v : atomicServed vector (0x40000000 + o) n [at0 o] s = .ok (.ok [at0 o]) s := by
    unfold atomicServed
    rw [bind_ok (get_run s)]
    have c : checkServed (0x40000000 + o) n [at0 o] s = .ok (.ok [at0 o]) s := by
      simp only [checkServed, p', List.zip_cons_cons, List.zip_nil_right]
      rw [bind_ok e]
      simp only [bind_ok (get_run s), q]
      rfl
    simp only [w, Bool.and_false, Bool.false_eq_true, if_false]
    rw [bind_ok c]
    simp only [bind_ok (get_run s), w]
    rfl
  unfold checkAtomic
  rw [bind_ok t]
  simp only [bind_ok (getStrand_run h.runs), bind_ok (get_run s), bind_ok m]
  simp only [List.map_cons, List.map_nil, List.any_cons, List.any_nil, r, i, show (at0 o).cmp = false from rfl,
    show (at0 o).slk = false from rfl, Bool.not_true, Bool.or_false, Bool.false_and, Bool.false_eq_true, if_false]
  exact v

theorem atomic0 {f : Strand → Strand} (hc : strandCtx (f strand0) 0 = ctx0 .user) {o n : Nat} (ho : o < 0x1000) (hn : o + n ≤ 0x1000) (vector host : Bool) :
    checkAtomic vector 0 (0x40000000 + o) n host (with0 f) = .ok (.ok [at0 o]) (with0 f) := (like0 f hc).atomic rfl ho hn vector host

/-- Each outcome of the checks: WATCH, a misaligned address, a refused page, and the word at s[4]. -/
theorem witness_AtomicResults :
    (let st : Strand := { strand0 with r := { strand0.r with watcha := 0x40000101 } }
     watchHit st.r 0x40000100 8 .atomic ≠ none) ∧
    (watchHit strand0.r 3 4 .atomic = none ∧ 3 % 4 ≠ 0) ∧
    (∃ c s, checkAtomic false 0 0x800000000000 4 false m0 = .ok (.fail c) s) ∧ (∃ c s, checkAtomic false 0 0x50000000 4 false m0 = .ok (.log c) s) ∧
    (regRead strand0.r 4).toNat = 0x40000100 ∧ watchHit strand0.r 0x40000100 8 .atomic = none ∧ 0x40000100 % 8 = 0 ∧
    checkAtomic false 0 0x40000100 8 false m0 = .ok (.ok [at0 0x100]) m0 ∧ Quiet m0 strand0 [at0 0x100] 0x40000100 :=
  ⟨by decide, ⟨rfl, by decide⟩, ⟨_, _, rfl⟩, ⟨_, _, rfl⟩, rfl, rfl, rfl, atomic0 (f := id) (o := 0x100) rfl (by decide) (by decide) _ _,
    quiet0 id _ 0x100 (by decide) (by decide) rfl rfl⟩

/-- The active elements of the strand under m0. -/
theorem active0 {e : Nat × Block × Nat} (h : e ∈ Forms.active strand0 0) : e.1 = 0 ∧ e.2.1 = newBlock 0 0 0 0 ∧ e.2.2 < 4 := by
  simp only [Forms.active] at h
  obtain ⟨⟨bl, b⟩, hb, h⟩ := List.mem_flatMap.mp h
  have hb : (bl, b) ∈ [(newBlock 0 0 0 0, 0)] := hb
  cases List.mem_singleton.mp hb
  obtain ⟨j, hj, rfl⟩ := List.mem_map.mp h
  have := (List.mem_filter.mp hj).2
  simp only [Bool.and_eq_true, decide_eq_true_eq] at this
  refine ⟨rfl, rfl, ?_⟩
  have e : strand0.r.vl = 4 := rfl
  show j < 4
  omega

/-- A place that accepts an element and one that refuses a misaligned one; a prepared sub-operation. -/
theorem witness_VectorAtomicResults :
    vtWidth strand0.r.vt = 32 ∧ vtFmt strand0.r.vt ≤ 1 ∧ (8 : BitVec 5).toNat % vtG strand0.r.vt = 0 ∧ indexBad 5 strand0 = false ∧
    (∀ e ∈ Forms.active strand0 0, let va := ((regRead strand0.r 4).toNat + elemRead e.2.1 32 5 e.2.2) % 2 ^ 64
      watchHit strand0.r va 4 .atomic = none ∧ va % 4 = 0 ∧ Quiet m0 strand0 [at0 0x100] va ∧
        checkAtomic true e.1 va 4 (Forms.hostOp true 10) m0 = .ok (.ok [at0 0x100]) m0) ∧
    placeAccepts m0 0 0 false 0x20100 = true ∧ placeAccepts m0 0 0 false 0x20101 = false ∧
    (let p : Prepared := { place := 0, requester := 0, op := 0, w64 := false, elems := [(0x20100, 1)] }
     ({ m0 with prepared := [p] } : State).prepared = [] ++ p :: [] ∧ p.op.toNat ≤ 10 ∧ p.op ≠ 9) ∧ m0.shims = [] ∧ m0.poison = [] ∧
    m0.prepared = [] := by
  refine ⟨rfl, by decide, rfl, rfl, ?_, by decide +kernel, by decide +kernel, ⟨rfl, by decide, by decide⟩, rfl, rfl, rfl⟩
  intro e he
  obtain ⟨e1, e2, _⟩ := active0 he
  have va : ((regRead strand0.r 4).toNat + 0) % 2 ^ 64 = 0x40000000 + 0x100 := rfl
  rw [e1, e2, elem_zero, va]
  exact ⟨rfl, rfl, quiet0 id _ 0x100 (by decide) (by decide) rfl rfl, atomic0 (f := id) (o := 0x100) rfl (by decide) (by decide) _ _⟩

/-! ### Witnesses: slack -/

theorem slack_steady {lines : List Nat} (hl : ∀ l ∈ lines, 0x20000 ≤ l ∧ l + 128 ≤ 0x30000) {o : Nat} (ho : o + 4 ≤ 0x1000) :
    Forms.SlackSteady m0 lines 0 (0x40000000 + o) [at0 o] := by
  intro s hm hd hs
  have like : Like .user s strand0 := by
    refine ⟨by rw [hs]; rfl, rfl, by rw [hs]; exact (like0 id rfl).tlb, by rw [hs]; rfl, ?_, by rw [hs]; exact ⟨rfl, rfl, rfl, rfl, rfl⟩,
      by rw [hs]; exact ⟨rfl, rfl, rfl⟩, fun r hr => nomatch hd r hr⟩
    intro a ha
    refine physLoad_near (fun a ha => ⟨steer_near ?_ (by omega), steer_near (by decide) (by omega)⟩) (fun a ha => hm a ?_) ?_
    · rw [hs]; exact ⟨rfl, rfl, rfl, rfl, rfl⟩
    · rintro ⟨l, hl', i, hi, rfl⟩
      have : l ∈ lines := by
        rcases List.mem_append.mp hl' with h | h
        · exact h
        · cases h
      rw [steer_near (by decide) (by have := hl l this; omega)] at ha
      have := hl l this
      omega
    · simp only [List.mem_cons, List.not_mem_nil, or_false] at ha
      omega
  exact like.check ho (by omega) _ (.inl rfl)

theorem region_at {o : Nat} (h : o < 0x1000) : regionAt m0 0 0 (0x40000000 + o) = some 0 := by
  have : (decide (0x40000000 ≤ 0x40000000 + o) && decide (0x40000000 + o < 0x40000000 + 0x1000)) = true := by simp; omega
  have : regionAt m0 0 0 (0x40000000 + o) =
      if (decide (0x40000000 ≤ 0x40000000 + o) && decide (0x40000000 + o < 0x40000000 + 0x1000)) = true then some 0 else none := by
    simp [regionAt, with0, region0, List.findIdx?_cons]
  rw [this, if_pos ‹_›]

/-- Bay 0 holds the whole region. -/
def holder0 : Holder := { bay := 0, share := 1048576, used := 0, grantIn := 0, asked := none, retIn := 0, drawn := none }
def held0 : State := { m0 with regions := [{ region0 with pool := 0, holders := [holder0] }] }

/-- The four elements of v8 at s[4], unit and all at one address by indices of zero; and a half that fits a holder's share. -/
theorem witness_SlackAddResults :
    (∀ off : Nat → Nat, off = (fun j => 4 * j) ∨ off = (fun _ => 0) →
      ∀ e ∈ Forms.active strand0 0, let v := 0x40000000 + (0x100 + off e.2.2)
        watchHit strand0.r v 4 .atomic = none ∧ v % 4 = 0 ∧
        Forms.SlackSteady m0 ((Forms.active strand0 0).map fun e => byteAddr [at0 (0x100 + off e.2.2)] v 0 / 128 * 128) e.1 v
          [at0 (0x100 + off e.2.2)] ∧
        regionAt m0 (BitVec.ofNat 16 strand0.r.asid.toNat) (vmidOf strand0) v = some 0 ∧ (regionOf m0 0).serving = none) ∧
    (∀ j, (0x40000100 + 4 * (0 * vlbOf strand0.r.vt + j)) = 0x40000000 + (0x100 + 4 * j)) ∧ vtFmt strand0.r.vt = 1 ∧
    (let e : SlackElem := { line := 0x20100, off := 0, region := 0, value := 0x3F000000, far := false }
     let mag := addUp ((shimOf held0 0 e.line).elim 0 fun x => x.mag.toNat) (addUp 0 (min (e.value % 2 ^ 31) 0x7F800000))
     holderOf held0 0 0 = some holder0 ∧
       max (gaugeOf held0 0 0) mag ≤ unitsToFp (regionOf held0 0).budget.toNat holder0.share) := by
  refine ⟨?_, fun j => by omega, rfl, rfl, by decide +kernel⟩
  intro off ho e he v
  obtain ⟨e1, _, e3⟩ := active0 he
  have o1 : ∀ j, j < 4 → off j ≤ 12 ∧ off j % 4 = 0 := by
    rcases ho with rfl | rfl <;> intro j hj <;> dsimp only <;> omega
  have o := o1 _ e3
  rw [e1]
  refine ⟨no_watch _ _ _, by omega, slack_steady ?_ (by omega), region_at (by omega), rfl⟩
  intro l hl
  obtain ⟨y, hy, rfl⟩ := List.mem_map.mp hl
  have := o1 _ (active0 hy).2.2
  have e : byteAddr [at0 (0x100 + off y.2.2)] v 0 = 0x20000 + (0x100 + off y.2.2) := rfl
  rw [e]
  omega

theorem witness_SlackUnitsConserved : (∃ t, exec (.slkrel 4) m0 = .next t) ∧ SlackOk m0 ∧ SlackBound m0 ∧ SlackOk held0 ∧
    SlackBound held0 ∧ held0.shims = [] := by
  refine ⟨⟨_, rfl⟩, ?_, fun _ h => (nomatch h), ?_, fun _ h => (nomatch h), rfl⟩
  · intro r h
    cases List.mem_singleton.mp h
    decide
  · intro r h
    cases List.mem_singleton.mp h
    decide

/-- A tolerance that is a number (3 units in the last place of zero) and one that is none. -/
theorem witness_TolerantLoadResults : m0.shims = [] ∧ vtFmt strand0.r.vt = 1 ∧ (regRead strand0.r 5).toNat % 2 ^ 32 ≤ 0x7F800000 ∧
    (let q := regWrite strand0.r 7 0x7F800001
     0x7F800000 < (regRead q 7).toNat % 2 ^ 32 ∧ (regRead q 7).toNat % 2 ^ 32 ≠ 0x80000000) ∧ Forms.active strand0 0 ≠ [] ∧
    ∀ e ∈ Forms.active strand0 0, let v := 0x40000000 + (0x100 + 4 * e.2.2)
      (0x40000100 + 4 * (e.1 * vlbOf strand0.r.vt + e.2.2)) % 2 ^ 64 = v ∧
      watchHit strand0.r v 4 .read = none ∧ v % 4 = 0 ∧ Steady (fun _ => False) m0 e.1 v 4 .read [at0 (0x100 + 4 * e.2.2)] ∧
      Quiet m0 strand0 [at0 (0x100 + 4 * e.2.2)] v ∧
      ∃ k, regionAt m0 (BitVec.ofNat 16 strand0.r.asid.toNat) (vmidOf strand0) v = some k ∧ (regionOf m0 k).serving = none := by
  refine ⟨rfl, rfl, by decide, by decide, by decide +kernel, ?_⟩
  intro e he v
  obtain ⟨e1, _, e3⟩ := active0 he
  rw [e1]
  exact ⟨by omega, no_watch _ _ _, by omega, steady0 (f := id) rfl (fun _ h => h.elim) (by omega) (by omega) _,
    quiet0 id _ _ (by omega) (by decide) rfl rfl, 0, region_at (by omega), rfl⟩

/-- The strand at runtime level with an address in s7. -/
def atBlock (a : Word) (st : Strand) : Strand := atRuntime { st with r := regWrite st.r 7 a }

/-- An operand block in the page that a runtime instruction reads at s[7]. -/
theorem block0 (o : Nat) (h : o ∈ [0x400, 0x500, 0x520, 0x540, 0x560, 0x580, 0x5A0]) :
    let st := atBlock (BitVec.ofNat 64 (0x40000000 + o)) strand0
    Runs (with0 (atBlock (BitVec.ofNat 64 (0x40000000 + o)))) st ∧ st.r.level = .runtime ∧ (regRead st.r 7).toNat = 0x40000000 + o ∧
      watchHit st.r (0x40000000 + o) 32 .read = none ∧ (0x40000000 + o) % 32 = 0 ∧ slogCount st = 0 ∧
      Allowed (with0 (atBlock (BitVec.ofNat 64 (0x40000000 + o)))) 0 (0x40000000 + o) 32 .read [at0 o]
        (with0 (atBlock (BitVec.ofNat 64 (0x40000000 + o)))) ∧
      Quiet (with0 (atBlock (BitVec.ofNat 64 (0x40000000 + o)))) st [at0 o] (0x40000000 + o) := by
  simp only [List.mem_cons, List.not_mem_nil, or_false] at h
  rcases h with rfl | rfl | rfl | rfl | rfl | rfl | rfl
  all_goals exact ⟨rfl, rfl, rfl, rfl, rfl, rfl, allowed0 (l := .runtime) rfl (by decide) (by decide) _, quiet0 _ _ _ (by decide) (by decide) rfl rfl⟩

/-- Addresses in no region and in one; blocks of SLKDEF for each status: an argument that is none, a deletion of no region
and of one, a definition that is refused, that overlaps, whose pages are no slack pages, and one that succeeds. -/
theorem witness_SlackControl :
    let field := fun (a o n : Nat) => valueAt m0 [at0 a] (0x40000000 + a) 32 / 2 ^ (8 * o) % 2 ^ (8 * n)
    regionAt m0 0 0 3 = none ∧ regionAt m0 0 0 0x40000100 = some 0 ∧ m0.regions[0]? = some region0 ∧ region0.serving = none ∧
    (held0.regions[0]?).map (fun r => r.holders.map (·.bay)) = some [0] ∧ strand0.blocks[(regRead strand0.r 0).toNat]? ≠ none ∧
    (field 0x520 8 8 = 0 ∧ field 0x520 0 8 % 4096 ≠ 0) ∧ (field 0x500 8 8 = 0 ∧ field 0x500 0 8 = 0 ∧ field 0x500 24 8 = 0 ∧ region0.base ≠ 0) ∧
    (field 0x5A0 8 8 = 0 ∧ field 0x5A0 0 8 = region0.base ∧ field 0x5A0 24 8 = 0) ∧ (field 0x400 8 8 ≠ 0 ∧ field 0x400 0 8 % 4096 ≠ 0) ∧
    (∀ a ∈ [0x540, 0x560, 0x580], field a 0 8 % 4096 = 0 ∧ field a 24 8 = 0 ∧ field a 8 8 = 4096 ∧ field a 16 4 = 0x3F800000 ∧
      field a 20 4 = 0) ∧
    field 0x540 0 8 = region0.base ∧ region0.base + region0.size ≤ field 0x560 0 8 ∧ region0.base + region0.size ≤ field 0x580 0 8 ∧
    (∃ t st, slackPages 1 0x40001000 (with0 atRuntime) = .ok true t ∧ Runs t st) ∧
    (∃ t st, slackPages 1 0x50000000 (with0 atRuntime) = .ok false t ∧ Runs t st) ∧
    ¬ ((List.replicate 4096 region0).filter fun r => r.size != 0).length < 4096 := by
  refine ⟨by decide, by decide, rfl, rfl, rfl, by decide, by decide, by decide, by decide, by decide, by decide, by decide, by decide,
    by decide, ⟨_, _, rfl, rfl⟩, ⟨_, _, rfl, rfl⟩, ?_⟩
  rw [List.filter_eq_self.mpr (fun r h => by rw [List.eq_of_mem_replicate h]; rfl), List.length_replicate]
  exact Nat.lt_irrefl _

/-- A holder that draws with and without returning its share, a region being served, a shim line before and after its
DRAIN. -/
theorem witness_SlackMessages :
    let r := { region0 with pool := 0, holders := [holder0] }
    let x : Shim := { bay := 0, region := 0, line := 0x20100, partials := 0, touched := 1, mag := 0x3F000000, draining := false }
    held0.regions[0]? = some r ∧ r.size ≠ 0 ∧ r.holders.find? (fun h => h.bay == 0) = some holder0 ∧ r.serving = none ∧
    (r.holders.filter fun h => h.bay != 0).length < 64 ∧ ({ holder0 with drawn := some false } : Holder).drawn = some false ∧
    ({ holder0 with drawn := some true } : Holder).drawn = some true ∧
    (let h : Holder := { holder0 with share := 0, retIn := 1048576 }
     h.drawn = none ∧ h.retIn ≠ 0 ∧ ({ r with holders := [h] } : Region).holders.find? (fun h => h.bay == 0) = some h) ∧ held0.strands[0]? = some strand0 ∧
    (({ r with serving := some (0, 0) } : Region).serving.any fun x => x.1 == 0) = true ∧
    ({ held0 with shims := [x] } : State).shims = [] ++ x :: [] ∧ x.draining = false ∧ ({ x with draining := true } : Shim).draining = true :=
  ⟨rfl, by decide, rfl, rfl, by decide, rfl, rfl, ⟨rfl, by decide, rfl⟩, rfl, rfl, rfl, rfl, rfl⟩

/-! ### Witnesses: ordering -/

/-- A side log with and without an entry; a counter of outstanding writes that is not zero. -/
theorem witness_FenceResults : slogCount strand0 = 0 ∧ slogCount (oneLogged strand0) ≠ 0 ∧ Runs (with0 oneLogged) (oneLogged strand0) ∧
    m0.strands[0]? = some strand0 ∧ strand0.exited = false ∧
    (let bl : Block := { newBlock 0 0 0 0 with outst := Vector.replicate 5 1 }
     4 < 5 ∧ bl.outst.getD 4 0 ≠ 0) := ⟨rfl, by decide, rfl, rfl, rfl, by decide⟩

/-- The word at s[4] is 0: it equals s0 and differs from s5; a time-out of 1,024 ns that is over and one that is not. -/
theorem witness_WaitResults :
    (let va := (regRead strand0.r 4).toNat
     watchHit strand0.r va 8 .read = none ∧ va % 8 = 0 ∧ Allowed m0 0 va 8 .read [at0 0x100] m0 ∧ Quiet m0 strand0 [at0 0x100] va ∧
       BitVec.ofNat 64 (valueAt m0 [at0 0x100] va 8) = regRead strand0.r 0 ∧
       BitVec.ofNat 64 (valueAt m0 [at0 0x100] va 8) ≠ regRead strand0.r 5) ∧
    strand0.r.wto = 0 ∧
    (let st : Strand := { strand0 with r := { strand0.r with wto := 1 }, waited := 1024, wait := .waita }
     Runs (with0 fun _ => st) st ∧ st.r.wto ≠ 0 ∧ st.r.wto.toNat * 1024 ≤ st.waited ∧ st.exited = false ∧ st.wait = .waita ∧
       ({ st with wait := .wfi } : Strand).wait = .wfi) :=
  ⟨⟨rfl, rfl, allowed0 (o := 0x100) rfl (by decide) (by decide) _, quiet0 id _ 0x100 (by decide) (by decide) rfl rfl, by decide, by decide⟩,
    rfl, rfl, by decide, by decide, rfl, rfl, rfl⟩

/-- A strand that has arrived at barrier 15, one that has not, one inside its BARS; a bent whose phase ends with the only
arrival, and one that waits for its second strand. -/
theorem witness_BarrierResults :
    m0.bents[strand0.bent]? = some placedBent ∧ phaseOpen m0 strand0 15 = false ∧
    (let st : Strand := { strand0 with pend := strand0.pend.setIfInBounds 15 (some 0) }
     phaseOpen (with0 fun _ => st) st 15 = true ∧ st.barsDone = false ∧ ({ st with barsDone := true } : Strand).barsDone = true) ∧
    (let b := { placedBent with arrived := placedBent.arrived.setIfInBounds 15 [0] }
     placedBent.phase.getD 15 0 < (advancePhases m0 b).phase.getD 15 0 ∧ b.arrived.getD 15 [] ≠ [] ∧
       (∀ k ∈ b.strands, k ∈ b.arrived.getD 15 []) ∧
       (advancePhases (pair0 id id) { b with strands := [0, 1] }).phase.getD 15 0 ≤ placedBent.phase.getD 15 0) ∧
    (let st : Strand := { strand0 with wait := .barrier 15 }
     st.exited = false ∧ st.wait = .barrier 15 ∧ phaseOpen (with0 fun _ => st) st 15 = false) := by
  refine ⟨rfl, rfl, ⟨rfl, rfl, rfl⟩, by decide, rfl, rfl, rfl⟩

/-! ### Witnesses: engines -/

/-- An action answers, and its answer passes a test. -/
def okAnd {α : Type} (x : M α) (s : State) (p : α → State → Bool) : Bool :=
  match x s with
  | .ok a t => p a t
  | .error _ _ => false

theorem okAnd_elim {α : Type} {x : M α} {s : State} {p : α → State → Bool} (h : okAnd x s p = true) :
    ∃ a t, x s = .ok a t ∧ p a t = true := by
  unfold okAnd at h
  split at h
  · exact ⟨_, _, ‹_›, h⟩
  · cases h

/-- The block of an XCOPY of four words at 0x4000_0600, which asks for a release, and at 0x4000_0680, which asks for none;
and a block of zeros. -/
theorem witness_EngineCommandIssue (x : Word × Option Nat × Nat)
    (hx : x ∈ [((0x40000600 : Word), none, 1), (0x40000680, none, 0), (0x40000700, some 1, 0)]) :
    x.1.toNat % 64 = 0 ∧ let seen := Forms.streamSettled true strand0
      ∃ block t1, Forms.readBlock 0 x.1 (putStrand m0 { seen with pending := [] }) = .ok block t1 ∧ ∃ u1, Runs t1 u1 ∧
      ∃ pa s2, wordCheck 0x400007C0 (putStrand t1 { u1 with pending := seen.pending }) = .ok pa s2 ∧
      ∃ r s3, blockReason strand0 0 (newCommand s2 strand0 0 block 0x400007C0 pa) s2 = .ok r s3 ∧ r = x.2.1 ∧
        fld (newCommand s2 strand0 0 block 0x400007C0 pa) 9 1 % 2 = x.2.2 ∧ ∃ st4, Runs s3 st4 ∧ slogCount st4 = 0 := by
  have h : ∀ x ∈ [((0x40000600 : Word), none, 1), (0x40000680, none, 0), (0x40000700, some 1, 0)],
      (x.1.toNat % 64 = 0 && okAnd (Forms.readBlock 0 x.1) (putStrand m0 { Forms.streamSettled true strand0 with pending := [] })
        fun block t1 => (strandOf t1).any fun u1 =>
          okAnd (wordCheck 0x400007C0) (putStrand t1 { u1 with pending := (Forms.streamSettled true strand0).pending }) fun pa s2 =>
            okAnd (blockReason strand0 0 (newCommand s2 strand0 0 block 0x400007C0 pa)) s2 fun r s3 =>
              r == x.2.1 && fld (newCommand s2 strand0 0 block 0x400007C0 pa) 9 1 % 2 == x.2.2 &&
                (strandOf s3).any fun st => slogCount st == 0) = true := by decide +kernel
  have h := h x hx
  simp only [Bool.and_eq_true, decide_eq_true_eq] at h
  obtain ⟨block, t1, h1, h2⟩ := okAnd_elim h.2
  obtain ⟨u1, hu, h2⟩ := (Option.any_eq_true _ _).mp h2
  obtain ⟨pa, s2, h3, h4⟩ := okAnd_elim h2
  obtain ⟨r, s3, h5, h6⟩ := okAnd_elim h4
  simp only [Bool.and_eq_true, beq_iff_eq, Option.any_eq_true] at h6
  obtain ⟨⟨h7, h8⟩, st, h9, h10⟩ := h6
  exact ⟨h.1, block, t1, h1, u1, hu, pa, s2, h3, r, s3, h5, h7, h8, st, h9, h10⟩

/-- The strand with that block's address and a completion word's in s7 and s11. -/
def withBlock (st : Strand) : Strand := { st with r := regWrite (regWrite st.r 7 0x40000600) 11 0x400007C0 }

/-- The words of the block lie in the page. -/
def blockPages (i : Nat) : List Xl := [at0 (0x600 + 8 * i)]
def blockWords : List Byte := Forms.wordsAt (with0 withBlock) blockPages 0x40000600 8 8
def blockCmd : Command := newCommand (with0 withBlock) (withBlock strand0) 0 blockWords 0x400007C0 (at0 0x7C0)

theorem witness_CommandsAccepted :
    let st := withBlock strand0
    let s := with0 withBlock
    Runs s st ∧ st.wait ≠ .engineRoom ∧ slogCount st = 0 ∧ st.pending = [] ∧ st.blocks ≠ [] ∧
      (regRead st.r 7).toNat = 0x40000600 ∧ (regRead st.r 11).toNat = 0x400007C0 ∧
      (1 = valueAt s (blockPages 4) ((0x40000600 + 32) % 2 ^ 64) 8 / 2 ^ 16 % 256) ∧ Forms.wordsPass s st blockPages 0x40000600 8 8 ∧
      (∀ s', Alike (fun _ => False) s s' →
        translatePages 0 .write [0x400007C0] s' = .ok (.ok [(0x400007C0, at0 0x7C0)]) s') ∧
      engReach s (at0 0x7C0).pa = true ∧ (at0 0x7C0).cmp = false ∧
      (∀ s', Alike (fun _ => False) s s' → blockReason st 0 blockCmd s' = .ok none s') ∧ fld blockCmd 9 1 % 2 = 1 ∧
      roomFor s (homeBay st / 40) blockCmd.wing = true := by
  refine ⟨rfl, by decide, rfl, rfl, by decide, rfl, rfl, by decide +kernel, ?_, ?_, by decide +kernel, rfl, ?_, by decide +kernel, rfl⟩
  · intro i hi a
    have e : a = 0x40000000 + (0x600 + 8 * i) := by simp only [a]; omega
    rw [e]
    exact ⟨rfl, steady0 (f := withBlock) rfl (fun _ h => h.elim) (by omega) (by omega) _, quiet0 _ _ _ (by omega) (by decide) rfl rfl⟩
  · intro s' h
    obtain ⟨st, l⟩ := like_alike (l := .user) (f := withBlock) rfl (fun _ h => h.elim) h
    unfold translatePages
    rw [bind_ok (getStrand_run l.runs), l.ctx, bind_ok (l.translate (o := 0x7C0) (by decide) .write (.inl rfl))]
    rfl
  · intro s' _
    have c1 : blockReserved blockCmd = false := by decide +kernel
    have c2 : ∀ s, (fld blockCmd 8 1 != 1 || fld blockCmd 11 1 != 0, decide (cmdScope blockCmd < 2) || decide (5 < cmdScope blockCmd) || decide (cmdScope blockCmd < scopeNeed blockCmd),
        fld blockCmd 12 4 != blockLen 0 blockCmd, blockDirty blockCmd, decide (2 ^ 63 ≤ fld blockCmd 0 8), blockLimits s (withBlock strand0) blockCmd,
        collBad blockCmd) = (false, false, false, false, false, false, false) := by
      intro s
      have : blockLimits s (withBlock strand0) blockCmd = (fld blockCmd 34 1 = 0 || 14 < fld blockCmd 34 1 || 2 ^ 48 ≤ copyTotal blockCmd * copySize blockCmd) := rfl
      rw [this]
      decide +kernel
    have c3 := c2 s'
    simp only [Prod.mk.injEq] at c3
    obtain ⟨d1, d2, d3, d4, d5, d6, d7⟩ := c3
    unfold blockReason
    rw [bind_ok (get_run s')]
    simp only [c1, d1, d2, d3, d4, d5, d6, d7]
    rfl

/-- A block of 128 bytes with fields at offsets: offset, bytes, value. -/
def fieldsOf (l : List (Nat × Nat × Nat)) : List Byte :=
  (List.range 128).map fun i =>
    BitVec.ofNat 8 (l.map fun x => if x.1 ≤ i ∧ i < x.1 + x.2.1 then x.2.2 / 256 ^ (i - x.1) % 256 else 0).sum

/-- A running command of the strand, its completion word at offset 0x7C0 of the page. -/
def cmd0 (fn : Nat) (l : List (Nat × Nat × Nat)) : Command :=
  { newCommand m0 strand0 fn (fieldsOf l) 0x400007C0 (at0 0x7C0) with seq := 5, state := .running }

/-- An XCOPY of four words. -/
def copy0 : Command := cmd0 0 [(16, 8, 0x40000100), (24, 8, 0x40000180), (32, 1, 2), (34, 1, 1), (40, 8, 4), (48, 8, 4), (56, 8, 4)]

/-- The strand inside a command XE that waits for room, with room in the queues; a runtime strand, one of user level, and a
block that is not aligned; tickets no command has, and one of a command in each state. -/
theorem witness_EngineCommandIssue_rest :
    (let st : Strand := { strand0 with wait := .engineRoom, pendingXe := some (1, copy0) }
     Runs (with0 fun _ => st) st ∧ st.wait = .engineRoom ∧ st.pendingXe = some (1, copy0) ∧ st.exited = false ∧
       roomFor (with0 fun _ => st) (homeBay st / 40) copy0.wing = true) ∧
    strand0.r.level = .user ∧ strand0.wait ≠ .engineRoom ∧ (regRead strand0.r 5).toNat % 64 ≠ 0 ∧
    (∀ c ∈ m0.commands, ¬ (ticketOf c = 3 ∧ c.state ≠ .expired)) ∧
    (let known := fun (c : Command) => ticketOf c = 3 ∧ c.state ≠ .expired
     let late := fun (c : Command) => c.state = .ended ∨ (c.status ≠ 0 ∧ c.status ≠ 5) ∨ c.cwpa = none ∨ (passedLast m0 c = true ∧ c.cancel = false)
     let c := { copy0 with seq := 3, engine := 0 }
     known c ∧ c.rid = strand0.r.rid.toNat ∧ ¬ late c ∧ late { c with state := .ended } ∧ late { c with done := 4 } ∧
       known { c with state := .ended } ∧ ({ c with rid := 1 } : Command).rid ≠ strand0.r.rid.toNat ∧
       (regRead ({ strand0 with r := strand0.r } : Strand).r 5).toNat = ticketOf c) := by
  refine ⟨⟨rfl, rfl, rfl, rfl, rfl⟩, rfl, by decide, by decide, by decide, by decide⟩

/-- A running and a queued command; one that has ended; a collective member beside one that failed; an XMIG whose lines are all
copied; a completion word and none. -/
theorem witness_EngineCommandsRun :
    (let s := { m0 with commands := [copy0] }
     runningOn s copy0.engine = some copy0 ∧ commandOf s (ticketOf copy0) = some copy0) ∧
    (let c := { copy0 with state := .queued }
     runningOn { m0 with commands := [c] } c.engine = none ∧ nextQueued { m0 with commands := [c] } c.engine = some c) ∧
    (let c := { copy0 with state := .ended }
     commandOf { m0 with commands := [c] } (ticketOf c) = some c ∧ c.state = .ended) ∧
    (let c := { cmd0 4 [] with seq := 6 }
     let x := { cmd0 4 [] with status := 13, state := .ended, word := 1 }
     let s := { m0 with commands := [x, c] }
     commandOf s (ticketOf c) = some c ∧ c.fn = 4 ∧ c.state = .running ∧ collAborted s c = true) ∧
    (let c := { cmd0 65 [(24, 8, 2 ^ 46), (32, 1, 0)] with word := 1, done := 32 }
     let s := { m0 with commands := [c], members := [0, 1] }
     commandOf s (ticketOf c) = some c ∧ c.fn = 65 ∧ c.state = .running ∧ c.word = 1 ∧ migSize c / 128 ≤ c.done ∧ c.status = 0 ∧
       c.cancel = false ∧ c.cwpa.isSome ∧ migDest c ≠ s.pkg ∧ s.members.contains (migDest c) = true) ∧
    (MemOk m0 ∧ m0.shims = [] ∧ m0.poison = [] ∧ copy0.cwpa = some 0x207C0 ∧ copy0.fn < 64 ∧ copy0.fn ≠ 3 ∧
      ∀ i, i < 8 → ∀ j, j < 8 → steer m0 (0x207C0 + j) = steer m0 (0x207C0 + i) → j = i) ∧
    (let c := { copy0 with cwpa := none }
     let unit : Command → EM (Option Command) := fun c => pure (some c)
     c.cwpa = none ∧ c.status = 0 ∧ c.cancel = false ∧ ∃ c' t, unit c m0 = .ok (some c') t ∧ c'.cwpa = none) := by
  refine ⟨by decide +kernel, by decide +kernel, by decide +kernel, by decide +kernel, by decide +kernel, ⟨(by decide +kernel : memWf tables = true), rfl, rfl, rfl, by decide, by decide, ?_⟩,
    rfl, rfl, rfl, _, _, rfl, rfl⟩
  intro i hi j hj h
  rw [steer_near ⟨rfl, rfl, rfl, rfl, rfl⟩ (by omega), steer_near ⟨rfl, rfl, rfl, rfl, rfl⟩ (by omega)] at h
  omega

/-- An action of an engine answers, and its answer passes a test. -/
def okEM {α : Type} (x : EM α) (s : State) (p : α → State → Bool) : Bool :=
  match x s with
  | .ok a t => p a t
  | .error _ _ => false

theorem okEM_elim {α : Type} {x : EM α} {s : State} {p : α → State → Bool} (h : okEM x s p = true) :
    ∃ a t, x s = .ok a t ∧ p a t = true := by
  unfold okEM at h
  split at h
  · exact ⟨_, _, ‹_›, h⟩
  · cases h

/-- An XCOPY of four words at its first element, and after its last. -/
theorem witness_EngineFunctions_copy :
    (copy0.done < copyTotal copy0 ∧ ∃ bs s1, engRead copy0 false (copyAddr copy0 (fld copy0 16 8) 8 0) (copySize copy0) m0 = .ok bs s1 ∧
      bs.length = copySize copy0 ∧
      ∃ ps s2, writePages copy0 false (piecesOfAccess (copyAddr copy0 (fld copy0 24 8) 16 0) (copySize copy0)) s1 = .ok ps s2) ∧
    copyTotal { copy0 with done := 4 } ≤ 4 ∧ copyDims copy0 = 1 ∧ 3 < copyExtent copy0 0 ∧ (fld copy0 33 1 == 1) = false := by
  refine ⟨⟨by decide +kernel, ?_⟩, by decide +kernel, by decide +kernel, by decide +kernel, by decide +kernel⟩
  have h : (okEM (engRead copy0 false (copyAddr copy0 (fld copy0 16 8) 8 0) (copySize copy0)) m0 fun bs s1 =>
      bs.length == copySize copy0 &&
        okEM (writePages copy0 false (piecesOfAccess (copyAddr copy0 (fld copy0 24 8) 16 0) (copySize copy0))) s1 fun _ _ => true) =
      true := by decide +kernel
  obtain ⟨bs, s1, h1, h2⟩ := okEM_elim h
  simp only [Bool.and_eq_true, beq_iff_eq] at h2
  obtain ⟨ps, s2, h3, -⟩ := okEM_elim h2.2
  exact ⟨bs, s1, h1, h2.1, ps, s2, h3⟩

/-- A gather of two rows of four bytes, the first index 0, from a table of `rows` rows. -/
def gather0 (rows : Nat) : Command :=
  cmd0 1 [(16, 8, 0x40000100), (24, 8, 0x40000440), (32, 8, 0x40000180), (40, 8, 4), (48, 8, 4), (56, 8, rows), (64, 4, 4), (72, 4, 2)]

/-- An index inside the table and one at its end. -/
theorem witness_EngineFunctions_gather :
    (let c := gather0 1
     c.done < fld c 72 4 ∧ ∃ k s1, engIndex c c.done m0 = .ok k s1 ∧ k < fld c 56 8 ∧ ∃ bs s2,
       engRead c false (fld c 16 8 + k * fld c 40 8) (fld c 64 4) s1 = .ok bs s2 ∧ bs.length = fld c 64 4 ∧ ∃ ps s3,
       writePages c false (piecesOfAccess (fld c 32 8 + c.done * fld c 48 8) (fld c 64 4)) s2 = .ok ps s3) ∧
    (let c := gather0 0
     c.done < fld c 72 4 ∧ ∃ k s1, engIndex c c.done m0 = .ok k s1 ∧ fld c 56 8 ≤ k) := by
  have h : (okEM (engIndex (gather0 1) 0) m0 fun k s1 => decide (k < fld (gather0 1) 56 8) &&
      okEM (engRead (gather0 1) false (fld (gather0 1) 16 8 + k * fld (gather0 1) 40 8) (fld (gather0 1) 64 4)) s1 fun bs s2 =>
        bs.length == fld (gather0 1) 64 4 && okEM (writePages (gather0 1) false
          (piecesOfAccess (fld (gather0 1) 32 8 + 0 * fld (gather0 1) 48 8) (fld (gather0 1) 64 4))) s2 fun _ _ => true) = true := by
    decide +kernel
  have g : okEM (engIndex (gather0 0) 0) m0 (fun k _ => decide (fld (gather0 0) 56 8 ≤ k)) = true := by decide +kernel
  obtain ⟨k, s1, h1, h2⟩ := okEM_elim h
  simp only [Bool.and_eq_true, decide_eq_true_eq] at h2
  obtain ⟨bs, s2, h3, h4⟩ := okEM_elim h2.2
  simp only [Bool.and_eq_true, beq_iff_eq] at h4
  obtain ⟨ps, s3, h5, -⟩ := okEM_elim h4.2
  obtain ⟨k', s', g1, g2⟩ := okEM_elim g
  exact ⟨⟨by decide +kernel, k, s1, h1, h2.1, bs, s2, h3, h4.1, ps, s3, h5⟩, by decide +kernel, k', s', g1, of_decide_eq_true g2⟩

/-- The machine with the page in the TLB of every engine, where reads of the page change nothing. -/
def mEng : State := { m0 with engineTlb := [(0, page)] }

/-- A bag of one row of one FP32 element with a weight, the index the last of its table. -/
def pool0 : Command :=
  cmd0 2 [(16, 8, 0x40000100), (24, 8, 0x40000440), (40, 8, 4), (56, 8, 3), (68, 1, 0), (88, 8, 0x40000100)]

theorem pool_index : engIndex pool0 1 mEng = .ok 2 mEng := by with_unfolding_all rfl
theorem pool_value : engValue pool0 (fld pool0 16 8 + 2 * fld pool0 40 8 + 0 * 4) 4 mEng = .ok 0 mEng := by with_unfolding_all rfl
theorem pool_weight : engValue pool0 (fld pool0 88 8 + 4 * 1) 4 mEng = .ok 0 mEng := by with_unfolding_all rfl

/-- That bag; a compressed tensor of two symbols, at the first and the last slot of each. -/
theorem witness_EngineFunctions_pool :
    (∀ q, 1 ≤ q → q < 1 + 1 → engIndex pool0 q mEng = .ok 2 mEng ∧ 2 < fld pool0 56 8 ∧
      engValue pool0 (fld pool0 16 8 + 2 * fld pool0 40 8 + 0 * 4) 4 mEng = .ok 0 mEng ∧
      (fld pool0 88 8 ≠ 0 → engValue pool0 (fld pool0 88 8 + 4 * q) 4 mEng = .ok 0 mEng)) ∧ fld pool0 88 8 ≠ 0 ∧
    (let c := cmd0 3 [(70, 2, 2), (96, 2, 3), (98, 2, 5)]
     let cum := fun (k : Nat) => ((List.range k).map (thFreq c)).sum
     thBase = 64 ∧ (0 < thSyms c ∧ cum 0 ≤ 0 ∧ 0 < cum 1) ∧ (1 < thSyms c ∧ cum 1 ≤ 3 ∧ 3 < cum 2) ∧ 1 < thSyms c ∧ cum 1 ≤ 7 ∧ 7 < cum 2) := by
  refine ⟨fun q h1 h2 => ?_, by decide +kernel, by decide +kernel⟩
  obtain rfl : q = 1 := by omega
  exact ⟨pool_index, by decide +kernel, pool_value, fun _ => pool_weight⟩

/-- A bag of two rows, its offsets 0 and 2 at `o`. -/
def pool1 (o : Nat) : Command :=
  cmd0 2 [(16, 8, 0x40000100), (24, 8, 0x40000440), (32, 8, 0x40000180), (40, 8, 4), (48, 8, 4), (56, 8, 3), (64, 4, 1), (72, 8, o),
    (80, 4, 1), (88, 8, 0x40000100)]

/-- A compressed tensor of two symbols with two elements, the first state at a slot of the second symbol. -/
def expand0 : Command :=
  { cmd0 3 [(32, 8, 0x40000180), (70, 2, 2), (72, 8, 2), (96, 2, 3), (98, 2, 4093)] with states := List.replicate 32 (2 ^ 28 + 3) }

/-- An engine that runs a command where its reads change nothing. -/
def eng1 (c : Command) : State := { mEng with commands := [c] }

/-- Whether an action of an engine answers with the state it had. -/
def still0 {α : Type} (x : EM α) (s : State) (p : α → Bool) : Bool := okEM x s fun a t => p a && decide (t = s)

/-- A bag whose offsets rise and one whose offsets fall. -/
theorem witness_EngineFunctions_bags :
    (let c := pool1 0x40000440
     let s := eng1 c
     decide (c.done < fld c 80 4) && still0 (engValue c (fld c 72 8 + 4 * c.done) 4) s (· == 0) &&
       still0 (engValue c (fld c 72 8 + 4 * (c.done + 1)) 4) s (· == 2) && still0 (engValue c (fld c 72 8 + 4 * fld c 80 4) 4) s (· == 2) &&
       fld c 64 4 == 1 && still0 (poolElem c 0 (2 - 0) 0 0) s (fun _ => true) &&
       okEM (writePages c false (piecesOfAccess (fld c 32 8 + c.done * fld c 48 8) (4 * fld c 64 4))) s (fun _ _ => true)) = true ∧
    (let c := pool1 0x40000444
     let s := eng1 c
     still0 (engValue c (fld c 72 8 + 4 * c.done) 4) s (· == 2) && still0 (engValue c (fld c 72 8 + 4 * (c.done + 1)) 4) s (· == 0) &&
       still0 (engValue c (fld c 72 8 + 4 * fld c 80 4) 4) s (· == 0)) = true :=
  And.intro (by decide +kernel) (by decide +kernel)

/-- A symbol of a compressed tensor. -/
theorem witness_EngineFunctions_symbol :
    (let c := expand0
     let x := c.states.getD (c.done % 32) 0
     let sym := (symbolOf c (x % 4096) (thSyms c - 1) 0 0).1
     let y := thFreq c sym * (x / 4096) + x % 4096 - (symbolOf c (x % 4096) (thSyms c - 1) 0 0).2
     !c.states.isEmpty && decide (c.done < thElems c) && sym == 1 && decide (2 ^ 16 ≤ y) &&
       okEM (expandPut c c.done (thValue c sym)) (eng1 c) (fun _ _ => true)) = true := by decide +kernel

/-- Each of the engines runs its command. -/
theorem witness_EngineFunctions_run : ([copy0, gather0 1, pool1 0x40000440, expand0].all fun c =>
    decide (runningOn (eng1 c) c.engine = some c) && c.cwpa.isSome && c.status == 0 && !c.cancel) = true := by decide +kernel

/-- Whether a unit stops, and with a status or not. -/
def stopsWith (x : EM (Option Command)) (s : State) (p : EStop → Bool) : Bool :=
  match x s with
  | .error e _ => p e
  | _ => false

/-- A unit that finishes its command, goes on, fails, and must wait; commands that do not go on; a command as its last units leave
it. -/
theorem witness_EngineUnits :
    (okEM (xcopyUnit { copy0 with done := 4 }) mEng (fun c _ => c.isNone) = true ∧ okEM (xcopyUnit copy0) mEng (fun c _ => c.isSome) = true ∧
      stopsWith (xgatherUnit (gather0 0)) mEng (fun e => e == .status 10) = true ∧
      stopsWith (xcopyUnit copy0) { mEng with prepared := [{ place := 0, requester := 0, op := 0, w64 := false, elems := [(0x20100, 1)] }] }
        (fun e => e == .held) = true ∧ copy0.cwpa.isSome = true ∧ copy0.status = 0 ∧ copy0.cancel = false) ∧
    ({ copy0 with cwpa := none } : Command).cwpa = none ∧ ({ copy0 with status := 12 } : Command).status ≠ 0 ∧
    ({ copy0 with cancel := true } : Command).cancel = true ∧
    (let c := { copy0 with cwpa := none }
     ((progress (2 ^ 65) c { m0 with commands := [c] }).1.commands.find? fun y => y.seq == c.seq).isSome = true) := by
  refine ⟨by decide +kernel, rfl, by decide, rfl, by decide +kernel⟩

/-- A read of the page by an engine; eight bytes for one page, one of them poisoned. -/
theorem witness_EngineBytes :
    okEM (engPage copy0 .read false 0x40000100 8) mEng (fun x t => x.home == 0 && !isPooled t x.pa) = true ∧ MemOk mEng ∧ mEng.shims = [] ∧
    ([(1, true), (2, false), (3, false), (4, false), (5, false), (6, false), (7, false), (8, false)] : List PByte).length = 8 ∧
    ∀ i j, i < 8 → j < 8 → steer mEng (0x20100 + i) = steer mEng (0x20100 + j) → i = j := by
  refine ⟨by decide +kernel, (by decide +kernel : memWf tables = true), rfl, rfl, fun i j hi hj h => ?_⟩
  rw [steer_near ⟨rfl, rfl, rfl, rfl, rfl⟩ (by omega), steer_near ⟨rfl, rfl, rfl, rfl, rfl⟩ (by omega)] at h
  omega

/-! ### Witnesses: work -/

/-- A raising of two stages; stage 1 has the given items and is fed by stage 0. -/
def raising0 (items : List (List (BitVec 64))) : Raising :=
  let x := newStage 0x40000000 1 1 0 0 0 0
  let y := { newStage 0x40000000 1 1 0 2 0 0 with items := items }
  { rid := 0, vf := 0, slot := 0, stages := [x, y], cont := 0, n := 0, bents := 1, args := [], ablk := 0, cwa := 0, cval := 0,
    spool := 0, spsz := 0, prio := 0, wings := [0], aborted := false, ended := false }

def vf0 : Vf := { num := 0, wings := [0], runtime := false, asid := 0, ptbase := 0x10000, vmid := 0, s2root := 0 }

/-- A machine with a virtual function and a container, whose strand is changed by `f`. -/
def work0 (f : Strand → Strand) (items : List (List (BitVec 64))) : State :=
  { with0 f with
    vfs := [vf0]
    containers := [{ handle := 0x77, textBase := 0x40000000, textEnd := 0x40001000, wings := [0], stackSizes := [], stages := 1, digest := 0 }]
    raisings := [raising0 items] }

/-- A packet of 65535 bents of one strand of one bay. -/
def packet0 : List Byte := fieldsOf [(0, 8, 0x40000000), (8, 8, 0x77), (24, 2, 1), (26, 1, 1), (28, 4, 65535)] ++ fieldsOf []

/-- Words of the page that the strand reads pass their checks. -/
theorem words_pass {l : Level} {s : State} {st : Strand} (h : Like l s st) (hq : ∀ o, o < 0x1000 → Quiet s st [at0 o] (0x40000000 + o))
    (hw : ∀ a n, watchHit st.r a n .read = none) {o k n : Nat} (hn : o + k * n ≤ 0xFFF) :
    Forms.wordsPass s st (fun i => [at0 (o + k * i)]) (0x40000000 + o) k n := by
  intro i hi a
  have m : k * (i + 1) ≤ k * n := Nat.mul_le_mul_left k hi
  rw [Nat.mul_add, Nat.mul_one] at m
  have e : a = 0x40000000 + (o + k * i) := by simp only [a]; omega
  rw [e]
  exact ⟨hw _ _, h.steady (fun _ h => h.elim) (by omega) (by omega) _ (.inr (by decide)), hq _ (by omega)⟩

/-- The block at s[s0] is a packet that can be read, with slots free and none; the packet above passes the Foreman's checks;
a slot in use and the last offset of a commit; a raising whose stages are all complete. -/
theorem witness_LaunchResults :
    ((regRead strand0.r 5).toNat % 256 ≠ 0 ∧ (regRead strand0.r 0).toNat % 256 = 0 ∧ (regRead strand0.r 4).toNat % 256 = 0 ∧
      Forms.wordsPass m0 strand0 (fun i => [at0 (0x100 + 8 * i)]) 0x40000100 8 32 ∧
      (launchOf m0 (vfOf strand0) 0).state = 0 ∧
      let full := { m0 with launch := (List.range 16).map fun i => { launchOf m0 0 i with vf := 0, idx := i, state := 1 } }
      vfOf strand0 = 0 ∧ ∀ i, i < 16 → (launchOf full 0 i).state ≠ 0) ∧
    (let s := work0 id []
     let x := newStage 0x40000000 1 1 0 0 0 0
     bytesAt packet0 32 8 = 0 ∧ packet0.length = 256 ∧ newStage (bytesAt packet0 0 8) (bytesAt packet0 24 2) (bytesAt packet0 26 1) (bytesAt packet0 27 1) 0 0 0 = x ∧
       packetStatus s 0 (vfRecord s 0) (packetContainer s packet0) (some [x]) packet0 = none ∧ bytesAt packet0 27 1 / 2 % 2 = 0) ∧
    (let r := raising0 []
     let r := { r with stages := r.stages.map fun x => { x with complete := true } }
     let s := { m0 with raisings := [r] }
     raisingOf s 0 = some r ∧ r.ended = false ∧ (∀ c ∈ s.commands, c.rid = 0 → c.state ≠ .queued ∧ c.state ≠ .running) ∧
       r.aborted = false ∧ (∀ x ∈ r.stages, x.complete = true) ∧
       ∃ ok t, writeCompletion (vfRecord s r.vf) r.cwa r.cval.toNat { s with raisings := [] } = .ok ok t) := by
  have g : okAnd (writeCompletion (vfRecord m0 0) 0 0) { m0 with raisings := [] } (fun _ _ => true) = true := by decide +kernel
  obtain ⟨ok, t, g1, -⟩ := okAnd_elim g
  exact ⟨⟨by decide, by decide, by decide, words_pass (like0 id rfl) (fun o h => quiet0 id _ o h (by decide) rfl rfl) (no_watch _) (by decide), rfl, rfl, by decide +kernel⟩, by decide +kernel, rfl, rfl,
    by decide, rfl, by decide, ok, t, g1⟩

theorem work_like {l : Level} (f : Strand → Strand) (hc : strandCtx (f strand0) 0 = ctx0 l) (items : List (List (BitVec 64))) :
    Like l (work0 f items) (f strand0) :=
  have h := like0 (l := l) f hc
  ⟨h.runs, h.ctx, h.tlb, h.walk, h.load, h.map, h.near, h.dirty⟩

def item0 : List (BitVec 64) := [1, 2, 3, 4, 5, 6, 7, 8]
/-- The strand of stage 1. -/
def second (st : Strand) : Strand := { st with r := { st.r with stg := 1 } }

/-- QPUSH of a stage that does not exist, with room for one item, and with none; QPOP by stage 0, of an empty queue and of one
item; a strand that waits in QPUSH; an instance that its item can be given. -/
theorem witness_QueueResults :
    (regRead strand0.r 5).toNat % 64 ≠ 0 ∧ (regRead strand0.r 4).toNat % 64 = 0 ∧
    pushStage (work0 id [item0]) strand0 (regRead strand0.r 5).toNat = none ∧
    (∀ items ∈ [[item0], [item0, item0]], ∃ g, pushStage (work0 id items) strand0 (regRead strand0.r 6).toNat = some g ∧
      g.items = items ∧ g.cap = 2 ∧
      Forms.wordsPass (work0 id items) strand0 (fun i => [at0 (0x100 + 8 * i)]) 0x40000100 8 8) ∧
    strand0.r.stg.toNat = 0 ∧ (second strand0).r.stg.toNat ≠ 0 ∧
    (∀ items ∈ [[], [item0]], ∃ g, Forms.stageOf (work0 second items) 0 1 = some g ∧ g.items = items) ∧ item0.length = 8 ∧
    (let s := work0 second [item0]
     watchHit (second strand0).r 0x40000100 64 .write = none ∧ Allowed s 0 0x40000100 64 .write [at0 0x100] s ∧
       Runs s (second strand0) ∧ Quiet s (second strand0) [at0 0x100] 0x40000100 ∧ MemOk s) ∧
    (let st : Strand := { strand0 with wait := .queueFull 1 }
     let s := work0 (fun _ => st) [item0]
     s.strands[0]? = some st ∧ st.exited = false ∧ st.wait = .queueFull 1 ∧ ∀ g, pushStage s st 1 = some g → g.items.length < g.cap) ∧
    (let s := work0 id [item0]
     ∃ g, Forms.stageOf s 0 1 = some g ∧ g.items = item0 :: [] ∧
      (s.bents.filter fun b => b.rid == 0 && b.stage == 1 && b.state == .waiting).length < g.items.length) := by
  have like := work_like (l := .user) second rfl [item0]
  refine ⟨by decide, by decide, rfl, ?_, rfl, by decide, ?_, rfl,
    ⟨no_watch _ _ _, like.check (o := 0x100) (by decide) (by decide) _ (.inl rfl), rfl, ?_, (by decide +kernel : memWf tables = true)⟩,
    ⟨rfl, rfl, rfl, fun g h => ?_⟩, _, rfl, rfl, by decide⟩
  · intro items _
    refine ⟨_, rfl, rfl, rfl, words_pass (l := .user) (work_like id rfl items) (fun o h => ?_) (no_watch _) (by decide)⟩
    obtain ⟨h1, h2, h3, h4, h5, h6, h7, h8⟩ := quiet0 id strand0 o h (by decide) rfl rfl
    exact ⟨h1, h2, h3, h4, h5, h6, h7, h8⟩
  · intro items _
    exact ⟨_, rfl, rfl⟩
  · obtain ⟨h1, h2, h3, h4, h5, h6, h7, h8⟩ := quiet0 second (second strand0) 0x100 (by decide) (by decide) rfl rfl
    exact ⟨h1, h2, h3, h4, h5, h6, h7, h8⟩
  · obtain rfl := Option.some.inj h
    decide

/-- A queue of capacity 3 at s[14], of FP32 elements: the fourth active element has no place. -/
theorem witness_QueueAppendResults :
    Runs m0 strand0 ∧ VectorReady strand0 ∧ slogCount strand0 = 0 ∧ strand0.blocks ≠ [] ∧ MemOk m0 ∧
    Instr.subByteCode 2 = false ∧ 8 ≤ vtWidth strand0.r.vt ∧ wideBad 2 8 strand0 = false ∧
    Forms.active { strand0 with r := { strand0.r with vl := 0 } } 0 = [] ∧
    (let es := Forms.active strand0 0
     let va := (regRead strand0.r 14).toNat
     let pages := fun (k : Nat) => [at0 (0x800 + 4 * k)]
     let at' := fun (k : Nat) => (0x40000800 + (0 + k) * (32 / 8)) % 2 ^ 64
     let key := fun (k i : Nat) => keyOf m0 (pages k) (at' k) i
     let K := fun (x : Nat) => (∃ i, i < 8 ∧ x = keyOf m0 [at0 0x740] va i) ∨ ∃ k i, k < 3 ∧ i < 4 ∧ x = key k i
     es.length = 4 ∧ va = 0x40000740 ∧ vmWidth strand0.r.vt 2 = 32 ∧ valueAt m0 [at0 0x740] va 8 = 0 ∧
       valueAt m0 [at0 0x748] (va + 8) 8 = 3 ∧ valueAt m0 [at0 0x750] (va + 16) 8 = 0x40000800 ∧
       va % 32 = 0 ∧ watchHit strand0.r va 8 .atomic = none ∧ watchHit strand0.r (va + 8) 8 .read = none ∧
       watchHit strand0.r (va + 16) 8 .read = none ∧ (∀ s', Alike K m0 s' → checkAtomic false 0 va 8 true s' = .ok (.ok [at0 0x740]) s') ∧
       Quiet m0 strand0 [at0 0x740] va ∧ Quiet m0 strand0 [at0 0x748] (va + 8) ∧ Quiet m0 strand0 [at0 0x750] (va + 16) ∧
       Steady K m0 0 (va + 8) 8 .read [at0 0x748] ∧ Steady K m0 0 (va + 16) 8 .read [at0 0x750] ∧
       (∀ k e, k < 3 → es[k]? = some e → watchHit strand0.r (at' k) 4 .write = none ∧ Quiet m0 strand0 (pages k) (at' k) ∧
         Steady K m0 e.1 (at' k) 4 .write (pages k)) ∧
       (∀ i j, i < 8 → j < 8 → keyOf m0 [at0 0x740] va i = keyOf m0 [at0 0x740] va j → i = j) ∧
       (∀ i j, i < 8 → j < 8 → keyOf m0 [at0 0x748] (va + 8) i ≠ keyOf m0 [at0 0x740] va j ∧
         keyOf m0 [at0 0x750] (va + 16) i ≠ keyOf m0 [at0 0x740] va j) ∧
       (∀ k k' i i', k < 3 → k' < 3 → i < 4 → i' < 4 → key k i = key k' i' → k = k' ∧ i = i') ∧
       ∀ k i j, k < 3 → i < 4 → j < 8 → key k i ≠ keyOf m0 [at0 0x740] va j) := by
  have kt : ∀ {o i}, o + i < 0x1000 → keyOf m0 [at0 o] (0x40000000 + o) i = 0x20000 + o + i := fun h => key0 id h
  have ka : ∀ {k i}, k < 3 → i < 4 → keyOf m0 [at0 (0x800 + 4 * k)] ((0x40000800 + (0 + k) * (32 / 8)) % 2 ^ 64) i = 0x20800 + 4 * k + i := by
    intro k i hk hi
    rw [show (0x40000800 + (0 + k) * (32 / 8)) % 2 ^ 64 = 0x40000000 + (0x800 + 4 * k) by omega, kt (by omega)]
    omega
  refine ⟨rfl, ready rfl rfl rfl rfl rfl, rfl, by decide, (by decide +kernel : memWf tables = true), rfl, by decide, rfl, by decide +kernel, ?_⟩
  have hK : ∀ x, ((∃ i, i < 8 ∧ x = keyOf m0 [at0 0x740] (regRead strand0.r 14).toNat i) ∨ ∃ k i, k < 3 ∧ i < 4 ∧
      x = keyOf m0 [at0 (0x800 + 4 * k)] ((0x40000800 + (0 + k) * (32 / 8)) % 2 ^ 64) i) → 0x20000 ≤ x := by
    rintro x (⟨i, hi, rfl⟩ | ⟨k, i, hk, hi, rfl⟩)
    · rw [show (regRead strand0.r 14).toNat = 0x40000000 + 0x740 from rfl, kt (by omega)]
      omega
    · rw [ka hk hi]
      omega
  refine ⟨by decide +kernel, rfl, rfl, by decide +kernel, by decide +kernel, by decide +kernel, by decide, no_watch _ _ _, no_watch _ _ _, no_watch _ _ _,
    fun s' h => (like_alike (l := .user) (f := id) rfl hK h).elim fun _ l =>
      l.atomic (o := 0x740) (by rw [h.2.2.2.1]; rfl) (by decide) (by decide) _ _, quiet0 id _ 0x740 (by decide) (by decide) rfl rfl,
    quiet0 id _ 0x748 (by decide) (by decide) rfl rfl, quiet0 id _ 0x750 (by decide) (by decide) rfl rfl,
    steady0 (f := id) (l := .user) (o := 0x748) rfl hK (by decide) (by decide) _, steady0 (f := id) (l := .user) (o := 0x750) rfl hK (by decide) (by decide) _, ?_, ?_, ?_, ?_, ?_⟩
  · intro k e hk he
    have := (active0 (List.mem_of_getElem? he)).1
    have ea : (0x40000800 + (0 + k) * (32 / 8)) % 2 ^ 64 = 0x40000000 + (0x800 + 4 * k) := by omega
    simp only [this, ea] at hK ⊢
    exact ⟨no_watch _ _ _, quiet0 id _ _ (by omega) (by decide) rfl rfl, steady0 (f := id) (l := .user) rfl hK (by omega) (by omega) _⟩
  · intro i j hi hj h
    rw [show (regRead strand0.r 14).toNat = 0x40000000 + 0x740 from rfl, kt (by omega), kt (by omega)] at h
    omega
  · intro i j hi hj
    rw [show (regRead strand0.r 14).toNat + 8 = 0x40000000 + 0x748 from rfl, show (regRead strand0.r 14).toNat + 16 = 0x40000000 + 0x750 from rfl,
      show (regRead strand0.r 14).toNat = 0x40000000 + 0x740 from rfl, kt (by omega), kt (by omega), kt (by omega)]
    omega
  · intro k k' i i' hk hk' hi hi' h
    dsimp only at h
    rw [ka hk hi, ka hk' hi'] at h
    omega
  · intro k i j hk hi hj
    dsimp only
    rw [show (regRead strand0.r 14).toNat = 0x40000000 + 0x740 from rfl, ka hk hi, kt (by omega)]
    omega

/-- A bent that waits for its first placement, its raising, and the one bay it is to have. -/
def waiting0 : State := { work0 id [] with strands := [], bents := [newBent 0 0 0 []] }

/-- A strand that holds nothing; the last strand of a bent and one with a second; a resident bent not started, one that is to
be pre-empted with its strand quiet, and one that waits and may be placed. -/
theorem witness_BentResults :
    expandHolds m0 m0.cur (fun _ _ _ => true) = false ∧ m0.bents[strand0.bent]? = some placedBent ∧ placedBent.strands = [0] ∧
    (∃ k ∈ [0, 1], k ≠ (pair0 id id).cur ∧ ∃ x, (pair0 id id).strands[k]? = some x ∧ x.exited = false) ∧
    placedBent.state = .resident ∧ ({ placedBent with started := false } : Bent).started = false ∧
    (newBent 0 0 0 []).state = .waiting ∧ (newBent 0 0 0 []).held = false ∧
    (∀ i ∈ placedBent.strands, ∀ st, m0.strands[i]? = some st → strandQuiet m0 i st = true) ∧ strand0.exited = false ∧
    (let s := waiting0
     let b := newBent 0 0 0 []
     s.bents[0]? = some b ∧ placeable s b = true ∧ baysFit s b [[0]] = true ∧ baysDue s 0 [0] = true ∧
       raisingOf s b.rid = some (raising0 []) ∧ (∃ x, (raising0 []).stages[b.stage]? = some x) ∧ b.strands = [] ∧
       ∃ j, freeSet s (raising0 []) b.stage = some j) := by
  refine ⟨rfl, rfl, rfl, ⟨1, by decide, by decide, _, rfl, rfl⟩, rfl, rfl, rfl, rfl, ?_, rfl,
    rfl, rfl, by decide +kernel, rfl, rfl, ⟨_, rfl⟩, rfl, ?_⟩
  · intro i hi st h
    obtain rfl : i = 0 := List.mem_singleton.mp hi
    obtain rfl := Option.some.inj h
    rfl
  · have h : (freeSet waiting0 (raising0 []) 0).isSome = true := by decide +kernel
    exact Option.isSome_iff_exists.mp h

/-- A candidate of stage 0, and an instance of stage 1 of a higher score that needs sixteen bays. -/
def rivals0 : State :=
  let y := { newStage 0x40000000 2 8 0 2 0 0 with score := 1 }
  { work0 id [] with
    raisings := [{ raising0 [] with stages := [newStage 0x40000000 1 1 0 0 0 0, y] }]
    bents := [{ placedBent with candidate := true }, newBent 0 1 0 item0] }

/-- A bent that has been saved waits with its strand. -/
def saved0 : State := { work0 (fun st => { st with blocks := [newBlock 0 0 0 0] }) [] with bents := [{ newBent 0 0 0 [] with strands := [0] }] }

/-- A pre-emption that a rival's score asks for, whatever the time; one already asked for; and a placement that resumes. -/
theorem witness_BentResults_preempted :
    (let b := { placedBent with candidate := true }
     rivals0.bents[0]? = some b ∧ b.state = .resident ∧ b.preempt = false ∧ b.held = false ∧
       ∀ time fresh, let s1 := { rivals0 with time := time, fresh := fresh }
         (takenByPriority s1 0).or (takenAsCandidate s1 0 b) = some 1) ∧
    ({ placedBent with preempt := true } : Bent).preempt = true ∧
    (let b := { newBent 0 0 0 [] with strands := [0] }
     saved0.bents[0]? = some b ∧ placeable saved0 b = true ∧ baysFit saved0 b [[0]] = true ∧ baysDue saved0 0 [0] = true ∧
       raisingOf saved0 b.rid = some (raising0 []) ∧ (∃ x, (raising0 []).stages[b.stage]? = some x) ∧ b.strands ≠ [] ∧ b.strands.Nodup ∧
       ∃ st, saved0.strands[0]? = some st ∧ st.exited = false) :=
  ⟨⟨rfl, rfl, rfl, rfl, fun _ _ => by with_unfolding_all rfl⟩, rfl, rfl, rfl, by decide +kernel, rfl, rfl, ⟨_, rfl⟩, by decide, by decide, _, rfl, rfl⟩

/-- A strand whose loads meet no strongly ordered page reads on as it is. -/
theorem words_read (n o k : Nat) : Forms.wordsRead strand0 (fun i => [at0 (o + k * i)]) n strand0 :=
  And.intro rfl (And.intro (fun ⟨_, _, p, hp, h⟩ => by cases List.mem_singleton.mp hp; cases h) fun _ => rfl)

/-- A machine in which another party holds a line of the page for a prepared VAMO. -/
def lineHeld0 : State :=
  { work0 id [] with prepared := [{ place := 0, requester := 0, op := 0, w64 := false, elems := [(0x20100, 1)] }] }

/-- Whether an access of the Foreman is to be made again. -/
def isHeld {α : Type} : Tried α → Bool
  | .held => true
  | _ => false

/-- A packet whose stage table lies in a line that is held, and one whose container there is not; a completion word that is not
aligned, one with no page, one on a held line, and one that can be written; an item for an instance; a saved strand. -/
theorem witness_WorkRest :
    (let bs := fieldsOf [(0, 8, 0x40000000), (8, 8, 0x77), (24, 2, 1), (26, 1, 1), (28, 4, 2), (32, 8, 0x40000100), (40, 1, 1)] ++ fieldsOf []
     okAnd (packetStages (vfRecord lineHeld0 0) (packetContainer lineHeld0 bs) bs) { lineHeld0 with nextRid := 1 } (fun x _ => isHeld x) = true) ∧
    (let bs := fieldsOf [(0, 8, 0x40000000), (8, 8, 0x78), (24, 2, 1), (26, 1, 1), (28, 4, 2)] ++ fieldsOf []
     let s := work0 id []
     let v := vfRecord s 0
     okAnd (packetStages v (packetContainer s bs) bs) { s with nextRid := 1 } (fun x t1 =>
       let stages := match x with
         | .done xs => some xs
         | _ => none
       !isHeld x && (packetStatus t1 0 v (packetContainer s bs) stages bs).any fun n =>
         okAnd (writeCompletion v (BitVec.ofNat 64 (bytesAt bs 120 8)) (2 ^ 63 + n * 2 ^ 56)) t1 (fun _ _ => true)) = true) ∧
    (3 : Word).toNat % 8 ≠ 0 ∧
    (match engPage (foremanAs (vf0)) .write false 0x50000000 8 (work0 id []) with
      | .error (.status _) _ => true
      | _ => false) = true ∧
    (match engPage (foremanAs (vf0)) .write false 0x40000100 8 lineHeld0 with
      | .error .held _ => true
      | _ => false) = true ∧
    okEM (engPage (foremanAs (vf0)) .write false 0x40000100 8) (work0 id []) (fun x t => x.pa == 0x20100 && memWf t.mem) = true ∧
    (let s := work0 id [item0]
     ∃ r, raisingOf s 0 = some r ∧ r.ended = false ∧ r.aborted = false) ∧
    (∀ i ∈ ({ newBent 0 0 0 [] with strands := [0] } : Bent).strands, ∀ st, saved0.strands[i]? = some st → saveIntact saved0 st = true) := by
  refine ⟨by decide +kernel, by decide +kernel, by decide, by decide +kernel, by decide +kernel, by decide +kernel, ⟨_, rfl, rfl, rfl⟩, ?_⟩
  intro i hi st h
  obtain rfl : i = 0 := List.mem_singleton.mp hi
  obtain rfl := Option.some.inj h
  decide +kernel

/-! ### Witnesses: the runtime -/

theorem witness_RuntimeOnlyRefused : Runs m0 strand0 ∧ strand0.r.level = .user ∧ (atRuntime strand0).r.level = .runtime := ⟨rfl, rfl, rfl⟩

/-- s[sd] with and without a bit above 17; no drain outstanding, and 16; a range of one page that the held entry is in. -/
theorem witness_InvalidationResults :
    Runs (with0 atRuntime) (atRuntime strand0) ∧ slogCount (atRuntime strand0) = 0 ∧ (atRuntime strand0).wait ≠ .tlbRoom ∧
    (regRead strand0.r 4).toNat / 2 ^ 18 ≠ 0 ∧ (regRead strand0.r 5).toNat / 2 ^ 18 = 0 ∧ (regRead strand0.r 0).toNat / 2 ^ 18 = 0 ∧
    strand0.drains.length < 16 ∧ 16 ≤ ({ strand0 with drains := List.replicate 16 (0, 0, 0) } : Strand).drains.length ∧
    (let st : Strand := { strand0 with wait := .tlbRoom, drains := (0, 0, 0) :: List.replicate 15 (0, 0, 0) }
     st.wait = .tlbRoom ∧ st.drains = (0, 0, 0) :: List.replicate 15 (0, 0, 0) ∧ (List.replicate 15 ((0, 0, 0) : Word × Word × Word)).length < 16) ∧
    (invRange 0 0 0x40000000 0).len = 0 ∧
    (let x := invRange 0 0 0x40000000 0x1000
     x.len ≠ 0 ∧ page.vmid = x.vmid ∧ page.glob = false ∧ page.asid.toNat = x.asid ∧ x.lo < (page.page + 1) * 2 ^ page.size ∧
       page.page * 2 ^ page.size < x.lo + x.len ∧ page ∈ (bayOf m0 0).tlb) := by
  refine ⟨rfl, rfl, by decide, by decide, by decide, by decide, by decide, by decide, ⟨rfl, rfl, by decide⟩, rfl, by decide, rfl, rfl, by decide, by decide, by decide, ?_⟩
  rw [bay_with0]
  exact List.mem_singleton.mpr rfl

/-- The bent of the strand, named by 0 in both registers, a second that waits, is resident, has ended or is held, named by
s[6] = 1, and one that does not exist; a raising that is over; an entry in the side log. -/
theorem witness_ServiceResults :
    (∃ t st', replayLog (slogCount (atRuntime strand0)) (with0 atRuntime) = .ok () t ∧ Runs t st') ∧ (regRead strand0.r 6).toNat / 2 ^ 35 = 0 ∧
    (let s := fun (b : Bent) => { work0 atRuntime [] with bents := [placedBent, { b with bid := 1 }] }
     ∀ b ∈ [newBent 0 0 0 [], placedBent, { placedBent with state := .ended }, { newBent 0 0 0 [] with held := true }],
      namedBent (s b) (atRuntime strand0) 0 0 = some (0, placedBent) ∧ namedBent (s b) (atRuntime strand0) 1 0 = none ∧
      namedBent (s b) (atRuntime strand0) 0 (regRead strand0.r 6) = some (1, { b with bid := 1 }) ∧ 1 ≠ strand0.bent ∧
      raisingOver (s b) 0 = false) ∧
    raisingOver { m0 with raisings := [{ raising0 [] with ended := true }] } 0 = true ∧
    (let st := oneLogged strand0
     Runs (with0 oneLogged) st ∧ (∃ b e t r, oldestEntry st = some (b, e) ∧ replayEntry b e (with0 oneLogged) = .ok r t) ∧ oldestEntry strand0 = none) := by
  refine ⟨⟨_, _, rfl, rfl⟩, by decide, by decide +kernel, rfl, rfl, ?_, rfl⟩
  have h : (oldestEntry (oneLogged strand0)).any (fun x => okAnd (replayEntry x.1 x.2) (with0 oneLogged) fun _ _ => true) = true := by
    decide +kernel
  simp only [Option.any_eq_true] at h
  obtain ⟨x, h1, h2⟩ := h
  obtain ⟨r, t, h3, -⟩ := okAnd_elim h2
  exact ⟨x.1, x.2, t, r, h1, h3⟩

/-- The runtime's strand with the bytes of one store of it in the side log, to the page. -/
def storeLogged (st : Strand) : Strand :=
  let e : LogEntry := { line := 0x800002, asid := 0, vmid := 0, level := .runtime, rq := 0, nt := false, seq := 0, joins := false,
                        op := .store ((List.range 4).map fun i => (0x20 + i, BitVec.ofNat 8 (0x01020304 / 256 ^ i), 255)) }
  { st with r := { st.r with level := .runtime }, blocks := [{ newBlock 0 0 0 0 with slog := [e] }] }

theorem witness_ServiceResults_replay :
    ∃ bl e, (storeLogged strand0).blocks[0]? = some bl ∧ bl.slog = [e] ∧ slogCount (storeLogged strand0) = 1 ∧
      e.op = .store ((List.range 4).map fun i => (0x20 + i, BitVec.ofNat 8 (0x01020304 / 256 ^ i), 255)) ∧ e.joins = false ∧
      (storeLogged strand0).r.asid = e.asid.setWidth 64 ∧ e.level = (storeLogged strand0).r.level ∧
      bl.mplace = BitVec.ofNat 64 (bl.mplace.toNat % 2 ^ 32 + e.vmid.toNat * 2 ^ 32) ∧ lineAddr e.line + 0x20 = 0x40000120 ∧
      watchHit (storeLogged strand0).r 0x40000120 4 .write = none ∧
      Allowed (with0 storeLogged) 0 0x40000120 1 .write [at0 0x120] (with0 storeLogged) ∧
      Runs (with0 storeLogged) (storeLogged strand0) ∧ (∀ p ∈ [at0 0x120], 0x20 ≤ p.pa) ∧ (with0 storeLogged).poison = [] ∧
      (with0 storeLogged).shims = [] ∧ (∀ i, i < 128 → isDevice (with0 storeLogged) (byteAddr [at0 0x120] 0x40000120 i) = false) ∧
      MemOk (with0 storeLogged) :=
  ⟨_, _, rfl, rfl, rfl, rfl, rfl, rfl, rfl, rfl, rfl, rfl, allowed0 (l := .runtime) (o := 0x120) rfl (by decide) (by decide) _, rfl,
    by decide, rfl, rfl, fun i hi => no_device (by show 0x20120 + i < _; omega), (by decide +kernel : memWf tables = true)⟩

/-- The block of a PGPIN at 0x4000_07E0: a frame of DRAM and the first of bay 0's window; one whose window is no window at
0x4000_0700; all pins in use; a frame pinned already; stubs that name a page and none. -/
theorem witness_PinAndStubResults :
    (let s := with0 atRuntime
     let blk := fun (o : Nat) => leBytes 32 (valueAt s [at0 o] (0x40000000 + o) 32)
     (regRead (atBlock 0x400007E0 strand0).r 7).toNat = 0x400007E0 ∧ pinArgs s (blk 0x7E0) = true ∧ pinArgs s (blk 0x700) = false ∧
       s.pins.length < 4096 ∧ pinBusy s 0 0x100000000000 = false ∧ s.shims = [] ∧
       (let p : Pin := { va := 0, asid := 0, vmid := 0, backing := 0, window := 0x100000000000 }
        pinBusy { s with pins := [p] } 0 0x100000000000 = true ∧ 4096 ≤ (List.replicate 4096 p).length ∧
        isLocal s 0x100000000000 = true ∧ p.window / 4096 = localAddr 0x100000000000 / 4096)) ∧
    (∀ f ∈ [atBlock 0x400007E0, atBlock 0x40000700], ∃ o, 0x40000000 + o = (regRead (f strand0).r 7).toNat ∧
      watchHit (f strand0).r (0x40000000 + o) 32 .read = none ∧ (0x40000000 + o) % 32 = 0 ∧ slogCount (f strand0) = 0 ∧
      Allowed (with0 f) 0 (0x40000000 + o) 32 .read [at0 o] (with0 f) ∧ Runs (with0 f) (f strand0) ∧
      Quiet (with0 f) (f strand0) [at0 o] (0x40000000 + o) ∧ MemOk (with0 f)) ∧
    (∀ p ∈ (with0 atRuntime).pins, ¬ (isLocal m0 0 = true ∧ p.window / 4096 = localAddr 0 / 4096)) ∧
    (let x : Stub := { name := 0x40000000 + 12, size := 4096, target := 1, rt := false, born := 0, acks := [], forwards := 0 }
     [x].find? (fun x => tagHit x.name 0x40000000) = some x ∧ m0.stubs = []) := by
  refine ⟨by decide +kernel, ?_, by decide, by decide +kernel, rfl⟩
  have ok : ∀ f o, strandCtx (f strand0) 0 = ctx0 .runtime → o + 32 ≤ 0x1000 → (f strand0).blocks ≠ [] → slogCount (f strand0) = 0 →
      (f strand0).pending = [] → Allowed (with0 f) 0 (0x40000000 + o) 32 .read [at0 o] (with0 f) ∧ Runs (with0 f) (f strand0) ∧
      Quiet (with0 f) (f strand0) [at0 o] (0x40000000 + o) ∧ MemOk (with0 f) := fun f o h ho hb hs hd =>
    ⟨allowed0 (l := .runtime) h ho (by omega) _, runs0 f, quiet0 f _ o (by omega) hb hs hd, (by decide +kernel : memWf tables = true)⟩
  have w : ∀ a, watchHit (atBlock a strand0).r 0x40000000 32 .read = none := fun _ => rfl
  intro f hf
  simp only [List.mem_cons, List.not_mem_nil, or_false] at hf
  rcases hf with rfl | rfl
  · exact ⟨0x7E0, rfl, rfl, rfl, rfl, ok (atBlock 0x400007E0) 0x7E0 rfl (by decide) (by decide) rfl rfl⟩
  · exact ⟨0x700, rfl, rfl, rfl, rfl, ok (atBlock 0x40000700) 0x700 rfl (by decide) (by decide) rfl rfl⟩

/-- The strand with a convoy of one word in progress. -/
def inConvoy (w : BitVec 32) : Strand :=
  { strand0 with r := { strand0.r with vt := 9 }, inflight := some { pc := strand0.r.pc, words := [w], group := 0, frame := none } }

theorem okGroup_elim {x : Except ConvoyStop State} (h : (match x with | .ok t => (strandOf t).isSome | .error _ => false) = true) :
    ∃ t, x = .ok t ∧ ∃ st, Runs t st := by
  cases x with
  | error c => cases h
  | ok t => exact ⟨t, rfl, Option.isSome_iff_exists.mp h⟩

theorem trapGroup_elim {x : Except ConvoyStop State}
    (h : (match x with | .ok _ => false | .error c => match c.x with | .trap _ => true | _ => false) = true) :
    ∃ c t, x = .error c ∧ c.x = .trap t := by
  cases x with
  | ok t => cases h
  | error c =>
    dsimp only at h
    split at h
    · exact ⟨c, _, rfl, ‹_›⟩
    · cases h

/-- The strand at the VADD of the page, of integers, and the convoy it fetches; the same where VT takes two registers; a
convoy in progress whose group commits, and one that traps on a page that is not mapped. -/
theorem witness_StrandEvents :
    mayIssue m0 strand0 = true ∧ uninterrupted strand0 = false ∧ causeIllop ≠ 0 ∧ causeIllop.toNat ≤ 0x15 ∧ xstatIn strand0.r.xstat = false ∧
    ({ strand0 with slogPending := true } : Strand).slogPending = true ∧ strand0.inflight = none ∧ strand0.wait = .none ∧
    (let f := fun (v : BitVec 13) (st : Strand) => { st with r := { st.r with vt := v, pc := 0x40000004 } }
     ∀ v ∈ [(9 : BitVec 13), 0x49], ∃ w ws s1 st1, fetchIssue (with0 (f v)) = .ok (w :: ws) s1 ∧ Runs s1 st1 ∧ vectorClass w = true ∧
      let ms := (w :: ws).map memberOfWord
      (v = 9 → convoyFault (f v strand0) [] 0 ms = none ∧ ∃ g, startGroup (f v strand0).r (okMembers 0x10000001 ms) = some g) ∧
      (v = 0x49 → ∃ n c, convoyFault (f v strand0) [] 0 ms = some (n, c))) ∧
    (let inf := fun (w : BitVec 32) => { pc := strand0.r.pc, words := [w], group := 0, frame := none : Inflight }
     let ms := fun (w : BitVec 32) => okMembers 0x10000000 (([w].map BitVec.toNat).map memberOfWord)
     (∀ w, (inConvoy w).inflight = some (inf w) ∧ (inf w).pc = (inConvoy w).r.pc) ∧
     let stop := fun (w : BitVec 32) => commitStop (ms w) 0 (with0 fun _ => inConvoy w)
     (∃ t st', performConvoy (ms 0x000431B2) 0 (stop 0x000431B2) (with0 fun _ => inConvoy 0x000431B2) = .ok t ∧ Runs t st') ∧
     (∃ c t, performConvoy (ms 0x080140D0) 0 (stop 0x080140D0) (with0 fun _ => inConvoy 0x080140D0) = .error c ∧ c.x = .trap t)) ∧
    encodeWord (.vadd 0 2 3 3) = some 0x000431B2 ∧ vtLegal (inConvoy 0x000431B2).r.vt.toNat = true ∧
    vtWidth (inConvoy 0x000431B2).r.vt = 32 ∧ vtG (inConvoy 0x000431B2).r.vt = 1 ∧ (inConvoy 0x000431B2).strongNow = false ∧
    (inConvoy 0x000431B2).pending = [] ∧ 0 < groupCount (inConvoy 0x000431B2).r 32 := by
  refine ⟨rfl, rfl, by decide, by decide, rfl, rfl, rfl, rfl, ?_, ⟨fun _ => ⟨rfl, rfl⟩, ?_, ?_⟩, rfl, rfl, rfl, rfl, rfl, rfl, by decide⟩
  · intro f v hv
    have h : ∀ v ∈ [(9 : BitVec 13), 0x49], okAnd fetchIssue (with0 (f v)) (fun ws s1 => (strandOf s1).isSome && match ws with
        | [] => false
        | w :: ws => vectorClass w &&
          let ms := (w :: ws).map memberOfWord
          (if v = 9 then (convoyFault (f v strand0) [] 0 ms).isNone && (startGroup (f v strand0).r (okMembers 0x10000001 ms)).isSome
           else (convoyFault (f v strand0) [] 0 ms).isSome)) = true := by decide +kernel
    obtain ⟨ws, s1, h1, h2⟩ := okAnd_elim (h v hv)
    cases ws with
    | nil => simp at h2
    | cons w ws =>
      simp only [Bool.and_eq_true] at h2
      obtain ⟨h3, h4, h5⟩ := h2
      obtain ⟨st1, h3⟩ := Option.isSome_iff_exists.mp h3
      refine ⟨w, ws, s1, st1, h1, h3, h4, fun e => ?_, fun e => ?_⟩
      · rw [if_pos e, Bool.and_eq_true] at h5
        exact ⟨Option.isNone_iff_eq_none.mp h5.1, Option.isSome_iff_exists.mp h5.2⟩
      · rw [if_neg (by rw [e]; decide)] at h5
        obtain ⟨⟨n, c⟩, h5⟩ := Option.isSome_iff_exists.mp h5
        exact ⟨n, c, h5⟩
  · obtain ⟨t, h1, h2⟩ := okGroup_elim (x := performConvoy (okMembers 0x10000000 (([(0x000431B2 : BitVec 32)].map BitVec.toNat).map memberOfWord)) 0
      (commitStop (okMembers 0x10000000 (([(0x000431B2 : BitVec 32)].map BitVec.toNat).map memberOfWord)) 0 (with0 fun _ => inConvoy 0x000431B2))
      (with0 fun _ => inConvoy 0x000431B2)) (by decide +kernel)
    exact ⟨t, _, h1, h2.choose_spec⟩
  · exact trapGroup_elim (by decide +kernel)

/-! ### Witnesses: peers, counters, the domain -/

/-- A page of package 1, by its name with the size of a small page in its low bits. -/
def far0 : Nat := 2 ^ 46 + 0x30000 + 12
def stub0 : Stub := { name := far0, size := 4096, target := 1, rt := false, born := 0, acks := [], forwards := 0 }

/-- A page this package does not own, with room for its adoption; a page with a directory entry, and one with a stub; no
request outstanding; a stub whose last acknowledgement is due, with no forward and with one. -/
theorem witness_OwnershipResults :
    (pageLog 4096 = some 12 ∧ ownsPage m0 far0 = false ∧ m0.adoption.length < 4096) ∧
    (∃ d ∈ ({ m0 with directory := [(far0, 1)] } : State).directory, tagHit d.1 far0 = true) ∧
    (∃ x ∈ ({ m0 with stubs := [stub0] } : State).stubs, tagHit x.name far0 = true) ∧
    (∀ q ∈ m0.outReqs, q.answered = false → q.retries < 9 → tagHit (nameTag far0) q.addr = false) ∧ 1 ≠ m0.pkg ∧ m0.ownerCache.length < 16384 ∧
    ([stub0].find? fun y => tagHit y.name far0) = some stub0 ∧ stub0.acks.Nodup ∧ m0.members.length ≤ stub0.acks.length + 1 ∧
    stub0.acks.length + 1 < ({ m0 with members := [0, 1, 2] } : State).members.length ∧ stub0.forwards = 0 ∧ ({ stub0 with forwards := 1 } : Stub).forwards ≠ 0 := by
  refine ⟨⟨by decide, by decide +kernel, by decide⟩, ⟨(far0, 1), List.mem_singleton.mpr rfl, by decide⟩, ⟨stub0, List.mem_singleton.mpr rfl, by decide⟩, by decide, by decide,
    by decide, rfl, by decide, by decide, by decide, rfl, by decide⟩

/-- A page owned, one whose flip has begun, and one that is a stub's; a read, a write and an atomic that can be served; a MARK
whose request is still to come; a redirect with a request outstanding; a request that waits, is answered, or has failed nine
times. -/
theorem witness_PeerRequests :
    (let q : PeerReq :=
       { peer := 1, seq := 4, addr := far0, op := .read 8, mark := none, who := 0, retries := 8, answered := false, refused := true }
     let mine := fun (q : PeerReq) => q.who == 0 && q.addr == far0
     let mig : MigRec := { name := 12, frame := 0, size := 4096, dest := 1, done := 32, ticket := 0 }
     ownsPage m0 0x20000 = true ∧ flipping m0 0x20000 = false ∧ m0.heldReqs = [] ∧ m0.served.Nodup ∧ MemOk m0 ∧ m0.shims = [] ∧ m0.poison = [] ∧
       (∀ o ∈ [PeerOp.read 8, .write (List.replicate 8 1), .atomic 9 true 1 0], servable m0 { q with addr := 0x20000, op := o } = true) ∧
       q.refused = true ∧ (∀ k x, k ≠ 0 → [q, q][k]? = some x → x.refused = true) ∧
       (∀ i j, i < 8 → j < 8 → steer m0 (0x20000 + j) = steer m0 (0x20000 + i) → j = i) ∧
       (∀ a, (1, a, 3) ∈ m0.served → samePage m0 (4096 * a) 0x20000 = false) ∧ flipping { m0 with migs := [mig] } 0 = true ∧ ownsPage { m0 with migs := [mig] } 0 = true ∧
       stubOf m0 far0 = none ∧ ownsPage { m0 with stubs := [stub0] } far0 = false ∧ stubOf { m0 with stubs := [stub0] } far0 = some stub0 ∧
       [q] = [] ++ [q] ∧ (!q.answered && decide (q.retries < 9) && tagHit (nameTag far0) q.addr) = true ∧ [q][0]? = some q ∧ q.answered = false ∧ q.retries < 9 ∧ q.retries ≠ 0 ∧
       ∀ x ∈ [q, { q with answered := true }, { q with retries := 9 }], [x].find? mine = some x) := by
  refine ⟨by decide +kernel, rfl, rfl, by decide, (by decide +kernel : memWf tables = true), rfl, rfl, by decide +kernel, rfl, ?_, ?_, (fun _ h => nomatch h),
    by decide +kernel, by decide +kernel, rfl, by decide +kernel, by decide +kernel, rfl, by decide +kernel, rfl, rfl, by decide, by decide,
    by decide +kernel⟩
  · intro k x _ h
    match k, h with
    | 0, h => cases h; rfl
    | 1, h => cases h; rfl
  · intro i j hi hj h
    rw [steer_near ⟨rfl, rfl, rfl, rfl, rfl⟩ (by omega), steer_near ⟨rfl, rfl, rfl, rfl, rfl⟩ (by omega)] at h
    omega

/-- The last counter; one bound to measurement 5, at its last value and below, with and without a lease. -/
theorem witness_CounterResults : 4095 < 4096 ∧ (∀ k ∈ m0.counters, k.index ≠ 4095) ∧
    (let k : Counter := { index := 4095, measurement := 5, value := 2 ^ 64 - 2, lease := none }
     [k] = [] ++ k :: [] ∧ (∀ x ∈ ([] ++ [] : List Counter), x.index ≠ k.index) ∧ k.measurement = 5 ∧ k.value + 1 < 2 ^ 64 ∧ k.measurement ≠ 6 ∧
       { k with value := 2 ^ 64 - 1 }.value + 1 = 2 ^ 64 ∧ k.lease = none ∧ { k with lease := some (1, 2, 10000) }.lease ≠ none ∧
       k.value < 2 ^ 64 - 1) := by
  refine ⟨by decide, by decide, rfl, by decide, rfl, by decide, by decide, by decide, rfl, by decide, by decide⟩

/-- A domain of two packages whose numbers are apart; a function on the last wing, whose raising has ended, and one on a wing
that its live raising uses. -/
theorem witness_MappingResults : 1023 ∈ [5, 1023] ∧ ([5, 1023] : List Nat).Nodup ∧ (∀ k ∈ [5, 1023], k < 1024) ∧
    ([31] : List Nat) ≠ [] ∧ ([31] : List Nat).Nodup ∧ 1023 < 1024 ∧
    (∀ w ∈ [31], w < 32 ∧ ((m0.vfs.filter fun v => v.num != 1023).filter fun v => v.wings.contains w).length < 32) ∧
    ∀ r ∈ ({ m0 with raisings := [{ raising0 [] with vf := 1023, wings := [31] }] } : State).raisings,
      r.vf = 1023 → r.ended = false → ∀ w ∈ r.wings, w ∈ [31] := by decide

/-! ### Witnesses: the host, management, power and reset -/

/-- Eight bytes of DRAM at 0x2_0000, whole and poisoned. -/
theorem witness_HostAccesses :
    m0.shims = [] ∧ m0.prepared = [] ∧ m0.sealedWings = [] ∧ MemOk m0 ∧ hostReach m0 0x20000 8 = true ∧ hostReach m0 0x20000 4 = true ∧
    0x20000 % 8 = 0 ∧ (∀ i j, i < 8 → j < 8 → steer m0 (0x20000 + i) = steer m0 (0x20000 + j) → i = j) ∧
    (∀ k, k < 8 → steer m0 (0x20000 + k) / 8 ∉ m0.poison) ∧
    (let s := { m0 with poison := [0x20000 / 8] }
     hostReach s 0x20000 8 = true ∧ ∃ k, k < 8 ∧ steer s (0x20000 + k) / 8 ∈ s.poison) ∧
    leValue ((List.range 8).map fun k => memRead m0.mem (steer m0 (0x20000 + k))) ≠ 5 := by
  refine ⟨rfl, rfl, rfl, (by decide +kernel : memWf tables = true), by decide +kernel, by decide +kernel, rfl, ?_, by decide, ⟨by decide +kernel, 0, by decide, by decide⟩, by decide +kernel⟩
  intro i j hi hj h
  rw [steer_near ⟨rfl, rfl, rfl, rfl, rfl⟩ (by omega), steer_near ⟨rfl, rfl, rfl, rfl, rfl⟩ (by omega)] at h
  exact Nat.add_left_cancel h

/-- Bay 0 has a resident strand and bay 1 none; K of 12 and 13; a pinned page that K = 12 would cut off; OVR set and not. -/
theorem witness_OutsideRegisterWrites :
    bayBusy m0 0 = true ∧ bayBusy m0 1 = false ∧ (12 : Word).toNat % 16 = 12 ∧ 12 < (13 : Word).toNat % 16 ∧ m0.pins = [] ∧
    (let p : Pin := { va := 0, asid := 0, vmid := 0, backing := 0, window := 0x100000800000 }
     windowBase ≤ p.window ∧ (p.window - windowBase) / 0x800000 = 1 ∧ 0x600000 - 0x80000 * 12 < (p.window - windowBase) % 0x800000 + 4096) ∧
    (0x1000000000000000 : Word).getLsbD 60 = true ∧ (0 : Word).getLsbD 60 = false ∧
    (∃ st ∈ m0.strands, holdsBay m0 st 0 = true) ∧ ∀ st ∈ m0.strands, holdsBay m0 st 319 = false := by
  refine ⟨by decide +kernel, by decide +kernel, by decide, by decide, rfl, by decide, by decide, by decide,
    ⟨strand0, List.mem_singleton.mpr rfl, by decide +kernel⟩, fun st h => ?_⟩
  cases List.mem_singleton.mp h
  decide +kernel

/-- RSSTAT with BUSY clear and set; an address of the host; a length that holds the summary. -/
theorem witness_SummaryResults : m0.rsstat.getLsbD 63 = false ∧
    (let s := { m0 with rsstat := 0x8000000000000000, rslen := 0x1000 }
     MemOk s ∧ s.rsstat.getLsbD 63 = true ∧ s.rsaddr.toNat < 2 ^ 46) ∧ summaryLength m0 ≤ summaryLength m0 :=
  ⟨rfl, ⟨(by decide +kernel : memWf tables = true), rfl, by decide⟩, Nat.le_refl _⟩

/-- Grants of the whole budget; an address of DRAM; the strand of bay 0 with its block, and a part of each class. -/
theorem witness_PowerAndErrors :
    (let g := [450, 450, 450, 450, 450, 450, 450, 450]
     g.length = 8 ∧ g.sum ≤ m0.budget) ∧ 3600 ≤ 3600 ∧ ({ m0 with frozen := true } : State).frozen = true ∧
    0x20000 < 2 ^ 57 ∧ isLocal m0 0x20000 = true ∧ localAddr 0x20000 < deviceBase ∧
    holderStrand m0 0 = some (0, 0) ∧ m0.strands[0]? = some strand0 ∧ strand0.blocks[0]? = some (newBlock 0 0 0 0) ∧
    (∀ x ∈ [(0, 63), (1, 31), (2, 7), (3, 7), (4, 15), (5, 3)],
      x.1 = 0 ∧ x.2 < 64 ∨ x.1 = 1 ∧ x.2 < 32 ∨ (x.1 = 2 ∨ x.1 = 3) ∧ x.2 < 8 ∨ x.1 = 4 ∧ x.2 < 16 ∨ x.1 = 5 ∧ x.2 < 4) := by
  refine ⟨by decide, by decide, rfl, by decide, rfl, by decide, by decide +kernel, rfl, rfl, by decide⟩

/-- A powered package, frozen and not; a function with a raising that has not ended, whose bent has the strand; memory in
canonical form. -/
theorem witness_ResetResults : m0.powered = true ∧ ({ m0 with frozen := true } : State).frozen = true ∧ MemOk m0 ∧ 0 < 1024 ∧
    (let s := work0 id []
     placedBent ∈ s.bents ∧ 0 ∈ placedBent.strands ∧ (∃ r ∈ s.raisings, (r.vf = 0 ∧ r.ended = false) ∧ r.rid = placedBent.rid) ∧
     ∀ b ∈ s.bents, 0 ∈ b.strands → ¬ ∃ r ∈ s.raisings, (r.vf = 1023 ∧ r.ended = false) ∧ r.rid = b.rid) := by
  refine ⟨rfl, rfl, (by decide +kernel : memWf tables = true), by decide, List.mem_singleton.mpr rfl, by decide,
    ⟨raising0 [], List.mem_singleton.mpr rfl, ⟨rfl, rfl⟩, rfl⟩, ?_⟩
  rintro b _ _ ⟨r, hr, ⟨h, _⟩, _⟩
  cases List.mem_singleton.mp hr
  exact absurd h (by decide)

/-! ### Witnesses: the step, translation -/

/-- The strand at an address. -/
def withPc (p : BitVec 64) (st : Strand) : Strand := { st with r := { st.r with pc := p } }

theorem fetch0 (p : BitVec 64) (o : Nat) (ho : o + 4 ≤ 0x1000) :
    Allowed { with0 (withPc p) with cur := 0 } 0 (0x40000000 + o) 4 .fetch [at0 o] (with0 (withPc p)) := by
  have e : { with0 (withPc p) with cur := 0 } = with0 (withPc p) := rfl
  rw [e]
  have c : strandCtx (withPc p strand0) 0 = strandCtx strand0 0 := rfl
  exact allowed0 (f := withPc p) (l := .user) (c.trans rfl) ho (by omega) _

/-- The strand at 0x4000_0000, where no instruction stands, and at 0x4000_0008, where an ADDI stands. -/
theorem witness_StepRunsDecoded (x : BitVec 64 × Nat × Nat) (hx : x ∈ [((0x40000000 : BitVec 64), 0, 0), (0x40000008, 8, 0x0098A281)]) :
    let st := withPc x.1 strand0
    let s := with0 (withPc x.1)
    let va := 0x40000000 + x.2.1
    x.1.toNat = va ∧ s.agenda = [] ∧ s.powered = true ∧ s.frozen = false ∧ turns s = [.strand 0] ∧ s.strands[0]? = some st ∧
      slogDue st = false ∧ watchHit st.r va 4 .fetch = none ∧ va % 4 = 0 ∧ Allowed { s with cur := 0 } 0 va 4 .fetch [at0 x.2.1] s ∧
      strandOf s = some st ∧ s.poison = [] ∧ (∀ bl ∈ st.blocks, bl.badRegs = []) ∧ byteAddr [at0 x.2.1] va 0 % 16 = va % 16 ∧ s.dirty = [] ∧
      s.written.length ≤ st.fetchSince ∧
      valueAt s [at0 x.2.1] va 4 = x.2.2 ∧ vectorClass x.2.2 = false := by
  simp only [List.mem_cons, List.not_mem_nil, or_false] at hx
  rcases hx with rfl | rfl
  · exact ⟨rfl, rfl, rfl, rfl, by decide +kernel, rfl, rfl, rfl, rfl, fetch0 _ 0 (by decide), rfl, rfl, by decide, by decide, rfl, by decide, by decide +kernel, rfl⟩
  · exact ⟨rfl, rfl, rfl, rfl, by decide +kernel, rfl, rfl, rfl, rfl, fetch0 _ 8 (by decide), rfl, rfl, by decide, by decide, rfl, by decide, by decide +kernel, rfl⟩

/-- FP32 and no stochastic rounding; the words of a VADD and a VFADD. -/
theorem witness_ConvoysRunInWordOrder : Runs m0 strand0 ∧ VectorReady strand0 ∧ vtFmt strand0.r.vt < 4 ∧ strand0.r.frm.toNat % 8 ≠ 5 ∧
    (∀ r ∈ ([0, 2, 4, 6, 8, 31] : List (BitVec 5)), r.toNat % vtG strand0.r.vt = 0) ∧
    encodeWord (.vadd 0 2 3 3) = some 0x000431B2 ∧ (encodeWord (.vfadd 0 2 4 6)).isSome = true :=
  ⟨rfl, ready rfl rfl rfl rfl rfl, by decide, by decide, by decide, rfl, rfl⟩

/-- The tables of the page with no cached entry: an address that is not canonical, one whose walk ends at level 1, a user
access and a runtime fetch of the page, and the same at the last byte of the page. -/
theorem witness_TranslationResults :
    (let s := { m0 with walkers := [], bays := State.reset.bays }
     let T := fun (l : Nat) => 0x10000 + 0x1000 * l
     let va := 0x40000FFF
     ¬ (2 ^ 47 < 2 ^ 47 ∨ 2 ^ 64 - 2 ^ 47 ≤ 2 ^ 47) ∧ (ctx0 .user).vmid = 0 ∧ s.walkers = [] ∧ tlbOf s (ctx0 .user) = [] ∧
       tlbOf s (ctx0 .runtime) = [] ∧ T 0 = (ctx0 .user).ptbase ∧ Forms.Tables s va T 3 ∧ Forms.Tables s 0 T 1 ∧
       Forms.entryOf s (T 1) 1 0 = 0 ∧ Forms.entryOf s (T 3) 3 va = 0x200DF ∧ (∀ acc, Forms.Permits 0x200DF .user acc) ∧
       ¬ Forms.Permits 0x200DF .runtime .fetch ∧ MemOk s ∧
       (∀ i j, i < 8 → j < 8 → steer s (T 3 + i) = steer s (T 3 + j) → i = j)) := by
  have t : ∀ l < 3, ∀ va ∈ [0x40000FFF, 0], l < 1 ∨ va ≠ 0 → let e := Forms.entryOf { m0 with walkers := [], bays := State.reset.bays } (0x10000 + 0x1000 * l) l va
      e % 16 = 1 ∧ e / 2 ^ 61 = 0 ∧ e / 2 ^ 10 % 4 ≠ 3 ∧ 0x10000 + 0x1000 * (l + 1) = e / 2 ^ 12 % 2 ^ 45 * 4096 := by decide +kernel
  refine ⟨by decide, rfl, rfl, rfl, rfl, rfl, fun l hl => t l hl _ (by decide) (.inr (by decide)), fun l hl => t l (by omega) 0 (by decide) (.inl hl),
    by decide +kernel, by decide +kernel, ?_, ?_, (by decide +kernel : memWf tables = true), ?_⟩
  · intro acc
    exact ⟨fun _ => by decide, fun _ => by decide, fun _ => by decide, fun _ => by decide, fun h => nomatch h⟩
  · exact fun h => absurd (h.2.2.2.2 rfl rfl) (by decide)
  · intro i j hi hj h
    have near : ∀ k, k < 8 → steer { m0 with walkers := [], bays := State.reset.bays } (0x13000 + k) = 0x13000 + k :=
      fun k hk => steer_near ⟨rfl, rfl, rfl, rfl, rfl⟩ (by omega)
    have h := ((near i hi).symm.trans h).trans (near j hj)
    exact Nat.add_left_cancel h

/-- Packages with power, without, and frozen; the agenda of a power-on, a second freeze and a readout, and of another event. -/
theorem witness_EventsFreezeAndPower : m0.agenda = [] ∧ m0.powered = true ∧ m0.frozen = false ∧ ({ m0 with powered := false } : State).powered = false ∧
    ({ m0 with frozen := true } : State).frozen = true ∧
    (∀ i ∈ [Instr.powerOnReset, .frzN, .plumbReadout 0 8, .scrub], encodeWord i = none ∧ i.eventOk = true) ∧
    ¬ (Instr.scrub ∈ [Instr.packageReset, .powerOnReset, .powerLoss, .frzN, .plumbFreeze] ∨ ∃ a n, Instr.scrub = .plumbReadout a n) := by
  refine ⟨rfl, rfl, rfl, rfl, rfl, ?_, ?_⟩
  · simp only [List.forall_mem_cons]
    exact ⟨⟨rfl, rfl⟩, ⟨rfl, rfl⟩, ⟨rfl, rfl⟩, ⟨rfl, rfl⟩, fun _ h => nomatch h⟩
  · rintro (h | ⟨a, n, h⟩)
    · exact absurd h (by simp)
    · cases h

/-- The step of the machine answers a next state. -/
theorem witness_MemoryStaysCanonical : MemOk m0 ∧ ∃ t, step m0 = .next t := by
  refine ⟨(by decide +kernel : memWf tables = true), ?_⟩
  have h : (match step m0 with | .next _ => true | _ => false) = true := by decide +kernel
  split at h
  · exact ⟨_, ‹_›⟩
  · cases h

/-! ### Words of the spec, by chapter

Each word stands in the chapter's tables or worked example beside the instruction. -/

theorem test_words_encoding : ∀ x ∈ [(0x080140D0, Instr.vld 0 0 2 0 0 20 1), (0x020A1442, .vfma 0 8 5 1 8), (0x000431B2, .vadd 0 2 3 3),
    (0x02000030, .setvl 0x40 0 0)], decodeWord x.1 = .ok x.2 := by
  simp only [List.forall_mem_cons]; refine ⟨?_, ?_, ?_, ?_, fun _ h => nomatch h⟩ <;> rfl

theorem test_words_assembly : ∀ x ∈ [(0x00404809, Instr.lui 0x202 16), (0xF8820802, .addi 0x1F10 16 16), (0x00020896, .ldw 0 0 16 17),
    (0x00088930, .setvl 1 4 18), (0x022204B6, .vsplat 0 17 9), (0x08006151, .vst 0 0 2 0 0 6 2), (0x00124988, .slli 2 18 19),
    (0x0098A281, .add 19 5 5), (0x02908201, .sub 18 4 4), (0xFF98020C, .bne 8179 0 4), (0x00002012, .jalr 0 1 0)],
    decodeWord x.1 = .ok x.2 := by
  simp only [List.forall_mem_cons]; refine ⟨?_, ?_, ?_, ?_, ?_, ?_, ?_, ?_, ?_, ?_, ?_, fun _ h => nomatch h⟩ <;> rfl

theorem test_words_scalar : ∀ x ∈ [(0x06AA8013, Instr.jt 3 21 20), (0xC042AA17, .ldd 3 8 21 20), (0x00530022, .cxch 10 24 0), (0x00000023, .ecall),
    (0x02000023, .ebreak), (0x04000023, .eret), (0x06000023, .wfi), (0x08000023, .halt), (0x0A000023, .ifence), (0x0C000023, .pause)],
    decodeWord x.1 = .ok x.2 := by
  simp only [List.forall_mem_cons]; refine ⟨?_, ?_, ?_, ?_, ?_, ?_, ?_, ?_, ?_, ?_, fun _ h => nomatch h⟩ <;> rfl

theorem test_words_vector : ∀ x ∈ [(0x0000003C, Instr.vjoin), (0x0C14A13E, .repf 6 1 2 20 2), (0x040877C0, .vfmul 0 4 7 15), (0x000411B8, .vredsum 0 2 1 3),
    (0x0A283237, .vxchgX 0 20 3 4), (0x04003BB6, .vext 0 3 23), (0x0A000036, .vnop), (0x1E2E4638, .vftopk 0 23 4 12),
    (0x40228244, .vcvt 4 0 0 1 1 8 4), (0x000080C5, .vscale 0 8 1)], decodeWord x.1 = .ok x.2 := by
  simp only [List.forall_mem_cons]; refine ⟨?_, ?_, ?_, ?_, ?_, ?_, ?_, ?_, ?_, ?_, fun _ h => nomatch h⟩ <;> rfl

theorem test_words_memory : ∀ x ∈ [(0x00094256, Instr.vlseg 0 0 0 0 2 20 4), (0x101150D0, .vld 0 0 4 0 4 21 1), (0x00BA805C, .cwb 23 20),
    (0x01002160, .funion 0 1 0 2), (0xC0140060, .fldl 3 20 0)], decodeWord x.1 = .ok x.2 := by
  simp only [List.forall_mem_cons]; refine ⟨?_, ?_, ?_, ?_, ?_, fun _ h => nomatch h⟩ <;> rfl

theorem test_words_truss : ∀ x ∈ [(0x001402E8, Instr.jclm 20 5), (0x00140868, .jclmAny 20), (0x000002E9, .jrel 5), (0x0015416A, .jld 0 0 21 8 2),
    (0x0855416A, .jld 1 1 21 8 2), (0x001801EB, .jfil 24 3), (0x008064EC, .tmma 1 0 3 2 1), (0x0084206D, .tmms 1 0 2 1 0 0), (0x0040A86E, .ttrn 0 2 5 4 0),
    (0x001680EF, .tmov 22 16 1), (0x00004070, .tzero 2), (0x02002A70, .tstat 1 20), (0x04000070, .twait)], decodeWord x.1 = .ok x.2 := by
  simp only [List.forall_mem_cons]; refine ⟨?_, ?_, ?_, ?_, ?_, ?_, ?_, ?_, ?_, ?_, ?_, ?_, ?_, fun _ h => nomatch h⟩ <;> rfl

theorem test_words_ordering : ∀ x ∈ [(0xE0B2AA74, Instr.amoadd 3 1 22 21 20), (0x000140F7, .slkadd 0 20 1), (0x04114177, .slkaddx 0 4 20 2),
    (0x085541DD, .ldtol 0 21 20 3), (0x04B2AA78, .slkqry 22 21 20), (0x000000FA, .fenceAcq 1), (0x000005FA, .fenceRel 3), (0x000009FA, .fenceAr 3),
    (0x00000DFA, .fenceSc 3), (0x000019FA, .fenceCode 3), (0x00001DFA, .fenceSlk 3), (0x0000107A, .fenceS2v), (0x0000147A, .fenceV2s),
    (0x1602ACFB, .waita 1 3 0 21 25), (0x7800007C, .bars 15), (0x0A00007C, .bara 1), (0x0C00007C, .barw 1)], decodeWord x.1 = .ok x.2 := by
  simp only [List.forall_mem_cons]
  refine ⟨?_, ?_, ?_, ?_, ?_, ?_, ?_, ?_, ?_, ?_, ?_, ?_, ?_, ?_, ?_, ?_, ?_, fun _ h => nomatch h⟩ <;> rfl

theorem test_words_engines_and_work : ∀ x ∈ [(0x00B2AA7D, Instr.xcopy 22 21 20), (0x08B2AA7D, .xcoll 22 21 20), (0x0A02AA7D, .xcancel 21 20), (0x0C02AA7D, .xquery 21 20), (0x0002AA7E, .raise 21 20),
    (0x02B2AA7E, .qpush 22 21 20), (0x0402AA7E, .qpop 21 20), (0x0600007E, .exit), (0x0800007E, .yield), (0x0A00007E, .stgdone),
    (0x1C01415E, .qappend 0 7 0 20 2)], decodeWord x.1 = .ok x.2 := by
  simp only [List.forall_mem_cons]; refine ⟨?_, ?_, ?_, ?_, ?_, ?_, ?_, ?_, ?_, ?_, ?_, fun _ h => nomatch h⟩ <;> rfl

theorem test_words_runtime : ∀ x ∈ [(0x00B2AA7F, Instr.tlbinv 22 21 20), (0x02B2AA7F, .tlbinva 22 21 20), (0x0400007F, .tlbsync), (0x06B2AA7F, .ctxsave 22 21 20),
    (0x08B2AA7F, .ctxrest 22 21 20), (0x0A000A7F, .slogrp 20), (0x0CB2AA7F, .slogdrop 22 21 20), (0x0E02AA7F, .pgpin 21 20),
    (0x1002AA7F, .pgunpin 21 20), (0x1202AA7F, .stubq 21 20)], decodeWord x.1 = .ok x.2 := by
  simp only [List.forall_mem_cons]; refine ⟨?_, ?_, ?_, ?_, ?_, ?_, ?_, ?_, ?_, ?_, fun _ h => nomatch h⟩ <;> rfl

/-- R54: the words of zeros and of ones are no instructions. -/
theorem test_words_rejected : decodeWord 0 = .error .zeroWord ∧ decodeWord 0xFFFFFFFF = .error .onesWord := ⟨rfl, rfl⟩

/-! ### Ill-formed terms, one for each check -/

theorem test_illformed_zero_fields : ∀ i ∈ [Instr.vld 0 0 2 0 1 20 1, .vst 0 0 4 0 8 20 1, .jld 0 1 21 8 2], i.zeroFieldsOk = false ∧ i.wellFormed = false := by
  simp only [List.forall_mem_cons]; refine ⟨⟨rfl, rfl⟩, ⟨rfl, rfl⟩, ⟨rfl, rfl⟩, fun _ h => nomatch h⟩

theorem test_illformed_reserved : ∀ i ∈ [Instr.vmerge 0 1 2 3, .vcvt 4 7 0 1 1 8 4, .vcvt 4 0 0 1 4 8 4, .vlds 0 0 4 0 5 20 1, .vsts 0 0 5 0 5 20 1,
    .vldx 0 0 6 0 5 20 1, .vstx 0 0 4 0 5 20 1, .vlseg 0 0 0 0 8 20 4, .vsseg 0 0 0 0 8 20 4, .vlseg 0 0 4 0 1 20 4, .lsld 4 0 5 0 1, .lsst 4 0 5 0 1,
    .qappend 0 4 0 20 2, .fldl 0 62 0, .fpref 62, .fisect 0 1 0 1, .funion 0 1 0 1, .fmerge 0 1 0 0, .fsort 0 1 1, .fcompact 0 1 1, .fsplit 0 1 1,
    .frecv 0 0 0 1 1, .jfil 61 3, .jfilGather 61 3 6, .tmma 1 3 3 2 1, .tmms 1 3 2 1 0 0, .ttrn 0 0 5 4 0, .fenceAcq 6, .fenceRel 6, .fenceAr 7,
    .fenceSc 6, .fenceCode 7, .fenceSlk 6, .waita 0 6 0 21 25], i.reserved = true ∧ i.wellFormed = false := by decide

theorem test_illformed_events : ∀ i ∈ [Instr.engineCommandStart 32 0, .launchSlotWrite 0 0 255 [0, 0], .hostPostedWrite 2 0 [], .hostAtomicop 1 false 0 0 0,
    .domainFormation 3 [0, 1, 2], .counterAllocation 4096 0, .virtualFunctionMapping 0 [] false 0 0 0 0, .plumbBudget 3601, .correctableError 321,
    .accessPerformed 0 8 0], i.eventOk = false ∧ i.wellFormed = false := by
  simp only [List.forall_mem_cons]
  refine ⟨?_, ?_, ?_, ?_, ?_, ?_, ?_, ?_, ?_, ?_, fun _ h => nomatch h⟩ <;> exact ⟨rfl, rfl⟩

/-! ### Single steps -/

/-- An instruction of the strand of a machine answers a next state, whose executing strand passes a test. -/
noncomputable def after (i : Instr) (s : State) (p : Strand → Bool) : Bool :=
  match exec i s with
  | .next t => (strandOf t).any p
  | _ => false

/-- The strand with two registers set. -/
def withRegs (a b : Word) (st : Strand) : Strand := { st with r := regWrite (regWrite st.r 20 a) 21 b }

/-- R74: a quotient by zero is all ones, −2^63 by −1 is −2^63. -/
theorem test_divide : after (.divu 21 20 22) (with0 (withRegs 7 0)) (fun st => regRead st.r 22 == BitVec.allOnes 64) = true ∧
    after (.div 21 20 22) (with0 (withRegs 0x8000000000000000 0xFFFFFFFFFFFFFFFF)) (fun st => regRead st.r 22 == 0x8000000000000000) = true := by
  constructor <;> decide +kernel

/-- R73: a shift takes the low six bits of its amount. -/
theorem test_shift_amount : after (.sll 21 20 20) (with0 (withRegs 3 65)) (fun st => regRead st.r 20 == 6) = true := by decide +kernel

/-- 02_encoding.md, worked example: TLBINV at user level traps with PRIV and its word. -/
theorem test_privilege : decodeWord 0x3F7F = .ok (.tlbinv 0 1 62) ∧ after (.tlbinv 0 1 62) m0 (fun st => st.r.xcause == 0x10 && st.r.xval == 0x3F7F && st.r.level == .runtime) = true :=
  ⟨rfl, by decide +kernel⟩

/-- 02_encoding.md, worked example: LG 4 gives FP64 and VL 0; LG 7 traps and leaves VT and VL. -/
theorem test_setvl : after (.setvl 0x40 0 0) m0 (fun st => st.r.vt == 0x40 && st.r.vl == 0) = true ∧
    after (.setvl 0x70 0 0) m0 (fun st => st.r.vt == strand0.r.vt && st.r.vl == 4 && st.r.xpc == strand0.r.pc) = true := by
  constructor <;> decide +kernel

/-- The worked example of R168 to R172: FP32 values to E4M3, with and without saturation. -/
theorem test_conversion_example : ∀ x ∈ [(0x3F800000, 0x38, 0x38), (0x43960000, 0x79, 0x79), (0x43FA0000, 0x7E, 0x7F), (0xBA83126F, 0x81, 0x81),
    (0x7F800000, 0x7E, 0x7F), (0x7FC00005, 0x7F, 0x7F)],
    (fpToFp 4 1 x.1 0 true 0).bits = x.2.1 ∧ (fpToFp 4 1 x.1 0 false 0).bits = x.2.2 := by decide +kernel

/-- R371: an ECALL enters the handler at XVEC at runtime level and saves the pc. -/
theorem test_trap_entry : after .ecall m0 (fun st => st.r.pc == 0x40000800 && st.r.xpc == 0x40000000 && st.r.level == .runtime) = true := by decide +kernel

/-- The step runs a placed instruction first after reset. -/
theorem test_step_runs_placed : (match step (State.reset.withFetchWord 32 0x02010282) with
    | .next t => (strandOf t).any fun st => regRead st.r 5 == 0x40 && st.r.pc == BitVec.ofNat 64 placedPc + 4
    | _ => false) = true := by decide +kernel

/-- FIPS 180-4's example of SHA-384, the message "abc". -/
theorem test_sha384 : sha384 [0x61, 0x62, 0x63] =
    0xCB00753F45A35E8BB5A03D699AC65007272C32AB0EDED1631A8B605A43FF5BED8086072BA1E7CC2358BAECA134C825A7#384 := by decide +kernel

/-- The GCM specification's test case 14: AES-256 under a key of zeros, a nonce of zeros, and one block of zeros. -/
theorem test_aes_gcm :
    let z := fun (n : Nat) => List.replicate n (0 : Byte)
    let x := aesGcm (z 32) (z 12) [] (z 16)
    beNat x.1 = 0xCEA7403D4D606B6E074EC5D3BAF39D18 ∧ beNat x.2 = 0xD0D1C8A799996BF0265B98B5D48AB919 ∧
      aesGcmOpen (z 32) (z 12) [] x.1 x.2 = some (z 16) := by decide +kernel

/-- FIPS 186: the base point and its double lie on P-384. -/
theorem test_p384 : onCurve p384Base = true ∧ (p384Add (some p384Base) (some p384Base)).any onCurve = true ∧
    ((p384Add (some p384Base) (some p384Base)).any fun x =>
      x.1 == 0x08D999057BA3D2D969260045C55B97F089025959A6F434D651D207D19FB96E9E4FE0E86EBE0E64F85B96A9C75295DF61) = true := by decide +kernel

/-! ### Witnesses of single clauses -/

/-- A poisoned word that a load meets, and one elsewhere in the line of an atomic. -/
theorem witness_EccucClauses :
    okAnd (checkAccess 0 0x40000100 4 .read) { m0 with poison := [0x20100 / 8] } (fun c s1 =>
      match c with
      | .ok ps => (poisonAt s1 ps 0x40000100 4).isSome
      | _ => false) = true ∧
    okAnd (checkAtomic false 0 0x40000100 4 false) { m0 with poison := [0x20178 / 8] } (fun c s1 =>
      match c with
      | .fail t => t.cause == causeEccuc && anyPoison s1 0x20100 128
      | _ => false) = true := by
  constructor <;> decide +kernel

/-- 1.0 and −1.0, whose sum is an exact zero, and the largest finite number; 1.5 and an infinity, which a conversion rounds or
clamps. -/
theorem witness_RoundingClauses :
    fpDecode 1 0x3F800000 = .fin false 8388608 (-23) ∧ fpDecode 1 0xBF800000 = .fin true 8388608 (-23) ∧
    maxFinite 1 = 0x7F7FFFFF ∧ Forms.FiniteCode 1 0x7F7FFFFF ∧
    Forms.valueOf (fpDecode 1 0x3F800000) ≠ 0 ∧ 0 ≤ Forms.valueOf (fpDecode 1 0x3F800000) ∧
    Forms.valueOf (fpDecode 1 0x3F800000) + Forms.valueOf (fpDecode 1 0xBF800000) = 0 ∧
    fpDecode 1 0x3FC00000 = .fin false 12582912 (-23) ∧ fpDecode 1 0x7F800000 = .inf false := by
  have a : fpDecode 1 0x3F800000 = .fin false 8388608 (-23) := by decide +kernel
  have b : fpDecode 1 0xBF800000 = .fin true 8388608 (-23) := by decide +kernel
  refine ⟨a, b, by decide +kernel, ⟨false, 16777215, 104, by decide +kernel⟩, ?_, ?_, ?_, by decide +kernel, by decide +kernel⟩
  · rw [a]; simp [Forms.valueOf]
  · rw [a]; simp [Forms.valueOf]
  · rw [a, b]; simp [Forms.valueOf]

/-- A read-only CSR of user and one of runtime level. -/
theorem witness_CsrReads_fixed : (∀ f ∈ Forms.csrFixed strand0, f.1 < 0x100 ∨ f.1 = 0x106) ∧ (atRuntime strand0).r.level = .runtime :=
  ⟨by decide, rfl⟩

/-- FSEND of a strand that sends nothing, and of one whose message has been granted, or stands in the buffer. -/
theorem witness_FibreMessages_sending :
    (∀ k v, strand0.sending ≠ some (k, strand0.r.pc.toNat, v)) ∧ strand0.wait = .none ∧
    ∀ v, let st : Strand := { strand0 with sending := some (1, strand0.r.pc.toNat, v) }
      let held : Inflight := { pc := st.r.pc, words := [BitVec.ofNat 32 (wordFsend 5 1)], group := 0, frame := none }
      VectorReady st ∧ Runs (with0 fun _ => { st with inflight := some held, wait := .sending 1 })
        { st with inflight := some held, wait := .sending 1 } :=
  ⟨(fun _ _ h => nomatch h), rfl, fun _ => ⟨(ready rfl rfl rfl rfl rfl : VectorReady strand0), rfl⟩⟩

theorem witness_FibreMessages_stream : (at0 0x400).ord ≠ 1 ∧ (at0 0x400).slk = false ∧ 0x40000400 % 32 = 0 := by decide

/-- A tile of no kind and a format that suits none, a tile of floating point and one for integers; rows out of range; a tile
with a NaN cause before one with none. -/
theorem witness_TileResults_traps :
    ({ strand0 with r := { strand0.r with vl := 0 } } : Strand).r.vl = 0 ∧ 256 < ({ strand0 with r := { strand0.r with vl := 257 } } : Strand).r.vl ∧
    tmovOk .none 0 = false ∧ tmovOk .float 9 = false ∧ tmovOk .none 1 = true ∧ 256 < 256 + vtG strand0.r.vt ∧
    (let st : Strand := { strand0 with blocks := strand0.blocks.map fun bl => { bl with tiles := bl.tiles.setIfInBounds 0 { zeroTile with nanc := 3 } } }
     ∃ y, (st.blocks.map fun bl => tileOf bl 0) = [] ++ y :: [] ∧ y.nanc = 3 ∧ y.poison = false) ∧
    (∀ y ∈ strand0.blocks.map fun bl => tileOf bl 0, y.nanc = 0) :=
  ⟨rfl, by decide, rfl, rfl, rfl, by decide, ⟨_, rfl, rfl, rfl⟩, one_block' strand0 rfl⟩
where
  one_block' (st : Strand) (h : st = strand0) : ∀ y ∈ st.blocks.map fun bl => tileOf bl 0, y.nanc = 0 := by
    subst h
    intro y hy
    cases List.mem_singleton.mp hy
    rfl

/-- Two lines of shims, of which one or both drain; a line whose bytes lie apart. -/
theorem witness_DrainResults :
    let x : Shim := { bay := 0, region := 0, line := 0x20100, partials := 0, touched := 1, mag := 0, draining := false }
    let y : Shim := { x with bay := 1, line := 0x20180 }
    MemOk m0 ∧ MemOk { m0 with shims := [y, x] } ∧ (∀ i j, i < 128 → j < 128 → steer m0 (x.line + i) = steer m0 (x.line + j) → i = j) ∧
      (({ m0 with shims := [y, x] } : State).shims.filter fun h => h.bay == 0) = [x] ∧
      (({ m0 with shims := [y, x] } : State).shims.filter fun _ => true) = [y, x] ∧ x.line < y.line := by
  refine ⟨(by decide +kernel : memWf tables = true), (by decide +kernel : memWf tables = true), ?_, rfl, rfl, by decide⟩
  intro i j hi hj h
  dsimp only at h
  rw [steer_near ⟨rfl, rfl, rfl, rfl, rfl⟩ (by omega), steer_near ⟨rfl, rfl, rfl, rfl, rfl⟩ (by omega)] at h
  omega

/-- An entry of a runtime strand's log over a page of WVECs of other wings. -/
def deviceLogged (st : Strand) : Strand :=
  let e : LogEntry := { line := 0x800000, asid := 0, vmid := 0, level := .runtime, rq := 0, nt := false, seq := 0, joins := false,
                        op := .store [(8, 1, 255), (9, 1, 255)] }
  { st with r := { st.r with level := .runtime }, blocks := [{ newBlock 0 0 0 0 with slog := [e] }] }

theorem witness_ServiceResults_denied :
    let f : TlbEntry := { page with base := 0x200002000000, first := { leaf0 with pte := 0x2000020000DF, base := 0x200002000000 } }
    let s := { with0 deviceLogged with
      mem := [(0x10000, 0x01), (0x10001, 0x10), (0x10002, 0x01), (0x11008, 0x01), (0x11009, 0x20), (0x1100A, 0x01),
        (0x12000, 0x01), (0x12001, 0x30), (0x12002, 0x01), (0x13000, 0xDF), (0x13003, 0x02), (0x13005, 0x20)]
      bays := State.reset.bays.setIfInBounds 0 { State.resetBay with tlb := [f] } }
    ∃ bl e, (deviceLogged strand0).blocks[0]? = some bl ∧ bl.slog = [e] ∧ slogCount (deviceLogged strand0) = 1 ∧
      e.op = .store [(8, 1, 255), (9, 1, 255)] ∧ (deviceLogged strand0).r.asid = e.asid.setWidth 64 ∧
      e.level = (deviceLogged strand0).r.level ∧ bl.mplace = BitVec.ofNat 64 (bl.mplace.toNat % 2 ^ 32 + e.vmid.toNat * 2 ^ 32) ∧
      lineAddr e.line + 8 = 0x40000008 ∧ e.bad = [] ∧
      okAnd (translatePages 0 .write [0x40000008]) s (fun r s1 =>
        match r with
        | .ok [(_, p)] => (strandOf s1).any fun st1 =>
            !reachable s1 st1 0 (p.pa - 8 + 8) 1 .write && isLocal s1 p.pa && decide (deviceBase ≤ localAddr (p.pa - 8))
        | _ => false) = true :=
  ⟨_, _, rfl, rfl, rfl, rfl, rfl, rfl, rfl, rfl, rfl, by decide +kernel⟩

/-- A convoy whose word reads s20, damaged, and one that reads v2, of which a word is damaged. -/
theorem witness_StrandEvents_damage :
    (let s := with0 fun st => { st with blocks := [{ newBlock 0 0 0 0 with badRegs := [20] }] }
     (([0x080140D0] : List Nat).flatMap readsS).find? (fun n => n != 0 && (strandOf s).any (isBad · n)) = some 20) ∧
    okAnd (convoyDamage [0x000431B2]) (with0 fun _ => { inConvoy 0x000431B2 with blocks := [{ newBlock 0 0 0 0 with badRegs := [0x102] }] })
      (fun r _ => r == some (0, 0x102)) = true ∧
    (([0x000431B2] : List Nat).flatMap readsS).find? (fun n => n != 0 && isBad strand0 n) = none ∧
    (∀ bl ∈ (inConvoy 0x000431B2).blocks, bl.badRegs = []) ∧ ∀ x ∈ (with0 fun _ => inConvoy 0x000431B2).strands, 0 ∉ x.requests := by
  refine ⟨by decide +kernel, by decide +kernel, by decide +kernel, ?_, ?_⟩
  · intro bl h
    cases List.mem_singleton.mp h
    rfl
  · intro x h
    cases List.mem_singleton.mp h
    exact fun h => nomatch h

/-- A page's bytes stand in a row, before it is owned, in the frame it is given, and under the key of an owner elsewhere. -/
def inARow (s : State) (pa n : Nat) : Bool := (List.range n).all fun i => steer s (pa + i) == steer s pa + i

theorem witness_OwnershipResults_moved :
    (let pa := far0 / 4096 * 4096
     inARow m0 pa 4096 = true ∧ inARow { m0 with adoption := [(far0, 0x30000)] } pa 4096 = true ∧ 4096 % 8 = 0 ∧ steer m0 pa % 8 = 0 ∧
       steer { m0 with adoption := [(far0, 0x30000)] } pa % 8 = 0 ∧ far0 < 2 ^ 57 ∧ pkgField far0 ≠ 0 ∧ m0.adoption = [] ∧ m0.directory = []) ∧
    (let d := (0x30000 + 12, 1)
     let s := { m0 with directory := [d] }
     let pa := d.1 / 4096 * 4096
     ([d].find? fun d => tagHit d.1 0x30000) = some d ∧ 2 ^ (d.1 % 4096) = 4096 ∧ inARow s pa 4096 = true ∧
       inARow { s with directory := [(0x30000 + 12, 2)] } pa 4096 = true ∧ 2 ≠ s.pkg ∧ pkgField pa = s.pkg ∧ pa < 2 ^ 57 ∧ pa % 4096 = 0 ∧
       pa / 4096 = 0x30000 / 4096 ∧ 2 ^ 46 % 4096 = 0 ∧ s.sentTo = [] ∧ (∀ d ∈ m0.directory, tagHit d.1 0x30000 = false)) := by
  refine ⟨⟨by decide +kernel, by decide +kernel, rfl, by decide +kernel, by decide +kernel, by decide, by decide, rfl, rfl⟩,
    rfl, rfl, by decide +kernel, by decide +kernel, by decide, rfl, by decide, rfl, rfl, by decide, rfl, by decide⟩

/-- A failed request that a RETRY has named its owner for, one that it has not, and one that none has refused; requests to an
origin that is this package and to another, in a domain. -/
theorem witness_PeerRequests_resent :
    let q : PeerReq :=
      { peer := 1, seq := 4, addr := far0, op := .read 8, mark := none, who := 0, retries := 1, answered := false, refused := false }
    ({ q with refused := true, named := some 2 } : PeerReq).named = some 2 ∧ q.named = none ∧ q.refused = false ∧ isHost q.addr = false ∧
      pkgField (nameOf m0 0x30000) = m0.pkg ∧ pkgField (nameOf m0 far0) ≠ m0.pkg ∧ ({ m0 with members := [0, 1, 2] } : State).members ≠ [] ∧
      2 ∈ ({ m0 with members := [0, 1, 2] } : State).members ∧ (∀ p, (none : Option Nat) = some p → False) :=
  ⟨rfl, rfl, rfl, by decide, by decide, by decide, by decide, by decide, fun _ h => nomatch h⟩

/-- A range that the dump port reaches, and the last parts of a bay with lines of their own. -/
theorem witness_PowerAndErrors_parts : dumpReach m0 0x20000 8 = true ∧
    (∀ x ∈ [(0, 63, 0), (1, 31, 255), (2, 7, 127), (3, 7, 65535), (4, 15, 1), (5, 3, 0), (6, 0, 786431), (7, 127, 15)],
      let (cls, n, w) := x
      n < 256 ∧ (cls = 0 ∧ n < 64 ∧ w = 0 ∨ cls = 1 ∧ n < 32 ∧ w < 256 ∨ cls = 2 ∧ n < 8 ∧ w < 128 ∨ cls = 3 ∧ n < 8 ∨ cls = 4 ∧ n < 16 ∨
        cls = 5 ∧ n < 4 ∨ cls = 6 ∧ n = 0 ∧ w < 786432 ∨ cls = 7 ∧ n < 128 ∧ w < 16)) :=
  ⟨by decide +kernel, by decide⟩

/-- What the frozen package still does, and what it does not. -/
theorem witness_EventsFreezeAndPower_acts :
    (∀ i ∈ [Instr.functionLevelReset 1, .plumbBudget 1], encodeWord i = none ∧ i.eventOk = true ∧ ∃ n, i = .plumbBudget n ∨ i = .functionLevelReset n) ∧
    ∀ i ∈ [Instr.hostRead 0 8, .scrub], encodeWord i = none ∧ i.eventOk = true ∧
      ¬ (i ∈ [Instr.packageReset, .powerOnReset, .powerLoss, .frzN, .plumbFreeze] ∨ (∃ a n, i = .plumbReadout a n) ∨
        ∃ n, i = .plumbBudget n ∨ i = .functionLevelReset n) := by
  simp only [List.forall_mem_cons]
  refine ⟨⟨⟨rfl, rfl, 1, .inr rfl⟩, ⟨rfl, rfl, 1, .inl rfl⟩, fun _ h => nomatch h⟩, ⟨rfl, rfl, ?_⟩, ⟨rfl, rfl, ?_⟩, fun _ h => nomatch h⟩ <;>
  · rintro (h | ⟨a, n, h⟩ | ⟨n, h | h⟩)
    · exact absurd h (by simp)
    · cases h
    · cases h
    · cases h

/-- A strand whose word has been fetched anew, no stream of which is held, and one at the word of an uncached load, LDD s23, s20, 64. -/
theorem witness_StepRunsDecoded_held :
    strand0.fetchStale = [] ∧ strand0.inflight = none ∧ (∀ x ∈ m0.strands, 0 ∉ x.requests) ∧ heldRead 0x0098A281 = false ∧
    heldRead 0xC042AA17 = true ∧
    (let l : Mem := [(0x20010, 0x17), (0x20011, 0xAA), (0x20012, 0x42), (0x20013, 0xC0)]
     let s := { with0 (withPc 0x40000010) with mem := (tables.takeWhile fun c => c.1 ≤ 0x2000F) ++ l ++ tables.dropWhile fun c => c.1 ≤ 0x20013 }
     memWf s.mem = true ∧ okAnd (checkAccess 0 0x40000010 4 .fetch) s (fun c s1 => match c with
       | .ok ps => valueAt s1 ps 0x40000010 4 == 0xC042AA17
       | _ => false) = true) := by
  refine ⟨rfl, rfl, ?_, by decide, by decide, by decide +kernel, by decide +kernel⟩
  intro x h
  cases List.mem_singleton.mp h
  exact fun h => nomatch h

end Sys2Proof.Tests
end

/-! # The memory stays canonical in every step: what O60 needs (log entry 1)

Every meaning of the model is an action built from a few operations on memory, each of which keeps the canonical form
(`memWrite_wf`, `storeKeys_wf`, `physStore_wf`, …). What follows says so of each action once, in the order of the model. -/

namespace Sys2Proof.Laws

open Sys2Proof.Machine Sys2Proof.Safety Sys2Proof.Config

-- One proof at a time: elaborated side by side, the proofs below take more memory than one text has.
set_option Elab.async false

variable {ε α β γ : Type}


/-! ### Actions that keep memory canonical

`KeepsMem` is `Keeps MemOk` (Laws/Keeps) for actions of any kind of stop, the engines' among them. -/

/-- An action leaves memory canonical where it was, however it ends. -/
structure KeepsMem (x : EStateM ε State α) : Prop where
  ok : ∀ {s t a}, memWf s.mem = true → x s = .ok a t → memWf t.mem = true
  error : ∀ {s t e}, memWf s.mem = true → x s = .error e t → memWf t.mem = true

theorem keepsMem_iff {x : M α} : KeepsMem x ↔ Keeps MemOk x := by
  refine ⟨fun h s hs => ?_, fun h => ⟨fun {s _ _} hs e => ?_, fun {s _ _} hs e => ?_⟩⟩
  · cases e : x s with
    | ok a t => exact h.ok hs e
    | error y t => exact h.error hs e
  all_goals
    have hk := h s hs
    rw [e] at hk
    exact hk

theorem keepsMem_bind {x : EStateM ε State α} {f : α → EStateM ε State β} (hx : KeepsMem x) (hf : ∀ a, KeepsMem (f a)) :
    KeepsMem (x >>= f) := by
  constructor <;> intro s t b hs h <;> simp only [bind, EStateM.bind] at h <;> split at h
  · exact (hf _).ok (hx.ok hs ‹_›) h
  · cases h
  · exact (hf _).error (hx.ok hs ‹_›) h
  · cases h
    exact hx.error hs ‹_›

/-- An action that looks at the state may use that the state is canonical. -/
theorem keepsMem_get_bind {f : State → EStateM ε State β} (hf : ∀ s, memWf s.mem = true → KeepsMem (f s)) :
    KeepsMem (get >>= f) := ⟨fun hs => (hf _ hs).ok hs, fun hs => (hf _ hs).error hs⟩

theorem keepsMem_ite {c : Prop} [Decidable c] {x y : EStateM ε State α} (hx : KeepsMem x) (hy : KeepsMem y) :
    KeepsMem (if c then x else y) := by
  split
  · exact hx
  · exact hy

@[simp] theorem keepsMem_pure (a : α) : KeepsMem (pure a : EStateM ε State α) := ⟨fun hs h => by cases h; exact hs, nofun⟩

@[simp] theorem keepsMem_throw (e : ε) : KeepsMem (throw e : EStateM ε State α) :=
  ⟨nofun, fun hs h => by cases h; exact hs⟩

theorem keepsMem_set {t : State} (h : memWf t.mem = true) : KeepsMem (set t : EStateM ε State PUnit) :=
  ⟨fun _ e => by cases e; exact h, nofun⟩

theorem keepsMem_modify {f : State → State} (h : ∀ s, memWf s.mem = true → memWf (f s).mem = true) :
    KeepsMem (modify f : EStateM ε State PUnit) := ⟨fun hs e => by cases e; exact h _ hs, nofun⟩

theorem keepsMem_forM {f : γ → M PUnit} (hf : ∀ x, KeepsMem (f x)) : ∀ l : List γ, KeepsMem (l.forM f)
  | [] => keepsMem_pure _
  | x :: t => keepsMem_bind (hf x) fun _ => keepsMem_forM hf t

theorem keepsMem_discard {x : M α} (hx : KeepsMem x) : KeepsMem (discard x) :=
  keepsMem_bind (f := fun _ => pure ()) hx fun _ => keepsMem_pure _

theorem keepsMem_attempt {x : M α} (hx : KeepsMem x) : KeepsMem (attempt x) := by
  constructor <;> intro s t a hs h <;> unfold attempt at h <;> split at h <;> cases h
  · exact hx.ok hs ‹_›
  · exact hx.error hs ‹_›

theorem keepsMem_asStrand {x : M α} (k : Nat) (hx : KeepsMem x) : KeepsMem (asStrand k x) :=
  keepsMem_get_bind fun _ hs => keepsMem_bind (keepsMem_set hs) fun _ => keepsMem_bind hx fun _ =>
    keepsMem_bind (keepsMem_modify fun _ h => h) fun _ => keepsMem_pure _

/-- An action of the machine keeps memory as an engine's, too. -/
theorem keepsMem_engLift {x : M α} (hx : KeepsMem x) : KeepsMem (engLift x) := by
  constructor <;> intro s t a hs h <;> unfold engLift at h <;> split at h <;> cases h
  · exact hx.ok hs ‹_›
  · exact hx.error hs ‹_›

/-- An engine's action the Foreman runs: an access that is held or fails leaves the state as it was. -/
theorem keepsMem_tryEngine {x : EM α} (hx : KeepsMem x) : KeepsMem (tryEngine x) := by
  constructor <;> intro s t a hs h <;> unfold tryEngine at h <;> split at h <;> cases h
  · exact hx.ok hs ‹_›
  · exact hs
  · exact hx.error hs ‹_›

/-- A fold of steps that each keep memory canonical. -/
theorem foldl_wf {f : State → γ → State} (h : ∀ s x, memWf s.mem = true → memWf (f s x).mem = true) (l : List γ) :
    ∀ {s : State}, memWf s.mem = true → memWf (l.foldl f s).mem = true := by
  induction l with
  | nil => exact id
  | cons x t ih => exact fun hs => ih (h _ x hs)

/-! ### Strands, blocks and registers -/

@[simp] theorem keepsMem_raise (c : BitVec 8) (x : Word) : KeepsMem (raise c x : M α) := keepsMem_throw _
@[simp] theorem keepsMem_raiseT (t : Trap) : KeepsMem (raiseT t : M α) := keepsMem_throw _
@[simp] theorem keepsMem_waitFor (w : Wait) : KeepsMem (waitFor w : M α) := keepsMem_throw _
@[simp] theorem keepsMem_noPart : KeepsMem (noPart : M α) := keepsMem_throw _
@[simp] theorem keepsMem_failWith (n : Nat) : KeepsMem (failWith n : EM α) := keepsMem_throw _
@[simp] theorem keepsMem_hold : KeepsMem (hold : EM α) := keepsMem_throw _
@[simp] theorem keepsMem_freeNat : KeepsMem freeNat := keepsMem_iff.mpr (keeps_freeNat fun _ h => h)
@[simp] theorem keepsMem_freeBit : KeepsMem freeBit := keepsMem_bind keepsMem_freeNat fun _ => keepsMem_pure _
@[simp] theorem keepsMem_freeBelow (n : Nat) :
    KeepsMem (freeBelow n) := keepsMem_bind keepsMem_freeNat fun _ => keepsMem_pure _
@[simp] theorem keepsMem_getStrand : KeepsMem getStrand := keepsMem_iff.mpr keeps_getStrand
@[simp] theorem keepsMem_modStrand (f : Strand → Strand) : KeepsMem (modStrand f) :=
  keepsMem_iff.mpr (keeps_modStrand (fun _ _ h => h) f)
@[simp] theorem keepsMem_setStrand (st : Strand) : KeepsMem (setStrand st) := keepsMem_modify fun _ h => h
@[simp] theorem keepsMem_modRegs (f : Regs → Regs) : KeepsMem (modRegs f) := keepsMem_modStrand _
@[simp] theorem keepsMem_modBlocks (f : Block → Block) : KeepsMem (modBlocks f) := keepsMem_modStrand _
@[simp] theorem keepsMem_setBlock (b : Nat) (bl : Block) : KeepsMem (setBlock b bl) := keepsMem_modStrand _
@[simp] theorem keepsMem_ws {w : Nat} (n : BitVec w) (v : Word) : KeepsMem (ws n v) := keepsMem_modStrand _
@[simp] theorem keepsMem_modBay (n : Nat) (f : Bay → Bay) : KeepsMem (modBay n f) := keepsMem_modify fun _ h => h
@[simp] theorem keepsMem_getRegs : KeepsMem getRegs := keepsMem_bind keepsMem_getStrand fun _ => keepsMem_pure _
@[simp] theorem keepsMem_rs {w : Nat} (n : BitVec w) :
    KeepsMem (rs n) := keepsMem_bind keepsMem_getRegs fun _ => keepsMem_pure _
@[simp] theorem keepsMem_getBlock (b : Nat) : KeepsMem (getBlock b) := keepsMem_bind keepsMem_getStrand fun st => by
  split
  · exact keepsMem_pure _
  · exact keepsMem_throw _
@[simp] theorem keepsMem_modBlock (b : Nat) (f : Block → Block) : KeepsMem (modBlock b f) :=
  keepsMem_bind (keepsMem_getBlock b) fun _ => keepsMem_setBlock b _

/-! ### Actions built from others -/

theorem keepsMem_loopM {f : Nat → M Unit} (hf : ∀ j, KeepsMem (f j)) : ∀ j n, KeepsMem (loopM f j n)
  | _, 0 => keepsMem_pure _
  | j, n + 1 => keepsMem_bind (hf j) fun _ => keepsMem_loopM hf (j + 1) n

theorem keepsMem_elemM {act : Nat → Nat → M Unit} (hf : ∀ b j, KeepsMem (act b j)) (r m zero b j) :
    KeepsMem (elemM r m act zero b j) := by
  unfold elemM
  refine keepsMem_ite (keepsMem_bind (keepsMem_getBlock b) fun _ => keepsMem_ite (hf b j) ?_) ?_
  · exact keepsMem_ite (keepsMem_setBlock b _) (keepsMem_pure _)
  · exact keepsMem_ite (keepsMem_modBlock b _) (keepsMem_pure _)

theorem keepsMem_loadElems {act : Nat → Nat → M Unit} (hf : ∀ b j, KeepsMem (act b j)) (m zero sp) :
    KeepsMem (loadElems m act zero sp) :=
  keepsMem_bind keepsMem_getStrand fun _ => keepsMem_ite (keepsMem_pure _)
    (keepsMem_loopM (fun _ => keepsMem_loopM (keepsMem_elemM hf _ _ _ _) _ _) _ _)

theorem keepsMem_storeElems {act : Nat → Nat → M Unit} (hf : ∀ b j, KeepsMem (act b j)) (m sp) :
    KeepsMem (storeElems m act sp) :=
  keepsMem_bind keepsMem_getStrand fun _ => keepsMem_loopM (fun b => keepsMem_loopM (fun j =>
    keepsMem_bind (keepsMem_getBlock b) fun _ => keepsMem_ite (hf b j) (keepsMem_pure _)) _ _) _ _

theorem keepsMem_eachField {f : Nat → M Unit} (hf : ∀ j, KeepsMem (f j)) (n : Nat) : KeepsMem (eachField n f) :=
  keepsMem_loopM hf 0 n

theorem keepsMem_inGroup {x : M Unit} (hx : KeepsMem x) (g : Nat) : KeepsMem (inGroup g x) :=
  keepsMem_bind (keepsMem_attempt hx) fun r => by cases r <;> exact keepsMem_pure _

theorem keepsMem_seeingAll {x : M α} (hx : KeepsMem x) : KeepsMem (seeingAll x) :=
  keepsMem_bind (keepsMem_modStrand _) fun _ => keepsMem_bind keepsMem_getStrand fun _ =>
    keepsMem_bind (keepsMem_setStrand _) fun _ => keepsMem_bind hx fun _ =>
      keepsMem_bind (keepsMem_modStrand _) fun _ => keepsMem_pure _

theorem keepsMem_seeingVector {x : M α} (hx : KeepsMem x) : KeepsMem (seeingVector x) :=
  keepsMem_bind keepsMem_getStrand fun _ => keepsMem_bind (keepsMem_setStrand _) fun _ => keepsMem_bind hx fun _ =>
    keepsMem_bind (keepsMem_modStrand _) fun _ => keepsMem_pure _

theorem keepsMem_heldFence {x : M Unit} (hx : KeepsMem x) : KeepsMem (heldFence x) :=
  keepsMem_bind hx fun _ => keepsMem_modStrand _

theorem keepsMem_onRegion {f : State → Region → M Unit} (hf : ∀ s r, memWf s.mem = true → KeepsMem (f s r)) (k : Nat) :
    KeepsMem (onRegion k f) := keepsMem_get_bind fun s hs => by
  split
  · exact keepsMem_noPart
  · exact keepsMem_ite keepsMem_noPart (hf _ _ hs)

theorem keepsMem_onHolder {f : State → Region → Holder → M Unit} (hf : ∀ s r h, memWf s.mem = true → KeepsMem (f s r h))
    (k bay : Nat) : KeepsMem (onHolder k bay f) := keepsMem_onRegion (fun s r hs => by
  split
  · exact keepsMem_noPart
  · exact hf _ _ _ hs) k

theorem keepsMem_onStrand {f : State → Strand → M Unit} (hf : ∀ s st, memWf s.mem = true → KeepsMem (f s st)) (k : Nat) :
    KeepsMem (onStrand k f) := keepsMem_get_bind fun s hs => by
  split
  · exact keepsMem_noPart
  · exact keepsMem_ite keepsMem_noPart (hf _ _ hs)

@[simp] theorem rollback_mem (pre err : State) : (rollback pre err).mem = pre.mem := by
  unfold rollback
  split <;> rfl

/-- A vector-control instruction: its trap brings the state before it back. -/
theorem keepsMem_controlled {x : M Word} (hx : KeepsMem x) : KeepsMem (controlled x) :=
  keepsMem_get_bind fun s hs => keepsMem_bind (keepsMem_attempt hx) fun r => by
    cases r with
    | ok pc => exact keepsMem_bind (keepsMem_modRegs _) fun _ => keepsMem_pure _
    | error e => exact keepsMem_bind (keepsMem_modify fun t _ => by rwa [rollback_mem]) fun _ => keepsMem_throw _

/-! ### How an instruction ends -/

/-- Where an instruction or event completes, memory is canonical. -/
structure EndsOk (r : Result) : Prop where
  next : ∀ {t}, r = .next t → memWf t.mem = true

@[simp] theorem endsOk_next {t : State} : EndsOk (.next t) ↔ memWf t.mem = true :=
  ⟨fun h => h.next rfl, fun h => ⟨by rintro _ ⟨⟩; exact h⟩⟩
@[simp] theorem endsOk_fault (f : Fault) : EndsOk (.fault f) := ⟨nofun⟩
@[simp] theorem endsOk_refused (f : Refusal) : EndsOk (.refused f) := ⟨nofun⟩

section
variable {s : State}

theorem endsOk_stopped (x : Stop) (hs : memWf s.mem = true) : EndsOk (stopped x s) := by
  unfold stopped
  split
  · simpa using hs
  · split
    · exact endsOk_next.mpr hs
    · simp
  · simp

theorem endsOk_runTo {x : M Word} (hx : KeepsMem x) (hs : memWf s.mem = true) : EndsOk (runTo x s) :=
  ⟨runTo_keeps (keepsMem_iff.mp hx) (fun _ _ h => h) (fun s t h => by rwa [MemOk, takeTrap_mem]) hs⟩

theorem endsOk_runSeq {x : M Unit} (hx : KeepsMem x) (hs : memWf s.mem = true) : EndsOk (runSeq x s) :=
  endsOk_runTo (keepsMem_bind keepsMem_getRegs fun _ => keepsMem_bind hx fun _ => keepsMem_pure _) hs

theorem endsOk_runEvent {x : M Unit} (hx : KeepsMem x) (hs : memWf s.mem = true) : EndsOk (runEvent x s) :=
  ⟨runEvent_keeps (keepsMem_iff.mp hx) hs⟩

theorem endsOk_actAs {f : State → Result} (hf : ∀ s, memWf s.mem = true → EndsOk (f s)) (k : Nat)
    (hs : memWf s.mem = true) : EndsOk (actAs k f s) := by
  have h := hf { s with cur := k } hs
  unfold actAs
  split <;> rename_i e <;> rw [e] at h
  · have ht := h.next rfl
    exact endsOk_next.mpr ht
  · simp
  · simp

theorem endsOk_actIssuing {f : Strand → State → Result} (hf : ∀ st s, memWf s.mem = true → EndsOk (f st s)) (k : Nat)
    (hs : memWf s.mem = true) : EndsOk (actIssuing k f s) := by
  unfold actIssuing
  split
  · simp
  · split
    · exact endsOk_actAs (hf _) k hs
    · simp

end

/-! ### Convoys (R38 to R41, R113 to R119)

A convoy keeps memory canonical when each of its members does, whatever its groups, their order and its stop. -/

/-- A member leaves memory canonical: in its run, in what its own trap keeps (R116), and in the atomics it performs. -/
structure MemberOk (m : Member) : Prop where
  run : ∀ sp, KeepsMem (m.run sp)
  keep : ∀ {pre err}, memWf pre.mem = true → memWf err.mem = true → memWf (m.keep pre err).mem = true
  amo : ∀ {f}, m.amo = some f → ∀ sps, KeepsMem (f sps)

theorem memberOk_plain {pipe whole bad width} {run : Span → M Unit} (h : ∀ sp, KeepsMem (run sp)) :
    MemberOk (plainMember pipe whole bad width run) :=
  ⟨h, fun hp _ => by rwa [show (plainMember pipe whole bad width run).keep = rollback from rfl, rollback_mem], nofun⟩

/-- A member that only computes on the executing strand's registers, as every arithmetic, mask, permute and reduction member. -/
theorem memberOk_registers {pipe whole bad width} {f : Span → Strand → Strand} :
    MemberOk (plainMember pipe whole bad width fun sp => modStrand (f sp)) := memberOk_plain fun _ => keepsMem_modStrand _

theorem memberOk_ftMember {bad} {run : Span → M Unit} (h : ∀ sp, KeepsMem (run sp)) : MemberOk (ftMember bad run) :=
  memberOk_plain h

/-- What a member reads, for the readers of old values, does not bear on what it does. -/
theorem memberOk_readsV {m : Member} (hm : MemberOk m) (reads : Regs → List Nat) : MemberOk { m with readsV := reads } :=
  ⟨hm.run, hm.keep, hm.amo⟩

theorem memberOk_keep {m : Member} (hm : MemberOk m) {keep : State → State → State}
    (hk : ∀ pre err, memWf pre.mem = true → memWf err.mem = true → memWf (keep pre err).mem = true) :
    MemberOk { m with keep := keep } := ⟨hm.run, fun hp he => hk _ _ hp he, hm.amo⟩

theorem memberOk_fibreVector {bad reads x} {run : Span → M Unit} (h : ∀ sp, KeepsMem (run sp)) :
    MemberOk (fibreVector bad reads x run) := memberOk_readsV (memberOk_ftMember h) _

/-- A CACHE member: what its own trap keeps is where its run from the state before it stopped (R208). -/
theorem memberOk_cacheMember {bad} {run : M Unit} (h : KeepsMem run) : MemberOk (cacheMember bad run) := by
  refine memberOk_keep (memberOk_plain fun sp => keepsMem_ite h (keepsMem_pure _)) fun pre err hp _ => ?_
  unfold keepHandled
  split
  · exact h.ok hp ‹_›
  · exact h.error hp ‹_›

/-- The members of a convoy, each with its position, leave memory canonical. -/
def MembersOk (ms : List (Nat × Member)) : Prop := ∀ x ∈ ms, MemberOk x.2

theorem membersOk_append {a b : List (Nat × Member)} (ha : MembersOk a) (hb : MembersOk b) : MembersOk (a ++ b) :=
  fun x hx => (List.mem_append.mp hx).elim (ha x) (hb x)

theorem membersOk_singleton (pos : Nat) {m : Member} (hm : MemberOk m) : MembersOk [(pos, m)] :=
  fun _ hx => by cases List.mem_singleton.mp hx; exact hm

/-- Both outcomes of a convoy's commit hold a canonical memory. -/
def CommitOk : Except ConvoyStop State → Prop
  | .ok s => memWf s.mem = true
  | .error c => memWf c.s.mem = true

@[simp] theorem markFresh_mem (f s) : (markFresh f s).mem = s.mem := by
  unfold markFresh
  split <;> rfl
@[simp] theorem enterMember_mem (pos s) : (enterMember pos s).mem = s.mem := markFresh_mem ..
@[simp] theorem leaveMember_mem (pos s) : (leaveMember pos s).mem = s.mem := markFresh_mem ..
@[simp] theorem withLanes_mem (g s) : (withLanes g s).mem = s.mem := by
  unfold withLanes
  split <;> rfl
@[simp] theorem withNanc_mem (c s) : (withNanc c s).mem = s.mem := by
  unfold withNanc
  split <;> rfl
@[simp] theorem withVectors_mem (a s) : (withVectors a s).mem = s.mem := by
  unfold withVectors
  split <;> rfl
@[simp] theorem closeConvoy_mem (s) : (closeConvoy s).mem = s.mem := by
  unfold closeConvoy
  split <;> rfl
@[simp] theorem setVstart_mem (s v) : (setVstart s v).mem = s.mem := by
  unfold setVstart
  split <;> rfl

theorem keepAtomics_wf {pre after : State} (hp : memWf pre.mem = true) (ha : memWf after.mem = true) :
    memWf (keepAtomics pre after).mem = true := by
  unfold keepAtomics
  split
  · exact ha
  · exact hp

/-- A member leaves the memory canonical, however it ends. -/
theorem keepsMem_runMember {m : Member} (hm : MemberOk m) (pos : Nat) (sp : Span) : KeepsMem (runMember pos m sp) := by
  constructor <;> intro s t a hs h <;> rw [← enterMember_mem pos s] at hs <;> unfold runMember at h <;> split at h <;> cases h
  · simpa using (hm.run _).ok hs ‹_›
  · simpa using (hm.run _).error hs ‹_›

/-- Both outcomes of the members of a group hold a canonical memory. -/
def RunOk : Except (Stop × State) State → Prop
  | .ok s => memWf s.mem = true
  | .error x => memWf x.2.mem = true

theorem runMembers_ok {sp : Span} {pre : State} (hp : memWf pre.mem = true) : ∀ {ms : List (Nat × Member)}, MembersOk ms →
    ∀ {amo : Option (List Nat × State)}, (∀ x ∈ amo, memWf x.2.mem = true) → ∀ {s}, memWf s.mem = true →
    RunOk (runMembers sp pre amo ms s)
  | [], _, _, _, _, hs => hs
  | (pos, m) :: t, hms, amo, ha, s, hs => by
    have hm := hms _ (List.mem_cons_self ..)
    have ht : MembersOk t := fun x hx => hms x (List.mem_cons_of_mem _ hx)
    unfold runMembers
    cases e : runMember pos m sp s with
    | ok a s' =>
      have hs' := (keepsMem_runMember hm pos sp).ok hs e
      refine runMembers_ok hp ht ?_ hs'
      split
      · exact ha
      · rintro x ⟨⟩
        exact hs'
    | error x s' =>
      refine hm.keep ?_ ((keepsMem_runMember hm pos sp).error hs e)
      split
      · split
        · exact keepAtomics_wf hp (ha _ rfl)
        · exact hp
      · exact hp

theorem groupLoop_ok {ms : List (Nat × Member)} (hms : MembersOk ms) (w n start stop : Nat) :
    ∀ (k : Nat) {s : State}, memWf s.mem = true → CommitOk (groupLoop ms w n start k stop s)
  | 0, _, hs => hs
  | k + 1, s, hs => by
    have h := runMembers_ok (sp := groupSpan w n start (stop - (k + 1))) hs hms (amo := none) nofun hs
    unfold groupLoop
    dsimp only
    split <;> rename_i e <;> rw [e] at h
    · exact groupLoop_ok hms w n start stop k h
    · exact h

theorem runPieces_wf {pos : Nat} {m : Member} (hm : MemberOk m) : ∀ {sps : List Span} {s : State} {x : State × List Nat},
    memWf s.mem = true → runPieces pos m sps s = some x → memWf x.1.mem = true
  | [], s, x, hs, h => by cases h; exact hs
  | sp :: t, s, x, hs, h => by
    unfold runPieces at h
    split at h
    · rename_i s' e
      obtain ⟨y, hy, rfl⟩ := Option.map_eq_some_iff.mp h
      exact runPieces_wf (x := y) hm ((keepsMem_runMember hm pos sp).ok (by simpa using hs) e) hy
    · cases h

theorem memberPart_wf {pos : Nat} {m : Member} (hm : MemberOk m) {sp lanes} {s : State} {x : State × MemberPart}
    (hs : memWf s.mem = true) (h : memberPart pos m sp lanes s = some x) : memWf x.1.mem = true := by
  obtain ⟨y, hy, rfl⟩ := Option.map_eq_some_iff.mp h
  refine runPieces_wf hm ?_ hy
  cases lanes with
  | none => exact hs
  | some g => simpa using hs

theorem memberParts_wf {pos : Nat} {m : Member} (hm : MemberOk m) {lanes} : ∀ {sps : List Span} {e : Nat} {s : State}
    {x : State × List MemberPart}, memWf s.mem = true → memberParts pos m lanes e sps s = some x → memWf x.1.mem = true
  | [], e, s, x, hs, h => by cases h; exact hs
  | sp :: t, e, s, x, hs, h => by
    unfold memberParts at h
    split at h
    · cases h
    · rename_i s' p hp
      obtain ⟨y, hy, rfl⟩ := Option.map_eq_some_iff.mp h
      exact memberParts_wf (x := y) hm (memberPart_wf hm hs hp) hy

theorem inTurn_wf {spans lanes} : ∀ {ms : List (Nat × Member)} {i : Nat} {x y :
    InTurn}, MembersOk ms → memWf x.s.mem = true →
    inTurn spans lanes i ms x = some y → memWf y.s.mem = true
  | [], i, x, y, _, hx, h => by cases h; exact hx
  | (pos, m) :: t, i, x, y, hms, hx, h => by
    unfold inTurn at h
    split at h
    · rename_i s' ps e
      exact inTurn_wf (x := { s := s', parts := _ }) (fun z hz => hms z (List.mem_cons_of_mem _ hz))
        (memberParts_wf (hms _ (List.mem_cons_self ..)) hx e) h
    · cases h

theorem settleDraws_wf {spans} {ms : List (Nat × Member)} (hms : MembersOk ms) {s : State} (hs : memWf s.mem = true) :
    ∀ {n : Nat} {x y : InTurn}, memWf x.s.mem = true → settleDraws spans ms s n x = some y → memWf y.s.mem = true
  | 0, x, y, hx, h => by cases h; exact hx
  | n + 1, x, y, hx, h => by
    unfold settleDraws at h
    dsimp only at h
    split at h
    · cases h
    · rename_i z e
      have hz : memWf z.s.mem = true := inTurn_wf hms (by exact hs) e
      split at h
      · cases h
        simpa using hz
      · exact settleDraws_wf hms hs hz h

theorem inOrder_wf {spans} {ms : List (Nat × Member)} (hms : MembersOk ms) {s : State} (hs : memWf s.mem = true) {y : InTurn}
    (h : inOrder spans ms s = some y) : memWf y.s.mem = true := by
  unfold inOrder at h
  split at h
  · cases h
  · rename_i x e
    have hx : memWf x.s.mem = true := inTurn_wf hms (by exact hs) e
    split at h
    · cases h; exact hx
    · exact settleDraws_wf hms hs hx h

theorem commitSpans_ok {ms : List (Nat × Member)} (hms : MembersOk ms) (spans w n start stop) {s : State}
    (hs : memWf s.mem = true) : CommitOk (commitSpans spans ms w n start stop s) := by
  unfold commitSpans
  split
  · rename_i x e
    simpa [CommitOk] using inOrder_wf hms hs e
  · exact groupLoop_ok hms _ _ _ _ _ hs

theorem commitGroups_ok {ms : List (Nat × Member)} (hms : MembersOk ms) (w n start stop) {s : State}
    (hs : memWf s.mem = true) : CommitOk (commitGroups ms w n start stop s) := by
  have spans (f k) : CommitOk (commitSpans f ms w n start k s) := commitSpans_ok hms _ _ _ _ _ hs
  have byGroup : CommitOk (if ms.length ≤ 1 || stop ≤ start then groupLoop ms w n start (stop - start) stop s
      else commitSpans (fun _ => groupSpans w n start stop) ms w n start stop s) := by
    split
    · exact groupLoop_ok hms _ _ _ _ _ hs
    · exact spans ..
  unfold commitGroups
  dsimp only
  generalize (if ms.length ≤ 1 || stop ≤ start then groupLoop ms w n start (stop - start) stop s
      else commitSpans (fun _ => groupSpans w n start stop) ms w n start stop s) = r at byGroup ⊢
  split
  · split
    · exact spans ..
    · split
      · exact byGroup
      · rename_i c _ _
        have h := spans (fun m => if m.pipe == .mem then [joinedSpan w n start c.group] else groupSpans w n start c.group) c.group
        split <;> rename_i e <;> rw [e] at h
        · exact groupLoop_ok hms _ _ _ _ _ h
        · exact h
  · exact byGroup

theorem commitWhole_ok {ms : List (Nat × Member)} (hms : MembersOk ms) (w n) {s : State} (hs : memWf s.mem = true) :
    CommitOk (commitWhole ms w n s) := by
  have once : CommitOk (match runMembers wholeSpan s none ms s with
      | .ok s' => Except.ok s'
      | .error (x, s') => .error { x := x, group := 0, s := s' }) := by
    have h := runMembers_ok (sp := wholeSpan) hs hms (amo := none) nofun hs
    split <;> rename_i e <;> rw [e] at h <;> exact h
  unfold commitWhole
  dsimp only
  split
  · exact once
  · split
    · rename_i x e
      simpa [CommitOk] using inOrder_wf hms hs e
    · exact once

theorem splitAmo_ok : ∀ {ms : List (Nat × Member)} {b pos f a}, MembersOk ms → splitAmo ms = some (b, pos, f, a) →
    MembersOk b ∧ (∀ sps, KeepsMem (f sps)) ∧ MembersOk a
  | x :: t, b, pos, f, a, hms, h => by
    have hx := hms _ (List.mem_cons_self ..)
    have ht : MembersOk t := fun z hz => hms z (List.mem_cons_of_mem _ hz)
    unfold splitAmo at h
    split at h
    · rename_i g e
      cases h
      exact ⟨nofun, hx.amo e, ht⟩
    · obtain ⟨⟨b', pos', f', a'⟩, hy, e⟩ := Option.map_eq_some_iff.mp h
      cases e
      obtain ⟨hb, hf, ha⟩ := splitAmo_ok ht hy
      exact ⟨fun z hz => (List.mem_cons.mp hz).elim (fun e => e ▸ hx) (hb z), hf, ha⟩

theorem amoLoop_ok {before after : List (Nat × Member)} {perform : List Span → M AmoDone} (hb : MembersOk before)
    (hf : ∀ sps, KeepsMem (perform sps)) (ha : MembersOk after) (pos w n start stop) {s : State} (hs : memWf s.mem = true) :
    CommitOk (amoLoop before pos perform after w n start stop s) := by
  have h1 := commitGroups_ok hb w n start stop hs
  unfold amoLoop
  split <;> rename_i s1 e1 <;> rw [e1] at h1
  · exact h1
  · have hin : memWf (enterMember pos s1).mem = true := by simpa [CommitOk] using h1
    dsimp only
    split <;> rename_i e2
    · simpa [CommitOk] using hs
    · rename_i d s2
      have h2 : memWf (withVectors s (leaveMember pos s2)).mem = true := by simpa using (hf _).ok hin e2
      have hwriter : MemberOk (plainMember .mem false (fun _ => false) (fun _ => 1) fun sp => modStrand (d.write sp)) :=
        memberOk_plain fun _ => keepsMem_modStrand _
      have hms := membersOk_append (membersOk_append hb (membersOk_singleton pos hwriter)) ha
      have h3 := commitGroups_ok hms w n start d.limit h2
      split <;> rename_i e3 <;> rw [e3] at h3
      · exact h3
      · split <;> exact h3

theorem performGroups_ok {ms : List (Nat × Member)} (hms : MembersOk ms) (start stop) {s : State} (hs : memWf s.mem = true) :
    CommitOk (performGroups ms start stop s) := by
  unfold performGroups
  split
  · exact hs
  · dsimp only
    split
    · exact commitWhole_ok hms _ _ hs
    · split
      · exact commitGroups_ok hms _ _ _ _ hs
      · rename_i e
        obtain ⟨hb, hf, ha⟩ := splitAmo_ok hms e
        exact amoLoop_ok hb hf ha _ _ _ _ _ hs

theorem performConvoy_ok {ms : List (Nat × Member)} (hms : MembersOk ms) (start stop) {s : State} (hs : memWf s.mem = true) :
    CommitOk (performConvoy ms start stop s) := by
  have h := performGroups_ok hms start stop hs
  unfold performConvoy
  split <;> rename_i e <;> rw [e] at h <;> simpa [CommitOk] using h

theorem performConvoy_wf {ms : List (Nat × Member)} (hms : MembersOk ms) {start stop} {s t : State} (hs : memWf s.mem = true)
    (h : performConvoy ms start stop s = .ok t) : memWf t.mem = true :=
  (h ▸ performConvoy_ok hms start stop hs : CommitOk (.ok t))

theorem performConvoy_stop_wf {ms : List (Nat × Member)} (hms : MembersOk ms) {start stop} {s : State} {c : ConvoyStop}
    (hs : memWf s.mem = true) (h : performConvoy ms start stop s = .error c) : memWf c.s.mem = true :=
  (h ▸ performConvoy_ok hms start stop hs : CommitOk (.error c))

theorem endsOk_convoyStopped (words) {c : ConvoyStop} (hc : memWf c.s.mem = true) : EndsOk (convoyStopped words c) := by
  unfold convoyStopped
  split
  · simpa using hc
  · split
    · exact endsOk_next.mpr hc
    · simp
  · simp

theorem endsOk_convoyDone (n) {s : State} (hs : memWf s.mem = true) : EndsOk (convoyDone n s) := by
  unfold convoyDone
  split
  · exact endsOk_next.mpr hs
  · simp

theorem okMembers_ok (pos) {ws : List (Except Reject Member)} (h : ∀ m, .ok m ∈ ws → MemberOk m) :
    MembersOk (okMembers pos ws) := by
  intro x hx
  obtain ⟨⟨m, k⟩, hm, e⟩ := List.mem_filterMap.mp hx
  cases m with
  | ok m =>
    cases e
    exact h m (List.fst_mem_of_mem_zipIdx hm)
  | error r => cases e

theorem endsOk_runConvoy (words) {ws : List (Except Reject Member)} (h : ∀ m, .ok m ∈ ws → MemberOk m) {s : State}
    (hs : memWf s.mem = true) : EndsOk (runConvoy words ws s) := by
  unfold runConvoy
  split
  · simp
  · split
    · simpa using hs
    · dsimp only
      split
      · simpa using hs
      · split <;> rename_i e
        · exact endsOk_convoyDone _ (performConvoy_wf (okMembers_ok _ h) hs e)
        · exact endsOk_convoyStopped _ (performConvoy_stop_wf (okMembers_ok _ h) hs e)

theorem endsOk_runSolo (word) {m : Member} (hm : MemberOk m) {s : State} (hs : memWf s.mem = true) :
    EndsOk (runSolo word m s) :=
  endsOk_runConvoy _ (fun _ hx => by cases List.mem_singleton.mp hx; exact hm) hs

/-! ### The rules together

The proof that a meaning keeps memory canonical follows its text: a rule above for each way it is built, and the lemma of
each operation it calls, which is a `simp` lemma. `by_parts` goes along them; what has a loop or an invariant of its own is
proved by hand. -/

/-- Closes a goal `KeepsMem x`, `EndsOk r`, `MemberOk m` or `memWf s.mem = true` along the parts of `x`, `r`, `m` or `s`. -/
theorem by_parts {p : Prop} (h : p := by
    try dsimp only
    repeat' first
      | with_reducible first
        | assumption
        | apply keepsMem_get_bind | apply keepsMem_bind | apply keepsMem_ite | apply keepsMem_set | apply keepsMem_modify
        | apply keepsMem_forM | apply keepsMem_discard | apply keepsMem_attempt | apply keepsMem_asStrand
        | apply keepsMem_engLift | apply keepsMem_tryEngine | apply keepsMem_loopM | apply keepsMem_loadElems
        | apply keepsMem_storeElems | apply keepsMem_eachField | apply keepsMem_inGroup | apply keepsMem_seeingAll
        | apply keepsMem_seeingVector | apply keepsMem_heldFence | apply keepsMem_onRegion | apply keepsMem_onHolder
        | apply keepsMem_onStrand | apply keepsMem_controlled | apply memberOk_plain | apply memberOk_ftMember
        | apply memberOk_fibreVector | apply memberOk_cacheMember | apply endsOk_stopped | apply endsOk_runTo
        | apply endsOk_runSeq | apply endsOk_runEvent | apply endsOk_runSolo | apply endsOk_actAs
        | apply endsOk_actIssuing | apply foldl_wf
      | intro _
      | split
      | simp; done
      | simp [*, storeKeys_wf, physWrite_wf, physStore_wf, zeroStorage_wf, openStorage_wf, copyKeys_wf, moveKeys_wf, relocate_wf]
        done
      | with_reducible first | apply memberOk_readsV | apply memberOk_keep
      | apply_assumption) : p := h

/-! ### The error log, draws and waits (R100, R427) -/

@[simp] theorem logError_mem (s e) : (logError s e).mem = s.mem := by
  simp [logError]

@[simp] theorem keepsMem_drawLane (b j) : KeepsMem (drawLane b j) := by
  unfold drawLane
  exact by_parts

@[simp] theorem keepsMem_drawFor (mode b j) : KeepsMem (drawFor mode b j) := by
  unfold drawFor
  exact by_parts

@[simp] theorem leaveBay_mem (s bl) : (leaveBay s bl).mem = s.mem := rfl

@[simp] theorem keepsMem_awaitExpand (pick) : KeepsMem (awaitExpand pick) := by
  unfold awaitExpand
  exact by_parts

/-! ### Physical memory (R181, R182, R184) -/

@[simp] theorem homeAccess_mem (s who kind keys) : (homeAccess s who kind keys).mem = s.mem := by
  unfold homeAccess
  split <;> rfl

@[simp] theorem ownBytes_mem (s bay keys) : (ownBytes s bay keys).mem = s.mem := rfl

@[simp] theorem pullBytes_mem (s pa n) : (pullBytes s pa n).mem = s.mem := by
  unfold pullBytes
  (repeat' split) <;> simp

@[simp] theorem clearPoison_mem (s pa n) : (clearPoison s pa n).mem = s.mem := by
  unfold clearPoison
  split <;> rfl

@[simp] theorem markPoison_mem (s pa n) : (markPoison s pa n).mem = s.mem := rfl

@[simp] theorem devWrite_mem (s r v) : (devWrite s r v).mem = s.mem := by
  unfold devWrite
  split <;> rfl

@[simp] theorem recallLines_mem (s lo n) : (recallLines s lo n).mem = s.mem := rfl

/-! ### Translation (R382 to R390) -/

@[simp] theorem keepsMem_keepBounded (cap) (pick : α → Bool) (l x) : KeepsMem (keepBounded cap pick l x) := by
  unfold keepBounded
  exact by_parts

@[simp] theorem keepsMem_keepTable (c stage2 level va t) : KeepsMem (keepTable c stage2 level va t) := by
  unfold keepTable
  exact by_parts

@[simp] theorem keepsMem_walkFrom (c stage2 va x y) : KeepsMem (walkFrom c stage2 va x y) := by
  fun_induction walkFrom c stage2 va x y <;> exact by_parts

@[simp] theorem keepsMem_walkBoth (c va) : KeepsMem (walkBoth c va) := by
  unfold walkBoth
  exact by_parts

@[simp] theorem setTlb_mem (s c l) : (setTlb s c l).mem = s.mem := by
  unfold setTlb
  split <;> rfl

@[simp] theorem keepsMem_keepXlat (c e) : KeepsMem (keepXlat c e) := by
  unfold keepXlat
  exact by_parts

@[simp] theorem setAccessed_wf (s e write) (hs : memWf s.mem = true) : memWf (setAccessed s e write).mem = true := by
  unfold setAccessed
  exact by_parts

@[simp] theorem keepsMem_chooseHeld (a) : KeepsMem (chooseHeld a) := by
  fun_induction chooseHeld a <;> exact by_parts

@[simp] theorem keepsMem_lookup (c va write) : KeepsMem (lookup c va write) := by
  unfold lookup
  exact by_parts

@[simp] theorem keepsMem_translate (c va acc) : KeepsMem (Machine.translate c va acc) := by
  unfold Machine.translate
  exact by_parts

/-! ### A strand's accesses (R84, R199, R213 to R217) -/

@[simp] theorem drainInto_wf (s h) (hs : memWf s.mem = true) : memWf (drainInto s h).mem = true := by
  unfold drainInto
  exact by_parts

@[simp] theorem drainShims_wf (s pick) (hs : memWf s.mem = true) : memWf (drainShims s pick).mem = true := by
  unfold drainShims
  exact by_parts

@[simp] theorem drainForLoad_wf (s st pa n) (hs : memWf s.mem = true) : memWf (drainForLoad s st pa n).mem = true := by
  unfold drainForLoad
  exact by_parts

@[simp] theorem drainForStore_wf (s pa n) (hs : memWf s.mem = true) : memWf (drainForStore s pa n).mem = true := by
  unfold drainForStore
  exact by_parts

@[simp] theorem keepsMem_stage2Fault (b f t) : KeepsMem (stage2Fault b f t : M α) := by
  unfold stage2Fault
  exact by_parts

@[simp] theorem keepsMem_translatePages (b acc a) : KeepsMem (translatePages b acc a) := by
  fun_induction translatePages b acc a <;> exact by_parts

@[simp] theorem cacheOwner_mem (s tag owner) : (cacheOwner s tag owner).mem = s.mem := by
  simp [cacheOwner]

@[simp] theorem settleRedirects_wf (s) (hs : memWf s.mem = true) : memWf (settleRedirects s).mem = true := by
  unfold settleRedirects
  exact by_parts

@[simp] theorem keepsMem_askFar (who pa) : KeepsMem (askFar who pa) := by
  unfold askFar
  exact by_parts

@[simp] theorem keepsMem_askPages (xs) : KeepsMem (askPages xs) := by
  have ask (cur xs) : KeepsMem (askPages.ask cur xs) := by
    fun_induction askPages.ask cur xs <;> exact by_parts
  exact keepsMem_get_bind fun s _ => ask ..

@[simp] theorem keepsMem_checkRows (b va size acc) : KeepsMem (checkRows b va size acc) := by
  unfold checkRows
  exact by_parts

@[simp] theorem keepsMem_checkServed (va size ps) : KeepsMem (checkServed va size ps) := by
  unfold checkServed
  exact by_parts

@[simp] theorem keepsMem_checkAccess (b va size acc) : KeepsMem (checkAccess b va size acc) := by
  unfold checkAccess
  exact by_parts

@[simp] theorem keepsMem_logAccess (b line op rq nt joins t) : KeepsMem (logAccess b line op rq nt joins t) := by
  unfold logAccess
  exact by_parts

@[simp] theorem keepsMem_needLog (t) : KeepsMem (needLog t) := by
  unfold needLog
  exact by_parts

@[simp] theorem keepsMem_logStore (b va bs rq nt t) : KeepsMem (logStore b va bs rq nt t) := by
  unfold logStore
  exact by_parts

@[simp] theorem keepsMem_chooseMissed (miss keys ws) : ∀ later, KeepsMem (chooseMissed miss keys ws later) := by
  induction ws with
  | nil => exact fun later => keepsMem_pure _
  | cons w t ih =>
    intro later
    rw [chooseMissed]
    exact by_parts

@[simp] theorem keepsMem_missWrites (vector held ord keys base) : KeepsMem (missWrites vector held ord keys base) := by
  unfold missWrites
  exact by_parts

@[simp] theorem keepsMem_choosePlace (vector ord keys) : KeepsMem (choosePlace vector ord keys) := by
  unfold choosePlace
  exact by_parts

@[simp] theorem keepsMem_putWrite (vector ord settled done place new) :
    KeepsMem (putWrite vector ord settled done place new) := by
  unfold putWrite
  exact by_parts

@[simp] theorem keepsMem_placeWrite (vector ord l) : KeepsMem (placeWrite vector ord l) := by
  unfold placeWrite
  exact by_parts

@[simp] theorem refreshCopies_wf (s st bay keep key) (hs : memWf s.mem = true) :
    memWf (refreshCopies s st bay keep key).mem = true := by
  unfold refreshCopies
  exact by_parts

@[simp] theorem updateCopies_wf (s st l) (hs : memWf s.mem = true) : memWf (updateCopies s st l).mem = true := by
  unfold updateCopies
  exact by_parts

@[simp] theorem keepsMem_pastByte (s key) : KeepsMem (pastByte s key) := by
  unfold pastByte
  exact by_parts

@[simp] theorem keepsMem_pastBytes (s a) : KeepsMem (pastBytes s a) := by
  fun_induction pastBytes s a <;> exact by_parts

@[simp] theorem keepsMem_findBytes (bay rq x keys) : KeepsMem (findBytes bay rq x keys) := by
  unfold findBytes
  exact by_parts

@[simp] theorem keepsMem_readKeys (b rq vector x keys) : KeepsMem (readKeys b rq vector x keys) := by
  unfold readKeys
  exact by_parts

@[simp] theorem keepsMem_readByte (b va rq vector pages i) : KeepsMem (readByte b va rq vector pages i) := by
  unfold readByte
  exact by_parts

@[simp] theorem keepsMem_readEach (b va rq vector pages x y) : KeepsMem (readEach b va rq vector pages x y) := by
  fun_induction readEach b va rq vector pages x y <;> exact by_parts

@[simp] theorem keepsMem_readMemory (b va n rq vector pages) : KeepsMem (readMemory b va n rq vector pages) := by
  unfold readMemory
  exact by_parts

@[simp] theorem keepsMem_readBytes (b va n rq vector pages) : KeepsMem (readBytes b va n rq vector pages) := by
  unfold readBytes
  exact by_parts

@[simp] theorem deviceStore_wf (s pa bs) (hs : memWf s.mem = true) : memWf (deviceStore s pa bs).mem = true := by
  unfold deviceStore
  exact by_parts

@[simp] theorem keepsMem_lowerInner (x y) : KeepsMem (lowerInner x y) := by
  fun_induction lowerInner x y <;> exact by_parts

@[simp] theorem keepsMem_lowerCounters (i v) : KeepsMem (lowerCounters i v) := by
  unfold lowerCounters
  exact by_parts

@[simp] theorem keepsMem_lowerTimes (scope x y) : KeepsMem (lowerTimes scope x y) := by
  fun_induction lowerTimes scope x y <;> exact by_parts

@[simp] theorem keepsMem_stillOut (old new a) : KeepsMem (stillOut old new a) := by
  fun_induction stillOut old new a <;> exact by_parts

@[simp] theorem keepsMem_stallCounters (covers x y) : KeepsMem (stallCounters covers x y) := by
  fun_induction stallCounters covers x y <;> exact by_parts

@[simp] theorem keepsMem_countWrite (b vector strong pas) : KeepsMem (countWrite b vector strong pas) := by
  unfold countWrite
  exact by_parts

@[simp] theorem keepsMem_noteUnreleased (b before) : KeepsMem (noteUnreleased b before) := by
  unfold noteUnreleased
  exact by_parts

@[simp] theorem keepsMem_landBytes (bay rq l) : KeepsMem (landBytes bay rq l) := by
  unfold landBytes
  exact by_parts

@[simp] theorem keepsMem_writeServed (b rq vector x l) : KeepsMem (writeServed b rq vector x l) := by
  unfold writeServed
  exact by_parts

@[simp] theorem keepsMem_writeKeys (b rq vector x l) : KeepsMem (writeKeys b rq vector x l) := by
  unfold writeKeys
  exact by_parts

@[simp] theorem keepsMem_writeEach (b rq vector x a) : KeepsMem (writeEach b rq vector x a) := by
  fun_induction writeEach b rq vector x a <;> exact by_parts

@[simp] theorem keepsMem_storePart (b pa rq vector x bs) : KeepsMem (storePart b pa rq vector x bs) := by
  unfold storePart
  exact by_parts

@[simp] theorem keepsMem_noteStrong (vector pages) : KeepsMem (noteStrong vector pages) := by
  unfold noteStrong
  exact by_parts

@[simp] theorem keepsMem_performStore (b va rq vector pages bs) : KeepsMem (performStore b va rq vector pages bs) := by
  unfold performStore
  exact by_parts

@[simp] theorem keepsMem_loadChecked (b va n rq vector ps) : KeepsMem (loadChecked b va n rq vector ps) := by
  unfold loadChecked
  exact by_parts

@[simp] theorem keepsMem_loadBytes (b va n rq vector) : KeepsMem (loadBytes b va n rq vector) := by
  unfold loadBytes
  exact by_parts

@[simp] theorem keepsMem_checkWatch (va n acc) : KeepsMem (checkWatch va n acc) := by
  unfold checkWatch
  exact by_parts

@[simp] theorem keepsMem_loadValue (b va n rq vector) : KeepsMem (loadValue b va n rq vector) := by
  unfold loadValue
  exact by_parts

@[simp] theorem keepsMem_storeChecked (b va bs rq nt packet vector mayLog) :
    KeepsMem (storeChecked b va bs rq nt packet vector mayLog) := by
  unfold storeChecked
  exact by_parts

@[simp] theorem keepsMem_storeMasked (b va bs rq nt packet vector mayLog) :
    KeepsMem (storeMasked b va bs rq nt packet vector mayLog) := by
  unfold storeMasked
  exact by_parts

@[simp] theorem keepsMem_storeBytes (b va bs rq nt vector mayLog) : KeepsMem (storeBytes b va bs rq nt vector mayLog) := by
  unfold storeBytes
  exact by_parts

@[simp] theorem keepsMem_storeValue (b va n v rq nt vector) : KeepsMem (storeValue b va n v rq nt vector) := by
  unfold storeValue
  exact by_parts

@[simp] theorem keepsMem_loadLong (b vector x y z) : KeepsMem (loadLong b vector x y z) := by
  fun_induction loadLong b vector x y z <;> exact by_parts

@[simp] theorem keepsMem_storeLong (b vector x y z) : KeepsMem (storeLong b vector x y z) := by
  fun_induction storeLong b vector x y z <;> exact by_parts

@[simp] theorem keepsMem_modPending (f) : KeepsMem (modPending f) := by
  unfold modPending
  exact by_parts

@[simp] theorem keepsMem_settleStream (vector) : KeepsMem (settleStream vector) := by
  unfold settleStream
  exact by_parts

@[simp] theorem keepsMem_writesPerformed (scope) : KeepsMem (writesPerformed scope) := by
  unfold writesPerformed
  exact by_parts

@[simp] theorem keepsMem_releaseAs (fence scope) : KeepsMem (releaseAs fence scope) := by
  unfold releaseAs
  exact by_parts

@[simp] theorem keepsMem_release (scope) : KeepsMem (release scope) := by
  unfold release
  exact by_parts

@[simp] theorem keepsMem_storesBeforeLoads : KeepsMem (storesBeforeLoads) := by
  unfold storesBeforeLoads
  exact by_parts

@[simp] theorem keepsMem_acquire (scope) : KeepsMem (acquire scope) := by
  unfold acquire
  exact by_parts

@[simp] theorem keepsMem_fetchQuad (pa) : KeepsMem (fetchQuad pa) := by
  unfold fetchQuad
  exact by_parts

@[simp] theorem keepsMem_checkFetch (pc) : KeepsMem (checkFetch pc) := by
  unfold checkFetch
  exact by_parts

@[simp] theorem keepsMem_fetchAt (pc) : KeepsMem (fetchAt pc) := by
  unfold fetchAt
  exact by_parts

@[simp] theorem keepsMem_fetchNext (last pc) : KeepsMem (fetchNext last pc) := by
  unfold fetchNext
  exact by_parts

/-! ### Flags, operands and CSRs (R89, R93 to R97) -/

@[simp] theorem keepsMem_raiseFlags (flags nanc) : KeepsMem (raiseFlags flags nanc) := by
  unfold raiseFlags
  exact by_parts

@[simp] theorem keepsMem_issueTrap (cause word) : KeepsMem (issueTrap cause word : M α) := by
  unfold issueTrap
  exact by_parts

@[simp] theorem keepsMem_needRuntime (word) : KeepsMem (needRuntime word) := by
  unfold needRuntime
  exact by_parts

@[simp] theorem keepsMem_passTime (n) : KeepsMem (passTime n) := by
  unfold passTime
  exact by_parts

@[simp] theorem keepsMem_csrOp (op c a d) : KeepsMem (csrOp op c a d) := by
  unfold csrOp
  exact by_parts

@[simp] theorem endsOk_execCxch (c a d s) (hs : memWf s.mem = true) : EndsOk (execCxch c a d s) := by
  unfold execCxch
  exact by_parts

@[simp] theorem endsOk_execCsetb (c a d s) (hs : memWf s.mem = true) : EndsOk (execCsetb c a d s) := by
  unfold execCsetb
  exact by_parts

@[simp] theorem endsOk_execCclrb (c a d s) (hs : memWf s.mem = true) : EndsOk (execCclrb c a d s) := by
  unfold execCclrb
  exact by_parts

@[simp] theorem endsOk_execCread (c d s) (hs : memWf s.mem = true) : EndsOk (execCread c d s) := by
  unfold execCread
  exact by_parts

/-! ### Vector memory and CACHE (R195 to R212) -/

@[simp] theorem keepsMem_loadBits (b va bit wm rq) : KeepsMem (loadBits b va bit wm rq) := by
  unfold loadBits
  exact by_parts

@[simp] theorem keepsMem_storeBits (b va bit wm v skip full rq nt packet) :
    KeepsMem (storeBits b va bit wm v skip full rq nt packet) := by
  unfold storeBits
  exact by_parts

@[simp] theorem keepsMem_loadElem (addr wm rq d b j) : KeepsMem (loadElem addr wm rq d b j) := by
  unfold loadElem
  exact by_parts

@[simp] theorem keepsMem_storeElem (m sp addr scatter packets wm rq nt d b j) :
    KeepsMem (storeElem m sp addr scatter packets wm rq nt d b j) := by
  unfold storeElem
  exact by_parts

@[simp] theorem keepsMem_clearFilled (b n vas) : KeepsMem (clearFilled b n vas) := by
  unfold clearFilled
  exact by_parts

@[simp] theorem keepsMem_clearSpan (m wm sp addr) : KeepsMem (clearSpan m wm sp addr) := by
  unfold clearSpan
  exact by_parts

@[simp] theorem memberOk_loadMember (bad width addr n w rq m d) : MemberOk (loadMember bad width addr n w rq m d) := by
  unfold loadMember
  exact by_parts

@[simp] theorem memberOk_storeMember (bad width addr scatter packets n w rq m d) :
    MemberOk (storeMember bad width addr scatter packets n w rq m d) := by
  unfold storeMember
  exact by_parts

@[simp] theorem memberOk_vldAt (base n r w m x d) : MemberOk (vldAt base n r w m x d) := by
  unfold vldAt
  exact by_parts

@[simp] theorem memberOk_vstAt (base n r w m x d) : MemberOk (vstAt base n r w m x d) := by
  unfold vstAt
  exact by_parts

@[simp] theorem memberOk_memberVld (n r w m x a d) : MemberOk (memberVld n r w m x a d) := by
  unfold memberVld
  exact by_parts

@[simp] theorem memberOk_memberVst (n r w m x a d) : MemberOk (memberVst n r w m x a d) := by
  unfold memberVst
  exact by_parts

@[simp] theorem memberOk_memberVlds (n r w m x a d) : MemberOk (memberVlds n r w m x a d) := by
  unfold memberVlds
  exact by_parts

@[simp] theorem memberOk_memberVsts (n r w m x a d) : MemberOk (memberVsts n r w m x a d) := by
  unfold memberVsts
  exact by_parts

@[simp] theorem memberOk_memberVldx (n r w m x a d) : MemberOk (memberVldx n r w m x a d) := by
  unfold memberVldx
  exact by_parts

@[simp] theorem memberOk_memberVstx (n r w m x a d) : MemberOk (memberVstx n r w m x a d) := by
  unfold memberVstx
  exact by_parts

@[simp] theorem memberOk_memberVlseg (n r w m x a d) : MemberOk (memberVlseg n r w m x a d) := by
  unfold memberVlseg
  exact by_parts

@[simp] theorem memberOk_memberVsseg (n r w m x a d) : MemberOk (memberVsseg n r w m x a d) := by
  unfold memberVsseg
  exact by_parts

@[simp] theorem keepsMem_sliceOffset (a x wm b j) : KeepsMem (sliceOffset a x wm b j) := by
  unfold sliceOffset
  exact by_parts

@[simp] theorem memberOk_memberLsld (w m x a d) : MemberOk (memberLsld w m x a d) := by
  unfold memberLsld
  exact by_parts

@[simp] theorem memberOk_memberLsst (w m x a d) : MemberOk (memberLsst w m x a d) := by
  unfold memberLsst
  exact by_parts

@[simp] theorem keepsMem_checkHeader (sa acc) : KeepsMem (checkHeader sa acc) := by
  unfold checkHeader
  exact by_parts

@[simp] theorem memberOk_memberVspl (a d) : MemberOk (memberVspl a d) := by
  unfold memberVspl
  exact by_parts

@[simp] theorem memberOk_memberVfil (a d) : MemberOk (memberVfil a d) := by
  unfold memberVfil
  exact by_parts

@[simp] theorem dropLine_wf (bays line s) (hs : memWf s.mem = true) : memWf (dropLine bays line s).mem = true := by
  unfold dropLine
  exact by_parts

@[simp] theorem keepsMem_revertBay (line n) : KeepsMem (revertBay line n) := by
  unfold revertBay
  exact by_parts

@[simp] theorem keepsMem_revertBays (line a) : KeepsMem (revertBays line a) := by
  fun_induction revertBays line a <;> exact by_parts

@[simp] theorem keepsMem_discardLine (bays line) : KeepsMem (discardLine bays line) := by
  unfold discardLine
  exact by_parts

@[simp] theorem keepsMem_cacheXlat (f va) : KeepsMem (cacheXlat f va) := by
  unfold cacheXlat
  exact by_parts

@[simp] theorem keepsMem_cacheLine (f va) : KeepsMem (cacheLine f va) := by
  unfold cacheLine
  exact by_parts

@[simp] theorem keepsMem_cacheRange (f a b) : KeepsMem (cacheRange f a b) := by
  unfold cacheRange
  exact by_parts

@[simp] theorem memberOk_memberCwb (b a) : MemberOk (memberCwb b a) := by
  unfold memberCwb
  exact by_parts

@[simp] theorem memberOk_memberCinv (b a) : MemberOk (memberCinv b a) := by
  unfold memberCinv
  exact by_parts

@[simp] theorem memberOk_memberCflush (b a) : MemberOk (memberCflush b a) := by
  unfold memberCflush
  exact by_parts

@[simp] theorem memberOk_memberPref (b a) : MemberOk (memberPref b a) := by
  unfold memberPref
  exact by_parts

@[simp] theorem clearWay_wf (s n w) (hs : memWf s.mem = true) : memWf (clearWay s n w).mem = true := by
  unfold clearWay
  exact by_parts

@[simp] theorem changeWays_wf (conv mask s bl) (hs : memWf s.mem = true) : memWf (changeWays conv mask s bl).mem = true := by
  unfold changeWays
  exact by_parts

@[simp] theorem keepsMem_waysRun (conv a) : KeepsMem (waysRun conv a) := by
  unfold waysRun
  exact by_parts

@[simp] theorem memberOk_memberWayconv (a) : MemberOk (memberWayconv a) := by
  unfold memberWayconv
  exact by_parts

@[simp] theorem memberOk_memberWayrest (a) : MemberOk (memberWayrest a) := by
  unfold memberWayrest
  exact by_parts

@[simp] theorem memberOk_memberCflushall : MemberOk (memberCflushall) := by
  unfold memberCflushall
  exact by_parts

@[simp] theorem memberOk_memberLvcinv : MemberOk (memberLvcinv) := by
  unfold memberLvcinv
  exact by_parts

/-! ### Atomics (R277 to R288) -/

@[simp] theorem keepsMem_myRegion (va) : KeepsMem (myRegion va) := by
  unfold myRegion
  exact by_parts

@[simp] theorem keepsMem_atomicServed (vector va n ps) : KeepsMem (atomicServed vector va n ps) := by
  unfold atomicServed
  exact by_parts

@[simp] theorem keepsMem_checkAtomic (vector b va n hostOk) : KeepsMem (checkAtomic vector b va n hostOk) := by
  unfold checkAtomic
  exact by_parts

@[simp] theorem keepsMem_performAtomic (b va op w64 vector done pages operand expected) :
    KeepsMem (performAtomic b va op w64 vector done pages operand expected) := by
  unfold performAtomic
  exact by_parts

@[simp] theorem keepsMem_amo (op o w b a d) : KeepsMem (amo op o w b a d) := by
  unfold amo
  exact by_parts

@[simp] theorem endsOk_execAmoadd (o w b a d s) (hs : memWf s.mem = true) : EndsOk (execAmoadd o w b a d s) := by
  unfold execAmoadd
  exact by_parts

@[simp] theorem endsOk_execAmoand (o w b a d s) (hs : memWf s.mem = true) : EndsOk (execAmoand o w b a d s) := by
  unfold execAmoand
  exact by_parts

@[simp] theorem endsOk_execAmoor (o w b a d s) (hs : memWf s.mem = true) : EndsOk (execAmoor o w b a d s) := by
  unfold execAmoor
  exact by_parts

@[simp] theorem endsOk_execAmoxor (o w b a d s) (hs : memWf s.mem = true) : EndsOk (execAmoxor o w b a d s) := by
  unfold execAmoxor
  exact by_parts

@[simp] theorem endsOk_execAmomin (o w b a d s) (hs : memWf s.mem = true) : EndsOk (execAmomin o w b a d s) := by
  unfold execAmomin
  exact by_parts

@[simp] theorem endsOk_execAmomax (o w b a d s) (hs : memWf s.mem = true) : EndsOk (execAmomax o w b a d s) := by
  unfold execAmomax
  exact by_parts

@[simp] theorem endsOk_execAmominu (o w b a d s) (hs : memWf s.mem = true) : EndsOk (execAmominu o w b a d s) := by
  unfold execAmominu
  exact by_parts

@[simp] theorem endsOk_execAmomaxu (o w b a d s) (hs : memWf s.mem = true) : EndsOk (execAmomaxu o w b a d s) := by
  unfold execAmomaxu
  exact by_parts

@[simp] theorem endsOk_execAmoswap (o w b a d s) (hs : memWf s.mem = true) : EndsOk (execAmoswap o w b a d s) := by
  unfold execAmoswap
  exact by_parts

@[simp] theorem endsOk_execAmocas (o w b a d s) (hs : memWf s.mem = true) : EndsOk (execAmocas o w b a d s) := by
  unfold execAmocas
  exact by_parts

@[simp] theorem endsOk_execAmofadd (o w b a d s) (hs : memWf s.mem = true) : EndsOk (execAmofadd o w b a d s) := by
  unfold execAmofadd
  exact by_parts

@[simp] theorem keepsMem_vamoCheck (f group b j) : KeepsMem (vamoCheck f group b j) := by
  unfold vamoCheck
  exact by_parts

@[simp] theorem keepsMem_vamoCheckRun (f group b x y) : KeepsMem (vamoCheckRun f group b x y) := by
  fun_induction vamoCheckRun f group b x y <;> exact by_parts

@[simp] theorem keepsMem_vamoCheckSpan (f sp x y) : KeepsMem (vamoCheckSpan f sp x y) := by
  fun_induction vamoCheckSpan f sp x y <;> exact by_parts

@[simp] theorem keepsMem_vamoCheckAll (f a) : KeepsMem (vamoCheckAll f a) := by
  fun_induction vamoCheckAll f a <;> exact by_parts

@[simp] theorem keepsMem_vamoPlaces (f a) : KeepsMem (vamoPlaces f a) := by
  fun_induction vamoPlaces f a <;> exact by_parts

@[simp] theorem keepsMem_vamoRetire (f a) : KeepsMem (vamoRetire f a) := by
  fun_induction vamoRetire f a <;> exact by_parts

@[simp] theorem keepsMem_vamoPositions (f es x y) : KeepsMem (vamoPositions f es x y) := by
  fun_induction vamoPositions f es x y <;> exact by_parts

@[simp] theorem keepsMem_vamoBelow (f es stop x y) : KeepsMem (vamoBelow f es stop x y) := by
  fun_induction vamoBelow f es stop x y <;> exact by_parts

@[simp] theorem keepsMem_vamoPerform (f spans) : KeepsMem (vamoPerform f spans) := by
  unfold vamoPerform
  exact by_parts

@[simp] theorem memberOk_vamoMember (op w r m i a d) : MemberOk (vamoMember op w r m i a d) where
  run sp := keepsMem_bind (keepsMem_vamoPerform ..) fun x => by
    cases x.stop with
    | some e => exact keepsMem_throw e
    | none => exact keepsMem_modStrand _
  keep {pre err} hp _ := by
    change memWf (rollback pre err).mem = true
    rwa [rollback_mem]
  amo h := by
    cases h
    exact keepsMem_vamoPerform _

@[simp] theorem endsOk_execVamoPrepare (place requester op w64 elems s) (hs : memWf s.mem = true) :
    EndsOk (execVamoPrepare place requester op w64 elems s) := by
  unfold execVamoPrepare
  exact by_parts

@[simp] theorem performPrepared_wf (op w64 s x) (hs : memWf s.mem = true) :
    memWf (performPrepared op w64 s x).mem = true := by
  unfold performPrepared
  exact by_parts

@[simp] theorem endsOk_execVamoPerform (place requester go s) (hs : memWf s.mem = true) :
    EndsOk (execVamoPerform place requester go s) := by
  unfold execVamoPerform
  exact by_parts

/-! ### Slack regions (R289 to R301) -/

@[simp] theorem modRegion_mem (s k f) : (modRegion s k f).mem = s.mem := rfl

@[simp] theorem modHolder_mem (s k bay f) : (modHolder s k bay f).mem = s.mem := rfl

@[simp] theorem drainHolder_wf (s k bay) (hs : memWf s.mem = true) : memWf (drainHolder s k bay).mem = true := by
  unfold drainHolder
  exact by_parts

@[simp] theorem returnShare_wf (s k bay) (hs : memWf s.mem = true) : memWf (returnShare s k bay).mem = true := by
  unfold returnShare
  exact by_parts

@[simp] theorem drawAll_wf (s k ret) (hs : memWf s.mem = true) : memWf (drawAll s k ret).mem = true := by
  unfold drawAll
  exact by_parts

@[simp] theorem giveBack_wf (s bay) (hs : memWf s.mem = true) : memWf (giveBack s bay).mem = true := by
  unfold giveBack
  exact by_parts

@[simp] theorem useRecord_wf (s k bay) (hs : memWf s.mem = true) : memWf (useRecord s k bay).mem = true := by
  unfold useRecord
  exact by_parts

@[simp] theorem growAt_wf (s k bay ask) (hs : memWf s.mem = true) : memWf (growAt s k bay ask).1.mem = true := by
  unfold growAt
  exact by_parts

@[simp] theorem addHome_wf (s e) (hs : memWf s.mem = true) : memWf (addHome s e).mem = true := by
  unfold addHome
  exact by_parts

/-- Whatever a line's additions meet at the holder (R293), each state on the way is canonical. -/
@[simp] theorem slackLine_wf (s bay es) (hs : memWf s.mem = true) : memWf (slackLine s bay es).mem = true := by
  unfold slackLine
  split
  · exact hs
  · extract_lets es k s1 r aL mL need share ask grown s2 drained s3 need'
    have h1 : memWf s1.mem = true := useRecord_wf _ _ _ hs
    have h2 : memWf s2.mem = true := by
      unfold s2
      split
      · have hg : memWf grown.1.mem = true := growAt_wf s1 k bay _ h1
        exact hg
      · exact h1
    have h3 : memWf s3.mem = true := by
      unfold s3
      split
      · exact drainHolder_wf _ _ _ h2
      · exact h2
    clear_value s3
    split
    · exact foldl_wf (fun _ _ => addHome_wf _ _) _ hs
    · split
      · exact h3
      · exact foldl_wf (fun _ _ => addHome_wf _ _) _ h3

@[simp] theorem slackLines_wf (s bay es) (hs : memWf s.mem = true) : memWf (slackLines s bay es).mem = true := by
  unfold slackLines
  exact by_parts

@[simp] theorem keepsMem_slackCheck (b va value) : KeepsMem (slackCheck b va value) := by
  unfold slackCheck
  exact by_parts

@[simp] theorem keepsMem_slackCheckRun (addr m d b x y) : KeepsMem (slackCheckRun addr m d b x y) := by
  fun_induction slackCheckRun addr m d b x y <;> exact by_parts

@[simp] theorem keepsMem_slackCheckSpan (addr m d sp x y) : KeepsMem (slackCheckSpan addr m d sp x y) := by
  fun_induction slackCheckSpan addr m d sp x y <;> exact by_parts

@[simp] theorem keepsMem_slackRetire (b a) : KeepsMem (slackRetire b a) := by
  fun_induction slackRetire b a <;> exact by_parts

@[simp] theorem keepsMem_slackPerform (a) : KeepsMem (slackPerform a) := by
  fun_induction slackPerform a <;> exact by_parts

@[simp] theorem memberOk_slackMember (bad addr m d reads) : MemberOk (slackMember bad addr m d reads) := by
  unfold slackMember
  exact by_parts

@[simp] theorem memberOk_memberSlkadd (m a d) : MemberOk (memberSlkadd m a d) := by
  unfold memberSlkadd
  exact by_parts

@[simp] theorem memberOk_memberSlkaddx (m i a d) : MemberOk (memberSlkaddx m i a d) := by
  unfold memberSlkaddx
  exact by_parts

@[simp] theorem drawUntil_wf (k eps) : ∀ (l : List Holder) {s :
    State}, memWf s.mem = true → memWf (drawUntil k eps l s).mem = true
  | [], _, hs => hs
  | _ :: t, _, hs => by
    unfold drawUntil
    split
    · exact hs
    · exact drawUntil_wf k eps t (drainHolder_wf _ _ _ hs)

@[simp] theorem keepsMem_tolerate (k eps pa) : KeepsMem (tolerate k eps pa) := by
  unfold tolerate
  exact by_parts

@[simp] theorem keepsMem_ldtolElem (a x d b j) : KeepsMem (ldtolElem a x d b j) := by
  unfold ldtolElem
  exact by_parts

@[simp] theorem memberOk_memberLdtol (m x a d) : MemberOk (memberLdtol m x a d) := by
  unfold memberLdtol
  exact by_parts

@[simp] theorem keepsMem_slackPage (va) : KeepsMem (slackPage va) := by
  unfold slackPage
  exact by_parts

@[simp] theorem keepsMem_slackPages (x y) : KeepsMem (slackPages x y) := by
  fun_induction slackPages x y <;> exact by_parts

@[simp] theorem addRegion_mem (s r) : (addRegion s r).mem = s.mem := by
  unfold addRegion
  split <;> rfl

@[simp] theorem keepsMem_defineRegion (x) : KeepsMem (defineRegion x) := by
  unfold defineRegion
  exact by_parts

@[simp] theorem endsOk_execSlkdef (a d s) (hs : memWf s.mem = true) : EndsOk (execSlkdef a d s) := by
  unfold execSlkdef
  exact by_parts

@[simp] theorem keepsMem_namedRegion (va) : KeepsMem (namedRegion va) := by
  unfold namedRegion
  exact by_parts

@[simp] theorem endsOk_execSlkdraw (a s) (hs : memWf s.mem = true) : EndsOk (execSlkdraw a s) := by
  unfold execSlkdraw
  exact by_parts

@[simp] theorem endsOk_execSlkqry (b a d s) (hs : memWf s.mem = true) : EndsOk (execSlkqry b a d s) := by
  unfold execSlkqry
  exact by_parts

@[simp] theorem endsOk_execSlkrel (a s) (hs : memWf s.mem = true) : EndsOk (execSlkrel a s) := by
  unfold execSlkrel
  exact by_parts

@[simp] theorem endsOk_execGrow (region bay ask s) (hs : memWf s.mem = true) : EndsOk (execGrow region bay ask s) := by
  unfold execGrow
  exact by_parts

@[simp] theorem endsOk_execGrant (region bay s) (hs : memWf s.mem = true) : EndsOk (execGrant region bay s) := by
  unfold execGrant
  exact by_parts

@[simp] theorem endsOk_execDrain (bay line s) (hs : memWf s.mem = true) : EndsOk (execDrain bay line s) := by
  unfold execDrain
  exact by_parts

@[simp] theorem afterEviction_mem (s k bay) : (afterEviction s k bay).mem = s.mem := by
  unfold afterEviction
  split <;> rfl

@[simp] theorem endsOk_execDack (bay line s) (hs : memWf s.mem = true) : EndsOk (execDack bay line s) := by
  unfold execDack
  exact by_parts

@[simp] theorem endsOk_execDraw (region bay ret s) (hs : memWf s.mem = true) : EndsOk (execDraw region bay ret s) := by
  unfold execDraw
  exact by_parts

@[simp] theorem takeReturn_wf (s k bay h) (hs : memWf s.mem = true) : memWf (takeReturn s k bay h).mem = true := by
  unfold takeReturn
  exact by_parts

@[simp] theorem endsOk_execDrawn (region bay s) (hs : memWf s.mem = true) : EndsOk (execDrawn region bay s) := by
  unfold execDrawn
  exact by_parts

@[simp] theorem endsOk_execLinedraw (bay line s) (hs : memWf s.mem = true) : EndsOk (execLinedraw bay line s) := by
  unfold execLinedraw
  exact by_parts

@[simp] theorem endsOk_execRet (region bay s) (hs : memWf s.mem = true) : EndsOk (execRet region bay s) := by
  unfold execRet
  exact by_parts

@[simp] theorem endsOk_execTolq (region strand epsUnits s) (hs : memWf s.mem = true) :
    EndsOk (execTolq region strand epsUnits s) := by
  unfold execTolq
  exact by_parts

@[simp] theorem endsOk_execTolgo (strand s) (hs : memWf s.mem = true) : EndsOk (execTolgo strand s) := by
  unfold execTolgo
  exact by_parts

/-! ### Vector control (R108 to R110, R121 to R126) -/

@[simp] theorem detachBays_wf (s bls) (hs : memWf s.mem = true) : memWf (detachBays s bls).mem = true := by
  unfold detachBays
  exact by_parts

@[simp] theorem keepsMem_setvl (word t a d) : KeepsMem (setvl word t a d) := by
  unfold setvl
  exact by_parts

@[simp] theorem endsOk_execSetvl (t a d s) (hs : memWf s.mem = true) : EndsOk (execSetvl t a d s) := by
  unfold execSetvl
  exact by_parts

@[simp] theorem endsOk_execSetvlr (b a d s) (hs : memWf s.mem = true) : EndsOk (execSetvlr b a d s) := by
  unfold execSetvlr
  exact by_parts

@[simp] theorem keepsMem_pushFrag (f) : KeepsMem (pushFrag f) := by
  unfold pushFrag
  exact by_parts

@[simp] theorem keepsMem_popFrag : KeepsMem (popFrag) := by
  unfold popFrag
  exact by_parts

@[simp] theorem keepsMem_setActive (masks) : KeepsMem (setActive masks) := by
  unfold setActive
  exact by_parts

@[simp] theorem endsOk_execVsplit (o c s) (hs : memWf s.mem = true) : EndsOk (execVsplit o c s) := by
  unfold execVsplit
  exact by_parts

@[simp] theorem endsOk_execVjoin (s) (hs : memWf s.mem = true) : EndsOk (execVjoin s) := by
  unfold execVjoin
  exact by_parts

@[simp] theorem endsOk_execVbnone (o c s) (hs : memWf s.mem = true) : EndsOk (execVbnone o c s) := by
  unfold execVbnone
  exact by_parts

/-! ### Fibres (R219 to R247) -/

@[simp] theorem keepsMem_getFibre (n) : KeepsMem (getFibre n) := by
  unfold getFibre
  exact by_parts

@[simp] theorem keepsMem_setFibre (n f) : KeepsMem (setFibre n f) := by
  unfold setFibre
  exact by_parts

@[simp] theorem keepsMem_setFst (bit v) : KeepsMem (setFst bit v) := by
  unfold setFst
  exact by_parts

@[simp] theorem keepsMem_setMore (v) : KeepsMem (setMore v) := by
  unfold setMore
  exact by_parts

@[simp] theorem keepsMem_wordIllop (word) : KeepsMem (wordIllop word : M α) := by
  unfold wordIllop
  exact by_parts

@[simp] theorem keepsMem_checkProg (word) : KeepsMem (checkProg word) := by
  unfold checkProg
  exact by_parts

@[simp] theorem keepsMem_restartable (word d kind unsorted pass) : KeepsMem (restartable word d kind unsorted pass) := by
  unfold restartable
  exact by_parts

@[simp] theorem keepsMem_setRun (f word c b a d) : KeepsMem (setRun f word c b a d) := by
  unfold setRun
  exact by_parts

@[simp] theorem memberOk_memberFisect (c b a d) : MemberOk (memberFisect c b a d) := by
  unfold memberFisect
  exact by_parts

@[simp] theorem memberOk_memberFunion (c b a d) : MemberOk (memberFunion c b a d) := by
  unfold memberFunion
  exact by_parts

@[simp] theorem memberOk_memberFmerge (c b a d) : MemberOk (memberFmerge c b a d) := by
  unfold memberFmerge
  exact by_parts

@[simp] theorem memberOk_memberFsort (c a d) : MemberOk (memberFsort c a d) := by
  unfold memberFsort
  exact by_parts

@[simp] theorem memberOk_memberFcompact (x a d) : MemberOk (memberFcompact x a d) := by
  unfold memberFcompact
  exact by_parts

@[simp] theorem keepsMem_keepLevel (bay values pa xs) : KeepsMem (keepLevel bay values pa xs) := by
  unfold keepLevel
  exact by_parts

@[simp] theorem keepsMem_levelRead (va n values x) : KeepsMem (levelRead va n values x) := by
  unfold levelRead
  exact by_parts

@[simp] theorem keepsMem_levelLoad (va n values) : KeepsMem (levelLoad va n values) := by
  unfold levelLoad
  exact by_parts

@[simp] theorem keepsMem_readDesc (a) : KeepsMem (readDesc a) := by
  unfold readDesc
  exact by_parts

@[simp] theorem keepsMem_levelBounds (d p) : KeepsMem (levelBounds d p) := by
  unfold levelBounds
  exact by_parts

@[simp] theorem keepsMem_levelValue (d k e) : KeepsMem (levelValue d k e) := by
  unfold levelValue
  exact by_parts

@[simp] theorem keepsMem_levelPairs (d k p hi tag x y) : KeepsMem (levelPairs d k p hi tag x y) := by
  fun_induction levelPairs d k p hi tag x y <;> exact by_parts

@[simp] theorem memberOk_memberFldl (k x d) : MemberOk (memberFldl k x d) := by
  unfold memberFldl
  exact by_parts

@[simp] theorem memberOk_memberFpref (x) : MemberOk (memberFpref x) := by
  unfold memberFpref
  exact by_parts

@[simp] theorem keepsMem_prefetchParent (d p) : KeepsMem (prefetchParent d p) := by
  unfold prefetchParent
  exact by_parts

@[simp] theorem keepsMem_streamFetch (q) : KeepsMem (streamFetch q) := by
  unfold streamFetch
  exact by_parts

@[simp] theorem endsOk_execFprefStreamFetch (strand s) (hs : memWf s.mem = true) :
    EndsOk (execFprefStreamFetch strand s) := by
  unfold execFprefStreamFetch
  exact by_parts

@[simp] theorem memberOk_memberFpack (x d) : MemberOk (memberFpack x d) := by
  unfold memberFpack
  exact by_parts

@[simp] theorem memberOk_memberFexpand (k x a) : MemberOk (memberFexpand k x a) := by
  unfold memberFexpand
  exact by_parts

@[simp] theorem memberOk_memberFgather (k x a d) : MemberOk (memberFgather k x a d) := by
  unfold memberFgather
  exact by_parts

@[simp] theorem memberOk_memberFmapv (k x a d) : MemberOk (memberFmapv k x a d) := by
  unfold memberFmapv
  exact by_parts

@[simp] theorem memberOk_memberFcoord (x a) : MemberOk (memberFcoord x a) := by
  unfold memberFcoord
  exact by_parts

@[simp] theorem memberOk_memberFvals (k x a) : MemberOk (memberFvals k x a) := by
  unfold memberFvals
  exact by_parts

@[simp] theorem memberOk_memberFlen (x a) : MemberOk (memberFlen x a) := by
  unfold memberFlen
  exact by_parts

@[simp] theorem memberOk_memberFsplit (x a d) : MemberOk (memberFsplit x a d) := by
  unfold memberFsplit
  exact by_parts

@[simp] theorem memberOk_memberFclr (d) : MemberOk (memberFclr d) := by
  unfold memberFclr
  exact by_parts

@[simp] theorem memberOk_memberFcombine (c a d) : MemberOk (memberFcombine c a d) := by
  unfold memberFcombine
  exact by_parts

@[simp] theorem keepsMem_alignedStore (va n bs) : KeepsMem (alignedStore va n bs) := by
  unfold alignedStore
  exact by_parts

@[simp] theorem keepsMem_alignedLoad (va n len) : KeepsMem (alignedLoad va n len) := by
  unfold alignedLoad
  exact by_parts

@[simp] theorem keepsMem_storeRun (va n a) : KeepsMem (storeRun va n a) := by
  fun_induction storeRun va n a <;> exact by_parts

@[simp] theorem memberOk_memberFst (k x a) : MemberOk (memberFst k x a) := by
  unfold memberFst
  exact by_parts

@[simp] theorem keepsMem_recordPairs (base n k tag a) : KeepsMem (recordPairs base n k tag a) := by
  fun_induction recordPairs base n k tag a <;> exact by_parts

@[simp] theorem memberOk_memberFldf (k x d) : MemberOk (memberFldf k x d) := by
  unfold memberFldf
  exact by_parts

@[simp] theorem keepsMem_scatterPairs (base k a) : KeepsMem (scatterPairs base k a) := by
  fun_induction scatterPairs base k a <;> exact by_parts

@[simp] theorem memberOk_memberFscat (k x a) : MemberOk (memberFscat k x a) := by
  unfold memberFscat
  exact by_parts

@[simp] theorem keepsMem_deliver (k m) : KeepsMem (deliver k m) := by
  unfold deliver
  exact by_parts

@[simp] theorem withdraw_mem (k s) : (withdraw k s).mem = s.mem := rfl

@[simp] theorem keepsMem_grantSend (k m) : KeepsMem (grantSend k m) := by
  unfold grantSend
  exact by_parts

@[simp] theorem keepsMem_askToSend (k m rcv) : KeepsMem (askToSend k m rcv) := by
  unfold askToSend
  exact by_parts

@[simp] theorem keepRequest_mem (pre err) : (keepRequest pre err).mem = pre.mem := rollback_mem pre err

@[simp] theorem memberOk_memberFsend (x a) : MemberOk (memberFsend x a) := by
  unfold memberFsend
  exact by_parts

@[simp] theorem endsOk_execFsendReservationGrant (receiver s) (hs : memWf s.mem = true) :
    EndsOk (execFsendReservationGrant receiver s) := by
  unfold execFsendReservationGrant
  exact by_parts

@[simp] theorem endsOk_execFibreMessageArrival (receiver s) (hs : memWf s.mem = true) :
    EndsOk (execFibreMessageArrival receiver s) := by
  unfold execFibreMessageArrival
  exact by_parts

@[simp] theorem memberOk_memberFrecv (k c x a d) : MemberOk (memberFrecv k c x a d) := by
  unfold memberFrecv
  exact by_parts

/-! ### The truss (R249 to R276) -/

@[simp] theorem keepsMem_jigstate (j) : KeepsMem (jigstate j : M α) := by
  unfold jigstate
  exact by_parts

@[simp] theorem keepsMem_slotFree (j) : KeepsMem (slotFree j) := by
  unfold slotFree
  exact by_parts

@[simp] theorem keepsMem_needClaim (j) : KeepsMem (needClaim j) := by
  unfold needClaim
  exact by_parts

@[simp] theorem keepsMem_awaitMultiplies (p) : KeepsMem (awaitMultiplies p) := by
  unfold awaitMultiplies
  exact by_parts

@[simp] theorem keepsMem_acceptMultiply (x) : KeepsMem (acceptMultiply x) := by
  unfold acceptMultiply
  exact by_parts

@[simp] theorem endsOk_execMultiplyLastStep (strand s) (hs : memWf s.mem = true) :
    EndsOk (execMultiplyLastStep strand s) := by
  unfold execMultiplyLastStep
  exact by_parts

@[simp] theorem endsOk_execTileReady (strand s) (hs : memWf s.mem = true) : EndsOk (execTileReady strand s) := by
  unfold execTileReady
  exact by_parts

@[simp] theorem keepsMem_claimSlot (s j) : KeepsMem (claimSlot s j) := by
  unfold claimSlot
  exact by_parts

@[simp] theorem memberOk_memberJclm (s j) : MemberOk (memberJclm s j) := by
  unfold memberJclm
  exact by_parts

@[simp] theorem memberOk_memberJclmAny (s) : MemberOk (memberJclmAny s) := by
  unfold memberJclmAny
  exact by_parts

@[simp] theorem memberOk_memberJrel (j) : MemberOk (memberJrel j) := by
  unfold memberJrel
  exact by_parts

@[simp] theorem memberOk_memberJld (p c s v j) : MemberOk (memberJld p c s v j) := by
  unfold memberJld
  exact by_parts

@[simp] theorem keepsMem_rowBits (b va w x y) : KeepsMem (rowBits b va w x y) := by
  fun_induction rowBits b va w x y <;> exact by_parts

@[simp] theorem keepsMem_scaleBits (b x y) : KeepsMem (scaleBits b x y) := by
  fun_induction scaleBits b x y <;> exact by_parts

@[simp] theorem keepsMem_readRows (b a0 d sc w wc scaled a) : KeepsMem (readRows b a0 d sc w wc scaled a) := by
  fun_induction readRows b a0 d sc w wc scaled a <;> exact by_parts

@[simp] theorem keepsMem_fillBay (j jsh b rows) : KeepsMem (fillBay j jsh b rows) := by
  unfold fillBay
  exact by_parts

@[simp] theorem keepsMem_jfilRun (word s idx j) : KeepsMem (jfilRun word s idx j) := by
  unfold jfilRun
  exact by_parts

@[simp] theorem memberOk_memberJfil (s j) : MemberOk (memberJfil s j) := by
  unfold memberJfil
  exact by_parts

@[simp] theorem memberOk_memberJfilGather (s v j) : MemberOk (memberJfilGather s v j) := by
  unfold memberJfilGather
  exact by_parts

@[simp] theorem keepsMem_multiply (word f) : KeepsMem (multiply word f) := by
  unfold multiply
  exact by_parts

@[simp] theorem memberOk_memberTmma (z e b a t) : MemberOk (memberTmma z e b a t) := by
  unfold memberTmma
  exact by_parts

@[simp] theorem memberOk_memberTmms (z e n b a t) : MemberOk (memberTmms z e n b a t) := by
  unfold memberTmms
  exact by_parts

@[simp] theorem memberOk_memberTtrn (z e b a t) : MemberOk (memberTtrn z e b a t) := by
  unfold memberTtrn
  exact by_parts

@[simp] theorem memberOk_memberTmov (s v t) : MemberOk (memberTmov s v t) := by
  unfold memberTmov
  exact by_parts

@[simp] theorem memberOk_memberTzero (t) : MemberOk (memberTzero t) := by
  unfold memberTzero
  exact by_parts

@[simp] theorem memberOk_memberTstat (t d) : MemberOk (memberTstat t d) := by
  unfold memberTstat
  exact by_parts

@[simp] theorem memberOk_memberTwait : MemberOk (memberTwait) := by
  unfold memberTwait
  exact by_parts

/-! ### Engine commands: their accesses (R337 to R339) -/

@[simp] theorem keepsMem_engAsk (c pa) : KeepsMem (engAsk c pa) := by
  unfold engAsk
  exact by_parts

@[simp] theorem keepsMem_engSilent (c p) : KeepsMem (engSilent c p) := by
  unfold engSilent
  exact by_parts

@[simp] theorem keepsMem_engPage (c acc cmpOk va n) : KeepsMem (engPage c acc cmpOk va n) := by
  unfold engPage
  exact by_parts

@[simp] theorem keepsMem_readPieces (c cmpOk a) : KeepsMem (readPieces c cmpOk a) := by
  fun_induction readPieces c cmpOk a <;> exact by_parts

@[simp] theorem keepsMem_engRead (c cmpOk va n) : KeepsMem (engRead c cmpOk va n) := by
  unfold engRead
  exact by_parts

@[simp] theorem keepsMem_engUse (c cmpOk va n) : KeepsMem (engUse c cmpOk va n) := by
  unfold engUse
  exact by_parts

@[simp] theorem keepsMem_engValue (c va n) : KeepsMem (engValue c va n) := by
  unfold engValue
  exact by_parts

@[simp] theorem keepsMem_writePages (c cmpOk a) : KeepsMem (writePages c cmpOk a) := by
  fun_induction writePages c cmpOk a <;> exact by_parts

@[simp] theorem engStore_wf (s pa bs) (hs : memWf s.mem = true) : memWf (engStore s pa bs).mem = true := by
  unfold engStore
  exact by_parts

@[simp] theorem storePieces_wf : ∀ (s ps bs), memWf s.mem = true → memWf (storePieces s ps bs).mem = true
  | _, [], _, hs => hs
  | s, (pa, n) :: t, bs, hs => storePieces_wf _ t _ (engStore_wf s pa (bs.take n) hs)

@[simp] theorem keepsMem_engWrite (c cmpOk va bs) : KeepsMem (engWrite c cmpOk va bs) := by
  unfold engWrite
  exact by_parts

/-! ### The units of the copy engines (R341 to R347) -/

@[simp] theorem keepsMem_xcopyUnit (c) : KeepsMem (xcopyUnit c) := by
  unfold xcopyUnit
  exact by_parts

@[simp] theorem keepsMem_engIndex (c p) : KeepsMem (engIndex c p) := by
  unfold engIndex
  exact by_parts

@[simp] theorem keepsMem_xgatherUnit (c) : KeepsMem (xgatherUnit c) := by
  unfold xgatherUnit
  exact by_parts

@[simp] theorem keepsMem_poolElem (c e) : ∀ n p acc, KeepsMem (poolElem c e n p acc)
  | 0, _, _ => keepsMem_pure _
  | n + 1, p, acc => by
    have ih := keepsMem_poolElem c e n (p + 1)
    unfold poolElem
    exact by_parts

@[simp] theorem keepsMem_poolRow (c p0 n x y) : KeepsMem (poolRow c p0 n x y) := by
  fun_induction poolRow c p0 n x y <;> exact by_parts

@[simp] theorem keepsMem_xpoolUnit (c) : KeepsMem (xpoolUnit c) := by
  unfold xpoolUnit
  exact by_parts

@[simp] theorem expandEmpty_mem (s c) : (expandEmpty s c).mem = s.mem := by
  unfold expandEmpty
  split <;> rfl

@[simp] theorem keepsMem_expandHeader (c) : KeepsMem (expandHeader c) := by
  unfold expandHeader
  exact by_parts

@[simp] theorem keepsMem_refill (c) : ∀ k x q, KeepsMem (refill c k x q)
  | 0, _, _ => keepsMem_pure _
  | k + 1, x, q => by
    have ih := keepsMem_refill c k
    have word (va) : KeepsMem (refill.engValue' c va) := keepsMem_bind (keepsMem_engUse ..) fun _ => keepsMem_pure _
    unfold refill
    exact by_parts

@[simp] theorem keepsMem_expandPut (c i v) : KeepsMem (expandPut c i v) := by
  unfold expandPut
  exact by_parts

@[simp] theorem keepsMem_xexpandUnit (c) : KeepsMem (xexpandUnit c) := by
  unfold xexpandUnit
  exact by_parts

@[simp] theorem keepsMem_sendChunk (c k) : KeepsMem (sendChunk c k) := by
  unfold sendChunk
  exact by_parts

@[simp] theorem keepsMem_putChunk (c k vs) : KeepsMem (putChunk c k vs) := by
  unfold putChunk
  exact by_parts

@[simp] theorem keepsMem_freeChunk (a) : KeepsMem (freeChunk a) := by
  fun_induction freeChunk a <;> exact by_parts

@[simp] theorem keepsMem_partnerChunk (c t) : KeepsMem (partnerChunk c t) := by
  unfold partnerChunk
  exact by_parts

@[simp] theorem keepsMem_xcollUnit (c) : KeepsMem (xcollUnit c) := by
  unfold xcollUnit
  exact by_parts

/-! ### XSWAP and XMIG (R399 to R401, R413 to R415) -/

@[simp] theorem drawPage_wf (s pick) (hs : memWf s.mem = true) : memWf (drawPage s pick).mem = true := by
  unfold drawPage
  exact by_parts

@[simp] theorem swapLine_wf (s r i) (hs : memWf s.mem = true) : memWf (swapLine s r i).mem = true := by
  unfold swapLine
  extract_lets a b drawn s' other bytesA bytesB
  have h : memWf s'.mem = true := drawPage_wf _ _ hs
  clear_value s' bytesA bytesB
  exact memWriteList_wf (memWriteList_wf h)

@[simp] theorem keepsMem_swapStart (c) : KeepsMem (swapStart c) := by
  unfold swapStart
  exact by_parts

@[simp] theorem keepsMem_swapRetire (c) : KeepsMem (swapRetire c) := by
  unfold swapRetire
  exact by_parts

@[simp] theorem keepsMem_xswapUnit (c) : KeepsMem (xswapUnit c) := by
  unfold xswapUnit
  exact by_parts

@[simp] theorem keepsMem_migStart (c) : KeepsMem (migStart c) := by
  unfold migStart
  exact by_parts

@[simp] theorem migFlip_wf (s c) (hs : memWf s.mem = true) : memWf (migFlip s c).mem = true := by
  unfold migFlip
  exact by_parts

@[simp] theorem migLine_wf (s r i) (hs : memWf s.mem = true) : memWf (migLine s r i).mem = true := by
  unfold migLine
  exact by_parts

theorem elim_wf {o : Option γ} {s : State} {f : γ → State} (hs : memWf s.mem = true) (hf : ∀ x, memWf (f x).mem = true) :
    memWf (o.elim s f).mem = true := by
  cases o with
  | none => exact hs
  | some x => exact hf x

@[simp] theorem keepsMem_xmigUnit (c) : KeepsMem (xmigUnit c) := by
  have line (s : State) (hs : memWf s.mem = true) :
      memWf ((s.migs.find? fun r => r.ticket == c.seq).elim s fun r => migLine s r c.done).mem = true :=
    elim_wf hs fun r => migLine_wf s r c.done hs
  unfold xmigUnit
  exact by_parts

@[simp] theorem migAbandon_wf (s c) (hs : memWf s.mem = true) : memWf (migAbandon s c).mem = true := by
  unfold migAbandon
  exact by_parts

/-! ### Requests and notices between packages (R410 to R418) -/

@[simp] theorem serveAtomic_wf (s pa op w64 operand expected) (hs : memWf s.mem = true) :
    memWf (serveAtomic s pa op w64 operand expected).mem = true := by
  unfold serveAtomic
  exact by_parts

@[simp] theorem servePeer_wf (s q) (hs : memWf s.mem = true) : memWf (servePeer s q).mem = true := by
  unfold servePeer
  exact by_parts

@[simp] theorem noteServed_mem (s source addr seq) : (noteServed s source addr seq).mem = s.mem := rfl

@[simp] theorem serveHeld_wf (s) (hs : memWf s.mem = true) : memWf (serveHeld s).mem = true := by
  unfold serveHeld
  exact by_parts

@[simp] theorem migRelease_wf (s c) (hs : memWf s.mem = true) : memWf (migRelease s c).mem = true := by
  unfold migRelease
  exact by_parts

@[simp] theorem endsOk_execPeerRequest (source seq addr asks forwarded mark s) (hs : memWf s.mem = true) :
    EndsOk (execPeerRequest source seq addr asks forwarded mark s) := by
  unfold execPeerRequest
  exact by_parts

@[simp] theorem endsOk_execOwn (name frame size s) (hs : memWf s.mem = true) : EndsOk (execOwn name frame size s) := by
  unfold execOwn
  exact by_parts

@[simp] theorem endsOk_execRetarget (name owner s) (hs : memWf s.mem = true) : EndsOk (execRetarget name owner s) := by
  unfold execRetarget
  exact by_parts

@[simp] theorem endsOk_execOwner (name owner source s) (hs : memWf s.mem = true) :
    EndsOk (execOwner name owner source s) := by
  unfold execOwner
  exact by_parts

@[simp] theorem endsOk_execOwnerAck (name package s) (hs : memWf s.mem = true) : EndsOk (execOwnerAck name package s) := by
  unfold execOwnerAck
  exact by_parts

@[simp] theorem endsOk_execStubTimeout (name s) (hs : memWf s.mem = true) : EndsOk (execStubTimeout name s) := by
  unfold execStubTimeout
  exact by_parts

@[simp] theorem endsOk_execRedirect (name owner s) (hs : memWf s.mem = true) : EndsOk (execRedirect name owner s) := by
  unfold execRedirect
  exact by_parts

@[simp] theorem keepsMem_freeMember : KeepsMem (freeMember) := by
  unfold freeMember
  exact by_parts

@[simp] theorem endsOk_execPeerRequestTimeout (request s) (hs : memWf s.mem = true) :
    EndsOk (execPeerRequestTimeout request s) := by
  unfold execPeerRequestTimeout
  exact by_parts

@[simp] theorem endsOk_execPeerRetryResend (request s) (hs : memWf s.mem = true) :
    EndsOk (execPeerRetryResend request s) := by
  unfold execPeerRetryResend
  exact by_parts

/-! ### XSEAL, counters and leases (R419 to R425) -/

@[simp] theorem keepsMem_sealQuiesce (c) : KeepsMem (sealQuiesce c) := by
  unfold sealQuiesce
  refine keepsMem_get_bind fun s hs => ?_
  have held (bs : List (Nat × Bent)) : memWf (bs.foldl (fun (s : State) x =>
      { s with bents := s.bents.modify x.1 fun b => { b with held := true } }) s).mem = true := by exact by_parts
  exact by_parts

theorem advanceCounter_mem {s s' : State} {i m v} (h : advanceCounter s i m = some (v, s')) : s'.mem = s.mem := by
  unfold advanceCounter at h
  split at h
  · cases h
  · split at h <;> cases h
    rfl

@[simp] theorem keepsMem_sealCount (c) : KeepsMem (sealCount c) := by
  have advanced (s : State) (m : Nat) (hs : memWf s.mem = true) :
      memWf ((advanceCounter s (sealIndex c) m).elim s (·.2)).mem = true := by
    cases e : advanceCounter s (sealIndex c) m with
    | none => exact hs
    | some x => exact advanceCounter_mem e ▸ hs
  unfold sealCount
  exact by_parts

@[simp] theorem keepsMem_sealChunk (c) : KeepsMem (sealChunk c) := by
  unfold sealChunk
  exact by_parts

@[simp] theorem keepsMem_sealTarget (c) : KeepsMem (sealTarget c) := by
  unfold sealTarget
  exact by_parts

@[simp] theorem keepsMem_sealHeader (c) : KeepsMem (sealHeader c) := by
  unfold sealHeader
  exact by_parts

@[simp] theorem keepsMem_imageHeader (c) : KeepsMem (imageHeader c) := by
  unfold imageHeader
  exact by_parts

@[simp] theorem keepsMem_takeLease (c h) : KeepsMem (takeLease c h) := by
  unfold takeLease
  exact by_parts

@[simp] theorem keepsMem_restoreStart (c) : KeepsMem (restoreStart c) := by
  unfold restoreStart
  exact by_parts

@[simp] theorem keepsMem_restoreUnwrap (c) : KeepsMem (restoreUnwrap c) := by
  unfold restoreUnwrap
  exact by_parts

@[simp] theorem keepsMem_restoreChunk (c) : KeepsMem (restoreChunk c) := by
  unfold restoreChunk
  exact by_parts

@[simp] theorem restoreEnd_mem (s c) : (restoreEnd s c).mem = s.mem := by
  unfold restoreEnd
  dsimp only
  split <;> rfl

@[simp] theorem restoreBent_wf (w rid s x) (hs : memWf s.mem = true) : memWf (restoreBent w rid s x).mem = true := by
  unfold restoreBent
  exact by_parts

@[simp] theorem restoreRaising_wf (w vf s x) (hs : memWf s.mem = true) : memWf (restoreRaising w vf s x).mem = true := by
  unfold restoreRaising
  exact by_parts

@[simp] theorem keepsMem_xsealUnit (c) : KeepsMem (xsealUnit c) := by
  unfold xsealUnit
  exact by_parts

@[simp] theorem sealAbandon_mem (s c) : (sealAbandon s c).mem = s.mem := by
  unfold sealAbandon
  split <;> rfl

@[simp] theorem endsOk_execCounterAdvance (index measurement s) (hs : memWf s.mem = true) :
    EndsOk (execCounterAdvance index measurement s) := by
  refine endsOk_runEvent (keepsMem_get_bind fun s hs => ?_) hs
  split
  · exact keepsMem_noPart
  · exact keepsMem_pure _
  · exact keepsMem_set (advanceCounter_mem ‹_› ▸ hs)

@[simp] theorem endsOk_execLeaseRequest (index restorer nonce s) (hs : memWf s.mem = true) :
    EndsOk (execLeaseRequest index restorer nonce s) := by
  unfold execLeaseRequest
  exact by_parts

@[simp] theorem endsOk_execConsume (index restorer s) (hs : memWf s.mem = true) : EndsOk (execConsume index restorer s) := by
  unfold execConsume
  exact by_parts

@[simp] theorem endsOk_execLeaseExpiry (index s) (hs : memWf s.mem = true) : EndsOk (execLeaseExpiry index s) := by
  unfold execLeaseExpiry
  exact by_parts

@[simp] theorem endsOk_execCounterAllocation (index measurement s) (hs : memWf s.mem = true) :
    EndsOk (execCounterAllocation index measurement s) := by
  unfold execCounterAllocation
  exact by_parts

/-! ### System instructions (R98 to R102) -/

@[simp] theorem endsOk_execEcall (s) (hs : memWf s.mem = true) : EndsOk (execEcall s) := by
  unfold execEcall
  exact by_parts

@[simp] theorem endsOk_execEbreak (s) (hs : memWf s.mem = true) : EndsOk (execEbreak s) := by
  unfold execEbreak
  exact by_parts

@[simp] theorem endsOk_execEret (s) (hs : memWf s.mem = true) : EndsOk (execEret s) := by
  unfold execEret
  exact by_parts

@[simp] theorem endsOk_execWfi (s) (hs : memWf s.mem = true) : EndsOk (execWfi s) := by
  unfold execWfi
  exact by_parts

@[simp] theorem endsOk_execHalt (s) (hs : memWf s.mem = true) : EndsOk (execHalt s) := by
  unfold execHalt
  exact by_parts

@[simp] theorem keepsMem_dropFetched : KeepsMem (dropFetched) := by
  unfold dropFetched
  exact by_parts

@[simp] theorem endsOk_execIfence (s) (hs : memWf s.mem = true) : EndsOk (execIfence s) := by
  unfold execIfence
  exact by_parts

@[simp] theorem endsOk_execPause (s) (hs : memWf s.mem = true) : EndsOk (execPause s) := by
  unfold execPause
  exact by_parts

/-! ### Fences, waits and barriers (R317, R322 to R328) -/

@[simp] theorem endsOk_execFenceAcq (c s) (hs : memWf s.mem = true) : EndsOk (execFenceAcq c s) := by
  unfold execFenceAcq
  exact by_parts

@[simp] theorem endsOk_execFenceRel (c s) (hs : memWf s.mem = true) : EndsOk (execFenceRel c s) := by
  unfold execFenceRel
  exact by_parts

@[simp] theorem keepsMem_acquireRelease (scope) : KeepsMem (acquireRelease scope) := by
  unfold acquireRelease
  exact by_parts

@[simp] theorem endsOk_execFenceAr (c s) (hs : memWf s.mem = true) : EndsOk (execFenceAr c s) := by
  unfold execFenceAr
  exact by_parts

@[simp] theorem endsOk_execFenceSc (c s) (hs : memWf s.mem = true) : EndsOk (execFenceSc c s) := by
  unfold execFenceSc
  exact by_parts

@[simp] theorem endsOk_execFenceS2v (s) (hs : memWf s.mem = true) : EndsOk (execFenceS2v s) := by
  unfold execFenceS2v
  exact by_parts

@[simp] theorem endsOk_execFenceV2s (s) (hs : memWf s.mem = true) : EndsOk (execFenceV2s s) := by
  unfold execFenceV2s
  exact by_parts

@[simp] theorem endsOk_execFenceCode (c s) (hs : memWf s.mem = true) : EndsOk (execFenceCode c s) := by
  unfold execFenceCode
  exact by_parts

@[simp] theorem endsOk_execFenceSlk (_c s) (hs : memWf s.mem = true) : EndsOk (execFenceSlk _c s) := by
  unfold execFenceSlk
  exact by_parts

@[simp] theorem endsOk_execWaita (c sc b a d s) (hs : memWf s.mem = true) : EndsOk (execWaita c sc b a d s) := by
  unfold execWaita
  exact by_parts

@[simp] theorem keepsMem_wakeWaita (strand) : KeepsMem (wakeWaita strand) := by
  unfold wakeWaita
  exact by_parts

@[simp] theorem endsOk_execWaitaWake (strand s) (hs : memWf s.mem = true) : EndsOk (execWaitaWake strand s) := by
  unfold execWaitaWake
  exact by_parts

@[simp] theorem endsOk_execWaitaHostPoll (strand s) (hs : memWf s.mem = true) : EndsOk (execWaitaHostPoll strand s) := by
  unfold execWaitaHostPoll
  exact by_parts

@[simp] theorem endsOk_execWaitTimeout (strand s) (hs : memWf s.mem = true) : EndsOk (execWaitTimeout strand s) := by
  unfold execWaitTimeout
  exact by_parts

@[simp] theorem endsOk_execWfiWake (strand s) (hs : memWf s.mem = true) : EndsOk (execWfiWake strand s) := by
  unfold execWfiWake
  exact by_parts

@[simp] theorem keepsMem_arrive (n) : KeepsMem (arrive n) := by
  unfold arrive
  exact by_parts

@[simp] theorem keepsMem_bara (word n) : KeepsMem (bara word n) := by
  unfold bara
  exact by_parts

@[simp] theorem keepsMem_barw (n) : KeepsMem (barw n) := by
  unfold barw
  exact by_parts

@[simp] theorem endsOk_execBars (n s) (hs : memWf s.mem = true) : EndsOk (execBars n s) := by
  unfold execBars
  exact by_parts

@[simp] theorem endsOk_execBara (n s) (hs : memWf s.mem = true) : EndsOk (execBara n s) := by
  unfold execBara
  exact by_parts

@[simp] theorem endsOk_execBarw (n s) (hs : memWf s.mem = true) : EndsOk (execBarw n s) := by
  unfold execBarw
  exact by_parts

@[simp] theorem endsOk_execBarrierWake (strand s) (hs : memWf s.mem = true) : EndsOk (execBarrierWake strand s) := by
  unfold execBarrierWake
  exact by_parts

@[simp] theorem endsOk_execAccessPerformed (strand position scope s) (hs : memWf s.mem = true) :
    EndsOk (execAccessPerformed strand position scope s) := by
  unfold execAccessPerformed
  exact by_parts

/-! ### Engine commands: issue, progress and end (R332 to R340, R348) -/

@[simp] theorem keepsMem_peek (c va n) : KeepsMem (peek c va n) := by
  have h := keepsMem_engUse c true va n
  constructor <;> intro s t a hs e <;> unfold peek at e <;> split at e <;> cases e
  · exact h.ok hs ‹_›
  · exact h.error hs ‹_›
  · exact h.error hs ‹_›

@[simp] theorem keepsMem_slotInvalid (st c) : KeepsMem (slotInvalid st c) := by
  unfold slotInvalid
  exact by_parts

@[simp] theorem keepsMem_blockReason (st fn c) : KeepsMem (blockReason st fn c) := by
  unfold blockReason
  exact by_parts

@[simp] theorem keepsMem_readWords (va a) : KeepsMem (readWords va a) := by
  fun_induction readWords va a <;> exact by_parts

@[simp] theorem keepsMem_readBlock (fn sa) : KeepsMem (readBlock fn sa) := by
  unfold readBlock
  exact by_parts

@[simp] theorem keepsMem_wordCheck (sb) : KeepsMem (wordCheck sb) := by
  unfold wordCheck
  exact by_parts

@[simp] theorem keepsMem_collList (st sa c) : KeepsMem (collList st sa c) := by
  have readList (va n) : KeepsMem (collList.readList va n) := by
    fun_induction collList.readList va n <;> exact by_parts
  unfold collList
  exact by_parts

@[simp] theorem keepsMem_placeCommand (d c) : KeepsMem (placeCommand d c) := by
  unfold placeCommand
  exact by_parts

@[simp] theorem keepsMem_issueCommand (fn b a d) : KeepsMem (issueCommand fn b a d) := by
  unfold issueCommand
  exact by_parts

@[simp] theorem endsOk_execXcopy (b a d s) (hs : memWf s.mem = true) : EndsOk (execXcopy b a d s) := by
  unfold execXcopy
  exact by_parts

@[simp] theorem endsOk_execXgather (b a d s) (hs : memWf s.mem = true) : EndsOk (execXgather b a d s) := by
  unfold execXgather
  exact by_parts

@[simp] theorem endsOk_execXpool (b a d s) (hs : memWf s.mem = true) : EndsOk (execXpool b a d s) := by
  unfold execXpool
  exact by_parts

@[simp] theorem endsOk_execXexpand (b a d s) (hs : memWf s.mem = true) : EndsOk (execXexpand b a d s) := by
  unfold execXexpand
  exact by_parts

@[simp] theorem endsOk_execXcoll (b a d s) (hs : memWf s.mem = true) : EndsOk (execXcoll b a d s) := by
  unfold execXcoll
  exact by_parts

@[simp] theorem keepsMem_runtimeCommand (fn b a d) : KeepsMem (runtimeCommand fn b a d) := by
  unfold runtimeCommand
  exact by_parts

@[simp] theorem endsOk_execXswap (b a d s) (hs : memWf s.mem = true) : EndsOk (execXswap b a d s) := by
  unfold execXswap
  exact by_parts

@[simp] theorem endsOk_execXmig (b a d s) (hs : memWf s.mem = true) : EndsOk (execXmig b a d s) := by
  unfold execXmig
  exact by_parts

@[simp] theorem endsOk_execXseal (b a d s) (hs : memWf s.mem = true) : EndsOk (execXseal b a d s) := by
  unfold execXseal
  exact by_parts

@[simp] theorem endsOk_execXeQueueRoom (strand s) (hs : memWf s.mem = true) : EndsOk (execXeQueueRoom strand s) := by
  unfold execXeQueueRoom
  exact by_parts

@[simp] theorem endsOk_execXcancel (a d s) (hs : memWf s.mem = true) : EndsOk (execXcancel a d s) := by
  unfold execXcancel
  exact by_parts

@[simp] theorem endsOk_execXquery (a d s) (hs : memWf s.mem = true) : EndsOk (execXquery a d s) := by
  unfold execXquery
  exact by_parts

@[simp] theorem keepsMem_commandUnit (c) : KeepsMem (commandUnit c) := by
  unfold commandUnit
  exact by_parts

@[simp] theorem putCommand_mem (s c) : (putCommand s c).mem = s.mem := rfl

@[simp] theorem abandon_wf (s c) (hs : memWf s.mem = true) : memWf (abandon s c).mem = true := by
  unfold abandon
  exact by_parts

@[simp] theorem endCommand_wf (s c status) (hs : memWf s.mem = true) : memWf (endCommand s c status).mem = true := by
  unfold endCommand
  extract_lets status' s1 s2
  have h1 : memWf s1.mem = true := by
    unfold s1
    split
    · exact hs
    · exact abandon_wf _ _ hs
  split
  · exact h1
  · exact physStore_wf _ _ _ (drainForStore_wf _ _ _ h1)

/-- A run of units keeps memory canonical when each unit does. -/
theorem unitLoop_wf {unit : Command → EM (Option Command)} (h : ∀ c, KeepsMem (unit c)) : ∀ (n c) {s : State},
    memWf s.mem = true → memWf (unitLoop unit n c s).2.2.mem = true
  | 0, _, _, hs => hs
  | n + 1, c, s, hs => by
    unfold unitLoop
    split
    · exact hs
    · split
      · exact hs
      · split
        · exact hs
        · split
          · exact (h c).ok hs ‹_›
          · exact unitLoop_wf h n _ ((h c).ok hs ‹_›)
          · exact (h c).error hs ‹_›
          · exact (h c).error hs ‹_›

@[simp] theorem progress_wf (n c s) (hs : memWf s.mem = true) : memWf (progress n c s).1.mem = true := by
  have h := unitLoop_wf keepsMem_commandUnit n c hs
  unfold progress
  dsimp only
  split <;> exact h

@[simp] theorem endsOk_execEngineCommandStart (engine blocks s) (hs : memWf s.mem = true) :
    EndsOk (execEngineCommandStart engine blocks s) := by
  unfold execEngineCommandStart
  exact by_parts

@[simp] theorem finishCommand_wf (s c) (hs : memWf s.mem = true) : memWf (finishCommand s c).mem = true := by
  have h := progress_wf allUnits c s hs
  unfold finishCommand
  generalize progress allUnits c s = r at h ⊢
  dsimp only
  split
  · exact h
  · split
    · exact endCommand_wf _ _ _ h
    · exact endCommand_wf _ _ _ h
    · exact h

@[simp] theorem endsOk_execEngineCommandEnd (engine s) (hs : memWf s.mem = true) :
    EndsOk (execEngineCommandEnd engine s) := by
  unfold execEngineCommandEnd
  exact by_parts

@[simp] theorem endsOk_execCollectiveRingStep (ticket s) (hs : memWf s.mem = true) :
    EndsOk (execCollectiveRingStep ticket s) := by
  unfold execCollectiveRingStep
  exact by_parts

@[simp] theorem endsOk_execCollectiveAbort (ticket s) (hs : memWf s.mem = true) : EndsOk (execCollectiveAbort ticket s) := by
  unfold execCollectiveAbort
  exact by_parts

@[simp] theorem endsOk_execTicketExpiry (ticket s) (hs : memWf s.mem = true) : EndsOk (execTicketExpiry ticket s) := by
  unfold execTicketExpiry
  exact by_parts

@[simp] theorem endsOk_execMigrationFlip (ticket s) (hs : memWf s.mem = true) : EndsOk (execMigrationFlip ticket s) := by
  unfold execMigrationFlip
  exact by_parts

/-! ### Launch, work and the end of stages (R350 to R361) -/

@[simp] theorem keepsMem_writeCompletion (v cwa value) : KeepsMem (writeCompletion v cwa value) := by
  unfold writeCompletion
  exact by_parts

@[simp] theorem putLaunch_mem (s x) : (putLaunch s x).mem = s.mem := rfl

@[simp] theorem keepsMem_endRaising (v slot rid cwa status value) : KeepsMem (endRaising v slot rid cwa status value) := by
  unfold endRaising
  exact by_parts

@[simp] theorem keepsMem_finishEnding (e) : KeepsMem (finishEnding e) := by
  unfold finishEnding
  exact by_parts

@[simp] theorem keepsMem_packetStages (v k bs) : KeepsMem (packetStages v k bs) := by
  unfold packetStages
  exact by_parts

@[simp] theorem keepsMem_admitPacket (rid vf slot bs) : KeepsMem (admitPacket rid vf slot bs) := by
  unfold admitPacket
  exact by_parts

@[simp] theorem keepsMem_finishAdmission (x) : KeepsMem (finishAdmission x) := by
  unfold finishAdmission
  exact by_parts

@[simp] theorem keepsMem_commit (vf slot bs) : KeepsMem (commit vf slot bs) := by
  unfold commit
  exact by_parts

@[simp] theorem keepsMem_slotWrite (vf slot offset bytes) : KeepsMem (slotWrite vf slot offset bytes) := by
  unfold slotWrite
  exact by_parts

@[simp] theorem endsOk_execLaunchSlotWrite (vf slot offset bytes s) (hs : memWf s.mem = true) :
    EndsOk (execLaunchSlotWrite vf slot offset bytes s) := by
  unfold execLaunchSlotWrite
  exact by_parts

@[simp] theorem modRaising_mem (s rid f) : (modRaising s rid f).mem = s.mem := rfl

@[simp] theorem settleRaising_mem (s rid) : (settleRaising s rid).mem = s.mem := rfl

@[simp] theorem killStrand_wf (s k) (hs : memWf s.mem = true) : memWf (killStrand s k).mem = true := by
  unfold killStrand
  exact by_parts

@[simp] theorem killBents_wf (s rid) (hs : memWf s.mem = true) : memWf (killBents s rid).mem = true := by
  unfold killBents
  exact by_parts

@[simp] theorem abortRaising_wf (s r) (hs : memWf s.mem = true) : memWf (abortRaising s r).mem = true := by
  unfold abortRaising
  exact by_parts

@[simp] theorem endsOk_execRaisingEnd (rid s) (hs : memWf s.mem = true) : EndsOk (execRaisingEnd rid s) := by
  unfold execRaisingEnd
  exact by_parts

@[simp] theorem endsOk_execRaise (a d s) (hs : memWf s.mem = true) : EndsOk (execRaise a d s) := by
  unfold execRaise
  exact by_parts

@[simp] theorem endsOk_execQpush (b a d s) (hs : memWf s.mem = true) : EndsOk (execQpush b a d s) := by
  unfold execQpush
  exact by_parts

@[simp] theorem endsOk_execQpushRoom (strand s) (hs : memWf s.mem = true) : EndsOk (execQpushRoom strand s) := by
  unfold execQpushRoom
  exact by_parts

@[simp] theorem endsOk_execQpushCandidateMark (strand s) (hs : memWf s.mem = true) :
    EndsOk (execQpushCandidateMark strand s) := by
  unfold execQpushCandidateMark
  exact by_parts

@[simp] theorem endsOk_execQpop (a d s) (hs : memWf s.mem = true) : EndsOk (execQpop a d s) := by
  unfold execQpop
  exact by_parts

@[simp] theorem strandExited_wf (s st) (hs : memWf s.mem = true) : memWf (strandExited s st).mem = true := by
  unfold strandExited
  split
  · exact hs
  · extract_lets b done b' left
    have h : memWf left.mem = true := by
      unfold left
      split
      · refine foldl_wf (fun s x hs => ?_) _ hs
        exact foldl_wf (fun s bl hs => by rwa [leaveBay_mem]) x.blocks hs
      · exact hs
    clear_value left
    rwa [settleRaising_mem]

@[simp] theorem endsOk_execExit (s) (hs : memWf s.mem = true) : EndsOk (execExit s) := by
  unfold execExit
  exact by_parts

@[simp] theorem endsOk_execStgdone (s) (hs : memWf s.mem = true) : EndsOk (execStgdone s) := by
  unfold execStgdone
  exact by_parts

@[simp] theorem keepsMem_appendStores (base wm d rq x y) : KeepsMem (appendStores base wm d rq x y) := by
  fun_induction appendStores base wm d rq x y <;> exact by_parts

@[simp] theorem keepsMem_reserve (va n) : KeepsMem (reserve va n) := by
  unfold reserve
  exact by_parts

@[simp] theorem keepsMem_appendBody (va old wm d r es) : KeepsMem (appendBody va old wm d r es) := by
  unfold appendBody
  exact by_parts

@[simp] theorem keepsMem_appendRun (r w m a d) : KeepsMem (appendRun r w m a d) := by
  unfold appendRun
  exact by_parts

@[simp] theorem keepAppend_mem (pre err) : (keepAppend pre err).mem = err.mem := by
  unfold keepAppend
  dsimp only
  split <;> rfl

@[simp] theorem memberOk_memberQappend (r w m a d) : MemberOk (memberQappend r w m a d) := by
  unfold memberQappend
  exact by_parts

/-! ### The Foreman (R363 to R370) -/

@[simp] theorem keepsMem_tick : KeepsMem (tick) := by
  unfold tick
  exact by_parts

@[simp] theorem resumeStrand_wf (s v k ns) (hs : memWf s.mem = true) : memWf (resumeStrand s v k ns).mem = true := by
  unfold resumeStrand
  split
  · exact hs
  · extract_lets w blocks fill filled s' blocks' r
    have hfill : memWf filled.mem = true := foldl_wf (f := fill) (fun s bl hs => foldlWrite_wf _ bl.scratch hs) blocks hs
    have h : memWf s'.mem = true := by
      unfold s'
      split
      · exact hs
      · exact hfill
    split
    · exact h
    · exact h

@[simp] theorem takeBay_mem (s n) : (takeBay s n).mem = s.mem := rfl

@[simp] theorem endsOk_execPlaceBent (bent bays s) (hs : memWf s.mem = true) : EndsOk (execPlaceBent bent bays s) := by
  unfold execPlaceBent
  refine endsOk_runEvent (keepsMem_bind keepsMem_tick fun _ => keepsMem_get_bind fun s hs => ?_) hs
  have taken : memWf (bays.flatten.foldl takeBay s).mem = true := foldl_wf (fun s n hs => by rwa [takeBay_mem]) _ hs
  have resumed (v : Vf) (l : List (Nat × List Nat)) :
      memWf (l.foldl (fun s y => resumeStrand s v y.1 y.2) (bays.flatten.foldl takeBay s)).mem = true :=
    foldl_wf (fun s y => resumeStrand_wf s v y.1 y.2) l taken
  exact by_parts

@[simp] theorem endsOk_execBentFirstIssue (bent s) (hs : memWf s.mem = true) : EndsOk (execBentFirstIssue bent s) := by
  unfold execBentFirstIssue
  exact by_parts

@[simp] theorem endsOk_execCreateInstance (rid stage s) (hs : memWf s.mem = true) :
    EndsOk (execCreateInstance rid stage s) := by
  unfold execCreateInstance
  exact by_parts

@[simp] theorem endsOk_execPriorityAging (bent s) (hs : memWf s.mem = true) : EndsOk (execPriorityAging bent s) := by
  unfold execPriorityAging
  exact by_parts

@[simp] theorem endsOk_execStageScoring (s) (hs : memWf s.mem = true) : EndsOk (execStageScoring s) := by
  unfold execStageScoring
  exact by_parts

@[simp] theorem endsOk_execPreemption (bent s) (hs : memWf s.mem = true) : EndsOk (execPreemption bent s) := by
  unfold execPreemption
  exact by_parts

@[simp] theorem endsOk_execYield (s) (hs : memWf s.mem = true) : EndsOk (execYield s) := by
  unfold execYield
  exact by_parts

/-! ### The member of a word (R43, R44)

Most members only compute on the executing strand's registers (`memberOk_registers`). -/

@[simp] theorem memberOk_memberVnop : MemberOk memberVnop := memberOk_plain fun _ => keepsMem_pure _

/-- A word stands for no member, or for one that leaves memory canonical. -/
def OptionOk (o : Option Member) : Prop := ∀ m ∈ o, MemberOk m

@[simp] theorem optionOk_none : OptionOk none := nofun
@[simp] theorem optionOk_some {m : Member} : OptionOk (some m) ↔ MemberOk m :=
  ⟨fun h => h m rfl, fun hm _ h => by cases h; exact hm⟩
theorem optionOk_registers {pipe whole bad width} {f : Span → Strand → Strand} :
    OptionOk (some (plainMember pipe whole bad width fun sp => modStrand (f sp))) := optionOk_some.mpr memberOk_registers

section
variable (w : Nat)

@[simp] theorem membersVint_ok : OptionOk (membersVint w) := by
  unfold membersVint
  split
  on_goal -1 => exact optionOk_none
  all_goals exact optionOk_registers

@[simp] theorem membersVintx_ok : OptionOk (membersVintx w) := by
  unfold membersVintx
  split
  on_goal -1 => exact optionOk_none
  all_goals exact optionOk_registers

@[simp] theorem membersVinti_ok : OptionOk (membersVinti w) := by
  unfold membersVinti
  split
  on_goal -1 => exact optionOk_none
  all_goals exact optionOk_registers

@[simp] theorem membersVcmp_ok : OptionOk (membersVcmp w) := by
  unfold membersVcmp
  split
  on_goal -1 => exact optionOk_none
  all_goals exact optionOk_registers

@[simp] theorem membersVmove_ok : OptionOk (membersVmove w) := by
  unfold membersVmove
  split
  on_goal -1 => exact optionOk_none
  on_goal -1 => exact optionOk_some.mpr memberOk_memberVnop
  all_goals exact optionOk_registers

@[simp] theorem membersVperm_ok : OptionOk (membersVperm w) := by
  unfold membersVperm
  split
  on_goal -1 => exact optionOk_none
  all_goals exact optionOk_registers

@[simp] theorem membersVred_ok : OptionOk (membersVred w) := by
  unfold membersVred
  split
  on_goal -1 => exact optionOk_none
  all_goals exact optionOk_registers

@[simp] theorem membersMask_ok : OptionOk (membersMask w) := by
  unfold membersMask
  split
  on_goal -1 => exact optionOk_none
  all_goals exact optionOk_registers

@[simp] theorem membersVfp_ok : OptionOk (membersVfp w) := by
  unfold membersVfp
  split
  on_goal -1 => exact optionOk_none
  all_goals exact optionOk_registers

@[simp] theorem membersVfpx_ok : OptionOk (membersVfpx w) := by
  unfold membersVfpx
  split
  on_goal -1 => exact optionOk_none
  all_goals exact optionOk_registers

@[simp] theorem membersVfma_ok : OptionOk (membersVfma w) := by
  unfold membersVfma
  split
  on_goal -1 => exact optionOk_none
  all_goals exact optionOk_registers

@[simp] theorem membersVfcmp_ok : OptionOk (membersVfcmp w) := by
  unfold membersVfcmp
  split
  on_goal -1 => exact optionOk_none
  all_goals exact optionOk_registers

@[simp] theorem membersVqnt_ok : OptionOk (membersVqnt w) := by
  unfold membersVqnt
  split
  on_goal -1 => exact optionOk_none
  all_goals exact optionOk_registers

@[simp] theorem membersCache_ok : OptionOk (membersCache w) := by
  unfold membersCache
  split <;> simp

@[simp] theorem membersFib_ok : OptionOk (membersFib w) := by
  unfold membersFib
  split <;> simp

@[simp] theorem membersFpref_ok : OptionOk (membersFpref w) := by
  unfold membersFpref
  split <;> simp

@[simp] theorem membersFmsg_ok : OptionOk (membersFmsg w) := by
  unfold membersFmsg
  split <;> simp

@[simp] theorem membersJclm_ok : OptionOk (membersJclm w) := by
  unfold membersJclm
  split <;> simp

@[simp] theorem membersJfil_ok : OptionOk (membersJfil w) := by
  unfold membersJfil
  split <;> simp

@[simp] theorem membersTctl_ok : OptionOk (membersTctl w) := by
  unfold membersTctl
  split <;> simp

@[simp] theorem membersVamo_ok : OptionOk (membersVamo w) := by
  unfold membersVamo
  split
  on_goal -1 => exact optionOk_none
  all_goals exact optionOk_some.mpr (memberOk_vamoMember ..)

@[simp] theorem membersSlkadd_ok : OptionOk (membersSlkadd w) := by
  unfold membersSlkadd
  split <;> simp

@[simp] theorem membersOf_ok : OptionOk (membersOf w) := by
  unfold membersOf
  split
  case h_13 => exact optionOk_registers
  all_goals simp

end

theorem memberOk_of_checkedMember {w : Nat} {o : Option Member} {m : Member} (ho : OptionOk o) (h : checkedMember w o = .ok m) :
    MemberOk m := by
  unfold checkedMember at h
  split at h <;> cases h
  · obtain ⟨run, keep, amo⟩ := ho _ rfl
    exact ⟨run, keep, amo⟩
  · exact ho _ rfl

theorem memberOk_of_memberOfWord {w : Nat} {m : Member} (h : memberOfWord w = .ok m) : MemberOk m :=
  memberOk_of_checkedMember (membersOf_ok w) h

theorem memberOk_of_frameMember {w base : Nat} {m : Member} (h : frameMember w base = .ok m) : MemberOk m := by
  refine memberOk_of_checkedMember ?_ h
  split
  · simp
  · simp
  · exact membersOf_ok w

/-- The members of words in a convoy. -/
theorem membersOk_memberOfWord (pos : Nat) (words : List Nat) : MembersOk (okMembers pos (words.map memberOfWord)) :=
  okMembers_ok pos fun _ hm => by
    obtain ⟨_, _, e⟩ := List.mem_map.mp hm
    exact memberOk_of_memberOfWord e

/-! ### Damaged registers (R435) -/

@[simp] theorem keepsMem_consumeScalars (words) : KeepsMem (consumeScalars words) := by
  unfold consumeScalars
  exact by_parts

/-- A fold of actions, each of which goes on from the one before. -/
theorem keepsMem_foldl {f :
    EStateM ε State α → γ → EStateM ε State α} (hf : ∀ x c, KeepsMem x → KeepsMem (f x c)) (l : List γ) :
    ∀ {x : EStateM ε State α}, KeepsMem x → KeepsMem (l.foldl f x) := by
  induction l with
  | nil => exact id
  | cons c t ih => exact fun hx => ih (hf _ c hx)

@[simp] theorem keepsMem_damage (w start words) : KeepsMem (damage w start words) := by
  unfold damage
  refine keepsMem_bind keepsMem_getStrand fun st => keepsMem_ite (keepsMem_pure _) (keepsMem_bind ?_ fun _ => keepsMem_pure _)
  refine keepsMem_foldl (fun acc y hacc => keepsMem_bind hacc fun found => ?_) _ (keepsMem_pure _)
  refine keepsMem_foldl (fun acc z hacc => ?_) _ (keepsMem_pure _)
  exact by_parts

@[simp] theorem keepsMem_heal (words before) : KeepsMem (heal words before) := by
  unfold heal
  refine keepsMem_ite (keepsMem_pure _) (keepsMem_bind ?_ fun _ => keepsMem_modStrand _)
  refine keepsMem_foldl (fun acc z hacc => ?_) _ (keepsMem_pure _)
  exact by_parts

theorem endsOk_healed (words before) {r : Result} (hr : EndsOk r) : EndsOk (healed words before r) := by
  unfold healed
  split
  · split
    · exact hr
    · split
      · exact hr
      · split
        · exact endsOk_next.mpr ((keepsMem_heal words before).ok (endsOk_next.mp hr) ‹_›)
        · exact hr
  · exact hr

/-! ### Repeat frames (R127 to R131) -/

@[simp] theorem keepsMem_fetchFrame (x y z z' w') : KeepsMem (fetchFrame x y z z' w') := by
  fun_induction fetchFrame x y z z' w' <;> exact by_parts

@[simp] theorem keepsMem_frameWords (k) : KeepsMem (frameWords k) := by
  unfold frameWords
  exact by_parts

@[simp] theorem keepsMem_frameHead (f o g n k) : KeepsMem (frameHead f o g n k) := by
  unfold frameHead
  exact by_parts

/-- Both outcomes of a frame's convoys hold a canonical memory. -/
def FrameOk : Except FrameStop State → Prop
  | .ok s => memWf s.mem = true
  | .error e => memWf e.s.mem = true

theorem frameMembers_ok (f i c) : MembersOk (frameMembers f i c) := by
  intro x hx
  obtain ⟨w, _, hw⟩ := List.mem_filterMap.mp hx
  split at hw
  · cases hw
    exact memberOk_of_frameMember ‹_›
  · cases hw

theorem framePerform_ok (f i c g stop) {s : State} (hs : memWf s.mem = true) : FrameOk (framePerform f i c g stop s) := by
  unfold framePerform
  dsimp only
  split
  · exact hs
  · split
    · exact hs
    · split
      · exact hs
      · have h := performConvoy_ok (frameMembers_ok f i (f.chosen i c)) g stop hs
        split <;> rename_i e <;> rw [e] at h <;> exact h

theorem frameLoop_ok (f) : ∀ (n i p g : Nat) {s : State}, memWf s.mem = true → FrameOk (frameLoop f n i p g s)
  | 0, _, _, _, _, hs => hs
  | n + 1, i, p, g, s, hs => by
    unfold frameLoop
    split
    · exact hs
    · rename_i j c _
      have h := framePerform_ok f j c (if j = i && convoyPos c = p then g else 0) none hs
      dsimp only
      split <;> rename_i e <;> rw [e] at h
      · exact h
      · exact frameLoop_ok f n j _ _ h

@[simp] theorem endsOk_frameStopped (f) {e : FrameStop} (he : memWf e.s.mem = true) : EndsOk (frameStopped f e) := by
  unfold frameStopped
  split
  · simpa using he
  · split
    · exact endsOk_next.mpr he
    · simp
  · simp

@[simp] theorem endsOk_frameDone (f s) (hs : memWf s.mem = true) : EndsOk (frameDone f s) := by
  unfold frameDone
  split
  · exact endsOk_next.mpr hs
  · simp

@[simp] theorem endsOk_execRepf (f o g n k s) (hs : memWf s.mem = true) : EndsOk (execRepf f o g n k s) := by
  unfold execRepf
  split <;> rename_i e
  · exact endsOk_stopped _ ((keepsMem_frameHead f o g n k).error hs e)
  · rename_i fr s'
    have hs' := (keepsMem_frameHead f o g n k).ok hs e
    split
    · simp
    · rename_i st _
      have h := frameLoop_ok fr (fr.replays * (k.toNat + 1) + 1) (frameStart st).1 (frameStart st).2.1 (frameStart st).2.2 hs'
      dsimp only
      split <;> rename_i e <;> rw [e] at h
      · exact endsOk_frameDone fr _ h
      · exact endsOk_frameStopped fr h

/-! ### Issue and the traps from outside (R29, R38, R39, R54, R113 to R117, R371 to R373) -/

@[simp] theorem keepsMem_fetchRest (quad x y) : KeepsMem (fetchRest quad x y) := by
  fun_induction fetchRest quad x y <;> exact by_parts

@[simp] theorem keepsMem_fetchIssue : KeepsMem (fetchIssue) := by
  unfold fetchIssue
  exact by_parts

@[simp] theorem endsOk_rejectWord (e w s) (hs : memWf s.mem = true) : EndsOk (rejectWord e w s) := by
  unfold rejectWord
  exact by_parts

theorem endsOk_unasked (before st) {r : Result} (hr : EndsOk r) : EndsOk (unasked before st r) := by
  unfold unasked
  split
  · exact hr
  · split
    · split
      · exact endsOk_next.mpr (by simpa using hr)
      · exact hr
    · exact hr

@[simp] theorem endsOk_holdAt (f s) (hs : memWf s.mem = true) : EndsOk (holdAt f s) := by
  unfold holdAt
  split
  · exact endsOk_next.mpr hs
  · simp

@[simp] theorem keepsMem_headOfWord (w) : KeepsMem (headOfWord w) := by
  unfold headOfWord
  exact by_parts

@[simp] theorem endsOk_damagedAt (words g code s) (hs : memWf s.mem = true) : EndsOk (damagedAt words g code s) := by
  unfold damagedAt
  split
  · simp
  · dsimp only
    split
    · simpa using hs
    · split <;> rename_i e
      · simpa using performConvoy_wf (membersOk_memberOfWord _ _) hs e
      · exact endsOk_convoyStopped _ (performConvoy_stop_wf (membersOk_memberOfWord _ _) hs e)

@[simp] theorem keepsMem_convoyDamage (words) : KeepsMem (convoyDamage words) := by
  unfold convoyDamage
  exact by_parts

@[simp] theorem endsOk_beginConvoy (words st s) (hs : memWf s.mem = true) : EndsOk (beginConvoy words st s) := by
  unfold beginConvoy
  dsimp only
  split
  · simpa using hs
  · split
    · simpa using hs
    · split <;> rename_i e
      · exact endsOk_stopped _ ((keepsMem_consumeScalars words).error hs e)
      · exact endsOk_holdAt _ _ ((keepsMem_consumeScalars words).ok hs e)

@[simp] theorem endsOk_holdFrame (f i p g pc s) (hs : memWf s.mem = true) : EndsOk (holdFrame f i p g pc s) := by
  unfold holdFrame
  split
  · exact endsOk_frameDone f s hs
  · exact endsOk_holdAt _ s hs

@[simp] theorem endsOk_beginFrame (w st s) (hs : memWf s.mem = true) : EndsOk (beginFrame w st s) := by
  have hx : KeepsMem (do
      let f ← headOfWord w
      consumeScalars [w]
      return f : M Frame) := by_parts
  unfold beginFrame
  split <;> rename_i e
  · exact endsOk_stopped _ (hx.error hs e)
  · exact endsOk_holdFrame _ _ _ _ _ _ (hx.ok hs e)

@[simp] theorem endsOk_execConvoyIssue (strand s) (hs : memWf s.mem = true) : EndsOk (execConvoyIssue strand s) := by
  refine endsOk_actIssuing (fun st s hs => ?_) strand hs
  split
  · simp
  · split <;> rename_i e
    · exact endsOk_stopped _ (keepsMem_fetchIssue.error hs e)
    · simp
    · have hs' := keepsMem_fetchIssue.ok hs e
      split
      · exact endsOk_beginConvoy _ _ _ hs'
      · split <;> simp [hs']

@[simp] theorem endsOk_commitGroup (f st s) (hs : memWf s.mem = true) : EndsOk (commitGroup f st s) := by
  unfold commitGroup
  dsimp only
  split <;> rename_i e
  · exact endsOk_stopped _ ((keepsMem_convoyDamage _).error hs e)
  · have hs' := (keepsMem_convoyDamage _).ok hs e
    split
    · exact endsOk_damagedAt _ _ _ _ hs'
    · split <;> rename_i e
      · exact endsOk_convoyStopped _ (performConvoy_stop_wf (membersOk_memberOfWord _ _) hs' e)
      · have h := performConvoy_wf (membersOk_memberOfWord _ _) hs' e
        split
        · exact endsOk_healed _ _ (endsOk_convoyDone _ h)
        · exact endsOk_holdAt _ _ h

@[simp] theorem endsOk_commitInFrame (fr f i p st s) (hs : memWf s.mem = true) : EndsOk (commitInFrame fr f i p st s) := by
  unfold commitInFrame
  split
  · exact endsOk_frameDone fr s hs
  · dsimp only
    split <;> rename_i e
    · exact endsOk_frameStopped fr (e ▸ framePerform_ok fr _ _ _ _ hs : FrameOk (.error _))
    · have h : FrameOk (.ok _) := e ▸ framePerform_ok fr _ _ _ _ hs
      split
      · exact endsOk_holdFrame _ _ _ _ _ _ h
      · exact endsOk_holdAt _ _ h

@[simp] theorem endsOk_execElementGroupCommit (strand s) (hs : memWf s.mem = true) :
    EndsOk (execElementGroupCommit strand s) := by
  refine endsOk_actIssuing (fun st s hs => ?_) strand hs
  split
  · simp
  · split
    · simp
    · split
      · exact endsOk_unasked _ _ (endsOk_commitGroup _ _ _ hs)
      · split <;> rename_i e
        · exact endsOk_stopped _ ((keepsMem_headOfWord _).error hs e)
        · exact endsOk_unasked _ _ (endsOk_commitInFrame _ _ _ _ _ _ ((keepsMem_headOfWord _).ok hs e))

@[simp] theorem endsOk_interrupt (t s) (hs : memWf s.mem = true) : EndsOk (interrupt t s) := by
  unfold interrupt
  exact by_parts

@[simp] theorem endsOk_execTrapEntry (strand cause xval s) (hs : memWf s.mem = true) :
    EndsOk (execTrapEntry strand cause xval s) := by
  unfold execTrapEntry
  exact by_parts

@[simp] theorem endsOk_takeSlog (s) (hs : memWf s.mem = true) : EndsOk (takeSlog s) := by
  unfold takeSlog
  exact by_parts

@[simp] theorem endsOk_execSlog (strand s) (hs : memWf s.mem = true) : EndsOk (execSlog strand s) := by
  unfold execSlog
  exact by_parts

@[simp] theorem endsOk_execS2FaultHeartwood (strand resolved s) (hs : memWf s.mem = true) :
    EndsOk (execS2FaultHeartwood strand resolved s) := by
  unfold execS2FaultHeartwood
  exact by_parts

/-! ### The RESYNC summary (R426) -/

@[simp] theorem keepsMem_startSummary : KeepsMem (startSummary) := by
  unfold startSummary
  exact by_parts

@[simp] theorem endsOk_execRsgoWrite (s) (hs : memWf s.mem = true) : EndsOk (execRsgoWrite s) := by
  unfold execRsgoWrite
  exact by_parts

@[simp] theorem postSummary_wf (s bs) (hs : memWf s.mem = true) : memWf (postSummary s bs).mem = true := by
  unfold postSummary
  exact by_parts

@[simp] theorem endsOk_execResyncComplete (s) (hs : memWf s.mem = true) : EndsOk (execResyncComplete s) := by
  unfold execResyncComplete
  exact by_parts

/-! ### Host accesses, registers, power, reset and soft errors (R331, R380, R404 to R409, R429 to R435) -/

@[simp] theorem endsOk_execHostPostedWrite (port addr bytes s) (hs : memWf s.mem = true) :
    EndsOk (execHostPostedWrite port addr bytes s) := by
  unfold execHostPostedWrite
  exact by_parts

@[simp] theorem endsOk_execHostRead (addr bytes s) (hs : memWf s.mem = true) : EndsOk (execHostRead addr bytes s) := by
  unfold execHostRead
  exact by_parts

@[simp] theorem endsOk_execHostAtomicop (op w64 addr operand compare s) (hs : memWf s.mem = true) :
    EndsOk (execHostAtomicop op w64 addr operand compare s) := by
  unfold execHostAtomicop
  exact by_parts

@[simp] theorem endsOk_execBaysplitWrite (bay value s) (hs : memWf s.mem = true) :
    EndsOk (execBaysplitWrite bay value s) := by
  unfold execBaysplitWrite
  exact by_parts

@[simp] theorem keepsMem_writeManagement (o v) : KeepsMem (writeManagement o v) := by
  unfold writeManagement
  exact by_parts

@[simp] theorem keepsMem_writeVfPage (vf o v) : KeepsMem (writeVfPage vf o v) := by
  unfold writeVfPage
  exact by_parts

@[simp] theorem endsOk_execRegisterWrite (addr value s) (hs : memWf s.mem = true) :
    EndsOk (execRegisterWrite addr value s) := by
  unfold execRegisterWrite
  exact by_parts

@[simp] theorem changeBay_mem (s bay onBlock onBay) : (changeBay s bay onBlock onBay).mem = s.mem := by
  unfold changeBay
  split <;> rfl

@[simp] theorem endsOk_execHeartwoodCsrWrite (bay csr value s) (hs : memWf s.mem = true) :
    EndsOk (execHeartwoodCsrWrite bay csr value s) := by
  unfold execHeartwoodCsrWrite
  exact by_parts

@[simp] theorem endsOk_execVirtualFunctionMapping (vf wings runtime asid ptbase vmid s2root s) (hs : memWf s.mem = true) :
    EndsOk (execVirtualFunctionMapping vf wings runtime asid ptbase vmid s2root s) := by
  unfold execVirtualFunctionMapping
  exact by_parts

@[simp] theorem endsOk_execDomainFormation (package members s) (hs : memWf s.mem = true) :
    EndsOk (execDomainFormation package members s) := by
  unfold execDomainFormation
  exact by_parts

@[simp] theorem endsOk_execArbiterGrant (grants s) (hs : memWf s.mem = true) : EndsOk (execArbiterGrant grants s) := by
  unfold execArbiterGrant
  exact by_parts

@[simp] theorem endsOk_execPlumbBudget (watts s) (hs : memWf s.mem = true) : EndsOk (execPlumbBudget watts s) := by
  unfold execPlumbBudget
  exact by_parts

@[simp] theorem endsOk_execFrzN (s) (hs : memWf s.mem = true) : EndsOk (execFrzN s) := by
  unfold execFrzN
  exact by_parts

@[simp] theorem endsOk_execPlumbFreeze (s) (hs : memWf s.mem = true) : EndsOk (execPlumbFreeze s) := by
  unfold execPlumbFreeze
  exact by_parts

@[simp] theorem endsOk_execPlumbReadout (addr bytes s) (hs : memWf s.mem = true) :
    EndsOk (execPlumbReadout addr bytes s) := by
  unfold execPlumbReadout
  exact by_parts

theorem memLay_wf (pick : Nat → Bool) : ∀ (l : List (Nat × Byte)) {m : Mem}, memWf m = true →
    memWf (memLay m pick l) = true
  | [], _, hm => hm
  | c :: t, m, hm => memLay_wf pick t (by
      dsimp only
      split
      · exact memWrite_wf _ _ hm
      · exact hm)

theorem memWriteEach_wf (f : Nat → Byte) : ∀ (l : List Nat) {m : Mem}, memWf m = true →
    memWf (l.foldl (fun m a => memWrite m a (f a)) m) = true
  | [], _, hm => hm
  | a :: t, _, hm => memWriteEach_wf f t (memWrite_wf a (f a) hm)

theorem resetMem_wf (s keepHbm) (hs : memWf s.mem = true) : memWf (resetMem s keepHbm) = true := by
  unfold resetMem
  exact memLay_wf _ _ (memFilter_wfFrom (memWriteEach_wf (hbmByte s) _ hs))

@[simp] theorem resetTo_wf (s keepHbm) (hs : memWf s.mem = true) : memWf (resetTo s keepHbm).mem = true :=
  resetMem_wf s keepHbm hs

@[simp] theorem endsOk_execPowerOnReset (s) (hs : memWf s.mem = true) : EndsOk (execPowerOnReset s) := by
  unfold execPowerOnReset
  exact by_parts

@[simp] theorem endsOk_execPackageReset (s) (hs : memWf s.mem = true) : EndsOk (execPackageReset s) := by
  unfold execPackageReset
  exact by_parts

@[simp] theorem endsOk_execPowerLoss (s) (hs : memWf s.mem = true) : EndsOk (execPowerLoss s) := by
  unfold execPowerLoss
  exact by_parts

@[simp] theorem endsOk_execFunctionLevelReset (vf s) (hs : memWf s.mem = true) : EndsOk (execFunctionLevelReset vf s) := by
  unfold execFunctionLevelReset
  exact by_parts

@[simp] theorem countCorrectable_mem (s bay) : (countCorrectable s bay).mem = s.mem := by
  unfold countCorrectable
  dsimp only
  cases bay with
  | none => rfl
  | some n => rw [Option.elim_some, changeBay_mem]

@[simp] theorem endsOk_execCorrectableError (bay s) (hs : memWf s.mem = true) : EndsOk (execCorrectableError bay s) := by
  unfold execCorrectableError
  exact by_parts

@[simp] theorem endsOk_execUncorrectableError (addr s) (hs : memWf s.mem = true) :
    EndsOk (execUncorrectableError addr s) := by
  refine endsOk_runEvent (keepsMem_get_bind fun s hs => keepsMem_ite (keepsMem_ite (keepsMem_set ?_) keepsMem_noPart)
    (keepsMem_ite (keepsMem_set ?_) ?_)) hs
  · rwa [logError_mem, markPoison_mem]
  · rwa [countCorrectable_mem, setBay_mem]
  · split
    · exact keepsMem_noPart
    · exact keepsMem_ite keepsMem_noPart (keepsMem_set (by rwa [logError_mem]))

@[simp] theorem endsOk_execScrub (s) (hs : memWf s.mem = true) : EndsOk (execScrub s) := by
  unfold execScrub
  exact by_parts

/-! ### The save of a pre-empted bent (R120, R237, R367 to R369) -/

@[simp] theorem keepsMem_shrinkMarks (k b) : KeepsMem (shrinkMarks k b) := by
  unfold shrinkMarks
  exact by_parts

@[simp] theorem standAt_mem (f n s) : (standAt f n s).mem = s.mem := by
  unfold standAt
  split <;> rfl

theorem inflightMembers_ok (f) : MembersOk (inflightMembers f) := membersOk_memberOfWord _ _

theorem membersOk_take {ms : List (Nat × Member)} (h : MembersOk ms) (n : Nat) : MembersOk (ms.take n) :=
  fun x hx => h x (List.mem_of_mem_take hx)

theorem commitBefore_wf {f n} {s t : State} (hs : memWf s.mem = true) (h : commitBefore f n s = some t) :
    memWf t.mem = true := by
  unfold commitBefore at h
  split at h <;> cases h
  exact performConvoy_wf (membersOk_take (inflightMembers_ok f) n) hs ‹_›

theorem cutFsend_wf (f n) {s : State} (hs : memWf s.mem = true) : memWf ((cutFsend f n s).getD s).mem = true := by
  unfold cutFsend
  cases e : commitBefore f n s with
  | none => exact hs
  | some t => simpa using commitBefore_wf hs e

theorem stopAppend_wf {m : Nat × Member} (hm : MemberOk m.2) {cap} {s t : State} (hs : memWf s.mem = true)
    (h : stopAppend m cap s = some t) : memWf t.mem = true := by
  unfold stopAppend at h
  split at h
  · cases h
  · split at h
    · cases h
    · rename_i e
      have h' := performConvoy_wf (membersOk_singleton m.1 hm) (by exact hs) e
      split at h
      · cases h
      · dsimp only at h
        split at h <;> cases h
        exact h'

@[simp] theorem keepsMem_cutRestartable (f n w) : KeepsMem (cutRestartable f n w) := by
  refine keepsMem_get_bind fun s hs => ?_
  split
  · rename_i s1 m h1 hm
    have hs1 := commitBefore_wf hs h1
    refine keepsMem_ite (keepsMem_pure _) (keepsMem_bind (keepsMem_freeBelow _) fun k => keepsMem_get_bind fun e _ => ?_)
    split <;> rename_i h2
    · refine keepsMem_set ?_
      rw [standAt_mem]
      exact stopAppend_wf (inflightMembers_ok f m (List.mem_of_getElem? hm)) (by exact hs1) h2
    · exact keepsMem_pure _
  · exact keepsMem_pure _

@[simp] theorem keepsMem_cutConvoy : KeepsMem cutConvoy := by
  refine keepsMem_bind keepsMem_getStrand fun st => ?_
  split
  · exact keepsMem_pure _
  · refine keepsMem_ite (keepsMem_pure _) ?_
    dsimp only
    split
    · exact keepsMem_modify fun s hs => cutFsend_wf _ _ hs
    · exact by_parts
    · exact keepsMem_pure _

theorem saveBay_wf (s bl) (hs : memWf s.mem = true) : memWf (saveBay s bl).1.mem = true := by
  unfold saveBay
  extract_lets s1 bay s2
  have h : memWf s2.mem = true := by
    unfold s2 s1
    exact by_parts
  rw [leaveBay_mem]
  exact foldl_wf (fun s w hs => clearWay_wf s bl.bay w hs) _ h

theorem saveBays_wf : ∀ (l : List Block) {s : State}, memWf s.mem = true → memWf (saveBays s l).1.mem = true
  | [], _, hs => hs
  | bl :: t, s, hs => saveBays_wf t (saveBay_wf s bl hs)

@[simp] theorem writeSaveArea_wf (s st) (hs : memWf s.mem = true) : memWf (writeSaveArea s st).mem = true := by
  unfold writeSaveArea
  exact by_parts

@[simp] theorem saveStrand_wf (s k) (hs : memWf s.mem = true) : memWf (saveStrand s k).mem = true := by
  unfold saveStrand
  split
  · exact hs
  · split
    · exact hs
    · exact writeSaveArea_wf _ _ (saveBays_wf _ hs)

@[simp] theorem keepsMem_saveStrands (a) : KeepsMem (saveStrands a) := by
  fun_induction saveStrands a <;> exact by_parts

@[simp] theorem endsOk_execPreemptionSaved (bent s) (hs : memWf s.mem = true) : EndsOk (execPreemptionSaved bent s) := by
  unfold execPreemptionSaved
  exact by_parts

/-! ### The runtime instructions (R391 to R398, R402, R403) -/

@[simp] theorem keepsMem_dropEntries (x) : KeepsMem (dropEntries x) := by
  unfold dropEntries
  exact by_parts

@[simp] theorem writePins_wf (s x) (hs : memWf s.mem = true) : memWf (writePins s x).mem = true := by
  unfold writePins
  exact by_parts

@[simp] theorem keepsMem_invStart (fn b a d) : KeepsMem (invStart fn b a d) := by
  unfold invStart
  exact by_parts

@[simp] theorem endsOk_execTlbinv (b a d s) (hs : memWf s.mem = true) : EndsOk (execTlbinv b a d s) := by
  unfold execTlbinv
  exact by_parts

@[simp] theorem endsOk_execTlbinva (b a d s) (hs : memWf s.mem = true) : EndsOk (execTlbinva b a d s) := by
  unfold execTlbinva
  exact by_parts

@[simp] theorem endsOk_execTlbsync (s) (hs : memWf s.mem = true) : EndsOk (execTlbsync s) := by
  unfold execTlbsync
  exact by_parts

@[simp] theorem keepsMem_replayWatch (va n acc) : KeepsMem (replayWatch va n acc) := by
  unfold replayWatch
  exact by_parts

@[simp] theorem keepsMem_ordDiffers (b line va) : KeepsMem (ordDiffers b line va) :=
  keepsMem_bind (keepsMem_translatePages ..) fun _ => keepsMem_bind (keepsMem_translatePages ..) fun _ => by
    split <;> exact keepsMem_pure _

@[simp] theorem keepsMem_replayStore (b line rq joins bs) : KeepsMem (replayStore b line rq joins bs) := by
  unfold replayStore
  exact by_parts

@[simp] theorem keepsMem_replayAtomics (b line op w64 a) : KeepsMem (replayAtomics b line op w64 a) := by
  fun_induction replayAtomics b line op w64 a <;> exact by_parts

@[simp] theorem keepsMem_replaySlack (b line a) : KeepsMem (replaySlack b line a) := by
  fun_induction replaySlack b line a <;> exact by_parts

@[simp] theorem keepsMem_spreadLogged (b e) : KeepsMem (spreadLogged b e) := by
  unfold spreadLogged
  exact by_parts

@[simp] theorem keepsMem_replayOp (b e) : KeepsMem (replayOp b e) := by
  unfold replayOp
  exact by_parts

@[simp] theorem keepsMem_replayEntry (b e) : KeepsMem (replayEntry b e) := by
  unfold replayEntry
  exact by_parts

@[simp] theorem keepsMem_removeEntry (seq) : KeepsMem (removeEntry seq) := by
  unfold removeEntry
  exact by_parts

@[simp] theorem keepsMem_replayLog (a) : KeepsMem (replayLog a) := by
  fun_induction replayLog a <;> exact by_parts

@[simp] theorem endsOk_execSlogrp (d s) (hs : memWf s.mem = true) : EndsOk (execSlogrp d s) := by
  unfold execSlogrp
  exact by_parts

@[simp] theorem endsOk_execSlogdrop (b a d s) (hs : memWf s.mem = true) : EndsOk (execSlogdrop b a d s) := by
  unfold execSlogdrop
  exact by_parts

@[simp] theorem endsOk_execPgpin (a d s) (hs : memWf s.mem = true) : EndsOk (execPgpin a d s) := by
  unfold execPgpin
  exact by_parts

@[simp] theorem endsOk_execPgunpin (a d s) (hs : memWf s.mem = true) : EndsOk (execPgunpin a d s) := by
  unfold execPgunpin
  exact by_parts

@[simp] theorem endsOk_execCtxsave (b a d s) (hs : memWf s.mem = true) : EndsOk (execCtxsave b a d s) := by
  unfold execCtxsave
  exact by_parts

@[simp] theorem endsOk_execCtxrest (b a d s) (hs : memWf s.mem = true) : EndsOk (execCtxrest b a d s) := by
  unfold execCtxrest
  exact by_parts

@[simp] theorem endsOk_execStubq (a d s) (hs : memWf s.mem = true) : EndsOk (execStubq a d s) := by
  unfold execStubq
  exact by_parts

/-! ### Scalar instructions (R73 to R92) -/

section
variable {s : State}

theorem endsOk_scalarOp {d v} (hs : memWf s.mem = true) : EndsOk (scalarOp d v s) := by
  unfold scalarOp
  split
  · exact endsOk_next.mpr hs
  · simp

theorem endsOk_regOp {f b a d} (hs : memWf s.mem = true) : EndsOk (regOp f b a d s) := endsOk_scalarOp hs
theorem endsOk_regOp1 {f a d} (hs : memWf s.mem = true) : EndsOk (regOp1 f a d s) := endsOk_scalarOp hs
theorem endsOk_immOp {f i a d} (hs : memWf s.mem = true) : EndsOk (immOp f i a d s) := endsOk_scalarOp hs

theorem endsOk_branchOp {cond i b a} (hs : memWf s.mem = true) : EndsOk (branchOp cond i b a s) := by
  unfold branchOp
  split
  · exact endsOk_next.mpr hs
  · simp

theorem endsOk_fpOp {d f} (hs : memWf s.mem = true) : EndsOk (fpOp d f s) := by
  unfold fpOp
  split
  · exact endsOk_next.mpr hs
  · simp

theorem endsOk_fpOp2 {f op b a d} (hs : memWf s.mem = true) : EndsOk (fpOp2 f op b a d s) := endsOk_fpOp hs
theorem endsOk_fpOp1 {f op a d} (hs : memWf s.mem = true) : EndsOk (fpOp1 f op a d s) := endsOk_fpOp hs
theorem endsOk_fmaOp {f np c b a d} (hs : memWf s.mem = true) : EndsOk (fmaOp f np c b a d s) := endsOk_fpOp hs

@[simp] theorem endsOk_execJal {i d} (hs : memWf s.mem = true) : EndsOk (execJal i d s) := by
  unfold execJal
  split
  · exact endsOk_next.mpr hs
  · simp

@[simp] theorem endsOk_execJalr {i a d} (hs : memWf s.mem = true) : EndsOk (execJalr i a d s) := by
  unfold execJalr
  split
  · exact endsOk_next.mpr hs
  · simp

@[simp] theorem keepsMem_jtEntry (a) : KeepsMem (jtEntry a) := by
  unfold jtEntry
  exact by_parts

@[simp] theorem endsOk_execJt {n b a} (hs : memWf s.mem = true) : EndsOk (execJt n b a s) := by
  unfold execJt
  exact by_parts

@[simp] theorem keepsMem_scalarLoad (a n rq) : KeepsMem (scalarLoad a n rq) := by
  unfold scalarLoad
  exact by_parts

@[simp] theorem keepsMem_scalarStore (a n v rq) : KeepsMem (scalarStore a n v rq) := by
  unfold scalarStore
  exact by_parts

theorem endsOk_loadOp {n ext rq i a d} (hs : memWf s.mem = true) : EndsOk (loadOp n ext rq i a d s) := by
  unfold loadOp
  exact by_parts

theorem endsOk_storeOp {n rq i a b} (hs : memWf s.mem = true) : EndsOk (storeOp n rq i a b s) := by
  unfold storeOp
  exact by_parts

end

/-! ### Every instruction and event -/

theorem endsOk_registers {word pipe whole bad width} {f : Span → Strand → Strand} {s : State} (hs : memWf s.mem = true) :
    EndsOk (runSolo word (plainMember pipe whole bad width fun sp => modStrand (f sp)) s) := endsOk_runSolo _ memberOk_registers hs

/-- What an instruction or event does keeps the memory canonical. -/
theorem endsOk_exec (i : Instr) {s : State} (hs : memWf s.mem = true) : EndsOk (exec i s) := by
  delta exec
  cases i with
  | add | sub | and | or | xor | sll | srl | sra | slt | sltu | min | max | minu | maxu | mul | mulh | mulhu
  | div | divu | rem | remu =>
    exact endsOk_regOp hs
  | clz | ctz | popc | slli | srli | srai =>
    exact endsOk_regOp1 hs
  | addi | andi | ori | xori | slti | sltiu =>
    exact endsOk_immOp hs
  | sel | lui | auipc | fclass =>
    exact endsOk_scalarOp hs
  | beq | bne | blt | bge | bltu | bgeu =>
    exact endsOk_branchOp hs
  | ldb | ldh | ldw | ldd | ldbu | ldhu | ldwu =>
    exact endsOk_loadOp hs
  | stb | sth | stw | std =>
    exact endsOk_storeOp hs
  | faddD | fsubD | fmulD | fdivD | fminD | fmaxD | faddS | fsubS | fmulS | fdivS | fminS | fmaxS | feqD | fltD
  | fleD | feqS | fltS | fleS =>
    exact endsOk_fpOp2 hs
  | fsqrtD | fsqrtS | fcvtLD | fcvtSD | fcvtDS | fcvtLS =>
    exact endsOk_fpOp1 hs
  | fmad | fnmad | fmas | fnmas =>
    exact endsOk_fmaOp hs
  | fcvtDL | fcvtSL =>
    exact endsOk_fpOp hs
  | vadd | vsub | vrsub | vmul | vmulh | vmulhu | vand | vor | vxor | vsll | vsrl | vsra | vmin | vmax | vminu
  | vmaxu | vsadd | vssub | vsaddu | vssubu | vmadd | vabsd | vaddVx | vsubVx | vrsubVx | vmulVx | vmulhVx
  | vmulhuVx | vandVx | vorVx | vxorVx | vsllVx | vsrlVx | vsraVx | vminVx | vmaxVx | vminuVx | vmaxuVx
  | vsaddVx | vssubVx | vsadduVx | vssubuVx | vmaddVx | vabsdVx | vaddVi | vrsubVi | vandVi | vorVi | vxorVi
  | vsllVi | vsrlVi | vsraVi | vsaddVi | vsadduVi | vcmpEq | vcmpNe | vcmpLt | vcmpLtu | vcmpLe | vcmpLeu
  | vcmpGt | vcmpGtu | vcmpEqVx | vcmpNeVx | vcmpLtVx | vcmpLtuVx | vcmpLeVx | vcmpLeuVx | vcmpGtVx | vcmpGtuVx
  | vcmpEqVi | vcmpNeVi | vcmpLtVi | vcmpLtuVi | vcmpLeVi | vcmpLeuVi | vcmpGtVi | vcmpGtuVi | vmv | vsplat
  | vext | vid | vmerge | vslup | vsldn | vgathr | vcompr | vrev | vxchgX | vxchgR | vredsum | vredmax | vredmin
  | vredmaxu | vredminu | vredand | vredor | vredxor | vargmax | vargmin | vfredsum | vfredtree | vfredmax
  | vfargmax | vtopk | vftopk | vscan | vscanc | vfscanc | mand | mor | mxor | mandn | mnot | mpopc | mfirst
  | mset | mclr | mmv | vfadd | vfsub | vfmul | vfdiv | vfsqrt | vfmin | vfmax | vfrsq | vfrcp | vfexp2 | vflog2
  | vfabs | vfneg | vfsgnj | vfclass | vfaddVx | vfsubVx | vfmulVx | vfdivVx | vfminVx | vfmaxVx | vfsgnjVx
  | vfma | vfnma | vfmsa | vfnmsa | vfcmpEq | vfcmpNe | vfcmpLt | vfcmpLe | vfcmpGt | vfcmpGe | vfcmpUnord
  | vfcmpOrd | vfcmpEqVx | vfcmpNeVx | vfcmpLtVx | vfcmpLeVx | vfcmpGtVx | vfcmpGeVx | vfcmpUnordVx | vfcmpOrdVx
  | vcvt | vscale | vqnt | vdqnt =>
    exact endsOk_registers hs
  | vamoadd | vamoand | vamoor | vamoxor | vamomin | vamomax | vamominu | vamomaxu | vamoswap | vamofadd =>
    exact endsOk_runSolo _ (memberOk_vamoMember ..) hs
  | vnop | vld | vst | vlds | vsts | vldx | vstx | vlseg | vsseg | lsld | lsst | vspl | vfil | cwb | cinv
  | cflush | pref | wayconv | wayrest | cflushall | lvcinv | ldtol | qappend | fldl | fpack | fst | fisect
  | funion | fmerge | fsort | fcompact | fexpand | fgather | fscat | fmapv | flen | fcoord | fvals | fsplit
  | fclr | fldf | fcombine | fpref | fsend | frecv | jclm | jclmAny | jrel | jld | jfil | jfilGather | tmma
  | tmms | ttrn | tmov | tzero | tstat | twait | slkadd | slkaddx =>
    exact endsOk_runSolo _ (by simp) hs
  | _ => simp [hs]

/-! ### The step (R9, R23, R29) -/

@[simp] theorem endsOk_runWords (words) {s : State} (hs : memWf s.mem = true) : EndsOk (runWords words s) := by
  unfold runWords
  split
  · simp
  · split
    · exact endsOk_exec _ hs
    · exact endsOk_rejectWord _ _ _ hs
  · refine endsOk_runConvoy _ (fun m hm => ?_) hs
    obtain ⟨_, _, e⟩ := List.mem_map.mp hm
    exact memberOk_of_memberOfWord e

@[simp] theorem keepsMem_passingWords : KeepsMem passingWords := by
  unfold passingWords
  exact by_parts

/-- Each instruction performed before a held read keeps the memory canonical, and so do those that end them. -/
theorem passRead_wf (d) : ∀ (n : Nat) {s : State}, memWf s.mem = true → memWf (passRead d n s).mem = true
  | 0, _, hs => hs
  | n + 1, s, hs => by
    unfold passRead
    split
    · rename_i h1
      split
      · exact hs
      · split <;> rename_i h2
        · split
          · exact passRead_wf d n ((endsOk_runWords _ (keepsMem_passingWords.ok hs h1)).next h2)
          · exact hs
        · exact hs
    · exact hs

@[simp] theorem atPc_mem (pc s) : (atPc pc s).mem = s.mem := by
  unfold atPc
  split <;> rfl

theorem endsOk_runHeld (w) {s : State} (hs : memWf s.mem = true) : EndsOk (runHeld w s) := by
  have again {t : State} (ht : memWf t.mem = true) : EndsOk (runWords [w] t) := endsOk_runWords _ ht
  unfold runHeld
  split
  · simp
  · rename_i st _
    dsimp only
    split
    · exact again hs
    · split
      · simp
      · have h1 := passRead_wf (bits w 7 6) (Config.free s.fresh) (s := atPc (st.r.pc + 4) { s with fresh := s.fresh + 1 })
          (by rwa [atPc_mem])
        split <;> rename_i h2
        · have h2' := (again (by exact h1)).next h2
          split
          · simp
          · split
            · exact endsOk_next.mpr h2'
            · exact again (by exact hs)
        · exact again (by exact hs)

theorem endsOk_runIssued (words) {s : State} (hs : memWf s.mem = true) : EndsOk (runIssued words s) := by
  unfold runIssued
  split
  · split
    · exact endsOk_runHeld _ hs
    · exact endsOk_runWords _ hs
  · exact endsOk_runWords _ hs

@[simp] theorem keepsMem_consumed (words) : KeepsMem (consumed words) := by
  unfold consumed
  exact by_parts

theorem endsOk_runStrand {s : State} (hs : memWf s.mem = true) : EndsOk (runStrand s) := by
  unfold runStrand
  split
  · simp
  · split
    · exact endsOk_takeSlog s hs
    · rename_i st _ _
      have hx : KeepsMem (do
          let ws ← fetchIssue
          let s ← get
          let hit ← if issueFault st ws s then pure none else consumed ws
          return (ws, hit) : M (List Nat × Option (Nat × Nat))) := by_parts
      split <;> rename_i e
      · exact endsOk_stopped _ (hx.error hs e)
      · exact endsOk_unasked _ _ (endsOk_damagedAt _ _ _ _ (hx.ok hs e))
      · exact endsOk_unasked _ _ (endsOk_healed _ _ (endsOk_runIssued _ (hx.ok hs e)))

theorem endsOk_runEngine (e) {s : State} (hs : memWf s.mem = true) : EndsOk (runEngine e s) := by
  unfold runEngine
  split
  · exact endsOk_execEngineCommandStart _ _ _ hs
  · split <;> rename_i h
    · exact endsOk_execEngineCommandEnd _ _ (keepsMem_freeBit.ok hs h)
    · exact endsOk_execEngineCommandStart _ _ _ (keepsMem_freeBit.ok hs h)
    · simp

theorem endsOk_runRequest (n) {s : State} (hs : memWf s.mem = true) : EndsOk (runRequest n s) := by
  unfold runRequest
  split <;> rename_i h
  · split
    · exact endsOk_execPeerRetryResend _ _ (keepsMem_freeBit.ok hs h)
    · exact endsOk_execPeerRequestTimeout _ _ (keepsMem_freeBit.ok hs h)
  · simp

theorem endsOk_runTurn {s : State} (hs : memWf s.mem = true) : ∀ t : Turn, EndsOk (runTurn s t)
  | .strand _ => endsOk_runStrand (by exact hs)
  | .issue b => endsOk_execBentFirstIssue b s hs
  | .engine e => endsOk_runEngine e hs
  | .raising rid => endsOk_execRaisingEnd rid s hs
  | .request n => endsOk_runRequest n hs
  | .admission x => endsOk_runEvent (keepsMem_finishAdmission x) hs
  | .ending e => endsOk_runEvent (keepsMem_finishEnding e) hs

theorem endsOk_runNext {s : State} (hs : memWf s.mem = true) : EndsOk (runNext s) := by
  unfold runNext
  split
  · exact endsOk_runEvent keepsMem_tick hs
  · exact endsOk_runTurn hs _
  · exact endsOk_runTurn (by exact hs) _

theorem endsOk_whileFrozen (i) {s : State} (hs : memWf s.mem = true) : EndsOk (whileFrozen i s) := by
  delta whileFrozen
  cases i with
  | packageReset | powerOnReset | powerLoss | frzN | plumbFreeze | plumbReadout | plumbBudget | functionLevelReset =>
    exact endsOk_exec _ hs
  | baysplitWrite | hostPostedWrite | hostRead | hostAtomicop | launchSlotWrite | registerWrite | rsgoWrite | peerRequest | own
  | owner | ownerAck | redirect | retarget | counterAdvance | leaseRequest | consume =>
    exact endsOk_next.mpr hs
  | _ => exact endsOk_fault _

theorem endsOk_runAgenda (i) {s : State} (hs : memWf s.mem = true) : EndsOk (runAgenda i s) := by
  unfold runAgenda
  split
  · simp
  · split
    · split
      · exact endsOk_exec i hs
      · simp
    · split
      · exact endsOk_whileFrozen i hs
      · exact endsOk_exec i hs

theorem endsOk_stepOf {s : State} (hs : memWf s.mem = true) : EndsOk (stepOf s) := by
  unfold stepOf
  split
  · exact endsOk_runAgenda _ (by exact hs)
  · split
    · simp
    · split
      · simp
      · exact endsOk_runNext hs

/-- Settles O60: every action of the model keeps memory canonical, and so does the step, which is one of them. -/
theorem memoryStaysCanonical : Obligations.MemoryStaysCanonical := by
  unfold Obligations.MemoryStaysCanonical
  exact fun s t hs h => (endsOk_stepOf hs).next h

end Sys2Proof.Laws

/-! # Decoding and encoding are inverse (O1, O2, O3) -/

namespace Sys2Proof.Laws

open Sys2Proof.Machine

/-! ### From the word of an instruction to its bytes and back -/

/-- Every instruction makes the round trip: its lemma of `RoundTrip`, by its constructor. -/
theorem roundTrip (i : Instr) : RoundTrip.Statement i :=
  open RoundTrip in
  Instr.rec
    add sub and or xor sll srl sra slt sltu min max minu maxu mul mulh mulhu div divu rem remu clz ctz popc sel addi
    andi ori xori slti sltiu slli srli srai lui auipc beq bne blt bge bltu bgeu jal jalr jt ldb ldh ldw ldd ldbu ldhu
    ldwu stb sth stw std faddD fsubD fmulD fdivD fsqrtD fminD fmaxD faddS fsubS fmulS fdivS fsqrtS fminS fmaxS feqD fltD
    fleD feqS fltS fleS fcvtDL fcvtLD fcvtSD fcvtDS fcvtSL fcvtLS fclass fmad fnmad fmas fnmas cxch csetb cclrb cread
    ecall ebreak eret wfi halt ifence pause setvl setvlr vadd vsub vrsub vmul vmulh vmulhu vand vor vxor vsll vsrl vsra
    vmin vmax vminu vmaxu vsadd vssub vsaddu vssubu vmadd vabsd vaddVx vsubVx vrsubVx vmulVx vmulhVx vmulhuVx vandVx
    vorVx vxorVx vsllVx vsrlVx vsraVx vminVx vmaxVx vminuVx vmaxuVx vsaddVx vssubVx vsadduVx vssubuVx vmaddVx vabsdVx
    vaddVi vrsubVi vandVi vorVi vxorVi vsllVi vsrlVi vsraVi vsaddVi vsadduVi vcmpEq vcmpNe vcmpLt vcmpLtu vcmpLe vcmpLeu
    vcmpGt vcmpGtu vcmpEqVx vcmpNeVx vcmpLtVx vcmpLtuVx vcmpLeVx vcmpLeuVx vcmpGtVx vcmpGtuVx vcmpEqVi vcmpNeVi vcmpLtVi
    vcmpLtuVi vcmpLeVi vcmpLeuVi vcmpGtVi vcmpGtuVi vmv vsplat vext vid vmerge vnop vslup vsldn vgathr vcompr vrev
    vxchgX vxchgR vredsum vredmax vredmin vredmaxu vredminu vredand vredor vredxor vargmax vargmin vfredsum vfredtree
    vfredmax vfargmax vtopk vftopk vscan vscanc vfscanc mand mor mxor mandn mnot mpopc mfirst mset mclr mmv vsplit vjoin
    vbnone repf vfadd vfsub vfmul vfdiv vfsqrt vfmin vfmax vfrsq vfrcp vfexp2 vflog2 vfabs vfneg vfsgnj vfclass vfaddVx
    vfsubVx vfmulVx vfdivVx vfminVx vfmaxVx vfsgnjVx vfma vfnma vfmsa vfnmsa vfcmpEq vfcmpNe vfcmpLt vfcmpLe vfcmpGt
    vfcmpGe vfcmpUnord vfcmpOrd vfcmpEqVx vfcmpNeVx vfcmpLtVx vfcmpLeVx vfcmpGtVx vfcmpGeVx vfcmpUnordVx vfcmpOrdVx vcvt
    vscale vqnt vdqnt vld vst vlds vsts vldx vstx vlseg vsseg lsld lsst vspl vfil cwb cinv cflush pref wayconv wayrest
    cflushall lvcinv ldtol qappend fldl fpack fst fisect funion fmerge fsort fcompact fexpand fgather fscat fmapv flen
    fcoord fvals fsplit fclr fldf fcombine fpref fprefStreamFetch fsend fsendReservationGrant fibreMessageArrival frecv
    jclm jclmAny jrel jld jfil jfilGather tmma tmms ttrn multiplyLastStep tileReady tmov tzero tstat twait amoadd amoand
    amoor amoxor amomin amomax amominu amomaxu amoswap amocas amofadd vamoadd vamoand vamoor vamoxor vamomin vamomax
    vamominu vamomaxu vamoswap vamofadd vamoPrepare vamoPerform slkadd slkaddx grow grant drain dack draw drawn linedraw
    ret tolq tolgo slkdef slkdraw slkqry slkrel fenceAcq fenceRel fenceAr fenceSc fenceS2v fenceV2s fenceCode fenceSlk
    waita waitaWake waitaHostPoll waitTimeout bars bara barw barrierWake xcopy xgather xpool xexpand xcoll xcancel
    xquery xswap xmig xseal xeQueueRoom engineCommandStart engineCommandEnd collectiveRingStep collectiveAbort
    ticketExpiry migrationFlip own retarget owner ownerAck stubTimeout peerRequest redirect peerRequestTimeout
    peerRetryResend counterAdvance leaseRequest consume leaseExpiry raise qpush qpushRoom qpushCandidateMark qpop exit
    yield stgdone raisingEnd tlbinv tlbinva tlbsync ctxsave ctxrest slogrp slogdrop pgpin pgunpin stubq convoyIssue
    elementGroupCommit trapEntry slog s2FaultHeartwood wfiWake launchSlotWrite placeBent bentFirstIssue createInstance
    priorityAging stageScoring preemption preemptionSaved arbiterGrant baysplitWrite registerWrite heartwoodCsrWrite
    rsgoWrite resyncComplete hostPostedWrite hostRead functionLevelReset packageReset powerOnReset frzN plumbFreeze
    plumbReadout plumbBudget correctableError uncorrectableError scrub accessPerformed hostAtomicop powerLoss
    domainFormation counterAllocation virtualFunctionMapping
    i

/-- A word is read back from its four bytes (R2). -/
theorem wordOf_bytesOfWord {w : Nat} (h : w < 2 ^ 32) :
    wordOf (BitVec.ofNat 8 w) (BitVec.ofNat 8 (w / 2 ^ 8)) (BitVec.ofNat 8 (w / 2 ^ 16)) (BitVec.ofNat 8 (w / 2 ^ 24)) = w := by
  simp only [wordOf, BitVec.toNat_ofNat]
  omega

/-- Decoding bytes uses nothing of the word decoder but its answer at the word of the first four (R29). Said of any word decoder,
so that the kernel does not evaluate this one at an open sum of bytes. -/
theorem decode_factors : ∃ F : (Nat → Except Reject Instr) → List Byte → Except Reject (Instr × List Byte),
    decode = F decodeWord ∧ ∀ f b0 b1 b2 b3 rest i, f (wordOf b0 b1 b2 b3) = .ok i →
      F f (b0 :: b1 :: b2 :: b3 :: rest) = .ok (i, rest) := by
  apply Exists.intro
  constructor
  · delta decode
    generalize decodeWord = g
    exact rfl
  · intro f b0 b1 b2 b3 rest i h
    simp only [h]

/-- Decoding the bytes of a word decodes the word and leaves what follows (R29). -/
theorem decode_bytesOfWord {w : Nat} (h : w < 2 ^ 32) {i : Instr} (hd : decodeWord w = .ok i) (rest : List Byte) :
    decode (bytesOfWord w ++ rest) = .ok (i, rest) := by
  obtain ⟨F, hF, hcons⟩ := decode_factors
  rw [hF]
  exact hcons decodeWord _ _ _ _ rest i (by rw [wordOf_bytesOfWord h, hd])

/-- Settles O1: every constructor makes the round trip through its word, and a word through its bytes. -/
theorem decodeOfEncode : Obligations.DecodeOfEncode := by
  unfold Obligations.DecodeOfEncode
  intro i hi w hw
  obtain ⟨hlt, hd⟩ := roundTrip i hi w hw
  exact ⟨hlt, hd, decode_bytesOfWord hlt hd⟩

/-- Settles O3: each sample is the word of its instruction, so O1's round trip decodes it. -/
theorem decodeSamples : Obligations.DecodeSamples := by
  unfold Obligations.DecodeSamples
  have hEnc : ∀ x ∈ Forms.words, x.2.wellFormed = true ∧ encodeWord x.2 = some x.1 := by
    rw [Forms.words]
    decide
  intro x hx
  obtain ⟨hwf, hw⟩ := hEnc x hx
  exact (roundTrip x.2 hwf x.1 hw).2

end Sys2Proof.Laws

/-! # Every word that decodes is the word of its instruction (O2) -/

namespace Sys2Proof.Laws

open Sys2Proof.Machine

-- One proof at a time: elaborated side by side, the rows below take more threads than one text may have.
set_option Elab.async false

/-! ### From a word that decodes to its instruction and back -/

/-- An instruction is well formed and a word is its word. -/
def Encodes (w : Nat) (i : Instr) : Prop := i.wellFormed = true ∧ encodeWord i = some w

/-- The operands of an instruction are read from fields of a word: each is its value and its lowest bit, its field the lowest bit
and the length. -/
inductive Reads (w : Nat) : List (Nat × Nat) → List (Nat × Nat) → Prop
  | nil : Reads w [] []
  | cons {lo n l fs} : Reads w l fs → Reads w (((fieldAt w lo : BitVec n).toNat, lo) :: l) ((lo, n) :: fs)

theorem toNat_fieldAt {n : Nat} (w lo : Nat) : (fieldAt w lo : BitVec n).toNat = bits w lo n := by
  simp [fieldAt, bits]

/-- Operands read from a word are a layout's fields of it, and fit them. -/
theorem Reads.eq_zip {w : Nat} {l fs : List (Nat × Nat)} (h : Reads w l fs) :
    l = (fs.map fun f => bits w f.1 f.2).zip (fs.map (·.1)) ∧ Fits fs (fs.map fun f => bits w f.1 f.2) := by
  induction h with
  | nil => exact ⟨rfl, trivial⟩
  | cons _ ih =>
    obtain ⟨hl, hf⟩ := ih
    exact ⟨by rw [toNat_fieldAt, List.map_cons, List.map_cons, List.zip_cons_cons, ← hl], Nat.mod_lt _ (Nat.two_pow_pos _), hf⟩

/-- What a word holds in the fields of a layout, field by field. -/
theorem holds_map {w : Nat} {g : Nat × Nat → Nat} : ∀ {fs : List (Nat × Nat)}, Holds w fs (fs.map g) →
    ∀ f ∈ fs, bits w f.1 f.2 = g f
  | f :: t, h, f', hf' => by
    obtain ⟨h1, h2⟩ := h
    rcases List.mem_cons.mp hf' with rfl | hm
    · exact h1
    · exact holds_map h2 f' hm

/-- A bit of a field is a bit of the word. -/
theorem testBit_bits (w lo n j : Nat) : (bits w lo n).testBit j = (decide (j < n) && w.testBit (lo + j)) := by
  rw [bits, Nat.testBit_mod_two_pow, Nat.testBit_div_two_pow, Nat.add_comm]

/-- Every bit below 32 lies in one of the fields. -/
def covers (fs : List (Nat × Nat)) : Bool := (List.range 32).all fun j => fs.any fun f => f.1.ble j && j.blt (f.1 + f.2)

/-- Words of 32 bits that agree in fields covering all bits are equal. -/
theorem eq_of_bits {x w : Nat} {fs : List (Nat × Nat)} (hx : x < 2 ^ 32) (hw : w < 2 ^ 32) (hc : covers fs = true)
    (h : ∀ f ∈ fs, bits x f.1 f.2 = bits w f.1 f.2) : x = w := by
  apply Nat.eq_of_testBit_eq
  intro j
  by_cases hj : j < 32
  · simp only [covers, List.all_eq_true, List.any_eq_true, List.mem_range, Bool.and_eq_true, Nat.ble_eq, Nat.blt_eq] at hc
    obtain ⟨f, hf, h1, h2⟩ := hc j hj
    have e := congrArg (fun v => v.testBit (j - f.1)) (h f hf)
    simp only [testBit_bits] at e
    rwa [show f.1 + (j - f.1) = j by omega, decide_eq_true (show j - f.1 < f.2 by omega), Bool.true_and, Bool.true_and] at e
  · have h2 : (2 : Nat) ^ 32 ≤ 2 ^ j := Nat.pow_le_pow_right (by decide) (by omega)
    rw [Nat.testBit_lt_two_pow (by omega), Nat.testBit_lt_two_pow (by omega)]

/-- A row of the opcode table leaves no bit of the word open: its operands fill a layout of the base word, and every other bit
lies in a field, given with its value, that is the base word's. -/
def rowOk (base : Nat) (fs : List (Nat × Nat)) (ks : List (Nat × Nat × Nat)) : Bool :=
  base.blt (2 ^ 32) && layoutOk base fs && covers (fs ++ ks.map fun k => (k.1, k.2.1)) &&
    ks.all fun k => free (k.1, k.2.1) fs && (bits base k.1 k.2.1).beq k.2.2

/-- A word has the listed values in the listed fields. -/
def HasValues (w : Nat) (ks : List (Nat × Nat × Nat)) : Prop := ∀ k ∈ ks, bits w k.1 k.2.1 = k.2.2

theorem HasValues.cons {w lo n v : Nat} {ks : List (Nat × Nat × Nat)} (h : bits w lo n = v) (t : HasValues w ks) :
    HasValues w ((lo, n, v) :: ks) := List.forall_mem_cons.mpr ⟨h, t⟩

/-- The fields that are zero, with their value. -/
def zeroAt (zs : List (Nat × Nat)) : List (Nat × Nat × Nat) := zs.map fun z => (z.1, z.2, 0)

theorem hasValues_zeroAt {w : Nat} {zs : List (Nat × Nat)} (h : allZero w zs = true) : HasValues w (zeroAt zs) := by
  simp only [allZero, List.all_eq_true, beq_iff_eq] at h
  exact List.forall_mem_map.mpr h

/-- The major is the lowest field. -/
theorem hasValues_major {w k : Nat} {ks : List (Nat × Nat × Nat)} (m : w % 128 = k) (h : HasValues w ks) :
    HasValues w ((0, 7, k) :: ks) := h.cons (by simpa [bits] using m)

/-- A word is put together again from the operands a row reads of it. -/
theorem wordWith_reads {w base : Nat} {l fs : List (Nat × Nat)} {ks : List (Nat × Nat × Nat)} (lt : w < 2 ^ 32)
    (hk : HasValues w ks) (r : Reads w l fs) (ok : rowOk base fs ks = true) : wordWith base l = w := by
  simp only [rowOk, Bool.and_eq_true, Nat.blt_eq, List.all_eq_true, Nat.beq_eq] at ok
  obtain ⟨⟨⟨hb, hl⟩, hc⟩, hks⟩ := ok
  obtain ⟨rfl, hfit⟩ := r.eq_zip
  obtain ⟨hlt, hholds, hkeep⟩ := word_layout fs _ base hb hl hfit
  refine eq_of_bits hlt lt hc fun f hf => ?_
  rcases List.mem_append.mp hf with hf | hf
  · exact holds_map hholds f hf
  · obtain ⟨k, hmem, rfl⟩ := List.mem_map.mp hf
    obtain ⟨hfree, hbase⟩ := hks k hmem
    exact (hkeep _ _ hfree).trans (hbase.trans (hk k hmem).symm)

/-- A word is that of a row's instruction, which is well formed. -/
theorem encodes_row {w base : Nat} {i : Instr} {l fs : List (Nat × Nat)} {ks : List (Nat × Nat × Nat)} (lt : w < 2 ^ 32)
    (hk : HasValues w ks) (hi : encodeWord i = some (wordWith base l)) (r : Reads w l fs) (ok : rowOk base fs ks = true)
    (wf : i.wellFormed = true) : Encodes w i :=
  ⟨wf, hi.trans (congrArg some (wordWith_reads lt hk r ok))⟩

/-- So for a row of a table of function codes: the major, the code and the zero fields are the base word's. -/
theorem encodes_tableRow {w base k lo n c : Nat} {zeros : Nat → ZeroFields} {i : Instr} {l fs zs zs' : List (Nat × Nat)}
    (lt : w < 2 ^ 32) (m : w % 128 = k) (f : bits w lo n = c) (hz : zeros (bits w lo n) = .ok zs) (ha : allZero w zs = true)
    (hc : zeros c = .ok zs') (hi : encodeWord i = some (wordWith base l)) (r : Reads w l fs)
    (ok : rowOk base fs ((0, 7, k) :: (lo, n, c) :: zeroAt zs') = true) (wf : i.wellFormed = true) : Encodes w i := by
  obtain rfl : zs = zs' := Except.ok.inj (hz.symm.trans ((congrArg zeros f).trans hc))
  exact encodes_row lt (hasValues_major m ((hasValues_zeroAt ha).cons f)) hi r ok wf

/-- Two operands are equal when their fields are. -/
theorem fieldAt_beq {n : Nat} (w lo lo' : Nat) : ((fieldAt w lo : BitVec n) == fieldAt w lo') = (bits w lo n == bits w lo' n) := by
  rw [Bool.eq_iff_iff, beq_iff_eq, beq_iff_eq, ← BitVec.toNat_inj, toNat_fieldAt, toNat_fieldAt]

/-! ### What a word that decodes has passed -/

/-- A word that is not rejected has its zero fields zero and holds no reserved value. -/
theorem wordReject_none {w : Nat} (h : wordReject w = none) : ∃ zs, zeroFieldsOf w = .ok zs ∧ allZero w zs = true ∧
    lateZeroOk w = true ∧ wordReserved w = false := by
  cases hz : zeroFieldsOf w with
  | error e =>
    simp only [wordReject, hz] at h
    split_ifs at h
  | ok zs =>
    simp only [wordReject, hz] at h
    split_ifs at h with _ _ hzero hres
    simp only [Bool.or_eq_true, Bool.not_eq_true', not_or, Bool.not_eq_false] at hzero
    exact ⟨zs, rfl, hzero.1, hzero.2, by simpa using hres⟩

/-- A word that decodes has passed every check of R54, and its major and function code name the instruction. -/
theorem decodeWord_ok {w : Nat} {i : Instr} (h : decodeWord w = .ok i) : ∃ zs, zeroFieldsOf w = .ok zs ∧ allZero w zs = true ∧
    lateZeroOk w = true ∧ wordReserved w = false ∧ instrOf w = some i := by
  unfold decodeWord at h
  split at h
  · cases h
  · next hrej =>
    obtain ⟨zs, hz, ha, hl, hr⟩ := wordReject_none hrej
    split at h
    · next j hj => exact ⟨zs, hz, ha, hl, hr, hj.trans (congrArg some (Except.ok.inj h))⟩
    · cases h

/-- Every word of a major that decodes is the word of its instruction. -/
def Inverts (k : Nat) : Prop := ∀ w i, w < 2 ^ 32 → w % 128 = k → decodeWord w = .ok i → Encodes w i

/-- So for the words of a major whose table of function codes is `instr`, with the zero fields `zeros` of the code in field
`(lo, n)` and the reserved values `r`. -/
def TableInverts (k lo n : Nat) (zeros : Nat → ZeroFields) (r : Nat → Bool) (instr : Nat → Option Instr) : Prop :=
  ∀ w zs i, w < 2 ^ 32 → w % 128 = k → zeros (bits w lo n) = .ok zs → allZero w zs = true → r w = false → instr w = some i →
    Encodes w i

/-- Each code of a table with no reserved values has its row. -/
theorem inverts_of_table {k lo n : Nat} {zeros : Nat → ZeroFields} {r : Nat → Bool} {instr : Nat → Option Instr}
    (H : ∀ {w}, w % 128 = k → zeroFieldsOf w = zeros (bits w lo n) ∧ lateZeroOk w = true ∧ wordReserved w = r w ∧
      instrOf w = instr w)
    (t : TableInverts k lo n zeros r instr := by
      intro w zs i lt m hz ha hr hi
      dsimp only [instrSop, instrShi, instrFop, instrFmad, instrFmas, instrCsr, instrSys, instrVint, instrVintx, instrVinti,
      instrVcmp, instrVperm, instrVred, instrMask, instrVfp, instrVfpx, instrVfma, instrVfcmp, instrVqnt,
      instrCache, instrJclm, instrAmo, instrVamo, instrSlkadd, instrSlkctl, instrBar, instrXe, instrWork, instrPriv] at hi
      split at hi <;> rename_i f <;> cases hi
      all_goals exact encodes_tableRow lt m f hz ha rfl rfl (by repeat constructor) rfl rfl) : Inverts k := by
  intro w i lt m h
  obtain ⟨zs, hz, ha, -, hr, hi⟩ := decodeWord_ok h
  obtain ⟨ez, -, er, ei⟩ := H m
  exact t w zs i lt m (ez ▸ hz) ha (er ▸ hr) (ei ▸ hi)

/-- A major without function codes has one instruction; its row leaves no bit open where no value is reserved. -/
theorem inverts_of_row {k : Nat} {zs : List (Nat × Nat)} {late r : Nat → Bool} {mk : Nat → Instr}
    (H : ∀ {w}, w % 128 = k → zeroFieldsOf w = .ok zs ∧ lateZeroOk w = late w ∧ wordReserved w = r w ∧ instrOf w = some (mk w))
    (t : ∀ w, w < 2 ^ 32 → w % 128 = k → HasValues w (zeroAt zs) → late w = true → r w = false → Encodes w (mk w) := by
      exact fun _ lt m hz _ _ => encodes_row lt (hasValues_major m hz) rfl (by repeat constructor) rfl rfl) : Inverts k := by
  intro w i lt m h
  obtain ⟨zs', hz, ha, hl, hr, hi⟩ := decodeWord_ok h
  obtain ⟨ez, el, er, ei⟩ := H m
  obtain rfl : zs = zs' := Except.ok.inj (ez.symm.trans hz)
  obtain rfl : mk w = i := Option.some.inj (ei.symm.trans hi)
  exact t w lt m (hasValues_zeroAt ha) (el ▸ hl) (er ▸ hr)

/-- So where the reserved values of the word are those of the instruction. -/
theorem inverts_of_reservedRow {k : Nat} {zs : List (Nat × Nat)} {late r : Nat → Bool} {mk : Nat → Instr}
    (H : ∀ {w}, w % 128 = k → zeroFieldsOf w = .ok zs ∧ lateZeroOk w = late w ∧ wordReserved w = r w ∧ instrOf w = some (mk w))
    (t : ∀ w, w < 2 ^ 32 → w % 128 = k → HasValues w (zeroAt zs) → late w = true → r w = false → Encodes w (mk w) := by
      intro w lt m hz _ hr
      refine encodes_row lt (hasValues_major m hz) rfl (by repeat constructor) rfl ?_
      simpa [Instr.wellFormed, Instr.zeroFieldsOk, Instr.reserved, Instr.eventOk, Instr.scopeReserved, ← BitVec.toNat_inj,
        toNat_fieldAt] using hr) : Inverts k := inverts_of_row H t

/-! ### The tables of function codes with reserved values -/

theorem tableInverts_vmove : TableInverts 0x36 25 7 zerosVmove (fun w => bits w 25 7 == 4 && bits w 22 3 == 0) instrVmove := by
  intro w zs i lt m hz ha hr hi
  unfold instrVmove at hi
  split at hi <;> rename_i f <;> cases hi
  all_goals refine encodes_tableRow lt m f hz ha rfl rfl (by repeat constructor) rfl ?_
  any_goals rfl
  simpa [Instr.wellFormed, Instr.zeroFieldsOk, Instr.reserved, Instr.eventOk, f, ← BitVec.toNat_inj, toNat_fieldAt] using hr

theorem tableInverts_fib : TableInverts 0x60 22 5 zerosFib fibreOverlap instrFib := by
  intro w zs i lt m hz ha hr hi
  unfold instrFib at hi
  split at hi <;> rename_i f <;> cases hi
  all_goals refine encodes_tableRow lt m f hz ha rfl rfl (by repeat constructor) rfl ?_
  any_goals rfl
  all_goals simpa [Instr.wellFormed, Instr.zeroFieldsOk, Instr.reserved, Instr.eventOk, fibreOverlap, f, fieldAt_beq,
    toNat_fieldAt] using hr

theorem tableInverts_fpref : TableInverts 0x61 22 5 zerosFpref (fun w => 61 < bits w 16 6) instrFpref := by
  intro w zs i lt m hz ha hr hi
  unfold instrFpref at hi
  split at hi <;> rename_i f <;> cases hi
  all_goals refine encodes_tableRow lt m f hz ha rfl rfl (by repeat constructor) rfl ?_
  simpa [Instr.wellFormed, Instr.zeroFieldsOk, Instr.reserved, Instr.eventOk, toNat_fieldAt] using hr

theorem tableInverts_fmsg :
    TableInverts 0x62 22 5 zerosFmsg (fun w => bits w 22 5 == 1 && bits w 7 3 == bits w 10 3) instrFmsg := by
  intro w zs i lt m hz ha hr hi
  unfold instrFmsg at hi
  split at hi <;> rename_i f <;> cases hi
  all_goals refine encodes_tableRow lt m f hz ha rfl rfl (by repeat constructor) rfl ?_
  · rfl
  · simpa [Instr.wellFormed, Instr.zeroFieldsOk, Instr.reserved, Instr.eventOk, f, fieldAt_beq] using hr

theorem tableInverts_jfil : TableInverts 0x6B 27 1 zerosJfil (fun w => 60 < bits w 16 6) instrJfil := by
  intro w zs i lt m hz ha hr hi
  unfold instrJfil at hi
  split at hi <;> rename_i f <;> cases hi
  all_goals refine encodes_tableRow lt m f hz ha rfl rfl (by repeat constructor) rfl ?_
  all_goals simpa [Instr.wellFormed, Instr.zeroFieldsOk, Instr.reserved, Instr.eventOk, toNat_fieldAt] using hr

theorem tableInverts_tctl : TableInverts 0x70 25 7 zerosTctl (fun w => bits w 25 7 == 2 && bits w 13 2 != 0) instrTctl := by
  intro w zs i lt m hz ha hr hi
  unfold instrTctl at hi
  split at hi <;> rename_i f <;> cases hi
  · exact encodes_tableRow lt m f hz ha rfl rfl (by repeat constructor) rfl rfl
  · exact encodes_tableRow lt m f hz ha rfl rfl (by repeat constructor) rfl rfl
  · have hb : bits w 13 2 = 0 := by simpa [f] using hr
    rw [f] at hz
    cases hz
    exact encodes_row lt (hasValues_major m (((hasValues_zeroAt ha).cons hb).cons f)) rfl .nil rfl rfl

theorem tableInverts_fence : TableInverts 0x7A 10 3 zerosFence
    (fun w => if bits w 10 3 == 4 || bits w 10 3 == 5 then bits w 7 3 != 0 else 5 < bits w 7 3) instrFence := by
  intro w zs i lt m hz ha hr hi
  unfold instrFence at hi
  split at hi <;> rename_i f <;> cases hi
  case h_5 | h_6 =>
    have hb : bits w 7 3 = 0 := by simpa [f] using hr
    rw [f] at hz
    cases hz
    exact encodes_row lt (hasValues_major m (((hasValues_zeroAt ha).cons hb).cons f)) rfl .nil rfl rfl
  all_goals
    refine encodes_tableRow lt m f hz ha rfl rfl (by repeat constructor) rfl ?_
    simpa [Instr.wellFormed, Instr.zeroFieldsOk, Instr.reserved, Instr.eventOk, Instr.scopeReserved, f, toNat_fieldAt] using hr

/-! ### The majors -/

theorem inverts_01 : Inverts 0x01 := inverts_of_table major_01
theorem inverts_02 : Inverts 0x02 := inverts_of_row major_02
theorem inverts_03 : Inverts 0x03 := inverts_of_row major_03
theorem inverts_04 : Inverts 0x04 := inverts_of_row major_04
theorem inverts_05 : Inverts 0x05 := inverts_of_row major_05
theorem inverts_06 : Inverts 0x06 := inverts_of_row major_06
theorem inverts_07 : Inverts 0x07 := inverts_of_row major_07
theorem inverts_08 : Inverts 0x08 := inverts_of_table major_08
theorem inverts_09 : Inverts 0x09 := inverts_of_row major_09
theorem inverts_0A : Inverts 0x0A := inverts_of_row major_0A
theorem inverts_0B : Inverts 0x0B := inverts_of_row major_0B
theorem inverts_0C : Inverts 0x0C := inverts_of_row major_0C
theorem inverts_0D : Inverts 0x0D := inverts_of_row major_0D
theorem inverts_0E : Inverts 0x0E := inverts_of_row major_0E
theorem inverts_0F : Inverts 0x0F := inverts_of_row major_0F
theorem inverts_10 : Inverts 0x10 := inverts_of_row major_10
theorem inverts_11 : Inverts 0x11 := inverts_of_row major_11
theorem inverts_12 : Inverts 0x12 := inverts_of_row major_12
theorem inverts_13 : Inverts 0x13 := inverts_of_row major_13
theorem inverts_14 : Inverts 0x14 := inverts_of_row major_14
theorem inverts_15 : Inverts 0x15 := inverts_of_row major_15
theorem inverts_16 : Inverts 0x16 := inverts_of_row major_16
theorem inverts_17 : Inverts 0x17 := inverts_of_row major_17
theorem inverts_18 : Inverts 0x18 := inverts_of_row major_18
theorem inverts_19 : Inverts 0x19 := inverts_of_row major_19
theorem inverts_1A : Inverts 0x1A := inverts_of_row major_1A
theorem inverts_1B : Inverts 0x1B := inverts_of_row major_1B
theorem inverts_1C : Inverts 0x1C := inverts_of_row major_1C
theorem inverts_1D : Inverts 0x1D := inverts_of_row major_1D
theorem inverts_1E : Inverts 0x1E := inverts_of_row major_1E
theorem inverts_1F : Inverts 0x1F := inverts_of_table major_1F
theorem inverts_20 : Inverts 0x20 := inverts_of_table major_20
theorem inverts_21 : Inverts 0x21 := inverts_of_table major_21
theorem inverts_22 : Inverts 0x22 := inverts_of_table major_22
theorem inverts_23 : Inverts 0x23 := inverts_of_table major_23
theorem inverts_30 : Inverts 0x30 := inverts_of_row major_30
theorem inverts_31 : Inverts 0x31 := inverts_of_row major_31
theorem inverts_32 : Inverts 0x32 := inverts_of_table major_32
theorem inverts_33 : Inverts 0x33 := inverts_of_table major_33
theorem inverts_34 : Inverts 0x34 := inverts_of_table major_34
theorem inverts_35 : Inverts 0x35 := inverts_of_table major_35
theorem inverts_36 : Inverts 0x36 := inverts_of_table major_36 tableInverts_vmove
theorem inverts_37 : Inverts 0x37 := inverts_of_table major_37
theorem inverts_38 : Inverts 0x38 := inverts_of_table major_38
theorem inverts_3A : Inverts 0x3A := inverts_of_table major_3A
theorem inverts_3B : Inverts 0x3B := inverts_of_row major_3B
theorem inverts_3C : Inverts 0x3C := inverts_of_row major_3C
theorem inverts_3D : Inverts 0x3D := inverts_of_row major_3D
theorem inverts_3E : Inverts 0x3E := inverts_of_row major_3E
theorem inverts_40 : Inverts 0x40 := inverts_of_table major_40
theorem inverts_41 : Inverts 0x41 := inverts_of_table major_41
theorem inverts_42 : Inverts 0x42 := inverts_of_table major_42
theorem inverts_43 : Inverts 0x43 := inverts_of_table major_43
theorem inverts_44 : Inverts 0x44 := inverts_of_reservedRow major_44
theorem inverts_45 : Inverts 0x45 := inverts_of_table major_45
theorem inverts_50 : Inverts 0x50 := by
  refine inverts_of_row major_50 fun w lt m hz hl _ => encodes_row lt (hasValues_major m hz) rfl (by repeat constructor) rfl ?_
  simpa [Instr.wellFormed, Instr.zeroFieldsOk, Instr.reserved, Instr.eventOk, unitFieldZero] using hl
theorem inverts_51 : Inverts 0x51 := by
  refine inverts_of_row major_51 fun w lt m hz hl _ => encodes_row lt (hasValues_major m hz) rfl (by repeat constructor) rfl ?_
  simpa [Instr.wellFormed, Instr.zeroFieldsOk, Instr.reserved, Instr.eventOk, unitFieldZero] using hl
theorem inverts_52 : Inverts 0x52 := inverts_of_reservedRow major_52
theorem inverts_53 : Inverts 0x53 := inverts_of_reservedRow major_53
theorem inverts_54 : Inverts 0x54 := inverts_of_reservedRow major_54
theorem inverts_55 : Inverts 0x55 := inverts_of_reservedRow major_55
theorem inverts_56 : Inverts 0x56 := inverts_of_reservedRow major_56
theorem inverts_57 : Inverts 0x57 := inverts_of_reservedRow major_57
theorem inverts_58 : Inverts 0x58 := by
  refine inverts_of_row major_58 fun w lt m hz _ hr => ?_
  simp only [Bool.or_eq_false_iff, bne_eq_false_iff_eq] at hr
  obtain ⟨hw, h29⟩ := hr
  refine encodes_row lt (hasValues_major m (hz.cons h29)) rfl (by repeat constructor) rfl ?_
  simp only [Instr.wellFormed, Instr.zeroFieldsOk, Instr.reserved, Instr.eventOk, hw, Bool.not_false, Bool.and_true]
theorem inverts_59 : Inverts 0x59 := by
  refine inverts_of_row major_59 fun w lt m hz _ hr => ?_
  simp only [Bool.or_eq_false_iff, bne_eq_false_iff_eq] at hr
  obtain ⟨hw, h29⟩ := hr
  refine encodes_row lt (hasValues_major m (hz.cons h29)) rfl (by repeat constructor) rfl ?_
  simp only [Instr.wellFormed, Instr.zeroFieldsOk, Instr.reserved, Instr.eventOk, hw, Bool.not_false, Bool.and_true]
theorem inverts_5A : Inverts 0x5A := by
  refine inverts_of_row major_5A fun w lt m hz _ hr => ?_
  simp only [Bool.or_eq_false_iff, bne_eq_false_iff_eq] at hr
  obtain ⟨h26, h29⟩ := hr
  exact encodes_row lt (hasValues_major m ((hz.cons h29).cons h26)) rfl (by repeat constructor) rfl rfl
theorem inverts_5B : Inverts 0x5B := by
  refine inverts_of_row major_5B fun w lt m hz _ hr => ?_
  simp only [Bool.or_eq_false_iff, bne_eq_false_iff_eq] at hr
  obtain ⟨h26, h29⟩ := hr
  exact encodes_row lt (hasValues_major m ((hz.cons h29).cons h26)) rfl (by repeat constructor) rfl rfl
theorem inverts_5C : Inverts 0x5C := inverts_of_table major_5C
theorem inverts_5D : Inverts 0x5D := by
  refine inverts_of_row major_5D fun w lt m hz _ hr => ?_
  simp only [Bool.or_eq_false_iff, bne_eq_false_iff_eq] at hr
  obtain ⟨h26, h29⟩ := hr
  exact encodes_row lt (hasValues_major m ((hz.cons h29).cons h26)) rfl (by repeat constructor) rfl rfl
theorem inverts_5E : Inverts 0x5E := inverts_of_reservedRow major_5E
theorem inverts_60 : Inverts 0x60 := inverts_of_table major_60 tableInverts_fib
theorem inverts_61 : Inverts 0x61 := inverts_of_table major_61 tableInverts_fpref
theorem inverts_62 : Inverts 0x62 := inverts_of_table major_62 tableInverts_fmsg
theorem inverts_68 : Inverts 0x68 := inverts_of_table major_68
theorem inverts_69 : Inverts 0x69 := inverts_of_row major_69
theorem inverts_6A : Inverts 0x6A := by
  refine inverts_of_row major_6A fun w lt m hz hl _ => encodes_row lt (hasValues_major m hz) rfl (by repeat constructor) rfl ?_
  simpa [Instr.wellFormed, Instr.zeroFieldsOk, Instr.reserved, Instr.eventOk, ← BitVec.toNat_inj, toNat_fieldAt] using hl
theorem inverts_6B : Inverts 0x6B := inverts_of_table major_6B tableInverts_jfil
theorem inverts_6C : Inverts 0x6C := inverts_of_reservedRow major_6C
theorem inverts_6D : Inverts 0x6D := inverts_of_reservedRow major_6D
theorem inverts_6E : Inverts 0x6E := inverts_of_reservedRow major_6E
theorem inverts_6F : Inverts 0x6F := inverts_of_row major_6F
theorem inverts_70 : Inverts 0x70 := inverts_of_table major_70 tableInverts_tctl
theorem inverts_74 : Inverts 0x74 := inverts_of_table major_74
theorem inverts_75 : Inverts 0x75 := inverts_of_table major_75
theorem inverts_77 : Inverts 0x77 := inverts_of_table major_77
theorem inverts_78 : Inverts 0x78 := inverts_of_table major_78
theorem inverts_7A : Inverts 0x7A := inverts_of_table major_7A tableInverts_fence
theorem inverts_7B : Inverts 0x7B := inverts_of_reservedRow major_7B
theorem inverts_7C : Inverts 0x7C := inverts_of_table major_7C
theorem inverts_7D : Inverts 0x7D := inverts_of_table major_7D
theorem inverts_7E : Inverts 0x7E := inverts_of_table major_7E
theorem inverts_7F : Inverts 0x7F := inverts_of_table major_7F

/-- Every word that decodes is the word of its instruction, which is well formed. -/
theorem encodes_of_decodeWord {w : Nat} {i : Instr} (lt : w < 2 ^ 32) (h : decodeWord w = .ok i) : Encodes w i := by
  obtain ⟨zs, -, -, -, -, hi⟩ := decodeWord_ok h
  unfold instrOf at hi
  split at hi <;> rename_i m
  exacts [inverts_01 w i lt m h, inverts_02 w i lt m h, inverts_03 w i lt m h, inverts_04 w i lt m h,
    inverts_05 w i lt m h, inverts_06 w i lt m h, inverts_07 w i lt m h, inverts_08 w i lt m h,
    inverts_09 w i lt m h, inverts_0A w i lt m h, inverts_0B w i lt m h, inverts_0C w i lt m h,
    inverts_0D w i lt m h, inverts_0E w i lt m h, inverts_0F w i lt m h, inverts_10 w i lt m h,
    inverts_11 w i lt m h, inverts_12 w i lt m h, inverts_13 w i lt m h, inverts_14 w i lt m h,
    inverts_15 w i lt m h, inverts_16 w i lt m h, inverts_17 w i lt m h, inverts_18 w i lt m h,
    inverts_19 w i lt m h, inverts_1A w i lt m h, inverts_1B w i lt m h, inverts_1C w i lt m h,
    inverts_1D w i lt m h, inverts_1E w i lt m h, inverts_1F w i lt m h, inverts_20 w i lt m h,
    inverts_21 w i lt m h, inverts_22 w i lt m h, inverts_23 w i lt m h, inverts_30 w i lt m h,
    inverts_31 w i lt m h, inverts_32 w i lt m h, inverts_33 w i lt m h, inverts_34 w i lt m h,
    inverts_35 w i lt m h, inverts_36 w i lt m h, inverts_37 w i lt m h, inverts_38 w i lt m h,
    inverts_3A w i lt m h, inverts_3B w i lt m h, inverts_3C w i lt m h, inverts_3D w i lt m h,
    inverts_3E w i lt m h, inverts_40 w i lt m h, inverts_41 w i lt m h, inverts_42 w i lt m h,
    inverts_43 w i lt m h, inverts_44 w i lt m h, inverts_45 w i lt m h, inverts_50 w i lt m h,
    inverts_51 w i lt m h, inverts_52 w i lt m h, inverts_53 w i lt m h, inverts_54 w i lt m h,
    inverts_55 w i lt m h, inverts_56 w i lt m h, inverts_57 w i lt m h, inverts_58 w i lt m h,
    inverts_59 w i lt m h, inverts_5A w i lt m h, inverts_5B w i lt m h, inverts_5C w i lt m h,
    inverts_5D w i lt m h, inverts_5E w i lt m h, inverts_60 w i lt m h, inverts_61 w i lt m h,
    inverts_62 w i lt m h, inverts_68 w i lt m h, inverts_69 w i lt m h, inverts_6A w i lt m h,
    inverts_6B w i lt m h, inverts_6C w i lt m h, inverts_6D w i lt m h, inverts_6E w i lt m h,
    inverts_6F w i lt m h, inverts_70 w i lt m h, inverts_74 w i lt m h, inverts_75 w i lt m h,
    inverts_77 w i lt m h, inverts_78 w i lt m h, inverts_7A w i lt m h, inverts_7B w i lt m h,
    inverts_7C w i lt m h, inverts_7D w i lt m h, inverts_7E w i lt m h, inverts_7F w i lt m h, nomatch hi]

/-- Settles O2: by the major and the function code of the word; each row of the tables leaves no bit of the word open. -/
theorem decodedWordIsItsEncoding : Obligations.DecodedWordIsItsEncoding := by
  unfold Obligations.DecodedWordIsItsEncoding
  exact fun w lt i h => encodes_of_decodeWord lt h

end Sys2Proof.Laws

/-! # Runtime-only instructions, releases and acquires, and the invalidations (O49) -/

namespace Sys2Proof.Laws

open Sys2Proof.Machine Sys2Proof.Safety

variable {α β : Type} {s t : State} {st : Strand}

/-! ### The check of runtime-only instructions (R53) -/

/-- A trap at issue names the word and its position (R55). -/
theorem issueTrap_run (hs : strandOf s = some st) (cause : BitVec 8) (word : Nat) :
    (issueTrap cause word : M α) s = .error (.trap { cause := cause, xval := memberXval word (st.r.pc.toNat / 4) }) s := by
  rw [issueTrap, bind_ok (getRegs_run hs)]
  rfl

/-- At runtime level the check passes. -/
theorem needRuntime_runtime (hs : strandOf s = some st) (hl : st.r.level = .runtime) (word : Nat) :
    needRuntime word s = .ok () s := by
  rw [needRuntime, bind_ok (getRegs_run hs), hl]
  rfl

/-- At user level it raises PRIV. -/
theorem needRuntime_user (hs : strandOf s = some st) (hl : st.r.level = .user) (word : Nat) :
    needRuntime word s = .error (.trap { cause := causePriv, xval := memberXval word (st.r.pc.toNat / 4) }) s := by
  rw [needRuntime, bind_ok (getRegs_run hs), hl]
  exact issueTrap_run hs causePriv word

/-- An instruction that begins with the check is refused at user level, whatever it would do. -/
theorem runSeq_refused {word word' : Nat} {f : Unit → M Unit} (hs : strandOf s = some st) (hl : st.r.level = .user)
    (hw : word = word') : runSeq (needRuntime word >>= f) s =
      .next (takeTrap s { cause := causePriv, xval := memberXval word' (st.r.pc.toNat / 4) }) := by
  rw [runSeq_error hs (bind_error (needRuntime_user hs hl word)), hw]
  rfl

theorem runTo_refused {word word' : Nat} {f : Unit → M Word} (hs : strandOf s = some st) (hl : st.r.level = .user)
    (hw : word = word') : runTo (needRuntime word >>= f) s =
      .next (takeTrap s { cause := causePriv, xval := memberXval word' (st.r.pc.toNat / 4) }) := by
  rw [runTo_error (bind_error (needRuntime_user hs hl word)), hw]
  rfl

/-- The word of a form with three registers is the sum of its fields (R32). -/
theorem wordSR_eq (major fn b a d : Nat) :
    wordSR major fn b a d = major + fn * 2 ^ 25 + b * 2 ^ 19 + a * 2 ^ 13 + d * 2 ^ 7 := rfl

/-- The checks of TLBINV and TLBINVA refuse a user strand, too. -/
theorem runSeq_invStart_refused {fn word' : Nat} {b a d : BitVec 6} {f : InvRange → M Unit} (hs : strandOf s = some st)
    (hl : st.r.level = .user) (hw : wordSR 0x7F fn b.toNat a.toNat d.toNat = word') : runSeq (invStart fn b a d >>= f) s =
      .next (takeTrap s { cause := causePriv, xval := memberXval word' (st.r.pc.toNat / 4) }) := by
  have h : invStart fn b a d s = _ := bind_error (needRuntime_user hs hl _)
  rw [runSeq_error hs (bind_error h), hw]
  rfl

/-- Every runtime-only instruction begins with the check of its own word. -/
theorem runtimeOnlyRefused : Parts.RuntimeOnlyRefused := by
  unfold Parts.RuntimeOnlyRefused Forms.runtimeOnly
  intro s st hs hl b a d
  simp only [List.forall_mem_cons]
  refine ⟨?eret, ?halt, ?slkdef, ?tlbinv, ?tlbinva, ?tlbsync, ?ctxsave, ?ctxrest, ?slogrp, ?slogdrop, ?pgpin, ?pgunpin, ?stubq,
    ?xswap, ?xmig, ?xseal, nofun⟩
  case eret => exact runTo_refused hs hl rfl
  case tlbinv | tlbinva => exact runSeq_invStart_refused hs hl ((wordSR_eq ..).trans (by omega))
  all_goals exact runSeq_refused hs hl ((wordSR_eq ..).trans (by omega))

/-! ### Releases and acquires (R303, R309, R314 to R319) -/

/-- The counters after a release at a scope: those it covers are zero, the wider ones lose what was performed at it (R304). -/
theorem writesPerformed_run (hs : strandOf s = some st) (fence : Bool) (scope : Nat) :
    writesPerformed scope s = .ok ⟨⟩ (putStrand s { st with blocks := (Forms.released s st fence scope).blocks }) := by
  rw [writesPerformed, bind_ok (getRegs_run hs)]
  refine (modStrand_run _ hs).trans ?_
  simp only [Forms.released, Bool.or_eq_true, decide_eq_true_eq, beq_iff_eq]
  congr 5
  funext bl
  congr 2
  funext i
  split
  · rfl
  · next h =>
    simp only [not_or, not_lt] at h
    obtain ⟨-, hi⟩ := h
    by_cases h3 : 3 ≤ scope
    · have : 2 ≤ scope - 1 ∧ scope - 1 < i.val := by omega
      simp [lowerOuter, h3, this, show scope ≠ 0 by omega, Vector.getD]
    · have : ¬ (2 ≤ scope - 1) := by omega
      simp [lowerOuter, h3, this, Vector.getD]

/-- A release settles the pending writes that it covers. -/
theorem released_pending (s : State) (st : Strand) (fence : Bool) (scope : Nat) :
    stillMissed (st.pending.map fun w =>
      if (fence && w.unord) || w.bytes.all fun x => covered s scope x.1 then { w with settled := true } else w) =
        (Forms.released s st fence scope).pending := by
  simp only [Forms.released, Forms.pendings, stillMissed, Bool.or_eq_true, Bool.and_eq_true, List.all_eq_true]

/-- A release with empty side logs performs the writes its scope covers. -/
theorem releaseAs_run (hs : strandOf s = some st) (hc : slogCount st = 0) (fence : Bool) (scope : Nat) :
    releaseAs fence scope s = .ok ⟨⟩ (putStrand s (Forms.released s st fence scope)) := by
  rw [releaseAs, bind_ok (getStrand_run hs)]
  simp only [hc, bne_self_eq_false, Bool.false_eq_true, if_false]
  rw [bind_ok (get_run s), bind_ok (modPending_run _ hs), writesPerformed_run (strandOf_putStrand hs _) fence scope,
    putStrand_putStrand, released_pending]
  rfl

/-- A bay with its level cache and copies gone. -/
def clearedBay (b : Bay) : Bay := { b with level := [], copies := [] }

/-- Reading a bay after one bay was cleared. -/
theorem bayOf_setBay_cleared (s : State) (k n : Nat) :
    bayOf (setBay s k (clearedBay (bayOf s k))) n = if n = k then clearedBay (bayOf s n) else bayOf s n := by
  by_cases hk : k < 320
  · by_cases h : n = k
    · subst h
      simp [bayOf, Vector.getD, hk]
    · simp only [bayOf, setBay_bays, Vector.getD, Vector.toArray_setIfInBounds, Array.getD_eq_getD_getElem?, if_neg h]
      rw [Array.getElem?_setIfInBounds_ne (Ne.symm h)]
  · have hr : bayOf s k = State.resetBay := by simp [bayOf, Vector.getD, hk]
    have hc : clearedBay State.resetBay = State.resetBay := rfl
    have hb : bayOf (setBay s k (clearedBay (bayOf s k))) n = bayOf s n := by
      simp only [bayOf, setBay_bays, Vector.setIfInBounds, Array.setIfInBounds, Vector.size_toArray, dif_neg hk]
    rw [hb]
    split
    · next h => rw [h, hr, hc]
    · rfl

/-- Clearing a list of bays changes these bays alone. -/
theorem foldl_clearedBay (l : List Nat) : ∀ s : State, ∃ bays : Vector Bay 320,
    l.foldl (fun s n => setBay s n (clearedBay (bayOf s n))) s = { s with bays := bays } ∧
      ∀ n, bays.getD n State.resetBay = if n ∈ l then clearedBay (bayOf s n) else bayOf s n := by
  induction l with
  | nil => exact fun s => ⟨s.bays, rfl, fun n => by simp [bayOf]⟩
  | cons k t ih =>
    intro s
    obtain ⟨bays, hb, hn⟩ := ih (setBay s k (clearedBay (bayOf s k)))
    refine ⟨bays, hb, fun n => ?_⟩
    rw [hn, bayOf_setBay_cleared]
    by_cases h : n = k
    · simp [h, clearedBay]
    · simp [h]

/-- What was written and not released stands in the blocks. -/
theorem unreleased_putStrand (s : State) {a b : Strand} (h : a.blocks = b.blocks) :
    unreleased (putStrand s a) = unreleased (putStrand s b) := by
  simp only [unreleased, putStrand_strands, List.flatMap_def, List.map_set, h]

/-- Changing the pending writes. -/
theorem modPending_pendings (f : OldWrite → OldWrite) (hs : strandOf s = some st) :
    modPending f s = .ok ⟨⟩ (putStrand s (Forms.pendings st f)) := modPending_run f hs

/-- What an acquire makes of a pending write (R309, R315, R316). -/
def seenWrite (w : OldWrite) : OldWrite := { w with cross := false, unord := w.unord && !w.seen && !w.settled }

/-- The strand after an acquire at device scope or wider. -/
theorem acquiring_eq (s : State) (st : Strand) {scope : Nat} (h : 3 ≤ scope) : Forms.acquiring s st scope =
    { Forms.pendings st seenWrite with
      acquiredAt := s.written.length, acquiredStale := unreleased (putStrand s (Forms.pendings st seenWrite)) } := by
  have he : unreleased (putStrand s (Forms.pendings st seenWrite)) = unreleased (putStrand s st) := unreleased_putStrand s rfl
  rw [he, Forms.acquiring, if_pos h, if_pos h]
  rfl

/-- An acquire at device scope or wider. -/
theorem acquire_run (hs : strandOf s = some st) {scope : Nat} (h : 3 ≤ scope) : ∃ bays, Forms.acquired s st scope bays ∧
    acquire scope s = .ok ⟨⟩ (putStrand { s with bays := bays } (Forms.acquiring s st scope)) := by
  obtain ⟨bays, hb, hn⟩ := foldl_clearedBay (attached st) (putStrand s (Forms.acquiring s st scope))
  have h0 : scope ≠ 0 := by omega
  refine ⟨bays, fun n => ?_, ?_⟩
  · rw [hn]
    simp only [ne_eq, h0, not_false_iff, true_and]
    rfl
  · have hs1 := strandOf_putStrand hs
    have hb0 : (scope != 0) = true := bne_iff_ne.mpr h0
    refine (bind_ok (modPending_pendings seenWrite hs)).trans ?_
    rw [if_pos h, bind_ok (get_run _), bind_ok (modStrand_run _ (hs1 _)), putStrand_putStrand, if_pos hb0]
    have hg := getStrand_run (hs1 (Forms.acquiring s st scope))
    rw [acquiring_eq s st h] at hg hb ⊢
    exact (bind_ok hg).trans (congrArg (EStateM.Result.ok PUnit.unit) hb)

/-! ### Covered pins and dropped translations (R392) -/

/-- The states differ in memory and its poison alone. -/
def OnlyMem (s t : State) : Prop := ∃ m p, t = { s with mem := m, poison := p }

theorem OnlyMem.strandOf {s t : State} (h : OnlyMem s t) : strandOf t = Machine.strandOf s := by
  obtain ⟨m, p, rfl⟩ := h
  rfl

/-- Actions on memory and its poison alone, one after another. -/
theorem onlyMem_foldl {f : State → α → State} (hf : ∀ s x, OnlyMem s (f s x)) (l : List α) :
    ∀ s : State, OnlyMem s (l.foldl f s) := by
  induction l with
  | nil => exact fun s => ⟨s.mem, s.poison, rfl⟩
  | cons x t ih =>
    intro s
    obtain ⟨m, p, h⟩ := hf s x
    obtain ⟨m', p', h'⟩ := ih (f s x)
    exact ⟨m', p', by rw [List.foldl_cons, h', h]⟩

theorem onlyMem_copyKeys (s : State) (x y n : Nat) : OnlyMem s (copyKeys s x y n) := ⟨_, _, rfl⟩

theorem onlyMem_writePins (s : State) (x : InvRange) : OnlyMem s (writePins s x) := by
  unfold writePins
  refine onlyMem_foldl ?_ _ s
  exact fun s p => onlyMem_copyKeys s p.window p.backing 4096

/-- What a drop does to the commands of a strand that wait for a place in their queue. -/
def droppedXe (x : InvRange) (st : Strand) : Strand :=
  { st with pendingXe := st.pendingXe.map fun y => (y.1, dropCommand x [] y.2) }

/-- The state that a drop leaves (R338, R392). -/
def dropped (x : InvRange) (s : State) : State :=
  { s with
    bays := s.bays.map fun b => { b with tlb := b.tlb.filter fun e => !x.drops e }
    engineTlb := s.engineTlb.filter fun e => !x.drops e.2
    walkers := s.walkers.filter fun w => !x.dropsWalk w.2
    commands := s.commands.map (dropCommand x (s.engineTlb.filter fun e => x.drops e.2))
    strands := s.strands.map (droppedXe x) }

theorem dropEntries_run (x : InvRange) (s : State) : dropEntries x s = .ok () (dropped x s) := rfl

theorem strandOf_dropped (hs : strandOf s = some st) (x : InvRange) : strandOf (dropped x s) = some (droppedXe x st) := by
  have h : s.strands[s.cur]? = some st := hs
  simp [strandOf, dropped, h]

/-- Which translations a range drops (R391). -/
theorem drops_iff (x : InvRange) (e : TlbEntry) : x.drops e = true ↔ e.vmid = x.vmid ∧
    (if e.glob then x.glob = true else x.all = true ∨ e.asid.toNat = x.asid) ∧
      x.lo < (e.page + 1) * 2 ^ e.size ∧ e.page * 2 ^ e.size < x.lo + x.len := by
  rw [Nat.succ_mul]
  cases hg : e.glob <;> simp [InvRange.drops, InvRange.names, InvRange.meets, hg, and_assoc]

/-- The bays after a drop hold the translations that the range does not meet. -/
theorem mem_tlb_dropped (x : InvRange) (s : State) {n : Nat} (hn : n < 320) (e : TlbEntry) :
    e ∈ (bayOf (dropped x s) n).tlb ↔ e ∈ (bayOf s n).tlb ∧ ¬ x.drops e = true := by
  have h : bayOf (dropped x s) n = { bayOf s n with tlb := (bayOf s n).tlb.filter fun e => !x.drops e } := by
    simp [bayOf, dropped, Vector.getD, hn]
  simp [h]

/-! ### The invalidations (R391 to R393) -/

/-- The range that the registers of an invalidation name. -/
def rangeOf (st : Strand) (b a d : BitVec 6) : InvRange :=
  invRange (vmidOf st) (regRead st.r d.toNat) (regRead st.r a.toNat) (regRead st.r b.toNat)

/-- The operands that an outstanding invalidation keeps. -/
def operandsOf (st : Strand) (b a d : BitVec 6) : Word × Word × Word :=
  (regRead st.r d.toNat, regRead st.r a.toNat, regRead st.r b.toNat)

/-- The checks of an invalidation at runtime level. -/
theorem invStart_run (hs : strandOf s = some st) (hl : st.r.level = .runtime) (fn : Nat) (b a d : BitVec 6) :
    invStart fn b a d s = if (regRead st.r d.toNat).toNat / 2 ^ 18 ≠ 0
      then .error (.trap { cause := causeIllop
                           xval := memberXval (wordSR 0x7F fn b.toNat a.toNat d.toNat) (st.r.pc.toNat / 4) }) s
      else .ok (rangeOf st b a d) s := by
  rw [invStart, bind_ok (needRuntime_runtime hs hl _), bind_ok (getStrand_run hs)]
  simp only [bne_iff_ne]
  split
  · exact issueTrap_run hs _ _
  · rfl

/-- An invalidation of a wrong ASID word is refused. -/
theorem runSeq_invStart_illop (hs : strandOf s = some st) (hl : st.r.level = .runtime) {fn : Nat} {b a d : BitVec 6}
    (hw : (regRead st.r d.toNat).toNat / 2 ^ 18 ≠ 0) (f : InvRange → M Unit) : runSeq (invStart fn b a d >>= f) s =
      .next (takeTrap s
        { cause := causeIllop
          xval := memberXval (0x7F + fn * 2 ^ 25 + b.toNat * 2 ^ 19 + a.toNat * 2 ^ 13 + d.toNat * 2 ^ 7)
            (st.r.pc.toNat / 4) }) := by
  have h := invStart_run hs hl fn b a d
  rw [if_pos hw] at h
  rw [runSeq_error hs (bind_error h)]
  rfl

/-- One that passes its checks goes on with its range. -/
theorem invStart_ok (hs : strandOf s = some st) (hl : st.r.level = .runtime) {fn : Nat} {b a d : BitVec 6}
    (hw : (regRead st.r d.toNat).toNat / 2 ^ 18 = 0) : invStart fn b a d s = .ok (rangeOf st b a d) s := by
  rw [invStart_run hs hl, if_neg (not_not_intro hw)]

/-- What TLBINVA does once it has room for its drain (R393). -/
theorem outstanding_run (hs : strandOf s = some st) (hc : slogCount st = 0) (x : InvRange) (b a d : BitVec 6) :
    (do release 3
        dropEntries x
        modStrand fun st => { st with drains := st.drains ++ [operandsOf st b a d] } : M Unit) s =
      .ok () (putStrand (dropped x (putStrand s (Forms.released s st false 3)))
        { droppedXe x (Forms.released s st false 3) with drains := st.drains ++ [operandsOf st b a d] }) := by
  rw [release, bind_ok (releaseAs_run hs hc false 3), bind_ok (dropEntries_run _ _)]
  exact modStrand_run _ (strandOf_dropped (strandOf_putStrand hs _) x)

section
variable {b a d : BitVec 6} (hs : strandOf s = some st) (hl : st.r.level = .runtime)
  (hw : (regRead st.r d.toNat).toNat / 2 ^ 18 = 0)
include hs hl hw

/-- Of length 0 both are the release alone (R391). -/
theorem execTlbinv_empty (hc : slogCount st = 0) (hx : (rangeOf st b a d).len = 0) :
    execTlbinv b a d s = .next (putStrand s (retired (Forms.released s st false 3) (st.r.pc + 4))) := by
  refine (runSeq_ok hs ?_ (strandOf_putStrand hs (Forms.released s st false 3))).trans (by rw [putStrand_putStrand])
  rw [bind_ok (invStart_ok hs hl hw), release, bind_ok (releaseAs_run hs hc false 3), hx]
  rfl

theorem execTlbinva_empty (hc : slogCount st = 0) (hx : (rangeOf st b a d).len = 0) :
    execTlbinva b a d s = .next (putStrand s (retired (Forms.released s st false 3) (st.r.pc + 4))) := by
  refine (runSeq_ok hs ?_ (strandOf_putStrand hs (Forms.released s st false 3))).trans (by rw [putStrand_putStrand])
  rw [bind_ok (invStart_ok hs hl hw), if_pos hx]
  exact releaseAs_run hs hc false 3

/-- TLBINV releases, drops, writes covered pins back and acquires (R392). -/
theorem execTlbinv_run (hc : slogCount st = 0) (hx : (rangeOf st b a d).len ≠ 0) :
    let rel := Forms.released s st false 3
    let u := writePins (dropped (rangeOf st b a d) (putStrand s rel)) (rangeOf st b a d)
    ∃ bays, Forms.acquired u (droppedXe (rangeOf st b a d) rel) 3 bays ∧ execTlbinv b a d s =
      .next (putStrand { u with bays := bays }
        (retired (Forms.acquiring u (droppedXe (rangeOf st b a d) rel) 3) (st.r.pc + 4))) := by
  intro rel u
  have hu : strandOf u = some (droppedXe (rangeOf st b a d) rel) :=
    (onlyMem_writePins _ _).strandOf.trans (strandOf_dropped (strandOf_putStrand hs rel) _)
  obtain ⟨bays, hb, ha⟩ := acquire_run hu (le_refl 3)
  refine ⟨bays, hb, (runSeq_ok hs ?_ (strandOf_putStrand (s := { u with bays := bays }) hu _)).trans
    (by rw [putStrand_putStrand])⟩
  rw [bind_ok (invStart_ok hs hl hw), release, bind_ok (releaseAs_run hs hc false 3), if_pos (bne_iff_ne.mpr hx),
    bind_ok (dropEntries_run _ _), bind_ok (modify_run _ _)]
  exact ha

/-- TLBINVA with room for its drain (R393). -/
theorem execTlbinva_run (hc : slogCount st = 0) (hx : (rangeOf st b a d).len ≠ 0) (hv : st.wait ≠ .tlbRoom)
    (hd : st.drains.length < 16) :
    let rel := Forms.released s st false 3
    execTlbinva b a d s = .next (putStrand (dropped (rangeOf st b a d) (putStrand s rel)) (retired
      { droppedXe (rangeOf st b a d) rel with
        drains := st.drains ++ [operandsOf st b a d] } (st.r.pc + 4))) := by
  intro rel
  refine (runSeq_ok hs ?_ (strandOf_putStrand (strandOf_dropped (strandOf_putStrand hs rel) _) _)).trans
    (by rw [putStrand_putStrand])
  rw [bind_ok (invStart_ok hs hl hw), if_neg hx, bind_ok (getStrand_run hs), if_neg hv]
  refine (bind_ok (getStrand_run hs)).trans ?_
  rw [if_neg (not_le.mpr hd)]
  exact outstanding_run hs hc (rangeOf st b a d) b a d

/-- A seventeenth TLBINVA waits (R393). -/
theorem execTlbinva_waits (hx : (rangeOf st b a d).len ≠ 0) (hv : st.wait ≠ .tlbRoom) (hd : 16 ≤ st.drains.length) :
    execTlbinva b a d s = .next (putStrand s { st with wait := .tlbRoom }) := by
  refine (runSeq_error hs ?_).trans (by rw [stopped, hs] : stopped (.wait .tlbRoom) s = _)
  rw [bind_ok (invStart_ok hs hl hw), if_neg hx, bind_ok (getStrand_run hs), if_neg hv]
  refine (bind_ok (getStrand_run hs)).trans ?_
  rw [if_pos hd]
  exact bind_error (waitFor_run _ s)

/-- One that goes on completes the oldest drain first (R393). -/
theorem execTlbinva_resumed (hc : slogCount st = 0) (hx : (rangeOf st b a d).len ≠ 0) (hv : st.wait = .tlbRoom)
    {y : Word × Word × Word} {rest : List (Word × Word × Word)} (hd : st.drains = y :: rest) (hr : rest.length < 16) :
    let s0 := writePins s (drainRange st y)
    let rel := Forms.released s0 { st with drains := rest } false 3
    execTlbinva b a d s = .next (putStrand (dropped (rangeOf st b a d) (putStrand s0 rel)) (retired
      { droppedXe (rangeOf st b a d) rel with
        drains := rest ++ [operandsOf st b a d] } (st.r.pc + 4))) := by
  intro s0 rel
  have h0 : strandOf s0 = some st := (onlyMem_writePins s _).strandOf.trans hs
  have h1 := strandOf_putStrand h0 { st with drains := rest }
  refine (runSeq_ok hs ?_ (strandOf_putStrand (strandOf_dropped (strandOf_putStrand h0 rel) _) _)).trans
    (by rw [putStrand_putStrand])
  rw [bind_ok (invStart_ok hs hl hw), if_neg hx, bind_ok (getStrand_run hs), if_pos hv, hd]
  refine (bind_ok (modify_run _ s)).trans ((bind_ok (modStrand_run _ h0)).trans ((bind_ok (getStrand_run h1)).trans ?_))
  rw [if_neg (not_le.mpr hr)]
  refine (outstanding_run h1 hc (rangeOf st b a d) b a d).trans ?_
  rw [putStrand_putStrand]
  rfl

end

/-- TLBSYNC completes every outstanding drain and acquires (R393). -/
theorem execTlbsync_run (hs : strandOf s = some st) (hl : st.r.level = .runtime) :
    let u := st.drains.foldl (fun s y => writePins s (drainRange st y)) s
    ∃ bays, Forms.acquired u st 3 bays ∧ execTlbsync s =
      .next (putStrand { u with bays := bays } (retired { Forms.acquiring u st 3 with drains := [] } (st.r.pc + 4))) := by
  intro u
  have hu : strandOf u = some st :=
    (onlyMem_foldl (fun s y => onlyMem_writePins s (drainRange st y)) st.drains s).strandOf.trans hs
  have h1 := strandOf_putStrand hu { st with drains := [] }
  obtain ⟨bays, hb, ha⟩ := acquire_run h1 (le_refl 3)
  refine ⟨bays, hb, (runSeq_ok hs ?_ (strandOf_putStrand (s := { u with bays := bays }) hu _)).trans
    (by rw [putStrand_putStrand])⟩
  rw [bind_ok (needRuntime_runtime hs hl _), bind_ok (getStrand_run hs)]
  refine (bind_ok (modify_run _ s)).trans ((bind_ok (modStrand_run _ hu)).trans (ha.trans ?_))
  have he : Forms.acquiring (putStrand u { st with drains := [] }) { st with drains := [] } 3 =
      { Forms.acquiring u st 3 with drains := [] } := by
    simp only [acquiring_eq _ _ (le_refl 3), putStrand_putStrand, putStrand_written]
    rw [unreleased_putStrand u (a := Forms.pendings { st with drains := [] } seenWrite) (b := Forms.pendings st seenWrite) rfl]
    rfl
  rw [he]
  exact congrArg _ (putStrand_putStrand { u with bays := bays } { st with drains := [] } _)

/-- The invalidations (R391 to R393). -/
theorem invalidations : Parts.InvalidationResults := by
  unfold Parts.InvalidationResults
  refine ⟨?results, ?drop⟩
  case results =>
    intro s st hs hl b a d w x rel drain mine word illop
    refine ⟨?illop, ?empty, ?full, ?waits, execTlbsync_run hs hl⟩
    case illop => exact fun hw => ⟨runSeq_invStart_illop hs hl hw _, runSeq_invStart_illop hs hl hw _⟩
    case empty =>
      intro hw hc hx
      simp only [List.forall_mem_cons]
      exact ⟨execTlbinv_empty hs hl hw hc hx, execTlbinva_empty hs hl hw hc hx, nofun⟩
    case full =>
      intro hw hc hx
      refine ⟨?now, ?outstanding, ?resumed⟩
      case now =>
        obtain ⟨bays, hb, he⟩ := execTlbinv_run hs hl hw hc hx
        exact ⟨_, _, bays, dropEntries_run _ _, strandOf_dropped (strandOf_putStrand hs _) _, hb, he⟩
      case outstanding =>
        exact fun hv hd => ⟨_, _, dropEntries_run _ _, strandOf_dropped (strandOf_putStrand hs _) _,
          execTlbinva_run hs hl hw hc hx hv hd⟩
      case resumed =>
        intro y rest hv hd hr s0 st0
        have h0 : strandOf s0 = some st := (onlyMem_writePins s _).strandOf.trans hs
        exact ⟨_, _, dropEntries_run _ _, strandOf_dropped (strandOf_putStrand h0 _) _,
          execTlbinva_resumed hs hl hw hc hx hv hd hr⟩
    case waits => exact fun hw hx hv hd => execTlbinva_waits hs hl hw hx hv hd
  case drop =>
    intro s x
    refine ⟨dropped x s, dropEntries_run x s, fun n e hn => ?_, fun e => ?_, rfl,
      fun k st h => ⟨(droppedXe x st).pendingXe, ?_⟩⟩
    · rw [mem_tlb_dropped x s hn e, drops_iff]
    · simp only [dropped, List.mem_filter, Bool.not_eq_true', ← Bool.not_eq_true, drops_iff]
    · simp only [dropped, List.getElem?_map, h]
      rfl

/-- Settles O49: the check of runtime-only instructions, and each invalidation run step by step. -/
theorem invalidationResults : Obligations.InvalidationResults := by
  unfold Obligations.InvalidationResults
  exact ⟨runtimeOnlyRefused, invalidations⟩

end Sys2Proof.Laws

/-! # A step runs the instruction that stands at the pc (O4) -/

namespace Sys2Proof.Laws

open Sys2Proof.Machine Sys2Proof.Safety

variable {α β : Type} {k : Nat}

/-! ### The checks of an access leave the turn with its strand -/

/-- An action leaves the turn with strand `k` (R23). -/
abbrev KeepsCur (k : Nat) (x : M α) : Prop := Keeps (fun s => s.cur = k) x

/-- A fold of steps that each leave the turn. -/
theorem foldl_cur {γ : Type} {f : State → γ → State} (h : ∀ s x, (f s x).cur = s.cur) (l : List γ) :
    ∀ s : State, (l.foldl f s).cur = s.cur := by
  induction l with
  | nil => exact fun _ => rfl
  | cons x t ih => exact fun s => (ih _).trans (h s x)

@[simp] theorem physWrite_cur (s : State) (pa : Nat) (bs : List Byte) : (physWrite s pa bs).cur = s.cur := by
  rw [physWrite_frame]

@[simp] theorem pullBytes_cur (s : State) (pa n : Nat) : (pullBytes s pa n).cur = s.cur := by
  unfold pullBytes
  split
  · rfl
  · rw [homeAccess_frame]

@[simp] theorem setTlb_cur (s : State) (c : XCtx) (l : List TlbEntry) : (setTlb s c l).cur = s.cur := by
  unfold setTlb
  split <;> rfl

@[simp] theorem setAccessed_cur (s : State) (e : TlbEntry) (write : Bool) : (setAccessed s e write).cur = s.cur := by
  refine foldl_cur (fun s l => ?_) e.leaves s
  simp only
  generalize physLoad s l.addr 8 ||| _ ||| _ = new
  split
  · rfl
  · exact physWrite_cur ..

@[simp] theorem settleRedirects_cur (s : State) : (settleRedirects s).cur = s.cur := by
  unfold settleRedirects
  refine foldl_cur (fun s x => ?_) s.redirects s
  split
  · rfl
  · simp [cacheOwner]

theorem keepsCur_freeNat : KeepsCur k freeNat := keeps_freeNat fun _ h => h
theorem keepsCur_freeBelow (n : Nat) : KeepsCur k (freeBelow n) := keeps_bind keepsCur_freeNat fun _ => keeps_pure _
theorem keepsCur_freeBit : KeepsCur k freeBit := keeps_bind keepsCur_freeNat fun _ => keeps_pure _
theorem keepsCur_modStrand (f : Strand → Strand) : KeepsCur k (modStrand f) := keeps_modStrand (fun _ _ h => h) f
theorem keepsCur_modRegs (f : Regs → Regs) : KeepsCur k (modRegs f) := keepsCur_modStrand _
theorem keepsCur_raiseT (t : Trap) : KeepsCur k (raiseT t : M α) := keeps_throw _
theorem keepsCur_set {t : State} (h : t.cur = k) : KeepsCur k (set t) := fun _ _ => h

/-- An action that looks at the state may use whose turn it is. -/
theorem keepsCur_get_bind {f : State → M β} (hf : ∀ s, s.cur = k → KeepsCur k (f s)) : KeepsCur k (get >>= f) :=
  keeps_get_bind fun s hs t ht => hf s hs t ht

theorem keepsCur_getBlock (b : Nat) : KeepsCur k (getBlock b) :=
  keeps_bind keeps_getStrand fun st => by
    split
    · exact keeps_pure _
    · exact keeps_throw _

theorem keepsCur_modBlock (b : Nat) (f : Block → Block) : KeepsCur k (modBlock b f) :=
  keeps_bind (keepsCur_getBlock b) fun _ => keepsCur_modStrand _

/-- Closes `KeepsCur k x` along the parts of `x`. -/
theorem keepsCur_parts {p : Prop} (h : p := by
    try dsimp only
    repeat' first
      | with_reducible first
        | assumption
        | apply keepsCur_get_bind | apply keeps_bind | apply keeps_ite | apply keeps_pure | apply keeps_throw
        | apply keeps_raise | apply keeps_waitFor | apply keeps_getStrand | apply keeps_modify | apply keepsCur_set
        | apply keepsCur_raiseT | apply keepsCur_freeBelow | apply keepsCur_freeBit | apply keepsCur_modRegs
        | apply keepsCur_modBlock | apply keepsCur_getBlock
      | with_reducible intro _
      | split
      | simp [*]; done
      | apply_assumption) : p := h

@[simp] theorem keepsCur_keepBounded (cap) (pick : α → Bool) (l x) : KeepsCur k (keepBounded cap pick l x) := by
  unfold keepBounded
  exact keepsCur_parts

@[simp] theorem keepsCur_keepTable (c stage2 level va t) : KeepsCur k (keepTable c stage2 level va t) := by
  unfold keepTable
  exact keepsCur_parts

@[simp] theorem keepsCur_walkFrom (c stage2 va x y) : KeepsCur k (walkFrom c stage2 va x y) := by
  fun_induction walkFrom c stage2 va x y <;> exact keepsCur_parts

@[simp] theorem keepsCur_walkBoth (c va) : KeepsCur k (walkBoth c va) := by
  unfold walkBoth
  exact keepsCur_parts

@[simp] theorem keepsCur_keepXlat (c e) : KeepsCur k (keepXlat c e) := by
  unfold keepXlat
  exact keepsCur_parts

@[simp] theorem keepsCur_chooseHeld (a) : KeepsCur k (chooseHeld a) := by
  fun_induction chooseHeld a <;> exact keepsCur_parts

@[simp] theorem keepsCur_lookup (c va write) : KeepsCur k (lookup c va write) := by
  unfold lookup
  exact keepsCur_parts

@[simp] theorem keepsCur_translate (c va acc) : KeepsCur k (Machine.translate c va acc) := by
  unfold Machine.translate
  exact keepsCur_parts

@[simp] theorem keepsCur_translatePages (b acc l) : KeepsCur k (translatePages b acc l) := by
  fun_induction translatePages b acc l <;> exact keepsCur_parts

@[simp] theorem keepsCur_stage2Fault (b f t) : KeepsCur k (stage2Fault b f t : M α) := by
  unfold stage2Fault
  exact keepsCur_parts

@[simp] theorem keepsCur_askFar (who pa) : KeepsCur k (askFar who pa) := by
  unfold askFar
  exact keepsCur_parts

@[simp] theorem keepsCur_askPages (xs) : KeepsCur k (askPages xs) := by
  have ask (cur xs) : KeepsCur k (askPages.ask cur xs) := by
    fun_induction askPages.ask cur xs <;> exact keepsCur_parts
  exact keepsCur_get_bind fun s _ => ask _ _

@[simp] theorem keepsCur_checkRows (b va size acc) : KeepsCur k (checkRows b va size acc) := by
  unfold checkRows
  exact keepsCur_parts

@[simp] theorem keepsCur_checkServed (va size ps) : KeepsCur k (checkServed va size ps) := by
  unfold checkServed
  exact keepsCur_parts

theorem keepsCur_checkAccess (b va size acc) : KeepsCur k (checkAccess b va size acc) := by
  unfold checkAccess
  exact keepsCur_parts

/-! ### The pages of an access -/

/-- The translation of some pages is not empty. -/
theorem translatePages_ne_nil {b va : Nat} {acc : Acc} {rest : List Nat} {l : List (Nat × Xl)} {s t : State}
    (h : translatePages b acc (va :: rest) s = .ok (.ok l) t) : l ≠ [] := by
  rw [translatePages, bind_eq_ok] at h
  obtain ⟨st, t1, -, h⟩ := h
  obtain ⟨x, t2, -, h⟩ := bind_eq_ok.mp h
  obtain ⟨tail, t3, -, h⟩ := bind_eq_ok.mp h
  rintro rfl
  cases x <;> cases tail <;> simp only [pure_run] at h
  case error.error =>
    split at h
    · cases h
    · split at h <;> cases h
  all_goals cases h

/-- A failure of the second stage ends the access (R387). -/
theorem stage2Fault_ne_ok (b : Nat) (f : XFail) (x : Trap) (a : α) (s t : State) : stage2Fault b f x s ≠ .ok a t := by
  intro h
  obtain ⟨_, t1, -, h⟩ := bind_eq_ok.mp h
  obtain ⟨bl, t2, -, h⟩ := bind_eq_ok.mp h
  split at h <;> cases h

theorem checkRows_ne_nil {b va n : Nat} {acc : Acc} {ps : List Xl} {s t : State}
    (h : checkRows b va n acc s = .ok (.ok ps) t) : ps ≠ [] := by
  obtain ⟨x, t1, hx, h⟩ := bind_eq_ok.mp h
  cases x with
  | error e =>
    exfalso
    simp only at h
    split at h
    · exact stage2Fault_ne_ok _ _ _ _ _ _ h
    · split at h
      · cases hw : wildPage va n <;> rw [hw] at h <;> cases h
      · cases h
  | ok l =>
    have hl : l ≠ [] := by
      unfold pagesOf at hx
      split at hx <;> exact translatePages_ne_nil hx
    obtain ⟨st, t2, -, h⟩ := bind_eq_ok.mp h
    obtain ⟨u, t3, -, h⟩ := bind_eq_ok.mp h
    generalize (firstBad l fun a x => !reachable u st b x.pa (bytesIn va n a) acc) = far at h
    generalize (firstBad l fun _ x => x.cmp) = cmp at h
    cases far with
    | some a => cases h
    | none =>
      cases cmp with
      | some a => cases h
      | none =>
        dsimp only at h
        split at h <;> cases h
        simpa using hl

theorem checkServed_pages {va n : Nat} {ps qs : List Xl} {s t : State} (h : checkServed va n ps s = .ok (.ok qs) t) : qs = ps := by
  obtain ⟨x, t1, -, h⟩ := bind_eq_ok.mp h
  cases x with
  | some a => cases h
  | none =>
    obtain ⟨u, t2, -, h⟩ := bind_eq_ok.mp h
    split at h
    · cases h
    · cases h
      rfl

/-- An access that passes its checks lies in some page. -/
theorem allowed_ne_nil {s s1 : State} {b va n : Nat} {acc : Acc} {ps : List Xl} (h : Allowed s b va n acc ps s1) : ps ≠ [] := by
  unfold Allowed checkAccess at h
  obtain ⟨c, t, hc, h⟩ := bind_eq_ok.mp h
  cases c with
  | ok qs => 
    have := checkServed_pages h
    subst this
    exact checkRows_ne_nil hc
  | log t => cases h
  | fail t => cases h

/-- An aligned word lies in one page. -/
theorem byteAddr_word {ps : List Xl} {va i : Nat} (hp : ps ≠ []) (ha : va % 4 = 0) (hi : i < 4) :
    byteAddr ps va i = byteAddr ps va 0 + i := by
  match ps, hp with
  | [p], _ => rfl
  | p :: q :: l, _ =>
    have h0 : va % 4096 < 4096 := by omega
    have h : va % 4096 + i < 4096 := by omega
    simp only [byteAddr, Nat.add_zero, if_pos h0, if_pos h]

/-! ### The fetch of a word (R29, R104) -/

variable {s s1 : State} {st : Strand}

/-- A fetch that may miss no write finds what memory holds. -/
theorem pastQuads_none (keys : List Nat) (now : List Byte) (l : List (List (Nat × Byte) × Bool)) (h : ∀ x ∈ l, x.2 = false) :
    ∀ kept, pastQuads keys kept now l = [] := by
  induction l with
  | nil => exact fun _ => rfl
  | cons x t ih =>
    intro kept
    obtain ⟨w, b⟩ := x
    obtain rfl : b = false := h _ List.mem_cons_self
    exact ih (fun y hy => h y (List.mem_cons_of_mem _ hy)) _

theorem fetchMisses_none (hw : s.written.length ≤ st.fetchSince) (hf : st.fetchStale = []) :
    ∀ x ∈ fetchMisses s st, x.2 = false := by
  intro x hx
  simp only [fetchMisses, List.mem_reverse, List.mem_map] at hx
  obtain ⟨⟨w, i⟩, hi, rfl⟩ := hx
  have : i < s.written.length := by
    have := List.mem_zipIdx hi
    omega
  have hi : ¬ st.fetchSince ≤ i := by omega
  simp [hf, hi]

/-- The bytes of a quad that memory holds. -/
def quadAt (s : State) (pa : Nat) : List Byte := (keysOf s (pa / 16 * 16) 16).map (memRead s.mem)

theorem fetchQuad_run (hs : strandOf s = some st) (hd : s.dirty = []) (hw : s.written.length ≤ st.fetchSince)
    (hf : st.fetchStale = []) (pa : Nat) : fetchQuad pa s = .ok (quadAt s pa) s := by
  rw [fetchQuad, bind_ok (getStrand_run hs), bind_ok (get_run s)]
  have hh : ∀ keys now, homeQuads s keys now = [now] := by
    intro keys now
    simp only [homeQuads, hd]
    rfl
  simp only [pastQuads_none _ _ _ (fetchMisses_none hw hf), hh]
  simp [dedup, quadAt]

/-- The word at an aligned address of a quad is the value of its four bytes (R2, R39). -/
theorem quadWord_quadAt (s : State) {pa : Nat} (h : pa % 4 = 0) :
    (quadWord (quadAt s pa) pa).toNat = leValue ((List.range 4).map fun i => memRead s.mem (steer s (pa + i))) := by
  have hq : ((quadAt s pa).drop (pa % 16)).take 4 = (List.range 4).map fun i => memRead s.mem (steer s (pa + i)) := by
    apply List.ext_getElem
    · simp [quadAt, keysOf]
      omega
    · intro i h1 h2
      have ha : pa / 16 * 16 + (pa % 16 + i) = pa + i := by omega
      simp [quadAt, keysOf, ha]
  rw [quadWord, bytesAt, hq, BitVec.toNat_ofNat]
  apply Nat.mod_eq_of_lt
  simp [List.range_succ, leValue]
  omega

section
variable {s0 : State} {ps : List Xl} (hs0 : strandOf s0 = some st) (hs : strandOf s1 = some st)
  (hwatch : watchHit st.r st.r.pc.toNat 4 .fetch = none) (ha : st.r.pc.toNat % 4 = 0)
  (hok : Allowed s0 0 st.r.pc.toNat 4 .fetch ps s1) (hp : s1.poison = [])

include hs0 hwatch ha hok hp

/-- The checks of a fetch that passes them all (R54). -/
theorem checkFetch_run : checkFetch st.r.pc s0 = .ok (byteAddr ps st.r.pc.toNat 0) s1 := by
  rw [checkFetch, bind_ok (getRegs_run hs0), hwatch]
  simp only [Option.isSome_none, Bool.false_eq_true, if_false, ha, bne_self_eq_false]
  refine (bind_ok hok).trans ((bind_ok (get_run s1)).trans ?_)
  simp [anyPoison, hp]

variable (hd : s1.dirty = []) (hw : s1.written.length ≤ st.fetchSince) (hf : st.fetchStale = [])
  (hm : byteAddr ps st.r.pc.toNat 0 % 16 = st.r.pc.toNat % 16)
  (hi : ∀ f, st.inflight = some f → f.pc = st.r.pc → f.words = [])
  (hv : vectorClass (valueAt s1 ps st.r.pc.toNat 4) = false ∨ st.r.pc.toNat % 16 = 12)

include hs hd hw hf hm hi hv

/-- The fetch finds the word that memory holds at the pc, alone (R29, R39). -/
theorem fetchIssue_run : fetchIssue s0 = .ok [valueAt s1 ps st.r.pc.toNat 4] s1 := by
  set pa := byteAddr ps st.r.pc.toNat 0 with hpa
  have hat : fetchAt st.r.pc s0 = .ok (pa, quadAt s1 pa) s1 := by
    rw [fetchAt, bind_ok (checkFetch_run hs0 hwatch ha hok hp), bind_ok (fetchQuad_run hs hd hw hf _)]
    rfl
  have hword : (quadWord (quadAt s1 pa) pa).toNat = valueAt s1 ps st.r.pc.toNat 4 := by
    rw [quadWord_quadAt s1 (by omega)]
    unfold valueAt keyOf
    congr 1
    refine List.map_congr_left fun i h => ?_
    rw [byteAddr_word (allowed_ne_nil hok) ha (List.mem_range.mp h)]
  have hfl : (st.inflight.filter fun f => f.pc == st.r.pc && !f.words.isEmpty) = none := by
    rw [Option.filter_eq_none_iff]
    intro f h
    have := hi f h
    by_cases hpc : f.pc = st.r.pc
    · simp [this hpc]
    · simp [hpc]
  rw [fetchIssue, bind_ok (getStrand_run hs0), hfl]
  have hn : fetchNext none st.r.pc s0 =
      .ok (quadWord (quadAt s1 pa) pa, some (st.r.pc.toNat / 16, pa / 16 * 16, quadAt s1 pa)) s1 :=
    (bind_ok hat).trans rfl
  refine (bind_ok hn).trans ?_
  dsimp only
  rw [hword]
  rcases hv with hv | hv
  · rw [if_neg (by rw [hv]; decide)]
    rfl
  · have h3 : 3 - st.r.pc.toNat / 4 % 4 = 0 := by omega
    rw [h3]
    split <;> rfl

end

/-! ### Words without damage (R435) -/

section
variable (hb : ∀ bl ∈ st.blocks, bl.badRegs = [])
include hb

theorem badWords_nil : badWords st = [] := by
  rw [badWords, List.flatMap_eq_nil_iff]
  rintro ⟨bl, b⟩ h
  simp [hb bl (List.fst_mem_of_mem_zipIdx h)]

/-- A strand with no damaged register consumes none. -/
theorem consumed_run (hs : strandOf s = some st) (words : List Nat) : consumed words s = .ok none s := by
  have hany : (st.blocks.any fun bl => !bl.badRegs.isEmpty) = false := by
    rw [List.any_eq_false]
    intro bl h
    simp [hb bl h]
  have hc : consumeScalars words s = .ok () s := by
    rw [consumeScalars, bind_ok (getStrand_run hs), hany]
    rfl
  rw [consumed, bind_ok hc]
  split
  · rw [convoyDamage, bind_ok (getStrand_run hs), damage]
    refine (bind_ok (getStrand_run hs)).trans ?_
    rw [badWords_nil hb]
    rfl
  · rfl

/-- Nor does an instruction heal any. -/
theorem healed_eq (words : List Nat) (r : Result) : healed words st r = r := by
  unfold healed
  split
  · split
    · rfl
    · split
      · rfl
      · rw [heal, badWords_nil hb]
        rfl
  · rfl

end

/-! ### The step (R23, R29, R54, R55) -/


/-- A strand that no FSEND asks goes on as it would (R245). -/
theorem unasked_eq (h : ∀ x ∈ s.strands, s.cur ∉ x.requests) (st : Strand) (r : Result) : unasked s st r = r := by
  have ha : asksSend s = false := by
    rw [asksSend, List.any_eq_false]
    intro x hx
    simpa using h x hx
  simp [unasked, ha]

/-- The only strand with a turn takes it. -/
theorem step_strand {k : Nat} (hg : s.agenda = []) (hpow : s.powered = true) (hfr : s.frozen = false) (ht : turns s = [.strand k]) :
    step s = runStrand { s with cur := k } := by
  simp only [step, stepOf, hg, hpow, hfr, runNext, ht, runTurn]
  rfl

/-- A word that is none traps (R54, R55). -/
theorem rejectWord_run (hs : strandOf s = some st) (e : Reject) (w : Nat) : rejectWord e w s = .next (takeTrap s
    { cause := if e = .reservedField then causeIllop else causeIllins, xval := memberXval w (st.r.pc.toNat / 4) }) := by
  have h : issueTrap (α := Unit) (rejectCause e) w s = _ := issueTrap_run hs _ _
  rw [rejectWord, runSeq_error hs h]
  cases e <;> rfl

/-- The turn of a strand whose fetch finds one word, and which has no damaged register. -/
theorem runStrand_run {s0 : State} {w : Nat} (hs0 : strandOf s0 = some st) (hs : strandOf s1 = some st)
    (hl : slogDue st = false) (hf : fetchIssue s0 = .ok [w] s1) (hb : ∀ bl ∈ st.blocks, bl.badRegs = [])
    (hr : ∀ x ∈ s1.strands, s1.cur ∉ x.requests) :
    runStrand s0 = runIssued [w] s1 := by
  have h : (do
      let ws ← fetchIssue
      let s ← get
      let hit ← if issueFault st ws s then pure none else consumed ws
      return (ws, hit) : M (List Nat × Option (Nat × Nat))) s0 = .ok ([w], none) s1 := by
    rw [bind_ok hf, bind_ok (get_run s1)]
    split
    · rfl
    · rw [bind_ok (consumed_run hb hs [w])]
      rfl
  unfold runStrand
  simp only [hs0, hl, Bool.false_eq_true, if_false]
  rw [h]
  simp only [healed_eq hb, unasked_eq hr]

/-- Settles O4: the fetch finds the word alone, no check before its execution stops it, and it runs as it decodes. -/
theorem stepRunsDecoded : Obligations.StepRunsDecoded := by
  unfold Obligations.StepRunsDecoded
  intro s k st hg hpow hfr ht hk hl s0 va hwatch ha ps s1 hok hs hm hp hb hd hw hf hr hi w hv
  have hs0 : strandOf s0 = some st := hk
  have hfi : fetchIssue s0 = .ok [w] s1 := fetchIssue_run hs0 hs hwatch ha hok hp hd hw hf hm hi hv
  have hcur : s1.cur = k := by
    have h := keepsCur_checkAccess (k := k) 0 va 4 .fetch s0 rfl
    rw [hok] at h
    exact h
  have hstep : step s = runIssued [w] s1 := by
    rw [step_strand hg hpow hfr ht]
    exact runStrand_run hs0 hs hl hfi hb (by rwa [hcur])
  refine ⟨fun h => ?_, fun h => ?_⟩
  · rw [hstep, runIssued, if_pos h]
  · have hone : step s = runWords [w] s1 := by
      rw [hstep, runIssued]
      split
      · next hh =>
        have hpass : hasPassing (bits w 7 6) (atPc (st.r.pc + 4) s1) = false := by
          rcases h with h | h
          · rw [hh] at h
            cases h
          · exact h
        simp only [runHeld, hs, hpass]
        rfl
      · rfl
    rw [hone]
    refine ⟨fun i hi => ?_, fun e he => ?_⟩
    · simp only [runWords, hi]
    · simp only [runWords, he]
      exact rejectWord_run hs e w

end Sys2Proof.Laws

/-! # Convoys of an integer and a floating-point instruction (O5) -/

namespace Sys2Proof.Laws

open Sys2Proof.Machine Sys2Proof.Safety

/-! ### MST but for NANC (R96, R156) -/

/-- MST with NANC cleared. -/
def quietMst (x : Word) : Word := x &&& ~~~(0xF0000 : Word)

/-- MST with NANC set, as a convoy leaves it (R156). -/
def setNanc (k : Nat) (x : Word) : Word := quietMst x ||| BitVec.ofNat 64 (k % 16 * 2 ^ 16)

theorem quietMst_or (x y : Word) : quietMst (x ||| y) = quietMst x ||| quietMst y := by
  simp only [quietMst]
  ext i
  simp only [BitVec.getElem_and, BitVec.getElem_or, Bool.and_or_distrib_right]

theorem quietMst_quietMst (x : Word) : quietMst (quietMst x) = quietMst x := by
  simp [quietMst, BitVec.and_assoc]

theorem quietMst_setNanc_zero (x : Word) : quietMst (setNanc 0 x) = quietMst x := by
  have h : setNanc 0 x = quietMst x := by simp [setNanc]
  rw [h, quietMst_quietMst]

/-- What flags make of MST does not rest on NANC, but for NANC. -/
theorem quietMst_mstWith {x y : Word} (h : quietMst x = quietMst y) (flags nanc : Nat) :
    quietMst (mstWith x flags nanc) = quietMst (mstWith y flags nanc) := by
  have ho : quietMst (x ||| BitVec.ofNat 64 flags) = quietMst (y ||| BitVec.ofNat 64 flags) := by
    rw [quietMst_or, quietMst_or, h]
  unfold mstWith
  split
  · exact ho
  · have hq : ∀ z : Word, quietMst (z &&& ~~~(0xF0000 : Word) ||| BitVec.ofNat 64 (nanc * 0x10000)) =
        quietMst z ||| quietMst (BitVec.ofNat 64 (nanc * 0x10000)) := fun z => by
      rw [quietMst_or]
      exact congrArg (· ||| _) (quietMst_quietMst z)
    rw [hq, hq, ho]

/-! ### Cells but for NANC -/

/-- Two cells differ in NANC alone. -/
def SameCell (c c' : Cell) : Prop := c.bl = c'.bl ∧ quietMst c.mst = quietMst c'.mst

/-- The blocks and MST that the members of a convoy change. -/
abbrev Cells := List Block × Word

/-- They differ in NANC alone. -/
def SameCells (c c' : Cells) : Prop := c.1 = c'.1 ∧ quietMst c.2 = quietMst c'.2

theorem SameCells.refl (c : Cells) : SameCells c c := ⟨rfl, rfl⟩
theorem SameCells.trans {a b c : Cells} (h : SameCells a b) (h' : SameCells b c) : SameCells a c :=
  ⟨h.1.trans h'.1, h.2.trans h'.2⟩

/-- An action on a cell whose effect does not rest on NANC, but for NANC, and which draws nothing (R158). -/
structure Neutral (f : Cell → Cell) : Prop where
  same : ∀ {c c'}, SameCell c c' → SameCell (f c) (f c')
  gens : ∀ c, (f c).bl.gens = c.bl.gens

theorem Neutral.id : Neutral fun c => c := ⟨fun h => h, fun _ => rfl⟩

/-- An action that takes one of two by what stands in the block. -/
theorem Neutral.ite {f g : Cell → Cell} (p : Block → Prop) [DecidablePred p] (hf : Neutral f) (hg : Neutral g) :
    Neutral fun c => if p c.bl then f c else g c := by
  constructor
  · rintro c c' h
    rw [h.1]
    split
    · exact hf.same h
    · exact hg.same h
  · intro c
    split
    · exact hf.gens c
    · exact hg.gens c

/-- A write of an element, with its flags. -/
theorem Neutral.write (w d j : Nat) (v flags nanc : Block → Nat) :
    Neutral fun c => cellFlags (flags c.bl) (nanc c.bl) (cellWrite w d j (v c.bl) c) := by
  constructor
  · rintro ⟨bl, x⟩ ⟨bl', y⟩ ⟨rfl : bl = bl', h⟩
    exact ⟨rfl, quietMst_mstWith h _ _⟩
  · exact fun _ => rfl

/-- An integer result that rests on the block (R135). -/
theorem Neutral.intResult (w d j : Nat) (y : Block → IntRes) :
    Neutral fun c => cellFlags (if (y c.bl).sat then satFlag else 0) 0 (cellWrite w d j (y c.bl).v c) :=
  Neutral.write w d j (fun bl => (y bl).v) (fun bl => if (y bl).sat then satFlag else 0) fun _ => 0

/-- A floating-point result that rests on the block (R161). -/
theorem Neutral.fpResult (w d j : Nat) (y : Block → FpRes) : Neutral fun c => cellFp w d j (y c.bl) c :=
  Neutral.write w d j (fun bl => (y bl).bits) (fun bl => (y bl).flags) fun bl => (y bl).nanc

theorem Neutral.loopFrom {f : Nat → Cell → Cell} (hf : ∀ j, Neutral (f j)) : ∀ n j, Neutral (loopFrom f j n)
  | 0, _ => Neutral.id
  | n + 1, j => ⟨fun h => (Neutral.loopFrom hf n (j + 1)).same ((hf j).same h),
      fun c => ((Neutral.loopFrom hf n (j + 1)).gens _).trans ((hf j).gens c)⟩

/-- The outcome of an element by R111. -/
theorem Neutral.elemStep {act zero : Nat → Cell → Cell} (ha : ∀ j, Neutral (act j)) (hz : ∀ j, Neutral (zero j)) (r : Regs)
    (m b j : Nat) : Neutral (elemStep r m b act zero j) := by
  unfold Machine.elemStep
  split
  · refine Neutral.ite (fun bl => maskOn bl m j = true) (ha j) ?_
    split
    · exact hz j
    · exact Neutral.id
  · split
    · exact hz j
    · exact Neutral.id

/-! ### Every position in turn -/

theorem overBlocks_same {f : Nat → Cell → Cell} (hf : ∀ b, Neutral (f b)) (l : List Block) : ∀ {b : Nat} {x y : Word},
    quietMst x = quietMst y → SameCells (overBlocks f b x l) (overBlocks f b y l) := by
  induction l with
  | nil => exact fun h => ⟨rfl, h⟩
  | cons bl t ih =>
    intro b x y h
    obtain ⟨hb, hm⟩ := (hf b).same (show SameCell ⟨bl, x⟩ ⟨bl, y⟩ from ⟨rfl, h⟩)
    obtain ⟨ht, hq⟩ := ih (b := b + 1) hm
    exact ⟨List.cons_eq_cons.mpr ⟨hb, ht⟩, hq⟩

theorem overBlocks_gens {f : Nat → Cell → Cell} (hf : ∀ b, Neutral (f b)) (l : List Block) : ∀ (b : Nat) (x : Word),
    (overBlocks f b x l).1.map Block.gens = l.map Block.gens := by
  induction l with
  | nil => exact fun _ _ => rfl
  | cons bl t ih => exact fun b x => List.cons_eq_cons.mpr ⟨(hf b).gens _, ih (b + 1) _⟩

/-- An action at positions that do not stand in the list does nothing. -/
theorem overBlocks_id {f : Nat → Cell → Cell} (l : List Block) : ∀ {b : Nat}, (∀ k, b ≤ k → ∀ c, f k c = c) → ∀ x : Word,
    overBlocks f b x l = (l, x) := by
  induction l with
  | nil => exact fun _ _ => rfl
  | cons bl t ih =>
    intro b hf x
    have ht := ih (b := b + 1) (fun k hk => hf k (by omega)) x
    simp only [overBlocks, hf b (le_refl b), ht]

/-- The action at one position. -/
def onlyAt (f : Nat → Cell → Cell) (p b : Nat) (c : Cell) : Cell := if p ≠ b then c else f b c

/-- An action position by position is the action on every position (R158). -/
theorem foldl_onlyAt (f : Nat → Cell → Cell) (l : List Block) : ∀ (b : Nat) (x : Word),
    (List.range' b l.length).foldl (fun (c : Cells) p => overBlocks (onlyAt f p) b c.2 c.1) (l, x) = overBlocks f b x l := by
  induction l with
  | nil => exact fun _ _ => rfl
  | cons bl t ih =>
    intro b x
    have hfirst : overBlocks (onlyAt f b) b x (bl :: t) = ((f b ⟨bl, x⟩).bl :: t, (f b ⟨bl, x⟩).mst) := by
      have hrest := overBlocks_id (f := onlyAt f b) t (b := b + 1) (fun k hk c => if_pos (by omega))
      simp [overBlocks, onlyAt, hrest]
    have htail : ∀ (ps : List Nat), (∀ p ∈ ps, b < p) → ∀ (h : Block) (c : Cells),
        ps.foldl (fun (c : Cells) p => overBlocks (onlyAt f p) b c.2 c.1) (h :: c.1, c.2) =
          (h :: (ps.foldl (fun (c : Cells) p => overBlocks (onlyAt f p) (b + 1) c.2 c.1) c).1,
            (ps.foldl (fun (c : Cells) p => overBlocks (onlyAt f p) (b + 1) c.2 c.1) c).2) := by
      intro ps
      induction ps with
      | nil => exact fun _ _ _ => rfl
      | cons p ps ihp =>
        intro hp h c
        have hpb : p ≠ b := by
          have := hp p List.mem_cons_self
          omega
        have hstep : overBlocks (onlyAt f p) b c.2 (h :: c.1) =
            (h :: (overBlocks (onlyAt f p) (b + 1) c.2 c.1).1, (overBlocks (onlyAt f p) (b + 1) c.2 c.1).2) := by
          simp [overBlocks, onlyAt, hpb]
        rw [List.foldl_cons, List.foldl_cons, hstep]
        exact ihp (fun q hq => hp q (List.mem_cons_of_mem _ hq)) h _
    rw [List.length_cons, List.range'_succ, List.foldl_cons, hfirst,
      htail _ (fun p hp => (List.mem_range'_1.mp hp).1) _ (t, (f b ⟨bl, x⟩).mst), ih]
    rfl

/-! ### Elementwise members -/

/-- What a member does with element `j` of position `b`, by the registers: `b`, the registers, `j` and the cell in turn. -/
abbrev ElemAct := Nat → Regs → Nat → Cell → Cell

/-- The strand with other blocks and MST. -/
def withCells (st : Strand) (c : Cells) : Strand := { st with blocks := c.1, r := { st.r with mst := c.2 } }

/-- A plain elementwise member of the width of VT.FMT, whose active elements do `act`, with group `d` as its destination
(R111, R134, R161). -/
structure Elementwise (x : Member) (m : Nat) (act : ElemAct) (d : BitVec 5) : Prop where
  whole : x.whole = false
  amo : x.amo = none
  oldTo : ∀ r, x.oldTo r = []
  width : ∀ r, x.width r = vtWidth r.vt
  pipe : x.pipe ≠ .mem
  run : ∀ sp, x.run sp = modStrand (elementwise m act (zeroElem d) sp)

/-- The action rests on the registers' vector type and rounding mode alone, and does not draw in this one. -/
structure Plain (act : ElemAct) (r : Regs) : Prop where
  regs : ∀ b r', r'.vt = r.vt → r'.frm = r.frm → act b r' = act b r
  neutral : ∀ b j, Neutral (act b r j)

section
variable {x : Member} {m : Nat} {act : ElemAct} {d : BitVec 5} {r : Regs}

/-- What a span of a member does at one position. -/
def spanAt (m : Nat) (act : ElemAct) (d : BitVec 5) (r : Regs) (sp : Span) (b : Nat) (c : Cell) : Cell :=
  loopFrom (elemStep r m b (act b r) (zeroElem d b r)) sp.lo (min sp.hi (elemEnd r b) - sp.lo) c

/-- What a span of a member makes of the cells. -/
def spanCells (m : Nat) (act : ElemAct) (d : BitVec 5) (r : Regs) (sp : Span) (c : Cells) : Cells :=
  if r.vl = 0 then c
  else overBlocks (fun b c => if sp.only.any (· != b) then c else spanAt m act d r sp b c) 0 c.2 c.1

/-- A member's strand after a span. -/
theorem elementwise_eq (sp : Span) (st : Strand) : elementwise m act (zeroElem d) sp st =
    withCells st (spanCells m act d st.r sp (st.blocks, st.r.mst)) := by
  unfold elementwise spanCells
  split
  · rfl
  · rfl

/-- It rests on the registers' VL, vector type and rounding mode alone. -/
theorem spanCells_regs (hp : Plain act r) {r' : Regs} (hl : r'.vl = r.vl) (ht : r'.vt = r.vt) (hf : r'.frm = r.frm) (sp : Span)
    (c : Cells) : spanCells m act d r' sp c = spanCells m act d r sp c := by
  have hz : ∀ b, zeroElem d b r' = zeroElem d b r := fun b => by
    unfold zeroElem
    rw [ht]
  have hs : ∀ b c, spanAt m act d r' sp b c = spanAt m act d r sp b c := fun b c => by
    have hstep : elemStep r' m b (act b r') (zeroElem d b r') = elemStep r m b (act b r) (zeroElem d b r) := by
      rw [hp.regs b r' ht hf, hz]
      unfold elemStep
      rw [hl, ht]
    have hend : elemEnd r' b = elemEnd r b := by
      unfold elemEnd
      rw [hl, ht]
    unfold spanAt
    rw [hstep, hend]
  unfold spanCells
  rw [hl]
  simp only [hs]

theorem neutral_spanAt (hp : Plain act r) (sp : Span) (b : Nat) : Neutral (spanAt m act d r sp b) :=
  Neutral.loopFrom (fun j => Neutral.elemStep (hp.neutral b) (fun j => by
    exact ⟨fun h => ⟨by simp only [zeroElem, cellWrite, h.1], h.2⟩, fun _ => rfl⟩) r m b j) _ _

theorem spanCells_same (hp : Plain act r) (sp : Span) {c c' : Cells} (h : SameCells c c') :
    SameCells (spanCells m act d r sp c) (spanCells m act d r sp c') := by
  obtain ⟨l, x⟩ := c
  obtain ⟨l', y⟩ := c'
  obtain ⟨rfl, h⟩ : l = l' ∧ quietMst x = quietMst y := h
  unfold spanCells
  split
  · exact ⟨rfl, h⟩
  · refine overBlocks_same (fun b => ?_) l h
    exact Neutral.ite (fun _ => sp.only.any (· != b) = true) Neutral.id (neutral_spanAt hp sp b)

/-- No generator draws. -/
theorem spanCells_gens (hp : Plain act r) (sp : Span) (c : Cells) :
    (spanCells m act d r sp c).1.map Block.gens = c.1.map Block.gens := by
  unfold spanCells
  split
  · rfl
  · refine overBlocks_gens (fun b => ?_) _ _ _
    exact Neutral.ite (fun _ => sp.only.any (· != b) = true) Neutral.id (neutral_spanAt hp sp b)

/-- What spans of a member, in turn, make of the cells. -/
def spansCells (m : Nat) (act : ElemAct) (d : BitVec 5) (r : Regs) (sps : List Span) (c : Cells) : Cells :=
  sps.foldl (fun c sp => spanCells m act d r sp c) c

theorem spansCells_same (hp : Plain act r) (sps : List Span) : ∀ {c c' : Cells}, SameCells c c' →
    SameCells (spansCells m act d r sps c) (spansCells m act d r sps c') := by
  induction sps with
  | nil => exact fun h => h
  | cons sp t ih => exact fun h => ih (spanCells_same hp sp h)

theorem spansCells_regs (hp : Plain act r) {r' : Regs} (hl : r'.vl = r.vl) (ht : r'.vt = r.vt) (hf : r'.frm = r.frm)
    (sps : List Span) (c : Cells) : spansCells m act d r' sps c = spansCells m act d r sps c := by
  simp only [spansCells, spanCells_regs hp hl ht hf]

/-- A span position by position is the span (R158). -/
theorem spansCells_only (sp : Span) (ho : sp.only = none) (c : Cells) :
    spansCells m act d r ((List.range c.1.length).map fun b => { sp with only := some b }) c = spanCells m act d r sp c := by
  rw [spansCells, List.foldl_map]
  unfold spanCells
  by_cases hv : r.vl = 0
  · simp only [if_pos hv]
    induction List.range c.1.length with
    | nil => rfl
    | cons p ps ih => exact ih
  · simp only [if_neg hv, ho, Option.any_none, Bool.false_eq_true, if_false, Option.any_some]
    have h := foldl_onlyAt (spanAt m act d r sp) c.1 0 c.2
    rw [List.range_eq_range']
    refine Eq.trans ?_ h
    congr 1
    funext c p
    congr 1
    funext b c
    simp only [onlyAt, bne_iff_ne]
    rfl

end

/-! ### The members of a convoy, one after another (R41, R156) -/

/-- The state with other blocks and MST of its strand. -/
def putCells (s : State) (st : Strand) (c : Cells) : State := putStrand s (withCells st c)

theorem unmarked {w : OldWrite} (h : w.fresh = none) : { w with fresh := none } = w := by
  cases w
  cases h
  rfl

section
variable {s : State} {st : Strand} (hs : strandOf s = some st) (hf : ∀ w ∈ st.pending, w.fresh = none)
include hs

theorem strandOf_putCells (c : Cells) : strandOf (putCells s st c) = some (withCells st c) := strandOf_putStrand hs _

theorem withNanc_putCells (k : Nat) (c : Cells) : withNanc k (putCells s st c) = putCells s st (c.1, setNanc k c.2) := by
  unfold withNanc
  rw [strandOf_putCells hs]
  exact putStrand_putStrand ..

/-- No generator of these cells differs, so none drew (R158). -/
theorem laneDraws_putCells {c c' : Cells} (h : c'.1.map Block.gens = c.1.map Block.gens) :
    laneDraws (putCells s st c) (putCells s st c') = [] := by
  have hl : ∀ c : Cells, lanesOf (putCells s st c) = (c.1.map Block.gens).flatMap Vector.toList := fun c => by
    rw [lanesOf, strandOf_putCells hs, List.flatMap_map]
    rfl
  rw [laneDraws, hl, hl, h]
  simp

/-- A part has a piece for each position, or one piece. -/
theorem partSpans_putCells (x : Member) (sp : Span) (c : Cells) : partSpans x sp (putCells s st c) = [sp] ∨
    partSpans x sp (putCells s st c) = (List.range c.1.length).map fun b => { sp with only := some b } := by
  unfold partSpans
  rw [strandOf_putCells hs]
  dsimp only
  split
  · exact .inr rfl
  · exact .inl rfl

include hf

/-- There is no mark of a write in progress to rename. -/
theorem markFresh_putCells (f : Nat → Option Nat) (c : Cells) : markFresh f (putCells s st c) = putCells s st c := by
  have h : (st.pending.map fun w => { w with fresh := w.fresh.bind f }) = st.pending := by
    conv_rhs => rw [← List.map_id st.pending]
    refine List.map_congr_left fun w hw => ?_
    rw [hf w hw]
    exact unmarked (hf w hw)
  unfold markFresh
  rw [strandOf_putCells hs]
  simp only
  refine (putStrand_putStrand ..).trans ?_
  simp only [withCells, h]
  rfl

/-- A convoy that is over leaves no mark. -/
theorem closeConvoy_putCells (hn : st.strongNow = false) (c : Cells) : closeConvoy (putCells s st c) = putCells s st c := by
  have h : (st.pending.map fun w => { w with fresh := none }) = st.pending := by
    conv_rhs => rw [← List.map_id st.pending]
    exact List.map_congr_left fun w hw => unmarked (hf w hw)
  unfold closeConvoy
  rw [strandOf_putCells hs]
  refine (putStrand_putStrand ..).trans ?_
  simp only [withCells, h]
  rw [← hn]
  rfl

variable {x : Member} {m : Nat} {act : ElemAct} {d : BitVec 5} (hx : Elementwise x m act d)
  (hp : Plain act st.r)
include hx hp

/-- A member on one span. -/
theorem runMember_putCells (pos : Nat) (sp : Span) (c : Cells) :
    runMember pos x sp (putCells s st c) = .ok () (putCells s st (spanCells m act d st.r sp c)) := by
  have hrun : x.run { sp with pos := pos } (putCells s st c) = .ok ⟨⟩ (putCells s st (spanCells m act d st.r sp c)) := by
    rw [hx.run, modStrand_run _ (strandOf_putCells hs c), elementwise_eq,
      spanCells_regs (r' := (withCells st c).r) hp rfl rfl rfl]
    exact congrArg _ (putStrand_putStrand ..)
  unfold runMember enterMember leaveMember
  rw [markFresh_putCells hs hf, hrun]
  exact congrArg _ (markFresh_putCells hs hf _ _)

/-- Pieces in turn, NANC cleared before each. -/
theorem runPieces_putCells (pos : Nat) (sps : List Span) : ∀ c : Cells, ∃ c' ks,
    runPieces pos x sps (putCells s st c) = some (putCells s st c', ks) ∧
      SameCells c' (spansCells m act d st.r sps c) ∧ c'.1.map Block.gens = c.1.map Block.gens := by
  induction sps with
  | nil => exact fun c => ⟨c, [], rfl, SameCells.refl c, rfl⟩
  | cons sp t ih =>
    intro c
    obtain ⟨c', ks, hr, hc, hg⟩ := ih (spanCells m act d st.r sp (c.1, setNanc 0 c.2))
    refine ⟨c', nancOf (putCells s st (spanCells m act d st.r sp (c.1, setNanc 0 c.2))) :: ks, ?_, hc.trans ?_,
      hg.trans (spanCells_gens hp sp _)⟩
    · simp only [runPieces, withNanc_putCells hs, runMember_putCells hs hf hx hp, hr]
      rfl
    · exact spansCells_same hp t (spanCells_same hp sp ⟨rfl, quietMst_setNanc_zero c.2⟩)

/-- A part of a member, whatever its pieces. -/
theorem memberPart_putCells (pos : Nat) (sp : Span) (ho : sp.only = none) (c : Cells) : ∃ c' ks,
    memberPart pos x sp none (putCells s st c) = some (putCells s st c', { causes := ks, draws := [] }) ∧
      SameCells c' (spanCells m act d st.r sp c) ∧ c'.1.map Block.gens = c.1.map Block.gens := by
  obtain ⟨c', ks, hr, hc, hg⟩ := runPieces_putCells hs hf hx hp pos (partSpans x sp (putCells s st c)) c
  refine ⟨c', ks, ?_, ?_, hg⟩
  · simp only [memberPart, Option.elim_none, hr, Option.map_some, laneDraws_putCells hs hg]
  · rcases partSpans_putCells hs x sp c with h | h
    · rwa [h] at hc
    · rwa [h, spansCells_only sp ho c] at hc

/-- A member on spans in turn. -/
theorem memberParts_putCells (pos : Nat) (sps : List Span) (ho : ∀ sp ∈ sps, sp.only = none) : ∀ (e : Nat) (c : Cells), ∃ c' ps,
    memberParts pos x (fun _ => none) e sps (putCells s st c) = some (putCells s st c', ps) ∧ (∀ p ∈ ps, p.draws = []) ∧
      SameCells c' (spansCells m act d st.r sps c) ∧ c'.1.map Block.gens = c.1.map Block.gens := by
  induction sps with
  | nil => exact fun _ c => ⟨c, [], rfl, nofun, SameCells.refl c, rfl⟩
  | cons sp t ih =>
    intro e c
    obtain ⟨c1, ks, h1, hc1, hg1⟩ := memberPart_putCells hs hf hx hp pos sp (ho sp List.mem_cons_self) c
    obtain ⟨c2, ps, h2, hd, hc2, hg2⟩ := ih (fun y hy => ho y (List.mem_cons_of_mem _ hy)) (e + 1) c1
    refine ⟨c2, { causes := ks, draws := [] } :: ps, ?_, ?_, hc2.trans ?_, hg2.trans hg1⟩
    · simp only [memberParts, h1, h2, Option.map_some]
    · simpa using hd
    · exact spansCells_same hp t hc1

end

/-! ### A convoy of one member and of two -/

/-- The width that counts the element groups of members of the width of VT.FMT (R166). -/
def elemWidth (r : Regs) : Nat := max 1 (vtWidth r.vt)

/-- How many element groups they have (R106). -/
def elemGroups (r : Regs) : Nat := groupCount r (elemWidth r)

/-- The spans of all element groups of a member of the width of VT.FMT (R106, R115). -/
def allSpans (r : Regs) : List Span :=
  groupSpans (elemWidth r) (elemGroups r) 0 (elemGroups r)

theorem elemGroups_pos (r : Regs) : 0 < elemGroups r := by
  have h : 0 < groupRegs (vlbOf r.vt) (elemWidth r) := by
    unfold groupRegs
    cases hf : [1, 2, 4, 8, 16, 32].find? fun g => decide (vlbOf r.vt * elemWidth r ≤ g * Config.vregBits) with
    | none => exact Nat.succ_pos 63
    | some g =>
      have hm := List.mem_of_find?_eq_some hf
      simp only [List.mem_cons, List.not_mem_nil, or_false] at hm
      rw [Option.getD_some]
      omega
  exact Nat.mul_pos (by decide) h

theorem groupSpans_only (w n start stop : Nat) : ∀ sp ∈ groupSpans w n start stop, sp.only = none := by
  intro sp h
  simp only [groupSpans, List.mem_map] at h
  obtain ⟨i, -, rfl⟩ := h
  rfl

section
variable {s : State} {st : Strand} (hs : strandOf s = some st) (hf : ∀ w ∈ st.pending, w.fresh = none)
  {x : Member} {m : Nat} {act : ElemAct} {d : BitVec 5} (hx : Elementwise x m act d)
  (hp : Plain act st.r)
include hs hf hx hp

/-- One member alone commits group by group. -/
theorem groupLoop_putCells (pos w n : Nat) : ∀ (k : Nat) (c : Cells), k ≤ n →
    groupLoop [(pos, x)] w n 0 k n (putCells s st c) =
      .ok (putCells s st (spansCells m act d st.r ((List.range' (n - k) k).map (groupSpan w n 0)) c)) := by
  intro k
  induction k with
  | zero => exact fun c _ => rfl
  | succ k ih =>
    intro c hk
    have hrun : runMembers (groupSpan w n 0 (n - (k + 1))) (putCells s st c) none [(pos, x)] (putCells s st c) =
        .ok (putCells s st (spanCells m act d st.r (groupSpan w n 0 (n - (k + 1))) c)) := by
      simp only [runMembers, runMember_putCells hs hf hx hp]
    have hnext : n - (k + 1) + 1 = n - k := by omega
    simp only [groupLoop, hrun]
    rw [ih _ (by omega), List.range'_succ, hnext]
    rfl

/-- A member alone, on all its groups. -/
theorem performConvoy_solo (hn : st.strongNow = false) (pos : Nat) : performConvoy [(pos, x)] 0 none s =
    .ok (putCells s st (spansCells m act d st.r (allSpans st.r) (st.blocks, st.r.mst))) := by
  have hself : putCells s st (st.blocks, st.r.mst) = s := putStrand_self hs
  have hmem : (x.pipe == .mem) = false := by simpa using hx.pipe
  have hw : convoyWidth st.r [(pos, x)] = elemWidth st.r := by simp [convoyWidth, hx.width, elemWidth]
  have hloop := groupLoop_putCells hs hf hx hp pos (elemWidth st.r) (elemGroups st.r) _
    (st.blocks, st.r.mst) (le_refl _)
  rw [hself] at hloop
  have hspans : (List.range' (elemGroups st.r - elemGroups st.r)
      (elemGroups st.r)).map
        (groupSpan (elemWidth st.r) (elemGroups st.r) 0) = allSpans st.r := by
    simp [allSpans, groupSpans, List.range_eq_range']
  rw [hspans] at hloop
  have hcn : groupCount st.r (elemWidth st.r) = elemGroups st.r := rfl
  have hg : performGroups [(pos, x)] 0 none s =
      .ok (putCells s st (spansCells m act d st.r (allSpans st.r) (st.blocks, st.r.mst))) := by
    simp only [performGroups, hs, hw, hcn, List.any_cons, hx.whole, List.any_nil, Bool.or_self, Bool.false_eq_true, if_false,
      Option.getD_none, splitAmo, hx.amo, Option.map_none, commitGroups, hmem, Bool.and_false, Bool.false_and,
      List.length_singleton, le_refl, decide_true, Bool.true_or, if_true]
    exact hloop
  rw [performConvoy, hg]
  exact congrArg _ (closeConvoy_putCells hs hf hn _)

/-- A member alone in its convoy. -/
theorem runSolo_elementwise (hr : st.r.vstart = 0) (hi : st.inflight = none) (hn : st.strongNow = false) (hb : x.bad st = false)
    (word : Nat) : runSolo word x s = .next (putStrand s (vectorDone st
      (spansCells m act d st.r (allSpans st.r) (st.blocks, st.r.mst)).2
      (spansCells m act d st.r (allSpans st.r) (st.blocks, st.r.mst)).1)) := by
  rw [runSolo_ok hs hb hr hi (performConvoy_solo hs hf hx hp hn _) (strandOf_putCells hs _)]
  exact congrArg _ (putStrand_putStrand ..)

variable {y : Member} {m' : Nat} {act' : ElemAct} {d' : BitVec 5} (hy : Elementwise y m' act' d')
  (hq : Plain act' st.r)
include hy hq

/-- Two members one after another, on spans (R41). -/
theorem inOrder_putCells (pos pos' : Nat) (sps : List Span) (ho : ∀ sp ∈ sps, sp.only = none) : ∃ c' ps,
    inOrder (fun _ => sps) [(pos, x), (pos', y)] s = some { s := putCells s st c', parts := ps } ∧
      SameCells c' (spansCells m' act' d' st.r sps (spansCells m act d st.r sps (st.blocks, st.r.mst))) := by
  have hself : putCells s st (st.blocks, st.r.mst) = s := putStrand_self hs
  obtain ⟨c1, ps1, h1, hd1, hc1, -⟩ := memberParts_putCells hs hf hx hp pos sps ho 0 (st.blocks, st.r.mst)
  obtain ⟨c2, ps2, h2, hd2, hc2, -⟩ := memberParts_putCells hs hf hy hq pos' sps ho 0 c1
  rw [hself] at h1
  refine ⟨c2, [ps1, ps2], ?_, hc2.trans (spansCells_same hq sps hc1)⟩
  have hin : inTurn (fun _ => sps) (fun _ _ => none) 0 [(pos, x), (pos', y)] { s := s, parts := [] } =
      some { s := putCells s st c2, parts := [ps1, ps2] } := by
    simp only [inTurn, h1, h2, List.nil_append, List.cons_append]
  have hnone : ∀ ps : List MemberPart, (∀ p ∈ ps, p.draws = []) → (ps.any fun p => !p.draws.isEmpty) = false := by
    intro ps h
    rw [List.any_eq_false]
    intro p hp
    simp [h p hp]
  have hfew : ([ps1, ps2].filter fun ps => ps.any fun p => !p.draws.isEmpty) = [] := by
    simp only [List.filter_cons, hnone ps1 hd1, hnone ps2 hd2, Bool.false_eq_true, if_false, List.filter_nil]
  simp only [inOrder, hin, hfew]
  rfl

/-- Two members in one convoy, on all their groups. -/
theorem performConvoy_pair (hn : st.strongNow = false) (pos pos' : Nat) : ∃ k c',
    performConvoy [(pos, x), (pos', y)] 0 none s = .ok (putCells s st (c'.1, setNanc k c'.2)) ∧
      SameCells c' (spansCells m' act' d' st.r (allSpans st.r)
        (spansCells m act d st.r (allSpans st.r) (st.blocks, st.r.mst))) := by
  have hmem : (x.pipe == .mem) = false := by simpa using hx.pipe
  have hmem' : (y.pipe == .mem) = false := by simpa using hy.pipe
  have hw : convoyWidth st.r [(pos, x), (pos', y)] = elemWidth st.r := by simp [convoyWidth, hx.width, hy.width, elemWidth]
  have hcount := elemGroups_pos st.r
  obtain ⟨c', ps, hin, hc⟩ := inOrder_putCells hs hf hx hp hy hq pos pos' (allSpans st.r) (groupSpans_only _ _ _ _)
  have hmany : ¬ (([(pos, x), (pos', y)].length ≤ 1 || decide (elemGroups st.r ≤ 0)) = true) := by
    simp
    omega
  unfold allSpans at hin
  refine ⟨lastCause (nancOf s) (elemGroups st.r - 0) ps, c', ?_, hc⟩
  have hcn : groupCount st.r (elemWidth st.r) = elemGroups st.r := rfl
  have hg : performGroups [(pos, x), (pos', y)] 0 none s = .ok (withNanc (lastCause (nancOf s)
      (elemGroups st.r - 0) ps) (putCells s st c')) := by
    simp only [performGroups, hs, hw, hcn, List.any_cons, hx.whole, hy.whole, List.any_nil, Bool.or_self, Bool.false_eq_true,
      if_false, Option.getD_none, splitAmo, hx.amo, hy.amo, Option.map_none, commitGroups, hmem, hmem', Bool.and_false, Bool.false_and]
    rw [if_neg hmany, commitSpans, hin]
  rw [performConvoy, hg, withNanc_putCells hs]
  exact congrArg _ (closeConvoy_putCells hs hf hn _)

end

/-! ### The members of integer and floating-point arithmetic (R135, R161) -/

section
variable (m : BitVec 3) (x a d : BitVec 5)

theorem elementwise_intMember (f : IntFn) :
    Elementwise (intMember f m (.v x.toNat) a d) m.toNat (intElem f (.v x.toNat) a d) d :=
  ⟨rfl, rfl, fun _ => rfl, fun _ => rfl, nofun, fun _ => rfl⟩

theorem elementwise_fpMember (f : FpFn) (draws : Bool) :
    Elementwise (fpMember f draws m (.v x.toNat) a d) m.toNat (fpElem f draws (.v x.toNat) a d) d :=
  ⟨rfl, rfl, fun _ => rfl, fun _ => rfl, nofun, fun _ => rfl⟩

theorem plain_intElem (f : IntFn) (r : Regs) : Plain (intElem f (.v x.toNat) a d) r := by
  constructor
  · intro b r' ht _
    funext j c
    dsimp only [intElem, srcValue]
    rw [ht]
    rfl
  · intro b j
    exact Neutral.intResult (vtWidth r.vt) d.toNat j fun bl =>
      f (vtWidth r.vt) (elemRead bl (vtWidth r.vt) a.toNat j) (elemRead bl (vtWidth r.vt) x.toNat j)
        (elemRead bl (vtWidth r.vt) d.toNat j)

/-- No draw outside the stochastic mode (R158). -/
theorem cellDraw_plain {mode : Nat} (h : mode ≠ 5) (j : Nat) (c : Cell) : cellDraw mode j c = (0, c) := if_neg h

theorem plain_fpElem (f : FpFn) (draws : Bool) {r : Regs} (h : frmMode r ≠ 5) : Plain (fpElem f draws (.v x.toNat) a d) r := by
  constructor
  · intro b r' ht hf
    funext j c
    simp only [fpElem, srcValue, frmMode, ht, hf]
  · intro b j
    have hm : (if draws then frmMode r else 0) ≠ 5 := by
      split
      · exact h
      · decide
    have he : fpElem f draws (.v x.toNat) a d b r j = fun c =>
        cellFp (vtWidth r.vt) d.toNat j (f (vtFmt r.vt) (elemRead c.bl (vtWidth r.vt) a.toNat j)
          (elemRead c.bl (vtWidth r.vt) x.toNat j) (frmMode r) 0) c := by
      funext c
      simp only [fpElem, cellDraw_plain hm, srcValue]
    rw [he]
    exact Neutral.fpResult (vtWidth r.vt) d.toNat j fun bl =>
      f (vtFmt r.vt) (elemRead bl (vtWidth r.vt) a.toNat j) (elemRead bl (vtWidth r.vt) x.toNat j) (frmMode r) 0

variable {st : Strand} (ht : vtFmt st.r.vt < 4)
  (hr : x.toNat % vtG st.r.vt = 0 ∧ a.toNat % vtG st.r.vt = 0 ∧ d.toNat % vtG st.r.vt = 0)
include hr ht

/-- Aligned operands of a format of both kinds of arithmetic pass the checks at issue (R37, R54, R133, R160). -/
theorem intMember_bad (f : IntFn) : (intMember f m (.v x.toNat) a d).bad st = false := by
  obtain ⟨hx, ha, hd⟩ := hr
  have hw : intWidth st.r.vt = true := by
    unfold intWidth vtWidth
    generalize vtFmt st.r.vt = f at ht
    interval_cases f <;> rfl
  simp [intMember, plainMember, hw, alignedAll, aligned, srcFields, hx, ha, hd]

theorem fpMember_bad (f : FpFn) (draws : Bool) : (fpMember f draws m (.v x.toNat) a d).bad st = false := by
  obtain ⟨hx, ha, hd⟩ := hr
  have hw : fpFormat st.r.vt = true := decide_eq_true (by omega)
  simp [fpMember, plainMember, hw, alignedAll, aligned, srcFields, hx, ha, hd]

end

/-! ### The words of the members (R32, R44) -/


/-- What an instruction of two groups makes of its mask, its second and first operand, and its destination (R32). -/
abbrev GroupForm (α : Type) := BitVec 3 → BitVec 5 → BitVec 5 → BitVec 5 → α

/-- An instruction of two groups runs its member alone, and its word stands for that member in a convoy. -/
def Issues (i : GroupForm Instr) (g : GroupForm Member) :
    Prop := ∀ m x a d, (∃ word, ∀ s, exec (i m x a d) s = runSolo word (g m x a d) s) ∧
      ∀ v, encodeWord (i m x a d) = some v → memberOfWord v = .ok (g m x a d)

/-- A word that decodes stands for its member. -/
theorem memberOfWord_ok {v : Nat} {i : Instr} {g : Member} (hd : decodeWord v = .ok i) (hg : membersOf v = some g) :
    memberOfWord v = .ok g := by
  have hr : wordReject v = none := by
    cases h : wordReject v with
    | none => rfl
    | some e => simp [decodeWord, h] at hd
  unfold memberOfWord checkedMember
  rw [hr, hg]

/-- The fields of a word of two groups: its mask, its second and first operand, and its destination (R32). -/
abbrev groupFields : List (Nat × Nat) := [(22, 3), (17, 5), (12, 5), (7, 5)]

/-- The instruction of two groups of a major and a function code, and its member: its word (R32, R44), and its meaning alone. -/
structure Coded (major fn : Nat) (i : GroupForm Instr)
    (g : GroupForm Member) : Prop where
  base : major + fn * 2 ^ 25 < 2 ^ 32 ∧ layoutOk (major + fn * 2 ^ 25) groupFields = true ∧
    bits (major + fn * 2 ^ 25) 0 7 = major ∧ bits (major + fn * 2 ^ 25) 25 7 = fn
  encodes : ∀ m x a d, encodeWord (i m x a d) =
    some (wordOn (major + fn * 2 ^ 25) groupFields [m.toNat, x.toNat, a.toNat, d.toNat])
  wellFormed : ∀ m x a d, (i m x a d).wellFormed = true
  runs : ∀ m x a d, ∃ word, ∀ s, exec (i m x a d) s = runSolo word (g m x a d) s
  member : ∀ v, v % 128 = major → bits v 25 7 = fn →
    membersOf v = some (g (fieldAt v 22) (fieldAt v 17) (fieldAt v 12) (fieldAt v 7))

theorem Coded.issues {major fn : Nat} {i : GroupForm Instr}
    {g : GroupForm Member} (h : Coded major fn i g) : Issues i g := by
  refine fun m x a d => ⟨h.runs m x a d, fun v hv => ?_⟩
  obtain ⟨hb, hl, hmajor, hfn⟩ := h.base
  obtain ⟨-, hd⟩ := roundTrip _ (h.wellFormed m x a d) v hv
  have L := word_layout groupFields [m.toNat, x.toNat, a.toNat, d.toNat] _ hb hl ⟨m.isLt, x.isLt, a.isLt, d.isLt, trivial⟩
  rw [h.encodes m x a d] at hv
  rw [Option.some.inj hv] at L
  obtain ⟨-, ⟨h22, h17, h12, h7, -⟩, keep⟩ := L
  refine memberOfWord_ok hd ?_
  rw [h.member v (mod_of_bits ((keep 0 7 (by decide)).trans hmajor)) ((keep 25 7 (by decide)).trans hfn),
    fieldAt_of_bits h22, fieldAt_of_bits h17, fieldAt_of_bits h12, fieldAt_of_bits h7]

theorem membersOf_vint {v : Nat} (h : v % 128 = 0x32) : membersOf v = membersVint v := by
  unfold membersOf
  rw [h]
  rfl

theorem membersOf_vfp {v : Nat} (h : v % 128 = 0x40) : membersOf v = membersVfp v := by
  unfold membersOf
  rw [h]
  rfl

/-- A function code of integer arithmetic on two groups (R135). -/
theorem issues_vint (fn : Nat) (f : IntFn) {i : GroupForm Instr}
    (h : Coded 0x32 fn i fun m x a d => intMember f m (.v x.toNat) a d := by
      exact ⟨by decide, fun _ _ _ _ => rfl, fun _ _ _ _ => rfl, fun _ _ _ _ => ⟨_, fun _ => rfl⟩, fun v hm hf => by
        rw [membersOf_vint hm]
        unfold membersVint
        rw [hf]
        rfl⟩) :
    ∃ f : IntFn, Issues i fun m x a d => intMember f m (.v x.toNat) a d := ⟨f, h.issues⟩

/-- A function code of floating-point arithmetic on two groups (R161). -/
theorem issues_vfp (fn : Nat) (f : FpFn) (draws : Bool) {i : GroupForm Instr}
    (h : Coded 0x40 fn i fun m x a d => fpMember f draws m (.v x.toNat) a d := by
      exact ⟨by decide, fun _ _ _ _ => rfl, fun _ _ _ _ => rfl, fun _ _ _ _ => ⟨_, fun _ => rfl⟩, fun v hm hf => by
        rw [membersOf_vfp hm]
        unfold membersVfp
        rw [hf]
        rfl⟩) :
    ∃ (f : FpFn) (draws : Bool), Issues i fun m x a d => fpMember f draws m (.v x.toNat) a d := ⟨f, draws, h.issues⟩

theorem issues_of_mem_vint : ∀ f ∈ Forms.vint, ∃ g : IntFn, Issues f.1 fun m x a d => intMember g m (.v x.toNat) a d := by
  simp only [Forms.vint, List.forall_mem_cons]
  exact ⟨issues_vint 0 viAdd, issues_vint 1 viSub, issues_vint 2 viRsub, issues_vint 3 viMul, issues_vint 4 viMulh,
    issues_vint 5 viMulhu, issues_vint 6 viAnd, issues_vint 7 viOr, issues_vint 8 viXor, issues_vint 9 viSll,
    issues_vint 10 viSrl, issues_vint 11 viSra, issues_vint 12 viMin, issues_vint 13 viMax, issues_vint 14 viMinu,
    issues_vint 15 viMaxu, issues_vint 16 viSadd, issues_vint 17 viSsub, issues_vint 18 viSaddu, issues_vint 19 viSsubu,
    issues_vint 20 viMadd, issues_vint 21 viAbsd, nofun⟩

theorem issues_of_mem_vfp2 : ∀ f ∈ Forms.vfp2, ∃ (g : FpFn) (draws : Bool),
    Issues f.1 fun m x a d => fpMember g draws m (.v x.toNat) a d := by
  simp only [Forms.vfp2, List.forall_mem_cons]
  exact ⟨issues_vfp 0 vfAddFn true, issues_vfp 1 vfSubFn true, issues_vfp 2 vfMulFn true, issues_vfp 3 vfDivFn true,
    issues_vfp 5 vfMinFn false, issues_vfp 6 vfMaxFn false, issues_vfp 13 vfSgnjFn false, nofun⟩

/-! ### Two members in a convoy (R40, R41, R55) -/

section
variable {s : State} {st : Strand} {x y : Member} {m m' : Nat} {act act' : ElemAct} {d d' : BitVec 5}
  (hs : strandOf s = some st) (hx : Elementwise x m act d) (hp : Plain act st.r)
  (hy : Elementwise y m' act' d') (hq : Plain act' st.r) (hbx : x.bad st = false)
include hs hbx

/-- A second member of the INT pipe stops the convoy at its issue (R40, R55). -/
theorem runConvoy_int_int (hpx : x.pipe = .int) (hpy : y.pipe = .int) (v w : Nat) : runConvoy [v, w] [.ok x, .ok y] s =
    .next (takeTrap s { cause := causeIllins, xval := memberXval w (st.r.pc.toNat / 4 + 1) }) := by
  have hc : convoyFault st [] 0 [.ok x, .ok y] = some (1, causeIllins) := by
    simp [convoyFault, hpx, hpy, hbx, pipeLimit]
  simp only [runConvoy, hs, hc]
  rfl

variable (hv : VectorReady st) (hby : ∀ st' : Strand, st'.r.vt = st.r.vt → y.bad st' = false)
include hv hx hp hy hq hby

/-- Two members of different pipes do what they do alone one after another, but for NANC (R41, R156). -/
theorem runConvoy_pair (hpipe : x.pipe ≠ y.pipe) (v w wx wy : Nat) : ∃ t1 t2 st2 nanc,
    runSolo wx x s = .next t1 ∧ runSolo wy y t1 = .next t2 ∧ Runs t2 st2 ∧ nanc < 16 ∧
      runConvoy [v, w] [.ok x, .ok y] s = .next (putStrand t2 { st2 with r := { st2.r with
        mst := (st2.r.mst &&& ~~~0xF0000) ||| BitVec.ofNat 64 (nanc * 2 ^ 16) } }) := by
  obtain ⟨-, hr, hi, hn, hf⟩ := hv
  have h1 := runSolo_elementwise hs hf hx hp hr hi hn hbx wx
  set c1 := spansCells m act d st.r (allSpans st.r) (st.blocks, st.r.mst) with hc1
  have hs1 := strandOf_putStrand hs (vectorDone st c1.2 c1.1)
  have hq1 : Plain act' (vectorDone st c1.2 c1.1).r := by
    constructor
    · exact fun b r' ht hf => (hq.regs b r' ht hf).trans (hq.regs b (vectorDone st c1.2 c1.1).r rfl rfl).symm
    · intro b j
      rw [hq.regs b (vectorDone st c1.2 c1.1).r rfl rfl]
      exact hq.neutral b j
  set c2 := spansCells m' act' d' st.r (allSpans st.r) c1 with hc2
  have h2 : runSolo wy y (putStrand s (vectorDone st c1.2 c1.1)) =
      .next (putStrand s (vectorDone (vectorDone st c1.2 c1.1) c2.2 c2.1)) := by
    have he : spansCells m' act' d' (vectorDone st c1.2 c1.1).r (allSpans st.r) c1 = c2 :=
      spansCells_regs (r' := (vectorDone st c1.2 c1.1).r) hq rfl rfl rfl _ _
    rw [← he]
    refine (runSolo_elementwise hs1 hf hy hq1 rfl rfl hn (hby _ rfl) wy).trans ?_
    exact congrArg _ (putStrand_putStrand ..)
  obtain ⟨k, c', hc, hsame⟩ :=
    performConvoy_pair hs hf hx hp hy hq hn ((st.r.pc.toNat / 4 + 0) % 4) ((st.r.pc.toNat / 4 + 1) % 4)
  have hpos : ∀ p : Pipe, 1 ≤ pipeLimit p := fun p => by cases p <;> decide
  have hfault : convoyFault st [] 0 [.ok x, .ok y] = none := by
    have hx1 := hpos x.pipe
    have hy1 := hpos y.pipe
    simp [convoyFault, hbx, hby st rfl, hpipe]
    rw [if_neg (by omega), if_neg (by omega)]
  have hconvoy : runConvoy [v, w] [.ok x, .ok y] s = convoyDone 2 (putCells s st (c'.1, setNanc k c'.2)) := by
    simp only [runConvoy, hs, hfault, startGroup, hr, if_true, hi]
    have hms : okMembers (st.r.pc.toNat / 4) [.ok x, .ok y] =
      [((st.r.pc.toNat / 4 + 0) % 4, x), ((st.r.pc.toNat / 4 + 1) % 4, y)] := rfl
    rw [hms, hc]
    rfl
  refine ⟨_, _, _, k % 16, h1, h2, strandOf_putStrand hs _, Nat.mod_lt _ (by decide), ?_⟩
  rw [hconvoy, convoyDone, strandOf_putCells hs]
  obtain ⟨hbl, hmst⟩ := hsame
  have hset : setNanc k c'.2 = setNanc k c2.2 := by rw [setNanc, setNanc, hmst]
  have hpc : st.r.pc + BitVec.ofNat 64 (4 * 2) = st.r.pc + 4 + 4 := by
    rw [BitVec.add_assoc]
    rfl
  simp only [putStrand_putStrand, putCells]
  rw [hbl, hset]
  simp only [withCells, hpc]
  rfl

end

/-- Settles O5: the members of either order run as they do alone, and a second one of the INT pipe stops at issue. -/
theorem convoysRunInWordOrder : Obligations.ConvoysRunInWordOrder := by
  unfold Obligations.ConvoysRunInWordOrder
  intro s st hs hv ht hmode m n x a d y b e hal f hf
  simp only [List.forall_mem_cons, List.not_mem_nil, false_implies, implies_true, and_true] at hal
  obtain ⟨hx, ha, hd, hy, hb, he⟩ := hal
  obtain ⟨fi, hfi⟩ := issues_of_mem_vint f hf
  obtain ⟨⟨wi, hrun⟩, hword⟩ := hfi m x a d
  have hint := elementwise_intMember m x a d fi
  have hpint := plain_intElem x a d fi st.r
  have hbint : ∀ st' : Strand, st'.r.vt = st.r.vt → (intMember fi m (.v x.toNat) a d).bad st' = false := fun st' h =>
    intMember_bad m x a d (by rwa [h]) (by rw [h]; exact ⟨hx, ha, hd⟩) fi
  refine ⟨fun g hg => ?_, fun g hg v w hev hew => ?_⟩
  · obtain ⟨fp, draws, hgi⟩ := issues_of_mem_vfp2 g hg
    obtain ⟨⟨wf, hrunf⟩, hwordf⟩ := hgi n y b e
    have hfp := elementwise_fpMember n y b e fp draws
    have hpfp := plain_fpElem y b e fp draws hmode
    have hbfp : ∀ st' : Strand, st'.r.vt = st.r.vt → (fpMember fp draws n (.v y.toNat) b e).bad st' = false := fun st' h =>
      fpMember_bad n y b e (by rwa [h]) (by rw [h]; exact ⟨hy, hb, he⟩) fp draws
    simp only [List.forall_mem_cons, List.not_mem_nil, false_implies, implies_true, and_true]
    refine ⟨fun v w hev hew => ?_, fun v w hev hew => ?_⟩
    · rw [List.map_cons, List.map_cons, List.map_nil, hword v hev, hwordf w hew, hrun, funext hrunf]
      exact runConvoy_pair hs hint hpint hfp hpfp (hbint st rfl) hv hbfp nofun v w wi wf
    · rw [List.map_cons, List.map_cons, List.map_nil, hwordf v hev, hword w hew, hrunf, funext hrun]
      exact runConvoy_pair hs hfp hpfp hint hpint (hbfp st rfl) hv hbint nofun v w wf wi
  · obtain ⟨gi, hgi⟩ := issues_of_mem_vint g hg
    rw [List.map_cons, List.map_cons, List.map_nil, hword v hev, (hgi n y b e).2 w hew]
    exact runConvoy_int_int hs (hbint st rfl) rfl rfl v w

end Sys2Proof.Laws

/-! # SETVL and SETVLR (O19) -/

namespace Sys2Proof.Laws

open Sys2Proof.Machine Sys2Proof.Safety

variable {s u : State} {st q : Strand}

/-! ### Shrinking (R19) -/

/-- A block without converted ways gives none back (R211). -/
theorem changeWays_unconverted (s : State) {bl : Block} (h : bl.ways = 0) : changeWays false bl.ways.toNat s bl = s := by
  simp [changeWays, h]

/-- Blocks without converted ways only leave their bays (R380). -/
theorem detachBays_unconverted (bls : List Block) (h : ∀ bl ∈ bls, bl.ways = 0) : ∀ s : State,
    detachBays s bls = bls.foldl leaveBay s := by
  induction bls with
  | nil => exact fun _ => rfl
  | cons bl t ih =>
    intro s
    have hw := changeWays_unconverted s (h bl List.mem_cons_self)
    have ht := ih (fun x hx => h x (List.mem_cons_of_mem _ hx)) (leaveBay s bl)
    simp only [detachBays, List.foldl_cons, hw] at ht ⊢
    exact ht

/-- Leaving bays keeps the strands and the turn. -/
theorem strandOf_leaveBays (bls : List Block) : ∀ s : State, strandOf (bls.foldl leaveBay s) = strandOf s := by
  induction bls with
  | nil => exact fun _ => rfl
  | cons bl t ih => exact fun s => ih (leaveBay s bl)

theorem mayShrink_iff {n : Nat} : mayShrink n st = true ↔ ∀ bl ∈ st.blocks.drop n, bl.slog = [] := by
  simp [mayShrink]

/-! ### A vector type granted (R108) -/

/-- The strand that SETVL leaves, at PC + 4. -/
theorem grantedStrand_eq (avl : Nat) (t : BitVec 13) (d : Nat) (q : Strand) (pc : Word) : retired (granted avl t d q) pc =
    wrote { q with r := { q.r with vl := min avl (spanOf q * vlbOf t), vt := t, vstart := 0 } } d
      (BitVec.ofNat 64 (min avl (spanOf q * vlbOf t))) pc := by
  unfold granted wrote regWrite retired
  split <;> rfl

section
variable (hs : strandOf s = some st) {word : Nat} {t : BitVec 13} {a d : BitVec 6}
include hs

/-- An illegal type is refused. -/
theorem setvl_illegal (ht : vtLegal t.toNat = false) : setvl word t a d s =
    .error (.trap { cause := causeIllop, xval := memberXval word (st.r.pc.toNat / 4) }) s := by
  rw [setvl, bind_ok (getStrand_run hs), ht]
  exact issueTrap_run hs causeIllop word

variable (ht : vtLegal t.toNat = true)
include ht

/-- A legal type is granted over the whole span when no shrink is applied. -/
theorem setvl_unshrunk (hn : ∀ n, st.shrink = some n → mayShrink n st = false) : setvl word t a d s =
    .ok () (putStrand s (granted (regRead st.r a.toNat).toNat t d.toNat st)) := by
  rw [setvl, bind_ok (getStrand_run hs), ht]
  refine (congrFun (if_neg (by simp)) s).trans ?_
  cases hk : st.shrink with
  | none => rfl
  | some n =>
    dsimp only
    rw [hn n hk]
    rfl

/-- With a mark that may be applied the positions above it go first. -/
theorem setvl_shrunk {n : Nat} (hk : st.shrink = some n) (hm : mayShrink n st = true) : setvl word t a d s =
    .ok () (putStrand (detachBays s (st.blocks.drop n)) (granted (regRead st.r a.toNat).toNat t d.toNat (shrunk n st))) := by
  rw [setvl, bind_ok (getStrand_run hs), ht, hk]
  refine (congrFun (if_neg (by simp)) s).trans ?_
  dsimp only
  rw [if_pos hm]
  rfl

end

/-- An instruction that grants a type ends with it. -/
theorem runSeq_granted {body : M Unit} {avl : Nat} {t : BitVec 13} {d : Nat} (hs : strandOf s = some st) (hu : strandOf u = some st)
    (h : body s = .ok () (putStrand u (granted avl t d q))) :
    runSeq body s = .next (putStrand u (retired (granted avl t d q) (st.r.pc + 4))) := by
  rw [runSeq_ok hs h (strandOf_putStrand hu _), putStrand_putStrand]

/-- An instruction that does what SETVL does with a word and a type, and where it ends. -/
theorem runSeq_setvl {body : M Unit} {word : Nat} {t : BitVec 13} {a d : BitVec 6} (hs : strandOf s = some st)
    (hb : body s = setvl word t a d s) :
    let ended := fun (u : State) (q : Strand) => Host.Outcome.next (σ := State) (φ := Fault) (ρ := Refusal)
      (putStrand u (retired (granted (regRead st.r a.toNat).toNat t d.toNat q) (st.r.pc + 4)))
    (vtLegal t.toNat = true → st.shrink = none → runSeq body s = ended s st) ∧
    (∀ n, vtLegal t.toNat = true → st.shrink = some n → (∀ bl ∈ st.blocks.drop n, bl.slog = [] ∧ bl.ways = 0) →
      runSeq body s = ended ((st.blocks.drop n).foldl leaveBay s) (shrunk n st)) ∧
    (∀ n, vtLegal t.toNat = true → st.shrink = some n → (∃ bl ∈ st.blocks.drop n, bl.slog ≠ []) →
      runSeq body s = ended s st) ∧
    (vtLegal t.toNat = false →
      runSeq body s = .next (takeTrap s { cause := causeIllop, xval := memberXval word (st.r.pc.toNat / 4) })) := by
  intro ended
  refine ⟨fun ht hk => ?_, fun n ht hk hbl => ?_, fun n ht hk hbl => ?_, fun ht => ?_⟩
  · exact runSeq_granted hs hs (hb.trans (setvl_unshrunk hs ht (by simp [hk])))
  · have hm := mayShrink_iff.mpr fun bl h => (hbl bl h).1
    have hrun := setvl_shrunk (word := word) (a := a) (d := d) hs ht hk hm
    rw [detachBays_unconverted _ fun bl h => (hbl bl h).2] at hrun
    exact runSeq_granted hs ((strandOf_leaveBays _ s).trans hs) (hb.trans hrun)
  · refine runSeq_granted hs hs (hb.trans (setvl_unshrunk hs ht fun k h => ?_))
    obtain rfl : n = k := Option.some.inj (hk.symm.trans h)
    obtain ⟨bl, hmem, hne⟩ := hbl
    exact Bool.eq_false_iff.mpr fun hm => hne (mayShrink_iff.mp hm bl hmem)
  · rw [runSeq_error hs (hb.trans (setvl_illegal hs ht))]
    rfl

/-- Settles O19: both forms do what SETVL does with their type, which SETVLR reads first. -/
theorem setvlResults : Obligations.SetvlResults := by
  unfold Obligations.SetvlResults
  intro s st hs t b a d
  simp only [List.forall_mem_cons, List.not_mem_nil, false_implies, implies_true, and_true]
  have hi := runSeq_setvl hs (rfl : setvl (wordSI 0x30 t.toNat a.toNat d.toNat) t a d s = _)
  have hr := runSeq_setvl hs (bind_ok (f := fun x => setvl (wordSR 0x31 0 b.toNat a.toNat d.toNat) (BitVec.ofNat 13 x.toNat) a d)
    (rs_run b hs))
  simp only [grantedStrand_eq] at hi hr
  have hw : wordSR 0x31 0 b.toNat a.toNat d.toNat = 0x31 + b.toNat * 2 ^ 19 + a.toNat * 2 ^ 13 + d.toNat * 2 ^ 7 :=
    (wordSR_eq ..).trans (by omega)
  rw [hw] at hr
  exact ⟨hi, hr⟩

end Sys2Proof.Laws

/-! # The active fragment (O20) -/

namespace Sys2Proof.Laws

open Sys2Proof.Machine Sys2Proof.Safety

variable {s t : State} {st : Strand}

/-! ### Vector control (R119) -/

/-- Where nothing has happened nothing is taken back. -/
theorem rollback_self (hs : strandOf s = some st) : rollback s s = s := by
  have hb : List.zipWith (fun a b : Block => { a with ms2flt := b.ms2flt }) st.blocks st.blocks = st.blocks := by
    rw [List.zipWith_self]
    exact List.map_id st.blocks
  simp only [rollback, hs, hb]
  exact putStrand_self hs

/-- A vector-control instruction that answers clears VSTART (R119). -/
theorem controlled_ok {body : M Word} {pc : Word} {st' : Strand} (h : body s = .ok pc (putStrand s st'))
    (hs : strandOf s = some st) :
    runTo (controlled body) s = .next (putStrand s (retired { st' with r := { st'.r with vstart := 0 } } pc)) := by
  have hr : controlled body s = .ok pc (putStrand s { st' with r := { st'.r with vstart := 0 } }) := by
    have ha : attempt body s = .ok (.ok pc) (putStrand s st') := by
      rw [attempt, h]
    rw [controlled, bind_ok (get_run s), bind_ok ha]
    refine (bind_ok (modStrand_run _ (strandOf_putStrand hs st'))).trans ?_
    rw [putStrand_putStrand]
    rfl
  rw [runTo_ok hr (strandOf_putStrand hs _), putStrand_putStrand]

/-- One that is refused at issue leaves the machine as it was. -/
theorem controlled_refused {word : Nat} {body : M Word} (hs : strandOf s = some st)
    (h : body s = issueTrap causeIllop word s) : runTo (controlled body) s =
      .next (takeTrap s { cause := causeIllop, xval := memberXval word (st.r.pc.toNat / 4) }) := by
  have ha : attempt body s =
      .ok (.error (.trap { cause := causeIllop, xval := memberXval word (st.r.pc.toNat / 4) })) s := by
    rw [attempt, h, issueTrap_run hs]
  have hr : controlled body s = .error (.trap { cause := causeIllop, xval := memberXval word (st.r.pc.toNat / 4) }) s := by
    rw [controlled, bind_ok (get_run s), bind_ok ha]
    refine (bind_ok (modify_run _ s)).trans ?_
    rw [rollback_self hs]
    rfl
  rw [runTo_error hr]
  rfl

/-! ### The stack with nothing spilled (R125) -/

/-- A buffer with room takes an entry. -/
theorem pushFrag_run (hs : strandOf s = some st) (hl : st.frags.length < 16) (f : Frag) :
    pushFrag f s = .ok () (putStrand s { st with frags := f :: st.frags }) := by
  rw [pushFrag, bind_ok (getStrand_run hs), if_neg (not_le.mpr hl)]
  exact modStrand_run _ hs

/-- The newest entry leaves the stack, and none comes back for it. -/
theorem popFrag_run (hs : strandOf s = some st) (hn : st.spilled = 0) {f : Frag} {rest : List Frag} (hf : st.frags = f :: rest) :
    popFrag s = .ok f (putStrand s { st with frags := rest }) := by
  rw [popFrag, bind_ok (getStrand_run hs), hf]
  refine (bind_ok (modStrand_run _ hs)).trans ?_
  simp [hn]

/-- The blocks with m0 replaced by masks, one for each position (R122, R123). -/
def maskedBlocks (bls : List Block) (ms : List (BitVec Config.maskBits)) : List Block :=
  bls.zipIdx.map fun (bl, b) =>
    match ms[b]? with
    | some x => withMask bl 0 x
    | none => bl

theorem setActive_run (hs : strandOf s = some st) (ms : List (BitVec Config.maskBits)) :
    setActive ms s = .ok () (putStrand s { st with blocks := maskedBlocks st.blocks ms }) :=
  modStrand_run _ hs

/-! ### VSPLIT, VJOIN, VBNONE (R122 to R124) -/

/-- The entry that VSPLIT pushes for the join. -/
def joinEntry (st : Strand) : Frag := { isElse := false, masks := masksOf st 0, pc := 0 }

/-- The entry that it pushes for the else path. -/
def elseEntry (st : Strand) (o : BitVec 22) (c : BitVec 3) : Frag :=
  { isElse := true, masks := List.zipWith (fun x y => x &&& ~~~y) (masksOf st 0) (masksOf st c.toNat),
    pc := splitTarget st.r.pc o }

/-- The masks of the then path, which VBNONE looks at. -/
def thenMasks (st : Strand) (c : BitVec 3) : List (BitVec Config.maskBits) :=
  List.zipWith (· &&& ·) (masksOf st 0) (masksOf st c.toNat)

/-- The state after vector control has set the blocks and the stack. -/
def controlledTo (s : State) (st : Strand) (bls : List Block) (frags : List Frag) (pc : Word) : State :=
  putStrand s (retired { st with r := { st.r with vstart := 0 }, blocks := bls, frags := frags } pc)

section
variable (hs : strandOf s = some st) (hn : st.spilled = 0)
include hs hn

theorem execVsplit_run (hl : st.frags.length < 15) (o : BitVec 22) (c : BitVec 3) : execVsplit o c s =
    .next (controlledTo s st (maskedBlocks st.blocks (thenMasks st c)) (elseEntry st o c :: joinEntry st :: st.frags)
      (st.r.pc + 4)) := by
  have hroom : ¬ (decide (254 < fragDepth st) || (decide (14 < fragDepth st) && decide (st.r.fragbase = 0))) = true := by
    simp [fragDepth, hn]
    omega
  have h1 := strandOf_putStrand hs { st with frags := joinEntry st :: st.frags }
  have h2 := strandOf_putStrand hs { st with frags := elseEntry st o c :: joinEntry st :: st.frags }
  refine controlled_ok (st' := { st with blocks := maskedBlocks st.blocks (thenMasks st c)
                                         frags := elseEntry st o c :: joinEntry st :: st.frags }) ?_ hs
  rw [bind_ok (getStrand_run hs)]
  refine (congrFun (if_neg hroom) s).trans ?_
  refine (bind_ok (pushFrag_run hs (by omega) _)).trans ?_
  refine (bind_ok (pushFrag_run h1 (by simp; omega) _)).trans ?_
  rw [putStrand_putStrand]
  refine (bind_ok (setActive_run h2 _)).trans ?_
  rw [putStrand_putStrand]
  rfl

/-- With an empty stack VJOIN is refused. -/
theorem execVjoin_empty (hf : st.frags = []) :
    execVjoin s = .next (takeTrap s { cause := causeIllop, xval := memberXval 0x3C (st.r.pc.toNat / 4) }) := by
  refine controlled_refused (word := wordVB 0x3C 0 0) hs ?_
  rw [bind_ok (getStrand_run hs), if_pos (by simp [fragDepth, hf, hn])]

section
variable {e : Frag} {rest : List Frag} (hf : st.frags = e :: rest)
include hf

/-- What VJOIN does with the newest entry. -/
theorem vjoin_pops {f : Strand → Frag → M Word} {g : Strand → M Word} :
    (do let st ← getStrand
        if fragDepth st = 0 then g st
        else
          let e ← popFrag
          f st e : M Word) s = f st e (putStrand s { st with frags := rest }) := by
  rw [bind_ok (getStrand_run hs), if_neg (by simp [fragDepth, hf])]
  exact bind_ok (popFrag_run hs hn hf)

/-- An else entry with an active element begins its path. -/
theorem execVjoin_else (he : e.isElse = true) (hm : emptyMasks st.r e.masks = false) :
    execVjoin s = .next (controlledTo s st (maskedBlocks st.blocks e.masks) rest e.pc) := by
  refine controlled_ok (st' := { st with blocks := maskedBlocks st.blocks e.masks, frags := rest }) ?_ hs
  refine (vjoin_pops hs hn hf).trans ?_
  refine (congrFun (if_pos (by simp [he, hm])) _).trans ?_
  refine (bind_ok (setActive_run (strandOf_putStrand hs _) _)).trans ?_
  rw [putStrand_putStrand]
  rfl

/-- One without is passed over for the join entry below it. -/
theorem execVjoin_skip {j : Frag} {below : List Frag} (hb : rest = j :: below) (he : e.isElse = true)
    (hm : emptyMasks st.r e.masks = true) :
    execVjoin s = .next (controlledTo s st (maskedBlocks st.blocks j.masks) below (st.r.pc + 4)) := by
  refine controlled_ok (st' := { st with blocks := maskedBlocks st.blocks j.masks, frags := below }) ?_ hs
  refine (vjoin_pops hs hn hf).trans ?_
  have h1 := strandOf_putStrand hs { st with frags := rest }
  refine (congrFun (if_neg (by simp [he, hm])) _).trans ?_
  rw [if_pos he]
  refine (bind_ok (popFrag_run h1 hn hb)).trans ?_
  rw [putStrand_putStrand]
  refine (bind_ok (setActive_run (strandOf_putStrand hs _) _)).trans ?_
  rw [putStrand_putStrand]
  rfl

/-- A join entry restores its mask. -/
theorem execVjoin_join (he : e.isElse = false) :
    execVjoin s = .next (controlledTo s st (maskedBlocks st.blocks e.masks) rest (st.r.pc + 4)) := by
  refine controlled_ok (st' := { st with blocks := maskedBlocks st.blocks e.masks, frags := rest }) ?_ hs
  refine (vjoin_pops hs hn hf).trans ?_
  refine (congrFun (if_neg (by simp [he])) _).trans ?_
  rw [if_neg (by simp [he])]
  refine (bind_ok (pure_run e _)).trans ?_
  refine (bind_ok (setActive_run (strandOf_putStrand hs _) _)).trans ?_
  rw [putStrand_putStrand]
  rfl

end

omit hn in
theorem execVbnone_run (o : BitVec 22) (c : BitVec 3) : execVbnone o c s = .next (controlledTo s st st.blocks st.frags
    (if emptyMasks st.r (thenMasks st c) then splitTarget st.r.pc o else st.r.pc + 4)) := by
  refine controlled_ok (st' := st) ?_ hs
  rw [bind_ok (getStrand_run hs), putStrand_self hs]
  rfl

end

/-- Settles O20: each instruction as the stack stands. -/
theorem activeFragmentControl : Obligations.ActiveFragmentControl := by
  unfold Obligations.ActiveFragmentControl
  intro s st hs hn o c
  exact ⟨fun hl => execVsplit_run hs hn hl o c, execVjoin_empty hs hn,
    fun e rest hf he hm => execVjoin_else hs hn hf he hm,
    fun e j rest hf he hm => execVjoin_skip hs hn hf rfl he hm,
    fun e rest hf he => execVjoin_join hs hn hf he, execVbnone_run hs o c⟩

end Sys2Proof.Laws

/-! # Fences and the replies of writes (O42) -/

namespace Sys2Proof.Laws

open Sys2Proof.Machine Sys2Proof.Safety

variable {s t u : State} {st : Strand}

/-! ### Acquires at any scope (R189, R212, R315) -/

/-- What an acquire of narrower scope than device makes of the strand. -/
theorem acquiring_narrow (s : State) (st : Strand) {scope : Nat} (h : ¬ 3 ≤ scope) :
    Forms.acquiring s st scope = Forms.pendings st seenWrite := by
  rw [Forms.acquiring, if_neg h, if_neg h]
  rfl

/-- An acquire, whatever its scope. -/
theorem acquire_atScope (hs : strandOf s = some st) (scope : Nat) : ∃ bays, Forms.acquired s st scope bays ∧
    acquire scope s = .ok ⟨⟩ (putStrand { s with bays := bays } (Forms.acquiring s st scope)) := by
  by_cases h : 3 ≤ scope
  · exact acquire_run hs h
  have hs1 := strandOf_putStrand hs (Forms.pendings st seenWrite)
  rw [acquiring_narrow s st h]
  by_cases h0 : scope = 0
  · refine ⟨s.bays, fun n => by simp [h0, bayOf], ?_⟩
    refine (bind_ok (modPending_pendings seenWrite hs)).trans ?_
    rw [if_neg h, if_neg (by simp [h0])]
    rfl
  · obtain ⟨bays, hb, hn⟩ := foldl_clearedBay (attached st) (putStrand s (Forms.pendings st seenWrite))
    refine ⟨bays, fun n => ?_, ?_⟩
    · rw [hn]
      simp only [ne_eq, h0, not_false_iff, true_and]
      rfl
    · refine (bind_ok (modPending_pendings seenWrite hs)).trans ?_
      rw [if_neg h, if_pos (bne_iff_ne.mpr h0)]
      exact (bind_ok (getStrand_run hs1)).trans (congrArg (EStateM.Result.ok PUnit.unit) hb)

/-! ### Fences (R132, R317, R322) -/

/-- Ordering one stream's writes for the other (R132). -/
theorem settleStream_settled (hs : strandOf s = some st) (v : Bool) :
    settleStream v s = .ok ⟨⟩ (putStrand s (Forms.streamSettled v st)) := modPending_pendings _ hs

/-- The body of a fence orders the scalar writes before it for the vector stream (R322). -/
theorem heldFence_run {body : M Unit} {st' : Strand} (h : body s = .ok () (putStrand u st')) (hu : strandOf u = some st) :
    heldFence body s = .ok () (putStrand u (Forms.streamSettled false st')) := by
  rw [heldFence, bind_ok h, settleStream_settled (strandOf_putStrand hu st') false, putStrand_putStrand]

/-- An instruction that only replaces its strand, in a state that may have changed otherwise. -/
theorem runSeq_replaced {body : M Unit} {st' : Strand} (hs : strandOf s = some st) (hu : strandOf u = some st)
    (h : body s = .ok () (putStrand u st')) : runSeq body s = .next (putStrand u (retired st' (st.r.pc + 4))) := by
  rw [runSeq_ok hs h (strandOf_putStrand hu st'), putStrand_putStrand]

/-- A fence whose body answers. -/
theorem runSeq_heldFence {body : M Unit} {st' : Strand} (hs : strandOf s = some st) (hu : strandOf u = some st)
    (h : body s = .ok () (putStrand u st')) :
    runSeq (heldFence body) s = .next (putStrand u (retired (Forms.streamSettled false st') (st.r.pc + 4))) :=
  runSeq_replaced hs hu (heldFence_run h hu)

/-- A fence whose body waits. -/
theorem runSeq_heldFence_waits {body : M Unit} {w : Wait} (hs : strandOf s = some st) (h : body s = .error (.wait w) s) :
    runSeq (heldFence body) s = .next (putStrand s { st with wait := w }) := by
  have hb : heldFence body s = .error (.wait w) s := bind_error h
  rw [runSeq_error hs hb, stopped, hs]

section
variable (hs : strandOf s = some st)
include hs

theorem execFenceAcq_run (c : BitVec 3) : ∃ bays, execFenceAcq c s = .next (putStrand { s with bays := bays }
      (retired (Forms.streamSettled false (Forms.acquiring s st c.toNat)) (st.r.pc + 4))) ∧
    Forms.acquired s st c.toNat bays := by
  obtain ⟨bays, hb, ha⟩ := acquire_atScope hs c.toNat
  exact ⟨bays, runSeq_heldFence (u := { s with bays := bays }) hs hs ha, hb⟩

/-- A release and acquire with a log behind it waits. -/
theorem acquireRelease_waits (hc : slogCount st ≠ 0) (scope : Nat) : acquireRelease scope s = .error (.wait .sideLog) s :=
  bind_error (releaseAs_waits hs hc true scope)

/-- A release and acquire as one (R313). -/
theorem acquireRelease_run (hc : slogCount st = 0) (scope : Nat) : ∃ bays, Forms.acquired s st scope bays ∧
    acquireRelease scope s = .ok () (putStrand { s with bays := bays }
      (Forms.acquiring s (Forms.released s st true scope) scope)) := by
  obtain ⟨bays, hb, ha⟩ := acquire_atScope (strandOf_putStrand hs (Forms.released s st true scope)) scope
  have hatt : attached (Forms.released s st true scope) = attached st := by
    simp [attached, Forms.released, Forms.pendings, Function.comp_def]
  refine ⟨bays, fun n => ?_, ?_⟩
  · rw [hb n, hatt]
    rfl
  · rw [acquireRelease, bind_ok (releaseAs_run hs hc true scope), ha]
    have he : Forms.acquiring (putStrand s (Forms.released s st true scope)) (Forms.released s st true scope) scope =
        Forms.acquiring s (Forms.released s st true scope) scope := by
      simp only [Forms.acquiring, putStrand_written, putStrand_putStrand]
    rw [he]
    exact congrArg _ (putStrand_putStrand { s with bays := bays } _ _)

/-! ### Shim lines drained (R294, R299) -/

omit hs

/-- The states differ in what drains change alone. -/
def OnlyDrained (s t : State) : Prop := t = Forms.drainedTo s t

theorem OnlyDrained.trans (h : OnlyDrained s t) (h' : OnlyDrained t u) : OnlyDrained s u := by
  unfold OnlyDrained at *
  rw [h'.trans (by rw [h]; rfl : Forms.drainedTo t u = Forms.drainedTo s u)]
  rfl

theorem onlyDrained_foldl {α : Type} {f : State → α → State} (hf : ∀ s x, OnlyDrained s (f s x)) (l : List α) :
    ∀ s : State, OnlyDrained s (l.foldl f s) := by
  induction l with
  | nil => exact fun _ => rfl
  | cons x l ih => exact fun s => (hf s x).trans (ih (f s x))

theorem onlyDrained_physStore (s : State) (pa : Nat) (bs : List Byte) : OnlyDrained s (physStore s pa bs) := by
  have hw : OnlyDrained s (physWrite s pa bs) := by
    unfold OnlyDrained
    rw [physWrite_frame]
    rfl
  refine hw.trans ?_
  unfold physStore clearPoison
  split <;> rfl

theorem onlyDrained_drainInto (s : State) (h : Shim) : OnlyDrained s (drainInto s h) := by
  refine onlyDrained_foldl (fun s e => ?_) _ s
  split
  · exact onlyDrained_physStore s _ _
  · rfl

/-- Drains touch memory, its homes' records and the list of shim lines alone. -/
theorem drainShims_frame (s : State) (pick : Shim → Bool) : drainShims s pick =
    { Forms.drainedTo s (drainShims s pick) with shims := s.shims.filter fun h => !pick h } := by
  have h := onlyDrained_foldl onlyDrained_drainInto (sortBy (fun a b => a.line ≤ b.line) (s.shims.filter pick)) s
  exact congrArg (fun t : State => { t with shims := s.shims.filter fun h => !pick h }) h

include hs

theorem execFenceSlk_run (c : BitVec 3) :
    let mine := fun (h : Shim) => (attached st).contains h.bay
    execFenceSlk c s = .next (putStrand
      { Forms.drainedTo s (drainShims s mine) with shims := s.shims.filter fun h => !mine h }
      (retired (Forms.streamSettled false st) (st.r.pc + 4))) := by
  intro mine
  have hu : strandOf (drainShims s mine) = some st := by
    rw [drainShims_frame]
    exact hs
  rw [← drainShims_frame]
  refine runSeq_heldFence hs hu ?_
  rw [bind_ok (getStrand_run hs), putStrand_self hu]
  rfl

/-- The fences that release wait for empty side logs. -/
theorem releasing_waits (hc : slogCount st ≠ 0) (c : BitVec 3) :
    ∀ i ∈ [Instr.fenceRel c, .fenceAr c, .fenceSc c, .fenceCode c],
      exec i s = .next (putStrand s { st with wait := .sideLog }) := by
  have h := acquireRelease_waits hs hc c.toNat
  simp only [List.forall_mem_cons]
  exact ⟨runSeq_heldFence_waits hs (releaseAs_waits hs hc true _), runSeq_heldFence_waits hs h,
    runSeq_heldFence_waits hs (bind_error h), runSeq_heldFence_waits hs (bind_error h), List.forall_mem_nil _⟩

section
variable (hc : slogCount st = 0) (c : BitVec 3)
include hc

theorem execFenceRel_run : execFenceRel c s = .next (putStrand s
    (retired (Forms.streamSettled false (Forms.released s st true c.toNat)) (st.r.pc + 4))) :=
  runSeq_heldFence hs hs (releaseAs_run hs hc true _)

/-- A fence that releases and acquires, and then changes its strand. -/
theorem runSeq_acquireRelease (f : Strand → Strand) : ∃ bays, Forms.acquired s st c.toNat bays ∧
    (runSeq (heldFence (acquireRelease c.toNat)) s = .next (putStrand { s with bays := bays }
      (retired (Forms.streamSettled false (Forms.acquiring s (Forms.released s st true c.toNat) c.toNat)) (st.r.pc + 4)))) ∧
    runSeq (heldFence (do acquireRelease c.toNat; modStrand f)) s = .next (putStrand { s with bays := bays }
      (retired (Forms.streamSettled false (f (Forms.acquiring s (Forms.released s st true c.toNat) c.toNat))) (st.r.pc + 4))) := by
  obtain ⟨bays, hb, ha⟩ := acquireRelease_run hs hc c.toNat
  refine ⟨bays, hb, runSeq_heldFence (u := { s with bays := bays }) hs hs ha,
    runSeq_heldFence (u := { s with bays := bays }) hs hs ?_⟩
  rw [bind_ok ha, modStrand_run f (strandOf_putStrand (s := { s with bays := bays }) hs _), putStrand_putStrand]

end

/-- What the fences that both release and acquire do (R313, R317). -/
theorem releasingFences_run (c : BitVec 3) :
    let done := fun (bays : Vector Bay 320) (st' : Strand) =>
      Host.Outcome.next (σ := State) (φ := Fault) (ρ := Refusal) (putStrand { s with bays := bays } (retired st' (st.r.pc + 4)))
    let seen := Forms.acquiring s (Forms.released s st true c.toNat) c.toNat
    slogCount st = 0 →
      (∃ bays, exec (.fenceAr c) s = done bays (Forms.streamSettled false seen) ∧ Forms.acquired s st c.toNat bays) ∧
      (∃ bays, Forms.acquired s st c.toNat bays ∧ exec (.fenceSc c) s = done bays { seen with pending := [] }) ∧
      ∃ bays, Forms.acquired s st c.toNat bays ∧ exec (.fenceCode c) s = done bays
        { Forms.streamSettled false seen with fetchSince := seen.acquiredAt, fetchStale := seen.acquiredStale } := by
  intro done seen hc
  obtain ⟨bays, hb, har, hsc⟩ := runSeq_acquireRelease hs hc c fun st => { st with pending := [] }
  obtain ⟨bays', hb', -, hcode⟩ := runSeq_acquireRelease hs hc c
    fun st => { st with fetchSince := st.acquiredAt, fetchStale := st.acquiredStale }
  exact ⟨⟨bays, har, hb⟩, ⟨bays, hb, hsc⟩, ⟨bays', hb', hcode⟩⟩

end

/-! ### Counters of outstanding writes (R304, R318) -/

theorem getD_lowered_same {n : Nat} (v : Vector Nat n) (i : Nat) :
    (v.setIfInBounds i (v.getD i 0 - 1)).getD i 0 = v.getD i 0 - 1 := by
  simp only [Vector.getD, Vector.toArray_setIfInBounds, Array.getD_eq_getD_getElem?, Array.getElem?_setIfInBounds]
  by_cases hi : i < n <;> simp [hi]

theorem getD_lowered_ne {n : Nat} (v : Vector Nat n) {i j : Nat} (h : j ≠ i) :
    (v.setIfInBounds i (v.getD i 0 - 1)).getD j 0 = v.getD j 0 := by
  simp [Vector.getD, Array.getD_eq_getD_getElem?, h.symm]

/-- What the counters below `n` have become: the last of them fell by one, the others by one or not at all, and where they
rose with the scope they still do. -/
structure Lowered (n : Nat) (v v' : Vector Nat 5) : Prop where
  above : ∀ i, n ≤ i → v'.getD i 0 = v.getD i 0
  last : ∀ i, i + 1 = n → v'.getD i 0 = v.getD i 0 - 1
  below : ∀ i, i < n → v'.getD i 0 = v.getD i 0 ∨ v'.getD i 0 = v.getD i 0 - 1
  rising : (∀ i, i + 1 < n → v.getD i 0 ≤ v.getD (i + 1) 0) → ∀ i, i + 1 < n → v'.getD i 0 ≤ v'.getD (i + 1) 0

/-- One counter falls alone, where the one below it is no larger afterwards. -/
theorem lowered_alone {i : Nat} {v : Vector Nat 5} (h : ∀ j, j + 1 = i → v.getD j 0 ≤ v.getD i 0 → v.getD j 0 ≤ v.getD i 0 - 1) :
    Lowered (i + 1) v (v.setIfInBounds i (v.getD i 0 - 1)) := by
  refine ⟨fun j hj => getD_lowered_ne v (Nat.ne_of_gt hj), fun j hj => ?_, fun j hj => ?_, fun hr j hj => ?_⟩
  · obtain rfl := Nat.succ.inj hj
    exact getD_lowered_same v j
  · rcases eq_or_ne j i with rfl | hji
    · exact .inr (getD_lowered_same v j)
    · exact .inl (getD_lowered_ne v hji)
  · rw [getD_lowered_ne v (Nat.lt_of_succ_lt_succ hj).ne]
    obtain rfl | hji := eq_or_ne (j + 1) i
    · rw [getD_lowered_same]
      exact h j rfl (hr j hj)
    · rw [getD_lowered_ne v hji]
      exact hr j hj

/-- The counters below it fall after it. -/
theorem lowered_on {i : Nat} {v w : Vector Nat 5} (h : Lowered i (v.setIfInBounds i (v.getD i 0 - 1)) w) :
    Lowered (i + 1) v w := by
  refine ⟨fun j hj => (h.above j (Nat.le_of_succ_le hj)).trans (getD_lowered_ne v (Nat.ne_of_gt hj)), fun j hj => ?_, fun j hj => ?_,
    fun hr j hj => ?_⟩
  · obtain rfl := Nat.succ.inj hj
    exact (h.above j le_rfl).trans (getD_lowered_same v j)
  · rcases Nat.lt_succ_iff_lt_or_eq.mp hj with hlt | rfl
    · have hbelow := h.below j hlt
      rwa [getD_lowered_ne v hlt.ne] at hbelow
    · exact .inr ((h.above j le_rfl).trans (getD_lowered_same v j))
  · have hlt := Nat.lt_of_succ_lt_succ hj
    obtain rfl | hji := eq_or_ne (j + 1) i
    · rw [h.last j rfl, h.above (j + 1) le_rfl, getD_lowered_same, getD_lowered_ne v hlt.ne]
      exact Nat.sub_le_sub_right (hr j hj) 1
    · refine h.rising (fun k hk => ?_) j (Nat.lt_of_le_of_ne hlt hji)
      rw [getD_lowered_ne v (Nat.lt_of_succ_lt hk).ne, getD_lowered_ne v hk.ne]
      exact hr k (hk.trans i.lt_succ_self)

/-- A write is performed at a scope and the narrower ones that count it; only free values are used up. -/
theorem lowerInner_run (n : Nat) : ∀ (v : Vector Nat 5) (s : State), ∃ w f, lowerInner n v s = .ok w { s with fresh := f } ∧
    Lowered n v w := by
  induction n with
  | zero => exact fun v s => ⟨v, s.fresh, rfl, fun _ _ => rfl, nofun, nofun, nofun⟩
  | succ i ih =>
    intro v s
    set w := v.setIfInBounds i (v.getD i 0 - 1) with hw
    have hunfold : lowerInner (i + 1) v = if i = 0 || w.getD (i - 1) 0 = 0 then return w else do
        let also ← if w.getD i 0 < w.getD (i - 1) 0 then pure true else freeBit
        if also then lowerInner i w else return w := rfl
    rw [hunfold]
    by_cases hstop : i = 0 ∨ w.getD (i - 1) 0 = 0
    · refine ⟨w, s.fresh, by rw [if_pos (by simpa using hstop)]; rfl, lowered_alone fun j hj _ => ?_⟩
      obtain rfl := hj
      have hz : v.getD j 0 = 0 := (getD_lowered_ne v j.lt_succ_self.ne).symm.trans (hstop.resolve_left j.succ_ne_zero)
      exact hz.le.trans (Nat.zero_le _)
    have hi : i ≠ 0 := fun h => hstop (.inl h)
    rw [if_neg (by simpa using hstop)]
    by_cases hlt : w.getD i 0 < w.getD (i - 1) 0
    · obtain ⟨x, f, hx, hl⟩ := ih w s
      refine ⟨x, f, ?_, lowered_on hl⟩
      rw [if_pos hlt]
      exact (bind_ok (pure_run true s)).trans hx
    · rw [if_neg hlt]
      have hfree : freeBit s = .ok (Config.free s.fresh % 2 == 1) { s with fresh := s.fresh + 1 } := rfl
      by_cases ha : (Config.free s.fresh % 2 == 1) = true
      · obtain ⟨x, f, hx, hl⟩ := ih w { s with fresh := s.fresh + 1 }
        exact ⟨x, f, (bind_ok hfree).trans ((congrFun (if_pos ha) _).trans hx), lowered_on hl⟩
      · refine ⟨w, s.fresh + 1, (bind_ok hfree).trans (congrFun (if_neg ha) _), lowered_alone fun j hj _ => ?_⟩
        obtain rfl := hj
        exact (getD_lowered_ne v j.lt_succ_self.ne).ge.trans ((Nat.le_of_not_lt hlt).trans (getD_lowered_same v (j + 1)).le)

/-- Where a write is performed at device scope or wider the wider counters lose it (R304). -/
theorem getD_lowerOuter (i : Nat) (v : Vector Nat 5) (j : Nat) :
    (lowerOuter i 1 v).getD j 0 = v.getD j 0 - if 2 ≤ i ∧ i < j then 1 else 0 := by
  by_cases hj : j < 5
  · simp only [lowerOuter, Vector.getD, Array.getD, Vector.size_toArray, hj]
    simp
    split <;> rfl
  · simp [Vector.getD, hj]

/-- Noted strongly ordered writes that are still out are counted by no counter that has reached zero (R307). -/
theorem stillOut_run {old new : Vector Nat 5} (hne : old ≠ new) : ∀ (l : List (Bool × List Bool)) (s : State), ∃ out f,
    stillOut old new l s = .ok out { s with fresh := f } ∧
      ∀ x ∈ out, x ∈ l ∧ ∀ i, i < 5 → x.2.getD i false = true → new.getD i 0 ≠ 0 := by
  intro l
  induction l with
  | nil => exact fun s => ⟨[], s.fresh, rfl, nofun⟩
  | cons x l ih =>
    intro s
    obtain ⟨rest, f, hr, hout⟩ := ih s
    have hrest : ∀ y ∈ rest, y ∈ x :: l ∧ ∀ i, i < 5 → y.2.getD i false = true → new.getD i 0 ≠ 0 :=
      fun y hy => ⟨List.mem_cons_of_mem _ (hout y hy).1, (hout y hy).2⟩
    rw [stillOut, bind_ok hr, if_neg hne]
    by_cases hz : ((List.range 5).any fun i => x.2.getD i false && new.getD i 0 == 0) = true
    · exact ⟨rest, f, by rw [if_pos hz]; rfl, hrest⟩
    · have hfree : freeBit { s with fresh := f } = .ok (Config.free f % 2 == 1) { s with fresh := f + 1 } := rfl
      rw [if_neg hz, bind_ok hfree]
      by_cases hg : (Config.free f % 2 == 1) = true
      · exact ⟨rest, f + 1, by rw [if_pos hg]; rfl, hrest⟩
      · refine ⟨x :: rest, f + 1, by rw [if_neg hg]; rfl, ?_⟩
        simp only [List.forall_mem_cons]
        refine ⟨⟨List.mem_cons_self, fun i hi hc h0 => hz ?_⟩, hrest⟩
        exact List.any_eq_true.mpr ⟨i, List.mem_range.mpr hi, by rw [hc, h0]; rfl⟩

/-! ### ACCESS_PERFORMED (R304) -/

section
variable {k b : Nat} {bl : Block} (hk : s.strands[k]? = some st) (he : st.exited = false) (hb : st.blocks[b]? = some bl)
include hk he hb

omit hb in
/-- An event that concerns one strand finds it. -/
theorem onStrand_run (f : State → Strand → M Unit) : onStrand k f s = f s st s := by
  rw [onStrand, bind_ok (get_run s), hk]
  simp only [he, Bool.false_eq_true, if_false]

theorem accessPerformed_load : exec (.accessPerformed k b 0) s = .next s := by
  refine runEvent_ok ?_
  rw [onStrand_run hk he, hb]
  rfl

/-- A reply at a scope takes its write out of the counters. -/
theorem accessPerformed_write {scope : Nat} (hz : bl.outst.getD scope 0 ≠ 0) :
    ∃ (v : Vector Nat 5) (fresh : Nat) (out : List (Bool × List Bool)),
      exec (.accessPerformed k b (scope + 1)) s = .next { s with
        fresh := fresh
        strands := s.strands.set k { st with blocks := st.blocks.set b { bl with
          outst := v, fifo := if scope = 4 then bl.fifo.drop 1 else bl.fifo, strongOut := out } } } ∧
      (∀ x ∈ out, x ∈ bl.strongOut ∧ ∀ i, i < 5 → x.2.getD i false = true → v.getD i 0 ≠ 0) ∧
      Lowered (scope + 1) (lowerOuter scope 1 bl.outst) v := by
  obtain ⟨v, f, hv, hl⟩ := lowerInner_run (scope + 1) (lowerOuter scope 1 bl.outst) s
  have hne : bl.outst ≠ v := by
    have h := hl.last scope rfl
    rw [getD_lowerOuter, if_neg fun hlt => hlt.2.false, Nat.sub_zero] at h
    rintro rfl
    exact (Nat.sub_lt (Nat.pos_of_ne_zero hz) Nat.one_pos).ne h.symm
  obtain ⟨out, f', ho, hout⟩ := stillOut_run hne bl.strongOut { s with fresh := f }
  refine ⟨v, f', out, runEvent_ok ?_, hout, hl⟩
  have hlow : lowerCounters (scope + 1) bl.outst s = .ok v { s with fresh := f } := by
    rw [lowerCounters, if_neg (by simpa using hz)]
    exact hv
  rw [onStrand_run hk he, hb]
  dsimp only
  rw [if_neg (Nat.succ_ne_zero scope), if_neg (by simpa using hz), bind_ok hlow, bind_ok ho]
  simp only [Nat.reduceEqDiff]
  rfl

end

/-- Settles O42: each fence by its body, and a reply by what the counters lose. -/
theorem fenceResults : Obligations.FenceResults := by
  unfold Obligations.FenceResults
  refine ⟨?fences, ?replies⟩
  case fences =>
    intro s st hs c done rel held
    refine ⟨execFenceAcq_run hs c, runSeq_replaced hs hs (settleStream_settled hs false),
      runSeq_replaced hs hs (settleStream_settled hs true), execFenceSlk_run hs c, releasing_waits (c := c) hs,
      fun hc => ⟨execFenceRel_run hs hc c, releasingFences_run hs c hc⟩⟩
  case replies =>
    intro s k b scope st bl hk he hb
    refine ⟨accessPerformed_load hk he hb, fun _ hz => ?_⟩
    obtain ⟨v, f, out, hrun, hout, hl⟩ := accessPerformed_write hk he hb hz
    have hv := getD_lowerOuter scope bl.outst
    have hin : ∀ i, i ≤ scope → (lowerOuter scope 1 bl.outst).getD i 0 = bl.outst.getD i 0 := fun i hi => by
      rw [hv, if_neg fun hlt => Nat.not_lt.mpr hi hlt.2, Nat.sub_zero]
    refine ⟨v, f, out, hrun, hout, ?_, fun i hi => ?_, fun i hi => ?_, fun hr i hi => ?_⟩
    · rw [hl.last scope rfl, hin scope le_rfl]
    · rw [hl.above i hi, hv]
      simp [hi]
    · rw [← hin i hi.le]
      exact hl.below i (Nat.lt_succ_of_lt hi)
    · refine hl.rising (fun j hj => ?_) i (Nat.succ_lt_succ hi)
      have hlt := Nat.lt_of_succ_lt_succ hj
      rw [hin j hlt.le, hin (j + 1) hlt]
      exact hr j hlt

end Sys2Proof.Laws

/-! # Elements of vector registers (R106, R111) -/

namespace Sys2Proof.Laws

open Sys2Proof.Machine Sys2Proof.Safety Sys2Proof.Config

/-! ### Fields of bit strings -/

section
variable {k : Nat} {x y : BitVec k} {pos n v : Nat}

theorem testBit_getField (x : BitVec k) (pos n i : Nat) :
    (getField x pos n).testBit i = (decide (i < n) && x.getLsbD (pos + i)) := by
  rw [getField, Nat.testBit_mod_two_pow, Nat.testBit_shiftRight]
  rfl

/-- A field rests on its own bits. -/
theorem getField_congr (h : ∀ i, i < n → y.getLsbD (pos + i) = x.getLsbD (pos + i)) : getField y pos n = getField x pos n := by
  refine Nat.eq_of_testBit_eq fun i => ?_
  rw [testBit_getField, testBit_getField]
  by_cases hi : i < n
  · rw [h i hi]
  · simp [hi]

/-- The bits after a field was written. -/
theorem getLsbD_setField {i : Nat} (hi : i < k) (x : BitVec k) (pos n v : Nat) :
    (setField x pos n v).getLsbD i = if pos ≤ i ∧ i < pos + n then v.testBit (i - pos) else x.getLsbD i := by
  rw [setField, BitVec.getLsbD_xor, BitVec.getLsbD_ofNat, Nat.testBit_shiftLeft, Nat.testBit_xor, testBit_getField,
    Nat.testBit_mod_two_pow]
  by_cases hp : pos ≤ i
  · have hadd : pos + (i - pos) = i := Nat.add_sub_cancel' hp
    have hlt : i - pos < n ↔ i < pos + n := Nat.sub_lt_iff_lt_add' hp
    by_cases hn : i < pos + n
    · simp [hi, hp, hn, hlt, hadd]
    · simp [hi, hp, hn, hlt]
  · simp [hp]

/-- A field that lies in the bit string reads what was written to it. -/
theorem getField_setField (h : pos + n ≤ k) (x : BitVec k) (v : Nat) : getField (setField x pos n v) pos n = v % 2 ^ n := by
  refine Nat.eq_of_testBit_eq fun i => ?_
  rw [testBit_getField, Nat.testBit_mod_two_pow]
  by_cases hi : i < n
  · have hin := Nat.add_lt_add_left hi pos
    rw [getLsbD_setField (hin.trans_le h), if_pos ⟨Nat.le_add_right _ _, hin⟩, Nat.add_sub_cancel_left]
  · simp [hi]

/-- Two bit strings agree but for the bits from `lo` up to `hi`. -/
def SameOutside (lo hi : Nat) (x y : BitVec k) : Prop := ∀ i, i < lo ∨ hi ≤ i → y.getLsbD i = x.getLsbD i

theorem SameOutside.refl (lo hi : Nat) (x : BitVec k) : SameOutside lo hi x x := fun _ _ => rfl

theorem SameOutside.trans {lo hi : Nat} {z : BitVec k} (h : SameOutside lo hi x y) (h' : SameOutside lo hi y z) :
    SameOutside lo hi x z := fun i hi => (h' i hi).trans (h i hi)

theorem SameOutside.mono {lo hi lo' hi' : Nat} (h : SameOutside lo hi x y) (hl : lo' ≤ lo) (hh : hi ≤ hi') :
    SameOutside lo' hi' x y := fun i h' => h i (h'.imp (Nat.lt_of_lt_of_le · hl) hh.trans)

/-- A field apart from the bits that differ. -/
theorem SameOutside.getField {lo hi : Nat} (h : SameOutside lo hi x y) (hp : pos + n ≤ lo ∨ hi ≤ pos) :
    getField y pos n = getField x pos n := getField_congr fun _ h' =>
    h _ (hp.imp (Nat.add_lt_add_left h' pos).trans_le fun hle => hle.trans (Nat.le_add_right _ _))

theorem sameOutside_setField (x : BitVec k) (pos n v : Nat) : SameOutside pos (pos + n) x (setField x pos n v) := by
  intro i hi
  by_cases hk : i < k
  · rw [getLsbD_setField hk, if_neg fun hin => hi.elim (Nat.not_lt.mpr hin.1) (Nat.not_le.mpr hin.2)]
  · rw [BitVec.getLsbD_of_ge _ _ (Nat.le_of_not_lt hk), BitVec.getLsbD_of_ge _ _ (Nat.le_of_not_lt hk)]

end

/-! ### A run of elements of one group (R111) -/

/-- The first bit of element `j` of width `w` of the group at register `d`. -/
abbrev elemBit (w d j : Nat) : Nat := d * vregBits + j * w

theorem elemBit_mono (w d : Nat) {i j : Nat} (h : i ≤ j) : elemBit w d i ≤ elemBit w d j :=
  Nat.add_le_add_left (Nat.mul_le_mul_right w h) _

/-- Reading an element apart from a run of elements that changed. -/
theorem elemRead_outside {w d lo hi j : Nat} {bl bl' : Block} (h : SameOutside (elemBit w d lo) (elemBit w d hi) bl.v bl'.v)
    (hj : j < lo ∨ hi ≤ j) : elemRead bl' w d j = elemRead bl w d j := by
  refine h.getField ?_
  rcases hj with hj | hj
  · left
    have h1 := elemBit_mono w d hj
    rwa [elemBit, Nat.succ_mul, ← Nat.add_assoc] at h1
  · exact .inr (elemBit_mono w d hj)

/-- A cell differs from another in the elements of one group from `lo` up to `hi`, which hold what `want` says. -/
structure Ran (w d lo hi : Nat) (want : Nat → Nat) (c c' : Cell) : Prop where
  mst : c'.mst = c.mst
  frame : c'.bl = { c.bl with v := c'.bl.v }
  outside : SameOutside (elemBit w d lo) (elemBit w d hi) c.bl.v c'.bl.v
  elems : ∀ j, lo ≤ j → j < hi → elemRead c'.bl w d j = want j

/-- Writing one element that lies in its registers. -/
theorem ran_cellWrite {w d j v : Nat} (hb : elemBit w d j + w ≤ 32 * vregBits) (hv : v < 2 ^ w) (c : Cell) :
    Ran w d j (j + 1) (fun _ => v) c (cellWrite w d j v c) := by
  refine ⟨rfl, rfl, ?_, fun i hi hi' => ?_⟩
  · refine (sameOutside_setField c.bl.v _ w v).mono le_rfl ?_
    rw [elemBit, Nat.succ_mul, Nat.add_assoc]
  · obtain rfl : i = j := Nat.le_antisymm (Nat.le_of_lt_succ hi') hi
    exact (getField_setField hb c.bl.v v).trans (Nat.mod_eq_of_lt hv)

/-- An action on elements writes the value `val` gives to the group at `d` and raises no flag; the value of an element rests on
no earlier element of that group. -/
structure Writes (act : ElemAct) (r : Regs) (d : BitVec 5) (val : Block → Nat → Nat) : Prop where
  run : ∀ b j c, act b r j c = cellWrite (vtWidth r.vt) d.toNat j (val c.bl j) c
  lt : ∀ bl j, val bl j < 2 ^ vtWidth r.vt
  later : ∀ j (bl bl' : Block), j < vlbOf r.vt → bl' = { bl with v := bl'.v } →
    SameOutside (elemBit (vtWidth r.vt) d.toNat 0) (elemBit (vtWidth r.vt) d.toNat j) bl.v bl'.v → val bl' j = val bl j

/-- Elements of the group at `d` of a legal vector type lie in the registers (R35, R37). -/
structure InRegs (r : Regs) (d : BitVec 5) : Prop where
  legal : vtLegal r.vt.toNat = true
  group : d.toNat % vtG r.vt = 0

section
variable {r : Regs} {d : BitVec 5} {act : ElemAct} {val : Block → Nat → Nat} {m b : Nat}

theorem vlb_le (hl : vtLegal r.vt.toNat = true) : vlbOf r.vt ≤ 8192 := by
  simp only [vtLegal, Bool.and_eq_true, decide_eq_true_eq, BitVec.ofNat_toNat, BitVec.setWidth_eq] at hl
  exact hl.2

/-- The registers of two groups are the same or apart. -/
theorem groups_apart {g a d : Nat} (ha : a % g = 0) (hd : d % g = 0) : a = d ∨ a + g ≤ d ∨ d + g ≤ a := by
  obtain ⟨i, rfl⟩ := Nat.dvd_of_mod_eq_zero ha
  obtain ⟨j, rfl⟩ := Nat.dvd_of_mod_eq_zero hd
  rcases Nat.lt_trichotomy i j with h | rfl | h
  · exact .inr (.inl (by rw [← Nat.mul_succ]; exact Nat.mul_le_mul_left g h))
  · exact .inl rfl
  · exact .inr (.inr (by rw [← Nat.mul_succ]; exact Nat.mul_le_mul_left g h))

/-- The groups of a legal type end with the registers. -/
theorem InRegs.top (h : InRegs r d) : d.toNat + vtG r.vt ≤ 32 := by
  obtain ⟨hl, hg⟩ := h
  simp only [vtLegal, Bool.and_eq_true, decide_eq_true_eq] at hl
  obtain ⟨⟨-, hk⟩, -⟩ := hl
  have hdvd : 32 % vtG r.vt = 0 := by
    unfold vtG
    generalize r.vt.toNat / 16 % 8 = k at hk
    interval_cases k <;> rfl
  rcases groups_apart hg hdvd with h | h | h
  · exact absurd h d.isLt.ne
  · exact h
  · exact absurd ((Nat.le_add_right 32 _).trans h) (Nat.not_le.mpr d.isLt)

/-- The elements of a group lie in its registers. -/
theorem elemBit_le (vt : BitVec 13) {d j : Nat} (hj : j ≤ vlbOf vt) :
    elemBit (vtWidth vt) d j ≤ (d + vtG vt) * vregBits := by
  have h1 : j * vtWidth vt ≤ vlbOf vt * vtWidth vt := Nat.mul_le_mul_right _ hj
  have h2 : vlbOf vt * vtWidth vt ≤ vregBits * vtG vt := Nat.div_mul_le_self _ _
  rw [elemBit, Nat.add_mul, Nat.mul_comm (vtG vt)]
  exact Nat.add_le_add_left (h1.trans h2) _

theorem InRegs.elemBit_le (h : InRegs r d) {j : Nat} (hj : j < vlbOf r.vt) :
    elemBit (vtWidth r.vt) d.toNat j + vtWidth r.vt ≤ 32 * vregBits := by
  have h1 := Laws.elemBit_le r.vt (d := d.toNat) hj
  rw [elemBit, Nat.succ_mul, ← Nat.add_assoc] at h1
  exact h1.trans (Nat.mul_le_mul_right vregBits h.top)

/-- What R111 wants of element `j` of position `b`. -/
def wanted (r : Regs) (m b : Nat) (d : BitVec 5) (val : Block → Nat → Nat) (bl : Block) (j : Nat) : Nat :=
  outcome r m b j bl (val bl j) 0 (elemRead bl (vtWidth r.vt) d.toNat j)

/-- A block whose elements of one group before element `j` have changed wants the same of element `j`. -/
theorem Writes.wanted_later (ha : Writes act r d val) {j : Nat} (hj : j < vlbOf r.vt) {bl bl' : Block}
    (hf : bl' = { bl with v := bl'.v })
    (ho : SameOutside (elemBit (vtWidth r.vt) d.toNat 0) (elemBit (vtWidth r.vt) d.toNat j) bl.v bl'.v) :
    wanted r m b d val bl' j = wanted r m b d val bl j := by
  have he : elemRead bl' (vtWidth r.vt) d.toNat j = elemRead bl (vtWidth r.vt) d.toNat j := ho.getField (.inr le_rfl)
  have hm : maskOn bl' m j = maskOn bl m j := by
    rw [hf]
    rfl
  unfold wanted outcome
  rw [ha.later j bl bl' hj hf ho, he, hm]

/-- One element by R111, at a VL that is not zero. -/
theorem ran_elemStep (hv : r.vl ≠ 0) (hd : InRegs r d) (ha : Writes act r d val) {j : Nat} (hj : j < vlbOf r.vt) (c : Cell) :
    Ran (vtWidth r.vt) d.toNat j (j + 1) (wanted r m b d val c.bl) c (elemStep r m b (act b r) (zeroElem d b r) j c) := by
  have hb := hd.elemBit_le hj
  have hold : wanted r m b d val c.bl j = elemRead c.bl (vtWidth r.vt) d.toNat j →
      Ran (vtWidth r.vt) d.toNat j (j + 1) (wanted r m b d val c.bl) c c := fun h =>
    ⟨rfl, rfl, SameOutside.refl _ _ _, fun i h1 h2 => (Nat.le_antisymm h1 (Nat.le_of_lt_succ h2)) ▸ h.symm⟩
  have hput : ∀ v, v < 2 ^ vtWidth r.vt → wanted r m b d val c.bl j = v →
      Ran (vtWidth r.vt) d.toNat j (j + 1) (wanted r m b d val c.bl) c (cellWrite (vtWidth r.vt) d.toNat j v c) := by
    intro v hlt h
    obtain ⟨h1, h2, h3, h4⟩ := ran_cellWrite hb hlt c
    refine ⟨h1, h2, h3, fun i hi hi' => ?_⟩
    obtain rfl : i = j := Nat.le_antisymm (Nat.le_of_lt_succ hi') hi
    rw [h, h4 i hi hi']
  have hzero := hput 0 (Nat.two_pow_pos _)
  have hval := hput (val c.bl j) (ha.lt _ _)
  unfold elemStep
  simp only [wanted, outcome, if_neg hv] at hold hzero hval
  rw [ha.run]
  by_cases hin : b * vlbOf r.vt + j < r.vl
  · rw [if_pos hin]
    simp only [if_pos hin] at hold hzero hval
    by_cases hm : maskOn c.bl m j = true
    · rw [if_pos hm]
      simp only [if_pos hm, forall_const] at hval
      exact hval
    · rw [if_neg hm]
      simp only [if_neg hm] at hold hzero
      by_cases hz : vtMz r.vt = true
      · rw [if_pos hz]
        exact hzero (if_pos hz)
      · rw [if_neg hz]
        exact hold (if_neg hz)
  · rw [if_neg hin]
    simp only [if_neg hin] at hold hzero
    by_cases hz : vtTz r.vt = true
    · rw [if_pos hz]
      exact hzero (if_pos hz)
    · rw [if_neg hz]
      exact hold (if_neg hz)

/-- Elements in turn. -/
theorem ran_loop (hv : r.vl ≠ 0) (hd : InRegs r d) (ha : Writes act r d val) : ∀ (n j : Nat) (c : Cell), j + n ≤ vlbOf r.vt →
    Ran (vtWidth r.vt) d.toNat j (j + n) (wanted r m b d val c.bl) c
      (loopFrom (elemStep r m b (act b r) (zeroElem d b r)) j n c) := by
  intro n
  induction n with
  | zero => exact fun j c _ => ⟨rfl, rfl, SameOutside.refl _ _ _, fun i h1 h2 => absurd h1 (Nat.not_le.mpr h2)⟩
  | succ n ih =>
    intro j c hn
    have hend : j + 1 + n = j + (n + 1) := Nat.add_right_comm j 1 n
    have h1 := ran_elemStep (m := m) (b := b) hv hd ha ((Nat.lt_add_of_pos_right n.succ_pos).trans_le hn) c
    set c1 := elemStep r m b (act b r) (zeroElem d b r) j c
    set c2 := loopFrom (elemStep r m b (act b r) (zeroElem d b r)) j (n + 1) c
    have h2 : Ran _ _ _ _ _ c1 c2 := ih (j + 1) c1 (hend.trans_le hn)
    have hle := fun {p q : Nat} => elemBit_mono (vtWidth r.vt) d.toNat (i := p) (j := q)
    rw [hend] at h2
    refine ⟨h2.mst.trans h1.mst, h2.frame.trans (congrArg (fun bl : Block => { bl with v := c2.bl.v }) h1.frame),
      (h1.outside.mono le_rfl (hle (Nat.add_le_add_left n.succ_pos j))).trans (h2.outside.mono (hle j.le_succ) le_rfl),
      fun i hi hi' => ?_⟩
    by_cases hij : i = j
    · subst hij
      rw [elemRead_outside h2.outside (.inl i.lt_succ_self), h1.elems i le_rfl i.lt_succ_self]
    · have hnext : j + 1 ≤ i := Nat.lt_of_le_of_ne hi (Ne.symm hij)
      rw [h2.elems i hnext hi',
        ha.wanted_later (hi'.trans_le hn) h1.frame (h1.outside.mono (hle j.zero_le) (hle hnext))]

/-- Past the end of the elements that R111 gives an outcome nothing is wanted. -/
theorem wanted_beyond {bl : Block} {j : Nat} (hj : j < vlbOf r.vt) (he : elemEnd r b ≤ j) :
    wanted r m b d val bl j = elemRead bl (vtWidth r.vt) d.toNat j := by
  unfold elemEnd at he
  unfold wanted outcome
  by_cases hz : vtTz r.vt = true
  · rw [if_pos hz] at he
    exact absurd hj (Nat.not_lt.mpr he)
  · rw [if_neg hz] at he ⊢
    have hout : r.vl - b * vlbOf r.vt ≤ j := (min_le_iff.mp he).resolve_right (Nat.not_le.mpr hj)
    rw [if_neg (Nat.not_lt.mpr (Nat.sub_le_iff_le_add'.mp hout))]
    split <;> rfl

theorem elemEnd_le (r : Regs) (b : Nat) : elemEnd r b ≤ vlbOf r.vt := by
  unfold elemEnd belowVl
  split
  · exact le_rfl
  · exact Nat.min_le_right _ _

/-- What an elementwise instruction leaves of a block, whose elements from `lo` up to `hi` it has performed (R111). -/
structure Performed (r : Regs) (m b : Nat) (d : BitVec 5) (val : Block → Nat → Nat) (lo hi : Nat) (bl bl' : Block) : Prop where
  frame : bl' = { bl with v := bl'.v }
  outside : SameOutside (elemBit (vtWidth r.vt) d.toNat (min lo (vlbOf r.vt)))
    (elemBit (vtWidth r.vt) d.toNat (min hi (vlbOf r.vt))) bl.v bl'.v
  elems : ∀ j, j < vlbOf r.vt → lo ≤ j → j < hi → elemRead bl' (vtWidth r.vt) d.toNat j = wanted r m b d val bl j

section
variable {lo mid hi : Nat} {bl bl1 bl' : Block}

/-- Every element of the group after it. -/
theorem Performed.elem (h : Performed r m b d val lo hi bl bl') {j : Nat} (hj : j < vlbOf r.vt) :
    elemRead bl' (vtWidth r.vt) d.toNat j =
      if lo ≤ j ∧ j < hi then wanted r m b d val bl j else elemRead bl (vtWidth r.vt) d.toNat j := by
  split
  · next hin => exact h.elems j hj hin.1 hin.2
  · next hout =>
    refine elemRead_outside h.outside ((not_and_or.mp hout).imp (fun hl => ?_) fun hh => ?_)
    · exact lt_min (Nat.lt_of_not_le hl) hj
    · exact (Nat.min_le_left _ _).trans (Nat.le_of_not_lt hh)

/-- The registers of other groups after it. -/
theorem Performed.others (h : Performed r m b d val lo hi bl bl') {q : Nat} (hq : q < d.toNat ∨ d.toNat + vtG r.vt ≤ q) :
    getField bl'.v (q * vregBits) vregBits = getField bl.v (q * vregBits) vregBits := by
  refine h.outside.getField ?_
  rcases hq with hq | hq
  · left
    have := Nat.mul_le_mul_right vregBits hq
    rw [Nat.succ_mul] at this
    exact this.trans (Nat.le_add_right _ _)
  · exact .inr ((elemBit_le r.vt (Nat.min_le_right _ _)).trans (Nat.mul_le_mul_right vregBits hq))

/-- Where R111 wants nothing of the elements, nothing is to be done. -/
theorem Performed.self (h : ∀ j, j < vlbOf r.vt → lo ≤ j → j < hi → wanted r m b d val bl j = elemRead bl (vtWidth r.vt) d.toNat j) :
    Performed r m b d val lo hi bl bl := ⟨rfl, SameOutside.refl _ _ _, fun j hj h1 h2 => (h j hj h1 h2).symm⟩

/-- One run of elements after another. -/
theorem Performed.trans (ha : Writes act r d val) (h1 : Performed r m b d val lo mid bl bl1)
    (h2 : Performed r m b d val mid hi bl1 bl') (hlo : lo ≤ mid) (hhi : min mid (vlbOf r.vt) ≤ hi) :
    Performed r m b d val lo hi bl bl' := by
  have hle := fun {i j : Nat} => elemBit_mono (vtWidth r.vt) d.toNat (i := i) (j := j)
  have hfirst : min lo (vlbOf r.vt) ≤ min mid (vlbOf r.vt) :=
    le_min ((Nat.min_le_left _ _).trans hlo) (Nat.min_le_right _ _)
  have hlast : min mid (vlbOf r.vt) ≤ min hi (vlbOf r.vt) := le_min hhi (Nat.min_le_right _ _)
  refine ⟨h2.frame.trans (congrArg (fun x : Block => { x with v := bl'.v }) h1.frame),
    (h1.outside.mono le_rfl (hle hlast)).trans (h2.outside.mono (hle hfirst) le_rfl), fun j hj hl hh => ?_⟩
  by_cases hm : j < mid
  · rw [elemRead_outside h2.outside (.inl (lt_min hm hj)), h1.elems j hj hl hm]
  · have hmid : min mid (vlbOf r.vt) ≤ j := (Nat.min_le_left _ _).trans (Nat.le_of_not_lt hm)
    rw [h2.elems j hj (Nat.le_of_not_lt hm) hh,
      ha.wanted_later hj h1.frame (h1.outside.mono (hle (Nat.zero_le _)) (hle hmid))]

end

/-- A loop over the elements up to the end that R111 gives. -/
theorem performed_loop (hv : r.vl ≠ 0) (hd : InRegs r d) (ha : Writes act r d val) (lo hi : Nat) (c : Cell) :
    (loopFrom (elemStep r m b (act b r) (zeroElem d b r)) lo (min hi (elemEnd r b) - lo) c).mst = c.mst ∧
      Performed r m b d val lo hi c.bl
        (loopFrom (elemStep r m b (act b r) (zeroElem d b r)) lo (min hi (elemEnd r b) - lo) c).bl := by
  have hend : min hi (elemEnd r b) ≤ vlbOf r.vt := (Nat.min_le_right _ _).trans (elemEnd_le r b)
  by_cases hlo : lo ≤ min hi (elemEnd r b)
  · have h := ran_loop (m := m) (b := b) hv hd ha (min hi (elemEnd r b) - lo) lo c ((Nat.add_sub_cancel' hlo).trans_le hend)
    rw [Nat.add_sub_cancel' hlo] at h
    refine ⟨h.mst, h.frame, h.outside.mono (elemBit_mono _ _ (Nat.min_le_left _ _))
      (elemBit_mono _ _ (le_min (Nat.min_le_left _ _) hend)), fun j hj h1 h2 => ?_⟩
    by_cases hin : j < elemEnd r b
    · exact h.elems j h1 (lt_min h2 hin)
    · rw [elemRead_outside h.outside (.inr ((Nat.min_le_right _ _).trans (Nat.le_of_not_lt hin))),
        wanted_beyond hj (Nat.le_of_not_lt hin)]
  · have hover := Nat.le_of_not_le hlo
    rw [Nat.sub_eq_zero_of_le hover]
    exact ⟨rfl, Performed.self fun j hj h1 h2 =>
      wanted_beyond hj ((min_le_iff.mp (hover.trans h1)).resolve_left (Nat.not_le.mpr h2))⟩

/-! ### Spans of an elementwise member -/

/-- An action on every position that keeps MST acts on each block by itself. -/
theorem overBlocks_silent {f : Nat → Cell → Cell} {x : Word} (hf : ∀ b bl, (f b ⟨bl, x⟩).mst = x) (l : List Block) : ∀ b,
    (overBlocks f b x l).2 = x ∧ (overBlocks f b x l).1.length = l.length ∧
      ∀ i, (overBlocks f b x l).1[i]? = l[i]?.map fun bl => (f (b + i) ⟨bl, x⟩).bl := by
  induction l with
  | nil => exact fun _ => ⟨rfl, rfl, fun _ => rfl⟩
  | cons bl t ih =>
    intro b
    obtain ⟨h1, h2, h3⟩ := ih (b + 1)
    simp only [overBlocks, hf]
    refine ⟨h1, congrArg (· + 1) h2, fun i => ?_⟩
    cases i with
    | zero => rfl
    | succ i =>
      rw [List.getElem?_cons_succ, List.getElem?_cons_succ, h3 i, Nat.add_right_comm, Nat.add_assoc]

/-- The elements from `lo` up to `hi` of every block are performed, and no flag is raised. -/
structure AllPerformed (r : Regs) (m : Nat) (d : BitVec 5) (val : Block → Nat → Nat) (lo hi : Nat) (c c' : Cells) : Prop where
  mst : c'.2 = c.2
  length : c'.1.length = c.1.length
  blocks : ∀ b bl, c.1[b]? = some bl → ∃ bl', c'.1[b]? = some bl' ∧ Performed r m b d val lo hi bl bl'

theorem AllPerformed.trans (ha : Writes act r d val) {lo mid hi : Nat} {c c1 c' : Cells}
    (h1 : AllPerformed r m d val lo mid c c1) (h2 : AllPerformed r m d val mid hi c1 c') (hlo : lo ≤ mid)
    (hhi : min mid (vlbOf r.vt) ≤ hi) : AllPerformed r m d val lo hi c c' := by
  refine ⟨h2.mst.trans h1.mst, h2.length.trans h1.length, fun b bl hb => ?_⟩
  obtain ⟨bl1, hb1, hp1⟩ := h1.blocks b bl hb
  obtain ⟨bl', hb', hp2⟩ := h2.blocks b bl1 hb1
  exact ⟨bl', hb', hp1.trans ha hp2 hlo hhi⟩

/-- A span of a member of every position. -/
theorem allPerformed_span (hd : InRegs r d) (ha : Writes act r d val) {sp : Span} (ho : sp.only = none) (c : Cells) :
    AllPerformed r m d val sp.lo sp.hi c (spanCells m act d r sp c) := by
  unfold spanCells
  by_cases hv : r.vl = 0
  · rw [if_pos hv]
    exact ⟨rfl, rfl, fun b bl hb => ⟨bl, hb, Performed.self fun j _ _ _ => if_pos hv⟩⟩
  · rw [if_neg hv]
    simp only [ho, Option.any_none, Bool.false_eq_true, if_false]
    obtain ⟨h1, h2, h3⟩ := overBlocks_silent (f := spanAt m act d r sp) (x := c.2)
      (fun b bl => (performed_loop (m := m) (b := b) hv hd ha sp.lo sp.hi ⟨bl, c.2⟩).1) c.1 0
    refine ⟨h1, h2, fun b bl hb => ⟨_, by rw [h3 b, hb, Nat.zero_add]; rfl, ?_⟩⟩
    exact (performed_loop (m := m) (b := b) hv hd ha sp.lo sp.hi ⟨bl, c.2⟩).2

theorem groupStart_mono (w : Nat) {i j : Nat} (h : i ≤ j) : groupStart w i ≤ groupStart w j :=
  Nat.div_le_div_right (Nat.sub_le_sub_right (Nat.add_le_add_right (Nat.mul_le_mul_right _ h) w) 1)

/-- The last element groups of a member, from group `n - k` on. -/
theorem allPerformed_groups (hd : InRegs r d) (ha : Writes act r d val) (w n : Nat) : ∀ (k : Nat) (c : Cells), k + 1 ≤ n →
    AllPerformed r m d val (groupStart w (n - (k + 1))) 65536 c
      (spansCells m act d r ((List.range' (n - (k + 1)) (k + 1)).map (groupSpan w n 0)) c) := by
  have hone := fun e c => allPerformed_span (m := m) hd ha (sp := groupSpan w n 0 e) rfl c
  intro k
  induction k with
  | zero =>
    intro c hn
    have h := hone (n - 1) c
    have hlast : n - 1 + 1 = n := Nat.sub_add_cancel hn
    simp only [groupSpan, hlast, if_true] at h
    simpa [spansCells, groupSpan, hlast] using h
  | succ k ih =>
    intro c hn
    have hnext : n - (k + 1 + 1) + 1 = n - (k + 1) := Nat.sub_add_cancel (Nat.sub_pos_of_lt hn)
    have hne : n - (k + 1) ≠ n := (Nat.sub_lt ((Nat.succ_pos _).trans_le hn) k.succ_pos).ne
    have h := hone (n - (k + 1 + 1)) c
    rw [List.range'_succ, List.map_cons, spansCells, List.foldl_cons, hnext]
    refine AllPerformed.trans ha (mid := groupStart w (n - (k + 1))) ?_
      (ih _ (Nat.le_of_succ_le hn)) (groupStart_mono w (Nat.sub_le_sub_left (Nat.le_succ _) n)) ?_
    · simpa only [groupSpan, hnext, if_neg hne] using h
    · exact (Nat.min_le_right _ _).trans ((vlb_le hd.legal).trans (by decide))

/-- A member alone performs every element of its destination. -/
theorem allPerformed_allSpans (hd : InRegs r d) (ha : Writes act r d val) (c : Cells) :
    AllPerformed r m d val 0 65536 c (spansCells m act d r (allSpans r) c) := by
  have hpos := elemGroups_pos r
  have h := allPerformed_groups (m := m) hd ha (elemWidth r) (elemGroups r) (elemGroups r - 1) c
    (Nat.sub_add_cancel hpos).le
  have hn : elemGroups r - 1 + 1 = elemGroups r := Nat.sub_add_cancel hpos
  have h0 : groupStart (elemWidth r) 0 = 0 := by
    have hw : 0 < elemWidth r := Nat.lt_of_lt_of_le Nat.one_pos (Nat.le_max_left _ _)
    rw [groupStart, Nat.zero_mul, Nat.zero_add]
    exact Nat.div_eq_of_lt (Nat.sub_lt hw Nat.one_pos)
  rw [hn, Nat.sub_self, h0] at h
  have hs : allSpans r = (List.range' 0 (elemGroups r)).map (groupSpan (elemWidth r) (elemGroups r) 0) := by
    simp [allSpans, groupSpans, List.range_eq_range']
  rwa [hs]

/-! ### VADD (R135) -/

/-- The sum that VADD gives an element. -/
def sumAt (r : Regs) (x a : BitVec 5) (bl : Block) (j : Nat) : Nat :=
  (elemRead bl (vtWidth r.vt) a.toNat j + elemRead bl (vtWidth r.vt) x.toNat j) % 2 ^ vtWidth r.vt

/-- An element of a group rests on no earlier element of another. -/
theorem elemRead_later {a : BitVec 5} (ha : a.toNat % vtG r.vt = 0) (hd : d.toNat % vtG r.vt = 0) {j : Nat}
    (hj : j < vlbOf r.vt) {bl bl' : Block}
    (ho : SameOutside (elemBit (vtWidth r.vt) d.toNat 0) (elemBit (vtWidth r.vt) d.toNat j) bl.v bl'.v) :
    elemRead bl' (vtWidth r.vt) a.toNat j = elemRead bl (vtWidth r.vt) a.toNat j := by
  refine ho.getField ?_
  rcases groups_apart ha hd with h | h | h
  · exact .inr (by rw [h])
  · left
    have h1 := elemBit_le r.vt (d := a.toNat) hj
    rw [elemBit, Nat.succ_mul, ← Nat.add_assoc] at h1
    exact (h1.trans (Nat.mul_le_mul_right vregBits h)).trans (Nat.le_add_right _ _)
  · right
    exact ((elemBit_le r.vt hj.le).trans (Nat.mul_le_mul_right vregBits h)).trans (Nat.le_add_right _ _)

theorem writes_vadd {x a : BitVec 5} (hx : x.toNat % vtG r.vt = 0) (ha : a.toNat % vtG r.vt = 0) (hd : d.toNat % vtG r.vt = 0) :
    Writes (intElem viAdd (.v x.toNat) a d) r d (sumAt r x a) := by
  refine ⟨fun b j c => ?_, fun bl j => Nat.mod_lt _ (Nat.two_pow_pos _), fun j bl bl' hj _ ho => ?_⟩
  · have h0 : ∀ y : Word, mstWith y 0 0 = y := fun y => by simp [mstWith]
    simp only [intElem, viAdd, cellFlags, cellWrite, srcValue, Bool.false_eq_true, if_false, h0]
    rfl
  · rw [sumAt, sumAt, elemRead_later ha hd hj ho, elemRead_later hx hd hj ho]

/-- The word and the meaning of VADD (R32, R135). -/
theorem coded_vadd : Coded 0x32 0 Instr.vadd fun m x a d => intMember viAdd m (.v x.toNat) a d :=
  ⟨by decide, fun _ _ _ _ => rfl, fun _ _ _ _ => rfl, fun _ _ _ _ => ⟨_, fun _ => rfl⟩, fun v hm hf => by
    rw [membersOf_vint hm]
    unfold membersVint
    rw [hf]
    rfl⟩

end

end Sys2Proof.Laws

/-! # The events of a strand at issue (O51) -/

namespace Sys2Proof.Laws

open Sys2Proof.Machine Sys2Proof.Safety Sys2Proof.Config

variable {s s1 t : State} {st st1 : Strand}

/-! ### Events of a strand that may issue -/

/-- A step of a strand that may issue is its step with the turn, which then goes back. -/
theorem actIssuing_next {k : Nat} {f : Strand → State → Result} (hk : s.strands[k]? = some st) (hm : mayIssue s st = true)
    (h : f st { s with cur := k } = .next t) : actIssuing k f s = .next { t with cur := s.cur } := by
  simp only [actIssuing, hk, hm, if_true, actAs, h]

/-- A strand that no FSEND holds takes a trap in place of what it holds (R245, R373). -/
theorem interrupt_run (hs : strandOf s = some st) (hf : uninterrupted st = false) (t : Trap) :
    interrupt t s = .next (takeTrap (withdraw s.cur (putStrand s (discardHeld st))) t) := by
  simp only [interrupt, hs, hf, Bool.false_eq_true, if_false]

/-- The SLOG event (R373). -/
theorem takeSlog_run (hs : strandOf s = some st) (hf : uninterrupted st = false) : takeSlog s =
    .next (takeTrap (withdraw s.cur (putStrand s (discardHeld { st with slogPending := false })))
      { cause := 1, xval := BitVec.ofNat 64 (slogCount st), async := true }) := by
  rw [takeSlog, hs]
  refine (interrupt_run (strandOf_putStrand hs { st with slogPending := false }) hf _).trans ?_
  rw [putStrand_putStrand]
  rfl

/-! ### CONVOY_ISSUE (R113, R435) -/

/-- The first bad s register that words read. -/
def badScalar (words : List Nat) (st : Strand) : Option Nat := (words.flatMap readsS).find? fun n => n != 0 && isBad st n

/-- Words that read no bad register consume none. -/
theorem consumeScalars_ok (hs : strandOf s = some st) {words : List Nat} (hb : badScalar words st = none) :
    consumeScalars words s = .ok () s := by
  rw [consumeScalars, bind_ok (getStrand_run hs)]
  unfold badScalar at hb
  split
  · rw [hb]
    rfl
  · rfl

/-- A bad register that they read raises ECCUC. -/
theorem consumeScalars_bad (hs : strandOf s = some st) {words : List Nat} {n : Nat} (hb : badScalar words st = some n) :
    consumeScalars words s = .error (.trap { cause := causeEccuc, xval := BitVec.ofNat 64 n }) s := by
  have hany : (st.blocks.any fun bl => !bl.badRegs.isEmpty) = true := by
    have hn : isBad st n = true := by
      have := List.find?_some hb
      simp only [Bool.and_eq_true] at this
      exact this.2
    obtain ⟨bl, hbl, hc⟩ := List.any_eq_true.mp hn
    refine List.any_eq_true.mpr ⟨bl, hbl, ?_⟩
    cases hr : bl.badRegs with
    | nil => simp [hr] at hc
    | cons x t => rfl
  rw [consumeScalars, bind_ok (getStrand_run hs), if_pos hany]
  unfold badScalar at hb
  rw [hb]
  rfl

section
variable {words : List Nat} {g : Nat} (hs : strandOf s1 = some st1)
  (hc : convoyFault st [] 0 (words.map memberOfWord) = none)
  (hg : startGroup st.r (okMembers (st.r.pc.toNat / 4) (words.map memberOfWord)) = some g)
include hs hc hg

/-- It begins at its group. -/
theorem beginConvoy_ok (hb : badScalar words st1 = none) : beginConvoy words st s1 = .next (putStrand s1 { st1 with
    wait := .none
    inflight := some { pc := st.r.pc, words := words.map (BitVec.ofNat 32), group := g, frame := none } }) := by
  simp only [beginConvoy, hc, hg, consumeScalars_ok hs hb, holdAt, hs]

/-- A bad register stops it. -/
theorem beginConvoy_bad {n : Nat} (hb : badScalar words st1 = some n) : beginConvoy words st s1 =
    .next (takeTrap s1 { cause := causeEccuc, xval := BitVec.ofNat 64 n }) := by
  simp only [beginConvoy, hc, hg, consumeScalars_bad hs hb]
  rfl

end

/-- A check that fails stops it. -/
theorem beginConvoy_fault {words : List Nat} {n : Nat} {cause : BitVec 8}
    (hc : convoyFault st [] 0 (words.map memberOfWord) = some (n, cause)) (s1 : State) : beginConvoy words st s1 =
      .next (takeTrap s1 { cause := cause, xval := memberXval (words.getD n 0) (st.r.pc.toNat / 4 + n) }) := by
  simp only [beginConvoy, hc]
  rfl

/-- The entry at the pc of a strand that may issue begins as its words say. -/
theorem convoyIssue_run {k w : Nat} {ws : List Nat} (hk : s.strands[k]? = some st) (hm : mayIssue s st = true)
    (hi : st.inflight = none) (hw : st.wait = .none) (hf : fetchIssue { s with cur := k } = .ok (w :: ws) s1)
    (hv : vectorClass w = true) (h : beginConvoy (w :: ws) st s1 = .next t) :
    exec (.convoyIssue k) s = .next { t with cur := s.cur } := by
  refine actIssuing_next hk hm ?_
  simp only [hi, hw, Option.isSome_none, Bool.false_or, bne_self_eq_false, Bool.false_eq_true, if_false, hf, hv, if_true, h]

/-! ### Damage that a convoy meets (R435) -/

/-- Actions folded together keep what each step keeps. -/
theorem keeps_foldl {α β : Type} {P : State → Prop} {f : M β → α → M β} (hf : ∀ acc x, Keeps P acc → Keeps P (f acc x))
    (l : List α) : ∀ acc, Keeps P acc → Keeps P (l.foldl f acc) := by
  induction l with
  | nil => exact fun _ h => h
  | cons x t ih => exact fun acc h => ih _ (hf acc x h)

/-- Looking for damage draws free values at most. -/
theorem keeps_convoyDamage (st : Strand) (words : List Nat) :
    Keeps (fun s => strandOf s = some st) (convoyDamage words) := by
  have hfree : Keeps (fun s => strandOf s = some st) freeBit := keeps_bind (keeps_freeNat fun _ h => h) fun _ => keeps_pure _
  refine keeps_bind keeps_getStrand fun st' => keeps_bind keeps_getStrand fun st'' => keeps_ite (keeps_pure _) ?_
  refine keeps_bind (keeps_foldl (fun acc y hacc => keeps_bind hacc fun _ => ?_) _ _ (keeps_pure _)) fun _ => keeps_pure _
  refine keeps_foldl (fun acc z hacc => keeps_bind hacc fun _ => keeps_ite (keeps_pure _) ?_) _ _ (keeps_pure _)
  split
  · exact keeps_pure _
  · exact keeps_bind hfree fun _ => keeps_pure _
  · exact keeps_pure _

theorem strandOf_convoyDamage (hs : strandOf s = some st) {words : List Nat} {hit : Option (Nat × Nat)}
    (h : convoyDamage words s = .ok hit s1) : strandOf s1 = some st := by
  have hk := keeps_convoyDamage st words s hs
  rwa [h] at hk

/-- A strand with no damaged register meets none. -/
theorem convoyDamage_none (hs : strandOf s = some st) (hb : ∀ bl ∈ st.blocks, bl.badRegs = []) (words : List Nat) :
    convoyDamage words s = .ok none s := by
  rw [convoyDamage, bind_ok (getStrand_run hs)]
  refine (bind_ok (getStrand_run hs)).trans ?_
  rw [badWords_nil hb]
  rfl

/-! ### ELEMENT_GROUP_COMMIT (R115 to R118) -/

/-- The members of a convoy in progress. -/
def heldMembers (st : Strand) (f : Inflight) : List (Nat × Member) :=
  okMembers (st.r.pc.toNat / 4) ((f.words.map BitVec.toNat).map memberOfWord)

/-- The group that a convoy commits next is its last one. -/
def lastGroup (st : Strand) (f : Inflight) (s : State) : Prop :=
  commitStop (heldMembers st f) f.group s = none ∨ (heldMembers st f).any (·.2.whole) = true ∨
    groupCount st.r (convoyWidth st.r (heldMembers st f)) ≤ f.group + 1

/-- The commit of a group ends behind it, or behind the convoy's last one. -/
theorem commitStop_cases (ms : List (Nat × Member)) (g : Nat) (s : State) :
    commitStop ms g s = none ∨ commitStop ms g s = some (g + 1) := by
  unfold commitStop
  dsimp only
  split
  · exact .inl rfl
  · exact .inr rfl

section
variable {f : Inflight} (hs : strandOf s = some st)
include hs

/-- Damage met in the group that commits next stops the convoy there. -/
theorem commitGroup_damaged {g n : Nat} (hi : st.inflight = some f) (hp : f.pc = st.r.pc)
    (hd : convoyDamage (f.words.map BitVec.toNat) s = .ok (some (g, n)) s1) (hg : g ≤ f.group) :
    commitGroup f st s = .next (takeTrap (setVstart s1 (vstartOf f.group))
      { cause := causeEccuc, xval := BitVec.ofNat 64 n }) := by
  have hs1 := strandOf_convoyDamage hs hd
  have hstart : ∀ ms, convoyStart st ms = f.group := fun ms => by simp [convoyStart, hi, hp]
  have hhere : ∀ ms : List (Nat × Member),
      (ms.any (·.2.whole) || (commitStop ms f.group s1).all fun e => decide (g < e)) = true := fun ms => by
    rcases commitStop_cases ms f.group s1 with h | h
    · simp [h]
    · simp [h, Nat.lt_succ_of_le hg]
  simp only [commitGroup, hd, Option.filter_some, hhere, if_true, damagedAt, hs1, hstart]
  rw [if_pos (by simp [hg])]

variable (hb : ∀ bl ∈ st.blocks, bl.badRegs = [])
include hb

/-- With no damage the group commits, and the convoy goes on or ends. -/
theorem commitGroup_run : commitGroup f st s =
    match performConvoy (heldMembers st f) f.group (commitStop (heldMembers st f) f.group s) s with
    | .error c => convoyStopped f.words c
    | .ok s' =>
      if (commitStop (heldMembers st f) f.group s).isNone || (heldMembers st f).any (·.2.whole) ||
          groupCount st.r (convoyWidth st.r (heldMembers st f)) ≤ f.group + 1 then
        convoyDone f.words.length s'
      else holdAt { f with group := f.group + 1 } s' := by
  simp only [commitGroup, convoyDamage_none hs hb, Option.filter_none, healed_eq hb]
  rfl

theorem commitGroup_last {st' : Strand} (hl : lastGroup st f s)
    (h : performConvoy (heldMembers st f) f.group (commitStop (heldMembers st f) f.group s) s = .ok t)
    (ht : strandOf t = some st') : commitGroup f st s = .next (putStrand t
      (retired { st' with r := { st'.r with vstart := 0 } } (st'.r.pc + BitVec.ofNat 64 (4 * f.words.length)))) := by
  rw [commitGroup_run hs hb, h]
  dsimp only
  rw [if_pos (by simpa [lastGroup, or_assoc] using hl), convoyDone, ht]

theorem commitGroup_next {st' : Strand} (hl : ¬ lastGroup st f s)
    (h : performConvoy (heldMembers st f) f.group (commitStop (heldMembers st f) f.group s) s = .ok t)
    (ht : strandOf t = some st') : commitGroup f st s =
      .next (putStrand t { st' with wait := .none, inflight := some { f with group := f.group + 1 } }) := by
  rw [commitGroup_run hs hb, h]
  dsimp only
  rw [if_neg (by simpa [lastGroup, or_assoc] using hl), holdAt, ht]

theorem commitGroup_trap {c : ConvoyStop} {x : Trap}
    (h : performConvoy (heldMembers st f) f.group (commitStop (heldMembers st f) f.group s) s = .error c)
    (hx : c.x = .trap x) : commitGroup f st s = .next (takeTrap (setVstart c.s (BitVec.ofNat 64 (c.group % 256))) x) := by
  rw [commitGroup_run hs hb, h]
  simp only [convoyStopped, hx]
  rfl

end

/-- The event is the commit of the convoy that a strand has in progress, when no FSEND asks the strand (R245). -/
theorem elementGroupCommit_run {k : Nat} {f : Inflight} (hk : s.strands[k]? = some st) (hm : mayIssue s st = true)
    (hi : st.inflight = some f) (hp : f.pc = st.r.pc) (hf : f.frame = none) (hr : ∀ x ∈ s.strands, k ∉ x.requests)
    (h : commitGroup f st { s with cur := k } = .next t) : exec (.elementGroupCommit k) s = .next { t with cur := s.cur } := by
  refine actIssuing_next hk hm ?_
  simp only [hi, hp, bne_self_eq_false, Bool.false_eq_true, if_false, hf]
  rw [unasked_eq hr, h]

/-! ### One group of an elementwise member (R111, R115) -/

section
variable (hs : strandOf s = some st) (hf : ∀ w ∈ st.pending, w.fresh = none) (hn : st.strongNow = false)
  {x : Member} {m : Nat} {act : ElemAct} {d : BitVec 5} (hx : Elementwise x m act d) (hp : Plain act st.r)
include hs hf hx hp

/-- The cells after group `g` of a member alone. -/
def groupCells (m : Nat) (act : ElemAct) (d : BitVec 5) (st : Strand) (g : Nat) : Cells :=
  spanCells m act d st.r (groupSpan (elemWidth st.r) (elemGroups st.r) g g) (st.blocks, st.r.mst)

theorem performGroups_one (pos g : Nat) : performGroups [(pos, x)] g (some (g + 1)) s =
    .ok (putCells s st (groupCells m act d st g)) := by
  have hself : putCells s st (st.blocks, st.r.mst) = s := putStrand_self hs
  have hmem : (x.pipe == .mem) = false := by simpa using hx.pipe
  have hw : convoyWidth st.r [(pos, x)] = elemWidth st.r := by simp [convoyWidth, hx.width, elemWidth]
  have hcn : groupCount st.r (elemWidth st.r) = elemGroups st.r := rfl
  have hone : g + 1 - g = 1 := Nat.add_sub_cancel_left g 1
  have hrun := runMember_putCells hs hf hx hp pos (groupSpan (elemWidth st.r) (elemGroups st.r) g g) (st.blocks, st.r.mst)
  rw [hself] at hrun
  simp only [performGroups, hs, hw, hcn, List.any_cons, hx.whole, List.any_nil, Bool.or_self, Bool.false_eq_true, if_false,
    Option.getD_some, splitAmo, hx.amo, Option.map_none, commitGroups, hmem, Bool.and_false, Bool.false_and,
    List.length_singleton, le_refl, decide_true, Bool.true_or, if_true, groupLoop, hone, Nat.add_sub_cancel, runMembers, hrun]
  rfl

include hn

/-- Nothing of it touches a strongly ordered page, so that the group commits alone. -/
theorem commitStop_one (pos g : Nat) : commitStop [(pos, x)] g s = some (g + 1) := by
  have hstrong : touchedStrong (performGroups [(pos, x)] g (some (g + 1)) s) = false := by
    rw [performGroups_one hs hf hx hp, touchedStrong, strandOf_putCells hs]
    simp [withCells, hn]
  unfold commitStop
  rw [hstrong]
  simp [hx.amo]

theorem performConvoy_one (pos g : Nat) : performConvoy [(pos, x)] g (some (g + 1)) s =
    .ok (putCells s st (groupCells m act d st g)) := by
  rw [performConvoy, performGroups_one hs hf hx hp]
  exact congrArg _ (closeConvoy_putCells hs hf hn _)

end

/-- The word of a VADD stands for its member. -/
theorem memberOfWord_vadd {m : BitVec 3} {x a d : BitVec 5} {y : Nat} (hy : encodeWord (.vadd m x a d) = some y) :
    y < 2 ^ 32 ∧ memberOfWord y = .ok (intMember viAdd m (.v x.toNat) a d) :=
  ⟨(roundTrip _ (coded_vadd.wellFormed m x a d) y hy).1, (coded_vadd.issues m x a d).2 y hy⟩

/-- The group of a VADD that commits next. -/
theorem commitGroup_vadd {f : Inflight} (hs : strandOf s = some st) (hb : ∀ bl ∈ st.blocks, bl.badRegs = [])
    {m : BitVec 3} {x a d : BitVec 5} {y : Nat} (hy : encodeWord (.vadd m x a d) = some y) (hw : f.words = [BitVec.ofNat 32 y])
    (hl : vtLegal st.r.vt.toNat = true) (hwidth : vtWidth st.r.vt ∈ [8, 16, 32, 64])
    (hal : ∀ r ∈ [x, a, d], r.toNat % vtG st.r.vt = 0) (hn : st.strongNow = false) (hf : ∀ w ∈ st.pending, w.fresh = none)
    (hg : f.group < groupCount st.r (vtWidth st.r.vt)) :
    let w := vtWidth st.r.vt
    let n := groupCount st.r w
    let here := fun (j : Nat) => groupStart w f.group ≤ j ∧ (j < groupStart w (f.group + 1) ∨ f.group + 1 = n)
    ∃ bls, commitGroup f st s = .next (putStrand s
        (if f.group + 1 = n then vectorDone st st.r.mst bls
         else { st with wait := .none, blocks := bls, inflight := some { f with group := f.group + 1 } })) ∧
      bls.length = st.blocks.length ∧ ∀ b bl, st.blocks[b]? = some bl → ∃ bl', bls[b]? = some bl' ∧ bl' = { bl with v := bl'.v } ∧
        (∀ j, j < vlbOf st.r.vt → elemRead bl' w d.toNat j =
          if here j then wanted st.r m.toNat b d (sumAt st.r x a) bl j else elemRead bl w d.toNat j) ∧
        ∀ q, q < 32 → q < d.toNat ∨ d.toNat + vtG st.r.vt ≤ q →
          getField bl'.v (q * vregBits) vregBits = getField bl.v (q * vregBits) vregBits := by
  intro w n here
  simp only [List.forall_mem_cons] at hal
  obtain ⟨hx, ha, hd, -⟩ := hal
  obtain ⟨hlt, hmem⟩ := memberOfWord_vadd hy
  have hew : elemWidth st.r = w := by
    have : 1 ≤ vtWidth st.r.vt := (by decide : ∀ w ∈ [8, 16, 32, 64], 1 ≤ w) _ hwidth
    exact Nat.max_eq_right this
  have hms : heldMembers st f = [((st.r.pc.toNat / 4 + 0) % 4, intMember viAdd m (.v x.toNat) a d)] := by
    rw [heldMembers, hw, List.map_singleton, List.map_singleton, BitVec.toNat_ofNat, Nat.mod_eq_of_lt hlt, hmem]
    rfl
  have he := elementwise_intMember m x a d viAdd
  have hp := plain_intElem x a d viAdd st.r
  have hstop := commitStop_one hs hf hn he hp ((st.r.pc.toNat / 4 + 0) % 4) f.group
  have hrun := performConvoy_one hs hf hn he hp ((st.r.pc.toNat / 4 + 0) % 4) f.group
  set c := groupCells m.toNat (intElem viAdd (.v x.toNat) a d) d st f.group with hc
  rw [← hms] at hstop hrun
  rw [← hstop] at hrun
  have hall : AllPerformed st.r m.toNat d (sumAt st.r x a) (groupStart w f.group)
      (if f.group + 1 = n then 65536 else groupStart w (f.group + 1)) (st.blocks, st.r.mst) c := by
    have h := allPerformed_span (m := m.toNat) ⟨hl, hd⟩ (writes_vadd hx ha hd)
      (sp := groupSpan (elemWidth st.r) (elemGroups st.r) f.group f.group) rfl (st.blocks, st.r.mst)
    unfold elemGroups at h
    rw [hew] at h
    rw [hc, groupCells, elemGroups, hew]
    exact h
  have hlast : lastGroup st f s ↔ f.group + 1 = n := by
    have hcw : convoyWidth st.r (heldMembers st f) = w := by
      rw [hms, ← hew]
      rfl
    have hwhole : (heldMembers st f).any (·.2.whole) = false := by
      rw [hms]
      rfl
    have hin : f.group < n := hg
    rw [lastGroup, hstop, hwhole, hcw]
    simp only [reduceCtorEq, Bool.false_eq_true, false_or]
    exact ⟨Nat.le_antisymm hin, fun h => h.ge⟩
  refine ⟨c.1, ?_, hall.length, fun b bl hbl => ?_⟩
  · by_cases hend : f.group + 1 = n
    · rw [if_pos hend, commitGroup_last hs hb (hlast.mpr hend) hrun (strandOf_putCells hs c), putCells, putStrand_putStrand,
        withCells, hall.mst, hw]
      rfl
    · rw [if_neg hend, commitGroup_next hs hb (fun h => hend (hlast.mp h)) hrun (strandOf_putCells hs c), putCells,
        putStrand_putStrand, withCells, hall.mst]
  · obtain ⟨bl', hbl', hper⟩ := hall.blocks b bl hbl
    refine ⟨bl', hbl', hper.frame, fun j hj => (hper.elem hj).trans ?_, fun q _ hq => hper.others hq⟩
    have h8 := vlb_le hl
    have hiff : (groupStart w f.group ≤ j ∧ j < if f.group + 1 = n then 65536 else groupStart w (f.group + 1)) ↔ here j := by
      refine and_congr_right fun _ => ?_
      split
      · next h => exact ⟨fun _ => .inr h, fun _ => (hj.trans_le h8).trans (by decide)⟩
      · next h => exact ⟨.inl, fun h' => h'.resolve_right h⟩
    simp only [hiff]
    rfl

/-- Settles O51: each event by what it does at the strand's turn. -/
theorem strandEvents : Obligations.StrandEvents := by
  unfold Obligations.StrandEvents
  intro s k st hk hm s0 back free
  have hs0 : strandOf s0 = some st := hk
  refine ⟨?entry, ?slog, ?stage2, ?issue, ?damaged, ?commit⟩
  case entry =>
    intro cause xval hc hle hf
    refine actIssuing_next hk hm ?_
    have hno : ¬ (decide (cause = 0) || decide (0x15 < cause.toNat)) = true := by
      rw [decide_eq_false hc, decide_eq_false (Nat.not_lt.mpr hle)]
      exact Bool.false_ne_true
    rw [if_neg hno]
    exact interrupt_run hs0 hf _
  case slog =>
    intro hp hx hf
    refine actIssuing_next hk hm ?_
    have hf' : uninterrupted st = false := hf
    rw [if_pos (by simp [slogDue, hp, hx, hf'])]
    exact takeSlog_run hs0 hf
  case stage2 =>
    intro cause xval acc level hw hf
    refine ⟨actIssuing_next hk hm ?_, actIssuing_next hk hm ?_⟩
    · simp only [hw, if_true]
      rfl
    · simp only [hw, Bool.false_eq_true, if_false]
      exact interrupt_run hs0 hf _
  case issue =>
    intro hi hw w ws s1 st1 hfetch hs1 ms
    refine ⟨fun hv hc g hg => ⟨fun hb => ?_, fun n hb => ?_⟩, fun hv n cause hc => ?_⟩
    · exact convoyIssue_run hk hm hi hw hfetch hv (beginConvoy_ok hs1 hc hg hb)
    · exact convoyIssue_run hk hm hi hw hfetch hv (beginConvoy_bad hs1 hc hg hb)
    · exact convoyIssue_run hk hm hi hw hfetch hv (beginConvoy_fault hc s1)
  case damaged =>
    intro f hi hp hf hr words g n s1 hd hg
    exact elementGroupCommit_run hk hm hi hp hf hr (commitGroup_damaged hs0 hi hp hd hg)
  case commit =>
    intro f hi hp hf hb hr ms stop last
    have hrun {t : State} := elementGroupCommit_run (t := t) hk hm hi hp hf hr
    refine ⟨fun t st' h ht => ⟨fun hl => ?_, fun hl => ?_⟩, fun c t h hx => ?_, ?_⟩
    · exact hrun (commitGroup_last hs0 hb hl h ht)
    · exact hrun (commitGroup_next hs0 hb hl h ht)
    · exact hrun (commitGroup_trap hs0 hb h hx)
    · intro m x a d y hy hw hl hwidth hal hn hpend w n here hg
      obtain ⟨bls, hcommit, hlen, hblocks⟩ := commitGroup_vadd hs0 hb hy hw hl hwidth hal hn hpend hg
      exact ⟨bls, hrun hcommit, hlen, hblocks⟩

end Sys2Proof.Laws

/-! # Repeat frames (O32) -/

namespace Sys2Proof.Laws

open Sys2Proof.Machine Sys2Proof.Safety Sys2Proof.Config

-- One proof at a time: elaborated side by side, the proofs below take more threads than one text may have.
set_option Elab.async false

/-! ### A fetch leaves the queue entry in progress -/

section
variable {α β : Type} {i : Option (Option Inflight)}

/-- An action leaves the queue entry that the executing strand has in progress (R127). -/
abbrev KeepsEntry (i : Option (Option Inflight)) (x : M α) : Prop := Keeps (fun s => s.strands[s.cur]?.map (·.inflight) = i) x

/-- Steps that each leave the strands leave them together. -/
theorem foldl_strands {γ : Type} {f : State → γ → State} (h : ∀ s x, (f s x).strands = s.strands) (l : List γ) :
    ∀ s : State, (l.foldl f s).strands = s.strands := by
  induction l with
  | nil => exact fun _ => rfl
  | cons x t ih => exact fun s => (ih _).trans (h s x)

@[simp] theorem physWrite_strands (s : State) (pa : Nat) (bs : List Byte) : (physWrite s pa bs).strands = s.strands := by
  rw [physWrite_frame]

@[simp] theorem pullBytes_strands (s : State) (pa n : Nat) : (pullBytes s pa n).strands = s.strands := by
  unfold pullBytes
  split
  · rfl
  · rw [homeAccess_frame]

@[simp] theorem setTlb_strands (s : State) (c : XCtx) (l : List TlbEntry) : (setTlb s c l).strands = s.strands := by
  unfold setTlb
  split <;> rfl

@[simp] theorem setAccessed_strands (s : State) (e : TlbEntry) (write : Bool) : (setAccessed s e write).strands = s.strands := by
  refine foldl_strands (fun s l => ?_) e.leaves s
  dsimp only
  generalize physLoad s l.addr 8 ||| _ ||| _ = new
  split
  · rfl
  · exact physWrite_strands ..

@[simp] theorem settleRedirects_strands (s : State) : (settleRedirects s).strands = s.strands := by
  unfold settleRedirects
  refine foldl_strands (fun s x => ?_) s.redirects s
  split
  · rfl
  · simp [cacheOwner]

theorem keepsEntry_freeNat : KeepsEntry i freeNat := keeps_freeNat fun _ h => h
theorem keepsEntry_freeBelow (n : Nat) : KeepsEntry i (freeBelow n) := keeps_bind keepsEntry_freeNat fun _ => keeps_pure _
theorem keepsEntry_freeBit : KeepsEntry i freeBit := keeps_bind keepsEntry_freeNat fun _ => keeps_pure _
theorem keepsEntry_raiseT (t : Trap) : KeepsEntry i (raiseT t : M α) := keeps_throw _
theorem keepsEntry_set {t : State} (h : t.strands[t.cur]?.map (·.inflight) = i) : KeepsEntry i (set t) := fun _ _ => h

/-- A change of the strand that leaves its entry. -/
theorem keepsEntry_modStrand {f : Strand → Strand} (hf : ∀ st, (f st).inflight = st.inflight) : KeepsEntry i (modStrand f) := by
  intro s hs
  cases h : strandOf s with
  | some st =>
    rw [modStrand_run f h]
    refine (congrArg (Option.map (·.inflight)) (strandOf_putStrand h (f st))).trans ?_
    rw [← hs, ← strandOf, h, Option.map_some, Option.map_some, hf]
  | none =>
    have hstop : modStrand f s = .error (.fault .noStrand) s := by
      simp [modStrand, getStrand, bind, EStateM.bind, get, getThe, MonadStateOf.get, EStateM.get, h, throw, throwThe,
        MonadExceptOf.throw, EStateM.throw]
    rw [hstop]
    exact hs

theorem keepsEntry_modRegs (f : Regs → Regs) : KeepsEntry i (modRegs f) := keepsEntry_modStrand fun _ => rfl

theorem keepsEntry_getRegs : KeepsEntry i getRegs := keeps_bind keeps_getStrand fun _ => keeps_pure _

theorem keepsEntry_getBlock (b : Nat) : KeepsEntry i (getBlock b) :=
  keeps_bind keeps_getStrand fun st => by
    split
    · exact keeps_pure _
    · exact keeps_throw _

theorem keepsEntry_modBlock (b : Nat) (f : Block → Block) : KeepsEntry i (modBlock b f) :=
  keeps_bind (keepsEntry_getBlock b) fun _ => keepsEntry_modStrand fun _ => rfl

/-- An action that looks at the state may use the entry. -/
theorem keepsEntry_get_bind {f : State → M β} (hf : ∀ s : State, s.strands[s.cur]?.map (·.inflight) = i → KeepsEntry i (f s)) : KeepsEntry i (get >>= f) :=
  keeps_get_bind fun s hs t ht => hf s hs t ht

/-- Closes `KeepsEntry i x` along the parts of `x`. -/
theorem keepsEntry_parts {p : Prop} (h : p := by
    try dsimp only
    repeat' first
      | with_reducible first
        | assumption
        | apply keepsEntry_get_bind | apply keeps_bind | apply keeps_ite | apply keeps_pure | apply keeps_throw
        | apply keeps_raise | apply keeps_waitFor | apply keeps_getStrand | apply keeps_modify | apply keepsEntry_set
        | apply keepsEntry_raiseT | apply keepsEntry_freeBelow | apply keepsEntry_freeBit | apply keepsEntry_modRegs
        | apply keepsEntry_modBlock | apply keepsEntry_getBlock | apply keepsEntry_getRegs
      | with_reducible intro _
      | split
      | simp [*]; done
      | apply_assumption) : p := h

@[simp] theorem keepsEntry_keepBounded (cap) (pick : α → Bool) (l x) : KeepsEntry i (keepBounded cap pick l x) := by
  unfold keepBounded
  exact keepsEntry_parts

@[simp] theorem keepsEntry_keepTable (c stage2 level va t) : KeepsEntry i (keepTable c stage2 level va t) := by
  unfold keepTable
  exact keepsEntry_parts

@[simp] theorem keepsEntry_walkFrom (c stage2 va x y) : KeepsEntry i (walkFrom c stage2 va x y) := by
  fun_induction walkFrom c stage2 va x y <;> exact keepsEntry_parts

@[simp] theorem keepsEntry_walkBoth (c va) : KeepsEntry i (walkBoth c va) := by
  unfold walkBoth
  exact keepsEntry_parts

@[simp] theorem keepsEntry_keepXlat (c e) : KeepsEntry i (keepXlat c e) := by
  unfold keepXlat
  exact keepsEntry_parts

@[simp] theorem keepsEntry_chooseHeld (a) : KeepsEntry i (chooseHeld a) := by
  fun_induction chooseHeld a <;> exact keepsEntry_parts

@[simp] theorem keepsEntry_lookup (c va write) : KeepsEntry i (lookup c va write) := by
  unfold lookup
  exact keepsEntry_parts

@[simp] theorem keepsEntry_translate (c va acc) : KeepsEntry i (Machine.translate c va acc) := by
  unfold Machine.translate
  exact keepsEntry_parts

@[simp] theorem keepsEntry_translatePages (b acc l) : KeepsEntry i (translatePages b acc l) := by
  fun_induction translatePages b acc l <;> exact keepsEntry_parts

@[simp] theorem keepsEntry_stage2Fault (b f t) : KeepsEntry i (stage2Fault b f t : M α) := by
  unfold stage2Fault
  exact keepsEntry_parts

@[simp] theorem keepsEntry_askFar (who pa) : KeepsEntry i (askFar who pa) := by
  unfold askFar
  exact keepsEntry_parts

@[simp] theorem keepsEntry_askPages (xs) : KeepsEntry i (askPages xs) := by
  have ask (cur xs) : KeepsEntry i (askPages.ask cur xs) := by
    fun_induction askPages.ask cur xs <;> exact keepsEntry_parts
  exact keepsEntry_get_bind fun s _ => ask _ _

@[simp] theorem keepsEntry_checkRows (b va size acc) : KeepsEntry i (checkRows b va size acc) := by
  unfold checkRows
  exact keepsEntry_parts

@[simp] theorem keepsEntry_checkServed (va size ps) : KeepsEntry i (checkServed va size ps) := by
  unfold checkServed
  exact keepsEntry_parts

@[simp] theorem keepsEntry_checkAccess (b va size acc) : KeepsEntry i (checkAccess b va size acc) := by
  unfold checkAccess
  exact keepsEntry_parts

@[simp] theorem keepsEntry_checkFetch (pc) : KeepsEntry i (checkFetch pc) := by
  unfold checkFetch
  exact keepsEntry_parts

@[simp] theorem keepsEntry_fetchQuad (pa) : KeepsEntry i (fetchQuad pa) := by
  unfold fetchQuad
  exact keepsEntry_parts

@[simp] theorem keepsEntry_fetchNext (last pc) : KeepsEntry i (fetchNext last pc) := by
  unfold fetchNext fetchAt
  exact keepsEntry_parts

/-- The words of a frame are fetched without a change of it. -/
theorem keepsEntry_fetchFrame : ∀ fuel k p pc last, KeepsEntry i (fetchFrame fuel k p pc last)
  | 0, _, _, _, _ => keeps_pure _
  | fuel + 1, k, p, pc, last => by
    have ih := keepsEntry_fetchFrame fuel
    unfold fetchFrame
    exact keepsEntry_parts

end

end Sys2Proof.Laws

/-! # Repeat frames (O32): the frame of one convoy -/

namespace Sys2Proof.Laws

open Sys2Proof.Machine Sys2Proof.Safety Sys2Proof.Config

variable {s s1 t : State} {st st1 : Strand}

/-! ### The words of a frame -/

/-- The words fetched stand at ascending positions, no more of them than are fetched. -/
theorem fetchFrame_positions : ∀ (fuel k p : Nat) (pc : Word) (last : Option Quad) (s s1 : State) (ws : List FrameWord),
    fetchFrame fuel k p pc last s = .ok ws s1 →
      (∀ x ∈ ws, p ≤ x.p ∧ x.p < p + k) ∧ ws.Pairwise fun x y => x.p ≠ y.p
  | 0, k, p, pc, last, s, s1, ws, h => by
    cases h
    exact ⟨List.forall_mem_nil _, .nil⟩
  | fuel + 1, k, p, pc, last, s, s1, ws, h => by
    have ih := fetchFrame_positions fuel
    have hnil : (pure [] : M (List FrameWord)) s = .ok ws s1 →
        (∀ x ∈ ws, p ≤ x.p ∧ x.p < p + k) ∧ ws.Pairwise fun x y => x.p ≠ y.p := fun h => by
      cases h
      exact ⟨List.forall_mem_nil _, .nil⟩
    unfold fetchFrame at h
    split at h
    · exact hnil h
    · next hk =>
      obtain ⟨⟨w, quad⟩, s2, -, h⟩ := bind_eq_ok.mp h
      dsimp only at h
      split at h
      · exact ih _ _ _ _ _ _ _ h
      · split at h
        · cases h
        · obtain ⟨rest, s3, hrest, h⟩ := bind_eq_ok.mp h
          obtain ⟨hin, hpair⟩ := ih _ _ _ _ _ _ _ hrest
          cases h
          have hend : p + 1 + (k - 1) = p + k := by rw [Nat.add_assoc, Nat.add_sub_cancel' (Nat.pos_of_ne_zero hk)]
          refine ⟨List.forall_mem_cons.mpr ⟨⟨le_rfl, Nat.lt_add_of_pos_right (Nat.pos_of_ne_zero hk)⟩, fun x hx => ?_⟩,
            .cons (fun x hx => Nat.ne_of_lt (hin x hx).1) hpair⟩
          exact ⟨Nat.le_of_succ_le (hin x hx).1, (hin x hx).2.trans_eq hend⟩

/-- With nothing in progress the words are fetched. -/
theorem frameWords_fetched (hs : strandOf s = some st) (hi : st.inflight = none) (k : Nat) :
    frameWords k s = fetchFrame (2 ^ 62) k 0 (st.r.pc + 4) none s := by
  rw [frameWords, bind_ok (getStrand_run hs), hi]
  rfl

/-- What a position is paired with is found at it. -/
theorem find_position {α : Type} (base : FrameWord → Nat × α) (hbase : ∀ x, (base x).1 = x.p) {ws : List FrameWord}
    (hd : ws.Pairwise fun x y => x.p ≠ y.p) {x : FrameWord} (hx : x ∈ ws) :
    (ws.map base).find? (fun y => y.1 == x.p) = some (base x) := by
  induction hd with
  | nil => cases hx
  | @cons y t hy _ ih =>
    rw [List.map_cons, List.find?_cons, hbase]
    rcases List.mem_cons.mp hx with rfl | hx
    · rw [beq_self_eq_true]
    · rw [beq_false_of_ne (hy x hx)]
      exact ih hx

/-! ### A frame at its issue (R128, R129) -/

/-- What a REPF that passes its checks knows (R129). -/
def issuedFrame (ws : List FrameWord) (pc : Word) (r : Regs) (f : BitVec 3) (o : BitVec 5) (g : BitVec 3) (n : BitVec 6)
    (k : BitVec 4) : Frame where
  head := wordRepf f o g n k
  words := ws
  convoys := frameConvoys ws
  next := (ws.getLast?.elim pc (·.addr)) + 4
  trip := (regRead r n.toNat).toNat % 2 ^ 32
  stages := g.toNat + 1
  rot := o.toNat
  fields := f.toNat
  bases := ws.map fun x => (x.p, (regRead r (x.word / 2 ^ 12 % 64)).toNat)
  rstg := r.rstg
  vl := r.vl
  vt := r.vt

theorem frameHead_run (hs : strandOf s = some st) {f : BitVec 3} {o : BitVec 5} {g : BitVec 3} {n : BitVec 6} {k : BitVec 4}
    {ws : List FrameWord} (hf : frameWords (k.toNat + 1) s = .ok ws s1) (hs1 : strandOf s1 = some st1)
    (ho : o.toNat % vtG st1.r.vt = 0) (hg : ∀ p, p ≤ k.toNat → stageOf st1.r.rstg p ≤ g.toNat) (hv : st1.r.vstart = 0) :
    frameHead f o g n k s = .ok (issuedFrame ws st.r.pc st1.r f o g n k) s1 := by
  have hstage : ((List.range (k.toNat + 1)).any fun p => decide (g.toNat + 1 ≤ stageOf st1.r.rstg p)) = false := by
    refine List.any_eq_false.mpr fun p hp => ?_
    rw [decide_eq_true_eq]
    exact Nat.not_lt.mpr (hg p (Nat.le_of_lt_succ (List.mem_range.mp hp)))
  have hgroup : (!vstartFrame st1.r.vstart && vstartEgrp st1.r.vstart != 0) = false := by
    rw [hv]
    decide
  unfold frameHead
  dsimp only
  rw [bind_ok (getStrand_run hs), bind_ok hf, bind_ok (getRegs_run hs1), ho, hstage, hgroup]
  rfl

/-- A frame that is not in progress begins at its first convoy. -/
theorem frameStart_fresh (hi : st.inflight = none) (hv : st.r.vstart = 0) : frameStart st = (0, 0, 0) := by
  unfold frameStart
  rw [hi, hv]
  rfl

/-- A REPF that passes its checks performs its replays and goes on past its frame. -/
theorem execRepf_run {f : BitVec 3} {o : BitVec 5} {g : BitVec 3} {n : BitVec 6} {k : BitVec 4} {fr : Frame} {st' : Strand}
    (hh : frameHead f o g n k s = .ok fr s1) (hs1 : strandOf s1 = some st1) (hi : st1.inflight = none) (hv : st1.r.vstart = 0)
    (hl : frameLoop fr (fr.replays * (k.toNat + 1) + 1) 0 0 0 s1 = .ok t) (ht : strandOf t = some st') :
    execRepf f o g n k s = .next (putStrand t (retired { st' with r := { st'.r with vstart := 0 } } fr.next)) := by
  simp only [execRepf, hh, hs1, frameStart_fresh hi hv, hl, frameDone, ht]

/-! ### Replays of one convoy -/

section
variable {f : Frame} {c : List FrameWord} {i j : Nat}

/-- After the last replay nothing is left. -/
theorem frameLoop_over (hi : f.replays ≤ i) : ∀ fuel p g, frameLoop f fuel i p g s = .ok s
  | 0, _, _ => rfl
  | fuel + 1, p, g => by
    have hfirst : f.first i p = none := by
      rw [Frame.first, Nat.sub_eq_zero_of_le hi]
      rfl
    simp only [frameLoop, hfirst]

section
variable (hc : f.convoys = [c])
include hc

/-- The convoy is selected on a replay that selects words of it. -/
theorem first_here (hi : i < f.replays) (hsel : f.chosen i c ≠ []) : f.first i 0 = some (i, c) := by
  obtain ⟨n, hn⟩ := Nat.exists_eq_succ_of_ne_zero (Nat.sub_ne_zero_of_lt hi)
  have hne : (f.chosen i c).isEmpty = false := List.isEmpty_eq_false_iff.mpr hsel
  rw [Frame.first, hn, Frame.seek, hc]
  simp [hne]

/-- Past it the next replay is next. -/
theorem first_past : f.first i (convoyPos c + 1) = f.first (i + 1) 0 := by
  unfold Frame.first
  rcases Nat.eq_zero_or_pos (f.replays - i) with h | h
  · have : f.replays - (i + 1) = 0 := Nat.sub_eq_zero_of_le ((Nat.le_of_sub_eq_zero h).trans i.le_succ)
    rw [h, this]
    rfl
  · have : f.replays - i = f.replays - (i + 1) + 1 := (Nat.sub_add_cancel h).symm
    rw [this, Frame.seek, hc]
    simp

/-- So the loop goes on there. -/
theorem frameLoop_past (fuel : Nat) (s : State) : frameLoop f fuel i (convoyPos c + 1) 0 s = frameLoop f fuel (i + 1) 0 0 s := by
  cases fuel with
  | zero => rfl
  | succ fuel => simp only [frameLoop, first_past hc, ite_self]

/-- A frame of one convoy whose every replay performs it runs through the states that the replays leave. -/
theorem frameLoop_run {S : Nat → State} (hsel : ∀ i, i < f.replays → f.chosen i c ≠ [])
    (hrun : ∀ i, i < f.replays → framePerform f i c 0 none (S i) = .ok (S (i + 1))) :
    ∀ n fuel i, i + n = f.replays → n < fuel → frameLoop f fuel i 0 0 (S i) = .ok (S f.replays) := by
  intro n
  induction n with
  | zero =>
    intro fuel i hi _
    obtain rfl : i = f.replays := hi
    exact frameLoop_over le_rfl _ _ _
  | succ n ih =>
    intro fuel i hi hfuel
    obtain ⟨fuel, rfl⟩ := Nat.exists_eq_succ_of_ne_zero (Nat.ne_zero_of_lt hfuel)
    have hlt : i < f.replays := (Nat.lt_add_of_pos_right n.succ_pos).trans_eq hi
    rw [Nat.succ_eq_add_one, frameLoop, first_here hc hlt (hsel i hlt)]
    dsimp only
    rw [ite_self, hrun i hlt]
    dsimp only
    rw [frameLoop_past hc]
    exact ih fuel (i + 1) ((Nat.add_right_comm i 1 n).trans hi) (Nat.lt_of_succ_lt_succ hfuel)

end

/-- A convoy of a replay whose checks pass performs its members. -/
theorem framePerform_run (hs : strandOf s = some st) (hfault : convoyFault st [] 0 ((f.chosen i c).map (f.member i)) = none)
    (hp : performConvoy (frameMembers f i (f.chosen i c)) 0 none s = .ok t) : framePerform f i c 0 none s = .ok t := by
  simp only [framePerform, hs, hfault, hp]
  rfl

end

/-! ### Frames of one stage (R129, R131) -/

section
variable {ws : List FrameWord} {pc : Word} {r : Regs} {f : BitVec 3} {o : BitVec 5} {g : BitVec 3} {n : BitVec 6} {k : BitVec 4}

theorem issuedFrame_idle (ht : (regRead r n.toNat).toNat % 2 ^ 32 = 0) : (issuedFrame ws pc r f o g n k).replays = 0 := if_pos ht

/-- With one stage every trip is a replay. -/
theorem issuedFrame_replays (hg : g = 0) :
    (issuedFrame ws pc r f o g n k).replays = (regRead r n.toNat).toNat % 2 ^ 32 := by
  subst hg
  show (if (regRead r n.toNat).toNat % 2 ^ 32 = 0 then 0 else (regRead r n.toNat).toNat % 2 ^ 32 + 1 - 1) = _
  split
  · next h => exact h.symm
  · rfl

/-- Each of them selects every word of stage 0. -/
theorem issuedFrame_chosen (hstage : ∀ x ∈ ws, stageOf r.rstg x.p = 0) {i : Nat}
    (hi : i < (regRead r n.toNat).toNat % 2 ^ 32) : (issuedFrame ws pc r f o g n k).chosen i ws = ws := by
  refine List.filter_eq_self.mpr fun x hx => ?_
  show (decide (stageOf r.rstg x.p ≤ i) && decide (i < (regRead r n.toNat).toNat % 2 ^ 32 + stageOf r.rstg x.p)) = true
  rw [hstage x hx]
  simpa using hi

/-- On the first replay nothing has rotated or moved on. -/
theorem issuedFrame_member (hd : ws.Pairwise fun x y => x.p ≠ y.p) {x : FrameWord} (hx : x ∈ ws) :
    (issuedFrame ws pc r f o g n k).member 0 x =
      frameMember (rotateWord f.toNat 0 x.word) ((regRead r (x.word / 2 ^ 12 % 64)).toNat % 2 ^ 64) := by
  have hbase := find_position (fun x => (x.p, (regRead r (x.word / 2 ^ 12 % 64)).toNat)) (fun _ => rfl) hd hx
  simp only [Frame.member, Frame.advance, issuedFrame, hbase, Option.map_some, Option.getD_some, Nat.zero_mul, Nat.zero_div,
    Nat.add_zero]

end

/-- Words that are all members stand in their quads. -/
theorem frameMembers_zip {fr : Frame} {i : Nat} : ∀ {ws : List FrameWord} {ms : List Member}, ws.map (fr.member i) = ms.map .ok →
    frameMembers fr i ws = (ws.map fun x => x.addr.toNat / 4 % 4).zip ms
  | [], _, _ => rfl
  | x :: ws, [], h => by cases h
  | x :: ws, m :: ms, h => by
    obtain ⟨hx, h⟩ := List.cons_eq_cons.mp h
    have ih := frameMembers_zip h
    unfold frameMembers at ih ⊢
    rw [List.filterMap_cons_some (b := (x.addr.toNat / 4 % 4, m)) (by rw [hx]), ih]
    rfl

/-! ### Words that do not rotate -/

theorem rotateField_zero (w lo : Nat) : rotateField w lo 0 = w := by
  have hb : bits w lo 5 < 32 := Nat.mod_lt _ (by decide)
  have hle : bits w lo 5 * 2 ^ lo ≤ w :=
    (Nat.mul_le_mul_right _ (Nat.mod_le _ _)).trans (Nat.div_mul_le_self w (2 ^ lo))
  rw [rotateField, Nat.add_zero, Nat.mod_eq_of_lt hb, Nat.sub_add_cancel hle]

theorem rotateWord_zero (f w : Nat) : rotateWord f 0 w = w := by
  simp only [rotateWord, rotateField_zero, ite_self]

/-- A word of integer arithmetic means in a frame what it means alone. -/
theorem frameMember_vint {w : Nat} (h : w % 128 = 0x32) (base : Nat) : frameMember w base = memberOfWord w := by
  unfold frameMember memberOfWord
  rw [h]
  rfl

/-- The major of a VADD. -/
theorem major_vadd {m : BitVec 3} {x a d : BitVec 5} {y : Nat} (hy : encodeWord (.vadd m x a d) = some y) : y % 128 = 0x32 := by
  obtain ⟨hb, hl, hmajor, -⟩ := coded_vadd.base
  obtain ⟨-, -, keep⟩ :=
    word_layout groupFields [m.toNat, x.toNat, a.toNat, d.toNat] _ hb hl ⟨m.isLt, x.isLt, a.isLt, d.isLt, trivial⟩
  rw [coded_vadd.encodes m x a d] at hy
  rw [← Option.some.inj hy]
  exact mod_of_bits ((keep 0 7 (by decide)).trans hmajor)

/-! ### A frame of one VADD -/

/-- The blocks after `i` replays of a VADD. -/
def addedBlocks (st : Strand) (m : BitVec 3) (x a d : BitVec 5) : Nat → List Block
  | 0 => st.blocks
  | i + 1 => (spansCells m.toNat (intElem viAdd (.v x.toNat) a d) d st.r (allSpans st.r) (addedBlocks st m x a d i, st.r.mst)).1

/-- The state after them. -/
def addedState (s : State) (st : Strand) (m : BitVec 3) (x a d : BitVec 5) (i : Nat) : State :=
  putCells s st (addedBlocks st m x a d i, st.r.mst)

section
variable {m : BitVec 3} {x a d : BitVec 5} (hl : vtLegal st.r.vt.toNat = true)
  (hx : x.toNat % vtG st.r.vt = 0) (ha : a.toNat % vtG st.r.vt = 0) (hd : d.toNat % vtG st.r.vt = 0)
include hl hx ha hd

/-- A replay performs every element. -/
theorem addedBlocks_performed (i : Nat) : AllPerformed st.r m.toNat d (sumAt st.r x a) 0 65536
    (addedBlocks st m x a d i, st.r.mst) (addedBlocks st m x a d (i + 1), st.r.mst) := by
  have h := allPerformed_allSpans (m := m.toNat) ⟨hl, hd⟩ (writes_vadd hx ha hd) (addedBlocks st m x a d i, st.r.mst)
  exact ⟨rfl, h.length, h.blocks⟩

/-- Each element is written by R111 with its sum. -/
theorem addedBlocks_written (i : Nat) : ElemsWritten { st with blocks := addedBlocks st m x a d i } (addedBlocks st m x a d (i + 1))
    (vtWidth st.r.vt) d.toNat (vtG st.r.vt) m.toNat
    fun _ bl j => wrap (vtWidth st.r.vt)
      (elemRead bl (vtWidth st.r.vt) a.toNat j + elemRead bl (vtWidth st.r.vt) x.toNat j) := by
  obtain ⟨-, hlen, hblocks⟩ := addedBlocks_performed (m := m) hl hx ha hd i
  refine ⟨hlen, fun b bl hb => ?_⟩
  obtain ⟨bl', hb', hper⟩ := hblocks b bl hb
  refine ⟨bl', hb', ?_, fun j hj => ?_, fun q _ hq => hper.others hq⟩
  · rw [hper.frame]
  · have hlt : 0 ≤ j ∧ j < 65536 := ⟨j.zero_le, (Nat.lt_of_lt_of_le hj (vlb_le hl)).trans (by decide)⟩
    have hsum : sumAt st.r x a bl j = wrap (vtWidth st.r.vt)
        (elemRead bl (vtWidth st.r.vt) a.toNat j + elemRead bl (vtWidth st.r.vt) x.toNat j) := by
      rw [wrap, ← Nat.cast_add, ← Int.natCast_mod, Int.toNat_natCast]
      rfl
    exact ((hper.elem hj).trans (if_pos hlt)).trans
      (congrArg (fun v => outcome st.r m.toNat b j bl v 0 (elemRead bl (vtWidth st.r.vt) d.toNat j)) hsum)

variable (hs : strandOf s = some st) (hn : st.strongNow = false) (hf : ∀ w ∈ st.pending, w.fresh = none)
include hs hn hf

/-- The convoy of the VADD alone is one replay. -/
theorem performConvoy_added (pos i : Nat) :
    performConvoy [(pos, intMember viAdd m (.v x.toNat) a d)] 0 none (addedState s st m x a d i) =
      .ok (addedState s st m x a d (i + 1)) := by
  have h := performConvoy_solo (strandOf_putCells hs (addedBlocks st m x a d i, st.r.mst)) hf
    (elementwise_intMember m x a d viAdd) (plain_intElem x a d viAdd st.r) hn pos
  refine h.trans (congrArg _ ?_)
  have hc := allPerformed_allSpans (m := m.toNat) ⟨hl, hd⟩ (writes_vadd hx ha hd) (addedBlocks st m x a d i, st.r.mst)
  rw [addedState, putCells, putCells, putCells, putStrand_putStrand, addedBlocks]
  congr 1
  exact congrArg (fun v => withCells st (_, v)) hc.mst

end

/-! ### REPF (R129) -/

/-- Checks at issue pass for a VADD on aligned groups of an integer width (R54, R133). -/
theorem convoyFault_vadd {m : BitVec 3} {x a d : BitVec 5} (hw : vtWidth st.r.vt ∈ [8, 16, 32, 64])
    (hx : x.toNat % vtG st.r.vt = 0) (ha : a.toNat % vtG st.r.vt = 0) (hd : d.toNat % vtG st.r.vt = 0) :
    convoyFault st [] 0 [.ok (intMember viAdd m (.v x.toNat) a d)] = none := by
  have hbad : (intMember viAdd m (.v x.toNat) a d).bad st = false := by
    have hint : intWidth st.r.vt = true := List.contains_iff_mem.mpr hw
    simp [intMember, plainMember, hint, alignedAll, aligned, srcFields, hx, ha, hd]
  exact (if_neg (Nat.not_succ_le_zero 0)).trans (if_neg (Bool.eq_false_iff.mp hbad))

section
variable {f : BitVec 3} {o : BitVec 5} {g : BitVec 3} {n : BitVec 6} {k : BitVec 4} {ws : List FrameWord} {pc : Word}
  (hh : frameHead f o g n k s = .ok (issuedFrame ws pc st1.r f o g n k) s1) (hs1 : strandOf s1 = some st1)
  (hv : st1.r.vstart = 0) (hi : st1.inflight = none)
include hh hs1 hv hi

/-- With a zero trip count nothing is performed. -/
theorem execRepf_idle (ht : (regRead st1.r n.toNat).toNat % 2 ^ 32 = 0) : execRepf f o g n k s =
    .next (putStrand s1 (retired { st1 with r := { st1.r with vstart := 0 } } ((ws.getLast?.elim pc (·.addr)) + 4))) :=
  execRepf_run hh hs1 hi hv (frameLoop_over (issuedFrame_idle ht).le _ _ _) hs1

variable (hg : g = 0) (hc : frameConvoys ws = [ws]) (hne : ws ≠ []) (hstage : ∀ x ∈ ws, stageOf st1.r.rstg x.p = 0)
include hg hc hne hstage

/-- A frame of one convoy and one stage leaves what its replays leave. -/
theorem execRepf_convoy {S : Nat → State} (hS : S 0 = s1)
    (hrun : ∀ i, i < (regRead st1.r n.toNat).toNat % 2 ^ 32 →
      framePerform (issuedFrame ws pc st1.r f o g n k) i ws 0 none (S i) = .ok (S (i + 1)))
    {st' : Strand} (ht : strandOf (S ((regRead st1.r n.toNat).toNat % 2 ^ 32)) = some st') : execRepf f o g n k s =
      .next (putStrand (S ((regRead st1.r n.toNat).toNat % 2 ^ 32))
        (retired { st' with r := { st'.r with vstart := 0 } } ((ws.getLast?.elim pc (·.addr)) + 4))) := by
  have hreplays := issuedFrame_replays (ws := ws) (pc := pc) (r := st1.r) (f := f) (o := o) (n := n) (k := k) hg
  rw [← hreplays] at hrun ht ⊢
  refine execRepf_run hh hs1 hi hv (hS ▸ frameLoop_run hc (fun i hi => ?_) hrun _ _ 0 (Nat.zero_add _) ?_) ht
  · rw [issuedFrame_chosen hstage (hreplays ▸ hi)]
    exact hne
  · exact Nat.lt_succ_of_le (Nat.le_mul_of_pos_right _ (Nat.succ_pos _))

/-- With one replay it performs its convoy once. -/
theorem execRepf_once (htrip : (regRead st1.r n.toNat).toNat % 2 ^ 32 = 1) {ms : List Member}
    (hms : ws.map ((issuedFrame ws pc st1.r f o g n k).member 0) = ms.map .ok)
    (hfault : convoyFault st1 [] 0 (ws.map ((issuedFrame ws pc st1.r f o g n k).member 0)) = none)
    (hp : performConvoy ((ws.map fun x => x.addr.toNat / 4 % 4).zip ms) 0 none s1 = .ok t) {st' : Strand}
    (ht : strandOf t = some st') : execRepf f o g n k s =
      .next (putStrand t (retired { st' with r := { st'.r with vstart := 0 } } ((ws.getLast?.elim pc (·.addr)) + 4))) := by
  have hchosen : (issuedFrame ws pc st1.r f o g n k).chosen 0 ws = ws :=
    issuedFrame_chosen hstage (by rw [htrip]; exact Nat.one_pos)
  have hrun : framePerform (issuedFrame ws pc st1.r f o g n k) 0 ws 0 none s1 = .ok t := by
    refine framePerform_run hs1 ?_ ?_
    · rwa [hchosen]
    · rwa [hchosen, frameMembers_zip hms]
  have hexec := execRepf_convoy hh hs1 hv hi hg hc hne hstage (S := fun i => if i = 0 then s1 else t) (st' := st') rfl
  rw [htrip] at hexec
  refine hexec (fun i hi => ?_) ht
  obtain rfl : i = 0 := Nat.lt_one_iff.mp hi
  exact hrun

end

/-- A frame of one VADD that does not rotate adds once for each replay. -/
theorem execRepf_vadd {f : BitVec 3} {n : BitVec 6} {k : BitVec 4} {y : FrameWord} {pc : Word}
    (hh : frameHead f 0 0 n k s = .ok (issuedFrame [y] pc st1.r f 0 0 n k) s1) (hs1 : strandOf s1 = some st1)
    (hready : VectorReady st1) (hstage : stageOf st1.r.rstg y.p = 0) {m : BitVec 3} {x a d : BitVec 5}
    (hy : encodeWord (.vadd m x a d) = some y.word) (hw : vtWidth st1.r.vt ∈ [8, 16, 32, 64])
    (hx : x.toNat % vtG st1.r.vt = 0) (ha : a.toNat % vtG st1.r.vt = 0) (hd : d.toNat % vtG st1.r.vt = 0) :
    execRepf f 0 0 n k s = .next (putStrand s1
      { vectorDone st1 st1.r.mst (addedBlocks st1 m x a d ((regRead st1.r n.toNat).toNat % 2 ^ 32)) with
        r := { st1.r with pc := y.addr + 4, vstart := 0 } }) := by
  obtain ⟨hl, hv, hi, hn, hf⟩ := hready
  have hzero : ∀ z ∈ [y], stageOf st1.r.rstg z.p = 0 := List.forall_mem_singleton.mpr hstage
  have hmember : ∀ i, (issuedFrame [y] pc st1.r f 0 0 n k).member i y = .ok (intMember viAdd m (.v x.toNat) a d) := fun i => by
    show frameMember (rotateWord f.toNat (i * 0) y.word) _ = _
    rw [Nat.mul_zero, rotateWord_zero, frameMember_vint (major_vadd hy)]
    exact (memberOfWord_vadd hy).2
  have hrun : ∀ i, i < (regRead st1.r n.toNat).toNat % 2 ^ 32 → framePerform (issuedFrame [y] pc st1.r f 0 0 n k) i [y] 0 none
      (addedState s1 st1 m x a d i) = .ok (addedState s1 st1 m x a d (i + 1)) := by
    intro i hi
    have hchosen : (issuedFrame [y] pc st1.r f 0 0 n k).chosen i [y] = [y] := issuedFrame_chosen hzero hi
    have hmembers : [y].map ((issuedFrame [y] pc st1.r f 0 0 n k).member i) =
        [intMember viAdd m (.v x.toNat) a d].map .ok := congrArg (· :: []) (hmember i)
    refine framePerform_run (strandOf_putCells hs1 _) ?_ ?_
    · rw [hchosen, hmembers]
      exact convoyFault_vadd hw hx ha hd
    · rw [hchosen, frameMembers_zip hmembers]
      exact performConvoy_added hl hx ha hd hs1 hn hf _ i
  have hexec := execRepf_convoy hh hs1 hv hi rfl rfl (List.cons_ne_nil y []) hzero (S := addedState s1 st1 m x a d)
    (putStrand_self hs1) hrun (strandOf_putCells hs1 _)
  refine hexec.trans ?_
  rw [addedState, putCells, putStrand_putStrand]
  rfl

/-- The fetch of a frame leaves what its strand has in progress. -/
theorem inflight_fetchFrame (hs : strandOf s = some st) {fuel k p : Nat} {pc : Word} {last : Option Quad} {ws : List FrameWord}
    (hf : fetchFrame fuel k p pc last s = .ok ws s1) (hs1 : strandOf s1 = some st1) : st1.inflight = st.inflight := by
  have hkept := keepsEntry_fetchFrame (i := some st.inflight) fuel k p pc last s (congrArg (Option.map (·.inflight)) hs)
  rw [hf] at hkept
  have h1 : s1.strands[s1.cur]?.map (·.inflight) = some st1.inflight := congrArg (Option.map (·.inflight)) hs1
  exact Option.some.inj (h1.symm.trans hkept)

/-- Settles O32: the words stand at distinct positions, the checks pass, and the replays are those of one convoy. -/
theorem repeatFrameRuns : Obligations.RepeatFrameRuns := by
  unfold Obligations.RepeatFrameRuns
  intro s f o g n k st hs ws s1 st1 hfetch hs1 hne ho hstage hv hi trip past
  have hst : st.inflight = none := (inflight_fetchFrame hs hfetch hs1).symm.trans hi
  obtain ⟨hin, hdistinct⟩ := fetchFrame_positions _ _ _ _ _ _ _ _ hfetch
  have hh := frameHead_run (f := f) (n := n) hs ((frameWords_fetched hs hst _).trans hfetch) hs1 ho hstage hv
  have hzero : g = 0 → ∀ x ∈ ws, stageOf st1.r.rstg x.p = 0 := by
    rintro rfl x hx
    exact Nat.le_zero.mp (hstage x.p (Nat.le_of_lt_succ ((hin x hx).2.trans_eq (Nat.zero_add _))))
  refine ⟨execRepf_idle hh hs1 hv hi, ?once, ?added⟩
  case once =>
    intro htrip hg hc member ms hms hfault t st' hp ht
    have hmembers : ws.map ((issuedFrame ws st.r.pc st1.r f o g n k).member 0) = ws.map member :=
      List.map_congr_left fun x hx => issuedFrame_member hdistinct hx
    rw [← hmembers] at hms hfault
    exact execRepf_once hh hs1 hv hi hg hc hne (hzero hg) htrip hms hfault hp ht
  case added =>
    rintro m x a d y rfl rfl rfl hy hready hwidth hx ha hd w
    have hstage0 := hzero rfl y (List.mem_singleton_self y)
    exact ⟨addedBlocks st1 m x a d, rfl, execRepf_vadd hh hs1 hready hstage0 hy hwidth hx ha hd,
      fun i _ => addedBlocks_written hready.1 hx ha hd i⟩

end Sys2Proof.Laws
